-- ==== Sys2Proof/Word.lean ====
section
/-! DEFINITION. The words of the block: the 32-bit location of MW0 (R3), the 24-bit native word, the 48-bit time. -/

namespace Sys2Proof

/-- One 32-bit location of a memory window (R3): a 24-bit register occupies bits [23:0] of it. -/
abbrev Word := BitVec 32

/-- One byte of the Yard. -/
abbrev Byte := BitVec 8

/-- A time-base value: 48 bits, compared and subtracted modulo 2^48 (R33). -/
abbrev Time := BitVec 48

/-- The native word of 24 bits (R3). -/
abbrev W24 := BitVec 24

end Sys2Proof
end

