-- ==== Sys2Proof/Syntax.lean ====
section
/-! DEFINITION. The commands the block takes: one constructor for every row of the opcode table, with the row's operands.
What a command says is a fact from outside the model (an edge, a reading, an address and a value, a frame); what it
does is decided from the state alone. -/

namespace Sys2Proof

/-- Who reads or writes a register (R36). -/
inductive Requester where
  | pcie | spi | fr | core | dmaR | dmaW | eng (n : Fin 16)
  deriving DecidableEq, Repr

/-- The causes of a cold reset (R242). -/
inductive ColdCause where
  | por | brownoutCore | brownoutIo
  deriving DecidableEq, Repr

/-- The supervised rails (Table 11.2). -/
inductive Rail where
  | vcore | vio | v33 | vgd
  deriving DecidableEq, Repr

/-- The readings taken in the sense phase (R40): rails in mV, VBST, VS and VIN in register units. -/
structure Readings where
  vcore : Nat
  vio   : Nat
  v33   : Nat
  vgd   : Nat
  vbst  : Nat
  vs    : Nat
  vin   : Nat
  deriving DecidableEq, Repr

/-- How a PMBus transaction ends on the bus (R247). -/
inductive PmbResult where
  | ok (data : List Byte) | nack | pecBad
  deriving DecidableEq, Repr

/-- The causes of an engine trap, in order of precedence (Table 7.11). -/
inductive TrapCause where
  | irq | soft | illegal | stack | ecc
  deriving DecidableEq, Repr

/-- The edges of one pulse of the boost converter (R201): BST_G on, off at ILIM or TON_MAX with the voltage at BST_CS in mV,
end of TOFF. -/
inductive BoostEdge where
  | gateOn | gateOff (cs : Nat) | offTimeEnd
  deriving DecidableEq, Repr

/-- A level change at a front end (R54 to R57): its direction, for how many ticks the new level has held, on a sensor pair
the voltage it reached in mV (P − N, or P of type SE_P), and on a VR pair the peak of the positive lobe in units of 10 mV. -/
structure Crossing where
  rising : Bool
  held   : Nat
  mv     : Int
  peak   : Nat
  deriving DecidableEq, Repr

/-- The window comparators' reading of a node in the off-state test (R228). -/
inductive NodeClass where
  | lo | mid | hi
  deriving DecidableEq, Repr

/-- Faults of the valve supply input (R233). -/
inductive VinKind where
  | reversed | reverseCurrent | undervoltage
  deriving DecidableEq, Repr


/-- What the check bits of a stored word show when it is read (Table 1.3). -/
inductive Ecc where
  | clean | single | double
  deriving DecidableEq, Repr

/-- A stage of the boot sequence that completes (Table 18.5): the PLL locks, with the PCI Express reference there or not;
the ROM check; the clearing of the memories; the OTP read; the check of a staged patch. -/
inductive BootStage where
  | pllLock (pcieRef : Bool) | romCheck (ok : Bool) | memoryClear | otpRead (ok : Bool) | patchCheck
  deriving DecidableEq, Repr

/-- The instructions of the test access port (R411). -/
inductive TapInsn where
  | bypass | idcode | sample | extest | clamp
  deriving DecidableEq, Repr

/-- What comes back with a DMA read: a word or words of the device with what their check bits show, a completion from
host memory with its data, or a completion in error (Table 14.4). -/
inductive DmaReturn where
  | own (e : Ecc) | host (data : List Byte) | hostErr
  deriving DecidableEq, Repr

/-- A write of the endpoint's configuration space as far as Table 15.2 gives it an effect on the device. -/
inductive PcieConfig where
  | busMaster (on : Bool) | msix (enable mask : Bool) | pmeEnable (on : Bool)
  | maxPayload (bytes : Nat) | maxRead (bytes : Nat)
  | bar (i : Fin 6) (v : Word) | aspmL1 (on : Bool) | ecrc (generate check : Bool)
  deriving DecidableEq, Repr

/-- The commands (spec/opcode_table.json, one constructor per row). -/
inductive Instr where
  /-- COLD_RESET (R242). -/
  | coldReset (cause : ColdCause) (withPin : Bool)
  /-- RESET_N_LOW (R242). -/
  | resetNLow (lenNs : Nat) (straps : BitVec 5)
  /-- VDD33_GOOD (R240). -/
  | vdd33Good
  /-- SEQ_STEP_DELAY (R240). -/
  | seqStepDelay (straps : BitVec 5)
  /-- SEQ_RAIL_GOOD (R240). -/
  | seqRailGood (rail : Rail)
  /-- SEQ_RAIL_TIMEOUT (R240). -/
  | seqRailTimeout
  /-- SEQ_RETRY (R240). -/
  | seqRetry
  /-- SEQ_OUTPUT_DELAY (R241). -/
  | seqOutputDelay
  /-- RAIL_UNDERVOLTAGE (R238). -/
  | railUndervoltage (rail : Rail)
  /-- RAIL_OVERVOLTAGE (R238). -/
  | railOvervoltage (rail : Rail)
  /-- RAIL_WARNING (R238). -/
  | railWarning (rail : Rail)
  /-- RAIL_WARNING_CLEAR (R238). -/
  | railWarningClear (rail : Rail)
  /-- VGD_RECOVERED (R239). -/
  | vgdRecovered
  /-- XIN_LOST (R21). -/
  | xinLost
  /-- PLL_UNLOCK (R21). -/
  | pllUnlock
  /-- WATCHDOG_EXPIRY (R14). -/
  | watchdogExpiry
  /-- REFCLK_LOST (R313). -/
  | refclkLost
  /-- PFAIL_QUALIFIED (R243). -/
  | pfailQualified (pin : Bool) (vs : BitVec 9) (held : Nat)
  /-- RAMP_STEP (R245). -/
  | rampStep
  /-- PFAIL_CLEARED (R245). -/
  | pfailCleared
  /-- PMB_POLL_DUE (R247). -/
  | pmbPollDue (i : Fin 16)
  /-- PMB_TRANSACTION_DONE (R247). -/
  | pmbTransactionDone (result : PmbResult)
  /-- PMB_CLOCK_TIMEOUT (R247). -/
  | pmbClockTimeout
  /-- PMB_ALERT (R248). -/
  | pmbAlert (low : Bool)
  /-- TIME_BASE_TICK (R33). -/
  | timeBaseTick
  /-- BEAT_BOUNDARY (R43). -/
  | beatBoundary (readings : Readings) (kick : Bool)
  /-- COMPUTE_PHASE_START (R41). -/
  | computePhaseStart
  /-- COMMIT_PREPARATION (R44). -/
  | commitPreparation
  /-- OVERRUN_LIMIT (R48). -/
  | overrunLimit
  /-- PARTICIPANT_DONE (R420). -/
  | participantDone (n : Fin 20)
  /-- HOLD_EXPIRY (R46). -/
  | holdExpiry
  /-- TB_COMMIT_CTL_WRITE (R46). -/
  | tbCommitCtlWrite (r : Requester) (v : Word)
  /-- TB_BEAT_CFG_WRITE (R39). -/
  | tbBeatCfgWrite (r : Requester) (v : Word)
  /-- TB_LO_READ (R35). -/
  | tbLoRead (r : Requester)
  /-- TB_BEAT_READ (R37). -/
  | tbBeatRead (r : Requester)
  /-- SPLIT_COUNTER_READ (R37). -/
  | splitCounterRead (r : Requester) (a : BitVec 24)
  /-- READ_CLEAR_REGISTER (R9). -/
  | readClearRegister (r : Requester) (a : BitVec 24)
  /-- REGISTER_WRITE (R8). -/
  | registerWrite (r : Requester) (a : BitVec 24) (v : Word) (be : BitVec 4)
  /-- DISCIPLINE_LOCKED (R52). -/
  | disciplineLocked
  /-- DISCIPLINE_HOLDOVER (R52). -/
  | disciplineHoldover
  /-- TOOTH_EDGE (R55). -/
  | toothEdge (n : Fin 16) (onB : Bool) (x : Crossing)
  /-- PULSE_TRAILING_EDGE (R58). -/
  | pulseTrailingEdge (n : Fin 16) (x : Crossing)
  /-- INDEX_EDGE (R75). -/
  | indexEdge (n : Fin 16) (x : Crossing)
  /-- INDEX_TRAILING_EDGE (R70). -/
  | indexTrailingEdge (n : Fin 16) (x : Crossing)
  /-- LAW_UPDATE (R85): `bad` are the learning entries whose stored parity has failed by now (R96). -/
  | lawUpdate (n : Fin 16) (bad : List (Fin 1024))
  /-- SSI_SAMPLE_PULL (R60). -/
  | ssiSamplePull (n : Fin 16) (bad : Bool)
  /-- TRACKER_TICK (R86). -/
  | trackerTick
  /-- STOP_TIME_EXPIRY (R78). -/
  | stopTimeExpiry (n : Fin 16)
  /-- ERR_MAX_REACHED (R78). -/
  | errMaxReached (n : Fin 16)
  /-- IDX_ERR_MAX_REACHED (R75). -/
  | idxErrMaxReached (n : Fin 16)
  /-- SEEK_REVS_EXHAUSTED (R78). -/
  | seekRevsExhausted (n : Fin 16)
  /-- VIRT_TETHER_LOST (R98). -/
  | virtTetherLost (n : Fin 16)
  /-- VR_THRESHOLD_HALVING (R56). -/
  | vrThresholdHalving (k : Fin 32)
  /-- SENSOR_WINDOW_SAMPLE (R62). -/
  | sensorWindowSample (k : Fin 32) (vP : Int) (vN : Int)
  /-- TRACKER_STALL (R117). -/
  | trackerStall (n : Fin 16)
  /-- ARMER_SCAN (R106). -/
  | armerScan (found : List (Fin 8192 × Bool))
  /-- SLOT_COMPARE (R111). -/
  | slotCompare
  /-- DURATION_END (R100). -/
  | durationEnd (sh : Fin 16) (slot : Fin 64)
  /-- CAP_END (R100). -/
  | capEnd (sh : Fin 16) (slot : Fin 64)
  /-- PULSE_HIGH (R114). -/
  | evPulseHigh (sh : Fin 16) (slot : Fin 64)
  /-- PULSE_LOW (R114). -/
  | evPulseLow (sh : Fin 16) (slot : Fin 64)
  /-- SET (R114). -/
  | evSet (sh : Fin 16) (slot : Fin 64)
  /-- CLEAR (R114). -/
  | evClear (sh : Fin 16) (slot : Fin 64)
  /-- TOGGLE (R114). -/
  | evToggle (sh : Fin 16) (slot : Fin 64)
  /-- TOGGLE2 (R114). -/
  | evToggle2 (sh : Fin 16) (slot : Fin 64)
  /-- CAPTURE (R140). -/
  | evCapture (sh : Fin 16) (slot : Fin 64)
  /-- GATE (R140). -/
  | evGate (sh : Fin 16) (slot : Fin 64)
  /-- RESTART (R140). -/
  | evRestart (sh : Fin 16) (slot : Fin 64)
  /-- HALT (R140). -/
  | evHalt (sh : Fin 16) (slot : Fin 64)
  /-- DOSE (R212). -/
  | evDose (sh : Fin 16) (slot : Fin 64)
  /-- START (R190). -/
  | evStart (sh : Fin 16) (slot : Fin 64)
  /-- SIGNAL (R186). -/
  | evSignal (sh : Fin 16) (slot : Fin 64)
  /-- SIGNAL2 (R186). -/
  | evSignal2 (sh : Fin 16) (slot : Fin 64)
  /-- STOP (R190). -/
  | evStop (sh : Fin 16) (slot : Fin 64)
  /-- PULSE (R128). -/
  | evPulse (sh : Fin 16) (slot : Fin 64)
  /-- PULSE2 (R128). -/
  | evPulse2 (sh : Fin 16) (slot : Fin 64)
  /-- EVT_TWIN_INJECT_WRITE (R123). -/
  | evtTwinInjectWrite (r : Requester) (v : Word)
  /-- DLL_MEASUREMENT_DONE (R125). -/
  | dllMeasurementDone (cell : Fin 192) (taps : BitVec 7)
  /-- DLL_LINE_SWAP (R125). -/
  | dllLineSwap (cell : Fin 192)
  /-- STALL_STEP (R131). -/
  | stallStep (k : Fin 384)
  /-- STALL_INPUT_EDGE (R134). -/
  | stallInputEdge (k : Fin 384) (x : Crossing)
  /-- STL_CTL_RESTART (R141). -/
  | stlCtlRestart (r : Requester) (k : Fin 384)
  /-- STL_CTL_LOAD (R137). -/
  | stlCtlLoad (r : Requester) (k : Fin 384)
  /-- STL_CTL_SHADOW_CLEAR (R137). -/
  | stlCtlShadowClear (r : Requester) (k : Fin 384)
  /-- STL_PERIOD_WRITE (R138). -/
  | stlPeriodWrite (r : Requester) (k : Fin 384) (which : Fin 3) (v : Word)
  /-- STL_CNT_WRITE (R138). -/
  | stlCntWrite (r : Requester) (k : Fin 384) (v : Word)
  /-- STL_CNT_READ (R143). -/
  | stlCntRead (r : Requester) (k : Fin 384)
  /-- STL_GO (R141). -/
  | stlGo (r : Requester) (sh : Fin 16) (mask : BitVec 24)
  /-- STL_HALT (R141). -/
  | stlHalt (r : Requester) (sh : Fin 16) (mask : BitVec 24)
  /-- ENGINE_PASS_START (R162). -/
  | enginePassStart (n : Fin 16)
  /-- ENGINE_WORD (R158). -/
  | engineWord (n : Fin 16) (mgrBad trgBad : Bool)
  /-- ENGINE_WAIT_END (R159). -/
  | engineWaitEnd (n : Fin 16)
  /-- TRAP (R166). -/
  | trap (n : Fin 16) (cause : TrapCause)
  /-- ENG_CTL_RST (R172). -/
  | engCtlRst (r : Requester) (n : Fin 16) (b : Bool)
  /-- ENG_CTL_PARK (R172). -/
  | engCtlPark (r : Requester) (n : Fin 16) (b : Bool)
  /-- NOP (R182). In an instruction row, `bad`: the fetched word has bad parity (R194). -/
  | rnNop (n : Fin 32) (bad : Bool)
  /-- HALT_INSTRUCTION (R181). -/
  | rnHalt (n : Fin 32) (bad : Bool)
  /-- IRQ (R198). -/
  | rnIrq (n : Fin 32) (bad : Bool)
  /-- REQ (R189). -/
  | rnReq (n : Fin 32) (bad : Bool)
  /-- REQW (R189). -/
  | rnReqw (n : Fin 32) (bad : Bool)
  /-- UNREQ (R189). -/
  | rnUnreq (n : Fin 32) (bad : Bool)
  /-- CLRF (R186). -/
  | rnClrf (n : Fin 32) (bad : Bool)
  /-- NOW (R182). -/
  | rnNow (n : Fin 32) (bad : Bool)
  /-- FINE (R182). -/
  | rnFine (n : Fin 32) (bad : Bool)
  /-- CLRSR (R182). -/
  | rnClrsr (n : Fin 32) (bad : Bool)
  /-- STAMP (R182). -/
  | rnStamp (n : Fin 32) (bad : Bool)
  /-- PIN (R185). -/
  | rnPin (n : Fin 32) (bad : Bool)
  /-- RUNNER_TIMED_EDGE (R185). -/
  | runnerTimedEdge (n : Fin 32)
  /-- ADDT (R182). -/
  | rnAddt (n : Fin 32) (bad : Bool)
  /-- ADDD (R182). -/
  | rnAddd (n : Fin 32) (bad : Bool)
  /-- WAIT (R186). -/
  | rnWait (n : Fin 32) (bad : Bool)
  /-- RUNNER_WAIT_END (R186). -/
  | runnerWaitEnd (n : Fin 32) (level trgBad : Bool)
  /-- JMP (R182). -/
  | rnJmp (n : Fin 32) (level : Bool) (bad : Bool)
  /-- LDL (R182). -/
  | rnLdl (n : Fin 32) (bad : Bool)
  /-- SHIFT (R187). -/
  | rnShift (n : Fin 32) (level : Bool) (bad : Bool)
  /-- SHIFT_BIT (R187). -/
  | shiftBit (n : Fin 32) (level : Bool)
  /-- PUSH (R188). -/
  | rnPush (n : Fin 32) (bad : Bool)
  /-- PULL (R188). -/
  | rnPull (n : Fin 32) (bad trgBad : Bool)
  /-- RUN_GO (R190). -/
  | runGo (r : Requester) (n : Fin 32)
  /-- RUN_CTL_RESTART (R190). -/
  | runCtlRestart (r : Requester) (n : Fin 32)
  /-- RUN_CTL_HALT (R190). -/
  | runCtlHalt (r : Requester) (n : Fin 32)
  /-- RUN_CTL_PARK (R181). -/
  | runCtlPark (r : Requester) (n : Fin 32) (b : Bool)
  /-- RUN_INJECT (R192). -/
  | runInject (r : Requester) (n : Fin 32) (v : Word)
  /-- RUN_FLAGS_WRITE (R186). -/
  | runFlagsWrite (r : Requester) (n : Fin 32) (set : Bool) (v : Word)
  /-- RUN_PROG_WRITE (R193). -/
  | runProgWrite (r : Requester) (n : Fin 32) (i : Fin 128) (v : Word)
  /-- RUNNER_SERVICE_CHECK (R196). -/
  | runnerServiceCheck (bad : List (Fin 32 × Fin 128))
  /-- VALVE_SENSE_RESULT (R205). -/
  | valveSenseResult (n : Fin 32) (code : BitVec 12)
  /-- BOOST_GRACE_EXPIRY (R216). -/
  | boostGraceExpiry (n : Fin 32)
  /-- T_BST_MAX_EXPIRY (R209). -/
  | tBstMaxExpiry (n : Fin 32)
  /-- T_PEAK_EXPIRY (R209). -/
  | tPeakExpiry (n : Fin 32)
  /-- T_MAX_EXPIRY (R209). -/
  | tMaxExpiry (n : Fin 32)
  /-- T_DECAY_MAX_EXPIRY (R209). -/
  | tDecayMaxExpiry (n : Fin 32)
  /-- VLV_DURATION_END (R345). -/
  | vlvDurationEnd (n : Fin 32)
  /-- DEAD_TIME_END (R200). -/
  | deadTimeEnd (b : Fin 8)
  /-- BOOST_CONVERTER_PULSE (R201). -/
  | boostConverterPulse (edge : BoostEdge)
  /-- VBST_THRESHOLD (R202). -/
  | vbstThreshold (code : BitVec 9)
  /-- VALVE_MODEL (R225). -/
  | valveModel
  /-- VLV_UNLOCK (R234). -/
  | vlvUnlock (r : Requester) (n : Fin 32)
  /-- OFF_STATE_TEST_START (R228). -/
  | offStateTestStart (b : Fin 8)
  /-- OFF_STATE_PU_END (R228). -/
  | offStatePuEnd (b : Fin 8) (node : NodeClass) (d0 : NodeClass) (d1 : NodeClass) (d2 : NodeClass) (d3 : NodeClass)
  /-- OFF_STATE_PD_END (R228). -/
  | offStatePdEnd (b : Fin 8) (node : NodeClass) (d0 : NodeClass) (d1 : NodeClass) (d2 : NodeClass) (d3 : NodeClass)
  /-- OVERCURRENT_DETECT (R230). -/
  | overcurrentDetect (n : Fin 32)
  /-- T_OPEN_EXPIRY (R230). -/
  | tOpenExpiry (n : Fin 32)
  /-- FLYBACK_CHECK_END (R230). -/
  | flybackCheckEnd (n : Fin 32) (vdrHigh : Bool)
  /-- OFFSET_CALIBRATION_DONE (R232). -/
  | offsetCalibrationDone (n : Fin 32)
  /-- VIN_QUALIFIED (R233). -/
  | vinQualified (aboveVs : Bool)
  /-- VIN_FAULT (R233). -/
  | vinFault (kind : VinKind)
  /-- LINK_DOWN (R254). -/
  | linkDown (p : Fin 3)
  /-- LINK_SYNC (R254). -/
  | linkSync (p : Fin 3)
  /-- DELAY_REQUEST (R255). -/
  | delayRequest (p : Fin 3) (t1 : BitVec 52)
  /-- DELAY_RESPONSE (R255). -/
  | delayResponse (p : Fin 3) (seq : BitVec 8) (turn : BitVec 24) (t4 : BitVec 52)
  /-- DELAY_REQUEST_RECEIVED (R255). -/
  | delayRequestReceived (p : Fin 3) (seq : BitVec 8) (tIn : BitVec 52) (tOut : BitVec 52)
  /-- FRAME_ORIGINATE (R256). -/
  | frameOriginate (lag : BitVec 16)
  /-- FRAME_RECEIVED (R257). -/
  | frameReceived (p : Fin 2) (f : List Byte) (r : BitVec 52) (so : BitVec 52)
  /-- FRAME_LOST_BEAT (R258). -/
  | frameLostBeat
  /-- ORIGINATION_START (R264). -/
  | originationStart
  /-- RING_VER_RISE (R268). -/
  | ringVerRise
  /-- GATE_COPY_RECEIVED (R267). -/
  | gateCopyReceived (f : List Byte) (r : BitVec 52)
  /-- TTH_CTL_JOIN (R261). -/
  | tthCtlJoin (r : Requester)
  /-- TTH_CTL_EN (R257). -/
  | tthCtlEn (r : Requester) (b : Bool)
  /-- YRD_OWN_WRITE (R273). -/
  | yrdOwnWrite (r : Requester) (p : Fin 8192) (v : Word) (still : Bool)
  /-- YARD_DATA_WRITE (R275). -/
  | yardDataWrite (r : Requester) (off : BitVec 21) (v : Word) (be : BitVec 4)
  /-- SCRUBBER_VISIT (R19). -/
  | scrubberVisit (a : BitVec 24) (e : Ecc)
  /-- TROUGH_PUSH (R280). -/
  | troughPush (r : Requester) (q : Fin 64) (v : Word)
  /-- TROUGH_PULL (R280). -/
  | troughPull (r : Requester) (q : Fin 64) (bad : Bool)
  /-- TROUGH_WAIT_SERVED (R284). -/
  | troughWaitServed (q : Fin 64) (push bad : Bool)
  /-- TROUGH_HOST_WAIT_EXPIRY (R284). -/
  | troughHostWaitExpiry (q : Fin 64) (push : Bool)
  /-- TROUGH_POINTER_CROSSING (R282). -/
  | troughPointerCrossing (q : Fin 64) (rel : Bool)
  /-- TRG_PEEK_READ (R283). -/
  | trgPeekRead (r : Requester) (q : Fin 64) (bad : Bool)
  /-- TRG_REL_WRITE (R280). -/
  | trgRelWrite (r : Requester) (q : Fin 64) (v : Word)
  /-- TRG_CTL_EN (R279). -/
  | trgCtlEn (r : Requester) (q : Fin 64) (b : Bool)
  /-- FLUSH (R285). -/
  | trgFlush (r : Requester) (q : Fin 64)
  /-- MARK (R287). -/
  | trgMark (r : Requester) (q : Fin 64)
  /-- REWIND (R287). -/
  | trgRewind (r : Requester) (q : Fin 64)
  /-- DMA_START (R297). -/
  | dmaStart (r : Requester) (n : Fin 32)
  /-- DMA_STOP (R301). -/
  | dmaStop (r : Requester) (n : Fin 32)
  /-- DMA_DISABLE (R302). -/
  | dmaDisable (r : Requester) (n : Fin 32)
  /-- DESCRIPTOR_FETCHED (R295). -/
  | descriptorFetched (n : Fin 32) (back : DmaReturn)
  /-- BURST_GRANT (R299). -/
  | burstGrant
  /-- DMA_READ_RETURN (R299). -/
  | dmaReadReturn (n : Fin 32) (i : Fin 128) (back : DmaReturn)
  /-- DMA_WRITE (R293). -/
  | dmaWrite (parityBad : Bool) (still : Bool)
  /-- DMA_ACCESS_TIMEOUT (R304). -/
  | dmaAccessTimeout (n : Fin 32)
  /-- DMA_RECORD_WRITE (R307). -/
  | dmaRecordWrite (n : Fin 32)
  /-- DMA_DRAIN_DONE (R302). -/
  | dmaDrainDone (n : Fin 32)
  /-- DMA_CQ_TAIL_WRITE (R308). -/
  | dmaCqTailWrite (r : Requester) (v : Word)
  /-- DMA_CQ_CFG_EN (R308). -/
  | dmaCqCfgEn (r : Requester) (v : Word)
  /-- PCIE_ENDPOINT_RESET (R321). -/
  | pcieEndpointReset (linkDown : Bool)
  /-- PCIE_D_STATE_CHANGE (R320). -/
  | pcieDStateChange (d3hot : Bool)
  /-- SPI_WRITE (R323). -/
  | spiWrite (a : BitVec 24) (ws : List Word) (gap : Nat)
  /-- SPI_WRITE_FIXED (R323). -/
  | spiWriteFixed (a : BitVec 24) (ws : List Word) (gap : Nat)
  /-- SPI_READ (R324). -/
  | spiRead (a : BitVec 24) (count : Nat) (gap : Nat)
  /-- SPI_READ_FIXED (R324). -/
  | spiReadFixed (a : BitVec 24) (count : Nat) (gap : Nat)
  /-- QREAD (R324). -/
  | qread (a : BitVec 24) (count : Nat) (gap : Nat)
  /-- QREAD_FIXED (R324). -/
  | qreadFixed (a : BitVec 24) (count : Nat) (gap : Nat)
  /-- SPI_STATUS (R324). -/
  | spiStatus
  /-- SPI_CS_RISE (R323). -/
  | spiCsRise (partialWord : Bool)
  /-- FR_IMAGE_ACCESS (R327). -/
  | frImageAccess (w : BitVec 12) (write : Bool) (v : BitVec 16)
  /-- FR_ACCESS_TIMEOUT (R326). -/
  | frAccessTimeout (w : BitVec 12) (write : Bool)
  /-- FR_WIN_DATA_LO_READ (R329). -/
  | frWinDataLoRead
  /-- FR_WIN_DATA_LO_WRITE (R329). -/
  | frWinDataLoWrite (v : BitVec 16)
  /-- FR_WIN_DATA_HI_WRITE (R329). -/
  | frWinDataHiWrite (v : BitVec 16)
  /-- FR_WIN_ADDR_WRITE (R329). -/
  | frWinAddrWrite (hi : Bool) (v : BitVec 16)
  /-- FR_WINDOW_COMMAND (R352). -/
  | frWindowCommand (v : BitVec 16)
  /-- MBX_DOORBELL (R338). -/
  | mbxDoorbell (r : Requester) (m : Fin 4) (v : Word)
  /-- MBX_CFG_WRITE (R335). -/
  | mbxCfgWrite (r : Requester) (m : Fin 4) (v : Word)
  /-- MBX_SERVICE_START (R340). -/
  | mbxServiceStart (m : Fin 4)
  /-- MBX_NOT_HANDED (R338). -/
  | mbxNotHanded (m : Fin 4)
  /-- ECHO (R344). -/
  | cmdEcho (src : Fin 4)
  /-- GET_INFO (R344). -/
  | cmdGetInfo (src : Fin 4)
  /-- SET_MODE (R378). -/
  | cmdSetMode (src : Fin 4)
  /-- MODE_TRANSITION (R378). -/
  | modeTransition
  /-- SEAL (R385). -/
  | cmdSeal (src : Fin 4)
  /-- RESET (R346). -/
  | cmdReset (src : Fin 4) (straps : BitVec 5)
  /-- PIN_OWN (R345). -/
  | cmdPinOwn (src : Fin 4)
  /-- SELFTEST (R345). -/
  | cmdSelftest (src : Fin 4) (fail : BitVec 9)
  /-- CALIBRATE (R345). -/
  | cmdCalibrate (src : Fin 4)
  /-- PATCH_LOAD (R387). -/
  | cmdPatchLoad (src : Fin 4) (differs : Bool)
  /-- SLEEP_NOTICE (R357). -/
  | cmdSleepNotice (src : Fin 4)
  /-- WAKE_NOTICE (R358). -/
  | cmdWakeNotice (src : Fin 4)
  /-- WHL_STATUS (R345). -/
  | cmdWhlStatus (src : Fin 4)
  /-- PATTERN_LOAD (R345). -/
  | cmdPatternLoad (src : Fin 4)
  /-- LEARN_SAVE (R345). -/
  | cmdLearnSave (src : Fin 4)
  /-- LEARN_RESTORE (R345). -/
  | cmdLearnRestore (src : Fin 4)
  /-- EVT_WRITE (R345). -/
  | cmdEvtWrite (src : Fin 4)
  /-- EVT_STATUS (R345). -/
  | cmdEvtStatus (src : Fin 4)
  /-- VLV_ON (R345). -/
  | cmdVlvOn (src : Fin 4)
  /-- VLV_OFF (R345). -/
  | cmdVlvOff (src : Fin 4)
  /-- VLV_STATUS (R344). -/
  | cmdVlvStatus (src : Fin 4)
  /-- UCODE_LOAD (R178). -/
  | cmdUcodeLoad (src : Fin 4) (differs : BitVec 16)
  /-- UCODE_INFO (R344). -/
  | cmdUcodeInfo (src : Fin 4)
  /-- RUN_LOAD (R345). -/
  | cmdRunLoad (src : Fin 4)
  /-- TTH_STATUS (R344). -/
  | cmdTthStatus (src : Fin 4)
  /-- TTH_MSG_SEND (R348). -/
  | cmdTthMsgSend (src : Fin 4)
  /-- TTH_MSG_READ (R348). -/
  | cmdTthMsgRead (src : Fin 4)
  /-- YARD_RETURN (R345). -/
  | cmdYardReturn (src : Fin 4)
  /-- PMB_XFER (R345). -/
  | cmdPmbXfer (src : Fin 4)
  /-- LOG_READ (R345). -/
  | cmdLogRead (src : Fin 4) (bad : List (Fin 2048))
  /-- LOG_CLEAR (R396). -/
  | cmdLogClear (src : Fin 4)
  /-- FR_CH_CFG (R351). -/
  | frChCfg (src : Fin 5)
  /-- FR_CH_START (R350). -/
  | frChStart (src : Fin 5)
  /-- FR_CH_STOP (R350). -/
  | frChStop (src : Fin 5)
  /-- FR_CH_READ (R351). -/
  | frChRead (src : Fin 5)
  /-- FR_VALVE (R351). -/
  | frValve (src : Fin 5)
  /-- FR_IRQ_MASK (R351). -/
  | frIrqMask (src : Fin 5)
  /-- MODERATION_TIME_EXPIRY (R356). -/
  | moderationTimeExpiry (c : Fin 6)
  /-- IRQ_SOURCE_EVENT (R364). -/
  | irqSourceEvent (g : Fin 512) (l : Option Bool)
  /-- IRQ_CORE_CLAIM_READ (R367). -/
  | irqCoreClaimRead (r : Requester)
  /-- IRQ_CORE_EOI_WRITE (R368). -/
  | irqCoreEoiWrite (r : Requester) (v : Word)
  /-- IRQ_HOST_EOI_WRITE (R367). -/
  | irqHostEoiWrite (r : Requester) (line : Fin 32) (v : Word)
  /-- IRQ_PEND_SET_WRITE (R365). -/
  | irqPendSetWrite (r : Requester) (w : Fin 32) (v : Word)
  /-- IRQ_PEND_CLR_WRITE (R365). -/
  | irqPendClrWrite (r : Requester) (w : Fin 32) (v : Word)
  /-- IRQ_MASK_SET_WRITE (R365). -/
  | irqMaskSetWrite (r : Requester) (w : Fin 32) (v : Word)
  /-- IRQ_MASK_CLR_WRITE (R365). -/
  | irqMaskClrWrite (r : Requester) (w : Fin 32) (v : Word)
  /-- IRQ_SRC_CFG_WRITE (R370). -/
  | irqSrcCfgWrite (r : Requester) (g : Fin 512) (v : Word)
  /-- IRQ_FALLBACK (R371). -/
  | irqFallback (g : Fin 512)
  /-- BOOT_STEP (R384). -/
  | bootStep (stage : BootStage)
  /-- BOOT_COMPLETE (R384). -/
  | bootComplete (us : BitVec 14)
  /-- LOG_ENTRY_WRITE (R391). -/
  | logEntryWrite
  /-- LOG_SEL_WRITE (R397): `bad` where the selected entry proves bad beyond correction (R395). -/
  | logSelWrite (r : Requester) (v : Word) (bad : Bool)
  /-- TAP_INSTRUCTION (R411). -/
  | tapInstruction (i : TapInsn) (resetLow : Bool) (cells : List Bool)
  /-- XIN_RESTORED (R21). -/
  | xinRestored
  /-- PCIE_REFCLK_RESTORED (R313). -/
  | pcieRefclkRestored
  /-- PCIE_LINK_UP (R334). -/
  | pcieLinkUp (speed : Fin 4) (width : Fin 3)
  /-- PCIE_CONFIG_WRITE (R316). -/
  | pcieConfigWrite (x : PcieConfig)
  /-- PFAIL_WARNING_RELEASED (R243). -/
  | pfailWarningReleased
  /-- VIN_RECOVERED (R233). -/
  | vinRecovered (kind : VinKind)
  /-- HOLTID_MEMORY_ECC (R19). -/
  | holtidMemoryEcc (patchArea : Bool)
  /-- YARD_DATA_READ (R277). -/
  | yardDataRead (r : Requester) (off : BitVec 21) (e : Ecc)
  /-- EVT_SHADOW_READ (R104). -/
  | evtShadowRead (r : Requester) (e : Fin 8192) (w : Fin 4) (ecc : Ecc)
  deriving DecidableEq, Repr

end Sys2Proof
end

