-- ==== Sys2Proof/Decode.lean ====
section
/-! DEFINITION. Words that spell a command. No row of spec/opcode_table.json gives bits: the commands of this block are
facts from outside, not words, so no word spells one. -/

namespace Sys2Proof

/-- The command that a word spells by the table's bits: none, for every word (log entry 9). -/
def decodeTableWord (_nbits _w : Nat) : Option Instr := none

/-- The words of an SPI transaction's data bytes, least significant byte first; a word cut short is none (R322, R323). -/
def spiWords : List Byte → List Word
  | b0 :: b1 :: b2 :: b3 :: rest => (b3 ++ b2 ++ b1 ++ b0) :: spiWords rest
  | _ => []

/-- The command that the bytes of an SPI transaction spell (R322, Table 15.3): the command byte, the address with its most significant byte
first, and a write's data. `count` words follow in a read, and `gap` is the time between words. Any other command byte is
ignored until SPI_CS_N rises, and so spells none. -/
def spiCommand (bytes : List Byte) (count gap : Nat) : Option Instr :=
  match bytes with
  | 0x05 :: _ => some .spiStatus
  | c :: a2 :: a1 :: a0 :: data =>
    let a := a2 ++ a1 ++ a0
    match c.toNat with
    | 0x02 => some (.spiWrite a (spiWords data) gap)
    | 0x42 => some (.spiWriteFixed a (spiWords data) gap)
    | 0x03 => some (.spiRead a count gap)
    | 0x43 => some (.spiReadFixed a count gap)
    | 0xEB => some (.qread a count gap)
    | 0xEC => some (.qreadFixed a count gap)
    | _ => none
  | _ => none

end Sys2Proof
end

