-- ==== Sys2Proof/Config.lean ====
section
/-! DEFINITION. What the spec leaves to the implementation, as constants without a body: a claim about the model holds
whatever they are. Each is named in a log entry. -/

namespace Sys2Proof

/-- The frequency correction after the k-th update of the discipline loop (R51 bounds it, no rule states it), in units of
0.01 ppm, before its bound. Log entry 2. -/
opaque Config.freqCorrection : Nat → BitVec 24

/-- The vendor's public key in the ROM (R177), 32 bytes. Log entry 5. -/
opaque Config.vendorKey : List Nat

/-- The customer's key slot in OTP (R177): none where unprogrammed. Log entry 5. -/
opaque Config.customerKey : Option (List Nat)

/-- SYS_REV.STEPPING and SYS_REV.ROM_ID of the part (Table 1.8: per stepping). Log entry 6. -/
opaque Config.stepping : BitVec 8
opaque Config.romId : BitVec 8

/-- MAJOR, MINOR and PATCH of the firmware in the ROM (Table 1.10: from the image), as SYS_FW_VER[23:0]. Log entry 6. -/
opaque Config.romVersion : BitVec 24

/-- What BYTES and CRC hold where R302 and R306 leave them undefined: the value of the k-th draw. Log entry 4. -/
opaque Config.undefinedWord : Nat → BitVec 32

/-- What the image words of Table 15.6 read whose layout no rule gives: forerunner control and status, interrupt status and mask. Of the
k-th draw, the word's address, what was last written to it, and the pending host lines that back it. Log entry 8. -/
opaque Config.frStatus : Nat → Nat → Nat → Nat → BitVec 16

/-- The low half that a write of FR_WIN_DATA_HI without a held half writes: the value of the k-th draw. Log entry 8. -/
opaque Config.frWord : Nat → BitVec 16

/-- The subsystem IDs programmed in OTP (Table 15.2): none where unprogrammed. Log entry 6. -/
opaque Config.subsystem : Option (BitVec 32)

/-- With ASPM L1 enabled, whether the link is in L1 in a tick (Table 15.2; no rule says when it enters): the value of the k-th draw.
Log entry 125. -/
opaque Config.linkL1 : Nat → Bool

/-- The ticks that the internal read of an SPI word takes, at most 60 (R324): the value of the k-th draw, before its bound. Log entry
161. -/
opaque Config.spiRead : Nat → Nat

/-- The angle (0), the predicted angle (1) and the rate (2) of a geared tracker in a tick in which RATIO_DEN is 0: R97
divides by it and R82 refuses 0 at enable alone. The value of the k-th draw, before its bound. Log entry 12. -/
opaque Config.gearFree : Nat → Fin 3 → BitVec 40

end Sys2Proof
end

