-- ==== Sys2Proof/Machine/Bits.lean ====
section
/-! DEFINITION. Bit fields of words (R2), signed readings of them, saturation (R7), and the checks used on bytes:
CRC-32 of the DMA engine and CRC-32C of the Tether and the mailboxes. -/

namespace Sys2Proof.Machine

/-- A field of a register: the word's address, the field's lowest bit and its length. -/
structure Fld where
  addr : Nat
  lo   : Nat
  len  : Nat
  deriving DecidableEq, Repr

/-- A field of a word as a number (R2). -/
def getBits (w : Word) (lo len : Nat) : Nat := (w.toNat >>> lo) % 2 ^ len

/-- The mask of a field. -/
def maskOf (lo len : Nat) : Word := BitVec.ofNat 32 ((2 ^ len - 1) <<< lo)

/-- A word with one field replaced; the value is truncated to the field's width (R7). -/
def setBits (w : Word) (lo len v : Nat) : Word :=
  (w &&& ~~~ maskOf lo len) ||| BitVec.ofNat 32 ((v % 2 ^ len) <<< lo)

/-- A two's-complement reading of the low `n` bits of a number (R6). -/
def signed (n v : Nat) : Int :=
  if v % 2 ^ n < 2 ^ (n - 1) then (v % 2 ^ n : Nat) else ((v % 2 ^ n : Nat) : Int) - (2 ^ n : Nat)

/-- The low `n` bits of an integer in two's complement (R7: a stored result is truncated). -/
def trunc (n : Nat) (v : Int) : Nat := (v % (2 ^ n : Nat)).toNat

/-- `sat` of R7. -/
def sat (x lo hi : Int) : Int := if x < lo then lo else if hi < x then hi else x

/-- Truncating division of R7 (Lean's `Int.tdiv`). -/
def divT (a b : Int) : Int := Int.tdiv a b

/-- Bit `k` of a number. -/
def bitOf (v k : Nat) : Bool := v.testBit k

/-- A number with bit `k` set. -/
def setBit (v k : Nat) : Nat := v ||| (1 <<< k)

/-- A number with bit `k` cleared. -/
def clrBit (v k : Nat) : Nat := if v.testBit k then v - 1 <<< k else v

/-- A Bool as one bit. -/
def toBit (b : Bool) : Nat := if b then 1 else 0

/-- Positions of the bits set among the low `n` of a number, rising. -/
def bitList (n v : Nat) : List Nat := (List.range n).filter (fun k => v.testBit k)

/-- The ticks from an earlier time to a later one, modulo 2^48 (R33). -/
def since (now t : Time) : Nat := (now - t).toNat

/-- The bytes of a number, the lowest first (R2). -/
def bytesOf : Nat → Nat → List Nat
  | 0, _ => []
  | n + 1, v => v % 256 :: bytesOf n (v / 256)

/-- The number that bytes spell, the lowest first (R2). -/
def ofBytes : List Nat → Nat
  | [] => 0
  | b :: bs => b % 256 + 256 * ofBytes bs

/-- One bit of a reflected CRC. -/
def crcBit (poly c : Nat) : Nat := if c % 2 = 1 then (c >>> 1) ^^^ poly else c >>> 1

/-- One byte of a reflected CRC. -/
def crcByte (poly c b : Nat) : Nat :=
  let x := c ^^^ (b % 256)
  crcBit poly (crcBit poly (crcBit poly (crcBit poly (crcBit poly (crcBit poly (crcBit poly (crcBit poly x)))))))

/-- A reflected CRC carried over bytes. -/
def crcRun (poly c : Nat) : List Nat → Nat
  | [] => c
  | b :: bs => crcRun poly (crcByte poly c b) bs

/-- CRC-32 (reflected polynomial 0xEDB8_8320). -/
def crc32Poly : Nat := 0xEDB88320

/-- CRC-32C (reflected polynomial 0x82F6_3B78). -/
def crc32cPoly : Nat := 0x82F63B78

/-- The finished CRC of bytes: start all ones, complemented at the end. -/
def crcOf (poly : Nat) (bs : List Nat) : Nat := crcRun poly 0xFFFFFFFF bs ^^^ 0xFFFFFFFF

end Sys2Proof.Machine
end

