-- ==== Sys2Proof/Machine/LogCode.lean ====
section
/-! DEFINITION. The trouble codes of Table 19.4 with their numbers and severities (R398, R399): a code not in the table
is never written. -/

namespace Sys2Proof.Machine

/-- A trouble code (R399). -/
inductive LogCode where
  | whlSyncLost | whlLimpEntered | whlGapNotFound | whlIndexLost | whlLimpDisagree | whlPatternChanged
  | whlPatternBad | whlCfgBad | whlTackEcc | whlRateSat | whlReverse | whlLearnParity | whlQuadWiring
  | whlSsiPoison | whlTetherAngleLost | whlTetherCMismatch | whlSnsOpen | whlSnsShortGnd | whlSnsShortSup
  | whlSnsReversed | evtTwinMismatch | evtEccDouble | evtEntryBad | evtTargetRefused | evtSlotOverflow
  | evtDropped | evtPinCollision | evtDllCalFail | vlvConflict | vlvProfileBad | vlvBankCfg | vlvBoostTimeout
  | vlvDecayTimeout | vlvTackEcc | vlvCoilTackBad | vlvCoilHot | vlvCoilOvertemp | vlvOpenOn | vlvOpenOff
  | vlvShortGndOn | vlvShortGndOff | vlvShortSupOn | vlvShortSupOff | vlvBankShortGnd | vlvBankShortSup
  | vlvDiagLeak | vlvOfsBad | vlvVbstLow | vlvBstOvervolt | vlvVsReversed | pwrPfail | pwrRampDone | pwrRampBad
  | pwrPfailCleared | pwrRailWarn | pwrRailOv | pwrVgdLow | pwrSeqFail | pwrPmbFail | pwrPmbAlert
  | tthNeighbourLost | tthRingClosed | tthPathLong | tthVersionMismatch | tthIdConflict | tthBeatMismatch
  | tthAngConflict | tthMasterYield | tthMasterConflict | tthGateLost | tthRingVerFell | tthTimeHoldover
  | tthTimeFar | tthMsgLost | dmaDescBad | dmaLoop | dmaBusTimeout | dmaHostErr | dmaParity | dmaTrgDir
  | dmaCqFault | trgCfgBad | trgParity | trgOverflow | yrdEcc | yrdAccessViolation | shdUcodeEcc
  | shdEngIllegal | shdEngStack | shdEngHalted | shdEngTwinMismatch | shdStallTwinMismatch | shdEngPassSkipped
  | shdMangerParity | shdUcodeLoadFail | runParity | runIllegal | runPinRefused | hstLinkDown | hstRefclkLost
  | hstWriteRefused | hstPartialWrite | hstFrTimeout | hstMbxHeader | hstMbxDbErr | hstMbxNotHanded | sysReset
  | sysWatchdog | sysClkFallback | sysPllUnlock | sysMemEcc | sysBeatOverrun | sysBeatOverrunLimit
  | sysCommitHoldExpired | sysIrqFallback | sysModeSafe | sysModeLimp | sysModeRunRestored | sysOtpBad
  | sysPatchReject | sysLogCleared | sysLogLost
  deriving DecidableEq, Repr

/-- The number of a code (Table 19.4). -/
def LogCode.num : LogCode → Nat
  | .whlSyncLost => 0x1001
  | .whlLimpEntered => 0x1002
  | .whlGapNotFound => 0x1003
  | .whlIndexLost => 0x1004
  | .whlLimpDisagree => 0x1005
  | .whlPatternChanged => 0x1006
  | .whlPatternBad => 0x1007
  | .whlCfgBad => 0x1008
  | .whlTackEcc => 0x1009
  | .whlRateSat => 0x100A
  | .whlReverse => 0x100B
  | .whlLearnParity => 0x100C
  | .whlQuadWiring => 0x100D
  | .whlSsiPoison => 0x100E
  | .whlTetherAngleLost => 0x100F
  | .whlTetherCMismatch => 0x1010
  | .whlSnsOpen => 0x1101
  | .whlSnsShortGnd => 0x1102
  | .whlSnsShortSup => 0x1103
  | .whlSnsReversed => 0x1104
  | .evtTwinMismatch => 0x2001
  | .evtEccDouble => 0x2002
  | .evtEntryBad => 0x2003
  | .evtTargetRefused => 0x2004
  | .evtSlotOverflow => 0x2005
  | .evtDropped => 0x2006
  | .evtPinCollision => 0x2007
  | .evtDllCalFail => 0x2008
  | .vlvConflict => 0x3001
  | .vlvProfileBad => 0x3002
  | .vlvBankCfg => 0x3003
  | .vlvBoostTimeout => 0x3004
  | .vlvDecayTimeout => 0x3005
  | .vlvTackEcc => 0x3006
  | .vlvCoilTackBad => 0x3007
  | .vlvCoilHot => 0x3008
  | .vlvCoilOvertemp => 0x3009
  | .vlvOpenOn => 0x300A
  | .vlvOpenOff => 0x300B
  | .vlvShortGndOn => 0x300C
  | .vlvShortGndOff => 0x300D
  | .vlvShortSupOn => 0x300E
  | .vlvShortSupOff => 0x300F
  | .vlvBankShortGnd => 0x3010
  | .vlvBankShortSup => 0x3011
  | .vlvDiagLeak => 0x3012
  | .vlvOfsBad => 0x3013
  | .vlvVbstLow => 0x3101
  | .vlvBstOvervolt => 0x3102
  | .vlvVsReversed => 0x3103
  | .pwrPfail => 0x4001
  | .pwrRampDone => 0x4002
  | .pwrRampBad => 0x4003
  | .pwrPfailCleared => 0x4004
  | .pwrRailWarn => 0x4005
  | .pwrRailOv => 0x4006
  | .pwrVgdLow => 0x4007
  | .pwrSeqFail => 0x4008
  | .pwrPmbFail => 0x4009
  | .pwrPmbAlert => 0x400A
  | .tthNeighbourLost => 0x5001
  | .tthRingClosed => 0x5002
  | .tthPathLong => 0x5003
  | .tthVersionMismatch => 0x5004
  | .tthIdConflict => 0x5005
  | .tthBeatMismatch => 0x5006
  | .tthAngConflict => 0x5007
  | .tthMasterYield => 0x5008
  | .tthMasterConflict => 0x5009
  | .tthGateLost => 0x500A
  | .tthRingVerFell => 0x500B
  | .tthTimeHoldover => 0x500C
  | .tthTimeFar => 0x500D
  | .tthMsgLost => 0x500E
  | .dmaDescBad => 0x6001
  | .dmaLoop => 0x6002
  | .dmaBusTimeout => 0x6003
  | .dmaHostErr => 0x6004
  | .dmaParity => 0x6005
  | .dmaTrgDir => 0x6006
  | .dmaCqFault => 0x6007
  | .trgCfgBad => 0x6101
  | .trgParity => 0x6102
  | .trgOverflow => 0x6103
  | .yrdEcc => 0x6201
  | .yrdAccessViolation => 0x6202
  | .shdUcodeEcc => 0x7001
  | .shdEngIllegal => 0x7002
  | .shdEngStack => 0x7003
  | .shdEngHalted => 0x7004
  | .shdEngTwinMismatch => 0x7005
  | .shdStallTwinMismatch => 0x7006
  | .shdEngPassSkipped => 0x7007
  | .shdMangerParity => 0x7008
  | .shdUcodeLoadFail => 0x7009
  | .runParity => 0x7101
  | .runIllegal => 0x7102
  | .runPinRefused => 0x7103
  | .hstLinkDown => 0x8001
  | .hstRefclkLost => 0x8002
  | .hstWriteRefused => 0x8003
  | .hstPartialWrite => 0x8004
  | .hstFrTimeout => 0x8005
  | .hstMbxHeader => 0x8101
  | .hstMbxDbErr => 0x8102
  | .hstMbxNotHanded => 0x8103
  | .sysReset => 0x9001
  | .sysWatchdog => 0x9002
  | .sysClkFallback => 0x9003
  | .sysPllUnlock => 0x9004
  | .sysMemEcc => 0x9005
  | .sysBeatOverrun => 0x9006
  | .sysBeatOverrunLimit => 0x9007
  | .sysCommitHoldExpired => 0x9008
  | .sysIrqFallback => 0x9009
  | .sysModeSafe => 0x900A
  | .sysModeLimp => 0x900B
  | .sysModeRunRestored => 0x900C
  | .sysOtpBad => 0x900D
  | .sysPatchReject => 0x900E
  | .sysLogCleared => 0x900F
  | .sysLogLost => 0x9010

/-- The severity of a code: 0 I, 1 W, 2 F, 3 C (Tables 19.2 and 19.4). -/
def LogCode.sev : LogCode → Nat
  | .whlPatternChanged | .whlReverse | .pwrPfailCleared | .tthRingClosed | .tthMasterYield | .sysReset
    | .sysModeRunRestored | .sysLogCleared => 0
  | .whlLimpEntered | .whlIndexLost | .whlLimpDisagree | .whlRateSat | .whlLearnParity | .whlQuadWiring
    | .whlSsiPoison | .whlSnsReversed | .evtEntryBad | .evtTargetRefused | .evtPinCollision | .evtDllCalFail
    | .vlvProfileBad | .vlvBankCfg | .vlvBoostTimeout | .vlvDecayTimeout | .vlvCoilHot | .vlvDiagLeak
    | .vlvOfsBad | .vlvVbstLow | .pwrRailWarn | .pwrPmbFail | .pwrPmbAlert | .tthPathLong | .tthAngConflict
    | .tthMasterConflict | .tthRingVerFell | .tthTimeHoldover | .tthMsgLost | .trgCfgBad | .trgParity
    | .trgOverflow | .yrdAccessViolation | .shdEngPassSkipped | .shdMangerParity | .runPinRefused
    | .hstWriteRefused | .hstPartialWrite | .hstFrTimeout | .hstMbxHeader | .hstMbxDbErr | .hstMbxNotHanded
    | .sysBeatOverrun | .sysCommitHoldExpired | .sysIrqFallback | .sysLogLost => 1
  | .whlSyncLost | .whlGapNotFound | .whlPatternBad | .whlCfgBad | .whlTackEcc | .whlTetherAngleLost
    | .whlTetherCMismatch | .whlSnsOpen | .whlSnsShortGnd | .whlSnsShortSup | .evtEccDouble | .evtSlotOverflow
    | .evtDropped | .vlvConflict | .vlvTackEcc | .vlvCoilTackBad | .vlvCoilOvertemp | .vlvOpenOn | .vlvOpenOff
    | .vlvShortGndOff | .vlvShortSupOn | .vlvShortSupOff | .vlvBstOvervolt | .pwrRampBad | .tthNeighbourLost
    | .tthVersionMismatch | .tthIdConflict | .tthBeatMismatch | .tthGateLost | .tthTimeFar | .dmaDescBad
    | .dmaLoop | .dmaBusTimeout | .dmaHostErr | .dmaParity | .dmaTrgDir | .dmaCqFault | .yrdEcc | .shdEngIllegal
    | .shdEngStack | .shdUcodeLoadFail | .runParity | .runIllegal | .hstLinkDown | .hstRefclkLost | .sysModeLimp
    | .sysOtpBad | .sysPatchReject => 2
  | .evtTwinMismatch | .vlvShortGndOn | .vlvBankShortGnd | .vlvBankShortSup | .vlvVsReversed | .pwrPfail
    | .pwrRampDone | .pwrRailOv | .pwrVgdLow | .pwrSeqFail | .shdUcodeEcc | .shdEngHalted | .shdEngTwinMismatch
    | .shdStallTwinMismatch | .sysWatchdog | .sysClkFallback | .sysPllUnlock | .sysMemEcc | .sysBeatOverrunLimit
    | .sysModeSafe => 3

end Sys2Proof.Machine
end

