-- ==== Sys2Proof/Machine/Parts.lean ====
section
/-! DEFINITION. The state of each block beyond its registers' words: plain data, one structure per repeated unit. The
words of the registers themselves stand in `State.regs`. A field's comment names the rule that gives the machine that
piece of state. -/

namespace Sys2Proof.Machine

open Sys2Proof

/-! ### Time base and beat (R33 to R53) -/

/-- A compute participant (R41, R420): whether it has work in hand, the boundary that opened the beat of that work and
that beat's length in ticks, and the same of the beat whose work still waits behind it. -/
structure Part where
  busy   : Bool := false
  opened : Time := 0
  period : Nat := 0
  queued : Option (Time × Nat) := none
  deriving DecidableEq, Repr

/-- The time base, the beat and its bookkeeping. -/
structure TimeSt where
  /-- The 48-bit counter (R33). -/
  now : Time := 0
  /-- The counter runs: from the first PLL lock after a reset until R21 stops it. -/
  running : Bool := false
  /-- The beat phase counter, 0 to P − 1 (R38). -/
  phase : Nat := 0
  /-- The 24-bit beat number. -/
  beat : BitVec 24 := 0
  /-- The beat period in force, in µs (R39: an accepted value takes effect at the next boundary). -/
  periodUs : Nat := 16
  /-- The time-base value of this beat's boundary. -/
  t0 : Time := 0
  /-- The phase has wrapped and the boundary's actions have not run. -/
  due : Bool := false
  /-- Tick 200 of this beat has acted. -/
  started : Bool := false
  /-- Tick P − 128 of this beat has acted. -/
  prepared : Bool := false
  /-- The participants that the overrun test of this beat found late, one bit each; 0 where none was (R47). -/
  late : Nat := 0
  /-- Consecutive boundaries skipped by HOLD (R46). -/
  holdRun : Nat := 0
  /-- Consecutive overrun boundaries (R48). -/
  ovrRun : Nat := 0
  /-- Consecutive commit occasions without a kick of the watchdog (R14). -/
  missed : Nat := 0
  /-- Consecutive beats with an offset of at most 2 ns (R52). -/
  discGood : Nat := 0
  /-- Consecutive beats without time data (R52). -/
  discNone : Nat := 0
  /-- Time data came in this beat. -/
  discData : Bool := false
  /-- The twin pairs activated in this tick, one bit each: their comparison starts in the next (R29). -/
  twinNew : Nat := 0
  /-- Ticks for which the core's clock has run while the time base stood (R21, R375). -/
  stood : Time := 0
  /-- The last load of the time base (R50): the value it gave, and by how much it moved. -/
  moved : Option (Time × Time) := none
  deriving DecidableEq, Repr

/-! ### Trackers and sensor pairs (R54 to R98) -/

/-- The seven tracker states, in the encoding of STAT.STATE (Table 3.11). -/
inductive TState where
  | off | acquire | gapSeek | sync | limp | lost | stopped
  deriving DecidableEq, Repr

/-- The encoding of STAT.STATE. -/
def TState.code : TState → Nat
  | .off => 0 | .acquire => 1 | .gapSeek => 2 | .sync => 3 | .limp => 4 | .lost => 5 | .stopped => 6

/-- A candidate of recognition: the entry the newest edge would be, and the edges confirmed (R73, R76). -/
structure Cand where
  entry : Nat
  count : Nat
  deriving DecidableEq, Repr

/-- What an accepted edge came from. -/
inductive EdgeKind where
  | tooth | index | ssi
  deriving DecidableEq, Repr

/-- An accepted edge that waits for its update tick (R84). -/
structure EdgeUpd where
  kind   : EdgeKind
  /-- The update tick u. -/
  due    : Time
  /-- The stamp t_e. -/
  stamp  : Time
  /-- Ticks since the previous accepted edge of the same input; none for the first. -/
  period : Option Nat
  /-- The period before that one. -/
  before : Option Nat
  /-- Direction in which the edge is processed. -/
  fwd    : Bool
  /-- Late under the NW_HI test of R70. -/
  late   : Bool
  /-- The mark of the tooth that began at the previous edge, if it ended in time (R72). -/
  mprev  : Option Nat
  /-- Index edges: the integer estimate of the stamp's tick, within the cycle; SSI: the angle in the revolution. -/
  angle  : Nat
  /-- QUAD Z edges: the quadrant 2 × B + A (R59). -/
  quad   : Nat
  /-- The tooth edge was overdue when this index edge came (Table 3.5). -/
  overdue : Bool
  /-- Outside the acquisition window: not used for index recognition (R71, R76). -/
  noise  : Bool
  deriving DecidableEq, Repr

/-- An index edge of R75 whose verdict waits for the mark of its tooth. -/
structure IdxCheck where
  stamp  : Time
  angle  : Nat
  estAt  : Nat
  deriving DecidableEq, Repr

/-- A tracker: recognition, law and estimate. -/
structure Tracker where
  st : TState := .off
  /-- Levels of the A and B inputs as last delivered. -/
  lvA : Bool := false
  lvB : Bool := false
  idxSync : Bool := false
  dir : Bool := false
  patternBad : Bool := false
  quadWiring : Bool := false
  zBad : Nat := 0
  zGood : Nat := 0
  periods : Nat := 0
  err : Nat := 0
  idxErr : Nat := 0
  stopFrom : Bool := false
  pos : Nat := 0
  rev : Nat := 0
  idxPos : Nat := 0
  /-- The tooth position is found and awaits the index (R73, R75). -/
  found : Bool := false
  /-- INDEX method: an index edge waits for its tooth edge (R74). -/
  awaitTooth : Bool := false
  /-- INDEX method: accepted edges since the index placed the position. -/
  confirmed : Nat := 0
  /-- INDEX method: the position has been placed by the index. -/
  idxPlaced : Bool := false
  /-- A tooth edge has been accepted since reset (R55). -/
  seen : Bool := false
  /-- The stamp of the last edge applied at its update tick, and its period. -/
  applied : Time := 0
  appliedPer : Nat := 0
  /-- The direction of the last accepted edge in STOPPED (R59, R78). -/
  wasFwd : Bool := true
  /-- From when STOP_TIME counts: the last accepted tooth edge, or the entry to ACQUIRE. -/
  stopBase : Time := 0
  /-- LIMP: the mark of the last index tooth awaits its trailing edge (R70). -/
  idxJudge : Bool := false
  /-- Last accepted tooth edge and period (EDGE, PER). -/
  edge : Time := 0
  haveEdge : Bool := false
  per : Nat := 0
  havePer : Bool := false
  /-- The mark of the tooth that began at the last accepted edge. -/
  mark : Option Nat := none
  cands : List Cand := []
  /-- Accepted edges since GAP_SEEK was entered. -/
  seekEdges : Nat := 0
  /-- Index recognition (R76). -/
  idxEdge : Time := 0
  haveIdx : Bool := false
  idxPer : Nat := 0
  idxPeriods : Nat := 0
  idxMark : Option Nat := none
  /-- The same mark in counts (R70, R75). -/
  idxMarkC : Option Nat := none
  idxEst : Nat := 0
  idxCands : List Cand := []
  idxRecog : Bool := false
  idxChk : Option IdxCheck := none
  /-- The last active index edge, noise included, and whether it was noise for the recognition (R75, R76). -/
  idxLast : Time := 0
  idxNoise : Bool := false
  /-- An index error has been counted since IDX_ERR_MAX was last judged (R74, R75). -/
  idxDue : Bool := false
  /-- LIMP: the index entry expected next (R70, R90), and whether the last index tooth's mark is judged. -/
  idxNext : Nat := 0
  /-- LIMP: the background search has passed its ACQUIRE part (R77). -/
  bgSeek : Bool := false
  /-- The law (R85): all Nat, in raw units of 1/65,536 count. -/
  lawOn : Bool := false
  lam : Nat := 0
  q : Nat := 0
  rem : Nat := 0
  den : Nat := 1
  acc : Nat := 0
  h : Nat := 0
  run : Nat := 0
  gone : Nat := 0
  elTicks : Nat := 0
  /-- The law was replaced in this tick and the tick has not run. -/
  freshLaw : Bool := false
  /-- The estimate (R86) and what the angle bus carries (Table 4.1). -/
  a : Nat := 0
  pred : Nat := 0
  pred0 : Nat := 0
  /-- The estimate of the last tick. -/
  aLast : Nat := 0
  stepA : Nat := 0
  jumpFrom : Nat := 0
  halted : Bool := false
  hold : Bool := false
  catching : Bool := false
  jumped : Bool := false
  newLaw : Bool := false
  rateSat : Bool := false
  /-- Forward edges since reverse rotation ended, while the law is not yet back (R92). -/
  turning : Bool := false
  /-- Accepted edges that wait for their update tick. -/
  upds : List EdgeUpd := []
  /-- The last estimates, newest first, as long as the index filter needs them (R75). -/
  hist : List Nat := []
  /-- Learning: the last consecutive forward edges, newest first: entry, revolution, stamp (R95). -/
  learn : List (Nat × Nat × Time) := []
  learned : List Nat := []
  /-- The learning entries that the commit of a tick wrote or cleared, and that tick (R93). -/
  kept : List Nat := []
  keptAt : Time := 0
  /-- VIRT_GEAR: the phase is set, and the remainder (R97). -/
  geared : Bool := false
  accg : Int := 0
  gearPrev : Nat := 0
  /-- VIRT_TETHER: consecutive beats with and without a valid sample (R61, R98). -/
  tthGood : Nat := 0
  tthNone : Nat := 0
  tthSeen : Bool := false
  tthBadC : Bool := false
  /-- SSI: the last sample's angle in the revolution and its cycle angle, and its stamp. -/
  ssiSeen : Bool := false
  ssiAng : Nat := 0
  ssiCyc : Nat := 0
  ssiDth : Nat := 0
  /-- PULSE_WIDTH: direction of the previous pulse (true reverse), and the leading edge in hand. -/
  pulseRev : Bool := false
  lead : Option Time := none
  /-- The tracker's state before and after the leading edge in hand was applied. -/
  leadSt : Option (TState × TState) := none
  /-- When that was, and what it left of the index error count and IDX_SYNC (R58, R74). -/
  leadAt : Time := 0
  leadErr : Nat := 0
  leadSync : Bool := false
  /-- The correction that it learned: entry, value before, value after (R58, R95). -/
  leadCorr : Option (Nat × Nat × Nat) := none
  deriving DecidableEq, Repr

/-- The window monitor's verdict on one sample (Table 3.2, tested in the order of the table). -/
inductive SnsClass where
  | none | shortSup | shortGnd | open
  deriving DecidableEq, Repr

/-- A sensor pair's monitor: runs of samples and teeth, and the VR threshold (R56, R62, R63). -/
structure Sensor where
  supRun : Nat := 0
  gndRun : Nat := 0
  openRun : Nat := 0
  supOff : Nat := 0
  gndOff : Nat := 0
  openOff : Nat := 0
  revTeeth : Nat := 0
  okTeeth : Nat := 0
  havePeak : Bool := false
  /-- Halvings of the arming threshold since the last edge. -/
  halvings : Nat := 0
  /-- The pair's last tooth, and its mark once its opposite crossing has come (R57, R63). -/
  edge : Time := 0
  haveEdge : Bool := false
  mark : Option Nat := none
  /-- The comparator's level. -/
  level : Bool := false
  deriving DecidableEq, Repr

/-- The sense-phase snapshot of one tracker (R40). -/
structure Snap where
  a : Nat := 0
  q : Nat := 0
  st : TState := .off
  arm : Bool := false
  dir : Bool := false
  halted : Bool := false
  deriving DecidableEq, Repr

/-! ### Events (R99 to R128) -/

/-- A moment of the output side in fine steps: the 48-bit tick and 5 bits below it (R4). -/
abbrev Fine := BitVec 53

/-- The fields of an event entry (Table 5.1). -/
structure EvEntry where
  start : Nat := 0
  trk : Nat := 0
  home : Nat := 0
  endDur : Nat := 0
  form : Bool := false
  scale : Bool := false
  action : Nat := 0
  en : Bool := false
  maxDur : Nat := 0
  fine : Nat := 0
  tgtType : Nat := 0
  oneShot : Bool := false
  target : Nat := 0
  param : Nat := 0
  rep : Bool := false
  lateOk : Bool := false
  endOnStall : Bool := false
  reverseEnd : Bool := false
  deriving DecidableEq, Repr

/-- What the device keeps of an entry beside its words: spent (R102), examined since its commit (R106), counted as
bad (R103), found with a double-bit error (R104). -/
structure EntrySt where
  spent : Bool := false
  examined : Bool := false
  badSeen : Bool := false
  ecc : Bool := false
  deriving DecidableEq, Repr

/-- The armer's and the slots' state for one tracker (R106, R111, R117, R120). -/
structure TrkEv where
  fPrev : Nat := 0
  /-- The front the last scan reached; none where its tracker was not scanned. -/
  fNow : Option Nat := none
  /-- The front is to be set afresh at the first armed scan. -/
  afresh : Bool := true
  /-- The snapshot of the scan whose loads an overrun has discarded, from which its fresh points are due again (R108). -/
  from_ : Option Nat := none
  /-- Waiting for the re-arm angle. -/
  waiting : Bool := false
  aRev : Nat := 0
  aRevSet : Bool := false
  /-- The skip span of R120 is in force. -/
  skipping : Bool := false
  /-- PRED of the last tick in which ARM was set, for the return from STOPPED. -/
  predStop : Nat := 0
  /-- The tracker has come back from STOPPED and its first tick of ARM has not been compared. -/
  restart : Bool := false
  /-- Consecutive ticks with HALTED set. -/
  haltTicks : Nat := 0
  stalled : Bool := false
  deriving DecidableEq, Repr

/-- An arming point: entry, revolution offset r, start angle (R102, R106). -/
structure Point where
  entry : Nat
  rev : Nat
  start : Nat
  /-- Staged by the first scan that examined its entry (R106). -/
  fresh : Bool := false
  deriving DecidableEq, Repr

/-- The states of an instance (Table 5.0). A released slot is over: it holds no instance, and is FREE from the next
boundary (R109, Table 5.4); until then STATE shows what it showed. -/
inductive SlotSt where
  | free | armed | active | over (shown : Nat)
  deriving DecidableEq, Repr

/-- Does a slot in this state hold an instance? -/
def SlotSt.holds : SlotSt → Bool
  | .armed | .active => true
  | _ => false

/-- STATE of Table 5.8. -/
def SlotSt.code : SlotSt → Nat
  | .free => 0 | .armed => 1 | .active => 2 | .over n => n

/-- The state after the slot is released. -/
def SlotSt.released : SlotSt → SlotSt
  | .free => .free | .armed => .over 1 | .active => .over 2 | .over n => .over n

/-- A comparator slot (R108 to R112). -/
structure Slot where
  st : SlotSt := .free
  entry : Nat := 0
  late : Bool := false
  rev : Nat := 0
  forced : Bool := false
  ev : EvEntry := {}
  start : Nat := 0
  endAng : Nat := 0
  fire : Time := 0
  startAt : Fine := 0
  /-- The placed end, if one is placed. -/
  endAt : Option Fine := none
  deriving DecidableEq, Repr

/-- A placed action on its way to its target: of which shed and slot, at which time, start or end. -/
structure Act where
  sh : Nat
  slot : Nat
  at_ : Fine
  isEnd : Bool
  ev : EvEntry
  entry : Nat
  deriving DecidableEq, Repr

/-- A delay line (R125, R126). -/
structure Line where
  taps : Nat := 0
  ok : Bool := false
  failed : Bool := false
  deriving DecidableEq, Repr

/-- A pin cell, or a valve gate's pair of delay lines (R114, R124 to R126). -/
structure Pin where
  /-- The level before the edges below. -/
  level : Bool := false
  /-- The last edges at the ball, newest first, each with the level it leads to (R114). -/
  edges : List (Fine × Bool) := []
  /-- The cell drives STATIC_LVL: its owner has not acted yet (R124). -/
  static : Bool := true
  /-- The cell is held at its safe state by the mode or a block's reaction. -/
  safe : Bool := true
  /-- The mismatches that hold the cell at its safe level (R26, R145): shed and slot, or shed and 64 + stall. -/
  forcedBy : List (Nat × Nat) := []
  /-- The tick of the last action, and the level it asked for (R114). -/
  actTick : Option Time := none
  actWant : Bool := false
  /-- The tap that the last edge used (R125). -/
  tap : Nat := 0
  /-- The level at the ball that comes from outside, as last delivered (R54). -/
  ext : Bool := false
  line : Bool := false
  a : Line := {}
  b : Line := {}
  /-- The swap that made the idle line idle, or the reset. -/
  swapAt : Time := 0
  /-- The idle line has completed its measurement since the swap. -/
  measured : Bool := false
  /-- Measurements completed since reset, up to 2. -/
  count : Nat := 0
  /-- Each line has completed a measurement since the last CALIBRATE (R345). -/
  calA : Bool := false
  calB : Bool := false
  deriving DecidableEq, Repr

/-- Held at its safe level by a twin mismatch (R26, R145). -/
def Pin.forced (x : Pin) : Bool := !x.forcedBy.isEmpty

/-- An edge that a stall or a runner has issued and that has not reached the ball (R136, R184). -/
structure PinEdge where
  pin : Nat
  at_ : Fine
  level : Bool
  deriving DecidableEq, Repr

/-! ### Stalls (R129 to R146): beside the registers' words -/

structure Stall where
  /-- When the prescaler's phase was 0 (R129). -/
  ref : Time := 0
  /-- The ticks spent in IDLE when the prescaler's phase was 0: the phase stands still in IDLE (R146). -/
  refIdle : Nat := 0
  /-- The first cycle after a restart runs (R132). -/
  first : Bool := false
  /-- Counts of the last ticks, newest first, each with the tick that replaced it: a capture names the tick of a stamp
  (R134). -/
  past : List (Time × Nat) := []
  /-- The flags that a tick has set, and that tick: a clear in the same tick leaves them set (R9, R139). -/
  setAt : Time := 0
  setBits : Nat := 0
  deriving DecidableEq, Repr

/-! ### Interrupts and log (R361 to R397) -/

/-- Where a source is in service. -/
inductive InSvc where
  | no | core | engine (n : Nat)
  deriving DecidableEq, Repr

/-- One interrupt source (R364 to R368). -/
structure Irq where
  edge : Bool := false
  sw : Bool := false
  /-- The level of a level line as its block drives it. -/
  raw : Bool := false
  /-- A pulse line is held high: the tick of its pulse on the controller's clock (R362). -/
  line : Option Time := none
  masked : Bool := true
  svc : InSvc := .no
  /-- Fallen back to the core until the core claims it or its pending clears (R371). -/
  fell : Bool := false
  /-- The engine of the pool that the source is presented to (R369). -/
  pool : Option Nat := none
  /-- Since when the source has been pending, unmasked, out of service and undeliverable (R371). -/
  undel : Option Time := none
  /-- SENSE before a write, in force to the end of the SYSCLK cycle of the write, and the tick of the write (R364). -/
  wasSense : Option (Nat × Time) := none
  deriving DecidableEq, Repr

/-- A report in the logger's queue (R391). -/
structure Report where
  time : Time
  beat : Nat
  code : LogCode
  source : Nat
  detail : Nat
  deriving DecidableEq, Repr

/-! ### Troughs and the Yard (R271 to R288) -/

/-- A word of the trough pool: its data, its poison tag, and whether its stored parity is bad (R283). -/
structure TrgWord where
  data : BitVec 24 := 0
  poison : Bool := false
  bad : Bool := false
  deriving DecidableEq, Repr

/-- A trough's pointers (R280), the copies that have crossed to the other clock domain, and the words of a release
still to go (R282). -/
structure Trough where
  w : Nat := 0
  r : Nat := 0
  rel : Nat := 0
  mark : Nat := 0
  markOk : Bool := false
  wSeen : Nat := 0
  relSeen : Nat := 0
  relGo : Nat := 0
  /-- The SYSCLK cycle of the last push, and W before the first push of that cycle (R286). -/
  pushIn : Option (Nat × Nat) := none
  /-- The last SYSCLK cycle that the last pull, and the last push, of an internal trough took, and the agent that made it (R281). -/
  pullBy : Option (Nat × Nat) := none
  pushBy : Option (Nat × Nat) := none
  deriving DecidableEq, Repr

/-- A host-end access that waits (R284): a push with its word, or a pull. -/
structure TrgWait where
  q : Nat
  req : Requester
  push : Option Word
  since : Time
  deriving DecidableEq, Repr

/-- A Yard page (R271 to R277): owner 0 FREE, 1 HOST, 2 DEVICE, 3 QUARANTINE. -/
structure Page where
  owner : Nat := 0
  gen : Nat := 0
  ecc : Bool := false
  deriving DecidableEq, Repr

/-! ### Engines (R148 to R180): G, T, the save slots and the counters stand in the registers' words -/

inductive EngSt where
  | reset | run | done | fault | loading
  deriving DecidableEq, Repr

/-- A visible effect of a word (R167), and the end of its pass. Stall numbers count within the shed. -/
inductive EngEff where
  | stl (k sf v : Nat) | side (kind k : Nat) | push (q v : Nat) | pull (q : Nat) | trgOp (q op : Nat) | done | resumed
  deriving DecidableEq, Repr

/-- An Ezene engine. TRAP, WAIT and PARKED are `trapped`, `waiting` and ENG_CTL.PARK beside `st`. -/
structure Eng where
  st : EngSt := .reset
  trapped : Bool := false
  waiting : Bool := false
  /-- The trap in progress was taken from DONE (R168). -/
  inDone : Bool := false
  /-- The wait of the word in hand is over (R159). -/
  waitOver : Bool := false
  /-- The next word's address; in DONE the address of the next pass. -/
  upc : Nat := 0
  sx : Nat := 0
  lc : Nat := 0
  z : Bool := false
  n : Bool := false
  c : Bool := false
  v : Bool := false
  /-- The return stack, bottom first. -/
  stk : List Nat := []
  vis : Bool := false
  poison : Bool := false
  startHeld : Bool := false
  /-- A software trap follows the word just completed. -/
  soft : Bool := false
  trapSx : Nat := 0
  eccSafe : Bool := false
  manger : List (Nat × Nat) := []
  last : Nat := 0
  lastAddr : Nat := 0
  /-- The tick in which the next word's first cycle begins (R160). -/
  ready : Time := 0
  /-- Effects on stalls and ends of passes on their way, with their tick (R161, R163). -/
  out : List (Time × EngEff) := []
  /-- The source presented to the engine, and since when (R164). -/
  irq : Option (Nat × Time) := none
  /-- When PARK was last set (R172). -/
  parkAt : Time := 0
  /-- Stopped in IDLE (R173). -/
  frozen : Bool := false
  /-- A load puts the engine into LOADING at its next word boundary (R178). -/
  toLoad : Bool := false
  /-- The manger word that a check engine's word reads has bad parity: its own row says so before the lead's (R157). -/
  mgrBad : Bool := false
  /-- Clearing EN has ended the wait of the word in hand at a trough (R285). -/
  cut : Bool := false
  deriving DecidableEq, Repr

/-! ### Runners (R181 to R198): TR, TF, D0, D1, LA, LB, SR, BC, S and F stand in the registers' words -/

inductive RunSt where
  | halted | run | wait | fault
  deriving DecidableEq, Repr

/-- A runner. PARKED is RUN_CTL.PARK beside `st`. -/
structure Runner where
  st : RunSt := .halted
  pc : Nat := 0
  ir : Nat := 0
  irValid : Bool := false
  irInj : Bool := false
  /-- Cause of the wait, in the encoding of STAT.ON. -/
  on : Nat := 0
  /-- The next instruction issues in this tick (R181). -/
  due : Time := 0
  poison : Bool := false
  req : Bool := false
  /-- The tick in which a request was withdrawn: a take in the same tick stands (R189). -/
  reqEnd : Option Time := none
  injPend : Bool := false
  /-- The instruction in hand was injected in HALTED: the runner returns there (R192). -/
  once : Bool := false
  /-- The fault's cause: parity, else an illegal instruction. -/
  byParity : Bool := false
  /-- Slots whose refused edge has been logged since the slot last changed (R183). -/
  refused : List Nat := []
  /-- Program words whose parity is bad (R194). -/
  badProg : List Nat := []
  /-- SHIFT (R187): the bit in hand, the times of its leading and trailing edges, whether the leading edge has been
  issued, and the samples still to come: the time, and LSB_FIRST of their bit. -/
  bit : Nat := 0
  lead : BitVec 24 := 0
  trail : BitVec 24 := 0
  ledOut : Bool := false
  samples : List (BitVec 24 × Bool) := []
  /-- RUN_n_SHIFT and the data slot as the bit in hand uses them. -/
  shiftCfg : Word := 0
  dout : Nat := 0
  /-- A BEAT wait began in this beat (R186). -/
  beat : BitVec 24 := 0
  /-- Clearing EN has ended the wait of the instruction in hand at a trough (R285). -/
  cut : Bool := false
  deriving DecidableEq, Repr

/-! ### Valves (R199 to R237) -/

/-- The states of a channel (Table 9.3). -/
inductive VSt where
  | off | wait | boost | peak | drop | hold | decay | locked
  deriving DecidableEq, Repr

/-- Who started a profile: an event instance by shed and slot, or a Holtid command by its service number. -/
inductive VOwner where
  | ev (sh slot : Nat) | holtid (src : Nat)
  deriving DecidableEq, Repr

/-- A profile latched at a start, its currents as codes (R204, R207, R208), times in ticks. -/
structure VProf where
  idx : Nat := 0
  boost : Nat := 0
  peak : Nat := 0
  hold : Nat := 0
  zero : Nat := 0
  hPeak : Nat := 0
  hHold : Nat := 0
  tBst : Nat := 0
  skip : Bool := false
  tPeak : Nat := 0
  chopMin : Nat := 0
  tDecay : Nat := 0
  tMax : Nat := 0
  deriving DecidableEq, Repr

/-- A start that waits for boost (R213, R216). -/
structure VWait where
  owner : VOwner
  prof : VProf
  /-- The start's time, from which its own duration counts. -/
  start : Time
  /-- From when its grace runs. -/
  since : Time
  /-- A Holtid command's duration in ticks. -/
  dur : Nat
  /-- A restart of a profile still running (R213). -/
  restart : Bool
  deriving DecidableEq, Repr

/-- The flyback check of R230 and an off-state test's verdicts. -/
inductive Verdict where
  | none | ok | openV | shortGnd | shortSup | leak | bankGnd | bankSup
  deriving DecidableEq, Repr

/-- A channel. -/
structure Valve where
  st : VSt := .off
  owner : Option VOwner := none
  prof : VProf := {}
  ts : Time := 0
  tb : Time := 0
  td : Time := 0
  tOn : Time := 0
  sw : Bool := false
  /-- End of a Holtid command's own duration, while it owns the profile. -/
  durEnd : Option Time := none
  /-- The tick of the last event start (R218). -/
  evAt : Option Time := none
  /-- Where the DOSE action in hand places the edge of VLG_n (R113, R203). -/
  dose : Option Fine := none
  wait : Option VWait := none
  /-- The sheds and slots whose mismatches force the channel off (R26). -/
  forcedBy : List (Nat × Nat) := []
  /-- Since when VLG_n has been on without a break. -/
  onSince : Option Time := none
  /-- Since when the channel has been OFF or LOCKED with its gate off; none while it is not. -/
  idleSince : Option Time := some 0
  /-- The flyback check runs since this tick (R230). -/
  flyback : Option Time := none
  x : Nat := 0
  /-- Sums over the present beat, for IAVG and ISQ. -/
  sumX : Nat := 0
  sumSq : Nat := 0
  samples : Nat := 0
  /-- Offset calibration: codes summed, and their number (R232). -/
  calSum : Nat := 0
  calN : Nat := 0
  /-- The causes, by their bits of DIAG_STAT, that a pending unlock waits to clear (R234). -/
  pend : Nat := 0
  /-- L_SHORT_GND was set by the flyback check (Table 10.6). -/
  gndOn : Bool := false
  /-- The verdict of the last completed test (R229). -/
  lastTest : Verdict := .none
  /-- The thermal model (R225): node temperatures in °C × 2^32. -/
  model : Bool := false
  modelBad : Bool := false
  tw : Int := 0
  tbody : Int := 0
  /-- VLV_n_ISQ and VLV_n_SHUNT of the beat that the model works on (R225). -/
  isqIn : Nat := 0
  shuntIn : Nat := 0
  /-- A computed beat whose decisions have not acted (R227). -/
  decide_ : Bool := false
  /-- An offset calibration has been completed since the last CALIBRATE (R345). -/
  cal : Bool := false
  deriving DecidableEq, Repr

/-- STAT.FORCED of a channel (R26). -/
def Valve.forced (v : Valve) : Bool := !v.forcedBy.isEmpty

/-- A bank (R210, R216, R228). `side` is the switch: 0 off, 1 HSG, 2 HBG. -/
structure Bank where
  holder : Option Nat := none
  /-- Channels that wait for boost, first in first out. -/
  queue : List Nat := []
  side : Nat := 0
  /-- The switch that was on last; the other one may not turn on before this moment (R200). -/
  last : Nat := 0
  dead : Option Time := none
  solo : Bool := false
  /-- Since when the three conditions of quietness hold together; from reset on (R228). -/
  quiet : Option Time := some 0
  lastTest : Option Time := none
  /-- The test in hand: its start; in its PD phase, what the PU phase read of the node and the four drains. -/
  test : Option Time := none
  pu : Option (NodeClass × List NodeClass) := none
  /-- What the last completed test said of the bank's node: BANK_GND, BANK_SUP or nothing (R229). -/
  lastNode : Verdict := .none
  deriving DecidableEq, Repr

/-- The boost converter and the valve supply guard (R201, R202, R233) beside BST_STAT and PWR_VSG_STAT. -/
structure Boost where
  /-- BST_G. -/
  gate : Bool := false
  /-- The start of the pulse in hand, or of the last (TON_MAX). -/
  gateAt : Time := 0
  /-- BST_G stays off until this moment (TOFF). -/
  offUntil : Option Time := none
  /-- VBST as last compared, in 0.25 V. -/
  vbst : Nat := 0
  /-- VIN has stayed at or above VIN_MIN for 1 ms. -/
  qualified : Bool := false
  /-- VIN is not below VS_SNS. -/
  vinAbove : Bool := false
  deriving DecidableEq, Repr

/-! ### Power (R238 to R250) -/

/-- The sequencer's place in Table 11.3. -/
inductive SeqPos where
  | off | vdd33 | wantIo | wantCore | coreDelay | up | retry | stopped
  deriving DecidableEq, Repr

/-- A PMBus transaction in progress: a poll, the alert response, or a mailbox command by its service number. -/
inductive PmbJob where
  | poll (i : Nat) | ara | cmd (src : Nat)
  deriving DecidableEq, Repr

structure Power where
  seq : SeqPos := .up
  seqFails : Nat := 0
  seqFailLog : Bool := false
  /-- SEQ_2 to SEQ_5 (bits 0 to 3) still to turn on and off, since when the group before stands, and since when each is
  asked to change (R241); outputs that a ramp step holds off (Table 18.4). -/
  onGo : Nat := 0
  onAt : Time := 0
  offGo : Nat := 0
  offAt : Time := 0
  askedAt : List (Nat × Time) := []
  seqHeld : Nat := 0
  /-- The latched program of the ramp in progress, and when the last step acted (R244). -/
  prog : List Word := []
  stepAt : Time := 0
  /-- Since when the PFAIL source has been clear, and whether that is still to be logged (R245). -/
  clearAt : Time := 0
  clearLog : Bool := false
  /-- VGD has stayed above 10.2 V for 1 ms (R239). -/
  vgdGood : Bool := false
  /-- Held off by steps: banks, converter, guard; pins by level: 0 safe, 1 low, 2 high (R245, Table 11.9). -/
  hswHeld : Nat := 0
  bstHeld : Bool := false
  vsgHeld : Bool := false
  pinHeld : List (Nat × Nat) := []
  /-- PMBus (R247): the transaction in progress and those waiting; each poll's last attempt and failures in a row. -/
  job : Option PmbJob := none
  jobs : List PmbJob := []
  jobAt : Time := 0
  polled : List (Nat × Time) := []
  fails : List (Nat × Nat) := []
  deriving DecidableEq, Repr

/-! ### Tether (R252 to R270): stamps in 1/16 tick -/

inductive LinkSt where
  | down | sync | ready
  deriving DecidableEq, Repr

/-- A port (0, 1) or the gate (2). -/
structure Port where
  link : LinkSt := .down
  /-- The request in flight: SEQ, its stamp, and the beat it left in. -/
  dq : List (Nat × BitVec 52 × BitVec 24) := []
  /-- The beat in which the last request left (R255). -/
  dqBeat : Option (BitVec 24) := none
  seq : Nat := 0
  n : Nat := 0
  sum : Int := 0
  d : Int := 0
  /-- Frames for this port are folded back since it went DOWN (R265). -/
  loop : Bool := false
  /-- The last answer sent: SEQ and TURN (R255). -/
  answered : Option (Nat × Nat) := none
  deriving DecidableEq, Repr

/-- A Tether message received (R347): SRC, KIND, the beat it came in, its data. -/
structure Msg where
  src : Nat
  kind : Nat
  beat : Nat
  data : List Nat
  deriving DecidableEq, Repr

/-- What the Tether block keeps beside its registers. -/
structure Tether where
  joined : Bool := false
  /-- This device originates; it starts or stops doing so at its next boundary (R264). -/
  origin : Bool := false
  start : Bool := false
  yielding : Bool := false
  /-- A returning master, and the consecutive beats for which its discipline has been LOCKED. -/
  returning : Bool := false
  lockedRun : Nat := 0
  /-- Beats since EN was set, up to 5. -/
  sinceEn : Nat := 0
  /-- A copy with a good check came in this beat; consecutive beats without one (R264). -/
  heard : Bool := false
  silent : Nat := 0
  /-- A copy has been processed in this beat; the last beat passed without one (R258). -/
  done : Bool := false
  missed : Bool := false
  /-- The beat number and origin of the last processed copy. -/
  last : Option (Nat × Nat) := none
  /-- The newest beat processed of each origin (R258). -/
  seen : List (Nat × BitVec 24) := []
  /-- The frame of this beat has been sent (R256). -/
  sentOwn : Bool := false
  /-- The last copy of an own frame that came back, and the last gate copy. -/
  ret : List Nat := []
  gate : List Nat := []
  /-- What has been sent last: port and bytes; on the gate, bytes (the model's output). -/
  sent : Option (Nat × List Nat) := none
  gateSent : List Nat := []
  angLogged : List Nat := []
  pathLogged : Bool := false
  /-- RING_VER in force at the origin, a higher minimum, its set of present slots, and the beats both have held (R268). -/
  ringVer : Nat := 0
  riseMin : Nat := 0
  riseSet : List Nat := []
  riseRun : Nat := 0
  /-- The beat of the own frame whose return was judged last. -/
  retBeat : Option Nat := none
  /-- UNWRAP as the origin sends it, and as a folding device has received it (R266). -/
  unwrapOut : Option Nat := none
  unwrapIn : Option Nat := none
  /-- Messages received (R348), and the messages lost at the origin (R347). -/
  msgs : List Msg := []
  mgmtLost : Nat := 0
  deriving DecidableEq, Repr

/-! ### Mailboxes (R335 to R360) -/

/-- A command in service: its slot page, header and payload, the pages of its PG field; whether it has been executed and
waits for its end, and what it waits for. -/
structure Svc where
  page : Nat := 0
  op : Nat := 0
  flags : Nat := 0
  args : List Nat := []
  pages : List Nat := []
  waiting : Bool := false
  /-- The shadowed items whose commit it waits for (R353), and the result to be written then. -/
  items : List Nat := []
  answer : List Nat := []
  /-- The engines being loaded (R178), the mode requested (R378), the beats left for a message (R348), or the channels
  being calibrated (R345). -/
  arg : Nat := 0
  since : Time := 0
  deriving DecidableEq, Repr

/-- An accepted doorbell: its slots still to complete, and for each mailbox how many of the slots doorbelled by then
have not completed (R354). -/
structure Bell where
  slots : Nat := 0
  fence : List Nat := []
  deriving DecidableEq, Repr

/-- A mailbox beside its registers; number 4 is the forerunner command window (R352). -/
structure Mbx where
  svc : Option Svc := none
  /-- Since when slot CONS has waited for its page (R338), and whether that has been logged. -/
  waitSince : Option Time := none
  notHanded : Bool := false
  bells : List Bell := []
  deriving DecidableEq, Repr

/-- Pulses held by moderation, and when the oldest was held (R356). -/
structure Hold where
  n : Nat := 0
  since : Time := 0
  deriving DecidableEq, Repr

/-! ### Modes, boot and the test port (R377 to R389, R411) -/

/-- How far the boot sequence has come (Table 18.5). -/
inductive BootPos where
  | start | locked | checked | cleared | otp | done | halted
  deriving DecidableEq, Repr

/-- What the device as a whole keeps beside its registers. -/
structure Sys where
  /-- The LIVE ball (R377). -/
  live : Bool := false
  boot : BootPos := .start
  /-- The patch area: the staged image, empty where none is staged (R387). -/
  patch : List Nat := []
  /-- The version of the patch that the running firmware includes, as SYS_FW_VER[23:0] (R387). -/
  fw : Option Nat := none
  /-- The boot follows a warm reset with a staged patch, which is still to be checked (Table 18.5). -/
  check : Bool := false
  /-- A RESET command has been served: when it acts, and the straps at its release (R346). -/
  reboot : Option (Time × Nat) := none
  /-- The trackers that stood in SYNC or LIMP in the last tick (R380). -/
  synced : List Nat := []
  /-- The test port: the instruction in force, the data it captured, the preloaded boundary cells (R411). -/
  tap : TapInsn := .idcode
  tapData : List Bool := []
  tapCells : List Bool := []
  deriving DecidableEq, Repr

/-! ### DMA (R290 to R312): beside the channels' registers -/

/-- An address in one of the spaces of Table 14.1: 0 MW0, 1 YARD, 2 HOST, 3 TROUGH. -/
structure DmaAddr where
  space : Nat := 0
  addr  : Nat := 0
  deriving DecidableEq, Repr

/-- A descriptor (Table 14.3). -/
structure Desc where
  src     : DmaAddr := {}
  dst     : DmaAddr := {}
  count   : Nat := 0
  srcW    : Nat := 0
  dstW    : Nat := 0
  srcInc  : Bool := false
  dstInc  : Bool := false
  crcEn   : Bool := false
  crcSel  : Bool := false
  crcCont : Bool := false
  record  : Bool := false
  irq     : Bool := false
  last    : Bool := false
  hopRst  : Bool := false
  next    : DmaAddr := {}
  deriving DecidableEq, Repr

/-- A read in flight, or returned and not yet written out (R299): where and how many bytes it reads, which of them are
data of the stream, when it was issued (time in IDLE not counted), its stream bytes with their poison once they are
there, its place in the order of returns, and whether clearing EN has ended it as a pull that waits (R285). -/
structure DmaRead where
  src   : DmaAddr
  size  : Nat
  width : Nat
  at_   : Time
  data  : Option (List (Nat × Bool)) := none
  order : Nat := 0
  cut   : Bool := false
  deriving DecidableEq, Repr

/-- A fetched descriptor in work: stream bytes for which reads have been issued, and written; its reads in stream order;
the CRC register once bytes have been taken (R300); poison seen; since when its next element waits for a trough or, as a posted
host write, to be issued (R304), and whether clearing EN has ended that wait (R285); the status of the error that ends the
chain with it (R305). -/
structure DmaJob where
  at_     : DmaAddr
  hops    : Nat
  d       : Desc := {}
  issued  : Nat := 0
  written : Nat := 0
  reads   : List DmaRead := []
  crc     : Option Nat := none
  poison  : Bool := false
  waitAt  : Option Time := none
  cut     : Bool := false
  fault   : Option Nat := none
  deriving DecidableEq, Repr

/-- A completion record still to be written (Table 14.5); `ends` says that the chain ends with it. -/
structure DmaRec where
  at_    : DmaAddr
  bytes  : Nat
  status : Nat
  poison : Bool
  valid  : Bool
  irq    : Bool
  crc    : Nat
  hops   : Nat
  ends   : Bool
  deriving DecidableEq, Repr

/-- A channel: a chain in progress; its jobs, oldest first; the next descriptor, to be fetched or in flight since `fetchAt`;
the hop count; the CRC register that CRC_CONT may continue, with its CRC_SEL; the records to be written, in order, and since when
the first can be (R304); reads in flight of a chain that has ended, each with its time of issue (R302); records made since
reset. -/
structure DmaChan where
  on      : Bool := false
  jobs    : List DmaJob := []
  next    : Option DmaAddr := none
  fetchAt : Option Time := none
  hops    : Nat := 0
  keep    : Option (Bool × Nat) := none
  records : List DmaRec := []
  recAt   : Option Time := none
  lost    : List Time := []
  seq     : Nat := 0
  deriving DecidableEq, Repr

/-- The engine: the burst whose reads are being issued (channel, stream bytes to go), whether none of its reads has been issued
yet, the channel granted last in each priority, the count of returns, the ticks spent in IDLE, and whether the engine has stood still in IDLE since it last
went on. -/
structure Dma where
  burst : Option (Nat × Nat) := none
  fresh : Bool := false
  last  : List (Nat × Nat) := []
  order : Nat := 0
  idle  : Nat := 0
  still : Bool := false
  deriving DecidableEq, Repr

/-! ### Host interfaces (R313 to R334) -/

/-- The forerunner bus: the image words of the command window (R352), the window registers, a held low half, a read of
FR_WIN_DATA_LO that waits (R329, R284). -/
structure Fr where
  img : List (Nat × Nat) := []
  addr : Nat := 0
  inc : Bool := false
  hi : Nat := 0
  held : Option Nat := none
  pull : Bool := false
  deriving DecidableEq, Repr

/-- An access of a requester to the address space of R322: a write with its byte enables, or a read, and what it finds
wrong in the word. -/
structure Access where
  req : Requester
  addr : Nat
  data : Option (Word × BitVec 4)
  ecc : Ecc
  deriving DecidableEq, Repr

/-- What the endpoint keeps beside SYS_HOST_STAT: function mask of MSI-X, PME enable, INTA, the messages and PMEs sent
(the model's output, newest first), and the host lines as last presented (R318). -/
structure Pcie where
  fmask : Bool := false
  pmeEn : Bool := false
  intx : Bool := false
  /-- Vectors sent, newest first. -/
  msgs : List Nat := []
  pmes : Nat := 0
  /-- The lines for which a PME has been sent (R372). -/
  pmeFor : Nat := 0
  lines : Nat := 0
  /-- Max Payload Size and Max Read Request Size as programmed (Table 15.2). -/
  mps : Nat := 128
  mrrs : Nat := 512
  /-- The base address registers as programmed (Table 15.2). -/
  bars : List (Nat × Word) := []
  /-- ASPM L1 is enabled; ECRC generation and checking are. -/
  aspm : Bool := false
  ecrcGen : Bool := false
  ecrcChk : Bool := false
  /-- Unsupported Request answers given (R320; the model's output). -/
  unsup : Nat := 0
  /-- The bridge's queues: accesses that came behind one of their interface which waits at a trough, oldest first (R330). -/
  queue : List Access := []
  deriving DecidableEq, Repr

/-- What an SPI transaction does (Table 15.3). -/
inductive SpiKind where
  | none | write | read | status
  deriving DecidableEq, Repr

/-- The SPI target (R322 to R324): the transaction in progress, its next address; a write's words still to come, a
read's words still to be read and still to be sent; the ticks from one word to the next, and when the next one acts; the
writes held behind one that waits (R284); a read that waits; the bytes sent by the transaction, oldest first, `none` for the
turnaround, which no side drives (R324; the model's output). The byte of STATUS is repeated until SPI_CS_N rises. -/
structure Spi where
  kind : SpiKind := .none
  fixed : Bool := false
  addr : Nat := 0
  coming : List Word := []
  left : Nat := 0
  want : Nat := 0
  gap : Nat := 0
  due : Time := 0
  held : List (Nat × Word) := []
  pull : Bool := false
  out : List (Option (BitVec 8)) := []
  deriving DecidableEq, Repr

end Sys2Proof.Machine
end

