-- ==== Sys2Proof/Machine/Regs.lean ====
section
/-! DEFINITION. The register map (R22): the address of every register of MW0, and of the Yard control words of MW2 at
bus address 0x40_0000 + offset (R322), every field by its name, and for every register its access masks (Table 0.5),
its reset value and whether it is a shadowed commit item (R43, Table 2.3). Written from the register tables of each
chapter. -/

namespace Sys2Proof.Machine

/-- What the register tables say of one register or array of registers: the first one's address, the stride and count
of each index (outermost first), the bits of each access code, the reset value, and whether it is shadowed. -/
structure RegRow where
  base   : Nat
  dims   : List (Nat × Nat)
  rw     : Nat := 0
  rwl    : Nat := 0
  w1s    : Nat := 0
  w1c    : Nat := 0
  rc     : Nat := 0
  reset  : Nat := 0
  commit : Bool := false
  deriving DecidableEq, Repr

/-- Does an offset from a row's first address fall on one of its registers? -/
def dimsHit : List (Nat × Nat) → Nat → Bool
  | [], o => o == 0
  | d :: ds, o => decide (o / d.1 < d.2) && dimsHit ds (o % d.1)

/-- Does an address fall on one of a row's registers? -/
def RegRow.hit (r : RegRow) (a : Nat) : Bool := decide (r.base ≤ a) && dimsHit r.dims (a - r.base)


namespace R

def SYS_ID : Nat := 0x0
def SYS_REV : Nat := 0x4
def SYS_CAPS : Nat := 0x8
def SYS_FW_VER : Nat := 0xc
def SYS_TWIN : Nat := 0x10
def SYS_CLK_STAT : Nat := 0x14
def SYS_MODE : Nat := 0x100
def SYS_TRK_CRIT : Nat := 0x104
def SYS_TRK_LIMP : Nat := 0x108
def SYS_STRAP : Nat := 0x10c
def SYS_BOOT : Nat := 0x110
def SYS_SAFE_CNT : Nat := 0x114
def SYS_HOST_STAT : Nat := 0x200
def SYS_HOST_REFUSED : Nat := 0x204
def SYS_HOST_PARTIAL : Nat := 0x208
def SYS_HOST_FR_TIMEOUT : Nat := 0x20c
def PWR_STAT : Nat := 0x1000
def PWR_RST_CAUSE : Nat := 0x1004
def PWR_CFG : Nat := 0x1008
def PWR_VCORE : Nat := 0x1010
def PWR_VIO : Nat := 0x1014
def PWR_V33 : Nat := 0x1018
def PWR_VGD : Nat := 0x101c
def PWR_RAIL_STAT : Nat := 0x1020
def PWR_SEQ_CTL : Nat := 0x1030
def PWR_PMB_CFG : Nat := 0x1100
def PWR_PMB_STAT : Nat := 0x1104
def PWR_PMB_ALERT_ADDR : Nat := 0x1108
def PWR_VSG_CTL : Nat := 0x1c00
def PWR_VSG_CFG : Nat := 0x1c04
def PWR_VSG_STAT : Nat := 0x1c08
def PWR_VSG_VIN : Nat := 0x1c0c
def TB_LO : Nat := 0x2000
def TB_HI : Nat := 0x2004
def TB_HI_SNAP : Nat := 0x2008
def TB_BEAT : Nat := 0x200c
def TB_BEAT_T0_LO_SNAP : Nat := 0x2010
def TB_BEAT_T0_HI_SNAP : Nat := 0x2014
def TB_BEAT_CFG : Nat := 0x2018
def TB_PHASE : Nat := 0x201c
def TB_COMMIT_CTL : Nat := 0x2020
def TB_STAT : Nat := 0x2024
def TB_OVR_CNT : Nat := 0x2028
def TB_HOLD_CNT : Nat := 0x202c
def TB_OVR_WHO : Nat := 0x2030
def TB_WARN : Nat := 0x2034
def TB_DISC_STAT : Nat := 0x2200
def TB_DISC_OFS : Nat := 0x2204
def TB_DISC_FREQ : Nat := 0x2208
def TB_DISC_CFG : Nat := 0x220c
def IRQ_POOL : Nat := 0x3000
def IRQ_CORE_CLAIM : Nat := 0x3004
def IRQ_CORE_EOI : Nat := 0x3008
def IRQ_FALLBACK_CNT : Nat := 0x300c
def LOG_STAT : Nat := 0xffc0
def LOG_COUNT : Nat := 0xffc4
def LOG_SEQ : Nat := 0xffc8
def LOG_LOST : Nat := 0xffcc
def LOG_SEL : Nat := 0xffd0
def EVT_ARM_CFG : Nat := 0x61800
def EVT_ARM_STAT : Nat := 0x61804
def EVT_ARM_STAGED : Nat := 0x61808
def EVT_ECC_CNT : Nat := 0x6180c
def EVT_ECC_ADDR : Nat := 0x61810
def EVT_TWIN_INJECT : Nat := 0x61814
def BST_CTL : Nat := 0x10a800
def BST_CFG : Nat := 0x10a804
def BST_LIM : Nat := 0x10a808
def BST_SW : Nat := 0x10a80c
def BST_STAT : Nat := 0x10a810
def BST_VS : Nat := 0x10a814
def BST_CNT_PULSE : Nat := 0x10a818
def TTH_CTL : Nat := 0x110000
def TTH_CFG : Nat := 0x110004
def TTH_STAT : Nat := 0x110008
def TTH_VER : Nat := 0x11000c
def TTH_PATH : Nat := 0x110010
def TTH_CNT_LOST : Nat := 0x110014
def TTH_GATE_CFG : Nat := 0x110180
def TTH_GATE_STAT : Nat := 0x110184
def TTH_GATE_DELAY : Nat := 0x110188
def TTH_GATE_ASYM : Nat := 0x11018c
def TTH_SLOT_TX_LO : Nat := 0x110300
def TTH_SLOT_TX_HI : Nat := 0x110304
def TRG_HOST_WAIT : Nat := 0x115000
def DMA_CQ_0 : Nat := 0x118800
def DMA_CQ_1 : Nat := 0x118804
def DMA_CQ_2 : Nat := 0x118808
def DMA_CQ_CFG : Nat := 0x11880c
def DMA_CQ_HEAD : Nat := 0x118810
def DMA_CQ_TAIL : Nat := 0x118814
def DMA_CQ_STAT : Nat := 0x118818
def DMA_LOAD : Nat := 0x11881c
def DMA_CNT_TIMEOUT : Nat := 0x118820
def MBX_DMA_MOD : Nat := 0x120200
def MBX_SLEEP : Nat := 0x120204
def YRD_RESULT : Nat := 0x608000
def YRD_QUAR : Nat := 0x608004
def YRD_VIOL : Nat := 0x608008
def YRD_ECC_CNT : Nat := 0x60800c
def PWR_SEQ_CFG (k : Nat) : Nat := 0x1040 + k * 0x4
def PWR_PMB_POLL (i : Nat) : Nat := 0x1140 + i * 0x8
def PWR_PMB_DATA (i : Nat) : Nat := 0x1140 + i * 0x8 + 0x4
def PWR_RAMP (j : Nat) : Nat := 0x1400 + j * 0x4
def TB_BUDGET (n : Nat) : Nat := 0x2040 + n * 0x4
def TB_USED (n : Nat) : Nat := 0x20c0 + n * 0x4
def TB_PEAK (n : Nat) : Nat := 0x2140 + n * 0x4
def IRQ_HOST_SRC (v : Nat) : Nat := 0x3100 + v * 0x4
def IRQ_HOST_EOI (v : Nat) : Nat := 0x3180 + v * 0x4
def IRQ_PEND (w : Nat) : Nat := 0x4000 + w * 0x4
def IRQ_PEND_SET (w : Nat) : Nat := 0x4080 + w * 0x4
def IRQ_PEND_CLR (w : Nat) : Nat := 0x4100 + w * 0x4
def IRQ_MASK (w : Nat) : Nat := 0x4180 + w * 0x4
def IRQ_MASK_SET (w : Nat) : Nat := 0x4200 + w * 0x4
def IRQ_MASK_CLR (w : Nat) : Nat := 0x4280 + w * 0x4
def IRQ_INSVC (w : Nat) : Nat := 0x4300 + w * 0x4
def IRQ_RAW (w : Nat) : Nat := 0x4380 + w * 0x4
def IRQ_SRC_CFG (g : Nat) : Nat := 0x5000 + g * 0x4
def LOG_DATA (w : Nat) : Nat := 0xffd4 + w * 0x4
def WHL_CTL (n : Nat) : Nat := 0x10000 + n * 0x1000
def WHL_CFG (n : Nat) : Nat := 0x10000 + n * 0x1000 + 0x4
def WHL_CPC (n : Nat) : Nat := 0x10000 + n * 0x1000 + 0x8
def WHL_PAT (n : Nat) : Nat := 0x10000 + n * 0x1000 + 0xc
def WHL_ZERO (n : Nat) : Nat := 0x10000 + n * 0x1000 + 0x10
def WHL_NW (n : Nat) : Nat := 0x10000 + n * 0x1000 + 0x14
def WHL_SYNCCFG (n : Nat) : Nat := 0x10000 + n * 0x1000 + 0x18
def WHL_STOP (n : Nat) : Nat := 0x10000 + n * 0x1000 + 0x1c
def WHL_IN (n : Nat) : Nat := 0x10000 + n * 0x1000 + 0x20
def WHL_FILT (n : Nat) : Nat := 0x10000 + n * 0x1000 + 0x24
def WHL_PW (n : Nat) : Nat := 0x10000 + n * 0x1000 + 0x28
def WHL_SSI (n : Nat) : Nat := 0x10000 + n * 0x1000 + 0x2c
def WHL_VIRT (n : Nat) : Nat := 0x10000 + n * 0x1000 + 0x30
def WHL_RATIO_NUM (n : Nat) : Nat := 0x10000 + n * 0x1000 + 0x34
def WHL_RATIO_DEN (n : Nat) : Nat := 0x10000 + n * 0x1000 + 0x38
def WHL_IDX_WIN (n : Nat) : Nat := 0x10000 + n * 0x1000 + 0x3c
def WHL_LEARN (n : Nat) : Nat := 0x10000 + n * 0x1000 + 0x40
def WHL_REARM (n : Nat) : Nat := 0x10000 + n * 0x1000 + 0x44
def WHL_STAT (n : Nat) : Nat := 0x10000 + n * 0x1000 + 0x80
def WHL_POS (n : Nat) : Nat := 0x10000 + n * 0x1000 + 0x84
def WHL_ANG_LO (n : Nat) : Nat := 0x10000 + n * 0x1000 + 0x88
def WHL_ANG_HI (n : Nat) : Nat := 0x10000 + n * 0x1000 + 0x8c
def WHL_ANG_HI_SNAP (n : Nat) : Nat := 0x10000 + n * 0x1000 + 0x90
def WHL_ANGLE (n : Nat) : Nat := 0x10000 + n * 0x1000 + 0x94
def WHL_RATE (n : Nat) : Nat := 0x10000 + n * 0x1000 + 0x98
def WHL_EDGE_LO (n : Nat) : Nat := 0x10000 + n * 0x1000 + 0x9c
def WHL_EDGE_HI (n : Nat) : Nat := 0x10000 + n * 0x1000 + 0xa0
def WHL_EDGE_HI_SNAP (n : Nat) : Nat := 0x10000 + n * 0x1000 + 0xa4
def WHL_PER_LO (n : Nat) : Nat := 0x10000 + n * 0x1000 + 0xa8
def WHL_PER_HI (n : Nat) : Nat := 0x10000 + n * 0x1000 + 0xac
def WHL_PER_HI_SNAP (n : Nat) : Nat := 0x10000 + n * 0x1000 + 0xb0
def WHL_PSUM (n : Nat) : Nat := 0x10000 + n * 0x1000 + 0xb4
def WHL_CNT_NOISE (n : Nat) : Nat := 0x10000 + n * 0x1000 + 0xb8
def WHL_CNT_ERR (n : Nat) : Nat := 0x10000 + n * 0x1000 + 0xbc
def WHL_CNT_LOSS (n : Nat) : Nat := 0x10000 + n * 0x1000 + 0xc0
def WHL_IDXA (n : Nat) (j : Nat) : Nat := 0x10000 + n * 0x1000 + 0x100 + 8 * j
def WHL_IDXW (n : Nat) (j : Nat) : Nat := 0x10000 + n * 0x1000 + 0x104 + 8 * j
def SNS_CFG (k : Nat) : Nat := 0x10000 + (k / 2) * 0x1000 + 0x200 + (k % 2) * 0x40
def SNS_THR (k : Nat) : Nat := 0x10000 + (k / 2) * 0x1000 + 0x204 + (k % 2) * 0x40
def SNS_STAT (k : Nat) : Nat := 0x10000 + (k / 2) * 0x1000 + 0x208 + (k % 2) * 0x40
def PAT (n : Nat) (k : Nat) : Nat := 0x20000 + n * 0x1000 + 4 * k
def LRN (n : Nat) (k : Nat) : Nat := 0x30000 + n * 0x1000 + 4 * k
def SLOT_STAT (n : Nat) (s : Nat) : Nat := 0x60000 + n * 0x2000 + 0x1000 + 16 * s
def SLOT_FIRE_LO (n : Nat) (s : Nat) : Nat := 0x60000 + n * 0x2000 + 0x1004 + 16 * s
def SLOT_FIRE_HI (n : Nat) (s : Nat) : Nat := 0x60000 + n * 0x2000 + 0x1008 + 16 * s
def SLOT_FIRE_HI_SNAP (n : Nat) (s : Nat) : Nat := 0x60000 + n * 0x2000 + 0x100c + 16 * s
def TIO_CFG (p : Nat) : Nat := 0x60000 + (p / 10) * 0x2000 + 0x1400 + 32 * (p % 10)
def TIO_STAT (p : Nat) : Nat := 0x60000 + (p / 10) * 0x2000 + 0x1404 + 32 * (p % 10)
def TIO_COLL (p : Nat) : Nat := 0x60000 + (p / 10) * 0x2000 + 0x1408 + 32 * (p % 10)
def TIO_CAL (p : Nat) : Nat := 0x60000 + (p / 10) * 0x2000 + 0x140c + 32 * (p % 10)
def SHD_EVT_FREE (n : Nat) : Nat := 0x60000 + n * 0x2000 + 0x1600
def SHD_EVT_LATE (n : Nat) : Nat := 0x60000 + n * 0x2000 + 0x1604
def SHD_EVT_DROP (n : Nat) : Nat := 0x60000 + n * 0x2000 + 0x1608
def SHD_EVT_NOSLOT (n : Nat) : Nat := 0x60000 + n * 0x2000 + 0x160c
def SHD_EVT_BAD (n : Nat) : Nat := 0x60000 + n * 0x2000 + 0x1610
def SHD_EVT_SKIP (n : Nat) : Nat := 0x60000 + n * 0x2000 + 0x1614
def SHD_EVT_OVERLAP (n : Nat) : Nat := 0x60000 + n * 0x2000 + 0x1618
def SHD_STL_PEND (n : Nat) : Nat := 0x60000 + n * 0x2000 + 0xe00
def SHD_STL_GO (n : Nat) : Nat := 0x60000 + n * 0x2000 + 0xe04
def SHD_STL_HALT (n : Nat) : Nat := 0x60000 + n * 0x2000 + 0xe08
def SHD_STL_MISMATCH (n : Nat) : Nat := 0x60000 + n * 0x2000 + 0xe0c
def SHD_ENG_CTL (n : Nat) : Nat := 0x60000 + n * 0x2000 + 0xc00
def SHD_ENG_STAT (n : Nat) : Nat := 0x60000 + n * 0x2000 + 0xc04
def SHD_ENG_ENTRY (n : Nat) : Nat := 0x60000 + n * 0x2000 + 0xc08
def SHD_ENG_VEC (n : Nat) : Nat := 0x60000 + n * 0x2000 + 0xc0c
def SHD_ENG_LIMIT (n : Nat) : Nat := 0x60000 + n * 0x2000 + 0xc10
def SHD_ENG_IMAGE (n : Nat) : Nat := 0x60000 + n * 0x2000 + 0xc14
def SHD_ENG_SCANMASK (n : Nat) : Nat := 0x60000 + n * 0x2000 + 0xc18
def SHD_ENG_PRIO (n : Nat) : Nat := 0x60000 + n * 0x2000 + 0xc1c
def SHD_ENG_TRAPS (n : Nat) : Nat := 0x60000 + n * 0x2000 + 0xc20
def SHD_ENG_SKIP (n : Nat) : Nat := 0x60000 + n * 0x2000 + 0xc24
def SHD_ENG_FAULTS (n : Nat) : Nat := 0x60000 + n * 0x2000 + 0xc28
def SHD_ENG_CAUSE (n : Nat) : Nat := 0x60000 + n * 0x2000 + 0xc2c
def SHD_ENG_MGR_ADDR (n : Nat) : Nat := 0x60000 + n * 0x2000 + 0xc90
def SHD_ENG_MGR_DATA (n : Nat) : Nat := 0x60000 + n * 0x2000 + 0xc94
def SHD_ENG_G (n : Nat) (i : Nat) : Nat := 0x60000 + n * 0x2000 + 0xc40 + 4 * i
def SHD_ENG_T (n : Nat) (i : Nat) : Nat := 0x60000 + n * 0x2000 + 0xc80 + 4 * (i-12)
def EVT_WIN (n : Nat) : Nat := 0x61840 + n * 0x4
def EVT_WCFG (n : Nat) : Nat := 0x61880 + n * 0x4
def EVT_STALL (n : Nat) : Nat := 0x618c0 + n * 0x4
def STL_CTL (k : Nat) : Nat := 0x60000 + (k / 24) * 0x2000 + 64 * (k % 24)
def STL_CFG (k : Nat) : Nat := 0x60000 + (k / 24) * 0x2000 + 64 * (k % 24) + 0x4
def STL_IO (k : Nat) : Nat := 0x60000 + (k / 24) * 0x2000 + 64 * (k % 24) + 0x8
def STL_FLAGS (k : Nat) : Nat := 0x60000 + (k / 24) * 0x2000 + 64 * (k % 24) + 0xc
def STL_IEN (k : Nat) : Nat := 0x60000 + (k / 24) * 0x2000 + 64 * (k % 24) + 0x10
def STL_STAT (k : Nat) : Nat := 0x60000 + (k / 24) * 0x2000 + 64 * (k % 24) + 0x14
def STL_CNT (k : Nat) : Nat := 0x60000 + (k / 24) * 0x2000 + 64 * (k % 24) + 0x18
def STL_CNT_SNAP (k : Nat) : Nat := 0x60000 + (k / 24) * 0x2000 + 64 * (k % 24) + 0x1c
def STL_PERIOD (k : Nat) : Nat := 0x60000 + (k / 24) * 0x2000 + 64 * (k % 24) + 0x20
def STL_CMP_A (k : Nat) : Nat := 0x60000 + (k / 24) * 0x2000 + 64 * (k % 24) + 0x24
def STL_CMP_B (k : Nat) : Nat := 0x60000 + (k / 24) * 0x2000 + 64 * (k % 24) + 0x28
def STL_CAP (k : Nat) : Nat := 0x60000 + (k / 24) * 0x2000 + 64 * (k % 24) + 0x2c
def STL_PERIOD_ACT (k : Nat) : Nat := 0x60000 + (k / 24) * 0x2000 + 64 * (k % 24) + 0x30
def STL_CMP_A_ACT (k : Nat) : Nat := 0x60000 + (k / 24) * 0x2000 + 64 * (k % 24) + 0x34
def STL_CMP_B_ACT (k : Nat) : Nat := 0x60000 + (k / 24) * 0x2000 + 64 * (k % 24) + 0x38
def STL_SAVE (k : Nat) (w : Nat) : Nat := 0x60000 + (k / 24) * 0x2000 + 0x800 + 32 * (k % 24) + 4 * w
def RUN_CTL (n : Nat) : Nat := 0x100000 + n * 0x400
def RUN_CFG (n : Nat) : Nat := 0x100000 + n * 0x400 + 0x4
def RUN_PIN_A (n : Nat) : Nat := 0x100000 + n * 0x400 + 0x8
def RUN_PIN_B (n : Nat) : Nat := 0x100000 + n * 0x400 + 0xc
def RUN_SHIFT (n : Nat) : Nat := 0x100000 + n * 0x400 + 0x10
def RUN_STAT (n : Nat) : Nat := 0x100000 + n * 0x400 + 0x14
def RUN_TIME (n : Nat) : Nat := 0x100000 + n * 0x400 + 0x18
def RUN_TFINE (n : Nat) : Nat := 0x100000 + n * 0x400 + 0x1c
def RUN_D0 (n : Nat) : Nat := 0x100000 + n * 0x400 + 0x20
def RUN_D1 (n : Nat) : Nat := 0x100000 + n * 0x400 + 0x24
def RUN_LOOP (n : Nat) : Nat := 0x100000 + n * 0x400 + 0x28
def RUN_SR_LO (n : Nat) : Nat := 0x100000 + n * 0x400 + 0x2c
def RUN_SR_HI (n : Nat) : Nat := 0x100000 + n * 0x400 + 0x30
def RUN_SR_HI_SNAP (n : Nat) : Nat := 0x100000 + n * 0x400 + 0x34
def RUN_BC (n : Nat) : Nat := 0x100000 + n * 0x400 + 0x38
def RUN_STAMP (n : Nat) : Nat := 0x100000 + n * 0x400 + 0x3c
def RUN_FLAGS (n : Nat) : Nat := 0x100000 + n * 0x400 + 0x40
def RUN_FLAG_CLR (n : Nat) : Nat := 0x100000 + n * 0x400 + 0x44
def RUN_INJECT (n : Nat) : Nat := 0x100000 + n * 0x400 + 0x48
def RUN_IR (n : Nat) : Nat := 0x100000 + n * 0x400 + 0x4c
def RUN_CNT_LATE (n : Nat) : Nat := 0x100000 + n * 0x400 + 0x50
def RUN_CNT_REQ (n : Nat) : Nat := 0x100000 + n * 0x400 + 0x54
def RUN_PROG (n : Nat) (i : Nat) : Nat := 0x100000 + n * 0x400 + 0x200 + 4 * i
def VLV_CTL (n : Nat) : Nat := 0x108000 + n * 0x100
def VLV_PROF (n : Nat) : Nat := 0x108000 + n * 0x100 + 0x4
def VLV_SHUNT (n : Nat) : Nat := 0x108000 + n * 0x100 + 0x8
def VLV_STAT (n : Nat) : Nat := 0x108000 + n * 0x100 + 0xc
def VLV_I (n : Nat) : Nat := 0x108000 + n * 0x100 + 0x10
def VLV_IAVG (n : Nat) : Nat := 0x108000 + n * 0x100 + 0x14
def VLV_IPEAK (n : Nat) : Nat := 0x108000 + n * 0x100 + 0x18
def VLV_TSTART_LO (n : Nat) : Nat := 0x108000 + n * 0x100 + 0x1c
def VLV_TSTART_HI (n : Nat) : Nat := 0x108000 + n * 0x100 + 0x20
def VLV_TSTART_HI_SNAP (n : Nat) : Nat := 0x108000 + n * 0x100 + 0x24
def VLV_WAITT (n : Nat) : Nat := 0x108000 + n * 0x100 + 0x28
def VLV_TBOOST (n : Nat) : Nat := 0x108000 + n * 0x100 + 0x2c
def VLV_CNT_START (n : Nat) : Nat := 0x108000 + n * 0x100 + 0x30
def VLV_CNT_CONFLICT (n : Nat) : Nat := 0x108000 + n * 0x100 + 0x34
def VLV_CNT_RETRIG (n : Nat) : Nat := 0x108000 + n * 0x100 + 0x38
def VLV_ISQ (n : Nat) : Nat := 0x108000 + n * 0x100 + 0x80
def VLV_TW (n : Nat) : Nat := 0x108000 + n * 0x100 + 0x84
def VLV_TB (n : Nat) : Nat := 0x108000 + n * 0x100 + 0x88
def VLV_RHOT (n : Nat) : Nat := 0x108000 + n * 0x100 + 0x8c
def VLV_PW (n : Nat) : Nat := 0x108000 + n * 0x100 + 0x90
def VLV_DIAG_CFG (n : Nat) : Nat := 0x108000 + n * 0x100 + 0xa0
def VLV_DIAG_LIM (n : Nat) : Nat := 0x108000 + n * 0x100 + 0xa4
def VLV_OFS (n : Nat) : Nat := 0x108000 + n * 0x100 + 0xa8
def VLV_DIAG_STAT (n : Nat) : Nat := 0x108000 + n * 0x100 + 0xac
def VLV_UNLOCK (n : Nat) : Nat := 0x108000 + n * 0x100 + 0xb0
def VLV_CNT_TEST (n : Nat) : Nat := 0x108000 + n * 0x100 + 0xb4
def VLV_CNT_ABORT (n : Nat) : Nat := 0x108000 + n * 0x100 + 0xb8
def VLV_CNT_LOCKREF (n : Nat) : Nat := 0x108000 + n * 0x100 + 0xbc
def HSW_CFG (b : Nat) : Nat := 0x10a000 + b * 0x100
def HSW_STAT (b : Nat) : Nat := 0x10a000 + b * 0x100 + 0x4
def HSW_CNT_CONFLICT (b : Nat) : Nat := 0x10a000 + b * 0x100 + 0x8
def PROFW (p : Nat) (w : Nat) : Nat := 0x10b000 + p * 0x80 + 4 * w
def COILW (n : Nat) (w : Nat) : Nat := 0x10d000 + n * 0x80 + 4 * w
def TTHP_STAT (p : Nat) : Nat := 0x110100 + p * 0x40
def TTHP_DELAY (p : Nat) : Nat := 0x110100 + p * 0x40 + 0x4
def TTHP_ASYM (p : Nat) : Nat := 0x110100 + p * 0x40 + 0x8
def TTHP_CNT_CRC (p : Nat) : Nat := 0x110100 + p * 0x40 + 0xc
def TTHP_CNT_STOMP (p : Nat) : Nat := 0x110100 + p * 0x40 + 0x10
def TTHP_CNT_DOWN (p : Nat) : Nat := 0x110100 + p * 0x40 + 0x14
def TTH_ANG_CFG (j : Nat) : Nat := 0x110200 + j * 0x4
def TTH_SLOT_LO (i : Nat) : Nat := 0x110400 + i * 0x10
def TTH_SLOT_HI (i : Nat) : Nat := 0x110400 + i * 0x10 + 0x4
def TTH_SLOT_HI_SNAP (i : Nat) : Nat := 0x110400 + i * 0x10 + 0x8
def TTH_SLOT_STAT (i : Nat) : Nat := 0x110400 + i * 0x10 + 0xc
def TRG_CTL (q : Nat) : Nat := 0x114000 + q * 0x40
def TRG_CFG (q : Nat) : Nat := 0x114000 + q * 0x40 + 0x4
def TRG_STAT (q : Nat) : Nat := 0x114000 + q * 0x40 + 0x8
def TRG_UNREAD (q : Nat) : Nat := 0x114000 + q * 0x40 + 0xc
def TRG_SPACE (q : Nat) : Nat := 0x114000 + q * 0x40 + 0x10
def TRG_PTR_W (q : Nat) : Nat := 0x114000 + q * 0x40 + 0x14
def TRG_PTR_R (q : Nat) : Nat := 0x114000 + q * 0x40 + 0x18
def TRG_PTR_REL (q : Nat) : Nat := 0x114000 + q * 0x40 + 0x1c
def TRG_PTR_MARK (q : Nat) : Nat := 0x114000 + q * 0x40 + 0x20
def TRG_DATA (q : Nat) : Nat := 0x114000 + q * 0x40 + 0x24
def TRG_PEEK (q : Nat) : Nat := 0x114000 + q * 0x40 + 0x28
def TRG_REL (q : Nat) : Nat := 0x114000 + q * 0x40 + 0x2c
def TRG_CNT_PAR (q : Nat) : Nat := 0x114000 + q * 0x40 + 0x30
def TRG_CNT_DROP (q : Nat) : Nat := 0x114000 + q * 0x40 + 0x34
def DMA_CTL (n : Nat) : Nat := 0x118000 + n * 0x40
def DMA_CFG (n : Nat) : Nat := 0x118000 + n * 0x40 + 0x4
def DMA_HOP (n : Nat) : Nat := 0x118000 + n * 0x40 + 0x8
def DMA_DESC_0 (n : Nat) : Nat := 0x118000 + n * 0x40 + 0xc
def DMA_DESC_1 (n : Nat) : Nat := 0x118000 + n * 0x40 + 0x10
def DMA_DESC_2 (n : Nat) : Nat := 0x118000 + n * 0x40 + 0x14
def DMA_CUR_0 (n : Nat) : Nat := 0x118000 + n * 0x40 + 0x18
def DMA_CUR_1 (n : Nat) : Nat := 0x118000 + n * 0x40 + 0x1c
def DMA_CUR_2 (n : Nat) : Nat := 0x118000 + n * 0x40 + 0x20
def DMA_BYTES (n : Nat) : Nat := 0x118000 + n * 0x40 + 0x24
def DMA_CRC_LO (n : Nat) : Nat := 0x118000 + n * 0x40 + 0x28
def DMA_CRC_HI (n : Nat) : Nat := 0x118000 + n * 0x40 + 0x2c
def DMA_CRC_HI_SNAP (n : Nat) : Nat := 0x118000 + n * 0x40 + 0x30
def DMA_STAT (n : Nat) : Nat := 0x118000 + n * 0x40 + 0x34
def DMA_CNT_BURST (n : Nat) : Nat := 0x118000 + n * 0x40 + 0x38
def MBX_CFG (m : Nat) : Nat := 0x120000 + m * 0x40
def MBX_DB (m : Nat) : Nat := 0x120000 + m * 0x40 + 0x4
def MBX_STAT (m : Nat) : Nat := 0x120000 + m * 0x40 + 0x8
def MBX_DONE (m : Nat) : Nat := 0x120000 + m * 0x40 + 0xc
def MBX_MOD (m : Nat) : Nat := 0x120000 + m * 0x40 + 0x10
def YRD_OWN (p : Nat) : Nat := 0x600000 + p * 0x4

/-- Word `w` of event entry `e` (R99). -/
def EVT (e w : Nat) : Nat := 0x40000 + 16 * e + 4 * w
/-- Microword `k` of shed `n` in the store view (R23). -/
def UWORD (n k : Nat) : Nat := 0x80000 + n * 0x8000 + 4 * k
/-- Native word `w` of nanoword `k` of shed `n` in the store view (R23). -/
def NWORD (n k w : Nat) : Nat := 0x80000 + n * 0x8000 + 0x2000 + 16 * k + 4 * w
/-- Yard byte offset `o` as a bus address (R322). -/
def YARD (o : Nat) : Nat := 0x400000 + o
/-- Word `w` of the MSI-X table entry of vector `v`, and the pending-bit array (R318). -/
def MSIX (v w : Nat) : Nat := 0x700000 + 16 * v + 4 * w
def MSIX_PBA : Nat := 0x701000

end R

namespace F

def SYS_ID_PART : Fld := ⟨R.SYS_ID, 0, 16⟩
def SYS_ID_VENDOR : Fld := ⟨R.SYS_ID, 16, 8⟩
def SYS_REV_STEPPING : Fld := ⟨R.SYS_REV, 0, 8⟩
def SYS_REV_ROM_ID : Fld := ⟨R.SYS_REV, 8, 8⟩
def SYS_CAPS_TRACKERS : Fld := ⟨R.SYS_CAPS, 0, 4⟩
def SYS_CAPS_SHEDS : Fld := ⟨R.SYS_CAPS, 4, 4⟩
def SYS_CAPS_RUNNERS : Fld := ⟨R.SYS_CAPS, 8, 5⟩
def SYS_CAPS_VALVES : Fld := ⟨R.SYS_CAPS, 13, 5⟩
def SYS_CAPS_TWIN : Fld := ⟨R.SYS_CAPS, 18, 1⟩
def SYS_CAPS_FORERUNNER : Fld := ⟨R.SYS_CAPS, 19, 1⟩
def SYS_FW_VER_PATCH : Fld := ⟨R.SYS_FW_VER, 0, 8⟩
def SYS_FW_VER_MINOR : Fld := ⟨R.SYS_FW_VER, 8, 8⟩
def SYS_FW_VER_MAJOR : Fld := ⟨R.SYS_FW_VER, 16, 8⟩
def SYS_TWIN_PAIR_EN : Fld := ⟨R.SYS_TWIN, 0, 8⟩
def SYS_TWIN_PAIR_ACT : Fld := ⟨R.SYS_TWIN, 8, 8⟩
def SYS_CLK_STAT_XIN_OK : Fld := ⟨R.SYS_CLK_STAT, 0, 1⟩
def SYS_CLK_STAT_PLL_LOCK : Fld := ⟨R.SYS_CLK_STAT, 1, 1⟩
def SYS_CLK_STAT_TTH_PLL_LOCK : Fld := ⟨R.SYS_CLK_STAT, 2, 1⟩
def SYS_CLK_STAT_PCIE_REF_OK : Fld := ⟨R.SYS_CLK_STAT, 3, 1⟩
def SYS_CLK_STAT_FALLBACK : Fld := ⟨R.SYS_CLK_STAT, 4, 1⟩
def SYS_CLK_STAT_LOSS_SEEN : Fld := ⟨R.SYS_CLK_STAT, 5, 1⟩
def SYS_MODE_MODE : Fld := ⟨R.SYS_MODE, 0, 3⟩
def SYS_MODE_PREV : Fld := ⟨R.SYS_MODE, 3, 3⟩
def SYS_MODE_SEALED : Fld := ⟨R.SYS_MODE, 6, 1⟩
def SYS_MODE_CAUSE : Fld := ⟨R.SYS_MODE, 7, 5⟩
def SYS_MODE_LOCKED : Fld := ⟨R.SYS_MODE, 12, 1⟩
def SYS_TRK_CRIT_CRIT : Fld := ⟨R.SYS_TRK_CRIT, 0, 16⟩
def SYS_TRK_LIMP_LIMP_OK : Fld := ⟨R.SYS_TRK_LIMP, 0, 16⟩
def SYS_STRAP_HOSTSEL : Fld := ⟨R.SYS_STRAP, 0, 2⟩
def SYS_STRAP_TIO_PULL : Fld := ⟨R.SYS_STRAP, 2, 2⟩
def SYS_STRAP_SEAL_REQ : Fld := ⟨R.SYS_STRAP, 4, 1⟩
def SYS_BOOT_ROM_FAIL : Fld := ⟨R.SYS_BOOT, 0, 1⟩
def SYS_BOOT_OTP_BAD : Fld := ⟨R.SYS_BOOT, 1, 1⟩
def SYS_BOOT_KEY_PROG : Fld := ⟨R.SYS_BOOT, 2, 1⟩
def SYS_BOOT_PATCH_STAGED : Fld := ⟨R.SYS_BOOT, 3, 1⟩
def SYS_BOOT_PATCH_ACTIVE : Fld := ⟨R.SYS_BOOT, 4, 1⟩
def SYS_BOOT_PATCH_REJECT : Fld := ⟨R.SYS_BOOT, 5, 1⟩
def SYS_BOOT_BOOT_US : Fld := ⟨R.SYS_BOOT, 6, 14⟩
def SYS_SAFE_CNT_COUNT : Fld := ⟨R.SYS_SAFE_CNT, 0, 24⟩
def SYS_HOST_STAT_LINK_UP : Fld := ⟨R.SYS_HOST_STAT, 0, 1⟩
def SYS_HOST_STAT_SPEED : Fld := ⟨R.SYS_HOST_STAT, 1, 2⟩
def SYS_HOST_STAT_WIDTH : Fld := ⟨R.SYS_HOST_STAT, 3, 2⟩
def SYS_HOST_STAT_DSTATE : Fld := ⟨R.SYS_HOST_STAT, 5, 2⟩
def SYS_HOST_STAT_BME : Fld := ⟨R.SYS_HOST_STAT, 7, 1⟩
def SYS_HOST_STAT_MSIX_EN : Fld := ⟨R.SYS_HOST_STAT, 8, 1⟩
def SYS_HOST_STAT_L1 : Fld := ⟨R.SYS_HOST_STAT, 9, 1⟩
def SYS_HOST_STAT_HOSTSEL : Fld := ⟨R.SYS_HOST_STAT, 10, 2⟩
def SYS_HOST_STAT_BRIDGE_CLK : Fld := ⟨R.SYS_HOST_STAT, 12, 1⟩
def SYS_HOST_STAT_SPI_ABORT : Fld := ⟨R.SYS_HOST_STAT, 13, 1⟩
def SYS_HOST_STAT_SPI_OVF : Fld := ⟨R.SYS_HOST_STAT, 14, 1⟩
def SYS_HOST_REFUSED_COUNT : Fld := ⟨R.SYS_HOST_REFUSED, 0, 24⟩
def SYS_HOST_PARTIAL_COUNT : Fld := ⟨R.SYS_HOST_PARTIAL, 0, 24⟩
def SYS_HOST_FR_TIMEOUT_COUNT : Fld := ⟨R.SYS_HOST_FR_TIMEOUT, 0, 24⟩
def PWR_STAT_RAMP : Fld := ⟨R.PWR_STAT, 0, 1⟩
def PWR_STAT_RAMP_DONE : Fld := ⟨R.PWR_STAT, 1, 1⟩
def PWR_STAT_PFAIL_IN : Fld := ⟨R.PWR_STAT, 2, 1⟩
def PWR_STAT_PFAIL_SEEN : Fld := ⟨R.PWR_STAT, 3, 1⟩
def PWR_STAT_STEP : Fld := ⟨R.PWR_STAT, 4, 5⟩
def PWR_STAT_RAMP_BAD : Fld := ⟨R.PWR_STAT, 9, 1⟩
def PWR_RST_CAUSE_POR : Fld := ⟨R.PWR_RST_CAUSE, 0, 1⟩
def PWR_RST_CAUSE_BROWNOUT_CORE : Fld := ⟨R.PWR_RST_CAUSE, 1, 1⟩
def PWR_RST_CAUSE_BROWNOUT_IO : Fld := ⟨R.PWR_RST_CAUSE, 2, 1⟩
def PWR_RST_CAUSE_PIN : Fld := ⟨R.PWR_RST_CAUSE, 3, 1⟩
def PWR_RST_CAUSE_SOFT : Fld := ⟨R.PWR_RST_CAUSE, 4, 1⟩
def PWR_RST_CAUSE_SEQ_FAIL : Fld := ⟨R.PWR_RST_CAUSE, 5, 1⟩
def PWR_CFG_PF_SRC : Fld := ⟨R.PWR_CFG, 0, 2⟩
def PWR_CFG_PF_POL : Fld := ⟨R.PWR_CFG, 2, 1⟩
def PWR_CFG_PF_FILT : Fld := ⟨R.PWR_CFG, 3, 8⟩
def PWR_CFG_VS_PF : Fld := ⟨R.PWR_CFG, 11, 9⟩
def PWR_VCORE_MV : Fld := ⟨R.PWR_VCORE, 0, 16⟩
def PWR_VIO_MV : Fld := ⟨R.PWR_VIO, 0, 16⟩
def PWR_V33_MV : Fld := ⟨R.PWR_V33, 0, 16⟩
def PWR_VGD_MV : Fld := ⟨R.PWR_VGD, 0, 16⟩
def PWR_RAIL_STAT_CORE_WARN : Fld := ⟨R.PWR_RAIL_STAT, 0, 1⟩
def PWR_RAIL_STAT_IO_WARN : Fld := ⟨R.PWR_RAIL_STAT, 1, 1⟩
def PWR_RAIL_STAT_V33_WARN : Fld := ⟨R.PWR_RAIL_STAT, 2, 1⟩
def PWR_RAIL_STAT_VGD_UV : Fld := ⟨R.PWR_RAIL_STAT, 3, 1⟩
def PWR_RAIL_STAT_CORE_OV : Fld := ⟨R.PWR_RAIL_STAT, 4, 1⟩
def PWR_RAIL_STAT_IO_OV : Fld := ⟨R.PWR_RAIL_STAT, 5, 1⟩
def PWR_RAIL_STAT_V33_OV : Fld := ⟨R.PWR_RAIL_STAT, 6, 1⟩
def PWR_RAIL_STAT_VGD_OV : Fld := ⟨R.PWR_RAIL_STAT, 7, 1⟩
def PWR_RAIL_STAT_WARN_SEEN : Fld := ⟨R.PWR_RAIL_STAT, 8, 1⟩
def PWR_RAIL_STAT_OV_SEEN : Fld := ⟨R.PWR_RAIL_STAT, 9, 1⟩
def PWR_SEQ_CTL_REQ : Fld := ⟨R.PWR_SEQ_CTL, 0, 4⟩
def PWR_SEQ_CTL_LEVEL : Fld := ⟨R.PWR_SEQ_CTL, 4, 6⟩
def PWR_PMB_CFG_EN : Fld := ⟨R.PWR_PMB_CFG, 0, 1⟩
def PWR_PMB_CFG_SPEED : Fld := ⟨R.PWR_PMB_CFG, 1, 1⟩
def PWR_PMB_CFG_PEC : Fld := ⟨R.PWR_PMB_CFG, 2, 1⟩
def PWR_PMB_CFG_ALERT_ARA : Fld := ⟨R.PWR_PMB_CFG, 3, 1⟩
def PWR_PMB_STAT_BUSY : Fld := ⟨R.PWR_PMB_STAT, 0, 1⟩
def PWR_PMB_STAT_ALERT_IN : Fld := ⟨R.PWR_PMB_STAT, 1, 1⟩
def PWR_PMB_STAT_ALERT_SEEN : Fld := ⟨R.PWR_PMB_STAT, 2, 1⟩
def PWR_PMB_STAT_BUS_TIMEOUT : Fld := ⟨R.PWR_PMB_STAT, 3, 1⟩
def PWR_PMB_STAT_STALE : Fld := ⟨R.PWR_PMB_STAT, 4, 16⟩
def PWR_PMB_ALERT_ADDR_ADDR : Fld := ⟨R.PWR_PMB_ALERT_ADDR, 0, 7⟩
def PWR_PMB_ALERT_ADDR_VALID : Fld := ⟨R.PWR_PMB_ALERT_ADDR, 7, 1⟩
def PWR_VSG_CTL_EN : Fld := ⟨R.PWR_VSG_CTL, 0, 1⟩
def PWR_VSG_CFG_VIN_MIN : Fld := ⟨R.PWR_VSG_CFG, 0, 9⟩
def PWR_VSG_STAT_GATE : Fld := ⟨R.PWR_VSG_STAT, 0, 1⟩
def PWR_VSG_STAT_REVERSED : Fld := ⟨R.PWR_VSG_STAT, 1, 1⟩
def PWR_VSG_STAT_REV_SEEN : Fld := ⟨R.PWR_VSG_STAT, 2, 1⟩
def PWR_VSG_STAT_RCURR : Fld := ⟨R.PWR_VSG_STAT, 3, 1⟩
def PWR_VSG_STAT_UV : Fld := ⟨R.PWR_VSG_STAT, 4, 1⟩
def PWR_VSG_VIN_VIN : Fld := ⟨R.PWR_VSG_VIN, 0, 10⟩
def TB_LO_LO : Fld := ⟨R.TB_LO, 0, 24⟩
def TB_HI_HI : Fld := ⟨R.TB_HI, 0, 24⟩
def TB_HI_SNAP_HI_SNAP : Fld := ⟨R.TB_HI_SNAP, 0, 24⟩
def TB_BEAT_BEAT : Fld := ⟨R.TB_BEAT, 0, 24⟩
def TB_BEAT_T0_LO_SNAP_T0_LO : Fld := ⟨R.TB_BEAT_T0_LO_SNAP, 0, 24⟩
def TB_BEAT_T0_HI_SNAP_T0_HI : Fld := ⟨R.TB_BEAT_T0_HI_SNAP, 0, 24⟩
def TB_BEAT_CFG_PERIOD_US : Fld := ⟨R.TB_BEAT_CFG, 0, 7⟩
def TB_BEAT_CFG_OVR_LIMIT : Fld := ⟨R.TB_BEAT_CFG, 8, 8⟩
def TB_PHASE_TICK : Fld := ⟨R.TB_PHASE, 0, 15⟩
def TB_PHASE_PHASE : Fld := ⟨R.TB_PHASE, 15, 2⟩
def TB_COMMIT_CTL_HOLD : Fld := ⟨R.TB_COMMIT_CTL, 0, 1⟩
def TB_COMMIT_CTL_READY_ANY : Fld := ⟨R.TB_COMMIT_CTL, 1, 1⟩
def TB_STAT_OVR_LAST : Fld := ⟨R.TB_STAT, 0, 1⟩
def TB_STAT_OVR_STICKY : Fld := ⟨R.TB_STAT, 1, 1⟩
def TB_STAT_CFG_ERR : Fld := ⟨R.TB_STAT, 2, 1⟩
def TB_STAT_HOLD_EXPIRED : Fld := ⟨R.TB_STAT, 3, 1⟩
def TB_OVR_CNT_COUNT : Fld := ⟨R.TB_OVR_CNT, 0, 24⟩
def TB_HOLD_CNT_COUNT : Fld := ⟨R.TB_HOLD_CNT, 0, 24⟩
def TB_OVR_WHO_LATE : Fld := ⟨R.TB_OVR_WHO, 0, 20⟩
def TB_WARN_WARN : Fld := ⟨R.TB_WARN, 0, 20⟩
def TB_DISC_STAT_STATE : Fld := ⟨R.TB_DISC_STAT, 0, 2⟩
def TB_DISC_STAT_FAR : Fld := ⟨R.TB_DISC_STAT, 2, 1⟩
def TB_DISC_OFS_OFS : Fld := ⟨R.TB_DISC_OFS, 0, 24⟩
def TB_DISC_FREQ_FREQ : Fld := ⟨R.TB_DISC_FREQ, 0, 24⟩
def TB_DISC_CFG_SLEW_PPM : Fld := ⟨R.TB_DISC_CFG, 0, 6⟩
def TB_DISC_CFG_FAR_US : Fld := ⟨R.TB_DISC_CFG, 8, 10⟩
def IRQ_POOL_MASK : Fld := ⟨R.IRQ_POOL, 0, 16⟩
def IRQ_CORE_CLAIM_SRC : Fld := ⟨R.IRQ_CORE_CLAIM, 0, 9⟩
def IRQ_CORE_CLAIM_VALID : Fld := ⟨R.IRQ_CORE_CLAIM, 9, 1⟩
def IRQ_CORE_EOI_SRC : Fld := ⟨R.IRQ_CORE_EOI, 0, 9⟩
def IRQ_FALLBACK_CNT_COUNT : Fld := ⟨R.IRQ_FALLBACK_CNT, 0, 24⟩
def LOG_STAT_HEAD : Fld := ⟨R.LOG_STAT, 0, 11⟩
def LOG_STAT_WRAPPED : Fld := ⟨R.LOG_STAT, 11, 1⟩
def LOG_COUNT_COUNT : Fld := ⟨R.LOG_COUNT, 0, 12⟩
def LOG_SEQ_SEQ : Fld := ⟨R.LOG_SEQ, 0, 24⟩
def LOG_LOST_COUNT : Fld := ⟨R.LOG_LOST, 0, 24⟩
def LOG_SEL_INDEX : Fld := ⟨R.LOG_SEL, 0, 11⟩
def EVT_ARM_CFG_ARM_EN : Fld := ⟨R.EVT_ARM_CFG, 0, 1⟩
def EVT_ARM_STAT_SCAN_TICKS : Fld := ⟨R.EVT_ARM_STAT, 0, 11⟩
def EVT_ARM_STAGED_COUNT : Fld := ⟨R.EVT_ARM_STAGED, 0, 14⟩
def EVT_ECC_CNT_COUNT : Fld := ⟨R.EVT_ECC_CNT, 0, 24⟩
def EVT_ECC_ADDR_ENTRY : Fld := ⟨R.EVT_ECC_ADDR, 0, 13⟩
def EVT_ECC_ADDR_VALID : Fld := ⟨R.EVT_ECC_ADDR, 13, 1⟩
def EVT_ECC_ADDR_SHADOW : Fld := ⟨R.EVT_ECC_ADDR, 14, 1⟩
def EVT_TWIN_INJECT_SLOT : Fld := ⟨R.EVT_TWIN_INJECT, 0, 6⟩
def EVT_TWIN_INJECT_PAIR : Fld := ⟨R.EVT_TWIN_INJECT, 6, 3⟩
def EVT_TWIN_INJECT_GO : Fld := ⟨R.EVT_TWIN_INJECT, 9, 1⟩
def BST_CTL_EN : Fld := ⟨R.BST_CTL, 0, 1⟩
def BST_CFG_VSET : Fld := ⟨R.BST_CFG, 0, 9⟩
def BST_CFG_VHYS : Fld := ⟨R.BST_CFG, 9, 7⟩
def BST_LIM_VOV : Fld := ⟨R.BST_LIM, 0, 9⟩
def BST_LIM_VMIN : Fld := ⟨R.BST_LIM, 9, 9⟩
def BST_SW_ILIM : Fld := ⟨R.BST_SW, 0, 8⟩
def BST_SW_TON_MAX : Fld := ⟨R.BST_SW, 8, 8⟩
def BST_SW_TOFF : Fld := ⟨R.BST_SW, 16, 8⟩
def BST_STAT_VBST : Fld := ⟨R.BST_STAT, 0, 9⟩
def BST_STAT_CHARGING : Fld := ⟨R.BST_STAT, 9, 1⟩
def BST_STAT_OV : Fld := ⟨R.BST_STAT, 10, 1⟩
def BST_STAT_LOW : Fld := ⟨R.BST_STAT, 11, 1⟩
def BST_STAT_OV_SEEN : Fld := ⟨R.BST_STAT, 12, 1⟩
def BST_STAT_LOW_SEEN : Fld := ⟨R.BST_STAT, 13, 1⟩
def BST_VS_VS : Fld := ⟨R.BST_VS, 0, 9⟩
def BST_CNT_PULSE_COUNT : Fld := ⟨R.BST_CNT_PULSE, 0, 24⟩
def TTH_CTL_EN : Fld := ⟨R.TTH_CTL, 0, 1⟩
def TTH_CTL_JOIN : Fld := ⟨R.TTH_CTL, 1, 1⟩
def TTH_CFG_ROLE : Fld := ⟨R.TTH_CFG, 0, 2⟩
def TTH_CFG_PRIO : Fld := ⟨R.TTH_CFG, 2, 4⟩
def TTH_CFG_DEV_ID : Fld := ⟨R.TTH_CFG, 6, 5⟩
def TTH_CFG_RING_ID : Fld := ⟨R.TTH_CFG, 11, 4⟩
def TTH_CFG_CLOSED : Fld := ⟨R.TTH_CFG, 15, 1⟩
def TTH_STAT_STATE : Fld := ⟨R.TTH_STAT, 0, 3⟩
def TTH_STAT_WRAPPED : Fld := ⟨R.TTH_STAT, 3, 1⟩
def TTH_STAT_RING_WRAPPED : Fld := ⟨R.TTH_STAT, 4, 1⟩
def TTH_STAT_ORIGIN : Fld := ⟨R.TTH_STAT, 5, 5⟩
def TTH_STAT_MEMBERS : Fld := ⟨R.TTH_STAT, 10, 6⟩
def TTH_STAT_HOPS : Fld := ⟨R.TTH_STAT, 16, 8⟩
def TTH_VER_RING_VER : Fld := ⟨R.TTH_VER, 0, 8⟩
def TTH_VER_MIN_SEEN : Fld := ⟨R.TTH_VER, 8, 8⟩
def TTH_VER_FEAT_HELD : Fld := ⟨R.TTH_VER, 16, 1⟩
def TTH_PATH_PATH : Fld := ⟨R.TTH_PATH, 0, 24⟩
def TTH_CNT_LOST_COUNT : Fld := ⟨R.TTH_CNT_LOST, 0, 24⟩
def TTH_GATE_CFG_TX_EN : Fld := ⟨R.TTH_GATE_CFG, 0, 1⟩
def TTH_GATE_CFG_RX_EN : Fld := ⟨R.TTH_GATE_CFG, 1, 1⟩
def TTH_GATE_STAT_LINK : Fld := ⟨R.TTH_GATE_STAT, 0, 2⟩
def TTH_GATE_DELAY_DELAY : Fld := ⟨R.TTH_GATE_DELAY, 0, 24⟩
def TTH_GATE_ASYM_ASYM : Fld := ⟨R.TTH_GATE_ASYM, 0, 16⟩
def TTH_SLOT_TX_LO_USER_LO : Fld := ⟨R.TTH_SLOT_TX_LO, 0, 24⟩
def TTH_SLOT_TX_HI_USER_HI : Fld := ⟨R.TTH_SLOT_TX_HI, 0, 24⟩
def TRG_HOST_WAIT_WAIT_US : Fld := ⟨R.TRG_HOST_WAIT, 0, 10⟩
def DMA_CQ_0_ADDR : Fld := ⟨R.DMA_CQ_0, 0, 24⟩
def DMA_CQ_1_ADDR : Fld := ⟨R.DMA_CQ_1, 0, 24⟩
def DMA_CQ_2_ADDR : Fld := ⟨R.DMA_CQ_2, 0, 16⟩
def DMA_CQ_2_SPACE : Fld := ⟨R.DMA_CQ_2, 16, 1⟩
def DMA_CQ_CFG_SIZE_LOG : Fld := ⟨R.DMA_CQ_CFG, 0, 4⟩
def DMA_CQ_CFG_EN : Fld := ⟨R.DMA_CQ_CFG, 4, 1⟩
def DMA_CQ_HEAD_HEAD : Fld := ⟨R.DMA_CQ_HEAD, 0, 14⟩
def DMA_CQ_HEAD_PHASE : Fld := ⟨R.DMA_CQ_HEAD, 14, 1⟩
def DMA_CQ_TAIL_TAIL : Fld := ⟨R.DMA_CQ_TAIL, 0, 14⟩
def DMA_CQ_STAT_FULL : Fld := ⟨R.DMA_CQ_STAT, 0, 1⟩
def DMA_CQ_STAT_FAULT : Fld := ⟨R.DMA_CQ_STAT, 1, 1⟩
def DMA_LOAD_OUTST : Fld := ⟨R.DMA_LOAD, 0, 8⟩
def DMA_LOAD_BUF : Fld := ⟨R.DMA_LOAD, 8, 15⟩
def DMA_CNT_TIMEOUT_COUNT : Fld := ⟨R.DMA_CNT_TIMEOUT, 0, 24⟩
def MBX_DMA_MOD_COUNT : Fld := ⟨R.MBX_DMA_MOD, 0, 8⟩
def MBX_DMA_MOD_TIME : Fld := ⟨R.MBX_DMA_MOD, 8, 12⟩
def MBX_SLEEP_ASLEEP : Fld := ⟨R.MBX_SLEEP, 0, 1⟩
def MBX_SLEEP_WAKE_EN : Fld := ⟨R.MBX_SLEEP, 1, 6⟩
def MBX_SLEEP_WAKE_PEND : Fld := ⟨R.MBX_SLEEP, 7, 1⟩
def MBX_SLEEP_HELD_CLS : Fld := ⟨R.MBX_SLEEP, 8, 6⟩
def YRD_RESULT_PAGE : Fld := ⟨R.YRD_RESULT, 0, 13⟩
def YRD_RESULT_DONE : Fld := ⟨R.YRD_RESULT, 13, 1⟩
def YRD_RESULT_OK : Fld := ⟨R.YRD_RESULT, 14, 1⟩
def YRD_RESULT_REASON : Fld := ⟨R.YRD_RESULT, 15, 2⟩
def YRD_RESULT_GEN : Fld := ⟨R.YRD_RESULT, 17, 6⟩
def YRD_QUAR_COUNT : Fld := ⟨R.YRD_QUAR, 0, 14⟩
def YRD_VIOL_COUNT : Fld := ⟨R.YRD_VIOL, 0, 24⟩
def YRD_ECC_CNT_COUNT : Fld := ⟨R.YRD_ECC_CNT, 0, 24⟩
def PWR_SEQ_CFG_ORDER (k : Nat) : Fld := ⟨(R.PWR_SEQ_CFG k), 0, 2⟩
def PWR_SEQ_CFG_DELAY (k : Nat) : Fld := ⟨(R.PWR_SEQ_CFG k), 2, 8⟩
def PWR_PMB_POLL_ADDR (i : Nat) : Fld := ⟨(R.PWR_PMB_POLL i), 0, 7⟩
def PWR_PMB_POLL_CMD (i : Nat) : Fld := ⟨(R.PWR_PMB_POLL i), 7, 8⟩
def PWR_PMB_POLL_BYTE (i : Nat) : Fld := ⟨(R.PWR_PMB_POLL i), 15, 1⟩
def PWR_PMB_POLL_EN (i : Nat) : Fld := ⟨(R.PWR_PMB_POLL i), 16, 1⟩
def PWR_PMB_POLL_PERIOD (i : Nat) : Fld := ⟨(R.PWR_PMB_POLL i), 17, 6⟩
def PWR_PMB_DATA_RAW (i : Nat) : Fld := ⟨(R.PWR_PMB_DATA i), 0, 16⟩
def PWR_PMB_DATA_VALID (i : Nat) : Fld := ⟨(R.PWR_PMB_DATA i), 16, 1⟩
def PWR_PMB_DATA_STALE (i : Nat) : Fld := ⟨(R.PWR_PMB_DATA i), 17, 1⟩
def PWR_RAMP_OP (j : Nat) : Fld := ⟨(R.PWR_RAMP j), 0, 4⟩
def PWR_RAMP_ARG (j : Nat) : Fld := ⟨(R.PWR_RAMP j), 4, 8⟩
def PWR_RAMP_DT (j : Nat) : Fld := ⟨(R.PWR_RAMP j), 12, 12⟩
def TB_BUDGET_LIMIT (n : Nat) : Fld := ⟨(R.TB_BUDGET n), 0, 15⟩
def TB_USED_LAST (n : Nat) : Fld := ⟨(R.TB_USED n), 0, 15⟩
def TB_PEAK_PEAK (n : Nat) : Fld := ⟨(R.TB_PEAK n), 0, 15⟩
def IRQ_HOST_SRC_SRC (v : Nat) : Fld := ⟨(R.IRQ_HOST_SRC v), 0, 9⟩
def IRQ_HOST_SRC_VALID (v : Nat) : Fld := ⟨(R.IRQ_HOST_SRC v), 9, 1⟩
def IRQ_HOST_EOI_EOI (v : Nat) : Fld := ⟨(R.IRQ_HOST_EOI v), 0, 1⟩
def IRQ_PEND_PEND (w : Nat) : Fld := ⟨(R.IRQ_PEND w), 0, 16⟩
def IRQ_PEND_SET_SET (w : Nat) : Fld := ⟨(R.IRQ_PEND_SET w), 0, 16⟩
def IRQ_PEND_CLR_CLR (w : Nat) : Fld := ⟨(R.IRQ_PEND_CLR w), 0, 16⟩
def IRQ_MASK_MASK (w : Nat) : Fld := ⟨(R.IRQ_MASK w), 0, 16⟩
def IRQ_MASK_SET_SET (w : Nat) : Fld := ⟨(R.IRQ_MASK_SET w), 0, 16⟩
def IRQ_MASK_CLR_CLR (w : Nat) : Fld := ⟨(R.IRQ_MASK_CLR w), 0, 16⟩
def IRQ_INSVC_INSVC (w : Nat) : Fld := ⟨(R.IRQ_INSVC w), 0, 16⟩
def IRQ_RAW_RAW (w : Nat) : Fld := ⟨(R.IRQ_RAW w), 0, 16⟩
def IRQ_SRC_CFG_SENSE (g : Nat) : Fld := ⟨(R.IRQ_SRC_CFG g), 0, 2⟩
def IRQ_SRC_CFG_PRIO (g : Nat) : Fld := ⟨(R.IRQ_SRC_CFG g), 2, 4⟩
def IRQ_SRC_CFG_TGT_KIND (g : Nat) : Fld := ⟨(R.IRQ_SRC_CFG g), 6, 2⟩
def IRQ_SRC_CFG_TGT_IDX (g : Nat) : Fld := ⟨(R.IRQ_SRC_CFG g), 8, 5⟩
def IRQ_SRC_CFG_LEVEL_LINE (g : Nat) : Fld := ⟨(R.IRQ_SRC_CFG g), 13, 1⟩
def IRQ_SRC_CFG_FELL_BACK (g : Nat) : Fld := ⟨(R.IRQ_SRC_CFG g), 14, 1⟩
def LOG_DATA_WORD (w : Nat) : Fld := ⟨(R.LOG_DATA w), 0, 32⟩
def WHL_CTL_EN (n : Nat) : Fld := ⟨(R.WHL_CTL n), 0, 1⟩
def WHL_CTL_RESYNC (n : Nat) : Fld := ⟨(R.WHL_CTL n), 1, 1⟩
def WHL_CTL_AUTO_RESYNC (n : Nat) : Fld := ⟨(R.WHL_CTL n), 2, 1⟩
def WHL_CTL_LIMP_EN (n : Nat) : Fld := ⟨(R.WHL_CTL n), 3, 1⟩
def WHL_CTL_STOP_KEEP (n : Nat) : Fld := ⟨(R.WHL_CTL n), 4, 1⟩
def WHL_CTL_EARLY (n : Nat) : Fld := ⟨(R.WHL_CTL n), 5, 1⟩
def WHL_CFG_MODE (n : Nat) : Fld := ⟨(R.WHL_CFG n), 0, 4⟩
def WHL_CFG_SYNC_SRC (n : Nat) : Fld := ⟨(R.WHL_CFG n), 4, 2⟩
def WHL_CFG_REVS_M1 (n : Nat) : Fld := ⟨(R.WHL_CFG n), 6, 4⟩
def WHL_CFG_QMULT (n : Nat) : Fld := ⟨(R.WHL_CFG n), 10, 2⟩
def WHL_CFG_IDX_MODE (n : Nat) : Fld := ⟨(R.WHL_CFG n), 12, 2⟩
def WHL_CFG_EDGE_POL (n : Nat) : Fld := ⟨(R.WHL_CFG n), 14, 1⟩
def WHL_CFG_IDX_POL (n : Nat) : Fld := ⟨(R.WHL_CFG n), 15, 1⟩
def WHL_CFG_Z_QUAD (n : Nat) : Fld := ⟨(R.WHL_CFG n), 16, 2⟩
def WHL_CFG_DIR_INV (n : Nat) : Fld := ⟨(R.WHL_CFG n), 18, 1⟩
def WHL_CPC_C (n : Nat) : Fld := ⟨(R.WHL_CPC n), 0, 24⟩
def WHL_PAT_TOOTH_N_M1 (n : Nat) : Fld := ⟨(R.WHL_PAT n), 0, 10⟩
def WHL_PAT_IDX_N_M1 (n : Nat) : Fld := ⟨(R.WHL_PAT n), 10, 4⟩
def WHL_PAT_IDX_TOOTH (n : Nat) : Fld := ⟨(R.WHL_PAT n), 14, 10⟩
def WHL_ZERO_ZERO_OFS (n : Nat) : Fld := ⟨(R.WHL_ZERO n), 0, 24⟩
def WHL_NW_NW_LO (n : Nat) : Fld := ⟨(R.WHL_NW n), 0, 7⟩
def WHL_NW_NW_HI (n : Nat) : Fld := ⟨(R.WHL_NW n), 7, 9⟩
def WHL_SYNCCFG_TOL (n : Nat) : Fld := ⟨(R.WHL_SYNCCFG n), 0, 6⟩
def WHL_SYNCCFG_CONFIRM (n : Nat) : Fld := ⟨(R.WHL_SYNCCFG n), 6, 3⟩
def WHL_SYNCCFG_ERR_MAX (n : Nat) : Fld := ⟨(R.WHL_SYNCCFG n), 9, 4⟩
def WHL_SYNCCFG_SEEK_REVS (n : Nat) : Fld := ⟨(R.WHL_SYNCCFG n), 13, 4⟩
def WHL_SYNCCFG_LIMP_CONFIRM (n : Nat) : Fld := ⟨(R.WHL_SYNCCFG n), 17, 3⟩
def WHL_SYNCCFG_IDX_ERR_MAX (n : Nat) : Fld := ⟨(R.WHL_SYNCCFG n), 20, 4⟩
def WHL_STOP_STOP_TIME (n : Nat) : Fld := ⟨(R.WHL_STOP n), 0, 24⟩
def WHL_IN_TOOTH_SRC (n : Nat) : Fld := ⟨(R.WHL_IN n), 0, 8⟩
def WHL_IN_IDX_SRC (n : Nat) : Fld := ⟨(R.WHL_IN n), 8, 8⟩
def WHL_IN_B_SRC (n : Nat) : Fld := ⟨(R.WHL_IN n), 16, 8⟩
def WHL_FILT_TOOTH_GLITCH (n : Nat) : Fld := ⟨(R.WHL_FILT n), 0, 6⟩
def WHL_FILT_IDX_GLITCH (n : Nat) : Fld := ⟨(R.WHL_FILT n), 6, 6⟩
def WHL_FILT_B_GLITCH (n : Nat) : Fld := ⟨(R.WHL_FILT n), 12, 6⟩
def WHL_PW_FWD_MAX (n : Nat) : Fld := ⟨(R.WHL_PW n), 0, 12⟩
def WHL_PW_REV_MAX (n : Nat) : Fld := ⟨(R.WHL_PW n), 12, 12⟩
def WHL_SSI_TROUGH (n : Nat) : Fld := ⟨(R.WHL_SSI n), 0, 6⟩
def WHL_SSI_BITS (n : Nat) : Fld := ⟨(R.WHL_SSI n), 6, 5⟩
def WHL_VIRT_SRC (n : Nat) : Fld := ⟨(R.WHL_VIRT n), 0, 4⟩
def WHL_RATIO_NUM_NUM (n : Nat) : Fld := ⟨(R.WHL_RATIO_NUM n), 0, 24⟩
def WHL_RATIO_DEN_DEN (n : Nat) : Fld := ⟨(R.WHL_RATIO_DEN n), 0, 24⟩
def WHL_IDX_WIN_WIN (n : Nat) : Fld := ⟨(R.WHL_IDX_WIN n), 0, 24⟩
def WHL_LEARN_RATE (n : Nat) : Fld := ⟨(R.WHL_LEARN n), 0, 4⟩
def WHL_LEARN_EN (n : Nat) : Fld := ⟨(R.WHL_LEARN n), 4, 1⟩
def WHL_LEARN_CLEAR (n : Nat) : Fld := ⟨(R.WHL_LEARN n), 5, 1⟩
def WHL_REARM_ANGLE (n : Nat) : Fld := ⟨(R.WHL_REARM n), 0, 24⟩
def WHL_STAT_STATE (n : Nat) : Fld := ⟨(R.WHL_STAT n), 0, 3⟩
def WHL_STAT_IDX_SYNC (n : Nat) : Fld := ⟨(R.WHL_STAT n), 3, 1⟩
def WHL_STAT_DIR (n : Nat) : Fld := ⟨(R.WHL_STAT n), 4, 1⟩
def WHL_STAT_TOOTH_FAULT (n : Nat) : Fld := ⟨(R.WHL_STAT n), 5, 1⟩
def WHL_STAT_IDX_FAULT (n : Nat) : Fld := ⟨(R.WHL_STAT n), 6, 1⟩
def WHL_STAT_PATTERN_BAD (n : Nat) : Fld := ⟨(R.WHL_STAT n), 7, 1⟩
def WHL_STAT_CFG_ERR (n : Nat) : Fld := ⟨(R.WHL_STAT n), 8, 1⟩
def WHL_STAT_QUAD_WIRING (n : Nat) : Fld := ⟨(R.WHL_STAT n), 9, 1⟩
def WHL_STAT_PERIODS (n : Nat) : Fld := ⟨(R.WHL_STAT n), 10, 2⟩
def WHL_STAT_CAND (n : Nat) : Fld := ⟨(R.WHL_STAT n), 12, 4⟩
def WHL_STAT_ERR (n : Nat) : Fld := ⟨(R.WHL_STAT n), 16, 4⟩
def WHL_STAT_STOP_FROM (n : Nat) : Fld := ⟨(R.WHL_STAT n), 20, 1⟩
def WHL_STAT_UNLEARNED (n : Nat) : Fld := ⟨(R.WHL_STAT n), 21, 1⟩
def WHL_POS_TOOTH (n : Nat) : Fld := ⟨(R.WHL_POS n), 0, 10⟩
def WHL_POS_REV (n : Nat) : Fld := ⟨(R.WHL_POS n), 10, 4⟩
def WHL_POS_IDX (n : Nat) : Fld := ⟨(R.WHL_POS n), 14, 4⟩
def WHL_ANG_LO_LO (n : Nat) : Fld := ⟨(R.WHL_ANG_LO n), 0, 24⟩
def WHL_ANG_HI_HI (n : Nat) : Fld := ⟨(R.WHL_ANG_HI n), 0, 16⟩
def WHL_ANG_HI_SNAP_HI_SNAP (n : Nat) : Fld := ⟨(R.WHL_ANG_HI_SNAP n), 0, 16⟩
def WHL_ANGLE_ANGLE (n : Nat) : Fld := ⟨(R.WHL_ANGLE n), 0, 24⟩
def WHL_RATE_RATE (n : Nat) : Fld := ⟨(R.WHL_RATE n), 0, 24⟩
def WHL_EDGE_LO_LO (n : Nat) : Fld := ⟨(R.WHL_EDGE_LO n), 0, 24⟩
def WHL_EDGE_HI_HI (n : Nat) : Fld := ⟨(R.WHL_EDGE_HI n), 0, 24⟩
def WHL_EDGE_HI_SNAP_HI_SNAP (n : Nat) : Fld := ⟨(R.WHL_EDGE_HI_SNAP n), 0, 24⟩
def WHL_PER_LO_LO (n : Nat) : Fld := ⟨(R.WHL_PER_LO n), 0, 24⟩
def WHL_PER_HI_HI (n : Nat) : Fld := ⟨(R.WHL_PER_HI n), 0, 8⟩
def WHL_PER_HI_SNAP_HI_SNAP (n : Nat) : Fld := ⟨(R.WHL_PER_HI_SNAP n), 0, 8⟩
def WHL_PSUM_PSUM (n : Nat) : Fld := ⟨(R.WHL_PSUM n), 0, 22⟩
def WHL_CNT_NOISE_COUNT (n : Nat) : Fld := ⟨(R.WHL_CNT_NOISE n), 0, 24⟩
def WHL_CNT_ERR_COUNT (n : Nat) : Fld := ⟨(R.WHL_CNT_ERR n), 0, 24⟩
def WHL_CNT_LOSS_COUNT (n : Nat) : Fld := ⟨(R.WHL_CNT_LOSS n), 0, 24⟩
def WHL_IDXA_ANGLE (n : Nat) (j : Nat) : Fld := ⟨(R.WHL_IDXA n j), 0, 24⟩
def WHL_IDXW_MARK (n : Nat) (j : Nat) : Fld := ⟨(R.WHL_IDXW n j), 0, 24⟩
def SNS_CFG_TYPE (k : Nat) : Fld := ⟨(R.SNS_CFG k), 0, 2⟩
def SNS_CFG_BIAS_EN (k : Nat) : Fld := ⟨(R.SNS_CFG k), 2, 1⟩
def SNS_CFG_AUTO_SWAP (k : Nat) : Fld := ⟨(R.SNS_CFG k), 3, 1⟩
def SNS_CFG_INVERT (k : Nat) : Fld := ⟨(R.SNS_CFG k), 4, 1⟩
def SNS_CFG_ARM_FRAC (k : Nat) : Fld := ⟨(R.SNS_CFG k), 5, 7⟩
def SNS_CFG_VR_MIN (k : Nat) : Fld := ⟨(R.SNS_CFG k), 12, 8⟩
def SNS_CFG_DUTY_TOL (k : Nat) : Fld := ⟨(R.SNS_CFG k), 20, 4⟩
def SNS_THR_SE_THR (k : Nat) : Fld := ⟨(R.SNS_THR k), 0, 8⟩
def SNS_THR_HYST (k : Nat) : Fld := ⟨(R.SNS_THR k), 8, 8⟩
def SNS_THR_EXP_DUTY (k : Nat) : Fld := ⟨(R.SNS_THR k), 16, 8⟩
def SNS_STAT_OPEN (k : Nat) : Fld := ⟨(R.SNS_STAT k), 0, 1⟩
def SNS_STAT_SHORT_GND (k : Nat) : Fld := ⟨(R.SNS_STAT k), 1, 1⟩
def SNS_STAT_SHORT_SUP (k : Nat) : Fld := ⟨(R.SNS_STAT k), 2, 1⟩
def SNS_STAT_REVERSED (k : Nat) : Fld := ⟨(R.SNS_STAT k), 3, 1⟩
def SNS_STAT_SWAPPED (k : Nat) : Fld := ⟨(R.SNS_STAT k), 4, 1⟩
def SNS_STAT_FAULT_STICKY (k : Nat) : Fld := ⟨(R.SNS_STAT k), 5, 1⟩
def SNS_STAT_VR_PEAK (k : Nat) : Fld := ⟨(R.SNS_STAT k), 6, 12⟩
def PAT_PITCH (n : Nat) (k : Nat) : Fld := ⟨(R.PAT n k), 0, 12⟩
def PAT_MARK (n : Nat) (k : Nat) : Fld := ⟨(R.PAT n k), 12, 10⟩
def PAT_FEAT (n : Nat) (k : Nat) : Fld := ⟨(R.PAT n k), 22, 1⟩
def LRN_CORR (n : Nat) (k : Nat) : Fld := ⟨(R.LRN n k), 0, 16⟩
def SLOT_STAT_ENTRY (n : Nat) (s : Nat) : Fld := ⟨(R.SLOT_STAT n s), 0, 13⟩
def SLOT_STAT_STATE (n : Nat) (s : Nat) : Fld := ⟨(R.SLOT_STAT n s), 13, 2⟩
def SLOT_STAT_LATE (n : Nat) (s : Nat) : Fld := ⟨(R.SLOT_STAT n s), 15, 1⟩
def SLOT_STAT_REV (n : Nat) (s : Nat) : Fld := ⟨(R.SLOT_STAT n s), 16, 4⟩
def SLOT_STAT_FORCED (n : Nat) (s : Nat) : Fld := ⟨(R.SLOT_STAT n s), 20, 1⟩
def SLOT_FIRE_LO_LO (n : Nat) (s : Nat) : Fld := ⟨(R.SLOT_FIRE_LO n s), 0, 24⟩
def SLOT_FIRE_HI_HI (n : Nat) (s : Nat) : Fld := ⟨(R.SLOT_FIRE_HI n s), 0, 24⟩
def SLOT_FIRE_HI_SNAP_HI_SNAP (n : Nat) (s : Nat) : Fld := ⟨(R.SLOT_FIRE_HI_SNAP n s), 0, 24⟩
def TIO_CFG_OWNER (p : Nat) : Fld := ⟨(R.TIO_CFG p), 0, 2⟩
def TIO_CFG_OWN_IDX (p : Nat) : Fld := ⟨(R.TIO_CFG p), 2, 9⟩
def TIO_CFG_OE (p : Nat) : Fld := ⟨(R.TIO_CFG p), 11, 1⟩
def TIO_CFG_STATIC_LVL (p : Nat) : Fld := ⟨(R.TIO_CFG p), 12, 1⟩
def TIO_CFG_SAFE_LVL (p : Nat) : Fld := ⟨(R.TIO_CFG p), 13, 1⟩
def TIO_CFG_SAFE_HIZ (p : Nat) : Fld := ⟨(R.TIO_CFG p), 14, 1⟩
def TIO_CFG_FINE_EN (p : Nat) : Fld := ⟨(R.TIO_CFG p), 15, 1⟩
def TIO_STAT_LEVEL (p : Nat) : Fld := ⟨(R.TIO_STAT p), 0, 1⟩
def TIO_STAT_LINE (p : Nat) : Fld := ⟨(R.TIO_STAT p), 1, 1⟩
def TIO_STAT_CAL_A_OK (p : Nat) : Fld := ⟨(R.TIO_STAT p), 2, 1⟩
def TIO_STAT_CAL_B_OK (p : Nat) : Fld := ⟨(R.TIO_STAT p), 3, 1⟩
def TIO_STAT_FORCED (p : Nat) : Fld := ⟨(R.TIO_STAT p), 4, 1⟩
def TIO_STAT_COARSE (p : Nat) : Fld := ⟨(R.TIO_STAT p), 5, 1⟩
def TIO_COLL_COUNT (p : Nat) : Fld := ⟨(R.TIO_COLL p), 0, 24⟩
def TIO_CAL_TAPS_A (p : Nat) : Fld := ⟨(R.TIO_CAL p), 0, 6⟩
def TIO_CAL_TAPS_B (p : Nat) : Fld := ⟨(R.TIO_CAL p), 6, 6⟩
def SHD_EVT_FREE_SLOTS (n : Nat) : Fld := ⟨(R.SHD_EVT_FREE n), 0, 7⟩
def SHD_EVT_FREE_DEFERRED (n : Nat) : Fld := ⟨(R.SHD_EVT_FREE n), 7, 7⟩
def SHD_EVT_LATE_COUNT (n : Nat) : Fld := ⟨(R.SHD_EVT_LATE n), 0, 24⟩
def SHD_EVT_DROP_COUNT (n : Nat) : Fld := ⟨(R.SHD_EVT_DROP n), 0, 24⟩
def SHD_EVT_NOSLOT_COUNT (n : Nat) : Fld := ⟨(R.SHD_EVT_NOSLOT n), 0, 24⟩
def SHD_EVT_BAD_COUNT (n : Nat) : Fld := ⟨(R.SHD_EVT_BAD n), 0, 24⟩
def SHD_EVT_SKIP_COUNT (n : Nat) : Fld := ⟨(R.SHD_EVT_SKIP n), 0, 24⟩
def SHD_EVT_OVERLAP_COUNT (n : Nat) : Fld := ⟨(R.SHD_EVT_OVERLAP n), 0, 24⟩
def SHD_STL_PEND_PEND (n : Nat) : Fld := ⟨(R.SHD_STL_PEND n), 0, 24⟩
def SHD_STL_GO_GO (n : Nat) : Fld := ⟨(R.SHD_STL_GO n), 0, 24⟩
def SHD_STL_HALT_HALT (n : Nat) : Fld := ⟨(R.SHD_STL_HALT n), 0, 24⟩
def SHD_STL_MISMATCH_MISMATCH (n : Nat) : Fld := ⟨(R.SHD_STL_MISMATCH n), 0, 24⟩
def SHD_ENG_CTL_RST (n : Nat) : Fld := ⟨(R.SHD_ENG_CTL n), 0, 1⟩
def SHD_ENG_CTL_PARK (n : Nat) : Fld := ⟨(R.SHD_ENG_CTL n), 1, 1⟩
def SHD_ENG_CTL_IE (n : Nat) : Fld := ⟨(R.SHD_ENG_CTL n), 2, 1⟩
def SHD_ENG_STAT_STATE (n : Nat) : Fld := ⟨(R.SHD_ENG_STAT n), 0, 3⟩
def SHD_ENG_STAT_DONE_SIG (n : Nat) : Fld := ⟨(R.SHD_ENG_STAT n), 3, 1⟩
def SHD_ENG_STAT_START_HELD (n : Nat) : Fld := ⟨(R.SHD_ENG_STAT n), 4, 1⟩
def SHD_ENG_STAT_VIS (n : Nat) : Fld := ⟨(R.SHD_ENG_STAT n), 5, 1⟩
def SHD_ENG_STAT_SX (n : Nat) : Fld := ⟨(R.SHD_ENG_STAT n), 6, 5⟩
def SHD_ENG_STAT_TRAP_SX (n : Nat) : Fld := ⟨(R.SHD_ENG_STAT n), 11, 5⟩
def SHD_ENG_STAT_ECC_SAFE (n : Nat) : Fld := ⟨(R.SHD_ENG_STAT n), 16, 1⟩
def SHD_ENG_STAT_LEAD (n : Nat) : Fld := ⟨(R.SHD_ENG_STAT n), 17, 1⟩
def SHD_ENG_STAT_CHECK (n : Nat) : Fld := ⟨(R.SHD_ENG_STAT n), 18, 1⟩
def SHD_ENG_ENTRY_ENTRY (n : Nat) : Fld := ⟨(R.SHD_ENG_ENTRY n), 0, 11⟩
def SHD_ENG_VEC_IRQ_VEC (n : Nat) : Fld := ⟨(R.SHD_ENG_VEC n), 0, 11⟩
def SHD_ENG_VEC_FAULT_VEC (n : Nat) : Fld := ⟨(R.SHD_ENG_VEC n), 11, 11⟩
def SHD_ENG_LIMIT_UW_LIMIT (n : Nat) : Fld := ⟨(R.SHD_ENG_LIMIT n), 0, 12⟩
def SHD_ENG_LIMIT_NW_LIMIT (n : Nat) : Fld := ⟨(R.SHD_ENG_LIMIT n), 12, 11⟩
def SHD_ENG_IMAGE_VER (n : Nat) : Fld := ⟨(R.SHD_ENG_IMAGE n), 0, 16⟩
def SHD_ENG_IMAGE_KEY (n : Nat) : Fld := ⟨(R.SHD_ENG_IMAGE n), 16, 1⟩
def SHD_ENG_IMAGE_VALID (n : Nat) : Fld := ⟨(R.SHD_ENG_IMAGE n), 17, 1⟩
def SHD_ENG_SCANMASK_MASK (n : Nat) : Fld := ⟨(R.SHD_ENG_SCANMASK n), 0, 7⟩
def SHD_ENG_PRIO_BASE (n : Nat) : Fld := ⟨(R.SHD_ENG_PRIO n), 0, 4⟩
def SHD_ENG_PRIO_CUR (n : Nat) : Fld := ⟨(R.SHD_ENG_PRIO n), 4, 4⟩
def SHD_ENG_TRAPS_COUNT (n : Nat) : Fld := ⟨(R.SHD_ENG_TRAPS n), 0, 24⟩
def SHD_ENG_SKIP_COUNT (n : Nat) : Fld := ⟨(R.SHD_ENG_SKIP n), 0, 24⟩
def SHD_ENG_FAULTS_COUNT (n : Nat) : Fld := ⟨(R.SHD_ENG_FAULTS n), 0, 24⟩
def SHD_ENG_CAUSE_CAUSE (n : Nat) : Fld := ⟨(R.SHD_ENG_CAUSE n), 0, 24⟩
def SHD_ENG_MGR_ADDR_ADDR (n : Nat) : Fld := ⟨(R.SHD_ENG_MGR_ADDR n), 0, 8⟩
def SHD_ENG_MGR_DATA_DATA (n : Nat) : Fld := ⟨(R.SHD_ENG_MGR_DATA n), 0, 24⟩
def SHD_ENG_G_VALUE (n : Nat) (i : Nat) : Fld := ⟨(R.SHD_ENG_G n i), 0, 24⟩
def SHD_ENG_T_VALUE (n : Nat) (i : Nat) : Fld := ⟨(R.SHD_ENG_T n i), 0, 24⟩
def EVT_WIN_WIN (n : Nat) : Fld := ⟨(R.EVT_WIN n), 0, 24⟩
def EVT_WCFG_AUTO (n : Nat) : Fld := ⟨(R.EVT_WCFG n), 0, 1⟩
def EVT_WCFG_BEATS (n : Nat) : Fld := ⟨(R.EVT_WCFG n), 1, 4⟩
def EVT_STALL_TIME (n : Nat) : Fld := ⟨(R.EVT_STALL n), 0, 24⟩
def STL_CTL_RUN (k : Nat) : Fld := ⟨(R.STL_CTL k), 0, 1⟩
def STL_CTL_RESTART (k : Nat) : Fld := ⟨(R.STL_CTL k), 1, 1⟩
def STL_CTL_SHADOW (k : Nat) : Fld := ⟨(R.STL_CTL k), 2, 1⟩
def STL_CTL_LOAD (k : Nat) : Fld := ⟨(R.STL_CTL k), 3, 1⟩
def STL_CFG_DIR_MODE (k : Nat) : Fld := ⟨(R.STL_CFG k), 0, 2⟩
def STL_CFG_PRESCALE (k : Nat) : Fld := ⟨(R.STL_CFG k), 2, 4⟩
def STL_CFG_CLK_SRC (k : Nat) : Fld := ⟨(R.STL_CFG k), 6, 2⟩
def STL_CFG_IN_EDGE (k : Nat) : Fld := ⟨(R.STL_CFG k), 8, 2⟩
def STL_CFG_GATE (k : Nat) : Fld := ⟨(R.STL_CFG k), 10, 2⟩
def STL_CFG_CAP_MODE (k : Nat) : Fld := ⟨(R.STL_CFG k), 12, 2⟩
def STL_CFG_CAP_SEL (k : Nat) : Fld := ⟨(R.STL_CFG k), 14, 1⟩
def STL_CFG_ONE_PASS (k : Nat) : Fld := ⟨(R.STL_CFG k), 15, 1⟩
def STL_IO_IN_SRC (k : Nat) : Fld := ⟨(R.STL_IO k), 0, 8⟩
def STL_IO_ACT_A (k : Nat) : Fld := ⟨(R.STL_IO k), 8, 2⟩
def STL_IO_ACT_B (k : Nat) : Fld := ⟨(R.STL_IO k), 10, 2⟩
def STL_IO_ACT_TOP (k : Nat) : Fld := ⟨(R.STL_IO k), 12, 2⟩
def STL_IO_ACT_ZERO (k : Nat) : Fld := ⟨(R.STL_IO k), 14, 2⟩
def STL_IO_OUT_POL (k : Nat) : Fld := ⟨(R.STL_IO k), 16, 1⟩
def STL_IO_OUT_INIT (k : Nat) : Fld := ⟨(R.STL_IO k), 17, 1⟩
def STL_FLAGS_MATCH_A (k : Nat) : Fld := ⟨(R.STL_FLAGS k), 0, 1⟩
def STL_FLAGS_MATCH_B (k : Nat) : Fld := ⟨(R.STL_FLAGS k), 1, 1⟩
def STL_FLAGS_TOP (k : Nat) : Fld := ⟨(R.STL_FLAGS k), 2, 1⟩
def STL_FLAGS_ZERO (k : Nat) : Fld := ⟨(R.STL_FLAGS k), 3, 1⟩
def STL_FLAGS_CAPTURE (k : Nat) : Fld := ⟨(R.STL_FLAGS k), 4, 1⟩
def STL_FLAGS_CAP_OVR (k : Nat) : Fld := ⟨(R.STL_FLAGS k), 5, 1⟩
def STL_FLAGS_TOP_CROSSED (k : Nat) : Fld := ⟨(R.STL_FLAGS k), 6, 1⟩
def STL_IEN_EN (k : Nat) : Fld := ⟨(R.STL_IEN k), 0, 7⟩
def STL_STAT_OUT (k : Nat) : Fld := ⟨(R.STL_STAT k), 0, 1⟩
def STL_STAT_DOWN (k : Nat) : Fld := ⟨(R.STL_STAT k), 1, 1⟩
def STL_STAT_STEPPING (k : Nat) : Fld := ⟨(R.STL_STAT k), 2, 1⟩
def STL_STAT_MIRROR (k : Nat) : Fld := ⟨(R.STL_STAT k), 3, 1⟩
def STL_STAT_FORCED (k : Nat) : Fld := ⟨(R.STL_STAT k), 4, 1⟩
def STL_CNT_COUNT (k : Nat) : Fld := ⟨(R.STL_CNT k), 0, 24⟩
def STL_CNT_SNAP_SNAP (k : Nat) : Fld := ⟨(R.STL_CNT_SNAP k), 0, 24⟩
def STL_PERIOD_PER (k : Nat) : Fld := ⟨(R.STL_PERIOD k), 0, 24⟩
def STL_CMP_A_CMP (k : Nat) : Fld := ⟨(R.STL_CMP_A k), 0, 24⟩
def STL_CMP_B_CMP (k : Nat) : Fld := ⟨(R.STL_CMP_B k), 0, 24⟩
def STL_CAP_CAP (k : Nat) : Fld := ⟨(R.STL_CAP k), 0, 24⟩
def STL_PERIOD_ACT_PER (k : Nat) : Fld := ⟨(R.STL_PERIOD_ACT k), 0, 24⟩
def STL_CMP_A_ACT_CMP (k : Nat) : Fld := ⟨(R.STL_CMP_A_ACT k), 0, 24⟩
def STL_CMP_B_ACT_CMP (k : Nat) : Fld := ⟨(R.STL_CMP_B_ACT k), 0, 24⟩
def RUN_CTL_GO (n : Nat) : Fld := ⟨(R.RUN_CTL n), 0, 1⟩
def RUN_CTL_RESTART (n : Nat) : Fld := ⟨(R.RUN_CTL n), 1, 1⟩
def RUN_CTL_HALT (n : Nat) : Fld := ⟨(R.RUN_CTL n), 2, 1⟩
def RUN_CTL_PARK (n : Nat) : Fld := ⟨(R.RUN_CTL n), 3, 1⟩
def RUN_CTL_ENTRY (n : Nat) : Fld := ⟨(R.RUN_CTL n), 4, 7⟩
def RUN_CTL_SENSOR (n : Nat) : Fld := ⟨(R.RUN_CTL n), 11, 1⟩
def RUN_CFG_TRG_IN (n : Nat) : Fld := ⟨(R.RUN_CFG n), 0, 6⟩
def RUN_CFG_TRG_OUT (n : Nat) : Fld := ⟨(R.RUN_CFG n), 6, 6⟩
def RUN_CFG_DOUT_SLOT (n : Nat) : Fld := ⟨(R.RUN_CFG n), 12, 2⟩
def RUN_PIN_A_SLOT0 (n : Nat) : Fld := ⟨(R.RUN_PIN_A n), 0, 8⟩
def RUN_PIN_A_SLOT1 (n : Nat) : Fld := ⟨(R.RUN_PIN_A n), 8, 8⟩
def RUN_PIN_A_SLOT2 (n : Nat) : Fld := ⟨(R.RUN_PIN_A n), 16, 8⟩
def RUN_PIN_B_SLOT3 (n : Nat) : Fld := ⟨(R.RUN_PIN_B n), 0, 8⟩
def RUN_PIN_B_IN0 (n : Nat) : Fld := ⟨(R.RUN_PIN_B n), 8, 8⟩
def RUN_PIN_B_IN1 (n : Nat) : Fld := ⟨(R.RUN_PIN_B n), 16, 8⟩
def RUN_SHIFT_HALF (n : Nat) : Fld := ⟨(R.RUN_SHIFT n), 0, 11⟩
def RUN_SHIFT_SKEW (n : Nat) : Fld := ⟨(R.RUN_SHIFT n), 11, 9⟩
def RUN_SHIFT_CLK_IDLE (n : Nat) : Fld := ⟨(R.RUN_SHIFT n), 20, 1⟩
def RUN_SHIFT_SAMPLE (n : Nat) : Fld := ⟨(R.RUN_SHIFT n), 21, 1⟩
def RUN_SHIFT_LSB_FIRST (n : Nat) : Fld := ⟨(R.RUN_SHIFT n), 22, 1⟩
def RUN_STAT_STATE (n : Nat) : Fld := ⟨(R.RUN_STAT n), 0, 3⟩
def RUN_STAT_PC (n : Nat) : Fld := ⟨(R.RUN_STAT n), 3, 7⟩
def RUN_STAT_ON (n : Nat) : Fld := ⟨(R.RUN_STAT n), 10, 3⟩
def RUN_STAT_INJ_PEND (n : Nat) : Fld := ⟨(R.RUN_STAT n), 13, 1⟩
def RUN_STAT_INJ_LOST (n : Nat) : Fld := ⟨(R.RUN_STAT n), 14, 1⟩
def RUN_STAT_REQ (n : Nat) : Fld := ⟨(R.RUN_STAT n), 15, 1⟩
def RUN_STAT_POISON (n : Nat) : Fld := ⟨(R.RUN_STAT n), 16, 1⟩
def RUN_STAT_LATE_STICKY (n : Nat) : Fld := ⟨(R.RUN_STAT n), 17, 1⟩
def RUN_STAT_PIN_REFUSED (n : Nat) : Fld := ⟨(R.RUN_STAT n), 18, 1⟩
def RUN_STAT_PARITY (n : Nat) : Fld := ⟨(R.RUN_STAT n), 19, 1⟩
def RUN_STAT_ILLEGAL (n : Nat) : Fld := ⟨(R.RUN_STAT n), 20, 1⟩
def RUN_TIME_TR (n : Nat) : Fld := ⟨(R.RUN_TIME n), 0, 24⟩
def RUN_TFINE_TF (n : Nat) : Fld := ⟨(R.RUN_TFINE n), 0, 5⟩
def RUN_D0_D (n : Nat) : Fld := ⟨(R.RUN_D0 n), 0, 24⟩
def RUN_D1_D (n : Nat) : Fld := ⟨(R.RUN_D1 n), 0, 24⟩
def RUN_LOOP_LA (n : Nat) : Fld := ⟨(R.RUN_LOOP n), 0, 11⟩
def RUN_LOOP_LB (n : Nat) : Fld := ⟨(R.RUN_LOOP n), 11, 11⟩
def RUN_SR_LO_LO (n : Nat) : Fld := ⟨(R.RUN_SR_LO n), 0, 24⟩
def RUN_SR_HI_HI (n : Nat) : Fld := ⟨(R.RUN_SR_HI n), 0, 8⟩
def RUN_SR_HI_SNAP_HI_SNAP (n : Nat) : Fld := ⟨(R.RUN_SR_HI_SNAP n), 0, 8⟩
def RUN_BC_BC (n : Nat) : Fld := ⟨(R.RUN_BC n), 0, 6⟩
def RUN_STAMP_S (n : Nat) : Fld := ⟨(R.RUN_STAMP n), 0, 24⟩
def RUN_FLAGS_F (n : Nat) : Fld := ⟨(R.RUN_FLAGS n), 0, 4⟩
def RUN_FLAG_CLR_CLR (n : Nat) : Fld := ⟨(R.RUN_FLAG_CLR n), 0, 4⟩
def RUN_INJECT_INSN (n : Nat) : Fld := ⟨(R.RUN_INJECT n), 0, 16⟩
def RUN_IR_INSN (n : Nat) : Fld := ⟨(R.RUN_IR n), 0, 16⟩
def RUN_IR_VALID (n : Nat) : Fld := ⟨(R.RUN_IR n), 16, 1⟩
def RUN_IR_INJECTED (n : Nat) : Fld := ⟨(R.RUN_IR n), 17, 1⟩
def RUN_CNT_LATE_COUNT (n : Nat) : Fld := ⟨(R.RUN_CNT_LATE n), 0, 24⟩
def RUN_CNT_REQ_COUNT (n : Nat) : Fld := ⟨(R.RUN_CNT_REQ n), 0, 24⟩
def RUN_PROG_INSN (n : Nat) (i : Nat) : Fld := ⟨(R.RUN_PROG n i), 0, 16⟩
def VLV_CTL_EN (n : Nat) : Fld := ⟨(R.VLV_CTL n), 0, 1⟩
def VLV_CTL_RETRIG (n : Nat) : Fld := ⟨(R.VLV_CTL n), 1, 1⟩
def VLV_PROF_PROF (n : Nat) : Fld := ⟨(R.VLV_PROF n), 0, 6⟩
def VLV_SHUNT_SHUNT (n : Nat) : Fld := ⟨(R.VLV_SHUNT n), 0, 16⟩
def VLV_STAT_STATE (n : Nat) : Fld := ⟨(R.VLV_STAT n), 0, 3⟩
def VLV_STAT_WAITING (n : Nat) : Fld := ⟨(R.VLV_STAT n), 3, 1⟩
def VLV_STAT_OWNER_EVT (n : Nat) : Fld := ⟨(R.VLV_STAT n), 4, 1⟩
def VLV_STAT_GATE (n : Nat) : Fld := ⟨(R.VLV_STAT n), 5, 1⟩
def VLV_STAT_FORCED (n : Nat) : Fld := ⟨(R.VLV_STAT n), 6, 1⟩
def VLV_STAT_PROF_ACT (n : Nat) : Fld := ⟨(R.VLV_STAT n), 7, 6⟩
def VLV_STAT_BOOST_TIMEOUT (n : Nat) : Fld := ⟨(R.VLV_STAT n), 13, 1⟩
def VLV_STAT_CONFLICT (n : Nat) : Fld := ⟨(R.VLV_STAT n), 14, 1⟩
def VLV_STAT_PROFILE_BAD (n : Nat) : Fld := ⟨(R.VLV_STAT n), 15, 1⟩
def VLV_STAT_DECAY_LONG (n : Nat) : Fld := ⟨(R.VLV_STAT n), 16, 1⟩
def VLV_STAT_REFUSED_MODE (n : Nat) : Fld := ⟨(R.VLV_STAT n), 17, 1⟩
def VLV_I_X (n : Nat) : Fld := ⟨(R.VLV_I n), 0, 12⟩
def VLV_IAVG_AVG (n : Nat) : Fld := ⟨(R.VLV_IAVG n), 0, 16⟩
def VLV_IPEAK_PEAK (n : Nat) : Fld := ⟨(R.VLV_IPEAK n), 0, 12⟩
def VLV_TSTART_LO_LO (n : Nat) : Fld := ⟨(R.VLV_TSTART_LO n), 0, 24⟩
def VLV_TSTART_HI_HI (n : Nat) : Fld := ⟨(R.VLV_TSTART_HI n), 0, 24⟩
def VLV_TSTART_HI_SNAP_HI_SNAP (n : Nat) : Fld := ⟨(R.VLV_TSTART_HI_SNAP n), 0, 24⟩
def VLV_WAITT_WAIT (n : Nat) : Fld := ⟨(R.VLV_WAITT n), 0, 16⟩
def VLV_TBOOST_BOOST (n : Nat) : Fld := ⟨(R.VLV_TBOOST n), 0, 16⟩
def VLV_CNT_START_COUNT (n : Nat) : Fld := ⟨(R.VLV_CNT_START n), 0, 24⟩
def VLV_CNT_CONFLICT_COUNT (n : Nat) : Fld := ⟨(R.VLV_CNT_CONFLICT n), 0, 24⟩
def VLV_CNT_RETRIG_COUNT (n : Nat) : Fld := ⟨(R.VLV_CNT_RETRIG n), 0, 24⟩
def VLV_ISQ_ISQ (n : Nat) : Fld := ⟨(R.VLV_ISQ n), 0, 24⟩
def VLV_TW_TEMP (n : Nat) : Fld := ⟨(R.VLV_TW n), 0, 24⟩
def VLV_TB_TEMP (n : Nat) : Fld := ⟨(R.VLV_TB n), 0, 24⟩
def VLV_RHOT_RHOT (n : Nat) : Fld := ⟨(R.VLV_RHOT n), 0, 24⟩
def VLV_PW_PW (n : Nat) : Fld := ⟨(R.VLV_PW n), 0, 24⟩
def VLV_DIAG_CFG_OFF_EN (n : Nat) : Fld := ⟨(R.VLV_DIAG_CFG n), 0, 1⟩
def VLV_DIAG_CFG_ON_EN (n : Nat) : Fld := ⟨(R.VLV_DIAG_CFG n), 1, 1⟩
def VLV_DIAG_CFG_LOCK_OPEN (n : Nat) : Fld := ⟨(R.VLV_DIAG_CFG n), 2, 1⟩
def VLV_DIAG_CFG_OPEN_THR (n : Nat) : Fld := ⟨(R.VLV_DIAG_CFG n), 3, 12⟩
def VLV_DIAG_CFG_T_OPEN (n : Nat) : Fld := ⟨(R.VLV_DIAG_CFG n), 15, 8⟩
def VLV_DIAG_LIM_OC_THR (n : Nat) : Fld := ⟨(R.VLV_DIAG_LIM n), 0, 12⟩
def VLV_DIAG_LIM_VDS_MAX (n : Nat) : Fld := ⟨(R.VLV_DIAG_LIM n), 12, 8⟩
def VLV_OFS_OFS (n : Nat) : Fld := ⟨(R.VLV_OFS n), 0, 12⟩
def VLV_OFS_VALID (n : Nat) : Fld := ⟨(R.VLV_OFS n), 12, 1⟩
def VLV_DIAG_STAT_LOCKED (n : Nat) : Fld := ⟨(R.VLV_DIAG_STAT n), 0, 1⟩
def VLV_DIAG_STAT_L_OPEN (n : Nat) : Fld := ⟨(R.VLV_DIAG_STAT n), 1, 1⟩
def VLV_DIAG_STAT_L_SHORT_GND (n : Nat) : Fld := ⟨(R.VLV_DIAG_STAT n), 2, 1⟩
def VLV_DIAG_STAT_L_SHORT_SUP (n : Nat) : Fld := ⟨(R.VLV_DIAG_STAT n), 3, 1⟩
def VLV_DIAG_STAT_L_BANK (n : Nat) : Fld := ⟨(R.VLV_DIAG_STAT n), 4, 1⟩
def VLV_DIAG_STAT_L_THERMAL (n : Nat) : Fld := ⟨(R.VLV_DIAG_STAT n), 5, 1⟩
def VLV_DIAG_STAT_HOT (n : Nat) : Fld := ⟨(R.VLV_DIAG_STAT n), 6, 1⟩
def VLV_DIAG_STAT_MODEL_BAD (n : Nat) : Fld := ⟨(R.VLV_DIAG_STAT n), 7, 1⟩
def VLV_DIAG_STAT_UNLOCK_PEND (n : Nat) : Fld := ⟨(R.VLV_DIAG_STAT n), 8, 1⟩
def VLV_DIAG_STAT_OFF_VERDICT (n : Nat) : Fld := ⟨(R.VLV_DIAG_STAT n), 9, 3⟩
def VLV_DIAG_STAT_ON_VERDICT (n : Nat) : Fld := ⟨(R.VLV_DIAG_STAT n), 12, 2⟩
def VLV_DIAG_STAT_SUPPLY_OFF (n : Nat) : Fld := ⟨(R.VLV_DIAG_STAT n), 14, 1⟩
def VLV_DIAG_STAT_OFS_BAD (n : Nat) : Fld := ⟨(R.VLV_DIAG_STAT n), 15, 1⟩
def VLV_DIAG_STAT_FAULT_STICKY (n : Nat) : Fld := ⟨(R.VLV_DIAG_STAT n), 16, 1⟩
def VLV_UNLOCK_UNLOCK (n : Nat) : Fld := ⟨(R.VLV_UNLOCK n), 0, 1⟩
def VLV_CNT_TEST_COUNT (n : Nat) : Fld := ⟨(R.VLV_CNT_TEST n), 0, 24⟩
def VLV_CNT_ABORT_COUNT (n : Nat) : Fld := ⟨(R.VLV_CNT_ABORT n), 0, 24⟩
def VLV_CNT_LOCKREF_COUNT (n : Nat) : Fld := ⟨(R.VLV_CNT_LOCKREF n), 0, 24⟩
def HSW_CFG_SOLO (b : Nat) : Fld := ⟨(R.HSW_CFG b), 0, 1⟩
def HSW_CFG_GRACE (b : Nat) : Fld := ⟨(R.HSW_CFG b), 1, 8⟩
def HSW_CFG_DEAD (b : Nat) : Fld := ⟨(R.HSW_CFG b), 9, 7⟩
def HSW_STAT_SW (b : Nat) : Fld := ⟨(R.HSW_STAT b), 0, 2⟩
def HSW_STAT_HOLDER (b : Nat) : Fld := ⟨(R.HSW_STAT b), 2, 2⟩
def HSW_STAT_HELD (b : Nat) : Fld := ⟨(R.HSW_STAT b), 4, 1⟩
def HSW_STAT_WAIT (b : Nat) : Fld := ⟨(R.HSW_STAT b), 5, 4⟩
def HSW_STAT_BANK_CFG_ERR (b : Nat) : Fld := ⟨(R.HSW_STAT b), 9, 1⟩
def HSW_CNT_CONFLICT_COUNT (b : Nat) : Fld := ⟨(R.HSW_CNT_CONFLICT b), 0, 24⟩
def TTHP_STAT_LINK (p : Nat) : Fld := ⟨(R.TTHP_STAT p), 0, 2⟩
def TTHP_STAT_LOOP (p : Nat) : Fld := ⟨(R.TTHP_STAT p), 2, 1⟩
def TTHP_STAT_DOWN_SEEN (p : Nat) : Fld := ⟨(R.TTHP_STAT p), 3, 1⟩
def TTHP_DELAY_DELAY (p : Nat) : Fld := ⟨(R.TTHP_DELAY p), 0, 24⟩
def TTHP_ASYM_ASYM (p : Nat) : Fld := ⟨(R.TTHP_ASYM p), 0, 16⟩
def TTHP_CNT_CRC_COUNT (p : Nat) : Fld := ⟨(R.TTHP_CNT_CRC p), 0, 24⟩
def TTHP_CNT_STOMP_COUNT (p : Nat) : Fld := ⟨(R.TTHP_CNT_STOMP p), 0, 24⟩
def TTHP_CNT_DOWN_COUNT (p : Nat) : Fld := ⟨(R.TTHP_CNT_DOWN p), 0, 24⟩
def TTH_ANG_CFG_SRC (j : Nat) : Fld := ⟨(R.TTH_ANG_CFG j), 0, 2⟩
def TTH_ANG_CFG_TRK (j : Nat) : Fld := ⟨(R.TTH_ANG_CFG j), 2, 4⟩
def TTH_SLOT_LO_LO (i : Nat) : Fld := ⟨(R.TTH_SLOT_LO i), 0, 24⟩
def TTH_SLOT_HI_HI (i : Nat) : Fld := ⟨(R.TTH_SLOT_HI i), 0, 24⟩
def TTH_SLOT_HI_SNAP_HI_SNAP (i : Nat) : Fld := ⟨(R.TTH_SLOT_HI_SNAP i), 0, 24⟩
def TTH_SLOT_STAT_STAT (i : Nat) : Fld := ⟨(R.TTH_SLOT_STAT i), 0, 8⟩
def TTH_SLOT_STAT_MAJOR (i : Nat) : Fld := ⟨(R.TTH_SLOT_STAT i), 8, 8⟩
def TTH_SLOT_STAT_PRESENT (i : Nat) : Fld := ⟨(R.TTH_SLOT_STAT i), 16, 1⟩
def TRG_CTL_EN (q : Nat) : Fld := ⟨(R.TRG_CTL q), 0, 1⟩
def TRG_CTL_FLUSH (q : Nat) : Fld := ⟨(R.TRG_CTL q), 1, 1⟩
def TRG_CTL_MARK (q : Nat) : Fld := ⟨(R.TRG_CTL q), 2, 1⟩
def TRG_CTL_REWIND (q : Nat) : Fld := ⟨(R.TRG_CTL q), 3, 1⟩
def TRG_CFG_SIZE_LOG (q : Nat) : Fld := ⟨(R.TRG_CFG q), 0, 5⟩
def TRG_CFG_BASE (q : Nat) : Fld := ⟨(R.TRG_CFG q), 5, 16⟩
def TRG_CFG_AUTO_REL (q : Nat) : Fld := ⟨(R.TRG_CFG q), 21, 1⟩
def TRG_CFG_DIR (q : Nat) : Fld := ⟨(R.TRG_CFG q), 22, 1⟩
def TRG_STAT_EMPTY (q : Nat) : Fld := ⟨(R.TRG_STAT q), 0, 1⟩
def TRG_STAT_FULL (q : Nat) : Fld := ⟨(R.TRG_STAT q), 1, 1⟩
def TRG_STAT_MARK_OK (q : Nat) : Fld := ⟨(R.TRG_STAT q), 2, 1⟩
def TRG_STAT_MARK_STALE (q : Nat) : Fld := ⟨(R.TRG_STAT q), 3, 1⟩
def TRG_STAT_OVERFLOW (q : Nat) : Fld := ⟨(R.TRG_STAT q), 4, 1⟩
def TRG_STAT_UNDERRUN (q : Nat) : Fld := ⟨(R.TRG_STAT q), 5, 1⟩
def TRG_STAT_CFG_ERR (q : Nat) : Fld := ⟨(R.TRG_STAT q), 6, 1⟩
def TRG_STAT_PAR_SEEN (q : Nat) : Fld := ⟨(R.TRG_STAT q), 7, 1⟩
def TRG_STAT_DIR_ERR (q : Nat) : Fld := ⟨(R.TRG_STAT q), 8, 1⟩
def TRG_STAT_REL_BUSY (q : Nat) : Fld := ⟨(R.TRG_STAT q), 9, 1⟩
def TRG_STAT_HOST (q : Nat) : Fld := ⟨(R.TRG_STAT q), 10, 1⟩
def TRG_UNREAD_COUNT (q : Nat) : Fld := ⟨(R.TRG_UNREAD q), 0, 17⟩
def TRG_SPACE_COUNT (q : Nat) : Fld := ⟨(R.TRG_SPACE q), 0, 17⟩
def TRG_PTR_W_PTR (q : Nat) : Fld := ⟨(R.TRG_PTR_W q), 0, 17⟩
def TRG_PTR_R_PTR (q : Nat) : Fld := ⟨(R.TRG_PTR_R q), 0, 17⟩
def TRG_PTR_REL_PTR (q : Nat) : Fld := ⟨(R.TRG_PTR_REL q), 0, 17⟩
def TRG_PTR_MARK_PTR (q : Nat) : Fld := ⟨(R.TRG_PTR_MARK q), 0, 17⟩
def TRG_DATA_DATA (q : Nat) : Fld := ⟨(R.TRG_DATA q), 0, 24⟩
def TRG_DATA_POISON (q : Nat) : Fld := ⟨(R.TRG_DATA q), 24, 1⟩
def TRG_DATA_EMPTY (q : Nat) : Fld := ⟨(R.TRG_DATA q), 25, 1⟩
def TRG_PEEK_WORD (q : Nat) : Fld := ⟨(R.TRG_PEEK q), 0, 26⟩
def TRG_REL_N (q : Nat) : Fld := ⟨(R.TRG_REL q), 0, 17⟩
def TRG_REL_ALL (q : Nat) : Fld := ⟨(R.TRG_REL q), 23, 1⟩
def TRG_CNT_PAR_COUNT (q : Nat) : Fld := ⟨(R.TRG_CNT_PAR q), 0, 24⟩
def TRG_CNT_DROP_COUNT (q : Nat) : Fld := ⟨(R.TRG_CNT_DROP q), 0, 24⟩
def DMA_CTL_START (n : Nat) : Fld := ⟨(R.DMA_CTL n), 0, 1⟩
def DMA_CTL_STOP (n : Nat) : Fld := ⟨(R.DMA_CTL n), 1, 1⟩
def DMA_CTL_DISABLE (n : Nat) : Fld := ⟨(R.DMA_CTL n), 2, 1⟩
def DMA_CFG_CLASS (n : Nat) : Fld := ⟨(R.DMA_CFG n), 0, 1⟩
def DMA_CFG_PRIO (n : Nat) : Fld := ⟨(R.DMA_CFG n), 1, 2⟩
def DMA_CFG_REQ_SEL (n : Nat) : Fld := ⟨(R.DMA_CFG n), 3, 7⟩
def DMA_CFG_BURST (n : Nat) : Fld := ⟨(R.DMA_CFG n), 10, 13⟩
def DMA_HOP_LIMIT (n : Nat) : Fld := ⟨(R.DMA_HOP n), 0, 16⟩
def DMA_DESC_0_ADDR (n : Nat) : Fld := ⟨(R.DMA_DESC_0 n), 0, 24⟩
def DMA_DESC_1_ADDR (n : Nat) : Fld := ⟨(R.DMA_DESC_1 n), 0, 24⟩
def DMA_DESC_2_ADDR (n : Nat) : Fld := ⟨(R.DMA_DESC_2 n), 0, 16⟩
def DMA_DESC_2_SPACE (n : Nat) : Fld := ⟨(R.DMA_DESC_2 n), 16, 1⟩
def DMA_CUR_0_ADDR (n : Nat) : Fld := ⟨(R.DMA_CUR_0 n), 0, 24⟩
def DMA_CUR_1_ADDR (n : Nat) : Fld := ⟨(R.DMA_CUR_1 n), 0, 24⟩
def DMA_CUR_2_ADDR (n : Nat) : Fld := ⟨(R.DMA_CUR_2 n), 0, 16⟩
def DMA_CUR_2_SPACE (n : Nat) : Fld := ⟨(R.DMA_CUR_2 n), 16, 1⟩
def DMA_BYTES_BYTES (n : Nat) : Fld := ⟨(R.DMA_BYTES n), 0, 24⟩
def DMA_CRC_LO_LO (n : Nat) : Fld := ⟨(R.DMA_CRC_LO n), 0, 24⟩
def DMA_CRC_HI_HI (n : Nat) : Fld := ⟨(R.DMA_CRC_HI n), 0, 8⟩
def DMA_CRC_HI_SNAP_HI_SNAP (n : Nat) : Fld := ⟨(R.DMA_CRC_HI_SNAP n), 0, 8⟩
def DMA_STAT_STATE (n : Nat) : Fld := ⟨(R.DMA_STAT n), 0, 3⟩
def DMA_STAT_LAST_STATUS (n : Nat) : Fld := ⟨(R.DMA_STAT n), 3, 8⟩
def DMA_STAT_CFG_ERR (n : Nat) : Fld := ⟨(R.DMA_STAT n), 11, 1⟩
def DMA_STAT_POISON_SEEN (n : Nat) : Fld := ⟨(R.DMA_STAT n), 12, 1⟩
def DMA_STAT_OUTST (n : Nat) : Fld := ⟨(R.DMA_STAT n), 13, 8⟩
def DMA_CNT_BURST_COUNT (n : Nat) : Fld := ⟨(R.DMA_CNT_BURST n), 0, 24⟩
def MBX_CFG_BASE_PAGE (m : Nat) : Fld := ⟨(R.MBX_CFG m), 0, 13⟩
def MBX_CFG_SLOTS_LOG (m : Nat) : Fld := ⟨(R.MBX_CFG m), 13, 3⟩
def MBX_CFG_EN (m : Nat) : Fld := ⟨(R.MBX_CFG m), 16, 1⟩
def MBX_DB_PROD (m : Nat) : Fld := ⟨(R.MBX_DB m), 0, 7⟩
def MBX_STAT_CONS (m : Nat) : Fld := ⟨(R.MBX_STAT m), 0, 7⟩
def MBX_STAT_SERVING (m : Nat) : Fld := ⟨(R.MBX_STAT m), 7, 1⟩
def MBX_STAT_WAIT_OWN (m : Nat) : Fld := ⟨(R.MBX_STAT m), 8, 1⟩
def MBX_STAT_DB_ERR (m : Nat) : Fld := ⟨(R.MBX_STAT m), 9, 1⟩
def MBX_STAT_CFG_ERR (m : Nat) : Fld := ⟨(R.MBX_STAT m), 10, 1⟩
def MBX_STAT_HDR_ERR (m : Nat) : Fld := ⟨(R.MBX_STAT m), 11, 1⟩
def MBX_STAT_HELD (m : Nat) : Fld := ⟨(R.MBX_STAT m), 12, 8⟩
def MBX_DONE_DONE (m : Nat) : Fld := ⟨(R.MBX_DONE m), 0, 7⟩
def MBX_MOD_COUNT (m : Nat) : Fld := ⟨(R.MBX_MOD m), 0, 8⟩
def MBX_MOD_TIME (m : Nat) : Fld := ⟨(R.MBX_MOD m), 8, 12⟩
def YRD_OWN_OWNER (p : Nat) : Fld := ⟨(R.YRD_OWN p), 0, 2⟩
def YRD_OWN_GEN (p : Nat) : Fld := ⟨(R.YRD_OWN p), 2, 6⟩
def YRD_OWN_ECC_SEEN (p : Nat) : Fld := ⟨(R.YRD_OWN p), 8, 1⟩
def RAMP_LEN : Fld := ⟨R.PWR_RAMP 31, 0, 5⟩
def RAMP_EN : Fld := ⟨R.PWR_RAMP 31, 5, 1⟩

end F

/-- The registers of the SYS block. -/
def sysRows : List RegRow :=
  [ ⟨0x0, [], 0x0, 0x0, 0x0, 0x0, 0x0, 0x4e3840, false⟩,
    ⟨0x4, [], 0x0, 0x0, 0x0, 0x0, 0x0, 0x0, false⟩,
    ⟨0x8, [], 0x0, 0x0, 0x0, 0x0, 0x0, 0xfffff, false⟩,
    ⟨0xc, [], 0x0, 0x0, 0x0, 0x0, 0x0, 0x0, false⟩,
    ⟨0x10, [], 0x0, 0xff, 0x0, 0x0, 0x0, 0x0, false⟩,
    ⟨0x14, [], 0x0, 0x0, 0x0, 0x20, 0x0, 0x10, false⟩,
    ⟨0x100, [], 0x0, 0x0, 0x0, 0x0, 0x0, 0x1, false⟩,
    ⟨0x104, [], 0xffff, 0x0, 0x0, 0x0, 0x0, 0x0, true⟩,
    ⟨0x108, [], 0xffff, 0x0, 0x0, 0x0, 0x0, 0x0, true⟩,
    ⟨0x10c, [], 0x0, 0x0, 0x0, 0x0, 0x0, 0x0, false⟩,
    ⟨0x110, [], 0x0, 0x0, 0x0, 0x20, 0x0, 0x0, false⟩,
    ⟨0x114, [], 0x0, 0x0, 0x0, 0x0, 0xffffff, 0x0, false⟩,
    ⟨0x200, [], 0x0, 0x0, 0x0, 0x6000, 0x0, 0x0, false⟩,
    ⟨0x204, [], 0x0, 0x0, 0x0, 0x0, 0xffffff, 0x0, false⟩,
    ⟨0x208, [], 0x0, 0x0, 0x0, 0x0, 0xffffff, 0x0, false⟩,
    ⟨0x20c, [], 0x0, 0x0, 0x0, 0x0, 0xffffff, 0x0, false⟩ ]

/-- The registers of the PWR block. -/
def pwrRows : List RegRow :=
  [ ⟨0x1000, [], 0x0, 0x0, 0x0, 0xa, 0x0, 0x200, false⟩,
    ⟨0x1004, [], 0x0, 0x0, 0x0, 0x3f, 0x0, 0x0, false⟩,
    ⟨0x1008, [], 0x0, 0xfffff, 0x0, 0x0, 0x0, 0x240a0, true⟩,
    ⟨0x1010, [], 0x0, 0x0, 0x0, 0x0, 0x0, 0x0, false⟩,
    ⟨0x1014, [], 0x0, 0x0, 0x0, 0x0, 0x0, 0x0, false⟩,
    ⟨0x1018, [], 0x0, 0x0, 0x0, 0x0, 0x0, 0x0, false⟩,
    ⟨0x101c, [], 0x0, 0x0, 0x0, 0x0, 0x0, 0x0, false⟩,
    ⟨0x1020, [], 0x0, 0x0, 0x0, 0x300, 0x0, 0x0, false⟩,
    ⟨0x1030, [], 0xf, 0x0, 0x0, 0x0, 0x0, 0x0, true⟩,
    ⟨0x1100, [], 0xf, 0x0, 0x0, 0x0, 0x0, 0xc, true⟩,
    ⟨0x1104, [], 0x0, 0x0, 0x0, 0xc, 0x0, 0x0, false⟩,
    ⟨0x1108, [], 0x0, 0x0, 0x0, 0x80, 0x0, 0x0, false⟩,
    ⟨0x1c00, [], 0x1, 0x0, 0x0, 0x0, 0x0, 0x0, true⟩,
    ⟨0x1c04, [], 0x1ff, 0x0, 0x0, 0x0, 0x0, 0x48, true⟩,
    ⟨0x1c08, [], 0x0, 0x0, 0x0, 0x4, 0x0, 0x0, false⟩,
    ⟨0x1c0c, [], 0x0, 0x0, 0x0, 0x0, 0x0, 0x0, false⟩,
    ⟨0x1048, [(0x4, 4)], 0x3ff, 0x0, 0x0, 0x0, 0x0, 0x0, true⟩,
    ⟨0x1140, [(0x8, 16)], 0x7fffff, 0x0, 0x0, 0x0, 0x0, 0x140000, true⟩,
    ⟨0x1144, [(0x8, 16)], 0x0, 0x0, 0x0, 0x0, 0x0, 0x0, false⟩,
    ⟨0x1400, [(0x4, 31)], 0xffffff, 0x0, 0x0, 0x0, 0x0, 0x0, true⟩,
    ⟨0x147c, [], 0x3f, 0x0, 0x0, 0x0, 0x0, 0x0, true⟩ ]

/-- The registers of the TB block. -/
def tbRows : List RegRow :=
  [ ⟨0x2000, [], 0x0, 0x0, 0x0, 0x0, 0x0, 0x0, false⟩,
    ⟨0x2004, [], 0x0, 0x0, 0x0, 0x0, 0x0, 0x0, false⟩,
    ⟨0x2008, [], 0x0, 0x0, 0x0, 0x0, 0x0, 0x0, false⟩,
    ⟨0x200c, [], 0x0, 0x0, 0x0, 0x0, 0x0, 0x0, false⟩,
    ⟨0x2010, [], 0x0, 0x0, 0x0, 0x0, 0x0, 0x0, false⟩,
    ⟨0x2014, [], 0x0, 0x0, 0x0, 0x0, 0x0, 0x0, false⟩,
    ⟨0x2018, [], 0x0, 0xff7f, 0x0, 0x0, 0x0, 0x1010, false⟩,
    ⟨0x201c, [], 0x0, 0x0, 0x0, 0x0, 0x0, 0x0, false⟩,
    ⟨0x2020, [], 0x1, 0x0, 0x0, 0x0, 0x0, 0x0, false⟩,
    ⟨0x2024, [], 0x0, 0x0, 0x0, 0xe, 0x0, 0x0, false⟩,
    ⟨0x2028, [], 0x0, 0x0, 0x0, 0x0, 0x0, 0x0, false⟩,
    ⟨0x202c, [], 0x0, 0x0, 0x0, 0x0, 0x0, 0x0, false⟩,
    ⟨0x2030, [], 0x0, 0x0, 0x0, 0x0, 0x0, 0x0, false⟩,
    ⟨0x2034, [], 0x0, 0x0, 0x0, 0xfffff, 0x0, 0x0, false⟩,
    ⟨0x2200, [], 0x0, 0x0, 0x0, 0x0, 0x0, 0x0, false⟩,
    ⟨0x2204, [], 0x0, 0x0, 0x0, 0x0, 0x0, 0x0, false⟩,
    ⟨0x2208, [], 0x0, 0x0, 0x0, 0x0, 0x0, 0x0, false⟩,
    ⟨0x220c, [], 0x0, 0x3ff3f, 0x0, 0x0, 0x0, 0x3e814, false⟩,
    ⟨0x2040, [(0x4, 20)], 0x7fff, 0x0, 0x0, 0x0, 0x0, 0x7fff, false⟩,
    ⟨0x20c0, [(0x4, 20)], 0x0, 0x0, 0x0, 0x0, 0x0, 0x0, false⟩,
    ⟨0x2140, [(0x4, 20)], 0x0, 0x0, 0x0, 0x0, 0x7fff, 0x0, false⟩ ]

/-- The registers of the IRQ block. -/
def irqRows : List RegRow :=
  [ ⟨0x3000, [], 0xffff, 0x0, 0x0, 0x0, 0x0, 0xffff, false⟩,
    ⟨0x3004, [], 0x0, 0x0, 0x0, 0x0, 0x0, 0x0, false⟩,
    ⟨0x3008, [], 0x0, 0x0, 0x0, 0x0, 0x0, 0x0, false⟩,
    ⟨0x300c, [], 0x0, 0x0, 0x0, 0x0, 0xffffff, 0x0, false⟩,
    ⟨0x3100, [(0x4, 32)], 0x0, 0x0, 0x0, 0x0, 0x0, 0x0, false⟩,
    ⟨0x3180, [(0x4, 32)], 0x0, 0x0, 0x0, 0x0, 0x0, 0x0, false⟩,
    ⟨0x4000, [(0x4, 32)], 0x0, 0x0, 0x0, 0x0, 0x0, 0x0, false⟩,
    ⟨0x4080, [(0x4, 32)], 0x0, 0x0, 0xffff, 0x0, 0x0, 0x0, false⟩,
    ⟨0x4100, [(0x4, 32)], 0x0, 0x0, 0x0, 0xffff, 0x0, 0x0, false⟩,
    ⟨0x4180, [(0x4, 32)], 0x0, 0x0, 0x0, 0x0, 0x0, 0xffff, false⟩,
    ⟨0x4200, [(0x4, 32)], 0x0, 0x0, 0xffff, 0x0, 0x0, 0x0, false⟩,
    ⟨0x4280, [(0x4, 32)], 0x0, 0x0, 0x0, 0xffff, 0x0, 0x0, false⟩,
    ⟨0x4300, [(0x4, 32)], 0x0, 0x0, 0x0, 0x0, 0x0, 0x0, false⟩,
    ⟨0x4380, [(0x4, 32)], 0x0, 0x0, 0x0, 0x0, 0x0, 0x0, false⟩,
    ⟨0x5000, [(0x4, 512)], 0x1fff, 0x0, 0x0, 0x4000, 0x0, 0x20, false⟩ ]

/-- The registers of the LOG block. -/
def logRows : List RegRow :=
  [ ⟨0xffc0, [], 0x0, 0x0, 0x0, 0x0, 0x0, 0x0, false⟩,
    ⟨0xffc4, [], 0x0, 0x0, 0x0, 0x0, 0x0, 0x0, false⟩,
    ⟨0xffc8, [], 0x0, 0x0, 0x0, 0x0, 0x0, 0x0, false⟩,
    ⟨0xffcc, [], 0x0, 0x0, 0x0, 0x0, 0xffffff, 0x0, false⟩,
    ⟨0xffd0, [], 0x7ff, 0x0, 0x0, 0x0, 0x0, 0x0, false⟩,
    ⟨0xffd4, [(0x4, 4)], 0x0, 0x0, 0x0, 0x0, 0x0, 0x0, false⟩ ]

/-- The registers of the WHL block. -/
def whlRows : List RegRow :=
  [ ⟨0x10000, [(0x1000, 16)], 0x3d, 0x0, 0x2, 0x0, 0x0, 0x14, true⟩,
    ⟨0x10004, [(0x1000, 16)], 0x0, 0x7ffff, 0x0, 0x0, 0x0, 0x30800, true⟩,
    ⟨0x10008, [(0x1000, 16)], 0x0, 0xffffff, 0x0, 0x0, 0x0, 0x0, true⟩,
    ⟨0x1000c, [(0x1000, 16)], 0x0, 0xffffff, 0x0, 0x0, 0x0, 0x0, true⟩,
    ⟨0x10010, [(0x1000, 16)], 0x0, 0xffffff, 0x0, 0x0, 0x0, 0x0, true⟩,
    ⟨0x10014, [(0x1000, 16)], 0xffff, 0x0, 0x0, 0x0, 0x0, 0x7d28, true⟩,
    ⟨0x10018, [(0x1000, 16)], 0xffffff, 0x0, 0x0, 0x0, 0x0, 0x226459, true⟩,
    ⟨0x1001c, [(0x1000, 16)], 0xffffff, 0x0, 0x0, 0x0, 0x0, 0x30d40, true⟩,
    ⟨0x10020, [(0x1000, 16)], 0x0, 0xffffff, 0x0, 0x0, 0x0, 0xffffff, true⟩,
    ⟨0x10024, [(0x1000, 16)], 0x3ffff, 0x0, 0x0, 0x0, 0x0, 0x0, true⟩,
    ⟨0x10028, [(0x1000, 16)], 0xffffff, 0x0, 0x0, 0x0, 0x0, 0x1e00f0, true⟩,
    ⟨0x1002c, [(0x1000, 16)], 0x0, 0x7ff, 0x0, 0x0, 0x0, 0x0, true⟩,
    ⟨0x10030, [(0x1000, 16)], 0x0, 0xf, 0x0, 0x0, 0x0, 0x0, true⟩,
    ⟨0x10034, [(0x1000, 16)], 0xffffff, 0x0, 0x0, 0x0, 0x0, 0x1, true⟩,
    ⟨0x10038, [(0x1000, 16)], 0xffffff, 0x0, 0x0, 0x0, 0x0, 0x1, true⟩,
    ⟨0x1003c, [(0x1000, 16)], 0xffffff, 0x0, 0x0, 0x0, 0x0, 0x10000, true⟩,
    ⟨0x10040, [(0x1000, 16)], 0x1f, 0x0, 0x20, 0x0, 0x0, 0x4, true⟩,
    ⟨0x10044, [(0x1000, 16)], 0xffffff, 0x0, 0x0, 0x0, 0x0, 0x0, true⟩,
    ⟨0x10080, [(0x1000, 16)], 0x0, 0x0, 0x0, 0x100, 0x0, 0x0, false⟩,
    ⟨0x10084, [(0x1000, 16)], 0x0, 0x0, 0x0, 0x0, 0x0, 0x0, false⟩,
    ⟨0x10088, [(0x1000, 16)], 0x0, 0x0, 0x0, 0x0, 0x0, 0x0, false⟩,
    ⟨0x1008c, [(0x1000, 16)], 0x0, 0x0, 0x0, 0x0, 0x0, 0x0, false⟩,
    ⟨0x10090, [(0x1000, 16)], 0x0, 0x0, 0x0, 0x0, 0x0, 0x0, false⟩,
    ⟨0x10094, [(0x1000, 16)], 0x0, 0x0, 0x0, 0x0, 0x0, 0x0, false⟩,
    ⟨0x10098, [(0x1000, 16)], 0x0, 0x0, 0x0, 0x0, 0x0, 0x0, false⟩ ]
  ++ [ ⟨0x1009c, [(0x1000, 16)], 0x0, 0x0, 0x0, 0x0, 0x0, 0x0, false⟩,
    ⟨0x100a0, [(0x1000, 16)], 0x0, 0x0, 0x0, 0x0, 0x0, 0x0, false⟩,
    ⟨0x100a4, [(0x1000, 16)], 0x0, 0x0, 0x0, 0x0, 0x0, 0x0, false⟩,
    ⟨0x100a8, [(0x1000, 16)], 0x0, 0x0, 0x0, 0x0, 0x0, 0x0, false⟩,
    ⟨0x100ac, [(0x1000, 16)], 0x0, 0x0, 0x0, 0x0, 0x0, 0x0, false⟩,
    ⟨0x100b0, [(0x1000, 16)], 0x0, 0x0, 0x0, 0x0, 0x0, 0x0, false⟩,
    ⟨0x100b4, [(0x1000, 16)], 0x0, 0x0, 0x0, 0x0, 0x0, 0x0, false⟩,
    ⟨0x100b8, [(0x1000, 16)], 0x0, 0x0, 0x0, 0x0, 0xffffff, 0x0, false⟩,
    ⟨0x100bc, [(0x1000, 16)], 0x0, 0x0, 0x0, 0x0, 0xffffff, 0x0, false⟩,
    ⟨0x100c0, [(0x1000, 16)], 0x0, 0x0, 0x0, 0x0, 0xffffff, 0x0, false⟩,
    ⟨0x10100, [(0x1000, 16), (0x8, 16)], 0xffffff, 0x0, 0x0, 0x0, 0x0, 0x0, true⟩,
    ⟨0x10104, [(0x1000, 16), (0x8, 16)], 0xffffff, 0x0, 0x0, 0x0, 0x0, 0x0, true⟩,
    ⟨0x10200, [(0x1000, 16), (0x40, 2)], 0xffffff, 0x0, 0x0, 0x0, 0x0, 0x608805, true⟩,
    ⟨0x10204, [(0x1000, 16), (0x40, 2)], 0xffffff, 0x0, 0x0, 0x0, 0x0, 0xa1e, true⟩,
    ⟨0x10208, [(0x1000, 16), (0x40, 2)], 0x0, 0x0, 0x0, 0x30, 0x0, 0x0, false⟩ ]

/-- The registers of the TACK block. -/
def tackRows : List RegRow :=
  [ ⟨0x20000, [(0x1000, 16), (0x4, 1024)], 0x7fffff, 0x0, 0x0, 0x0, 0x0, 0x0, true⟩,
    ⟨0x30000, [(0x1000, 16), (0x4, 1024)], 0xffff, 0x0, 0x0, 0x0, 0x0, 0x0, true⟩ ]

/-- The registers of the SHD block. -/
def shdRows : List RegRow :=
  [ ⟨0x61800, [], 0x1, 0x0, 0x0, 0x0, 0x0, 0x1, true⟩,
    ⟨0x61804, [], 0x0, 0x0, 0x0, 0x0, 0x0, 0x0, false⟩,
    ⟨0x61808, [], 0x0, 0x0, 0x0, 0x0, 0x0, 0x0, false⟩,
    ⟨0x6180c, [], 0x0, 0x0, 0x0, 0x0, 0xffffff, 0x0, false⟩,
    ⟨0x61810, [], 0x0, 0x0, 0x0, 0x2000, 0x0, 0x0, false⟩,
    ⟨0x61814, [], 0x1ff, 0x0, 0x200, 0x0, 0x0, 0x0, false⟩,
    ⟨0x61000, [(0x2000, 16), (0x10, 64)], 0x0, 0x0, 0x0, 0x0, 0x0, 0x0, false⟩,
    ⟨0x61004, [(0x2000, 16), (0x10, 64)], 0x0, 0x0, 0x0, 0x0, 0x0, 0x0, false⟩,
    ⟨0x61008, [(0x2000, 16), (0x10, 64)], 0x0, 0x0, 0x0, 0x0, 0x0, 0x0, false⟩,
    ⟨0x6100c, [(0x2000, 16), (0x10, 64)], 0x0, 0x0, 0x0, 0x0, 0x0, 0x0, false⟩,
    ⟨0x61400, [(0x2000, 16), (0x20, 10)], 0xf800, 0x0, 0x0, 0x0, 0x0, 0xc000, true⟩,
    ⟨0x61404, [(0x2000, 16), (0x20, 10)], 0x0, 0x0, 0x0, 0x0, 0x0, 0x20, false⟩,
    ⟨0x61408, [(0x2000, 16), (0x20, 10)], 0x0, 0x0, 0x0, 0x0, 0xffffff, 0x0, false⟩,
    ⟨0x6140c, [(0x2000, 16), (0x20, 10)], 0x0, 0x0, 0x0, 0x0, 0x0, 0x0, false⟩,
    ⟨0x61600, [(0x2000, 16)], 0x0, 0x0, 0x0, 0x0, 0x0, 0x40, false⟩,
    ⟨0x61604, [(0x2000, 16)], 0x0, 0x0, 0x0, 0x0, 0xffffff, 0x0, false⟩,
    ⟨0x61608, [(0x2000, 16)], 0x0, 0x0, 0x0, 0x0, 0xffffff, 0x0, false⟩,
    ⟨0x6160c, [(0x2000, 16)], 0x0, 0x0, 0x0, 0x0, 0xffffff, 0x0, false⟩,
    ⟨0x61610, [(0x2000, 16)], 0x0, 0x0, 0x0, 0x0, 0xffffff, 0x0, false⟩,
    ⟨0x61614, [(0x2000, 16)], 0x0, 0x0, 0x0, 0x0, 0xffffff, 0x0, false⟩,
    ⟨0x61618, [(0x2000, 16)], 0x0, 0x0, 0x0, 0x0, 0xffffff, 0x0, false⟩,
    ⟨0x60e00, [(0x2000, 16)], 0x0, 0x0, 0x0, 0x0, 0x0, 0x0, false⟩,
    ⟨0x60e04, [(0x2000, 16)], 0x0, 0x0, 0xffffff, 0x0, 0x0, 0x0, false⟩,
    ⟨0x60e08, [(0x2000, 16)], 0x0, 0x0, 0xffffff, 0x0, 0x0, 0x0, false⟩,
    ⟨0x60e0c, [(0x2000, 16)], 0x0, 0x0, 0x0, 0xffffff, 0x0, 0x0, false⟩ ]
  ++ [ ⟨0x60c00, [(0x2000, 16)], 0x7, 0x0, 0x0, 0x0, 0x0, 0x5, false⟩,
    ⟨0x60c04, [(0x2000, 16)], 0x0, 0x0, 0x0, 0x0, 0x0, 0x8, false⟩,
    ⟨0x60c08, [(0x2000, 16)], 0x0, 0x0, 0x0, 0x0, 0x0, 0x0, false⟩,
    ⟨0x60c0c, [(0x2000, 16)], 0x0, 0x0, 0x0, 0x0, 0x0, 0x0, false⟩,
    ⟨0x60c10, [(0x2000, 16)], 0x0, 0x0, 0x0, 0x0, 0x0, 0x0, false⟩,
    ⟨0x60c14, [(0x2000, 16)], 0x0, 0x0, 0x0, 0x0, 0x0, 0x0, false⟩,
    ⟨0x60c18, [(0x2000, 16)], 0x7f, 0x0, 0x0, 0x0, 0x0, 0x7f, false⟩,
    ⟨0x60c1c, [(0x2000, 16)], 0xf, 0x0, 0x0, 0x0, 0x0, 0x8, false⟩,
    ⟨0x60c20, [(0x2000, 16)], 0x0, 0x0, 0x0, 0x0, 0xffffff, 0x0, false⟩,
    ⟨0x60c24, [(0x2000, 16)], 0x0, 0x0, 0x0, 0x0, 0xffffff, 0x0, false⟩,
    ⟨0x60c28, [(0x2000, 16)], 0x0, 0x0, 0x0, 0x0, 0xffffff, 0x0, false⟩,
    ⟨0x60c2c, [(0x2000, 16)], 0x0, 0x0, 0x0, 0x0, 0x0, 0x0, false⟩,
    ⟨0x60c90, [(0x2000, 16)], 0xff, 0x0, 0x0, 0x0, 0x0, 0x0, false⟩,
    ⟨0x60c94, [(0x2000, 16)], 0x0, 0x0, 0x0, 0x0, 0x0, 0x0, false⟩,
    ⟨0x60c40, [(0x2000, 16), (0x4, 16)], 0x0, 0x0, 0x0, 0x0, 0x0, 0x0, false⟩,
    ⟨0x60c80, [(0x2000, 16), (0x4, 4)], 0x0, 0x0, 0x0, 0x0, 0x0, 0x0, false⟩,
    ⟨0x61840, [(0x4, 16)], 0xffffff, 0x0, 0x0, 0x0, 0x0, 0x4000, true⟩,
    ⟨0x61880, [(0x4, 16)], 0x1f, 0x0, 0x0, 0x0, 0x0, 0x7, true⟩,
    ⟨0x618c0, [(0x4, 16)], 0xffffff, 0x0, 0x0, 0x0, 0x0, 0x7d0, true⟩,
    ⟨0x60000, [(0x2000, 16), (0x40, 24)], 0x5, 0x0, 0xa, 0x0, 0x0, 0x0, false⟩,
    ⟨0x60004, [(0x2000, 16), (0x40, 24)], 0xffff, 0x0, 0x0, 0x0, 0x0, 0x0, false⟩,
    ⟨0x60008, [(0x2000, 16), (0x40, 24)], 0x3ffff, 0x0, 0x0, 0x0, 0x0, 0xff, false⟩,
    ⟨0x6000c, [(0x2000, 16), (0x40, 24)], 0x0, 0x0, 0x0, 0x7f, 0x0, 0x0, false⟩,
    ⟨0x60010, [(0x2000, 16), (0x40, 24)], 0x7f, 0x0, 0x0, 0x0, 0x0, 0x0, false⟩,
    ⟨0x60014, [(0x2000, 16), (0x40, 24)], 0x0, 0x0, 0x0, 0x0, 0x0, 0x0, false⟩ ]
  ++ [ ⟨0x60018, [(0x2000, 16), (0x40, 24)], 0x0, 0x0, 0x0, 0x0, 0x0, 0x0, false⟩,
    ⟨0x6001c, [(0x2000, 16), (0x40, 24)], 0x0, 0x0, 0x0, 0x0, 0x0, 0x0, false⟩,
    ⟨0x60020, [(0x2000, 16), (0x40, 24)], 0xffffff, 0x0, 0x0, 0x0, 0x0, 0xffffff, false⟩,
    ⟨0x60024, [(0x2000, 16), (0x40, 24)], 0xffffff, 0x0, 0x0, 0x0, 0x0, 0xffffff, false⟩,
    ⟨0x60028, [(0x2000, 16), (0x40, 24)], 0xffffff, 0x0, 0x0, 0x0, 0x0, 0xffffff, false⟩,
    ⟨0x6002c, [(0x2000, 16), (0x40, 24)], 0x0, 0x0, 0x0, 0x0, 0x0, 0x0, false⟩,
    ⟨0x60030, [(0x2000, 16), (0x40, 24)], 0x0, 0x0, 0x0, 0x0, 0x0, 0xffffff, false⟩,
    ⟨0x60034, [(0x2000, 16), (0x40, 24)], 0x0, 0x0, 0x0, 0x0, 0x0, 0xffffff, false⟩,
    ⟨0x60038, [(0x2000, 16), (0x40, 24)], 0x0, 0x0, 0x0, 0x0, 0x0, 0xffffff, false⟩,
    ⟨0x60800, [(0x2000, 16), (0x20, 24), (0x4, 8)], 0x0, 0x0, 0x0, 0x0, 0x0, 0x0, false⟩ ]

/-- The registers of the RUN block. -/
def runRows : List RegRow :=
  [ ⟨0x100000, [(0x400, 32)], 0xff8, 0x0, 0x7, 0x0, 0x0, 0x0, false⟩,
    ⟨0x100004, [(0x400, 32)], 0x3fff, 0x0, 0x0, 0x0, 0x0, 0x0, false⟩,
    ⟨0x100008, [(0x400, 32)], 0xffffff, 0x0, 0x0, 0x0, 0x0, 0xffffff, false⟩,
    ⟨0x10000c, [(0x400, 32)], 0xffffff, 0x0, 0x0, 0x0, 0x0, 0xffffff, false⟩,
    ⟨0x100010, [(0x400, 32)], 0x7fffff, 0x0, 0x0, 0x0, 0x0, 0x10007d, false⟩,
    ⟨0x100014, [(0x400, 32)], 0x0, 0x0, 0x0, 0x64000, 0x0, 0x0, false⟩,
    ⟨0x100018, [(0x400, 32)], 0xffffff, 0x0, 0x0, 0x0, 0x0, 0x0, false⟩,
    ⟨0x10001c, [(0x400, 32)], 0x1f, 0x0, 0x0, 0x0, 0x0, 0x0, false⟩,
    ⟨0x100020, [(0x400, 32)], 0xffffff, 0x0, 0x0, 0x0, 0x0, 0x0, false⟩,
    ⟨0x100024, [(0x400, 32)], 0xffffff, 0x0, 0x0, 0x0, 0x0, 0x0, false⟩,
    ⟨0x100028, [(0x400, 32)], 0x3fffff, 0x0, 0x0, 0x0, 0x0, 0x0, false⟩,
    ⟨0x10002c, [(0x400, 32)], 0x0, 0x0, 0x0, 0x0, 0x0, 0x0, false⟩,
    ⟨0x100030, [(0x400, 32)], 0x0, 0x0, 0x0, 0x0, 0x0, 0x0, false⟩,
    ⟨0x100034, [(0x400, 32)], 0x0, 0x0, 0x0, 0x0, 0x0, 0x0, false⟩,
    ⟨0x100038, [(0x400, 32)], 0x0, 0x0, 0x0, 0x0, 0x0, 0x0, false⟩,
    ⟨0x10003c, [(0x400, 32)], 0x0, 0x0, 0x0, 0x0, 0x0, 0x0, false⟩,
    ⟨0x100040, [(0x400, 32)], 0x0, 0x0, 0xf, 0x0, 0x0, 0x0, false⟩,
    ⟨0x100044, [(0x400, 32)], 0x0, 0x0, 0x0, 0x0, 0x0, 0x0, false⟩,
    ⟨0x100048, [(0x400, 32)], 0x0, 0x0, 0x0, 0x0, 0x0, 0x0, false⟩,
    ⟨0x10004c, [(0x400, 32)], 0x0, 0x0, 0x0, 0x0, 0x0, 0x0, false⟩,
    ⟨0x100050, [(0x400, 32)], 0x0, 0x0, 0x0, 0x0, 0xffffff, 0x0, false⟩,
    ⟨0x100054, [(0x400, 32)], 0x0, 0x0, 0x0, 0x0, 0xffffff, 0x0, false⟩,
    ⟨0x100200, [(0x400, 32), (0x4, 128)], 0xffff, 0x0, 0x0, 0x0, 0x0, 0x0, false⟩ ]

/-- The registers of the VLV block. -/
def vlvRows : List RegRow :=
  [ ⟨0x108000, [(0x100, 32)], 0x3, 0x0, 0x0, 0x0, 0x0, 0x0, true⟩,
    ⟨0x108004, [(0x100, 32)], 0x3f, 0x0, 0x0, 0x0, 0x0, 0x0, true⟩,
    ⟨0x108008, [(0x100, 32)], 0xffff, 0x0, 0x0, 0x0, 0x0, 0x64, true⟩,
    ⟨0x10800c, [(0x100, 32)], 0x0, 0x0, 0x0, 0x3e000, 0x0, 0x0, false⟩,
    ⟨0x108010, [(0x100, 32)], 0x0, 0x0, 0x0, 0x0, 0x0, 0x0, false⟩,
    ⟨0x108014, [(0x100, 32)], 0x0, 0x0, 0x0, 0x0, 0x0, 0x0, false⟩,
    ⟨0x108018, [(0x100, 32)], 0x0, 0x0, 0x0, 0x0, 0xfff, 0x0, false⟩,
    ⟨0x10801c, [(0x100, 32)], 0x0, 0x0, 0x0, 0x0, 0x0, 0x0, false⟩,
    ⟨0x108020, [(0x100, 32)], 0x0, 0x0, 0x0, 0x0, 0x0, 0x0, false⟩,
    ⟨0x108024, [(0x100, 32)], 0x0, 0x0, 0x0, 0x0, 0x0, 0x0, false⟩,
    ⟨0x108028, [(0x100, 32)], 0x0, 0x0, 0x0, 0x0, 0x0, 0x0, false⟩,
    ⟨0x10802c, [(0x100, 32)], 0x0, 0x0, 0x0, 0x0, 0x0, 0x0, false⟩,
    ⟨0x108030, [(0x100, 32)], 0x0, 0x0, 0x0, 0x0, 0xffffff, 0x0, false⟩,
    ⟨0x108034, [(0x100, 32)], 0x0, 0x0, 0x0, 0x0, 0xffffff, 0x0, false⟩,
    ⟨0x108038, [(0x100, 32)], 0x0, 0x0, 0x0, 0x0, 0xffffff, 0x0, false⟩,
    ⟨0x108080, [(0x100, 32)], 0x0, 0x0, 0x0, 0x0, 0x0, 0x0, false⟩,
    ⟨0x108084, [(0x100, 32)], 0x0, 0x0, 0x0, 0x0, 0x0, 0x0, false⟩,
    ⟨0x108088, [(0x100, 32)], 0x0, 0x0, 0x0, 0x0, 0x0, 0x0, false⟩,
    ⟨0x10808c, [(0x100, 32)], 0x0, 0x0, 0x0, 0x0, 0x0, 0x0, false⟩,
    ⟨0x108090, [(0x100, 32)], 0x0, 0x0, 0x0, 0x0, 0x0, 0x0, false⟩,
    ⟨0x1080a0, [(0x100, 32)], 0x7fffff, 0x0, 0x0, 0x0, 0x0, 0xa00a7, true⟩,
    ⟨0x1080a4, [(0x100, 32)], 0xfffff, 0x0, 0x0, 0x0, 0x0, 0x28fa0, true⟩,
    ⟨0x1080a8, [(0x100, 32)], 0x0, 0x0, 0x0, 0x0, 0x0, 0x40, false⟩,
    ⟨0x1080ac, [(0x100, 32)], 0x0, 0x0, 0x0, 0x10000, 0x0, 0x0, false⟩,
    ⟨0x1080b0, [(0x100, 32)], 0x0, 0x0, 0x1, 0x0, 0x0, 0x0, false⟩ ]
  ++ [ ⟨0x1080b4, [(0x100, 32)], 0x0, 0x0, 0x0, 0x0, 0xffffff, 0x0, false⟩,
    ⟨0x1080b8, [(0x100, 32)], 0x0, 0x0, 0x0, 0x0, 0xffffff, 0x0, false⟩,
    ⟨0x1080bc, [(0x100, 32)], 0x0, 0x0, 0x0, 0x0, 0xffffff, 0x0, false⟩ ]

/-- The registers of the HSW block. -/
def hswRows : List RegRow :=
  [ ⟨0x10a800, [], 0x1, 0x0, 0x0, 0x0, 0x0, 0x0, true⟩,
    ⟨0x10a804, [], 0xffff, 0x0, 0x0, 0x0, 0x0, 0x10f0, true⟩,
    ⟨0x10a808, [], 0x3ffff, 0x0, 0x0, 0x0, 0x0, 0x14128, true⟩,
    ⟨0x10a80c, [], 0xffffff, 0x0, 0x0, 0x0, 0x0, 0x196428, true⟩,
    ⟨0x10a810, [], 0x0, 0x0, 0x0, 0x3000, 0x0, 0x0, false⟩,
    ⟨0x10a814, [], 0x0, 0x0, 0x0, 0x0, 0x0, 0x0, false⟩,
    ⟨0x10a818, [], 0x0, 0x0, 0x0, 0x0, 0xffffff, 0x0, false⟩,
    ⟨0x10a000, [(0x100, 8)], 0xffff, 0x0, 0x0, 0x0, 0x0, 0x3228, true⟩,
    ⟨0x10a004, [(0x100, 8)], 0x0, 0x0, 0x0, 0x200, 0x0, 0x0, false⟩,
    ⟨0x10a008, [(0x100, 8)], 0x0, 0x0, 0x0, 0x0, 0xffffff, 0x0, false⟩ ]

/-- The registers of the VTACK block. -/
def vtackRows : List RegRow :=
  [ ⟨0x10b000, [(0x80, 64)], 0xffffff, 0x0, 0x0, 0x0, 0x0, 0x0, true⟩,
    ⟨0x10b004, [(0x80, 64)], 0xffffff, 0x0, 0x0, 0x0, 0x0, 0x0, true⟩,
    ⟨0x10b008, [(0x80, 64)], 0xffffff, 0x0, 0x0, 0x0, 0x0, 0x0, true⟩,
    ⟨0x10b00c, [(0x80, 64)], 0x1ffff, 0x0, 0x0, 0x0, 0x0, 0x0, true⟩,
    ⟨0x10b010, [(0x80, 64)], 0xffff, 0x0, 0x0, 0x0, 0x0, 0x0, true⟩,
    ⟨0x10b014, [(0x80, 64)], 0xffff, 0x0, 0x0, 0x0, 0x0, 0x0, true⟩,
    ⟨0x10b018, [(0x80, 64)], 0xffff, 0x0, 0x0, 0x0, 0x0, 0x0, true⟩,
    ⟨0x10b01c, [(0x80, 64)], 0xffffff, 0x0, 0x0, 0x0, 0x0, 0x0, true⟩,
    ⟨0x10b020, [(0x80, 64), (0x4, 24)], 0x0, 0x0, 0x0, 0x0, 0x0, 0x0, true⟩,
    ⟨0x10d000, [(0x80, 32)], 0xffffff, 0x0, 0x0, 0x0, 0x0, 0x0, true⟩,
    ⟨0x10d004, [(0x80, 32)], 0xffff, 0x0, 0x0, 0x0, 0x0, 0x0, true⟩,
    ⟨0x10d008, [(0x80, 32)], 0xffffff, 0x0, 0x0, 0x0, 0x0, 0x0, true⟩,
    ⟨0x10d00c, [(0x80, 32)], 0xffffff, 0x0, 0x0, 0x0, 0x0, 0x0, true⟩,
    ⟨0x10d010, [(0x80, 32)], 0xffffff, 0x0, 0x0, 0x0, 0x0, 0x0, true⟩,
    ⟨0x10d014, [(0x80, 32)], 0xffffff, 0x0, 0x0, 0x0, 0x0, 0x0, true⟩,
    ⟨0x10d018, [(0x80, 32)], 0xffffff, 0x0, 0x0, 0x0, 0x0, 0x0, true⟩,
    ⟨0x10d01c, [(0x80, 32)], 0xffffff, 0x0, 0x0, 0x0, 0x0, 0x0, true⟩,
    ⟨0x10d020, [(0x80, 32)], 0xffffff, 0x0, 0x0, 0x0, 0x0, 0x0, true⟩,
    ⟨0x10d024, [(0x80, 32)], 0xffffff, 0x0, 0x0, 0x0, 0x0, 0x0, true⟩,
    ⟨0x10d028, [(0x80, 32)], 0xffffff, 0x0, 0x0, 0x0, 0x0, 0x0, true⟩,
    ⟨0x10d02c, [(0x80, 32)], 0xffffff, 0x0, 0x0, 0x0, 0x0, 0x0, true⟩,
    ⟨0x10d030, [(0x80, 32)], 0xffffff, 0x0, 0x0, 0x0, 0x0, 0x0, true⟩,
    ⟨0x10d034, [(0x80, 32)], 0x3, 0x0, 0x0, 0x0, 0x0, 0x0, true⟩,
    ⟨0x10d038, [(0x80, 32), (0x4, 18)], 0x0, 0x0, 0x0, 0x0, 0x0, 0x0, true⟩ ]

/-- The registers of the TTH block. -/
def tthRows : List RegRow :=
  [ ⟨0x110000, [], 0x1, 0x0, 0x2, 0x0, 0x0, 0x0, false⟩,
    ⟨0x110004, [], 0x0, 0xffff, 0x0, 0x0, 0x0, 0x8000, true⟩,
    ⟨0x110008, [], 0x0, 0x0, 0x0, 0x0, 0x0, 0x0, false⟩,
    ⟨0x11000c, [], 0x0, 0x0, 0x0, 0x0, 0x0, 0x0, false⟩,
    ⟨0x110010, [], 0x0, 0x0, 0x0, 0x0, 0x0, 0x0, false⟩,
    ⟨0x110014, [], 0x0, 0x0, 0x0, 0x0, 0xffffff, 0x0, false⟩,
    ⟨0x110180, [], 0x3, 0x0, 0x0, 0x0, 0x0, 0x0, true⟩,
    ⟨0x110184, [], 0x0, 0x0, 0x0, 0x0, 0x0, 0x0, false⟩,
    ⟨0x110188, [], 0x0, 0x0, 0x0, 0x0, 0x0, 0x0, false⟩,
    ⟨0x11018c, [], 0xffff, 0x0, 0x0, 0x0, 0x0, 0x0, true⟩,
    ⟨0x110300, [], 0xffffff, 0x0, 0x0, 0x0, 0x0, 0x0, true⟩,
    ⟨0x110304, [], 0xffffff, 0x0, 0x0, 0x0, 0x0, 0x0, true⟩,
    ⟨0x110100, [(0x40, 2)], 0x0, 0x0, 0x0, 0x8, 0x0, 0x0, false⟩,
    ⟨0x110104, [(0x40, 2)], 0x0, 0x0, 0x0, 0x0, 0x0, 0x0, false⟩,
    ⟨0x110108, [(0x40, 2)], 0xffff, 0x0, 0x0, 0x0, 0x0, 0x0, true⟩,
    ⟨0x11010c, [(0x40, 2)], 0x0, 0x0, 0x0, 0x0, 0xffffff, 0x0, false⟩,
    ⟨0x110110, [(0x40, 2)], 0x0, 0x0, 0x0, 0x0, 0xffffff, 0x0, false⟩,
    ⟨0x110114, [(0x40, 2)], 0x0, 0x0, 0x0, 0x0, 0xffffff, 0x0, false⟩,
    ⟨0x110200, [(0x4, 16)], 0x3f, 0x0, 0x0, 0x0, 0x0, 0x0, true⟩,
    ⟨0x110400, [(0x10, 32)], 0x0, 0x0, 0x0, 0x0, 0x0, 0x0, false⟩,
    ⟨0x110404, [(0x10, 32)], 0x0, 0x0, 0x0, 0x0, 0x0, 0x0, false⟩,
    ⟨0x110408, [(0x10, 32)], 0x0, 0x0, 0x0, 0x0, 0x0, 0x0, false⟩,
    ⟨0x11040c, [(0x10, 32)], 0x0, 0x0, 0x0, 0x0, 0x0, 0x0, false⟩ ]

/-- The registers of the TRG block. -/
def trgRows : List RegRow :=
  [ ⟨0x115000, [], 0x3ff, 0x0, 0x0, 0x0, 0x0, 0xa, false⟩,
    ⟨0x114000, [(0x40, 64)], 0x1, 0x0, 0xe, 0x0, 0x0, 0x0, false⟩,
    ⟨0x114004, [(0x40, 64)], 0x7fffff, 0x0, 0x0, 0x0, 0x0, 0xa, false⟩,
    ⟨0x114008, [(0x40, 64)], 0x0, 0x0, 0x0, 0x1f8, 0x0, 0x1, false⟩,
    ⟨0x11400c, [(0x40, 64)], 0x0, 0x0, 0x0, 0x0, 0x0, 0x0, false⟩,
    ⟨0x114010, [(0x40, 64)], 0x0, 0x0, 0x0, 0x0, 0x0, 0x400, false⟩,
    ⟨0x114014, [(0x40, 64)], 0x0, 0x0, 0x0, 0x0, 0x0, 0x0, false⟩,
    ⟨0x114018, [(0x40, 64)], 0x0, 0x0, 0x0, 0x0, 0x0, 0x0, false⟩,
    ⟨0x11401c, [(0x40, 64)], 0x0, 0x0, 0x0, 0x0, 0x0, 0x0, false⟩,
    ⟨0x114020, [(0x40, 64)], 0x0, 0x0, 0x0, 0x0, 0x0, 0x0, false⟩,
    ⟨0x114024, [(0x40, 64)], 0x1ffffff, 0x0, 0x0, 0x0, 0x0, 0x0, false⟩,
    ⟨0x114028, [(0x40, 64)], 0x0, 0x0, 0x0, 0x0, 0x0, 0x0, false⟩,
    ⟨0x11402c, [(0x40, 64)], 0x0, 0x0, 0x0, 0x0, 0x0, 0x0, false⟩,
    ⟨0x114030, [(0x40, 64)], 0x0, 0x0, 0x0, 0x0, 0xffffff, 0x0, false⟩,
    ⟨0x114034, [(0x40, 64)], 0x0, 0x0, 0x0, 0x0, 0xffffff, 0x0, false⟩ ]

/-- The registers of the DMA block. -/
def dmaRows : List RegRow :=
  [ ⟨0x118800, [], 0xffffff, 0x0, 0x0, 0x0, 0x0, 0x0, false⟩,
    ⟨0x118804, [], 0xffffff, 0x0, 0x0, 0x0, 0x0, 0x0, false⟩,
    ⟨0x118808, [], 0x1ffff, 0x0, 0x0, 0x0, 0x0, 0x0, false⟩,
    ⟨0x11880c, [], 0x1f, 0x0, 0x0, 0x0, 0x0, 0x4, false⟩,
    ⟨0x118810, [], 0x0, 0x0, 0x0, 0x0, 0x0, 0x4000, false⟩,
    ⟨0x118814, [], 0x3fff, 0x0, 0x0, 0x0, 0x0, 0x0, false⟩,
    ⟨0x118818, [], 0x0, 0x0, 0x0, 0x2, 0x0, 0x0, false⟩,
    ⟨0x11881c, [], 0x0, 0x0, 0x0, 0x0, 0x0, 0x0, false⟩,
    ⟨0x118820, [], 0x0, 0x0, 0x0, 0x0, 0xffffff, 0x0, false⟩,
    ⟨0x118000, [(0x40, 32)], 0x0, 0x0, 0x7, 0x0, 0x0, 0x0, false⟩,
    ⟨0x118004, [(0x40, 32)], 0x7fffff, 0x0, 0x0, 0x0, 0x0, 0x3f8, false⟩,
    ⟨0x118008, [(0x40, 32)], 0xffff, 0x0, 0x0, 0x0, 0x0, 0x1000, false⟩,
    ⟨0x11800c, [(0x40, 32)], 0xffffff, 0x0, 0x0, 0x0, 0x0, 0x0, false⟩,
    ⟨0x118010, [(0x40, 32)], 0xffffff, 0x0, 0x0, 0x0, 0x0, 0x0, false⟩,
    ⟨0x118014, [(0x40, 32)], 0x1ffff, 0x0, 0x0, 0x0, 0x0, 0x0, false⟩,
    ⟨0x118018, [(0x40, 32)], 0x0, 0x0, 0x0, 0x0, 0x0, 0x0, false⟩,
    ⟨0x11801c, [(0x40, 32)], 0x0, 0x0, 0x0, 0x0, 0x0, 0x0, false⟩,
    ⟨0x118020, [(0x40, 32)], 0x0, 0x0, 0x0, 0x0, 0x0, 0x0, false⟩,
    ⟨0x118024, [(0x40, 32)], 0x0, 0x0, 0x0, 0x0, 0x0, 0x0, false⟩,
    ⟨0x118028, [(0x40, 32)], 0x0, 0x0, 0x0, 0x0, 0x0, 0x0, false⟩,
    ⟨0x11802c, [(0x40, 32)], 0x0, 0x0, 0x0, 0x0, 0x0, 0x0, false⟩,
    ⟨0x118030, [(0x40, 32)], 0x0, 0x0, 0x0, 0x0, 0x0, 0x0, false⟩,
    ⟨0x118034, [(0x40, 32)], 0x0, 0x0, 0x0, 0x1800, 0x0, 0x0, false⟩,
    ⟨0x118038, [(0x40, 32)], 0x0, 0x0, 0x0, 0x0, 0xffffff, 0x0, false⟩ ]

/-- The registers of the MBX block. -/
def mbxRows : List RegRow :=
  [ ⟨0x120200, [], 0xfffff, 0x0, 0x0, 0x0, 0x0, 0x6401, false⟩,
    ⟨0x120204, [], 0x0, 0x0, 0x0, 0x80, 0x0, 0x0, false⟩,
    ⟨0x120000, [(0x40, 4)], 0x1ffff, 0x0, 0x0, 0x0, 0x0, 0x0, false⟩,
    ⟨0x120004, [(0x40, 4)], 0x7f, 0x0, 0x0, 0x0, 0x0, 0x0, false⟩,
    ⟨0x120008, [(0x40, 4)], 0x0, 0x0, 0x0, 0xe00, 0x0, 0x0, false⟩,
    ⟨0x12000c, [(0x40, 4)], 0x0, 0x0, 0x0, 0x0, 0x0, 0x0, false⟩,
    ⟨0x120010, [(0x40, 4)], 0xfffff, 0x0, 0x0, 0x0, 0x0, 0x6401, false⟩ ]

/-- The registers of the YRD block. -/
def yrdRows : List RegRow :=
  [ ⟨0x608000, [], 0x0, 0x0, 0x0, 0x0, 0x0, 0x0, false⟩,
    ⟨0x608004, [], 0x0, 0x0, 0x0, 0x0, 0x0, 0x0, false⟩,
    ⟨0x608008, [], 0x0, 0x0, 0x0, 0x0, 0xffffff, 0x0, false⟩,
    ⟨0x60800c, [], 0x0, 0x0, 0x0, 0x0, 0xffffff, 0x0, false⟩,
    ⟨0x600000, [(0x4, 8192)], 0xff, 0x0, 0x0, 0x0, 0x0, 0x0, false⟩ ]

/-- The rows among which an address of the bus may fall (Table 1.5). -/
def rowsOf (a : Nat) : List RegRow :=
  if a < 0x1000 then sysRows else if a < 0x2000 then pwrRows else if a < 0x3000 then tbRows
  else if a < 0x7000 then irqRows else if a < 0x10000 then logRows else if a < 0x20000 then whlRows
  else if a < 0x40000 then tackRows else if a < 0x60000 then [⟨0x40000, [(16, 8192), (4, 3)], 0xFFFFFFFF, 0, 0, 0, 0, 0, true⟩,
    ⟨0x4000C, [(16, 8192)], 0x1FFFFF, 0, 0, 0, 0, 0, true⟩]
  else if a < 0x80000 then shdRows else if a < 0x100000 then [] else if a < 0x108000 then runRows
  else if a < 0x10A000 then vlvRows else if a < 0x10B000 then hswRows else if a < 0x10E000 then vtackRows
  else if a < 0x110000 then [] else if a < 0x114000 then tthRows else if a < 0x118000 then trgRows
  else if a < 0x120000 then dmaRows else if a < 0x121000 then mbxRows else if a < 0x600000 then []
  else if a < 0x609000 then yrdRows else if a < 0x700000 then [] else if a < 0x701000 then [⟨0x700000, [(16, 32)], 0xFFFFFFFC, 0, 0, 0, 0, 0, false⟩,
    ⟨0x700004, [(16, 32), (4, 2)], 0xFFFFFFFF, 0, 0, 0, 0, 0, false⟩, ⟨0x70000C, [(16, 32)], 1, 0, 0, 0, 0, 1, false⟩] else []

/-- The row of the register at an address; none where no block defines one (R12). -/
def rowAt (a : Nat) : Option RegRow := (rowsOf a).find? (fun r => r.hit a)

/-- Is interrupt source `g` a level line (Tables 17.1 and 17.2)? -/
def levelLine (g : Nat) : Bool := (decide (64 ≤ g) && decide (g < 80)) || (decide (256 ≤ g) && g % 16 == 15)

/-- What the word of an address holds after reset: the register tables' values, with the values that depend on the
instance: TRG_q_CFG.BASE = 1,024 × q, TRG_q_STAT.HOST for the host-facing troughs, SENSE per R364 and the private
routes of R363. The strap, stepping and image fields are written by the reset and boot commands. -/
def regReset (a : Nat) : Word :=
  match rowAt a with
  | none => 0
  | some r =>
    if 0x5000 ≤ a && a < 0x5800 then
      let g := (a - 0x5000) / 4
      BitVec.ofNat 32 ((if levelLine g then 0 else 1) + (8 <<< 2)
        + (if 256 ≤ g then 2 <<< 6 else 0) + (if levelLine g then 1 <<< 13 else 0))
    else if 0x114000 ≤ a && a < 0x115000 then
      let q := (a - 0x114000) / 0x40
      if a % 0x40 = 4 then BitVec.ofNat 32 (r.reset + ((1024 * q) <<< 5))
      else if a % 0x40 = 8 then BitVec.ofNat 32 (r.reset + (if 48 ≤ q then 1 <<< 10 else 0))
      else BitVec.ofNat 32 r.reset
    else BitVec.ofNat 32 r.reset

end Sys2Proof.Machine
end

