-- ==== Sys2Proof/Machine/Sparse.lean ====
section
/-! DEFINITION. Sparse tables: lists of (key, value) pairs in one canonical form, keys strictly rising and no value
equal to what an unlisted key reads as. Every indexed piece of state (register words, Yard bytes, the structures of
the repeated blocks) is held in one of these. -/

namespace Sys2Proof.Machine.Sparse

variable {α : Type}

/-- The value at a key: the first listed one, else what an unlisted key reads as. -/
def get (d : Nat → α) : List (Nat × α) → Nat → α
  | [], k => d k
  | e :: m, k => if k = e.1 then e.2 else get d m k

/-- List a value at its place in the rising order, replacing the one listed there. -/
def put (k : Nat) (v : α) : List (Nat × α) → List (Nat × α)
  | [] => [(k, v)]
  | e :: m => if k < e.1 then (k, v) :: e :: m else if k = e.1 then (k, v) :: m else e :: put k v m

/-- Take a key off the list. -/
def drop (k : Nat) : List (Nat × α) → List (Nat × α)
  | [] => []
  | e :: m => if k = e.1 then drop k m else e :: drop k m

/-- Write a value: a value that an unlisted key reads as anyway is not listed. -/
def set [DecidableEq α] (d : Nat → α) (m : List (Nat × α)) (k : Nat) (v : α) : List (Nat × α) :=
  if v = d k then drop k m else put k v m

/-- All keys of a table lie above a bound, rising. -/
def rising : List (Nat × α) → Bool
  | [] => true
  | [_] => true
  | e :: f :: m => decide (e.1 < f.1) && rising (f :: m)

/-- The canonical form: keys strictly rising, no entry equal to what an unlisted key reads as. -/
def wf [DecidableEq α] (d : Nat → α) (m : List (Nat × α)) : Bool :=
  rising m && m.all (fun e => decide (e.2 ≠ d e.1))

end Sys2Proof.Machine.Sparse
end

