-- ==== Sys2Proof/Machine/State.lean ====
section
/-! DEFINITION. The state of the block, the reasons a step can stop, and the machine right after reset. -/

namespace Sys2Proof.Machine

open Sys2Proof

/-- Faults: the machine stops. -/
inductive Fault where
  /-- Never raised by a meaning of this model: no command of the block stops it. Safe. -/
  | none
  deriving DecidableEq, Repr

/-- Refusals: no meaning for the command. -/
inductive Refusal where
  /-- A command that has no meaning yet, by its mnemonic. Safe: the machine stops. -/
  | notModelled (mnemonic : String)
  deriving DecidableEq, Repr

/-- Everything the spec gives the block, as plain data, and the queue of waiting commands. -/
structure State where
  /-- The words of every register, at their bus addresses (R22, R322): an unlisted word reads as its reset value. For a
  shadowed item this is the active copy (R43). -/
  regs : List (Nat × Word) := []
  /-- Words of shadowed items written and not yet committed (R43, R44). -/
  shadow : List (Nat × Word) := []
  /-- The ready items, by the address of their first word (R43). -/
  ready : List Nat := []
  /-- The commit stage: the words and items taken at tick P − 128 (R44). -/
  staged : List (Nat × Word) := []
  stagedItems : List Nat := []
  /-- Items of the commit stage written again since (R44). -/
  touched : List Nat := []
  /-- Snapshot registers, banked per requester (R36): requester × 2^24 + address. -/
  snaps : List (Nat × Word) := []
  /-- What the last read of each requester returned: the model's output port. -/
  lastRead : List (Nat × Word) := []
  /-- Words whose stored check fails beyond correction, by bus address (Table 1.3). -/
  badWords : List Nat := []
  /-- The W1C and RC words that the hardware has set in this tick: address, word before, what was set (R9). -/
  setNow : List (Nat × Word × Word) := []
  tb : TimeSt := {}
  trk : List (Nat × Tracker) := []
  /-- PULSE_WIDTH: each tracker as it stood before the leading edge in hand (R58). -/
  trkUndo : List (Nat × Tracker) := []
  sns : List (Nat × Sensor) := []
  snap : List (Nat × Snap) := []
  entries : List (Nat × EntrySt) := []
  tev : List (Nat × TrkEv) := []
  /-- Loads staged by the last scan, in order: shed and point (R105, R108). -/
  points : List (Nat × Point) := []
  /-- The deferral lists, in order: shed and point (R109). -/
  deferred : List (Nat × Point) := []
  slots : List (Nat × Slot) := []
  placed : List Act := []
  pins : List (Nat × Pin) := []
  /-- Edges issued by stalls and runners on their way to the ball. -/
  flight : List PinEdge := []
  stalls : List (Nat × Stall) := []
  /-- The stalls that have had their counted step of this tick (R129, R139). -/
  stepped : List Nat := []
  irq : List (Nat × Irq) := []
  /-- The compute participants (R41, R420). -/
  parts : List (Nat × Part) := []
  pool : List (Nat × TrgWord) := []
  trg : List (Nat × Trough) := []
  trgWaits : List TrgWait := []
  pages : List (Nat × Page) := []
  engs : List (Nat × Eng) := []
  rns : List (Nat × Runner) := []
  valves : List (Nat × Valve) := []
  banks : List (Nat × Bank) := []
  bst : Boost := {}
  pwr : Power := {}
  sys : Sys := {}
  ports : List (Nat × Port) := []
  tth : Tether := {}
  mbx : List (Nat × Mbx) := []
  holds : List (Nat × Hold) := []
  dma : Dma := {}
  chans : List (Nat × DmaChan) := []
  /-- Posted writes to host memory, newest first: address and bytes (the model's output). -/
  hostOut : List (Nat × List Nat) := []
  /-- The WAKE_N ball is driven low (R357). -/
  wakeLow : Bool := false
  fr : Fr := {}
  pcie : Pcie := {}
  spi : Spi := {}
  logQ : List Report := []
  logLost : Nat := 0
  /-- Reports wait for SYS_RESET to be written first (R391). -/
  logHold : Bool := true
  /-- When the logger wrote its last entry, on the core's clock: the next one comes 4 SYSCLK cycles later (R391). -/
  logAt : Option Time := none
  /-- Its queue has fallen to 16 since reports were dropped: SYS_LOG_LOST comes next (R391). -/
  logTell : Bool := false
  logW : List (Nat × Word) := []
  /-- What has been logged in this beat, of the codes logged once per beat. -/
  once : List (LogCode × Nat) := []
  /-- The model's own: how many free values have been drawn (log entry 2). -/
  free : Nat := 0
  /-- The commands that wait, first in first out. -/
  pending : List Instr := []
  deriving DecidableEq, Repr

/-- The machine right after reset: every register word at its reset value, every queue and table empty. -/
def State.reset : State := {}

end Sys2Proof.Machine
end

