-- ==== Sys2Proof/Machine/Ops.lean ====
section
/-! DEFINITION. The named operations over registers, counters, the log, the interrupt lines and the shadowed items: every
meaning is written over these. -/

namespace Sys2Proof.Machine

open Sys2Proof

/-! ### Registers -/

/-- The word at a bus address as the hardware holds it (a shadowed item's active copy). -/
def State.rd (s : State) (a : Nat) : Word := Sparse.get regReset s.regs a

/-- Write a word as the hardware holds it. -/
def State.wr (s : State) (a : Nat) (w : Word) : State := { s with regs := Sparse.set regReset s.regs a w }

/-- A field of a register. -/
def State.f (s : State) (x : Fld) : Nat := getBits (s.rd x.addr) x.lo x.len

/-- A one-bit field, or any bit of a field. -/
def State.b (s : State) (x : Fld) : Bool := decide (s.f x ≠ 0)

/-- Set a field; the value is truncated to its width (R7). -/
def State.setF (s : State) (x : Fld) (v : Nat) : State := s.wr x.addr (setBits (s.rd x.addr) x.lo x.len v)

/-- What the hardware has set at an address in this SYSCLK cycle, and the word before the first such set (R9). -/
def State.setAt (s : State) (a : Nat) : Option (Word × Word) := (s.setNow.find? (fun e => e.1 == a)).map (·.2)

/-- The hardware sets bits or counts at an address: `new` is what a clear of this cycle leaves there (R9). -/
def State.note (s : State) (a : Nat) (new : Word → Word) : State :=
  if !s.tb.running then s
  else match s.setAt a with
    | some (before, was) => { s with setNow := (a, before, new was) :: s.setNow.filter (fun e => e.1 != a) }
    | none => { s with setNow := (a, s.rd a, new 0) :: s.setNow }

/-- Set or clear a one-bit field; a set stands against a clear in the same cycle (R9). -/
def State.setB (s : State) (x : Fld) (v : Bool) : State :=
  (if v then s.note x.addr (· ||| maskOf x.lo x.len) else s).setF x (toBit v)

/-- Set or clear one bit of a register. -/
def State.flag (s : State) (a bit : Nat) : State :=
  (s.note a (· ||| BitVec.ofNat 32 (2 ^ bit))).wr a (s.rd a ||| BitVec.ofNat 32 (2 ^ bit))
def State.unflag (s : State) (a bit : Nat) : State := s.wr a (s.rd a &&& ~~~ BitVec.ofNat 32 (2 ^ bit))

/-- A 24-bit saturating count, `k` further. -/
def countUp (k : Nat) (w : Word) : Word := BitVec.ofNat 32 (min (w.toNat % 2 ^ 24 + k) 0xFFFFFF)

/-- Count in a 24-bit saturating counter register. -/
def State.bumpBy (s : State) (a k : Nat) : State := (s.note a (countUp k)).wr a (countUp k (s.rd a))

/-- Count one in a 24-bit saturating counter register. -/
def State.bump (s : State) (a : Nat) : State := s.bumpBy a 1

/-- The bits of a word that the hardware has set in this SYSCLK cycle: a clear in the same cycle leaves them set (R9). -/
def State.justSet (s : State) (a : Nat) : Word := match s.setAt a with | some (_, new) => new | none => 0

/-- A bus write's effect on a register's own bits (R8): read-write bits take the value, RWL bits too while the seal is
open (R10), W1S bits set, W1C bits clear; every other bit stays. -/
def State.plainWord (s : State) (a : Nat) (v : Word) : Word :=
  match rowAt a with
  | none => s.rd a
  | some r =>
    let open_ : Bool := getBits (s.rd R.SYS_MODE) F.SYS_MODE_SEALED.lo 1 == 0
    let rw := BitVec.ofNat 32 (if open_ then r.rw ||| r.rwl else r.rw)
    let old := s.rd a
    ((((old &&& ~~~ rw) ||| (v &&& rw)) ||| (v &&& BitVec.ofNat 32 r.w1s)) &&& ~~~ (v &&& BitVec.ofNat 32 r.w1c &&& ~~~ s.justSet a))

/-- A plain write of a register that acts at once. -/
def State.plainWr (s : State) (a : Nat) (v : Word) : State := s.wr a (s.plainWord a v)

/-! ### Indexed structures -/

def State.tr (s : State) (n : Nat) : Tracker := Sparse.get (fun _ => {}) s.trk n
def State.setTr (s : State) (n : Nat) (t : Tracker) : State := { s with trk := Sparse.set (fun _ => {}) s.trk n t }
/-- The tracker as it stood before the leading edge in hand (R58). -/
def State.undoOf (s : State) (n : Nat) : Tracker := Sparse.get (fun _ => {}) s.trkUndo n
def State.setUndo (s : State) (n : Nat) (t : Tracker) : State := { s with trkUndo := Sparse.set (fun _ => {}) s.trkUndo n t }
def State.sn (s : State) (k : Nat) : Sensor := Sparse.get (fun _ => {}) s.sns k
def State.setSn (s : State) (k : Nat) (x : Sensor) : State := { s with sns := Sparse.set (fun _ => {}) s.sns k x }
def State.snapOf (s : State) (n : Nat) : Snap := Sparse.get (fun _ => {}) s.snap n
def State.te (s : State) (n : Nat) : TrkEv := Sparse.get (fun _ => {}) s.tev n
def State.setTe (s : State) (n : Nat) (x : TrkEv) : State := { s with tev := Sparse.set (fun _ => {}) s.tev n x }
def State.es (s : State) (e : Nat) : EntrySt := Sparse.get (fun _ => {}) s.entries e
def State.setEs (s : State) (e : Nat) (x : EntrySt) : State := { s with entries := Sparse.set (fun _ => {}) s.entries e x }
/-- Slot `k` of shed `n` stands at key 64 n + k. -/
def State.sl (s : State) (k : Nat) : Slot := Sparse.get (fun _ => {}) s.slots k
def State.setSl (s : State) (k : Nat) (x : Slot) : State := { s with slots := Sparse.set (fun _ => {}) s.slots k x }
/-- Pins 0 to 159; valve gate n stands at key 160 + n (R113). -/
def State.pin (s : State) (p : Nat) : Pin := Sparse.get (fun _ => {}) s.pins p
def State.setPin (s : State) (p : Nat) (x : Pin) : State := { s with pins := Sparse.set (fun _ => {}) s.pins p x }
def State.stl (s : State) (k : Nat) : Stall := Sparse.get (fun _ => {}) s.stalls k
def State.setStl (s : State) (k : Nat) (x : Stall) : State := { s with stalls := Sparse.set (fun _ => {}) s.stalls k x }
def State.src (s : State) (g : Nat) : Irq := Sparse.get (fun _ => {}) s.irq g
def State.setSrc (s : State) (g : Nat) (x : Irq) : State := { s with irq := Sparse.set (fun _ => {}) s.irq g x }

def State.part (s : State) (n : Nat) : Part := Sparse.get (fun _ => {}) s.parts n
def State.setPart (s : State) (n : Nat) (x : Part) : State := { s with parts := Sparse.set (fun _ => {}) s.parts n x }
def State.tq (s : State) (q : Nat) : Trough := Sparse.get (fun _ => {}) s.trg q
def State.setTq (s : State) (q : Nat) (x : Trough) : State := { s with trg := Sparse.set (fun _ => {}) s.trg q x }
def State.page (s : State) (p : Nat) : Page := Sparse.get (fun _ => {}) s.pages p
def State.setPage (s : State) (p : Nat) (x : Page) : State := { s with pages := Sparse.set (fun _ => {}) s.pages p x }
def State.eng (s : State) (n : Nat) : Eng := Sparse.get (fun _ => {}) s.engs n
def State.setEng (s : State) (n : Nat) (x : Eng) : State := { s with engs := Sparse.set (fun _ => {}) s.engs n x }
def State.rn (s : State) (n : Nat) : Runner := Sparse.get (fun _ => {}) s.rns n
def State.setRn (s : State) (n : Nat) (x : Runner) : State := { s with rns := Sparse.set (fun _ => {}) s.rns n x }
def State.vlv (s : State) (n : Nat) : Valve := Sparse.get (fun _ => {}) s.valves n
def State.setVlv (s : State) (n : Nat) (x : Valve) : State := { s with valves := Sparse.set (fun _ => {}) s.valves n x }
def State.bk (s : State) (b : Nat) : Bank := Sparse.get (fun _ => {}) s.banks b
def State.setBk (s : State) (b : Nat) (x : Bank) : State := { s with banks := Sparse.set (fun _ => {}) s.banks b x }
def State.port (s : State) (p : Nat) : Port := Sparse.get (fun _ => {}) s.ports p
def State.setPort (s : State) (p : Nat) (x : Port) : State := { s with ports := Sparse.set (fun _ => {}) s.ports p x }
/-- Mailbox `m`; number 4 is the forerunner command window. -/
def State.mb (s : State) (m : Nat) : Mbx := Sparse.get (fun _ => {}) s.mbx m
def State.setMb (s : State) (m : Nat) (x : Mbx) : State := { s with mbx := Sparse.set (fun _ => {}) s.mbx m x }
def State.hold (s : State) (c : Nat) : Hold := Sparse.get (fun _ => {}) s.holds c
def State.setHold (s : State) (c : Nat) (x : Hold) : State := { s with holds := Sparse.set (fun _ => {}) s.holds c x }
def State.ch (s : State) (n : Nat) : DmaChan := Sparse.get (fun _ => {}) s.chans n
def State.setCh (s : State) (n : Nat) (x : DmaChan) : State := { s with chans := Sparse.set (fun _ => {}) s.chans n x }

/-! ### Time -/

/-- The time base now. -/
def State.now (s : State) : Time := s.tb.now

/-- The beat period in force, in ticks (R38, R39). -/
def State.P (s : State) : Nat := 500 * s.tb.periodUs

/-- Has the time base reached a moment (within half its range)? -/
def State.reached (s : State) (t : Time) : Bool := decide (since s.now t < 2 ^ 47)

/-- Has at least `d` ticks passed since a moment? -/
def State.passed (s : State) (t : Time) (d : Nat) : Bool := decide (d ≤ since s.now t)

/-! ### Device mode (Table 18.1) -/

/-- The mode's number in SYS_MODE. -/
def State.mode (s : State) : Nat := s.f F.SYS_MODE_MODE

/-- RUN or LIMP. -/
def State.running (s : State) : Bool := s.mode == 4 || s.mode == 5

/-- The configuration seal is set (R10, R385). -/
def State.sealed (s : State) : Bool := s.b F.SYS_MODE_SEALED

/-! ### Trouble log (R391) -/

/-- Is a report to be accepted before another of the same tick: increasing code, then source (R391)? -/
def Report.before (x y : Report) : Bool :=
  decide (x.code.num < y.code.num) || (x.code.num == y.code.num && decide (x.source < y.source))

/-- Put a report into the queue, in its place among the reports of its own tick at the end. -/
def queueIn (r : Report) : List Report → List Report
  | [] => [r]
  | x :: xs => if xs.all (fun y => y.time == r.time) && x.time == r.time && r.before x then r :: x :: xs
               else x :: queueIn r xs

/-- Hand a report to the logger: stamped now; dropped and counted where the queue is full (R391). -/
def State.log (s : State) (c : LogCode) (src det : Nat) : State :=
  if 32 ≤ s.logQ.length then { s.bump R.LOG_LOST with logLost := min (s.logLost + 1) 0xFFFFFF }
  else { s with logQ := queueIn ⟨s.now, s.tb.beat.toNat % 2 ^ 16, c, src, det % 2 ^ 24⟩ s.logQ }

/-- Log a code at most once per beat for a key (a unit or an item). -/
def State.logOnceFor (s : State) (c : LogCode) (key src det : Nat) : State :=
  if (c, key) ∈ s.once then s else { s.log c src det with once := (c, key) :: s.once }

/-- Log a code at most once per beat per unit. -/
def State.logOnce (s : State) (c : LogCode) (src det : Nat) : State := s.logOnceFor c src src det

/-- SOURCE of the device as a whole (R394). -/
def wholeDevice : Nat := 0xFFFF

/-! ### Interrupt lines (R364, R365) -/

/-- The controller's clock: the time base, and while that stands the core's own clock (R21, R375). -/
def State.ctlNow (s : State) : Time := s.tb.now + s.tb.stood

/-- Does a moment lie in the present SYSCLK cycle? -/
def State.thisCycle (s : State) (t : Time) : Bool := t &&& ~~~ 1 == s.ctlNow &&& ~~~ 1

/-- SENSE of a source: 0 LEVEL, 1 RISE, 2 FALL, 3 BOTH; in the cycle of a write the one before it (R364). -/
def State.sense (s : State) (g : Nat) : Nat :=
  match (s.src g).wasSense with
  | some (v, t) => if s.thisCycle t then v else s.f (F.IRQ_SRC_CFG_SENSE g)
  | none => s.f (F.IRQ_SRC_CFG_SENSE g)

/-- The place of a source's edge latch among the bits set in a cycle (R9): above every bus address. -/
def latchKey (g : Nat) : Nat := 2 ^ 24 + g

/-- The line is high from a pulse of the present SYSCLK cycle. -/
def State.samePulse (s : State) (x : Irq) : Bool :=
  match x.line with
  | some t => s.thisCycle t
  | none => false

/-- A pulse on a source's line, which it holds high for one SYSCLK cycle, two pulses of the same cycle acting as one: the
rising edge sets the edge latch under RISE and BOTH (R362, R364). -/
def State.pulse (s : State) (g : Nat) : State :=
  let x := s.src g
  let up := !x.raw && !s.samePulse x && (decide (s.sense g = 1) || decide (s.sense g = 3))
  (if up then s.note (latchKey g) (fun _ => 1) else s).setSrc g
    { x with edge := x.edge || up, line := if s.samePulse x then x.line else some s.ctlNow }

/-- A level line moves: its edges set the latch under SENSE. -/
def State.level (s : State) (g : Nat) (l : Bool) : State :=
  let x := s.src g
  let e := (decide (s.sense g = 1) && l && !x.raw) || (decide (s.sense g = 2) && !l && x.raw)
    || (decide (s.sense g = 3) && (l != x.raw))
  (if e then s.note (latchKey g) (fun _ => 1) else s).setSrc g { x with raw := l, edge := x.edge || e }

/-- One SYSCLK cycle after its pulse the line falls, which sets the edge latch under FALL and BOTH (R364). -/
def State.pulseEnd (s : State) (g : Nat) : State :=
  let x := s.src g
  match x.line with
  | some t =>
    if decide (since s.ctlNow t < 2) then s
    else
      let down := !x.raw && (decide (s.sense g = 2) || decide (s.sense g = 3))
      (if down then s.note (latchKey g) (fun _ => 1) else s).setSrc g { x with edge := x.edge || down, line := none }
  | none => s

/-- The pending state of a source (R365): sensed as LEVEL, a pulse line's hardware part is its pulse (R364); an event pulse on
a level line does not affect its level sensing (R363). -/
def State.pend (s : State) (g : Nat) : Bool :=
  let x := s.src g
  (if s.sense g = 0 then x.raw || (x.line.isSome && !levelLine g) else x.edge) || x.sw

/-- The private source `k` of shed `n` (R361). -/
def priv (n k : Nat) : Nat := 256 + 16 * n + k

/-! ### Compute participants (R41, R420) -/

/-- A done tick of a participant for work of a beat of `p` ticks: TB_USED, TB_PEAK, and the budget warning. -/
def State.doneTick (s : State) (n p d : Nat) : State :=
  let d := min d 0x7FFF
  let peak := fun (w : Word) => BitVec.ofNat 32 (max d w.toNat)
  let s1 := ((s.wr (R.TB_USED n) (BitVec.ofNat 32 d)).note (R.TB_PEAK n) peak).wr (R.TB_PEAK n) (peak (s.rd (R.TB_PEAK n)))
  if getBits (s.rd (R.TB_BUDGET n)) 0 15 < d && d + 129 ≤ p then (s1.flag R.TB_WARN n).pulse 228 else s1

/-- A participant signals done for its work in hand in a tick; a later beat's work that waited behind it then runs. In IDLE
nothing is counted (R382). -/
def State.partDoneAt (s : State) (n : Nat) (t : Time) : State :=
  let x := s.part n
  if !x.busy then s
  else (if s.mode = 3 then s else s.doneTick n x.period (since t x.opened)).setPart n
    (match x.queued with
     | some (t0, p) => { busy := true, opened := t0, period := p }
     | none => {})

/-- A participant signals done now. -/
def State.partDone (s : State) (n : Nat) : State := s.partDoneAt n s.now

/-- Tick 200: work for the beat, behind the work in hand if there is some; without work the done tick is 200 (R42). -/
def State.partStart (s : State) (n : Nat) (work : Bool) : State :=
  let x := s.part n
  if x.busy then s.setPart n { x with queued := if work && x.queued.isNone then some (s.tb.t0, s.P) else x.queued }
  else if work then s.setPart n { busy := true, opened := s.tb.t0, period := s.P }
  else s.doneTick n s.P 200

/-! ### Shadowed items (R43, R44) -/

/-- The first word of the commit item that an address belongs to. -/
def itemOf (a : Nat) : Nat :=
  if 0x40000 ≤ a && a < 0x60000 then a - a % 16
  else if 0x10B000 ≤ a && a < 0x10E000 then a - a % 128
  else if 0x1400 ≤ a && a < 0x1480 then 0x1400
  else a

/-- The highest word of an item: writing it makes the item ready. -/
def lastWord (i : Nat) : Nat :=
  if 0x40000 ≤ i && i < 0x60000 then i + 12
  else if (0x10B000 ≤ i && i < 0x10E000) || i == 0x1400 then i + 124
  else i

/-- A word waiting in the shadow, if one does. -/
def State.shadowAt (s : State) (a : Nat) : Option Word := (s.shadow.find? (fun e => e.1 == a)).map (·.2)

/-- A shadowed word with the read-only LEVEL of SEQ_CTL as the outputs stand: no write and no commit moves it (R249). -/
def State.liveWord (s : State) (a : Nat) (w : Word) : Word :=
  if a = R.PWR_SEQ_CTL then setBits w F.PWR_SEQ_CTL_LEVEL.lo F.PWR_SEQ_CTL_LEVEL.len (s.f F.PWR_SEQ_CTL_LEVEL) else w

/-- What a shadow address reads as: the value written last, else the active copy (R44). -/
def State.shadowRd (s : State) (a : Nat) : Word := match s.shadowAt a with | some w => s.liveWord a w | none => s.rd a

/-- Put an item into a list of items, once. -/
def addItem (i : Nat) (l : List Nat) : List Nat := if i ∈ l then l else i :: l

/-- Write a word of a shadowed item: the highest word makes the item ready, any other makes it not ready (R43); an
item in the commit stage keeps what was taken at tick P − 128 (R44). -/
def State.shadowWr (s : State) (a : Nat) (w : Word) : State :=
  let i := itemOf a
  { s with
    shadow := Sparse.put a w s.shadow
    ready := if a = lastWord i then addItem i s.ready else s.ready.filter (fun x => x != i)
    touched := if i ∈ s.stagedItems then addItem i s.touched else s.touched }

/-- Take the ready items into the commit stage (R44). -/
def State.takeStage (s : State) : State :=
  { s with staged := s.shadow.filter (fun e => s.ready.contains (itemOf e.1))
           stagedItems := s.ready
           touched := [] }

/-- Make the staged words active, and leave in the shadow only what was written since (R44). -/
def State.commitStage (s : State) : State :=
  let s1 := s.staged.foldl (fun x e => x.wr e.1 (x.liveWord e.1 e.2)) s
  let gone := s.stagedItems.filter (fun i => !s.touched.contains i)
  { s1 with shadow := s.shadow.filter (fun e => !gone.contains (itemOf e.1))
            ready := s.ready.filter (fun i => !gone.contains i)
            staged := [], stagedItems := [], touched := [] }

/-- A skipped commit: what was taken stays in the shadow (R44). -/
def State.dropStage (s : State) : State := { s with staged := [], stagedItems := [], touched := [] }

/-! ### Requesters -/

/-- The number of a requester in the banks of R36. -/
def reqIdx : Requester → Nat
  | .pcie => 0 | .spi => 1 | .fr => 2 | .core => 3 | .dmaR => 4 | .dmaW => 5 | .eng n => 6 + n.val

/-- Every requester. -/
def allRequesters : List Requester := [.pcie, .spi, .fr, .core, .dmaR, .dmaW] ++ (List.range 16).map (fun n => .eng (Fin.ofNat 16 n))

/-- The key of a banked snapshot register. -/
def bank (r : Requester) (a : Nat) : Nat := reqIdx r * 2 ^ 24 + a

/-- A snapshot register as one requester sees it; 0 before its first read of the low half (R36). -/
def State.snapRd (s : State) (r : Requester) (a : Nat) : Word := Sparse.get (fun _ => 0) s.snaps (bank r a)

/-- Latch a snapshot register of one requester. -/
def State.latch (s : State) (r : Requester) (a : Nat) (w : Word) : State :=
  { s with snaps := Sparse.set (fun _ => 0) s.snaps (bank r a) w }

/-- A read's data reaches its requester. -/
def State.deliver (s : State) (r : Requester) (w : Word) : State :=
  { s with lastRead := Sparse.set (fun _ => 0) s.lastRead (reqIdx r) w }

/-! ### Free values -/

/-- Draw a free value: the count moves on, so that every draw is a value of its own. -/
def State.draw (s : State) : Nat × State := (s.free, { s with free := s.free + 1 })

/-- Run an operation over a list of indices. -/
def overList {α : Type} (l : List α) (f : State → α → State) (s : State) : State := l.foldl f s

end Sys2Proof.Machine
end

