-- ==== Sys2Proof/Machine/Operands.lean ====
section
/-! DEFINITION. The operand forms: event entries as their words spell them (Table 5.1), which actions have an end
(Table 5.2). The formats of the other blocks stand beside their meanings. -/

namespace Sys2Proof.Machine

open Sys2Proof

/-- The fields of an event entry from its four words (Table 5.1). -/
def parseEntry (w0 w1 w2 w3 : Word) : EvEntry :=
  { start := getBits w0 0 24, trk := getBits w0 24 4, home := getBits w0 28 4
    endDur := getBits w1 0 24, form := w1.getLsbD 24, scale := w1.getLsbD 25, action := getBits w1 26 5, en := w1.getLsbD 31
    maxDur := getBits w2 0 16, fine := getBits w2 16 12, tgtType := getBits w2 28 3, oneShot := w2.getLsbD 31
    target := getBits w3 0 9, param := getBits w3 9 8, rep := w3.getLsbD 17, lateOk := w3.getLsbD 18
    endOnStall := w3.getLsbD 19, reverseEnd := w3.getLsbD 20 }

/-- The active copy of entry `e` (R99: the armer and the slots use only the active copy). -/
def State.entry (s : State) (e : Nat) : EvEntry :=
  parseEntry (s.rd (R.EVT e 0)) (s.rd (R.EVT e 1)) (s.rd (R.EVT e 2)) (s.rd (R.EVT e 3))

/-- Does an action exist for a target type (Table 5.2)? -/
def actionDefined (tgtType action : Nat) : Bool :=
  match tgtType with
  | 0 => action < 6
  | 1 => action < 4
  | 2 => action == 0
  | 3 => action < 4
  | 4 => action < 2
  | _ => false

/-- Does an entry's action have an end (Table 5.2)? -/
def EvEntry.hasEnd (e : EvEntry) : Bool :=
  match e.tgtType with
  | 0 => e.action == 0 || e.action == 1 || e.action == 5
  | 1 => e.action == 1
  | 2 => true
  | 3 => e.action == 2
  | 4 => e.action == 1
  | _ => false

/-- Is a target number in range for its type (Table 5.2)? -/
def targetInRange (tgtType target : Nat) : Bool :=
  match tgtType with
  | 0 => target < 160
  | 1 => target < 24
  | 2 => target < 32
  | 3 => target < 32
  | 4 => target < 80
  | _ => false

/-- Does PARAM keep the table (Table 5.2)? -/
def paramFits (e : EvEntry) : Bool :=
  match e.tgtType with
  | 2 => e.param ≤ 64
  | 3 => if e.action = 0 then e.param < 128 else e.param == 0
  | _ => e.param == 0

/-- Duration of FORM 1 in ticks (R100). -/
def EvEntry.duration (e : EvEntry) : Nat := e.endDur * (if e.scale then 256 else 1)

/-- Cap of FORM 0 in ticks (R100). -/
def EvEntry.cap (e : EvEntry) : Nat := e.maxDur * 4096

/-- A tick and a fine step as one moment (R4). -/
def fineOf (t : Time) (f : Nat) : Fine := BitVec.ofNat 53 (t.toNat * 32 + f)

/-- The tick of a moment. -/
def tickOf (x : Fine) : Time := BitVec.ofNat 48 (x.toNat / 32)

/-- Is a moment earlier than another (modulo the counter's range)? -/
def earlier (x y : Fine) : Bool := decide (0 < (y - x).toNat) && decide ((y - x).toNat < 2 ^ 52)

/-- A pin held at its safe level by its owner: a shed's engine in FAULT or under ECC_SAFE (R170, R171), a runner in
FAULT (R194). -/
def State.heldSafe (s : State) (p : Nat) : Bool :=
  let i := s.f (F.TIO_CFG_OWN_IDX p)
  let eng := fun (n : Nat) => (s.eng n).st == .fault || (s.eng n).eccSafe
  match s.f (F.TIO_CFG_OWNER p) with
  | 1 => eng i
  | 2 => eng (i / 24)
  | 3 => (s.rn i).st == .fault
  | _ => false

/-- A level that a ramp step has set at a pin: 0 safe, 1 low, 2 high (R245). -/
def State.rampLevel (s : State) (p : Nat) : Option Nat := (s.pwr.pinHeld.find? (fun e => e.1 == p)).map (·.2)

/-- The HOSTSEL strap. -/
def State.hostsel (s : State) : Nat := s.f F.SYS_HOST_STAT_HOSTSEL

/-- The balls of the forerunner bus under its straps, which are not available as TIO (R325). An access is one row: the
device drives none of them between accesses, but FR_RDY low while one waits. -/
def State.frPin (s : State) (p : Nat) : Bool := s.hostsel == 2 && decide (120 ≤ p) && decide (p ≤ 151)

/-- A cell that may be driven: not forced, not held safe, not set by the ramp. -/
def State.pinFree (s : State) (p : Nat) : Bool :=
  let x := s.pin p
  !x.forced && !x.safe && !s.heldSafe p && (s.rampLevel p).isNone && !s.frPin p

/-- A cell without an action of its owner, or under STATIC, drives STATIC_LVL (R124). -/
def State.isStatic (s : State) (p : Nat) : Bool := decide (p < 160) && ((s.pin p).static || s.f (F.TIO_CFG_OWNER p) == 0)

/-- The level that a cell drives at a moment: that of the last edge by then (R114, R124). -/
def State.levelAt (s : State) (p : Nat) (t : Fine) : Bool :=
  let x := s.pin p
  if s.isStatic p then s.b (F.TIO_CFG_STATIC_LVL p)
  else match x.edges.find? (fun e => !earlier t e.1) with | some e => e.2 | none => x.level

/-- The level that a cell drives once every edge has landed. -/
def State.lastLevel (s : State) (p : Nat) : Bool :=
  let x := s.pin p
  if s.isStatic p then s.b (F.TIO_CFG_STATIC_LVL p) else match x.edges with | e :: _ => e.2 | [] => x.level

/-- What the cell drives at the ball: none where it is in high impedance (R124). -/
def State.drives (s : State) (p : Nat) : Option Bool :=
  let safe := if s.b (F.TIO_CFG_SAFE_HIZ p) then none else some (s.b (F.TIO_CFG_SAFE_LVL p))
  if s.frPin p then (if p = 151 && s.trgWaits.any (fun w => decide (w.req = Requester.fr)) then some false else none)
  else match s.rampLevel p with
  | some 1 => some false
  | some 2 => some true
  | some _ => if s.b (F.TIO_CFG_OE p) then safe else none
  | none =>
    if !s.b (F.TIO_CFG_OE p) then none
    else if s.pinFree p then some (s.levelAt p (fineOf s.now 31))
    else safe

/-- The pull that the straps select for every TIO ball in reset, OFF and BOOT (R381, R386). -/
def State.strapPull (s : State) : Option Bool :=
  match s.f F.SYS_STRAP_TIO_PULL with
  | 1 => some true
  | 2 => none
  | _ => some false

/-- The level that EXTEST or CLAMP puts on a TIO pin; none where the test port drives nothing. The boundary cells of the
gates observe only. -/
def State.tapDrives (s : State) (p : Nat) : Option Bool :=
  match s.sys.tap with
  | .extest | .clamp => if p < 160 then s.sys.tapCells[p]? else none
  | _ => none

/-- What the device puts at the ball: under EXTEST and CLAMP its boundary cell (R411), else in reset, OFF and BOOT the strap pull
alone (Table 18.4). -/
def State.ball (s : State) (p : Nat) : Option Bool :=
  match s.tapDrives p with
  | some l => some l
  | none => if s.mode ≤ 1 then s.strapPull else s.drives p

/-! ### Delay lines (R113, R125, R126) -/

/-- Edges are placed at tick resolution (R126). -/
def State.coarse (s : State) (p : Nat) : Bool :=
  let x := s.pin p
  decide (x.count < 2) || (x.a.failed && x.b.failed) || (decide (p < 160) && !s.b (F.TIO_CFG_FINE_EN p))

/-- The moment at which a cell places an edge asked for at `total`. -/
def State.atCell (s : State) (p : Nat) (total : Fine) : Fine :=
  if s.coarse p then ((total + 16) >>> 5) <<< 5 else total

/-- The tap of a line with `n` taps per tick that places fine step `f`: f × N / 32, rounded (R125). -/
def tapOf (f n : Nat) : Nat := (2 * f * n + 32) / 64

/-! ### What a source of a tracker or a stall delivers (R54 to R57, R130) -/

/-- Does the front end deliver a level change? A pair's comparator takes a rising crossing at its threshold plus HYST / 2
and a falling one at its threshold minus HYST / 2 (R57; at the zero crossing of R56 as well: DEDUCED, log entry 147); a TIO
pin that the block drives delivers the driven level, by the row of its edge (R54; DEDUCED, log entry 149). -/
def State.taken (s : State) (src : Nat) (x : Crossing) : Bool :=
  if src < 32 then
    let thr : Int := if s.f (F.SNS_CFG_TYPE src) = 2 then 50 * s.f (F.SNS_THR_SE_THR src) else 0
    let half : Int := 5 * s.f (F.SNS_THR_HYST src)
    if x.rising then decide (thr + half ≤ x.mv) else decide (x.mv ≤ thr - half)
  else if src < 192 then !s.frPin (src - 32) && (match s.ball (src - 32) with | some l => x.rising == l | none => true)
  else false

/-- The level that a source delivers: a pair with INVERT set swaps its lines (Table 3.12). -/
def State.sensed (s : State) (src : Nat) (rising : Bool) : Bool :=
  if src < 32 then rising != s.b (F.SNS_CFG_INVERT src) else rising

/-- The level of a source is known from now on. -/
def State.srcSet (s : State) (src : Nat) (rising : Bool) : State :=
  if src < 32 then s.setSn src { s.sn src with level := rising }
  else if src < 192 then s.setPin (src - 32) { s.pin (src - 32) with ext := rising } else s

/-- The level that a source delivers now; no input is low (DESIGN CHOICE, log entry 134). -/
def State.srcLevel (s : State) (src : Nat) : Bool :=
  if src < 32 then s.sensed src (s.sn src).level
  else if src < 192 then !s.frPin (src - 32) && (s.ball (src - 32)).getD (s.pin (src - 32)).ext else false

/-! ### Tracker configuration (Table 3.10), with the limits and zero meanings its rules give -/

def State.cpc (s : State) (n : Nat) : Nat := let c := s.f (F.WHL_CPC_C n); if c = 0 then 2 ^ 24 else c
def State.revs (s : State) (n : Nat) : Nat := s.f (F.WHL_CFG_REVS_M1 n) + 1
def State.cpr (s : State) (n : Nat) : Nat := s.cpc n / s.revs n
def State.toothN (s : State) (n : Nat) : Nat := s.f (F.WHL_PAT_TOOTH_N_M1 n) + 1
def State.idxMode (s : State) (n : Nat) : Nat := min (s.f (F.WHL_CFG_IDX_MODE n)) 2
/-- Index entries in use: EDGE acts as a single entry (R75). -/
def State.idxN (s : State) (n : Nat) : Nat := if s.idxMode n = 1 then 1 else s.f (F.WHL_PAT_IDX_N_M1 n) + 1
/-- SYNC_SRC: 0 PATTERN, 1 INDEX, 2 ABSOLUTE; 3 acts as PATTERN. -/
def State.syncSrc (s : State) (n : Nat) : Nat := let v := s.f (F.WHL_CFG_SYNC_SRC n); if v = 3 then 0 else v
def State.tmode (s : State) (n : Nat) : Nat := s.f (F.WHL_CFG_MODE n)
def clampN (v lo hi : Nat) : Nat := max lo (min v hi)
def State.tol (s : State) (n : Nat) : Nat := clampN (s.f (F.WHL_SYNCCFG_TOL n)) 5 50
def State.nwLo (s : State) (n : Nat) : Nat := clampN (s.f (F.WHL_NW_NW_LO n)) 1 99
def State.nwHi (s : State) (n : Nat) : Nat := clampN (s.f (F.WHL_NW_NW_HI n)) 101 511
def State.errMax (s : State) (n : Nat) : Nat := max 1 (s.f (F.WHL_SYNCCFG_ERR_MAX n))
def State.idxErrMax (s : State) (n : Nat) : Nat := max 1 (s.f (F.WHL_SYNCCFG_IDX_ERR_MAX n))
def State.seekRevs (s : State) (n : Nat) : Nat := max 1 (s.f (F.WHL_SYNCCFG_SEEK_REVS n))
/-- STOP_TIME in ticks. -/
def State.stopTicks (s : State) (n : Nat) : Nat := 256 * max 1 (s.f (F.WHL_STOP_STOP_TIME n))
/-- The raw modulus M of R83. -/
def State.rawM (s : State) (n : Nat) : Nat := s.cpc n * 65536

/-- fwd of R86: the forward distance modulo `m`. -/
def fwd (m x y : Nat) : Nat := if m = 0 then 0 else (y + (m - x % m)) % m

/-- ahead of R86. -/
def ahead (m x y : Nat) : Bool := decide (0 < fwd m x y) && decide (2 * fwd m x y < m)

/-- The signed distance from `x` to `y` modulo `m`, in −m/2 to m/2. -/
def sdist (m x y : Nat) : Int := if 2 * fwd m x y ≤ m then (fwd m x y : Int) else (fwd m x y : Int) - (m : Int)

/-- An integer wrapped into 0 to m − 1. -/
def wrapN (x : Int) (m : Nat) : Nat := if m = 0 then 0 else (x % (m : Int)).toNat

/-! ### Who may reach the registers (R315, R320, Table 15.1) -/

/-- The host side: PCI Express, SPI and the forerunner bus (R272). -/
def hostSide : Requester → Bool
  | .pcie | .spi | .fr => true
  | _ => false

/-- The number of a host interface in the log (Table 19.3). -/
def ifaceNum : Requester → Nat
  | .spi => 1
  | .fr => 2
  | _ => 0

/-- Can accesses of a requester come at all: its interface enabled by the straps, for PCI Express the link up and the
function in D0; no host interface works in OFF. -/
def State.linked (s : State) : Requester → Bool
  | .pcie => s.hostsel != 2 && s.b F.SYS_HOST_STAT_LINK_UP && s.f F.SYS_HOST_STAT_DSTATE == 0 && s.mode != 0
  | .spi => s.hostsel != 3 && s.mode != 0
  | .fr => s.hostsel == 2 && s.mode != 0
  | _ => true

/-- The boot interface (Table 15.1). -/
def State.bootIface (s : State) : Requester := match s.hostsel with | 1 => .spi | 2 => .fr | _ => .pcie

/-- May a requester write in the present mode (R315)? -/
def State.mayWrite (s : State) (r : Requester) : Bool :=
  !hostSide r || !(s.mode == 1 || s.mode == 2) || decide (r = s.bootIface)

/-- A refused write: completed, discarded, counted, logged once per beat (R315). -/
def State.refuseWrite (s : State) (r : Requester) : State :=
  (s.bump R.SYS_HOST_REFUSED).logOnceFor .hstWriteRefused 0 (ifaceNum r) (ifaceNum r)

/-- A write of a whole word. -/
def wordTo (r : Requester) (a : Nat) (v : Word) : Access := ⟨r, a, some (v, 15), .clean⟩

/-- A write of a register that changes one field. -/
def fieldTo (s : State) (r : Requester) (x : Fld) (v : Nat) : Access := wordTo r x.addr (setBits (s.rd x.addr) x.lo x.len v)

/-- A read, and what it finds. -/
def wordOf (r : Requester) (a : Nat) (e : Ecc) : Access := ⟨r, a, none, e⟩

/-- A word found bad, or not. -/
def found (bad : Bool) : Ecc := if bad then .double else .clean

/-- An access of the requester waits at a trough: its later accesses come only after it (R284, R326, R330). -/
def State.heldBack (s : State) (r : Requester) : Bool :=
  s.trgWaits.any (fun w => decide (w.req = r)) || s.pcie.queue.any (fun x => decide (x.req = r))

/-- A write of a requester that acts now, with the effect `f`. -/
def State.issueWrite (s : State) (r : Requester) (f : State → State) : State := if s.mayWrite r then f s else s.refuseWrite r

/-- An access that no interface takes: in D3hot the endpoint answers it with Unsupported Request (R320). -/
def State.noAccess (s : State) (r : Requester) : State :=
  if decide (r = .pcie) && s.hostsel != 2 && s.mode != 0 && s.b F.SYS_HOST_STAT_LINK_UP then
    { s with pcie := { s.pcie with unsup := s.pcie.unsup + 1 } } else s

/-- An access waits in the bridge behind the one before it. -/
def State.enqueue (s : State) (x : Access) : State := { s with pcie := { s.pcie with queue := s.pcie.queue ++ [x] } }

/-- A write `x` of a requester, whose effect is `f`. -/
def State.writeBy (s : State) (x : Access) (f : State → State) : State :=
  if !s.linked x.req then s.noAccess x.req else if s.heldBack x.req then s.enqueue x else s.issueWrite x.req f

/-- A read of a requester: served in every mode (R315). -/
def State.readBy (s : State) (x : Access) (f : State → State) : State :=
  if !s.linked x.req then s.noAccess x.req else if s.heldBack x.req then s.enqueue x else f s

end Sys2Proof.Machine
end

