-- ==== Sys2Proof/Machine/Slots.lean ====
section
/-! DEFINITION. Instances in the comparator slots: placing a start and an end, releasing, unloading, and what a stall, a
loss of sync and a reversal of a tracker do to them (R108 to R119, Table 5.5). -/

namespace Sys2Proof.Machine

open Sys2Proof

/-- The key of a slot. -/
def slotKey (sh slot : Nat) : Nat := 64 * sh + slot

/-- Is the shed the check shed of an active twin pair? -/
def State.isCheck (s : State) (sh : Nat) : Bool :=
  sh % 2 == 1 && (s.f F.SYS_TWIN_PAIR_ACT).testBit (sh / 2)

/-- Is the shed the lead shed of an active twin pair? -/
def State.isLead (s : State) (sh : Nat) : Bool :=
  sh % 2 == 0 && (s.f F.SYS_TWIN_PAIR_ACT).testBit (sh / 2)

/-- Release a slot: what its status registers show of the last instance stays. -/
def Slot.release (x : Slot) : Slot := { x with st := x.st.released, endAt := none }

/-- Hand an action to its target's queue. The check shed's result drives nothing. -/
def State.putAct (s : State) (a : Act) : State :=
  if s.isCheck a.sh then s else { s with placed := s.placed ++ [a] }

/-- Take a slot's placed end, or every placed action of it, out of the queue. -/
def State.dropEnds (s : State) (sh slot : Nat) : State :=
  { s with placed := s.placed.filter (fun a => !(a.sh == sh && a.slot == slot && a.isEnd)) }
def State.dropActs (s : State) (sh slot : Nat) : State :=
  { s with placed := s.placed.filter (fun a => !(a.sh == sh && a.slot == slot)) }

/-- The injection of R123: the check shed inverts bit 0 of the fine step of the named slot's next action. -/
def State.inject (s : State) (sh slot : Nat) (t : Fine) : Fine × State :=
  if s.b F.EVT_TWIN_INJECT_GO && sh == 2 * s.f F.EVT_TWIN_INJECT_PAIR + 1 && slot == s.f F.EVT_TWIN_INJECT_SLOT
  then (t ^^^ 1, s.setB F.EVT_TWIN_INJECT_GO false) else (t, s)

/-- Place the start of an ARMED instance (R111, R115): the entry becomes spent if ONE_SHOT; an action with no end
releases the slot. -/
def State.placeStart (s : State) (sh slot : Nat) (total : Fine) (late : Bool) : State :=
  let (t, s) := s.inject sh slot total
  let k := slotKey sh slot
  let x := s.sl k
  let x1 := { x with late := late, fire := tickOf t, startAt := t, endAt := none
                     st := if x.ev.hasEnd then SlotSt.active else SlotSt.over 2 }
  let s1 := (s.setSl k x1).putAct ⟨sh, slot, t, false, x.ev, x.entry⟩
  let s2 := if x.ev.oneShot then s1.setEs x.entry { s1.es x.entry with spent := true } else s1
  if late then (s2.bump (R.SHD_EVT_LATE sh)).pulse (priv sh 8) else s2

/-- Place an end of an ACTIVE instance (R112): the earliest placed end acts, an end in the start's own tick moves to 3
ticks after the start, and a late end is never earlier than that. -/
def State.placeEnd (s : State) (sh slot : Nat) (total : Fine) (late : Bool) : State :=
  let k := slotKey sh slot
  let x := s.sl k
  if x.st ≠ .active then s
  else
    let floor := x.startAt + 96
    let t0 := if tickOf total = tickOf x.startAt || (late && earlier total floor) then floor else total
    match x.endAt with
    | some e => if earlier t0 e then
        let (t, s) := s.inject sh slot t0
        ((s.dropEnds sh slot).setSl k { x with endAt := some t }).putAct ⟨sh, slot, t, true, x.ev, x.entry⟩
      else s
    | none =>
        let (t, s) := s.inject sh slot t0
        (s.setSl k { x with endAt := some t }).putAct ⟨sh, slot, t, true, x.ev, x.entry⟩

/-- The moment of a late start, a late end and a forced end found in the present tick (R111, R118). -/
def State.lateTotal (s : State) (fine : Nat) : Fine := fineOf (s.now + 24) 0 + BitVec.ofNat 53 fine

/-- A forced end: the end action placed at once (R118). -/
def State.forceEnd (s : State) (sh slot : Nat) : State :=
  s.placeEnd sh slot (s.lateTotal (s.sl (slotKey sh slot)).ev.fine) false

/-- Unload an instance without action. -/
def State.unload (s : State) (sh slot : Nat) : State :=
  let k := slotKey sh slot
  s.setSl k (s.sl k).release

/-- Drop an instance whose start is late without LATE_OK (R115, R116). A check shed counts and pulses, and the home shed alone logs
(DESIGN CHOICE, log entry 37). -/
def State.dropLate (s : State) (sh slot : Nat) : State :=
  let e := (s.sl (slotKey sh slot)).entry
  let s1 := ((s.unload sh slot).bump (R.SHD_EVT_DROP sh)).pulse (priv sh 9)
  if s.isCheck sh then s1 else s1.logOnce .evtDropped sh e

/-- A late start: fired at once with LATE_OK, else dropped (R115). -/
def State.lateStart (s : State) (sh slot : Nat) : State :=
  let x := s.sl (slotKey sh slot)
  if x.ev.lateOk then s.placeStart sh slot (s.lateTotal x.ev.fine) true else s.dropLate sh slot

/-- The listed slots as (shed, slot) of the instances of one tracker. -/
def State.slotsOf (s : State) (n : Nat) : List (Nat × Nat) :=
  (s.slots.filter (fun e => e.2.st.holds && e.2.ev.trk == n)).map (fun e => (e.1 / 64, e.1 % 64))

/-- Run an operation over slots. -/
def overSlots (l : List (Nat × Nat)) (f : State → Nat → Nat → State) (s : State) : State :=
  l.foldl (fun s e => f s e.1 e.2) s

/-- Take every staged and deferred point of a tracker out, without count (R110). -/
def State.dropPoints (s : State) (n : Nat) : State :=
  { s with points := s.points.filter (fun e => (s.entry e.2.entry).trk != n)
           deferred := s.deferred.filter (fun e => (s.entry e.2.entry).trk != n) }

/-- Loss of sync (Table 5.5, last column). -/
def State.evLoss (s : State) (n : Nat) : State :=
  let s1 := overSlots (s.slotsOf n) (fun s sh sl =>
    let x := s.sl (slotKey sh sl)
    if x.st = .armed then s.unload sh sl
    else if x.ev.endOnStall then s.forceEnd sh sl
    else if x.ev.tgtType = 2 || x.ev.form || x.ev.maxDur ≠ 0 then s
    else s.forceEnd sh sl) s
  (s1.dropPoints n).setTe n { s1.te n with afresh := true, stalled := false, haltTicks := 0, from_ := none }

/-- A stall (Table 5.5, middle column). -/
def State.evStall (s : State) (n : Nat) : State :=
  let s1 := overSlots (s.slotsOf n) (fun s sh sl =>
    let x := s.sl (slotKey sh sl)
    if x.st = .active && x.ev.endOnStall then s.forceEnd sh sl else s) s
  s1.setTe n { s1.te n with stalled := true }

/-- Reverse rotation recognised (R119): `aOld` is the estimate of the tick before, in counts. -/
def State.evReverse (s : State) (n aOld : Nat) : State :=
  let s1 := overSlots (s.slotsOf n) (fun s sh sl =>
    if (s.sl (slotKey sh sl)).st = .armed then s.unload sh sl else s.forceEnd sh sl) s
  let e := s1.te n
  (s1.dropPoints n).setTe n { e with waiting := true, skipping := true, from_ := none, aRev := if e.aRevSet then e.aRev else aOld, aRevSet := true }

/-- The edges of a pin that have not reached the ball are discarded (R121, R184). -/
def State.cutEdges (s : State) (p : Nat) : State :=
  s.setPin p { s.pin p with edges := (s.pin p).edges.filter (fun e => !earlier (fineOf s.now 31) e.1) }

/-- The edges of pins that have not reached the ball are discarded, those on their way to the cell with them (R184). -/
def State.dropEdges (s : State) (gone : Nat → Bool) : State :=
  overList ((List.range 160).filter gone) State.cutEdges { s with flight := s.flight.filter (fun e => !gone e.pin) }

/-- Every slot unloaded and every action that has not reached its target discarded (R121). -/
def State.evClear (s : State) : State :=
  let s1 := s.slots.foldl (fun x e => x.setSl e.1 (x.sl e.1).release) s
  overList ((List.range 160).filter (fun p => s.f (F.TIO_CFG_OWNER p) == 1)) State.cutEdges { s1 with placed := [], points := [], deferred := [] }

end Sys2Proof.Machine
end

