-- ==== Sys2Proof/Machine/Trackers.lean ====
section
/-! DEFINITION. Wheel trackers (chapters 3 and 4): inputs, noise windows, recognition, the state machine, the law, the
estimate and learning. An edge is accepted or rejected when it leaves the front end (TOOTH_EDGE, INDEX_EDGE) and applied
at its update tick (LAW_UPDATE), R84. -/

namespace Sys2Proof.Machine

open Sys2Proof

/-! ### Geometry (R65 to R68) -/

def State.pitch (s : State) (n k : Nat) : Nat := s.f (F.PAT_PITCH n k)
def State.patMark (s : State) (n k : Nat) : Nat := s.f (F.PAT_MARK n k)
def State.feat (s : State) (n k : Nat) : Bool := s.b (F.PAT_FEAT n k)

/-- PSUM of R66. -/
def State.psum (s : State) (n : Nat) : Nat := (List.range (s.toothN n)).foldl (fun c k => c + s.pitch n k) 0

/-- The distance from entry 0 to entry k in pattern units (R67). -/
def State.cum (s : State) (n k : Nat) : Nat := (List.range k).foldl (fun c i => c + s.pitch n (i + 1)) 0

/-- ang(k) of R67. -/
def State.ang (s : State) (n k : Nat) : Nat :=
  let z := s.f (F.WHL_ZERO_ZERO_OFS n)
  if k = 0 then z else wrapN ((z + s.cum n k * s.cpr n / s.psum n : Nat) : Int) (s.cpr n)

/-- The learning correction of an entry (Table 4.7); an entry whose parity fails counts as 0 (R96). -/
def State.corr (s : State) (n k : Nat) : Int :=
  if s.badWords.contains (R.LRN n k) then 0 else signed 16 (s.f (F.LRN_CORR n k))

/-- th(k) of R84 in revolution r. -/
def State.th (s : State) (n k r : Nat) : Nat := r * s.cpr n + wrapN ((s.ang n k : Int) + s.corr n k) (s.cpr n)

/-- The next and the previous position: entry and revolution (R67). -/
def State.nextPos (s : State) (n k r : Nat) : Nat × Nat :=
  let k1 := (k + 1) % s.toothN n
  (k1, if s.ang n k1 < s.ang n k then (r + 1) % s.revs n else r)
def State.prevPos (s : State) (n k r : Nat) : Nat × Nat :=
  let k1 := (k + s.toothN n - 1) % s.toothN n
  (k1, if s.ang n k < s.ang n k1 then (r + s.revs n - 1) % s.revs n else r)

def State.idxa (s : State) (n j : Nat) : Nat := s.f (F.WHL_IDXA_ANGLE n j)
/-- The mark of an index entry; EDGE checks none (R75). -/
def State.idxw (s : State) (n j : Nat) : Nat := if s.idxMode n = 1 then 0 else s.f (F.WHL_IDXW_MARK n j)

/-- D(j) of R68. -/
def State.idxD (s : State) (n j : Nat) : Nat :=
  let nn := s.idxN n
  if nn = 1 then s.cpc n else fwd (s.cpc n) (s.idxa n ((j + nn - 1) % nn)) (s.idxa n j)

/-! ### Sensor faults (R64) -/

/-- A pair with any fault flag set. -/
def State.pairFault (s : State) (k : Nat) : Bool :=
  s.b (F.SNS_STAT_OPEN k) || s.b (F.SNS_STAT_SHORT_GND k) || s.b (F.SNS_STAT_SHORT_SUP k) || s.b (F.SNS_STAT_REVERSED k)

/-- Which inputs a tracker reads: the tooth input in modes 0 to 3, B in QUAD, the index input in modes 0 to 4 (Table 3.1). -/
def State.usesTooth (s : State) (n src : Nat) : Bool :=
  (decide (s.tmode n < 4) && s.f (F.WHL_IN_TOOTH_SRC n) == src) || (s.tmode n == 3 && s.f (F.WHL_IN_B_SRC n) == src)
def State.usesIdx (s : State) (n src : Nat) : Bool := decide (s.tmode n < 5) && s.f (F.WHL_IN_IDX_SRC n) == src

/-- STAT.TOOTH_FAULT. -/
def State.toothFault (s : State) (n : Nat) : Bool := (List.range 32).any (fun k => s.usesTooth n k && s.pairFault k)

/-- STAT.IDX_FAULT. -/
def State.idxFault (s : State) (n : Nat) : Bool := (List.range 32).any (fun k => s.usesIdx n k && s.pairFault k)

/-! ### State changes -/

/-- ARM of Table 4.1. -/
def Tracker.arm (t : Tracker) : Bool := (t.st == .sync || t.st == .limp) && !t.dir

/-- History cleared (Table 3.5): nothing is known of the wheel. -/
def Tracker.cleared (t : Tracker) : Tracker :=
  { t with periods := 0, haveEdge := false, havePer := false, mark := none, cands := [], found := false
           awaitTooth := false, confirmed := 0, idxPlaced := false, seekEdges := 0, haveIdx := false, idxPeriods := 0
           idxPer := 0, idxMark := none, idxMarkC := none, idxCands := [], idxRecog := false, idxChk := none, idxJudge := false
           bgSeek := false, idxSync := false, err := 0, idxErr := 0, idxDue := false, upds := [], learn := [], turning := false
           dir := false, tthGood := 0, tthNone := 0, geared := false, ssiSeen := false, lead := none, leadSt := none
           wasFwd := true }

/-- The background search of LIMP starts again (R69, R77). -/
def Tracker.bgRestart (t : Tracker) : Tracker :=
  { t with periods := 0, haveEdge := false, havePer := false, cands := [], found := false, bgSeek := false
           awaitTooth := false, idxPlaced := false, confirmed := 0, seekEdges := 0 }

/-- Index recognition starts again (R76). -/
def Tracker.idxRestart (t : Tracker) : Tracker := { t with idxPeriods := 0, idxCands := [], idxRecog := false, idxNext := 0 }

/-- The revolution is fixed, for the last SSI sample as well (R60, R75, R77). -/
def Tracker.inRev (t : Tracker) (rev cpr : Nat) : Tracker := { t with rev := rev, ssiCyc := rev * cpr + t.ssiAng }

/-- What entry to SYNC leaves of the search for the position. -/
def Tracker.synced (t : Tracker) : Tracker :=
  { t.idxRestart with err := 0, idxErr := 0, cands := [], found := false, idxPlaced := false, awaitTooth := false
                      bgSeek := false, idxJudge := false, learn := [], turning := false }

/-- No law: interpolation is off, and RATE reads 0 (Table 4.6). -/
def Tracker.lawOff (t : Tracker) : Tracker :=
  { t with lawOn := false, q := 0, rem := 0, den := 1, acc := 0, halted := false, hold := false, catching := false
           jumped := false, freshLaw := false, pred := t.a, stepA := 0 }

/-- A tracker enters a state: the state-change source pulses (R80), the law ends outside SYNC and LIMP (R89), and the
instances of the tracker react (R117, R118); the front is set afresh at entry to SYNC or LIMP but from STOPPED (R106). A
loss of SYNC to LIMP or LOST counts in CNT_LOSS (Table 3.11). -/
def State.setSt (s : State) (n : Nat) (new : TState) : State :=
  let t := s.tr n
  let old := t.st
  if old = new then s
  else
    let tracking := new = .sync || new = .limp
    let was := old = .sync || old = .limp
    let s0 := if old = .sync && (new = .limp || new = .lost) then s.bump (R.WHL_CNT_LOSS n) else s
    let s1 := (s0.setTr n { (if tracking then { t with rateSat := false } else t.lawOff) with st := new }).pulse (192 + n)
    let s2 := if was && new = .stopped then (s1.setTe n { s1.te n with predStop := t.pred }).evStall n
      else if (was && !tracking) || (new = .off && old = .stopped) then s1.evLoss n
      else s1
    if tracking && old = .stopped then s2.setTe n { s2.te n with restart := true }
    else if tracking && !was then s2.setTe n { s2.te n with afresh := true }
    else if new = .acquire then s2.setTe n { s2.te n with waiting := false, aRevSet := false, skipping := false, afresh := true }
    else s2

/-- To ACQUIRE with history and candidates cleared (Table 3.5). -/
def State.restartTrk (s : State) (n : Nat) : State :=
  let s1 := s.setTr n { (s.tr n).cleared with stopBase := s.now }
  s1.setSt n .acquire

/-- A counted error or index error: counter and source (R80). -/
def State.trkErrPulse (s : State) (n : Nat) : State := (s.bump (R.WHL_CNT_ERR n)).pulse (priv n 11)
def State.trkError (s : State) (n : Nat) : State :=
  (s.setTr n { s.tr n with err := min 15 ((s.tr n).err + 1) }).trkErrPulse n
def State.trkIdxError (s : State) (n : Nat) : State :=
  (s.setTr n { s.tr n with idxErr := (s.tr n).idxErr + 1, idxDue := true }).trkErrPulse n

/-- Entry to LIMP from SYNC (R90): the law continues, and the halt limit becomes the index entry first ahead of it (of the
estimate, where reverse rotation has left no law). -/
def State.limpFromSync (s : State) (n : Nat) : State :=
  let t := s.tr n
  let m := s.rawM n
  let elt := if t.lawOn then t.elTicks * t.q + t.elTicks * t.rem / t.den else 0
  let dist := fun j => let d := fwd m (if t.lawOn then t.lam else t.a) ((s.idxa n j * 65536 + elt) % m); if d = 0 then m else d
  let j := (List.range (s.idxN n)).foldl (fun b k => if dist k < dist b then k else b) 0
  let t1 := { t.bgRestart with h := (s.idxa n j * 65536 + elt) % m, run := t.gone + dist j, idxNext := j, idxErr := 0
                               idxJudge := false, idxChk := none, learn := [], haveIdx := t.haveIdx && !t.dir }
  (s.setTr n t1).setSt n .limp

/-- LIMP is lost (Table 3.5, LIMP rows). -/
def State.loseLimp (s : State) (n : Nat) : State := (s.log .whlSyncLost n TState.lost.code).setSt n .lost

/-- Sync is lost (Table 3.5, SYNC rows): to LIMP if it may, and from there on to LOST where IDX_FAULT is set; else to LOST. -/
def State.loseSync (s : State) (n : Nat) : State :=
  if s.b (F.WHL_CTL_LIMP_EN n) && (s.tr n).idxSync then
    let s1 := (s.log .whlSyncLost n TState.limp.code).limpFromSync n
    if s1.idxFault n then s1.loseLimp n else s1
  else (s.log .whlSyncLost n TState.lost.code).setSt n .lost

/-- The rows of Table 3.5 that a set fault flag meets. -/
def State.faultRows (s : State) (n : Nat) : State :=
  let s1 := if (s.tr n).st = .sync && s.toothFault n then s.loseSync n else s
  if (s1.tr n).st = .limp && s1.idxFault n then s1.loseLimp n else s1

/-! ### The law (R85) -/

/-- The law set from the last pitch, covered in `e` ticks: `runRaw` raw units to the halt limit. -/
def State.setLaw (s : State) (n thk dth e el runRaw : Nat) : State :=
  let t := s.tr n
  let m := s.rawM n
  let num := dth * 65536
  let e := max 1 e
  let saturated := 0xFFFFFF < num / e
  let q := if saturated then 0xFFFFFF else num / e
  let rem := if saturated then 0 else num - num / e * e
  let den := if saturated then 1 else e
  let lam := (thk * 65536 + el * q + el * rem / den) % m
  let t1 := { t with lawOn := true, lam := lam, q := q, rem := rem, den := den, acc := el * rem % den, run := runRaw
                     h := (lam + runRaw) % m, gone := 0, elTicks := el, freshLaw := true
                     rateSat := t.rateSat || saturated }
  let s1 := s.setTr n t1
  if saturated && !t.rateSat then s1.log .whlRateSat n 0 else s1

/-- run of R85 from the present and the next angle: 1 to C counts. -/
def runTo (c thk thk1 : Nat) : Nat := (wrapN ((thk1 : Int) - (thk : Int) - 1) c + 1) * 65536

/-- The tooth law of the present position, its edge stamped `stamp`, `e` ticks after the one before, and processed at `u`. -/
def State.toothLaw (s : State) (n e : Nat) (stamp u : Time) : State :=
  let t := s.tr n
  let (kp, rp) := s.prevPos n t.pos t.rev
  let (k1, r1) := s.nextPos n t.pos t.rev
  let thk := s.th n t.pos t.rev
  s.setLaw n thk (fwd (s.cpc n) (s.th n kp rp) thk) e (since u stamp) (runTo (s.cpc n) thk (s.th n k1 r1))

/-- The law of the last SSI sample: it runs freely over one missing sample (R85). -/
def State.ssiLaw (s : State) (n e : Nat) (stamp u : Time) : State :=
  let t := s.tr n
  s.setLaw n (t.rev * s.cpr n + t.ssiAng) t.ssiDth e (since u stamp) (2 * t.ssiDth * 65536)

/-- The law of the last accepted edge or sample. -/
def State.edgeLaw (s : State) (n e : Nat) (stamp u : Time) : State :=
  if s.tmode n = 4 then s.ssiLaw n e stamp u else s.toothLaw n e stamp u

/-- The estimate placed on the law, without a jump (R89, R91, R92). -/
def State.onLaw (s : State) (n : Nat) : State := s.setTr n { s.tr n with a := (s.tr n).lam, pred := (s.tr n).lam }

/-- The estimate placed at an angle in counts, no law in force (R91, R92). -/
def State.atAngle (s : State) (n ang : Nat) : State := s.setTr n { s.tr n with a := ang * 65536, pred := ang * 65536 }

/-- Entry to SYNC with its first law and a := lam, no jump flagged (R89). -/
def State.enterSync (s : State) (n e : Nat) (stamp u : Time) : State :=
  let s1 := s.setSt n .sync
  ((((s1.setTr n (s1.tr n).synced).edgeLaw n e stamp u).onLaw n).faultRows n)

/-- The index law in LIMP (R85, second form): the present entry is `j`, `e` ticks after the one before. -/
def State.idxLaw (s : State) (n j e : Nat) (stamp u : Time) : State :=
  let c := s.cpc n
  let j1 := (j + 1) % s.idxN n
  s.setLaw n (s.idxa n j) (s.idxD n j) e (since u stamp) (runTo c (s.idxa n j) (s.idxa n j1))

/-! ### Recognition (R72, R73, R76) -/

/-- fits() of R72 with the pitches and the mark given. -/
def fitsAt (tol tNew tPrev : Nat) (mPrev : Option Nat) (p0 p1 mark : Nat) : Bool :=
  let l1 := 100 * tNew * p0
  let r1 := tPrev * p1
  let ok1 := decide ((100 - tol) * r1 ≤ l1) && decide (l1 ≤ (100 + tol) * r1)
  let ok2 := if mark = 0 then true else match mPrev with
    | none => false
    | some m => decide ((100 - tol) * (tNew * mark) ≤ 100 * m * p1) && decide (100 * m * p1 ≤ (100 + tol) * (tNew * mark))
  ok1 && ok2

/-- fits() for tooth entry k. -/
def State.fits (s : State) (n tNew tPrev : Nat) (mPrev : Option Nat) (k : Nat) : Bool :=
  let k0 := (k + s.toothN n - 1) % s.toothN n
  fitsAt (s.tol n) tNew tPrev (if s.tmode n = 2 then some 0 else mPrev) (s.pitch n k0) (s.pitch n k)
    (if s.tmode n = 2 then 0 else s.patMark n k0)

/-- fits() for index entry j (R76). -/
def State.fitsIdx (s : State) (n tNew tPrev : Nat) (mPrev : Option Nat) (j : Nat) : Bool :=
  let nn := s.idxN n
  let j0 := (j + nn - 1) % nn
  fitsAt (s.tol n) tNew tPrev mPrev (s.idxD n j0) (s.idxD n j) (s.idxw n j0)

/-- One step of the candidates: each advances and is dropped unless it fits, then every start that fits and is not
among them starts with count 0, up to the most that can be held (R73, R76). -/
def stepCands (len most : Nat) (fit starts : Nat → Bool) (cs : List Cand) : List Cand :=
  let kept := (cs.map (fun c => (⟨(c.entry + 1) % len, c.count + 1⟩ : Cand))).filter (fun c => fit c.entry)
  let new := ((List.range len).filter (fun k => starts k && fit k && !(kept.any (fun c => c.entry == k)))).map (fun k => (⟨k, 0⟩ : Cand))
  (kept ++ new).take most

/-- Exactly one candidate, confirmed often enough. -/
def oneCand (cs : List Cand) (confirm : Nat) : Option Nat :=
  match cs with
  | [c] => if confirm ≤ c.count then some c.entry else none
  | _ => none

/-- The tooth position is found in LIMP at angle `ta` of the revolution (R77): SYNC if it agrees with the index angle, else
the search starts again. -/
def State.limpFound (s : State) (n ta e : Nat) (stamp u : Time) : State :=
  let t := s.tr n
  let c := s.cpc n
  let cpr := s.cpr n
  let el := since u stamp
  let la := wrapN ((t.a : Int) - ((el * t.q + el * t.rem / t.den : Nat) : Int)) (s.rawM n) / 65536
  let d := sdist cpr (la % cpr) ta
  if d.natAbs ≤ s.f (F.WHL_IDX_WIN_WIN n) then
    let s1 := s.setTr n (t.synced.inRev (wrapN ((la : Int) + d) c / cpr) cpr)
    ((s1.setSt n .sync).edgeLaw n e stamp u).faultRows n
  else (s.log .whlLimpDisagree n 0).setTr n t.bgRestart

/-! ### Learning (R95, R96) and the search -/

/-- A parity error found on reading a learning entry: it is rewritten to 0 and unlearned (R96). -/
def State.lrnParity (s : State) (n k : Nat) : State :=
  let a := R.LRN n k
  if s.badWords.contains a then
    let s1 := { s with badWords := s.badWords.filter (fun x => x != a) }.setF (F.LRN_CORR n k) 0
    (s1.setTr n { s1.tr n with learned := (s1.tr n).learned.filter (fun x => x != k) }).log .whlLearnParity n 0
  else s

/-- A parity error among the entries read is mended (R96). -/
def State.readCorr (s : State) (n : Nat) (ks : List Nat) : State := overList ks (fun s k => s.lrnParity n k) s

/-- An accepted edge in GAP_SEEK, or in the background of LIMP, with its period and the one before (R73, R74). Once the
position is found no candidate is kept, so that STAT.CAND reads 0 (DESIGN CHOICE, log entry 151). -/
def State.recognise (s : State) (n : Nat) (x : EdgeUpd) (e tp : Nat) : State :=
  let t := s.tr n
  let limp := t.st = .limp
  let t1 :=
    if t.found then let (k, r) := s.nextPos n t.pos t.rev; { t with pos := k, rev := r }
    else if s.syncSrc n = 1 then
      let t2 := if t.idxPlaced then let (k, r) := s.nextPos n t.pos t.rev; { t with pos := k, rev := r, confirmed := t.confirmed + 1 }
        else if t.awaitTooth then { t with pos := s.f (F.WHL_PAT_IDX_TOOTH n) % s.toothN n, rev := 0, confirmed := 0, idxPlaced := true, awaitTooth := false }
        else t
      { t2 with found := t2.idxPlaced && s.f (F.WHL_SYNCCFG_CONFIRM n) ≤ t2.confirmed }
    else
      let cs := stepCands (s.toothN n) 8 (fun k => s.fits n e tp x.mprev k) (fun k => s.feat n k) t.cands
      match oneCand cs (s.f (F.WHL_SYNCCFG_CONFIRM n)) with
      | some k => { t with cands := [], found := true, pos := k, rev := 0 }
      | none => { t with cands := cs }
  let s1 := s.setTr n t1
  if !t1.found then s1
  else if limp then (s1.readCorr n [t1.pos]).limpFound n (s.th n t1.pos 0) e x.stamp x.due
  else if s.syncSrc n = 1 then (s1.setTr n { t1 with idxSync := true }).enterSync n e x.stamp x.due
  else if s.revs n = 1 then s1.enterSync n e x.stamp x.due
  else s1

/-- An accepted tooth edge in ACQUIRE, GAP_SEEK or the background of LIMP (Table 3.5). A reverse edge steps a position that
is found or placed down and meets no window (R78); before that it drops the candidates (DESIGN CHOICE, log entry 151). -/
def State.seekEdge (s : State) (n : Nat) (x : EdgeUpd) : State :=
  let t := s.tr n
  let limp := t.st = .limp
  match x.period with
  | none => s
  | some e =>
    if !x.fwd then
      if t.found || t.idxPlaced then let (k, r) := s.prevPos n t.pos t.rev; s.setTr n { t with pos := k, rev := r }
      else s.setTr n { t with cands := [] }
    else if (match x.before with | some b => decide (4 * b < e) | none => false) then
      let s1 := s.setTr n { t with periods := 1, cands := [], found := false, idxPlaced := false, awaitTooth := false, confirmed := 0, bgSeek := false }
      if limp then s1 else s1.setSt n .acquire
    else if (if limp then t.bgSeek else t.st = .gapSeek) then
      (s.setTr n { t with seekEdges := t.seekEdges + 1 }).recognise n x e (x.before.getD e)
    else
      let t1 := { t with periods := min 2 (t.periods + 1) }
      let s1 := s.setTr n t1
      if t1.periods < 2 || (t.patternBad && s.syncSrc n ≠ 2) then s1
      else if s.syncSrc n = 2 then
        if s.revs n = 1 then s1.enterSync n e x.stamp x.due else (s1.setTr n { t1 with found := true, seekEdges := 0 }).setSt n .gapSeek
      else
        let s2 := s1.setTr n { t1 with seekEdges := 0, bgSeek := limp }
        (if limp then s2 else s2.setSt n .gapSeek).recognise n x e (x.before.getD e)

/-- The learning update at a forward edge as entry k + 1 (R95); the five edges newest first. What a commit of this tick
wrote or cleared stands (R93). -/
def State.learnStep (s : State) (n : Nat) : State :=
  match (s.tr n).learn with
  | [(k4, r4, s4), (k3, r3, s3), (k2, r2, s2), _, (k0, r0, s0)] =>
    if k3 = 0 || s.toothN n < 5 || ((s.tr n).keptAt = s.now && (s.tr n).kept.contains k3) then s
    else
      let c := s.cpc n
      let th0 := s.th n k0 r0
      let th2 := s.th n k2 r2
      let th3 := s.th n k3 r3
      let th4 := s.th n k4 r4
      let da := fwd c th0 th2
      let ta := since s2 s0
      let db := fwd c th2 th4
      let tb := since s4 s2
      if da * tb < 64 * ((db * ta : Nat) - (da * tb : Nat) : Int).natAbs then s
      else
        let d0 := fwd c th2 th3
        let d1 := fwd c th3 th4
        let e0 := since s3 s2
        let e1 := since s4 s3
        let dev := divT ((((e0 * d1 : Nat) : Int) - (e1 * d0 : Nat)) * 65536) ((e0 + e1 : Nat) : Int)
        let rate := s.f (F.WHL_LEARN_RATE n)
        let delta := (dev + ((2 ^ (15 + rate) : Nat) : Int)) >>> (16 + rate)
        let v := sat (s.corr n k3 + delta) (-32768) 32767
        let t := s.tr n
        (s.setF (F.LRN_CORR n k3) (trunc 16 v)).setTr n { t with learned := addItem k3 t.learned }
  | _ => s

/-- STAT.UNLEARNED (R96). -/
def State.unlearned (s : State) (n : Nat) : Bool :=
  (List.range (s.toothN n)).any (fun k => k != 0 && !(s.tr n).learned.contains k)

/-! ### SYNC (R70, R74, R78) -/

/-- Reverse rotation is recognised in SYNC or LIMP (R92, R119). -/
def State.turnBack (s : State) (n : Nat) : State :=
  let t := s.tr n
  if t.dir then s
  else ((s.setTr n { t.lawOff with dir := true, turning := false, learn := [], haveIdx := false }).log .whlReverse n 0).evReverse n (t.a / 65536)

/-- The index check of the INDEX method at an accepted tooth edge (R74). -/
def State.indexToothCheck (s : State) (n : Nat) : State :=
  let t := s.tr n
  if s.syncSrc n = 1 && t.awaitTooth then
    let s1 := s.setTr n { t with awaitTooth := false }
    if t.pos = s.f (F.WHL_PAT_IDX_TOOTH n) && t.rev = 0 then
      s1.setTr n { s1.tr n with err := 0, idxErr := 0, idxSync := true }
    else s1.trkIdxError n
  else s

/-- The index entry behind the one expected next: the position of a tracker in LIMP (R70, R92). -/
def State.idxBehind (s : State) (n : Nat) : Nat := ((s.tr n).idxNext + s.idxN n - 1) % s.idxN n

/-- A reverse edge in SYNC: the position steps down, and the estimate follows it (R78, R92); the index check of R74 stands. -/
def State.reverseEdge (s : State) (n : Nat) (stamp : Time) : State :=
  let s1 := s.turnBack n
  let t := s1.tr n
  let (k, r) := s1.prevPos n t.pos t.rev
  ((s1.setTr n { t with pos := k, rev := r, applied := stamp }).indexToothCheck n).atAngle n (s1.th n k r)

/-- An accepted forward tooth edge in SYNC (R70, R78, R85, R92, R95). -/
def State.syncEdge (s : State) (n : Nat) (x : EdgeUpd) : State :=
  let t := s.tr n
  let (k1, r1) := s.nextPos n t.pos t.rev
  let e := x.period.getD 0
  let featBad := s.feat n k1 && !t.dir && !(s.fits n e (x.before.getD e) x.mprev k1)
  let featOk := s.feat n k1 && !t.dir && !featBad
  let clean := !featBad && !x.late
  let s1 := s.setTr n { t with pos := k1, rev := r1, applied := x.stamp, appliedPer := e, err := if featOk then 0 else t.err
                               learn := if clean then ((k1, r1, x.stamp) :: t.learn).take 5 else [] }
  let s2 := if featBad then s1.trkError n else s1
  let s3 := if x.late then s2.trkError n else s2
  let s4 := s3.indexToothCheck n
  let t4 := s4.tr n
  if t.dir then (s4.setTr n { t4 with dir := false, turning := true }).atAngle n (s4.th n k1 r1)
  else
    let s5 := (s4.setTr n { t4 with turning := false }).toothLaw n e x.stamp x.due
    let s6 := if t.turning then s5.onLaw n else s5
    if s.b (F.WHL_LEARN_EN n) && clean then (s6.readCorr n ((s6.tr n).learn.map (·.1))).learnStep n else s6

/-- The restart from STOPPED with the stopped input's edge in direction `x.fwd`, at angle `ang` of the advanced position
(Table 3.5, R91): period timing starts at the first edge and at a change of direction; the second consecutive period leads
back, by `law`, to `new`, in reverse without a law (R92). -/
def State.restartStep (s : State) (n : Nat) (x : EdgeUpd) (ang : Nat) (new : TState) (law : State → State) : State :=
  let t := s.tr n
  let fast := match x.period, x.before with | some e, some b => decide (4 * b < e) | _, _ => false
  let periods := if !t.turning || x.fwd != t.wasFwd then 0 else if fast then 1 else min 2 (t.periods + 1)
  let s1 := (s.setTr n { t with periods := periods, turning := true, wasFwd := x.fwd, dir := t.dir && !x.fwd, applied := x.stamp
                                appliedPer := x.period.getD 0 }).atAngle n ang
  if periods < 2 then s1
  else
    let s2 := (s1.setTr n { s1.tr n with turning := false }).setSt n new
    if x.fwd then ((law s2).onLaw n).faultRows n else (s2.turnBack n).faultRows n

/-- An accepted edge of the stopped input (Table 3.5, R91). An edge of the other direction starts the timing of periods
again (DEDUCED, log entry 148). -/
def State.stoppedEdge (s : State) (n : Nat) (x : EdgeUpd) (idx : Bool) : State :=
  let t := s.tr n
  if !s.b (F.WHL_CTL_STOP_KEEP n) then
    let s1 := s.restartTrk n
    let t1 := s1.tr n
    s1.setTr n (if idx then { t1 with haveIdx := true } else { t1 with haveEdge := true })
  else if idx then
    let j := t.idxNext
    (s.setTr n { t with idxPos := j, idxNext := (j + 1) % s.idxN n }).restartStep n x (s.idxa n j) .limp
      (fun s => s.idxLaw n j (x.period.getD 0) x.stamp x.due)
  else
    let (k, r) := if x.fwd then s.nextPos n t.pos t.rev else s.prevPos n t.pos t.rev
    (s.setTr n { t with pos := k, rev := r }).restartStep n x (s.th n k r) .sync
      (fun s => (s.setTr n (s.tr n).synced).toothLaw n (x.period.getD 0) x.stamp x.due)

/-! ### Index edges (R74 to R77) -/

/-- Ticks from one stamp to another, negative backward. -/
def ticksTo (x y : Time) : Int := (y - x).toInt

/-- The angle of the revolution that the tooth edge or the sample applied last gives (R67, R60). -/
def State.foundAngle (s : State) (n : Nat) : Nat :=
  if s.tmode n = 4 then (s.tr n).ssiAng else wrapN ((s.ang n (s.tr n).pos : Int) + s.corr n (s.tr n).pos) (s.cpr n)

/-- The angle within the revolution in GAP_SEEK, interpolated from the last accepted tooth edge and short of the next entry
(R75); from the last sample at the travel of the last sample period in SSI mode (DEDUCED, log entry 129). -/
def State.seekAngle (s : State) (n : Nat) (ti : Time) : Nat :=
  let t := s.tr n
  let cpr := s.cpr n
  let k1 := (t.pos + 1) % s.toothN n
  let pk : Int := if s.tmode n = 4 then (t.ssiDth : Int)
    else (wrapN ((s.ang n k1 : Int) + s.corr n k1 - s.ang n t.pos - s.corr n t.pos) cpr : Nat)
  wrapN (s.foundAngle n + min (divT (pk * ticksTo t.applied ti) (t.appliedPer : Int)) (pk - 1)) cpr

/-- The index entries that match an angle, with their distances: modulo C in SYNC, modulo C / REVS before (R75). -/
def State.idxMatches (s : State) (n m a : Nat) (mk : Option Nat) : List (Nat × Int) :=
  ((List.range (s.idxN n)).map (fun j => (j, sdist m (s.idxa n j % m) a))).filter (fun e =>
    decide (e.2.natAbs ≤ s.f (F.WHL_IDX_WIN_WIN n)) && (s.idxw n e.1 == 0 || (match mk with
      | none => false
      | some k => decide ((100 - s.tol n) * s.idxw n e.1 ≤ 100 * k) && decide (100 * k ≤ (100 + s.tol n) * s.idxw n e.1))))

/-- Does the verdict on an angle wait for the tooth's mark? -/
def State.needsMark (s : State) (n m a : Nat) : Bool :=
  (List.range (s.idxN n)).any (fun j => decide ((sdist m (s.idxa n j % m) a).natAbs ≤ s.f (F.WHL_IDX_WIN_WIN n)) && s.idxw n j != 0)

/-- The verdict of R75 on an index edge, with the mark in counts if it is known. -/
def State.idxVerdict (s : State) (n : Nat) (x : IdxCheck) (mk : Option Nat) : State :=
  let t := s.tr n
  let s0 := s.setTr n { t with idxChk := none }
  let t0 := s0.tr n
  if t.st = .sync then
    match s.idxMatches n (s.cpc n) x.angle mk with
    | (j, _) :: _ => s0.setTr n { t0 with idxSync := true, idxErr := 0, idxPos := j }
    | [] => s0.trkIdxError n
  else if t.st = .gapSeek && t.found then
    match s.idxMatches n (s.cpr n) x.angle mk with
    | [(j, d)] =>
      let c := s.cpc n
      let cpr := s.cpr n
      let cyc := wrapN ((s.idxa n j : Int) + d) c
      let thk := s.foundAngle n
      let at_ : Int := if 0 ≤ ticksTo t.applied x.stamp then (cyc : Int) - fwd cpr thk x.angle else (cyc : Int) + fwd cpr x.angle thk
      (s0.setTr n { t0.inRev (wrapN at_ c / cpr) cpr with idxSync := true, idxPos := j }).enterSync n t.appliedPer t.applied s.now
    | _ => s0
  else s0

/-- An index edge judged under R75: at once, or at its trailing edge where a mark decides. -/
def State.idxJudge75 (s : State) (n : Nat) (x : EdgeUpd) (sync : Bool) : State :=
  let a := if sync then x.angle else s.seekAngle n x.stamp
  let m := if sync then s.cpc n else s.cpr n
  let chk : IdxCheck := ⟨x.stamp, a, a⟩
  if s.needsMark n m a then
    match (s.tr n).idxMarkC with
    | some k => s.idxVerdict n chk (some k)
    | none => s.setTr n { s.tr n with idxChk := some chk }
  else s.idxVerdict n chk none

/-- Index recognition on its own, in ACQUIRE and GAP_SEEK (R76), and the entry to LIMP (Table 3.5). -/
def State.idxRecognise (s : State) (n : Nat) (x : EdgeUpd) : State :=
  let t := s.tr n
  match x.period with
  | none => s
  | some e =>
    if (match x.before with | some b => decide (4 * b < e) | none => false) then
      s.setTr n { t with idxPeriods := 1, idxCands := [], idxRecog := false }
    else
      let p := min 2 (t.idxPeriods + 1)
      if p < 2 then s.setTr n { t with idxPeriods := p }
      else
        let nn := s.idxN n
        let cs := stepCands nn 16 (fun j => s.fitsIdx n e (x.before.getD e) x.mprev j) (fun _ => true) t.idxCands
        let stepped := (t.idxNext) % nn
        let got := oneCand cs (s.f (F.WHL_SYNCCFG_LIMP_CONFIRM n))
        let recog := t.idxRecog || got.isSome
        let j := got.getD stepped
        let t1 := { t with idxPeriods := p, idxCands := cs, idxRecog := recog, idxPos := if recog then j else t.idxPos
                           idxNext := if recog then (j + 1) % nn else t.idxNext }
        let s1 := s.setTr n t1
        if recog && (s.toothFault n || s.passed t.stopBase (s.stopTicks n)) then
          let s2 := ((s1.setTr n { t1 with idxSync := true, idxErr := 0, idxJudge := false, turning := false, bgSeek := t.st = .gapSeek }).log .whlLimpEntered n 0).setSt n .limp
          ((s2.idxLaw n j e x.stamp x.due).onLaw n).faultRows n
        else s1

/-- Is a mark in counts within the band of an index entry (R70, R75)? -/
def State.markOk (s : State) (n j mk : Nat) : Bool :=
  decide ((100 - s.tol n) * s.idxw n j ≤ 100 * mk) && decide (100 * mk ≤ (100 + s.tol n) * s.idxw n j)

/-- The mark of the last index tooth is judged in LIMP (R70). -/
def State.limpMark (s : State) (n j mk : Nat) : State :=
  let s1 := s.setTr n { s.tr n with idxJudge := false }
  if s.markOk n j mk then s1.setTr n { s1.tr n with idxErr := 0 } else s1.trkIdxError n

/-- A reverse index edge in LIMP (R92): the index position steps down, without checks. -/
def State.limpBack (s : State) (n : Nat) (x : EdgeUpd) : State :=
  let j := s.idxBehind n
  (s.setTr n { s.tr n with idxPos := j, idxNext := j, idxJudge := false, applied := x.stamp }).atAngle n (s.idxa n j)

/-- An index edge applied in LIMP (R70, R85, R92). -/
def State.limpIndex (s : State) (n : Nat) (x : EdgeUpd) : State :=
  let s0 := if (s.tr n).idxJudge then (s.setTr n { s.tr n with idxJudge := false }).trkIdxError n else s
  let t := s0.tr n
  if t.dir then s0.limpBack n x
  else
    let j := t.idxNext
    let judge := !x.late && s.idxw n j != 0
    let t1 := { t with idxPos := j, idxNext := (j + 1) % s.idxN n, idxJudge := judge
                       awaitTooth := s.syncSrc n = 1 && t.bgSeek && !t.idxPlaced
                       idxErr := if !x.late && !judge then 0 else t.idxErr }
    let s1 := s0.setTr n t1
    let s2 := if x.late then s1.trkIdxError n else s1
    let s3 := match judge, t.idxMarkC with | true, some counts => s2.limpMark n j counts | _, _ => s2
    match x.period with
    | some e =>
      let s4 := s3.idxLaw n j e x.stamp x.due
      if t.turning then (s4.setTr n { s4.tr n with turning := false }).onLaw n else s4
    | none => if t.lawOn then s3 else s3.atAngle n (s.idxa n j)

/-- The Z quadrant check (R59). -/
def State.quadCheck (s : State) (n quad : Nat) : State :=
  let t := s.tr n
  if s.tmode n ≠ 3 then s
  else if quad = s.f (F.WHL_CFG_Z_QUAD n) then
    s.setTr n { t with zBad := 0, zGood := min 4 (t.zGood + 1), quadWiring := t.quadWiring && t.zGood < 3 }
  else
    let s1 := s.setTr n { t with zGood := 0, zBad := min 4 (t.zBad + 1), quadWiring := t.quadWiring || 3 ≤ t.zBad }
    if 3 ≤ t.zBad && !t.quadWiring then s1.log .whlQuadWiring n 0 else s1

/-- An index edge applied at its update tick. -/
def State.applyIndex (s : State) (n : Nat) (x : EdgeUpd) : State :=
  let s0 := (match (s.tr n).idxChk with | some c => s.idxVerdict n c none | none => s).quadCheck n x.quad
  let t := s0.tr n
  match t.st with
  | .sync =>
    if x.overdue then s0.loseSync n
    else if s0.idxMode n = 0 then s0
    else if s0.syncSrc n = 1 then
      let s1 := if t.awaitTooth then s0.trkIdxError n else s0
      s1.setTr n { s1.tr n with awaitTooth := true }
    else s0.idxJudge75 n x true
  | .acquire | .gapSeek =>
    if s0.idxMode n = 0 then s0
    else
      let s1 := if t.st = .gapSeek && s0.syncSrc n = 1 then s0.setTr n { t with awaitTooth := !t.idxPlaced }
        else if t.st = .gapSeek && t.found then s0.idxJudge75 n x false else s0
      let t1 := s1.tr n
      if (t1.st = .acquire || t1.st = .gapSeek) && s1.b (F.WHL_CTL_LIMP_EN n) && !x.noise then s1.idxRecognise n x else s1
  | .limp => s0.limpIndex n x
  | .stopped => if t.stopFrom then s0.stoppedEdge n x true else s0
  | _ => s0

/-! ### SSI samples at their update tick (R60, R85) -/

/-- An SSI sample in SYNC (R85, R92): behind the one before by less than half a revolution it tells reverse rotation; one
equal to it counts as forward (DESIGN CHOICE, log entry 130). -/
def State.ssiSync (s : State) (n : Nat) (x : EdgeUpd) (back : Bool) (cyc : Nat) : State :=
  let t := s.tr n
  if back then (s.turnBack n).atAngle n cyc
  else if t.dir then (s.setTr n { t with dir := false, turning := true }).atAngle n cyc
  else
    let s1 := (s.setTr n { t with turning := false }).ssiLaw n (x.period.getD 1) x.stamp x.due
    if t.turning then s1.onLaw n else s1

/-- An SSI sample in ACQUIRE, GAP_SEEK or the background of LIMP (Table 3.5, R77): after two periods its angle is the
position found. -/
def State.ssiSeek (s : State) (n : Nat) (x : EdgeUpd) : State :=
  let t := s.tr n
  match x.period with
  | none => s
  | some e =>
    if (match x.before with | some b => decide (4 * b < e) | none => false) then
      let s1 := s.setTr n { t with periods := 1, found := false }
      if t.st = .limp then s1 else s1.setSt n .acquire
    else
      let t1 := { t with periods := min 2 (t.periods + 1), seekEdges := t.seekEdges + 1 }
      let s1 := s.setTr n t1
      if t1.periods < 2 then s1
      else if t.st = .limp then s1.limpFound n t.ssiAng e x.stamp x.due
      else if t.st = .gapSeek then s1
      else if s.revs n = 1 then s1.enterSync n e x.stamp x.due
      else (s1.setTr n { t1 with found := true, seekEdges := 0 }).setSt n .gapSeek

/-- An SSI sample applied: its angle in the revolution is `x.angle`. -/
def State.applySsi (s : State) (n : Nat) (x : EdgeUpd) : State :=
  let t := s.tr n
  let cpr := s.cpr n
  let half := 2 * fwd cpr x.angle t.ssiAng < cpr
  let rev := if !t.ssiSeen then t.rev
    else if x.angle < t.ssiAng && cpr < 2 * (t.ssiAng - x.angle) then (t.rev + 1) % s.revs n
    else if t.ssiAng < x.angle && cpr < 2 * (x.angle - t.ssiAng) then (t.rev + s.revs n - 1) % s.revs n
    else t.rev
  let cyc := rev * cpr + x.angle
  let back := t.ssiSeen && x.angle ≠ t.ssiAng && half
  let s1 := s.setTr n { t with ssiSeen := true, ssiAng := x.angle, ssiCyc := cyc, ssiDth := fwd (s.cpc n) t.ssiCyc cyc, rev := rev
                               applied := x.stamp, appliedPer := x.period.getD 0 }
  match t.st with
  | .sync => s1.ssiSync n x back cyc
  | .limp =>
    if back then
      let s2 := s1.turnBack n
      let s3 := if t.dir then s2 else s2.atAngle n (s2.idxa n (s2.idxBehind n))
      s3.setTr n (s3.tr n).bgRestart
    else (s1.setTr n { s1.tr n with dir := false, turning := t.turning || t.dir }).ssiSeek n x
  | .acquire | .gapSeek => s1.ssiSeek n x
  | .stopped =>
    if t.stopFrom then s1
    else if !s.b (F.WHL_CTL_STOP_KEEP n) then s.restartTrk n
    else s1.restartStep n { x with fwd := !back } cyc .sync (fun s => (s.setTr n (s.tr n).synced).ssiLaw n (x.period.getD 1) x.stamp x.due)
  | _ => s1

/-! ### The update tick (R84) -/

/-- A reverse tooth edge in LIMP (R92): at its recognition the estimate is set to the index entry behind, the position that
LIMP tracks (DEDUCED, log entry 131); the background search starts again. -/
def State.limpReverse (s : State) (n : Nat) (x : EdgeUpd) : State :=
  let s1 := s.seekEdge n x
  if (s.tr n).dir then s1 else (s1.turnBack n).atAngle n (s1.idxa n (s1.idxBehind n))

/-- A tooth edge applied at its update tick. -/
def State.applyTooth (s : State) (n : Nat) (x : EdgeUpd) : State :=
  let t := s.tr n
  let here := { t with applied := x.stamp, appliedPer := x.period.getD 0 }
  match t.st with
  | .sync => if x.fwd then s.syncEdge n x else s.reverseEdge n x.stamp
  | .acquire | .gapSeek => (s.setTr n here).seekEdge n x
  | .limp =>
    if !x.fwd then (s.setTr n here).limpReverse n x
    else (s.setTr n { here with dir := false, turning := t.turning || t.dir }).seekEdge n x
  | .stopped => if t.stopFrom then s else s.stoppedEdge n x false
  | _ => s

/-- The tracker reads a tack entry in use that is bad beyond correction (Table 1.3), from the edge on that completes ACQUIRE
(R73). -/
def State.patFails (s : State) (n : Nat) : Bool :=
  let st := (s.tr n).st
  (st == .gapSeek || st == .sync || st == .limp || (st == .acquire && (s.tr n).periods == 1)) && decide (s.tmode n < 5)
    && (List.range (s.toothN n)).any (fun k => s.badWords.contains (R.PAT n k))

/-- The learning entries that an update has read (R84, R75, R95): those of the position and its neighbours for a tooth edge,
and those between which an index edge in GAP_SEEK was placed. -/
def State.readEntries (s : State) (n : Nat) (kind : EdgeKind) : List Nat :=
  let t := s.tr n
  let len := s.toothN n
  let near := fun (d : Nat) => (t.pos + len + d - 1) % len
  let law := if t.st = .sync || t.st = .stopped then [near 0, near 1, near 2] else if t.st = .gapSeek && t.found then [near 1, near 2] else []
  match kind with
  | .tooth | .index => law
  | .ssi => []

/-- The learning entries `bad` fail their parity from now on (Table 1.3). -/
def State.spoilLearn (s : State) (n : Nat) (bad : List Nat) : State :=
  { s with badWords := bad.foldl (fun l k => addItem (R.LRN n k) l) s.badWords }

/-- What undoing a leading edge brings back: the tracker before its update tick, with what its acceptance had moved (R58). -/
def Tracker.beforeLead (t u : Tracker) : Tracker :=
  { t with seen := u.seen, edge := u.edge, haveEdge := u.haveEdge, havePer := u.havePer, per := u.per, mark := u.mark
           stopBase := u.stopBase, lead := none }

/-- The leading edge in hand has been applied: `t0` is the tracker before, `s0` the state before (R58). -/
def State.leadDone (s s0 : State) (n : Nat) : State :=
  let t := s.tr n
  let k := (t.learn.getD 1 (0, 0, 0)).1
  s.setTr n { t with leadSt := some ((s0.tr n).st, t.st), leadAt := s.now, leadErr := t.idxErr, leadSync := t.idxSync
                     leadCorr := if t.learn.length = 5 then some (k, s0.f (F.LRN_CORR n k), s.f (F.LRN_CORR n k)) else none }

/-- An accepted edge at its update tick, by its kind. -/
def State.applyEdge (s : State) (n : Nat) (x : EdgeUpd) : State :=
  match x.kind with
  | .tooth => s.applyTooth n x
  | .index => s.applyIndex n x
  | .ssi => s.applySsi n x

/-- LAW_UPDATE: the oldest accepted edge of the tracker, once its update tick has come, is applied (R84, R85). -/
def State.lawUpdate (s : State) (n : Nat) : State :=
  match (s.tr n).upds with
  | [] => s
  | x :: xs =>
    if s.reached x.due then
      let s1 := s.setTr n { s.tr n with upds := xs }
      let lead := x.kind = .tooth && (s.tr n).lead = some x.stamp
      let s2 := if lead then s1.setUndo n ((s1.tr n).beforeLead (s1.undoOf n)) else s1
      if s2.patFails n then (s2.log .whlTackEcc n 0).setSt n .lost
      else
        let s3 := s2.applyEdge n x
        let s4 := if lead && (s3.tr n).lead = some x.stamp then s3.leadDone s1 n else s3
        s4.readCorr n (s4.readEntries n x.kind)
    else s

/-! ### Accepting edges (R55, R70, R71) -/

/-- The entry that the last accepted tooth edge will be once every waiting update is applied. -/
def State.newestEntry (s : State) (n : Nat) : Nat :=
  let len := s.toothN n
  ((s.tr n).upds.filter (fun x => x.kind == .tooth)).foldl (fun k x => (if x.fwd then k + 1 else k + len - 1) % len) ((s.tr n).pos % len)

/-- Is the rotation reverse once every waiting update is applied? -/
def Tracker.dirNow (t : Tracker) : Bool :=
  match (t.upds.filter (fun x => x.kind == .tooth)).getLast? with | some x => !x.fwd | none => t.dir

/-- The tooth period expected after the last accepted edge (R70). -/
def State.toothExp (s : State) (n : Nat) : Nat :=
  let k := s.newestEntry n
  (s.tr n).per * s.pitch n ((k + 1) % s.toothN n) / s.pitch n k

/-- The index period expected after the last accepted index edge (R70). -/
def State.idxExp (s : State) (n : Nat) : Nat := (s.tr n).idxPer * s.idxD n (s.tr n).idxNext / s.idxD n (s.idxBehind n)

/-- Is a tooth edge held against the window of SYNC (R70)? -/
def State.toothWindow (s : State) (n : Nat) (fwdEdge : Bool) : Bool :=
  let t := s.tr n
  t.st = .sync && fwdEdge && !t.dirNow && t.haveEdge && t.havePer

/-- Is a tooth edge stamped `stamp` noise: closer than 125 ticks to the last accepted one, or early for the state (R55, R70,
R71)? In reverse rotation R55 alone applies (R78). An edge stamped before the last accepted one, which unequal filters of A
and B can bring by at most 252 ticks, is closer than any bound (DEDUCED, log entry 132). -/
def State.toothNoise (s : State) (n : Nat) (stamp : Time) (fwdEdge : Bool) : Bool :=
  let t := s.tr n
  let e := since stamp t.edge
  let free := fwdEdge && (t.st = .acquire || t.st = .gapSeek || t.st = .limp || (t.st = .stopped && !t.stopFrom)) && t.haveEdge && t.havePer
  (t.seen && (decide (e < 125) || decide (since t.edge stamp ≤ 252)))
    || (s.toothWindow n fwdEdge && decide (100 * e < s.nwLo n * s.toothExp n)) || (free && decide (4 * e < t.per))

/-- A tooth edge that has passed filter and polarity: noise is counted, any other edge is accepted and queued for its update
tick. -/
def State.acceptTooth (s : State) (n : Nat) (stamp : Time) (fwdEdge : Bool) : State :=
  if s.toothNoise n stamp fwdEdge then s.bump (R.WHL_CNT_NOISE n)
  else
    let t := s.tr n
    let e := since stamp t.edge
    let x : EdgeUpd := { kind := .tooth, due := s.now + 120, stamp := stamp, period := if t.haveEdge then some e else none
                         before := if t.haveEdge && t.havePer then some t.per else none, fwd := fwdEdge
                         late := s.toothWindow n fwdEdge && s.nwHi n * s.toothExp n < 100 * e, mprev := t.mark, angle := 0, quad := 0
                         overdue := false, noise := false }
    s.setTr n { t with seen := true, edge := stamp, stopBase := stamp, haveEdge := true, havePer := t.haveEdge
                       per := if t.haveEdge then e else t.per, mark := none, upds := t.upds ++ [x] }

/-! ### Front ends (R54 to R57, R63, R421) -/

/-- Is the pair of the VR type? -/
def State.isVr (s : State) (src : Nat) : Bool := src < 32 && s.f (F.SNS_CFG_TYPE src) == 0

/-- The arming threshold of a VR pair for a tracker, in units of 10 mV (R56): ACQUIRE is that of the tracker that takes the
crossing (DESIGN CHOICE, log entry 25). -/
def State.vrThreshold (s : State) (n k : Nat) : Nat :=
  let vmin := s.f (F.SNS_CFG_VR_MIN k)
  let x := s.sn k
  if !x.havePeak || (s.tr n).st = .acquire then vmin
  else max vmin (max vmin (s.f (F.SNS_CFG_ARM_FRAC k) * s.f (F.SNS_STAT_VR_PEAK k) / 128) / 2 ^ x.halvings)

/-- The tracker whose tooth period counts for a pair's halvings: the lowest-numbered one that is not OFF and reads it as its
tooth input (DESIGN CHOICE, log entry 25). -/
def State.firstUser (s : State) (k : Nat) : Option Nat :=
  (List.range 16).find? (fun n => s.usesTooth n k && (s.tr n).st != .off)

/-- A pair arms for a crossing of type VR at the threshold; any other type needs no arming (R56). -/
def State.arms (s : State) (n k peak : Nat) : Bool := !s.isVr k || decide (s.vrThreshold n k ≤ peak)

/-- A tooth edge leaves a VR pair: its peak is taken, at most 30.00 V (R56). -/
def State.takePeak (s : State) (k peak : Nat) : State :=
  if s.isVr k then (s.setF (F.SNS_STAT_VR_PEAK k) (min peak 3000)).setSn k { s.sn k with havePeak := true, halvings := 0 } else s

/-- A fault flag of a pair rises (R64). -/
def State.pairRise (s : State) (k : Nat) (c : LogCode) : State :=
  let s1 := ((s.setB (F.SNS_STAT_FAULT_STICKY k) true).pulse (priv (k / 2) (12 + k % 2))).log c k 0
  overList (List.range 16) (fun s n => s.faultRows n) s1

/-- INVERT of a pair has turned over: so does the level that every tracker has of it as its A or B (R63, Table 3.12). -/
def State.turnLevels (s : State) (k : Nat) : State :=
  overList (List.range 16) (fun s n =>
    let t := s.tr n
    s.setTr n { t with lvA := t.lvA != (s.f (F.WHL_IN_TOOTH_SRC n) == k), lvB := t.lvB != (s.f (F.WHL_IN_B_SRC n) == k) }) s

/-- The duty check of R63 at a tooth of a pair, with the tooth's mark (of a VR pair, its time with P − N > 0) and period.
With AUTO_SWAP the fault rows act first, and then the move to ACQUIRE (DESIGN CHOICE, log entry 145). -/
def State.dutyCheck (s : State) (k mark per : Nat) : State :=
  let x := s.sn k
  let ed := s.f (F.SNS_THR_EXP_DUTY k)
  let tol := 4 * s.f (F.SNS_CFG_DUTY_TOL k) * per
  let off := (((256 * mark : Nat) : Int) - (ed * per : Nat)).natAbs
  let mir := (((256 * mark : Nat) : Int) - ((256 - ed) * per : Nat)).natAbs
  if ed = 0 then s
  else
    let good := off ≤ tol
    let bad := !good && mir ≤ tol
    let x1 := { x with revTeeth := if bad then min 16 (x.revTeeth + 1) else 0, okTeeth := if good then min 16 (x.okTeeth + 1) else 0 }
    let s1 := s.setSn k x1
    if x1.revTeeth = 16 && !s.b (F.SNS_STAT_REVERSED k) then
      let s2 := (s1.setB (F.SNS_STAT_REVERSED k) true).pairRise k .whlSnsReversed
      if s.b (F.SNS_CFG_AUTO_SWAP k) then
        let s3 := ((if s2.b (F.SNS_CFG_INVERT k) then s2 else s2.turnLevels k).setB (F.SNS_CFG_INVERT k) true).setB (F.SNS_STAT_SWAPPED k) true
        overList (List.range 16) (fun s n =>
          if (s.tr n).st ≠ .off && (s.usesTooth n k || s.usesIdx n k) then s.restartTrk n else s) s3
      else s2
    else if x1.okTeeth = 16 then s1.setB (F.SNS_STAT_REVERSED k) false
    else s1

/-- The counted edges and direction of QUAD (R59): `none` where the edge is not counted, else forward or not. Forward is
A leading B (DESIGN CHOICE, log entry 3). -/
def quadEdge (qmult : Nat) (onB rising lvA lvB inv : Bool) : Option Bool :=
  let counted := if qmult = 0 then !onB && rising else if qmult = 1 then !onB else true
  if counted then
    let f := if onB then rising == lvA else rising != lvB
    some (f != inv)
  else none

/-- The tracker whose polarity tells where a pair's teeth begin and end, and whether as its index input: the lowest-numbered one
that reads the pair, a tooth input before an index input and a tracker at work before one that is OFF (DESIGN CHOICE, log entry 25). -/
def State.measurer (s : State) (k : Nat) : Option (Nat × Bool) :=
  let find := fun (on idx : Bool) => ((List.range 16).find? (fun n =>
    (if idx then s.usesIdx n k else s.usesTooth n k) && (!on || (s.tr n).st != .off))).map (fun n => (n, idx))
  (((find true false).or (find true true)).or (find false false)).or (find false true)

/-- The opposite crossing of a pair's tooth: its mark (R57). -/
def State.pairMark (s : State) (k n : Nat) (idx : Bool) (stamp : Time) : State :=
  let x := s.sn k
  if k < 32 && s.measurer k = some (n, idx) && x.haveEdge && x.mark.isNone then s.setSn k { x with mark := some (since stamp x.edge) } else s

/-- A tooth of a pair ends with the edge that begins the next, rising where `up` says so: the duty check of R63. The edge of
one tooth reaches several trackers and is measured once, by the polarity of one of them. -/
def State.pairTooth (s : State) (k n : Nat) (idx : Bool) (stamp : Time) (up : Bool) : State :=
  let x := s.sn k
  if 32 ≤ k || s.measurer k ≠ some (n, idx) || (x.haveEdge && x.edge = stamp) then s
  else
    let per := since stamp x.edge
    let s1 := s.setSn k { x with edge := stamp, haveEdge := true, mark := none }
    match x.haveEdge, x.mark with
    | true, some m => s1.dutyCheck k (if s.isVr k && !up then per - m else m) per
    | _, _ => s1

/-- Is a level of the tooth input the one that a tooth edge leads to (R56, R57, R421)? -/
def State.toothLevel (s : State) (n src : Nat) (lvl : Bool) : Bool :=
  if s.isVr src then lvl == s.b (F.WHL_CFG_EDGE_POL n) else lvl != s.b (F.WHL_CFG_EDGE_POL n)

/-- Is a level of the index input the one that an active edge leads to (Table 3.10)? -/
def State.idxLevel (s : State) (n : Nat) (lvl : Bool) : Bool := lvl != s.b (F.WHL_CFG_IDX_POL n)

/-- Does a tracker take a crossing as a tooth edge, and in which direction: counted in QUAD, the active one in VR, DIGITAL and
PULSE_WIDTH? -/
def State.toothWay (s : State) (n : Nat) (onB lvl active : Bool) (t : Tracker) : Option Bool :=
  if t.st = .off then none
  else if s.tmode n = 3 then quadEdge (s.f (F.WHL_CFG_QMULT n)) onB lvl t.lvA t.lvB (s.b (F.WHL_CFG_DIR_INV n))
  else if onB || !active then none
  else some (s.tmode n != 2 || !t.pulseRev)

/-- A crossing as a tracker takes it: a tooth edge, or in VR and DIGITAL the opposite crossing, which gives the mark. -/
def State.toothCross (s : State) (n : Nat) (onB lvl active : Bool) (t : Tracker) (stamp : Time) : State :=
  match s.toothWay n onB lvl active t with
  | some f =>
    let s1 := s.acceptTooth n stamp f
    if s.tmode n = 2 && (s1.tr n).edge = stamp && (s1.tr n).seen then
      (s1.setUndo n (s.tr n)).setTr n { s1.tr n with lead := some stamp, leadSt := none }
    else s1
  | none =>
    if s.tmode n < 2 && !onB && !active && t.st ≠ .off && t.haveEdge && t.mark = none then
      s.setTr n { s.tr n with mark := some (since stamp t.edge) }
    else s

/-- TOOTH_EDGE: a level change on the tooth or B input (R55 to R59); in IDLE the tracker takes its level alone (R382). Right after a
change of IN the level of A or B is still that which its old input delivered last (DESIGN CHOICE, log entry 134). -/
def State.toothEdge (s : State) (n : Nat) (onB : Bool) (x : Crossing) : State :=
  let src := if onB then s.f (F.WHL_IN_B_SRC n) else s.f (F.WHL_IN_TOOTH_SRC n)
  let g := 4 * (if onB then s.f (F.WHL_FILT_B_GLITCH n) else s.f (F.WHL_FILT_TOOTH_GLITCH n))
  let lvl := s.sensed src x.rising
  let active := s.toothLevel n src lvl
  if x.held < g || 4 ≤ s.tmode n || !s.taken src x || (active && !s.arms n src x.peak) then s
  else
    let stamp := s.now - BitVec.ofNat 48 g
    let t := s.tr n
    let s1 := (s.srcSet src x.rising).setTr n (if onB then { t with lvB := lvl } else { t with lvA := lvl })
    if s.mode = 3 then s1 else
    let s2 := if active then s1.takePeak src x.peak else s1.pairMark src n false stamp
    let s3 := s2.toothCross n onB lvl active t stamp
    let noise := match s2.toothWay n onB lvl active t with | some f => s2.toothNoise n stamp f | none => false
    if active && !noise then s3.pairTooth src n false stamp lvl else s3

/-- Is an index edge early against the last index period (R70, R71, R76)? -/
def State.idxClose (s : State) (n : Nat) (stamp : Time) : Bool :=
  let t := s.tr n
  t.haveIdx && t.idxPer ≠ 0 && !t.dirNow && decide (4 * since stamp t.idxEdge < t.idxPer)

/-- Is an index edge noise that is not taken at all: before the window of LIMP, or early in STOPPED (R70, R71)? -/
def State.idxEarly (s : State) (n : Nat) (stamp : Time) : Bool :=
  let t := s.tr n
  (t.st = .limp && t.haveIdx && t.idxPer ≠ 0 && !t.dirNow && decide (100 * since stamp t.idxEdge < s.nwLo n * s.idxExp n))
    || (t.st = .stopped && t.stopFrom && s.idxClose n stamp)

/-- Is an index edge noise for the index recognition, which goes on to the placing all the same (R71, R76)? -/
def State.idxReject (s : State) (n : Nat) (stamp : Time) : Bool :=
  ((s.tr n).st = .acquire || (s.tr n).st = .gapSeek) && s.b (F.WHL_CTL_LIMP_EN n) && s.idxClose n stamp

/-- An active index edge as a tracker takes it (R70, R71, R75, R76): rejected as noise, or queued for its update tick. In
reverse rotation an index period is not measured. -/
def State.acceptIndex (s : State) (n : Nat) (stamp : Time) (g : Nat) : State :=
  let t := s.tr n
  let e := since stamp t.idxEdge
  let windowed := t.haveIdx && t.idxPer ≠ 0 && !t.dirNow
  let reject := s.idxReject n stamp
  if s.idxEarly n stamp then s.bump (R.WHL_CNT_NOISE n)
  else
    let s0 := if reject then s.bump (R.WHL_CNT_NOISE n) else s
    let x : EdgeUpd := { kind := .index, due := s.now + 120, stamp := stamp, period := if t.haveIdx && !t.dirNow then some e else none
                         before := if windowed then some t.idxPer else none, fwd := true
                         late := t.st = .limp && windowed && s.nwHi n * s.idxExp n < 100 * e, mprev := t.idxMark
                         angle := (if g = 0 then t.a else t.hist.getD (g - 1) t.a) / 65536
                         quad := 2 * toBit t.lvB + toBit t.lvA
                         overdue := t.st = .sync && t.havePer && !t.dirNow && decide (((s.nwHi n * s.toothExp n : Nat) : Int) < 100 * ticksTo t.edge stamp)
                         noise := reject }
    let t1 := if reject then t else { t with idxEdge := stamp, haveIdx := !t.dirNow, idxMark := none
                                             idxPer := if t.haveIdx && !t.dirNow then e else 0 }
    s0.setTr n { t1 with upds := t.upds ++ [x], idxMarkC := none, idxEst := x.angle, idxLast := stamp, idxNoise := reject }

/-- INDEX_EDGE: a level change to the active level of the index input, at `g` ticks of filter. -/
def State.indexEdge (s : State) (n : Nat) (x : Crossing) : State :=
  let src := s.f (F.WHL_IN_IDX_SRC n)
  let g := 4 * s.f (F.WHL_FILT_IDX_GLITCH n)
  let lvl := s.sensed src x.rising
  if x.held < g || 5 ≤ s.tmode n || !s.taken src x || !s.idxLevel n lvl || !s.arms n src x.peak then s
  else
    let stamp := s.now - BitVec.ofNat 48 g
    if s.mode = 3 then s.srcSet src x.rising else
    let s1 := (s.srcSet src x.rising).takePeak src x.peak
    let s2 := if (s.tr n).st = .off then s1 else s1.acceptIndex n stamp g
    if s1.idxEarly n stamp || s1.idxReject n stamp then s2 else s2.pairTooth src n true stamp lvl

/-- The mark of the index tooth in counts, at a trailing edge stamped `stamp` where the estimate was `est` (R70, R75). In
GAP_SEEK it begins at the angle with which the edge was judged, if it has been. -/
def State.idxMarkCounts (s : State) (n est : Nat) (stamp : Time) : Nat :=
  let t := s.tr n
  if t.st = .gapSeek then fwd (s.cpr n) (match t.idxChk with | some c => c.angle | none => s.seekAngle n t.idxLast) (s.seekAngle n stamp)
  else if t.idxJudge then fwd (s.cpc n) (s.idxa n t.idxPos) est
  else fwd (s.cpc n) t.idxEst est

/-- INDEX_TRAILING_EDGE: the mark of the index tooth (R70, R75, R76). -/
def State.indexTrailing (s : State) (n : Nat) (x : Crossing) : State :=
  let src := s.f (F.WHL_IN_IDX_SRC n)
  let g := 4 * s.f (F.WHL_FILT_IDX_GLITCH n)
  let t := s.tr n
  if x.held < g || 5 ≤ s.tmode n || !s.taken src x || s.idxLevel n (s.sensed src x.rising) then s
  else
    let stamp := s.now - BitVec.ofNat 48 g
    if s.mode = 3 then s.srcSet src x.rising else
    let s0 := (s.srcSet src x.rising).pairMark src n true stamp
    if t.idxMarkC.isSome || t.st = .off || (!t.haveIdx && !t.dirNow) then s0
    else
      let mk := s.idxMarkCounts n ((if g = 0 then t.a else t.hist.getD (g - 1) t.a) / 65536) stamp
      let s1 := s0.setTr n { t with idxMark := if t.idxNoise then t.idxMark else some (since stamp t.idxEdge), idxMarkC := some mk }
      match t.idxChk with
      | some c =>
        let s2 := s1.idxVerdict n c (some mk)
        s2.readCorr n (s2.readEntries n .index)
      | none => if t.idxJudge then s1.limpMark n t.idxPos mk else s1

/-! ### The tick (R86, R88) -/

/-- PRED of R88. -/
def predict (m : Nat) (catchup : Bool) (t : Tracker) : Nat :=
  let d24 := 24 * t.q + (t.acc + 24 * t.rem) / t.den
  let t24 := if t.run < t.gone + d24 then t.h else (t.lam + d24) % m
  if !ahead m t.a t24 then t.a
  else if catchup then (t.a + min (fwd m t.a t24) (4 * d24)) % m
  else t24

/-- STEP of Table 4.1: how far the estimate has advanced since the last tick. -/
def advance (m old a : Nat) : Nat := if ahead m old a then fwd m old a else 0

/-- One tick of a tracker with a law (R86): the law advances, unless it was replaced in this tick, and the estimate moves. -/
def Tracker.tick (t : Tracker) (m : Nat) (catchup : Bool) : Tracker :=
  let carry := t.den ≤ t.acc + t.rem
  let step := if t.freshLaw then t.q else if carry then t.q + 1 else t.q
  let acc := if t.freshLaw then t.acc else if carry then t.acc + t.rem - t.den else t.acc + t.rem
  let lam := if t.freshLaw then t.lam else (t.lam + step) % m
  let gone := if t.freshLaw then t.gone else t.gone + step
  let halted := t.run < gone
  let tgt := if halted then t.h else lam
  let moves := ahead m t.a tgt
  let catching := moves && catchup && 4 * step < fwd m t.a tgt
  let a := if !moves then t.a else if catching then (t.a + 4 * step) % m else tgt
  let t1 := { t with acc := acc, lam := lam, gone := gone, halted := halted, hold := !moves && t.a != tgt
                     catching := catching, jumped := moves && !catching && 4 * step < fwd m t.a tgt, jumpFrom := t.a
                     a := a, stepA := advance m t.aLast a, newLaw := t.freshLaw, freshLaw := false, pred0 := t.pred }
  { t1 with pred := predict m catchup t1 }

/-- One tick of a tracker without a law: the estimate stands, but for what an edge of this tick has set. -/
def Tracker.idleTick (t : Tracker) (m : Nat) : Tracker :=
  { t with newLaw := false, jumped := false, hold := false, catching := false, halted := false
           stepA := advance m t.aLast t.a, pred0 := t.pred, pred := t.a }

/-- The state a gear follower takes from its source (R61). -/
def gearState : TState → TState
  | .off | .lost => .lost
  | .acquire | .gapSeek => .acquire
  | .sync => .sync
  | .limp => .limp
  | .stopped => .stopped

/-- The angle of a geared tracker that follows, its remainder, its rate and its predicted angle (R97). -/
def State.gearStep (s : State) (n : Nat) : Tracker × State :=
  let t := s.tr n
  let src := s.tr (s.f (F.WHL_VIRT_SRC n))
  let ms := s.rawM (s.f (F.WHL_VIRT_SRC n))
  let m := s.rawM n
  let num := s.f (F.WHL_RATIO_NUM_NUM n)
  let den := s.f (F.WHL_RATIO_DEN_DEN n)
  if den = 0 then
    let (k, s1) := s.draw
    ({ t with geared := true, a := (Config.gearFree k 0).toNat % m, pred := (Config.gearFree k 1).toNat % m
              q := (Config.gearFree k 2).toNat % 2 ^ 24 }, s1)
  else
    let t1 :=
      if !t.geared then
        let x := src.a * num
        { t with geared := true, a := wrapN ((s.f (F.WHL_ZERO_ZERO_OFS n) * 65536 + x / den : Nat) : Int) m, accg := ((x % den : Nat) : Int) }
      else
        let ds : Int := if src.dir then -((fwd ms src.a t.gearPrev : Nat) : Int) else ((fwd ms t.gearPrev src.a : Nat) : Int)
        let g := t.accg + ds * num
        let st := divT g (den : Int)
        { t with accg := g - st * den, a := wrapN ((t.a : Int) + st) m }
    let d24 : Int := sdist ms src.a src.pred
    ({ t1 with q := min (src.q * num / den) 0xFFFFFF, pred := wrapN ((t1.a : Int) + divT (d24 * num) (den : Int)) m }, s)

/-- One tick of a VIRT_GEAR tracker: state, phase and ratio (R61, R97). Its source has already run in this tick. NEWLAW is the
source's (DESIGN CHOICE, log entry 153). -/
def State.gearTick (s : State) (n : Nat) : State :=
  let src := s.tr (s.f (F.WHL_VIRT_SRC n))
  let m := s.rawM n
  let s0 := s.setSt n (gearState src.st)
  let t := { s0.tr n with geared := (s0.tr n).geared && (s.tr n).st == (s0.tr n).st }
  if t.st = .sync || t.st = .limp then
    let (t1, s1) := (s0.setTr n t).gearStep n
    let s2 := s1.setTr n { t1 with gearPrev := src.a, halted := src.halted, hold := src.hold
                                   catching := src.catching, jumped := src.jumped, newLaw := src.newLaw, jumpFrom := t.a
                                   stepA := advance m t.aLast t1.a, pred0 := t.pred, dir := src.dir }
    if src.dir && !t.dir then (s2.log .whlReverse n 0).evReverse n (t.a / 65536) else s2
  else s0.setTr n { t.idleTick m with geared := false, gearPrev := src.a, q := 0, dir := t.dir }

/-- What the armer keeps of a tracker per tick: the halt timer, the stall's end and the re-arm crossing (R117, R120). The
skip of REVERSE_END is kept for as long as the re-arm wait lasts (DESIGN CHOICE, log entry 146). -/
def State.evTick (s : State) (n aOld : Nat) : State :=
  let t := s.tr n
  let e := s.te n
  let m := s.rawM n
  let c := s.cpc n
  let adv := t.st != .off && ahead m aOld t.a
  let rearm := s.f (F.WHL_REARM_ANGLE n) * 65536
  let cross := t.arm && e.waiting && 0 < fwd m aOld rearm && fwd m aOld rearm ≤ fwd m aOld t.a && adv
  let aRevRaw := e.aRev * 65536
  let pastRev := adv && ((0 < fwd m aOld aRevRaw && fwd m aOld aRevRaw ≤ fwd m aOld t.a) || t.a < aOld)
  let e1 := { e with haltTicks := if t.halted then e.haltTicks + 1 else 0, stalled := e.stalled && !adv
                     waiting := e.waiting && !cross, afresh := e.afresh && !cross, fPrev := if cross then s.f (F.WHL_REARM_ANGLE n) % c else e.fPrev
                     aRevSet := e.aRevSet && !cross, skipping := e.skipping && (e.waiting || !pastRev) }
  s.setTe n e1

/-- TRACKER_TICK of one tracker. -/
def State.tickTracker (s : State) (n : Nat) : State :=
  let t := s.tr n
  let g := 4 * s.f (F.WHL_FILT_IDX_GLITCH n)
  let t0 := if g = 0 then { t with hist := [] } else { t with hist := (t.a :: t.hist).take g }
  let s1 := s.setTr n t0
  let s2 := if t.st = .off then s1.setTr n (t0.idleTick (s.rawM n))
    else if s.tmode n = 5 then s1.gearTick n
    else if t0.lawOn && !t0.dir then s1.setTr n (t0.tick (s.rawM n) (s.b (F.WHL_CTL_EARLY n)))
    else s1.setTr n (t0.idleTick (s.rawM n))
  let s3 := s2.evTick n t.aLast
  s3.setTr n { s3.tr n with aLast := (s3.tr n).a }

/-! ### Timers and limits (Table 3.5) -/

/-- STOP_TIME_EXPIRY: SYNC without a tooth edge for STOP_TIME, or LIMP without an index edge for the greater of
STOP_TIME and twice the expected index period. -/
def State.stopExpiry (s : State) (n : Nat) : State :=
  let t := s.tr n
  if 5 ≤ s.tmode n then s
  else if t.st = .sync && s.passed t.stopBase (s.stopTicks n) then
    (s.setTr n { t with stopFrom := false, turning := false, periods := 0, haveEdge := false, havePer := false }).setSt n .stopped
  else if t.st = .limp && s.passed t.idxEdge (max (s.stopTicks n) (2 * s.idxExp n)) then
    (s.setTr n { t with stopFrom := true, turning := false, periods := 0, haveIdx := false }).setSt n .stopped
  else s

/-- ERR_MAX_REACHED. -/
def State.errMaxRow (s : State) (n : Nat) : State :=
  if (s.tr n).st = .sync && s.errMax n ≤ (s.tr n).err then s.loseSync n else s

/-- IDX_ERR_MAX_REACHED: each time the count reaches the limit IDX_SYNC clears in SYNC and WHL_INDEX_LOST is logged; LIMP goes
to LOST (R70, R74, R75). -/
def State.idxErrMaxRow (s : State) (n : Nat) : State :=
  let t := s.tr n
  if t.idxErr < s.idxErrMax n then s
  else if t.st = .sync && (t.idxSync || (t.idxDue && t.idxErr == s.idxErrMax n)) then
    (s.setTr n { t with idxSync := false, idxDue := false }).log .whlIndexLost n 0
  else if t.st = .limp then s.loseLimp n
  else s

/-- SEEK_REVS_EXHAUSTED. -/
def State.seekRow (s : State) (n : Nat) : State :=
  let t := s.tr n
  if t.st = .gapSeek && s.seekRevs n * s.toothN n ≤ t.seekEdges then (s.log .whlGapNotFound n 0).setSt n .lost else s

/-- VIRT_TETHER_LOST (R98). -/
def State.tetherRow (s : State) (n : Nat) : State :=
  let t := s.tr n
  if s.tmode n = 6 && t.st ≠ .off && t.st ≠ .lost && 4 ≤ t.tthNone then (s.log .whlTetherAngleLost n 0).setSt n .lost else s

/-- The period expected of a pair's teeth, and when the last one was accepted: of its tooth user, in STOPPED too, else of the
lowest-numbered tracker that reads it as its index (DESIGN CHOICE, log entry 25). Where no position is known the last period is
expected again. -/
def State.pairPeriod (s : State) (k : Nat) : Option (Nat × Time) :=
  match s.firstUser k with
  | some n =>
    let t := s.tr n
    if t.havePer || (t.st = .stopped && t.per ≠ 0) then some (if t.st = .sync || t.st = .stopped then s.toothExp n else t.per, t.edge) else none
  | none =>
    ((List.range 16).find? (fun n => s.usesIdx n k && (s.tr n).st != .off)).map (fun n =>
      let t := s.tr n
      (if t.st = .limp then s.idxExp n else t.idxPer, t.idxEdge))

/-- VR_THRESHOLD_HALVING: a further expected period has passed without an edge (R56); the first halving comes when one more
than the expected period has passed, at twice that period (DESIGN CHOICE, log entry 133). -/
def State.vrHalve (s : State) (k : Nat) : State :=
  let x := s.sn k
  let due := match s.pairPeriod k with
    | some (e, t) => e ≠ 0 && decide ((x.halvings + 2) * e ≤ since s.now t)
    | none => false
  if s.isVr k && due && s.mode ≠ 3 then s.setSn k { x with halvings := x.halvings + 1 } else s

/-- SENSOR_WINDOW_SAMPLE: the class of one sample in the order of Table 3.2, and the flags over the last 100 samples. -/
def snsClass (type : Nat) (p n : Int) : SnsClass :=
  let vr := type == 0
  let se := type == 2
  let gnd := fun (v : Int) => decide (-300 ≤ v) && decide (v ≤ 300)
  if decide (5500 < p) || (!se && decide (5500 < n)) then .shortSup
  else if gnd p || (!se && gnd n) then .shortGnd
  else if (if vr then decide (500 < p - n) else if se then decide (1600 ≤ p) && decide (p ≤ 1700) else decide (-50 < p - n) && decide (p - n < 50)) then .open
  else .none

/-- Runs of one condition: samples in a row that meet it, and that do not, up to 100. -/
def runs (hit : Bool) (on off : Nat) : Nat × Nat := if hit then (min 100 (on + 1), 0) else (0, min 100 (off + 1))

def State.flagBy (s : State) (x : Fld) (k : Nat) (c : LogCode) (on off : Nat) : State :=
  if on = 100 && !s.b x then (s.setB x true).pairRise k c else if off = 100 then s.setB x false else s

/-- SENSOR_WINDOW_SAMPLE: one sample of a pair by the window monitor (R62, R64), which runs in every mode from CONFIG on but
IDLE (R389). -/
def State.snsSample (s : State) (k : Nat) (p n : Int) : State :=
  if s.mode < 2 || s.mode = 3 then s else
  let c := snsClass (s.f (F.SNS_CFG_TYPE k)) p n
  let x := s.sn k
  let (a, b) := runs (c == .shortSup) x.supRun x.supOff
  let (d, e) := runs (c == .shortGnd) x.gndRun x.gndOff
  let (f, g) := runs (c == .open) x.openRun x.openOff
  let s1 := s.setSn k { x with supRun := a, supOff := b, gndRun := d, gndOff := e, openRun := f, openOff := g }
  let s2 := s1.flagBy (F.SNS_STAT_SHORT_SUP k) k .whlSnsShortSup a b
  let s3 := s2.flagBy (F.SNS_STAT_SHORT_GND k) k .whlSnsShortGnd d e
  s3.flagBy (F.SNS_STAT_OPEN k) k .whlSnsOpen f g

/-- The leading edge in hand forgotten: what its acceptance moved goes back to `old`. -/
def Tracker.unLead (t old : Tracker) : Tracker :=
  { t with seen := old.seen, edge := old.edge, haveEdge := old.haveEdge, havePer := old.havePer, per := old.per
           mark := old.mark, stopBase := old.stopBase, lead := none, leadSt := none, leadCorr := none
           upds := t.upds.filter (fun x => !(x.kind == .tooth && some x.stamp == t.lead)) }

/-- What the step of the leading edge learned is unlearned (R58, R95). -/
def State.unlearnLead (s : State) (n : Nat) (old : Tracker) : State :=
  match (s.tr n).leadCorr with
  | some (k, was, now) =>
    if s.f (F.LRN_CORR n k) = now then
      (s.setF (F.LRN_CORR n k) was).setTr n { s.tr n with
        learned := if old.learned.contains k then (s.tr n).learned else (s.tr n).learned.filter (fun j => j != k) }
    else s
  | none => s

/-- The step of the leading edge in hand undone (R58): what the tooth input gave goes back to `old`, the law runs on as it
would have, and a state that the edge led to is left again; `ran` is `old` after the ticks since. An index check that the step
made is taken back; what index edges have done since stands. Counters, reports and interrupts made stand (DESIGN CHOICE, log
entry 152). -/
def State.undoLead (s : State) (n : Nat) (old ran : Tracker) : State :=
  let s0 := s.unlearnLead n old
  let t := s0.tr n
  let waits := t.upds.any (fun x => x.kind == .tooth && some x.stamp == t.lead)
  let t1 := t.unLead old
  if waits then s.setTr n t1
  else
    let t2 := { t1 with periods := old.periods, err := old.err, pos := old.pos, rev := old.rev, found := old.found
                        awaitTooth := old.awaitTooth, confirmed := old.confirmed, idxPlaced := old.idxPlaced
                        idxErr := if s.syncSrc n = 1 then old.idxErr + (t.idxErr - t.leadErr) else t.idxErr
                        idxSync := if t.idxSync = t.leadSync then old.idxSync else t.idxSync
                        applied := old.applied, appliedPer := old.appliedPer, cands := old.cands, seekEdges := old.seekEdges
                        bgSeek := old.bgSeek, learn := old.learn, wasFwd := old.wasFwd }
    let t3 := if t.st = .limp then t2 else
      { t2 with lawOn := ran.lawOn, lam := ran.lam, q := ran.q, rem := ran.rem, den := ran.den, acc := ran.acc, h := ran.h
                run := ran.run, gone := ran.gone, elTicks := ran.elTicks, freshLaw := ran.freshLaw, a := ran.a, pred := ran.pred
                dir := ran.dir, turning := ran.turning, halted := ran.halted, hold := ran.hold, catching := ran.catching }
    (s0.setTr n t3).setSt n (match t.leadSt with | some (before, _) => before | none => t.st)

/-- The leading edge taken again as a tooth of the other direction: its update acts at once. -/
def State.retake (s : State) (n : Nat) (stamp : Time) (fwd : Bool) : State :=
  let s1 := s.acceptTooth n stamp fwd
  match (s1.tr n).upds.reverse with
  | x :: xs => if x.kind = .tooth && x.stamp = stamp
      then
        let s2 := (s1.setTr n { s1.tr n with upds := xs.reverse }).applyTooth n { x with due := s.now }
        s2.readCorr n (s2.readEntries n .tooth)
      else s1
  | [] => s1

/-- An index edge that came since the leading edge goes on waiting for the tooth that follows (R74). -/
def State.indexAgain (s : State) (n : Nat) : State :=
  let t := s.tr n
  let s1 := if t.st = .sync && t.awaitTooth then s.trkIdxError n else s
  s1.setTr n { s1.tr n with awaitTooth := true }

/-- The end of a pulse that began at `stamp`, at the filtered time `at_`: its class by its width; a step made in the other
direction, or for no tooth, is undone, unless something else has moved the tracker to another state since (R58). -/
def State.pulseClass (s : State) (n : Nat) (old : Tracker) (stamp at_ : Time) : State :=
  let t := s.tr n
  let w := since at_ stamp
  let rev := decide (125 * s.f (F.WHL_PW_FWD_MAX n) < w)
  let tooth := decide (w ≤ 125 * s.f (F.WHL_PW_REV_MAX n))
  let done := s.setTr n { t with lead := none, leadSt := none }
  if tooth && rev = t.pulseRev then done
  else
    let ran := (List.range (since s.now t.leadAt + 1)).foldl (fun (x : Tracker) _ =>
      if x.lawOn && !x.dir then x.tick (s.rawM n) (s.b (F.WHL_CTL_EARLY n)) else x) old
    let mine := t.upds.any (fun x => x.kind == .tooth && x.stamp == stamp)
      || (match t.leadSt with | some (_, after) => after == t.st | none => false)
    let s1 := if mine then s.undoLead n old ran else done
    let s2 := if !tooth then s1.bump (R.WHL_CNT_NOISE n)
      else
        let s2 := s1.setTr n { s1.tr n with pulseRev := rev }
        if mine then s2.retake n stamp (!rev) else s2
    if mine && t.awaitTooth then s2.indexAgain n else s2

/-- PULSE_TRAILING_EDGE (R58). -/
def State.pulseTrailing (s : State) (n : Nat) (x : Crossing) : State :=
  let src := s.f (F.WHL_IN_TOOTH_SRC n)
  let g := 4 * s.f (F.WHL_FILT_TOOTH_GLITCH n)
  let at_ := s.now - BitVec.ofNat 48 g
  if x.held < g || s.tmode n ≠ 2 || !s.taken src x || s.toothLevel n src (s.sensed src x.rising) then s
  else
    let s1 := s.srcSet src x.rising
    let s1 := s1.setTr n { s1.tr n with lvA := s.sensed src x.rising }
    if s.mode = 3 then s1 else
    let s2 := (s1.setUndo n {}).pairMark src n false at_
    match (s.tr n).lead with
    | none => s2
    | some stamp => s2.pulseClass n (s.undoOf n) stamp at_

/-! ### The meanings -/

def execVrThresholdHalving (k : Fin 32) (s : State) : Host.Outcome State Fault Refusal := .next (s.vrHalve k.val)

end Sys2Proof.Machine
end

