-- ==== Sys2Proof/Machine/TrackerRegs.lean ====
section
/-! DEFINITION. Trackers at a commit (R66, R69, R78, R82, R96), at a beat boundary (R40, Table 3.5), on causes of the
whole device, and what their status registers read. -/

namespace Sys2Proof.Machine

open Sys2Proof

/-- The index entries in use stand in increasing order (R68). -/
def State.idxInOrder (s : State) (n : Nat) : Bool :=
  (List.range (s.idxN n - 1)).all (fun j => decide (s.idxa n j < s.idxa n (j + 1)))

/-- A configuration that a tracker accepts at enable (R82). -/
def State.cfgValid (s : State) (n : Nat) : Bool :=
  let m := s.tmode n
  s.cpc n % s.revs n == 0
    && !(decide (1 < s.revs n) && s.idxMode n == 0)
    && !(s.syncSrc n == 1 && s.idxMode n != 1)
    && !(m == 3 && (s.syncSrc n != 1 || decide (192 ≤ s.f (F.WHL_IN_IDX_SRC n))))
    && !(decide (m < 4) && decide (192 ≤ s.f (F.WHL_IN_TOOTH_SRC n)))
    && !(m == 4 && (s.f (F.WHL_SSI_BITS n) == 0 || decide (24 < s.f (F.WHL_SSI_BITS n)) || decide (48 ≤ s.f (F.WHL_SSI_TROUGH n))))
    && !(m == 5 && (decide (n ≤ s.f (F.WHL_VIRT_SRC n)) || s.f (F.WHL_RATIO_DEN_DEN n) == 0))
    && s.idxInOrder n
    && decide (m < 7)

/-- PATTERN_BAD of R66. -/
def State.patBad (s : State) (n : Nat) : Bool :=
  let ks := List.range (s.toothN n)
  let feats := (ks.filter (fun k => s.feat n k)).length
  ks.any (fun k => s.pitch n k == 0) || decide (s.cpr n < s.psum n) || decide (8 < feats) || (s.syncSrc n == 0 && feats == 0)

/-- Zero the learning table of a tracker but for entries written by the host at the same boundary (R93, R96). -/
def State.clearLearn (s : State) (n : Nat) (kept : List Nat) : State :=
  let stays := fun (a : Nat) => !(decide (R.LRN n 0 ≤ a) && decide (a < R.LRN (n + 1) 0)) || kept.contains a
  let s1 := { s with regs := s.regs.filter (fun e => stays e.1), badWords := s.badWords.filter stays }
  s1.setTr n { s1.tr n with learned := [] }

/-- The learning table at a commit: the clear first, then the host's writes `ks` (R93, R96). The angles stand modulo the new C
(R83). -/
def State.learnCommit (s : State) (n : Nat) (clear : Bool) (lrn : List Nat) : State :=
  let ks := lrn.map (fun a => (a - R.LRN n 0) / 4)
  let m := s.rawM n
  let s1 := (if clear then s.clearLearn n lrn else s).setB (F.WHL_LEARN_CLEAR n) false
  let t := s1.tr n
  s1.setTr n { t with
    a := t.a % m, pred := t.pred % m, aLast := t.aLast % m, learned := ks.foldl (fun l k => addItem k l) t.learned
    patternBad := s.patBad n, kept := if clear then List.range 1024 else ks, keptAt := s.now }

/-- A tracker is enabled at a commit, if its configuration is valid (R82). -/
def State.trkEnable (s : State) (n : Nat) : State :=
  if s.cfgValid n then (s.setTr n { s.tr n with pulseRev := false }).restartTrk n
  else (s.setB (F.WHL_STAT_CFG_ERR n) true).log .whlCfgBad n 0

/-- EN and RESYNC at a commit, and a bad pattern (R66, R78, R82); `enOld` is EN before it. -/
def State.enCommit (s : State) (n : Nat) (enOld : Bool) : State :=
  let en := s.b (F.WHL_CTL_EN n)
  let resync := s.b (F.WHL_CTL_RESYNC n)
  let s1 := s.setB (F.WHL_CTL_RESYNC n) false
  let st := (s1.tr n).st
  if st = .off then (if en && !enOld then s1.trkEnable n else s1)
  else if !en then s1.setSt n .off
  else if resync then s1.restartTrk n
  else if decide (s1.tmode n < 5) && (st = .gapSeek || st = .sync || st = .stopped || st = .lost) && (s1.tr n).patternBad then
    (s1.log .whlPatternBad n 0).restartTrk n
  else s1

/-- A pattern changed at a commit: `st` is the state before it (R69). -/
def State.patCommit (s : State) (n : Nat) (st : TState) : State :=
  let t := s.tr n
  if t.st = .sync && st = .sync then
    let t1 := { t.idxRestart with cands := [], found := false, seekEdges := 0, idxPlaced := false, awaitTooth := false }
    ((s.setTr n t1).log .whlPatternChanged n 0).setSt n .gapSeek
  else if t.st = .limp then s.setTr n t.bgRestart
  else s

/-- The index entries changed at a commit: `st` is the state before the pattern's change (R69). -/
def State.idxCommit (s : State) (n : Nat) (st : TState) : State :=
  if st = .sync then s.setTr n { s.tr n with idxSync := false }
  else if (s.tr n).st = .limp then s.loseLimp n
  else s

/-- The effects of a commit on tracker n: `old` is the state before the commit, `items` the items that committed. A virtual
tracker has no pattern and no index (R61). -/
def State.trkCommit (s old : State) (items : List Nat) (n : Nat) : State :=
  let changed := fun a => items.contains a && old.rd a != s.rd a
  let pats := (items.filter (fun a => decide (R.PAT n 0 ≤ a) && decide (a < R.PAT n (s.toothN n)))).filter changed
  let pitchChanged := pats.any (fun a => getBits (old.rd a) 0 12 != getBits (s.rd a) 0 12)
  let idxChanged := changed (R.WHL_IDX_WIN n) || (List.range (s.idxN n)).any (fun j => changed (R.WHL_IDXA n j) || changed (R.WHL_IDXW n j))
  let lrn := items.filter (fun a => decide (R.LRN n 0 ≤ a) && decide (a < R.LRN (n + 1) 0))
  let real := decide (s.tmode n < 5)
  let s1 := s.learnCommit n (s.b (F.WHL_LEARN_CLEAR n) || pitchChanged) lrn
  let s2 := s1.enCommit n (old.b (F.WHL_CTL_EN n))
  let s3 := if pats.isEmpty || !real then s2 else s2.patCommit n (s1.tr n).st
  if idxChanged && real then s3.idxCommit n (s2.tr n).st else s3

/-- The pairs at a commit: an INVERT that changes turns the levels that the trackers have of the pair (Table 3.12). -/
def State.snsCommits (s old : State) : State :=
  overList (List.range 32) (fun s k => if old.b (F.SNS_CFG_INVERT k) = s.b (F.SNS_CFG_INVERT k) then s else s.turnLevels k) s

/-- All pairs and trackers at a commit. -/
def State.trkCommits (s old : State) (items : List Nat) : State :=
  overList (List.range 16) (fun s n => s.trkCommit old items n) (s.snsCommits old)

/-- The trackers that stand in LOST. -/
def State.lostTrks (s : State) : List Nat := (List.range 16).filter (fun n => (s.tr n).st == .lost)

/-- A tracker that was LOST before the commit, at a beat boundary: it returns to ACQUIRE with AUTO_RESYNC (Table 3.5). -/
def State.trkBoundary (s : State) (n : Nat) : State :=
  if (s.tr n).st = .lost && s.b (F.WHL_CTL_AUTO_RESYNC n) && s.tmode n ≠ 5 then s.restartTrk n else s

/-- The sense snapshot of R40. -/
def State.snapAll (s : State) : State :=
  overList (List.range 16) (fun s n =>
    let t := s.tr n
    { s with snap := Sparse.set (fun _ => {}) s.snap n ⟨t.a, t.q, t.st, t.arm, t.dir, t.halted⟩ }) s

/-- A cause of the whole device puts every tracker that is not OFF into a state (R21: LOST). -/
def State.trkAllLost (s : State) : State :=
  overList (List.range 16) (fun s n => if (s.tr n).st = .off then s else s.setSt n .lost) s

/-- Every tracker that is not OFF goes to ACQUIRE (R382). -/
def State.trkAllAcquire (s : State) : State :=
  overList (List.range 16) (fun s n => if (s.tr n).st = .off then s else s.restartTrk n) s

/-! ### Status registers (Table 3.11) -/

/-- A word from fields (value, lowest bit). -/
def packed (l : List (Nat × Nat)) : Word := BitVec.ofNat 32 (l.foldl (fun w e => w + e.1 <<< e.2) 0)

def State.whlStat (s : State) (n : Nat) : Word :=
  let t := s.tr n
  packed [(t.st.code, 0), (toBit t.idxSync, 3), (toBit t.dir, 4), (toBit (s.toothFault n), 5), (toBit (s.idxFault n), 6),
    (toBit t.patternBad, 7), (s.f (F.WHL_STAT_CFG_ERR n), 8), (toBit t.quadWiring, 9), (t.periods % 4, 10),
    (t.cands.length % 16, 12), (t.err % 16, 16), (toBit t.stopFrom, 20), (toBit (s.unlearned n), 21)]

def State.whlPos (s : State) (n : Nat) : Word :=
  let t := s.tr n
  packed [(t.pos % 1024, 0), (t.rev % 16, 10), (t.idxPos % 16, 14)]

/-- The status registers of tracker n by offset; none where the offset is no computed register. -/
def State.whlView (s : State) (n off : Nat) : Option Word :=
  let t := s.tr n
  match off with
  | 0x80 => some (s.whlStat n)
  | 0x84 => some (s.whlPos n)
  | 0x88 => some (packed [(t.a % 2 ^ 24, 0)])
  | 0x8C => some (packed [(t.a / 2 ^ 24 % 2 ^ 16, 0)])
  | 0x94 => some (packed [(t.a / 65536 % 2 ^ 24, 0)])
  | 0x98 => some (packed [(t.q % 2 ^ 24, 0)])
  | 0x9C => some (packed [(t.edge.toNat % 2 ^ 24, 0)])
  | 0xA0 => some (packed [(t.edge.toNat / 2 ^ 24, 0)])
  | 0xA8 => some (packed [(min t.per 0xFFFFFFFF % 2 ^ 24, 0)])
  | 0xAC => some (packed [(min t.per 0xFFFFFFFF / 2 ^ 24, 0)])
  | 0xB4 => some (packed [(s.psum n % 2 ^ 22, 0)])
  | _ => none

end Sys2Proof.Machine
end

