-- ==== Sys2Proof/Machine/Armer.lean ====
section
/-! DEFINITION. The armer's scan and the comparator slots (R103 to R117), and the pin cells with their delay lines (R114,
R124 to R126). -/

namespace Sys2Proof.Machine

open Sys2Proof

/-! ### The scan (R103, R105 to R107, R120) -/

/-- The owner of a pin cell is the shed (R124). -/
def State.pinOfShed (s : State) (p sh : Nat) : Bool := s.f (F.TIO_CFG_OWNER p) == 1 && s.f (F.TIO_CFG_OWN_IDX p) == sh

/-- The arming points' modulus: below C / REVS with REPEAT, else below C. -/
def State.evSpan (s : State) (e : EvEntry) : Nat := if e.rep then s.cpr e.trk else s.cpc e.trk

/-- The reasons of R103 other than pin ownership. -/
def State.entryBad (s : State) (e : EvEntry) : Bool :=
  !actionDefined e.tgtType e.action || !targetInRange e.tgtType e.target || !paramFits e
    || s.isCheck e.home || (e.oneShot && e.rep) || decide (s.evSpan e ≤ e.start)
    || (e.hasEnd && !e.form && (decide (s.evSpan e ≤ e.endDur) || e.endDur == e.start))
    || (e.hasEnd && e.form && e.endDur == 0)
    || (e.tgtType == 2 && !e.form && e.maxDur == 0)

/-- The pin-ownership reason of R103. -/
def State.pinRefused (s : State) (e : EvEntry) : Bool := e.tgtType == 0 && decide (e.target < 160) && !s.pinOfShed e.target e.home

/-- The window w(n) of R107. -/
def State.window (s : State) (n : Nat) : Nat :=
  let c := s.cpc n
  let w := if s.b (F.EVT_WCFG_AUTO n) then
      max 1 ((s.snapOf n).q * s.P * max 1 (s.f (F.EVT_WCFG_BEATS n)) / 65536)
    else s.f (F.EVT_WIN_WIN n)
  min w (c / 2 - 1)

/-- The arming points of an entry (R102): revolution offset and start. -/
def State.pointsOf (s : State) (e : EvEntry) : List (Nat × Nat) :=
  if e.rep then (List.range (s.revs e.trk)).map (fun r => (r, (e.start + r * s.cpr e.trk) % s.cpc e.trk)) else [(0, e.start)]

/-- Is an arming point due (R106)? A fresh point whose load an overrun discarded stays due from the snapshot of that scan on (R108). -/
def State.duePoint (s : State) (n : Nat) (fresh : Bool) (st : Nat) : Bool :=
  let c := s.cpc n
  let as := (s.snapOf n).a / 65536
  let w := s.window n
  let fn := (as + w) % c
  let fp := (s.te n).fPrev
  let fa := (s.te n).from_.getD as
  if fresh then decide (0 < fwd c fa st) && decide (fwd c fa st ≤ fwd c fa fn)
  else decide (0 < fwd c fp st) && decide (fwd c fp st ≤ fwd c fp fn) && decide (2 * fwd c fp fn < c)

/-- Does the entry have an instance, in a slot or on its way to one (R110)? -/
def State.hasInstance (s : State) (e : Nat) : Bool :=
  s.slots.any (fun x => x.2.st.holds && x.2.entry == e) || s.deferred.any (fun x => x.2.entry == e)

/-- Is the entry's instance active? Points due meanwhile are counted in EVT_OVERLAP (R110); with an instance that waits they are passed over (R105; DEDUCED, log entry 127). -/
def State.hasActive (s : State) (e : Nat) : Bool :=
  s.slots.any (fun x => x.2.st == .active && x.2.entry == e)

/-- Count in a shed's counter; the counters of the check shed run in step with the lead shed's (R122). -/
def State.bumpShed (s : State) (r : Nat → Nat) (sh k : Nat) : State :=
  let s1 := s.bumpBy (r sh) k
  if s.isLead sh then s1.bumpBy (r (sh + 1)) k else s1

/-- Pulse a shed's private source; that of the check shed in step with the lead shed's (R122, R128). -/
def State.pulseShed (s : State) (sh k : Nat) : State :=
  let s1 := s.pulse (priv sh k)
  if s.isLead sh then s1.pulse (priv (sh + 1) k) else s1

/-- A point lost for want of a slot (R109). -/
def State.noSlot (s : State) (sh e : Nat) : State :=
  ((s.bumpShed R.SHD_EVT_NOSLOT sh 1).pulseShed sh 9).logOnce .evtSlotOverflow sh e

/-- The double-bit errors of the active copies that a scan meets, in increasing number: it passes over their entries
(R104). -/
def State.scanBad (s : State) : State :=
  let bad := (s.entries.filter (fun e => e.2.ecc)).map (·.1)
  overList bad (fun s e => (((s.setF F.EVT_ECC_ADDR_ENTRY e).setB F.EVT_ECC_ADDR_VALID true).setB F.EVT_ECC_ADDR_SHADOW false).logOnceFor
    .evtEccDouble e wholeDevice 0) s

/-- The check bits that the armer's scan has met: entries with a single-bit error, corrected and counted, and with a
double-bit error (R104). -/
def State.scanFound (s : State) (found : List (Nat × Bool)) : State :=
  overList found (fun s e => if e.2 then s.setEs e.1 { s.es e.1 with ecc := true } else s.bump R.EVT_ECC_CNT) s

/-- The scan of one enabled entry. -/
def State.scanEntry (s : State) (e : Nat) : State :=
  let ev := s.entry e
  let n := ev.trk
  let x := s.es e
  let c := s.cpc n
  if !(s.snapOf n).arm || (s.te n).waiting || x.ecc then s
  else if s.entryBad ev || s.pinRefused ev then
    let s1 := s.setEs e { x with examined := true, badSeen := true }
    if x.badSeen then s1
    else ((s1.bumpShed R.SHD_EVT_BAD ev.home 1).pulseShed ev.home 10).log
      (if s.entryBad ev then .evtEntryBad else .evtTargetRefused) ev.home e
  else
    let s1 := s.setEs e { x with examined := true, badSeen := false }
    if x.spent then s1
    else
      let as := (s.snapOf n).a / 65536
      let due := (s.pointsOf ev).filter (fun p => s.duePoint n (!x.examined) p.2)
      let t := s.te n
      let rearm := s.f (F.WHL_REARM_ANGLE n)
      let skip := fun (p : Nat × Nat) => ev.reverseEnd && t.skipping && fwd c rearm p.2 ≤ fwd c rearm t.aRev
      let s2 := if (due.filter skip).isEmpty then s1 else s1.bumpShed R.SHD_EVT_SKIP ev.home (due.filter skip).length
      let due := due.filter (fun p => !skip p)
      if s.hasInstance e then
        if due.isEmpty || !s.hasActive e then s2 else s2.bumpShed R.SHD_EVT_OVERLAP ev.home due.length
      else match due with
        | [] => s2
        | p :: ps =>
          let best := ps.foldl (fun b q => if fwd c as q.2 < fwd c as b.2 then q else b) p
          let s3 := { s2 with points := s2.points ++ [(ev.home, ⟨e, best.1, best.2, !x.examined⟩)] }
          if ps.isEmpty then s3 else s3.bumpShed R.SHD_EVT_OVERLAP ev.home ps.length

/-- The enabled entries of the active copy, rising. -/
def State.enabledEntries (s : State) : List Nat :=
  (s.regs.filter (fun e => decide (0x40000 ≤ e.1) && decide (e.1 < 0x60000) && e.1 % 16 == 4 && e.2.getLsbD 31)).map
    (fun e => (e.1 - 0x40000) / 16)

/-- Fronts at the start of a scan: set afresh where due, and the front this scan reaches (R106). -/
def State.scanFront (s : State) (n : Nat) : State :=
  let t := s.te n
  if (s.snapOf n).arm && !t.waiting then
    let as := (s.snapOf n).a / 65536
    s.setTe n { t with afresh := false, fPrev := if t.afresh then as else t.fPrev, fNow := some ((as + s.window n) % s.cpc n) }
  else s.setTe n { t with fNow := none }

/-- The deferral lists at a scan: a point whose start is no longer ahead of the snapshot is dropped (R109). -/
def State.scanDeferred (s : State) : State :=
  let gone := fun (e : Nat × Point) =>
    let n := (s.entry e.2.entry).trk
    !ahead (s.cpc n) ((s.snapOf n).a / 65536) e.2.start
  let lost := s.deferred.filter gone
  overList lost (fun s e => s.noSlot e.1 e.2.entry) { s with deferred := s.deferred.filter (fun e => !gone e) }

/-- ARMER_SCAN: the scan of all entries in increasing number, in the compute phase (R105): the fronts move at every scan, and
loads are staged in RUN and LIMP with ARM_EN set. A scan that stages nothing checks no entry either (DESIGN CHOICE, log
entry 156). -/
def State.scanAll (s : State) : State :=
  let s1 := overList (List.range 16) State.scanFront { s.scanBad with points := [] }
  let s2 := s1.scanDeferred
  let arms := s.running && s.b F.EVT_ARM_CFG_ARM_EN && !s.b F.PWR_STAT_RAMP
  let s3 := overList (if arms then s2.enabledEntries else []) State.scanEntry s2
  (s3.setF F.EVT_ARM_STAGED_COUNT s3.points.length).setF F.EVT_ARM_STAT_SCAN_TICKS (min 1100 (s.tb.phase - 200))

/-! ### Commits of entries (R110) -/

/-- What a commit of a write to entry `e` does to its marks and its instance. -/
def State.entryCommit (s : State) (e : Nat) : State :=
  let s1 := { s.setEs e {} with points := s.points.filter (fun p => p.2.entry != e), deferred := s.deferred.filter (fun p => p.2.entry != e) }
  let mine := (s1.slots.filter (fun x => x.2.st.holds && x.2.entry == e)).map (fun x => (x.1 / 64, x.1 % 64))
  overSlots mine (fun s sh sl =>
    if (s.sl (slotKey sh sl)).st = .armed then s.unload sh sl
    else if !(s.entry e).en then s.forceEnd sh sl else s) s1

/-! ### Crossing and placement (R111, R115) -/

/-- The moment of a crossing of `s` between PRED p0 and p1 in the present tick, `fineAdd` fine steps later (R111). -/
def State.crossTotal (st : State) (m p0 p1 s fineAdd : Nat) : Fine :=
  let v := fwd m p0 p1
  let r := fwd m s p1
  let back := min ((64 * r + v) / (2 * v)) 32
  fineOf (st.now + 24) 0 - BitVec.ofNat 53 back + BitVec.ofNat 53 fineAdd

/-- Is an angle crossed between PRED p0 and p1 (R111)? -/
def crossed (m p0 p1 s : Nat) : Bool :=
  decide (0 < fwd m p0 s) && decide (fwd m p0 s ≤ fwd m p0 p1) && decide (2 * fwd m p0 p1 < m)

/-- One slot in one tick of its tracker's ARM. -/
def State.compareSlot (s : State) (sh slot : Nat) : State :=
  let k := slotKey sh slot
  let x := s.sl k
  let n := x.ev.trk
  let t := s.tr n
  if !t.arm then s
  else
    let m := s.rawM n
    let back := (s.te n).restart
    let p0 := if back then (s.te n).predStop else t.pred0
    let p1 := t.pred
    let late := t.jumped || back
    let start := x.start * 65536
    let s1 := if x.st = .armed && crossed m p0 p1 start then
        (if late then s.lateStart sh slot else s.placeStart sh slot (s.crossTotal m p0 p1 start x.ev.fine) false)
      else s
    let y := s1.sl k
    let e := y.endAng * 65536
    if y.st = .active && y.ev.hasEnd && !y.ev.form && crossed m p0 p1 e
        && (x.st = .active || fwd m start e ≤ fwd m start p1) then
      (if late then s1.placeEnd sh slot (s1.lateTotal y.ev.fine) true
       else s1.placeEnd sh slot (s1.crossTotal m p0 p1 e y.ev.fine) false)
    else s1

/-- The slots that hold an instance, rising. -/
def State.heldSlots (s : State) : List (Nat × Nat) :=
  (s.slots.filter (fun e => e.2.st.holds)).map (fun e => (e.1 / 64, e.1 % 64))

/-- A slot whose end action reaches its target in the present tick is released (R112). -/
def State.endSlot (s : State) (sh slot : Nat) : State :=
  let x := s.sl (slotKey sh slot)
  match x.endAt with
  | some t => if x.st = .active && s.reached (tickOf t) then s.unload sh slot else s
  | none => s

/-- All slots in one tick: ends that act, then the tests of R111; the first tick of ARM after a return from STOPPED is
then over. -/
def State.compareAll (s : State) : State :=
  let s0 := overSlots s.heldSlots State.endSlot s
  let s1 := overSlots s0.heldSlots State.compareSlot s0
  overList (List.range 16) (fun s n => if (s.tr n).arm && (s.te n).restart then s.setTe n { s.te n with restart := false } else s) s1

/-- Ticks from a moment's tick until now, negative before it. -/
def State.ticksSince (s : State) (x : Fine) : Int := (s.now - tickOf x).toInt

/-- DURATION_END (R100, R112): the duration has elapsed but for the 24 ticks of the output path. -/
def State.durEnd (s : State) (sh slot : Nat) : State :=
  let x := s.sl (slotKey sh slot)
  if x.st = .active && x.ev.hasEnd && x.ev.form && (x.ev.duration : Int) ≤ s.ticksSince x.startAt + 24 then
    s.placeEnd sh slot (x.startAt + BitVec.ofNat 53 (32 * x.ev.duration)) false
  else s

/-- CAP_END (R100). -/
def State.capEndAt (s : State) (sh slot : Nat) : State :=
  let x := s.sl (slotKey sh slot)
  if x.st = .active && x.ev.hasEnd && !x.ev.form && x.ev.maxDur ≠ 0 && (x.ev.cap : Int) ≤ s.ticksSince x.startAt + 24 then
    s.placeEnd sh slot (x.startAt + BitVec.ofNat 53 (32 * x.ev.cap)) false
  else s

/-- TRACKER_STALL (R117): HALTED has held for TIME × 256 ticks. -/
def State.stallRow (s : State) (n : Nat) : State :=
  let tm := s.f (F.EVT_STALL_TIME n)
  let e := s.te n
  if tm ≠ 0 && 256 * tm ≤ e.haltTicks && !e.stalled then s.evStall n else s

/-! ### Pin cells (R114, R124) -/

/-- The level that a pin action asks for, given the level before (Table 5.2). -/
def askedLevel (action : Nat) (isEnd before : Bool) : Bool :=
  match action with
  | 0 => !isEnd
  | 1 => isEnd
  | 2 => true
  | 3 => false
  | _ => !before

/-- A collision or spacing delay counted at a pin (R114). -/
def State.pinColl (s : State) (p : Nat) : State :=
  ((s.bump (R.TIO_COLL p)).pulse (priv (p / 10) 10)).logOnceFor .evtPinCollision p p 0

/-- The owner has acted: the cell keeps the level it drives from here on (R124). -/
def State.pinHold (s : State) (p : Nat) : State :=
  let x := s.pin p
  if p < 160 && x.static then s.setPin p { x with static := false, level := s.b (F.TIO_CFG_STATIC_LVL p), edges := [] } else s

/-- An edge to `new` at `at_`, spaced 80 fine steps from the one before (R114). -/
def State.pinEdge (s : State) (p : Nat) (at_ : Fine) (new : Bool) : State :=
  let s0 := s.pinHold p
  let x := s0.pin p
  let last := (x.edges.head?.map (·.1)).getD (at_ - 80)
  let close := decide ((at_ - last).toNat < 80) || decide (2 ^ 52 ≤ (at_ - last).toNat)
  let apart := last + 80
  let when_ := if close then (if s.coarse p then ((apart + 31) >>> 5) <<< 5 else apart) else at_
  let line := if x.line then x.b else x.a
  let s1 := s0.setPin p { x with edges := (when_, new) :: x.edges, tap := tapOf (when_.toNat % 32) line.taps }
  if close then s1.pinColl p else s1

/-- Edges that landed at least 4 ticks ago no longer bear on the next. -/
def Pin.settled (x : Pin) (now : Time) : Pin :=
  let old := x.edges.filter (fun e => decide (4 ≤ (now - tickOf e.1).toInt))
  { x with level := match old with | e :: _ => e.2 | [] => x.level
           edges := x.edges.filter (fun e => !decide (4 ≤ (now - tickOf e.1).toInt))
           actTick := if x.actTick.any (fun t => decide (4 ≤ (now - t).toInt)) then none else x.actTick }

/-- Every cell, once per beat. -/
def State.pinsSettle (s : State) : State :=
  overList (s.pins.map (·.1)) (fun s p => s.setPin p ((s.pin p).settled s.now)) s

/-- A slot's action at a pin (R114): of two in one tick the lower slot wins, judged against the level before the tick. -/
def State.pinAct (s : State) (a : Act) : State :=
  let p := a.ev.target
  let x := s.pin p
  if !s.pinFree p || !s.pinOfShed p a.sh then s
  else
    let at_ := s.atCell p a.at_
    let tick := tickOf at_
    let before := s.levelAt p (fineOf tick 0 - 1)
    let want := askedLevel a.ev.action a.isEnd before
    let rival := s.placed.find? (fun b => b.ev.tgtType == 0 && b.ev.target == p && b.sh == a.sh && decide (b.slot < a.slot)
      && tickOf (s.atCell p b.at_) == tick)
    if x.actTick = some tick then
      if want ≠ x.actWant then s.pinColl p else s
    else match rival with
      | some b => if askedLevel b.ev.action b.isEnd before ≠ want then s.pinColl p else s
      | none =>
        let s1 := s.setPin p { x with actTick := some tick, actWant := want }
        if want = s.levelAt p at_ then s1.pinHold p else s1.pinEdge p at_ want

/-- A pin hands over or is released: it drives STATIC_LVL until its owner's next action (R124, R26). -/
def State.pinStatic (s : State) (p : Nat) : State := s.setPin p { s.pin p with static := true, edges := [], actTick := none }

/-- A pin is forced to its safe level by a mismatch (R26, R145). -/
def State.pinForce (s : State) (p sh slot : Nat) : State :=
  s.setPin p { s.pin p with forcedBy := (sh, slot) :: (s.pin p).forcedBy.filter (fun k => k != (sh, slot)) }

/-- The mismatches that `gone` names are over; a pin that no other one holds is released (R26, R145). -/
def State.pinUnforce (s : State) (gone : Nat × Nat → Bool) : State :=
  overList ((s.pins.filter (fun e => e.2.forcedBy.any gone)).map (·.1)) (fun s p =>
    let l := (s.pin p).forcedBy.filter (fun k => !gone k)
    let s1 := s.setPin p { s.pin p with forcedBy := l }
    if l.isEmpty then s1.pinStatic p else s1) s

/-- The pins that a slot's mismatch forced are released (R26). -/
def State.pinRelease (s : State) (sh slot : Nat) : State := s.pinUnforce (fun k => k == (sh, slot))

/-- The commit of a pin cell's configuration (R124): a new owner starts from STATIC_LVL, and the old owner's actions that
have not reached the ball are discarded. -/
def State.pinCommit (s old : State) (p : Nat) : State :=
  let w := fun (x : State) => getBits (x.rd (R.TIO_CFG p)) 0 11
  if w old = w s then s
  else ({ s with placed := s.placed.filter (fun a => !(a.ev.tgtType == 0 && a.ev.target == p)), flight := s.flight.filter (fun e => e.pin != p) }).pinStatic p

/-- Every pin to its safe state, or out of it to STATIC_LVL. -/
def State.pinsSafe (s : State) (safe : Bool) : State :=
  overList (List.range 160) (fun s p =>
    if safe then s.setPin p { s.pin p with safe := true } else (s.setPin p { s.pin p with safe := false }).pinStatic p) s

/-! ### Delay lines (R125, R126) -/

/-- DLL_MEASUREMENT_DONE: the idle line of a cell has counted `taps` taps per tick. -/
def State.dllDone (s : State) (c taps : Nat) : State :=
  let x := s.pin c
  if x.measured || s.mode ≤ 1 then s
  else
    let good := 33 ≤ taps && taps ≤ 63
    let l : Line := { taps := taps, ok := good, failed := !good }
    let was := (if x.line then x.a else x.b).failed
    let y := { x with a := if x.line then l else x.a, b := if x.line then x.b else l, measured := true, count := min 2 (x.count + 1) }
    let s1 := s.setPin c { y with calA := x.calA || x.line, calB := x.calB || !x.line }
    if !good && !was then
      let s2 := if c < 160 then s1.pulse (priv (c / 10) 10) else s1
      s2.log .evtDllCalFail c 0
    else s1

/-- DLL_LINE_SWAP: the lines swap in a tick that places no edge and whose previous tick placed none. -/
def State.dllSwap (s : State) (c : Nat) : State :=
  let x := s.pin c
  let idle := if x.line then x.a else x.b
  let quiet := x.edges.all (fun e => tickOf e.1 != s.now && tickOf e.1 != s.now - 1)
  let mine := fun (a : Act) => if c < 160 then a.ev.tgtType == 0 && a.ev.target == c else a.ev.tgtType == 2 && a.ev.target == c - 160
  let none_ := s.placed.all (fun a => !(mine a && tickOf a.at_ == s.now)) && s.flight.all (fun e => !(e.pin == c && tickOf e.at_ == s.now))
  if x.measured && idle.ok && quiet && none_ && s.passed x.swapAt 8192 then
    s.setPin c { x with line := !x.line, swapAt := s.now, measured := false }
  else s

/-- EVT_TWIN_INJECT_WRITE (R123): discarded while the pair is not in twin mode. -/
def State.injectWrite (s : State) (v : Word) : State :=
  let pair := getBits v 6 3
  if (s.f F.SYS_TWIN_PAIR_ACT).testBit pair then
    let s1 := (s.setF F.EVT_TWIN_INJECT_SLOT (getBits v 0 6)).setF F.EVT_TWIN_INJECT_PAIR pair
    if v.getLsbD 9 then s1.setB F.EVT_TWIN_INJECT_GO true else s1
  else s

/-! ### Status registers (Table 5.8) -/

def State.slotStat (s : State) (sh slot : Nat) : Word :=
  let x := s.sl (slotKey sh slot)
  packed [(x.entry, 0), (x.st.code, 13), (toBit x.late, 15), (x.rev, 16), (toBit x.forced, 20)]

def State.tioStat (s : State) (p : Nat) : Word :=
  let x := s.pin p
  packed [(toBit ((s.drives p).getD false), 0), (toBit x.line, 1), (toBit x.a.ok, 2), (toBit x.b.ok, 3), (toBit x.forced, 4), (toBit (s.coarse p), 5)]

def State.evtFree (s : State) (sh : Nat) : Word :=
  let home := if s.isCheck sh then sh - 1 else sh
  packed [(64 - (s.slots.filter (fun e => e.1 / 64 == sh && e.2.st != .free)).length, 0), ((s.deferred.filter (fun e => e.1 == home)).length, 7)]

/-- The computed registers of the event page of shed `n` (Table 5.7). -/
def State.evtView (s : State) (n off : Nat) : Option Word :=
  if 0x1000 ≤ off && off < 0x1400 then
    let k := (off - 0x1000) / 16
    let fire := (s.sl (slotKey n k)).fire.toNat
    match off % 16 with
    | 0 => some (s.slotStat n k)
    | 4 => some (packed [(fire % 2 ^ 24, 0)])
    | 8 => some (packed [(fire / 2 ^ 24, 0)])
    | _ => none
  else if 0x1400 ≤ off && off < 0x1540 then
    let p := 10 * n + (off - 0x1400) / 32
    match off % 32 with
    | 4 => some (s.tioStat p)
    | 0xC => some (packed [((s.pin p).a.taps % 64, 0), ((s.pin p).b.taps % 64, 6)])
    | _ => none
  else if off = 0x1600 then some (s.evtFree n)
  else none

/-! ### The meanings -/

def execArmerScan (found : List (Fin 8192 × Bool)) (s : State) : Host.Outcome State Fault Refusal :=
  .next (if s.tb.started && !s.tb.prepared && (s.part 16).busy
    then ((s.scanFound (found.map (fun e => (e.1.val, e.2)))).scanAll).partDone 16 else s)
def execTrackerStall (n : Fin 16) (s : State) : Host.Outcome State Fault Refusal := .next (s.stallRow n.val)
def execDurationEnd (sh : Fin 16) (slot : Fin 64) (s : State) : Host.Outcome State Fault Refusal := .next (s.durEnd sh.val slot.val)
def execCapEnd (sh : Fin 16) (slot : Fin 64) (s : State) : Host.Outcome State Fault Refusal := .next (s.capEndAt sh.val slot.val)
def execEvtTwinInjectWrite (r : Requester) (v : Word) (s : State) : Host.Outcome State Fault Refusal :=
  .next (s.writeBy (wordTo r R.EVT_TWIN_INJECT v) (fun s => s.injectWrite v))
def execDllMeasurementDone (cell : Fin 192) (taps : BitVec 7) (s : State) : Host.Outcome State Fault Refusal :=
  .next (s.dllDone cell.val taps.toNat)
def execDllLineSwap (cell : Fin 192) (s : State) : Host.Outcome State Fault Refusal := .next (s.dllSwap cell.val)

end Sys2Proof.Machine
end

