-- ==== Sys2Proof/Machine/Ed25519.lean ====
section
/-! DEFINITION. Pure Ed25519 verification, which R177 takes from RFC 8032, with its hash SHA-512 (FIPS 180-4). Both are taken
from outside the spec, which names RFC 8032 alone (PRESUMED, log entry 143). -/

namespace Sys2Proof.Machine

/-! ### SHA-512 -/

abbrev W64 := BitVec 64

/-- The largest `r` of `n` bits more than `r0` with r^k at most `v`. -/
def rootFloor (k v : Nat) : Nat → Nat → Nat
  | 0, r => r
  | n + 1, r => rootFloor k v n (if (r + 2 ^ n) ^ k ≤ v then r + 2 ^ n else r)

def isPrime (n : Nat) : Bool := decide (2 ≤ n) && ((List.range n).all (fun d => d < 2 || n % d != 0))

/-- The first 80 primes. -/
def shaPrimes : List Nat := (List.range 410).filter isPrime

/-- The first 64 fraction bits of the k-th root of a prime. -/
def rootBits (k p : Nat) : W64 := BitVec.ofNat 64 (rootFloor k (p * 2 ^ (64 * k)) 69 0)

/-- The round constants, from cube roots, and the first hash value, from square roots. -/
def shaK : List W64 := shaPrimes.map (rootBits 3)
def shaH0 : List W64 := (shaPrimes.take 8).map (rootBits 2)

def rotr (x : W64) (n : Nat) : W64 := (x >>> n) ||| (x <<< (64 - n))

/-- One further word of the message schedule, whose words stand newest first. -/
def shaNext (l : List W64) : List W64 :=
  let a := l.getD 1 0
  let b := l.getD 14 0
  ((rotr a 19 ^^^ rotr a 61 ^^^ (a >>> 6)) + l.getD 6 0 + (rotr b 1 ^^^ rotr b 8 ^^^ (b >>> 7)) + l.getD 15 0) :: l

def shaSchedule : Nat → List W64 → List W64
  | 0, l => l
  | n + 1, l => shaSchedule n (shaNext l)

/-- One round, with the round constant and the word of the schedule. -/
def shaRound (v : List W64) (kw : W64 × W64) : List W64 :=
  let x := fun i => v.getD i 0
  let e := x 4
  let a := x 0
  let t1 := x 7 + (rotr e 14 ^^^ rotr e 18 ^^^ rotr e 41) + ((e &&& x 5) ^^^ (~~~ e &&& x 6)) + kw.1 + kw.2
  let t2 := (rotr a 28 ^^^ rotr a 34 ^^^ rotr a 39) + ((a &&& x 1) ^^^ (a &&& x 2) ^^^ (x 1 &&& x 2))
  [t1 + t2, a, x 1, x 2, x 3 + t1, e, x 5, x 6]

/-- The number that bytes spell, the highest first. -/
def ofBytesBig (l : List Nat) : Nat := l.foldl (fun n b => 256 * n + b % 256) 0

/-- The hash over one block of 128 bytes. -/
def shaBlock (ks h : List W64) (b : List Nat) : List W64 :=
  let w := (List.range 16).map (fun i => BitVec.ofNat 64 (ofBytesBig ((b.drop (8 * i)).take 8)))
  let out := (ks.zip (shaSchedule 64 w.reverse).reverse).foldl shaRound h
  (h.zip out).map (fun e => e.1 + e.2)

/-- `n` blocks of a padded message. -/
def shaBlocks (ks : List W64) : Nat → List W64 → List Nat → List W64
  | 0, h, _ => h
  | n + 1, h, m => shaBlocks ks n (shaBlock ks h (m.take 128)) (m.drop 128)

/-- SHA-512 of a message, its 64 bytes in order. -/
def sha512 (m : List Nat) : List Nat :=
  let pad := (239 - m.length % 128) % 128
  let full := m ++ [128] ++ List.replicate pad 0 ++ (bytesOf 16 (8 * m.length)).reverse
  (shaBlocks shaK (full.length / 128) shaH0 full).flatMap (fun x => (bytesOf 8 x.toNat).reverse)

/-! ### The curve -/

/-- The field's prime and the order of the base point. -/
def edP : Nat := 2 ^ 255 - 19
def edL : Nat := 2 ^ 252 + 27742317777372353535851937790883648493

/-- b^e modulo the prime, over the low `n` bits of e. -/
def edPow (b e : Nat) : Nat → Nat → Nat
  | 0, r => r
  | n + 1, r => edPow b e n (let q := r * r % edP; if e.testBit n then q * b % edP else q)

def edExp (b e : Nat) : Nat := edPow (b % edP) e 255 1
def edNeg (x : Nat) : Nat := (edP - x % edP) % edP

/-- The curve's constant d = -121665/121666. -/
def edD : Nat := edNeg 121665 * edExp 121666 (edP - 2) % edP

/-- A point in extended coordinates X, Y, Z, T. -/
abbrev EdPoint := Nat × Nat × Nat × Nat

def edZero : EdPoint := (0, 1, 1, 0)

def edAdd (d2 : Nat) (p q : EdPoint) : EdPoint :=
  let (x1, y1, z1, t1) := p
  let (x2, y2, z2, t2) := q
  let a := (y1 + edP - x1) * (y2 + edP - x2) % edP
  let b := (y1 + x1) * (y2 + x2) % edP
  let c := t1 * t2 % edP * d2 % edP
  let d := 2 * z1 * z2 % edP
  let e := b + edP - a
  let f := d + edP - c
  let g := d + c
  let h := b + a
  (e * f % edP, g * h % edP, f * g % edP, e * h % edP)

/-- A point times the low `n` bits of k, added to what stands for the bits above. -/
def edMul (d2 k : Nat) (p : EdPoint) : Nat → EdPoint → EdPoint
  | 0, q => q
  | n + 1, q => edMul d2 k p n (let r := edAdd d2 q q; if k.testBit n then edAdd d2 r p else r)

def edSame (p q : EdPoint) : Bool :=
  p.1 * q.2.2.1 % edP == q.1 * p.2.2.1 % edP && p.2.1 * q.2.2.1 % edP == q.2.1 * p.2.2.1 % edP

/-- The x of a point from its y and the low bit of x. -/
def edX (d y sign : Nat) : Option Nat :=
  let u := (y * y + edP - 1) % edP
  let v := (d * y % edP * y + 1) % edP
  let v3 := v * v % edP * v % edP
  let x0 := u * v3 % edP * edExp (u * v3 % edP * v3 % edP * v % edP) ((edP - 5) / 8) % edP
  let w := v * x0 % edP * x0 % edP
  let x := if w = u then some x0 else if w = edNeg u then some (x0 * edExp 2 ((edP - 1) / 4) % edP) else none
  x.bind (fun x => if x = 0 && sign = 1 then none else some (if x % 2 = sign then x else edNeg x))

/-- A point from its 32 bytes. -/
def edDecode (d : Nat) (b : List Nat) : Option EdPoint :=
  let n := ofBytes b
  let y := n % 2 ^ 255
  if b.length ≠ 32 || edP ≤ y then none else (edX d y (n / 2 ^ 255 % 2)).map (fun x => (x, y, 1, x * y % edP))

/-- Does a signature of 64 bytes over a message hold under a public key of 32 bytes (RFC 8032, 5.1.7)? -/
def ed25519 (key msg sig : List Nat) : Bool :=
  let d := edD
  let d2 := 2 * d % edP
  let sN := ofBytes (sig.drop 32)
  match edDecode d key, edDecode d (sig.take 32), edX d (4 * edExp 5 (edP - 2) % edP) 0 with
  | some a, some r, some bx =>
    let y := 4 * edExp 5 (edP - 2) % edP
    let b : EdPoint := (bx, y, 1, bx * y % edP)
    let k := ofBytes (sha512 (sig.take 32 ++ key ++ msg)) % edL
    let mul8 := fun p => edMul d2 8 p 4 edZero
    sig.length == 64 && decide (sN < edL) &&
      edSame (mul8 (edMul d2 sN b 253 edZero)) (edAdd d2 (mul8 r) (mul8 (edMul d2 k a 253 edZero)))
  | _, _, _ => false

end Sys2Proof.Machine
end

