-- ==== Sys2Proof/Machine/Rebase.lean ====
section
/-! DEFINITION. The one load of the time base (R50, R261): the moments that the blocks remember move with it, so that every
time that runs goes on with what is left of it. Registers that show a moment keep what they show. -/

namespace Sys2Proof.Machine

open Sys2Proof

/-- A moment in fine steps, `d` ticks later. -/
def Fine.moved (d : Time) (x : Fine) : Fine := x + BitVec.ofNat 53 (32 * d.toNat)

def EdgeUpd.moved (d : Time) (x : EdgeUpd) : EdgeUpd := { x with due := x.due + d, stamp := x.stamp + d }

def Tracker.moved (d : Time) (x : Tracker) : Tracker :=
  { x with
    applied := x.applied + d, stopBase := x.stopBase + d, edge := x.edge + d, idxEdge := x.idxEdge + d
    idxChk := x.idxChk.map (fun c => { c with stamp := c.stamp + d })
    upds := x.upds.map (EdgeUpd.moved d)
    learn := x.learn.map (fun e => (e.1, e.2.1, e.2.2 + d))
    keptAt := x.keptAt + d, idxLast := x.idxLast + d, leadAt := x.leadAt + d, lead := x.lead.map (· + d) }

def Slot.moved (d : Time) (x : Slot) : Slot :=
  { x with startAt := Fine.moved d x.startAt, endAt := x.endAt.map (Fine.moved d) }

def Pin.moved (d : Time) (x : Pin) : Pin :=
  { x with edges := x.edges.map (fun e => (Fine.moved d e.1, e.2)), actTick := x.actTick.map (· + d), swapAt := x.swapAt + d }

def Stall.moved (d : Time) (x : Stall) : Stall :=
  { x with ref := x.ref + d, past := x.past.map (fun e => (e.1 + d, e.2)), setAt := x.setAt + d }

def Eng.moved (d : Time) (x : Eng) : Eng :=
  { x with ready := x.ready + d, out := x.out.map (fun e => (e.1 + d, e.2)), irq := x.irq.map (fun e => (e.1, e.2 + d))
           parkAt := x.parkAt + d }

def Part.moved (d : Time) (x : Part) : Part :=
  { x with opened := x.opened + d, queued := x.queued.map (fun e => (e.1 + d, e.2)) }

def Irq.moved (d : Time) (x : Irq) : Irq := { x with line := x.line.map (· + d), undel := x.undel.map (· + d), wasSense := x.wasSense.map (fun e => (e.1, e.2 + d)) }

def Valve.moved (d : Time) (x : Valve) : Valve :=
  { x with
    ts := x.ts + d, tb := x.tb + d, td := x.td + d, tOn := x.tOn + d, durEnd := x.durEnd.map (· + d), evAt := x.evAt.map (· + d)
    dose := x.dose.map (Fine.moved d), wait := x.wait.map (fun w => { w with start := w.start + d, since := w.since + d })
    onSince := x.onSince.map (· + d), idleSince := x.idleSince.map (· + d), flyback := x.flyback.map (· + d) }

def Bank.moved (d : Time) (x : Bank) : Bank :=
  { x with dead := x.dead.map (· + d), quiet := x.quiet.map (· + d), lastTest := x.lastTest.map (· + d), test := x.test.map (· + d) }

def Power.moved (d : Time) (x : Power) : Power :=
  { x with onAt := x.onAt + d, offAt := x.offAt + d, stepAt := x.stepAt + d, clearAt := x.clearAt + d, jobAt := x.jobAt + d
           askedAt := x.askedAt.map (fun e => (e.1, e.2 + d)), polled := x.polled.map (fun e => (e.1, e.2 + d)) }

def Port.moved (d : Time) (x : Port) : Port :=
  { x with dq := x.dq.map (fun e => (e.1, e.2.1 + BitVec.ofNat 52 (16 * d.toNat), e.2.2)) }

def Mbx.moved (d : Time) (x : Mbx) : Mbx :=
  { x with svc := x.svc.map (fun v => { v with since := v.since + d }), waitSince := x.waitSince.map (· + d) }

def DmaRead.moved (d : Time) (x : DmaRead) : DmaRead := { x with at_ := x.at_ + d }

def DmaChan.moved (d : Time) (x : DmaChan) : DmaChan :=
  { x with
    jobs := x.jobs.map (fun j => { j with reads := j.reads.map (DmaRead.moved d), waitAt := j.waitAt.map (· + d) })
    fetchAt := x.fetchAt.map (· + d), recAt := x.recAt.map (· + d), lost := x.lost.map (· + d) }

/-- A push or pull of this cycle stays one of this cycle. -/
def Trough.moved (old new : Nat) (x : Trough) : Trough :=
  let go := fun (y : Option (Nat × Nat)) => y.bind (fun e => if e.1 = old then some (new, e.2) else none)
  { x with pushIn := go x.pushIn, pullBy := go x.pullBy, pushBy := go x.pushBy }

/-- The keys listed in a table. -/
def keysOf {α : Type} (l : List (Nat × α)) : List Nat := l.map (·.1)

/-- The trackers and the sensor pairs. -/
def State.moveIn (s : State) (d : Time) : State :=
  let s1 := overList (keysOf s.trk) (fun s n => s.setTr n ((s.tr n).moved d)) s
  let s2 := overList (keysOf s.trkUndo) (fun s n => s.setUndo n ((s.undoOf n).moved d)) s1
  overList (keysOf s.sns) (fun s k => s.setSn k { s.sn k with edge := (s.sn k).edge + d }) s2

/-- The slots, the pins and the stalls. -/
def State.moveOut (s : State) (d : Time) : State :=
  let s1 := overList (keysOf s.slots) (fun s k => s.setSl k ((s.sl k).moved d)) s
  let s2 := overList (List.range 192) (fun s p => s.setPin p ((s.pin p).moved d)) s1
  overList (List.range 384) (fun s k => s.setStl k ((s.stl k).moved d)) s2

/-- The actions and edges on their way. -/
def State.moveActs (s : State) (d : Time) : State :=
  { s with placed := s.placed.map (fun a => { a with at_ := Fine.moved d a.at_ })
           flight := s.flight.map (fun e => { e with at_ := Fine.moved d e.at_ }) }

/-- The engines, the runners, the valves, and what serves the host. -/
def State.moveRest (s : State) (d : Time) : State :=
  let s1 := overList (keysOf s.parts) (fun s n => s.setPart n ((s.part n).moved d)) s
  let s2 := overList (keysOf s.irq) (fun s g => s.setSrc g ((s.src g).moved d)) s1
  let s3 := overList (keysOf s.engs) (fun s n => s.setEng n ((s.eng n).moved d)) s2
  let s4 := overList (keysOf s.rns) (fun s n => s.setRn n { s.rn n with due := (s.rn n).due + d, reqEnd := (s.rn n).reqEnd.map (· + d) }) s3
  let s5 := overList (List.range 32) (fun s n => s.setVlv n ((s.vlv n).moved d)) s4
  let s6 := overList (List.range 8) (fun s b => s.setBk b ((s.bk b).moved d)) s5
  let s7 := overList (keysOf s.ports) (fun s p => s.setPort p ((s.port p).moved d)) s6
  let s8 := overList (keysOf s.mbx) (fun s m => s.setMb m ((s.mb m).moved d)) s7
  let s9 := overList (keysOf s.holds) (fun s k => s.setHold k { s.hold k with since := (s.hold k).since + d }) s8
  let s10 := overList (keysOf s.chans) (fun s c => s.setCh c ((s.ch c).moved d)) s9
  let s11 := overList (keysOf s.trg) (fun x q => x.setTq q ((x.tq q).moved (s.now.toNat / 2) ((s.now + d).toNat / 2))) s10
  { s11 with trgWaits := s11.trgWaits.map (fun w => { w with since := w.since + d })
             bst := { s11.bst with gateAt := s11.bst.gateAt + d, offUntil := s11.bst.offUntil.map (· + d) }
             pwr := s11.pwr.moved d
             logAt := s11.logAt.map (· + d)
             sys := { s11.sys with reboot := s11.sys.reboot.map (fun e => (e.1 + d, e.2)) }
             spi := { s11.spi with due := s11.spi.due + d } }

/-- The time base is loaded with `now` (R50). -/
def State.rebase (s : State) (now : Time) : State :=
  let d := now - s.now
  let s1 := (((s.moveIn d).moveOut d).moveActs d).moveRest d
  { s1 with tb := { s1.tb with now := now, t0 := s1.tb.t0 + d, moved := some (now, d) } }

end Sys2Proof.Machine
end

