-- ==== Sys2Proof/Machine/Stalls.lean ====
section
/-! DEFINITION. Stalls (chapter 6): counting, compare, capture, output, shadows, chains and groups. -/

namespace Sys2Proof.Machine

open Sys2Proof

/-- Stalls count from CONFIG onward, except in IDLE (R146). -/
def State.stallsRun (s : State) : Bool := decide (2 ≤ s.mode) && s.mode != 3

/-- The stall is a check shed's mirror (R145). -/
def State.stlMirror (s : State) (k : Nat) : Bool := s.isCheck (k / 24)

/-- The stalls that a write or an action on stall k reaches: the lead and its mirror (R145). -/
def State.stlBoth (s : State) (k : Nat) : List Nat := if s.isLead (k / 24) then [k, k + 24] else [k]

/-- The gate of CFG.GATE is open (R129): with a tracker as input it always is. -/
def State.gateOpen (s : State) (k : Nat) : Bool :=
  let g := s.f (F.STL_CFG_GATE k)
  let src := s.f (F.STL_IO_IN_SRC k)
  if 192 ≤ src && src < 208 then true
  else if g = 1 then s.srcLevel src else if g = 2 then !s.srcLevel src else true

/-- A step may be taken: RUN set and the gate open. -/
def State.stepping (s : State) (k : Nat) : Bool := s.b (F.STL_CTL_RUN k) && s.gateOpen k

/-- The enabled flags of a shed, one bit per stall (R144). -/
def State.stlPend (s : State) (sh : Nat) : Nat :=
  (List.range 24).foldl (fun w i => let k := 24 * sh + i
    if (s.rd (R.STL_FLAGS k) &&& s.rd (R.STL_IEN k)) ≠ 0 then setBit w i else w) 0

/-- The level lines STALL_ANY and SHD_n_STALL follow PEND (R144). -/
def State.stallLines (s : State) (sh : Nat) : State :=
  let l := decide (s.stlPend sh ≠ 0)
  (s.level (priv sh 15) l).level (64 + sh) l

/-- Set flags of a stall: `bits` in the encoding of FLAGS. -/
def State.stlFlags (s : State) (k bits : Nat) : State :=
  if bits = 0 then s
  else
    let x := s.stl k
    let s1 := s.setStl k { x with setAt := s.now, setBits := if x.setAt = s.now then x.setBits ||| bits else bits }
    (s1.wr (R.STL_FLAGS k) (s.rd (R.STL_FLAGS k) ||| BitVec.ofNat 32 bits)).stallLines (k / 24)

/-- Copy the programmed values into the active copies (R137). -/
def State.stlCopy (s : State) (k : Nat) : State :=
  ((s.wr (R.STL_PERIOD_ACT k) (s.rd (R.STL_PERIOD k))).wr (R.STL_CMP_A_ACT k) (s.rd (R.STL_CMP_A k))).wr (R.STL_CMP_B_ACT k) (s.rd (R.STL_CMP_B k))

/-- The pins that a stall owns (R136). -/
def State.stlPins (s : State) (k : Nat) : List Nat :=
  (List.range 160).filter (fun p => s.f (F.TIO_CFG_OWNER p) == 2 && s.f (F.TIO_CFG_OWN_IDX p) == k)

/-- The output level goes to the pins: the edge reaches the ball 24 ticks later, and of two in one tick the later stands
(R136, R139). The check shed's result drives nothing. -/
def State.stlDrive (s : State) (k : Nat) : State :=
  if s.stlMirror k then s
  else
    let at_ := fineOf (s.now + 24) 0
    let mine := s.stlPins k
    { s with flight := s.flight.filter (fun e => !(mine.contains e.pin && e.at_ == at_)) ++ mine.map (fun p =>
      ⟨p, at_, s.b (F.STL_STAT_OUT k) != s.b (F.STL_IO_OUT_POL k)⟩) }

/-- An output action: the output takes a level, which is its owner's action at the pins too where it is the same (R124, R136). -/
def State.stlOut (s : State) (k : Nat) (l : Bool) : State := (s.setB (F.STL_STAT_OUT k) l).stlDrive k

/-- The count of a stall is about to change, and the new one counts from tick `from_` on: what it was is kept for a stamp of
an earlier tick (R134). -/
def State.stlKeep (s : State) (k : Nat) (from_ : Time) : State :=
  let x := s.stl k
  s.setStl k { x with past := (from_, s.f (F.STL_CNT_COUNT k)) :: x.past.filter (fun e => decide (since (s.now + 1) e.1 ≤ 257)) }

/-- The count that the stall held during a tick of the last 256: what a write or a restart puts there counts from the next
tick on (R139). -/
def State.countAt (s : State) (k : Nat) (u : Time) : Nat :=
  match ((s.stl k).past.filter (fun e => decide (since (s.now + 1) e.1 < since (s.now + 1) u))).getLast? with
  | some e => e.2
  | none => s.f (F.STL_CNT_COUNT k)

/-- An action field of R135 on the present level. -/
def actLevel (a : Nat) (l : Bool) : Bool := if a = 1 then true else if a = 2 then false else if a = 3 then !l else l

/-- Restart of one stall (R141): no further step in this tick. The pins that a mismatch of it forced are released (R145). -/
def State.stlRestart1 (s : State) (k : Nat) : State :=
  let s1 := (s.stlKeep k (s.now + 1)).stlCopy k
  let down := s.f (F.STL_CFG_DIR_MODE k) == 1
  let s2 := s1.setF (F.STL_CNT_COUNT k) (if down then s1.f (F.STL_PERIOD_ACT_PER k) else 0)
  let s3 := ((s2.setB (F.STL_STAT_DOWN k) down).setB (F.STL_CTL_RUN k) true).setB (F.STL_STAT_FORCED k) false
  let s4 := { s3.setStl k { s3.stl k with ref := s.now, refIdle := s.dma.idle, first := true } with stepped := addItem k s.stepped }
  let s5 := if s.b (F.STL_STAT_FORCED k) then s4.pinUnforce (fun e => e == (k / 24, 64 + k % 24)) else s4
  s5.stlOut k (s.b (F.STL_IO_OUT_INIT k))

/-- Capture: the count held, or the time base's low 24 bits (R134). -/
def State.stlCapture1 (s : State) (k cnt : Nat) (stamp : Time) : State :=
  let v := if s.b (F.STL_CFG_CAP_SEL k) then stamp.toNat % 2 ^ 24 else cnt
  let s1 := s.setF (F.STL_CAP_CAP k) v
  s1.stlFlags k (if s.b (F.STL_FLAGS_CAPTURE k) then 48 else 16)

/-- What one counted step does to the count (Table 6.1, R131, R132, R138). -/
structure StepOut where
  cnt : Nat
  down : Bool
  /-- A turnaround of Table 6.1: shadowed values load. -/
  turn : Bool
  carry : Bool
  /-- One pass is over: RUN clears. -/
  stop : Bool
  /-- A turnaround above PER that takes ACT_TOP without setting TOP. -/
  actTop : Bool

/-- The step from count `c`: `per` is the active period, `per1` the period that a turnaround loads. A turnaround out of the
period 0 counts on from the new period in DOWN, and one into the period 0 judges TOP by the old (DESIGN CHOICE, log entry
157). -/
def countStep (mode per per1 c : Nat) (down onePass : Bool) : StepOut :=
  if per = 0 && c = 0 then ⟨if mode = 1 && !onePass then per1 else 0, mode = 1, true, !onePass, onePass, false⟩
  else if mode = 1 then
    if c = 0 then ⟨per1, true, true, true, false, false⟩
    else ⟨c - 1, true, false, false, onePass && c = 1, false⟩
  else if mode = 2 then
    if down && c = 1 then ⟨0, false, true, !onePass, onePass, false⟩
    else if down && c ≠ 0 then ⟨c - 1, true, false, false, false, false⟩
    else if per ≤ c then ⟨c - 1, true, true, false, false, decide (per < c)⟩
    else ⟨c + 1, c + 1 = per, c + 1 = per, false, false, false⟩
  else if per ≤ c then ⟨0, false, true, !onePass, onePass, false⟩
  else ⟨c + 1, false, false, false, false, false⟩

/-- The first cycle after a restart ends with this step (R132). -/
def cycleEnds (mode per c : Nat) (down : Bool) : Bool := (countStep mode per per c down true).stop

/-- One counted step of one stall, with its flags, matches and output action; answers whether it carries. A turnaround
above PER that arrives at PER sets TOP, as every arrival does (DESIGN CHOICE, log entry 135). -/
def State.stlStep1 (s : State) (k : Nat) : State × Bool :=
  let mode := s.f (F.STL_CFG_DIR_MODE k)
  let per := s.f (F.STL_PERIOD_ACT_PER k)
  let shadow := s.b (F.STL_CTL_SHADOW k)
  let c := s.f (F.STL_CNT_COUNT k)
  let first := (s.stl k).first
  let o := countStep mode per (if shadow then s.f (F.STL_PERIOD_PER k) else per) c (s.b (F.STL_STAT_DOWN k)) (first && s.b (F.STL_CFG_ONE_PASS k))
  let s1 := if o.turn && shadow then (s.stlKeep k s.now).stlCopy k else s.stlKeep k s.now
  let per2 := s1.f (F.STL_PERIOD_ACT_PER k)
  let s2 := (s1.setF (F.STL_CNT_COUNT k) o.cnt).setB (F.STL_STAT_DOWN k) o.down
  let s3 := (if o.stop then s2.setB (F.STL_CTL_RUN k) false else s2).setStl k
    { s2.stl k with first := first && !cycleEnds mode per c (s.b (F.STL_STAT_DOWN k)) }
  let still := decide (per = 0) && decide (c = 0)
  let top := decide (o.cnt = per) || (decide (mode = 1) && o.turn) || still
  let z := decide (o.cnt = 0) || still
  let ca := s1.f (F.STL_CMP_A_ACT_CMP k)
  let cb := s1.f (F.STL_CMP_B_ACT_CMP k)
  let ma := decide (o.cnt = ca) && decide (ca ≤ per2)
  let mb := decide (o.cnt = cb) && decide (cb ≤ per2)
  let s4 := { s3 with stepped := addItem k s3.stepped }.stlFlags k (toBit ma + 2 * toBit mb + 4 * toBit top + 8 * toBit z)
  let l := s.b (F.STL_STAT_OUT k)
  let acts := [(mb, s.f (F.STL_IO_ACT_B k)), (ma, s.f (F.STL_IO_ACT_A k)), (top || o.actTop, s.f (F.STL_IO_ACT_TOP k)), (z, s.f (F.STL_IO_ACT_ZERO k))]
  let s5 := match acts.find? (fun a => a.1 && a.2 != 0) with
    | some a => s4.stlOut k (actLevel a.2 l)
    | none => s4
  (s5, o.carry)

/-- A step and the steps of the chain above it (R142). -/
def State.stlStepN : Nat → State → Nat → State
  | 0, s, _ => s
  | fuel + 1, s, k =>
    let (s1, carry) := s.stlStep1 k
    let up := k + 1
    if carry && up % 24 ≠ 0 && s1.f (F.STL_CFG_CLK_SRC up) = 2 && s1.stepping up && !s1.stepped.contains up then
      State.stlStepN fuel s1 up
    else s1

/-- A counted step of a stall that may step, once per tick, with its mirror's (R145). -/
def State.stlStep (s : State) (k : Nat) : State :=
  overList (s.stlBoth k) (fun s k =>
    if s.stallsRun && s.stepping k && !s.stepped.contains k then State.stlStepN 24 s k else s) s

/-- The prescaler's phase in ticks: those since its last restart that were not spent in IDLE (R129, R146). -/
def State.stlPhase (s : State) (k : Nat) : Time := s.now - (s.stl k).ref - BitVec.ofNat 48 (s.dma.idle - (s.stl k).refIdle)

/-- STALL_STEP: a step of a stall clocked by TICK, due every 2^PRESCALE ticks since its restart (R129). -/
def State.stallTick (s : State) (k : Nat) : State :=
  if s.f (F.STL_CFG_CLK_SRC k) = 0 && (s.stlPhase k).toNat % 2 ^ s.f (F.STL_CFG_PRESCALE k) = 0 && !s.stlMirror k then s.stlStep k else s

/-- The stall that heads the chain of stall k (R142). -/
def State.chainHead (s : State) (k : Nat) : Nat :=
  (List.range (k % 24)).foldl (fun h _ => if s.f (F.STL_CFG_CLK_SRC h) = 2 && h % 24 ≠ 0 then h - 1 else h) k

/-- The counted step of this tick comes before every write, action and capture of the tick (R139): it is made now if it is
due, and the stall takes no other in this tick. -/
def State.stlDue (s : State) (k : Nat) : State :=
  let h := s.chainHead (if s.stlMirror k then k - 24 else k)
  if s.f (F.STL_CFG_CLK_SRC h) = 0 then
    let s1 := s.stallTick h
    { s1 with stepped := (s1.stlBoth h).foldl (fun l i => addItem i l) s1.stepped }
  else s

/-- Restart, on the stall and its mirror. -/
def State.stlRestart (s : State) (k : Nat) : State :=
  let s1 := s.stlDue k
  overList (s1.stlBoth k) State.stlRestart1 s1

/-- RUN of a stall and its mirror. -/
def State.stlRun (s : State) (k : Nat) (b : Bool) : State :=
  let s1 := s.stlDue k
  overList (s1.stlBoth k) (fun s k => s.setB (F.STL_CTL_RUN k) b) s1

/-- An edge of a stall's input with its stamp: the counted step, the capture, and a restart with CAP_MODE 2 (R129, R134,
R139). -/
def State.stlEdge (s : State) (k : Nat) (stamp : Time) : State :=
  if !s.stallsRun then s
  else
    let cm := s.f (F.STL_CFG_CAP_MODE k)
    let s1 := if s.f (F.STL_CFG_CLK_SRC k) = 1 then s.stlStep k else s.stlDue k
    let s2 := if cm = 0 then s1
      else overList (s.stlBoth k) (fun s j => s.stlCapture1 j (s.countAt j stamp) stamp) s1
    if cm = 2 then s2.stlRestart k else s2

/-- STALL_INPUT_EDGE: an edge of a pair or pin, which holds its level for at least 2 ticks; a shorter one is lost (R130), and
the gate meets the old level in a TICK stall's step of the edge's tick, the new one in a step that the edge makes (DESIGN
CHOICE, log entry 134). Of a VR pair it comes after the front end: once the pair is armed, with a peak that the stall takes
where no tracker does (R56; DESIGN CHOICE, log entry 25). -/
def State.stallInput (s : State) (k : Nat) (x : Crossing) : State :=
  let src := s.f (F.STL_IO_IN_SRC k)
  if x.held < 2 || s.stlMirror k || !s.taken src x || !s.arms ((s.firstUser src).getD 16) src x.peak then s
  else
    let rising := s.sensed src x.rising
    let read := (List.range 16).any (fun n => s.usesTooth n src || s.usesIdx n src)
    let s0 := if rising || read then s else s.takePeak src x.peak
    let s1 := s0.stlDue k |>.srcSet src x.rising
    let ie := s.f (F.STL_CFG_IN_EDGE k)
    if (if ie = 0 then rising else if ie = 1 then !rising else true) then s1.stlEdge k s1.now else s1

/-- An accepted tooth edge of a tracker reaches the stalls that select it (R130), with its stamp. -/
def State.feedStalls (s : State) (n : Nat) (stamp : Time) : State :=
  overList ((List.range 384).filter (fun k => s.f (F.STL_IO_IN_SRC k) == 192 + n && !s.stlMirror k)) (fun s k => s.stlEdge k stamp) s

/-- A write of FLAGS clears what it names, but for what this tick has set (R9). -/
def State.stlFlagsWr (s : State) (k : Nat) (v : Word) : State :=
  let s := s.stlDue k
  overList (s.stlBoth k) (fun s k =>
    let x := s.stl k
    let kept := if x.setAt = s.now then BitVec.ofNat 32 x.setBits else 0
    (s.wr (R.STL_FLAGS k) (s.rd (R.STL_FLAGS k) &&& ~~~ (v &&& ~~~ kept))).stallLines (k / 24)) s

/-- A change that leaves the count above the active period (R138). -/
def State.stlCrossed (s : State) (k : Nat) : State :=
  if s.f (F.STL_PERIOD_ACT_PER k) < s.f (F.STL_CNT_COUNT k) then s.stlFlags k 64 else s

/-- A write of CTL (R137, R141). -/
def State.stlCtl (s : State) (k : Nat) (v : Word) : State :=
  let s := s.stlDue k
  overList (s.stlBoth k) (fun s k =>
    let was := s.b (F.STL_CTL_SHADOW k)
    let s1 := (s.setB (F.STL_CTL_RUN k) (v.getLsbD 0)).setB (F.STL_CTL_SHADOW k) (v.getLsbD 2)
    let s2 := if (was && !v.getLsbD 2) || v.getLsbD 3 then s1.stlCopy k else s1
    if v.getLsbD 1 then s2.stlRestart1 k else s2) s

/-- SHADOW is written 0 and RUN as it stands after the step of the tick (R137, R139). -/
def State.stlShadowClear (s : State) (k : Nat) : State :=
  let s1 := s.stlDue k
  s1.stlCtl k (s1.rd (R.STL_CTL k) &&& 1)

/-- A write of PERIOD (0), CMP_A (1) or CMP_B (2): the programmed value, and without SHADOW the active one (R137, R138). -/
def State.stlValue (s : State) (k which : Nat) (v : Word) : State :=
  let w := v &&& 0xFFFFFF
  let s := s.stlDue k
  overList (s.stlBoth k) (fun s k =>
    let sh := s.b (F.STL_CTL_SHADOW k)
    match which with
    | 0 => let s1 := s.wr (R.STL_PERIOD k) w
           if sh then s1 else (s1.wr (R.STL_PERIOD_ACT k) w).stlCrossed k
    | 1 => let s1 := s.wr (R.STL_CMP_A k) w
           if sh then s1 else s1.wr (R.STL_CMP_A_ACT k) w
    | _ => let s1 := s.wr (R.STL_CMP_B k) w
           if sh then s1 else s1.wr (R.STL_CMP_B_ACT k) w) s

/-- A write of CNT (R138, R139). -/
def State.stlCnt (s : State) (k : Nat) (v : Word) : State :=
  let s := s.stlDue k
  overList (s.stlBoth k) (fun s k => ((s.stlKeep k (s.now + 1)).wr (R.STL_CNT k) (v &&& 0xFFFFFF)).stlCrossed k) s

/-- A plain write of a stall register: word `w` replaces it on the stall and its mirror; OUT_POL turned over is a level
change at the pin (R135, R136), and a new source of steps makes none in this tick (R139). -/
def State.stlPlain (s : State) (k : Nat) (r : Nat → Nat) (w : Word) : State :=
  let s := s.stlDue k
  overList (s.stlBoth k) (fun s k =>
    let s0 := (s.wr (r k) w).stallLines (k / 24)
    let s1 := if s0.f (F.STL_CFG_CLK_SRC k) = s.f (F.STL_CFG_CLK_SRC k) then s0 else { s0 with stepped := addItem k s0.stepped }
    if s1.b (F.STL_IO_OUT_POL k) = s.b (F.STL_IO_OUT_POL k) then s1 else s1.stlDrive k) s

/-- The higher stalls of the chain that stall k heads (R142, R143). -/
def State.chainAbove (s : State) (k : Nat) : List Nat :=
  ((List.range (23 - k % 24)).foldl (fun (acc : List Nat × Bool) i =>
    let up := k + 1 + i
    if acc.2 && s.f (F.STL_CFG_CLK_SRC up) = 2 then (acc.1 ++ [up], true) else (acc.1, false)) ([], true)).1

/-- A read of the count of a stall that heads a chain latches the counts of the higher stalls for the requester (R143). -/
def State.cntLatch (s : State) (r : Requester) (k : Nat) : State :=
  let head := s.f (F.STL_CFG_CLK_SRC k) != 2 || k % 24 == 0
  overList (if head then s.chainAbove k else []) (fun x j => x.latch r (R.STL_CNT_SNAP j) (s.rd (R.STL_CNT j))) s

/-- STL_CNT_READ (R143). -/
def State.cntRead (s : State) (r : Requester) (k : Nat) : State := (s.cntLatch r k).deliver r (s.rd (R.STL_CNT k))

/-- Every named stall of a shed (R141); a check shed's registers are read-only. -/
def State.stlGroup (s : State) (sh : Nat) (mask : Nat) (f : State → Nat → State) : State :=
  if s.isCheck sh then s else overList (bitList 24 mask) (fun s i => f s (24 * sh + i)) s

/-- The comparison of the output levels of a twin pair's stalls that own pins (R145). A difference that goes on is reported
once, until the lead stall is restarted; a pin that the stall comes to own meanwhile is forced too (DESIGN CHOICE, log entry
136). -/
def State.stallCompare (s : State) : State :=
  overList (List.range 192) (fun s i =>
    let k := 48 * (i / 24) + i % 24
    if s.isLead (k / 24) && !s.tb.twinNew.testBit (k / 48) && s.b (F.STL_STAT_OUT k) != s.b (F.STL_STAT_OUT (k + 24))
        && !(s.stlPins k).isEmpty then
      let s1 := overList (s.stlPins k) (fun s p => s.pinForce p (k / 24) (64 + k % 24)) s
      if s.b (F.STL_STAT_FORCED k) then s1
      else
        let s2 := (s1.setB (F.STL_STAT_FORCED k) true).flag (R.SHD_STL_MISMATCH (k / 24)) (k % 24)
        s2.log .shdStallTwinMismatch (k / 24) (k / 48 + (k % 24) <<< 12)
    else s) s

/-- Edges of stalls and runners whose tick has come reach the ball (R136, R184). -/
def State.landEdges (s : State) : State :=
  let due := s.flight.filter (fun e => s.reached (tickOf e.at_))
  let s1 := { s with flight := s.flight.filter (fun e => !s.reached (tickOf e.at_)) }
  overList due (fun s e =>
    let at_ := s.atCell e.pin e.at_
    if !s.pinFree e.pin then s else if s.levelAt e.pin at_ = e.level then s.pinHold e.pin else s.pinEdge e.pin at_ e.level) s1

/-- The computed registers of stall k by offset in its 64 bytes (Tables 6.4 and 6.5). -/
def State.stlView (s : State) (k off : Nat) : Option Word :=
  if off = 0x14 then
    some (packed [(s.f (F.STL_STAT_OUT k), 0), (s.f (F.STL_STAT_DOWN k), 1), (toBit (s.stepping k), 2), (toBit (s.stlMirror k), 3), (s.f (F.STL_STAT_FORCED k), 4)])
  else none

/-! ### The meanings -/

def execStallStep (k : Fin 384) (s : State) : Host.Outcome State Fault Refusal := .next (s.stallTick k.val)
def execStallInputEdge (k : Fin 384) (x : Crossing) (s : State) : Host.Outcome State Fault Refusal := .next (s.stallInput k.val x)
def execStlCtlRestart (r : Requester) (k : Fin 384) (s : State) : Host.Outcome State Fault Refusal :=
  .next (s.writeBy (fieldTo s r (F.STL_CTL_RESTART k.val) 1) (fun s => if s.stlMirror k.val then s else s.stlRestart k.val))
def execStlCtlLoad (r : Requester) (k : Fin 384) (s : State) : Host.Outcome State Fault Refusal :=
  .next (s.writeBy (fieldTo s r (F.STL_CTL_LOAD k.val) 1) (fun s => if s.stlMirror k.val then s else overList (s.stlBoth k.val) State.stlCopy (s.stlDue k.val)))
def execStlCtlShadowClear (r : Requester) (k : Fin 384) (s : State) : Host.Outcome State Fault Refusal :=
  .next (s.writeBy (fieldTo s r (F.STL_CTL_SHADOW k.val) 0) (fun s => if s.stlMirror k.val then s else s.stlShadowClear k.val))
def execStlPeriodWrite (r : Requester) (k : Fin 384) (which : Fin 3) (v : Word) (s : State) : Host.Outcome State Fault Refusal :=
  .next (s.writeBy (wordTo r (R.STL_PERIOD k.val + 4 * which.val) v) (fun s => if s.stlMirror k.val then s else s.stlValue k.val which.val v))
def execStlCntWrite (r : Requester) (k : Fin 384) (v : Word) (s : State) : Host.Outcome State Fault Refusal :=
  .next (s.writeBy (wordTo r (R.STL_CNT k.val) v) (fun s => if s.stlMirror k.val then s else s.stlCnt k.val v))
def execStlCntRead (r : Requester) (k : Fin 384) (s : State) : Host.Outcome State Fault Refusal :=
  .next (s.readBy (wordOf r (R.STL_CNT k.val) .clean) (fun s => s.cntRead r k.val))
def execStlGo (r : Requester) (sh : Fin 16) (mask : BitVec 24) (s : State) : Host.Outcome State Fault Refusal :=
  .next (s.writeBy (wordTo r (0x60E04 + 0x2000 * sh.val) (mask.setWidth 32)) (fun s => s.stlGroup sh.val mask.toNat State.stlRestart))
def execStlHalt (r : Requester) (sh : Fin 16) (mask : BitVec 24) (s : State) : Host.Outcome State Fault Refusal :=
  .next (s.writeBy (wordTo r (0x60E08 + 0x2000 * sh.val) (mask.setWidth 32)) (fun s => s.stlGroup sh.val mask.toNat (fun s k => s.stlRun k false)))

end Sys2Proof.Machine
end

