-- ==== Sys2Proof/Machine/Troughs.lean ====
section
/-! DEFINITION. Troughs (R279 to R288) and the SSI samples that trackers pull from them (R60). -/

namespace Sys2Proof.Machine

open Sys2Proof

/-- Troughs 48 to 63 are host-facing. -/
def hostFacing (q : Nat) : Bool := decide (48 ≤ q)

def State.trgLog (s : State) (q : Nat) : Nat := clampN (s.f (F.TRG_CFG_SIZE_LOG q)) 4 16
def State.trgSize (s : State) (q : Nat) : Nat := 2 ^ s.trgLog q
def State.trgMod (s : State) (q : Nat) : Nat := 2 * s.trgSize q

/-- A difference of pointers modulo 2^(SIZE_LOG + 1) (R280). -/
def pdiff (m a b : Nat) : Nat := if m = 0 then 0 else (a + (m - b % m)) % m

/-- Unread words as the consumer end sees them (R280, R282). -/
def State.trgUnread (s : State) (q : Nat) : Nat :=
  let t := s.tq q
  pdiff (s.trgMod q) (if hostFacing q then t.wSeen else t.w) t.r

/-- The SYSCLK cycle of this tick. -/
def State.cycleNo (s : State) : Nat := s.now.toNat / 2

/-- Unread words that a pull may take now: an internal trough hands a word out from the cycle after its push on (R286). -/
def State.trgReady (s : State) (q : Nat) : Nat :=
  let t := s.tq q
  match t.pushIn with
  | some (c, w) => if !hostFacing q && s.tb.running && c = s.cycleNo then min (pdiff (s.trgMod q) w t.r) (s.trgUnread q) else s.trgUnread q
  | none => s.trgUnread q

/-- Free words as the producer end sees them (R280, R282). -/
def State.trgSpace (s : State) (q : Nat) : Nat :=
  let t := s.tq q
  s.trgSize q - pdiff (s.trgMod q) t.w (if hostFacing q then t.relSeen else t.rel)

def State.trgEn (s : State) (q : Nat) : Bool := s.b (F.TRG_CTL_EN q)

/-- The pool word that a pointer names. -/
def State.trgWordAt (s : State) (q p : Nat) : Nat := s.f (F.TRG_CFG_BASE q) + p % s.trgSize q

/-- Is the access at the wrong end of a host-facing trough (R281)? DIR 1 is FROM_HOST. -/
def State.trgWrong (s : State) (q : Nat) (host push : Bool) : Bool :=
  hostFacing q && (host != (push == s.b (F.TRG_CFG_DIR q)))

/-- Set a sticky bit of TRG_q_STAT. -/
def State.trgSet (s : State) (q bit : Nat) : State := s.flag (R.TRG_STAT q) bit

/-- A pushed word with a bad direction, a disabled trough or no room, dropped (R284, R285). -/
def State.trgDrop (s : State) (q : Nat) : State := s.bump (R.TRG_CNT_DROP q)
def State.trgOverflow (s : State) (q : Nat) : State := ((s.trgSet q 4).trgDrop q).logOnce .trgOverflow q 0

/-- A push: the word with its poison tag and good parity at W (R280, R283). -/
def State.trgPut (s : State) (q data : Nat) (poison : Bool) : State :=
  let t := s.tq q
  let s1 := { s with pool := Sparse.set (fun _ => {}) s.pool (s.trgWordAt q t.w) ⟨BitVec.ofNat 24 data, poison, false⟩ }
  let before := match t.pushIn with
    | some (c, w) => if c = s.cycleNo then w else t.w
    | none => t.w
  s1.setTq q { t with w := (t.w + 1) % s.trgMod q, pushIn := if hostFacing q then none else some (s.cycleNo, before) }

/-- REL moves on by `n`: the mark is lost when REL moves beyond it (R287). -/
def Trough.relBy (t : Trough) (m n : Nat) : Trough :=
  { t with rel := (t.rel + n) % m, markOk := t.markOk && !(decide (pdiff m t.mark t.rel < n)) }

/-- A release of `n` words, never past R (R280): at once inside, one word per cycle at a host-facing trough (R282). -/
def State.trgRelease (s : State) (q n : Nat) : State :=
  let t := s.tq q
  let m := s.trgMod q
  let k := min n (pdiff m t.r t.rel - t.relGo)
  s.setTq q (if hostFacing q then { t with relGo := t.relGo + k } else t.relBy m k)

/-- The word at R as a read delivers it: bad parity poisons it, and is counted and logged (R283). -/
def State.trgLook (s : State) (q : Nat) : State × Nat × Bool :=
  let x := Sparse.get (fun _ => {}) s.pool (s.trgWordAt q (s.tq q).r)
  let s1 := if x.bad then ((s.bump (R.TRG_CNT_PAR q)).trgSet q 7).logOnce .trgParity q 0 else s
  (s1, x.data.toNat, x.poison || x.bad)

/-- A pull: the word at R, and R moves on; with AUTO_REL the word is released in the same cycle (R280). -/
def State.trgTake (s : State) (q : Nat) : State × Nat × Bool :=
  let (s1, d, p) := s.trgLook q
  let t := s1.tq q
  let m := s1.trgMod q
  let t1 := { t with r := (t.r + 1) % m }
  let t2 := if !s1.b (F.TRG_CFG_AUTO_REL q) then t1
    else if t1.relGo = 0 then t1.relBy m 1 else { t1 with relGo := t1.relGo + 1 }
  (s1.setTq q t2, d, p)

/-! ### Several agents at one end of an internal trough (R281)

The agents are numbered in the order in which they are served: 0 the DMA engines, 1 + n tracker n, 17 + n runner n, 49 + n engine n,
65 the Holtid core, 66 MW0. -/

def dmaAgent : Nat := 0
def trkAgent (n : Nat) : Nat := 1 + n
def rnAgent (n : Nat) : Nat := 17 + n
def engAgent (n : Nat) : Nat := 49 + n

/-- The agent of an access to the data port. -/
def agentOf : Requester → Nat
  | .core => 65
  | .eng n => engAgent n.val
  | .dmaR | .dmaW => dmaAgent
  | _ => 66

/-- Another agent has the end in this cycle. -/
def State.endTaken (s : State) (x : Option (Nat × Nat)) (a : Nat) : Bool :=
  match x with
  | some (c, b) => s.tb.running && b != a && (c == s.cycleNo || c == (s.cycleNo + 1) % 2 ^ 47)
  | none => false

/-- A DMA channel waits at an end of trough `q`: with the next of its reads inside the device, or with an element to push. -/
def State.dmaAtEnd (s : State) (q : Nat) (push : Bool) : Bool :=
  s.chans.any (fun e =>
    if push then (match e.2.jobs with
      | j :: _ => j.waitAt.isSome && j.fault.isNone && j.d.dst.space == 3 && j.d.dst.addr % 64 == q
      | [] => false)
    else match (e.2.jobs.flatMap (·.reads)).find? (fun r => r.data.isNone && r.src.space != 2) with
      | some r => r.src.space == 3 && r.src.addr % 64 == q
      | none => false)

/-- A tracker takes a sample from trough `q` in this cycle (R60). -/
def State.trkAtEnd (s : State) (q : Nat) : Bool :=
  decide (2 ≤ s.trgReady q) && s.mode != 3 && (List.range 16).any (fun n =>
    s.tmode n == 4 && (s.tr n).st != .off && s.f (F.WHL_SSI_TROUGH n) == q)

/-- A runner before agent `a` waits at an end of trough `q`, by PUSH or PULL (Table 8.4). -/
def State.rnAtEnd (s : State) (q : Nat) (push : Bool) (a : Nat) : Bool :=
  decide (2 ≤ s.mode) && s.mode != 3 && s.rns.any (fun e =>
    decide (rnAgent e.1 < a) && e.2.st == .wait && e.2.on == 5 && !s.b (F.RUN_CTL_PARK e.1) &&
      e.2.ir / 4096 == (if push then 8 else 9) && s.f (if push then F.RUN_CFG_TRG_OUT e.1 else F.RUN_CFG_TRG_IN e.1) == q)

/-- Is it agent `a`'s turn to pull from trough `q`, or to push to it? One agent per cycle, and those before it first. -/
def State.pullTurn (s : State) (q a : Nat) : Bool :=
  hostFacing q || (!s.endTaken (s.tq q).pullBy a && !(decide (dmaAgent < a) && s.dmaAtEnd q false)
    && !(decide (rnAgent 0 ≤ a) && s.trkAtEnd q) && !s.rnAtEnd q false a)
def State.pushTurn (s : State) (q a : Nat) : Bool :=
  hostFacing q || (!s.endTaken (s.tq q).pushBy a && !(decide (dmaAgent < a) && s.dmaAtEnd q true) && !s.rnAtEnd q true a)

/-- Agent `a` has pulled, or pushed, in the cycles up to `k` after this one. -/
def State.pulledBy (s : State) (q a k : Nat) : State :=
  if hostFacing q then s else s.setTq q { s.tq q with pullBy := some ((s.cycleNo + k) % 2 ^ 47, a) }
def State.pushedBy (s : State) (q a : Nat) : State :=
  if hostFacing q then s else s.setTq q { s.tq q with pushBy := some (s.cycleNo, a) }

/-- May agent `a`'s pull or push complete now? A wrong end, a disabled trough and a wait that clearing EN has ended (`cut`) answer
at once. -/
def State.agentCanPull (s : State) (q a : Nat) (cut : Bool) : Bool :=
  s.trgWrong q false false || !s.trgEn q || cut || (decide (0 < s.trgReady q) && s.pullTurn q a)
def State.agentCanPush (s : State) (q a : Nat) (cut : Bool) : Bool :=
  s.trgWrong q false true || !s.trgEn q || cut || (decide (0 < s.trgSpace q) && s.pushTurn q a)

/-- The pull of an engine, a runner, a tracker or a DMA engine that may complete: word and poison (R281, R284, R285). -/
def State.agentPull (s : State) (q a : Nat) (cut : Bool) : State × Nat × Bool :=
  if s.trgWrong q false false then (s.trgSet q 8, 0, false)
  else if !s.trgEn q || cut then (s, 0, true)
  else
    let x := s.trgTake q
    (x.1.pulledBy q a 0, x.2)

/-- Their push. -/
def State.agentPush (s : State) (q a : Nat) (cut : Bool) (data : Nat) (poison : Bool) : State :=
  if s.trgWrong q false true then s.trgSet q 8
  else if !s.trgEn q || cut then s.trgDrop q
  else (s.trgPut q data poison).pushedBy q a

/-- The data port's word: DATA, POISON in bit 24, EMPTY in bit 25. -/
def portWord (d : Nat) (poison empty : Bool) : Word := packed [(d % 2 ^ 24, 0), (toBit poison, 24), (toBit empty, 25)]

/-- The oldest waiter of one end of a trough: behind it the accesses to a host-facing trough wait in their order. -/
def State.trgWaiter (s : State) (q : Nat) (push : Bool) : Option TrgWait :=
  s.trgWaits.find? (fun w => w.q == q && w.push.isSome == push)

/-- A push at the data port, behind one that waits there (R281, R284, R285); at an internal trough it waits for the cycle that is
its turn. -/
def State.portPush (s : State) (r : Requester) (q : Nat) (v : Word) : State :=
  let host := hostSide r
  if s.trgWrong q host true then s.trgSet q 8
  else if !s.trgEn q then s.trgDrop q
  else if !s.pushTurn q (agentOf r) then { s with trgWaits := s.trgWaits ++ [⟨q, r, some v, s.now⟩] }
  else if 0 < s.trgSpace q && (!hostFacing q || (s.trgWaiter q true).isNone) then (s.trgPut q (getBits v 0 24) (host && v.getLsbD 24)).pushedBy q (agentOf r)
  else if hostFacing q && host && 0 < s.f F.TRG_HOST_WAIT_WAIT_US then
    { s with trgWaits := s.trgWaits ++ [⟨q, r, some v, s.now⟩] }
  else s.trgOverflow q

/-- A pull at the data port. -/
def State.portPull (s : State) (r : Requester) (q : Nat) : State :=
  let host := hostSide r
  if s.trgWrong q host false then (s.trgSet q 8).deliver r (portWord 0 false true)
  else if !s.trgEn q then s.deliver r (portWord 0 true true)
  else if !s.pullTurn q (agentOf r) then { s with trgWaits := s.trgWaits ++ [⟨q, r, none, s.now⟩] }
  else if 0 < s.trgReady q && (!hostFacing q || (s.trgWaiter q false).isNone) then
    let (s1, d, p) := s.trgTake q
    (s1.pulledBy q (agentOf r) 0).deliver r (portWord d p false)
  else if hostFacing q && host && 0 < s.f F.TRG_HOST_WAIT_WAIT_US then
    { s with trgWaits := s.trgWaits ++ [⟨q, r, none, s.now⟩] }
  else if hostFacing q && host then (s.trgSet q 5).deliver r (portWord 0 false true)
  else s.deliver r (portWord 0 false true)

/-- The stored word at R of a trough with unread words is found with bad parity. -/
def State.spoil (s : State) (q : Nat) (bad : Bool) : State :=
  if bad && decide (0 < s.trgUnread q) then
    let k := s.trgWordAt q (s.tq q).r
    { s with pool := Sparse.set (fun _ => {}) s.pool k { Sparse.get (fun _ => {}) s.pool k with bad := true } }
  else s

def State.dropWaiter (s : State) (w : TrgWait) : State := { s with trgWaits := s.trgWaits.erase w }

/-- The accesses to internal troughs that have waited for their turn come again (R281). -/
def State.portsAgain (s : State) : State :=
  overList (s.trgWaits.filter (fun w => !hostFacing w.q)) (fun s w =>
    match w.push with
    | some v => (s.dropWaiter w).portPush w.req w.q v
    | none => (s.dropWaiter w).portPull w.req w.q) s

/-- The waiter of one end of a host-facing trough. -/
def State.hostWaiter (s : State) (q : Nat) (push : Bool) : Option TrgWait := if hostFacing q then s.trgWaiter q push else none

/-- TROUGH_WAIT_SERVED: the waiting access is served once the trough can (R284, R286). -/
def State.waitServed (s : State) (q : Nat) (push : Bool) : State :=
  match s.hostWaiter q push with
  | none => s
  | some w =>
    match w.push with
    | some v => if 0 < s.trgSpace q then (s.dropWaiter w).trgPut q (getBits v 0 24) (v.getLsbD 24) else s
    | none =>
      if 0 < s.trgUnread q then
        let (s1, d, p) := (s.dropWaiter w).trgTake q
        s1.deliver w.req (portWord d p false)
      else s

/-- TROUGH_HOST_WAIT_EXPIRY (R284). -/
def State.waitExpired (s : State) (q : Nat) (push : Bool) : State :=
  match s.hostWaiter q push with
  | none => s
  | some w =>
    if s.passed w.since (500 * s.f F.TRG_HOST_WAIT_WAIT_US) then
      if push then (s.dropWaiter w).trgOverflow q
      else ((s.dropWaiter w).trgSet q 5).deliver w.req (portWord 0 false true)
    else s

/-- TROUGH_POINTER_CROSSING: W reaches the consumer's clock, or REL steps by one and reaches the producer's (R282). -/
def State.trgCross (s : State) (q : Nat) (rel : Bool) : State :=
  if !hostFacing q then s
  else
    let t := s.tq q
    if rel then
      let m := s.trgMod q
      let t1 := if t.relGo = 0 then t else if pdiff m t.r t.rel = 0 then { t with relGo := 0 } else { t.relBy m 1 with relGo := t.relGo - 1 }
      s.setTq q { t1 with relSeen := t1.rel }
    else s.setTq q { t with wSeen := t.w }

/-- Does the region of trough `q` overlap that of an enabled one, or stand off its size (R279)? -/
def State.trgBadRegion (s : State) (q : Nat) : Bool :=
  let b := s.f (F.TRG_CFG_BASE q)
  let n := s.trgSize q
  b % n != 0 || (List.range 64).any (fun k => k != q && s.trgEn k &&
    decide (b < s.f (F.TRG_CFG_BASE k) + s.trgSize k) && decide (s.f (F.TRG_CFG_BASE k) < b + n))

/-- FLUSH acts only while EN is 0: all pointers 0 and no mark (R285). -/
def State.trgFlush (s : State) (q : Nat) : State := if s.trgEn q then s else s.setTq q {}

/-- MARK (R287). -/
def State.trgMark (s : State) (q : Nat) : State := let t := s.tq q; s.setTq q { t with mark := t.r, markOk := true }

/-- REWIND (R287). -/
def State.trgRewind (s : State) (q : Nat) : State :=
  let t := s.tq q
  if t.markOk then s.setTq q { t with r := t.mark } else s.trgSet q 3

/-- A write of REL: N words, or all up to R (R280). -/
def State.trgRelWrite (s : State) (q : Nat) (v : Word) : State :=
  s.trgRelease q (if v.getLsbD 23 then s.trgMod q else getBits v 0 17)

/-- A read of PEEK: the word at R without pulling, whatever EN is; it never waits (Table 13.8). -/
def State.trgPeek (s : State) (r : Requester) (q : Nat) : State :=
  if 0 < s.trgUnread q then
    let (s1, d, p) := s.trgLook q
    s1.deliver r (portWord d p false)
  else s.deliver r (portWord 0 false true)

/-- A write of CFG: discarded while EN is 1 (R279); DIR is read-only in internal troughs. -/
def State.trgCfg (s : State) (q : Nat) (v : Word) : State :=
  if s.trgEn q then s.trgSet q 6
  else s.wr (R.TRG_CFG q) (v &&& (if hostFacing q then 0x7FFFFF else 0x3FFFFF))

/-- The computed registers of trough `q` (Table 13.8). -/
def State.trgView (s : State) (q off : Nat) : Option Word :=
  let t := s.tq q
  match off with
  | 8 => some (packed [(toBit (s.trgUnread q = 0), 0), (toBit (s.trgSpace q = 0), 1), (toBit t.markOk, 2),
      (getBits (s.rd (R.TRG_STAT q)) 3 6, 3), (toBit (t.relGo ≠ 0), 9), (toBit (hostFacing q), 10)])
  | 0xC => some (packed [(s.trgUnread q, 0)])
  | 0x10 => some (packed [(s.trgSpace q, 0)])
  | 0x14 => some (packed [(t.w % s.trgMod q, 0)])
  | 0x18 => some (packed [(t.r % s.trgMod q, 0)])
  | 0x1C => some (packed [(t.rel % s.trgMod q, 0)])
  | 0x20 => some (packed [(t.mark % s.trgMod q, 0)])
  | _ => none

/-! ### SSI samples (R60) -/

/-- SSI_SAMPLE_PULL: a tracker in SSI mode takes a sample of two words when two are unread. The predicted angle is that of
the present law at the sample's stamp; without a law, the estimate (DEDUCED, log entry 20). -/
def State.ssiPull (s : State) (n : Nat) : State :=
  let q := s.f (F.WHL_SSI_TROUGH n)
  let t := s.tr n
  if s.mode = 3 || s.tmode n ≠ 4 || t.st = .off || hostFacing q || !s.trgEn q || s.trgReady q < 2 || !s.pullTurn q (trkAgent n) then s
  else
    let (s1, pos, p1) := s.trgTake q
    let (s2, low, p2) := s1.trgTake q
    let s3 := (if s.b (F.TRG_CFG_AUTO_REL q) then s2 else s2.trgRelease q 2).pulledBy q (trkAgent n) 1
    if p1 || p2 then (s3.trkError n).log .whlSsiPoison n 0
    else
      let back := (s.now.toNat + 2 ^ 24 - low) % 2 ^ 24
      let stamp := s.now - BitVec.ofNat 48 back
      let bits := s.f (F.WHL_SSI_BITS n)
      let ang := (pos % 2 ^ bits) * s.cpr n / 2 ^ bits
      let law := wrapN (((if t.lawOn then t.lam else t.a : Nat) : Int) - ((back * t.q + back * t.rem / t.den : Nat) : Int)) (s.rawM n)
      let est := law / 65536 % s.cpr n
      let d := min (fwd (s.cpr n) est ang) (fwd (s.cpr n) ang est)
      if t.st = .sync && s.f (F.WHL_IDX_WIN_WIN n) < d then s3.trkError n
      else
        let e := since stamp t.edge
        let x : EdgeUpd := { kind := .ssi, due := s.now + 120, stamp := stamp, period := if t.haveEdge then some e else none
                             before := if t.haveEdge && t.havePer then some t.per else none, fwd := true, late := false
                             mprev := none, angle := ang, quad := 0, overdue := false, noise := false }
        s3.setTr n { t with seen := true, edge := stamp, stopBase := stamp, haveEdge := true, havePer := t.haveEdge
                            per := if t.haveEdge then e else t.per, upds := t.upds ++ [x] }

/-! ### The meanings -/

def execTroughPush (r : Requester) (q : Fin 64) (v : Word) (s : State) : Host.Outcome State Fault Refusal :=
  .next (s.writeBy (wordTo r (R.TRG_DATA q.val) v) (fun s => s.portPush r q.val v))
def execTroughPull (r : Requester) (q : Fin 64) (bad : Bool) (s : State) : Host.Outcome State Fault Refusal :=
  .next (s.readBy (wordOf r (R.TRG_DATA q.val) (found bad)) (fun s => (s.spoil q.val bad).portPull r q.val))
def execTroughWaitServed (q : Fin 64) (push bad : Bool) (s : State) : Host.Outcome State Fault Refusal :=
  .next ((s.spoil q.val (bad && !push)).waitServed q.val push)
def execTroughHostWaitExpiry (q : Fin 64) (push : Bool) (s : State) : Host.Outcome State Fault Refusal := .next (s.waitExpired q.val push)
def execTroughPointerCrossing (q : Fin 64) (rel : Bool) (s : State) : Host.Outcome State Fault Refusal := .next (s.trgCross q.val rel)
def execTrgPeekRead (r : Requester) (q : Fin 64) (bad : Bool) (s : State) : Host.Outcome State Fault Refusal :=
  .next (s.readBy (wordOf r (R.TRG_PEEK q.val) (found bad)) (fun s => (s.spoil q.val bad).trgPeek r q.val))
def execTrgRelWrite (r : Requester) (q : Fin 64) (v : Word) (s : State) : Host.Outcome State Fault Refusal :=
  .next (s.writeBy (wordTo r (R.TRG_REL q.val) v) (fun s => s.trgRelWrite q.val v))
def execTrgFlush (r : Requester) (q : Fin 64) (s : State) : Host.Outcome State Fault Refusal :=
  .next (s.writeBy (fieldTo s r (F.TRG_CTL_FLUSH q.val) 1) (fun s => s.trgFlush q.val))
def execTrgMark (r : Requester) (q : Fin 64) (s : State) : Host.Outcome State Fault Refusal :=
  .next (s.writeBy (fieldTo s r (F.TRG_CTL_MARK q.val) 1) (fun s => s.trgMark q.val))
def execTrgRewind (r : Requester) (q : Fin 64) (s : State) : Host.Outcome State Fault Refusal :=
  .next (s.writeBy (fieldTo s r (F.TRG_CTL_REWIND q.val) 1) (fun s => s.trgRewind q.val))

end Sys2Proof.Machine
end

