-- ==== Sys2Proof/Machine/Yard.lean ====
section
/-! DEFINITION. The Yard: pages and their ownership (R271 to R278), and the background scrubber of the protected
memories (R19, R104). -/

namespace Sys2Proof.Machine

open Sys2Proof

/-- The device side of the Yard: the Holtid core and the DMA engines (R272). -/
def yardDevice : Requester → Bool
  | .core => true | .dmaR => true | .dmaW => true | _ => false

/-- Does a requester reach the Yard at all? The engines do not. -/
def yardSide (r : Requester) : Bool := hostSide r || yardDevice r

/-- The byte lanes of a word that a partial write replaces. -/
def laneMask (be : BitVec 4) : Word :=
  BitVec.ofNat 32 ((bitList 4 be.toNat).foldl (fun m k => m + (0xFF <<< (8 * k))) 0)

/-- A word with some of its bytes written. -/
def mergeLanes (old new : Word) (be : BitVec 4) : Word := (old &&& ~~~ laneMask be) ||| (new &&& laneMask be)

/-- Is a transition allowed to its writer (Table 13.3)? Leaving QUARANTINE is judged under R277. -/
def ownAllowed (r : Requester) (src dst : Nat) : Bool :=
  let host := hostSide r
  match src with
  | 0 => if host then dst == 1 else dst == 2
  | 1 => host && (dst == 2 || dst == 0 || dst == 3)
  | 2 => !host && (dst == 1 || dst == 0 || dst == 3)
  | _ => host && dst == 0

/-- An uncorrectable error in a Yard word: the page enters QUARANTINE (R277). -/
def State.quarantine (s : State) (p : Nat) : State :=
  let x := s.page p
  if x.owner = 3 && x.ecc then s
  else ((s.setPage p { owner := 3, gen := (x.gen + 1) % 64, ecc := true }).log .yrdEcc p p).pulse 236

/-- Write 0 to a page's 64 words. -/
def State.yardClear (s : State) (p : Nat) : State :=
  { s with regs := s.regs.filter (fun e => !(decide (0x400000 ≤ e.1) && (e.1 - 0x400000) / 256 == p && decide (e.1 < 0x600000))) }

/-- The requester's own copy of YRD_RESULT (Table 13.4). -/
def State.ownResult (s : State) (r : Requester) (p reason : Nat) : State :=
  s.latch r R.YRD_RESULT (packed [(p, 0), (1, 13), (toBit (reason = 0), 14), (reason, 15), ((s.page p).gen, 17)])

/-- An ownership write (R273): GEN first, then the transition and the reserved bits; a page that leaves QUARANTINE is
cleared and read back, and `still` says that an error remains (R277). -/
def State.ownWrite (s : State) (r : Requester) (p : Nat) (v : Word) (still : Bool) : State :=
  let x := s.page p
  let dst := getBits v 0 2
  if !yardSide r then s
  else if getBits v 2 6 ≠ x.gen then s.ownResult r p 1
  else if !ownAllowed r x.owner dst || getBits v 9 15 ≠ 0 then s.ownResult r p 2
  else
    let s1 := if x.owner = 3 then s.yardClear p else s
    if x.owner = 3 && still then (s1.log .yrdEcc p p).ownResult r p 3
    else (s1.setPage p { owner := dst, gen := (x.gen + 1) % 64, ecc := false }).ownResult r p 0

/-- May a requester write a page's data (R275)? -/
def State.yardMine (s : State) (r : Requester) (p : Nat) : Bool :=
  let o := (s.page p).owner
  (hostSide r && o == 1) || (yardDevice r && o == 2)

/-- A discarded data write (R275): the first such page of the beat is logged. -/
def State.yardViolation (s : State) (p : Nat) : State := (s.bump R.YRD_VIOL).logOnceFor .yrdAccessViolation 0 p p

/-- A data write (R275). `o` is the byte offset in MW2, below 2 MiB. -/
def State.yardWrite (s : State) (r : Requester) (o : Nat) (v : Word) (be : BitVec 4) : State :=
  let a := R.YARD (o - o % 4)
  if !yardSide r then s
  else if s.yardMine r (o / 256) then s.wr a (mergeLanes (s.rd a) v be)
  else s.yardViolation (o / 256)

/-- The word that a data read returns (R275). -/
def State.yardWord (s : State) (o : Nat) : Word := if (s.page (o / 256)).owner = 3 then 0 else s.rd (R.YARD (o - o % 4))

/-- What finding an error in a Yard word does: a single-bit error is corrected and counted, an uncorrectable one
quarantines the page. -/
def State.yardFound (s : State) (o : Nat) (e : Ecc) : State :=
  match e with
  | .clean => s
  | .single => s.bump R.YRD_ECC_CNT
  | .double => s.quarantine (o / 256)

/-- YARD_DATA_READ. -/
def State.yardRead (s : State) (r : Requester) (o : Nat) (e : Ecc) : State :=
  if !yardSide r then s
  else
    let s1 := s.yardFound o e
    s1.deliver r (s1.yardWord o)

/-- Bytes of the Yard as a device-side command or channel reads them. -/
def State.yardBytes (s : State) (o n : Nat) : List Nat :=
  (List.range n).map (fun i => getBits (s.yardWord (o + i)) (8 * ((o + i) % 4)) 8)

/-- Write bytes to the Yard as one requester. -/
def State.yardPutBytes (s : State) (r : Requester) (o : Nat) (bs : List Nat) : State :=
  (bs.foldl (fun (x : State × Nat) b =>
    (x.1.yardWrite r x.2 (BitVec.ofNat 32 (b <<< (8 * (x.2 % 4)))) (BitVec.ofNat 4 (2 ^ (x.2 % 4))), x.2 + 1)) (s, o)).1

/-- Pages in QUARANTINE now (Table 13.4). -/
def State.quarPages (s : State) : Nat := (s.pages.filter (fun e => e.2.owner == 3)).length

/-- An ownership word as it reads (Table 13.2). -/
def State.ownWord (s : State) (p : Nat) : Word :=
  let x := s.page p
  packed [(x.owner, 0), (x.gen, 2), (toBit x.ecc, 8)]

/-! ### The event table's check bits and the scrubber (R104, R19) -/

/-- A double-bit error of the active copy of an event entry. -/
def State.entryEcc (s : State) (e : Nat) : State := s.setEs e { s.es e with ecc := true }

/-- A tack word is found bad beyond correction (Table 1.3): a tracker that uses its pattern goes to LOST; profile and
coil words are marked, and their channels go off when they are next used or at once where they run. -/
def State.tackBad (s : State) (a : Nat) : State :=
  let s1 := { s with badWords := addItem a s.badWords }
  if a < 0x30000 then
    let n := (a - 0x20000) / 0x1000
    if (s.tr n).st = .off then s1 else ((s1.log .whlTackEcc n 0).setSt n .lost)
  else s1

/-- SCRUBBER_VISIT: the scrubber reads a word of the event table, the tack memories or the Yard (R19), in every mode from CONFIG on but
IDLE (R389). -/
def State.scrub (s : State) (a : Nat) (e : Ecc) : State :=
  if s.mode < 2 || s.mode = 3 then s
  else if 0x40000 ≤ a && a < 0x60000 then
    match e with
    | .clean => s
    | .single => s.bump R.EVT_ECC_CNT
    | .double => s.entryEcc ((a - 0x40000) / 16)
  else if 0x400000 ≤ a && a < 0x600000 then s.yardFound (a - 0x400000) e
  else if (0x20000 ≤ a && a < 0x30000) || (0x10B000 ≤ a && a < 0x10E000) then
    match e with
    | .double => s.tackBad (a - a % 4)
    | _ => s
  else s

/-- EVT_SHADOW_READ (R104). -/
def State.evtShadowRead (s : State) (r : Requester) (e w : Nat) (x : Ecc) : State :=
  let s1 := match x with
    | .clean => s
    | .single => s.bump R.EVT_ECC_CNT
    | .double => ((s.setF F.EVT_ECC_ADDR_ENTRY e).setB F.EVT_ECC_ADDR_VALID true).setB F.EVT_ECC_ADDR_SHADOW true
  s1.deliver r (s.shadowRd (R.EVT e w))

/-! ### The meanings -/

def execYrdOwnWrite (r : Requester) (p : Fin 8192) (v : Word) (still : Bool) (s : State) : Host.Outcome State Fault Refusal :=
  .next (s.writeBy ⟨r, R.YRD_OWN p.val, some (v, 15), found still⟩ (fun s => s.ownWrite r p.val v still))
def execYardDataWrite (r : Requester) (off : BitVec 21) (v : Word) (be : BitVec 4) (s : State) : Host.Outcome State Fault Refusal :=
  .next (s.writeBy ⟨r, R.YARD off.toNat, some (v, be), .clean⟩ (fun s => s.yardWrite r off.toNat v be))
def execYardDataRead (r : Requester) (off : BitVec 21) (e : Ecc) (s : State) : Host.Outcome State Fault Refusal :=
  .next (s.readBy (wordOf r (R.YARD off.toNat) e) (fun s => s.yardRead r off.toNat e))
def execScrubberVisit (a : BitVec 24) (e : Ecc) (s : State) : Host.Outcome State Fault Refusal := .next (s.scrub a.toNat e)
def execEvtShadowRead (r : Requester) (e : Fin 8192) (w : Fin 4) (ecc : Ecc) (s : State) : Host.Outcome State Fault Refusal :=
  .next (s.readBy (wordOf r (R.EVT e.val w.val) ecc) (fun s => s.evtShadowRead r e.val w.val ecc))

end Sys2Proof.Machine
end

