-- ==== Sys2Proof/Machine/Log.lean ====
section
/-! DEFINITION. The trouble log's ring (R392 to R397): entries, selecting and clearing them. -/

namespace Sys2Proof.Machine

open Sys2Proof

/-- A word of entry `e` as it stands: 0 where nothing valid was written. -/
def State.logWord (s : State) (e w : Nat) : Word := Sparse.get (fun _ => 0) s.logW (4 * e + w)

/-- Does an entry hold a report? -/
def State.logValid (s : State) (e : Nat) : Bool := (s.logWord e 3).getLsbD 26

/-- Store the four words of an entry. -/
def State.logPut (s : State) (e a b c d : Nat) : State :=
  let put := fun (m : List (Nat × Word)) (w v : Nat) => Sparse.set (fun _ => 0) m (4 * e + w) (BitVec.ofNat 32 v)
  { s with logW := put (put (put (put s.logW 0 a) 1 b) 2 c) 3 d }

/-- Write a report as an entry at HEAD (R392, R395); COUNT is the number of valid entries. -/
def State.logEntry (s : State) (x : Report) : State :=
  let e := s.f F.LOG_STAT_HEAD
  let t := x.time.toNat
  let s1 := s.logPut e (t % 2 ^ 32) (t / 2 ^ 32 + x.beat * 2 ^ 16) (x.code.num + x.source * 2 ^ 16)
    (x.detail + x.code.sev * 2 ^ 24 + 2 ^ 26)
  let s2 := s1.setF F.LOG_STAT_HEAD (e + 1)
  let s3 := if e = 2047 then s2.setB F.LOG_STAT_WRAPPED true else s2
  let s4 := s3.setF F.LOG_COUNT_COUNT (min 2048 (s.f F.LOG_COUNT_COUNT + toBit (!s.logValid e)))
  s4.setF F.LOG_SEQ_SEQ (s.f F.LOG_SEQ_SEQ + 1)

/-- The logger writes the oldest report; once that has left 16 in its queue, how many have been dropped comes next (R391). -/
def State.logNext (s : State) : State :=
  if s.logTell then
    { s with logTell := false, logLost := 0, logAt := some s.ctlNow }.logEntry
      ⟨s.now, s.tb.beat.toNat % 2 ^ 16, .sysLogLost, wholeDevice, s.logLost⟩
  else match s.logQ with
    | [] => s
    | x :: xs => { s with logQ := xs, logTell := decide (xs.length = 16) && s.logLost != 0, logAt := some s.ctlNow }.logEntry x

/-- An entry is bad beyond correction: it reads as four words of 0 until its slot is written again in turn (Table 1.3, R392,
R395), and is no valid entry of COUNT any more (DEDUCED, log entry 142). -/
def State.logBad (s : State) (e : Nat) : State :=
  if s.logValid e then (s.logPut e 0 0 0 0).setF F.LOG_COUNT_COUNT (s.f F.LOG_COUNT_COUNT - 1) else s

/-- A write of LOG_SEL copies the selected entry into the requester's LOG_DATA (R397). -/
def State.logSel (s : State) (r : Requester) (v : Word) : State :=
  let e := getBits v 0 11
  overList (List.range 4) (fun x w => x.latch r (R.LOG_DATA w) (s.logWord e w)) (s.setF F.LOG_SEL_INDEX e)

/-- LOG_CLEAR (R396). -/
def State.logClear (s : State) : State :=
  let s1 := { s with logW := [] }
  let s2 := (s1.wr R.LOG_STAT 0).wr R.LOG_COUNT 0
  s2.logEntry ⟨s.now, s.tb.beat.toNat % 2 ^ 16, .sysLogCleared, wholeDevice, 0⟩

/-! ### The meanings -/

def execLogSelWrite (r : Requester) (v : Word) (bad : Bool) (s : State) : Host.Outcome State Fault Refusal :=
  .next (s.writeBy ⟨r, R.LOG_SEL, some (v, 15), found bad⟩ (fun s => (if bad then s.logBad (getBits v 0 11) else s).logSel r v))

end Sys2Proof.Machine
end

