-- ==== Sys2Proof/Machine/Irq.lean ====
section
/-! DEFINITION. The interrupt controller (R361 to R376): presentation, claim, service, the pool, retraction and
fall-back. What a source is presented to is computed from the state; only the pool's choice is kept, for R369. -/

namespace Sys2Proof.Machine

open Sys2Proof

/-! ### Engines as targets -/

/-- The engine's word has begun in or before a tick and still runs. -/
def State.engInWord (s : State) (n : Nat) (t : Time) : Bool :=
  let e := s.eng n
  e.st == .run && !e.waiting && !e.frozen && decide (since t e.ready < 2 ^ 47)

/-- PARKED: from the word boundary at which PARK acts (R172). -/
def State.engParked (s : State) (n : Nat) : Bool :=
  s.b (F.SHD_ENG_CTL_PARK n) && (s.eng n).st != .reset && (s.eng n).st != .fault && (s.eng n).st != .loading
    && !s.engInWord n (s.eng n).parkAt

/-- The engine that stands for a shed: the lead of its pair in twin mode (R373). -/
def State.engOf (s : State) (n : Nat) : Nat := if s.isCheck n then n - 1 else n

/-- DONE, or RUN or WAIT with IE = 1 (R369). -/
def State.engTakes (s : State) (n : Nat) : Bool :=
  let e := s.eng n
  !s.engParked n && !e.trapped && (e.st == .done || (e.st == .run && s.b (F.SHD_ENG_CTL_IE n)))

/-- The engine can take nothing for now and long: RESET, PARKED, FAULT or LOADING (R371). -/
def State.engAway (s : State) (n : Nat) : Bool :=
  let e := s.eng n
  s.engParked n || e.st == .reset || e.st == .fault || e.st == .loading

/-- The priority that an engine reports (R174). -/
def State.engCur (s : State) (n : Nat) : Nat :=
  let e := s.eng n
  if s.engAway n then 0 else if e.trapped then 15 else if e.st = .done then 0 else s.f (F.SHD_ENG_PRIO_BASE n)

/-! ### Routes -/

/-- Where a source is routed. -/
inductive Route where
  | core | host (v : Nat) | eng (n : Nat) | pool
  deriving DecidableEq, Repr

def State.route (s : State) (g : Nat) : Route :=
  if 256 ≤ g then .eng (s.engOf ((g - 256) / 16))
  else if 240 ≤ g && g < 244 then .core
  else match s.f (F.IRQ_SRC_CFG_TGT_KIND g) with
    | 0 => .core
    | 1 => .host (s.f (F.IRQ_SRC_CFG_TGT_IDX g))
    | 2 => .eng (s.engOf (min 15 (s.f (F.IRQ_SRC_CFG_TGT_IDX g))))
    | _ => .pool

/-- Is a shed, or its twin partner, in the pool (R369, R373)? -/
def State.inPool (s : State) (n : Nat) : Bool :=
  let m := s.f F.IRQ_POOL_MASK
  m.testBit n || (s.isLead n && m.testBit (n + 1))

/-- The choosable engines of the pool, rising. -/
def State.choosable (s : State) : List Nat := (List.range 16).filter (fun n => s.inPool n && !s.isCheck n && s.engTakes n)

/-- The engine with the lowest CUR, the lowest shed among equals. -/
def State.lowest (s : State) : List Nat → Option Nat
  | [] => none
  | n :: ns => match State.lowest s ns with
    | none => some n
    | some m => if s.engCur m < s.engCur n then some m else some n

/-- The pool's choice for a source: it stays where it is unless that engine is no longer choosable or another has a CUR
strictly lower (R369). -/
def State.poolChoice (s : State) (g : Nat) : Option Nat :=
  let c := s.choosable
  match (s.src g).pool, s.lowest c with
  | some n, some m => if c.contains n && decide (s.engCur n ≤ s.engCur m) then some n else some m
  | _, m => m

/-! ### Presentation (R366) -/

def State.prio (s : State) (g : Nat) : Nat := s.f (F.IRQ_SRC_CFG_PRIO g)

/-- Pending and unmasked; a check shed's private bank mirrors its lead's and presents nothing itself (R373). -/
def State.live (s : State) (g : Nat) : Bool :=
  s.pend g && !(s.src g).masked && !(decide (256 ≤ g) && s.isCheck ((g - 256) / 16))

/-- Does `g` come before `h`: higher PRIO, then private first, then the lower number (R366)? -/
def State.ahead (s : State) (g h : Nat) : Bool :=
  decide (s.prio h < s.prio g) ||
    (s.prio g == s.prio h && (if decide (256 ≤ g) == decide (256 ≤ h) then decide (g < h) else decide (256 ≤ g)))

/-- The first source of a list in the order of R366. -/
def State.firstOf (s : State) : List Nat → Option Nat
  | [] => none
  | g :: gs => match State.firstOf s gs with
    | none => some g
    | some h => if s.ahead g h then some g else some h

/-- The sources that hold any state. -/
def State.sources (s : State) : List Nat := s.irq.map (·.1)

/-- The source presented to an engine, to none in RESET, PARKED, FAULT or LOADING (R366, R371). -/
def State.engSource (s : State) (n : Nat) : Option Nat :=
  if s.engAway n then none
  else s.firstOf (s.sources.filter (fun g => s.live g && (s.src g).svc == .no && !(s.src g).fell &&
    (match s.route g with
     | .eng m => m == n
     | .pool => s.poolChoice g == some n
     | _ => false)))

/-- The source presented to the core: higher than every source it has in service (R368). -/
def State.coreSource (s : State) : Option Nat :=
  s.firstOf (s.sources.filter (fun g => s.live g && (s.src g).svc == .no && ((s.src g).fell || s.route g == .core) &&
    s.sources.all (fun h => (s.src h).svc != .core || decide (s.prio h < s.prio g))))

/-- The first pending, unmasked source on a host line (R367). -/
def State.hostSource (s : State) (v : Nat) : Option Nat :=
  s.firstOf (s.sources.filter (fun g => s.live g && !(s.src g).fell && s.route g == .host v))

/-- A claim: in service, its latches cleared (R367). -/
def State.claim (s : State) (g : Nat) (t : InSvc) : State :=
  s.setSrc g { s.src g with edge := false, sw := false, svc := t, fell := false, pool := none, undel := none }

/-- Service at an engine ends (R368). -/
def State.endService (s : State) (n : Nat) : State :=
  overList (s.sources.filter (fun g => (s.src g).svc == .engine n)) (fun s g => s.setSrc g { s.src g with svc := .no }) s

/-! ### The controller's own time (R369, R371) -/

/-- Undeliverable: routed to one engine that is away, or to the pool with none choosable. -/
def State.undeliverable (s : State) (g : Nat) : Bool :=
  s.live g && (s.src g).svc == .no && !(s.src g).fell && decide (g < 256) &&
    (match s.route g with
     | .eng n => s.engAway n
     | .pool => s.choosable.isEmpty
     | _ => false)

/-- What the controller keeps of a source, renewed: the pool's choice, the undeliverable time, and the fall-back that
ends when pending clears. -/
def State.irqSettle (s : State) (g : Nat) : State :=
  let x := s.src g
  s.setSrc g { x with pool := if s.route g = .pool && s.live g && x.svc = .no then s.poolChoice g else none
                      undel := if s.undeliverable g then some (x.undel.getD s.ctlNow) else none
                      fell := x.fell && s.pend g
                      wasSense := x.wasSense.filter (fun e => s.thisCycle e.2) }

/-- What is presented to an engine, and since when. -/
def State.irqShow (s : State) (n : Nat) : State :=
  let e := s.eng n
  let now := (s.engSource n).map (fun g => match e.irq with
    | some (h, t) => if g = h then (h, t) else (g, s.now)
    | none => (g, s.now))
  if now = e.irq then s else s.setEng n { e with irq := now }

/-- All sources and what the engines see of them, in every tick: the lines first (R374). -/
def State.irqTick (s : State) : State :=
  overList (List.range 16) State.irqShow (overList s.sources State.irqSettle (overList s.sources State.pulseEnd s))

/-- IRQ_FALLBACK (R371): 2 µs undeliverable. -/
def State.fallBack (s : State) (g : Nat) : State :=
  match (s.src g).undel with
  | some t =>
    if s.undeliverable g && decide (1000 ≤ since s.ctlNow t) then
      let s1 := (s.setSrc g { s.src g with fell := true, undel := none }).setB (F.IRQ_SRC_CFG_FELL_BACK g) true
      (s1.bump R.IRQ_FALLBACK_CNT).logOnceFor .sysIrqFallback 0 wholeDevice g
    else s
  | none => s

/-! ### Register writes (R365, R370) -/

/-- The sources that a write to word `w` names; a check shed's bank is read-only (R373, R145). -/
def State.irqWord (s : State) (w : Nat) (v : Word) : List Nat :=
  if 16 ≤ w && s.isCheck (w - 16) then [] else (bitList 16 v.toNat).map (fun i => 16 * w + i)

def State.pendSet (s : State) (w : Nat) (v : Word) : State :=
  overList (s.irqWord w v) (fun s g => s.setSrc g { s.src g with sw := true }) s

/-- Clearing the latches: a level line stays pending (R365), and an edge of the same tick stays latched (R9). -/
def State.pendClr1 (s : State) (g : Nat) : State :=
  let s1 := s.setSrc g { s.src g with edge := decide (s.justSet (latchKey g) ≠ 0), sw := false }
  s1.setSrc g { s1.src g with fell := (s1.src g).fell && s1.pend g }

def State.pendClr (s : State) (w : Nat) (v : Word) : State := overList (s.irqWord w v) State.pendClr1 s
def State.maskSet (s : State) (w : Nat) (v : Word) : State :=
  overList (s.irqWord w v) (fun s g => s.setSrc g { s.src g with masked := true }) s
def State.maskClr (s : State) (w : Nat) (v : Word) : State :=
  overList (s.irqWord w v) (fun s g => s.setSrc g { s.src g with masked := false }) s

/-- A write of IRQ_SRC_g_CFG: the route of a private source and of 240 to 243 is read-only (R362); a changed route
retracts (R370), and a changed SENSE takes effect from the next SYSCLK cycle (R364). -/
def State.srcCfg (s : State) (g : Nat) (v : Word) : State :=
  let a := R.IRQ_SRC_CFG g
  let old := s.rd a
  let fixed := decide (256 ≤ g) || (decide (240 ≤ g) && decide (g < 244))
  let rw : Word := if fixed then 0x3F else 0x1FFF
  let keep := old &&& ~~~ rw
  let w := keep ||| (v &&& rw)
  let w := w &&& ~~~ (v &&& 0x4000 &&& ~~~ s.justSet a)
  if 256 ≤ g && s.isCheck ((g - 256) / 16) then s
  else
    let x := s.src g
    let was := if getBits old 0 2 = getBits w 0 2 then x.wasSense else some (s.sense g, s.ctlNow)
    let s1 := (s.wr a w).setSrc g { x with wasSense := was }
    if s1.route g = s.route g then s1 else s1.setSrc g { s1.src g with pool := none, undel := none }

/-- A read of IRQ_CORE_CLAIM: the core's read claims (R367). -/
def State.coreClaim (s : State) (r : Requester) : State :=
  match s.coreSource with
  | some g => (if r = .core then s.claim g .core else s).deliver r (packed [(g, 0), (1, 9)])
  | none => s.deliver r 0

/-- A write of IRQ_CORE_EOI (R368). -/
def State.coreEoi (s : State) (v : Word) : State :=
  let g := getBits v 0 9
  if (s.src g).svc = .core then s.setSrc g { s.src g with svc := .no } else s

/-! ### Status registers (Table 17.5, the mirror of R373) -/

/-- A vector word of one property of 16 sources; a check shed's bank mirrors its lead's. -/
def State.irqVec (s : State) (w : Nat) (p : Nat → Bool) : Word :=
  let w := if 16 ≤ w && s.isCheck (w - 16) then w - 1 else w
  packed ((List.range 16).map (fun i => (toBit (p (16 * w + i)), i)))

def State.irqView (s : State) (a : Nat) : Option Word :=
  let src := fun (o : Option Nat) => match o with | some g => packed [(g, 0), (1, 9)] | none => 0
  if a = R.IRQ_CORE_CLAIM then some (src s.coreSource)
  else if 0x3100 ≤ a && a < 0x3180 then some (src (s.hostSource ((a - 0x3100) / 4)))
  else if 0x4000 ≤ a && a < 0x4180 then some (s.irqVec ((a % 128) / 4) s.pend)
  else if 0x4180 ≤ a && a < 0x4300 then some (s.irqVec ((a % 128) / 4) (fun g => (s.src g).masked))
  else if 0x4300 ≤ a && a < 0x4380 then some (s.irqVec ((a % 128) / 4) (fun g => (s.src g).svc != .no))
  else if 0x4380 ≤ a && a < 0x4400 then some (s.irqVec ((a % 128) / 4) (fun g => (s.src g).raw || (s.src g).line.isSome))
  else if 0x5400 ≤ a && a < 0x5800 && s.isCheck ((a - 0x5400) / 64) then some (s.rd (a - 64))
  else none

/-! ### The meanings -/

def execIrqCoreClaimRead (r : Requester) (s : State) : Host.Outcome State Fault Refusal :=
  .next (s.readBy (wordOf r R.IRQ_CORE_CLAIM .clean) (fun s => s.coreClaim r))
def execIrqCoreEoiWrite (r : Requester) (v : Word) (s : State) : Host.Outcome State Fault Refusal :=
  .next (s.writeBy (wordTo r R.IRQ_CORE_EOI v) (fun s => s.coreEoi v))
def execIrqPendSetWrite (r : Requester) (w : Fin 32) (v : Word) (s : State) : Host.Outcome State Fault Refusal :=
  .next (s.writeBy (wordTo r (R.IRQ_PEND_SET w.val) v) (fun s => s.pendSet w.val v))
def execIrqPendClrWrite (r : Requester) (w : Fin 32) (v : Word) (s : State) : Host.Outcome State Fault Refusal :=
  .next (s.writeBy (wordTo r (R.IRQ_PEND_CLR w.val) v) (fun s => s.pendClr w.val v))
def execIrqMaskSetWrite (r : Requester) (w : Fin 32) (v : Word) (s : State) : Host.Outcome State Fault Refusal :=
  .next (s.writeBy (wordTo r (R.IRQ_MASK_SET w.val) v) (fun s => s.maskSet w.val v))
def execIrqMaskClrWrite (r : Requester) (w : Fin 32) (v : Word) (s : State) : Host.Outcome State Fault Refusal :=
  .next (s.writeBy (wordTo r (R.IRQ_MASK_CLR w.val) v) (fun s => s.maskClr w.val v))
def execIrqSrcCfgWrite (r : Requester) (g : Fin 512) (v : Word) (s : State) : Host.Outcome State Fault Refusal :=
  .next (s.writeBy (wordTo r (R.IRQ_SRC_CFG g.val) v) (fun s => s.srcCfg g.val v))
def execIrqFallback (g : Fin 512) (s : State) : Host.Outcome State Fault Refusal := .next (s.fallBack g.val)

end Sys2Proof.Machine
end

