-- ==== Sys2Proof/Machine/Engines.lean ====
section
/-! DEFINITION. Ezene microengines (R148 to R180): microwords and nanowords, the data path, passes, traps, control and
twin pairs. An engine's G and T registers, its save slots and counters stand in the registers' words. -/

namespace Sys2Proof.Machine

open Sys2Proof

/-! ### Words (R150, R152) -/

/-- A nanoword's fields (Table 7.4), in a word of 96 bits. -/
structure Nano where
  v : Nat
  deriving DecidableEq, Repr

def Nano.f (x : Nano) (lo len : Nat) : Nat := (x.v >>> lo) % 2 ^ len
def Nano.alu (x : Nano) : Nat := x.f 0 4
def Nano.srcA (x : Nano) : Nat := x.f 4 5
def Nano.srcB (x : Nano) : Nat := x.f 9 5
def Nano.dst (x : Nano) : Nat := x.f 14 5
def Nano.sfield (x : Nano) : Nat := x.f 19 4
def Nano.imm (x : Nano) : Nat := x.f 23 24
def Nano.cond (x : Nano) : Nat := x.f 47 6
def Nano.cinv (x : Nano) : Bool := x.v.testBit 53
def Nano.wait (x : Nano) : Bool := x.v.testBit 54
def Nano.sxOp (x : Nano) : Nat := x.f 55 2
def Nano.lcOp (x : Nano) : Nat := x.f 57 2
def Nano.fupd (x : Nano) : Bool := x.v.testBit 59
def Nano.side (x : Nano) : Nat := x.f 60 3
def Nano.trg (x : Nano) : Nat := x.f 63 6
def Nano.trgOp (x : Nano) : Nat := x.f 69 2
def Nano.trk (x : Nano) : Nat := x.f 71 4
def Nano.maddr (x : Nano) : Nat := x.f 75 2
def Nano.entry (x : Nano) : Bool := x.v.testBit 77
/-- Does an operand or the destination name a code? CMP ignores DST (Table 7.7). -/
def Nano.reads (x : Nano) (c : Nat) : Bool := x.srcA == c || x.srcB == c
def Nano.writes (x : Nano) (c : Nat) : Bool := x.dst == c && x.alu != 15

/-- The microword that engine `n` executes next. -/
def State.uword (s : State) (n : Nat) : Nat := (s.rd (R.UWORD n (s.eng n).upc)).toNat
def uNa (u : Nat) : Nat := u % 2048
def uNwi (u : Nat) : Nat := u / 2048 % 1024
def uBsel (u : Nat) : Nat := u / 2 ^ 21 % 8

/-- The nanoword it names. -/
def State.nword (s : State) (n : Nat) : Nano :=
  let k := uNwi (s.uword n)
  ⟨(List.range 4).foldl (fun v w => v + ((s.rd (R.NWORD n k w)).toNat % 2 ^ 24) <<< (24 * w)) 0⟩

/-! ### The ALU (R155) -/

structure AluOut where
  res : Nat
  c : Bool
  v : Bool
  deriving DecidableEq, Repr

/-- The ALU on 24-bit operands (Table 7.7). -/
def alu (op a b : Nat) (cin : Bool) : AluOut :=
  let m := 2 ^ 24
  let neg := fun (x : Nat) => x.testBit 23
  let sum := fun (k : Nat) => let r := a + b + k; AluOut.mk (r % m) (decide (m ≤ r)) (neg a == neg b && neg (r % m) != neg a)
  let dif := fun (k : Nat) => let r := (a + 2 * m - b - k) % m; AluOut.mk r (decide (a < b + k)) (neg a != neg b && neg r != neg a)
  let sh := b % 32
  match op with
  | 0 => ⟨a, false, false⟩
  | 1 => sum 0
  | 2 => dif 0
  | 3 => ⟨a &&& b, false, false⟩
  | 4 => ⟨a ||| b, false, false⟩
  | 5 => ⟨a ^^^ b, false, false⟩
  | 6 => ⟨(a <<< sh) % m, decide (0 < sh) && decide (sh ≤ 24) && a.testBit (24 - sh), false⟩
  | 7 => ⟨a >>> sh, decide (0 < sh) && decide (sh ≤ 24) && a.testBit (sh - 1), false⟩
  | 8 => ⟨if 24 ≤ sh then (if neg a then m - 1 else 0) else ((a >>> sh) + (if neg a then m - 2 ^ (24 - sh) else 0)) % m,
      decide (0 < sh) && (if sh ≤ 24 then a.testBit (sh - 1) else neg a), false⟩
  | 9 => ⟨min a b, false, false⟩
  | 10 => ⟨max a b, false, false⟩
  | 11 => sum (toBit cin)
  | 12 => dif (toBit cin)
  | 13 => ⟨a * b % m, false, false⟩
  | 14 => ⟨a * b / m % m, false, false⟩
  | _ => dif 0

/-! ### Reading -/

/-- The address of G register `i` of engine `n`: the trap bank in TRAP (R165, R166). -/
def State.gAddr (s : State) (n i : Nat) : Nat :=
  if (s.eng n).trapped && 12 ≤ i then R.SHD_ENG_T n i else R.SHD_ENG_G n i

/-- The stall that SX names. -/
def engStall (n sx : Nat) : Nat := 24 * n + sx

/-- A register of stall SX as an operand (Table 7.6). -/
def State.stlField (s : State) (n sx sf : Nat) : Nat :=
  let k := engStall n sx
  let w := match sf with
    | 0 => s.rd (R.STL_CTL k)
    | 1 => s.rd (R.STL_CFG k)
    | 2 => s.rd (R.STL_IO k)
    | 3 => s.rd (R.STL_FLAGS k)
    | 4 => s.rd (R.STL_IEN k)
    | 5 => (s.stlView k 0x14).getD 0
    | 6 => s.rd (R.STL_CNT k)
    | 7 => s.rd (R.STL_PERIOD k)
    | 8 => s.rd (R.STL_CMP_A k)
    | 9 => s.rd (R.STL_CMP_B k)
    | 10 => s.rd (R.STL_CAP k)
    | 11 => s.rd (R.STL_PERIOD_ACT k)
    | 12 => s.rd (R.STL_CMP_A_ACT k)
    | 13 => s.rd (R.STL_CMP_B_ACT k)
    | 14 => BitVec.ofNat 32 (s.stlPend n)
    | _ => s.snapRd (.eng (Fin.ofNat 16 n)) (R.STL_CNT_SNAP k)
  w.toNat % 2 ^ 24

/-- The stall whose save slot is in use (R166). -/
def State.slotStall (s : State) (n : Nat) : Nat := 24 * n + (s.eng n).trapSx

/-- The manger address of MADDR 0 to 2 (Table 7.9). -/
def State.mgrAddr (s : State) (n : Nat) (x : Nano) : Nat :=
  let i := x.imm % 256
  match x.maddr with
  | 0 => i
  | 1 => (i + (s.rd (s.gAddr n 15)).toNat) % 256
  | _ => (i + 8 * (s.eng n).sx) % 256

/-- The manger word, or the save word under MADDR 3. -/
def State.mgrRead (s : State) (n : Nat) (x : Nano) (bad : Bool) : Nat :=
  if x.maddr = 3 then (s.rd (R.STL_SAVE (s.slotStall n) (x.imm % 8))).toNat % 2 ^ 24
  else if bad then 0 else Sparse.get (fun _ => 0) (s.eng n).manger (s.mgrAddr n x)

/-- An operand (Table 7.5). `pulled` is the word of a pull. -/
def State.engOperand (s : State) (n : Nat) (x : Nano) (code pulled : Nat) (bad : Bool) : Nat :=
  let e := s.eng n
  let sn := s.snapOf x.trk
  if code < 16 then (s.rd (s.gAddr n code)).toNat % 2 ^ 24
  else match code with
    | 16 => x.imm
    | 17 => e.sx
    | 18 => e.lc
    | 19 => s.stlField n e.sx x.sfield
    | 20 => s.mgrRead n x bad
    | 21 => pulled
    | 22 => s.now.toNat % 2 ^ 24
    | 23 => s.tb.phase % 2 ^ 24
    | 24 => sn.a / 65536
    | 25 => sn.q % 2 ^ 24
    | 26 => sn.st.code + 8 * toBit sn.arm + 16 * toBit sn.dir + 32 * toBit sn.halted
    | 27 => s.tb.beat.toNat
    | 28 => if e.trapped then (s.rd (R.STL_SAVE (s.slotStall n) 4)).toNat % 2 ^ 24 else 0
    | _ => n + 16 * toBit (s.isLead n) + 32 * toBit (s.isCheck n)

/-- A condition (Table 7.8), with SX, LC, flags and POISON as in `e`. -/
def State.engCond (s : State) (n : Nat) (e : Eng) (x : Nano) : Bool :=
  let c := x.cond
  let sn := s.snapOf x.trk
  let v :=
    if 8 ≤ c && c < 15 then decide (e.sx < 24) && (s.rd (R.STL_FLAGS (engStall n e.sx))).getLsbD (c - 8)
    else if 16 ≤ c && c < 32 then s.pend (priv (s.engOf n) (c - 16))
    else match c with
      | 0 => true
      | 1 => e.z
      | 2 => e.n
      | 3 => e.c
      | 4 => e.v
      | 5 => e.lc == 0
      | 6 => e.sx == 31
      | 7 => e.poison
      | 15 => decide (e.sx < 24) && s.b (F.STL_STAT_DOWN (engStall n e.sx))
      | 32 => decide (0 < s.trgUnread x.trg)
      | 33 => decide (0 < s.trgSpace x.trg)
      | 34 => decide ((s.now.toNat + 2 ^ 24 - (s.rd (s.gAddr n 14)).toNat % 2 ^ 24) % 2 ^ 24 < 2 ^ 23)
      | 35 => decide (s.P ≤ s.tb.phase + 128)
      | 36 => sn.arm
      | 37 => sn.halted
      | 38 => sn.dir
      | _ => false
  v != x.cinv

/-! ### Legality and waiting (R153 to R159, Table 7.11) -/

/-- The word at UPC is illegal. A CMP word whose ignored DST names a reserved code, 21 beside a pull, or 19 without a stall is
taken as illegal too (DEDUCED, log entry 137). -/
def State.engIllegal (s : State) (n : Nat) : Bool :=
  let e := s.eng n
  let u := s.uword n
  let x := s.nword n
  let stall := (x.reads 19 || x.dst == 19) && x.sfield != 14
  decide (s.f (F.SHD_ENG_LIMIT_UW_LIMIT n) ≤ e.upc) || decide (s.f (F.SHD_ENG_LIMIT_NW_LIMIT n) ≤ uNwi u)
    || decide (30 ≤ x.srcA) || decide (30 ≤ x.srcB) || decide (22 ≤ x.dst) || (x.reads 21 && x.dst == 21)
    || decide (39 ≤ x.cond) || (decide (24 ≤ e.sx) && (stall || (decide (1 ≤ x.side) && decide (x.side ≤ 3))))
    || (x.maddr == 3 && (x.reads 20 || x.dst == 20) && !e.trapped)
    || (x.side == 6 && e.trapped) || (uBsel u == 7 && !e.trapped)

/-- CALL with a full stack, or RET with an empty one. -/
def State.engStackBad (s : State) (n : Nat) : Bool :=
  let e := s.eng n
  let b := uBsel (s.uword n)
  (b == 3 && decide (4 ≤ e.stk.length)) || (b == 4 && e.stk.isEmpty)

/-- The word must wait (R159). -/
def State.engMustWait (s : State) (n : Nat) : Bool :=
  let e := s.eng n
  let x := s.nword n
  (x.wait && !e.waitOver && !s.engCond n e x) || (x.reads 21 && !s.agentCanPull x.trg (engAgent (s.engOf n)) e.cut)
    || (x.writes 21 && !s.agentCanPush x.trg (engAgent (s.engOf n)) e.cut)

/-- Cycles of the word (Table 7.10). -/
def State.engCycles (s : State) (n : Nat) : Nat :=
  let x := s.nword n
  let b := uBsel (s.uword n)
  let own := b == 2 || (b == 1 && decide (1 ≤ x.cond) && decide (x.cond ≤ 4) && (x.fupd || x.alu == 15))
    || ((b == 5 || (b == 1 && x.cond == 5)) && (x.lcOp != 0 || x.dst == 18)) || (b == 1 && x.cond == 6 && (x.sxOp != 0 || x.dst == 17))
  1 + toBit (x.reads 19) + toBit (x.alu == 13 || x.alu == 14) + 2 * toBit (x.reads 21) + toBit own

/-! ### Effects (R157, R158) -/

/-- What a word does: its engine afterwards, its result, the register and manger writes, its visible effects. -/
structure EngOut where
  e : Eng
  res : Nat
  effs : List EngEff

/-- SX after SX_OP (Table 7.9). -/
def State.sxNext (s : State) (n : Nat) (x : Nano) (sx : Nat) : Nat :=
  match x.sxOp with
  | 1 => if sx < 23 then sx + 1 else if sx = 23 then 31 else if sx = 31 then 0 else 31
  | 2 => x.imm % 32
  | 3 =>
    let from_ := if sx = 31 then 0 else sx + 1
    match ((List.range 24).filter (fun i => decide (from_ ≤ i))).find?
        (fun i => (s.rd (R.STL_FLAGS (engStall n i))).toNat % 128 &&& s.f (F.SHD_ENG_SCANMASK_MASK n) != 0) with
    | some i => i
    | none => 31
  | _ => sx

/-- The effects of the word at UPC on operand `pulled` (with its poison tag): everything but the next address. SX_OP and LC_OP
start from the registers before the word, and stand against a DST write (R157). A stall write is a visible effect whatever
its field (DEDUCED, log entry 137). -/
def State.engEval (s : State) (n pulled : Nat) (poison bad : Bool) : EngOut :=
  let e := s.eng n
  let x := s.nword n
  let a := s.engOperand n x x.srcA pulled bad
  let b := s.engOperand n x x.srcB pulled bad
  let o := alu x.alu a b e.c
  let r := o.res
  let fl := x.fupd || x.alu == 15
  let lc := match x.lcOp with | 1 => x.imm % 4096 | 2 => r % 4096 | 3 => e.lc - 1 | _ => if x.writes 18 then r % 4096 else e.lc
  let sx := if x.sxOp = 0 && x.writes 17 then r % 32 else s.sxNext n x e.sx
  let mgr := if x.writes 20 && x.maddr != 3 then Sparse.set (fun _ => 0) e.manger (s.mgrAddr n x) r else e.manger
  let e1 := { e with z := if fl then r == 0 else e.z, n := if fl then r.testBit 23 else e.n, c := if fl then o.c else e.c
                     v := if fl then o.v else e.v, lc := lc, sx := sx, manger := mgr, last := r, lastAddr := e.upc
                     poison := if x.reads 21 then poison else e.poison, soft := x.side == 6, waiting := false, waitOver := false }
  let k := engStall 0 e.sx
  let effs := (if x.reads 21 then [EngEff.pull x.trg] else []) ++ (if x.writes 19 then [.stl k x.sfield r] else [])
    ++ (if x.side != 0 && x.side != 6 then [.side x.side (if x.side = 7 then x.imm % 16 else k)] else [])
    ++ (if x.writes 21 then [.push x.trg r] else []) ++ (if x.trgOp != 0 then [.trgOp x.trg x.trgOp] else [])
  ⟨{ e1 with vis := if x.entry then !effs.isEmpty else e.vis || !effs.isEmpty }, r, effs⟩

/-- A stall register written by an engine, under the field's access code (R154). -/
def State.stlFieldWr (s : State) (k sf v : Nat) : State :=
  let w := BitVec.ofNat 32 v
  let plain := fun (r : Nat → Nat) => s.stlPlain k r (s.plainWord (r k) w)
  match sf with
  | 0 => s.stlCtl k w
  | 1 => plain R.STL_CFG
  | 2 => plain R.STL_IO
  | 3 => s.stlFlagsWr k w
  | 4 => plain R.STL_IEN
  | 6 => s.stlCnt k w
  | 7 => s.stlValue k 0 w
  | 8 => s.stlValue k 1 w
  | 9 => s.stlValue k 2 w
  | _ => s

/-- One visible effect acts; the pull has been made. Stall numbers count within the shed. -/
def State.engAct (s : State) (n : Nat) (x : EngEff) : State :=
  match x with
  | .stl k sf v => s.stlFieldWr (24 * n + k) sf v
  | .side kind k =>
    let g := 24 * n + k
    match kind with
    | 1 => if s.f (F.STL_CFG_CLK_SRC g) = 3 then s.stlStep g else s
    | 2 => s.stlRestart g
    | 3 => s.stlRun g false
    | 4 => s.pulse (80 + n)
    | 5 => s.pulse (96 + n)
    | 7 => s.pendClr1 (priv n k)
    | _ => s
  | .done | .resumed => s
  | .push q v => s.agentPush q (engAgent (s.engOf n)) (s.eng n).cut v false
  | .pull _ => s
  | .trgOp q op =>
    match op with
    | 1 => s.trgRelease q (s.trgMod q)
    | 2 => s.trgMark q
    | _ => s.trgRewind q

/-- An effect that acts in the tick after the word's last cycle (R161). -/
def EngEff.later : EngEff → Bool
  | .stl _ _ _ => true
  | .side k _ => decide (1 ≤ k) && decide (k ≤ 3)
  | .done | .resumed => true
  | _ => false

/-- A word's effect acts: now, or one engine cycle later (R161). -/
def State.engEff (s : State) (n : Nat) (x : EngEff) : State :=
  if x.later then s.setEng n { s.eng n with out := (s.eng n).out ++ [(s.now + 2, x)] } else s.engAct n x

/-- In IDLE an engine stops where it stands; in DONE it has no start request any more, as its first pass comes with the tick
200 after IDLE (R173). -/
def State.engStop (s : State) (n : Nat) : State :=
  let e := s.eng n
  if s.mode ≠ 3 then s
  else if e.st = .done then (s.setEng n { e with frozen := true, startHeld := false }).setPart n { s.part n with queued := none }
  else s.setEng n { e with frozen := true }

/-- A RESUME is complete: the engine leaves TRAP, for DONE or RUN, and its service ends (R169, R368). -/
def State.engResumed (s : State) (n : Nat) : State :=
  let e := s.eng n
  ((s.setEng n { e with trapped := false, inDone := false, st := if e.inDone then .done else .run }).endService n).engStop n

/-- What one engine has on its way and is due acts; the end of a pass is the participant's done signal (R163). -/
def State.engLand (s : State) (n : Nat) : State :=
  let e := s.eng n
  let due := e.out.filter (fun o => s.reached o.1)
  if due.isEmpty then s
  else
    due.foldl (fun s o => if o.2 = .done then s.partDoneAt n o.1 else if o.2 = .resumed then s.engResumed n else s.engAct n o.2)
      (s.setEng n { e with out := e.out.filter (fun o => !s.reached o.1) })

/-- Engine writes act as step 3 of R139: after the bus writes of their tick, before its event actions. -/
def State.engFlush (s : State) : State := overList (List.range 16) State.engLand s

/-- The bits that a save word has (Table 7.12). -/
def saveBits (w : Nat) : Nat := match w with | 0 => 19 | 1 => 20 | 2 => 22 | 3 => 22 | 4 => 12 | 6 => 11 | _ => 24

/-- The register write of a result: G (in its bank), or a save word through MADDR 3. -/
def State.engDst (s : State) (n : Nat) (x : Nano) (r : Nat) : State :=
  if x.writes x.dst && x.dst < 16 then s.wr (s.gAddr n x.dst) (BitVec.ofNat 32 r)
  else if x.writes 20 && x.maddr == 3 then
    s.wr (R.STL_SAVE (s.slotStall n) (x.imm % 8)) (BitVec.ofNat 32 (r % 2 ^ saveBits (x.imm % 8)))
  else s

/-- Restore from the slot in use, over 4 cycles, at whose end the engine leaves TRAP (R169). A DEPTH above 4, which only a handler can write, is taken as 4 (DESIGN CHOICE, log
entry 144). -/
def State.engResume (s : State) (n : Nat) : State :=
  let e := s.eng n
  let k := s.slotStall n
  let w := fun i => s.rd (R.STL_SAVE k i)
  let depth := min 4 (getBits (w 1) 17 3)
  let stk := [getBits (w 2) 0 11, getBits (w 2) 11 11, getBits (w 3) 0 11, getBits (w 3) 11 11].take depth
  let inDone := (w 0).getLsbD 18
  s.setEng n { e with upc := getBits (w 0) 0 11, z := (w 0).getLsbD 11, n := (w 0).getLsbD 12, c := (w 0).getLsbD 13
                      v := (w 0).getLsbD 14, vis := (w 0).getLsbD 15, sx := getBits (w 1) 0 5, lc := getBits (w 1) 5 12
                      stk := stk, inDone := inDone, ready := s.now + 2 + (if inDone then 8 else 12)
                      out := e.out ++ [(s.now + 10, .resumed)] }

/-- The next address (Table 7.3), after the word's own effects; stall conditions read the state `s0` before them (R161). -/
def State.engNext (s s0 : State) (n u res : Nat) (x : Nano) : State :=
  let e := s.eng n
  let na := uNa u
  let stallCond := 8 ≤ x.cond && x.cond ≤ 15
  let c := if stallCond then s0.engCond n e x else s.engCond n e x
  let go := fun (e : Eng) (a : Nat) => s.setEng n { e with upc := a, ready := s.now + 2 }
  match uBsel u with
  | 0 => go e na
  | 1 => go e (na / 2 * 2 + toBit c)
  | 2 => go e (na / 16 * 16 + res % 16)
  | 3 => go { e with stk := e.stk ++ [na] } (x.imm % 2048)
  | 4 => go { e with stk := e.stk.dropLast } (e.stk.getLastD 0)
  | 5 => if e.lc ≠ 0 then go { e with lc := e.lc - 1 } (na / 2 * 2) else go e (na / 2 * 2 + 1)
  | 6 => (s.setEng n { e with upc := na, st := .done, ready := s.now + 2 + (if e.startHeld then 4 else 0) }).engEff n .done
  | _ => s

/-- FAULT (R170): nothing executes; service ends; the pins are held by `heldSafe`. -/
def State.engFault (s : State) (n : Nat) : State :=
  let e := s.eng n
  (((s.setEng n { e with st := .fault, trapped := false, waiting := false, cut := false, out := e.out.filter (fun o => o.2 != .resumed) }).endService n).log
    .shdEngHalted n 0).pulse (112 + n)

/-- A word's effects on its own engine and, for the lead, on the device: those of `keep` act. -/
def State.engRun (s : State) (n : Nat) (o : EngOut) (keep : List EngEff) : State :=
  let u := s.uword n
  let x := s.nword n
  let e := s.eng n
  let resume := uBsel u = 7
  let e1 := if resume then { o.e with z := e.z, n := e.n, c := e.c, v := e.v, sx := e.sx, lc := e.lc } else o.e
  let s1 := (s.engDst n x o.res).setEng n e1
  let s2 := keep.foldl (fun s f => s.engEff n f) s1
  let s2 := s2.setEng n { s2.eng n with cut := false }
  (if resume then s2.engResume n else s2.engNext s n u o.res x).engStop n

/-- The engines' clock runs, and the mode is one in which they execute; in IDLE an engine goes on to its next word boundary
(R173). -/
def State.engClock (s : State) : Bool := s.tb.running && decide (2 ≤ s.mode)

/-- An engine cycle begins in this tick (R148). -/
def State.engCycle (s : State) : Bool := s.now.toNat % 2 == 0

/-- The tick in which the next engine cycle begins, or the present one. -/
def State.nextCycle (s : State) : Time := s.now + BitVec.ofNat 48 (s.now.toNat % 2)

/-- May the engine execute: its clock runs, RUN or TRAP, not stopped or parked, no software trap waiting (R172, R173). -/
def State.engReady (s : State) (n : Nat) : Bool :=
  let e := s.eng n
  s.engClock && e.st == .run && !e.frozen && !s.engParked n && !e.soft

/-- A word boundary, or a waiting word: no word has begun that still runs (R164). -/
def State.engFree (s : State) (n : Nat) : Bool :=
  let e := s.eng n
  e.waiting || s.reached e.ready

/-- An interrupt trap is due: after the word in which its source was presented, or, from a waiting word and from DONE, in the
cycle after that of the presentation (R164, R166). In IDLE none is taken (R173). -/
def State.engIrqDue (s : State) (n : Nat) : Bool :=
  let e := s.eng n
  s.engClock && s.mode != 3 && s.engTakes n && (match e.irq with
    | some (g, t) => s.engSource n == some g &&
        (if e.waiting || e.st == .done then s.reached (t + BitVec.ofNat 48 (2 + t.toNat % 2)) else !s.engInWord n t)
    | none => false)

/-- The condition that the word waits for has held (R159). -/
def State.condMet (s : State) (n : Nat) : Bool :=
  let e := s.eng n
  let x := s.nword n
  !x.wait || e.waitOver || s.engCond n e x

/-- An operand that reads CNT latches the chain for the engine (R154). -/
def State.engLatch (s : State) (n : Nat) : State :=
  let x := s.nword n
  if x.reads 19 && x.sfield = 6 then s.cntLatch (.eng (Fin.ofNat 16 n)) (engStall n (s.eng n).sx) else s

/-- The stalls that the word at UPC reads: the counted steps of this tick come first (R161). -/
def State.engStalls (s : State) (n : Nat) : List Nat :=
  let x := s.nword n
  let sx := (s.eng n).sx
  if x.sxOp = 3 || (x.reads 19 && x.sfield = 14) || (16 ≤ x.cond && x.cond < 32) then (List.range 24).map (engStall n)
  else if (x.reads 19 || (8 ≤ x.cond && x.cond < 16)) && sx < 24 then [engStall n sx]
  else []

/-- The engines that run together: a twin pair, or the one (R175). -/
def State.engPair (s : State) (n : Nat) : List Nat := if s.isLead n then [n, n + 1] else [n]

/-- A cycle of the word at UPC may run: it neither waits nor traps. -/
def State.engCan (s : State) (n : Nat) : Bool :=
  s.engReady n && s.engCycle && !(s.eng n).waiting && !s.engIllegal n && !s.engStackBad n

/-- This is the last cycle of the word at UPC. -/
def State.engActs (s : State) (n : Nat) : Bool :=
  s.engCan n && !s.engMustWait n && s.reached ((s.eng n).ready + BitVec.ofNat 48 (2 * (s.engCycles n - 1)))

/-- A word that must wait begins to (R159). -/
def State.engHold (s : State) (n : Nat) : State :=
  if s.engCan n && s.engMustWait n && s.reached (s.eng n).ready then
    (s.setEng n { s.eng n with waiting := true, waitOver := s.condMet n }).engStop n
  else s

/-- What the words of a twin pair, or of the one engine, read of a trough: the word pulled, if the lead acts and the pull is
made. A pull that the check engine does not make in the same cycle is not made (R175). -/
def State.engPull (s : State) (n : Nat) (trgBad : Bool) : State × Nat × Bool :=
  let x := s.nword n
  let y := s.nword (n + 1)
  let r := (s.spoil x.trg trgBad).agentPull x.trg (engAgent (s.engOf n)) (s.eng n).cut
  let made := !s.isLead n || (s.engActs (n + 1) && y.reads 21 && y.trg == x.trg)
  if s.engActs n && x.reads 21 then (if made then r.1 else s, r.2) else (s, 0, false)

/-- A word's read of the manger with bad parity (R157). -/
def State.mgrLog (s : State) (n : Nat) (bad : Bool) : State :=
  let x := s.nword n
  if bad && x.reads 20 && x.maddr != 3 then s.logOnce .shdMangerParity n 0 else s

/-- A cycle of a twin pair in which a word ends in either engine: the comparison comes before any effect, and what differs is
not done. `a` and `b` say in which of the two a word ends. A trap cause that the check engine alone finds is a mismatch too (R175; DEDUCED, log entry 137). -/
def State.engPairDoes (s : State) (n : Nat) (bad : Bool) (d : Nat) (p a b : Bool) : State :=
  let bad2 := (s.eng (n + 1)).mgrBad
  let o := s.engEval n d p bad
  let o2 := s.engEval (n + 1) d p bad2
  let mine := if a then o.effs else []
  let other := if b then o2.effs else []
  let same := decide (mine = other) && !(a && (s.engIllegal (n + 1) || s.engStackBad (n + 1)))
  let s1 := if a then ((s.mgrLog n bad).engLatch n).engRun n o (mine.filter (fun f => other.contains f)) else s
  let s2 := if b then ((s1.mgrLog (n + 1) bad2).engLatch (n + 1)).engRun (n + 1) o2 [] else s1
  if same then s2 else ((s2.engFault n).engFault (n + 1)).log .shdEngTwinMismatch n (n / 2)

/-- The last cycle of a word: what it reads, and what it does. -/
def State.engDoes (s : State) (n : Nat) (bad trgBad : Bool) : State :=
  let r := s.engPull n trgBad
  if s.isLead n then
    let s1 := r.1.engPairDoes n bad r.2.1 r.2.2 (s.engActs n) (s.engActs (n + 1))
    s1.setEng (n + 1) { s1.eng (n + 1) with mgrBad := false }
  else
    let o := r.1.engEval n r.2.1 r.2.2 bad
    ((r.1.mgrLog n bad).engLatch n).engRun n o o.effs

/-- ENGINE_WORD (R158): one word of an engine, or of a twin pair, in the cycle that ends it. `bad` and `trgBad` say that the
manger word it reads, or the trough word it pulls, has bad parity; the row of a check engine says this of its own manger word
alone, before the lead's. -/
def State.engWord (s : State) (n : Nat) (bad trgBad : Bool) : State :=
  if s.isCheck n then s.setEng n { s.eng n with mgrBad := (s.eng n).mgrBad || bad }
  else
    let s := overList ((s.engFlush.engPair n).flatMap s.engFlush.engStalls) State.stlDue s.engFlush
    if s.engIrqDue n then s
    else
      let s1 := overList (s.engPair n) State.engHold s
      if (s1.engPair n).any s1.engActs then s1.engDoes n bad trgBad else s1

/-- ENGINE_WAIT_END (R159). -/
def State.engWaitEnd (s : State) (n : Nat) : State :=
  if s.isCheck n || s.engIrqDue n then s
  else overList (s.engPair n) (fun x k =>
    if s.engReady k && s.engCycle && (s.eng k).waiting then
      let ready := !s.engMustWait k
      x.setEng k { x.eng k with waiting := !ready, waitOver := ready || s.condMet k, ready := x.now }
    else x) s

/-- The first cycle of a word of several cycles: whether it waits, and whether its condition has held (R159; the test at the
start of the cycle: DEDUCED, log entry 138). -/
def State.engFirst (s : State) (n : Nat) : State :=
  let e := s.eng n
  if e.ready = s.now && s.engCan n && !s.engIrqDue (s.engOf n) && 1 < s.engCycles n then
    let s1 := s.setEng n { e with waiting := s.engMustWait n, waitOver := s.condMet n }
    if (s1.eng n).waiting then s1.engStop n else s1
  else s

/-- The first cycles of the words that IDLE has held (R173). -/
def State.engFirsts (s : State) : State := overList (List.range 16) State.engFirst s

/-! ### Passes (R162, R163) -/

/-- The engine's done signal (R163). -/
def State.engDone (s : State) (n : Nat) : Bool :=
  let e := s.eng n
  s.engAway n || (e.st == .done && !e.startHeld) || (e.trapped && e.inDone)

/-- The start request of tick 200 (R162); RESET released with a valid image reaches DONE here (R172), in a twin pair with a
valid image in both engines (R29). -/
def State.engStart (s : State) (n : Nat) : State :=
  let e := s.eng n
  let valid := fun (k : Nat) => s.b (F.SHD_ENG_IMAGE_VALID k)
  match e.st with
  | .fault | .loading => s
  | .reset =>
    if !s.b (F.SHD_ENG_CTL_RST n) && valid n && (!s.isLead n || valid (n + 1)) && (!s.isCheck n || valid (n - 1)) then
      s.setEng n { e with st := .done, upc := s.f (F.SHD_ENG_ENTRY_ENTRY n), startHeld := true, ready := s.now }
    else s
  | _ =>
    if e.startHeld then (s.bump (R.SHD_ENG_SKIP n)).logOnce .shdEngPassSkipped n 0
    else s.setEng n { e with startHeld := true }

/-- ENGINE_PASS_START (R162). -/
def State.engPass1 (s : State) (n : Nat) : State :=
  let e := s.eng n
  if e.st = .done && e.startHeld && !s.engParked n && s.engClock && s.mode != 3 && s.engCycle && !s.engIrqDue n then
    s.setEng n { e with st := .run, sx := 31, stk := [], vis := false, startHeld := false
                        ready := if s.reached e.ready then s.now else e.ready }
  else s

/-- The passes of an engine or a pair, with the first cycle of their first word. -/
def State.engPass (s : State) (n : Nat) : State :=
  if s.isCheck n then s else overList (s.engPair n) (fun s n => (s.engPass1 n).engFirst n) s

/-! ### Traps (R164 to R171) -/

/-- The save word 4 of a trap (Table 7.12). -/
def causeWord (kind : Nat) (g : Option Nat) : Nat :=
  match g with
  | some g => (if 256 ≤ g then g % 16 else g + 256) + kind * 512
  | none => kind * 512

/-- Save, switch the bank and go to the vector (R166); `lag` is the ticks to the first save cycle. -/
def State.engTrap (s : State) (n kind : Nat) (g : Option Nat) (lag : Nat) : State :=
  let e := s.eng n
  let k := if e.sx < 24 then e.sx else 0
  let done := e.st = .done
  let stk := fun i => (e.stk.getD i 0)
  let cause := causeWord kind g
  let words : List Nat := [e.upc + toBit e.z * 2 ^ 11 + toBit e.n * 2 ^ 12 + toBit e.c * 2 ^ 13 + toBit e.v * 2 ^ 14
      + toBit e.vis * 2 ^ 15 + toBit e.waiting * 2 ^ 16 + toBit e.poison * 2 ^ 17 + toBit done * 2 ^ 18,
    e.sx + e.lc * 2 ^ 5 + e.stk.length * 2 ^ 17, stk 0 + stk 1 * 2 ^ 11, stk 2 + stk 3 * 2 ^ 11, cause, (s.now.toNat + lag) % 2 ^ 24,
    if e.waiting || 2 ≤ kind then e.upc else e.lastAddr, e.last]
  let s1 := (words.foldl (fun (x : State × Nat) w => (x.1.wr (R.STL_SAVE (24 * n + k) x.2) (BitVec.ofNat 32 w), x.2 + 1)) (s, 0)).1
  let vec := if kind < 2 then s.f (F.SHD_ENG_VEC_IRQ_VEC n) else s.f (F.SHD_ENG_VEC_FAULT_VEC n)
  let s2 := (s1.setEng n { e with st := .run, trapped := true, inDone := done, waiting := false, waitOver := false, cut := false, soft := false
                                  stk := [], trapSx := k, upc := vec, ready := s.now + BitVec.ofNat 48 (12 + lag) }).bump (R.SHD_ENG_TRAPS n)
  s2.wr (R.SHD_ENG_CAUSE n) (BitVec.ofNat 32 cause)

/-- A fault cause of one engine: a trap, or FAULT from TRAP (R170, R171). Found in a waiting word or in DONE, the cause is
present for one cycle before the first save cycle (R166). -/
def State.engFaultTrap (s : State) (n kind : Nat) (c : LogCode) : State :=
  let s1 := s.log c n 0
  let s2 := if kind = 4 then s1.setEng n { s1.eng n with eccSafe := true } else s1
  let e := s2.eng n
  if e.trapped then s2.engFault n
  else (((s2.engTrap n kind none (if e.waiting || e.st = .done then 2 else 0)).bump (R.SHD_ENG_FAULTS n))).pulse (112 + n)

/-- Both engines of a pair, or the one. -/
def State.engBoth (s : State) (n : Nat) (f : State → Nat → State) : State :=
  if s.isLead n then f (f s n) (n + 1) else f s n

/-- The engine is about to execute a word: in RUN, or in DONE with a start request (Table 7.11). -/
def State.engNextUp (s : State) (n : Nat) : Bool :=
  let e := s.eng n
  !e.soft && (e.st == .run || (e.st == .done && e.startHeld))

/-- TRAP: at a word boundary or in a waiting word. SOFT comes before IRQ, and both before the causes of the next word (R164).
SIDE TRAP in a DONE word is taken after the next pass has started (DEDUCED, log entry 137). -/
def State.trapRow (s : State) (n : Nat) (c : TrapCause) : State :=
  let e := s.eng n
  let on := s.engClock && s.mode != 3 && s.engCycle && !s.isCheck n && !s.engParked n && s.engFree n
  let next := s.engNextUp n && !s.engIrqDue n
  if !on then s
  else match c with
    | .soft => if e.st = .run && e.soft then s.engBoth n (fun s n => s.engTrap n 1 none 0) else s
    | .irq =>
      match s.engSource n with
      | some g => if s.engIrqDue n && !e.soft then (s.engBoth n (fun s n => s.engTrap n 0 (some g) 0)).claim g (.engine n) else s
      | none => s
    | .illegal => if next && s.engIllegal n then s.engBoth n (fun s n => s.engFaultTrap n 2 .shdEngIllegal) else s
    | .stack =>
      if e.st = .run && next && !s.engIllegal n && s.engStackBad n then s.engBoth n (fun s n => s.engFaultTrap n 3 .shdEngStack) else s
    | .ecc => if next && !e.waiting then s.engBoth n (fun s n => s.engFaultTrap n 4 .shdUcodeEcc) else s

/-! ### Control (R172) -/

/-- What RST clears: G, SX, LC, flags, the stack, VIS and the held start. -/
def State.engClear (s : State) (n : Nat) (st : EngSt) : State :=
  let e := s.eng n
  let s1 := overList (List.range 16) (fun s i => s.wr (R.SHD_ENG_G n i) 0) s
  let s2 := overList [12, 13, 14, 15] (fun s i => s.wr (R.SHD_ENG_T n i) 0) s1
  s2.setEng n { eccSafe := e.eccSafe, manger := e.manger, st := st, ready := s.nextCycle, frozen := e.frozen
                out := e.out.filter (fun o => o.2 != .done && o.2 != .resumed) }

/-- RESET by ENG_CTL.RST, which ends the engine's service (R368). -/
def State.engReset (s : State) (n : Nat) : State := (s.engClear n .reset).endService n

/-- A word boundary lies at a tick, or the engine waits, is PARKED or stands in DONE: RST and a load act (R172, R178). -/
def State.engFreeAt (s : State) (n : Nat) (t : Time) : Bool := (!s.engInWord n t || s.engParked n) && (s.eng n).st != .loading

/-- A write of RST: at once, or at the end of the word in progress. -/
def State.engRst (s : State) (n : Nat) (b : Bool) : State :=
  if s.isCheck n then s
  else s.engBoth n (fun s n =>
    let s1 := s.setB (F.SHD_ENG_CTL_RST n) b
    if b && s.engFreeAt n s.now then s1.engReset n else s1)

/-- A load calls one engine into LOADING: at once, or at the end of the word in progress (R178), out of FAULT too (DEDUCED,
log entry 137). -/
def State.engCall (s : State) (n : Nat) : State :=
  if (s.eng n).st = .loading then s
  else if s.engFreeAt n s.now then s.engClear n .loading else s.setEng n { s.eng n with toLoad := true }

def State.engPark (s : State) (n : Nat) (b : Bool) : State :=
  if s.isCheck n then s
  else s.engBoth n (fun s n =>
    let e := s.eng n
    let s1 := s.setB (F.SHD_ENG_CTL_PARK n) b
    if b then (if s.b (F.SHD_ENG_CTL_PARK n) then s1 else s1.setEng n { e with parkAt := s.now })
    else if s.engParked n && s.reached e.ready then (s1.setEng n { e with ready := s.nextCycle }).engFirst n else s1)

/-- What an engine does at a tick by itself: a load or RST that has waited for the word boundary, and the first cycle of a
word. -/
def State.engTick1 (s : State) (n : Nat) : State :=
  let e := s.eng n
  if e.st = .reset then s
  else if s.engFreeAt n (s.now - 1) && e.toLoad then s.engClear n .loading
  else if s.engFreeAt n (s.now - 1) && s.b (F.SHD_ENG_CTL_RST n) then s.engReset n
  else s.engFirst n

def State.engTick (s : State) : State := overList (List.range 16) State.engTick1 s

/-- Entry to IDLE (R173, R382): an engine at a word boundary stops; one in DONE has no start request any more, as its first
pass comes with the tick 200 after IDLE. -/
def State.engIdle1 (s : State) (n : Nat) : State :=
  let e := s.eng n
  if e.st = .done then (s.setEng n { e with frozen := true, startHeld := false }).setPart n {}
  else if s.engInWord n (s.now - 1) && !s.engParked n then s
  else s.setEng n { e with frozen := true }

def State.engIdle (s : State) : State := overList (List.range 16) State.engIdle1 s

/-- Exit from IDLE: the held word goes on in the first cycle (R173). -/
def State.engWake (s : State) : State :=
  overList (List.range 16) (fun s n =>
    let e := s.eng n
    if e.frozen then s.setEng n { e with frozen := false, ready := s.nextCycle } else s) s

/-- A write of ENG_CTL as a whole. -/
def State.engCtl (s : State) (n : Nat) (v : Word) : State :=
  if s.isCheck n then s
  else ((s.engRst n (v.getLsbD 0)).engPark n (v.getLsbD 1)).engBoth n (fun s n => s.setB (F.SHD_ENG_CTL_IE n) (v.getLsbD 2))

/-! ### Status registers (Table 7.16) -/

def State.engStateCode (s : State) (n : Nat) : Nat :=
  let e := s.eng n
  if s.engParked n then 5
  else match e.st with
    | .reset => 0
    | .run => if e.trapped then 3 else if e.waiting then 2 else 1
    | .done => 4
    | .fault => 6
    | .loading => 7

def State.engView (s : State) (n off : Nat) : Option Word :=
  let e := s.eng n
  match off with
  | 0xC04 => some (packed [(s.engStateCode n, 0), (toBit (s.engDone n), 3), (toBit e.startHeld, 4), (toBit e.vis, 5), (e.sx, 6),
      (e.trapSx, 11), (toBit e.eccSafe, 16), (toBit (s.isLead n), 17), (toBit (s.isCheck n), 18)])
  | 0xC1C => some (packed [(s.f (F.SHD_ENG_PRIO_BASE n), 0), (s.engCur n, 4)])
  | 0xC94 => some (packed [(Sparse.get (fun _ => 0) e.manger (s.f (F.SHD_ENG_MGR_ADDR_ADDR n)), 0)])
  | _ => none

/-! ### The meanings -/

def execEnginePassStart (n : Fin 16) (s : State) : Host.Outcome State Fault Refusal := .next (s.engPass n.val)
def execEngineWord (n : Fin 16) (mgrBad trgBad : Bool) (s : State) : Host.Outcome State Fault Refusal :=
  .next (s.engWord n.val mgrBad trgBad)
def execEngineWaitEnd (n : Fin 16) (s : State) : Host.Outcome State Fault Refusal := .next (s.engWaitEnd n.val)
def execTrap (n : Fin 16) (cause : TrapCause) (s : State) : Host.Outcome State Fault Refusal := .next (s.trapRow n.val cause)
def execEngCtlRst (r : Requester) (n : Fin 16) (b : Bool) (s : State) : Host.Outcome State Fault Refusal :=
  .next (s.writeBy (fieldTo s r (F.SHD_ENG_CTL_RST n.val) (toBit b)) (fun s => s.engRst n.val b))
def execEngCtlPark (r : Requester) (n : Fin 16) (b : Bool) (s : State) : Host.Outcome State Fault Refusal :=
  .next (s.writeBy (fieldTo s r (F.SHD_ENG_CTL_PARK n.val) (toBit b)) (fun s => s.engPark n.val b))

end Sys2Proof.Machine
end

