-- ==== Sys2Proof/Machine/Runners.lean ====
section
/-! DEFINITION. Runners (R181 to R198): instruction words, issue, timed edges, shifting, troughs, starting and stopping,
injection, faults and the runner service. Registers TR, TF, D0, D1, LA, LB, SR, BC, S and F stand in the registers'
words. -/

namespace Sys2Proof.Machine

open Sys2Proof

/-! ### Instruction words (R182) -/

/-- What an instruction word is. -/
inductive RnOp where
  | nop | halt | irq | req | reqw | unreq | clrf | now | fine | clrsr | stamp | pin | addt | addd | wait | jmp | ldl
  | shift | push | pull | illegal
  deriving DecidableEq, Repr

/-- Bits [lo + len − 1 : lo] of an instruction word. -/
def ib (w lo len : Nat) : Nat := (w >>> lo) % 2 ^ len

/-- The instruction of a word: reserved codes and ones in bits marked 0 are illegal (Tables 8.3, 8.4). -/
def rnOp (w : Nat) : RnOp :=
  let ok := fun (b : Bool) (o : RnOp) => if b then o else .illegal
  match ib w 12 4 with
  | 0 =>
    let a := ib w 0 8
    match ib w 8 4 with
    | 0 => ok (a == 0) .nop
    | 1 => ok (a == 0) .halt
    | 2 => ok (a == 0) .irq
    | 3 => ok (a == 0) .req
    | 4 => ok (a == 0) .reqw
    | 5 => .unreq
    | 6 => ok (a / 16 == 0) .clrf
    | 7 => .now
    | 8 => ok (a / 32 == 0) .fine
    | 9 => ok (a == 0) .clrsr
    | 10 => ok (a == 0) .stamp
    | _ => .illegal
  | 1 => ok (ib w 8 2 != 3 && ib w 0 7 == 0) .pin
  | 2 => .addt
  | 3 => ok (ib w 1 11 == 0) .addd
  | 4 =>
    ok (match ib w 10 2 with
        | 0 => ib w 0 10 == 0
        | 1 => ib w 0 8 == 0
        | 2 => ib w 2 8 == 0
        | _ => ib w 0 10 == 0) .wait
  | 5 => ok (ib w 7 2 == 0) .jmp
  | 6 => .ldl
  | 7 => ok (ib w 6 2 == 0 && decide (1 ≤ ib w 0 6) && decide (ib w 0 6 ≤ 32)) .shift
  | 8 => ok (decide (ib w 9 3 ≤ 4) && ib w 5 4 == 0) .push
  | 9 => ok (decide (ib w 9 3 ≤ 6) && ib w 0 9 == 0) .pull
  | _ => .illegal

/-! ### Registers -/

def State.rnTr (s : State) (n : Nat) : BitVec 24 := (s.rd (R.RUN_TIME n)).setWidth 24
def State.setRnTr (s : State) (n : Nat) (v : BitVec 24) : State := s.wr (R.RUN_TIME n) (v.setWidth 32)
def State.rnSr (s : State) (n : Nat) : BitVec 32 :=
  BitVec.ofNat 32 (s.f (F.RUN_SR_LO_LO n) + s.f (F.RUN_SR_HI_HI n) * 2 ^ 24)
def State.setRnSr (s : State) (n : Nat) (v : BitVec 32) : State :=
  (s.setF (F.RUN_SR_LO_LO n) (v.toNat % 2 ^ 24)).setF (F.RUN_SR_HI_HI n) (v.toNat / 2 ^ 24)
def State.rnHalf (s : State) (n : Nat) : Nat := max 3 (s.f (F.RUN_SHIFT_HALF n))

/-- TB_LO (R33). -/
def State.tbLo (s : State) : BitVec 24 := s.now.setWidth 24

/-- The level of IN0 (0) or IN1 (1): a pin that the block drives delivers the driven level, and no input is low (R54, R183). -/
def State.rnIn (s : State) (n k : Nat) (level : Bool) : Bool :=
  let src := getBits (s.rd (R.RUN_PIN_B n)) (8 + 8 * k) 8
  if src < 32 then s.sensed src level else if src < 192 then !s.frPin (src - 32) && (s.ball (src - 32)).getD level else false

/-- The TIO of pin slot `k` (R183). -/
def State.rnSlot (s : State) (n k : Nat) : Nat :=
  if k = 3 then getBits (s.rd (R.RUN_PIN_B n)) 0 8 else getBits (s.rd (R.RUN_PIN_A n)) (8 * k) 8

def State.rnParked (s : State) (n : Nat) : Bool := s.b (F.RUN_CTL_PARK n) && ((s.rn n).st == .run || (s.rn n).st == .wait)

/-- Runners execute in CONFIG, RUN, LIMP and SERVICE, and with SENSOR in SAFE (R195). -/
def State.rnMode (s : State) (n : Nat) : Bool :=
  s.mode == 2 || s.mode == 4 || s.mode == 5 || s.mode == 7 || (s.mode == 6 && s.b (F.RUN_CTL_SENSOR n))

/-! ### Edges (R183 to R185) -/

/-- The level that a pin will have once every edge on its way has landed. -/
def State.rnLevel (s : State) (p : Nat) : Bool :=
  match (s.flight.filter (fun e => e.pin == p)).getLast? with
  | some e => e.level
  | none => s.lastLevel p

/-- An edge for pin slot `k` at `at_`: refused where the slot names no pin that the runner owns (R183). `act` is 0 high,
1 low, 2 the inverse. -/
def State.rnEdge (s : State) (n k act : Nat) (at_ : Fine) : State :=
  let p := s.rnSlot n k
  let r := s.rn n
  if p < 160 && s.f (F.TIO_CFG_OWNER p) == 3 && s.f (F.TIO_CFG_OWN_IDX p) == n then
    let l := if act = 0 then true else if act = 1 then false else !s.rnLevel p
    { s with flight := s.flight ++ [⟨p, at_, l⟩] }
  else
    let s1 := (s.flag (R.RUN_STAT n) 18).pulse (160 + n)
    if k ∈ r.refused then s1 else (s1.setRn n { r with refused := k :: r.refused }).log .runPinRefused n 0

/-- Ticks by which a time lies ahead of its issue, 24 ticks before it; below 2^23 it is not yet past (R185). -/
def State.rnLead (s : State) (t : BitVec 24) : Nat := (t - 24 - s.tbLo).toNat

/-- A timed edge may be issued: its tick has come, or it is late. -/
def State.rnDue (s : State) (t : BitVec 24) : Bool := decide (s.rnLead t = 0) || decide (2 ^ 23 ≤ s.rnLead t)

/-- Issue an edge for time `t` with TF; late, it lands 24 ticks from now and is counted (R185). -/
def State.rnTimed (s : State) (n k act : Nat) (t : BitVec 24) : State :=
  let at_ := fineOf (s.now + 24) (s.f (F.RUN_TFINE_TF n))
  if s.rnLead t = 0 then s.rnEdge n k act at_
  else ((s.flag (R.RUN_STAT n) 17).bump (R.RUN_CNT_LATE n)).rnEdge n k act at_

/-! ### Stopping, faults, starting (R189, R190, R194) -/

/-- The request is withdrawn. -/
def State.rnUnreq (s : State) (n : Nat) : State :=
  let r := s.rn n
  if r.req then s.setRn n { r with req := false, reqEnd := some s.now } else s

/-- HALTED; the request is withdrawn. -/
def State.rnHaltNow (s : State) (n : Nat) : State :=
  let s := s.rnUnreq n
  s.setRn n { s.rn n with st := .halted, on := 0, irValid := false, once := false, samples := [] }

/-- FAULT: its edges that have not reached the ball are discarded; its pins are held safe by `heldSafe`. -/
def State.rnFault (s : State) (n : Nat) (parity : Bool) (addr : Nat) : State :=
  let s1 := (s.dropEdges (fun p => s.f (F.TIO_CFG_OWNER p) == 3 && s.f (F.TIO_CFG_OWN_IDX p) == n)).rnUnreq n
  let s2 := s1.setRn n { s1.rn n with st := .fault, on := 0, irValid := false, once := false, samples := [], byParity := parity }
  (s2.pulse (160 + n)).log (if parity then .runParity else .runIllegal) n addr

/-- A start or restart at `entry`. -/
def State.rnStart (s : State) (n entry : Nat) : State :=
  let s := s.rnUnreq n
  let r := s.rn n
  let s1 := (s.setRnSr n 0).setF (F.RUN_BC_BC n) 0
  let s2 := (s1.setF (F.RUN_STAMP_S n) 0).setB (F.RUN_CTL_PARK n) false
  s2.setRn n { r with st := .run, pc := entry % 128, irValid := false, on := 0, poison := false, injPend := false
                      once := false, samples := [], due := s.now + 1 }

/-! ### Issue (R181, R192) -/

/-- The word that issues next: an injection in place of the word at PC. -/
def State.rnWord (s : State) (n : Nat) : Nat :=
  let r := s.rn n
  if r.injPend then s.f (F.RUN_INJECT_INSN n) else s.f (F.RUN_PROG_INSN n r.pc)

/-- May the runner issue in this tick? -/
def State.rnMay (s : State) (n : Nat) : Bool :=
  let r := s.rn n
  s.rnMode n && s.reached r.due && ((r.st == .run && !s.rnParked n) || (r.st == .halted && r.injPend))

/-- The instruction in hand is complete: the next issues 2 ticks later, or the runner is back in HALTED. -/
def State.rnNext (s : State) (n : Nat) : State :=
  let r := s.rn n
  s.setRn n { r with st := if r.once then .halted else .run, on := 0, irValid := false, due := s.now + 2, once := false, cut := false }

/-- The instruction in hand waits. -/
def State.rnWaitOn (s : State) (n on : Nat) : State := s.setRn n { s.rn n with st := .wait, on := on, beat := s.tb.beat, cut := false }

/-- The fetch: PC moves on but for an injection, which is taken (R181, R192). -/
def State.rnFetch (s : State) (n : Nat) : State :=
  let r := s.rn n
  s.setRn n { r with injPend := false, pc := if r.injPend then r.pc else (r.pc + 1) % 128 }

/-- Issue: fetch, fault on bad parity or an illegal word, and run `f` on the word where it is the instruction `op`. `bad` says
that the word fetched from the program memory has bad parity: it stays bad until it is rewritten (R194). -/
def State.rnIssue (s : State) (n : Nat) (op : RnOp) (bad : Bool) (f : State → Nat → State) : State :=
  let r := s.rn n
  let w := s.rnWord n
  if !s.rnMay n then s
  else if !r.injPend && (bad || r.badProg.contains r.pc) then
    let s1 := s.rnFetch n
    (s1.setRn n { s1.rn n with badProg := addItem r.pc r.badProg }).rnFault n true r.pc
  else if rnOp w = .illegal then (s.rnFetch n).rnFault n false r.pc
  else if rnOp w ≠ op then s
  else
    let s1 := s.rnFetch n
    f (s1.setRn n { s1.rn n with ir := w, irValid := true, irInj := r.injPend, once := r.st == .halted }) w

/-- An instruction that completes in its issue tick. -/
def State.rnQuick (s : State) (n : Nat) (op : RnOp) (bad : Bool) (f : State → Nat → State) : State :=
  s.rnIssue n op bad (fun s w => (f s w).rnNext n)

/-! ### Waits (R186) -/

/-- Does a WAIT end now? `level` is the selected input's level; a code of no input never ends it (R54). -/
def State.rnWaitOver (s : State) (n w : Nat) (level : Bool) : Bool :=
  match ib w 10 2 with
  | 0 => decide ((s.tbLo - s.rnTr n).toNat < 2 ^ 23)
  | 1 => decide (getBits (s.rd (R.RUN_PIN_B n)) (if ib w 9 1 = 1 then 16 else 8) 8 < 192) && s.rnIn n (ib w 9 1) level == (ib w 8 1 == 1)
  | 2 => (s.rd (R.RUN_FLAGS n)).getLsbD (ib w 0 2)
  | _ => s.now == s.tb.t0 || s.tb.beat != (s.rn n).beat

/-- The end of a WAIT: a flag waited for is cleared. -/
def State.rnWaitEnds (s : State) (n w : Nat) : State :=
  (if ib w 10 2 = 2 then s.unflag (R.RUN_FLAGS n) (ib w 0 2) else s).rnNext n

/-! ### Troughs (R188) -/

def State.rnPushNow (s : State) (n w : Nat) : State :=
  let v := match ib w 9 3 with
    | 0 => (s.rnSr n).toNat
    | 1 => s.f (F.RUN_STAMP_S n)
    | 2 => (s.rnTr n).toNat
    | 3 => s.f (F.RUN_D0_D n)
    | _ => s.f (F.RUN_LOOP_LA n)
  (s.agentPush (s.f (F.RUN_CFG_TRG_OUT n)) (rnAgent n) (s.rn n).cut ((v >>> ib w 0 5) % 2 ^ 24) false).rnNext n

def State.rnPullNow (s : State) (n w : Nat) : State :=
  let q := s.f (F.RUN_CFG_TRG_IN n)
  let auto := s.b (F.TRG_CFG_AUTO_REL q)
  let had := s.trgEn q && !s.trgWrong q false false && !(s.rn n).cut
  let (s1, d, p) := s.agentPull q (rnAgent n) (s.rn n).cut
  let s2 := if had && !auto then s1.trgRelease q 1 else s1
  let s3 := s2.setRn n { s2.rn n with poison := p }
  let s4 := match ib w 9 3 with
    | 0 => s3.setRnSr n (BitVec.ofNat 32 d)
    | 1 => s3.setRnSr n (BitVec.ofNat 32 ((s3.rnSr n).toNat % 2 ^ 24 + (d % 256) * 2 ^ 24))
    | 2 => s3.setF (F.RUN_D0_D n) d
    | 3 => s3.setF (F.RUN_D1_D n) d
    | 4 => s3.setRnTr n (BitVec.ofNat 24 d)
    | 5 => s3.setF (F.RUN_LOOP_LA n) (d % 2 ^ 11)
    | _ => s3.setF (F.RUN_LOOP_LB n) (d % 2 ^ 11)
  s4.rnNext n

def State.rnCanPush (s : State) (n : Nat) : Bool := s.agentCanPush (s.f (F.RUN_CFG_TRG_OUT n)) (rnAgent n) (s.rn n).cut
def State.rnCanPull (s : State) (n : Nat) : Bool := s.agentCanPull (s.f (F.RUN_CFG_TRG_IN n)) (rnAgent n) (s.rn n).cut

/-! ### Shifting (R187) -/

/-- SR takes a bit. -/
def State.rnShiftIn (s : State) (n : Nat) (lsb b : Bool) : State :=
  let sr := s.rnSr n
  let v : BitVec 32 := if b then 1 else 0
  s.setRnSr n (if lsb then (sr >>> 1) ||| (v <<< 31) else (sr <<< 1) ||| v)

/-- The next bit: its times, and the settings that it keeps. -/
def State.rnBitTimes (s : State) (n : Nat) : State :=
  let t := s.rnTr n
  s.setRn n { s.rn n with lead := t, trail := t + BitVec.ofNat 24 (s.rnHalf n), ledOut := false
                          shiftCfg := s.rd (R.RUN_SHIFT n), dout := s.f (F.RUN_CFG_DOUT_SLOT n) }

/-- The shift is over once every edge has been issued and every sample taken. -/
def State.rnShiftEnd (s : State) (n : Nat) : State :=
  let r := s.rn n
  if r.bit = ib r.ir 0 6 && r.samples.isEmpty then s.rnNext n else s

/-- SHIFT_BIT: the earliest thing of the shift that is due: a sample, a leading edge with its data edge, a trailing edge. -/
def State.rnShiftBit (s : State) (n : Nat) (level : Bool) : State :=
  let r := s.rn n
  let w := r.ir
  let inp := ib w 8 1 = 1
  let out := ib w 9 1 = 1
  let bit := fun (x : Fld) => decide (getBits r.shiftCfg x.lo x.len ≠ 0)
  let idle := bit (F.RUN_SHIFT_CLK_IDLE n)
  let lsb := bit (F.RUN_SHIFT_LSB_FIRST n)
  let high := s.rnIn n 0 level
  let lvl := fun (b : Bool) => if b then 0 else 1
  let sampleDue := r.samples.head?.filter (fun t => decide ((s.tbLo - t.1).toNat < 2 ^ 23))
  if let some t := sampleDue then ((s.rnShiftIn n t.2 high).setRn n { r with samples := r.samples.tail }).rnShiftEnd n
  else if ib w 0 6 ≤ r.bit then s.rnShiftEnd n
  else if !r.ledOut then
    if !s.rnDue r.lead then s
    else
      let ob := if lsb then (s.rnSr n).getLsbD 0 else (s.rnSr n).getLsbD 31
      let s1 := s.rnTimed n (ib w 10 2) (lvl (!idle)) r.lead
      let s2 := if out then s1.rnTimed n r.dout (lvl ob) r.lead else s1
      let s3 := if out && !inp then s2.rnShiftIn n lsb false else s2
      let at_ := (if bit (F.RUN_SHIFT_SAMPLE n) then r.trail else r.lead) + BitVec.ofNat 24 (getBits r.shiftCfg 11 9)
      let r3 := s3.rn n
      s3.setRn n { r3 with ledOut := true, samples := if inp then r3.samples ++ [(at_, lsb)] else r3.samples }
  else if !s.rnDue r.trail then s
  else
    let s1 := s.rnTimed n (ib w 10 2) (lvl idle) r.trail
    let s2 := (s1.setRnTr n (r.lead + 2 * (r.trail - r.lead))).setF (F.RUN_BC_BC n) (ib w 0 6 - r.bit - 1)
    let s3 := s2.setRn n { s2.rn n with bit := r.bit + 1 }
    (s3.rnBitTimes n).rnShiftEnd n

/-! ### Requests (R189) -/

/-- The DMA read engine takes the request. -/
def State.rnTake (s : State) (n : Nat) : State := (s.setRn n { s.rn n with req := false, reqEnd := none }).bump (R.RUN_CNT_REQ n)

/-- The request line as the read engine meets it: one withdrawn in this tick may still be taken (R189). -/
def State.rnAsks (s : State) (n : Nat) : Bool := (s.rn n).req || (s.rn n).reqEnd == some s.now

/-! ### The instructions -/

def State.rnPinRow (s : State) (n : Nat) (bad : Bool) : State :=
  s.rnIssue n .pin bad (fun s w =>
    if ib w 7 1 = 0 then (s.rnEdge n (ib w 10 2) (ib w 8 2) (fineOf (s.now + 24) 0)).rnNext n
    else if s.rnDue (s.rnTr n) then (s.rnTimed n (ib w 10 2) (ib w 8 2) (s.rnTr n)).rnNext n
    else s.rnWaitOn n 6)

/-- RUNNER_TIMED_EDGE: the edge that a PIN instruction waits to issue. -/
def State.rnTimedRow (s : State) (n : Nat) : State :=
  let r := s.rn n
  if r.st = .wait && r.on = 6 && rnOp r.ir = .pin && s.rnMode n && !s.rnParked n && s.rnDue (s.rnTr n) then
    (s.rnTimed n (ib r.ir 10 2) (ib r.ir 8 2) (s.rnTr n)).rnNext n
  else s

def State.rnWaitRow (s : State) (n : Nat) (bad : Bool) : State :=
  s.rnIssue n .wait bad (fun s w =>
    let s := s.setRn n { s.rn n with beat := s.tb.beat }
    let kind := ib w 10 2
    if kind ≠ 1 && s.rnWaitOver n w false then s.rnWaitEnds n w
    else s.rnWaitOn n (kind + 1))

/-- RUNNER_WAIT_END: the wait of WAIT, PUSH, PULL or REQW. -/
def State.rnWaitEndRow (s : State) (n : Nat) (level trgBad : Bool) : State :=
  let r := s.rn n
  if r.st ≠ .wait || !s.rnMode n || s.rnParked n then s
  else match rnOp r.ir with
    | .wait => if s.rnWaitOver n r.ir level then s.rnWaitEnds n r.ir else s
    | .push => if s.rnCanPush n then s.rnPushNow n r.ir else s
    | .pull => if s.rnCanPull n then (s.spoil (s.f (F.RUN_CFG_TRG_IN n)) trgBad).rnPullNow n r.ir else s
    | .reqw => if r.req then s else s.rnNext n
    | _ => s

def State.rnJmpRow (s : State) (n : Nat) (level bad : Bool) : State :=
  s.rnQuick n .jmp bad (fun s w =>
    let la := s.f (F.RUN_LOOP_LA n)
    let lb := s.f (F.RUN_LOOP_LB n)
    let take := match ib w 9 3 with
      | 0 => true
      | 1 => la != 0
      | 2 => lb != 0
      | 3 => (s.rd (R.RUN_FLAGS n)).getLsbD 0
      | 4 => s.rnIn n 0 level
      | 5 => decide (0 < s.trgUnread (s.f (F.RUN_CFG_TRG_IN n)))
      | 6 => (s.rn n).poison
      | _ => decide (0 < s.trgSpace (s.f (F.RUN_CFG_TRG_OUT n)))
    if !take then s
    else
      let s1 := match ib w 9 3 with
        | 1 => s.setF (F.RUN_LOOP_LA n) (la - 1)
        | 2 => s.setF (F.RUN_LOOP_LB n) (lb - 1)
        | _ => s
      s1.setRn n { s1.rn n with pc := ib w 0 7 })

def State.rnShiftRow (s : State) (n : Nat) (level bad : Bool) : State :=
  s.rnIssue n .shift bad (fun s w =>
    let s1 := (s.setRn n { s.rn n with bit := 0, samples := [] }).setF (F.RUN_BC_BC n) (ib w 0 6)
    ((s1.rnBitTimes n).rnWaitOn n 6).rnShiftBit n level)

/-! ### Control writes (R190, R192, R193) -/

/-- GO starts a runner in HALTED or FAULT. -/
def State.rnGo (s : State) (n : Nat) : State :=
  if (s.rn n).st = .halted || (s.rn n).st = .fault then s.rnStart n (s.f (F.RUN_CTL_ENTRY n)) else s

def State.rnRestart (s : State) (n : Nat) : State := s.rnStart n (s.f (F.RUN_CTL_ENTRY n))

/-- CTL.HALT and STOP: a fault is left only by a start. -/
def State.rnStop (s : State) (n : Nat) : State := if (s.rn n).st = .fault then s else s.rnHaltNow n

def State.rnPark (s : State) (n : Nat) (b : Bool) : State := s.setB (F.RUN_CTL_PARK n) b

/-- A write of CTL as a whole. -/
def State.rnCtl (s : State) (n : Nat) (v : Word) : State :=
  let s1 := s.wr (R.RUN_CTL n) (v &&& 0xFF8)
  let s2 := if v.getLsbD 2 then s1.rnStop n else s1
  let s3 := if v.getLsbD 0 then s2.rnGo n else s2
  if v.getLsbD 1 then s3.rnRestart n else s3

def State.rnInject (s : State) (n : Nat) (v : Word) : State :=
  let r := s.rn n
  if r.injPend || r.st = .fault then s.flag (R.RUN_STAT n) 14
  else (s.setF (F.RUN_INJECT_INSN n) (getBits v 0 16)).setRn n { r with injPend := true, due := if r.st = .halted then s.now + 2 else r.due }

def State.rnFlags (s : State) (n : Nat) (set : Bool) (v : Word) : State :=
  let m := v &&& 0xF
  s.wr (R.RUN_FLAGS n) (if set then s.rd (R.RUN_FLAGS n) ||| m else s.rd (R.RUN_FLAGS n) &&& ~~~ m)

def State.rnProg (s : State) (n i : Nat) (v : Word) : State :=
  let r := s.rn n
  (s.wr (R.RUN_PROG n i) (v &&& 0xFFFF)).setRn n { r with badProg := r.badProg.filter (fun k => k != i) }

/-- A write of PIN_A or PIN_B: a changed slot may be refused anew (R183). -/
def State.rnPins (s : State) (n : Nat) (b : Bool) (v : Word) : State :=
  let a := if b then R.RUN_PIN_B n else R.RUN_PIN_A n
  let s1 := s.wr a (v &&& 0xFFFFFF)
  let r := s.rn n
  s1.setRn n { r with refused := r.refused.filter (fun k => s1.rnSlot n k == s.rnSlot n k) }

/-! ### The runner service (R196) -/

/-- RUNNER_SERVICE_CHECK: the program words of every runner that is not HALTED; `bad` lists those found with bad parity. -/
def State.rnService (s : State) (bad : List (Fin 32 × Fin 128)) : State :=
  let live := (List.range 32).filter (fun n => (s.rn n).st != .halted)
  if !(s.part 18).busy || s.tb.phase < 200 + 32 * live.length then s
  else
    let s1 := overList bad (fun s b =>
      if live.contains b.1.val then s.setRn b.1.val { s.rn b.1.val with badProg := addItem b.2.val (s.rn b.1.val).badProg } else s) s
    let s2 := overList live (fun s n =>
      match (s.rn n).badProg with
      | [] => s
      | k :: _ => if (s.rn n).st = .fault then s else s.rnFault n true k) s1
    s2.partDone 18

/-! ### Status registers (Table 8.8) -/

def State.rnStateCode (s : State) (n : Nat) : Nat :=
  if s.rnParked n then 3
  else match (s.rn n).st with
    | .halted => 0 | .run => 1 | .wait => 2 | .fault => 4

def State.rnView (s : State) (n off : Nat) : Option Word :=
  let r := s.rn n
  let st := s.rd (R.RUN_STAT n)
  let fault := r.st == .fault
  match off with
  | 0x14 => some (packed [(s.rnStateCode n, 0), (r.pc, 3), (r.on, 10), (toBit r.injPend, 13), (getBits st 14 1, 14), (toBit r.req, 15),
      (toBit r.poison, 16), (getBits st 17 1, 17), (getBits st 18 1, 18), (toBit (fault && r.byParity), 19), (toBit (fault && !r.byParity), 20)])
  | 0x4C => some (packed [(r.ir, 0), (toBit r.irValid, 16), (toBit r.irInj, 17)])
  | 0x44 | 0x48 => some 0
  | _ => none

/-! ### The meanings -/

def execRnNop (n : Fin 32) (bad : Bool) (s : State) : Host.Outcome State Fault Refusal := .next (s.rnQuick n.val .nop bad (fun s _ => s))
def execRnHalt (n : Fin 32) (bad : Bool) (s : State) : Host.Outcome State Fault Refusal :=
  .next (s.rnIssue n.val .halt bad (fun s _ => s.rnHaltNow n.val))
def execRnIrq (n : Fin 32) (bad : Bool) (s : State) : Host.Outcome State Fault Refusal := .next (s.rnQuick n.val .irq bad (fun s _ => s.pulse (128 + n.val)))
def execRnReq (n : Fin 32) (bad : Bool) (s : State) : Host.Outcome State Fault Refusal :=
  .next (s.rnQuick n.val .req bad (fun s _ => s.setRn n.val { s.rn n.val with req := true }))
def execRnReqw (n : Fin 32) (bad : Bool) (s : State) : Host.Outcome State Fault Refusal :=
  .next (s.rnIssue n.val .reqw bad (fun s _ => (s.setRn n.val { s.rn n.val with req := true }).rnWaitOn n.val 7))
def execRnUnreq (n : Fin 32) (bad : Bool) (s : State) : Host.Outcome State Fault Refusal :=
  .next (s.rnQuick n.val .unreq bad (fun s _ => s.rnUnreq n.val))
def execRnClrf (n : Fin 32) (bad : Bool) (s : State) : Host.Outcome State Fault Refusal :=
  .next (s.rnQuick n.val .clrf bad (fun s w => s.rnFlags n.val false (BitVec.ofNat 32 (ib w 0 4))))
def execRnNow (n : Fin 32) (bad : Bool) (s : State) : Host.Outcome State Fault Refusal :=
  .next (s.rnQuick n.val .now bad (fun s w => s.setRnTr n.val (s.tbLo + BitVec.ofNat 24 (ib w 0 8))))
def execRnFine (n : Fin 32) (bad : Bool) (s : State) : Host.Outcome State Fault Refusal :=
  .next (s.rnQuick n.val .fine bad (fun s w => s.setF (F.RUN_TFINE_TF n.val) (ib w 0 5)))
def execRnClrsr (n : Fin 32) (bad : Bool) (s : State) : Host.Outcome State Fault Refusal := .next (s.rnQuick n.val .clrsr bad (fun s _ => s.setRnSr n.val 0))
def execRnStamp (n : Fin 32) (bad : Bool) (s : State) : Host.Outcome State Fault Refusal :=
  .next (s.rnQuick n.val .stamp bad (fun s _ => s.setF (F.RUN_STAMP_S n.val) (s.rnTr n.val).toNat))
def execRnPin (n : Fin 32) (bad : Bool) (s : State) : Host.Outcome State Fault Refusal := .next (s.rnPinRow n.val bad)
def execRunnerTimedEdge (n : Fin 32) (s : State) : Host.Outcome State Fault Refusal := .next (s.rnTimedRow n.val)
def execRnAddt (n : Fin 32) (bad : Bool) (s : State) : Host.Outcome State Fault Refusal :=
  .next (s.rnQuick n.val .addt bad (fun s w => s.setRnTr n.val (s.rnTr n.val + BitVec.ofNat 24 (ib w 0 12))))
def execRnAddd (n : Fin 32) (bad : Bool) (s : State) : Host.Outcome State Fault Refusal :=
  .next (s.rnQuick n.val .addd bad (fun s w =>
    s.setRnTr n.val (s.rnTr n.val + BitVec.ofNat 24 (if ib w 0 1 = 1 then s.f (F.RUN_D1_D n.val) else s.f (F.RUN_D0_D n.val)))))
def execRnWait (n : Fin 32) (bad : Bool) (s : State) : Host.Outcome State Fault Refusal := .next (s.rnWaitRow n.val bad)
def execRunnerWaitEnd (n : Fin 32) (level trgBad : Bool) (s : State) : Host.Outcome State Fault Refusal :=
  .next (s.rnWaitEndRow n.val level trgBad)
def execRnJmp (n : Fin 32) (level : Bool) (bad : Bool) (s : State) : Host.Outcome State Fault Refusal := .next (s.rnJmpRow n.val level bad)
def execRnLdl (n : Fin 32) (bad : Bool) (s : State) : Host.Outcome State Fault Refusal :=
  .next (s.rnQuick n.val .ldl bad (fun s w =>
    if ib w 11 1 = 1 then s.setF (F.RUN_LOOP_LB n.val) (ib w 0 11) else s.setF (F.RUN_LOOP_LA n.val) (ib w 0 11)))
def execRnShift (n : Fin 32) (level : Bool) (bad : Bool) (s : State) : Host.Outcome State Fault Refusal := .next (s.rnShiftRow n.val level bad)
def execShiftBit (n : Fin 32) (level : Bool) (s : State) : Host.Outcome State Fault Refusal :=
  .next (let r := s.rn n.val
         if r.st = .wait && rnOp r.ir = .shift && s.rnMode n.val && !s.rnParked n.val then s.rnShiftBit n.val level else s)
def execRnPush (n : Fin 32) (bad : Bool) (s : State) : Host.Outcome State Fault Refusal :=
  .next (s.rnIssue n.val .push bad (fun s w => if s.rnCanPush n.val then s.rnPushNow n.val w else s.rnWaitOn n.val 5))
def execRnPull (n : Fin 32) (bad trgBad : Bool) (s : State) : Host.Outcome State Fault Refusal :=
  .next (s.rnIssue n.val .pull bad (fun s w =>
    if s.rnCanPull n.val then (s.spoil (s.f (F.RUN_CFG_TRG_IN n.val)) trgBad).rnPullNow n.val w else s.rnWaitOn n.val 5))
def execRunGo (r : Requester) (n : Fin 32) (s : State) : Host.Outcome State Fault Refusal :=
  .next (s.writeBy (fieldTo s r (F.RUN_CTL_GO n.val) 1) (fun s => s.rnGo n.val))
def execRunCtlRestart (r : Requester) (n : Fin 32) (s : State) : Host.Outcome State Fault Refusal :=
  .next (s.writeBy (fieldTo s r (F.RUN_CTL_RESTART n.val) 1) (fun s => s.rnRestart n.val))
def execRunCtlHalt (r : Requester) (n : Fin 32) (s : State) : Host.Outcome State Fault Refusal :=
  .next (s.writeBy (fieldTo s r (F.RUN_CTL_HALT n.val) 1) (fun s => s.rnStop n.val))
def execRunCtlPark (r : Requester) (n : Fin 32) (b : Bool) (s : State) : Host.Outcome State Fault Refusal :=
  .next (s.writeBy (fieldTo s r (F.RUN_CTL_PARK n.val) (toBit b)) (fun s => s.rnPark n.val b))
def execRunInject (r : Requester) (n : Fin 32) (v : Word) (s : State) : Host.Outcome State Fault Refusal :=
  .next (s.writeBy (wordTo r (R.RUN_INJECT n.val) v) (fun s => s.rnInject n.val v))
def execRunFlagsWrite (r : Requester) (n : Fin 32) (set : Bool) (v : Word) (s : State) : Host.Outcome State Fault Refusal :=
  .next (s.writeBy (wordTo r (if set then R.RUN_FLAGS n.val else R.RUN_FLAG_CLR n.val) v) (fun s => s.rnFlags n.val set v))
def execRunProgWrite (r : Requester) (n : Fin 32) (i : Fin 128) (v : Word) (s : State) : Host.Outcome State Fault Refusal :=
  .next (s.writeBy (wordTo r (R.RUN_PROG n.val i.val) v) (fun s => s.rnProg n.val i.val v))
def execRunnerServiceCheck (bad : List (Fin 32 × Fin 128)) (s : State) : Host.Outcome State Fault Refusal := .next (s.rnService bad)

end Sys2Proof.Machine
end

