-- ==== Sys2Proof/Machine/TroughCtl.lean ====
section
/-! DEFINITION. Enabling and disabling a trough (R279, R285), with the waits that clearing EN ends. -/

namespace Sys2Proof.Machine

open Sys2Proof

/-- Clearing EN ends the pulls and the pushes of the DMA engines that wait at trough `q` (R285). -/
def State.cutDma (s : State) (q : Nat) : State :=
  overList (s.chans.map (·.1)) (fun s n =>
    let c := s.ch n
    s.setCh n { c with jobs := c.jobs.map (fun j => { j with
      reads := j.reads.map (fun r => { r with cut := r.cut || (r.data.isNone && r.src.space == 3 && r.src.addr % 64 == q) })
      cut := j.cut || (j.waitAt.isSome && j.d.dst.space == 3 && j.d.dst.addr % 64 == q) }) }) s

/-- It ends those of the runners. -/
def State.cutRunners (s : State) (q : Nat) : State :=
  overList (s.rns.map (·.1)) (fun s n =>
    let r := s.rn n
    let here := fun (op : RnOp) (x : Fld) => rnOp r.ir == op && s.f x == q
    if r.st == .wait && (here .push (F.RUN_CFG_TRG_OUT n) || here .pull (F.RUN_CFG_TRG_IN n)) then s.setRn n { r with cut := true } else s) s

/-- It ends those of the engines. -/
def State.cutEngines (s : State) (q : Nat) : State :=
  overList (s.engs.map (·.1)) (fun s n =>
    let e := s.eng n
    let x := s.nword n
    if e.waiting && x.trg == q && (x.reads 21 || x.writes 21) then s.setEng n { e with cut := true } else s) s

/-- EN cleared: waiting pulls end with poisoned 0, waiting pushes are discarded and counted (R285); those of the engines, runners
and DMA engines in the cycle in which they come again. -/
def State.trgDisable (s : State) (q : Nat) : State :=
  let mine := s.trgWaits.filter (fun w => w.q == q)
  let s1 := { s.setB (F.TRG_CTL_EN q) false with trgWaits := s.trgWaits.filter (fun w => w.q != q) }
  let s2 := overList mine (fun s w => if w.push.isSome then s.trgDrop q else s.deliver w.req (portWord 0 true true)) s1
  ((s2.cutDma q).cutRunners q).cutEngines q

/-- A write of CTL.EN (R279, R285). -/
def State.trgSetEn (s : State) (q : Nat) (b : Bool) : State :=
  if !b then (if s.trgEn q then s.trgDisable q else s)
  else if s.trgEn q then s
  else if s.trgBadRegion q then (s.trgSet q 6).log .trgCfgBad q 0
  else s.setB (F.TRG_CTL_EN q) true

/-- A write of CTL as a whole: EN, then FLUSH, REWIND and MARK (Table 13.8). -/
def State.trgCtl (s : State) (q : Nat) (v : Word) : State :=
  let s1 := s.trgSetEn q (v.getLsbD 0)
  let s2 := if v.getLsbD 1 then s1.trgFlush q else s1
  let s3 := if v.getLsbD 3 then s2.trgRewind q else s2
  if v.getLsbD 2 then s3.trgMark q else s3

def execTrgCtlEn (r : Requester) (q : Fin 64) (b : Bool) (s : State) : Host.Outcome State Fault Refusal :=
  .next (s.writeBy (fieldTo s r (F.TRG_CTL_EN q.val) (toBit b)) (fun s => s.trgSetEn q.val b))

end Sys2Proof.Machine
end

