-- ==== Sys2Proof/Machine/MbxCore.lean ====
section
/-! DEFINITION. What every mailbox command shares (R335 to R343, R352 to R357): its page and header, the pulses and
their moderation, and its completion. -/

namespace Sys2Proof.Machine

open Sys2Proof

/-! ### Rings -/

/-- Slots of a ring (R335). -/
def State.mbSlots (s : State) (m : Nat) : Nat := 2 ^ min 6 (s.f (F.MBX_CFG_SLOTS_LOG m))
/-- The page of the slot that a pointer names. -/
def State.mbPage (s : State) (m x : Nat) : Nat := s.f (F.MBX_CFG_BASE_PAGE m) + x % s.mbSlots m
/-- Difference of two 7-bit pointers. -/
def ptrDiff (a b : Nat) : Nat := (a + (128 - b % 128)) % 128

/-! ### Pulses and moderation (R356, R357): classes 0 to 3 MBX_m_DONE, 4 DMA_CQ, 5 DMA_ERR -/

/-- The interrupt source of a class. -/
def classSource (c : Nat) : Nat := if c < 4 then 244 + c else if c = 4 then 237 else 238

/-- COUNT and TIME of a class, 0 acting as 1. -/
def State.modCount (s : State) (c : Nat) : Nat := max 1 (if c < 4 then s.f (F.MBX_MOD_COUNT c) else s.f F.MBX_DMA_MOD_COUNT)
def State.modTime (s : State) (c : Nat) : Nat := max 1 (if c < 4 then s.f (F.MBX_MOD_TIME c) else s.f F.MBX_DMA_MOD_TIME)

/-- Is the class's source routed to the host? -/
def State.toHost (s : State) (c : Nat) : Bool :=
  match s.route (classSource c) with
  | .host _ => true
  | _ => false

/-- What the registers show of a hold. -/
def State.showHold (s : State) (c : Nat) : State :=
  let n := (s.hold c).n
  let w := s.f F.MBX_SLEEP_HELD_CLS
  let s1 := s.setF F.MBX_SLEEP_HELD_CLS (if n = 0 then clrBit w c else setBit w c)
  if c < 4 then s1.setF (F.MBX_STAT_HELD c) (min n 255) else s1

/-- Release the held pulses of a class in one pulse. -/
def State.releaseHold (s : State) (c : Nat) : State :=
  if (s.hold c).n = 0 then s else ((s.setHold c {}).showHold c).pulse (classSource c)

/-- Hold one more pulse of a class. -/
def State.holdOne (s : State) (c : Nat) : State :=
  let h := s.hold c
  (s.setHold c { n := h.n + 1, since := if h.n = 0 then s.ctlNow else h.since }).showHold c

/-- A pulse of a moderated source (R356), or while the host sleeps of a held class (R357). -/
def State.modPulse (s : State) (c : Nat) : State :=
  if !s.toHost c then s.pulse (classSource c)
  else if s.b F.MBX_SLEEP_ASLEEP then
    let s1 := s.holdOne c
    if (s.f F.MBX_SLEEP_WAKE_EN).testBit c then
      let s2 := { s1.setB F.MBX_SLEEP_WAKE_PEND true with wakeLow := true }
      if s.f F.SYS_HOST_STAT_DSTATE = 3 && s.pcie.pmeEn then { s2 with pcie := { s2.pcie with pmes := s2.pcie.pmes + 1 } } else s2
    else s1
  else if c = 5 then s.pulse 238
  else
    let s1 := s.holdOne c
    if s.modCount c ≤ (s1.hold c).n then s1.releaseHold c else s1

/-- MODERATION_TIME_EXPIRY (R356). -/
def State.modExpire (s : State) (c : Nat) : State :=
  let h := s.hold c
  if h.n ≠ 0 && !s.b F.MBX_SLEEP_ASLEEP && decide (c < 5) && decide (500 * s.modTime c ≤ since s.ctlNow h.since) then s.releaseHold c else s

/-! ### Completion (R339) -/

def statusOk : Nat := 0
def statusBusy : Nat := 1
def statusBadArg : Nat := 2
def statusBadState : Nat := 3
def statusNoSpace : Nat := 4
def statusSigFail : Nat := 5
def statusVersion : Nat := 6
def statusTimeout : Nat := 7
def statusHwFault : Nat := 8

/-- The header check of bytes 0x00 to 0x0B (R336). -/
def hchk (bs : List Nat) : Nat := crcOf crc32cPoly (bs.take 12) % 65536

/-- Hand a DEVICE page to HOST; a page in QUARANTINE stays (R339, R341). -/
def State.handBack (s : State) (p : Nat) : State :=
  let x := s.page p
  if x.owner = 2 then s.setPage p { x with owner := 1, gen := (x.gen + 1) % 64 } else s

/-- The result and header of a slot as Holtid writes them (R336, R339). -/
def State.writeResult (s : State) (page status detail : Nat) (result : List Nat) : State :=
  if (s.page page).owner ≠ 2 then s
  else
    let o := 256 * page
    let s1 := s.yardPutBytes .core (o + 16) result
    let h := (s1.yardBytes o 6) ++ [status, result.length] ++ bytesOf 4 detail
    s1.yardPutBytes .core o (h ++ bytesOf 2 (hchk h))

/-- One slot of mailbox `m` has completed: what the fences counted (R354). -/
def bellsDone (m : Nat) (own : Bool) (bs : List Bell) : List Bell :=
  let f := bs.map (fun b => { b with fence := (b.fence.zipIdx).map (fun e => if e.2 = m then e.1 - 1 else e.1) })
  if !own then f
  else match f with
    | [] => []
    | b :: bs => if b.slots ≤ 1 then bs else { b with slots := b.slots - 1 } :: bs

/-- DONE of a mailbox moves one slot on. -/
def State.slotDone (s : State) (m : Nat) : State :=
  let s1 := s.setF (F.MBX_DONE_DONE m) (s.f (F.MBX_DONE_DONE m) + 1)
  overList (List.range 4) (fun s j => s.setMb j { s.mb j with bells := bellsDone m (j == m) (s.mb j).bells }) s1

/-- A command of the image window ends (R352). -/
def State.windowDone (s : State) (status : Nat) (result : List Nat) : State :=
  let put := fun (l : List (Nat × Nat)) (k v : Nat) => Sparse.set (fun _ => 0) l k v
  let halves := (List.range ((result.length + 1) / 2)).map (fun i => ofBytes ((result.drop (2 * i)).take 2))
  let img := (halves.zipIdx).foldl (fun l e => put l (0x13 + e.2) e.1) s.fr.img
  { s.setMb 4 {} with fr := { s.fr with img := put (put img 0x12 result.length) 0x11 status } }

/-- A page of a command has entered QUARANTINE: its slot, or one of its PG field (R277, R341). -/
def State.hurt (s : State) (src : Nat) (v : Svc) : Bool :=
  (decide (src < 4) && (s.page v.page).owner == 3) || v.pages.any (fun p => (s.page p).owner == 3)

/-- A command ends: result and header, hand-over of its pages, DONE, and the pulse (R339). `free_` passes the pulse
without moderation (R357). A page of it that has entered QUARANTINE meanwhile makes its end HW_FAULT (R341). -/
def State.endCommand (s : State) (src status detail : Nat) (result : List Nat) (free_ : Bool) : State :=
  match (s.mb src).svc with
  | none => s
  | some v =>
    let lost := s.hurt src v && status ≠ statusBadArg && status ≠ statusHwFault
    let detail := if lost then LogCode.yrdEcc.num else detail
    let result := if lost then [] else result
    let status := if lost then statusHwFault else status
    if src = 4 then s.windowDone status result
    else
      let s1 := overList v.pages State.handBack (s.writeResult v.page status detail result)
      let s2 := (s1.handBack v.page).setMb src { s1.mb src with svc := none }
      let s3 := (s2.setB (F.MBX_STAT_SERVING src) false).slotDone src
      if v.flags.testBit 0 || status ≠ 0 then (if free_ then s3.pulse (244 + src) else s3.modPulse src) else s3

def State.complete (s : State) (src status detail : Nat) (result : List Nat) : State := s.endCommand src status detail result false

/-- Change the command in service. -/
def State.setSvc (s : State) (src : Nat) (v : Svc) : State := s.setMb src { s.mb src with svc := some v }

/-- A command's effects are made: it completes, or with AT_COMMIT after the commit of its items (R353). -/
def State.finish (s : State) (src : Nat) (items : List Nat) (result : List Nat) : State :=
  match (s.mb src).svc with
  | none => s
  | some v => if v.flags.testBit 1 && !items.isEmpty then s.setSvc src { v with waiting := true, items := items, answer := result }
              else s.complete src statusOk 0 result

/-- After a commit of `items`: commands whose items have all been committed complete (R353). -/
def State.finishCommitted (s : State) (items : List Nat) : State :=
  overList (List.range 5) (fun s m => match (s.mb m).svc with
    | some v =>
      let left := v.items.filter (fun i => !items.contains i)
      if !v.waiting || v.items.isEmpty then s
      else if left.isEmpty then s.complete m statusOk 0 v.answer
      else s.setSvc m { v with items := left }
    | none => s) s

/-- The command of one opcode that is in service and not yet executed. -/
def State.serving (s : State) (src op : Nat) : Option Svc :=
  match (s.mb src).svc with
  | some v => if v.op = op && !v.waiting then some v else none
  | none => none

/-- The command of one opcode that has been executed and waits. -/
def State.awaiting (s : State) (src op : Nat) : Option Svc :=
  match (s.mb src).svc with
  | some v => if v.op = op && v.waiting then some v else none
  | none => none

end Sys2Proof.Machine
end

