-- ==== Sys2Proof/Machine/Valves.lean ====
section
/-! DEFINITION. The valve drive (R199 to R220): starts, restarts and extensions, the arbitration of boost, the phases,
the gates of the banks, and the boost converter. -/

namespace Sys2Proof.Machine

open Sys2Proof

/-! ### Channels, banks and gates -/

/-- STAT.STATE (Table 9.7). -/
def VSt.code : VSt → Nat
  | .off => 0 | .wait => 1 | .boost => 2 | .peak => 3 | .drop => 4 | .hold => 5 | .decay => 6 | .locked => 7

/-- BOOST, PEAK, DROP or HOLD. -/
def VSt.runs : VSt → Bool
  | .boost | .peak | .drop | .hold => true
  | _ => false

/-- OFF or LOCKED. -/
def VSt.idle : VSt → Bool
  | .off | .locked => true
  | _ => false

def bankChans (b : Nat) : List Nat := [4 * b, 4 * b + 1, 4 * b + 2, 4 * b + 3]

/-- The SOLO setting in force (R211). -/
def State.solo (s : State) (b : Nat) : Bool := (s.bk b).solo

/-- The gates are held off by the mode or by the clamps (R200, R215, R239, Table 18.4). -/
def State.gatesOff (s : State) : Bool :=
  s.mode ≤ 1 || s.mode == 3 || s.mode == 6 || s.b F.PWR_RAIL_STAT_VGD_UV

/-- The level of VLG_n (Table 9.4, R211); off during a flyback check (R230). -/
def State.vlgOn (s : State) (n : Nat) : Bool :=
  let v := s.vlv n
  v.flyback.isNone && !s.gatesOff &&
    (match v.st with
     | .boost => true
     | .peak | .hold => s.solo (n / 4) || v.sw
     | .drop => s.solo (n / 4)
     | _ => false)

/-- The high-side switch that the bank asks for: 0 none, 1 HSG_b, 2 HBG_b (Table 9.4, R211, R230). -/
def State.wantSide (s : State) (b : Nat) : Nat :=
  if s.gatesOff || s.pwr.hswHeld.testBit b || (bankChans b).any (fun n => (s.vlv n).flyback.isSome) then 0
  else if s.solo b then
    let v := s.vlv (4 * b)
    match v.st with
    | .boost => 2
    | .peak | .hold => if v.sw then 1 else 0
    | _ => 0
  else if (s.bk b).holder.isSome then 2
  else if (bankChans b).any (fun n => (s.vlv n).st == .peak || (s.vlv n).st == .drop || (s.vlv n).st == .hold) then 1
  else 0

/-- DEAD in ticks (R200). -/
def State.deadTicks (s : State) (b : Nat) : Nat := 2 * max 10 (s.f (F.HSW_CFG_DEAD b))

/-- An edge of VLG_n: a DOSE action places it to the fine step, every other cause at fine step 0 (R113, R203). -/
def State.gateEdge (s : State) (n : Nat) (on : Bool) : State :=
  let x := s.pin (160 + n)
  let t := s.atCell (160 + n) ((s.vlv n).dose.getD (fineOf s.now 0))
  let line := if x.line then x.b else x.a
  s.setPin (160 + n) { x with edges := (t, on) :: x.edges, tap := tapOf (t.toNat % 32) line.taps }

/-- What a channel's gate leaves behind when it changes: its edge, how long it has been on, how long the channel has been
off with its gate off, and the calibration sum that a turn-on discards (R230, R232). -/
def State.gateSettle (s : State) (n : Nat) : State :=
  let v := s.vlv n
  let on := s.vlgOn n
  let s1 := if on = v.onSince.isSome then s else s.gateEdge n on
  s1.setVlv n { v with dose := none
                       onSince := if on then some (v.onSince.getD s.now) else none
                       idleSince := if v.st.idle && !on then some (v.idleSince.getD s.now) else none
                       calSum := if on then 0 else v.calSum
                       calN := if on then 0 else v.calN }

/-- Every channel of the bank is OFF or LOCKED, its switches are off and no current flows (R228). -/
def State.quietNow (s : State) (b : Nat) : Bool :=
  (s.bk b).side == 0 && (bankChans b).all (fun n => (s.vlv n).st.idle && decide ((s.vlv n).x < s.f (F.VLV_DIAG_CFG_OPEN_THR n)))

/-- The gates of a bank after anything in it has changed (R200, R210). -/
def State.bankSettle (s : State) (b : Nat) : State :=
  let s1 := overList (bankChans b) State.gateSettle s
  let k := s1.bk b
  let want := s1.wantSide b
  let k1 := if k.side ≠ 0 && k.side ≠ want then { k with side := 0, last := k.side, dead := some (s.now + BitVec.ofNat 48 (s.deadTicks b)) } else k
  let rests := match k1.dead with | some t => !s.reached t | none => false
  let k2 := if k1.side = 0 && want ≠ 0 && (k1.last == want || !rests) then { k1 with side := want, last := want, dead := none } else k1
  let s2 := s1.setBk b k2
  s2.setBk b { k2 with quiet := if s2.quietNow b then some (k2.quiet.getD s.now) else none }

/-- Dead times that are over, once per beat, so that a rest of any length leaves none behind (R200). -/
def State.deadPast (s : State) : State :=
  overList (List.range 8) (fun s b =>
    let k := s.bk b
    s.setBk b { k with dead := if k.dead.any s.reached then none else k.dead }) s

/-! ### Answers to the Holtid commands VLV_ON and FR_VALVE (R345, R351) -/

/-- The command that a start came from ends with a status other than OK. -/
def State.vFail (s : State) (o : VOwner) (status detail : Nat) : State :=
  match o with
  | .ev _ _ => s
  | .holtid src => s.complete src status detail []

/-- It ends with OK: the state after the start and the wait; FR_VALVE gives the state alone. -/
def State.vOk (s : State) (n : Nat) (o : VOwner) : State :=
  match o with
  | .ev _ _ => s
  | .holtid src =>
    let st := (s.vlv n).st.code
    let op := match (s.mb src).svc with | some v => v.op | none => 0
    s.complete src statusOk 0 (if op = 0x400 then [st, 0] ++ bytesOf 2 (s.f (F.VLV_WAITT_WAIT n)) else [st])

/-! ### Boost (R213, R216) -/

/-- A request leaves the queue. -/
def State.unqueue (s : State) (n : Nat) : State :=
  let b := n / 4
  s.setBk b { s.bk b with queue := (s.bk b).queue.filter (fun m => m != n) }

/-- The waiting command is cancelled; a channel in WAIT goes OFF. What its Holtid command answers is `f`. -/
def State.cancelWait (s : State) (n : Nat) (f : State → VOwner → State) : State :=
  let v := s.vlv n
  match v.wait with
  | none => s
  | some w =>
    let s1 := (s.unqueue n).setVlv n { v with wait := none, st := if v.st = .wait then VSt.off else v.st }
    f s1 w.owner

/-- An end of the waiting command itself, or an off command: it completes, and never drives the coil. -/
def State.cancelEnd (s : State) (n : Nat) : State := s.cancelWait n (fun s o => s.vOk n o)

/-- A cancellation by the device's state: it completes with BAD_STATE. -/
def State.cancelState (s : State) (n : Nat) : State := s.cancelWait n (fun s o => s.vFail o statusBadState 0)

/-- The moment of t_b in the registers (R37). -/
def State.setTStart (s : State) (n : Nat) : State :=
  (s.setF (F.VLV_TSTART_LO_LO n) s.now.toNat).setF (F.VLV_TSTART_HI_HI n) (s.now.toNat / 2 ^ 24)

/-- Boost is granted to the channel's waiting command (R213, R216). -/
def State.grant (s : State) (n : Nat) : State :=
  let b := n / 4
  let v := s.vlv n
  match v.wait with
  | none => s
  | some w =>
    let ts := if w.restart then s.now else w.start
    let dur := match w.owner with | .holtid _ => some (ts + BitVec.ofNat 48 w.dur) | .ev _ _ => none
    let v1 := { v with st := .boost, owner := some w.owner, prof := w.prof, ts := ts, tb := s.now, sw := true, tOn := s.now
                       wait := none, durEnd := dur }
    let s1 := (s.setVlv n v1).setBk b { s.bk b with holder := some n, queue := (s.bk b).queue.filter (fun m => m != n) }
    let s2 := (s1.setF (F.VLV_WAITT_WAIT n) (min 65535 (since s.now w.since / 50))).setTStart n
    let s3 := s2.bump (if w.restart then R.VLV_CNT_RETRIG n else R.VLV_CNT_START n)
    s3.vOk n w.owner

/-- The channel leaves BOOST: the first waiter is granted in the same tick (R216). -/
def State.boostFree (s : State) (n : Nat) : State :=
  let b := n / 4
  let k := s.bk b
  if k.holder ≠ some n then s
  else
    let s1 := s.setBk b { k with holder := none }
    let s2 := s1.setF (F.VLV_TBOOST_BOOST n) (min 65535 (since s.now (s.vlv n).tb / 50))
    match k.queue with
    | [] => s2
    | m :: _ => s2.grant m

/-- The refusal of a request for boost (R216). -/
def State.conflict (s : State) (n : Nat) (o : VOwner) : State :=
  let b := n / 4
  let h := (s.bk b).holder.getD 0
  let s1 := ((s.setB (F.VLV_STAT_CONFLICT n) true).bump (R.VLV_CNT_CONFLICT n)).bump (R.HSW_CNT_CONFLICT b)
  ((s1.pulse (208 + b)).log .vlvConflict n (n + h <<< 12)).vFail o statusBusy h

/-- BOOST_GRACE_EXPIRY (R216). -/
def State.graceEnd (s : State) (n : Nat) : State :=
  match (s.vlv n).wait with
  | none => s
  | some w =>
    if s.passed w.since (500 * s.f (F.HSW_CFG_GRACE (n / 4))) then s.cancelWait n (fun s o => s.conflict n o) else s

/-- A request at the tail of the queue; requests of one tick stand in increasing channel number (R216). -/
def State.queueBoost (s : State) (n : Nat) : State :=
  let b := n / 4
  let q := (s.bk b).queue
  let later := fun (m : Nat) => decide (n < m) && (match (s.vlv m).wait with | some w => w.since == s.now | none => false)
  s.setBk b { s.bk b with queue := q.filter (fun m => !later m) ++ [n] ++ q.filter later }

/-! ### Ends -/

/-- Entry to DECAY (Table 9.3): the gate goes off and boost is released; a restart that waits goes on as a waiting
start (R213). A flyback check suspends the row: its verdict ends the command (R230). -/
def State.decay (s : State) (n : Nat) : State :=
  let v := s.vlv n
  if !v.st.runs || v.flyback.isSome then s
  else
    let v1 := { v with st := .decay, td := s.now, sw := false, durEnd := none
                       wait := v.wait.map (fun w => { w with restart := false }) }
    (s.setVlv n v1).boostFree n

/-- The channel has decayed: OFF, or WAIT where a command still waits (R213). -/
def State.vIdle (s : State) (n : Nat) : State :=
  let v := s.vlv n
  match v.wait with
  | some w => s.setVlv n { v with st := .wait, ts := w.start, wait := some { w with restart := false } }
  | none => s.setVlv n { v with st := .off, owner := none }

/-- An end that acts whatever the owner, and cancels what waits (R212, R213). -/
def State.vOff (s : State) (n : Nat) : State := ((s.cancelEnd n).decay n).bankSettle (n / 4)

/-- The same on a mode change, a commit of EN = 0, a forced off and the loss of the supply. -/
def State.vStop (s : State) (n : Nat) : State := ((s.cancelState n).decay n).bankSettle (n / 4)

/-- Several channels end in one tick, by `stop`: what waits on any of them is cancelled, by `cancel`, before boost is
handed on (R213, R215). -/
def State.vEndAll (s : State) (l : List Nat) (cancel stop : State → Nat → State) : State :=
  overList l stop (overList l cancel s)

/-- A channel that RBG going off finds in WAIT: it goes to DECAY, like every channel that is not OFF or LOCKED (R233). -/
def State.cancelSupply (s : State) (n : Nat) : State :=
  let v := s.vlv n
  match v.wait with
  | none => s
  | some w =>
    let s1 := s.cancelState n
    if v.st = .wait then s1.setVlv n { s1.vlv n with st := .decay, td := s.now, prof := w.prof } else s1

/-- An end from an event instance, placed at `t`: it acts when that instance owns the profile, or waits (R212). -/
def State.vEndEv (s : State) (n : Nat) (o : VOwner) (t : Fine) : State :=
  let v := s.vlv n
  if v.st = .locked then s
  else
    let mine := match v.wait with | some w => w.owner == o | none => false
    let s1 := if mine then s.cancelEnd n else s
    let s2 := s1.setVlv n { s1.vlv n with dose := some t }
    (if (s1.vlv n).owner = some o then s2.decay n else s1).bankSettle (n / 4)

/-- VLV_DURATION_END: the duration of a Holtid command ends its profile, or cancels it while it waits (R212, R345). -/
def State.vDurEnd (s : State) (n : Nat) : State :=
  let v := s.vlv n
  let waits := match v.wait with
    | some w => (match w.owner with | .holtid _ => s.passed w.start w.dur | .ev _ _ => false)
    | none => false
  let s1 := if waits then s.cancelEnd n else s
  (match v.durEnd with
   | some t => if s.reached t then s1.decay n else s1
   | none => s1).bankSettle (n / 4)

/-- A twin mismatch on a valve target: a forced off (R26). -/
def State.vForce (s : State) (n sh slot : Nat) : State :=
  let s1 := s.vStop n
  s1.setVlv n { s1.vlv n with forcedBy := (sh, slot) :: (s1.vlv n).forcedBy.filter (fun k => k != (sh, slot)) }

/-- The mismatches that `gone` names are over: they force no channel any more (R26). -/
def State.vUnforce (s : State) (gone : Nat × Nat → Bool) : State :=
  overList ((s.valves.filter (fun e => e.2.forcedBy.any gone)).map (·.1)) (fun s n =>
    s.setVlv n { s.vlv n with forcedBy := (s.vlv n).forcedBy.filter (fun k => !gone k) }) s

/-! ### Starts (R208, R211 to R215) -/

/-- `code_of` of R204. -/
def codeOf (i10 shunt : Nat) : Nat := (i10 * shunt * 64 + 1562) / 3125

/-- The profile `p` as channel `n` latches it (R204, R207). -/
def State.latchProf (s : State) (n p : Nat) : VProf :=
  let sh := s.f (F.VLV_SHUNT_SHUNT n)
  let w := fun i => s.rd (R.PROFW p i)
  let c := fun i lo => codeOf (getBits (w i) lo 12) sh
  { idx := p, boost := c 0 0, peak := c 0 12, hold := c 1 0, zero := c 1 12, hPeak := c 2 0, hHold := c 2 12
    tBst := 50 * getBits (w 3) 0 16, skip := (w 3).getLsbD 16, tPeak := 50 * getBits (w 4) 0 16
    chopMin := 50 * max 100 (getBits (w 5) 0 16), tDecay := 50 * max 1 (getBits (w 6) 0 16), tMax := 500 * getBits (w 7) 0 24 }

/-- Is a start with profile `p` valid (R208, R231)? The comparisons are of the profile's own currents. -/
def State.profOk (s : State) (n p : Nat) : Bool :=
  let f := fun i lo => getBits (s.rd (R.PROFW p i)) lo 12
  let x := s.latchProf n p
  let iBoost := f 0 0; let iPeak := f 0 12; let iHold := f 1 0; let iZero := f 1 12
  let oc := s.f (F.VLV_DIAG_LIM_OC_THR n)
  decide (s.f (F.VLV_SHUNT_SHUNT n) ≠ 0) && decide (iPeak ≠ 0) && decide (iHold ≠ 0) && (x.skip || decide (iBoost ≠ 0))
    && decide (iHold ≤ iPeak) && decide (iZero < iHold) && decide (f 2 0 < iPeak) && decide (f 2 12 < iHold)
    && (x.skip || (decide (x.tBst ≠ 0) && decide (x.tBst ≤ x.tPeak)))
    && [x.boost, x.peak, x.hold, x.zero, x.hPeak, x.hHold].all (fun c => c ≤ 4095)
    && (!s.b (F.VLV_DIAG_CFG_ON_EN n) || (decide (x.boost < oc) && decide (x.peak < oc)))

/-- A word of a profile, or of the channel's coil entry, fails its check (Table 1.3). -/
def State.tackFails (s : State) (n p : Nat) : Bool :=
  (List.range 32).any (fun i => s.badWords.contains (R.PROFW p i) || s.badWords.contains (R.COILW n i))

/-- A start aborts the bank's off-state test and discards the channel's calibration sum (R228, R232). -/
def State.abortTest (s : State) (n : Nat) : State :=
  let b := n / 4
  let s0 := s.setVlv n { s.vlv n with calSum := 0, calN := 0 }
  if (s.bk b).test.isNone then s0
  else
    let s1 := s0.setBk b { s.bk b with test := none, pu := none }
    overList (bankChans b) (fun s m => if s.b (F.VLV_DIAG_CFG_OFF_EN m) then s.bump (R.VLV_CNT_ABORT m) else s) s1

/-- A start with SKIP_BOOST: PEAK at once (Table 9.3, R213). -/
def State.vSkip (s : State) (n : Nat) (o : VOwner) (p : VProf) (dur : Nat) : State :=
  let v := s.vlv n
  let again := v.st.runs || v.st == .decay
  let end_ := match o with | .holtid _ => some (s.now + BitVec.ofNat 48 dur) | .ev _ _ => none
  let v1 := { v with st := .peak, owner := some o, prof := p, ts := s.now, sw := true, tOn := s.now, durEnd := end_ }
  let s1 := (s.setVlv n v1).boostFree n
  let s2 := (s1.setVlv n { s1.vlv n with tb := s.now }).setTStart n
  (s2.bump (if again then R.VLV_CNT_RETRIG n else R.VLV_CNT_START n)).vOk n o

/-- A valid start that reads a profile (Table 9.3, R213): boost at once, or a wait, or a refusal. -/
def State.vBegin (s : State) (n : Nat) (o : VOwner) (p : VProf) (dur : Nat) : State :=
  let b := n / 4
  let s1 := s.cancelWait n (fun s o => s.vFail o statusBusy n)
  let v := s1.vlv n
  let again := v.st.runs || v.st == .decay
  let w : VWait := { owner := o, prof := p, start := s.now, since := s.now, dur := dur, restart := again }
  if p.skip then s1.vSkip n o p dur
  else if (s1.bk b).holder = some n || ((s1.bk b).holder.isNone && (s1.bk b).queue.isEmpty) then
    (s1.setVlv n { v with wait := some w }).grant n
  else if s1.f (F.HSW_CFG_GRACE b) = 0 then s1.conflict n o
  else (s1.setVlv n { v with wait := some w, st := if v.st = .off then VSt.wait else v.st
                             ts := if v.st = .off then s.now else v.ts }).queueBoost n

/-- A start with RETRIG = 1 while a profile is in progress: the new command becomes its owner (R214). -/
def State.vExtend (s : State) (n : Nat) (o : VOwner) (dur : Nat) : State :=
  let v := s.vlv n
  let s1 := s.bump (R.VLV_CNT_RETRIG n)
  if v.st = .wait then
    match v.wait with
    | none => s1
    | some w =>
      let s2 := s1.setVlv n { v with ts := s.now, wait := some { w with owner := o, start := s.now, dur := dur } }
      s2.vOk n w.owner
  else
    let end_ := match o with | .holtid _ => some (s.now + BitVec.ofNat 48 dur) | .ev _ _ => none
    (s1.setVlv n { v with owner := some o, ts := s.now, durEnd := end_ }).vOk n o

/-- A start is refused and counted in CNT_LOCKREF (R26, R221, R224, R233, R239). -/
def State.lockRef (s : State) (n : Nat) : Bool :=
  let v := s.vlv n
  v.forced || v.st == .locked || v.modelBad || !s.b F.PWR_VSG_STAT_GATE || s.b F.PWR_RAIL_STAT_VGD_UV

/-- The mode and the stop ramp accept starts (R215, R243). -/
def State.startMode (s : State) : Bool := (s.mode == 4 || s.mode == 5 || s.mode == 7) && !s.b F.PWR_STAT_RAMP

/-- A start of channel `n` with profile `p`, from an event or from Holtid (R211 to R215). Every start aborts the bank's
off-state test, a refused one too (R228). -/
def State.vStart (s0 : State) (n : Nat) (o : VOwner) (p dur : Nat) : State :=
  let b := n / 4
  let s := s0.abortTest n
  let v := s.vlv n
  let s1 :=
    if s.lockRef n || !s.startMode then
      let s2 := if s.lockRef n then s.bump (R.VLV_CNT_LOCKREF n) else s
      (if s.startMode then s2 else s2.setB (F.VLV_STAT_REFUSED_MODE n) true).vFail o statusBadState 0
    else if !s.b (F.VLV_CTL_EN n) then s.vFail o statusBadState 0
    else if s.solo b && n % 4 ≠ 0 then
      let s2 := ((s.setB (F.VLV_STAT_PROFILE_BAD n) true).setB (F.HSW_STAT_BANK_CFG_ERR b) true).pulse (208 + b)
      (s2.logOnce .vlvBankCfg b 0).vFail o statusBadArg 0x10
    else if s.b (F.VLV_CTL_RETRIG n) && (v.st.runs || v.st == .wait) then s.vExtend n o dur
    else if s.tackFails n p then ((s.vStop n).log .vlvTackEcc n 0).vFail o statusBadArg 0x11
    else if !s.profOk n p then
      (((s.setB (F.VLV_STAT_PROFILE_BAD n) true).pulse (208 + b)).logOnce .vlvProfileBad n 0).vFail o statusBadArg 0x11
    else s.vBegin n o (s.latchProf n p) dur
  s1.bankSettle b

/-- A DOSE start placed by an instance (R212, R218): of two in one tick only the one of the higher shed, then the higher
slot, acts. -/
def State.doseStart (s : State) (a : Act) : State :=
  let n := a.ev.target
  let key := slotKey a.sh a.slot
  let rival := s.placed.any (fun x => x.ev.tgtType == 2 && x.ev.target == n && !x.isEnd && tickOf x.at_ == tickOf a.at_
    && decide (key < slotKey x.sh x.slot))
  if rival || (s.vlv n).evAt = some s.now then s
  else
    let s1 := s.setVlv n { s.vlv n with evAt := some s.now, dose := some a.at_ }
    s1.vStart n (.ev a.sh a.slot) (if a.ev.param = 0 then s.f (F.VLV_PROF_PROF n) else a.ev.param - 1) 0

/-! ### The loop and the time tests (R203 to R209) -/

/-- BOOST to PEAK. -/
def State.toPeak (s : State) (n : Nat) : State :=
  (s.setVlv n { s.vlv n with st := .peak, sw := true, tOn := s.now }).boostFree n

/-- The chopping switch at a result (R205). -/
def chop (v : Valve) (now : Time) (x set_ h : Nat) : Valve :=
  if v.sw && decide (set_ ≤ x) then { v with sw := false }
  else if !v.sw && decide (x + h ≤ set_) && decide (v.prof.chopMin ≤ since now v.tOn) then { v with sw := true, tOn := now }
  else v

/-- The phase rows of Table 9.3 that act on a result; none during a flyback check. -/
def State.phaseOnResult (s : State) (n : Nat) : State :=
  let v := s.vlv n
  if v.flyback.isSome then s
  else match v.st with
    | .boost => if v.prof.boost ≤ v.x then s.toPeak n else s
    | .peak => s.setVlv n (chop v s.now v.x v.prof.peak v.prof.hPeak)
    | .hold => s.setVlv n (chop v s.now v.x v.prof.hold v.prof.hHold)
    | .drop => if v.x ≤ v.prof.hold then s.setVlv n { v with st := .hold } else s
    | .decay => if v.x ≤ v.prof.zero then s.vIdle n else s
    | _ => s

/-- The value that the time base showed some ticks ago, fewer than a beat: before a load of it, the old time (R50). -/
def State.shownAgo (s : State) (k : Nat) : Time :=
  let t := s.now - BitVec.ofNat 48 k
  match s.tb.moved with
  | some (at_, d) => if since s.now at_ < k then t - d else t
  | none => t

/-- Is this tick a result tick of the channel: 25 ticks after its sample (R203)? -/
def State.resultTick (s : State) (n : Nat) : Bool := s.tb.running && (s.shownAgo 25).toNat % 100 == 25 * (n % 4)

/-- A code becomes the corrected sample and enters the beat's means and the calibration's sum (R204, R232). -/
def State.takeSample (s : State) (n code : Nat) : State :=
  let v := s.vlv n
  let x := code - s.f (F.VLV_OFS_OFS n)
  let rests := v.st.idle && s.mode != 3 && (match v.idleSince with | some t => s.passed t 25000 | none => false)
  let v1 := { v with x := x, sumX := v.sumX + x, sumSq := v.sumSq + x * x, samples := v.samples + 1
                     calSum := if rests && v.calN < 256 then v.calSum + code else v.calSum
                     calN := if rests && v.calN < 256 then v.calN + 1 else v.calN }
  let peak := fun (w : Word) => BitVec.ofNat 32 (max x w.toNat)
  let s1 := ((s.setVlv n v1).setF (F.VLV_I_X n) x).note (R.VLV_IPEAK n) peak
  s1.wr (R.VLV_IPEAK n) (peak (s.rd (R.VLV_IPEAK n)))

/-- T_BST_MAX_EXPIRY (R209). -/
def State.bstTimeout (s : State) (n : Nat) : State :=
  let v := s.vlv n
  if v.st = .boost && v.flyback.isNone && s.passed v.tb v.prof.tBst then
    let s1 := ((s.toPeak n).setB (F.VLV_STAT_BOOST_TIMEOUT n) true).pulse (208 + n / 4)
    (s1.logOnce .vlvBoostTimeout n 0).bankSettle (n / 4)
  else s

/-- T_PEAK_EXPIRY (R209). -/
def State.peakEnd (s : State) (n : Nat) : State :=
  let v := s.vlv n
  if v.st = .peak && v.flyback.isNone && s.passed v.tb v.prof.tPeak then
    (s.setVlv n { v with st := .drop, sw := false }).bankSettle (n / 4)
  else s

/-- T_MAX_EXPIRY (R209). -/
def State.capEndV (s : State) (n : Nat) : State :=
  let v := s.vlv n
  if v.st.runs && v.flyback.isNone && v.prof.tMax ≠ 0 && s.passed v.ts v.prof.tMax then (s.decay n).bankSettle (n / 4) else s

/-- T_DECAY_MAX_EXPIRY (R209). -/
def State.decayTimeout (s : State) (n : Nat) : State :=
  let v := s.vlv n
  if v.st = .decay && s.passed v.td v.prof.tDecay then
    (((s.setB (F.VLV_STAT_DECAY_LONG n) true).log .vlvDecayTimeout n 0).vIdle n).bankSettle (n / 4)
  else s

/-! ### The boost converter (R201, R202) -/

/-- VSET and VOV with their limits. -/
def State.vset (s : State) : Nat := min 288 (s.f F.BST_CFG_VSET)
def State.vov (s : State) : Nat := max (s.vset + 8) (min 304 (s.f F.BST_LIM_VOV))

/-- May the converter regulate? -/
def State.bstMay (s : State) : Bool :=
  s.b F.BST_CTL_EN && (s.mode == 2 || s.mode == 4 || s.mode == 5 || s.mode == 7) && !s.pwr.bstHeld && s.b F.PWR_VSG_STAT_GATE

/-- The comparisons of VBST, and what follows for BST_G. -/
def State.bstCompare (s : State) : State :=
  let v := s.bst.vbst
  let watched := decide (2 ≤ s.mode)
  let ov := watched && decide (s.vov ≤ v)
  let low := watched && decide (v < s.f F.BST_LIM_VMIN)
  let s1 := if ov && !s.b F.BST_STAT_OV then
      (((s.setB F.BST_STAT_OV_SEEN true).pulse 224).log .vlvBstOvervolt wholeDevice 0) else s
  let s2 := if low && !s.b F.BST_STAT_LOW then
      (((s1.setB F.BST_STAT_LOW_SEEN true).pulse 224).log .vlvVbstLow wholeDevice 0) else s1
  let charging := s.bstMay && (if s.vset ≤ v then false else if v + s.f F.BST_CFG_VHYS ≤ s.vset then true else s.b F.BST_STAT_CHARGING)
  let s3 := ((s2.setB F.BST_STAT_OV ov).setB F.BST_STAT_LOW low).setB F.BST_STAT_CHARGING charging
  { s3 with bst := { s3.bst with gate := s3.bst.gate && charging && !ov } }

/-- VBST_THRESHOLD. -/
def State.vbstAt (s : State) (code : Nat) : State := { s with bst := { s.bst with vbst := code } }.bstCompare

/-- BOOST_CONVERTER_PULSE: the edges of one pulse. A pulse ends when BST_CS reaches ILIM or TON_MAX has passed; both times
are in units of 20 ticks. -/
def State.bstPulse (s : State) (e : BoostEdge) : State :=
  match e with
  | .gateOn => if s.b F.BST_STAT_CHARGING && !s.b F.BST_STAT_OV && !s.bst.gate && s.bst.offUntil.isNone
      then { s with bst := { s.bst with gate := true, gateAt := s.now } }.bump R.BST_CNT_PULSE else s
  | .gateOff cs => if s.bst.gate && (decide (5 * s.f F.BST_SW_ILIM ≤ cs) || s.passed s.bst.gateAt (20 * s.f F.BST_SW_TON_MAX))
      then { s with bst := { s.bst with gate := false, offUntil := some (s.now + BitVec.ofNat 48 (20 * s.f F.BST_SW_TOFF)) } } else s
  | .offTimeEnd => match s.bst.offUntil with
      | some t => if s.reached t then { s with bst := { s.bst with offUntil := none } } else s
      | none => s

/-! ### Commits and views -/

/-- A commit of the valve registers (R211, R215, R228): EN cleared ends the channel, SOLO waits for a bank at rest. -/
def State.valveCommit (s : State) : State :=
  let ends := (List.range 32).filter (fun n => !s.b (F.VLV_CTL_EN n) && ((s.vlv n).st.runs || (s.vlv n).wait.isSome))
  let s1 := s.vEndAll ends State.cancelState State.vStop
  (overList (List.range 8) (fun s b =>
    let rest := (bankChans b).all (fun n => (s.vlv n).st.idle)
    (if rest then s.setBk b { s.bk b with solo := s.b (F.HSW_CFG_SOLO b) } else s).bankSettle b) s1).bstCompare

/-- The sense-phase readings of a channel: the means of the beat (R40, Table 9.7, Table 10.9). -/
def State.valveSense (s : State) : State :=
  overList (List.range 32) (fun s n =>
    let v := s.vlv n
    if v.samples = 0 then s
    else
      let s1 := (s.setF (F.VLV_IAVG_AVG n) (16 * v.sumX / v.samples)).setF (F.VLV_ISQ_ISQ n) (v.sumSq / v.samples)
      s1.setVlv n { v with sumX := 0, sumSq := 0, samples := 0 }) s

/-- VLV_n_STAT, HSW_b_STAT as they read: in WAIT the owner and the profile are those of the command that waits (R208, R214). -/
def State.vlvStat (s : State) (n : Nat) : Word :=
  let v := s.vlv n
  let w := if v.st = .wait then v.wait else none
  let ev := match (match w with | some w => some w.owner | none => v.owner) with | some (.ev _ _) => true | _ => false
  let prof := match w with | some w => w.prof.idx | none => v.prof.idx
  (s.rd (R.VLV_STAT n) &&& 0x3E000) ||| packed [(v.st.code, 0), (toBit (v.wait.isSome && v.st != .wait), 3), (toBit ev, 4),
    (toBit v.onSince.isSome, 5), (toBit v.forced, 6), (prof, 7)]

def State.hswStat (s : State) (b : Nat) : Word :=
  let k := s.bk b
  let sw := if k.side ≠ 0 then k.side else if s.wantSide b ≠ 0 then 3 else 0
  (s.rd (R.HSW_STAT b) &&& 0x200) ||| packed [(sw, 0), ((k.holder.getD 0) % 4, 2), (toBit k.holder.isSome, 4),
    ((k.queue.map (fun n => 2 ^ (n % 4))).foldl (· + ·) 0, 5)]

/-! ### The meanings -/

def execBoostGraceExpiry (n : Fin 32) (s : State) : Host.Outcome State Fault Refusal := .next ((s.graceEnd n.val).bankSettle (n.val / 4))
def execTBstMaxExpiry (n : Fin 32) (s : State) : Host.Outcome State Fault Refusal := .next (s.bstTimeout n.val)
def execTPeakExpiry (n : Fin 32) (s : State) : Host.Outcome State Fault Refusal := .next (s.peakEnd n.val)
def execTMaxExpiry (n : Fin 32) (s : State) : Host.Outcome State Fault Refusal := .next (s.capEndV n.val)
def execTDecayMaxExpiry (n : Fin 32) (s : State) : Host.Outcome State Fault Refusal := .next (s.decayTimeout n.val)
def execVlvDurationEnd (n : Fin 32) (s : State) : Host.Outcome State Fault Refusal := .next (s.vDurEnd n.val)
def execDeadTimeEnd (b : Fin 8) (s : State) : Host.Outcome State Fault Refusal := .next (s.bankSettle b.val)
def execBoostConverterPulse (edge : BoostEdge) (s : State) : Host.Outcome State Fault Refusal := .next (s.bstPulse edge)
def execVbstThreshold (code : BitVec 9) (s : State) : Host.Outcome State Fault Refusal := .next (s.vbstAt code.toNat)

end Sys2Proof.Machine
end

