-- ==== Sys2Proof/Machine/VlvDiag.lean ====
section
/-! DEFINITION. The coil thermal model, the valve diagnostics, the offset calibration and the valve supply guard
(R221 to R237). -/

namespace Sys2Proof.Machine

open Sys2Proof

/-! ### Locks (R221, R222): causes by their bit of DIAG_STAT -/

def lOpen : Nat := 1
def lShortGnd : Nat := 2
def lShortSup : Nat := 3
def lBank : Nat := 4
def lThermal : Nat := 5

def State.cause (s : State) (n c : Nat) : Bool := (s.rd (R.VLV_DIAG_STAT n)).getLsbD c

/-- A log entry with the channel as source and as detail (R234). -/
def State.vlog (s : State) (c : LogCode) (n : Nat) : State := s.log c n n

/-- Entry to LOCKED. A flyback check goes on to its comparison (R230). -/
def State.lockNow (s : State) (n : Nat) : State :=
  let s1 := s.cancelState n
  let v := s1.vlv n
  let s2 := (s1.setVlv n { v with st := .locked, sw := false, durEnd := none, owner := none }).boostFree n
  s2.setB (F.VLV_DIAG_STAT_LOCKED n) true

/-- A lock cause sets: the channel is LOCKED, and VLV_DIAG_b pulses. -/
def State.lock (s : State) (n c : Nat) : State :=
  if s.cause n c then s else ((s.flag (R.VLV_DIAG_STAT n) c).lockNow n).pulse (216 + n / 4)

/-- A lock of the whole bank: no waiting command is granted meanwhile. -/
def State.lockBank (s : State) (b : Nat) : State :=
  s.vEndAll (bankChans b) State.cancelState (fun s n => s.lock n lBank)

/-- A cause clears; with the last one the channel enters OFF. -/
def State.unlockCause (s : State) (n c : Nat) : State :=
  let s0 := s.unflag (R.VLV_DIAG_STAT n) c
  let s1 := if c = lShortGnd then s0.setVlv n { s0.vlv n with gndOn := false } else s0
  if getBits (s1.rd (R.VLV_DIAG_STAT n)) 1 5 ≠ 0 || (s1.vlv n).st ≠ .locked then s1
  else (s1.setVlv n { s1.vlv n with st := .off }).setB (F.VLV_DIAG_STAT_LOCKED n) false

/-- Any verdict other than OK is remembered in FAULT_STICKY. -/
def State.sticky (s : State) (n : Nat) : State := s.setB (F.VLV_DIAG_STAT_FAULT_STICKY n) true

/-! ### The coil thermal model (R223 to R227) -/

def State.coilW (s : State) (n w : Nat) : Nat := getBits (s.rd (R.COILW n w)) 0 24
def State.coilT (s : State) (n w : Nat) : Int := signed 24 (s.coilW n w)
def State.modelEn (s : State) (n : Nat) : Bool := (s.rd (R.COILW n 13)).getLsbD 0

/-- Is an entry invalid (R224)? -/
def State.coilBad (s : State) (n : Nat) : Bool :=
  let w := s.coilW n
  w 0 == 0 || w 2 == 0 || w 3 == 0 || w 4 == 0 || w 5 == 0
    || decide (w 2 * w 4 < 1000) || decide (w 3 * w 4 < 1000) || decide (w 3 * w 5 < 1000)
    || decide (s.coilT n 9 < s.coilT n 8) || decide (s.coilT n 9 ≤ s.coilT n 10) || decide (s.coilT n 11 ≤ s.coilT n 12)

/-- What the registers show of the temperatures. -/
def State.showTemp (s : State) (n : Nat) : State :=
  let v := s.vlv n
  (s.setF (F.VLV_TW_TEMP n) (trunc 24 (v.tw / 2 ^ 24))).setF (F.VLV_TB_TEMP n) (trunc 24 (v.tbody / 2 ^ 24))

/-- An entry of coil tack has committed (R224). -/
def State.coilCommit (s : State) (n : Nat) : State :=
  let v := s.vlv n
  if !s.modelEn n then
    let s1 := s.setVlv n { v with model := false, modelBad := false, decide_ := false }
    (((s1.setB (F.VLV_DIAG_STAT_MODEL_BAD n) false).setB (F.VLV_DIAG_STAT_HOT n) false).unlockCause n lThermal).bankSettle (n / 4)
  else if s.coilBad n then
    let s1 := s.setVlv n { v with model := false, modelBad := true, decide_ := false }
    (s1.setB (F.VLV_DIAG_STAT_MODEL_BAD n) true).log .vlvCoilTackBad n 0
  else
    let t0 := s.coilT n 7 * 2 ^ 24
    let v1 := { v with model := true, modelBad := false, tw := if v.model then v.tw else t0, tbody := if v.model then v.tbody else t0 }
    ((s.setVlv n v1).setB (F.VLV_DIAG_STAT_MODEL_BAD n) false).showTemp n

/-- The device modes in which the model, the tests and the calibration run (R226, R228, R389). -/
def State.diagMode (s : State) : Bool := decide (2 ≤ s.mode) && s.mode != 3

/-- The beat's inputs of the model, taken as its work begins (R225). -/
def State.coilLatch (s : State) : State :=
  overList ((List.range 32).filter (fun n => (s.vlv n).model)) (fun s n =>
    s.setVlv n { s.vlv n with isqIn := s.f (F.VLV_ISQ_ISQ n), shuntIn := s.f (F.VLV_SHUNT_SHUNT n) }) s

/-- One beat of one channel (R225), with the inputs of the beat whose work it is. -/
def State.coilBeat (s : State) (n : Nat) : State :=
  let v := s.vlv n
  let w := fun i => ((s.coilW n i : Nat) : Int)
  let k : Int := 2 ^ 32
  let p : Int := (s.part 17).period
  let shunt : Int := v.shuntIn
  let isq : Int := v.isqIn
  let alpha : Int := getBits (s.rd (R.COILW n 1)) 0 16
  let dtw := v.tw / 2 ^ 24
  let rhot := w 0 + divT (w 0 * alpha * (dtw - 5120)) 256000000
  let pw := if shunt = 0 then 0 else divT (isq * 250000 * rhot * 1000) (1048576 * shunt * shunt)
  let qwb := divT ((v.tw - v.tbody) * 1000000000) (w 4 * k)
  let qba := divT ((v.tbody - s.coilT n 6 * 2 ^ 24) * 1000000000) (w 5 * k)
  let tw := sat (v.tw + divT (p * (pw - qwb) * 2 * k) (w 2 * 1000000000000)) (-273 * k) (1000 * k)
  let tb := sat (v.tbody + divT (p * (qwb - qba) * 2 * k) (w 3 * 1000000000000)) (-273 * k) (1000 * k)
  let s1 := (s.setVlv n { v with tw := tw, tbody := tb, decide_ := true }).showTemp n
  (s1.setF (F.VLV_RHOT_RHOT n) (trunc 24 rhot)).setF (F.VLV_PW_PW n) (sat (divT pw 1000) 0 0xFFFFFF).toNat

/-- A coil word fails its check when the model reads it (Table 1.3): the channel goes off. -/
def State.coilFails (s : State) (n : Nat) : Bool := (List.range 14).any (fun i => s.badWords.contains (R.COILW n i))

/-- VALVE_MODEL: the work of participant 17 in the compute phase; a later beat's work that waited behind it then begins. -/
def State.valveModel (s : State) : State :=
  if !(s.part 17).busy || !s.diagMode then s
  else
    let s1 := (overList (List.range 32) (fun s n =>
      if !(s.vlv n).model then s
      else if s.coilFails n then
        let s1 := s.setVlv n { s.vlv n with model := false, modelBad := true, decide_ := false }
        ((s1.setB (F.VLV_DIAG_STAT_MODEL_BAD n) true).vStop n).log .vlvTackEcc n 0
      else s.coilBeat n) s).partDone 17
    if (s1.part 17).busy then s1.coilLatch else s1

/-- Both release conditions of R227. -/
def State.cooled (s : State) (n : Nat) : Bool :=
  let v := s.vlv n
  decide (v.tw ≤ s.coilT n 10 * 2 ^ 24) && decide (v.tbody ≤ s.coilT n 12 * 2 ^ 24)

/-- A limit of R227 is reached. -/
def State.tooHot (s : State) (n : Nat) : Bool :=
  let v := s.vlv n
  decide (s.coilT n 9 * 2 ^ 24 ≤ v.tw) || decide (s.coilT n 11 * 2 ^ 24 ≤ v.tbody)

/-- The decisions of a computed beat (R227). -/
def State.coilDecide (s : State) (n : Nat) : State :=
  let v := s.vlv n
  if !v.decide_ then s
  else
    let s0 := s.setVlv n { v with decide_ := false }
    let warn := s.coilT n 8
    let hot := s.b (F.VLV_DIAG_STAT_HOT n)
    let s1 :=
      if warn * 2 ^ 24 ≤ v.tw then
        if hot then s0 else (((s0.setB (F.VLV_DIAG_STAT_HOT n) true).sticky n).vlog .vlvCoilHot n).pulse (216 + n / 4)
      else if v.tw < (warn - 512) * 2 ^ 24 then s0.setB (F.VLV_DIAG_STAT_HOT n) false else s0
    let s2 :=
      if s.tooHot n then (if s.cause n lThermal then s1 else ((s1.vlog .vlvCoilOvertemp n).sticky n).lock n lThermal)
      else if (s.rd (R.COILW n 13)).getLsbD 1 && s.cooled n then s1.unlockCause n lThermal else s1
    s2.bankSettle (n / 4)

/-- The decisions of the beats computed since the last boundary act at this one (R227). A lock comes before every row of Table
9.3, so what waits on a channel that this tick locks is cancelled before boost is handed on (R221, R222). -/
def State.coilDecisions (s : State) : State :=
  s.vEndAll (List.range 32) (fun x n => if (s.vlv n).decide_ && s.tooHot n then x.cancelState n else x) State.coilDecide

/-! ### On-state diagnosis (R230) -/

/-- The verdict SHORT_SUP (on): the channel locks. -/
def State.shortSupOn (s : State) (n : Nat) : State :=
  let s1 := (s.setF (F.VLV_DIAG_STAT_ON_VERDICT n) 3).sticky n
  let s2 := if s.cause n lShortSup then s1 else s1.vlog .vlvShortSupOn n
  (s2.lock n lShortSup).bankSettle (n / 4)

/-- The check of Table 10.5 is on for a channel whose gate is on. -/
def State.onChecked (s : State) (n : Nat) : Bool :=
  s.b (F.VLV_DIAG_CFG_ON_EN n) && (s.vlv n).onSince.isSome && (s.vlv n).st.runs

/-- VALVE_SENSE_RESULT (R203 to R205, R230): the sample, the overcurrent test first (R222), then the phase rows. -/
def State.senseResult (s : State) (n code : Nat) : State :=
  if !s.resultTick n || s.mode ≤ 1 then s
  else
    let s1 := s.takeSample n code
    if s1.onChecked n && decide (s.f (F.VLV_DIAG_LIM_OC_THR n) ≤ (s1.vlv n).x) then s1.shortSupOn n
    else (s1.phaseOnResult n).bankSettle (n / 4)

/-- OVERCURRENT_DETECT: VDR_n above VDS_MAX after the blanking of 1 µs, or the last result at or above OC_THR. -/
def State.overcurrent (s : State) (n : Nat) : State :=
  let blank := match (s.vlv n).onSince with | some t => s.passed t 500 | none => false
  if s.onChecked n && (blank || decide (s.f (F.VLV_DIAG_LIM_OC_THR n) ≤ (s.vlv n).x)) then s.shortSupOn n else s

/-- T_OPEN_EXPIRY: at a result below OPEN_THR, the gate on for T_OPEN, the flyback check starts. -/
def State.openCheck (s : State) (n : Nat) : State :=
  let v := s.vlv n
  let long := match v.onSince with | some t => s.passed t (500 * max 1 (s.f (F.VLV_DIAG_CFG_T_OPEN n))) | none => false
  if s.onChecked n && long && s.resultTick n && decide (v.x < s.f (F.VLV_DIAG_CFG_OPEN_THR n)) then
    (s.setVlv n { v with flyback := some s.now }).bankSettle (n / 4)
  else s

/-- FLYBACK_CHECK_END: OPEN (on) where the drain flies up, else SHORT_GND (on), which locks the bank. -/
def State.flybackEnd (s : State) (n : Nat) (high : Bool) : State :=
  let v := s.vlv n
  match v.flyback with
  | none => s
  | some t =>
    if !s.passed t 5000 then s
    else
      let s0 := (s.setVlv n { v with flyback := none }).sticky n
      if high then
        let s1 := s0.setF (F.VLV_DIAG_STAT_ON_VERDICT n) 1
        let s2 := if s.cause n lOpen then s1 else s1.vlog .vlvOpenOn n
        (if s.b (F.VLV_DIAG_CFG_LOCK_OPEN n) then s2.lock n lOpen else s2.decay n).bankSettle (n / 4)
      else
        let s1 := s0.setF (F.VLV_DIAG_STAT_ON_VERDICT n) 2
        let s2 := if s.cause n lShortGnd then s1 else s1.vlog .vlvShortGndOn n
        let s3 := overList (bankChans (n / 4)) State.cancelState s2
        let s4 := (s3.setVlv n { s3.vlv n with gndOn := true }).lock n lShortGnd
        (s4.lockBank (n / 4)).bankSettle (n / 4)

/-! ### Off-state diagnosis (R228, R229) -/

/-- OFF_VERDICT (Table 10.9). -/
def Verdict.code : Verdict → Nat
  | .none => 0 | .ok => 1 | .openV => 2 | .shortGnd => 3 | .shortSup => 4 | .leak => 5 | .bankGnd => 6 | .bankSup => 7

/-- OFF_STATE_TEST_START. -/
def State.testStart (s : State) (b : Nat) : State :=
  let k := s.bk b
  let quiet := match k.quiet with | some t => s.passed t 25000 | none => false
  let apart := match k.lastTest with | some t => s.passed t 512000 | none => true
  if quiet && apart && s.diagMode && k.test.isNone && (bankChans b).any (fun n => s.b (F.VLV_DIAG_CFG_OFF_EN n)) then
    s.setBk b { k with test := some s.now, lastTest := some s.now, pu := none }
  else s

/-- OFF_STATE_PU_END. -/
def State.testPu (s : State) (b : Nat) (node : NodeClass) (ds : List NodeClass) : State :=
  let k := s.bk b
  match k.test with
  | some t => if s.passed t 50000 && k.pu.isNone then s.setBk b { k with pu := some (node, ds) } else s
  | none => s

/-- Table 10.4. -/
def offVerdict (hu hd vu vd : NodeClass) : Verdict :=
  match hu, hd with
  | .lo, .lo => .bankGnd
  | .hi, .hi => .bankSup
  | .mid, .mid =>
    match vu, vd with
    | .mid, .mid => .ok
    | .hi, .lo => .openV
    | .lo, .lo => .shortGnd
    | .hi, .hi => .shortSup
    | _, _ => .leak
  | _, _ => .leak

/-- Pending unlocks of the bank's channels, judged on a completed test (R234, Table 10.6); a cause that needs the
channel's own verdict stays pending where the test gives the channel none. -/
def State.judgePend (s : State) (b : Nat) (mid : Bool) (vs : List (Nat × Verdict)) : State :=
  let short := vs.any (fun e => e.2 == .shortGnd || e.2 == .shortSup)
  let ground := (bankChans b).any (fun n => (s.vlv n).gndOn)
  overList (bankChans b) (fun s n =>
    let v := s.vlv n
    if v.pend = 0 then s
    else
      let ok := vs.any (fun e => e.1 == n && e.2 == .ok)
      let seen := vs.any (fun e => e.1 == n)
      let left := if seen then 0 else ([lShortGnd, lShortSup].filter (fun c => v.pend.testBit c && !(c == lShortGnd && v.gndOn))).foldl setBit 0
      let s1 := (s.setVlv n { v with pend := left }).setB (F.VLV_DIAG_STAT_UNLOCK_PEND n) (left ≠ 0)
      let good := fun (c : Nat) => if c = lBank then mid && !(ground && short) else if c = lShortGnd && v.gndOn then mid && !short else ok
      overList [lShortGnd, lShortSup, lBank] (fun s c => if v.pend.testBit c && good c then s.unlockCause n c else s) s1) s

/-- A verdict of a completed test acts (R229): OK at once, a fault when the test before gave it too; `was` is what that gave
the channel, or the bank's node. -/
def State.actVerdict (s : State) (n : Nat) (x was : Verdict) : State :=
  let s0 := s.setVlv n { s.vlv n with lastTest := x }
  if x = .ok then s0.setF (F.VLV_DIAG_STAT_OFF_VERDICT n) x.code
  else if was ≠ x then s0
  else
    let rise := s.f (F.VLV_DIAG_STAT_OFF_VERDICT n) ≠ x.code
    let s1 := s0.setF (F.VLV_DIAG_STAT_OFF_VERDICT n) x.code
    let s2 := s1.sticky n
    match x with
    | .openV => if s.b (F.VLV_DIAG_CFG_LOCK_OPEN n)
        then (if s.cause n lOpen then s2 else (s2.vlog .vlvOpenOff n).lock n lOpen)
        else if rise then s2.vlog .vlvOpenOff n else s2
    | .shortGnd => if s.cause n lShortGnd then s2 else (s2.vlog .vlvShortGndOff n).lock n lShortGnd
    | .shortSup => if s.cause n lShortSup then s2 else (s2.vlog .vlvShortSupOff n).lock n lShortSup
    | .leak => if rise then (s2.vlog .vlvDiagLeak n).pulse (216 + n / 4) else s2
    | .bankGnd | .bankSup =>
        let code := if x = .bankGnd then LogCode.vlvBankShortGnd else LogCode.vlvBankShortSup
        let s3 := if rise || !s.cause n lBank then s2.logOnceFor code (n / 4) (n / 4) (n / 4) else s2
        s3.lockBank (n / 4)
    | _ => s2

/-- OFF_STATE_PD_END. -/
def State.testPd (s : State) (b : Nat) (node : NodeClass) (ds : List NodeClass) : State :=
  let k := s.bk b
  match k.test, k.pu with
  | some t, some (hu, vus) =>
    if !s.passed t 100000 then s
    else
      let chans := ((bankChans b).zip (vus.zip ds)).filter (fun e => s.b (F.VLV_DIAG_CFG_OFF_EN e.1))
      let vs := chans.map (fun e => (e.1, offVerdict hu node e.2.1 e.2.2))
      let nodeV := offVerdict hu node .mid .mid
      let bank := fun (x : Verdict) => x == .bankGnd || x == .bankSup
      let k1 := { k with test := none, pu := none, lastNode := if bank nodeV then nodeV else .none }
      let s1 := overList chans (fun s e => s.bump (R.VLV_CNT_TEST e.1)) (s.setBk b k1)
      let s2 := s1.judgePend b (hu == .mid && node == .mid) vs
      let out := (bankChans b).filter (fun n => !s.b (F.VLV_DIAG_CFG_OFF_EN n))
      let s3 := overList out (fun s n => s.setVlv n { s.vlv n with lastTest := .none }) s2
      (overList vs (fun s e => s.actVerdict e.1 e.2 (if bank e.2 then k.lastNode else (s.vlv e.1).lastTest)) s3).bankSettle b
  | _, _ => s

/-! ### Unlocking and offset calibration (R227, R232, R234) -/

/-- A channel's cause is to clear when a test shows it gone. -/
def State.pendUnlock (s : State) (n c : Nat) : State :=
  (s.setVlv n { s.vlv n with pend := setBit (s.vlv n).pend c }).setB (F.VLV_DIAG_STAT_UNLOCK_PEND n) true

/-- VLV_UNLOCK (R227, R234): with AUTO_UNLOCK a thermal lock waits for the boundary. -/
def State.unlock (s : State) (n : Nat) : State :=
  let s1 := if s.cause n lOpen then s.unlockCause n lOpen else s
  let auto := (s.rd (R.COILW n 13)).getLsbD 1
  let s2 := if s.cause n lThermal && s.cooled n && !auto then s1.unlockCause n lThermal else s1
  let s3 := overList [lShortGnd, lShortSup] (fun s c => if s.cause n c then s.pendUnlock n c else s) s2
  let s4 := if s.cause n lBank then
      overList (bankChans (n / 4)) (fun s m => if s.cause m lBank then s.pendUnlock m lBank else s) s3 else s3
  s4.bankSettle (n / 4)

/-- OFFSET_CALIBRATION_DONE: 256 codes are summed. -/
def State.offsetDone (s : State) (n : Nat) : State :=
  let v := s.vlv n
  if v.calN < 256 || !s.diagMode then s
  else
    let c := (v.calSum + 128) / 256
    let s1 := s.setVlv n { v with calSum := 0, calN := 0, cal := true }
    if 16 ≤ c && c ≤ 112 then
      ((s1.setF (F.VLV_OFS_OFS n) c).setB (F.VLV_OFS_VALID n) true).setB (F.VLV_DIAG_STAT_OFS_BAD n) false
    else if s.b (F.VLV_DIAG_STAT_OFS_BAD n) then s1
    else (((s1.setB (F.VLV_DIAG_STAT_OFS_BAD n) true).sticky n).vlog .vlvOfsBad n).pulse (216 + n / 4)

/-! ### The valve supply guard (R233) -/

/-- RBG after anything it depends on has changed; while it is off the channels go off and BST_G is held. -/
def State.guardSettle (s : State) : State :=
  let was := s.b F.PWR_VSG_STAT_GATE
  let on := s.b F.PWR_VSG_CTL_EN && decide (2 ≤ s.mode) && !s.b F.PWR_RAIL_STAT_VGD_UV && s.bst.qualified && (was || s.bst.vinAbove)
    && !s.b F.PWR_VSG_STAT_REVERSED && !s.b F.PWR_VSG_STAT_RCURR && !s.b F.PWR_VSG_STAT_UV && !s.pwr.vsgHeld
  let s1 := s.setB F.PWR_VSG_STAT_GATE on
  let s2 := overList (List.range 32) (fun s n => s.setB (F.VLV_DIAG_STAT_SUPPLY_OFF n) (!on)) s1
  let ends := (List.range 32).filter (fun n => !on && ((s.vlv n).st.runs || (s.vlv n).wait.isSome))
  (s2.vEndAll ends State.cancelSupply State.vStop).bstCompare

/-- VIN_QUALIFIED: VIN has stayed at or above VIN_MIN for 1 ms; `above` says that it is not below VS_SNS. -/
def State.vinGood (s : State) (above : Bool) : State :=
  if s.b F.PWR_VSG_STAT_REVERSED || s.b F.PWR_VSG_STAT_UV then s
  else { s with bst := { s.bst with qualified := true, vinAbove := above } }.guardSettle

/-- VIN_FAULT. -/
def State.vinBad (s : State) (k : VinKind) : State :=
  (match k with
   | .reversed => if s.b F.PWR_VSG_STAT_REVERSED then s else
       let s1 := (s.setB F.PWR_VSG_STAT_REVERSED true).setB F.PWR_VSG_STAT_REV_SEEN true
       { (s1.log .vlvVsReversed wholeDevice 0).pulse 225 with bst := { s1.bst with qualified := false } }
   | .undervoltage => if s.b F.PWR_VSG_STAT_UV then s else
       let s1 := (s.setB F.PWR_VSG_STAT_UV true).pulse 225
       { s1 with bst := { s1.bst with qualified := false } }
   | .reverseCurrent => { s.setB F.PWR_VSG_STAT_RCURR true with bst := { s.bst with vinAbove := false } }).guardSettle

/-- VIN_RECOVERED: the condition has gone; after RCURR alone RBG returns at once. -/
def State.vinBack (s : State) (k : VinKind) : State :=
  (match k with
   | .reversed => s.setB F.PWR_VSG_STAT_REVERSED false
   | .undervoltage => s.setB F.PWR_VSG_STAT_UV false
   | .reverseCurrent => { s.setB F.PWR_VSG_STAT_RCURR false with bst := { s.bst with vinAbove := true } }).guardSettle

/-! ### The meanings -/

def execValveSenseResult (n : Fin 32) (code : BitVec 12) (s : State) : Host.Outcome State Fault Refusal := .next (s.senseResult n.val code.toNat)
def execValveModel (s : State) : Host.Outcome State Fault Refusal := .next s.valveModel
def execVlvUnlock (r : Requester) (n : Fin 32) (s : State) : Host.Outcome State Fault Refusal :=
  .next (s.writeBy (wordTo r (R.VLV_UNLOCK n.val) 1) (fun s => s.unlock n.val))
def execOffStateTestStart (b : Fin 8) (s : State) : Host.Outcome State Fault Refusal := .next (s.testStart b.val)
def execOffStatePuEnd (b : Fin 8) (node d0 d1 d2 d3 : NodeClass) (s : State) : Host.Outcome State Fault Refusal :=
  .next (s.testPu b.val node [d0, d1, d2, d3])
def execOffStatePdEnd (b : Fin 8) (node d0 d1 d2 d3 : NodeClass) (s : State) : Host.Outcome State Fault Refusal :=
  .next (s.testPd b.val node [d0, d1, d2, d3])
def execOvercurrentDetect (n : Fin 32) (s : State) : Host.Outcome State Fault Refusal := .next (s.overcurrent n.val)
def execTOpenExpiry (n : Fin 32) (s : State) : Host.Outcome State Fault Refusal := .next (s.openCheck n.val)
def execFlybackCheckEnd (n : Fin 32) (vdrHigh : Bool) (s : State) : Host.Outcome State Fault Refusal := .next (s.flybackEnd n.val vdrHigh)
def execOffsetCalibrationDone (n : Fin 32) (s : State) : Host.Outcome State Fault Refusal := .next (s.offsetDone n.val)
def execVinQualified (aboveVs : Bool) (s : State) : Host.Outcome State Fault Refusal := .next (s.vinGood aboveVs)
def execVinFault (kind : VinKind) (s : State) : Host.Outcome State Fault Refusal := .next (s.vinBad kind)
def execVinRecovered (kind : VinKind) (s : State) : Host.Outcome State Fault Refusal := .next (s.vinBack kind)

end Sys2Proof.Machine
end

