-- ==== Sys2Proof/Machine/Tether.lean ====
section
/-! DEFINITION. The Tether ring (R252 to R270) and the discipline of the time base by it (R50 to R52). A frame is its 644
bytes between /S/ and /T/; stamps are in 1/16 tick. -/

namespace Sys2Proof.Machine

open Sys2Proof

/-! ### Frames as bytes (R256) -/

/-- A little-endian field of a frame. -/
def fget (f : List Nat) (o n : Nat) : Nat := ofBytes ((f.drop o).take n)

/-- A frame with a field replaced. -/
def fput (f : List Nat) (o n v : Nat) : List Nat := f.take o ++ bytesOf n v ++ f.drop (o + n)

/-- A frame with a run of bytes replaced. -/
def fputs (f : List Nat) (o : Nat) (bs : List Nat) : List Nat := f.take o ++ bs ++ f.drop (o + bs.length)

/-- CHECK over bytes 0 to 639. -/
def frameCrc (f : List Nat) : Nat := crcOf crc32cPoly (f.take 640)

/-- A frame with its CHECK: right, or the stomped form of R257. -/
def sealFrame (f : List Nat) (stomp : Bool) : List Nat :=
  f.take 640 ++ bytesOf 4 (frameCrc f ^^^ (if stomp then 0xFFFFFFFF else 0))

def frameGood (f : List Nat) : Bool := f.length == 644 && fget f 640 4 == frameCrc f
def frameStomped (f : List Nat) : Bool := f.length == 644 && fget f 640 4 == (frameCrc f ^^^ 0xFFFFFFFF)

/-- The slots of a frame that are present: AGE at most 1 (R263). -/
def presentSlots (f : List Nat) : List Nat := (List.range 32).filter (fun i => fget f (352 + 8 * i) 1 % 4 ≤ 1)

/-- The lowest MAJOR among the present slots. -/
def minMajor (f : List Nat) : Nat := (presentSlots f).foldl (fun m i => min m (fget f (353 + 8 * i) 1)) 255

/-! ### Roles and states (Table 12.8) -/

def State.devId (s : State) : Nat := s.f F.TTH_CFG_DEV_ID
/-- ROLE: 0 MEMBER, 1 MASTER, 2 BRIDGE; 3 acts as MEMBER. -/
def State.role (s : State) : Nat := let r := s.f F.TTH_CFG_ROLE; if r = 3 then 0 else r
/-- The rank an origin carries in PRIO (R264). -/
def State.rank (s : State) : Nat := if s.role = 0 then min 14 (s.f F.TTH_CFG_PRIO) else 15
def State.tthEn (s : State) : Bool := s.b F.TTH_CTL_EN
/-- SYS_FW_VER: the running firmware's version, once the boot has set it (Table 18.5). -/
def State.fwVer (s : State) : Nat :=
  if s.sys.boot = .done then (match s.sys.fw with | some v => v | none => Config.romVersion.toNat) else 0
def State.tthMajor (s : State) : Nat := s.fwVer / 65536

/-- Does a port fold: since it went DOWN, or while it is DOWN (R252, R265)? -/
def State.folds (s : State) (p : Nat) : Bool := (s.port p).loop || (s.port p).link == .down

/-- STAT.WRAPPED: this device folds. -/
def State.wrapped (s : State) : Bool := s.tthEn && (s.folds 0 || s.folds 1)

/-- TTH_p_STAT as it reads: LOOP shows that frames for the port are folded back (Table 12.8). -/
def State.tthpStat (s : State) (p : Nat) : Word := setBits (s.rd (R.TTHP_STAT p)) 2 1 (toBit (s.tthEn && s.folds p))

/-- STAT.STATE: 0 OFF, 1 SEEK, 2 MEMBER, 3 ORIGIN, 4 ISOLATED. -/
def State.tthState (s : State) : Nat :=
  if !s.tthEn then 0
  else if !s.tth.joined && !s.tth.origin then 1
  else if (s.port 0).link == .down && (s.port 1).link == .down then 4
  else if s.tth.origin then 3 else 2

/-- The device belongs to a ring (R39). -/
def State.inRing (s : State) : Bool := decide (2 ≤ s.tthState)

/-- Signed asymmetry of a port, or of the gate (R259). -/
def State.asym (s : State) (p : Nat) : Int := signed 16 (if p = 2 then s.f F.TTH_GATE_ASYM_ASYM else s.f (F.TTHP_ASYM_ASYM p))

/-! ### Links (R254, R255) -/

/-- The link state in the registers, and its interrupt (R270). -/
def State.setLink (s : State) (p : Nat) (l : LinkSt) : State :=
  let c := match l with | .down => 0 | .sync => 1 | .ready => 2
  let s1 := s.setPort p { s.port p with link := l }
  (if p = 2 then s1.setF F.TTH_GATE_STAT_LINK c else s1.setF (F.TTHP_STAT_LINK p) c).pulse 233

/-- The delay of a port in its register. -/
def State.showDelay (s : State) (p : Nat) : State :=
  let v := trunc 24 (s.port p).d
  if p = 2 then s.setF F.TTH_GATE_DELAY_DELAY v else s.setF (F.TTHP_DELAY_DELAY p) v

/-- Forget the delay measurement of a port (R255). -/
def State.dropDelay (s : State) (p : Nat) : State :=
  (s.setPort p { s.port p with n := 0, sum := 0, d := 0, dq := [], dqBeat := none }).showDelay p

/-- LINK_DOWN: a port folds the ring (R265); the gate is lost to a bridge (R267). -/
def State.linkDown (s : State) (p : Nat) : State :=
  if (s.port p).link = .down then s
  else
    let s1 := (s.setLink p .down).dropDelay p
    if p = 2 then (if s.role = 2 then s1.log .tthGateLost 2 0 else s1)
    else
      let s2 := ((s1.bump (R.TTHP_CNT_DOWN p)).setB (F.TTHP_STAT_DOWN_SEEN p) true).setB (F.TTHP_STAT_LOOP p) true
      let s3 := s2.setPort p { s2.port p with loop := true }
      { (s3.log .tthNeighbourLost p p).pulse 234 with tth := { s3.tth with pathLogged := false, unwrapIn := none } }

/-- LINK_SYNC. -/
def State.linkSync (s : State) (p : Nat) : State := if s.tthEn && (s.port p).link == .down then s.setLink p .sync else s

/-- DELAY_REQUEST: one in every beat, in the first gap; the transmitters stop with the time base (R21, R254). -/
def State.delayReq (s : State) (p : Nat) (t1 : BitVec 52) : State :=
  let x := s.port p
  if x.link = .down || x.dqBeat = some s.tb.beat || !s.tb.running then s
  else s.setPort p { x with dq := (x.seq, t1, s.tb.beat) :: x.dq.take 2, dqBeat := some s.tb.beat, seq := (x.seq + 1) % 256 }

/-- DELAY_RESPONSE: SEQ pairs it with its request; the arithmetic of R255; the 16th makes the port READY. -/
def State.delayResp (s : State) (p seq turn : Nat) (t4 : BitVec 52) : State :=
  let x := s.port p
  match x.dq.find? (fun e => e.1 == seq) with
  | none => s
  | some (_, t1, _) =>
    let rtt := (t4 - t1).toNat
    let dq := x.dq.filter (fun e => e.1 != seq)
    if x.link = .down || 32 * s.P < rtt then s
    else
      let dm : Int := ((rtt : Int) - (turn : Int)) / 2
      let y := if x.n < 16 then { x with n := x.n + 1, sum := x.sum + dm, d := divT (x.sum + dm) ((x.n : Int) + 1), dq := dq }
               else { x with d := x.d + (dm - x.d) / 16, dq := dq }
      let s1 := (s.setPort p y).showDelay p
      if y.n = 16 && x.link = .sync then s1.setLink p .ready else s1

/-- DELAY_REQUEST_RECEIVED: the answer with its turnaround. -/
def State.delayAsked (s : State) (p seq : Nat) (tIn tOut : BitVec 52) : State :=
  let x := s.port p
  if x.link = .down || !s.tb.running then s else s.setPort p { x with answered := some (seq, (tOut - tIn).toNat % 2 ^ 24) }

/-! ### Discipline (R50 to R52): 0 FREE, 1 ACQUIRE, 2 LOCKED, 3 HOLDOVER -/

def State.disc (s : State) : Nat := s.f F.TB_DISC_STAT_STATE

/-- A discipline state entered. -/
def State.setDisc (s : State) (d : Nat) : State :=
  { s.setF F.TB_DISC_STAT_STATE d with tb := { s.tb with discGood := 0, discNone := 0 } }

/-- The step of the loop outside HOLDOVER: what the two oscillators differ by, a value that no rule states, and against
the offset the slew of SLEW_PPM, all in units of 0.01 ppm and within ±100 ppm (R51; DESIGN CHOICE, log entry 2). -/
def State.steer (s : State) (ofs : Int) : State :=
  let (k, s1) := s.draw
  let slew : Int := 100 * max 1 (min 50 (s.f F.TB_DISC_CFG_SLEW_PPM))
  let drift := sat (Config.freqCorrection k).toInt (-10000) 10000
  s1.setF F.TB_DISC_FREQ_FREQ (trunc 24 (sat (drift - slew * ofs.sign) (-10000) 10000))

/-- Time data of a beat: the offset in 1/16 tick (R52, R259). In HOLDOVER TTH_TIME_FAR is logged when FAR rises, not at every far
datum (DESIGN CHOICE, log entry 154). -/
def State.timeData (s : State) (ofs : Int) : State :=
  let s1 := { s.setF F.TB_DISC_OFS_OFS (trunc 24 (sat ofs (-8388608) 8388607)) with tb := { s.tb with discData := true } }
  let far := decide ((8000 * s.f F.TB_DISC_CFG_FAR_US : Nat) < ofs.natAbs)
  match s.disc with
  | 0 => s1
  | 3 =>
    if s.b F.TB_DISC_STAT_FAR then s1
    else if far then (s1.setB F.TB_DISC_STAT_FAR true).log .tthTimeFar wholeDevice 0
    else (s1.setDisc 1).steer ofs
  | d =>
    if far then ((s1.setDisc 3).setB F.TB_DISC_STAT_FAR true).log .tthTimeFar wholeDevice 0
    else
      let good := decide (ofs.natAbs ≤ 16)
      { s1 with tb := { s1.tb with discGood := if d = 1 && good then s1.tb.discGood + 1 else 0 } }.steer ofs

/-- DISCIPLINE_LOCKED. -/
def State.discLocked (s : State) : State := if s.disc = 1 && 64 ≤ s.tb.discGood then s.setDisc 2 else s

/-- DISCIPLINE_HOLDOVER: four beats without time data. -/
def State.discHoldover (s : State) : State :=
  if (s.disc = 1 || s.disc = 2) && 4 ≤ s.tb.discNone then (s.setDisc 3).log .tthTimeHoldover wholeDevice 0 else s

/-! ### Master angles (R98, R262) -/

/-- A tracker in VIRT_TETHER takes the record of its master angle from a checked copy, one valid sample in a beat; `u` is the
first tick after. -/
def State.tetherSample (s : State) (n : Nat) (f : List Nat) : State :=
  let o := 32 + 20 * (s.f (F.WHL_VIRT_SRC n) % 16)
  let u := s.now
  let th := fget f o 5
  let rm := fget f (o + 5) 3
  let tm : Time := BitVec.ofNat 48 (fget f (o + 8) 6)
  let cpc := let c := fget f (o + 14) 3; if c = 0 then 2 ^ 24 else c
  let st := fget f (o + 17) 1
  let m := s.rawM n
  let t := s.tr n
  let el := since u tm
  if t.st = .off || s.tmode n ≠ 6 || t.tthSeen then s
  else
    let tracked := st % 8 == 3 || st % 8 == 4
    let same := cpc == s.cpc n
    let s0 := if !same && !t.tthBadC then s.log .whlTetherCMismatch n 0 else s
    let t0 := { t with tthBadC := !same }
    if !tracked || !same || 2 * s.P ≤ el then s0.setTr n t0
    else
      let good := t0.tthGood + 1
      let t1 := { t0 with tthGood := good, tthSeen := true }
      if t.st = .lost || (t.st = .acquire && good < 3) then s0.setTr n t1
      else
        let s1 := (s0.setTr n t1).setSt n .sync
        let lam := (th + el * rm) % m
        let t2 := s1.tr n
        if st.testBit 3 then
          let s2 := s1.turnBack n
          s2.setTr n { s2.tr n with a := lam, pred := lam }
        else if t2.dir then s1.setTr n { t2 with dir := false, turning := true, a := lam, pred := lam }
        else
          let run := 2 * s.P * rm
          let fresh := t.st == .acquire || t2.turning
          s1.setTr n { t2 with lawOn := true, lam := lam, q := rm, rem := 0, den := 1, acc := 0, run := run
                               h := (lam + run) % m, gone := 0, elTicks := el, freshLaw := true, turning := false
                               a := if fresh then lam else t2.a, pred := if fresh then lam else t2.pred }

/-- At a boundary: a beat without a valid sample counts (R98). -/
def State.tetherBeat (s : State) (n : Nat) : State :=
  let t := s.tr n
  if s.tmode n ≠ 6 || t.st = .off then s
  else s.setTr n { t with tthSeen := false, tthGood := if t.tthSeen then t.tthGood else 0
                          tthNone := if t.tthSeen then 0 else t.tthNone + 1 }

/-- Record `j` as this device publishes it from its latest sense snapshot (R262). -/
def State.angleRec (s : State) (j : Nat) : List Nat :=
  let n := s.f (F.TTH_ANG_CFG_TRK j)
  let x := s.snapOf n
  bytesOf 5 x.a ++ bytesOf 3 x.q ++ bytesOf 6 s.tb.t0.toNat ++ bytesOf 3 (s.f (F.WHL_CPC_C n))
    ++ [x.st.code + 8 * toBit x.dir, s.devId, n]

/-- The records this device writes into a copy. -/
def State.putAngles (s : State) (f : List Nat) : State × List Nat :=
  (List.range 16).foldl (fun (x : State × List Nat) j =>
    let src := x.1.f (F.TTH_ANG_CFG_SRC j)
    let pub := fget x.2 (32 + 20 * j + 18) 1 % 32
    if src = 1 then
      let clash := pub ≠ 0 && pub ≠ x.1.devId && !x.1.tth.angLogged.contains j
      let s1 := if clash then { x.1.log .tthAngConflict wholeDevice 0 with tth := { x.1.tth with angLogged := j :: x.1.tth.angLogged } } else x.1
      (s1, fputs x.2 (32 + 20 * j) (s1.angleRec j))
    else if src = 2 && x.1.role = 2 && x.1.tth.origin && x.1.tth.gate.length = 644 then
      (x.1, fputs x.2 (32 + 20 * j) ((x.1.tth.gate.drop (32 + 20 * j)).take 20))
    else x) (s, f)

/-- This device's slot (Table 12.5). -/
def State.slotRec (s : State) : List Nat :=
  let p := fun i => s.port i
  [4 * toBit (s.mode == 6) + 8 * toBit (p 0).loop + 16 * toBit (p 1).loop + 32 * toBit ((p 0).link == .ready)
     + 64 * toBit ((p 1).link == .ready) + 128 * toBit s.tth.joined, s.tthMajor]
    ++ bytesOf 3 (s.f F.TTH_SLOT_TX_LO_USER_LO) ++ bytesOf 3 (s.f F.TTH_SLOT_TX_HI_USER_HI)

/-- Latch the slots of a processed copy (R258). -/
def State.latchSlots (s : State) (f : List Nat) : State :=
  overList (List.range 32) (fun s i =>
    let o := 352 + 8 * i
    let st := fget f o 1
    ((s.wr (R.TTH_SLOT_LO i) (BitVec.ofNat 32 (fget f (o + 2) 3))).wr (R.TTH_SLOT_HI i) (BitVec.ofNat 32 (fget f (o + 5) 3))).wr
      (R.TTH_SLOT_STAT i) (packed [(st, 0), (fget f (o + 1) 1, 8), (toBit (decide (st % 4 ≤ 1)), 16)])) s

/-! ### Messages (R347, R348) -/

/-- A message of the copy for this device enters the queue; the device it is addressed to clears DEST. -/
def State.takeMsg (s : State) (f : List Nat) : State × List Nat :=
  let dest := fget f 608 1
  let mine := dest == 0x80 + s.devId
  if !(mine || dest == 0xFF) || fget f 609 1 == s.devId then (s, f)
  else
    let len := min 28 (fget f 611 1)
    let msg : Msg := { src := fget f 609 1, kind := fget f 610 1, beat := fget f 4 3, data := (f.drop 612).take len }
    let s1 := if s.tth.msgs.length < 16 then { s with tth := { s.tth with msgs := s.tth.msgs ++ [msg] } }
              else s.log .tthMsgLost wholeDevice 0
    (s1, if mine then fput f 608 1 0 else f)

/-- A message of a feature that the ring's version holds off (R268, R348). -/
def State.msgHeld (s : State) (v : Svc) : Bool := 0x80 ≤ v.args.getD 1 0 && s.b F.TTH_VER_FEAT_HELD

/-- A boundary of the TTH_MSG_SEND that waits in a mailbox: held off by a lower version (R268), or one beat less of its 64
(R348). -/
def State.msgBeat (s : State) (m : Nat) : State :=
  match s.awaiting m 0x701 with
  | none => s
  | some v =>
    if s.msgHeld v then s.complete m statusVersion 0 []
    else if v.arg ≤ 1 then s.complete m statusTimeout 0 []
    else s.setSvc m { v with arg := v.arg - 1 }

/-- The first mailbox with a TTH_MSG_SEND that waits for a free area. -/
def State.msgSender (s : State) : Option (Nat × Svc) :=
  (List.range 4).findSome? (fun m => (s.awaiting m 0x701).map (fun v => (m, v)))

/-- A message waiting to be sent leaves in a copy whose area is free; its command completes with the frame's beat. -/
def State.sendMsg (s : State) (f : List Nat) : State × List Nat :=
  match s.msgSender with
  | none => (s, f)
  | some (m, v) =>
    if fget f 608 1 ≠ 0 then (s, f)
    else
      let d := (v.args.drop 4).take 28
      let f1 := fputs f 608 ([v.args.getD 0 0, s.devId, v.args.getD 1 0, v.args.getD 2 0] ++ d ++ List.replicate (28 - d.length) 0)
      (s.complete m statusOk 0 (bytesOf 3 (fget f 4 3)), f1)

/-! ### Processing a copy (R258, R259, R264) -/

/-- What the registers show of a processed copy (Table 12.8); a change of the ring's fold lets TTH_PATH_LONG be logged
again (R258). -/
def State.showCopy (s : State) (f : List Nat) (path : Int) : State :=
  let present := presentSlots f
  let ver := fget f 1 1
  let oldVer := s.f F.TTH_VER_RING_VER
  let org := fget f 3 1 % 32
  let s1 := ((((s.setB F.TTH_STAT_RING_WRAPPED ((fget f 3 1).testBit 6)).setF F.TTH_STAT_ORIGIN org).setF F.TTH_STAT_MEMBERS present.length).setF
    F.TTH_STAT_HOPS (fget f 21 1)).setF F.TTH_PATH_PATH (trunc 24 path)
  let s2 := ((s1.setF F.TTH_VER_RING_VER ver).setF F.TTH_VER_MIN_SEEN (minMajor f)).setB F.TTH_VER_FEAT_HELD (decide (ver < s.tthMajor))
  let first := s.tth.last.isNone
  let turned := (fget f 3 1).testBit 6 != s.b F.TTH_STAT_RING_WRAPPED
  let s2 := if turned then { s2 with tth := { s2.tth with pathLogged := false } } else s2
  let s3 := if !first && (org ≠ s.f F.TTH_STAT_ORIGIN || ver ≠ oldVer) then s2.pulse 234 else s2
  (if !first && ver < oldVer then s3.log .tthRingVerFell wholeDevice 0 else s3).pulse 235

/-- TTH_PATH_LONG of a processed copy, once after each change of the ring's fold (R258). -/
def State.pathLong (s : State) (f : List Nat) : State :=
  if s.P ≤ since s.now (BitVec.ofNat 48 (fget f 8 6)) && !s.tth.pathLogged then
    { s.log .tthPathLong wholeDevice 0 with tth := { s.tth with pathLogged := true } }
  else s

/-- The offset of the local time base, and the path, of a copy received on port `p` with /S/ stamped at `r` (R259). -/
def State.offsetOf (s : State) (p : Nat) (f : List Nat) (r : BitVec 52) : Int × Int :=
  let path : Int := (fget f 16 4 : Int) + (s.port p).d + s.asym p
  let mt : Int := (16 * fget f 8 6 + fget f 14 2 : Nat) + path
  (signed 52 (trunc 52 ((r.toNat : Int) - mt)), path)

/-- A join at this copy (R50, R261; the present slot of a member is its own): refused, or the one load of the time base, of the beat phase and of the beat number;
the beat is that of PERIOD_US, which is the ring's. -/
def State.tryJoin (s : State) (p : Nat) (f : List Nat) (r : BitVec 52) (step : Bool) : State :=
  let s0 := s.setB F.TTH_CTL_JOIN false
  let ver := fget f 1 1
  let idTaken := !s.tth.joined && fget f (352 + 8 * s.devId) 1 % 4 ≤ 1 && (fget f (352 + 8 * s.devId) 1).testBit 7
  if fget f 7 1 ≠ s.f F.TB_BEAT_CFG_PERIOD_US then s0.log .tthBeatMismatch wholeDevice 0
  else if 1 < s.tthMajor - ver || 1 < ver - s.tthMajor then s0.log .tthVersionMismatch wholeDevice 0
  else if idTaken then s0.log .tthIdConflict wholeDevice 0
  else
    let s1 := { (s0.setDisc 1).setB F.TB_DISC_STAT_FAR false with tth := { s0.tth with joined := true, angLogged := [], pathLogged := false, seen := [] } }
    if !step then s1
    else
      let ofs := (s.offsetOf p f r).1
      let v : Int := 16 * (s.now.toNat : Int) - ofs
      let now : Time := BitVec.ofInt 48 (2 * ((v + 16) / 32))
      let bnd : Time := BitVec.ofNat 48 (fget f 8 6)
      let us := s.f F.TB_BEAT_CFG_PERIOD_US
      let ph := since now bnd % (500 * us)
      let s2 := s1.rebase now
      { s2 with tb := { s2.tb with phase := ph, beat := BitVec.ofNat 24 (fget f 4 3), periodUs := us, t0 := now - BitVec.ofNat 48 ph
                                   started := decide (200 ≤ ph), prepared := decide (500 * us ≤ ph + 128) } }

/-- An origin meets a copy of another origin: the lower rank yields at its next boundary (R264). -/
def State.meetOrigin (s : State) (f : List Nat) : State :=
  let org := fget f 3 1 % 32
  let prio := fget f 20 1 % 16
  let higher := decide (s.rank < prio) || (prio == s.rank && decide (org < s.devId))
  if !s.tth.origin || org = s.devId || !higher || s.tth.yielding then s
  else
    let s1 := s.log .tthMasterYield wholeDevice 0
    let s2 := if s.role = 1 && prio = 15 && !(fget f 3 1).testBit 5 then s1.log .tthMasterConflict wholeDevice 0 else s1
    { s2.setDisc 1 with tth := { s2.tth with yielding := true, joined := true } }

/-- Is this the first copy of its beat's frame: newer than every beat of its origin that has been processed (R258)? A member takes
one origin's frame in a beat of its own. -/
def State.firstCopy (s : State) (f : List Nat) : Bool :=
  let org := fget f 3 1 % 32
  let step := fun (b : BitVec 24) => (BitVec.ofNat 24 (fget f 4 3) - b).toNat
  let newer := match s.tth.seen.find? (fun e => e.1 == org) with
    | some e => decide (0 < step e.2) && decide (step e.2 < 2 ^ 23)
    | none => true
  let other := match s.tth.last with | some k => k.2 != org | none => false
  newer && !(s.tth.done && other && !s.tth.origin)

/-- Processing of the first good copy of a beat on port `p`: what this device takes from it, and the copy as it goes on. -/
def State.process (s : State) (p : Nat) (f : List Nat) (r : BitVec 52) : State × List Nat :=
  let org := fget f 3 1 % 32
  let own := s.tth.origin && org == s.devId
  let (ofs, path) := s.offsetOf p f r
  let s1 := (s.showCopy f path).meetOrigin f
  let s2 := { s1 with tth := { s1.tth with done := true, last := some (fget f 4 3, org)
                                           seen := (org, BitVec.ofNat 24 (fget f 4 3)) :: s1.tth.seen.filter (fun e => e.1 != org) } }
  let s3 := if own || s.role = 2 || (s.tth.origin && !s2.tth.yielding) then s2 else s2.timeData ofs
  let s4 := overList (List.range 16) (fun s n => s.tetherSample n f) s3
  let s5 := s4.latchSlots f
  let (s7, f1) := (s5.pathLong f).takeMsg f
  let (s8, f2) := if own then (s7, f1) else s7.sendMsg f1
  if own then (s8, f2)
  else
    let (s9, f3) := s8.putAngles (fputs f2 (352 + 8 * s.devId) s8.slotRec)
    (s9, f3)

/-- A copy of an own frame has come back to the origin: it is kept for the next frame, its message area is cleared, in what
goes on of it too, and the ring's version is judged (R263, R268, R347). -/
def State.returned (s : State) (f : List Nat) : State × List Nat :=
  let dest := fget f 608 1
  let lost := if 0x80 ≤ dest && dest < 0xA0 then 1 else 0
  let v := minMajor f
  let set_ := presentSlots f
  let x := s.tth
  let falls := v < x.ringVer
  let same := x.riseMin == v && x.riseSet == set_
  let again := x.retBeat == some (fget f 4 3)
  let g := fputs f 608 (List.replicate 32 0)
  let y := { x with ret := g, mgmtLost := x.mgmtLost + lost
                    ringVer := if falls then v else x.ringVer, riseMin := v, riseSet := set_
                    riseRun := if x.ringVer < v && same then (if again then x.riseRun else x.riseRun + 1) else 0
                    retBeat := some (fget f 4 3) }
  ({ s with tth := y }, g)

/-- RING_VER_RISE: the next frame carries the higher version. -/
def State.verRise (s : State) : State :=
  let x := s.tth
  if x.origin && x.ringVer < x.riseMin && 64 ≤ x.riseRun then
    { s with tth := { x with ringVer := x.riseMin, riseRun := 0 } }
  else s

/-- The folds end at the frame of the beat that UNWRAP, `un`, names, and `beat` gives the low bits of this frame's (R266). -/
def State.unfold (s : State) (un : Option Nat) (beat : Nat) : State :=
  let s0 := { s with tth := { s.tth with unwrapIn := un } }
  let reached := match un with | some b => (beat % 256 + (256 - b)) % 256 < 128 | none => false
  let ends := (List.range 2).filter (fun p => (s.port p).loop && (s.port p).link == .ready)
  if !reached || ends.isEmpty then s0
  else
    let s1 := overList ends (fun s p => ((s.setPort p { s.port p with loop := false }).setB (F.TTHP_STAT_LOOP p) false).log .tthRingClosed wholeDevice 0) s0
    { s1.pulse 234 with tth := { s1.tth with unwrapIn := none, pathLogged := false } }

/-- UNWRAP as a device knows it at frame `f`. -/
def State.unwrapAt (s : State) (f : List Nat) : Option Nat := if (fget f 23 1).testBit 0 then some (fget f 22 1) else s.tth.unwrapIn

/-- FRAME_RECEIVED on port `p`, /S/ stamped in at `r` and out at `so` (R257, R258). A frame that comes back to its origin on port
0 goes on out of port 1, whether that port folds or not. A join's load of the time base moves
the stamp with it; a bridge joins from its gate alone (R267). -/
def State.frameIn (s : State) (p : Nat) (f : List Nat) (r so : BitVec 52) : State :=
  if !s.tthEn || s.mode = 0 || !s.tb.running || (s.port p).link = .down || f.length ≠ 644 then s
  else
    let good := frameGood f
    let s1 := if good then { s with tth := { s.tth with heard := true } }
              else if frameStomped f then s.bump (R.TTHP_CNT_STOMP p) else s.bump (R.TTHP_CNT_CRC p)
    let org := fget f 3 1 % 32
    let own := org == s.devId && s.tth.origin
    let back := s1.role == 1 && good && !own && !s1.tth.origin && !s1.tth.joined && decide (s1.tth.sinceEn ≤ 4) && decide (fget f 20 1 % 16 < s1.rank)
    let s2 := if back then { s1 with tth := { s1.tth with returning := true, start := false } } else s1
    let join := good && !own && s.role ≠ 2 && ((s2.b F.TTH_CTL_JOIN && s.mode == 2) || back)
    let s3 := if join then s2.tryJoin p f r (s.mode == 2) else s2
    let s4 := if good then s3.unfold (s3.unwrapAt f) (fget f 4 1) else s3
    let first := good && (s4.tth.joined || s4.tth.origin) && s4.firstCopy f
    let r1 := r + BitVec.ofNat 52 (16 * (s3.now - s2.now).toNat)
    let (s5, f0) := if first then s4.process p f r1 else (s4, f)
    let (s6, f1) := if good && own then s5.returned f0 else (s5, f0)
    let hops := fget f 21 1 + 1
    let stop := (org == s.devId && (p == 1 || (s.port 1).link == .down)) || 64 < hops
    let gates := first && s6.b F.TTH_GATE_CFG_TX_EN
    if stop && !gates then s6
    else
      let corr := (fget f 16 4 : Int) + (s.port p).d + s.asym p + ((so - r).toNat : Int)
      let org3 := fget f1 3 1
      let f2 := fput (fput (fput f1 21 1 hops) 16 4 (trunc 32 corr)) 3 1 (if s6.wrapped then setBit org3 6 else org3)
      let out := if org == s.devId then 1 else if s6.folds (1 - p) then p else 1 - p
      let f3 := sealFrame f2 (!good)
      { s6 with tth := { s6.tth with sent := if stop then s6.tth.sent else some (out, f3), gateSent := if gates then f3 else s6.tth.gateSent } }

/-! ### Originating (R256, R263, R264, R266) -/

/-- The frame of this beat, built from the last copy that came back. -/
def State.ownFrame (s : State) (lag : Nat) : State × List Nat :=
  let x := s.tth
  let fresh := x.ret.length ≠ 644
  let base := if fresh then List.replicate 644 0 else x.ret
  let aged := (List.range 32).foldl (fun f i =>
    let b := fget f (352 + 8 * i) 1
    fput f (352 + 8 * i) 1 (b - b % 4 + min 3 (b % 4 + 1))) base
  let f0 := if fresh then base else aged
  let loops := (List.range 32).filter (fun i => fget f0 (352 + 8 * i) 1 / 8 % 4 ≠ 0)
  let allReady := !loops.isEmpty && loops.all (fun i => let b := fget f0 (352 + 8 * i) 1
    (!b.testBit 3 || b.testBit 5) && (!b.testBit 4 || b.testBit 6))
  let un := if !allReady then none else some (x.unwrapOut.getD ((s.tb.beat.toNat + 4) % 256))
  let depth := if s.role = 2 && x.gate.length = 644 then (fget x.gate 2 1 / 16 + 1) % 16 else 0
  let ver := if fresh && x.ringVer = 0 then s.tthMajor else x.ringVer
  let head := [1, ver, s.f F.TTH_CFG_RING_ID + 16 * depth,
      s.devId + 32 * toBit (s.role == 2) + 64 * toBit s.wrapped + 128 * toBit (s.role == 0)]
    ++ bytesOf 3 s.tb.beat.toNat ++ [s.f F.TB_BEAT_CFG_PERIOD_US] ++ bytesOf 6 s.tb.t0.toNat ++ bytesOf 2 lag ++ bytesOf 4 0
    ++ [s.rank, 0, un.getD 0, toBit un.isSome] ++ List.replicate 8 0
  let s1 := { s with tth := { x with ringVer := ver, unwrapOut := un } }
  let (s2, f1) := s1.putAngles (fputs (fputs f0 0 head) (352 + 8 * s.devId) s1.slotRec)
  let (s3, f2) := s2.sendMsg f1
  (s3, sealFrame f2 false)

/-- FRAME_ORIGINATE: on port 0, at or after tick 50 of the beat; a fold of the origin itself ends with the frame of the beat
that its UNWRAP names (R266). -/
def State.originate (s : State) (lag : Nat) : State :=
  if !s.tthEn || !s.tb.running || !s.tth.origin || s.tth.sentOwn || s.tb.phase < 50 || s.tb.due then s
  else
    let s0 := if s.tth.unwrapOut.isSome then s.unfold s.tth.unwrapOut s.tb.beat.toNat else s
    let (s1, f) := s0.ownFrame lag
    { s1 with tth := { s1.tth with sentOwn := true, sent := some (if s0.folds 0 then 1 else 0, f) } }

/-- May this device originate (R264)? -/
def State.mayOriginate (s : State) : Bool := s.role != 0 || s.f F.TTH_CFG_PRIO != 0

/-- ORIGINATION_START: four beats without a valid copy, or a returning master locked for 64 beats. -/
def State.origStart (s : State) : State :=
  let x := s.tth
  let silent := 4 ≤ x.silent
  let back := x.returning && 64 ≤ x.lockedRun
  if s.tthEn && s.mayOriginate && !x.origin && (silent || back) then { s with tth := { x with start := true } } else s

/-- FRAME_LOST_BEAT: the last beat passed without a processed copy. -/
def State.lostBeat (s : State) : State :=
  if s.tth.missed then { s with tth := { s.tth with missed := false } }.bump R.TTH_CNT_LOST else s

/-- GATE_COPY_RECEIVED: a bridge joins from the copy, which alone gives it its time, processes it under R258 and R259, time,
master angles, slots and path, and keeps it for its imported records (R267). What TTH_STAT and TTH_VER show of a ring stays
that of the bridge's own, but for HOPS and PATH (DEDUCED, log entry 158). -/
def State.gateIn (s : State) (f : List Nat) (r : BitVec 52) : State :=
  if !s.tthEn || s.role ≠ 2 || !s.b F.TTH_GATE_CFG_RX_EN || (s.port 2).link = .down || !frameGood f then s
  else
    let s1 := { s with tth := { s.tth with gate := f } }
    let s2 := if s1.b F.TTH_CTL_JOIN && s.mode == 2 then s1.tryJoin 2 f r true else s1
    if !s2.tth.joined then s2
    else
      let r1 := r + BitVec.ofNat 52 (16 * (s2.now - s1.now).toNat)
      let (ofs, path) := s2.offsetOf 2 f r1
      let s3 := overList (List.range 16) (fun s n => s.tetherSample n f) (s2.timeData ofs)
      let s4 := ((s3.latchSlots f).setF F.TTH_STAT_HOPS (fget f 21 1)).setF F.TTH_PATH_PATH (trunc 24 path)
      (s4.pathLong f).pulse 235

/-- The Tether's part of a beat boundary: origination starts and stops, and the beat's counts are closed (R264, R52). -/
def State.tthBoundary (s : State) : State :=
  let x := s.tth
  let org := if x.yielding then false else x.origin || x.start
  let changed := org != x.origin
  let y := { x with origin := org, start := false, yielding := false
                    returning := x.returning && !org, lockedRun := if x.returning && s.disc = 2 then x.lockedRun + 1 else 0
                    sinceEn := min 5 (x.sinceEn + 1), silent := if x.heard || x.sinceEn = 0 then 0 else x.silent + 1, heard := false
                    missed := x.missed || (x.joined && !x.done), done := false, sentOwn := false
                    ret := if changed then [] else x.ret, ringVer := if changed then 0 else x.ringVer
                    joined := x.joined || org }
  let d := s.tb.discData
  let s1 := { s with tth := y, tb := { s.tb with discData := false, discNone := if d then 0 else s.tb.discNone + 1,
                                                 discGood := if d then s.tb.discGood else 0 } }
  let s2 := if changed && org then (s1.setF F.TTH_STAT_ORIGIN s.devId).pulse 234 else s1
  let s3 := if org && !x.origin && s.role ≠ 2 then s2.setDisc 0 else s2
  let s4 := overList (List.range 16) State.tetherBeat s3
  overList (List.range 4) State.msgBeat s4

/-! ### Control (R257, R261) -/

/-- TTH_CTL_EN: the ports and the forwarding start or stop. -/
def State.tthEnable (s : State) (b : Bool) : State :=
  if b = s.tthEn then s
  else
    let s1 := s.setB F.TTH_CTL_EN b
    if b then { s1 with tth := { s1.tth with sinceEn := 0, silent := 0 } }
    else
      let s2 := overList (List.range 3) (fun s p => if (s.port p).link = .down then s else (s.setLink p .down).dropDelay p) s1
      let s3 := overList (List.range 2) (fun s p => (s.setPort p { s.port p with loop := false }).setB (F.TTHP_STAT_LOOP p) false) s2
      { s3.setDisc 0 with tth := { msgs := s3.tth.msgs, mgmtLost := s3.tth.mgmtLost } }

/-- TTH_CTL_JOIN: armed only in CONFIG. -/
def State.tthJoin (s : State) : State := if s.mode = 2 then s.setB F.TTH_CTL_JOIN true else s

/-- A write of TTH_CTL. -/
def State.tthCtl (s : State) (v : Word) : State :=
  let s1 := s.tthEnable (v.getLsbD 0)
  if v.getLsbD 1 then s1.tthJoin else s1

/-- TTH_STAT as it reads. -/
def State.tthStat (s : State) : Word :=
  (s.rd R.TTH_STAT &&& 0xFFFFF0) ||| packed [(s.tthState, 0), (toBit s.wrapped, 3)]

/-! ### The meanings -/

def execLinkDown (p : Fin 3) (s : State) : Host.Outcome State Fault Refusal := .next (s.linkDown p.val)
def execLinkSync (p : Fin 3) (s : State) : Host.Outcome State Fault Refusal := .next (s.linkSync p.val)
def execDelayRequest (p : Fin 3) (t1 : BitVec 52) (s : State) : Host.Outcome State Fault Refusal := .next (s.delayReq p.val t1)
def execDelayResponse (p : Fin 3) (seq : BitVec 8) (turn : BitVec 24) (t4 : BitVec 52) (s : State) : Host.Outcome State Fault Refusal :=
  .next (s.delayResp p.val seq.toNat turn.toNat t4)
def execDelayRequestReceived (p : Fin 3) (seq : BitVec 8) (tIn tOut : BitVec 52) (s : State) : Host.Outcome State Fault Refusal :=
  .next (s.delayAsked p.val seq.toNat tIn tOut)
def execFrameOriginate (lag : BitVec 16) (s : State) : Host.Outcome State Fault Refusal := .next (s.originate lag.toNat)
def execFrameReceived (p : Fin 2) (f : List Byte) (r so : BitVec 52) (s : State) : Host.Outcome State Fault Refusal :=
  .next (s.frameIn p.val (f.map (·.toNat)) r so)
def execFrameLostBeat (s : State) : Host.Outcome State Fault Refusal := .next s.lostBeat
def execOriginationStart (s : State) : Host.Outcome State Fault Refusal := .next s.origStart
def execRingVerRise (s : State) : Host.Outcome State Fault Refusal := .next s.verRise
def execGateCopyReceived (f : List Byte) (r : BitVec 52) (s : State) : Host.Outcome State Fault Refusal :=
  .next (s.gateIn (f.map (·.toNat)) r)
def execTthCtlJoin (r : Requester) (s : State) : Host.Outcome State Fault Refusal :=
  .next (s.writeBy (fieldTo s r F.TTH_CTL_JOIN 1) (fun s => s.tthJoin))
def execTthCtlEn (r : Requester) (b : Bool) (s : State) : Host.Outcome State Fault Refusal :=
  .next (s.writeBy (fieldTo s r F.TTH_CTL_EN (toBit b)) (fun s => s.tthEnable b))
def execDisciplineLocked (s : State) : Host.Outcome State Fault Refusal := .next s.discLocked
def execDisciplineHoldover (s : State) : Host.Outcome State Fault Refusal := .next s.discHoldover

end Sys2Proof.Machine
end

