-- ==== Sys2Proof/Machine/ModeCore.lean ====
section
/-! DEFINITION. The device modes (R377 to R382), the twin pairs at the exit from CONFIG (R25, R29), the tracker policy
(R380), resets (R242, R383), the boot sequence and patches (R384, R387, R388), and the test port (R411). -/

namespace Sys2Proof.Machine

open Sys2Proof

/-! ### CAUSE (Table 18.3) -/

def causeBootDone : Nat := 1
def causeCommand : Nat := 2
def causeTrackerLimp : Nat := 3
def causeTrackerLost : Nat := 4
def causeTrackerRecovered : Nat := 5
def causeWatchdog : Nat := 6
def causeClock : Nat := 7
def causeOverrun : Nat := 8
def causeRailOv : Nat := 9
def causeVgdUv : Nat := 10
def causeRampEnd : Nat := 11
def causePfailNoRamp : Nat := 12
def causeMemEcc : Nat := 13

/-! ### Twin pairs at the exit from CONFIG (R25, R29) -/

/-- The check shed's stalls and manger take the lead's contents. -/
def State.twinCopy (s : State) (a : Nat) : State :=
  let s1 := overList (List.range 24) (fun s i =>
    let k := 24 * a + i
    let s1 := overList (List.range 15) (fun s w => s.wr (R.STL_CTL (k + 24) + 4 * w) (s.rd (R.STL_CTL k + 4 * w))) s
    let s2 := overList (List.range 8) (fun s w => s.wr (R.STL_SAVE (k + 24) w) (s.rd (R.STL_SAVE k w))) s1
    let s3 := overList allRequesters (fun s r => s.latch r (R.STL_CNT_SNAP (k + 24)) (s.snapRd r (R.STL_CNT_SNAP k))) s2
    s3.setStl (k + 24) (s3.stl k)) s
  (s1.setEng (a + 1) { s1.eng (a + 1) with manger := (s1.eng a).manger }).stallLines (a + 1)

/-- A pin cell's configuration names a shed or one of its stalls as the owner. -/
def ownedByShed (w : Word) (sh : Nat) : Bool :=
  let i := getBits w 2 9
  (getBits w 0 2 == 1 && i == sh) || (getBits w 0 2 == 2 && i / 24 == sh)

/-- Ownership that waits in the shadow passes to STATIC with the active one, where it names the shed (R29). -/
def State.shadowStatic (s : State) (sh : Nat) : State :=
  let pins := (List.range 160).map R.TIO_CFG
  { s with shadow := s.shadow.map (fun e => if pins.contains e.1 && ownedByShed e.2 sh then (e.1, setBits e.2 0 11 0) else e) }

/-- Activation of the pair of lead `a` (R29): no slot of it holds an instance, and its comparison starts in the next tick. -/
def State.twinOn (s : State) (a : Nat) : State :=
  let s1 := ((s.twinCopy a).engReset a).engReset (a + 1)
  let s2 := overList (List.range 128) (fun s i => s.setSl (64 * a + i) {}) s1
  let gone := (List.range 160).filter (fun p => ownedByShed (s2.rd (R.TIO_CFG p)) (a + 1))
  let s3 := { (s2.shadowStatic (a + 1)).dropEdges gone.contains with tb := { s2.tb with twinNew := setBit s2.tb.twinNew (a / 2) } }
  overList gone (fun s p => ((s.setF (F.TIO_CFG_OWNER p) 0).setF (F.TIO_CFG_OWN_IDX p) 0).pinStatic p) s3

/-- The check shed's bank of private sources keeps what it mirrored of the lead's (R373, R145). -/
def State.bankKeep (s : State) (a : Nat) : State :=
  overList (List.range 16) (fun s k =>
    let x := s.src (priv a k)
    let y := s.src (priv (a + 1) k)
    (s.wr (R.IRQ_SRC_CFG (priv (a + 1) k)) (s.rd (R.IRQ_SRC_CFG (priv a k)))).setSrc (priv (a + 1) k)
      { x with raw := y.raw, line := y.line, svc := .no, pool := none, undel := none }) s

/-- Deactivation of the pair of lead `a` (R29). -/
def State.twinOff (s : State) (a : Nat) : State :=
  let mine := fun (k : Nat × Nat) => k.1 / 2 == a / 2
  let s1 := ((s.bankKeep a).pinUnforce mine).vUnforce mine
  let s2 := overList (List.range 48) (fun s i => s.setB (F.STL_STAT_FORCED (24 * a + i)) false) s1
  let s3 := (s2.wr (R.SHD_STL_MISMATCH a) 0).wr (R.SHD_STL_MISMATCH (a + 1)) 0
  let s4 := overList (List.range 128) (fun s i => s.setSl (64 * a + i) { s.sl (64 * a + i) with forced := false }) s3
  (s4.engReset a).engReset (a + 1)

/-- PAIR_ACT follows PAIR_EN at the boundary at which the device leaves CONFIG. -/
def State.twinChange (s : State) : State :=
  overList (List.range 8) (fun s k =>
    let en := (s.f F.SYS_TWIN_PAIR_EN).testBit k
    let act := (s.f F.SYS_TWIN_PAIR_ACT).testBit k
    if en = act then s
    else if en then (s.setF F.SYS_TWIN_PAIR_ACT (setBit (s.f F.SYS_TWIN_PAIR_ACT) k)).twinOn (2 * k)
    else (s.setF F.SYS_TWIN_PAIR_ACT (clrBit (s.f F.SYS_TWIN_PAIR_ACT) k)).twinOff (2 * k)) s

/-! ### Changes of mode -/

/-- The present tick is that of a beat boundary. -/
def State.atBoundary (s : State) : Bool := s.tb.due || s.now == s.tb.t0

/-- SYS_MODE takes a mode and its cause (Table 18.9). -/
def State.markMode (s : State) (m cause : Nat) : State :=
  ((s.setF F.SYS_MODE_PREV s.mode).setF F.SYS_MODE_MODE m).setF F.SYS_MODE_CAUSE cause

/-- The supply guard, the converter and every gate after a change of mode. -/
def State.modeSettle (s : State) : State := overList (List.range 8) State.bankSettle s.guardSettle

/-- Every channel that runs or waits ends (R215). -/
def State.valvesStop (s : State) : State := s.vEndAll (List.range 32) State.cancelState State.vStop

/-- A SET_MODE that waits for its boundary. -/
def State.modeWait (s : State) (src : Nat) : Option Svc := s.awaiting src 0x102

/-- The SET_MODE commands that wait end with BAD_STATE: a hardware cause acts on their boundary (R378). -/
def State.failModes (s : State) : State :=
  if s.atBoundary then
    overList (List.range 5) (fun s m => if (s.modeWait m).isSome then s.complete m statusBadState 0 [] else s) s
  else s

/-- A pin is driven by a SENSOR runner that is not in FAULT (R195). -/
def State.sensorPin (s : State) (p : Nat) : Bool :=
  let i := s.f (F.TIO_CFG_OWN_IDX p)
  s.f (F.TIO_CFG_OWNER p) == 3 && decide (i < 32) && s.b (F.RUN_CTL_SENSOR i) && (s.rn i).st != .fault

/-- Entry to SAFE (R121, R184, R195, R215, Tables 18.2 and 18.4). -/
def State.enterSafe (s : State) (cause : Nat) : State :=
  let s0 := if s.mode = 3 then s.trkAllAcquire.engWake else s
  let s1 := if s.mode = 2 && s.atBoundary then s0.twinChange else s0
  let s2 := (s1.evClear.valvesStop).markMode 6 cause
  let s3 := overList (List.range 160) (fun s p => if s.sensorPin p then s else s.setPin p { s.pin p with safe := true })
    (s2.dropEdges (fun p => !s2.sensorPin p))
  let s4 := overList (List.range 32) (fun s n => if s.b (F.RUN_CTL_SENSOR n) then s else s.rnStop n) s3
  let s5 := ((s4.bump R.SYS_SAFE_CNT).log .sysModeSafe wholeDevice cause).modeSettle
  if s.mode = 3 then s5.engFirsts else s5

/-- A hardware cause of the row that names CONFIG, IDLE, RUN, LIMP and SERVICE. -/
def State.causeSafe (s : State) (cause : Nat) : State :=
  if 2 ≤ s.mode && s.mode ≠ 6 then (s.enterSafe cause).failModes else s

/-- A hardware cause that sets LOCKED, from the modes `from_` on; in SAFE it only sets LOCKED. -/
def State.causeLocked (s : State) (from_ cause : Nat) : State :=
  if s.mode < from_ then s
  else (if s.mode = 6 then s else (s.enterSafe cause).failModes).setB F.SYS_MODE_LOCKED true

/-- Pins and the parts that a stop ramp held go back to their owners at an exit from SAFE (Table 18.2, R245), and sequencing
outputs to their REQ (Table 18.4; the way back: DEDUCED, log entry 85). -/
def State.releaseSafe (s : State) : State :=
  let held := fun (p : Nat) => (s.pin p).safe || (s.rampLevel p).isSome
  let again := s.pwr.seqHeld &&& s.f F.PWR_SEQ_CTL_REQ
  let s1 := { s with pwr := { s.pwr with pinHeld := [], hswHeld := 0, bstHeld := false, vsgHeld := false, seqHeld := 0
                                         onGo := s.pwr.onGo ||| again, onAt := if s.pwr.onGo = 0 then s.now else s.pwr.onAt } }
  overList (List.range 160) (fun x p => if held p then (x.setPin p { x.pin p with safe := false }).pinStatic p else x) s1

/-- Every tracker's front is set afresh at the entry to RUN or LIMP (R121). -/
def State.frontsAfresh (s : State) : State :=
  overList (List.range 16) (fun s n => s.setTe n { s.te n with afresh := true }) s

/-- Entry to IDLE: the armer, the valve model and the runner service abandon their work; staged loads and tests in
progress are dropped (R382). -/
def State.idleEntry (s : State) : State :=
  let s1 := overList [16, 17, 18] (fun s n => s.setPart n {}) { s with points := [] }.engIdle
  let s2 := overList (List.range 8) (fun s b => s.setBk b { s.bk b with test := none, pu := none }) s1
  overList (List.range 32) (fun s n => s.setVlv n { s.vlv n with calSum := 0, calN := 0, decide_ := false }) s2

/-- Entry to CONFIG under forerunner straps: RETRIG on every channel (R349). -/
def State.configEntry (s : State) : State :=
  if s.f F.SYS_HOST_STAT_HOSTSEL = 2 then overList (List.range 32) (fun s n => s.setB (F.VLV_CTL_RETRIG n) true) s else s

/-- Pins of sheds drive STATIC_LVL until their owner acts (Table 18.4). -/
def State.shedPins (s : State) : State :=
  overList ((List.range 160).filter (fun p => s.f (F.TIO_CFG_OWNER p) == 1)) State.pinStatic s

/-- A change of mode that is no entry to SAFE by a cause: SET_MODE, the end of IDLE, boot. -/
def State.enterMode (s : State) (m cause : Nat) : State :=
  if m = 6 then s.enterSafe cause
  else
    let old := s.mode
    let s1 := if old = 3 then s.trkAllAcquire.engWake else s
    let s2 := if old = 2 then s1.twinChange else s1
    let s3 := if m = 2 && (old = 4 || old = 5 || old = 7) then s2.evClear.shedPins.valvesStop else s2
    let s4 := s3.markMode m cause
    let s5 := if (old = 6 || old ≤ 1) && m ≠ 3 then s4.releaseSafe else s4
    let s6 := match m with
      | 2 => s5.configEntry
      | 3 => s5.idleEntry
      | 4 | 5 => s5.frontsAfresh
      | _ => s5
    if old = 3 then s6.modeSettle.engFirsts else s6.modeSettle

/-! ### SET_MODE (Table 18.2) -/

/-- A tracker is critical (R380). -/
def State.critical (s : State) (n : Nat) : Bool := (s.f F.SYS_TRK_CRIT_CRIT).testBit n
def State.limpOk (s : State) (n : Nat) : Bool := (s.f F.SYS_TRK_LIMP_LIMP_OK).testBit n

/-- SAFE may be left for CONFIG or SERVICE. -/
def State.safeExit (s : State) : Bool :=
  !s.b F.SYS_MODE_LOCKED && !s.b F.PWR_STAT_PFAIL_IN && !s.b F.PWR_STAT_RAMP && s.pwr.vgdGood

/-- The mode that SET_MODE naming `m` enters; none where it completes with BAD_STATE. The present mode is R379's case. -/
def State.modeFor (s : State) (m : Nat) : Option Nat :=
  let limping := (List.range 16).filter (fun n => s.critical n && (s.tr n).st == .limp)
  match s.mode, m with
  | 2, 4 =>
    if s.b F.SYS_STRAP_SEAL_REQ && !s.sealed then none
    else if limping.any (fun n => !s.limpOk n) then none
    else if !limping.isEmpty then some 5
    else some 4
  | 2, 7 => some 7
  | 2, 3 => some 3
  | 6, 7 => if s.safeExit then some 7 else none
  | 6, 3 => if s.b F.SYS_MODE_LOCKED then none else some 3
  | 6, 2 => if s.safeExit then some 2 else none
  | 4, 2 | 5, 2 | 7, 2 => some 2
  | 4, 6 | 5, 6 => some 6
  | 3, m => if m = s.f F.SYS_MODE_PREV then some m else none
  | _, _ => none

/-- MODE_TRANSITION: the SET_MODE commands served before this boundary act in its tick, in the order of their mailboxes. -/
def State.modeRow (s : State) : State :=
  if !s.tb.running || s.tb.due || s.now ≠ s.tb.t0 then s
  else overList (List.range 5) (fun s src => match s.modeWait src with
    | none => s
    | some v =>
      if v.since = s.now then s
      else if v.arg = s.mode then s.complete src statusOk 0 [v.arg]
      else match s.modeFor v.arg with
        | none => s.complete src statusBadState 0 []
        | some m => (s.enterMode m causeCommand).complete src statusOk 0 [m]) s

/-! ### Tracker policy (R380) -/

/-- A critical tracker limps. -/
def State.limps (s : State) (n : Nat) : Bool :=
  let t := s.tr n
  s.critical n && (t.st == .limp || (t.st == .stopped && t.stopFrom))

/-- A critical tracker has left SYNC or LIMP since the last tick for a state that is a loss of sync. -/
def State.lostSync (s : State) (n : Nat) : Bool :=
  let st := (s.tr n).st
  s.critical n && s.sys.synced.contains n && (st == .off || st == .acquire || st == .gapSeek || st == .lost)

/-- The trackers in SYNC or LIMP now. -/
def State.syncNow (s : State) : List Nat := (List.range 16).filter (fun n => (s.tr n).st == .sync || (s.tr n).st == .limp)

/-- A change between RUN and LIMP. -/
def State.policyMode (s : State) (m cause : Nat) (c : LogCode) : State :=
  ((s.markMode m cause).log c wholeDevice 0).failModes

/-- The policy in one tick. -/
def State.policy (s : State) : State :=
  let all := List.range 16
  let s1 :=
    if !s.running then s
    else if all.any s.lostSync then s.causeSafe causeTrackerLost
    else if all.any (fun n => s.limps n && !s.limpOk n) then s.causeSafe causeTrackerLimp
    else if s.mode = 4 && all.any s.limps then s.policyMode 5 causeTrackerLimp .sysModeLimp
    else if s.mode = 5 && !all.any s.limps then s.policyMode 4 causeTrackerRecovered .sysModeRunRestored
    else s
  { s1 with sys := { s1.sys with synced := s1.syncNow } }

/-! ### Causes of the whole device -/

/-- WATCHDOG_EXPIRY (R14): eight commit occasions without a kick. -/
def State.watchdog (s : State) : State :=
  if s.tb.missed < 8 || s.mode < 2 || s.b F.SYS_MODE_LOCKED then s
  else (s.log .sysWatchdog wholeDevice 0).causeLocked 2 causeWatchdog

/-- XIN_LOST and PLL_UNLOCK (R21): the core moves to the fallback oscillator, the time base stops, the trackers go to
LOST, the Tether ports stop. -/
def State.clockLost (s : State) (c : LogCode) : State :=
  let s1 := (s.setB F.SYS_CLK_STAT_FALLBACK true).setB F.SYS_CLK_STAT_LOSS_SEEN true
  let s2 := if s.mode = 0 then s1 else ((s1.log c wholeDevice 0).causeLocked 1 causeClock).trkAllLost
  { s2 with tb := { s2.tb with running := false } }

/-- XIN_RESTORED. -/
def State.clockBack (s : State) : State := (s.setB F.SYS_CLK_STAT_XIN_OK true).setB F.SYS_CLK_STAT_PLL_LOCK true

/-- HOLTID_MEMORY_ECC (Table 1.3); the change to SAFE is that of the modes which Table 18.2 names. -/
def State.memEcc (s : State) (patchArea : Bool) : State :=
  if s.mode = 0 then s
  else
    let s1 := s.log .sysMemEcc wholeDevice 0
    let s2 := if patchArea then { s1.setB F.SYS_BOOT_PATCH_STAGED false with sys := { s1.sys with patch := [] } } else s1
    s2.causeSafe causeMemEcc

/-! ### Resets (R242, R383, R386) -/

/-- The straps: HOSTSEL, TIO_PULL, SEAL_REQ, as SYS_STRAP shows them. -/
def State.strapIn (s : State) (v : Nat) : State :=
  (s.wr R.SYS_STRAP (BitVec.ofNat 32 (v % 32))).setF F.SYS_HOST_STAT_HOSTSEL (v % 4)

/-- Every accepted report is written before a warm reset acts on the log (R391). -/
def State.logDrain (s : State) : State := overList (List.range (s.logQ.length + 1)) (fun s _ => s.logNext) s

/-- A warm reset with the bit of its cause in PWR_RST_CAUSE. -/
def State.warmReset (s : State) (bit straps : Nat) : State :=
  let s0 := s.logDrain
  let keep := fun (x : State) a => x.wr a (s0.rd a)
  let r0 : State := { State.reset with
    logW := s0.logW, logLost := s0.logLost, free := s0.free, pending := s0.pending,
    pwr := { State.reset.pwr with seq := s0.pwr.seq, seqFails := s0.pwr.seqFails, seqFailLog := s0.pwr.seqFailLog },
    sys := { State.reset.sys with patch := s0.sys.patch, check := !s0.sys.patch.isEmpty } }
  let r1 := overList [R.LOG_STAT, R.LOG_COUNT, R.LOG_SEQ, R.LOG_LOST, R.PWR_RST_CAUSE] keep r0
  let r2 := (r1.setB F.SYS_CLK_STAT_LOSS_SEEN (s0.b F.SYS_CLK_STAT_LOSS_SEEN)).setF F.PWR_SEQ_CTL_LEVEL (s0.f F.PWR_SEQ_CTL_LEVEL)
  ((r2.setB F.SYS_BOOT_PATCH_STAGED (!s0.sys.patch.isEmpty)).flag R.PWR_RST_CAUSE bit).strapIn straps

/-- RESET_N_LOW: held for at least 1 µs; in OFF the core is in reset already. -/
def State.pinReset (s : State) (lenNs straps : Nat) : State :=
  if 1000 ≤ lenNs && s.mode ≠ 0 then s.warmReset 3 straps else s

/-- A RESET command acts 10 µs after it is served (R346). -/
def State.softReset (s : State) : State :=
  match s.sys.reboot with
  | some (t, straps) => if s.reached t && s.mode ≠ 0 then s.warmReset 4 straps else s
  | none => s

/-- A cold reset: nothing is kept (R383), but that a failed power-up is still to be logged (R240). -/
def State.coldReset (s : State) (causes : Nat) (pos : SeqPos) : State :=
  let r : State := { State.reset with free := s.free, pending := s.pending, pwr := { State.reset.pwr with seq := pos, seqFailLog := s.pwr.seqFailLog } }
  (r.wr R.PWR_RST_CAUSE (BitVec.ofNat 32 causes)).setF F.SYS_MODE_MODE 0

/-- COLD_RESET: with warm causes that arrive together the bits of all are set (R242). -/
def State.coldRow (s : State) (c : ColdCause) (withPin : Bool) : State :=
  let soft := match s.sys.reboot with | some (t, _) => t == s.now | none => false
  let warm := 8 * toBit withPin + 16 * toBit soft
  match c with
  | .por => s.coldReset (1 + warm) .off
  | .brownoutCore => s.coldReset (2 + warm) .vdd33
  | .brownoutIo => s.coldReset (4 + warm) .vdd33

/-! ### Patches (R387, R388) -/

/-- Does a signature hold under the key that KEY_ID selects (R177)? -/
def State.sigOk (s : State) (keyId : Nat) (msg sig : List Nat) : Bool :=
  if keyId = 0 then ed25519 Config.vendorKey msg sig
  else if keyId = 1 && s.b F.SYS_BOOT_KEY_PROG then
    match Config.customerKey with
    | some k => ed25519 k msg sig
    | none => false
  else false

/-- A field of an image's header. -/
def imgField (img : List Nat) (o n : Nat) : Nat := ofBytes ((img.drop o).take n)

/-- The checks of R388 in their order. -/
def State.patchCheck (s : State) (img : List Nat) : Nat :=
  let len := imgField img 0x10 4
  if imgField img 0 4 ≠ 0x31484C50 || imgField img 4 2 ≠ 1 || 32672 < len || imgField img 0x0B 1 ≠ 0 || imgField img 0x14 12 ≠ 0 then statusBadArg
  else if imgField img 7 1 ≠ Config.romId.toNat || imgField img 8 1 < Config.romVersion.toNat / 65536 then statusVersion
  else if !s.sigOk (imgField img 6 1) (img.take (32 + len)) ((img.drop (32 + len)).take 64) then statusSigFail
  else statusOk

/-- The version that a patch gives the firmware. -/
def patchVersion (img : List Nat) : Nat := imgField img 8 1 * 65536 + imgField img 9 1 * 256 + imgField img 10 1

/-! ### Clearing memories (R345, R384) -/

/-- Register words of an address range return to their reset contents. -/
def State.clearWords (s : State) (lo hi : Nat) : State :=
  let out := fun (a : Nat) => decide (a < lo) || decide (hi ≤ a)
  { s with
    regs := s.regs.filter (fun e => out e.1), shadow := s.shadow.filter (fun e => out e.1), staged := s.staged.filter (fun e => out e.1)
    ready := s.ready.filter out, stagedItems := s.stagedItems.filter out, touched := s.touched.filter out, badWords := s.badWords.filter out }

/-- A tested memory is returned to its reset contents (R345): the memories in the order of the bits of MASK. -/
def State.bistClear (s : State) (k : Nat) : State :=
  match k with
  | 1 => { s.clearWords 0x40000 0x60000 with entries := [], points := [], deferred := [] }
  | 2 => overList (List.range 16) (fun s n => s.setTr n { s.tr n with patternBad := s.patBad n }) (s.clearWords 0x20000 0x30000)
  | 3 => overList (List.range 16) (fun s n => s.setTr n { s.tr n with learned := [] }) (s.clearWords 0x30000 0x40000)
  | 4 => s.clearWords 0x80000 0x100000
  | 5 => overList (List.range 32) (fun s n =>
      (s.clearWords (R.RUN_PROG n 0) (R.RUN_PROG n 128)).setRn n { s.rn n with badProg := [] }) s
  | 6 => overList (List.range 32) State.coilCommit (s.clearWords 0x10B000 0x10E000)
  | 7 => { s with pool := [] }
  | 8 => { s with chans := s.chans.map (fun e => (e.1, { e.2 with jobs := e.2.jobs.map (fun j =>
      { j with reads := j.reads.map (fun r => { r with data := r.data.map (fun d => d.map (fun _ => (0, false))) }) }) })) }
  | _ => s

/-! ### Boot (R384) -/

def State.setBoot (s : State) (p : BootPos) : State := { s with sys := { s.sys with boot := p } }

/-- The staged patch at boot. -/
def State.bootPatch (s : State) : State :=
  let s0 := { s with sys := { s.sys with check := false } }
  if !s.sys.check then s0
  else if s.patchCheck s.sys.patch = statusOk then
    { s0 with sys := { s0.sys with fw := some (patchVersion s.sys.patch) } }.setB F.SYS_BOOT_PATCH_ACTIVE true
  else
    let s1 := { s0 with sys := { s0.sys with patch := [] } }
    ((s1.setB F.SYS_BOOT_PATCH_STAGED false).setB F.SYS_BOOT_PATCH_REJECT true).log .sysPatchReject wholeDevice 0

/-- The memories are cleared at boot: event table, tacks, learning tables, microcode stores, runner programs, trough pool, Yard and
ownership words (Table 18.5), and with them what the boot interface has written there since the PLL lock. -/
def State.bootClear (s : State) : State :=
  { (overList [1, 2, 3, 4, 5, 6, 7] State.bistClear s).clearWords 0x400000 0x600000 with pages := [] }

/-- BOOT_STEP: the next stage of Table 18.5 completes; with the first one RESET_N has risen, and EXTEST and CLAMP act as BYPASS (R411). -/
def State.bootStep (s : State) (x : BootStage) : State :=
  if s.mode ≠ 1 then s
  else match s.sys.boot, x with
    | .start, .pllLock pcieRef =>
      let s1 := ((s.setB F.SYS_CLK_STAT_XIN_OK true).setB F.SYS_CLK_STAT_PLL_LOCK true).setB F.SYS_CLK_STAT_TTH_PLL_LOCK true
      let s2 := ((s1.setB F.SYS_CLK_STAT_FALLBACK false).setB F.SYS_CLK_STAT_PCIE_REF_OK pcieRef).setB F.SYS_HOST_STAT_BRIDGE_CLK (!pcieRef)
      { s2 with tb := { s2.tb with running := true }, sys := { s2.sys with tap := .bypass } }.setBoot .locked
    | .locked, .romCheck ok => if ok then s.setBoot .checked else (s.setB F.SYS_BOOT_ROM_FAIL true).setBoot .halted
    | .checked, .memoryClear => (s.bootClear.setBoot .cleared).log .sysReset wholeDevice (s.rd R.PWR_RST_CAUSE).toNat
    | .cleared, .otpRead ok =>
      if ok then (s.setB F.SYS_BOOT_KEY_PROG Config.customerKey.isSome).setBoot .otp
      else ((s.setB F.SYS_BOOT_OTP_BAD true).setBoot .otp).log .sysOtpBad wholeDevice 0
    | .otp, .patchCheck => s.bootPatch
    | _, _ => s

/-- BOOT_COMPLETE: `us` is the time from the release of the core reset, in µs. A power-up that failed before this boot is
logged (R240). -/
def State.bootEnd (s : State) (us : Nat) : State :=
  if s.mode ≠ 1 || s.sys.boot ≠ .otp || s.sys.check then s
  else
    let s1 := ((s.setBoot .done).setF F.SYS_BOOT_BOOT_US us).enterMode 2 causeBootDone
    if s1.pwr.seqFailLog then { s1.log .pwrSeqFail wholeDevice 0 with pwr := { s1.pwr with seqFailLog := false } } else s1

/-! ### The test port (R411) -/

/-- The 32 bits of IDCODE, the lowest first. -/
def idcodeBits : List Bool := (List.range 32).map (fun k => (0x03840C9D + (Config.stepping.toNat % 16) <<< 28).testBit k)

/-- TAP_INSTRUCTION: what the instruction captures and drives. EXTEST and CLAMP act only while RESET_N is low, else as
BYPASS; `cells` is what is scanned into the boundary cells. -/
def State.tap (s : State) (i : TapInsn) (resetLow : Bool) (cells : List Bool) : State :=
  let i := if resetLow then i else match i with
    | .extest | .clamp => .bypass
    | i => i
  let pins := (List.range 160).map (fun p => (s.ball p).getD false)
  let data := match i with
    | .idcode => idcodeBits
    | .sample | .extest => pins
    | .bypass | .clamp => [false]
  let pre := match i with
    | .sample | .extest => cells.take 160
    | _ => s.sys.tapCells
  { s with sys := { s.sys with tap := i, tapData := data, tapCells := pre } }

/-! ### The meanings -/

def execColdReset (cause : ColdCause) (withPin : Bool) (s : State) : Host.Outcome State Fault Refusal := .next (s.coldRow cause withPin)
def execResetNLow (lenNs : Nat) (straps : BitVec 5) (s : State) : Host.Outcome State Fault Refusal := .next (s.pinReset lenNs straps.toNat)
def execModeTransition (s : State) : Host.Outcome State Fault Refusal := .next s.modeRow
def execWatchdogExpiry (s : State) : Host.Outcome State Fault Refusal := .next s.watchdog
def execXinLost (s : State) : Host.Outcome State Fault Refusal :=
  .next ((s.clockLost .sysClkFallback).setB F.SYS_CLK_STAT_XIN_OK false)
def execPllUnlock (s : State) : Host.Outcome State Fault Refusal :=
  .next ((s.clockLost .sysPllUnlock).setB F.SYS_CLK_STAT_PLL_LOCK false)
def execXinRestored (s : State) : Host.Outcome State Fault Refusal := .next s.clockBack
def execHoltidMemoryEcc (patchArea : Bool) (s : State) : Host.Outcome State Fault Refusal := .next (s.memEcc patchArea)
def execBootStep (stage : BootStage) (s : State) : Host.Outcome State Fault Refusal := .next (s.bootStep stage)
def execBootComplete (us : BitVec 14) (s : State) : Host.Outcome State Fault Refusal := .next (s.bootEnd us.toNat)
def execTapInstruction (i : TapInsn) (resetLow : Bool) (cells : List Bool) (s : State) : Host.Outcome State Fault Refusal :=
  .next (s.tap i resetLow cells)

end Sys2Proof.Machine
end

