-- ==== Sys2Proof/Machine/Power.lean ====
section
/-! DEFINITION. Power management (R238 to R250): sequencing, the rail supervisors, PFAIL and the stop ramp, PMBus. -/

namespace Sys2Proof.Machine

open Sys2Proof

/-- The power manager's own timing goes on after the time base has stopped (Table 11.1, R21). -/
def State.pwrPassed (s : State) (t : Time) (d : Nat) : Bool := !s.tb.running || s.passed t d

/-- Ticks of a millisecond. -/
def ms : Nat := 500000

/-! ### Power-up (R240, Table 11.3) -/

def State.setSeq (s : State) (p : SeqPos) : State := { s with pwr := { s.pwr with seq := p } }

/-- A sequencing output k turns on or off. -/
def State.seqOut (s : State) (k : Nat) (on : Bool) : State :=
  let l := s.f F.PWR_SEQ_CTL_LEVEL
  s.setF F.PWR_SEQ_CTL_LEVEL (if on then setBit l k else clrBit l k)

/-- VDD33_GOOD: VDD33 passes 2.950 V. -/
def State.vdd33 (s : State) : State := if s.mode = 0 && s.pwr.seq = .off then s.setSeq .vdd33 else s

/-- SEQ_STEP_DELAY: SEQ_0 turns on 10 ms after VDD33; 1 ms after VDD is good the core reset is released. -/
def State.seqDelay (s : State) (straps : Nat) : State :=
  if s.mode ≠ 0 then s
  else match s.pwr.seq with
    | .vdd33 => (s.seqOut 0 true).setSeq .wantIo
    | .coreDelay =>
      let s1 := ((s.setSeq .up).markMode 1 0).strapIn straps
      { s1 with pwr := { s1.pwr with seqFails := 0 } }
    | _ => s

/-- SEQ_RAIL_GOOD. -/
def State.seqGood (s : State) (r : Rail) : State :=
  match s.pwr.seq, r with
  | .wantIo, .vio => (s.seqOut 1 true).setSeq .wantCore
  | .wantCore, .vcore => s.setSeq .coreDelay
  | _, _ => s

/-- SEQ_RAIL_TIMEOUT: SEQ_1 and SEQ_0 go off; the third failure stops the sequencer. -/
def State.seqTimeout (s : State) : State :=
  if s.pwr.seq = .wantIo || s.pwr.seq = .wantCore then
    let s1 := (s.seqOut 1 false).seqOut 0 false
    let k := s.pwr.seqFails + 1
    if k = 3 then { s1 with pwr := { s1.pwr with seq := .stopped, seqFails := k, seqFailLog := true } }.setB F.PWR_RST_CAUSE_SEQ_FAIL true
    else { s1 with pwr := { s1.pwr with seq := .retry, seqFails := k } }
  else s

/-- SEQ_RETRY: after 100 ms the sequence starts again from the SEQ_0 row. -/
def State.seqRetry (s : State) : State := if s.pwr.seq = .retry then (s.seqOut 0 true).setSeq .wantIo else s

/-! ### SEQ_2 to SEQ_5 (R241) -/

/-- A commit of SEQ_CTL: `old` and the present word's REQ. In OFF and BOOT the request is not accepted. -/
def State.seqCommit (s : State) (old : Nat) : State :=
  let req := s.f F.PWR_SEQ_CTL_REQ
  let rise := req &&& (15 - old)
  let fall := old &&& (15 - req)
  let p := s.pwr
  if s.mode < 2 then s.setF F.PWR_SEQ_CTL_REQ old
  else { s with pwr := { p with
      askedAt := (bitList 4 (rise ||| fall)).map (fun i => (i, s.now)) ++ p.askedAt.filter (fun e => !(rise ||| fall).testBit e.1)
      onGo := (p.onGo &&& (15 - fall)) ||| rise
      onAt := if p.onGo &&& (15 - fall) = 0 then s.now else p.onAt
      offGo := (p.offGo &&& (15 - rise)) ||| fall
      offAt := if p.offGo &&& (15 - rise) = 0 then s.now else p.offAt } }

def State.seqOrder (s : State) (i : Nat) : Nat := s.f (F.PWR_SEQ_CFG_ORDER (i + 2))
def State.seqDelayOf (s : State) (i : Nat) : Nat := s.f (F.PWR_SEQ_CFG_DELAY (i + 2))

/-- The outputs of a mask that share the lowest, or the highest, ORDER. -/
def State.seqGroup (s : State) (m : Nat) (low : Bool) : List Nat :=
  let l := bitList 4 m
  l.filter (fun i => l.all (fun j => if low then decide (s.seqOrder i ≤ s.seqOrder j) else decide (s.seqOrder j ≤ s.seqOrder i)))

/-- The next group of a direction, when the longest of its delays has passed since the group before and since each of it was
asked to change. An output that a ramp holds off waits for its release. -/
def State.seqNext (s : State) (on : Bool) : State :=
  let g := s.seqGroup (if on then s.pwr.onGo ^^^ (s.pwr.onGo &&& s.pwr.seqHeld) else s.pwr.offGo) on
  let d := ms * g.foldl (fun m i => max m (s.seqDelayOf i)) 0
  let asked := (s.pwr.askedAt.filter (fun e => g.contains e.1)).map (·.2)
  if g.isEmpty || !s.pwrPassed (if on then s.pwr.onAt else s.pwr.offAt) d || asked.any (fun t => !s.pwrPassed t d) then s
  else
    let s1 := overList g (fun s i => s.seqOut (i + 2) on) s
    let gone := g.foldl setBit 0
    let p := { s1.pwr with askedAt := s1.pwr.askedAt.filter (fun e => !g.contains e.1) }
    { s1 with pwr := if on then { p with onGo := p.onGo &&& (15 - gone), onAt := s.now }
                     else { p with offGo := p.offGo &&& (15 - gone), offAt := s.now } }

/-- SEQ_OUTPUT_DELAY. -/
def State.seqStep (s : State) : State := (s.seqNext false).seqNext true

/-! ### Supervisors (R238, R239, Table 11.2) -/

/-- A rail as a detail, and as a bit of its flags: VDD, VDDIO, VDD33, VGD. -/
def railNum : Rail → Nat
  | .vcore => 0 | .vio => 1 | .v33 => 2 | .vgd => 3

/-- RAIL_UNDERVOLTAGE. -/
def State.railUv (s : State) (r : Rail) : State :=
  match r with
  | .vcore => s.coldReset 2 .vdd33
  | .vio => s.coldReset 4 .vdd33
  | .v33 => s.coldReset 1 .off
  | .vgd =>
    if s.b F.PWR_RAIL_STAT_VGD_UV then s
    else
      let s1 := (s.setB F.PWR_RAIL_STAT_VGD_UV true).setB F.PWR_RAIL_STAT_WARN_SEEN true
      let s2 := { s1.log .pwrVgdLow wholeDevice 0 with pwr := { s1.pwr with vgdGood := false } }
      (s2.causeSafe causeVgdUv).modeSettle

/-- RAIL_OVERVOLTAGE. -/
def State.railOv (s : State) (r : Rail) : State :=
  let k := railNum r
  if (s.rd R.PWR_RAIL_STAT).getLsbD (4 + k) then s
  else
    let s1 := (s.flag R.PWR_RAIL_STAT (4 + k)).setB F.PWR_RAIL_STAT_OV_SEEN true
    ((s1.log .pwrRailOv wholeDevice k).pulse 230).causeSafe causeRailOv

/-- RAIL_WARNING: VGD has no warning band. -/
def State.railWarn (s : State) (r : Rail) : State :=
  let k := railNum r
  if r = .vgd || (s.rd R.PWR_RAIL_STAT).getLsbD k then s
  else (((s.flag R.PWR_RAIL_STAT k).setB F.PWR_RAIL_STAT_WARN_SEEN true).log .pwrRailWarn wholeDevice k).pulse 230

/-- RAIL_WARNING_CLEAR: inside its band for 1 ms, the rail is not above its overvoltage threshold either. -/
def State.railClear (s : State) (r : Rail) : State :=
  let k := railNum r
  if r = .vgd then s.unflag R.PWR_RAIL_STAT 7 else (s.unflag R.PWR_RAIL_STAT k).unflag R.PWR_RAIL_STAT (4 + k)

/-- VGD_RECOVERED: above 10.2 V for 1 ms. -/
def State.vgdBack (s : State) : State :=
  let s1 := s.setB F.PWR_RAIL_STAT_VGD_UV false
  { s1 with pwr := { s1.pwr with vgdGood := true } }.modeSettle

/-! ### The stop ramp (R243 to R245, Table 11.9) -/

/-- A step in use is malformed. -/
def rampStepBad (w : Word) : Bool :=
  let arg := getBits w 4 8
  match getBits w 0 4 with
  | 1 | 2 => false
  | 0 | 3 | 4 => arg != 0
  | 5 => decide (15 < arg) && arg != 255
  | 6 | 7 => decide (159 < arg)
  | 8 => decide (31 < arg) && arg != 255
  | 9 => decide (15 < arg)
  | _ => true

/-- The program in the active copy. -/
def State.rampProg (s : State) : List Word := (List.range 32).map (fun j => s.rd (R.PWR_RAMP j))

/-- A program is invalid (R244). -/
def rampBad (p : List Word) : Bool :=
  let h := p.getD 31 0
  let len := getBits h 0 5
  getBits h 5 1 == 0 || len == 0 || (p.take len).any rampStepBad

/-- A commit of the program. -/
def State.rampCommit (s : State) : State :=
  let bad := rampBad s.rampProg
  let s1 := s.setB F.PWR_STAT_RAMP_BAD bad
  if bad then s1.log .pwrRampBad wholeDevice 0 else s1

/-- The source of the warning that PF_SRC selects: the pin's level, and VS_SNS in 0.25 V (R243). -/
def State.pfailOn (s : State) (pin : Bool) (vs : Nat) : Bool :=
  let byPin := pin == s.b F.PWR_CFG_PF_POL
  let byVs := decide (vs < s.f F.PWR_CFG_VS_PF)
  match s.f F.PWR_CFG_PF_SRC with
  | 0 => byPin
  | 1 => byVs
  | 2 => byPin || byVs
  | _ => false

/-- PFAIL_QUALIFIED: the pin and VS_SNS have stood so for `held` ticks, PF_FILT or more (R243). In OFF and BOOT it shows in
PFAIL_IN alone (Table 11.8). -/
def State.pfail (s : State) (pin : Bool) (vs held : Nat) : State :=
  if !s.pfailOn pin vs || held < 50 * max 1 (s.f F.PWR_CFG_PF_FILT) || s.b F.PWR_STAT_PFAIL_IN then s
  else if s.mode < 2 then s.setB F.PWR_STAT_PFAIL_IN true
  else
    let s1 := ((s.setB F.PWR_STAT_PFAIL_IN true).setB F.PWR_STAT_PFAIL_SEEN true).log .pwrPfail wholeDevice 0
    let s2 := s1.pulse 229
    if s2.b F.PWR_STAT_RAMP then s2
    else if s2.b F.PWR_STAT_RAMP_BAD then s2.causeSafe causePfailNoRamp
    else
      let s3 := if s2.mode = 3 then s2.enterMode (s2.f F.SYS_MODE_PREV) causeCommand else s2
      let s4 := ((s3.setB F.PWR_STAT_RAMP true).setF F.PWR_STAT_STEP 0).evClear
      { s4 with pwr := { s4.pwr with prog := s4.rampProg, stepAt := s4.now, clearLog := true } }

/-- The ramp ends: the device enters SAFE. -/
def State.rampEnd (s : State) : State :=
  let s1 := ((s.setB F.PWR_STAT_RAMP false).setB F.PWR_STAT_RAMP_DONE true).log .pwrRampDone wholeDevice 0
  (s1.pulse 232).causeSafe causeRampEnd

/-- A ramp step holds a pin: 0 safe, 1 low, 2 high. -/
def State.holdPin (s : State) (l p : Nat) : State :=
  { s with pwr := { s.pwr with pinHeld := (p, l) :: s.pwr.pinHeld.filter (fun e => e.1 != p) } }

/-- The channels of the banks of a mask that are not OFF or LOCKED go to DECAY, those in WAIT too (Table 11.9). -/
def State.banksOff (s : State) (mask : Nat) : State := s.vEndAll ((bitList 8 mask).flatMap bankChans) State.cancelSupply State.vStop

/-- The action of a step (Table 11.9); END and reserved codes do nothing here. -/
def State.rampAct (s : State) (op arg : Nat) : State :=
  match op with
  | 1 => s.banksOff arg
  | 2 =>
    let s1 := { s with pwr := { s.pwr with hswHeld := s.pwr.hswHeld ||| arg } }
    overList (bitList 8 arg) State.bankSettle (s1.banksOff arg)
  | 3 => { s with pwr := { s.pwr with bstHeld := true } }.bstCompare
  | 4 => { s with pwr := { s.pwr with vsgHeld := true } }.guardSettle
  | 5 => if arg = 255 then overList (List.range 160) (State.holdPin · 0) s
         else overList (List.range 10) (fun s i => s.holdPin 0 (10 * arg + i)) s
  | 6 => s.holdPin 1 arg
  | 7 => s.holdPin 2 arg
  | 8 => if arg = 255 then overList (List.range 32) State.rnStop s else s.rnStop arg
  | 9 =>
    let s1 := overList (bitList 4 arg) (fun s i => s.seqOut (i + 2) false) s
    { s1 with pwr := { s1.pwr with seqHeld := s1.pwr.seqHeld ||| arg, onGo := s1.pwr.onGo &&& (15 - arg), offGo := s1.pwr.offGo &&& (15 - arg) } }
  | _ => s

/-- RAMP_STEP: the step's DT has expired. -/
def State.rampStep (s : State) : State :=
  let k := s.f F.PWR_STAT_STEP
  let w := s.pwr.prog.getD k 0
  let len := getBits (s.pwr.prog.getD 31 0) 0 5
  if !s.b F.PWR_STAT_RAMP || !s.pwrPassed s.pwr.stepAt (500 * getBits w 12 12) then s
  else
    let s1 := { s with pwr := { s.pwr with stepAt := s.now } }.setF F.PWR_STAT_STEP (k + 1)
    let s2 := s1.rampAct (getBits w 0 4) (getBits w 4 8)
    if getBits w 0 4 = 0 || len ≤ k + 1 then s2.rampEnd else s2

/-- PFAIL_WARNING_RELEASED. -/
def State.pfailOver (s : State) : State :=
  if !s.b F.PWR_STAT_PFAIL_IN then s
  else { s with pwr := { s.pwr with clearAt := s.now } }.setB F.PWR_STAT_PFAIL_IN false

/-- PFAIL_CLEARED: clear for 10 ms once the ramp has ended. -/
def State.pfailCleared (s : State) : State :=
  if s.pwr.clearLog && !s.b F.PWR_STAT_RAMP && !s.b F.PWR_STAT_PFAIL_IN && s.pwrPassed s.pwr.clearAt (10 * ms) then
    { s with pwr := { s.pwr with clearLog := false } }.log .pwrPfailCleared wholeDevice 0
  else s

/-! ### PMBus (R246 to R248) -/

/-- A transaction starts. -/
def State.pmbStart (s : State) (j : PmbJob) : State :=
  { s with pwr := { s.pwr with job := some j, jobAt := s.now } }.setB F.PWR_PMB_STAT_BUSY true

/-- A transaction waits, or starts where the bus is free. -/
def State.pmbQueue (s : State) (j : PmbJob) (first : Bool) : State :=
  if s.pwr.job.isNone then s.pmbStart j
  else { s with pwr := { s.pwr with jobs := if first then j :: s.pwr.jobs else s.pwr.jobs ++ [j] } }

/-- The transaction in progress is over: the next one starts. -/
def State.pmbNext (s : State) : State :=
  match s.pwr.jobs with
  | [] => { s with pwr := { s.pwr with job := none } }.setB F.PWR_PMB_STAT_BUSY false
  | j :: js => { s with pwr := { s.pwr with jobs := js } }.pmbStart j

/-- An entry is due. -/
def State.pmbDue (s : State) (i : Nat) : Bool :=
  s.b (F.PWR_PMB_POLL_EN i) && (match s.pwr.polled.find? (fun e => e.1 == i) with
    | none => true
    | some e => s.pwrPassed e.2 (ms * max 1 (s.f (F.PWR_PMB_POLL_PERIOD i))))

/-- PMB_POLL_DUE: due entries run in increasing index, behind mailbox transactions. -/
def State.pmbPoll (s : State) (i : Nat) : State :=
  if s.b F.PWR_PMB_CFG_EN && s.pwr.job.isNone && s.pmbDue i && !(List.range i).any s.pmbDue then
    { s with pwr := { s.pwr with polled := (i, s.now) :: s.pwr.polled.filter (fun e => e.1 != i) } }.pmbStart (.poll i)
  else s

/-- STALE of an entry, in both places. -/
def State.setStale (s : State) (i : Nat) (b : Bool) : State :=
  let w := s.f F.PWR_PMB_STAT_STALE
  (s.setF F.PWR_PMB_STAT_STALE (if b then setBit w i else clrBit w i)).setB (F.PWR_PMB_DATA_STALE i) b

/-- A poll has failed. -/
def State.pollFailed (s : State) (i : Nat) : State :=
  let k := (match s.pwr.fails.find? (fun e => e.1 == i) with | some e => e.2 | none => 0) + 1
  let s1 := { s with pwr := { s.pwr with fails := (i, min k 3) :: s.pwr.fails.filter (fun e => e.1 != i) } }
  if k = 3 then ((s1.setStale i true).log .pwrPmbFail i 0).pulse 231 else s1

/-- A poll has given its data. -/
def State.pollOk (s : State) (i : Nat) (data : List Nat) : State :=
  let s1 := { s with pwr := { s.pwr with fails := s.pwr.fails.filter (fun e => e.1 != i) } }
  let v := ofBytes data
  ((s1.setF (F.PWR_PMB_DATA_RAW i) v).setB (F.PWR_PMB_DATA_VALID i) true).setStale i false

/-- The alert is logged, with the address that answered (R248). -/
def State.alertLog (s : State) (a : Nat) : State := s.log .pwrPmbAlert wholeDevice a

/-- The longest answer of a transaction: by the KIND of a command, two bytes of a poll, one of an alert response (R246,
R345). -/
def State.pmbLen (s : State) (j : PmbJob) : Nat :=
  match j with
  | .poll i => if s.b (F.PWR_PMB_POLL_BYTE i) then 1 else 2
  | .ara => 1
  | .cmd src => match (s.mb src).svc with
    | some v => (match v.args.getD 2 0 with | 1 => 1 | 3 => 2 | 5 => 32 | _ => 0)
    | none => 0

/-- PMB_TRANSACTION_DONE: without PEC there is none to be wrong. -/
def State.pmbDone (s : State) (r : PmbResult) : State :=
  match s.pwr.job with
  | none => s
  | some j =>
    if r = .pecBad && !s.b F.PWR_PMB_CFG_PEC then s
    else (match j, r with
     | .poll i, .ok data => s.pollOk i ((data.map BitVec.toNat).take (s.pmbLen j))
     | .poll i, _ => s.pollFailed i
     | .ara, .ok data =>
       let a := ofBytes ((data.map BitVec.toNat).take (s.pmbLen j)) / 2
       ((s.setF F.PWR_PMB_ALERT_ADDR_ADDR a).setB F.PWR_PMB_ALERT_ADDR_VALID true).alertLog a
     | .ara, _ => s.alertLog 0
     | .cmd src, .ok data => s.complete src statusOk 0 ((data.map BitVec.toNat).take (s.pmbLen j))
     | .cmd src, _ => s.complete src statusHwFault 0 []).pmbNext

/-- PMB_CLOCK_TIMEOUT: the clock has been held low for 35 ms. -/
def State.pmbTimeout (s : State) : State :=
  match s.pwr.job with
  | none => s
  | some j =>
    if !s.pwrPassed s.pwr.jobAt (35 * ms) then s
    else
      let s1 := s.setB F.PWR_PMB_STAT_BUS_TIMEOUT true
      (match j with
       | .poll i => s1.pollFailed i
       | .ara => s1.alertLog 0
       | .cmd src => s1.complete src statusTimeout 0 []).pmbNext

/-- PMB_ALERT: the pin falls, or rises again; ALERT_IN shows it (R248, Table 11.8). -/
def State.pmbAlert (s : State) (low : Bool) : State :=
  if !low || s.b F.PWR_PMB_STAT_ALERT_IN || !s.b F.PWR_PMB_CFG_EN then s.setB F.PWR_PMB_STAT_ALERT_IN low
  else
    let s1 := ((s.setB F.PWR_PMB_STAT_ALERT_IN true).setB F.PWR_PMB_STAT_ALERT_SEEN true).pulse 231
    if s.b F.PWR_PMB_CFG_ALERT_ARA then s1.pmbQueue .ara true else s1.alertLog 0

/-! ### The meanings -/

def execVdd33Good (s : State) : Host.Outcome State Fault Refusal := .next s.vdd33
def execSeqStepDelay (straps : BitVec 5) (s : State) : Host.Outcome State Fault Refusal := .next (s.seqDelay straps.toNat)
def execSeqRailGood (rail : Rail) (s : State) : Host.Outcome State Fault Refusal := .next (s.seqGood rail)
def execSeqRailTimeout (s : State) : Host.Outcome State Fault Refusal := .next s.seqTimeout
def execSeqRetry (s : State) : Host.Outcome State Fault Refusal := .next s.seqRetry
def execSeqOutputDelay (s : State) : Host.Outcome State Fault Refusal := .next s.seqStep
def execRailUndervoltage (rail : Rail) (s : State) : Host.Outcome State Fault Refusal := .next (s.railUv rail)
def execRailOvervoltage (rail : Rail) (s : State) : Host.Outcome State Fault Refusal := .next (s.railOv rail)
def execRailWarning (rail : Rail) (s : State) : Host.Outcome State Fault Refusal := .next (s.railWarn rail)
def execRailWarningClear (rail : Rail) (s : State) : Host.Outcome State Fault Refusal := .next (s.railClear rail)
def execVgdRecovered (s : State) : Host.Outcome State Fault Refusal := .next s.vgdBack
def execPfailQualified (pin : Bool) (vs : BitVec 9) (held : Nat) (s : State) : Host.Outcome State Fault Refusal :=
  .next (s.pfail pin vs.toNat held)
def execRampStep (s : State) : Host.Outcome State Fault Refusal := .next s.rampStep
def execPfailCleared (s : State) : Host.Outcome State Fault Refusal := .next s.pfailCleared
def execPfailWarningReleased (s : State) : Host.Outcome State Fault Refusal := .next s.pfailOver
def execPmbPollDue (i : Fin 16) (s : State) : Host.Outcome State Fault Refusal := .next (s.pmbPoll i.val)
def execPmbTransactionDone (result : PmbResult) (s : State) : Host.Outcome State Fault Refusal := .next (s.pmbDone result)
def execPmbClockTimeout (s : State) : Host.Outcome State Fault Refusal := .next s.pmbTimeout
def execPmbAlert (low : Bool) (s : State) : Host.Outcome State Fault Refusal := .next (s.pmbAlert low)

end Sys2Proof.Machine
end

