-- ==== Sys2Proof/Machine/EventActions.lean ====
section
/-! DEFINITION. Slot loads at the boundary (R108, R109, R122), the comparison of twin pairs (R26, R122), the per-tick rows
of the trackers and slots, and the actions of events at their targets (Table 5.2). -/

namespace Sys2Proof.Machine

open Sys2Proof

/-! ### Loads (R108, R109) -/

/-- The slots released in the beat that ends are FREE from this boundary (R109). -/
def State.freeSlots (s : State) : State :=
  s.slots.foldl (fun x e => match e.2.st with
    | .over _ => x.setSl e.1 { x.sl e.1 with st := .free }
    | _ => x) s

/-- What a mismatch of the slot forced is released when the slot is loaded again (R26). -/
def State.freeForced (s : State) (sh slot : Nat) : State := (s.pinRelease sh slot).vUnforce (fun k => k == (sh, slot))

/-- A point enters a slot of one shed; a start that PRED of the last tick has passed is late (R108, R115). -/
def State.loadSlot (s : State) (sh slot : Nat) (p : Point) : State :=
  let k := slotKey sh slot
  let ev := s.entry p.entry
  let endAng := if ev.rep then (ev.endDur + p.rev * s.cpr ev.trk) % s.cpc ev.trk else ev.endDur
  let s1 := s.setSl k { s.sl k with st := .armed, entry := p.entry, late := false, rev := p.rev, forced := false, ev := ev
                                    start := p.start, endAng := endAng, endAt := none }
  if Machine.ahead (s.rawM ev.trk) (s.tr ev.trk).pred (p.start * 65536) then s1 else s1.lateStart sh slot

/-- The lowest free slot of a shed. -/
def State.freeSlot (s : State) (sh : Nat) : Option Nat := (List.range 64).find? (fun k => (s.sl (slotKey sh k)).st == .free)

/-- One point of home shed `sh`: into the lowest free slot of the shed, and of both sheds of a twin pair; else into the
deferral list, which holds 64 points. -/
def State.loadPoint (s : State) (sh : Nat) (p : Point) : State :=
  match s.freeSlot sh with
  | some k =>
    let s1 := (s.freeForced sh k).loadSlot sh k p
    if s.isLead sh then s1.loadSlot (sh + 1) k p else s1
  | none =>
    if (s.deferred.filter (fun e => e.1 == sh)).length < 64 then { s with deferred := s.deferred ++ [(sh, p)] }
    else s.noSlot sh p.entry

/-- The front of a tracker at a boundary whose loads enter: it moves on to the front of the scan, and stays where that
one lies behind it (R106). -/
def State.moveFront (s : State) (n : Nat) : State :=
  match (s.te n).fNow with
  | some f =>
    let d := fwd (s.cpc n) (s.te n).fPrev f
    s.setTe n { s.te n with fPrev := if 0 < d && 2 * d < s.cpc n then f else (s.te n).fPrev, fNow := none, from_ := none }
  | none => s

/-- The loads at a boundary: deferred points first, then the staged ones in their order; the fronts move on. -/
def State.enterLoads (s : State) : State :=
  let all := s.deferred ++ s.points
  let s1 := overList all (fun s e => s.loadPoint e.1 e.2) { s with points := [], deferred := [] }
  overList (List.range 16) State.moveFront s1

/-- An overrun boundary: the staged loads are discarded and no front moves (R47, R108); an entry whose load it was by the
first scan that examined it stays fresh, so that the next scan stages it again, passed or not. -/
def State.dropLoads (s : State) : State :=
  let s1 := overList (s.points.filter (fun p => p.2.fresh)) (fun s p => s.setEs p.2.entry { s.es p.2.entry with examined := false }) s
  overList (List.range 16) (fun s n => s.setTe n { s.te n with
    fNow := none, from_ := if (s.te n).fNow.isSome then some ((s.te n).from_.getD ((s.snapOf n).a / 65536)) else (s.te n).from_ }) { s1 with points := [] }

/-! ### Twin comparison (R26, R122) -/

/-- A slot's target is forced to its safe level. -/
def State.forceTarget (s : State) (sh slot : Nat) (ev : EvEntry) : State :=
  match ev.tgtType with
  | 0 => if ev.target < 160 then s.pinForce ev.target sh slot else s
  | 2 => s.vForce ev.target sh slot
  | _ => s

/-- The two results of a slot of a pair differ (R122): the state of the instance, and where there is one its action and
target and the moments at which its start and end are placed. -/
def State.twinDiffer (s : State) (a slot : Nat) : Bool :=
  let x := s.sl (slotKey a slot)
  let y := s.sl (slotKey (a + 1) slot)
  let started := fun (z : Slot) => z.st == .active || z.st == .over 2
  x.st != y.st || (x.st.holds && (x.entry != y.entry || x.ev != y.ev))
    || (started x && x.startAt != y.startAt) || (x.st == .active && x.endAt != y.endAt)

/-- A mismatch: the targets are forced, the slot's actions on their way are discarded, and the slot is over in both sheds. -/
def State.twinMismatch (s : State) (a slot : Nat) : State :=
  let x := s.sl (slotKey a slot)
  let y := s.sl (slotKey (a + 1) slot)
  let s1 := (s.dropActs a slot).forceTarget a slot x.ev
  let s2 := if y.ev = x.ev then s1 else s1.forceTarget a slot y.ev
  let z := { x.release with forced := true }
  ((s2.setSl (slotKey a slot) z).setSl (slotKey (a + 1) slot) z).log .evtTwinMismatch a (a / 2 + slot <<< 12)

/-- The comparison of every slot of the active pairs in one tick: what waits on the channels that it forces off is cancelled
before boost is handed on (R213). -/
def State.twinCompare (s : State) : State :=
  let pairs := (List.range 8).filter (fun k => (s.f F.SYS_TWIN_PAIR_ACT).testBit k && !s.tb.twinNew.testBit k)
  let bad := (pairs.flatMap (fun k => (List.range 64).map (fun i => (2 * k, i)))).filter (fun e => s.twinDiffer e.1 e.2)
  let evs := bad.flatMap (fun e => [(s.sl (slotKey e.1 e.2)).ev, (s.sl (slotKey (e.1 + 1) e.2)).ev])
  let chans := (evs.filter (fun v => v.tgtType == 2)).map (fun v => v.target)
  overList bad (fun s e => s.twinMismatch e.1 e.2) (overList chans State.cancelState s)

/-- SLOT_COMPARE. -/
def State.slotRow (s : State) : State := if s.tb.running then (s.compareAll.twinCompare).stallCompare else s

/-- TRACKER_TICK: the trackers in increasing number, so that a geared tracker follows its source's tick; then the policy
of R380. In IDLE the trackers stand still (R382). The snapshot of the boundary tick holds what the trackers publish in it
(R40, R93). -/
def State.trackerRow (s : State) : State :=
  if !s.tb.running || s.mode = 3 then s
  else
    let s1 := overList (List.range 16) State.tickTracker s
    (if s1.now = s1.tb.t0 then s1.snapAll else s1).policy

/-- A row of the trackers (Table 3.5): not in IDLE (R382), and with the policy of R380 in its tick. -/
def State.trkRow (s : State) (f : State → State) : State := if s.mode = 3 then s else (f s).policy

/-- TOOTH_EDGE: an accepted edge reaches the stalls that take it (R130). -/
def State.toothRow (s : State) (n : Nat) (onB : Bool) (x : Crossing) : State :=
  let s1 := s.toothEdge n onB x
  let accepted := (s1.tr n).edge ≠ (s.tr n).edge || (s1.tr n).seen != (s.tr n).seen
  (if accepted then s1.feedStalls n (s1.tr n).edge else s1).policy

/-! ### Actions (R114, R140, R186, R190, R212, Table 5.2) -/

/-- The slot's earliest placed action of one kind whose tick has come. -/
def State.actDue (s : State) (sh slot type action : Nat) : Option Act :=
  s.placed.find? (fun a => a.sh == sh && a.slot == slot && a.ev.tgtType == type && a.ev.action == action && s.reached (tickOf a.at_))

/-- An action of a kind acts: `f` is what it does, once it has left the queue. -/
def State.act (s : State) (sh slot type action : Nat) (f : State → Act → State) : State :=
  match s.actDue sh slot type action with
  | none => s
  | some a => f { s with placed := s.placed.erase a } a

/-- The stall that an action names. -/
def actStall (a : Act) : Nat := 24 * a.sh + a.ev.target

/-- CAPTURE: on the stall and its mirror, with the count held in the tick (R140). -/
def State.actCapture (s : State) (a : Act) : State :=
  let s1 := s.stlDue (actStall a)
  overList (s1.stlBoth (actStall a)) (fun s k => s.stlCapture1 k (s.countAt k s.now) (tickOf a.at_)) s1

/-- DOSE: the start, and at the end the channel goes off if the instance owns it (R212). -/
def State.actDose (s : State) (a : Act) : State :=
  if a.isEnd then s.vEndEv a.ev.target (.ev a.sh a.slot) a.at_ else s.doseStart a

/-- START: TR and TF come from the placed time (R190). -/
def State.actStart (s : State) (a : Act) : State :=
  let n := a.ev.target
  let s1 := s.rnStart n (a.ev.param % 128)
  (s1.setRnTr n (BitVec.ofNat 24 (a.at_.toNat / 32 + 24))).setF (F.RUN_TFINE_TF n) (a.at_.toNat % 32)

/-- The interrupt source of an interrupt target (Table 5.2, R128). -/
def actSource (a : Act) : Nat := if a.ev.target < 64 then a.ev.target else priv a.sh (a.ev.target - 64)

/-! ### The meanings -/

def execToothEdge (n : Fin 16) (onB : Bool) (x : Crossing) (s : State) : Host.Outcome State Fault Refusal := .next (s.toothRow n.val onB x)
def execPulseTrailingEdge (n : Fin 16) (x : Crossing) (s : State) : Host.Outcome State Fault Refusal := .next (s.pulseTrailing n.val x).policy
def execIndexEdge (n : Fin 16) (x : Crossing) (s : State) : Host.Outcome State Fault Refusal := .next (s.indexEdge n.val x).policy
def execIndexTrailingEdge (n : Fin 16) (x : Crossing) (s : State) : Host.Outcome State Fault Refusal := .next (s.indexTrailing n.val x).policy
def execLawUpdate (n : Fin 16) (bad : List (Fin 1024)) (s : State) : Host.Outcome State Fault Refusal :=
  .next (s.trkRow (fun s => (s.spoilLearn n.val (bad.map (·.val))).lawUpdate n.val))
def execStopTimeExpiry (n : Fin 16) (s : State) : Host.Outcome State Fault Refusal := .next (s.trkRow (fun s => s.stopExpiry n.val))
def execErrMaxReached (n : Fin 16) (s : State) : Host.Outcome State Fault Refusal := .next (s.trkRow (fun s => s.errMaxRow n.val))
def execIdxErrMaxReached (n : Fin 16) (s : State) : Host.Outcome State Fault Refusal := .next (s.trkRow (fun s => s.idxErrMaxRow n.val))
def execSeekRevsExhausted (n : Fin 16) (s : State) : Host.Outcome State Fault Refusal := .next (s.trkRow (fun s => s.seekRow n.val))
def execVirtTetherLost (n : Fin 16) (s : State) : Host.Outcome State Fault Refusal := .next (s.trkRow (fun s => s.tetherRow n.val))
def execSensorWindowSample (k : Fin 32) (vP vN : Int) (s : State) : Host.Outcome State Fault Refusal :=
  .next (s.trkRow (fun s => s.snsSample k.val vP vN))
def execSsiSamplePull (n : Fin 16) (bad : Bool) (s : State) : Host.Outcome State Fault Refusal :=
  .next (s.trkRow (fun s => (s.spoil (s.f (F.WHL_SSI_TROUGH n)) bad).ssiPull n.val))
def execTrackerTick (s : State) : Host.Outcome State Fault Refusal := .next s.trackerRow
def execSlotCompare (s : State) : Host.Outcome State Fault Refusal := .next s.slotRow
def execEvPulseHigh (sh : Fin 16) (slot : Fin 64) (s : State) : Host.Outcome State Fault Refusal := .next (s.act sh.val slot.val 0 0 State.pinAct)
def execEvPulseLow (sh : Fin 16) (slot : Fin 64) (s : State) : Host.Outcome State Fault Refusal := .next (s.act sh.val slot.val 0 1 State.pinAct)
def execEvSet (sh : Fin 16) (slot : Fin 64) (s : State) : Host.Outcome State Fault Refusal := .next (s.act sh.val slot.val 0 2 State.pinAct)
def execEvClear (sh : Fin 16) (slot : Fin 64) (s : State) : Host.Outcome State Fault Refusal := .next (s.act sh.val slot.val 0 3 State.pinAct)
def execEvToggle (sh : Fin 16) (slot : Fin 64) (s : State) : Host.Outcome State Fault Refusal := .next (s.act sh.val slot.val 0 4 State.pinAct)
def execEvToggle2 (sh : Fin 16) (slot : Fin 64) (s : State) : Host.Outcome State Fault Refusal := .next (s.act sh.val slot.val 0 5 State.pinAct)
def execEvCapture (sh : Fin 16) (slot : Fin 64) (s : State) : Host.Outcome State Fault Refusal := .next (s.engFlush.act sh.val slot.val 1 0 State.actCapture)
def execEvGate (sh : Fin 16) (slot : Fin 64) (s : State) : Host.Outcome State Fault Refusal :=
  .next (s.engFlush.act sh.val slot.val 1 1 (fun s a => s.stlRun (actStall a) (!a.isEnd)))
def execEvRestart (sh : Fin 16) (slot : Fin 64) (s : State) : Host.Outcome State Fault Refusal :=
  .next (s.engFlush.act sh.val slot.val 1 2 (fun s a => s.stlRestart (actStall a)))
def execEvHalt (sh : Fin 16) (slot : Fin 64) (s : State) : Host.Outcome State Fault Refusal :=
  .next (s.engFlush.act sh.val slot.val 1 3 (fun s a => s.stlRun (actStall a) false))
def execEvDose (sh : Fin 16) (slot : Fin 64) (s : State) : Host.Outcome State Fault Refusal := .next (s.act sh.val slot.val 2 0 State.actDose)
def execEvStart (sh : Fin 16) (slot : Fin 64) (s : State) : Host.Outcome State Fault Refusal := .next (s.act sh.val slot.val 3 0 State.actStart)
def execEvSignal (sh : Fin 16) (slot : Fin 64) (s : State) : Host.Outcome State Fault Refusal :=
  .next (s.act sh.val slot.val 3 1 (fun s a => s.rnFlags a.ev.target true 1))
def execEvSignal2 (sh : Fin 16) (slot : Fin 64) (s : State) : Host.Outcome State Fault Refusal :=
  .next (s.act sh.val slot.val 3 2 (fun s a => s.rnFlags a.ev.target true 1))
def execEvStop (sh : Fin 16) (slot : Fin 64) (s : State) : Host.Outcome State Fault Refusal :=
  .next (s.act sh.val slot.val 3 3 (fun s a => s.rnStop a.ev.target))
def execEvPulse (sh : Fin 16) (slot : Fin 64) (s : State) : Host.Outcome State Fault Refusal :=
  .next (s.act sh.val slot.val 4 0 (fun s a => s.pulse (actSource a)))
def execEvPulse2 (sh : Fin 16) (slot : Fin 64) (s : State) : Host.Outcome State Fault Refusal :=
  .next (s.act sh.val slot.val 4 1 (fun s a => s.pulse (actSource a)))

end Sys2Proof.Machine
end

