-- ==== Sys2Proof/Machine/TimeBase.lean ====
section
/-! DEFINITION. The registers of the time base and the beat (R35 to R39, R46, Tables 2.6 to 2.13). -/

namespace Sys2Proof.Machine

open Sys2Proof

/-- Bits [47:24] of the time base. -/
def State.tbHi (s : State) : Nat := s.now.toNat / 2 ^ 24

/-- A write of TB_BEAT_CFG (R39): OVR_LIMIT under its own access code; PERIOD_US from 4 to 64, in CONFIG, outside a ring.
After the seal the write is discarded without error (R10); a write discarded for the mode alone sets nothing. -/
def State.beatCfg (s : State) (v : Word) : State :=
  let p := getBits v 0 7
  if s.sealed then s
  else
    let s1 := s.setF F.TB_BEAT_CFG_OVR_LIMIT (getBits v 8 8)
    if s.inRing || decide (p < 4) || decide (64 < p) then s1.setB F.TB_STAT_CFG_ERR true
    else if s.mode ≠ 2 then s1
    else s1.setF F.TB_BEAT_CFG_PERIOD_US p

/-- A write of TB_COMMIT_CTL (R46): with HOLD clear the run of held boundaries is over. -/
def State.commitCtl (s : State) (v : Word) : State :=
  let s1 := s.setB F.TB_COMMIT_CTL_HOLD (v.getLsbD 0)
  if v.getLsbD 0 then s1 else { s1 with tb := { s1.tb with holdRun := 0 } }

/-- HOLD_EXPIRY (R46): HOLD has skipped 4,096 consecutive boundaries. -/
def State.holdExpiry (s : State) : State :=
  if s.b F.TB_COMMIT_CTL_HOLD && decide (4096 ≤ s.tb.holdRun) then
    let s1 := (s.setB F.TB_COMMIT_CTL_HOLD false).setB F.TB_STAT_HOLD_EXPIRED true
    { s1 with tb := { s1.tb with holdRun := 0 } }.log .sysCommitHoldExpired wholeDevice 0
  else s

/-- PHASE of TB_PHASE: 0 sense, 1 compute, 2 commit preparation (Table 2.1). -/
def State.phaseCode (s : State) : Nat := if s.tb.phase < 200 then 0 else if s.tb.phase + 128 < s.P then 1 else 2

/-- The computed registers of the block. -/
def State.tbView (s : State) (a : Nat) : Option Word :=
  match a with
  | 0x2000 => some (packed [(s.tbLo.toNat, 0)])
  | 0x2004 => some (packed [(s.tbHi, 0)])
  | 0x200C => some (packed [(s.tb.beat.toNat, 0)])
  | 0x201C => some (packed [(s.tb.phase, 0), (s.phaseCode, 15)])
  | 0x2020 => some (packed [(s.f F.TB_COMMIT_CTL_HOLD, 0), (toBit (!s.ready.isEmpty), 1)])
  | _ => none

/-- A read of TB_LO latches TB_HI of the same cycle into the requester's TB_HI_SNAP (R35). -/
def State.tbLoRead (s : State) (r : Requester) : State :=
  (s.latch r R.TB_HI_SNAP (packed [(s.tbHi, 0)])).deliver r (packed [(s.tbLo.toNat, 0)])

/-- A read of TB_BEAT latches the time of that beat's boundary (Table 2.7). -/
def State.tbBeatRead (s : State) (r : Requester) : State :=
  let t := s.tb.t0.toNat
  ((s.latch r R.TB_BEAT_T0_LO_SNAP (packed [(t % 2 ^ 24, 0)])).latch r R.TB_BEAT_T0_HI_SNAP (packed [(t / 2 ^ 24, 0)])).deliver r
    (packed [(s.tb.beat.toNat, 0)])

def execTbCommitCtlWrite (r : Requester) (v : Word) (s : State) : Host.Outcome State Fault Refusal :=
  .next (s.writeBy (wordTo r R.TB_COMMIT_CTL v) (fun s => s.commitCtl v))
def execTbBeatCfgWrite (r : Requester) (v : Word) (s : State) : Host.Outcome State Fault Refusal :=
  .next (s.writeBy (wordTo r R.TB_BEAT_CFG v) (fun s => s.beatCfg v))
def execTbLoRead (r : Requester) (s : State) : Host.Outcome State Fault Refusal := .next (s.readBy (wordOf r R.TB_LO .clean) (fun s => s.tbLoRead r))
def execTbBeatRead (r : Requester) (s : State) : Host.Outcome State Fault Refusal := .next (s.readBy (wordOf r R.TB_BEAT .clean) (fun s => s.tbBeatRead r))
def execHoldExpiry (s : State) : Host.Outcome State Fault Refusal := .next s.holdExpiry

end Sys2Proof.Machine
end

