-- ==== Sys2Proof/Machine/DmaCore.lean ====
section
/-! DEFINITION. The DMA engine's channels: descriptors and their checks (R294 to R296), the read engine's issue of fetches
and reads (R297 to R299), the end of descriptors and chains (R301 to R306), and what its registers do and show (R311). -/

namespace Sys2Proof.Machine

open Sys2Proof

/-- Status codes of Table 14.4. -/
def dmaOk : Nat := 0
def dmaStopped : Nat := 1
def dmaDisabled : Nat := 2
def dmaDescBad : Nat := 3
def dmaLoop : Nat := 4
def dmaTimeout : Nat := 5
def dmaHostErr : Nat := 6
def dmaYardViol : Nat := 7
def dmaYardQuar : Nat := 8
def dmaParity : Nat := 9
def dmaTrgDir : Nat := 10

/-- The trouble code of a status; the Yard logs its own (Table 14.4). -/
def dmaLogCode : Nat → Option LogCode
  | 3 => some .dmaDescBad
  | 4 => some .dmaLoop
  | 5 => some .dmaBusTimeout
  | 6 => some .dmaHostErr
  | 9 => some .dmaParity
  | 10 => some .dmaTrgDir
  | _ => none

/-- Bulk class. -/
def State.bulk (s : State) (n : Nat) : Bool := s.b (F.DMA_CFG_CLASS n)

/-- The engine issues accesses in every mode from BOOT onward but IDLE (R310). -/
def State.dmaRuns (s : State) : Bool := s.mode != 0 && s.mode != 3

/-- The engine's time: ticks, those of IDLE not counted (R304). -/
def State.dmaNow (s : State) : Time := s.now - BitVec.ofNat 48 s.dma.idle

/-- An access issued at `t` has not completed for 64 µs (R304). -/
def State.timedOut (s : State) (t : Time) : Bool := decide (32000 ≤ since s.dmaNow t)

/-- Host memory can be reached (R290, R320). -/
def State.hostUp (s : State) : Bool :=
  s.b F.SYS_HOST_STAT_LINK_UP && s.b F.SYS_HOST_STAT_BME && s.f F.SYS_HOST_STAT_DSTATE == 0

/-- The device leaves L1 for a TLP that it issues (R320). -/
def State.leaveL1 (s : State) : State := s.setF F.SYS_HOST_STAT_L1 0

/-- It leaves L1 for an access to host memory. -/
def State.outTo (s : State) (space : Nat) : State := if space = 2 then s.leaveL1 else s

/-! ### Elements and descriptors (Tables 14.2 and 14.3) -/

/-- Data size and storage size of an element. -/
def dataSize : Nat → Nat
  | 0 => 1
  | 1 => 2
  | 3 => 4
  | _ => 3
def storSize : Nat → Nat
  | 4 => 4
  | w => dataSize w
def alignOf : Nat → Nat
  | 1 => 2
  | 3 | 4 => 4
  | _ => 1

/-- Is a width allowed in a space? -/
def widthIn (space w : Nat) : Bool :=
  match space with
  | 0 => w == 3 || w == 4
  | 3 => w == 5
  | _ => decide (w < 5)

/-- The first byte address beyond a space. -/
def spaceEnd : Nat → Nat
  | 0 => 0x400000
  | 1 => 0x208010
  | _ => 2 ^ 64

/-- Does a side of a descriptor keep its space and its alignment (R295)? -/
def sideOk (x : DmaAddr) (w : Nat) (inc : Bool) (count : Nat) : Bool :=
  if x.space = 3 then true
  else
    let k := count / dataSize w
    x.addr % alignOf w == 0 && decide (x.addr + (if inc then (k - 1) * storSize w else 0) + storSize w ≤ spaceEnd x.space)

/-- A 32-bit word of a descriptor's bytes. -/
def word32 (bs : List Nat) (o : Nat) : Nat := ofBytes ((bs.drop o).take 4)

/-- The fields of a descriptor's 32 bytes. -/
def parseDesc (bs : List Nat) : Desc :=
  let w4 := word32 bs 0x10
  let w5 := word32 bs 0x14
  { src := ⟨w5 % 4, word32 bs 0 + 2 ^ 32 * word32 bs 4⟩, dst := ⟨w5 / 4 % 4, word32 bs 8 + 2 ^ 32 * word32 bs 12⟩
    count := w4 % 2 ^ 24, srcW := w4 / 2 ^ 24 % 8, dstW := w4 / 2 ^ 27 % 8
    srcInc := bitOf w5 4, dstInc := bitOf w5 5, crcEn := bitOf w5 6, crcSel := bitOf w5 7, crcCont := bitOf w5 8
    record := bitOf w5 9, irq := bitOf w5 10, last := bitOf w5 11, hopRst := bitOf w5 12
    next := ⟨if bitOf w5 13 then 2 else 1, word32 bs 0x18 + 2 ^ 32 * word32 bs 0x1C⟩ }

/-- The trough that REQ_SEL paces a channel by. -/
def State.paceTrough (s : State) (n : Nat) : Option Nat :=
  let r := s.f (F.DMA_CFG_REQ_SEL n)
  if 32 ≤ r && r < 96 then some (r - 32) else none

/-- Does a descriptor's side name trough `q`? -/
def namesTrough (x : DmaAddr) (q : Nat) : Bool := x.space == 3 && x.addr % 64 == q

/-- The checks of R295 on channel `n`'s descriptor of bytes `bs`. -/
def State.descOk (s : State) (n : Nat) (bs : List Nat) : Bool :=
  let d := parseDesc bs
  word32 bs 0x10 / 2 ^ 30 == 0 && word32 bs 0x14 / 2 ^ 14 == 0
    && decide (d.srcW < 6) && decide (d.dstW < 6) && widthIn d.src.space d.srcW && widthIn d.dst.space d.dstW
    && d.count != 0 && d.count % dataSize d.srcW == 0 && d.count % dataSize d.dstW == 0
    && sideOk d.src d.srcW d.srcInc d.count && sideOk d.dst d.dstW d.dstInc d.count
    && (match s.paceTrough n with | some q => namesTrough d.src q || namesTrough d.dst q | none => true)
    && (d.last || d.next.addr % 32 == 0)

/-! ### Slots and buffer (R299) -/

/-- Reads of a channel in flight: data reads, a fetch, and reads whose data will be discarded. -/
def DmaChan.flying (c : DmaChan) : Nat :=
  c.lost.length + (if c.fetchAt.isSome then 1 else 0)
    + (c.jobs.map (fun j => (j.reads.filter (fun r => r.data.isNone)).length)).foldl (· + ·) 0

/-- Shared-buffer bytes that a channel holds. -/
def DmaChan.buffered (c : DmaChan) : Nat :=
  (c.jobs.map (fun j => (j.reads.map (·.size)).foldl (· + ·) 0)).foldl (· + ·) 0

def State.dmaFlying (s : State) : Nat := (s.chans.map (fun e => e.2.flying)).foldl (· + ·) 0
def State.dmaBuffered (s : State) : Nat := (s.chans.map (fun e => e.2.buffered)).foldl (· + ·) 0

/-! ### The end of descriptors and chains (R301 to R306, R309) -/

/-- The CRC register with which a job begins (R300). -/
def DmaChan.crcStart (c : DmaChan) (d : Desc) : Nat :=
  match c.keep with
  | some (sel, v) => if d.crcCont && sel == d.crcSel then v else 0xFFFFFFFF
  | none => 0xFFFFFFFF

/-- The finished CRC value of a job: over the bytes written, none of them included (R300). -/
def DmaChan.crcOut (c : DmaChan) (j : DmaJob) : Nat := if j.d.crcEn then (j.crc.getD (c.crcStart j.d)) ^^^ 0xFFFFFFFF else 0

/-- DMA_n_CUR. -/
def State.setCur (s : State) (n : Nat) (x : DmaAddr) : State :=
  ((s.wr (R.DMA_CUR_0 n) (BitVec.ofNat 32 (x.addr % 2 ^ 24))).wr (R.DMA_CUR_1 n) (BitVec.ofNat 32 (x.addr / 2 ^ 24 % 2 ^ 24))).wr
    (R.DMA_CUR_2 n) (BitVec.ofNat 32 (x.addr / 2 ^ 48 % 2 ^ 16 + (if x.space = 2 then 2 ^ 16 else 0)))

def State.setCrc (s : State) (n c : Nat) : State :=
  (s.setF (F.DMA_CRC_LO_LO n) (c % 2 ^ 24)).setF (F.DMA_CRC_HI_HI n) (c / 2 ^ 24)

/-- The reads in flight of a chain, as reads whose data will be discarded. -/
def DmaChan.strand (c : DmaChan) : List Time :=
  c.lost ++ (c.jobs.map (fun j => (j.reads.filter (fun r => r.data.isNone)).map (·.at_))).flatten ++ c.fetchAt.toList

/-- The burst of a channel is no longer issued. -/
def State.cutBurst (s : State) (n : Nat) : State :=
  match s.dma.burst with
  | some (m, _) => if m = n then { s with dma := { s.dma with burst := none, fresh := false } } else s
  | none => s

/-- A channel with nothing left enters IDLE: a drained one, or one whose chain has ended. -/
def State.dmaRest (s : State) (n : Nat) : State :=
  let c := s.ch n
  if !c.on && c.lost.isEmpty && c.records.isEmpty then (s.setB (F.DMA_CTL_STOP n) false).setB (F.DMA_CTL_DISABLE n) false else s

/-- The chain of a channel ends with the record `r`; its reads in flight are left to drain. -/
def State.dmaEnd (s : State) (n : Nat) (r : DmaRec) : State :=
  let c := s.ch n
  ((s.cutBurst n).setCh n { c with on := false, jobs := [], next := none, fetchAt := none, keep := none, lost := c.strand, records := c.records ++ [r] }).setB (F.DMA_CTL_DISABLE n) false

/-- The record of a job, or of a stop between descriptors: an undefined value stands where R302 and R306 leave BYTES and CRC
undefined. -/
def State.recOf (s : State) (n : Nat) (j : DmaJob) (status : Nat) (exact ends : Bool) : State × DmaRec :=
  let b := s.draw
  let c := b.2.draw
  let bytes := if exact then j.written else (Config.undefinedWord b.1).toNat % 2 ^ 24
  let crc := if exact then (s.ch n).crcOut j else (Config.undefinedWord c.1).toNat
  let s1 := if exact then s else c.2.setF (F.DMA_BYTES_BYTES n) bytes
  (s1, ⟨j.at_, bytes, status, j.poison, exact, j.d.irq, crc, j.hops, ends⟩)

/-- The record of a descriptor that ends: its CRC is stored in DMA_n_CRC too (R300). -/
def State.jobRec (s : State) (n : Nat) (j : DmaJob) (status : Nat) (exact ends : Bool) : State × DmaRec :=
  let x := s.recOf n j status exact ends
  (x.1.setCrc n x.2.crc, x.2)

/-- The job at the head of a channel has been written out: CRC, its record, and what follows it (R301, R309). -/
def State.jobDone (s : State) (n : Nat) (j : DmaJob) (rest : List DmaJob) (status : Nat) (ends : Bool) : State :=
  let x := s.jobRec n j status true ends
  let c := x.1.ch n
  if ends then x.1.dmaEnd n x.2
  else
    let keep := if j.d.crcEn then j.crc.map (fun v => (j.d.crcSel, v)) else none
    let s1 := x.1.setCh n { c with jobs := rest, keep := keep, records := if j.d.record then c.records ++ [x.2] else c.records }
    let s2 := s1.setF (F.DMA_BYTES_BYTES n) 0
    match rest with
    | k :: _ => s2.setCur n k.at_
    | [] => s2.setCur n j.d.next

/-- Stream bytes that the head job can still have written: to its count, or under DISABLE to what has been issued. -/
def State.jobGoal (s : State) (n : Nat) (j : DmaJob) : Nat :=
  if s.b (F.DMA_CTL_DISABLE n) then j.issued - j.issued % dataSize j.d.dstW else j.d.count

/-- The head of the channel's work is looked at again: an error that has come to the head ends the chain, once its reads
are back where the class is table; a job written out is done; a stop or disable with nothing left acts. -/
def State.dmaHead (s : State) (n : Nat) : State :=
  let c := s.ch n
  let stop := s.b (F.DMA_CTL_STOP n)
  let dis := s.b (F.DMA_CTL_DISABLE n)
  let mine := match s.dma.burst with | some (m, _) => m == n | none => false
  if !c.on || !c.records.isEmpty then s
  else match c.jobs with
  | j :: rest =>
    match j.fault with
    | some st =>
      if s.bulk n then
        let x := s.jobRec n j st false true
        x.1.dmaEnd n x.2
      else if c.flying ≠ 0 then s
      else
        let x := s.jobRec n j st true true
        x.1.dmaEnd n x.2
    | none =>
      if (dis && rest.isEmpty && (mine || j.written < s.jobGoal n j)) || ((!dis || !rest.isEmpty) && j.written < j.d.count) then s
      else
        let status := if rest.isEmpty && dis then dmaDisabled else if rest.isEmpty && stop then dmaStopped else dmaOk
        let s1 := s.jobDone n j rest status (status ≠ dmaOk || j.d.last)
        if status = dmaStopped && !j.d.last then s1.setCur n j.d.next else s1
  | [] =>
    match c.next with
    | some x =>
      if stop || dis then
        let y := s.recOf n { at_ := x, hops := c.hops } (if dis then dmaDisabled else dmaStopped) true true
        (y.1.dmaEnd n y.2).setCur n x
      else s
    | none => s

/-- The chain ends with the error `status` of the descriptor `j`, of which `keep` is the CRC register before it: no access of the chain is
issued any more, and its reads in flight are discarded (R305, R306). -/
def DmaChan.failed (c : DmaChan) (j : DmaJob) (keep : Option (Bool × Nat)) (status : Nat) : DmaChan :=
  { c with jobs := [{ j with reads := [], waitAt := none, fault := some status }], lost := c.strand, next := none, fetchAt := none, keep := keep }

/-- An error of channel `n` is logged, and its chain ends with it. -/
def State.dmaFails (s : State) (n : Nat) (c : DmaChan) (j : DmaJob) (status : Nat) : State :=
  let s1 := (((s.cutBurst n).setCh n c).setCur n j.at_).setF (F.DMA_BYTES_BYTES n) j.written
  let s2 := match dmaLogCode status with | some x => s1.log x n n | none => s1
  s2.dmaHead n

/-- Job `k` of a channel is found in error (R305). -/
def State.dmaFault (s : State) (n k status : Nat) : State :=
  let c := s.ch n
  let kept := fun (p : DmaJob) => if p.d.crcEn then p.crc.map (fun v => (p.d.crcSel, v)) else none
  match c.jobs[k]? with
  | some j => s.dmaFails n (c.failed j (if k = 0 then c.keep else (c.jobs[k - 1]?).bind kept) status) j status
  | none => s

/-- A descriptor that ends the chain before any of its data moves (R295, R296, a failed fetch). -/
def State.dmaBadDesc (s : State) (n : Nat) (x : DmaAddr) (status : Nat) : State :=
  let c := s.ch n
  let j : DmaJob := { at_ := x, hops := c.hops }
  s.dmaFails n ({ c with fetchAt := none }.failed j c.keep status) j status

/-! ### The read engine's issue (R297 to R299) -/

/-- LIMIT of the hop count. -/
def State.hopLimit (s : State) (n : Nat) : Nat := let v := s.f (F.DMA_HOP_LIMIT n); if v = 0 then 65536 else v

/-- The chain goes on: no error in it, no stop or disable. -/
def State.dmaGoesOn (s : State) (n : Nat) : Bool :=
  let c := s.ch n
  c.on && c.records.isEmpty && c.jobs.all (fun j => j.fault.isNone) && !s.b (F.DMA_CTL_STOP n) && !s.b (F.DMA_CTL_DISABLE n)

/-- Fetch the next descriptor once the last read of the one before it has been issued (R297), and no burst is being issued (R299). -/
def State.dmaFetch (s : State) (n : Nat) : State :=
  let c := s.ch n
  match c.next with
  | none => s
  | some x =>
    if !s.dmaGoesOn n || c.fetchAt.isSome || !s.dmaRuns || s.dma.burst.isSome || c.jobs.any (fun j => decide (j.issued < j.d.count)) then s
    else if s.hopLimit n ≤ c.hops then s.dmaBadDesc n x dmaLoop
    else if x.space = 2 && !s.hostUp then (s.setCh n { c with hops := c.hops + 1 }).dmaBadDesc n x dmaHostErr
    else if 128 ≤ s.dmaFlying then s
    else (s.outTo x.space).setCh n { c with hops := c.hops + 1, fetchAt := some s.dmaNow }

/-- The address of stream byte `i` of the source side: its element, and its place in it. -/
def srcAddrAt (d : Desc) (i : Nat) : Nat :=
  if d.src.space = 3 then d.src.addr
  else d.src.addr + (if d.srcInc then i / dataSize d.srcW * storSize d.srcW else 0) + i % dataSize d.srcW

/-- The largest read or write that may start at an address of a space (Table 14.1). -/
def State.maxAccess (s : State) (space addr : Nat) (write : Bool) : Nat :=
  match space with
  | 0 => 4
  | 1 => min 64 (256 - addr % 256)
  | 2 => min (if write then min 256 s.pcie.mps else min 512 s.pcie.mrrs) (4096 - addr % 4096)
  | _ => 1

/-- The next read of a burst with `left` stream bytes to go, split by the read sizes of Table 14.1: address, bytes read, bytes of the
stream. Packed elements in increasing order are read across their bounds, N24 elements whole, and a source that does not
advance element by element. -/
def State.nextRead (s : State) (d : Desc) (i left : Nat) : DmaAddr × Nat × Nat :=
  let a := srcAddrAt d i
  let m := s.maxAccess d.src.space a false
  if d.src.space = 3 then (⟨3, a % 64⟩, 3, 3)
  else if d.srcW = 4 then
    let k := if d.srcInc then max 1 (min (left / 3) (m / 4)) else 1
    (⟨d.src.space, a⟩, k * 4, k * 3)
  else
    let k := min m (if d.srcInc then left else dataSize d.srcW - i % dataSize d.srcW)
    (⟨d.src.space, a⟩, k, k)

/-- The job whose reads are being issued: the first with bytes to issue. -/
def issuing (l : List DmaJob) : Option (Nat × DmaJob) :=
  ((l.zipIdx).find? (fun e => decide (e.1.issued < e.1.d.count))).map (fun e => (e.2, e.1))

/-- Stream bytes of a channel's next burst: whole source elements. -/
def State.burstBytes (s : State) (n : Nat) (j : DmaJob) : Nat :=
  let b := s.f (F.DMA_CFG_BURST n)
  let b := if b = 0 || 4096 < b then 4096 else b
  let z := dataSize j.d.srcW
  min (j.d.count - j.issued) (max z (b - b % z))

/-- May the next burst start (R298)? -/
def State.requested (s : State) (n : Nat) (j : DmaJob) : Bool :=
  let r := s.f (F.DMA_CFG_REQ_SEL n)
  let b := s.burstBytes n j
  if r < 32 then s.rnAsks r
  else match s.paceTrough n with
  | none => true
  | some q => (!namesTrough j.d.src q || decide (b / 3 ≤ s.trgUnread q)) && (!namesTrough j.d.dst q || decide ((b + 2) / 3 ≤ s.trgSpace q))

/-- The first read of a burst is issued: its request line is taken, and the burst counted (R189, R298). -/
def State.takeBurst (s : State) (n : Nat) : State :=
  let r := s.f (F.DMA_CFG_REQ_SEL n)
  let s1 := if r < 32 then s.rnTake r else s
  { s1.bump (R.DMA_CNT_BURST n) with dma := { s1.dma with fresh := false } }

/-- Issue one read of the burst in progress, if a slot and the buffer allow it. A burst whose request is withdrawn before its first
read is none (R298). -/
def State.issueOne (s : State) : State :=
  match s.dma.burst with
  | none => s
  | some (n, left) =>
    let c := s.ch n
    match issuing c.jobs with
    | none => s.cutBurst n
    | some (k, j) =>
      let x := s.nextRead j.d j.issued left
      if s.dma.fresh && !s.requested n j then s.cutBurst n
      else if 128 ≤ s.dmaFlying || 16384 < s.dmaBuffered + x.2.1 || !s.dmaRuns then s
      else if x.1.space = 2 && !s.hostUp then s.dmaFault n k dmaHostErr
      else
        let s0 := (if s.dma.fresh then s.takeBurst n else s).outTo x.1.space
        let j1 := { j with issued := j.issued + x.2.2, reads := j.reads ++ [{ src := x.1, size := x.2.1, width := x.2.2, at_ := s.dmaNow }] }
        let s1 := s0.setCh n { c with jobs := c.jobs.set k j1 }
        { s1 with dma := { s1.dma with burst := if left ≤ x.2.2 then none else some (n, left - x.2.2) } }

/-- Issue reads as long as slots and buffer last. -/
def State.issueReads : Nat → State → State
  | 0, s => s
  | k + 1, s => issueReads k s.issueOne

/-- The engine goes on after anything has changed: the burst in progress, then fetches that are due, in channel order. -/
def State.pump (s : State) : State :=
  let s1 := State.issueReads 128 s
  overList (s1.chans.map (·.1)) (fun s n => (s.dmaHead n).dmaFetch n) s1

/-- The engine stands still in IDLE, and goes on in the first tick after it (R310, R382). -/
def State.dmaWake (s : State) : State :=
  if s.mode = 3 then { s with dma := { s.dma with still := true } }
  else if s.dma.still then { s with dma := { s.dma with still := false } }.pump
  else s

/-! ### Bursts (R298) -/

/-- The job of a channel to which a burst could be granted now. -/
def State.burstJob (s : State) (n : Nat) : Option DmaJob :=
  let c := s.ch n
  if !c.on || !c.records.isEmpty || s.b (F.DMA_CTL_DISABLE n) || c.jobs.any (fun j => j.fault.isSome) then none
  else match issuing c.jobs with
  | some (_, j) => if s.requested n j then some j else none
  | none => none

/-- The channel granted next: the highest PRIO, round-robin in channel order within it (R299). -/
def State.granted (s : State) : Option (Nat × DmaJob) :=
  let can := (List.range 32).filterMap (fun n => (s.burstJob n).map (fun j => (n, j)))
  let prio := fun (e : Nat × DmaJob) => s.f (F.DMA_CFG_PRIO e.1)
  let top := (can.map prio).foldl max 0
  let best := can.filter (fun e => prio e == top)
  let last := Sparse.get (fun _ => 31) s.dma.last top
  match best.find? (fun e => decide (last < e.1)) with
  | some e => some e
  | none => best.head?

/-- BURST_GRANT: where a read slot is free; its reads wait for slots and buffer (R299). -/
def State.grantBurst (s : State) : State :=
  if s.dma.burst.isSome || !s.dmaRuns || decide (128 ≤ s.dmaFlying) then s
  else match s.granted with
  | none => s
  | some (n, j) =>
    let top := s.f (F.DMA_CFG_PRIO n)
    { s with dma := { s.dma with burst := some (n, s.burstBytes n j), fresh := true, last := Sparse.put top n s.dma.last } }.pump

/-! ### Start, stop, disable (R297, R301 to R303) -/

def State.chIdle (s : State) (n : Nat) : Bool := let c := s.ch n; !c.on && c.lost.isEmpty && c.records.isEmpty

/-- DMA_START. -/
def State.dmaStart (s : State) (n : Nat) : State :=
  let r := s.f (F.DMA_CFG_REQ_SEL n)
  let taken := decide (r < 32) && (List.range 32).any (fun m => m != n && !s.chIdle m && s.f (F.DMA_CFG_REQ_SEL m) == r)
  if !s.chIdle n || !s.b F.DMA_CQ_CFG_EN || taken then s.setB (F.DMA_STAT_CFG_ERR n) true
  else
    let x : DmaAddr := ⟨if s.b (F.DMA_DESC_2_SPACE n) then 2 else 1,
      s.f (F.DMA_DESC_0_ADDR n) + 2 ^ 24 * s.f (F.DMA_DESC_1_ADDR n) + 2 ^ 48 * s.f (F.DMA_DESC_2_ADDR n)⟩
    let c := s.ch n
    (((s.setCh n { c with on := true, next := some x, hops := 0, keep := none }).setCur n x).setF (F.DMA_BYTES_BYTES n) 0).dmaFetch n

/-- The descriptor in progress is the first; of the others those of which no read has been issued are not started (R301). -/
def trimJobs : List DmaJob → List DmaJob
  | [] => []
  | j :: rest => j :: rest.takeWhile (fun k => decide (0 < k.issued))

/-- The fetch in flight behind a job that is to be the last is dropped, and the jobs not started with it. -/
def State.trim (s : State) (n : Nat) : State :=
  let c := s.ch n
  s.setCh n { c with jobs := trimJobs c.jobs, lost := c.lost ++ c.fetchAt.toList, fetchAt := none }

/-- DMA_STOP. -/
def State.dmaStop (s : State) (n : Nat) : State :=
  if !(s.ch n).on then s
  else ((s.setB (F.DMA_CTL_STOP n) true).trim n).dmaHead n

/-- DMA_DISABLE: a bulk channel is cut at once, a table channel at the burst boundary. -/
def State.dmaDisable (s : State) (n : Nat) : State :=
  let c := s.ch n
  if !c.on then s
  else if s.bulk n then
    let s1 := s.setB (F.DMA_CTL_STOP n) false
    match c.jobs with
    | j :: _ =>
      let x := s1.jobRec n j dmaDisabled false true
      x.1.dmaEnd n x.2
    | [] =>
      let x := s1.recOf n { at_ := c.next.getD {}, hops := c.hops } dmaDisabled false true
      x.1.dmaEnd n x.2
  else ((s.setB (F.DMA_CTL_DISABLE n) true).trim n).dmaHead n

/-- A write of DMA_n_CTL: STOP and DISABLE together act as DISABLE. -/
def State.dmaCtl (s : State) (n : Nat) (v : Word) : State :=
  let s1 := if v.getLsbD 2 then s.dmaDisable n else if v.getLsbD 1 then s.dmaStop n else s
  if v.getLsbD 0 then s1.dmaStart n else s1

/-- A write of CFG, HOP or DESC: only while the channel is IDLE (R311). -/
def State.dmaPlain (s : State) (n a : Nat) (v : Word) : State :=
  if s.chIdle n then s.plainWr a v else s.setB (F.DMA_STAT_CFG_ERR n) true

/-! ### The completion queue's registers (R308) -/

def State.cqLog (s : State) : Nat := clampN (s.f F.DMA_CQ_CFG_SIZE_LOG) 4 14
def State.cqFull (s : State) : Bool := (s.f F.DMA_CQ_HEAD_HEAD + 1) % 2 ^ s.cqLog == s.f F.DMA_CQ_TAIL_TAIL % 2 ^ s.cqLog

/-- A write of DMA_CQ_CFG: SIZE_LOG only while EN is 0; setting EN starts the queue afresh. -/
def State.cqCfg (s : State) (v : Word) : State :=
  let was := s.b F.DMA_CQ_CFG_EN
  let s1 := if was then s else s.setF F.DMA_CQ_CFG_SIZE_LOG (getBits v 0 4)
  let s2 := s1.setB F.DMA_CQ_CFG_EN (v.getLsbD 4)
  if v.getLsbD 4 && !was then ((s2.setF F.DMA_CQ_HEAD_HEAD 0).setB F.DMA_CQ_HEAD_PHASE true).setF F.DMA_CQ_TAIL_TAIL 0 else s2

/-- A write of DMA_CQ_0 to DMA_CQ_2: discarded while EN is 1. -/
def State.cqBase (s : State) (a : Nat) (v : Word) : State := if s.b F.DMA_CQ_CFG_EN then s else s.plainWr a v

def State.cqTail (s : State) (v : Word) : State := s.setF F.DMA_CQ_TAIL_TAIL (getBits v 0 14)

/-! ### Host memory out of reach (R321, R305) -/

/-- Every access to host memory in flight ends with HOST_ERR. -/
def State.dmaHostGone (s : State) : State :=
  overList (s.chans.map (·.1)) (fun s n =>
    let c := s.ch n
    let gone := fun (r : DmaRead) => r.src.space == 2 && r.data.isNone
    match c.jobs.zipIdx.find? (fun e => e.1.reads.any gone) with
    | some e =>
      let s1 := s.setCh n { c with jobs := c.jobs.map (fun j => { j with reads := j.reads.filter (fun r => !gone r) })
                                   fetchAt := c.fetchAt.filter (fun _ => (c.next.map (·.space)) != some 2) }
      s1.dmaFault n e.2 dmaHostErr
    | none => match c.next, c.fetchAt with
      | some x, some _ => if x.space = 2 then (s.setCh n { c with fetchAt := none }).dmaBadDesc n x dmaHostErr else s
      | _, _ => s) s

/-! ### Views (Table 14.9) -/

/-- STAT.STATE. -/
def State.dmaState (s : State) (n : Nat) : Nat :=
  let c := s.ch n
  if s.chIdle n then 0
  else if !c.records.isEmpty && (!s.b F.DMA_CQ_CFG_EN || s.cqFull) then 3
  else if s.b (F.DMA_CTL_STOP n) || s.b (F.DMA_CTL_DISABLE n) then 4
  else if !c.on && !c.lost.isEmpty then 5
  else match issuing c.jobs with
  | some (_, j) => if c.flying = 0 && j.issued == j.written && !s.requested n j then 2 else 1
  | none => 1

def State.dmaView (s : State) (a : Nat) : Option Word :=
  if a < 0x118800 then
    let n := (a - 0x118000) / 0x40
    if a % 0x40 = 0x34 then
      some ((s.rd a &&& 0x1FF8) ||| packed [(s.dmaState n, 0), ((s.ch n).flying, 13)])
    else none
  else if a = R.DMA_CQ_STAT then some ((s.rd a &&& 2) ||| packed [(toBit s.cqFull, 0)])
  else if a = R.DMA_LOAD then some (packed [(s.dmaFlying, 0), (s.dmaBuffered, 8)])
  else none

def execDmaStart (r : Requester) (n : Fin 32) (s : State) : Host.Outcome State Fault Refusal := .next (s.writeBy (wordTo r (R.DMA_CTL n.val) 1) (fun s => s.dmaStart n.val))
def execDmaStop (r : Requester) (n : Fin 32) (s : State) : Host.Outcome State Fault Refusal := .next (s.writeBy (wordTo r (R.DMA_CTL n.val) 2) (fun s => s.dmaStop n.val))
def execDmaDisable (r : Requester) (n : Fin 32) (s : State) : Host.Outcome State Fault Refusal := .next (s.writeBy (wordTo r (R.DMA_CTL n.val) 4) (fun s => s.dmaDisable n.val))
def execBurstGrant (s : State) : Host.Outcome State Fault Refusal := .next s.grantBurst
def execDmaCqTailWrite (r : Requester) (v : Word) (s : State) : Host.Outcome State Fault Refusal := .next (s.writeBy (wordTo r R.DMA_CQ_TAIL v) (fun s => s.cqTail v))
def execDmaCqCfgEn (r : Requester) (v : Word) (s : State) : Host.Outcome State Fault Refusal := .next (s.writeBy (wordTo r R.DMA_CQ_CFG v) (fun s => s.cqCfg v))

end Sys2Proof.Machine
end

