-- ==== Sys2Proof/Machine/HostLines.lean ====
section
/-! DEFINITION. The host lines as the host sees them: MSI-X, INTA, PME and HOST_INT_N (R318, R319, R367,
R372). -/

namespace Sys2Proof.Machine

open Sys2Proof

/-- The pending host lines, one bit each (R367). -/
def State.linesNow (s : State) : Nat :=
  (List.range 32).foldl (fun w v => if (s.hostSource v).isSome then setBit w v else w) 0

/-- HOST_INT_N is driven low (R319). -/
def State.hostIntLow (s : State) : Bool := s.linesNow != 0

/-- A message of vector `v` may go: unmasked, MSI-X enabled and not masked as a whole, host memory in reach. -/
def State.msixFree (s : State) (v : Nat) : Bool :=
  s.b F.SYS_HOST_STAT_MSIX_EN && !s.pcie.fmask && !(s.rd (R.MSIX v 3)).getLsbD 0 && s.hostUp

def State.msixPend (s : State) (v : Nat) (on : Bool) : State := if on then s.flag R.MSIX_PBA v else s.unflag R.MSIX_PBA v

/-- A message of vector `v` is sent, or held in its pending bit. -/
def State.msixRaise (s : State) (v : Nat) : State :=
  if s.msixFree v then { (s.msixPend v false).leaveL1 with pcie := { s.pcie with msgs := v :: s.pcie.msgs } } else s.msixPend v true

/-- The lines after anything they depend on has changed: newly pending lines raise their vectors, held messages go once
they may, INTA follows the lines where MSI-X is disabled, but stands in D3hot (R320), and in D3hot a line that becomes pending sends PME
where it is enabled (R372). -/
def State.hostSettle (s : State) : State :=
  let now := s.linesNow
  let new := bitList 32 (now &&& (0xFFFFFFFF ^^^ s.pcie.lines))
  let wake := if s.f F.SYS_HOST_STAT_DSTATE = 3 && s.pcie.pmeEn then now else 0
  let pme := wake &&& (0xFFFFFFFF ^^^ s.pcie.pmeFor) != 0
  let intx := if s.f F.SYS_HOST_STAT_DSTATE = 3 then s.pcie.intx else !s.b F.SYS_HOST_STAT_MSIX_EN && now != 0
  let s0 := if pme || intx != s.pcie.intx then s.leaveL1 else s
  let s1 := { s0 with pcie := { s.pcie with lines := now, intx := intx, pmeFor := wake, pmes := s.pcie.pmes + toBit pme } }
  if !s.b F.SYS_HOST_STAT_MSIX_EN then s1
  else
    let s2 := overList new State.msixRaise s1
    overList (bitList 32 (s2.rd R.MSIX_PBA).toNat) (fun s v => if s.msixFree v then s.msixRaise v else s) s2

/-- IRQ_HOST_EOI_WRITE: a further message, if line v is still pending (R367). -/
def State.hostEoi (s : State) (v : Nat) : State :=
  if (s.hostSource v).isSome && s.b F.SYS_HOST_STAT_MSIX_EN then s.msixRaise v else s

/-- The level of a level line as its block drives it (R144). -/
def State.lineLevel (s : State) (g : Nat) : Bool := s.stlPend (if g < 256 then g - 64 else (g - 256) / 16) != 0

/-- IRQ_SOURCE_EVENT: a pulse of a pulse line, or a change of a level line as its block drives it, sets pending under
SENSE (R364); the source's pool and fallback and the host lines follow (R366, R369, R318). Reserved sources never become
pending from hardware (R362). -/
def State.sourceEvent (s : State) (g : Nat) (l : Option Bool) : State :=
  let s1 := match l with
    | none => if levelLine g || (decide (248 ≤ g) && decide (g < 256)) then s else s.pulse g
    | some b => if levelLine g && b == s.lineLevel g then s.level g b else s
  (s1.irqSettle g).hostSettle

def execIrqHostEoiWrite (r : Requester) (line : Fin 32) (_v : Word) (s : State) : Host.Outcome State Fault Refusal :=
  .next (s.writeBy (wordTo r (R.IRQ_HOST_EOI line.val) _v) (fun s => s.hostEoi line.val))
def execIrqSourceEvent (g : Fin 512) (l : Option Bool) (s : State) : Host.Outcome State Fault Refusal := .next (s.sourceEvent g.val l)

end Sys2Proof.Machine
end

