-- ==== Sys2Proof/Machine/MbxRegs.lean ====
section
/-! DEFINITION. The mailbox registers: rings, doorbells, moderation (R335, R338, R356). -/

namespace Sys2Proof.Machine

open Sys2Proof

/-- Slots of mailbox `j` doorbelled and not yet complete. -/
def State.openSlots (s : State) (j : Nat) : Nat := ptrDiff (s.f (F.MBX_DB_PROD j)) (s.f (F.MBX_DONE_DONE j))

/-- MBX_DOORBELL (R338): PROD moves forward by at most SLOTS and leaves PROD − DONE at or below SLOTS. -/
def State.doorbell (s : State) (m : Nat) (v : Word) : State :=
  let new := getBits v 0 7
  let step := ptrDiff new (s.f (F.MBX_DB_PROD m))
  let n := s.mbSlots m
  if step ≤ n && ptrDiff new (s.f (F.MBX_DONE_DONE m)) ≤ n then
    let bell : Bell := { slots := step, fence := (List.range 4).map s.openSlots }
    let s1 := s.setF (F.MBX_DB_PROD m) new
    let x := s1.mb m
    let s2 := if step = 0 then s1 else s1.setMb m { x with bells := x.bells ++ [bell] }
    s2.pulse (240 + m)
  else (s.setB (F.MBX_STAT_DB_ERR m) true).logOnceFor .hstMbxDbErr m m 0

/-- The mailbox waits for no page (R338). -/
def State.waitEnd (s : State) (m : Nat) : State :=
  (s.setB (F.MBX_STAT_WAIT_OWN m) false).setMb m { s.mb m with waitSince := none, notHanded := false }

/-- MBX_CFG_WRITE (R335): while EN is 1 only EN can be cleared. EN is set with the pointers at 0, unless the ring would
exceed the Yard or still completes a command. -/
def State.mbxCfg (s : State) (m : Nat) (v : Word) : State :=
  if s.b (F.MBX_CFG_EN m) then
    if v.getLsbD 16 then s.setB (F.MBX_STAT_CFG_ERR m) true else (s.setB (F.MBX_CFG_EN m) false).waitEnd m
  else
    let s1 := s.wr (R.MBX_CFG m) (v &&& 0xFFFF)
    if !v.getLsbD 16 then s1
    else if 8192 < s1.f (F.MBX_CFG_BASE_PAGE m) + s1.mbSlots m || (s.mb m).svc.isSome then s1.setB (F.MBX_STAT_CFG_ERR m) true
    else
      let s2 := ((((s1.setB (F.MBX_CFG_EN m) true).setF (F.MBX_DB_PROD m) 0).setF (F.MBX_STAT_CONS m) 0).setF (F.MBX_DONE_DONE m) 0).setB
        (F.MBX_STAT_WAIT_OWN m) false
      let s3 := s2.setMb m {}
      overList (List.range 4) (fun s j =>
        let x := s.mb j
        s.setMb j { x with bells := x.bells.map (fun b => { b with fence := b.fence.set m 0 }) }) s3

/-- A write of MBX_m_MOD or MBX_DMA_MOD: pulses held beyond the new COUNT go (R356). -/
def State.modWrite (s : State) (c a : Nat) (v : Word) : State :=
  let s1 := s.plainWr a v
  if s1.toHost c && !s1.b F.MBX_SLEEP_ASLEEP && (s1.hold c).n ≠ 0 && s1.modCount c ≤ (s1.hold c).n then s1.releaseHold c else s1

/-- MBX_NOT_HANDED (R338): slot CONS has waited 1 ms for its page. -/
def State.notHanded (s : State) (m : Nat) : State :=
  let x := s.mb m
  match x.waitSince with
  | some t => if !x.notHanded && s.passed t 500000 && s.b (F.MBX_STAT_WAIT_OWN m) && s.b (F.MBX_CFG_EN m)
        && (s.page (s.mbPage m (s.f (F.MBX_STAT_CONS m)))).owner != 2 then
      (s.setMb m { x with notHanded := true }).log .hstMbxNotHanded m 0 else s
  | none => s

def execMbxDoorbell (r : Requester) (m : Fin 4) (v : Word) (s : State) : Host.Outcome State Fault Refusal :=
  .next (s.writeBy (wordTo r (R.MBX_DB m.val) v) (fun s => s.doorbell m.val v))
def execMbxCfgWrite (r : Requester) (m : Fin 4) (v : Word) (s : State) : Host.Outcome State Fault Refusal :=
  .next (s.writeBy (wordTo r (R.MBX_CFG m.val) v) (fun s => s.mbxCfg m.val v))
def execMbxNotHanded (m : Fin 4) (s : State) : Host.Outcome State Fault Refusal := .next (s.notHanded m.val)
def execModerationTimeExpiry (c : Fin 6) (s : State) : Host.Outcome State Fault Refusal := .next (s.modExpire c.val)

end Sys2Proof.Machine
end

