-- ==== Sys2Proof/Machine/Bus.lean ====
section
/-! DEFINITION. The register bus: what a read of any address returns and does, and what a write of any address does
(R8 to R12, R22 to R24, R36, R37, R44, R45, R81, R322). An address is a byte address of the space of R322: MW0 below
0x40_0000, MW2 above it. -/

namespace Sys2Proof.Machine

open Sys2Proof

/-! ### Reads -/

/-- The low half of a split counter whose high half and snapshot follow it (R37). -/
def isLo (a : Nat) : Bool :=
  let o := a % 0x2000
  a == R.TB_LO
    || (decide (0x10000 ≤ a) && decide (a < 0x20000) && (a % 0x1000 == 0x88 || a % 0x1000 == 0x9C || a % 0x1000 == 0xA8))
    || (decide (0x60000 ≤ a) && decide (a < 0x80000) && decide (0x1000 ≤ o) && decide (o < 0x1400) && o % 16 == 4)
    || (decide (0x100000 ≤ a) && decide (a < 0x108000) && a % 0x400 == 0x2C)
    || (decide (0x108000 ≤ a) && decide (a < 0x10A000) && a % 0x100 == 0x1C)
    || (decide (0x110400 ≤ a) && decide (a < 0x110600) && a % 16 == 0)
    || (decide (0x118000 ≤ a) && decide (a < 0x118800) && a % 0x40 == 0x28)

/-- A stall's register: the stall and the offset in its 64 bytes. -/
def stallAt (a : Nat) : Option (Nat × Nat) :=
  let o := (a - 0x60000) % 0x2000
  if 0x60000 ≤ a && a < 0x80000 && o < 0x600 then some (24 * ((a - 0x60000) / 0x2000) + o / 64, o % 64) else none

/-- Registers that each requester sees its own copy of (R36, R397, Table 13.4). -/
def isBanked (a : Nat) : Bool :=
  (decide (8 ≤ a) && isLo (a - 8)) || a == R.TB_BEAT_T0_LO_SNAP || a == R.TB_BEAT_T0_HI_SNAP || a == R.YRD_RESULT
    || (decide (R.LOG_DATA 0 ≤ a) && decide (a < R.LOG_DATA 4))
    || (match stallAt a with | some (_, o) => o == 0x1C | none => false)

/-- The computed registers of the SYS block. -/
def State.sysView (s : State) (a : Nat) : Option Word :=
  match a with
  | 0x4 => some (packed [(Config.stepping.toNat, 0), (Config.romId.toNat, 8)])
  | 0xC => some (BitVec.ofNat 32 s.fwVer)
  | _ => none

/-- The shed pages (0x6_0000 to 0x7_FFFF). -/
def State.shdView (s : State) (a : Nat) : Option Word :=
  let n := (a - 0x60000) / 0x2000
  let o := (a - 0x60000) % 0x2000
  if o < 0x600 then s.stlView (24 * n + o / 64) (o % 64)
  else if o < 0xC00 then none
  else if o < 0xE00 then s.engView n o
  else if o = 0xE00 then some (packed [(s.stlPend n, 0)])
  else s.evtView n o

/-- The registers that are computed when they are read; none where the word stands in the register file. -/
def State.viewAt (s : State) (a : Nat) : Option Word :=
  if a < 0x1000 then s.sysView a
  else if a < 0x2000 then none
  else if a < 0x3000 then s.tbView a
  else if a < 0x8000 then s.irqView a
  else if a < 0xFFC0 then some (s.logWord ((a - 0x8000) / 16) (a % 16 / 4))
  else if a < 0x10000 then none
  else if a < 0x20000 then s.whlView ((a - 0x10000) / 0x1000) (a % 0x1000)
  else if a < 0x60000 then none
  else if a < 0x80000 then s.shdView a
  else if a < 0x100000 then (if a % 0x8000 < 0x6000 then none else some 0)
  else if a < 0x108000 then s.rnView ((a - 0x100000) / 0x400) (a % 0x400)
  else if a < 0x10A000 then (if a % 0x100 = 0xC then some (s.vlvStat ((a - 0x108000) / 0x100)) else none)
  else if a < 0x10B000 then (if a < 0x10A800 && a % 0x100 = 4 then some (s.hswStat ((a - 0x10A000) / 0x100)) else none)
  else if a < 0x110000 then none
  else if a = R.TTH_STAT then some s.tthStat
  else if a = R.TTHP_STAT 0 then some (s.tthpStat 0)
  else if a = R.TTHP_STAT 1 then some (s.tthpStat 1)
  else if a < 0x114000 then none
  else if a < 0x115000 then s.trgView ((a - 0x114000) / 0x40) (a % 0x40)
  else if a < 0x118000 then none
  else if a < 0x120000 then s.dmaView a
  else if a < 0x400000 then none
  else if a < 0x600000 then some (s.yardWord (a - 0x400000))
  else if a < 0x608000 then some (s.ownWord ((a - 0x600000) / 4))
  else if a = R.YRD_QUAR then some (packed [(s.quarPages, 0)])
  else none

/-- What a read of an aligned address returns to a requester: its own snapshot, a computed register, a shadow address's
newest value (R44), or the word of the register file; 0 where no block defines one (R12). -/
def State.busView (s : State) (r : Requester) (a : Nat) : Word :=
  if isBanked a then s.snapRd r a
  else match s.viewAt a with
  | some w => w
  | none => s.shadowRd a

/-- The RC fields of a register, by their mask. -/
def rcMask (a : Nat) : Word := match rowAt a with | some x => BitVec.ofNat 32 x.rc | none => 0

/-- A read clears the RC fields of its register (R8), but for what the hardware sets in the same tick (R9). -/
def State.readClears (s : State) (a : Nat) : State :=
  let m := rcMask a
  if m = 0 then s
  else
    let s1 := s.wr a ((s.rd a &&& ~~~ m) ||| (s.justSet a &&& m))
    if (s.setAt a).isNone then s1
    else { s1 with setNow := (a, s.rd a &&& ~~~ m, s.justSet a) :: s.setNow.filter (fun e => e.1 != a) }

/-- A read of an RC field returns the value from before a set of the same tick (R9). -/
def State.rcView (s : State) (a : Nat) (v : Word) : Word :=
  match s.setAt a with
  | some (before, _) => (v &&& ~~~ rcMask a) ||| (before &&& rcMask a)
  | none => v

/-- A read of an address by a requester, with its effects. -/
def State.busRead (s : State) (r : Requester) (addr : Nat) : State :=
  let a := addr - addr % 4
  if a = R.TB_BEAT then s.tbBeatRead r
  else if a = R.IRQ_CORE_CLAIM then s.coreClaim r
  else if 0x114000 ≤ a && a < 0x115000 && a % 0x40 = 0x24 then s.portPull r ((a - 0x114000) / 0x40)
  else if 0x114000 ≤ a && a < 0x115000 && a % 0x40 = 0x28 then s.trgPeek r ((a - 0x114000) / 0x40)
  else match stallAt a with
  | some (k, 0x18) => s.cntRead r k
  | _ =>
    let s := if 0x30000 ≤ a && a < 0x40000 then s.lrnParity ((a - 0x30000) / 0x1000) (a % 0x1000 / 4) else s
    let v := s.rcView a (s.busView r a)
    let s1 := if isLo a then s.latch r (a + 8) (s.busView r (a + 4)) else s
    (s1.readClears a).deliver r v

/-! ### Writes -/

/-- A register's word after a write under its access codes, from the word `old` (R8, R10); the W1C bits of `keep` stay
set (R9). -/
def State.mergeWord (s : State) (x : RegRow) (old v keep : Word) : Word :=
  let rw := BitVec.ofNat 32 (if s.sealed then x.rw else x.rw ||| x.rwl)
  ((((old &&& ~~~ rw) ||| (v &&& rw)) ||| (v &&& BitVec.ofNat 32 x.w1s)) &&& ~~~ (v &&& BitVec.ofNat 32 x.w1c &&& ~~~ keep))

/-- A write of a register without effects of its own: into the shadow where it is a shadowed item, else at once. -/
def State.plainBus (s : State) (a : Nat) (v : Word) : State :=
  match rowAt a with
  | none => s
  | some x =>
    if x.rwl ≠ 0 && x.rw = 0 && x.w1s = 0 && x.w1c = 0 && s.sealed then s
    else if x.commit then s.shadowWr a (s.mergeWord x (s.shadowRd a) v 0) else s.wr a (s.mergeWord x (s.rd a) v (s.justSet a))

/-- The structural registers of a tracker (R81): CFG, CPC, PAT, ZERO, IN, SSI, VIRT. -/
def structural (o : Nat) : Bool := [0x4, 0x8, 0xC, 0x10, 0x20, 0x2C, 0x30].contains o

/-- A write in the WHL block: a structural register of an enabled tracker is discarded (R81), after the seal without error
(R10). -/
def State.whlWrite (s : State) (a : Nat) (v : Word) : State :=
  let n := (a - 0x10000) / 0x1000
  if structural (a % 0x1000) && s.b (F.WHL_CTL_EN n) && !s.sealed then s.setB (F.WHL_STAT_CFG_ERR n) true
  else s.plainBus a v

/-- A write in a stall's registers: a check shed's mirror is read-only (R145). -/
def State.stlWrite (s : State) (k o : Nat) (v : Word) : State :=
  if s.stlMirror k then s
  else match o with
  | 0x0 => s.stlCtl k v
  | 0x4 => s.stlPlain k R.STL_CFG (s.plainWord (R.STL_CFG k) v)
  | 0x8 => s.stlPlain k R.STL_IO (s.plainWord (R.STL_IO k) v)
  | 0xC => s.stlFlagsWr k v
  | 0x10 => s.stlPlain k R.STL_IEN (s.plainWord (R.STL_IEN k) v)
  | 0x18 => s.stlCnt k v
  | 0x20 => s.stlValue k 0 v
  | 0x24 => s.stlValue k 1 v
  | 0x28 => s.stlValue k 2 v
  | _ => s

/-- A write in a shed's pages. -/
def State.shdWrite (s : State) (a : Nat) (v : Word) : State :=
  let n := (a - 0x60000) / 0x2000
  let o := (a - 0x60000) % 0x2000
  match stallAt a with
  | some (k, x) => s.stlWrite k x v
  | none =>
    if a = R.EVT_TWIN_INJECT then s.injectWrite v
    else if o = 0xC00 then s.engCtl n v
    else if o = 0xC18 || o = 0xC1C || o = 0xC90 then
      (if s.isCheck n then s else s.engBoth n (fun s k => s.plainBus (0x60000 + k * 0x2000 + o) v))
    else if o = 0xE04 then s.stlGroup n (getBits v 0 24) State.stlRestart
    else if o = 0xE08 then s.stlGroup n (getBits v 0 24) (fun s k => s.stlRun k false)
    else s.plainBus a v

/-- A write in the IRQ block. -/
def State.irqWrite (s : State) (a : Nat) (v : Word) : State :=
  if a = R.IRQ_CORE_EOI then s.coreEoi v
  else if 0x3180 ≤ a && a < 0x3200 then s.hostEoi ((a - 0x3180) / 4)
  else if 0x4080 ≤ a && a < 0x4100 then s.pendSet ((a - 0x4080) / 4) v
  else if 0x4100 ≤ a && a < 0x4180 then s.pendClr ((a - 0x4100) / 4) v
  else if 0x4200 ≤ a && a < 0x4280 then s.maskSet ((a - 0x4200) / 4) v
  else if 0x4280 ≤ a && a < 0x4300 then s.maskClr ((a - 0x4280) / 4) v
  else if 0x5000 ≤ a && a < 0x5800 then s.srcCfg ((a - 0x5000) / 4) v
  else s.plainBus a v

/-- A write in a runner's registers. -/
def State.runWrite (s : State) (a : Nat) (v : Word) : State :=
  let n := (a - 0x100000) / 0x400
  let o := a % 0x400
  match o with
  | 0x0 => s.rnCtl n v
  | 0x8 => s.rnPins n false v
  | 0xC => s.rnPins n true v
  | 0x40 => s.rnFlags n true v
  | 0x44 => s.rnFlags n false v
  | 0x48 => s.rnInject n v
  | _ => if 0x200 ≤ o then s.rnProg n ((o - 0x200) / 4) v else s.plainBus a v

/-- A write in the TRG block. -/
def State.trgWrite (s : State) (r : Requester) (a : Nat) (v : Word) : State :=
  let q := (a - 0x114000) / 0x40
  if 0x115000 ≤ a then s.plainBus a v
  else match a % 0x40 with
  | 0x0 => s.trgCtl q v
  | 0x4 => s.trgCfg q v
  | 0x24 => s.portPush r q v
  | 0x2C => s.trgRelWrite q v
  | _ => s.plainBus a v

/-- A write in the DMA block. -/
def State.dmaWriteReg (s : State) (a : Nat) (v : Word) : State :=
  let n := (a - 0x118000) / 0x40
  if a < 0x118800 then
    match a % 0x40 with
    | 0x0 => s.dmaCtl n v
    | 0x4 | 0x8 | 0xC | 0x10 | 0x14 => s.dmaPlain n a v
    | _ => s.plainBus a v
  else if a = R.DMA_CQ_CFG then s.cqCfg v
  else if a = R.DMA_CQ_0 || a = R.DMA_CQ_1 || a = R.DMA_CQ_2 then s.cqBase a v
  else if a = R.DMA_CQ_TAIL then s.cqTail v
  else s.plainBus a v

/-- A write in the MBX block. -/
def State.mbxWrite (s : State) (a : Nat) (v : Word) : State :=
  let m := (a - 0x120000) / 0x40
  if a < 0x120100 then
    match a % 0x40 with
    | 0x0 => s.mbxCfg m v
    | 0x4 => s.doorbell m v
    | 0x10 => s.modWrite m a v
    | _ => s.plainBus a v
  else if a = R.MBX_DMA_MOD then s.modWrite 4 a v
  else s.plainBus a v

/-- A write of a whole word to an aligned address by a requester. `still` is the read-back of a page leaving QUARANTINE. -/
def State.busWrite (s : State) (r : Requester) (addr : Nat) (v : Word) (still : Bool) : State :=
  let a := addr - addr % 4
  if a = R.SYS_TWIN then (if s.mode = 2 then s.plainBus a v else s)
  else if a < 0x2000 then s.plainBus a v
  else if a = R.TB_BEAT_CFG then s.beatCfg v
  else if a = R.TB_COMMIT_CTL then s.commitCtl v
  else if a < 0x3000 then s.plainBus a v
  else if a < 0x8000 then s.irqWrite a v
  else if a = R.LOG_SEL then s.logSel r v
  else if a < 0x10000 then s.plainBus a v
  else if a < 0x20000 then s.whlWrite a v
  else if a < 0x60000 then s.plainBus a v
  else if a < 0x80000 then s.shdWrite a v
  else if a < 0x100000 then s
  else if a < 0x108000 then s.runWrite a v
  else if a < 0x10A000 then
    (if a % 0x100 = 0xB0 then (if v.getLsbD 0 then s.unlock ((a - 0x108000) / 0x100) else s) else s.plainBus a v)
  else if a < 0x110000 then s.plainBus a v
  else if a = R.TTH_CTL then s.tthCtl v
  else if a < 0x114000 then s.plainBus a v
  else if a < 0x118000 then s.trgWrite r a v
  else if a < 0x120000 then s.dmaWriteReg a v
  else if a < 0x400000 then s.mbxWrite a v
  else if a < 0x600000 then s.yardWrite r (a - 0x400000) v 15
  else if a < 0x608000 then s.ownWrite r ((a - 0x600000) / 4) v still
  else if a < 0x700000 then s.plainBus a v
  else (s.plainBus a v).hostSettle

/-! ### Rows -/

/-- A word with partial byte enables, outside the Yard's data: discarded and counted (R317). -/
def State.partialWrite (s : State) (r : Requester) : State :=
  (s.bump R.SYS_HOST_PARTIAL).logOnceFor .hstPartialWrite 0 (ifaceNum r) 0

/-- REGISTER_WRITE: any address, with its byte enables (R8, R317). -/
def State.regWrite (s : State) (r : Requester) (a : Nat) (v : Word) (be : BitVec 4) : State :=
  if 0x400000 ≤ a && a < 0x600000 then s.yardWrite r (a - 0x400000) v be
  else if be = 15 then s.busWrite r a v false
  else s.partialWrite r

/-- An access as it acts on the internal bus. -/
def State.access (s : State) (x : Access) : State :=
  let bad := x.ecc == .double
  match x.data with
  | some (v, be) =>
    s.issueWrite x.req (fun s =>
      if be = 15 && !(decide (0x400000 ≤ x.addr) && decide (x.addr < 0x600000)) then
        (if bad && x.addr = R.LOG_SEL then s.logBad (getBits v 0 11) else s).busWrite x.req x.addr v bad
      else s.regWrite x.req x.addr v be)
  | none =>
    if 0x400000 ≤ x.addr && x.addr < 0x600000 then s.yardRead x.req (x.addr - 0x400000) x.ecc
    else if 0x40000 ≤ x.addr && x.addr < 0x60000 then s.evtShadowRead x.req ((x.addr - 0x40000) / 16) (x.addr % 16 / 4) x.ecc
    else if 0x114000 ≤ x.addr && x.addr < 0x115000 then (s.spoil ((x.addr - 0x114000) / 0x40) bad).busRead x.req x.addr
    else s.busRead x.req x.addr

/-- The bridge issues what waits in its queues, in order, once the access before it has been made (R330). -/
def State.bridge : Nat → State → State
  | 0, s => s
  | k + 1, s =>
    match s.pcie.queue.find? (fun x => !s.trgWaits.any (fun w => decide (w.req = x.req))) with
    | none => s
    | some x =>
      let s1 := { s with pcie := { s.pcie with queue := s.pcie.queue.erase x } }
      State.bridge k (if s1.linked x.req then s1.access x else s1.noAccess x.req)

/-- What waits for a trough's cycle comes again, and then what waits behind it (R281, R330). -/
def State.bridgeTick (s : State) : State := let s1 := s.portsAgain; State.bridge s1.pcie.queue.length s1

def execRegisterWrite (r : Requester) (a : BitVec 24) (v : Word) (be : BitVec 4) (s : State) : Host.Outcome State Fault Refusal :=
  .next (s.writeBy ⟨r, a.toNat, some (v, be), .clean⟩ (fun s => s.regWrite r a.toNat v be))
def execReadClearRegister (r : Requester) (a : BitVec 24) (s : State) : Host.Outcome State Fault Refusal :=
  .next (s.readBy (wordOf r a.toNat .clean) (fun s => s.busRead r a.toNat))
def execSplitCounterRead (r : Requester) (a : BitVec 24) (s : State) : Host.Outcome State Fault Refusal :=
  .next (s.readBy (wordOf r a.toNat .clean) (fun s => s.busRead r a.toNat))

end Sys2Proof.Machine
end

