-- ==== Sys2Proof/Machine/Dma.lean ====
section
/-! DEFINITION. The DMA engine's accesses: descriptors and read data that come back, elements that are written, timeouts
and completion records (R290 to R293, R295, R299, R300, R302, R304 to R309). -/

namespace Sys2Proof.Machine

open Sys2Proof

/-! ### Descriptors that come back (R294 to R297) -/

/-- The word that a device-side read of the YARD space returns: the Yard's data, and beyond it the ownership words and Yard
registers. -/
def State.yardSpace (s : State) (o n : Nat) : List Nat :=
  (List.range n).map (fun i =>
    let a := o + i
    getBits (s.rcView (0x400000 + a - a % 4) (s.busView .dmaR (0x400000 + a - a % 4))) (8 * (a % 4)) 8)

/-- A read of the YARD space clears the Yard registers that a read clears (R8, R290). -/
def State.yardClears (s : State) (o n : Nat) : State :=
  overList ([0x208008, 0x20800C].filter (fun a => decide (o < a + 4) && decide (a < o + n))) (fun s a => s.readClears (0x400000 + a)) s

/-- A fetched descriptor is checked, and becomes the channel's next job or ends the chain. -/
def State.takeDesc (s : State) (n : Nat) (x : DmaAddr) (bs : List Nat) : State :=
  let c := s.ch n
  if x.addr % 32 ≠ 0 || !s.descOk n bs then s.dmaBadDesc n x dmaDescBad
  else
    let d := parseDesc bs
    let h := if d.hopRst then 1 else c.hops
    let s1 := s.setCh n { c with jobs := c.jobs ++ [{ at_ := x, hops := h, d := d }], hops := h, fetchAt := none
                                 next := if d.last then none else some d.next }
    (if c.jobs.isEmpty then (s1.setCur n x).setF (F.DMA_BYTES_BYTES n) 0 else s1).pump

/-- DESCRIPTOR_FETCHED. -/
def State.descFetched (s : State) (n : Nat) (back : DmaReturn) : State :=
  let c := s.ch n
  match c.next, c.fetchAt with
  | some x, some _ =>
    if x.space = 2 then
      match back with
      | .host data => if data.length = 32 then s.takeDesc n x (data.map (·.toNat)) else s
      | .hostErr => (s.dmaBadDesc n x dmaHostErr).pump
      | .own _ => s
    else match back with
      | .own e =>
        let s1 := if x.addr < 0x200000 then s.yardFound x.addr e else s
        if 0x208010 < x.addr + 32 then (s1.dmaBadDesc n x dmaDescBad).pump
        else (s1.yardClears x.addr 32).takeDesc n x (s1.yardSpace x.addr 32)
      | _ => s
  | _, _ => s

/-! ### Reads that come back (R299) -/

/-- The live reads in flight of a channel, in stream order: job and place in it. -/
def DmaChan.inFlight (c : DmaChan) : List (Nat × Nat) :=
  (c.jobs.zipIdx.map (fun e => ((e.1.reads.zipIdx.filter (fun r => r.1.data.isNone)).map (fun r => (e.2, r.2))))).flatten

/-- A read of a channel. -/
def DmaChan.readAt (c : DmaChan) (p : Nat × Nat) : Option DmaRead := ((c.jobs[p.1]?).bind (fun j => j.reads[p.2]?))

/-- Take a read off its job. -/
def DmaChan.dropRead (c : DmaChan) (p : Nat × Nat) : DmaChan :=
  { c with jobs := c.jobs.modify p.1 (fun j => { j with reads := j.reads.eraseIdx p.2 }) }

/-- A read's data reaches the shared buffer. -/
def State.readData (s : State) (n : Nat) (p : Nat × Nat) (bs : List (Nat × Bool)) : State :=
  let c := s.ch n
  let k := s.dma.order + 1
  let jobs := c.jobs.modify p.1 (fun j => { j with reads := j.reads.modify p.2 (fun r => { r with data := some bs, order := k }) })
  ({ s.setCh n { c with jobs := jobs } with dma := { s.dma with order := k } }).pump

/-- A read ends in error. -/
def State.readFails (s : State) (n : Nat) (p : Nat × Nat) (status : Nat) : State :=
  ((s.setCh n ((s.ch n).dropRead p)).dmaFault n p.1 status).pump

/-- The data bytes of elements of a width: of each N24 element its fourth byte is ignored. -/
def dataBytes (w : Nat) (bs : List Nat) : List (Nat × Bool) :=
  ((bs.zipIdx.filter (fun e => w != 4 || e.2 % 4 != 3)).map (fun e => (e.1, false)))

/-- A word from a trough: poison tags its three bytes; it is released in the cycle of the pull (R290, R292). -/
def State.readTrough (s : State) (n : Nat) (p : Nat × Nat) (q : Nat) (cut bad : Bool) : State :=
  if s.trgWrong q false false then (s.agentPull q dmaAgent cut).1.readFails n p dmaTrgDir
  else if !s.agentCanPull q dmaAgent cut then s
  else
    let x := (s.spoil q bad).agentPull q dmaAgent cut
    let s1 := if s.b (F.TRG_CFG_AUTO_REL q) || !s.trgEn q || cut then x.1 else x.1.trgRelease q 1
    s1.readData n p ((bytesOf 3 x.2.1).map (fun b => (b, x.2.2)))

/-- A read of the Yard. -/
def State.readYard (s : State) (n : Nat) (p : Nat × Nat) (r : DmaRead) (w : Nat) (e : Ecc) : State :=
  let s1 := if r.src.addr < 0x200000 then s.yardFound r.src.addr e else s
  let last := r.src.addr + r.size - 1
  let quar := decide (r.src.addr < 0x200000) && ((s1.page (r.src.addr / 256)).owner == 3 || (s1.page (min last 0x1FFFFF / 256)).owner == 3)
  if quar then s1.readFails n p dmaYardQuar
  else (s1.yardClears r.src.addr r.size).readData n p (dataBytes w (s1.yardSpace r.src.addr r.size))

/-- DMA_READ_RETURN: read `i` of those in flight of a channel. Reads inside the device act in stream order; a read of an
ended chain is discarded (R302). -/
def State.readReturn (s : State) (n i : Nat) (back : DmaReturn) : State :=
  let c := s.ch n
  let l := c.inFlight
  let inside := fun (q : Nat × Nat) => match c.readAt q with | some r => r.src.space != 2 | none => false
  match l[i]? with
  | none => ((s.setCh n { c with lost := c.lost.drop 1 }).dmaRest n).dmaHead n
  | some p => match c.readAt p, c.jobs[p.1]? with
    | some r, some j =>
      if r.src.space = 2 then
        match back with
        | .host data => if data.length = r.size then s.readData n p (dataBytes j.d.srcW (data.map (·.toNat))) else s
        | .hostErr => s.readFails n p dmaHostErr
        | .own _ => s
      else if (l.take i).any inside then s
      else match back with
        | .own e =>
          if r.src.space = 3 then s.readTrough n p r.src.addr r.cut (e == .double)
          else if r.src.space = 1 then s.readYard n p r j.d.srcW e
          else
            let s1 := s.busRead .dmaR r.src.addr
            let v := (Sparse.get (fun _ => 0) s1.lastRead (reqIdx .dmaR)).toNat
            s1.readData n p (dataBytes j.d.srcW (bytesOf 4 v))
        | _ => s
    | _, _ => s

/-! ### Writes (R291 to R293, R299, R300) -/

/-- The stream bytes of a job that are there, in order. -/
def readyBytes : List DmaRead → List (Nat × Bool)
  | [] => []
  | r :: rest => match r.data with
    | some bs => bs ++ readyBytes rest
    | none => []

/-- Take bytes off the front; a read with no byte left gives its buffer space back. -/
def takeBytes : Nat → List DmaRead → List DmaRead
  | _, [] => []
  | k, r :: rest => match r.data with
    | some bs => if bs.length ≤ k then takeBytes (k - bs.length) rest else { r with data := some (bs.drop k) } :: rest
    | none => r :: rest

/-- The channel's next destination element is in the buffer: its job, and when its data came. -/
def State.writable (s : State) (n : Nat) : Option (DmaJob × Nat) :=
  let c := s.ch n
  match c.jobs with
  | j :: _ =>
    if c.on && c.records.isEmpty && j.fault.isNone && decide (dataSize j.d.dstW ≤ (readyBytes j.reads).length) then
      some (j, ((j.reads.head?.map (·.order)).getD 0)) else none
  | [] => none

/-- Must the channel's element wait for a trough with room (R284)? -/
def State.mustWait (s : State) (j : DmaJob) : Bool :=
  let q := j.d.dst.addr % 64
  j.d.dst.space == 3 && !s.agentCanPush q dmaAgent j.cut

/-- The channel that writes next: of those whose element need not wait, the one whose data came first (R299). -/
def State.writer (s : State) : Option (Nat × DmaJob) :=
  let can := (List.range 32).filterMap (fun n => (s.writable n).map (fun x => (n, x)))
  let go := can.filter (fun e => !s.mustWait e.2.1)
  match go with
  | [] => none
  | e :: es => let b := es.foldl (fun b x => if x.2.2 < b.2.2 then x else b) e
               some (b.1, b.2.1)

/-- Mark the elements that begin to wait for a trough, or as posted host writes to be issued (R304). -/
def State.markWaits (s : State) : State :=
  overList (s.chans.map (·.1)) (fun s n => match s.writable n with
    | some (j, _) => if (s.mustWait j || j.d.dst.space == 2) && j.waitAt.isNone then
        let c := s.ch n
        s.setCh n { c with jobs := c.jobs.set 0 { j with waitAt := some s.dmaNow } } else s
    | none => s) s

/-- Write bytes to the Yard's data, the Yard's part of an element: nothing where the page is not the device's (R275). -/
def State.putYard (s : State) (a : Nat) (bs : List Nat) : State × Option Nat :=
  if bs.isEmpty then (s, none)
  else if s.yardMine .dmaW (a / 256) then (s.yardPutBytes .dmaW a bs, none)
  else (s.yardViolation (a / 256), some dmaYardViol)

/-- Write an ownership word (R273) or a Yard register. A part of an ownership word is no ownership write: it is discarded, and ends the
chain as one that is refused (DEDUCED, log entry 160). -/
def State.putOwn (s : State) (a : Nat) (v : Word) (bs : List Nat) (still : Bool) : State × Option Nat :=
  if bs.isEmpty then (s, none)
  else if bs.length ≠ 4 then (s, if a < 0x208000 then some dmaYardViol else none)
  else
    let s1 := s.busWrite .dmaW (0x400000 + a) v still
    (s1, if a < 0x208000 && !(s1.snapRd .dmaW R.YRD_RESULT).getLsbD 14 then some dmaYardViol else none)

/-- Write one element of a job at an address, as one access, or as two at a page or a 4 KiB boundary (Table 14.1); answers the status of
its failure. -/
def State.putElement (s : State) (j : DmaJob) (a : Nat) (el : List (Nat × Bool)) (still : Bool) : State × Option Nat :=
  let d := j.d
  let bs := el.map (·.1)
  let v : Word := BitVec.ofNat 32 (ofBytes bs)
  let stored := if d.dstW = 4 then bs ++ [0] else bs
  match d.dst.space with
  | 0 => (s.busWrite .dmaW a v still, none)
  | 1 =>
    if 0x200000 ≤ a then s.putOwn a v stored still
    else
      let k := 256 - a % 256
      let x := s.putYard a (stored.take k)
      if x.2.isSome then x
      else if 0x200000 ≤ a + k then x.1.putOwn (a + k) v (stored.drop k) still
      else x.1.putYard (a + k) (stored.drop k)
  | 2 =>
    let k := 4096 - a % 4096
    let out := if stored.length ≤ k then [(a, stored)] else [(a + k, stored.drop k), (a, stored.take k)]
    if s.hostUp then ({ s.leaveL1 with hostOut := out ++ s.hostOut }, none) else (s, some dmaHostErr)
  | _ =>
    let q := a % 64
    (s.agentPush q dmaAgent j.cut v.toNat (el.any (·.2)), if s.trgWrong q false true then some dmaTrgDir else none)

/-- The polynomial of CRC_SEL. -/
def crcPoly (sel : Bool) : Nat := if sel then crc32cPoly else crc32Poly

/-- An element of channel `n`'s head job has been written. -/
def State.wrote (s : State) (n : Nat) (el : List (Nat × Bool)) : State :=
  let c := s.ch n
  match c.jobs with
  | [] => s
  | j :: rest =>
    let poison := el.any (·.2)
    let crc := if j.d.crcEn then some (crcRun (crcPoly j.d.crcSel) (j.crc.getD (c.crcStart j.d)) (el.map (·.1))) else none
    let j1 := { j with written := j.written + el.length, reads := takeBytes el.length j.reads, crc := crc, poison := j.poison || poison, waitAt := none, cut := false }
    let s1 := s.setCh n { c with jobs := j1 :: rest }
    let s2 := if poison then s1.setB (F.DMA_STAT_POISON_SEEN n) true else s1
    ((s2.setF (F.DMA_BYTES_BYTES n) j1.written).dmaHead n).pump

/-- DMA_WRITE: one destination element of the channel whose turn it is. `parityBad`: the shared buffer fails its check. -/
def State.dmaWrite (s : State) (parityBad still : Bool) : State :=
  if !s.dmaRuns then s
  else
    let s0 := s.markWaits
    match s0.writer with
    | none => s0
    | some (n, j) =>
      let el := (readyBytes j.reads).take (dataSize j.d.dstW)
      if parityBad then (s0.dmaFault n 0 dmaParity).pump
      else
        let a := if j.d.dst.space = 3 || !j.d.dstInc then j.d.dst.addr else j.d.dst.addr + j.written / dataSize j.d.dstW * storSize j.d.dstW
        let x := s0.putElement j a el still
        match x.2 with
        | some st => (x.1.dmaFault n 0 st).pump
        | none => x.1.wrote n el

/-! ### Completion records (R307 to R309) -/

/-- The 32 bytes of a record (Table 14.5). -/
def State.recBytes (s : State) (n : Nat) (r : DmaRec) : List Nat :=
  let t := s.now.toNat
  bytesOf 8 r.at_.addr
    ++ bytesOf 4 (r.bytes % 2 ^ 24 + (if r.at_.space = 2 then 2 ^ 24 else 0))
    ++ bytesOf 4 (r.status + n * 2 ^ 8 + toBit (s.bulk n) * 2 ^ 13 + toBit r.poison * 2 ^ 14 + toBit r.valid * 2 ^ 15 + (s.ch n).seq % 2 ^ 16 * 2 ^ 16)
    ++ bytesOf 4 r.crc ++ bytesOf 4 (t % 2 ^ 24) ++ bytesOf 4 (t / 2 ^ 24)
    ++ bytesOf 4 (r.hops % 2 ^ 16 + s.f F.DMA_CQ_HEAD_PHASE * 2 ^ 31)

/-- Where the next record goes. -/
def State.recAddr (s : State) : DmaAddr :=
  ⟨if s.b F.DMA_CQ_2_SPACE then 2 else 1,
    s.f F.DMA_CQ_0_ADDR + 2 ^ 24 * s.f F.DMA_CQ_1_ADDR + 2 ^ 48 * s.f F.DMA_CQ_2_ADDR + 32 * s.f F.DMA_CQ_HEAD_HEAD⟩

/-- Can a record be written there? -/
def State.recOk (s : State) (x : DmaAddr) : Bool :=
  if x.space = 2 then s.hostUp else decide (x.addr + 32 ≤ 0x200000) && s.yardMine .dmaW (x.addr / 256)

/-- HEAD advances; PHASE inverts at each wrap. -/
def State.cqAdvance (s : State) : State :=
  let h := (s.f F.DMA_CQ_HEAD_HEAD + 1) % 2 ^ s.cqLog
  let s1 := s.setF F.DMA_CQ_HEAD_HEAD h
  if h = 0 then s1.setF F.DMA_CQ_HEAD_PHASE (1 - s.f F.DMA_CQ_HEAD_PHASE) else s1

/-- A record write has failed: the queue stands still until EN is set again (R308). -/
def State.cqFault (s : State) (n : Nat) : State := ((s.setB F.DMA_CQ_STAT_FAULT true).setB F.DMA_CQ_CFG_EN false).log .dmaCqFault n 0

/-- The records that can be written from this tick on, whose time limit begins (R304): a full or faulted queue has none (R308). -/
def State.markRecs (s : State) : State :=
  let can := s.b F.DMA_CQ_CFG_EN && !s.cqFull && s.dmaRuns
  overList (s.chans.map (·.1)) (fun s n =>
    let c := s.ch n
    let at_ := if can && !c.records.isEmpty then some (c.recAt.getD s.dmaNow) else none
    if c.recAt = at_ then s else s.setCh n { c with recAt := at_ }) s

/-- The waits that begin in a tick. -/
def State.dmaMarks (s : State) : State := s.markRecs.markWaits

/-- DMA_RECORD_WRITE: the oldest waiting record of channel `n`, and then its pulses. -/
def State.recWrite (s : State) (n : Nat) : State :=
  let c := s.ch n
  match c.records with
  | [] => s
  | r :: rest =>
    let x := s.recAddr
    if !s.b F.DMA_CQ_CFG_EN || s.cqFull || !s.dmaRuns then s
    else if !s.recOk x then
      (if x.space = 1 && x.addr < 0x200000 then s.yardViolation (x.addr / 256) else s).cqFault n
    else
      let bs := s.recBytes n r
      let s1 := if x.space = 2 then { s.leaveL1 with hostOut := (x.addr, bs) :: s.hostOut } else s.yardPutBytes .dmaW x.addr bs
      let s2 := (s1.cqAdvance.setF (F.DMA_STAT_LAST_STATUS n) r.status).setCh n { c with records := rest, recAt := none, seq := (c.seq + 1) % 2 ^ 16 }
      let s3 := if r.irq || r.status ≠ dmaOk then s2.modPulse 4 else s2
      let s4 := if dmaDescBad ≤ r.status then s3.modPulse 5 else s3
      ((s4.dmaRest n).dmaHead n).pump

/-! ### Timeouts (R304) -/

/-- The record that is not written, the element that waits, or the oldest discarded read, has run out of time. -/
def State.dmaWaitOut (s : State) (n : Nat) : State :=
  let c := s.ch n
  let late := fun (t : Option Time) => match t with | some t => s.timedOut t | none => false
  if late c.recAt then ((s.bump R.DMA_CNT_TIMEOUT).setCh n { c with recAt := none }).cqFault n
  else if late (c.jobs.head?.bind (·.waitAt)) then ((s.bump R.DMA_CNT_TIMEOUT).dmaFault n 0 dmaTimeout).pump
  else match c.lost with
    | t :: ts => if s.timedOut t then (((s.bump R.DMA_CNT_TIMEOUT).setCh n { c with lost := ts }).dmaRest n).dmaHead n else s
    | [] => s

/-- DMA_ACCESS_TIMEOUT: the channel's fetch, a read, a record write, the element that waits for a trough or to be issued,
or a read of an ended chain. -/
def State.dmaTimedOut (s : State) (n : Nat) : State :=
  let c := s.ch n
  let late := fun (p : Nat × Nat) => match c.readAt p with | some r => s.timedOut r.at_ | none => false
  match c.next, c.fetchAt with
  | some x, some t =>
    if s.timedOut t then ((s.bump R.DMA_CNT_TIMEOUT).dmaBadDesc n x dmaTimeout).pump
    else match c.inFlight.find? late with
      | some p => (s.bump R.DMA_CNT_TIMEOUT).readFails n p dmaTimeout
      | none => s.dmaWaitOut n
  | _, _ => match c.inFlight.find? late with
    | some p => (s.bump R.DMA_CNT_TIMEOUT).readFails n p dmaTimeout
    | none => s.dmaWaitOut n

/-- DMA_DRAIN_DONE: the last read in flight of a DRAINING channel returns (R302). -/
def State.drainDone (s : State) (n : Nat) : State :=
  let c := s.ch n
  if !c.on && c.lost.length = 1 then (s.setCh n { c with lost := [] }).dmaRest n else s

def execDescriptorFetched (n : Fin 32) (back : DmaReturn) (s : State) : Host.Outcome State Fault Refusal := .next (s.descFetched n.val back)
def execDmaReadReturn (n : Fin 32) (i : Fin 128) (back : DmaReturn) (s : State) : Host.Outcome State Fault Refusal :=
  .next (s.readReturn n.val i.val back)
def execDmaWrite (parityBad still : Bool) (s : State) : Host.Outcome State Fault Refusal := .next (s.dmaWrite parityBad still)
def execDmaAccessTimeout (n : Fin 32) (s : State) : Host.Outcome State Fault Refusal := .next (s.dmaTimedOut n.val)
def execDmaRecordWrite (n : Fin 32) (s : State) : Host.Outcome State Fault Refusal := .next (s.recWrite n.val)
def execDmaDrainDone (n : Fin 32) (s : State) : Host.Outcome State Fault Refusal := .next (s.drainDone n.val)

end Sys2Proof.Machine
end

