-- ==== Sys2Proof/Machine/Commands.lean ====
section
/-! DEFINITION. The opcodes of Tables 16.3 and 16.5: their modes, the length of their payloads, their PG fields, and the
checks of their arguments (R340, R341). -/

namespace Sys2Proof.Machine

open Sys2Proof

/-- Little-endian fields of a payload. -/
def le (a : List Nat) (o n : Nat) : Nat := ofBytes ((a.drop o).take n)

/-- C I R L S V, as SYS_MODE.MODE encodes them. -/
def modesAll : List Nat := [2, 3, 4, 5, 6, 7]
/-- C R L S V. -/
def modesAwake : List Nat := [2, 4, 5, 6, 7]

/-- The modes in which an opcode is accepted; none where it is not in the tables. -/
def opModes (op : Nat) : List Nat :=
  if [0x100, 0x101, 0x102, 0x104, 0x110, 0x111, 0x200, 0x202, 0x301, 0x401, 0x402, 0x501, 0x700, 0x702, 0x800, 0xA00, 0xF04].contains op
  then modesAll
  else if [0x105, 0x201, 0x203, 0x300, 0x600, 0x701, 0x900, 0xF01, 0xF02, 0xF03, 0xF06].contains op then modesAwake
  else if op = 0x103 then [2]
  else if op = 0x106 || op = 0x107 || op = 0x108 then [7]
  else if op = 0x400 || op = 0xF05 then [4, 5, 7]
  else if op = 0x500 then [2, 7]
  else if op = 0xA01 then [2, 6, 7]
  else []

/-- Payload bytes that an opcode needs, given its arguments. -/
def needLen (op : Nat) (a : List Nat) : Nat :=
  match op with
  | 0x102 | 0x104 | 0x107 | 0x110 | 0xF04 => 1
  | 0x106 | 0x200 => 2
  | 0x105 | 0x108 | 0x301 | 0x401 | 0x402 | 0x800 | 0xF05 => 4
  | 0x202 | 0x203 => 6
  | 0x400 | 0x500 | 0xA00 => 8
  | 0x201 | 0xF01 => 10
  | 0xF02 | 0xF03 | 0xF06 => 12
  | 0x300 => 8 + (if a.getD 4 0 = 0 then 16 * min 14 (le a 2 2) else 4)
  | 0x600 => 4 + 2 * min 116 (a.getD 2 0)
  | 0x701 | 0x900 => 4 + min 28 (if op = 0x701 then a.getD 2 0 else a.getD 3 0)
  | _ => 0

/-- Where the PG field of an opcode stands in its payload. -/
def pgAt (op : Nat) (a : List Nat) : Option Nat :=
  match op with
  | 0x108 => some 0
  | 0x202 | 0x203 => some 2
  | 0x500 | 0xA00 => some 4
  | 0x201 => some 6
  | 0x300 => if a.getD 4 0 = 1 then some 8 else none
  | _ => none

/-- The pages of the PG field. -/
def pgPages (op : Nat) (a : List Nat) : List Nat :=
  match pgAt op a with
  | some o => (List.range (le a (o + 2) 2)).map (fun i => le a o 2 + i)
  | none => []

/-- Every page of the PG field exists and is DEVICE-owned (R341). -/
def State.pgBad (s : State) (op : Nat) (a : List Nat) : Bool :=
  match pgAt op a with
  | some o => decide (8192 < le a o 2 + le a (o + 2) 2) || (pgPages op a).any (fun p => (s.page p).owner != 2)
  | none => false

/-- The offset of the first field that is wrong. -/
def firstBad : List (Bool × Nat) → Option Nat
  | [] => none
  | x :: xs => if x.1 then some x.2 else firstBad xs

/-- The newest value of a pin cell's configuration. -/
def State.pinCfg (s : State) (p : Nat) : Word := s.shadowRd (R.TIO_CFG p)

/-- A request of PIN_OWN that is refused (R17, R29, R325, Table 5.8), by the field that is wrong. -/
def State.pinOwnBad (s : State) (pin owner idx : Nat) : List (Bool × Nat) :=
  let w := s.pinCfg pin
  let now := getBits w 0 2
  let shed := if owner = 1 then idx else idx / 24
  [ (decide (160 ≤ pin) || (s.hostsel == 2 && decide (120 ≤ pin) && decide (pin < 152)), 0x10),
    (decide (4 ≤ owner) || (owner != 0 && now != 0 && !(now == owner && getBits w 2 9 == idx)), 0x11),
    ((owner == 1 && decide (16 ≤ idx)) || (owner == 2 && decide (384 ≤ idx)) || (owner == 3 && decide (32 ≤ idx))
      || ((owner == 1 || owner == 2) && s.isCheck shed), 0x12) ]

/-- A mask of forerunner channels names a stall of the check shed of an active pair (R349). -/
def State.maskChecked (s : State) (a : List Nat) : Bool := (List.range 4).any (fun h => s.isCheck h && le a (3 * h) 3 != 0)

/-- The address of the first Yard page of the DMA completion queue and the number of its pages; none where it stands in
host memory. -/
def State.cqPages (s : State) : Option (Nat × Nat) :=
  let addr := s.f F.DMA_CQ_0_ADDR + 2 ^ 24 * s.f F.DMA_CQ_1_ADDR
  if s.b F.DMA_CQ_2_SPACE || !s.b F.DMA_CQ_CFG_EN then none else some (addr / 256, (addr % 256 + 32 * 2 ^ s.cqLog + 255) / 256)

/-- The checks of an opcode's arguments, the fields in their order. -/
def State.argList (s : State) (op : Nat) (a : List Nat) : List (Bool × Nat) :=
  let b := fun o => a.getD o 0
  match op with
  | 0x102 => [(decide (8 ≤ b 0), 0x10)]
  | 0x104 => [(b 0 != 0, 0x10)]
  | 0x105 => s.pinOwnBad (b 0) (b 1) (le a 2 2)
  | 0x106 => [(decide (512 ≤ le a 0 2), 0x10)]
  | 0x107 => [(decide (4 ≤ b 0), 0x10)]
  | 0x110 => [(decide (64 ≤ b 0), 0x10)]
  | 0x201 => [(decide (16 ≤ b 0), 0x10), (b 1 != 0, 0x11), (decide (1024 < le a 2 2 + le a 4 2), 0x12)]
  | 0x202 | 0x203 => [(decide (16 ≤ b 0), 0x10), (b 1 != 0, 0x11)]
  | 0x300 => [(decide (8192 < le a 0 2 + le a 2 2), 0x10), (b 4 == 0 && decide (14 < le a 2 2), 0x12), (decide (1 < b 4), 0x14),
      (le a 5 3 != 0, 0x15)]
  | 0x301 => [(decide (8192 < le a 0 2 + le a 2 2), 0x10), (le a 2 2 == 0 || decide (960 < le a 2 2), 0x12)]
  | 0x400 => [(decide (32 ≤ b 0), 0x10), (decide (64 ≤ b 1), 0x11), (le a 2 2 != 0, 0x12),
      (le a 4 4 == 0 || decide (16777215 < le a 4 4), 0x14)]
  | 0x500 => [((List.range 8).any (fun k => (s.f F.SYS_TWIN_PAIR_EN).testBit k && le a 0 2 / 4 ^ k % 4 != 3), 0x10), (le a 2 2 != 0, 0x12)]
  | 0x600 => [(decide (32 ≤ b 0), 0x10), (decide (128 < b 1 + b 2), 0x11), (b 2 == 0 || decide (116 < b 2), 0x12), (b 3 != 0, 0x13)]
  | 0x701 => [(b 0 != 0xFF && (decide (b 0 < 0x80) || decide (0x9F < b 0)), 0x10), (decide (28 < b 2), 0x12), (b 3 != 0, 0x13)]
  | 0x800 => [(decide (8192 < le a 0 2 + le a 2 2), 0x10)]
  | 0x900 => [(decide (128 ≤ b 0), 0x10), (decide (6 ≤ b 2), 0x12), (b 3 != (match b 2 with | 2 => 1 | 4 => 2 | _ => 0), 0x13)]
  | 0xA00 => [(decide (2048 ≤ le a 0 2), 0x10), (le a 2 2 == 0 || decide (2048 < le a 2 2), 0x12)]
  | 0xF01 => [(decide (96 ≤ b 0) || s.isCheck (b 0 / 24), 0x10), (decide (4 ≤ b 1), 0x11), (decide (16 ≤ b 2), 0x12)]
  | 0xF02 | 0xF03 | 0xF06 => [(s.maskChecked a, 0x10)]
  | 0xF04 => [(decide (96 ≤ b 0), 0x10)]
  | 0xF05 => [(decide (32 ≤ b 0), 0x10), (decide (64 ≤ b 1), 0x11), (le a 2 2 == 0, 0x12)]
  | _ => []

/-- The offset in the slot page of the first wrong field: a payload too short is LEN, at 0x04; the PG field comes after
the others of its command (R339 to R341). -/
def State.argsBad (s : State) (op : Nat) (a : List Nat) : Option Nat :=
  firstBad ([(decide (a.length < needLen op a), 0x04)] ++ s.argList op a ++ [(s.pgBad op a, 0x10 + (pgAt op a).getD 0)])

end Sys2Proof.Machine
end

