-- ==== Sys2Proof/Machine/Host.lean ====
section
/-! DEFINITION. The host interfaces (R313 to R334): the PCI Express endpoint's states and resets, the SPI target, the
forerunner bus with its image and its window. -/

namespace Sys2Proof.Machine

open Sys2Proof

/-! ### PCI Express -/

/-- A change of LINK_UP, DSTATE or BRIDGE_CLK pulses HST_LINK (R334). -/
def State.hstLink (s : State) : State := (s.pulse 239).hostSettle

/-- The effects of a reset of the endpoint on the rest of the device (R321): configuration space at its reset values,
MSI-X masked, queued accesses discarded, the endpoint's snapshots 0, DMA accesses to host memory failed. -/
def State.endpointClear (s : State) (linkDown : Bool) : State :=
  let s1 := (((s.setB F.SYS_HOST_STAT_BME false).setB F.SYS_HOST_STAT_MSIX_EN false).setF F.SYS_HOST_STAT_DSTATE 0).setB
    F.SYS_HOST_STAT_L1 false
  let s2 := overList (List.range 32) (fun s v => s.flag (R.MSIX v 3) 0) (s1.wr R.MSIX_PBA 0)
  let s3 := { s2 with
    pcie := { s2.pcie with fmask := false, pmeEn := false, pmeFor := 0, mps := 128, mrrs := 512, bars := [], aspm := false
                           ecrcGen := false, ecrcChk := false, queue := s2.pcie.queue.filter (fun x => decide (x.req ≠ Requester.pcie)) }
    snaps := s2.snaps.filter (fun e => decide (2 ^ 24 ≤ e.1))
    trgWaits := s2.trgWaits.filter (fun w => decide (w.req ≠ Requester.pcie)) }
  let s4 := s3.dmaHostGone
  if linkDown then ((s4.setB F.SYS_HOST_STAT_LINK_UP false).setF F.SYS_HOST_STAT_SPEED 0).setF F.SYS_HOST_STAT_WIDTH 0 else s4

/-- PCIE_ENDPOINT_RESET (R321). -/
def State.endpointReset (s : State) (linkDown : Bool) : State :=
  if s.hostsel = 2 || s.mode = 0 then s
  else ((s.endpointClear linkDown).log .hstLinkDown 0 0).hstLink

/-- PCIE_D_STATE_CHANGE (R320): D0 or D3hot. -/
def State.dState (s : State) (d3hot : Bool) : State :=
  let d := if d3hot then 3 else 0
  if !s.b F.SYS_HOST_STAT_LINK_UP || s.f F.SYS_HOST_STAT_DSTATE = d then s
  else
    let s1 := s.setF F.SYS_HOST_STAT_DSTATE d
    (if d3hot then s1.dmaHostGone else s1).hstLink

/-- PCIE_LINK_UP: training completes (Table 15.2). -/
def State.pcieUp (s : State) (speed width : Nat) : State :=
  if s.hostsel = 2 || s.mode = 0 || !s.b F.SYS_CLK_STAT_PCIE_REF_OK || speed = 0 || width = 0 then s
  else
    let was := s.b F.SYS_HOST_STAT_LINK_UP
    let s1 := ((s.setB F.SYS_HOST_STAT_LINK_UP true).setF F.SYS_HOST_STAT_SPEED speed).setF F.SYS_HOST_STAT_WIDTH width
    if was then s1 else s1.hstLink

/-- What a base address register keeps of a write: both spaces are 64 bits wide and 4 MiB large, not prefetchable (Table 15.2). -/
def barWord (i : Nat) (v : Word) : Word := if 4 ≤ i then 0 else if i % 2 = 0 then (v &&& 0xFFC00000) ||| 4 else v

/-- The base address register `i`. -/
def State.bar (s : State) (i : Nat) : Word := barWord i (Sparse.get (fun _ => 0) s.pcie.bars i)

/-- The endpoint's type 0 header as a configuration read sees it, as far as Table 15.2 gives its contents; the places of the fields are
those of the PCI Express Base Specification (PRESUMED, log entry 162). -/
def State.cfgHeader (s : State) (o : Nat) : Word :=
  match o with
  | 0 => packed [(0x1F4C, 0), (0x3840, 16)]
  | 4 => packed [(s.f F.SYS_HOST_STAT_BME, 2)]
  | 8 => packed [(Config.stepping.toNat, 0), (0x118000, 8)]
  | 0x10 => s.bar 0
  | 0x14 => s.bar 1
  | 0x18 => s.bar 2
  | 0x1C => s.bar 3
  | 0x2C => (Config.subsystem.getD (packed [(0x1F4C, 0), (0x3840, 16)]))
  | _ => 0

/-- The link in a tick: with ASPM L1 enabled it may be in L1 or not (Table 15.2; log entry 125). -/
def State.linkTick (s : State) : State :=
  if s.pcie.aspm && s.b F.SYS_HOST_STAT_LINK_UP then
    let d := s.draw
    d.2.setF F.SYS_HOST_STAT_L1 (toBit (Config.linkL1 d.1))
  else s

/-- PCIE_CONFIG_WRITE, with the link up. -/
def State.pcieConfig (s : State) (x : PcieConfig) : State :=
  if !s.b F.SYS_HOST_STAT_LINK_UP then s
  else match x with
  | .busMaster on => (s.setB F.SYS_HOST_STAT_BME on).hostSettle
  | .msix en mask =>
    let s1 := s.setB F.SYS_HOST_STAT_MSIX_EN en
    { s1 with pcie := { s1.pcie with fmask := mask } }.hostSettle
  | .pmeEnable on => { s with pcie := { s.pcie with pmeEn := on } }.hostSettle
  | .maxPayload n => if n = 128 || n = 256 then { s with pcie := { s.pcie with mps := n } } else s
  | .maxRead n => if n = 128 || n = 256 || n = 512 then { s with pcie := { s.pcie with mrrs := n } } else s
  | .bar i v => { s with pcie := { s.pcie with bars := Sparse.set (fun _ => 0) s.pcie.bars i.val v } }
  | .aspmL1 on => let s1 := { s with pcie := { s.pcie with aspm := on } }
                  if on then s1 else s1.leaveL1
  | .ecrc generate check => { s with pcie := { s.pcie with ecrcGen := generate, ecrcChk := check } }

/-- REFCLK_LOST (R313): a bridge that runs on the reference moves to SYSCLK, and the link goes down. -/
def State.refclkLost (s : State) : State :=
  let s1 := s.setB F.SYS_CLK_STAT_PCIE_REF_OK false
  if s.mode = 0 || !s.b F.SYS_CLK_STAT_PCIE_REF_OK || s.b F.SYS_HOST_STAT_BRIDGE_CLK then s1
  else
    let s2 := (s1.setB F.SYS_HOST_STAT_BRIDGE_CLK true).log .hstRefclkLost 0 0
    (if s2.b F.SYS_HOST_STAT_LINK_UP then (s2.endpointClear true).log .hstLinkDown 0 0 else s2).hstLink

/-- PCIE_REFCLK_RESTORED: the bridge stays on SYSCLK until the next reset. -/
def State.refclkBack (s : State) : State := if s.mode = 0 then s else s.setB F.SYS_CLK_STAT_PCIE_REF_OK true

/-! ### Waiting accesses of SPI and the forerunner bus (R284, R330) -/

/-- An access of a requester waits at a trough, or behind one that does. -/
def State.accessWaits (s : State) (r : Requester) : Bool := s.heldBack r

/-- The word that a requester's last read returned. -/
def State.got (s : State) (r : Requester) : Word := Sparse.get (fun _ => 0) s.lastRead (reqIdx r)

/-! ### The SPI target (R322 to R324) -/

/-- The address after a word: 24 bits, wrapping. -/
def Spi.next (x : Spi) : Nat := if x.fixed then x.addr else (x.addr + 4) % 2 ^ 24

/-- An SPI write. -/
def State.spiPut (s : State) (a : Nat) (w : Word) : State := s.writeBy (wordTo .spi a w) (fun s => s.regWrite .spi a w 15)

/-- A word has been received: made, held behind a write that waits, or the ninth held one, discarded (R323). -/
def State.spiWord (s : State) (w : Word) : State :=
  let x := s.spi
  let s1 := { s with spi := { x with addr := x.next } }
  if !s.accessWaits .spi && x.held.isEmpty then s1.spiPut x.addr w
  else if x.held.length < 8 then { s1 with spi := { s1.spi with held := x.held ++ [(x.addr, w)] } }
  else s1.setB F.SYS_HOST_STAT_SPI_OVF true

/-- Held writes are made in order once nothing waits (R330). -/
def State.spiHeld : Nat → State → State
  | 0, s => s
  | k + 1, s =>
    match s.spi.held with
    | [] => s
    | e :: es => if s.accessWaits .spi then s else State.spiHeld k ({ s with spi := { s.spi with held := es } }.spiPut e.1 e.2)

/-- The prefix bytes before a word that was ready `t` ticks after its read began, with bytes of `b` ticks each: 0x00 while it was not,
then 0x5A (R324). The first prefix of a transaction comes one turnaround byte after the last address clock, which the model
takes as half a byte long; that of a later word comes four bytes after its read began. -/
def spiPrefix (first : Bool) (b t : Nat) : List (Option (BitVec 8)) :=
  let off := if first then b + b / 2 else 4 * b
  (if first then [none] else []) ++ List.replicate ((t - off + b - 1) / b) (some 0) ++ [some 0x5A]

/-- A word that has been read goes out, as far as the host still takes words; the read took the time that it waited, or up to
120 ns (log entry 161). -/
def State.spiSend (s : State) : State :=
  let x := s.spi
  if x.want = 0 then { s with spi := { x with pull := false } }
  else
    let d := s.draw
    let t := if x.pull then since s.now (x.due - BitVec.ofNat 48 x.gap) else Config.spiRead d.1 % 61
    let bytes := (bytesOf 4 (s.got .spi).toNat).map (fun b => some (BitVec.ofNat 8 b))
    { d.2 with spi := { x with pull := false, want := x.want - 1
                               out := x.out ++ spiPrefix x.out.isEmpty (max 1 (x.gap / 5)) t ++ bytes } }

/-- A word is read internally; a read that waits is sent when it is served (R324). -/
def State.spiFetch (s : State) : State :=
  let x := s.spi
  let s1 := { s with spi := { x with addr := x.next, left := x.left - 1, due := s.now + BitVec.ofNat 48 x.gap } }
  let s2 := s1.readBy (wordOf .spi x.addr .clean) (fun s => s.busRead .spi x.addr)
  if s2.accessWaits .spi then { s2 with spi := { s2.spi with pull := true } } else s2.spiSend

/-- The next word's time has come; without a time base the words of a command act at once. -/
def State.spiDue (s : State) : Bool := !s.tb.running || s.reached s.spi.due

/-- What the target does in one tick: a served read goes out, held writes are made, the next word is received or read. -/
def State.spiStep (s : State) : State :=
  let s1 := if s.spi.pull && !s.accessWaits .spi then
      let s1 := s.spiSend
      { s1 with spi := { s1.spi with due := s.now + BitVec.ofNat 48 s.spi.gap } } else s
  let s2 := s1.spiHeld 8
  let x := s2.spi
  match x.coming with
  | w :: ws => if s2.spiDue then { s2 with spi := { x with coming := ws, due := s2.now + BitVec.ofNat 48 x.gap } }.spiWord w else s2
  | [] => if x.left ≠ 0 && !x.pull && x.held.isEmpty && !s2.accessWaits .spi && s2.spiDue then s2.spiFetch else s2

/-- The steps of a command when the time base stands still. -/
def State.spiSteps : Nat → State → State
  | 0, s => s
  | k + 1, s => State.spiSteps k s.spiStep

/-- A transaction may start: the target enabled (Table 15.1) and SPI_CS_N high before. -/
def State.spiReady (s : State) : Bool := s.linked .spi && decide (s.spi.kind = .none)

def State.spiGo (s : State) (x : Spi) (n : Nat) : State :=
  let s1 := { s with spi := x }
  if s.tb.running then s1.spiStep else s1.spiSteps n

/-- SPI_WRITE and SPI_WRITE_FIXED: the first word's fourth byte has come, and the others follow `gap` ticks apart; without a word, the
address has. -/
def State.spiWrite (s : State) (a : Nat) (ws : List Word) (gap : Nat) (fixed : Bool) : State :=
  if !s.spiReady then s
  else s.spiGo { s.spi with kind := .write, fixed := fixed, addr := a - a % 4, coming := ws, left := 0, want := 0, gap := gap,
                            due := s.now, pull := false, out := [] } ws.length

/-- SPI_READ, SPI_READ_FIXED, QREAD, QREAD_FIXED: the last address clock has come. The host takes `count` words, the
next one is read when the first data byte of a word starts, `gap` ticks after the read before it; so one more word is
read than the host takes. -/
def State.spiRead (s : State) (a count gap : Nat) (fixed : Bool) : State :=
  if !s.spiReady then s
  else s.spiGo { s.spi with kind := .read, fixed := fixed, addr := a - a % 4, coming := [], left := count + 1, want := count, gap := gap,
                            due := s.now, pull := false, out := [] } (count + 1)

/-- SPI_STATUS: the status byte, which is repeated until SPI_CS_N rises; SPI_ABORT and SPI_OVF clear. Bit 0: a write waits, or is held
behind one (R324). -/
def State.spiStatus (s : State) : State :=
  if !s.spiReady then s
  else
    let h := !s.spi.held.isEmpty || s.trgWaits.any (fun w => decide (w.req = Requester.spi) && w.push.isSome)
    let w := toBit h + 2 * s.f F.SYS_HOST_STAT_SPI_ABORT + 4 * s.f F.SYS_HOST_STAT_SPI_OVF
    let s1 := (s.setB F.SYS_HOST_STAT_SPI_ABORT false).setB F.SYS_HOST_STAT_SPI_OVF false
    { s1 with spi := { s1.spi with kind := .status, coming := [], left := 0, want := 0, out := [some (BitVec.ofNat 8 w)] } }

/-- Byte `i` that the target sends in a transaction: nothing drives the turnaround byte, STATUS repeats its byte (R324). -/
def State.spiByte (s : State) (i : Nat) : Option (BitVec 8) := (s.spi.out[if s.spi.kind = .status then 0 else i]?).join

/-- SPI_CS_RISE: the transaction ends; a word cut short, a write's first one too, is discarded (R323). -/
def State.spiEnd (s : State) (partialWord : Bool) : State :=
  let x := s.spi
  let s1 := { s with spi := { x with kind := .none, coming := [], left := 0, want := 0 } }
  if x.kind = .write && partialWord then s1.setB F.SYS_HOST_STAT_SPI_ABORT true else s1

/-! ### The forerunner bus (R325 to R329, R352) -/

/-- A strobe may fall: the bus enabled, the access before it complete. -/
def State.frReady (s : State) : Bool := s.linked .fr && !s.accessWaits .fr && !s.fr.pull

/-- A word of the command window. -/
def State.frImg (s : State) (w : Nat) : Nat := Sparse.get (fun _ => 0) s.fr.img w
def State.setImg (s : State) (w v : Nat) : State := { s with fr := { s.fr with img := Sparse.set (fun _ => 0) s.fr.img w (v % 65536) } }

/-- A 16-bit word goes to the host. -/
def State.frOut (s : State) (v : Nat) : State := s.deliver .fr (BitVec.ofNat 32 (v % 65536))

/-- The payload of a window command, in bytes: words 0x013 to 0x0FF, low half first (R352). -/
def State.windowBytes (s : State) (n : Nat) : List Nat :=
  ((List.range ((n + 1) / 2)).flatMap (fun i => bytesOf 2 (s.frImg (0x13 + i)))).take n

/-- FR_WINDOW_COMMAND: a write of word 0x010 starts a command, checked as R340 says; discarded while one runs (R352). -/
def State.windowStart (s : State) (v : Nat) : State :=
  if (s.mb 4).svc.isSome || s.mode < 2 then s
  else
    let op := 0xF00 + v % 256
    let a := s.windowBytes (needLen op [])
    let s1 := s.setImg 0x10 v
    let s2 := s1.setMb 4 { s1.mb 4 with svc := some { op := op, args := a } }
    match opModes op with
    | [] => s2.windowDone statusBadArg []
    | ms => if !ms.contains s.mode then s2.windowDone statusBadState []
            else if (s.argsBad op a).isSome then s2.windowDone statusBadArg [] else s2

/-- A channel block's word (R327, R328): word i of block c stands for the i-th register of stall c. -/
def blockReg (w : Nat) : Nat × Nat := ((w - 0x100) / 16, 4 * (w % 16))

/-- FR_IMAGE_ACCESS, reading. The words whose layout no rule gives read a free value of what was written to them and of the host lines
(log entry 8). -/
def State.imageRead (s : State) (w : Nat) : State :=
  let unknown := let d := s.draw; d.2.frOut (Config.frStatus d.1 w (s.frImg w) s.linesNow).toNat
  if w = 0 then s.frOut 0x0960
  else if w = 1 then s.frOut 0x3840
  else if w < 0x10 then unknown
  else if w < 0x100 then s.frOut (if w = 0x11 && (s.mb 4).svc.isSome then 0xFFFF else s.frImg w)
  else if w < 0x700 then
    let (k, o) := blockReg w
    let s1 := s.busRead .fr (R.STL_CTL k + o)
    s1.frOut (s1.got .fr).toNat
  else if w < 0x800 then unknown
  else if w = 0xF00 then s.frOut (s.fr.addr % 65536)
  else if w = 0xF01 then s.frOut (s.fr.addr / 65536 % 256 + 32768 * toBit s.fr.inc)
  else if w = 0xF03 then s.frOut s.fr.hi
  else s.frOut 0

/-- FR_IMAGE_ACCESS, writing: a block whose stall lies in the check shed of an active pair discards it (R328). -/
def State.imageWrite (s : State) (w v : Nat) : State :=
  if w = 0x10 then s.windowStart v
  else if (2 ≤ w && w < 0x10) || (0x13 ≤ w && w < 0x100) || (0x700 ≤ w && w < 0x800) then s.setImg w v
  else if 0x100 ≤ w && w < 0x700 then
    let (k, o) := blockReg w
    if s.isCheck (k / 24) then s else s.stlWrite k o (BitVec.ofNat 32 (v % 65536))
  else s

/-- The window's address moves on (R329). -/
def State.frStep (s : State) : State :=
  if s.fr.inc then { s with fr := { s.fr with addr := (s.fr.addr + 4) % 2 ^ 24 } } else s

/-- The word that a read of FR_WIN_DATA_LO has got: its high half is latched. -/
def State.frGot (s : State) : State :=
  let w := (s.got .fr).toNat
  ({ s with fr := { s.fr with pull := false, hi := w / 65536 } }.frOut w).frStep

/-- FR_WIN_DATA_LO_READ. -/
def State.winRead (s : State) : State :=
  if !s.frReady then s
  else
    let s1 := s.busRead .fr s.fr.addr
    if s1.accessWaits .fr then { s1 with fr := { s1.fr with pull := true } } else s1.frGot

/-- A read of FR_WIN_DATA_LO that waited has been served. -/
def State.frWake (s : State) : State := if s.fr.pull && !s.accessWaits .fr then s.frGot else s

/-- FR_WIN_DATA_LO_WRITE. -/
def State.winHold (s : State) (v : Nat) : State := if s.frReady then { s with fr := { s.fr with held := some (v % 65536) } } else s

/-- FR_WIN_DATA_HI_WRITE: the whole word is written; without a held half no rule states the low half. -/
def State.winWrite (s : State) (v : Nat) : State :=
  if !s.frReady then s
  else
    let (lo, s1) := match s.fr.held with
      | some l => (l, s)
      | none => let d := s.draw; ((Config.frWord d.1).toNat, d.2)
    let a := s.fr.addr
    let s2 := { s1 with fr := { s1.fr with held := none } }.issueWrite .fr (fun s => s.regWrite .fr a (BitVec.ofNat 32 (lo + 65536 * (v % 65536))) 15)
    s2.frStep

/-- FR_WIN_ADDR_WRITE: a held half is discarded. -/
def State.winAddr (s : State) (hi : Bool) (v : Nat) : State :=
  if !s.frReady then s
  else
    let a := s.fr.addr
    { s with fr := { s.fr with
        held := none
        addr := if hi then a % 65536 + 65536 * (v % 256) else a / 65536 * 65536 + v % 65536
        inc := if hi then v.testBit 15 else s.fr.inc } }

/-- FR_IMAGE_ACCESS: any word of the image; the window registers as their own rows. -/
def State.imageAccess (s : State) (w : Nat) (write : Bool) (v : Nat) : State :=
  if !s.frReady then s
  else if write then
    (if w = 0xF00 then s.winAddr false v else if w = 0xF01 then s.winAddr true v else if w = 0xF02 then s.winHold v
     else if w = 0xF03 then s.winWrite v else s.issueWrite .fr (fun s => s.imageWrite w v))
  else if w = 0xF02 then s.winRead else s.imageRead w

/-- FR_ACCESS_TIMEOUT (R326): only an image word is served by Holtid. -/
def State.frTimeout (s : State) (w : Nat) (write : Bool) : State :=
  if !s.frReady || 0xF00 ≤ w then s
  else
    let s1 := (s.bump R.SYS_HOST_FR_TIMEOUT).log .hstFrTimeout 2 0
    if write then s1 else s1.frOut 0

/-! ### The meanings -/

def execRefclkLost (s : State) : Host.Outcome State Fault Refusal := .next s.refclkLost
def execPcieRefclkRestored (s : State) : Host.Outcome State Fault Refusal := .next s.refclkBack
def execPcieLinkUp (speed : Fin 4) (width : Fin 3) (s : State) : Host.Outcome State Fault Refusal := .next (s.pcieUp speed.val width.val)
def execPcieConfigWrite (x : PcieConfig) (s : State) : Host.Outcome State Fault Refusal := .next (s.pcieConfig x)
def execPcieEndpointReset (linkDown : Bool) (s : State) : Host.Outcome State Fault Refusal := .next (s.endpointReset linkDown)
def execPcieDStateChange (d3hot : Bool) (s : State) : Host.Outcome State Fault Refusal := .next (s.dState d3hot)
def execSpiWrite (a : BitVec 24) (ws : List Word) (gap : Nat) (s : State) : Host.Outcome State Fault Refusal :=
  .next (s.spiWrite a.toNat ws gap false)
def execSpiWriteFixed (a : BitVec 24) (ws : List Word) (gap : Nat) (s : State) : Host.Outcome State Fault Refusal :=
  .next (s.spiWrite a.toNat ws gap true)
def execSpiRead (a : BitVec 24) (count gap : Nat) (s : State) : Host.Outcome State Fault Refusal := .next (s.spiRead a.toNat count gap false)
def execSpiReadFixed (a : BitVec 24) (count gap : Nat) (s : State) : Host.Outcome State Fault Refusal := .next (s.spiRead a.toNat count gap true)
def execQread (a : BitVec 24) (count gap : Nat) (s : State) : Host.Outcome State Fault Refusal := .next (s.spiRead a.toNat count gap false)
def execQreadFixed (a : BitVec 24) (count gap : Nat) (s : State) : Host.Outcome State Fault Refusal := .next (s.spiRead a.toNat count gap true)
def execSpiStatus (s : State) : Host.Outcome State Fault Refusal := .next s.spiStatus
def execSpiCsRise (partialWord : Bool) (s : State) : Host.Outcome State Fault Refusal := .next (s.spiEnd partialWord)
def execFrImageAccess (w : BitVec 12) (write : Bool) (v : BitVec 16) (s : State) : Host.Outcome State Fault Refusal :=
  .next (s.imageAccess w.toNat write v.toNat)
def execFrAccessTimeout (w : BitVec 12) (write : Bool) (s : State) : Host.Outcome State Fault Refusal := .next (s.frTimeout w.toNat write)
def execFrWinDataLoRead (s : State) : Host.Outcome State Fault Refusal := .next s.winRead
def execFrWinDataLoWrite (v : BitVec 16) (s : State) : Host.Outcome State Fault Refusal := .next (s.winHold v.toNat)
def execFrWinDataHiWrite (v : BitVec 16) (s : State) : Host.Outcome State Fault Refusal := .next (s.winWrite v.toNat)
def execFrWinAddrWrite (hi : Bool) (v : BitVec 16) (s : State) : Host.Outcome State Fault Refusal := .next (s.winAddr hi v.toNat)
def execFrWindowCommand (v : BitVec 16) (s : State) : Host.Outcome State Fault Refusal :=
  .next (if s.frReady then s.issueWrite .fr (fun s => s.windowStart v.toNat) else s)

end Sys2Proof.Machine
end

