-- ==== Sys2Proof/Machine/Logger.lean ====
section
/-! DEFINITION. The hardware logger's queue (R391) and the sleep of the core in IDLE that it waits for (R372, R382). -/

namespace Sys2Proof.Machine

open Sys2Proof

/-- The core sleeps in IDLE: no source is pending and unmasked, it has none in service, and no command is in service. -/
def State.coreSleeps (s : State) : Bool :=
  s.mode == 3 && s.sources.all (fun g => !s.live g && (s.src g).svc != .core) && (List.range 5).all (fun m => (s.mb m).svc.isNone)

/-- 4 SYSCLK cycles have passed since the last entry. -/
def State.logFree (s : State) : Bool := match s.logAt with | some t => decide (8 ≤ since s.ctlNow t) | none => true

/-- LOG_ENTRY_WRITE (R391): the next entry is written. While the core sleeps in IDLE, and before SYS_RESET after a reset, reports
wait. -/
def State.logOne (s : State) : State :=
  if s.logQ.isEmpty || s.coreSleeps || !s.logFree then s
  else if s.logHold then
    match s.logQ.find? (fun r => r.code == .sysReset) with
    | some r => { s with logQ := s.logQ.erase r, logHold := false, logAt := some s.ctlNow }.logEntry r
    | none => s
  else s.logNext

def execLogEntryWrite (s : State) : Host.Outcome State Fault Refusal := .next s.logOne

end Sys2Proof.Machine
end

