-- ==== Sys2Proof/Machine/Mailbox.lean ====
section
/-! DEFINITION. Serving the mailboxes and the Holtid command set (R335 to R360, R178, R385, R387, R389, R396). A command
row acts on the command of its opcode that `src` has in service: mailbox 0 to 3, or 4 for the image's command window. -/

namespace Sys2Proof.Machine

open Sys2Proof

/-! ### Service (R338, R340) -/

/-- Slot CONS is taken: CONS moves on, SERVING is set. -/
def State.takeSlot (s : State) (m : Nat) (v : Svc) : State :=
  let s1 := ((s.setF (F.MBX_STAT_CONS m) (s.f (F.MBX_STAT_CONS m) + 1)).setB (F.MBX_STAT_SERVING m) true).waitEnd m
  s1.setMb m { s1.mb m with svc := some v }

/-- The header is wrong (R336, R340). -/
def headerBad (h : List Nat) : Bool :=
  hchk h != le h 12 2 || decide (16 ≤ h.getD 5 0) || le h 14 2 != 0 || decide (240 < h.getD 4 0)

/-- The earlier slots that a FENCE names have completed (R354). -/
def State.fenceOpen (s : State) (m : Nat) : Bool :=
  match (s.mb m).bells with
  | b :: _ => b.fence.all (· == 0)
  | [] => true

/-- A slot whose page is DEVICE is served: header, opcode, mode, arguments, in this order. -/
def State.serveSlot (s : State) (m page : Nat) : State :=
  let h := s.yardBytes (256 * page) 16
  let op := le h 0 2
  let a := s.yardBytes (256 * page + 16) (min 240 (h.getD 4 0))
  if headerBad h then
    let s1 := ((s.takeSlot m { page := page }).setB (F.MBX_STAT_HDR_ERR m) true).log .hstMbxHeader m 0
    s1.complete m statusBadArg 0xFFFF []
  else if (h.getD 5 0).testBit 3 && !s.fenceOpen m then s
  else
    let s1 := s.takeSlot m { page := page, op := op, flags := h.getD 5 0, args := a, pages := pgPages op a }
    match opModes op with
    | [] => s1.complete m statusBadArg 0 []
    | ms =>
      if !ms.contains s.mode then s1.complete m statusBadState 0 []
      else match s.argsBad op a with
        | some o => s1.complete m statusBadArg o []
        | none => s1

/-- MBX_SERVICE_START. -/
def State.serviceStart (s : State) (m : Nat) : State :=
  let cons := s.f (F.MBX_STAT_CONS m)
  let page := s.mbPage m cons
  if s.mode < 2 || !s.b (F.MBX_CFG_EN m) || (s.mb m).svc.isSome || cons = s.f (F.MBX_DB_PROD m) then s
  else if (s.page page).owner = 2 then (s.waitEnd m).serveSlot m page
  else if (s.page page).owner = 3 then
    ((s.setF (F.MBX_STAT_CONS m) (cons + 1)).waitEnd m).slotDone m
  else if (s.mb m).waitSince.isSome then s
  else (s.setMb m { s.mb m with waitSince := some s.now }).setB (F.MBX_STAT_WAIT_OWN m) true

/-! ### What the rows share -/

/-- The trouble code of a page that entered QUARANTINE, as HW_FAULT names it (R277, R339). -/
def detailOf (c : LogCode) : Nat := c.num

/-- The command of an opcode acts; a page of it that has entered QUARANTINE ends it (R341). -/
def State.command (s : State) (src op : Nat) (f : State → Svc → State) : State :=
  match s.serving src op with
  | none => s
  | some v => if s.hurt src v then s.complete src statusHwFault (detailOf .yrdEcc) [] else f s v

/-- It ends with OK and a result. -/
def State.answer (s : State) (src op : Nat) (f : State → Svc → List Nat) : State :=
  s.command src op (fun s v => s.complete src statusOk 0 (f s v))

/-- The ticks in which Holtid writes shadowed items: 200 to P − 129 of a beat (R342). -/
def State.shadowTicks (s : State) : Bool :=
  s.tb.running && !s.tb.due && decide (200 ≤ s.tb.phase) && decide (s.tb.phase + 129 ≤ s.P) && s.mode != 3

/-- The command of an opcode writes its shadowed items; `words` of them in all, for the limit of ATOMIC, which begins at
tick 200 (R342). -/
def State.shadowCommand (s : State) (src op : Nat) (words : Svc → Nat) (f : State → Svc → State) : State :=
  s.command src op (fun s v =>
    if v.flags.testBit 2 && decide (s.P < 328 + 2 * words v) then s.complete src statusNoSpace 0 []
    else if s.shadowTicks && (!v.flags.testBit 2 || s.tb.phase == 200) then f s v else s)

/-- Byte offset in the Yard of a command's PG range, and its size. -/
def Svc.pgOff (v : Svc) : Nat := 256 * v.pages.headD 0
def Svc.pgSize (v : Svc) : Nat := 256 * v.pages.length

/-- A register as Holtid reads it, in `n` bytes. -/
def State.regBytes (s : State) (a n : Nat) : List Nat := bytesOf n (s.busView .core a).toNat

/-! ### System commands -/

def State.getInfo (s : State) : List Nat :=
  s.regBytes R.SYS_ID 4 ++ s.regBytes R.SYS_REV 4 ++ s.regBytes R.SYS_FW_VER 4
    ++ [s.mode, toBit s.sealed, s.hostsel, toBit (s.b F.MBX_SLEEP_ASLEEP)]

/-- SET_MODE: the present mode completes at once (R379), an impossible change at once too; else it waits for the boundary. -/
def State.setModeCmd (s : State) (src : Nat) (v : Svc) : State :=
  let m := v.args.getD 0 0
  if m = s.mode then s.complete src statusOk 0 [m]
  else if (s.modeFor m).isNone then s.complete src statusBadState 0 []
  else s.setSvc src { v with waiting := true, arg := m, since := s.now }

/-- SEAL (R10, R385). -/
def State.sealCmd (s : State) (src : Nat) : State :=
  if s.mode ≠ 2 || s.sealed then s.complete src statusBadState 0 [] else (s.setB F.SYS_MODE_SEALED true).complete src statusOk 0 []

/-- RESET (R346): 10 µs after it is served, of two the first; at once where the time base stands still. -/
def State.resetCmd (s : State) (src straps : Nat) (v : Svc) : State :=
  if s.tb.running then
    { s.setSvc src { v with waiting := true } with sys := { s.sys with reboot := some (s.sys.reboot.getD (s.now + 5000, straps)) } }
  else s.warmReset 4 straps

/-- PIN_OWN: the owner for the next commit (R17). -/
def State.pinOwn (s : State) (src : Nat) (v : Svc) : State :=
  let a := v.args
  let p := a.getD 0 0
  match firstBad (s.pinOwnBad p (a.getD 1 0) (le a 2 2)) with
  | some o => s.complete src statusBadArg o []
  | none => (s.shadowWr (R.TIO_CFG p) (setBits (setBits (s.pinCfg p) 0 2 (a.getD 1 0)) 2 9 (le a 2 2))).finish src [R.TIO_CFG p] []

/-- SELFTEST: `fail` is what the BIST finds. -/
def State.selftest (s : State) (src fail : Nat) (v : Svc) : State :=
  let mask := le v.args 0 2
  let bad := fail &&& mask
  let s1 := overList (bitList 9 mask) State.bistClear s
  s1.complete src (if bad = 0 then statusOk else statusHwFault) 0 (bytesOf 2 bad)

/-- Both lines of a cell have been measured since CALIBRATE; a failed idle line keeps the other one in use (R126). -/
def State.cellDone (s : State) (c : Nat) : Bool :=
  let x := s.pin c
  (x.calA && x.calB) || (if x.line then x.calA && x.a.failed else x.calB && x.b.failed)

/-- What CALIBRATE has completed of its mask. -/
def State.calDone (s : State) (v : Svc) : Nat :=
  let m := v.args.getD 0 0
  let d0 := m.testBit 0 && (List.range 192).all s.cellDone
  let d1 := m.testBit 1 && (bitList 32 v.arg).all (fun n => (s.vlv n).cal)
  toBit d0 + 2 * toBit d1

/-- CALIBRATE starts what its mask names; the channels in their off state are kept by their numbers. -/
def State.calStart (s : State) (src : Nat) (v : Svc) : State :=
  let m := v.args.getD 0 0
  let named := if m.testBit 1 then (List.range 32).filter (fun n => (s.vlv n).st.idle) else []
  let s1 := if m.testBit 0 then overList (List.range 192) (fun s c => s.setPin c { s.pin c with calA := false, calB := false }) s else s
  let s2 := overList named (fun s n => s.setVlv n { s.vlv n with cal := false, calSum := 0, calN := 0 }) s1
  s2.setSvc src { v with waiting := true, arg := named.foldl setBit 0, since := s.now }

/-- CALIBRATE: its start, and, once it has started, its end or its timeout. -/
def State.calibrate (s : State) (src : Nat) : State :=
  match s.awaiting src 0x107 with
  | some v =>
    if s.calDone v = v.args.getD 0 0 then s.complete src statusOk 0 [s.calDone v]
    else if s.passed v.since 50000000 then s.complete src statusTimeout 0 [s.calDone v]
    else s
  | none => s.command src 0x107 (fun s v => s.calStart src v)

/-- The first header field of a patch that R388 finds wrong, by its offset in the image. -/
def patchField (img : List Nat) : Nat :=
  (firstBad [(imgField img 0 4 != 0x31484C50, 0), (imgField img 4 2 != 1, 4), (decide (32672 < imgField img 0x10 4), 0x10),
    (imgField img 0x0B 1 != 0, 0x0B), (imgField img 0x14 12 != 0, 0x14)]).getD 0

/-- PATCH_LOAD (R387, R388): `differs` says that the read-back of the patch area differs. -/
def State.patchLoad (s : State) (src : Nat) (differs : Bool) (v : Svc) : State :=
  let img := s.yardBytes v.pgOff (min v.pgSize 32768)
  let size := 96 + imgField img 0x10 4
  let st := s.patchCheck img
  if v.pgSize = 0 then s.complete src statusNoSpace 0 []
  else if st = statusBadArg then s.complete src statusBadArg (patchField img) []
  else if v.pgSize < size then s.complete src statusNoSpace 0 []
  else if st = statusVersion then s.complete src statusVersion 0 []
  else if st = statusSigFail then (s.log .sysPatchReject wholeDevice 0).complete src statusSigFail 0 []
  else if differs then
    let s1 := { s.setB F.SYS_BOOT_PATCH_STAGED false with sys := { s.sys with patch := [] } }
    (s1.log .sysPatchReject wholeDevice 0).complete src statusHwFault (detailOf .sysPatchReject) []
  else { s.setB F.SYS_BOOT_PATCH_STAGED true with sys := { s.sys with patch := img.take size } }.complete src statusOk 0 ((img.drop 0x0C).take 4)

/-- SLEEP_NOTICE (R357): the holds are flushed, the notice is acknowledged without moderation, then the host sleeps; while
it sleeps already only WAKE_EN is replaced (R358). -/
def State.sleepNotice (s : State) (src : Nat) (v : Svc) : State :=
  let s1 := if s.b F.MBX_SLEEP_ASLEEP then s else overList (List.range 5) State.releaseHold s
  let s2 := (s1.setSvc src { v with flags := setBit v.flags 0 }).endCommand src statusOk 0 [] true
  (s2.setB F.MBX_SLEEP_ASLEEP true).setF F.MBX_SLEEP_WAKE_EN (v.args.getD 0 0)

/-- WAKE_NOTICE (R358). -/
def State.wakeNotice (s : State) (src : Nat) : State :=
  let held := s.f F.MBX_SLEEP_HELD_CLS
  let s1 := { s.setB F.MBX_SLEEP_ASLEEP false with wakeLow := false }
  (overList (List.range 6) State.releaseHold s1).complete src statusOk 0 [held]

/-! ### Wheels and events -/

def State.whlStatus (s : State) (v : Svc) : List Nat :=
  (bitList 16 (le v.args 0 2)).flatMap (fun n =>
    s.regBytes (R.WHL_STAT n) 3 ++ s.regBytes (R.WHL_POS n) 3 ++ s.regBytes (R.WHL_ANGLE n) 3 ++ s.regBytes (R.WHL_RATE n) 3)

/-- The 32-bit words of a PG range. -/
def State.pgWords (s : State) (v : Svc) (n : Nat) : List Nat :=
  (List.range n).map (fun i => ofBytes (s.yardBytes (v.pgOff + 4 * i) 4))

/-- Shadowed words are written in increasing address. -/
def State.putWords (s : State) (a : Nat) (ws : List Nat) : State :=
  overList (ws.zipIdx) (fun s e => s.plainBus (a + 4 * e.2) (BitVec.ofNat 32 e.1)) s

/-- PATTERN_LOAD: 4-byte words with bits [31:24] at 0. -/
def State.patternLoad (s : State) (src : Nat) (v : Svc) : State :=
  let n := v.args.getD 0 0
  let first := le v.args 2 2
  let count := le v.args 4 2
  let ws := s.pgWords v count
  if v.pages.length < (count + 63) / 64 then s.complete src statusNoSpace 0 []
  else match firstBad (ws.zipIdx.map (fun e => (decide (2 ^ 24 ≤ e.1), 4 * e.2))) with
    | some o => s.complete src statusBadArg o []
    | none => (s.putWords (R.PAT n first) ws).finish src ((List.range count).map (fun i => R.PAT n (first + i))) []

/-- LEARN_SAVE. -/
def State.learnSave (s : State) (src : Nat) (v : Svc) : State :=
  let n := v.args.getD 0 0
  if v.pages.length < 16 then s.complete src statusNoSpace 0 []
  else
    let s := s.readCorr n (List.range 1024)
    let bs := (List.range 1024).flatMap (fun k => bytesOf 4 (s.shadowRd (R.LRN n k)).toNat)
    (s.yardPutBytes .core v.pgOff bs).complete src statusOk 0 [toBit (s.unlearned n)]

/-- LEARN_RESTORE: host writes to all 1,024 entries. -/
def State.learnRestore (s : State) (src : Nat) (v : Svc) : State :=
  let n := v.args.getD 0 0
  if v.pages.length < 16 then s.complete src statusNoSpace 0 []
  else (s.putWords (R.LRN n 0) (s.pgWords v 1024)).finish src ((List.range 1024).map (fun k => R.LRN n k)) []

/-- The check shed of a pair whose PAIR_EN or PAIR_ACT is set (R28). -/
def State.checkHome (s : State) (home : Nat) : Bool :=
  home % 2 == 1 && ((s.f F.SYS_TWIN_PAIR_EN).testBit (home / 2) || (s.f F.SYS_TWIN_PAIR_ACT).testBit (home / 2))

/-- The entries of EVT_WRITE, four words each, and the offset of the first one. -/
def State.evtWords (s : State) (v : Svc) : List Nat × Nat :=
  let count := le v.args 2 2
  if v.args.getD 4 0 = 0 then ((List.range (4 * count)).map (fun i => le v.args (8 + 4 * i) 4), 8) else (s.pgWords v (4 * count), 0)

/-- EVT_WRITE: every entry is checked before any is written. -/
def State.evtWrite (s : State) (src : Nat) (v : Svc) : State :=
  let first := le v.args 0 2
  let count := le v.args 2 2
  let (ws, o0) := s.evtWords v
  if v.args.getD 4 0 = 1 && decide (v.pages.length < (count + 15) / 16) then s.complete src statusNoSpace 0 []
  else match firstBad ((List.range count).map (fun i => (s.checkHome (ws.getD (4 * i) 0 / 2 ^ 28), o0 + 16 * i))) with
    | some o => s.complete src statusBadArg o []
    | none => (s.putWords (R.EVT first 0) ws).finish src ((List.range count).map (fun i => R.EVT (first + i) 0)) []

/-- EVT_STATUS: two bits per entry. -/
def State.evtStatus (s : State) (v : Svc) : List Nat :=
  let first := le v.args 0 2
  let count := le v.args 2 2
  let two := fun (i : Nat) => if i < count then toBit (s.es (first + i)).spent + 2 * toBit (s.hasInstance (first + i)) else 0
  (List.range ((count + 3) / 4)).map (fun j => two (4 * j) + 4 * two (4 * j + 1) + 16 * two (4 * j + 2) + 64 * two (4 * j + 3))

/-! ### Valves -/

/-- VLV_ON and FR_VALVE: the command waits until the channel has left WAIT (R345). -/
def State.valveOn (s : State) (src n prof dur : Nat) (v : Svc) : State :=
  (s.setSvc src { v with waiting := true, since := s.now }).vStart n (.holtid src) prof dur

def State.valvesOff (s : State) (mask : Nat) : State := s.vEndAll (bitList 32 mask) State.cancelEnd State.vOff

def State.vlvStatus (s : State) (v : Svc) : List Nat :=
  (bitList 32 (le v.args 0 4)).flatMap (fun n => bytesOf 3 (s.vlvStat n).toNat ++ s.regBytes (R.VLV_DIAG_STAT n) 3)

/-! ### Sheds and runners -/

/-- The first header field of an image that R178 finds wrong, by its offset in the image. -/
def imageField (img : List Nat) : Option Nat :=
  let f := imgField img
  let uw := f 8 2
  let nw := f 0x0A 2
  firstBad [(f 0 4 != 0x314E5A45, 0), (f 4 2 != 1, 4), (uw == 0 || decide (2048 < uw), 8), (nw == 0 || decide (1024 < nw), 0x0A),
    (decide (uw ≤ f 0x0C 2), 0x0C), (decide (uw ≤ f 0x0E 2), 0x0E), (decide (uw ≤ f 0x10 2), 0x10), (f 0x12 2 != 0, 0x12),
    (f 0x1C 4 != 4 * uw + 12 * nw, 0x1C)]

/-- The body in one engine's stores, unused words 0; of a microword's 4 bytes the low 24 bits, of a nanoword's 12 the low 78
stand there (R3, R11). The store is then a ready item for the commit (R45, R178). -/
def State.loadEngine (s : State) (n : Nat) (img : List Nat) : State :=
  let f := imgField img
  let uw := f 8 2
  let nw := f 0x0A 2
  let s1 := s.clearWords (R.UWORD n 0) (R.UWORD (n + 1) 0)
  let s2 := overList (List.range uw) (fun s k => s.wr (R.UWORD n k) (BitVec.ofNat 32 (f (32 + 4 * k) 4 % 2 ^ 24))) s1
  let s3 := overList (List.range nw) (fun s k => overList (List.range 4) (fun s w =>
    s.wr (R.NWORD n k w) (BitVec.ofNat 32 (f (32 + 4 * uw + 12 * k + 3 * w) 3 % 2 ^ (if w = 3 then 6 else 24)))) s) s2
  let s4 := ((s3.setF (F.SHD_ENG_ENTRY_ENTRY n) (f 0x0C 2)).setF (F.SHD_ENG_VEC_IRQ_VEC n) (f 0x0E 2)).setF (F.SHD_ENG_VEC_FAULT_VEC n) (f 0x10 2)
  let s5 := ((s4.setF (F.SHD_ENG_LIMIT_UW_LIMIT n) uw).setF (F.SHD_ENG_LIMIT_NW_LIMIT n) nw).setF (F.SHD_ENG_IMAGE_VER n) (f 0x18 4)
  let s6 := (s5.setF (F.SHD_ENG_IMAGE_KEY n) (f 6 1)).setB (F.SHD_ENG_IMAGE_VALID n) true
  { s6.setEng n { s6.eng n with manger := [] } with ready := addItem (R.SHD_ENG_IMAGE n) s6.ready }

/-- An engine whose stores differ from the body: RESET, no valid image (R178). -/
def State.loadFailed (s : State) (n : Nat) : State :=
  let s1 := { s with ready := s.ready.filter (fun i => i != R.SHD_ENG_IMAGE n) }
  ((s1.setEng n { s1.eng n with st := .reset }).setB (F.SHD_ENG_IMAGE_VALID n) false).log .shdUcodeLoadFail n 0

/-- Steps 4 and 5 of R178, once every named engine stands in LOADING: `img` in the stores, which are read back. -/
def State.ucodeWrite (s : State) (src differs : Nat) (v : Svc) (img : List Nat) : State :=
  let sheds := bitList 16 (le v.args 0 2)
  if sheds.any (fun n => (s.eng n).st != .loading) then s
  else
    let s1 := overList sheds (fun s n => s.loadEngine n img) s
    let bad := sheds.filter (fun n => differs.testBit n)
    if bad.isEmpty then
      s1.setSvc src { v with waiting := true, items := sheds.map R.SHD_ENG_IMAGE, answer := (img.drop 0x14).take 8 }
    else (overList bad State.loadFailed s1).complete src statusHwFault (detailOf .shdUcodeLoadFail) []

/-- Steps 1 to 3 of R178. -/
def State.ucodeCheck (s : State) (src differs : Nat) (v : Svc) : State :=
  let sheds := le v.args 0 2
  let img := s.yardBytes v.pgOff (min v.pgSize 20736)
  let size := 96 + imgField img 0x1C 4
  if (List.range 4).any (fun m => (s.awaiting m 0x500).isSome) then s.complete src statusBusy 0 []
  else if v.pgSize = 0 then s.complete src statusNoSpace 0 []
  else match imageField img with
    | some o => s.complete src statusBadArg o []
    | none =>
      if v.pgSize < size then s.complete src statusNoSpace 0 []
      else if s.fwVer / 65536 < imgField img 7 1 then s.complete src statusVersion 0 []
      else if !s.sigOk (imgField img 6 1) (img.take (size - 64)) ((img.drop (size - 64)).take 64) then
        (s.log .shdUcodeLoadFail ((bitList 16 sheds).headD 0) 0).complete src statusSigFail 0 []
      else
        let s1 := overList (bitList 16 sheds) State.engCall s
        (s1.setSvc src { v with waiting := true, answer := img }).ucodeWrite src differs v img

/-- The load ends because a page of the image has entered QUARANTINE before the stores were written: engines called away stand in
RESET without a valid image (DESIGN CHOICE, log entry 155). -/
def State.ucodeStop (s : State) (src : Nat) (v : Svc) : State :=
  let s1 := overList (bitList 16 (le v.args 0 2)) (fun s n =>
    ((s.engClear n .reset).setEng n { (s.engClear n .reset).eng n with toLoad := false }).setB (F.SHD_ENG_IMAGE_VALID n) false) s
  s1.complete src statusHwFault (detailOf .yrdEcc) []

/-- UCODE_LOAD (R178): its start, which calls the engines into LOADING at their word boundaries, and, while one still runs a
word, the row again. `differs` names the engines whose read-back differs. -/
def State.ucodeLoad (s : State) (src differs : Nat) : State :=
  match s.awaiting src 0x500 with
  | some v => if !v.items.isEmpty then s else if s.hurt src v then s.ucodeStop src v else s.ucodeWrite src differs v v.answer
  | none => s.command src 0x500 (fun s v => s.ucodeCheck src differs v)

/-- The commit of loaded stores: the engines leave LOADING for DONE, whatever RST is (R178; out of FAULT too: DEDUCED, log
entry 137). -/
def State.ucodeCommit (s : State) (items : List Nat) : State :=
  overList ((List.range 16).filter (fun n => items.contains (R.SHD_ENG_IMAGE n))) (fun s n =>
    if (s.eng n).st = .loading then
      (s.setEng n { s.eng n with st := .done, eccSafe := false, upc := s.f (F.SHD_ENG_ENTRY_ENTRY n), ready := s.nextCycle }).setB
        (F.SHD_ENG_CTL_RST n) false
    else s) s

def State.ucodeInfo (s : State) : List Nat :=
  (List.range 16).flatMap (fun n => s.regBytes (R.SHD_ENG_IMAGE n) 3 ++ s.regBytes (R.SHD_ENG_STAT n) 3)

/-- RUN_LOAD. -/
def State.runLoad (s : State) (src : Nat) (v : Svc) : State :=
  let a := v.args
  (overList (List.range (a.getD 2 0)) (fun s i => s.rnProg (a.getD 0 0) (a.getD 1 0 + i) (BitVec.ofNat 32 (le a (4 + 2 * i) 2))) s).complete
    src statusOk 0 []

/-! ### Tether, Yard, power, log -/

def State.tthStatus (s : State) : List Nat :=
  s.regBytes R.TTH_STAT 3 ++ s.regBytes R.TTH_VER 3
    ++ bytesOf 4 ((List.range 32).foldl (fun w i => if s.b (F.TTH_SLOT_STAT_PRESENT i) then setBit w i else w) 0)

/-- TTH_MSG_SEND: the message waits for a copy with a free area, at most 64 beats (R348). -/
def State.msgSend (s : State) (src : Nat) (v : Svc) : State :=
  if !s.inRing then s.complete src statusBadState 0 []
  else if s.msgHeld v then s.complete src statusVersion 0 []
  else s.setSvc src { v with waiting := true, arg := 64 }

/-- TTH_MSG_READ. -/
def State.msgRead (s : State) (src : Nat) : State :=
  match s.tth.msgs with
  | [] => s.complete src statusOk 0 (List.replicate 36 0)
  | x :: xs =>
    let r := [x.src, x.kind, x.data.length, xs.length] ++ bytesOf 3 x.beat ++ [0] ++ x.data ++ List.replicate (28 - x.data.length) 0
    { s with tth := { s.tth with msgs := xs } }.complete src statusOk 0 r

/-- A page that YARD_RETURN leaves: of an enabled ring, named by a command in service, or of the DMA completion queue. -/
def State.keptPage (s : State) (p : Nat) : Bool :=
  (List.range 4).any (fun m =>
    (s.b (F.MBX_CFG_EN m) && decide (s.f (F.MBX_CFG_BASE_PAGE m) ≤ p) && decide (p < s.f (F.MBX_CFG_BASE_PAGE m) + s.mbSlots m))
      || (match (s.mb m).svc with | some v => v.page == p || v.pages.contains p | none => false))
    || (match s.cqPages with | some (b, n) => decide (b ≤ p) && decide (p < b + n) | none => false)

/-- YARD_RETURN. -/
def State.yardReturn (s : State) (src : Nat) (v : Svc) : State :=
  let ps := ((List.range (le v.args 2 2)).map (fun i => le v.args 0 2 + i)).filter (fun p => (s.page p).owner == 2 && !s.keptPage p)
  (overList ps State.handBack s).complete src statusOk 0 (bytesOf 2 ps.length)

/-- PMB_XFER: queued under R247. -/
def State.pmbXfer (s : State) (src : Nat) (v : Svc) : State :=
  if !s.b F.PWR_PMB_CFG_EN then s.complete src statusBadState 0 []
  else (s.setSvc src { v with waiting := true }).pmbQueue (.cmd src) false

/-- LOG_READ: entries of 16 bytes, 16 per page; `bad` are the entries read that prove bad beyond correction (R395). -/
def State.logRead (s : State) (src : Nat) (v : Svc) (bad : List Nat) : State :=
  let from_ := le v.args 0 2
  let count := le v.args 2 2
  if v.pages.length < (count + 15) / 16 then s.complete src statusNoSpace 0 []
  else
    let s := overList (bad.filter (fun e => (e + 2048 - from_) % 2048 < count)) State.logBad s
    let bs := (List.range count).flatMap (fun i => (List.range 4).flatMap (fun w => bytesOf 4 (s.logWord ((from_ + i) % 2048) w).toNat))
    (s.yardPutBytes .core v.pgOff bs).complete src statusOk 0 (bytesOf 2 count ++ bytesOf 2 ((from_ + count) % 2048))

/-! ### Forerunner commands (R349 to R351) -/

/-- FR_CH_CFG: SHADOW is set, then the values are written. -/
def State.frChCfg (s : State) (a : List Nat) : State :=
  let k := a.getD 0 0
  let act := a.getD 9 0
  let s1 := s.stlPlain k R.STL_CFG (setBits (setBits (s.rd (R.STL_CFG k)) 0 2 (a.getD 1 0)) 2 4 (a.getD 2 0))
  let s2 := s1.stlCtl k ((s1.rd (R.STL_CTL k) &&& 1) ||| 4)
  let s3 := ((s2.stlValue k 0 (BitVec.ofNat 32 (le a 3 2))).stlValue k 1 (BitVec.ofNat 32 (le a 5 2))).stlValue k 2 (BitVec.ofNat 32 (le a 7 2))
  s3.stlPlain k R.STL_IO (setBits (s.rd (R.STL_IO k)) 8 8 act)

/-- FR_CH_START and FR_CH_STOP: the sheds in increasing order (R350). -/
def State.frGroups (s : State) (a : List Nat) (f : State → Nat → State) : State :=
  overList (List.range 4) (fun s h => s.stlGroup h (le a (3 * h) 3) f) s

def State.frChRead (s : State) (a : List Nat) : List Nat :=
  let k := a.getD 0 0
  bytesOf 2 (s.rd (R.STL_CNT k)).toNat ++ bytesOf 2 (s.rd (R.STL_CAP k)).toNat ++ [getBits (s.rd (R.STL_FLAGS k)) 0 7]

/-- FR_IRQ_MASK. -/
def State.frIrqMask (s : State) (a : List Nat) : State :=
  overList (List.range 96) (fun s k =>
    if s.stlMirror k then s else s.stlPlain k R.STL_IEN (if (ofBytes a).testBit k then 0x1F else 0)) s

/-! ### The meanings -/

def execMbxServiceStart (m : Fin 4) (s : State) : Host.Outcome State Fault Refusal := .next (s.serviceStart m.val)
def execCmdEcho (src : Fin 4) (s : State) : Host.Outcome State Fault Refusal := .next (s.answer src.val 0x100 (fun _ v => v.args))
def execCmdGetInfo (src : Fin 4) (s : State) : Host.Outcome State Fault Refusal := .next (s.answer src.val 0x101 (fun s _ => s.getInfo))
def execCmdSetMode (src : Fin 4) (s : State) : Host.Outcome State Fault Refusal := .next (s.command src.val 0x102 (fun s v => s.setModeCmd src.val v))
def execCmdSeal (src : Fin 4) (s : State) : Host.Outcome State Fault Refusal := .next (s.command src.val 0x103 (fun s _ => s.sealCmd src.val))
def execCmdReset (src : Fin 4) (straps : BitVec 5) (s : State) : Host.Outcome State Fault Refusal :=
  .next (s.command src.val 0x104 (fun s v => s.resetCmd src.val straps.toNat v))
def execCmdPinOwn (src : Fin 4) (s : State) : Host.Outcome State Fault Refusal :=
  .next (s.shadowCommand src.val 0x105 (fun _ => 1) (fun s v => s.pinOwn src.val v))
def execCmdSelftest (src : Fin 4) (fail : BitVec 9) (s : State) : Host.Outcome State Fault Refusal :=
  .next (s.command src.val 0x106 (fun s v => s.selftest src.val fail.toNat v))
def execCmdCalibrate (src : Fin 4) (s : State) : Host.Outcome State Fault Refusal := .next (s.calibrate src.val)
def execCmdPatchLoad (src : Fin 4) (differs : Bool) (s : State) : Host.Outcome State Fault Refusal :=
  .next (s.command src.val 0x108 (fun s v => s.patchLoad src.val differs v))
def execCmdSleepNotice (src : Fin 4) (s : State) : Host.Outcome State Fault Refusal :=
  .next (s.command src.val 0x110 (fun s v => s.sleepNotice src.val v))
def execCmdWakeNotice (src : Fin 4) (s : State) : Host.Outcome State Fault Refusal :=
  .next (s.command src.val 0x111 (fun s _ => s.wakeNotice src.val))
def execCmdWhlStatus (src : Fin 4) (s : State) : Host.Outcome State Fault Refusal := .next (s.answer src.val 0x200 (fun s v => s.whlStatus v))
def execCmdPatternLoad (src : Fin 4) (s : State) : Host.Outcome State Fault Refusal :=
  .next (s.shadowCommand src.val 0x201 (fun v => le v.args 4 2) (fun s v => s.patternLoad src.val v))
def execCmdLearnSave (src : Fin 4) (s : State) : Host.Outcome State Fault Refusal :=
  .next (s.command src.val 0x202 (fun s v => s.learnSave src.val v))
def execCmdLearnRestore (src : Fin 4) (s : State) : Host.Outcome State Fault Refusal :=
  .next (s.shadowCommand src.val 0x203 (fun _ => 1024) (fun s v => s.learnRestore src.val v))
def execCmdEvtWrite (src : Fin 4) (s : State) : Host.Outcome State Fault Refusal :=
  .next (s.shadowCommand src.val 0x300 (fun v => 4 * le v.args 2 2) (fun s v => s.evtWrite src.val v))
def execCmdEvtStatus (src : Fin 4) (s : State) : Host.Outcome State Fault Refusal := .next (s.answer src.val 0x301 (fun s v => s.evtStatus v))
def execCmdVlvOn (src : Fin 4) (s : State) : Host.Outcome State Fault Refusal :=
  .next (s.command src.val 0x400 (fun s v => s.valveOn src.val (v.args.getD 0 0) (v.args.getD 1 0) (500 * le v.args 4 4) v))
def execCmdVlvOff (src : Fin 4) (s : State) : Host.Outcome State Fault Refusal :=
  .next (s.command src.val 0x401 (fun s v => (s.valvesOff (le v.args 0 4)).complete src.val statusOk 0 []))
def execCmdVlvStatus (src : Fin 4) (s : State) : Host.Outcome State Fault Refusal := .next (s.answer src.val 0x402 (fun s v => s.vlvStatus v))
def execCmdUcodeLoad (src : Fin 4) (differs : BitVec 16) (s : State) : Host.Outcome State Fault Refusal :=
  .next (s.ucodeLoad src.val differs.toNat)
def execCmdUcodeInfo (src : Fin 4) (s : State) : Host.Outcome State Fault Refusal := .next (s.answer src.val 0x501 (fun s _ => s.ucodeInfo))
def execCmdRunLoad (src : Fin 4) (s : State) : Host.Outcome State Fault Refusal :=
  .next (s.command src.val 0x600 (fun s v => s.runLoad src.val v))
def execCmdTthStatus (src : Fin 4) (s : State) : Host.Outcome State Fault Refusal := .next (s.answer src.val 0x700 (fun s _ => s.tthStatus))
def execCmdTthMsgSend (src : Fin 4) (s : State) : Host.Outcome State Fault Refusal :=
  .next (s.command src.val 0x701 (fun s v => s.msgSend src.val v))
def execCmdTthMsgRead (src : Fin 4) (s : State) : Host.Outcome State Fault Refusal :=
  .next (s.command src.val 0x702 (fun s _ => s.msgRead src.val))
def execCmdYardReturn (src : Fin 4) (s : State) : Host.Outcome State Fault Refusal :=
  .next (s.command src.val 0x800 (fun s v => s.yardReturn src.val v))
def execCmdPmbXfer (src : Fin 4) (s : State) : Host.Outcome State Fault Refusal :=
  .next (s.command src.val 0x900 (fun s v => s.pmbXfer src.val v))
def execCmdLogRead (src : Fin 4) (bad : List (Fin 2048)) (s : State) : Host.Outcome State Fault Refusal :=
  .next (s.command src.val 0xA00 (fun s v => s.logRead src.val v (bad.map Fin.val)))
def execCmdLogClear (src : Fin 4) (s : State) : Host.Outcome State Fault Refusal :=
  .next (s.command src.val 0xA01 (fun s _ => s.logClear.complete src.val statusOk 0 []))
def execFrChCfg (src : Fin 5) (s : State) : Host.Outcome State Fault Refusal :=
  .next (s.command src.val 0xF01 (fun s v => (s.frChCfg v.args).complete src.val statusOk 0 []))
def execFrChStart (src : Fin 5) (s : State) : Host.Outcome State Fault Refusal :=
  .next (s.command src.val 0xF02 (fun s v => (s.frGroups v.args State.stlRestart).complete src.val statusOk 0 []))
def execFrChStop (src : Fin 5) (s : State) : Host.Outcome State Fault Refusal :=
  .next (s.command src.val 0xF03 (fun s v => (s.frGroups v.args (fun s k => s.stlRun k false)).complete src.val statusOk 0 []))
def execFrChRead (src : Fin 5) (s : State) : Host.Outcome State Fault Refusal := .next (s.answer src.val 0xF04 (fun s v => s.frChRead v.args))
def execFrValve (src : Fin 5) (s : State) : Host.Outcome State Fault Refusal :=
  .next (s.command src.val 0xF05 (fun s v => s.valveOn src.val (v.args.getD 0 0) (v.args.getD 1 0) (5000 * le v.args 2 2) v))
def execFrIrqMask (src : Fin 5) (s : State) : Host.Outcome State Fault Refusal :=
  .next (s.command src.val 0xF06 (fun s v => (s.frIrqMask v.args).complete src.val statusOk 0 []))

end Sys2Proof.Machine
end

