-- ==== Sys2Proof/Machine/Tick.lean ====
section
/-! DEFINITION. The time base and the beat (R33, R38 to R49, R420): the tick, the phases of a beat, the commit and the
other actions of the boundary tick. -/

namespace Sys2Proof.Machine

open Sys2Proof

/-! ### The tick -/

/-- The counters of one TBCLK edge (R33, R38): the time base, the beat phase, the ticks spent in IDLE. -/
def State.advance (s : State) : State :=
  let t := s.tb
  let wrap := decide (s.P ≤ t.phase + 1)
  { s with setNow := if t.now.getLsbD 0 then [] else s.setNow, stepped := []
           tb := { t with now := t.now + 1, twinNew := 0, phase := if wrap then 0 else t.phase + 1, due := wrap }
           dma := { s.dma with idle := if s.mode = 3 then s.dma.idle + 1 else s.dma.idle } }

/-- What follows from the tick alone: edges on their way reach their balls, the interrupt sources are presented, the engines
begin a word, the serial and parallel targets go on, the DMA engine goes on after IDLE, a RESET command acts. -/
def State.tickWork (s : State) : State :=
  let s1 := (((s.landEdges.irqTick).engTick).bridgeTick).hostSettle.linkTick
  ((((if s1.hostsel = 2 then s1.spiStep else s1).frWake).dmaWake).dmaMarks).softReset

/-- One cycle of the core's clock, which runs on while the time base stands: the interrupt controller and the host interfaces go on (R21,
R375; log entry 150). -/
def State.coreTick (s : State) : State :=
  if s.mode = 0 then s
  else
    let s1 := { s with tb := { s.tb with stood := s.tb.stood + 2 } }
    (((s1.irqTick.bridgeTick).hostSettle).spiStep).frWake

/-- The accesses of the SPI target in a SYSCLK cycle: at its end, after those of the PCI Express endpoint; with the forerunner bus in its
place the cycle begins with them (R331). -/
def State.spiLast (s : State) : State := if s.hostsel ≠ 2 && s.now.getLsbD 0 then s.spiStep else s

/-- TIME_BASE_TICK: not while the boundary tick's actions are still to run. The engines' writes of the tick that ends
are made. -/
def State.tick (s : State) : State :=
  if !s.tb.running then s.coreTick else if s.tb.due then s else s.spiLast.engFlush.advance.tickWork

/-! ### The compute phase (R41, R42) -/

/-- What participant n has to do in this beat, the engines after their start request. -/
def State.hasWork (s : State) (n : Nat) : Bool :=
  if n < 16 then (s.eng n).startHeld && !s.engAway n
  else if n = 16 then decide (2 ≤ s.mode)
  else if n = 17 then s.diagMode && (List.range 32).any (fun k => (s.vlv k).model)
  else if n = 18 then (List.range 32).any (fun k => (s.rn k).st != .halted)
  else (List.range 5).any (fun m => match (s.mb m).svc with | some v => !v.waiting | none => false)

/-- COMPUTE_PHASE_START: tick 200. -/
def State.computeStart (s : State) : State :=
  if !s.tb.running || s.tb.due || s.tb.started || s.tb.phase ≠ 200 || s.mode = 3 then s
  else
    let s1 := { s with tb := { s.tb with started := true } }
    let s2 := if s1.mode < 2 then s1 else overList (List.range 16) State.engStart s1
    let s3 := if (s2.part 17).busy then s2 else s2.coilLatch
    overList (List.range 20) (fun s n => s.partStart n (s.hasWork n)) s3

/-- PARTICIPANT_DONE: an engine by its done signal, where no start request waits for a trap handler to end (R163), Holtid by
itself; the others signal in their own rows. -/
def State.participantDone (s : State) (n : Nat) : State :=
  let engine := s.engAway n || (s.engDone n && !(s.eng n).startHeld)
  if (n < 16 && engine && (s.eng n).out.all (fun o => o.2 != .done)) || n = 19 then s.partDone n else s

/-! ### Commit preparation (R44, R47) -/

/-- The participants that have not signalled done, one bit each. -/
def State.lateParts (s : State) : Nat := ((List.range 20).filter (fun n => (s.part n).busy)).foldl setBit 0

/-- COMMIT_PREPARATION: tick P − 128. -/
def State.prepare (s : State) : State :=
  if !s.tb.running || s.tb.due || s.tb.prepared || s.tb.phase + 128 ≠ s.P || s.mode = 3 then s
  else { s with tb := { s.tb with prepared := true, late := s.lateParts } }.takeStage

/-! ### The boundary tick (R40, R43 to R49) -/

/-- While a stop ramp runs, its program does not commit (R244). -/
def State.holdRamp (s : State) : State :=
  if s.b F.PWR_STAT_RAMP then
    { s with staged := s.staged.filter (fun e => itemOf e.1 != 0x1400), stagedItems := s.stagedItems.filter (fun i => i != 0x1400) }
  else s

/-- What a commit of items does in their blocks: trackers, entries, pin cells, coil tack, sequencer, stop ramp, valves,
supply guard, microcode, and the commands that waited for it. `old` is the state before it. -/
def State.commitEffects (s old : State) (items : List Nat) : State :=
  let s1 := s.trkCommits old items
  let s2 := overList (items.filter (fun i => decide (0x40000 ≤ i) && decide (i < 0x60000))) (fun s i => s.entryCommit ((i - 0x40000) / 16)) s1
  let s3 := overList ((List.range 160).filter (fun p => items.contains (R.TIO_CFG p))) (fun s p => s.pinCommit old p) s2
  let s4 := overList (items.filter (fun i => decide (0x10D000 ≤ i) && decide (i < 0x10E000))) (fun s i => s.coilCommit ((i - 0x10D000) / 128)) s3
  let s5 := if items.contains R.PWR_SEQ_CTL then s4.seqCommit (old.f F.PWR_SEQ_CTL_REQ) else s4
  let s6 := if items.contains 0x1400 then s5.rampCommit else s5
  (((s6.valveCommit).guardSettle).ucodeCommit items).finishCommitted items

/-- The commit: the items of the stage become active together; a rewritten word's check bits are good again. -/
def State.commitAll (s : State) : State :=
  let s1 := s.holdRamp
  let items := s1.stagedItems
  let gone := s1.staged.map (·.1)
  let s2 := s1.commitStage
  { s2 with badWords := s2.badWords.filter (fun a => !gone.contains a) }.commitEffects s items

/-- The new beat opens. -/
def State.openBeat (s : State) : State :=
  { s with once := []
           tb := { s.tb with due := false, started := false, prepared := false, t0 := s.tb.now, beat := s.tb.beat + 1
                             periodUs := s.f F.TB_BEAT_CFG_PERIOD_US } }

/-- The overrun of the beat that ends (R47). -/
def State.overrun (s : State) (late : Nat) : State :=
  let s0 := { s with tb := { s.tb with ovrRun := s.tb.ovrRun + 1 } }
  let s1 := ((s0.setB F.TB_STAT_OVR_LAST true).setB F.TB_STAT_OVR_STICKY true).bump R.TB_OVR_CNT
  let s2 := (s1.setF F.TB_OVR_WHO_LATE late).pulse 227
  (s2.log .sysBeatOverrun wholeDevice late).dropLoads

/-- A boundary without an overrun: staged loads enter, under HOLD too (R108). -/
def State.noOverrun (s : State) : State :=
  let s1 := (s.setB F.TB_STAT_OVR_LAST false).enterLoads
  { s1 with tb := { s1.tb with ovrRun := 0 } }

/-- A boundary skipped by HOLD (R46). -/
def State.holdBoundary (s : State) : State :=
  let s1 := s.bump R.TB_HOLD_CNT
  { s1 with tb := { s1.tb with holdRun := s1.tb.holdRun + 1 } }

/-- Overrun test, commit and loads of a boundary outside IDLE. The thermal decisions of the beat that ends act before the
commit (R218, R222). -/
def State.boundaryCommit (s : State) : State :=
  let late := s.tb.late
  let hold := s.b F.TB_COMMIT_CTL_HOLD
  let s0 := s.coilDecisions
  let s1 := if late ≠ 0 || hold then s0.dropStage else s0.commitAll
  let s2 := if late ≠ 0 then s1.overrun late else s1.noOverrun
  let s3 := if hold then s2.holdBoundary else s2
  { s3 with tb := { s3.tb with late := 0 } }

/-- A boundary in IDLE: no commit, no overrun (R382). It counts neither in TB_HOLD_CNT nor towards the expiry of HOLD (DESIGN
CHOICE, log entry 116). -/
def State.idleBoundary (s : State) : State :=
  let s1 := (s.setB F.TB_STAT_OVR_LAST false).dropStage
  { s1 with tb := { s1.tb with ovrRun := 0, late := 0 } }

/-- The readings of the sense phase (R40). -/
def State.senseReadings (s : State) (r : Readings) : State :=
  let s1 := (((s.setF F.PWR_VCORE_MV (min 65535 r.vcore)).setF F.PWR_VIO_MV (min 65535 r.vio)).setF F.PWR_V33_MV (min 65535 r.v33)).setF
    F.PWR_VGD_MV (min 65535 r.vgd)
  ((s1.setF F.BST_STAT_VBST (min 511 r.vbst)).setF F.BST_VS_VS (min 511 r.vs)).setF F.PWR_VSG_VIN_VIN (min 1023 r.vin)

/-- The commit occasion for the watchdog, and LIVE (R14, R49, R377). -/
def State.kick (s : State) (k : Bool) : State :=
  if s.mode < 2 || s.mode = 3 then s
  else
    let s1 := { s with tb := { s.tb with missed := if k then 0 else s.tb.missed + 1 } }
    if k && s.mode ≠ 6 then { s1 with sys := { s1.sys with live := !s1.sys.live } } else s1

/-- BEAT_BOUNDARY. -/
def State.boundary (s : State) (r : Readings) (k : Bool) : State :=
  if !s.tb.running || !s.tb.due then s
  else
    let s1 := (s.openBeat.freeSlots.pinsSettle).deadPast
    let s2 := if s1.mode = 3 then s1.idleBoundary else s1.boundaryCommit
    let s3 := if s2.mode = 3 then s2 else (overList s1.lostTrks State.trkBoundary s2).policy
    let s4 := ((s3.snapAll).valveSense).senseReadings r
    ((s4.tthBoundary).kick k).pulse 226

/-- OVERRUN_LIMIT (R48): OVR_LIMIT consecutive boundaries have overrun. -/
def State.overrunLimit (s : State) : State :=
  if s.tb.due || s.now ≠ s.tb.t0 || s.mode < 2 || s.mode = 3 || s.mode = 6 then s
  else if s.tb.ovrRun < max 1 (s.f F.TB_BEAT_CFG_OVR_LIMIT) then s
  else (s.log .sysBeatOverrunLimit wholeDevice 0).causeSafe causeOverrun

/-! ### The meanings -/

def execTimeBaseTick (s : State) : Host.Outcome State Fault Refusal := .next s.tick
def execBeatBoundary (readings : Readings) (kick : Bool) (s : State) : Host.Outcome State Fault Refusal := .next (s.boundary readings kick)
def execComputePhaseStart (s : State) : Host.Outcome State Fault Refusal := .next s.computeStart
def execCommitPreparation (s : State) : Host.Outcome State Fault Refusal := .next s.prepare
def execOverrunLimit (s : State) : Host.Outcome State Fault Refusal := .next s.overrunLimit
def execParticipantDone (n : Fin 20) (s : State) : Host.Outcome State Fault Refusal := .next (s.participantDone n.val)

end Sys2Proof.Machine
end

