-- ==== Sys2Proof/Machine/Dispatch.lean ====
section
/-! DEFINITION. The dispatch: one arm per command, each a direct call of the command's meaning. -/

namespace Sys2Proof.Machine

open Sys2Proof

def exec (i : Instr) (s : State) : Host.Outcome State Fault Refusal :=
  match i with
  | .coldReset cause withPin => Sys2Proof.Machine.execColdReset cause withPin s
  | .resetNLow lenNs straps => Sys2Proof.Machine.execResetNLow lenNs straps s
  | .vdd33Good => Sys2Proof.Machine.execVdd33Good s
  | .seqStepDelay straps => Sys2Proof.Machine.execSeqStepDelay straps s
  | .seqRailGood rail => Sys2Proof.Machine.execSeqRailGood rail s
  | .seqRailTimeout => Sys2Proof.Machine.execSeqRailTimeout s
  | .seqRetry => Sys2Proof.Machine.execSeqRetry s
  | .seqOutputDelay => Sys2Proof.Machine.execSeqOutputDelay s
  | .railUndervoltage rail => Sys2Proof.Machine.execRailUndervoltage rail s
  | .railOvervoltage rail => Sys2Proof.Machine.execRailOvervoltage rail s
  | .railWarning rail => Sys2Proof.Machine.execRailWarning rail s
  | .railWarningClear rail => Sys2Proof.Machine.execRailWarningClear rail s
  | .vgdRecovered => Sys2Proof.Machine.execVgdRecovered s
  | .xinLost => Sys2Proof.Machine.execXinLost s
  | .pllUnlock => Sys2Proof.Machine.execPllUnlock s
  | .watchdogExpiry => Sys2Proof.Machine.execWatchdogExpiry s
  | .refclkLost => Sys2Proof.Machine.execRefclkLost s
  | .pfailQualified pin vs held => Sys2Proof.Machine.execPfailQualified pin vs held s
  | .rampStep => Sys2Proof.Machine.execRampStep s
  | .pfailCleared => Sys2Proof.Machine.execPfailCleared s
  | .pmbPollDue k => Sys2Proof.Machine.execPmbPollDue k s
  | .pmbTransactionDone result => Sys2Proof.Machine.execPmbTransactionDone result s
  | .pmbClockTimeout => Sys2Proof.Machine.execPmbClockTimeout s
  | .pmbAlert low => Sys2Proof.Machine.execPmbAlert low s
  | .timeBaseTick => Sys2Proof.Machine.execTimeBaseTick s
  | .beatBoundary readings kick => Sys2Proof.Machine.execBeatBoundary readings kick s
  | .computePhaseStart => Sys2Proof.Machine.execComputePhaseStart s
  | .commitPreparation => Sys2Proof.Machine.execCommitPreparation s
  | .overrunLimit => Sys2Proof.Machine.execOverrunLimit s
  | .participantDone n => Sys2Proof.Machine.execParticipantDone n s
  | .holdExpiry => Sys2Proof.Machine.execHoldExpiry s
  | .tbCommitCtlWrite r v => Sys2Proof.Machine.execTbCommitCtlWrite r v s
  | .tbBeatCfgWrite r v => Sys2Proof.Machine.execTbBeatCfgWrite r v s
  | .tbLoRead r => Sys2Proof.Machine.execTbLoRead r s
  | .tbBeatRead r => Sys2Proof.Machine.execTbBeatRead r s
  | .splitCounterRead r a => Sys2Proof.Machine.execSplitCounterRead r a s
  | .readClearRegister r a => Sys2Proof.Machine.execReadClearRegister r a s
  | .registerWrite r a v be => Sys2Proof.Machine.execRegisterWrite r a v be s
  | .disciplineLocked => Sys2Proof.Machine.execDisciplineLocked s
  | .disciplineHoldover => Sys2Proof.Machine.execDisciplineHoldover s
  | .toothEdge n onB x => Sys2Proof.Machine.execToothEdge n onB x s
  | .pulseTrailingEdge n x => Sys2Proof.Machine.execPulseTrailingEdge n x s
  | .indexEdge n x => Sys2Proof.Machine.execIndexEdge n x s
  | .indexTrailingEdge n x => Sys2Proof.Machine.execIndexTrailingEdge n x s
  | .lawUpdate n bad => Sys2Proof.Machine.execLawUpdate n bad s
  | .ssiSamplePull n bad => Sys2Proof.Machine.execSsiSamplePull n bad s
  | .trackerTick => Sys2Proof.Machine.execTrackerTick s
  | .stopTimeExpiry n => Sys2Proof.Machine.execStopTimeExpiry n s
  | .errMaxReached n => Sys2Proof.Machine.execErrMaxReached n s
  | .idxErrMaxReached n => Sys2Proof.Machine.execIdxErrMaxReached n s
  | .seekRevsExhausted n => Sys2Proof.Machine.execSeekRevsExhausted n s
  | .virtTetherLost n => Sys2Proof.Machine.execVirtTetherLost n s
  | .vrThresholdHalving k => Sys2Proof.Machine.execVrThresholdHalving k s
  | .sensorWindowSample k vP vN => Sys2Proof.Machine.execSensorWindowSample k vP vN s
  | .trackerStall n => Sys2Proof.Machine.execTrackerStall n s
  | .armerScan found => Sys2Proof.Machine.execArmerScan found s
  | .slotCompare => Sys2Proof.Machine.execSlotCompare s
  | .durationEnd sh slot => Sys2Proof.Machine.execDurationEnd sh slot s
  | .capEnd sh slot => Sys2Proof.Machine.execCapEnd sh slot s
  | .evPulseHigh sh slot => Sys2Proof.Machine.execEvPulseHigh sh slot s
  | .evPulseLow sh slot => Sys2Proof.Machine.execEvPulseLow sh slot s
  | .evSet sh slot => Sys2Proof.Machine.execEvSet sh slot s
  | .evClear sh slot => Sys2Proof.Machine.execEvClear sh slot s
  | .evToggle sh slot => Sys2Proof.Machine.execEvToggle sh slot s
  | .evToggle2 sh slot => Sys2Proof.Machine.execEvToggle2 sh slot s
  | .evCapture sh slot => Sys2Proof.Machine.execEvCapture sh slot s
  | .evGate sh slot => Sys2Proof.Machine.execEvGate sh slot s
  | .evRestart sh slot => Sys2Proof.Machine.execEvRestart sh slot s
  | .evHalt sh slot => Sys2Proof.Machine.execEvHalt sh slot s
  | .evDose sh slot => Sys2Proof.Machine.execEvDose sh slot s
  | .evStart sh slot => Sys2Proof.Machine.execEvStart sh slot s
  | .evSignal sh slot => Sys2Proof.Machine.execEvSignal sh slot s
  | .evSignal2 sh slot => Sys2Proof.Machine.execEvSignal2 sh slot s
  | .evStop sh slot => Sys2Proof.Machine.execEvStop sh slot s
  | .evPulse sh slot => Sys2Proof.Machine.execEvPulse sh slot s
  | .evPulse2 sh slot => Sys2Proof.Machine.execEvPulse2 sh slot s
  | .evtTwinInjectWrite r v => Sys2Proof.Machine.execEvtTwinInjectWrite r v s
  | .dllMeasurementDone cell taps => Sys2Proof.Machine.execDllMeasurementDone cell taps s
  | .dllLineSwap cell => Sys2Proof.Machine.execDllLineSwap cell s
  | .stallStep k => Sys2Proof.Machine.execStallStep k s
  | .stallInputEdge k x => Sys2Proof.Machine.execStallInputEdge k x s
  | .stlCtlRestart r k => Sys2Proof.Machine.execStlCtlRestart r k s
  | .stlCtlLoad r k => Sys2Proof.Machine.execStlCtlLoad r k s
  | .stlCtlShadowClear r k => Sys2Proof.Machine.execStlCtlShadowClear r k s
  | .stlPeriodWrite r k which v => Sys2Proof.Machine.execStlPeriodWrite r k which v s
  | .stlCntWrite r k v => Sys2Proof.Machine.execStlCntWrite r k v s
  | .stlCntRead r k => Sys2Proof.Machine.execStlCntRead r k s
  | .stlGo r sh mask => Sys2Proof.Machine.execStlGo r sh mask s
  | .stlHalt r sh mask => Sys2Proof.Machine.execStlHalt r sh mask s
  | .enginePassStart n => Sys2Proof.Machine.execEnginePassStart n s
  | .engineWord n mgrBad trgBad => Sys2Proof.Machine.execEngineWord n mgrBad trgBad s
  | .engineWaitEnd n => Sys2Proof.Machine.execEngineWaitEnd n s
  | .trap n cause => Sys2Proof.Machine.execTrap n cause s
  | .engCtlRst r n b => Sys2Proof.Machine.execEngCtlRst r n b s
  | .engCtlPark r n b => Sys2Proof.Machine.execEngCtlPark r n b s
  | .rnNop n bad => Sys2Proof.Machine.execRnNop n bad s
  | .rnHalt n bad => Sys2Proof.Machine.execRnHalt n bad s
  | .rnIrq n bad => Sys2Proof.Machine.execRnIrq n bad s
  | .rnReq n bad => Sys2Proof.Machine.execRnReq n bad s
  | .rnReqw n bad => Sys2Proof.Machine.execRnReqw n bad s
  | .rnUnreq n bad => Sys2Proof.Machine.execRnUnreq n bad s
  | .rnClrf n bad => Sys2Proof.Machine.execRnClrf n bad s
  | .rnNow n bad => Sys2Proof.Machine.execRnNow n bad s
  | .rnFine n bad => Sys2Proof.Machine.execRnFine n bad s
  | .rnClrsr n bad => Sys2Proof.Machine.execRnClrsr n bad s
  | .rnStamp n bad => Sys2Proof.Machine.execRnStamp n bad s
  | .rnPin n bad => Sys2Proof.Machine.execRnPin n bad s
  | .runnerTimedEdge n => Sys2Proof.Machine.execRunnerTimedEdge n s
  | .rnAddt n bad => Sys2Proof.Machine.execRnAddt n bad s
  | .rnAddd n bad => Sys2Proof.Machine.execRnAddd n bad s
  | .rnWait n bad => Sys2Proof.Machine.execRnWait n bad s
  | .runnerWaitEnd n level trgBad => Sys2Proof.Machine.execRunnerWaitEnd n level trgBad s
  | .rnJmp n level bad => Sys2Proof.Machine.execRnJmp n level bad s
  | .rnLdl n bad => Sys2Proof.Machine.execRnLdl n bad s
  | .rnShift n level bad => Sys2Proof.Machine.execRnShift n level bad s
  | .shiftBit n level => Sys2Proof.Machine.execShiftBit n level s
  | .rnPush n bad => Sys2Proof.Machine.execRnPush n bad s
  | .rnPull n bad trgBad => Sys2Proof.Machine.execRnPull n bad trgBad s
  | .runGo r n => Sys2Proof.Machine.execRunGo r n s
  | .runCtlRestart r n => Sys2Proof.Machine.execRunCtlRestart r n s
  | .runCtlHalt r n => Sys2Proof.Machine.execRunCtlHalt r n s
  | .runCtlPark r n b => Sys2Proof.Machine.execRunCtlPark r n b s
  | .runInject r n v => Sys2Proof.Machine.execRunInject r n v s
  | .runFlagsWrite r n set v => Sys2Proof.Machine.execRunFlagsWrite r n set v s
  | .runProgWrite r n k v => Sys2Proof.Machine.execRunProgWrite r n k v s
  | .runnerServiceCheck bad => Sys2Proof.Machine.execRunnerServiceCheck bad s
  | .valveSenseResult n code => Sys2Proof.Machine.execValveSenseResult n code s
  | .boostGraceExpiry n => Sys2Proof.Machine.execBoostGraceExpiry n s
  | .tBstMaxExpiry n => Sys2Proof.Machine.execTBstMaxExpiry n s
  | .tPeakExpiry n => Sys2Proof.Machine.execTPeakExpiry n s
  | .tMaxExpiry n => Sys2Proof.Machine.execTMaxExpiry n s
  | .tDecayMaxExpiry n => Sys2Proof.Machine.execTDecayMaxExpiry n s
  | .vlvDurationEnd n => Sys2Proof.Machine.execVlvDurationEnd n s
  | .deadTimeEnd b => Sys2Proof.Machine.execDeadTimeEnd b s
  | .boostConverterPulse edge => Sys2Proof.Machine.execBoostConverterPulse edge s
  | .vbstThreshold code => Sys2Proof.Machine.execVbstThreshold code s
  | .valveModel => Sys2Proof.Machine.execValveModel s
  | .vlvUnlock r n => Sys2Proof.Machine.execVlvUnlock r n s
  | .offStateTestStart b => Sys2Proof.Machine.execOffStateTestStart b s
  | .offStatePuEnd b node d0 d1 d2 d3 => Sys2Proof.Machine.execOffStatePuEnd b node d0 d1 d2 d3 s
  | .offStatePdEnd b node d0 d1 d2 d3 => Sys2Proof.Machine.execOffStatePdEnd b node d0 d1 d2 d3 s
  | .overcurrentDetect n => Sys2Proof.Machine.execOvercurrentDetect n s
  | .tOpenExpiry n => Sys2Proof.Machine.execTOpenExpiry n s
  | .flybackCheckEnd n vdrHigh => Sys2Proof.Machine.execFlybackCheckEnd n vdrHigh s
  | .offsetCalibrationDone n => Sys2Proof.Machine.execOffsetCalibrationDone n s
  | .vinQualified aboveVs => Sys2Proof.Machine.execVinQualified aboveVs s
  | .vinFault kind => Sys2Proof.Machine.execVinFault kind s
  | .linkDown p => Sys2Proof.Machine.execLinkDown p s
  | .linkSync p => Sys2Proof.Machine.execLinkSync p s
  | .delayRequest p t1 => Sys2Proof.Machine.execDelayRequest p t1 s
  | .delayResponse p seq turn t4 => Sys2Proof.Machine.execDelayResponse p seq turn t4 s
  | .delayRequestReceived p seq tIn tOut => Sys2Proof.Machine.execDelayRequestReceived p seq tIn tOut s
  | .frameOriginate lag => Sys2Proof.Machine.execFrameOriginate lag s
  | .frameReceived p f r so => Sys2Proof.Machine.execFrameReceived p f r so s
  | .frameLostBeat => Sys2Proof.Machine.execFrameLostBeat s
  | .originationStart => Sys2Proof.Machine.execOriginationStart s
  | .ringVerRise => Sys2Proof.Machine.execRingVerRise s
  | .gateCopyReceived f r => Sys2Proof.Machine.execGateCopyReceived f r s
  | .tthCtlJoin r => Sys2Proof.Machine.execTthCtlJoin r s
  | .tthCtlEn r b => Sys2Proof.Machine.execTthCtlEn r b s
  | .yrdOwnWrite r p v still => Sys2Proof.Machine.execYrdOwnWrite r p v still s
  | .yardDataWrite r off v be => Sys2Proof.Machine.execYardDataWrite r off v be s
  | .scrubberVisit a e => Sys2Proof.Machine.execScrubberVisit a e s
  | .troughPush r q v => Sys2Proof.Machine.execTroughPush r q v s
  | .troughPull r q bad => Sys2Proof.Machine.execTroughPull r q bad s
  | .troughWaitServed q push bad => Sys2Proof.Machine.execTroughWaitServed q push bad s
  | .troughHostWaitExpiry q push => Sys2Proof.Machine.execTroughHostWaitExpiry q push s
  | .troughPointerCrossing q rel => Sys2Proof.Machine.execTroughPointerCrossing q rel s
  | .trgPeekRead r q bad => Sys2Proof.Machine.execTrgPeekRead r q bad s
  | .trgRelWrite r q v => Sys2Proof.Machine.execTrgRelWrite r q v s
  | .trgCtlEn r q b => Sys2Proof.Machine.execTrgCtlEn r q b s
  | .trgFlush r q => Sys2Proof.Machine.execTrgFlush r q s
  | .trgMark r q => Sys2Proof.Machine.execTrgMark r q s
  | .trgRewind r q => Sys2Proof.Machine.execTrgRewind r q s
  | .dmaStart r n => Sys2Proof.Machine.execDmaStart r n s
  | .dmaStop r n => Sys2Proof.Machine.execDmaStop r n s
  | .dmaDisable r n => Sys2Proof.Machine.execDmaDisable r n s
  | .descriptorFetched n back => Sys2Proof.Machine.execDescriptorFetched n back s
  | .burstGrant => Sys2Proof.Machine.execBurstGrant s
  | .dmaReadReturn n k back => Sys2Proof.Machine.execDmaReadReturn n k back s
  | .dmaWrite parityBad still => Sys2Proof.Machine.execDmaWrite parityBad still s
  | .dmaAccessTimeout n => Sys2Proof.Machine.execDmaAccessTimeout n s
  | .dmaRecordWrite n => Sys2Proof.Machine.execDmaRecordWrite n s
  | .dmaDrainDone n => Sys2Proof.Machine.execDmaDrainDone n s
  | .dmaCqTailWrite r v => Sys2Proof.Machine.execDmaCqTailWrite r v s
  | .dmaCqCfgEn r v => Sys2Proof.Machine.execDmaCqCfgEn r v s
  | .pcieEndpointReset linkDown => Sys2Proof.Machine.execPcieEndpointReset linkDown s
  | .pcieDStateChange d3hot => Sys2Proof.Machine.execPcieDStateChange d3hot s
  | .spiWrite a ws gap => Sys2Proof.Machine.execSpiWrite a ws gap s
  | .spiWriteFixed a ws gap => Sys2Proof.Machine.execSpiWriteFixed a ws gap s
  | .spiRead a count gap => Sys2Proof.Machine.execSpiRead a count gap s
  | .spiReadFixed a count gap => Sys2Proof.Machine.execSpiReadFixed a count gap s
  | .qread a count gap => Sys2Proof.Machine.execQread a count gap s
  | .qreadFixed a count gap => Sys2Proof.Machine.execQreadFixed a count gap s
  | .spiStatus => Sys2Proof.Machine.execSpiStatus s
  | .spiCsRise partialWord => Sys2Proof.Machine.execSpiCsRise partialWord s
  | .frImageAccess w write v => Sys2Proof.Machine.execFrImageAccess w write v s
  | .frAccessTimeout w write => Sys2Proof.Machine.execFrAccessTimeout w write s
  | .frWinDataLoRead => Sys2Proof.Machine.execFrWinDataLoRead s
  | .frWinDataLoWrite v => Sys2Proof.Machine.execFrWinDataLoWrite v s
  | .frWinDataHiWrite v => Sys2Proof.Machine.execFrWinDataHiWrite v s
  | .frWinAddrWrite hi v => Sys2Proof.Machine.execFrWinAddrWrite hi v s
  | .frWindowCommand v => Sys2Proof.Machine.execFrWindowCommand v s
  | .mbxDoorbell r m v => Sys2Proof.Machine.execMbxDoorbell r m v s
  | .mbxCfgWrite r m v => Sys2Proof.Machine.execMbxCfgWrite r m v s
  | .mbxServiceStart m => Sys2Proof.Machine.execMbxServiceStart m s
  | .mbxNotHanded m => Sys2Proof.Machine.execMbxNotHanded m s
  | .cmdEcho src => Sys2Proof.Machine.execCmdEcho src s
  | .cmdGetInfo src => Sys2Proof.Machine.execCmdGetInfo src s
  | .cmdSetMode src => Sys2Proof.Machine.execCmdSetMode src s
  | .modeTransition => Sys2Proof.Machine.execModeTransition s
  | .cmdSeal src => Sys2Proof.Machine.execCmdSeal src s
  | .cmdReset src straps => Sys2Proof.Machine.execCmdReset src straps s
  | .cmdPinOwn src => Sys2Proof.Machine.execCmdPinOwn src s
  | .cmdSelftest src fail => Sys2Proof.Machine.execCmdSelftest src fail s
  | .cmdCalibrate src => Sys2Proof.Machine.execCmdCalibrate src s
  | .cmdPatchLoad src differs => Sys2Proof.Machine.execCmdPatchLoad src differs s
  | .cmdSleepNotice src => Sys2Proof.Machine.execCmdSleepNotice src s
  | .cmdWakeNotice src => Sys2Proof.Machine.execCmdWakeNotice src s
  | .cmdWhlStatus src => Sys2Proof.Machine.execCmdWhlStatus src s
  | .cmdPatternLoad src => Sys2Proof.Machine.execCmdPatternLoad src s
  | .cmdLearnSave src => Sys2Proof.Machine.execCmdLearnSave src s
  | .cmdLearnRestore src => Sys2Proof.Machine.execCmdLearnRestore src s
  | .cmdEvtWrite src => Sys2Proof.Machine.execCmdEvtWrite src s
  | .cmdEvtStatus src => Sys2Proof.Machine.execCmdEvtStatus src s
  | .cmdVlvOn src => Sys2Proof.Machine.execCmdVlvOn src s
  | .cmdVlvOff src => Sys2Proof.Machine.execCmdVlvOff src s
  | .cmdVlvStatus src => Sys2Proof.Machine.execCmdVlvStatus src s
  | .cmdUcodeLoad src differs => Sys2Proof.Machine.execCmdUcodeLoad src differs s
  | .cmdUcodeInfo src => Sys2Proof.Machine.execCmdUcodeInfo src s
  | .cmdRunLoad src => Sys2Proof.Machine.execCmdRunLoad src s
  | .cmdTthStatus src => Sys2Proof.Machine.execCmdTthStatus src s
  | .cmdTthMsgSend src => Sys2Proof.Machine.execCmdTthMsgSend src s
  | .cmdTthMsgRead src => Sys2Proof.Machine.execCmdTthMsgRead src s
  | .cmdYardReturn src => Sys2Proof.Machine.execCmdYardReturn src s
  | .cmdPmbXfer src => Sys2Proof.Machine.execCmdPmbXfer src s
  | .cmdLogRead src bad => Sys2Proof.Machine.execCmdLogRead src bad s
  | .cmdLogClear src => Sys2Proof.Machine.execCmdLogClear src s
  | .frChCfg src => Sys2Proof.Machine.execFrChCfg src s
  | .frChStart src => Sys2Proof.Machine.execFrChStart src s
  | .frChStop src => Sys2Proof.Machine.execFrChStop src s
  | .frChRead src => Sys2Proof.Machine.execFrChRead src s
  | .frValve src => Sys2Proof.Machine.execFrValve src s
  | .frIrqMask src => Sys2Proof.Machine.execFrIrqMask src s
  | .moderationTimeExpiry c => Sys2Proof.Machine.execModerationTimeExpiry c s
  | .irqSourceEvent g l => Sys2Proof.Machine.execIrqSourceEvent g l s
  | .irqCoreClaimRead r => Sys2Proof.Machine.execIrqCoreClaimRead r s
  | .irqCoreEoiWrite r v => Sys2Proof.Machine.execIrqCoreEoiWrite r v s
  | .irqHostEoiWrite r line v => Sys2Proof.Machine.execIrqHostEoiWrite r line v s
  | .irqPendSetWrite r w v => Sys2Proof.Machine.execIrqPendSetWrite r w v s
  | .irqPendClrWrite r w v => Sys2Proof.Machine.execIrqPendClrWrite r w v s
  | .irqMaskSetWrite r w v => Sys2Proof.Machine.execIrqMaskSetWrite r w v s
  | .irqMaskClrWrite r w v => Sys2Proof.Machine.execIrqMaskClrWrite r w v s
  | .irqSrcCfgWrite r g v => Sys2Proof.Machine.execIrqSrcCfgWrite r g v s
  | .irqFallback g => Sys2Proof.Machine.execIrqFallback g s
  | .bootStep stage => Sys2Proof.Machine.execBootStep stage s
  | .bootComplete us => Sys2Proof.Machine.execBootComplete us s
  | .logEntryWrite => Sys2Proof.Machine.execLogEntryWrite s
  | .logSelWrite r v bad => Sys2Proof.Machine.execLogSelWrite r v bad s
  | .tapInstruction k resetLow cells => Sys2Proof.Machine.execTapInstruction k resetLow cells s
  | .xinRestored => Sys2Proof.Machine.execXinRestored s
  | .pcieRefclkRestored => Sys2Proof.Machine.execPcieRefclkRestored s
  | .pcieLinkUp speed width => Sys2Proof.Machine.execPcieLinkUp speed width s
  | .pcieConfigWrite x => Sys2Proof.Machine.execPcieConfigWrite x s
  | .pfailWarningReleased => Sys2Proof.Machine.execPfailWarningReleased s
  | .vinRecovered kind => Sys2Proof.Machine.execVinRecovered kind s
  | .holtidMemoryEcc patchArea => Sys2Proof.Machine.execHoltidMemoryEcc patchArea s
  | .yardDataRead r off e => Sys2Proof.Machine.execYardDataRead r off e s
  | .evtShadowRead r e w ecc => Sys2Proof.Machine.execEvtShadowRead r e w ecc s

end Sys2Proof.Machine
end

