-- ==== Sys2Proof/Safety.lean ====
section
/-! DEFINITION. What a sound state of the block is, in the terms claims use: every table in its canonical form, and every
queue of the spec within the depth the spec gives it. -/

namespace Sys2Proof.Machine

open Sys2Proof

/-- Every table of the state is in canonical form: keys rising, nothing listed that an unlisted key reads as. -/
abbrev State.Canonical (s : State) : Prop :=
  Sparse.wf regReset s.regs = true ∧ Sparse.wf (fun _ => (0 : Word)) s.snaps = true
  ∧ Sparse.wf (fun _ => (0 : Word)) s.lastRead = true ∧ Sparse.wf (fun _ => ({} : Tracker)) s.trk = true
  ∧ Sparse.wf (fun _ => ({} : Tracker)) s.trkUndo = true ∧ Sparse.wf (fun _ => ({} : Sensor)) s.sns = true
  ∧ Sparse.wf (fun _ => ({} : Snap)) s.snap = true ∧ Sparse.wf (fun _ => ({} : EntrySt)) s.entries = true
  ∧ Sparse.wf (fun _ => ({} : TrkEv)) s.tev = true ∧ Sparse.wf (fun _ => ({} : Slot)) s.slots = true
  ∧ Sparse.wf (fun _ => ({} : Pin)) s.pins = true ∧ Sparse.wf (fun _ => ({} : Stall)) s.stalls = true
  ∧ Sparse.wf (fun _ => ({} : Irq)) s.irq = true ∧ Sparse.wf (fun _ => ({} : Part)) s.parts = true
  ∧ Sparse.wf (fun _ => ({} : TrgWord)) s.pool = true ∧ Sparse.wf (fun _ => ({} : Trough)) s.trg = true
  ∧ Sparse.wf (fun _ => ({} : Page)) s.pages = true ∧ Sparse.wf (fun _ => ({} : Eng)) s.engs = true
  ∧ Sparse.wf (fun _ => ({} : Runner)) s.rns = true ∧ Sparse.wf (fun _ => ({} : Valve)) s.valves = true
  ∧ Sparse.wf (fun _ => ({} : Bank)) s.banks = true ∧ Sparse.wf (fun _ => ({} : Port)) s.ports = true
  ∧ Sparse.wf (fun _ => ({} : Mbx)) s.mbx = true ∧ Sparse.wf (fun _ => ({} : Hold)) s.holds = true
  ∧ Sparse.wf (fun _ => ({} : DmaChan)) s.chans = true ∧ Sparse.wf (fun _ => (0 : Word)) s.logW = true

/-- The queues of the spec within their depths: at most 32 reports wait for the logger (R391), at most 16 Tether
messages wait to be read (R348), at most 8 words of an SPI write wait behind one that waits (R284). -/
abbrev State.Bounded (s : State) : Prop :=
  s.logQ.length ≤ 32 ∧ s.tth.msgs.length ≤ 16 ∧ s.spi.held.length ≤ 8

/-- A requester's accesses reach the registers: its interface is there, and no access of its own waits at a trough or in the
bridge (R315, R326, R330). -/
abbrev State.readsReach (s : State) (r : Requester) : Prop := s.linked r = true ∧ s.heldBack r = false

/-- A requester's accesses reach the registers, and it may write in the present mode (R315). -/
abbrev State.writesReach (s : State) (r : Requester) : Prop := s.linked r = true ∧ s.heldBack r = false ∧ s.mayWrite r = true

/-- Runner `n` may issue in this tick, the word it issues is the instruction `op`, and its word is good: stored good, and
fetched good where `bad` says so (R181, R192, R194). -/
abbrev State.issues (s : State) (n : Nat) (op : RnOp) (bad : Bool) : Prop :=
  s.rnMay n = true ∧ ((s.rn n).injPend = true ∨ (bad = false ∧ (s.rn n).badProg.contains (s.rn n).pc = false)) ∧ rnOp (s.rnWord n) = op

/-- The state in which the runner holds the word it issues (R181, R192). -/
def State.issued (s : State) (n : Nat) : State :=
  s.setRn n { s.rn n with ir := s.rnWord n, irValid := true, irInj := (s.rn n).injPend, injPend := false
                          once := (s.rn n).st == .halted, pc := if (s.rn n).injPend then (s.rn n).pc else ((s.rn n).pc + 1) % 128 }

/-- From `s` to `t` runner `n` has completed the instruction it issued: its next word comes 2 ticks later, or it is back in
HALTED after an injection; no other runner has changed (R181, R192). -/
abbrev State.ranOn (s t : State) (n : Nat) : Prop :=
  (t.rn n).st = (if (s.rn n).st = .halted then .halted else .run) ∧ (t.rn n).due = s.now + 2
  ∧ (t.rn n).pc = (if (s.rn n).injPend then (s.rn n).pc else ((s.rn n).pc + 1) % 128) ∧ (t.rn n).injPend = false
  ∧ ∀ m, m ≠ n → t.rn m = s.rn m

/-- The pointers of trough `q` are in order: counted from REL, R and a valid mark are not beyond W, and W is not beyond SIZE;
the copies that have crossed at a host-facing trough lag behind their pointers and never show too much (R280, R282, R287). -/
abbrev State.TroughInOrder (s : State) (q : Nat) : Prop :=
  let t := s.tq q
  let m := s.trgMod q
  let d := fun p => pdiff m p t.rel
  t.w < m ∧ t.r < m ∧ t.rel < m ∧ t.mark < m ∧ t.wSeen < m ∧ t.relSeen < m
  ∧ d t.r ≤ d t.w ∧ d t.w ≤ s.trgSize q ∧ (t.markOk = true → d t.mark ≤ d t.w)
  ∧ (hostFacing q = true → d t.r ≤ d t.wSeen ∧ d t.wSeen ≤ d t.w ∧ (t.markOk = true → d t.mark ≤ d t.wSeen)
    ∧ d t.w ≤ pdiff m t.w t.relSeen ∧ pdiff m t.w t.relSeen ≤ s.trgSize q)

/-- The DMA engine runs, no burst is being issued, channel `n` is neither stopped nor disabled, and no other channel is in
use (R299, R301, R310). -/
abbrev State.DmaAlone (s : State) (n : Nat) : Prop :=
  s.dmaRuns = true ∧ s.dma.burst = none ∧ s.b (F.DMA_CTL_STOP n) = false ∧ s.b (F.DMA_CTL_DISABLE n) = false
  ∧ s.dmaFlying < 128 ∧ ∀ m, m ≠ n → s.ch m = {}

/-- Channel `n` works on the one descriptor `j`, the last of its chain so far: no error, no record and no fetch waits. -/
abbrev State.DmaOnly (s : State) (n : Nat) (j : DmaJob) : Prop :=
  (s.ch n).on = true ∧ (s.ch n).jobs = [j] ∧ (s.ch n).next = none ∧ (s.ch n).fetchAt = none ∧ (s.ch n).records = []
  ∧ j.fault = none

/-- Mailbox (or image window) `src` has a command of the opcode in service, not yet executed, and neither its slot's page nor
one of its PG field is in QUARANTINE (R277, R341). -/
abbrev State.serves (s : State) (src op : Nat) (v : Svc) : Prop := s.serving src op = some v ∧ s.hurt src v = false

/-- A sound state. -/
abbrev State.Sound (s : State) : Prop := s.Canonical ∧ s.Bounded

end Sys2Proof.Machine
end

