-- ==== Sys2Proof/WellFormed.lean ====
section
/-! DEFINITION. Which commands can come from outside: what their operands must satisfy beyond their types. A meaning is
given to every command; an ill-formed one is a fact that the spec says cannot be. -/

namespace Sys2Proof

/-- The readings of the sense phase fit the registers that take them: rails in mV in 16 bits, VBST and VS in 9 bits, VIN in
10 bits (R40). -/
def Readings.wf (r : Readings) : Bool :=
  decide (r.vcore < 2 ^ 16) && decide (r.vio < 2 ^ 16) && decide (r.v33 < 2 ^ 16) && decide (r.vgd < 2 ^ 16)
    && decide (r.vbst < 2 ^ 9) && decide (r.vs < 2 ^ 9) && decide (r.vin < 2 ^ 10)

/-- A PMBus read brings at most 32 bytes (R247, R345). -/
def PmbResult.wf : PmbResult → Bool
  | .ok data => decide (data.length ≤ 32)
  | .nack => true
  | .pecBad => true

/-- The sizes of Table 15.2. -/
def PcieConfig.wf : PcieConfig → Bool
  | .maxPayload n => n == 128 || n == 256
  | .maxRead n => n == 128 || n == 256 || n == 512
  | .busMaster _ => true
  | .msix _ _ => true
  | .pmeEnable _ => true
  | .bar _ _ => true
  | .aspmL1 _ => true
  | .ecrc _ _ => true

/-- A completion from host memory brings at most one read request of 512 bytes (Table 15.2). -/
def DmaReturn.wf : DmaReturn → Bool
  | .host data => decide (0 < data.length) && decide (data.length ≤ 512)
  | .own _ => true
  | .hostErr => true

/-- A Tether frame in bytes (R256). -/
def frameBytes : Nat := 644

/-- The commands that can come from outside. -/
def Instr.wf : Instr → Bool
  | .beatBoundary r _ => r.wf
  | .pmbTransactionDone x => x.wf
  | .registerWrite _ _ _ be => be != 0
  | .yardDataWrite _ _ _ be => be != 0
  | .runnerServiceCheck bad => decide bad.Nodup
  | .lawUpdate _ bad => decide bad.Nodup
  | .armerScan found => decide (found.map (·.1)).Nodup
  | .cmdLogRead _ bad => decide bad.Nodup
  | .frameReceived _ f _ _ => f.length == frameBytes
  | .gateCopyReceived f _ => f.length == frameBytes
  | .descriptorFetched _ back => back.wf
  | .dmaReadReturn _ _ back => back.wf
  | .pcieLinkUp speed width => speed != 0 && width != 0
  | .pcieConfigWrite x => x.wf
  | .tapInstruction _ _ cells => decide (cells.length ≤ 160)
  | _ => true

end Sys2Proof
end

