-- ==== Sys2Proof/Certificates/Slice0/Obligations.lean ====
section
/-! DEFINITION. The statements about the model, for the provers. -/

open Sys2Proof Sys2Proof.Machine

/-- A step runs the command at the front of the queue, on the state with the queue's rest. The form of a step is the model's (log entry 1). -/
def Obligations.StepRunsTheFrontCommand : Prop :=
  ∀ (c : Instr) (rest : List Instr) (s : State),
    step { s with pending := c :: rest } = exec c { s with pending := rest }

/-- On an empty queue the block idles. This is the model's choice (log entry 1): time passes by TIME_BASE_TICK alone. -/
def Obligations.AnEmptyQueueIdles : Prop :=
  ∀ s : State, s.pending = [] → step s = .next s

/-- The invariant of EveryStepKeepsTheStateSound holds at reset. -/
def Obligations.ResetStateIsSound : Prop :=
  State.reset.Sound ∧ State.reset.pending = []

/-- The invariant that every step keeps, whatever command is at the front: the tables stay canonical, so that equal memories are equal data, and no queue outgrows the depth the spec gives it (R391: 32 reports; R348: 16 messages; R323: 8 held words). -/
def Obligations.EveryStepKeepsTheStateSound : Prop :=
  ∀ s t : State, s.Sound → step s = .next t → t.Sound

/-- No command stops the block: each has a next state, and its queue is the one it was given. -/
def Obligations.EveryCommandActsAndLeavesTheQueue : Prop :=
  ∀ (c : Instr) (s : State), s.Sound → ∃ t, exec c s = .next t ∧ t.pending = s.pending

/-- TIME_BASE_TICK (R33, R38). That the core's clock runs on while the time base stands is the model's choice (log entry 150). That a tick waits for the boundary actions of the tick before it is the model's order of commands (log entry 10). -/
def Obligations.TimeBaseTickCountsOneTick : Prop :=
  (∀ s : State, s.tb.running = true → s.tb.due = false →
    exec .timeBaseTick s = .next (let e := s.spiLast.engFlush
      State.tickWork { e with
        setNow := if e.tb.now.getLsbD 0 then [] else e.setNow
        stepped := []
        tb := { e.tb with now := e.tb.now + 1
                          twinNew := 0
                          phase := if 500 * e.tb.periodUs ≤ e.tb.phase + 1 then 0 else e.tb.phase + 1
                          due := decide (500 * e.tb.periodUs ≤ e.tb.phase + 1) }
        dma := { e.dma with idle := if e.mode = 3 then e.dma.idle + 1 else e.dma.idle } }))
  ∧ (∀ s : State, s.tb.running = true → s.tb.due = true → exec .timeBaseTick s = .next s)
  ∧ ∀ s : State, s.tb.running = false →
    (s.mode = 0 → exec .timeBaseTick s = .next s)
    ∧ (s.mode ≠ 0 → exec .timeBaseTick s = .next (State.frWake (State.spiStep (State.hostSettle (State.bridgeTick (State.irqTick
        { s with tb := { s.tb with stood := s.tb.stood + 2 } }))))))

/-- COMMIT_PREPARATION (R44, R47) and COMPUTE_PHASE_START (R41, R42). -/
def Obligations.CommitPreparationTakesReadyItems : Prop :=
  (∀ s : State, s.tb.running = true → s.tb.due = false → s.tb.prepared = false → s.tb.phase + 128 = s.P → s.mode ≠ 3 →
    exec .commitPreparation s = .next { s with
      tb := { s.tb with prepared := true, late := s.lateParts }
      staged := s.shadow.filter (fun e => s.ready.contains (itemOf e.1))
      stagedItems := s.ready
      touched := [] })
  ∧ ∀ s : State, s.tb.running = true → s.tb.due = false → s.tb.started = false → s.tb.phase = 200 → 2 ≤ s.mode → s.mode ≠ 3 →
    exec .computePhaseStart s = .next (
      let a := overList (List.range 16) State.engStart { s with tb := { s.tb with started := true } }
      overList (List.range 20) (fun x n => x.partStart n (x.hasWork n)) (if (a.part 17).busy then a else a.coilLatch))

/-- The commit (R43, R44): all staged words become active together, and nothing else does. -/
def Obligations.CommitMakesStagedWordsActive : Prop :=
  ∀ s : State, Sparse.rising s.staged = true →
    (∀ a, s.commitStage.rd a = Sparse.get (fun b => s.rd b) (s.staged.map (fun e => (e.1, s.liveWord e.1 e.2))) a)
    ∧ s.commitStage.staged = [] ∧ s.commitStage.stagedItems = []
    ∧ s.commitStage.shadow = s.shadow.filter (fun e => !s.stagedItems.contains (itemOf e.1) || s.touched.contains (itemOf e.1))

/-- Writing a word of a shadowed item (R43, R44). -/
def Obligations.ShadowWritesActAtCommitOnly : Prop :=
  ∀ (s : State) (a : Nat) (w : Word),
    (∀ b, (s.shadowWr a w).rd b = s.rd b)
    ∧ (Sparse.rising s.shadow = true → (s.shadowWr a w).shadowRd a = s.liveWord a w ∧ ∀ b, b ≠ a → (s.shadowWr a w).shadowRd b = s.shadowRd b)
    ∧ (itemOf a ∈ (s.shadowWr a w).ready ↔ a = lastWord (itemOf a))
    ∧ (∀ i, i ≠ itemOf a → (i ∈ (s.shadowWr a w).ready ↔ i ∈ s.ready))
    ∧ (s.shadowWr a w).staged = s.staged

/-- BEAT_BOUNDARY (R38 to R49, R53): `boundaryCommit` is the thermal decisions, the overrun test, the commit and the slot loads. -/
def Obligations.BoundaryOpensTheBeat : Prop :=
  ∀ (r : Readings) (k : Bool) (s : State), s.tb.running = true → s.tb.due = true → s.mode ≠ 3 →
    (s.openBeat.freeSlots.pinsSettle.deadPast.boundaryCommit).mode ≠ 3 →
    exec (.beatBoundary r k) s = .next (State.pulse (State.kick (State.tthBoundary (State.senseReadings (State.valveSense
      (State.snapAll (let o := { s with
          once := []
          tb := { s.tb with due := false, started := false, prepared := false, t0 := s.tb.now, beat := s.tb.beat + 1
                            periodUs := s.f F.TB_BEAT_CFG_PERIOD_US } }.freeSlots.pinsSettle.deadPast
        (overList o.lostTrks State.trkBoundary o.boundaryCommit).policy))) r)) k) 226)

/-- Skipped commits (R44, R46, R47): `dropStage` is the commit that is skipped, `overrun` the overrun's own effects, `holdBoundary` the held boundary's. -/
def Obligations.HoldAndOverrunSkipTheCommit : Prop :=
  (∀ s : State, s.dropStage.shadow = s.shadow ∧ s.dropStage.ready = s.ready ∧ s.dropStage.staged = []
    ∧ ∀ a, s.dropStage.rd a = s.rd a)
  ∧ (∀ (s : State) (late : Nat), late < 2 ^ 20 →
      (s.overrun late).b F.TB_STAT_OVR_LAST = true ∧ (s.overrun late).b F.TB_STAT_OVR_STICKY = true
      ∧ (s.overrun late).f F.TB_OVR_WHO_LATE = late
      ∧ (s.overrun late).rd R.TB_OVR_CNT = BitVec.ofNat 32 (min ((s.rd R.TB_OVR_CNT).toNat % 2 ^ 24 + 1) 0xFFFFFF)
      ∧ (s.overrun late).tb.ovrRun = s.tb.ovrRun + 1
      ∧ (s.overrun late).shadow = s.shadow ∧ (s.overrun late).ready = s.ready
      ∧ ∀ a, a ≠ R.TB_STAT → a ≠ R.TB_OVR_WHO → a ≠ R.TB_OVR_CNT → a ≠ R.LOG_LOST → (s.overrun late).rd a = s.rd a)
  ∧ ∀ s : State,
      s.holdBoundary.rd R.TB_HOLD_CNT = BitVec.ofNat 32 (min ((s.rd R.TB_HOLD_CNT).toNat % 2 ^ 24 + 1) 0xFFFFFF)
      ∧ s.holdBoundary.tb.holdRun = s.tb.holdRun + 1
      ∧ ∀ a, a ≠ R.TB_HOLD_CNT → s.holdBoundary.rd a = s.rd a

/-- The registers of the time base (R35 to R39), HOLD's expiry (R46), a done signal (R420) and the overrun limit (R48). -/
def Obligations.TimeBaseRegistersAct : Prop :=
  (∀ (r : Requester) (v : Word) (s : State), s.writesReach r →
    ∃ t, exec (.tbCommitCtlWrite r v) s = .next t ∧ t.b F.TB_COMMIT_CTL_HOLD = v.getLsbD 0
      ∧ t.tb.holdRun = (if v.getLsbD 0 then s.tb.holdRun else 0)
      ∧ ∀ a, a ≠ R.TB_COMMIT_CTL → t.rd a = s.rd a)
  ∧ (∀ (r : Requester) (v : Word) (s : State), s.writesReach r → s.mode = 2 → s.sealed = false →
    s.inRing = false → 4 ≤ getBits v 0 7 → getBits v 0 7 ≤ 64 →
    ∃ t, exec (.tbBeatCfgWrite r v) s = .next t ∧ t.f F.TB_BEAT_CFG_PERIOD_US = getBits v 0 7
      ∧ t.f F.TB_BEAT_CFG_OVR_LIMIT = getBits v 8 8 ∧ t.tb = s.tb
      ∧ ∀ a, a ≠ R.TB_BEAT_CFG → t.rd a = s.rd a)
  ∧ (∀ (r : Requester) (v : Word) (s : State), s.writesReach r → s.sealed = false →
    s.inRing = true ∨ getBits v 0 7 < 4 ∨ 64 < getBits v 0 7 →
    ∃ t, exec (.tbBeatCfgWrite r v) s = .next t ∧ t.b F.TB_STAT_CFG_ERR = true
      ∧ t.f F.TB_BEAT_CFG_PERIOD_US = s.f F.TB_BEAT_CFG_PERIOD_US ∧ t.f F.TB_BEAT_CFG_OVR_LIMIT = getBits v 8 8)
  ∧ (∀ (r : Requester) (s : State), s.readsReach r →
    ∃ t, exec (.tbLoRead r) s = .next t
      ∧ t.snapRd r R.TB_HI_SNAP = BitVec.ofNat 32 (s.tb.now.toNat / 2 ^ 24)
      ∧ Sparse.get (fun _ => 0) t.lastRead (reqIdx r) = BitVec.ofNat 32 (s.tb.now.toNat % 2 ^ 24)
      ∧ ∀ a, t.rd a = s.rd a)
  ∧ (∀ (r : Requester) (s : State), s.readsReach r →
    ∃ t, exec (.tbBeatRead r) s = .next t
      ∧ t.snapRd r R.TB_BEAT_T0_LO_SNAP = BitVec.ofNat 32 (s.tb.t0.toNat % 2 ^ 24)
      ∧ t.snapRd r R.TB_BEAT_T0_HI_SNAP = BitVec.ofNat 32 (s.tb.t0.toNat / 2 ^ 24)
      ∧ Sparse.get (fun _ => 0) t.lastRead (reqIdx r) = BitVec.ofNat 32 s.tb.beat.toNat
      ∧ ∀ a, t.rd a = s.rd a)
  ∧ (∀ s : State, s.b F.TB_COMMIT_CTL_HOLD = true → 4096 ≤ s.tb.holdRun →
    ∃ t, exec .holdExpiry s = .next t ∧ t.b F.TB_COMMIT_CTL_HOLD = false ∧ t.b F.TB_STAT_HOLD_EXPIRED = true
      ∧ t.tb.holdRun = 0 ∧ t.shadow = s.shadow ∧ t.ready = s.ready)
  ∧ (∀ s : State, s.mode ≠ 3 → (s.part 19).busy = true → (s.part 19).queued = none →
    ∃ t, exec (.participantDone 19) s = .next t ∧ (t.part 19).busy = false
      ∧ t.rd (R.TB_USED 19) = BitVec.ofNat 32 (min (since s.now (s.part 19).opened) 0x7FFF))
  ∧ ∀ s : State, s.tb.due = false → s.now = s.tb.t0 → 2 ≤ s.mode → s.mode ≠ 3 → s.mode ≠ 6 →
    max 1 (s.f F.TB_BEAT_CFG_OVR_LIMIT) ≤ s.tb.ovrRun →
    exec .overrunLimit s = .next ((s.log .sysBeatOverrunLimit wholeDevice 0).causeSafe causeOverrun)

/-- REGISTER_WRITE for registers that act at once (R8, R10, R12) and the writes that are discarded (R315, R317). -/
def Obligations.RegisterWriteActsByAccessCode : Prop :=
  ∀ (r : Requester) (a : BitVec 24) (v : Word) (s : State), s.readsReach r → a.toNat % 4 = 0 → a.toNat < 0x2000 →
    a.toNat ≠ R.SYS_TWIN →
    (∀ x, s.mayWrite r = true → rowAt a.toNat = some x → x.commit = false →
      ∃ t, exec (.registerWrite r a v 15) s = .next t ∧ t = { s with regs := t.regs } ∧ (∀ b, b ≠ a.toNat → t.rd b = s.rd b)
      ∧ ∀ i, i < 32 → (t.rd a.toNat).getLsbD i =
        (if v.getLsbD i && x.w1c.testBit i && !(s.justSet a.toNat).getLsbD i then false
         else if v.getLsbD i && x.w1s.testBit i then true
         else if x.rw.testBit i || (!s.sealed && x.rwl.testBit i) then v.getLsbD i
         else (s.rd a.toNat).getLsbD i))
    ∧ (s.mayWrite r = true → rowAt a.toNat = none → exec (.registerWrite r a v 15) s = .next s)
    ∧ (∀ be : BitVec 4, s.mayWrite r = true → be ≠ 15 → ∃ t, exec (.registerWrite r a v be) s = .next t
      ∧ t.rd R.SYS_HOST_PARTIAL = BitVec.ofNat 32 (min ((s.rd R.SYS_HOST_PARTIAL).toNat % 2 ^ 24 + 1) 0xFFFFFF)
      ∧ ∀ b, b ≠ R.SYS_HOST_PARTIAL → b ≠ R.LOG_LOST → t.rd b = s.rd b)
    ∧ (∀ be : BitVec 4, s.mayWrite r = false → ∃ t, exec (.registerWrite r a v be) s = .next t
      ∧ t.rd R.SYS_HOST_REFUSED = BitVec.ofNat 32 (min ((s.rd R.SYS_HOST_REFUSED).toNat % 2 ^ 24 + 1) 0xFFFFFF)
      ∧ ∀ b, b ≠ R.SYS_HOST_REFUSED → b ≠ R.LOG_LOST → t.rd b = s.rd b)

/-- SPLIT_COUNTER_READ (R36, R37) and READ_CLEAR_REGISTER (R8). A plain register is one that stands in the register file, has no row of its own and no newer value in the shadow. -/
def Obligations.ReadsReturnLatchAndClear : Prop :=
  (∀ (r : Requester) (a : BitVec 24) (s : State), s.readsReach r → a.toNat % 4 = 0 → isLo a.toNat = true →
    ∃ t, exec (.splitCounterRead r a) s = .next t
      ∧ t.snapRd r (a.toNat + 8) = s.busView r (a.toNat + 4)
      ∧ Sparse.get (fun _ => 0) t.lastRead (reqIdx r) = s.rcView a.toNat (s.busView r a.toNat)
      ∧ (∀ q b, q ≠ r → b < 2 ^ 24 → t.snapRd q b = s.snapRd q b)
      ∧ ∀ b, b ≠ a.toNat → t.rd b = s.rd b)
  ∧ ∀ (r : Requester) (a : BitVec 24) (s : State) (x : RegRow), s.readsReach r → a.toNat % 4 = 0 →
    rowAt a.toNat = some x → isBanked a.toNat = false → isLo a.toNat = false → s.viewAt a.toNat = none →
    s.shadowAt a.toNat = none → stallAt a.toNat = none → a.toNat ≠ R.TB_BEAT → a.toNat ≠ R.IRQ_CORE_CLAIM →
    ¬ (0x114000 ≤ a.toNat ∧ a.toNat < 0x115000) → ¬ (0x30000 ≤ a.toNat ∧ a.toNat < 0x40000) →
    ∃ t, exec (.readClearRegister r a) s = .next t
      ∧ (s.setAt a.toNat = none → Sparse.get (fun _ => 0) t.lastRead (reqIdx r) = s.rd a.toNat
        ∧ t.rd a.toNat = s.rd a.toNat &&& ~~~ BitVec.ofNat 32 x.rc)
      ∧ (∀ before new, s.setAt a.toNat = some (before, new) →
        Sparse.get (fun _ => 0) t.lastRead (reqIdx r)
          = (s.rd a.toNat &&& ~~~ BitVec.ofNat 32 x.rc) ||| (before &&& BitVec.ofNat 32 x.rc)
        ∧ t.rd a.toNat = (s.rd a.toNat &&& ~~~ BitVec.ofNat 32 x.rc) ||| (new &&& BitVec.ofNat 32 x.rc))
      ∧ (∀ b, b ≠ a.toNat → t.rd b = s.rd b)
      ∧ t = { s with regs := t.regs, lastRead := t.lastRead, setNow := t.setNow }

/-- LOG_ENTRY_WRITE (R391, R392, R395) and LOG_SEL_WRITE (R397). -/
def Obligations.LogWritesTheOldestReport : Prop :=
  (∀ (s : State) (x : Report) (xs : List Report), s.mode ≠ 3 → s.logHold = false → s.logTell = false → s.logFree = true →
    s.logQ = x :: xs →
    ∃ t, exec .logEntryWrite s = .next t ∧ t.logQ = xs ∧ t.logAt = some s.ctlNow ∧ t.logTell = (decide (xs.length = 16) && s.logLost != 0)
      ∧ t.logWord (s.f F.LOG_STAT_HEAD) 0 = BitVec.ofNat 32 (x.time.toNat % 2 ^ 32)
      ∧ t.logWord (s.f F.LOG_STAT_HEAD) 1 = BitVec.ofNat 32 (x.time.toNat / 2 ^ 32 + x.beat * 2 ^ 16)
      ∧ t.logWord (s.f F.LOG_STAT_HEAD) 2 = BitVec.ofNat 32 (x.code.num + x.source * 2 ^ 16)
      ∧ t.logWord (s.f F.LOG_STAT_HEAD) 3 = BitVec.ofNat 32 (x.detail + x.code.sev * 2 ^ 24 + 2 ^ 26)
      ∧ (∀ e w, e ≠ s.f F.LOG_STAT_HEAD → w < 4 → t.logWord e w = s.logWord e w)
      ∧ t.f F.LOG_STAT_HEAD = (s.f F.LOG_STAT_HEAD + 1) % 2048
      ∧ t.b F.LOG_STAT_WRAPPED = (s.b F.LOG_STAT_WRAPPED || decide (s.f F.LOG_STAT_HEAD = 2047))
      ∧ t.f F.LOG_COUNT_COUNT = min 2048 (s.f F.LOG_COUNT_COUNT + toBit (!s.logValid (s.f F.LOG_STAT_HEAD)))
      ∧ t.f F.LOG_SEQ_SEQ = (s.f F.LOG_SEQ_SEQ + 1) % 2 ^ 24
      ∧ (∀ a, a ≠ R.LOG_STAT → a ≠ R.LOG_COUNT → a ≠ R.LOG_SEQ → t.rd a = s.rd a))
  ∧ (∀ s : State, s.logFree = false → exec .logEntryWrite s = .next s)
  ∧ (∀ s : State, s.mode ≠ 3 → s.logHold = false → s.logTell = true → s.logFree = true → s.logQ ≠ [] →
    ∃ t, exec .logEntryWrite s = .next t ∧ t.logQ = s.logQ ∧ t.logLost = 0 ∧ t.logTell = false
      ∧ t.logWord (s.f F.LOG_STAT_HEAD) 2 = BitVec.ofNat 32 (0x9010 + 0xFFFF * 2 ^ 16)
      ∧ t.logWord (s.f F.LOG_STAT_HEAD) 3 = BitVec.ofNat 32 (s.logLost + 2 ^ 24 + 2 ^ 26))
  ∧ (∀ (r : Requester) (v : Word) (s : State), s.writesReach r →
    ∃ t, exec (.logSelWrite r v false) s = .next t ∧ t.f F.LOG_SEL_INDEX = getBits v 0 11
      ∧ (∀ w, w < 4 → t.snapRd r (R.LOG_DATA w) = s.logWord (getBits v 0 11) w)
      ∧ (∀ q b, q ≠ r → b < 2 ^ 24 → t.snapRd q b = s.snapRd q b) ∧ t.logW = s.logW
      ∧ ∀ a, a ≠ R.LOG_SEL → t.rd a = s.rd a)
  ∧ ∀ (r : Requester) (v : Word) (s : State), s.writesReach r → s.logValid (getBits v 0 11) = true →
    ∃ t, exec (.logSelWrite r v true) s = .next t ∧ t.f F.LOG_SEL_INDEX = getBits v 0 11
      ∧ (∀ w, w < 4 → t.snapRd r (R.LOG_DATA w) = 0 ∧ t.logWord (getBits v 0 11) w = 0)
      ∧ (∀ e w, e ≠ getBits v 0 11 → w < 4 → t.logWord e w = s.logWord e w)
      ∧ t.f F.LOG_COUNT_COUNT = s.f F.LOG_COUNT_COUNT - 1

/-- TRACKER_TICK (R84, R380, R382) and SLOT_COMPARE (R111, R112, R122). That each is sent once per tick, in this order, is the model's convention (log entry 10). -/
def Obligations.SlotsCompareAndTrackersTick : Prop :=
  (∀ s : State, s.tb.running = true → s.mode ≠ 3 →
    exec .trackerTick s = .next (let s1 := overList (List.range 16) State.tickTracker s
      (if s1.now = s1.tb.t0 then s1.snapAll else s1).policy))
  ∧ (∀ s : State, s.tb.running = true → s.mode = 3 → exec .trackerTick s = .next s)
  ∧ ∀ s : State, s.tb.running = true → exec .slotCompare s = .next (s.compareAll.twinCompare).stallCompare

/-- The loads of a boundary (R109). -/
def Obligations.LoadsTakeTheLowestFreeSlot : Prop :=
  ∀ (s : State) (sh : Nat) (p : Point),
    (∀ k, k < 64 → (s.sl (slotKey sh k)).st = .free → (∀ j, j < k → (s.sl (slotKey sh j)).st ≠ .free) →
      s.loadPoint sh p = (let s1 := (s.freeForced sh k).loadSlot sh k p
        if s.isLead sh then s1.loadSlot (sh + 1) k p else s1))
    ∧ ((∀ j, j < 64 → (s.sl (slotKey sh j)).st ≠ .free) →
      s.loadPoint sh p = (if (s.deferred.filter (fun e => e.1 == sh)).length < 64
        then { s with deferred := s.deferred ++ [(sh, p)] } else s.noSlot sh p.entry))

/-- Ends of an instance (R112): the earliest placed one acts. -/
def Obligations.AnInstanceTakesTheEarliestEnd : Prop :=
  ∀ (s : State) (sh slot : Nat) (total : Fine), (s.sl (slotKey sh slot)).st = .active → s.isCheck sh = false →
    s.b F.EVT_TWIN_INJECT_GO = false →
    let x := s.sl (slotKey sh slot)
    let t := if tickOf total = tickOf x.startAt then x.startAt + 96 else total
    (∀ e, x.endAt = some e → earlier t e = true →
      ((s.placeEnd sh slot total false).sl (slotKey sh slot)).endAt = some t
      ∧ (s.placeEnd sh slot total false).placed.filter (fun a => a.sh == sh && a.slot == slot && a.isEnd)
        = [⟨sh, slot, t, true, x.ev, x.entry⟩])
    ∧ (∀ e, x.endAt = some e → earlier t e = false → s.placeEnd sh slot total false = s)
    ∧ (x.endAt = none → ((s.placeEnd sh slot total false).sl (slotKey sh slot)).endAt = some t
      ∧ (s.placeEnd sh slot total false).placed = s.placed ++ [⟨sh, slot, t, true, x.ev, x.entry⟩])

/-- EV_PULSE_HIGH to EV_TOGGLE_2 (R114, Table 5.2). -/
def Obligations.PinActionsDriveTheirEdges : Prop :=
  ∀ (sh : Fin 16) (slot : Fin 64) (s : State) (a : Act), s.pinFree a.ev.target = true → s.pinOfShed a.ev.target a.sh = true →
    let p := a.ev.target
    let at_ := s.atCell p a.at_
    (s.pin p).actTick ≠ some (tickOf at_) →
    (s.placed.erase a).find? (fun b => b.ev.tgtType == 0 && b.ev.target == p && b.sh == a.sh
      && decide (b.slot < a.slot) && tickOf (s.atCell p b.at_) == tickOf at_) = none →
    let old := s.levelAt p (fineOf (tickOf at_) 0 - 1)
    let go := fun (want : Bool) =>
      let s1 := { s with placed := s.placed.erase a }.setPin p { s.pin p with actTick := some (tickOf at_), actWant := want }
      if want = s.levelAt p at_ then s1.pinHold p else s1.pinEdge p at_ want
    (s.actDue sh slot 0 0 = some a → exec (.evPulseHigh sh slot) s = .next (go (!a.isEnd)))
    ∧ (s.actDue sh slot 0 1 = some a → exec (.evPulseLow sh slot) s = .next (go a.isEnd))
    ∧ (s.actDue sh slot 0 2 = some a → exec (.evSet sh slot) s = .next (go true))
    ∧ (s.actDue sh slot 0 3 = some a → exec (.evClear sh slot) s = .next (go false))
    ∧ (s.actDue sh slot 0 4 = some a → exec (.evToggle sh slot) s = .next (go (!old)))
    ∧ (s.actDue sh slot 0 5 = some a → exec (.evToggle2 sh slot) s = .next (go (!old)))

/-- The actions at stalls (R140), valves (R212), runners (R190) and interrupt sources (R128, Table 5.2). -/
def Obligations.EventActionsReachTheirTargets : Prop :=
  ∀ (sh : Fin 16) (slot : Fin 64) (s : State) (a : Act),
    let s1 := { s with placed := s.placed.erase a }
    let e1 := { s.engFlush with placed := s.engFlush.placed.erase a }
    let n := a.ev.target
    let k := 24 * a.sh + n
    (s.engFlush.actDue sh slot 1 0 = some a → exec (.evCapture sh slot) s = .next (overList ((e1.stlDue k).stlBoth k)
      (fun x j => x.stlCapture1 j (x.countAt j x.now) (tickOf a.at_)) (e1.stlDue k)))
    ∧ (s.engFlush.actDue sh slot 1 1 = some a → exec (.evGate sh slot) s = .next (e1.stlRun k (!a.isEnd)))
    ∧ (s.engFlush.actDue sh slot 1 2 = some a → exec (.evRestart sh slot) s = .next (e1.stlRestart k))
    ∧ (s.engFlush.actDue sh slot 1 3 = some a → exec (.evHalt sh slot) s = .next (e1.stlRun k false))
    ∧ (s.actDue sh slot 2 0 = some a → a.isEnd = true → exec (.evDose sh slot) s = .next (s1.vEndEv n (.ev a.sh a.slot) a.at_))
    ∧ (s.actDue sh slot 2 0 = some a → a.isEnd = false → (s.vlv n).evAt ≠ some s.now →
      (s.placed.erase a).any (fun x => x.ev.tgtType == 2 && x.ev.target == n && !x.isEnd && tickOf x.at_ == tickOf a.at_
        && decide (slotKey a.sh a.slot < slotKey x.sh x.slot)) = false →
      exec (.evDose sh slot) s = .next ((s1.setVlv n { s.vlv n with evAt := some s.now, dose := some a.at_ }).vStart n (.ev a.sh a.slot)
        (if a.ev.param = 0 then s.f (F.VLV_PROF_PROF n) else a.ev.param - 1) 0))
    ∧ (s.actDue sh slot 3 0 = some a → exec (.evStart sh slot) s = .next (((s1.rnStart n (a.ev.param % 128)).setRnTr n
      (BitVec.ofNat 24 (a.at_.toNat / 32 + 24))).setF (F.RUN_TFINE_TF n) (a.at_.toNat % 32)))
    ∧ (s.actDue sh slot 3 1 = some a → exec (.evSignal sh slot) s = .next (s1.wr (R.RUN_FLAGS n) (s.rd (R.RUN_FLAGS n) ||| 1)))
    ∧ (s.actDue sh slot 3 2 = some a → exec (.evSignal2 sh slot) s = .next (s1.wr (R.RUN_FLAGS n) (s.rd (R.RUN_FLAGS n) ||| 1)))
    ∧ (s.actDue sh slot 3 3 = some a → exec (.evStop sh slot) s = .next (s1.rnStop n))
    ∧ (s.actDue sh slot 4 0 = some a → exec (.evPulse sh slot) s = .next (s1.pulse (if n < 64 then n else priv a.sh (n - 64))))
    ∧ (s.actDue sh slot 4 1 = some a → exec (.evPulse2 sh slot) s = .next (s1.pulse (if n < 64 then n else priv a.sh (n - 64))))

/-- The law of R85, R86 advances by num / e raw units per tick exactly: over e ticks by exactly num. -/
def Obligations.LawAdvancesExactly : Prop :=
  ∀ (t : Tracker) (m : Nat) (c : Bool), t.freshLaw = false → t.acc < t.den → t.rem < t.den →
    let u := (List.range t.den).foldl (fun (x : Tracker) _ => x.tick m c) t
    u.gone = t.gone + (t.q * t.den + t.rem) ∧ u.acc = t.acc ∧ u.q = t.q ∧ u.rem = t.rem ∧ u.den = t.den
      ∧ u.run = t.run ∧ u.h = t.h

/-- The estimate of R86. -/
def Obligations.EstimateNeverMovesBackward : Prop :=
  ∀ (t : Tracker) (m : Nat) (c : Bool), t.a < m → t.lam < m → t.h < m →
    let u := t.tick m c
    (u.a = t.a ∨ ahead m t.a u.a = true) ∧ u.a < m
    ∧ (u.halted = true ↔ t.run < u.gone)
    ∧ (u.halted = true → u.a = t.a ∨ u.a = t.h ∨ u.catching = true)
    ∧ (u.catching = true → c = true ∧ ∃ step, step ≤ t.q + 1 ∧ u.a = (t.a + 4 * step) % m)

/-- TOOTH_EDGE, INDEX_EDGE, INDEX_TRAILING_EDGE, PULSE_TRAILING_EDGE and LAW_UPDATE (R54, R55, R58, R84, R96, R380, R382). An edge stamped before the last accepted one is noise by the model's reading (log entry 132). That acceptance happens when the edge leaves the filter and the law is replaced 120 ticks later is the reading of log entry 11. -/
def Obligations.EdgesAreAcceptedAtTheirStamps : Prop :=
  (∀ (n : Fin 16) (x : Crossing) (s : State),
    let src := s.f (F.WHL_IN_TOOTH_SRC n)
    let g := 4 * s.f (F.WHL_FILT_TOOTH_GLITCH n)
    let stamp := s.now - BitVec.ofNat 48 g
    let lvl := s.sensed src x.rising
    let t := s.tr n
    let s1 := ((s.srcSet src x.rising).setTr n { t with lvA := lvl }).takePeak src x.peak
    g ≤ x.held → s.mode ≠ 3 → s.tmode n < 2 → t.st ≠ .off → s.taken src x = true → s.toothLevel n src lvl = true → s.arms n src x.peak = true →
    (t.seen = true → since stamp t.edge < 125 ∨ since t.edge stamp ≤ 252 →
      exec (.toothEdge n false x) s = .next (s1.bump (R.WHL_CNT_NOISE n)).policy)
    ∧ (t.seen = false → t.haveEdge = false → t.upds = [] → 32 ≤ src ∨ (s.sn src).haveEdge = false →
      exec (.toothEdge n false x) s = .next (((s1.setTr n { t with
        lvA := lvl, seen := true, edge := stamp, stopBase := stamp, haveEdge := true, havePer := false, mark := none
        upds := [{ kind := .tooth, due := s.now + 120, stamp := stamp, period := none, before := none
                   fwd := true, late := false, mprev := t.mark, angle := 0, quad := 0, overdue := false
                   noise := false }] }).pairTooth src n false stamp lvl).feedStalls n stamp).policy))
  ∧ (∀ (n : Fin 16) (onB : Bool) (x : Crossing) (s : State), s.mode = 3 → ∃ t : State, exec (.toothEdge n onB x) s = .next t.policy
      ∧ (t.tr n).upds = (s.tr n).upds ∧ (t.tr n).edge = (s.tr n).edge ∧ (t.tr n).st = (s.tr n).st ∧ ∀ a, t.rd a = s.rd a)
  ∧ (∀ (n : Fin 16) (x : Crossing) (s : State),
    let src := s.f (F.WHL_IN_IDX_SRC n)
    let g := 4 * s.f (F.WHL_FILT_IDX_GLITCH n)
    let stamp := s.now - BitVec.ofNat 48 g
    let lvl := s.sensed src x.rising
    g ≤ x.held → s.mode ≠ 3 → s.tmode n < 5 → (s.tr n).st = .sync → s.taken src x = true → s.idxLevel n lvl = true → s.arms n src x.peak = true →
    ∃ (t : State) (e : EdgeUpd), exec (.indexEdge n x) s = .next (t.pairTooth src n true stamp lvl).policy ∧ (t.tr n).upds = (s.tr n).upds ++ [e]
      ∧ e.kind = .index ∧ e.due = s.now + 120 ∧ e.stamp = stamp ∧ e.quad = 2 * toBit (s.tr n).lvB + toBit (s.tr n).lvA
      ∧ (t.tr n).idxEdge = stamp ∧ (t.tr n).a = (s.tr n).a ∧ (t.tr n).st = .sync
      ∧ (32 ≤ src → t.pairTooth src n true stamp lvl = t ∧ ∀ a, t.rd a = s.rd a) ∧ ∀ k, k ≠ n.val → t.tr k = s.tr k)
  ∧ (∀ (n : Fin 16) (x : Crossing) (s : State),
    let src := s.f (F.WHL_IN_IDX_SRC n)
    let g := 4 * s.f (F.WHL_FILT_IDX_GLITCH n)
    let stamp := s.now - BitVec.ofNat 48 g
    g ≤ x.held → s.mode ≠ 3 → s.tmode n < 5 → 32 ≤ src → s.taken src x = true → s.idxLevel n (s.sensed src x.rising) = false →
    (s.tr n).haveIdx = true → (s.tr n).idxMarkC = none → (s.tr n).st ≠ .off → (s.tr n).idxChk = none → (s.tr n).idxJudge = false →
    exec (.indexTrailingEdge n x) s = .next ((s.srcSet src x.rising).setTr n { s.tr n with
      idxMark := if (s.tr n).idxNoise then (s.tr n).idxMark else some (since stamp (s.tr n).idxEdge)
      idxMarkC := some (s.idxMarkCounts n ((if g = 0 then (s.tr n).a else (s.tr n).hist.getD (g - 1) (s.tr n).a) / 65536) stamp) }).policy)
  ∧ (∀ (n : Fin 16) (x : Crossing) (s : State) (lead : Time),
    let src := s.f (F.WHL_IN_TOOTH_SRC n)
    let g := 4 * s.f (F.WHL_FILT_TOOTH_GLITCH n)
    let lvl := s.sensed src x.rising
    let w := since (s.now - BitVec.ofNat 48 g) lead
    g ≤ x.held → s.mode ≠ 3 → (s.tr n).lead = some lead → s.tmode n = 2 → s.taken src x = true → s.toothLevel n src lvl = false →
    (w ≤ 125 * s.f (F.WHL_PW_REV_MAX n) → (s.tr n).pulseRev = decide (125 * s.f (F.WHL_PW_FWD_MAX n) < w) →
      ∃ t : State, exec (.pulseTrailingEdge n x) s = .next t.policy ∧ t.tr n = { s.tr n with lvA := lvl, lead := none, leadSt := none }
        ∧ (∀ k, k ≠ n.val → t.tr k = s.tr k) ∧ ∀ a, t.rd a = s.rd a)
    ∧ (125 * s.f (F.WHL_PW_REV_MAX n) < w → (s.tr n).upds = [] → (s.tr n).leadSt = none →
      ∃ t : State, exec (.pulseTrailingEdge n x) s = .next t.policy ∧ (t.tr n).lead = none
      ∧ t.rd (R.WHL_CNT_NOISE n) = BitVec.ofNat 32 (min ((s.rd (R.WHL_CNT_NOISE n)).toNat % 2 ^ 24 + 1) 0xFFFFFF)
      ∧ ∀ a, a ≠ R.WHL_CNT_NOISE n → t.rd a = s.rd a))
  ∧ ∀ (n : Fin 16) (bad : List (Fin 1024)) (s : State) (x : EdgeUpd) (xs : List EdgeUpd),
    let s0 := s.spoilLearn n (bad.map (·.val))
    let s1 := s0.setTr n { s.tr n with upds := xs }
    let pulse : Bool := decide (x.kind = .tooth ∧ (s.tr n).lead = some x.stamp)
    let s2 := if pulse then s1.setUndo n ((s1.tr n).beforeLead (s1.undoOf n)) else s1
    let s3 := match x.kind with
      | .tooth => s2.applyTooth n x
      | .index => s2.applyIndex n x
      | .ssi => s2.applySsi n x
    let s4 := if pulse && decide ((s3.tr n).lead = some x.stamp) then s3.leadDone s1 n else s3
    s.mode ≠ 3 → (s.tr n).upds = x :: xs → s.reached x.due = true →
    (s1.patFails n = false → exec (.lawUpdate n bad) s = .next (s4.readCorr n (s4.readEntries n x.kind)).policy)
    ∧ (s1.patFails n = true → exec (.lawUpdate n bad) s = .next ((s2.log .whlTackEcc n 0).setSt n .lost).policy)

/-- The limits of Table 3.5 and of R98. -/
def Obligations.TrackerLimitsChangeItsState : Prop :=
  (∀ (n : Fin 16) (s : State), s.mode ≠ 3 → s.tmode n < 5 → (s.tr n).st = .sync → s.passed (s.tr n).stopBase (s.stopTicks n) = true →
    exec (.stopTimeExpiry n) s = .next ((s.setTr n { s.tr n with stopFrom := false, turning := false, periods := 0
                                                                 haveEdge := false, havePer := false }).setSt n .stopped).policy)
  ∧ (∀ (n : Fin 16) (s : State), s.mode ≠ 3 → s.tmode n < 5 → (s.tr n).st = .limp →
    s.passed (s.tr n).idxEdge (max (s.stopTicks n) (2 * s.idxExp n)) = true →
    exec (.stopTimeExpiry n) s = .next ((s.setTr n { s.tr n with stopFrom := true, turning := false, periods := 0
                                                                 haveIdx := false }).setSt n .stopped).policy)
  ∧ (∀ (n : Fin 16) (s : State), s.mode ≠ 3 → (s.tr n).st = .sync → s.errMax n ≤ (s.tr n).err →
    let lost := fun (x : State) => (x.log .whlSyncLost n 5).setSt n .lost
    let limp := (s.log .whlSyncLost n 4).limpFromSync n
    exec (.errMaxReached n) s = .next (if s.b (F.WHL_CTL_LIMP_EN n) && (s.tr n).idxSync
      then (if limp.idxFault n then lost limp else limp) else lost s).policy)
  ∧ (∀ (n : Fin 16) (s : State) (new : TState), (s.tr n).st = .sync → new = .limp ∨ new = .lost →
    (s.setSt n new).rd (R.WHL_CNT_LOSS n) = BitVec.ofNat 32 (min ((s.rd (R.WHL_CNT_LOSS n)).toNat % 2 ^ 24 + 1) 0xFFFFFF))
  ∧ (∀ (n : Fin 16) (s : State), s.mode ≠ 3 → s.idxErrMax n ≤ (s.tr n).idxErr → (s.tr n).st = .sync →
    (s.tr n).idxSync = true ∨ ((s.tr n).idxDue = true ∧ (s.tr n).idxErr = s.idxErrMax n) →
    exec (.idxErrMaxReached n) s = .next ((s.setTr n { s.tr n with idxSync := false, idxDue := false }).log .whlIndexLost n 0).policy)
  ∧ (∀ (n : Fin 16) (s : State), s.mode ≠ 3 → s.idxErrMax n ≤ (s.tr n).idxErr → (s.tr n).st = .limp →
    exec (.idxErrMaxReached n) s = .next ((s.log .whlSyncLost n 5).setSt n .lost).policy)
  ∧ (∀ (n : Fin 16) (s : State), s.mode ≠ 3 → (s.tr n).st = .gapSeek → s.seekRevs n * s.toothN n ≤ (s.tr n).seekEdges →
    exec (.seekRevsExhausted n) s = .next ((s.log .whlGapNotFound n 0).setSt n .lost).policy)
  ∧ (∀ (n : Fin 16) (s : State), s.mode ≠ 3 → s.tmode n = 6 → (s.tr n).st ≠ .off → (s.tr n).st ≠ .lost → 4 ≤ (s.tr n).tthNone →
    exec (.virtTetherLost n) s = .next ((s.log .whlTetherAngleLost n 0).setSt n .lost).policy)
  ∧ ∀ (n : Fin 16) (s : State), s.mode = 3 → exec (.stopTimeExpiry n) s = .next s ∧ exec (.errMaxReached n) s = .next s
    ∧ exec (.idxErrMaxReached n) s = .next s ∧ exec (.seekRevsExhausted n) s = .next s ∧ exec (.virtTetherLost n) s = .next s

/-- VR_THRESHOLD_HALVING (R56; log entries 25 and 133) and SENSOR_WINDOW_SAMPLE (R62, R64, R389). -/
def Obligations.SensorPairsAreChecked : Prop :=
  (∀ (k : Fin 32) (e : Nat) (u : Time) (s : State), s.isVr k = true → s.mode ≠ 3 → s.pairPeriod k = some (e, u) → e ≠ 0 →
    ((s.sn k).halvings + 2) * e ≤ since s.now u →
    exec (.vrThresholdHalving k) s = .next (s.setSn k { s.sn k with halvings := (s.sn k).halvings + 1 }))
  ∧ (∀ (k n : Nat) (s : State), s.firstUser k = some n → (s.tr n).havePer = true →
    s.pairPeriod k = some (if (s.tr n).st = .sync ∨ (s.tr n).st = .stopped then s.toothExp n else (s.tr n).per, (s.tr n).edge))
  ∧ (∀ (p n : Int), 5500 < p → snsClass 0 p n = .shortSup)
  ∧ (∀ (p n : Int), p ≤ 5500 → n ≤ 5500 → (-300 ≤ p ∧ p ≤ 300) ∨ (-300 ≤ n ∧ n ≤ 300) → snsClass 0 p n = .shortGnd)
  ∧ (∀ (p n : Int), 300 < p → 300 < n → p ≤ 5500 → n ≤ 5500 → 500 < p - n → snsClass 0 p n = .open)
  ∧ ∀ (k : Fin 32) (vP vN : Int) (s : State), 2 ≤ s.mode → s.mode ≠ 3 → snsClass (s.f (F.SNS_CFG_TYPE k)) vP vN = .none →
    (s.sn k).supOff < 99 → (s.sn k).gndOff < 99 → (s.sn k).openOff < 99 →
    exec (.sensorWindowSample k vP vN) s = .next (s.setSn k { s.sn k with
      supRun := 0, supOff := (s.sn k).supOff + 1, gndRun := 0, gndOff := (s.sn k).gndOff + 1
      openRun := 0, openOff := (s.sn k).openOff + 1 }).policy

/-- The scan of one entry (R103, R106, R110). -/
def Obligations.AScanStagesAtMostOnePointOfAnEntry : Prop :=
  ∀ (s : State) (e : Nat),
    ((s.scanEntry e).points = s.points
      ∨ ∃ p ∈ s.pointsOf (s.entry e), (s.scanEntry e).points = s.points ++ [((s.entry e).home, ⟨e, p.1, p.2, !(s.es e).examined⟩)])
    ∧ (((s.snapOf (s.entry e).trk).arm = false ∨ (s.te (s.entry e).trk).waiting = true ∨ (s.es e).ecc = true
        ∨ s.entryBad (s.entry e) = true ∨ s.pinRefused (s.entry e) = true ∨ (s.es e).spent = true
        ∨ s.hasInstance e = true) → (s.scanEntry e).points = s.points)
    ∧ (s.scanEntry e).deferred = s.deferred ∧ (s.scanEntry e).slots = s.slots

/-- ARMER_SCAN (R104 to R106), DURATION_END and CAP_END (R100, R112), TRACKER_STALL (R117). That the rows come 24 ticks before the end acts is the model's convention (log entry 10). -/
def Obligations.ScansAndForcedEndsAct : Prop :=
  (∀ (found : List (Fin 8192 × Bool)) (s : State), s.tb.started = true → s.tb.prepared = false → (s.part 16).busy = true →
    s.running = true → s.b F.EVT_ARM_CFG_ARM_EN = true → s.b F.PWR_STAT_RAMP = false →
    let s0 := (s.scanFound (found.map (fun e => (e.1.val, e.2)))).scanBad
    let s1 := (overList (List.range 16) State.scanFront { s0 with points := [] }).scanDeferred
    let s2 := overList s1.enabledEntries State.scanEntry s1
    exec (.armerScan found) s = .next (((s2.setF F.EVT_ARM_STAGED_COUNT s2.points.length).setF F.EVT_ARM_STAT_SCAN_TICKS
      (min 1100 (s.tb.phase - 200))).partDone 16))
  ∧ (∀ (found : List (Fin 8192 × Bool)) (s : State), s.tb.started = true → s.tb.prepared = false → (s.part 16).busy = true →
    s.running = false →
    ∃ t, exec (.armerScan found) s = .next t ∧ t.f F.EVT_ARM_STAGED_COUNT = 0 ∧ t.points = [] ∧ t.slots = s.slots)
  ∧ (∀ (sh : Fin 16) (slot : Fin 64) (s : State), let x := s.sl (slotKey sh slot)
    x.st = .active → x.ev.hasEnd = true → x.ev.form = true → (x.ev.duration : Int) ≤ s.ticksSince x.startAt + 24 →
    exec (.durationEnd sh slot) s = .next (s.placeEnd sh slot (x.startAt + BitVec.ofNat 53 (32 * x.ev.duration)) false))
  ∧ (∀ (sh : Fin 16) (slot : Fin 64) (s : State), let x := s.sl (slotKey sh slot)
    x.st = .active → x.ev.hasEnd = true → x.ev.form = false → x.ev.maxDur ≠ 0 → (x.ev.cap : Int) ≤ s.ticksSince x.startAt + 24 →
    exec (.capEnd sh slot) s = .next (s.placeEnd sh slot (x.startAt + BitVec.ofNat 53 (32 * x.ev.cap)) false))
  ∧ ∀ (n : Fin 16) (s : State), s.f (F.EVT_STALL_TIME n) ≠ 0 → 256 * s.f (F.EVT_STALL_TIME n) ≤ (s.te n).haltTicks →
    (s.te n).stalled = false → exec (.trackerStall n) s = .next (s.evStall n)

/-- DLL_MEASUREMENT_DONE and DLL_LINE_SWAP (R125, R126), EVT_TWIN_INJECT_WRITE (R123). -/
def Obligations.DelayLinesAreMeasuredAndSwapped : Prop :=
  (∀ (c : Fin 192) (taps : BitVec 7) (s : State), (s.pin c).measured = false → 2 ≤ s.mode →
    ∃ t, exec (.dllMeasurementDone c taps) s = .next t ∧ (t.pin c).measured = true
      ∧ (t.pin c).line = (s.pin c).line
      ∧ (let l : Line := { taps := taps.toNat, ok := decide (33 ≤ taps.toNat ∧ taps.toNat ≤ 63)
                           failed := !decide (33 ≤ taps.toNat ∧ taps.toNat ≤ 63) }
         (s.pin c).line = true → (t.pin c).a = l ∧ (t.pin c).b = (s.pin c).b)
      ∧ (let l : Line := { taps := taps.toNat, ok := decide (33 ≤ taps.toNat ∧ taps.toNat ≤ 63)
                           failed := !decide (33 ≤ taps.toNat ∧ taps.toNat ≤ 63) }
         (s.pin c).line = false → (t.pin c).b = l ∧ (t.pin c).a = (s.pin c).a)
      ∧ (∀ k, k ≠ c.val → t.pin k = s.pin k) ∧ ∀ a, a ≠ R.LOG_LOST → t.rd a = s.rd a)
  ∧ (∀ (c : Fin 192) (s : State), (s.pin c).measured = true →
    (if (s.pin c).line then (s.pin c).a else (s.pin c).b).ok = true →
    (∀ e ∈ (s.pin c).edges, tickOf e.1 ≠ s.now ∧ tickOf e.1 ≠ s.now - 1) →
    (∀ a ∈ s.placed, (c.val < 160 → a.ev.tgtType = 0 → a.ev.target = c.val → tickOf a.at_ ≠ s.now)
      ∧ (160 ≤ c.val → a.ev.tgtType = 2 → a.ev.target = c.val - 160 → tickOf a.at_ ≠ s.now)) →
    (∀ e ∈ s.flight, e.pin = c.val → tickOf e.at_ ≠ s.now) →
    s.passed (s.pin c).swapAt 8192 = true →
    exec (.dllLineSwap c) s = .next (s.setPin c { s.pin c with line := !(s.pin c).line, swapAt := s.now, measured := false }))
  ∧ (∀ (r : Requester) (v : Word) (s : State), s.writesReach r → (s.f F.SYS_TWIN_PAIR_ACT).testBit (getBits v 6 3) = true →
    ∃ t, exec (.evtTwinInjectWrite r v) s = .next t ∧ t.f F.EVT_TWIN_INJECT_SLOT = getBits v 0 6
      ∧ t.f F.EVT_TWIN_INJECT_PAIR = getBits v 6 3
      ∧ t.b F.EVT_TWIN_INJECT_GO = (s.b F.EVT_TWIN_INJECT_GO || v.getLsbD 9)
      ∧ ∀ a, a ≠ R.EVT_TWIN_INJECT → t.rd a = s.rd a)
  ∧ ∀ (r : Requester) (v : Word) (s : State), s.writesReach r → (s.f F.SYS_TWIN_PAIR_ACT).testBit (getBits v 6 3) = false →
    exec (.evtTwinInjectWrite r v) s = .next s

/-- The sequences of Table 6.1 (R131). `iter` is the k-th count and direction. -/
def Obligations.StallCountersRunTheirSequences : Prop :=
  ∀ per : Nat, 0 < per →
    let iter := fun (mode c0 : Nat) (d0 : Bool) (k : Nat) => (List.range k).foldl (fun (x : Nat × Bool) _ =>
      ((countStep mode per per x.1 x.2 false).cnt, (countStep mode per per x.1 x.2 false).down)) (c0, d0)
    let carry := fun (mode c0 : Nat) (d0 : Bool) (k : Nat) =>
      (countStep mode per per (iter mode c0 d0 k).1 (iter mode c0 d0 k).2 false).carry
    (∀ mode, mode = 0 ∨ mode = 3 → (∀ k, k ≤ per → iter mode 0 false k = (k, false)) ∧ iter mode 0 false (per + 1) = (0, false)
      ∧ ∀ k, k ≤ per → carry mode 0 false k = decide (k = per))
    ∧ ((∀ k, k ≤ per → iter 1 per true k = (per - k, true)) ∧ iter 1 per true (per + 1) = (per, true)
      ∧ ∀ k, k ≤ per → carry 1 per true k = decide (k = per))
    ∧ (∀ k, k < per → iter 2 0 false k = (k, false)) ∧ (∀ k, per ≤ k → k < 2 * per → iter 2 0 false k = (2 * per - k, true))
      ∧ iter 2 0 false (2 * per) = (0, false) ∧ ∀ k, k < 2 * per → carry 2 0 false k = decide (k + 1 = 2 * per)

/-- ONE_PASS (R132), at the command STALL_STEP. -/
def Obligations.OnePassStopsAtTheEndOfTheCycle : Prop :=
  (∀ (k : Fin 384) (s : State), s.isCheck (k.val / 24) = false → s.stallsRun = true →
    s.stepping k = true → s.stepped.contains k.val = false → s.f (F.STL_CFG_CLK_SRC k) = 0 → s.b (F.STL_CFG_ONE_PASS k) = true →
    (s.stlPhase k).toNat % 2 ^ s.f (F.STL_CFG_PRESCALE k) = 0 →
    let mode := s.f (F.STL_CFG_DIR_MODE k)
    let per := s.f (F.STL_PERIOD_ACT_PER k)
    let c := s.f (F.STL_CNT_COUNT k)
    let ends := ((mode = 0 ∨ mode = 3) ∧ per ≤ c) ∨ (mode = 1 ∧ c = 1) ∨ (mode = 2 ∧ c = 1 ∧ s.b (F.STL_STAT_DOWN k) = true)
      ∨ (per = 0 ∧ c = 0)
    ∃ t, exec (.stallStep k) s = .next t
      ∧ ((s.stl k).first = true → ends → t.b (F.STL_CTL_RUN k) = false ∧ t.f (F.STL_CNT_COUNT k) = 0 ∧ t.b (F.STL_FLAGS_ZERO k) = true
        ∧ ∀ j : Fin 384, j ≠ k → (s.isLead (k.val / 24) = true → j.val / 24 ≠ k.val / 24 + 1) →
          t.f (F.STL_CNT_COUNT j) = s.f (F.STL_CNT_COUNT j))
      ∧ ((s.stl k).first = false ∨ ¬ ends → t.b (F.STL_CTL_RUN k) = true))
  ∧ ∀ (s : State) (k : Nat), ((s.stlRestart1 k).stl k).first = true

/-- STALL_INPUT_EDGE (R129, R130, R134, R139). -/
def Obligations.StallEdgesStepCaptureAndRestart : Prop :=
  (∀ (k : Fin 384) (x : Crossing) (s : State), 192 ≤ s.f (F.STL_IO_IN_SRC k) → exec (.stallInputEdge k x) s = .next s)
  ∧ (∀ (k : Fin 384) (x : Crossing) (s : State), let src := s.f (F.STL_IO_IN_SRC k)
    s.arms ((s.firstUser src).getD 16) src x.peak = false → exec (.stallInputEdge k x) s = .next s)
  ∧ (∀ (k : Fin 384) (x : Crossing) (s : State), let src := s.f (F.STL_IO_IN_SRC k)
    let read := (List.range 16).any (fun n => s.usesTooth n src || s.usesIdx n src)
    let s0 := if s.sensed src x.rising || read then s else s.takePeak src x.peak
    2 ≤ x.held → s.taken src x = true → s.isCheck (k.val / 24) = false → s.arms ((s.firstUser src).getD 16) src x.peak = true →
    (s.f (F.STL_CFG_IN_EDGE k) = 0 ∧ s.sensed src x.rising = false) ∨ (s.f (F.STL_CFG_IN_EDGE k) = 1 ∧ s.sensed src x.rising = true)
      ∨ s.stallsRun = false →
    exec (.stallInputEdge k x) s = .next ((s0.stlDue k).srcSet src x.rising))
  ∧ ∀ (k : Fin 384) (x : Crossing) (s : State), let src := s.f (F.STL_IO_IN_SRC k)
    let read := (List.range 16).any (fun n => s.usesTooth n src || s.usesIdx n src)
    let s0 := if s.sensed src x.rising || read then s else s.takePeak src x.peak
    2 ≤ x.held → s.taken src x = true → s.isCheck (k.val / 24) = false → s.stallsRun = true →
    s.arms ((s.firstUser src).getD 16) src x.peak = true →
    (s.f (F.STL_CFG_IN_EDGE k) = 0 ∧ s.sensed src x.rising = true) ∨ (s.f (F.STL_CFG_IN_EDGE k) = 1 ∧ s.sensed src x.rising = false)
      ∨ 2 ≤ s.f (F.STL_CFG_IN_EDGE k) →
    ∃ t, exec (.stallInputEdge k x) s = .next t
      ∧ (s.f (F.STL_CFG_CAP_MODE k) = 1 ∨ s.f (F.STL_CFG_CAP_MODE k) = 3 →
        t.b (F.STL_FLAGS_CAPTURE k) = true
        ∧ (s.b (F.STL_CFG_CAP_SEL k) = true → t.f (F.STL_CAP_CAP k) = s.now.toNat % 2 ^ 24)
        ∧ (s.b (F.STL_CFG_CAP_SEL k) = false → t.f (F.STL_CAP_CAP k) = t.countAt k s.now % 2 ^ 24
          ∧ ((∀ e, e ∈ (s.stl k).past → e.1 ≠ s.now + 1) → t.f (F.STL_CAP_CAP k) = t.f (F.STL_CNT_COUNT k)))
        ∧ (s.b (F.STL_FLAGS_CAPTURE k) = true → t.b (F.STL_FLAGS_CAP_OVR k) = true)
        ∧ (s.f (F.STL_CFG_CLK_SRC k) ≠ 1 → ∀ j : Fin 384, t.f (F.STL_CNT_COUNT j) = (s0.stlDue k).f (F.STL_CNT_COUNT j)))
      ∧ (s.f (F.STL_CFG_CAP_MODE k) = 2 → t.b (F.STL_FLAGS_CAPTURE k) = true ∧ t.b (F.STL_CTL_RUN k) = true
        ∧ t.f (F.STL_CNT_COUNT k) = (if s.f (F.STL_CFG_DIR_MODE k) = 1 then s.f (F.STL_PERIOD_PER k) else 0))

/-- The stall registers (R137, R138, R139, R141, R143), and the mirror of a twin pair (R145). -/
def Obligations.StallRegistersAct : Prop :=
  (∀ (k : Fin 384) (s : State), s.isCheck (k.val / 24) = false → s.f (F.STL_CFG_CLK_SRC (s.chainHead k)) ≠ 0 → s.stlDue k = s)
  ∧ (∀ (r : Requester) (k : Fin 384) (s : State), s.writesReach r → s.isCheck (k.val / 24) = false →
    ∃ t, exec (.stlCtlRestart r k) s = .next t ∧ ∀ j ∈ s.stlBoth k,
      t.f (F.STL_CNT_COUNT j) = (if s.f (F.STL_CFG_DIR_MODE j) = 1 then s.f (F.STL_PERIOD_PER j) else 0)
      ∧ t.b (F.STL_STAT_DOWN j) = decide (s.f (F.STL_CFG_DIR_MODE j) = 1) ∧ t.b (F.STL_CTL_RUN j) = true
      ∧ t.rd (R.STL_PERIOD_ACT j) = s.rd (R.STL_PERIOD j) ∧ t.rd (R.STL_CMP_A_ACT j) = s.rd (R.STL_CMP_A j)
      ∧ t.rd (R.STL_CMP_B_ACT j) = s.rd (R.STL_CMP_B j) ∧ t.b (F.STL_STAT_OUT j) = s.b (F.STL_IO_OUT_INIT j)
      ∧ t.rd (R.STL_FLAGS j) = (s.stlDue k).rd (R.STL_FLAGS j) ∧ (t.stl j).ref = s.now ∧ t.rd (R.STL_CFG j) = s.rd (R.STL_CFG j))
  ∧ (∀ (r : Requester) (k : Fin 384) (s : State), s.writesReach r → s.isCheck (k.val / 24) = false →
    ∃ t, exec (.stlCtlLoad r k) s = .next t
      ∧ (∀ j ∈ s.stlBoth k, t.rd (R.STL_PERIOD_ACT j) = s.rd (R.STL_PERIOD j)
        ∧ t.rd (R.STL_CMP_A_ACT j) = s.rd (R.STL_CMP_A j) ∧ t.rd (R.STL_CMP_B_ACT j) = s.rd (R.STL_CMP_B j))
      ∧ ∀ a, (∀ j ∈ s.stlBoth k, a ≠ R.STL_PERIOD_ACT j ∧ a ≠ R.STL_CMP_A_ACT j ∧ a ≠ R.STL_CMP_B_ACT j) →
        t.rd a = (s.stlDue k).rd a)
  ∧ (∀ (r : Requester) (k : Fin 384) (s : State), s.writesReach r → s.isCheck (k.val / 24) = false →
    let e := s.stlDue k
    ∃ t, exec (.stlCtlShadowClear r k) s = .next t ∧ t.b (F.STL_CTL_RUN k) = e.b (F.STL_CTL_RUN k)
      ∧ ∀ j ∈ s.stlBoth k, t.b (F.STL_CTL_SHADOW j) = false ∧ t.f (F.STL_CNT_COUNT j) = e.f (F.STL_CNT_COUNT j)
        ∧ t.rd (R.STL_PERIOD_ACT j) = (if s.b (F.STL_CTL_SHADOW j) then s.rd (R.STL_PERIOD j) else e.rd (R.STL_PERIOD_ACT j))
        ∧ t.rd (R.STL_CMP_A_ACT j) = (if s.b (F.STL_CTL_SHADOW j) then s.rd (R.STL_CMP_A j) else e.rd (R.STL_CMP_A_ACT j))
        ∧ t.rd (R.STL_CMP_B_ACT j) = (if s.b (F.STL_CTL_SHADOW j) then s.rd (R.STL_CMP_B j) else e.rd (R.STL_CMP_B_ACT j)))
  ∧ (∀ (r : Requester) (k : Fin 384) (v : Word) (s : State), s.writesReach r → s.isCheck (k.val / 24) = false →
    let e := s.stlDue k
    let w := v &&& 0xFFFFFF
    (∃ t, exec (.stlPeriodWrite r k 0 v) s = .next t ∧ ∀ j ∈ s.stlBoth k, t.rd (R.STL_PERIOD j) = w
      ∧ t.rd (R.STL_PERIOD_ACT j) = (if s.b (F.STL_CTL_SHADOW j) then e.rd (R.STL_PERIOD_ACT j) else w)
      ∧ t.f (F.STL_CNT_COUNT j) = e.f (F.STL_CNT_COUNT j)
      ∧ t.b (F.STL_FLAGS_TOP_CROSSED j) = (e.b (F.STL_FLAGS_TOP_CROSSED j)
        || (!s.b (F.STL_CTL_SHADOW j) && decide (w.toNat < e.f (F.STL_CNT_COUNT j)))))
    ∧ (∃ t, exec (.stlPeriodWrite r k 1 v) s = .next t
      ∧ (∀ j ∈ s.stlBoth k, t.rd (R.STL_CMP_A j) = w
        ∧ t.rd (R.STL_CMP_A_ACT j) = (if s.b (F.STL_CTL_SHADOW j) then e.rd (R.STL_CMP_A_ACT j) else w))
      ∧ ∀ a, (∀ j ∈ s.stlBoth k, a ≠ R.STL_CMP_A j ∧ a ≠ R.STL_CMP_A_ACT j) → t.rd a = e.rd a)
    ∧ ∃ t, exec (.stlPeriodWrite r k 2 v) s = .next t
      ∧ (∀ j ∈ s.stlBoth k, t.rd (R.STL_CMP_B j) = w
        ∧ t.rd (R.STL_CMP_B_ACT j) = (if s.b (F.STL_CTL_SHADOW j) then e.rd (R.STL_CMP_B_ACT j) else w))
      ∧ ∀ a, (∀ j ∈ s.stlBoth k, a ≠ R.STL_CMP_B j ∧ a ≠ R.STL_CMP_B_ACT j) → t.rd a = e.rd a)
  ∧ (∀ (r : Requester) (k : Fin 384) (v : Word) (s : State), s.writesReach r → s.isCheck (k.val / 24) = false →
    let e := s.stlDue k
    ∃ t, exec (.stlCntWrite r k v) s = .next t ∧ ∀ j ∈ s.stlBoth k, t.rd (R.STL_CNT j) = v &&& 0xFFFFFF
      ∧ t.b (F.STL_FLAGS_TOP_CROSSED j) = (e.b (F.STL_FLAGS_TOP_CROSSED j)
        || decide (e.f (F.STL_PERIOD_ACT_PER j) < (v &&& 0xFFFFFF).toNat)))
  ∧ (∀ (r : Requester) (k : Fin 384) (s : State), s.readsReach r →
    ∃ t, exec (.stlCntRead r k) s = .next t ∧ Sparse.get (fun _ => 0) t.lastRead (reqIdx r) = s.rd (R.STL_CNT k)
      ∧ (∀ j ∈ s.chainAbove k, s.f (F.STL_CFG_CLK_SRC k) ≠ 2 → t.snapRd r (R.STL_CNT_SNAP j) = s.rd (R.STL_CNT j))
      ∧ ∀ a, t.rd a = s.rd a)
  ∧ (∀ (r : Requester) (sh : Fin 16) (mask : BitVec 24) (s : State), s.writesReach r → s.isCheck sh = false →
    exec (.stlGo r sh mask) s = .next (overList ((List.range 24).filter (fun i => mask.getLsbD i))
      (fun x i => x.stlRestart (24 * sh + i)) s))
  ∧ (∀ (r : Requester) (sh : Fin 16) (mask : BitVec 24) (s : State), s.writesReach r → s.isCheck sh = false →
    let t := overList ((List.range 24).filter (fun i => mask.getLsbD i)) (fun x i => x.stlRun (24 * sh + i) false) s
    exec (.stlHalt r sh mask) s = .next t
      ∧ ∀ i : Fin 24, mask.getLsbD i = true → t.b (F.STL_CTL_RUN (24 * sh + i)) = false)
  ∧ ∀ (r : Requester) (k : Fin 384) (mask : BitVec 24) (v : Word) (s : State), s.writesReach r → s.isCheck (k.val / 24) = true →
    exec (.stlCtlRestart r k) s = .next s ∧ exec (.stlCtlLoad r k) s = .next s ∧ exec (.stlCtlShadowClear r k) s = .next s
    ∧ exec (.stlCntWrite r k v) s = .next s ∧ (∀ w : Fin 3, exec (.stlPeriodWrite r k w v) s = .next s)
    ∧ ∀ sh : Fin 16, sh.val = k.val / 24 → exec (.stlGo r sh mask) s = .next s ∧ exec (.stlHalt r sh mask) s = .next s

/-- The ALU (R155, Table 7.7). -/
def Obligations.EngineArithmeticIsExact : Prop :=
  ∀ (a b : Nat) (cin : Bool), a < 2 ^ 24 → b < 2 ^ 24 →
    let sg := fun x : Nat => if 2 ^ 23 ≤ x then (x : Int) - 2 ^ 24 else (x : Int)
    let fits := fun x : Int => -(2 ^ 23) ≤ x ∧ x < 2 ^ 23
    (∀ op, op < 16 → (alu op a b cin).res < 2 ^ 24)
    ∧ (alu 1 a b cin).res + 2 ^ 24 * toBit (alu 1 a b cin).c = a + b
    ∧ (alu 11 a b cin).res + 2 ^ 24 * toBit (alu 11 a b cin).c = a + b + toBit cin
    ∧ (∀ op, op = 2 ∨ op = 15 → (alu op a b cin).c = decide (a < b) ∧
        (alu op a b cin).res + b = a + 2 ^ 24 * toBit (alu op a b cin).c)
    ∧ (alu 12 a b cin).c = decide (a < b + toBit cin)
    ∧ (alu 12 a b cin).res + b + toBit cin = a + 2 ^ 24 * toBit (alu 12 a b cin).c
    ∧ (alu 13 a b cin).res + 2 ^ 24 * (alu 14 a b cin).res = a * b
    ∧ (alu 9 a b cin).res = min a b ∧ (alu 10 a b cin).res = max a b
    ∧ (alu 6 a b cin).res = a * 2 ^ (b % 32) % 2 ^ 24 ∧ (alu 7 a b cin).res = a / 2 ^ (b % 32)
    ∧ sg (alu 8 a b cin).res = sg a / 2 ^ (b % 32)
    ∧ ((alu 1 a b cin).v = true ↔ ¬ fits (sg a + sg b))
    ∧ ((alu 2 a b cin).v = true ↔ ¬ fits (sg a - sg b))

/-- The next address (R151, Table 7.3), after the word's own effects. -/
def Obligations.EngineWordsTakeTheirNextAddress : Prop :=
  ∀ (s s0 : State) (n : Fin 16) (u res : Nat) (x : Nano),
    let e := s.eng n
    let t := s.engNext s0 n u res x
    let c := if 8 ≤ x.cond ∧ x.cond ≤ 15 then s0.engCond n e x else s.engCond n e x
    (uBsel u = 0 → (t.eng n).upc = uNa u)
    ∧ (uBsel u = 1 → (t.eng n).upc = uNa u / 2 * 2 + toBit c)
    ∧ (uBsel u = 2 → (t.eng n).upc = uNa u / 16 * 16 + res % 16)
    ∧ (uBsel u = 3 → (t.eng n).upc = x.imm % 2 ^ 11 ∧ (t.eng n).stk = e.stk ++ [uNa u])
    ∧ (uBsel u = 4 → (t.eng n).upc = e.stk.getLastD 0 ∧ (t.eng n).stk = e.stk.dropLast)
    ∧ (uBsel u = 5 → e.lc ≠ 0 → (t.eng n).upc = uNa u / 2 * 2 ∧ (t.eng n).lc = e.lc - 1)
    ∧ (uBsel u = 5 → e.lc = 0 → (t.eng n).upc = uNa u / 2 * 2 + 1 ∧ (t.eng n).lc = 0)
    ∧ (uBsel u = 6 → (t.eng n).upc = uNa u ∧ (t.eng n).st = .done)
    ∧ (∀ m, m ≠ n.val → t.eng m = s.eng m) ∧ ∀ a, t.rd a = s.rd a

/-- ENGINE_WORD (R157, R158, R161, R175), ENGINE_WAIT_END (R159), ENGINE_PASS_START (R162), RST and PARK (R172). The engines' writes on their way land first (log entry 10). -/
def Obligations.EnginesRunTheirWords : Prop :=
  (∀ (n : Fin 16) (mgrBad trgBad : Bool) (s : State), s.isCheck n = false →
    let f := overList ((s.engFlush.engPair n).flatMap s.engFlush.engStalls) State.stlDue s.engFlush
    let x := f.nword n
    f.isLead n = false → f.engReady n = true → f.engCycle = true → (f.eng n).waiting = false → f.engIrqDue n = false →
    f.engIllegal n = false → f.engStackBad n = false → f.engMustWait n = false →
    f.reached ((f.eng n).ready + BitVec.ofNat 48 (2 * (f.engCycles n - 1))) = true →
    exec (.engineWord n mgrBad trgBad) s = .next
      (let p := if x.reads 21 then (f.spoil x.trg trgBad).agentPull x.trg (engAgent (f.engOf n)) (f.eng n).cut else (f, 0, false)
       let o := p.1.engEval n p.2.1 p.2.2 mgrBad
       ((p.1.mgrLog n mgrBad).engLatch n).engRun n o o.effs))
  ∧ (∀ (n : Fin 16) (mgrBad trgBad : Bool) (s : State), s.isCheck n = false →
    let f := overList ((s.engFlush.engPair n).flatMap s.engFlush.engStalls) State.stlDue s.engFlush
    let h := overList (f.engPair n) State.engHold f
    let p := h.engPull n trgBad
    let bad2 := (p.1.eng (n + 1)).mgrBad
    let o := p.1.engEval n p.2.1 p.2.2 mgrBad
    let o2 := p.1.engEval (n + 1) p.2.1 p.2.2 bad2
    f.isLead n = true → h.isLead n = true → f.engIrqDue n = false → (h.engActs n = true ∨ h.engActs (n + 1) = true) →
    (h.engActs n = true → h.engActs (n + 1) = true → o2.effs = o.effs → p.1.engIllegal (n + 1) = false → p.1.engStackBad (n + 1) = false →
      let t := ((((p.1.mgrLog n mgrBad).engLatch n).engRun n o o.effs).mgrLog (n + 1) bad2 |>.engLatch (n + 1)).engRun (n + 1) o2 []
      exec (.engineWord n mgrBad trgBad) s = .next (t.setEng (n + 1) { t.eng (n + 1) with mgrBad := false }))
    ∧ ((if h.engActs n then o.effs else []) ≠ (if h.engActs (n + 1) then o2.effs else []) →
      ∃ t, exec (.engineWord n mgrBad trgBad) s = .next t ∧ (t.eng n).st = .fault ∧ (t.eng (n + 1)).st = .fault))
  ∧ (∀ (n : Fin 16) (mgrBad trgBad : Bool) (s : State), s.isCheck n = true →
    exec (.engineWord n mgrBad trgBad) s = .next (s.setEng n { s.eng n with mgrBad := (s.eng n).mgrBad || mgrBad }))
  ∧ (∀ (n : Fin 16) (mgrBad trgBad : Bool) (s : State), s.isCheck n = false →
    let f := overList ((s.engFlush.engPair n).flatMap s.engFlush.engStalls) State.stlDue s.engFlush
    f.isLead n = false → f.engReady n = true → f.engCycle = true → f.mode ≠ 3 → (f.eng n).waiting = false → f.engIrqDue n = false →
    f.engIllegal n = false → f.engStackBad n = false → f.engMustWait n = true → f.reached (f.eng n).ready = true →
    exec (.engineWord n mgrBad trgBad) s = .next (f.setEng n { f.eng n with waiting := true, waitOver := f.condMet n }))
  ∧ (∀ (n : Fin 16) (s : State), s.isCheck n = false → s.isLead n = false → s.engReady n = true → s.engCycle = true → (s.eng n).waiting = true →
    s.engIrqDue n = false → s.engMustWait n = false →
    exec (.engineWaitEnd n) s = .next (s.setEng n { s.eng n with waiting := false, waitOver := true, ready := s.now }))
  ∧ (∀ (n : Fin 16) (s : State), s.isLead n = false → s.isCheck n = false → (s.eng n).st = .done → (s.eng n).startHeld = true →
    s.engParked n = false → s.engClock = true → s.mode ≠ 3 → s.engCycle = true → s.engIrqDue n = false →
    exec (.enginePassStart n) s = .next (State.engFirst (s.setEng n { s.eng n with
      st := .run, sx := 31, stk := [], vis := false, startHeld := false
      ready := if s.reached (s.eng n).ready then s.now else (s.eng n).ready }) n))
  ∧ (∀ (r : Requester) (n : Fin 16) (s : State), s.writesReach r → s.isCheck n = false →
    ∃ t, exec (.engCtlRst r n true) s = .next t
      ∧ (∀ m, m = n.val ∨ (s.isLead n = true ∧ m = n.val + 1) → t.b (F.SHD_ENG_CTL_RST m) = true
        ∧ (s.engFreeAt m s.now = true → (t.eng m).st = .reset ∧ (t.eng m).sx = 0
          ∧ (t.eng m).lc = 0 ∧ (t.eng m).stk = [] ∧ (t.eng m).vis = false ∧ (t.eng m).startHeld = false
          ∧ (t.eng m).manger = (s.eng m).manger
          ∧ (∀ i : Fin 16, t.rd (R.SHD_ENG_G m i) = 0) ∧ ∀ i : Fin 16, 12 ≤ i.val → t.rd (R.SHD_ENG_T m i) = 0)
        ∧ (s.engFreeAt m s.now = false → t.eng m = s.eng m))
      ∧ ∀ m, m ≠ n.val → m ≠ n.val + 1 → t.eng m = s.eng m)
  ∧ (∀ (r : Requester) (n : Fin 16) (s : State), s.writesReach r → s.isCheck n = false →
    ∃ t, exec (.engCtlRst r n false) s = .next t ∧ t.b (F.SHD_ENG_CTL_RST n) = false ∧ ∀ m, t.eng m = s.eng m)
  ∧ ∀ (r : Requester) (n : Fin 16) (b : Bool) (s : State), s.writesReach r → s.isCheck n = false →
    ∃ t, exec (.engCtlPark r n b) s = .next t ∧ t.b (F.SHD_ENG_CTL_PARK n) = b
      ∧ (∀ m, (t.eng m).upc = (s.eng m).upc ∧ (t.eng m).st = (s.eng m).st)
      ∧ (∀ m, m ≠ n.val → m ≠ n.val + 1 → t.eng m = s.eng m)
      ∧ ∀ a, a ≠ R.SHD_ENG_CTL n → a ≠ R.SHD_ENG_CTL (n + 1) → t.rd a = s.rd a

/-- TRAP (R164, R166, R168, R170, R171, R175). -/
def Obligations.EngineTrapsSaveAndVector : Prop :=
  (∀ (n : Fin 16) (kind lag : Nat) (g : Option Nat) (s : State), let k := 24 * n.val + (if (s.eng n).sx < 24 then (s.eng n).sx else 0)
    let t := s.engTrap n kind g lag
    (t.eng n).trapped = true ∧ (t.eng n).st = .run ∧ (t.eng n).stk = []
    ∧ (t.eng n).upc = (if kind < 2 then s.f (F.SHD_ENG_VEC_IRQ_VEC n) else s.f (F.SHD_ENG_VEC_FAULT_VEC n))
    ∧ t.rd (R.SHD_ENG_CAUSE n) = BitVec.ofNat 32 (causeWord kind g)
    ∧ t.rd (R.STL_SAVE k 4) = BitVec.ofNat 32 (causeWord kind g)
    ∧ t.rd (R.STL_SAVE k 5) = BitVec.ofNat 32 ((s.now.toNat + lag) % 2 ^ 24)
    ∧ ((s.eng n).upc < 2 ^ 11 → getBits (t.rd (R.STL_SAVE k 0)) 0 11 = (s.eng n).upc)
    ∧ t.rd (R.SHD_ENG_TRAPS n) = BitVec.ofNat 32 (min ((s.rd (R.SHD_ENG_TRAPS n)).toNat % 2 ^ 24 + 1) 0xFFFFFF)
    ∧ (∀ i : Fin 16, t.rd (R.SHD_ENG_G n i) = s.rd (R.SHD_ENG_G n i)) ∧ ∀ m, m ≠ n.val → t.eng m = s.eng m)
  ∧ (∀ (n : Fin 16) (kind : Nat) (c : LogCode) (s : State), kind = 2 ∨ kind = 3 →
    ((s.eng n).trapped = true → s.engFaultTrap n kind c = (s.log c n 0).engFault n)
    ∧ ((s.eng n).trapped = false → s.engFaultTrap n kind c = (((s.log c n 0).engTrap n kind none
      (if (s.eng n).waiting || (s.eng n).st = .done then 2 else 0)).bump (R.SHD_ENG_FAULTS n)).pulse (112 + n)))
  ∧ (∀ (n : Fin 16) (c : LogCode) (s : State), (s.eng n).trapped = false → ((s.engFaultTrap n 4 c).eng n).eccSafe = true
      ∧ ((s.engFaultTrap n 4 c).eng n).trapped = true ∧ ((s.engFaultTrap n 4 c).eng n).upc = s.f (F.SHD_ENG_VEC_FAULT_VEC n))
  ∧ ∀ (n : Fin 16) (s : State), s.isCheck n = false → s.engClock = true → s.mode ≠ 3 → s.engCycle = true → s.engParked n = false →
    s.engFree n = true →
    ((s.eng n).st = .run → (s.eng n).soft = true →
      exec (.trap n .soft) s = .next (s.engBoth n (fun x m => x.engTrap m 1 none 0)))
    ∧ (∀ g, s.engSource n = some g → s.engIrqDue n = true → (s.eng n).soft = false →
      exec (.trap n .irq) s = .next ((s.engBoth n (fun x m => x.engTrap m 0 (some g) 0)).claim g (.engine n)))
    ∧ (s.engNextUp n = true → s.engIrqDue n = false → s.engIllegal n = true →
      exec (.trap n .illegal) s = .next (s.engBoth n (fun x m => x.engFaultTrap m 2 .shdEngIllegal)))
    ∧ ((s.eng n).st = .run → s.engNextUp n = true → s.engIrqDue n = false → s.engIllegal n = false → s.engStackBad n = true →
      exec (.trap n .stack) s = .next (s.engBoth n (fun x m => x.engFaultTrap m 3 .shdEngStack)))
    ∧ (s.engNextUp n = true → s.engIrqDue n = false → (s.eng n).waiting = false →
      exec (.trap n .ecc) s = .next (s.engBoth n (fun x m => x.engFaultTrap m 4 .shdUcodeEcc)))

/-- NOP, CLRF, NOW, FINE, CLRSR, STAMP, ADDT, ADDD, LDL, JMP, HALT and IRQ (R181, R182, Tables 8.3 to 8.5). -/
def Obligations.RunnerRegisterInstructionsComplete : Prop :=
  ∀ (n : Fin 32) (bad : Bool) (s : State), let w := s.rnWord n
    (s.issues n .nop bad → ∃ t, exec (.rnNop n bad) s = .next t ∧ s.ranOn t n ∧ ∀ a, t.rd a = s.rd a)
    ∧ (s.issues n .clrf bad → ∃ t, exec (.rnClrf n bad) s = .next t ∧ s.ranOn t n
      ∧ t.rd (R.RUN_FLAGS n) = s.rd (R.RUN_FLAGS n) &&& ~~~ (BitVec.ofNat 32 (w % 16)) ∧ ∀ a, a ≠ R.RUN_FLAGS n → t.rd a = s.rd a)
    ∧ (s.issues n .now bad → ∃ t, exec (.rnNow n bad) s = .next t ∧ s.ranOn t n
      ∧ t.rnTr n = s.now.setWidth 24 + BitVec.ofNat 24 (w % 2 ^ 8) ∧ ∀ a, a ≠ R.RUN_TIME n → t.rd a = s.rd a)
    ∧ (s.issues n .addt bad → ∃ t, exec (.rnAddt n bad) s = .next t ∧ s.ranOn t n
      ∧ t.rnTr n = s.rnTr n + BitVec.ofNat 24 (w % 2 ^ 12) ∧ ∀ a, a ≠ R.RUN_TIME n → t.rd a = s.rd a)
    ∧ (s.issues n .addd bad → ∃ t, exec (.rnAddd n bad) s = .next t ∧ s.ranOn t n
      ∧ t.rnTr n = s.rnTr n + BitVec.ofNat 24 (if w % 2 = 1 then s.f (F.RUN_D1_D n) else s.f (F.RUN_D0_D n))
      ∧ ∀ a, a ≠ R.RUN_TIME n → t.rd a = s.rd a)
    ∧ (s.issues n .fine bad → ∃ t, exec (.rnFine n bad) s = .next t ∧ s.ranOn t n
      ∧ t.f (F.RUN_TFINE_TF n) = w % 2 ^ 5 ∧ ∀ a, a ≠ R.RUN_TFINE n → t.rd a = s.rd a)
    ∧ (s.issues n .clrsr bad → ∃ t, exec (.rnClrsr n bad) s = .next t ∧ s.ranOn t n ∧ t.rnSr n = 0
      ∧ ∀ a, a ≠ R.RUN_SR_LO n → a ≠ R.RUN_SR_HI n → t.rd a = s.rd a)
    ∧ (s.issues n .stamp bad → ∃ t, exec (.rnStamp n bad) s = .next t ∧ s.ranOn t n ∧ t.f (F.RUN_STAMP_S n) = (s.rnTr n).toNat
      ∧ ∀ a, a ≠ R.RUN_STAMP n → t.rd a = s.rd a)
    ∧ (s.issues n .ldl bad → ∃ t, exec (.rnLdl n bad) s = .next t ∧ s.ranOn t n
      ∧ t.f (F.RUN_LOOP_LA n) = (if w.testBit 11 then s.f (F.RUN_LOOP_LA n) else w % 2 ^ 11)
      ∧ t.f (F.RUN_LOOP_LB n) = (if w.testBit 11 then w % 2 ^ 11 else s.f (F.RUN_LOOP_LB n))
      ∧ ∀ a, a ≠ R.RUN_LOOP n → t.rd a = s.rd a)
    ∧ (s.issues n .irq bad → exec (.rnIrq n bad) s = .next (((s.issued n).pulse (128 + n)).rnNext n))
    ∧ (s.issues n .halt bad → exec (.rnHalt n bad) s = .next ((s.issued n).rnHaltNow n))
    ∧ ∀ level : Bool, s.issues n .jmp bad →
      let la := s.f (F.RUN_LOOP_LA n)
      let lb := s.f (F.RUN_LOOP_LB n)
      let c := w >>> 9 % 8
      let take := match c with
        | 0 => true
        | 1 => la != 0
        | 2 => lb != 0
        | 3 => (s.rd (R.RUN_FLAGS n)).getLsbD 0
        | 4 => s.rnIn n 0 level
        | 5 => decide (0 < s.trgUnread (s.f (F.RUN_CFG_TRG_IN n)))
        | 6 => (s.rn n).poison
        | _ => decide (0 < s.trgSpace (s.f (F.RUN_CFG_TRG_OUT n)))
      ∃ t, exec (.rnJmp n level bad) s = .next t ∧ (t.rn n).due = s.now + 2
        ∧ (take = true → (t.rn n).pc = w % 2 ^ 7) ∧ (take = false → s.ranOn t n)
        ∧ t.f (F.RUN_LOOP_LA n) = (if take && c == 1 then la - 1 else la)
        ∧ t.f (F.RUN_LOOP_LB n) = (if take && c == 2 then lb - 1 else lb)
        ∧ ∀ a, a ≠ R.RUN_LOOP n → t.rd a = s.rd a

/-- PIN, RUNNER_TIMED_EDGE (R183, R185), WAIT and RUNNER_WAIT_END (R186), SHIFT and SHIFT_BIT (R187), PUSH and PULL (R188), REQ, REQW, UNREQ (R189). -/
def Obligations.RunnersWaitShiftAndDrive : Prop :=
  (∀ (n : Fin 32) (bad trgBad : Bool) (s : State), let w := s.rnWord n
    let i := s.issued n
    (s.issues n .pin bad → exec (.rnPin n bad) s = .next
      (if w.testBit 7 then
        (if i.rnDue (i.rnTr n) then (i.rnTimed n (w >>> 10 % 4) (w >>> 8 % 4) (i.rnTr n)).rnNext n else i.rnWaitOn n 6)
       else (i.rnEdge n (w >>> 10 % 4) (w >>> 8 % 4) (fineOf (i.now + 24) 0)).rnNext n))
    ∧ (s.issues n .wait bad → (w >>> 10 % 4 = 0 ∧ (s.now.setWidth 24 - s.rnTr n).toNat < 2 ^ 23) ∨ (w >>> 10 % 4 = 3 ∧ s.now = s.tb.t0) →
      ∃ t, exec (.rnWait n bad) s = .next t ∧ s.ranOn t n ∧ ∀ a, t.rd a = s.rd a)
    ∧ (s.issues n .wait bad → w >>> 10 % 4 = 2 → (s.rd (R.RUN_FLAGS n)).getLsbD (w % 4) = true →
      ∃ t, exec (.rnWait n bad) s = .next t ∧ s.ranOn t n ∧ (t.rd (R.RUN_FLAGS n)).getLsbD (w % 4) = false
        ∧ ∀ a, a ≠ R.RUN_FLAGS n → t.rd a = s.rd a)
    ∧ (s.issues n .wait bad → w >>> 10 % 4 = 1 ∨ (w >>> 10 % 4 = 0 ∧ 2 ^ 23 ≤ (s.now.setWidth 24 - s.rnTr n).toNat)
        ∨ (w >>> 10 % 4 = 2 ∧ (s.rd (R.RUN_FLAGS n)).getLsbD (w % 4) = false) ∨ (w >>> 10 % 4 = 3 ∧ s.now ≠ s.tb.t0) →
      ∃ t, exec (.rnWait n bad) s = .next t ∧ (t.rn n).st = .wait ∧ (t.rn n).on = w >>> 10 % 4 + 1 ∧ ∀ a, t.rd a = s.rd a)
    ∧ (s.issues n .req bad → ∃ t, exec (.rnReq n bad) s = .next t ∧ s.ranOn t n ∧ (t.rn n).req = true ∧ ∀ a, t.rd a = s.rd a)
    ∧ (s.issues n .unreq bad → ∃ t, exec (.rnUnreq n bad) s = .next t ∧ s.ranOn t n ∧ (t.rn n).req = false ∧ ∀ a, t.rd a = s.rd a)
    ∧ (s.issues n .reqw bad → ∃ t, exec (.rnReqw n bad) s = .next t ∧ (t.rn n).req = true ∧ (t.rn n).st = .wait ∧ (t.rn n).on = 7
      ∧ ∀ a, t.rd a = s.rd a)
    ∧ (s.issues n .push bad → exec (.rnPush n bad) s = .next (if i.rnCanPush n then i.rnPushNow n w else i.rnWaitOn n 5))
    ∧ (s.issues n .pull bad → exec (.rnPull n bad trgBad) s = .next (if i.rnCanPull n then (i.spoil (i.f (F.RUN_CFG_TRG_IN n)) trgBad).rnPullNow n w else i.rnWaitOn n 5))
    ∧ ∀ level : Bool, s.issues n .shift bad → exec (.rnShift n level bad) s = .next
      (((((i.setRn n { i.rn n with bit := 0, samples := [] }).setF (F.RUN_BC_BC n) (w % 2 ^ 6)).rnBitTimes n).rnWaitOn n 6).rnShiftBit n level))
  ∧ (∀ (n : Fin 32) (s : State), (s.rn n).st = .wait → s.rnMode n = true → s.rnParked n = false →
    ((s.rn n).on = 6 → rnOp (s.rn n).ir = .pin → s.rnDue (s.rnTr n) = true → exec (.runnerTimedEdge n) s = .next
      ((s.rnTimed n ((s.rn n).ir >>> 10 % 4) ((s.rn n).ir >>> 8 % 4) (s.rnTr n)).rnNext n))
    ∧ (∀ level, rnOp (s.rn n).ir = .shift → exec (.shiftBit n level) s = .next (s.rnShiftBit n level))
    ∧ (∀ level trgBad, rnOp (s.rn n).ir = .wait → s.rnWaitOver n (s.rn n).ir level = true →
      exec (.runnerWaitEnd n level trgBad) s = .next (s.rnWaitEnds n (s.rn n).ir))
    ∧ (∀ level trgBad, rnOp (s.rn n).ir = .push → s.rnCanPush n = true → exec (.runnerWaitEnd n level trgBad) s = .next (s.rnPushNow n (s.rn n).ir))
    ∧ (∀ level trgBad, rnOp (s.rn n).ir = .pull → s.rnCanPull n = true → exec (.runnerWaitEnd n level trgBad) s = .next
      ((s.spoil (s.f (F.RUN_CFG_TRG_IN n)) trgBad).rnPullNow n (s.rn n).ir))
    ∧ (∀ level trgBad, rnOp (s.rn n).ir = .reqw → (s.rn n).req = false → exec (.runnerWaitEnd n level trgBad) s = .next (s.rnNext n)))
  ∧ ∀ (n : Fin 32) (b : Bool) (s : State),
    (s.rnShiftIn n true b).rnSr n = (s.rnSr n >>> 1) ||| (if b then 0x80000000#32 else 0#32)
    ∧ (s.rnShiftIn n false b).rnSr n = (s.rnSr n <<< 1) ||| (if b then 1#32 else 0#32)

/-- Starting and stopping (R190), parking and injection (R191, R192), program words (R193), faults (R194) and the service check (R196). -/
def Obligations.RunnerControlActs : Prop :=
  (∀ (r : Requester) (n : Fin 32) (s : State), s.writesReach r → (s.rn n).st = .halted ∨ (s.rn n).st = .fault →
    ∃ t, exec (.runGo r n) s = .next t ∧ (t.rn n).st = .run ∧ (t.rn n).pc = s.f (F.RUN_CTL_ENTRY n) ∧ (t.rn n).due = s.now + 1
      ∧ t.rnSr n = 0 ∧ t.f (F.RUN_BC_BC n) = 0 ∧ t.f (F.RUN_STAMP_S n) = 0 ∧ t.b (F.RUN_CTL_PARK n) = false
      ∧ t.rnTr n = s.rnTr n ∧ ∀ m, m ≠ n.val → t.rn m = s.rn m)
  ∧ (∀ (r : Requester) (n : Fin 32) (s : State), s.writesReach r → (s.rn n).st = .run ∨ (s.rn n).st = .wait →
    exec (.runGo r n) s = .next s)
  ∧ (∀ (r : Requester) (n : Fin 32) (s : State), s.writesReach r →
    exec (.runCtlRestart r n) s = .next (s.rnStart n (s.f (F.RUN_CTL_ENTRY n)))
    ∧ ((s.rn n).st = .fault → exec (.runCtlHalt r n) s = .next s)
    ∧ ((s.rn n).st ≠ .fault → ∃ t, exec (.runCtlHalt r n) s = .next t ∧ (t.rn n).st = .halted ∧ (t.rn n).req = false
      ∧ (∀ m, m ≠ n.val → t.rn m = s.rn m) ∧ ∀ a, t.rd a = s.rd a))
  ∧ (∀ (r : Requester) (n : Fin 32) (b : Bool) (s : State), s.writesReach r →
    ∃ t, exec (.runCtlPark r n b) s = .next t ∧ t.b (F.RUN_CTL_PARK n) = b ∧ t.rn n = s.rn n
      ∧ ∀ a, a ≠ R.RUN_CTL n → t.rd a = s.rd a)
  ∧ (∀ (r : Requester) (n : Fin 32) (v : Word) (s : State), s.writesReach r →
    ((s.rn n).injPend = false → (s.rn n).st ≠ .fault → ∃ t, exec (.runInject r n v) s = .next t ∧ (t.rn n).injPend = true
      ∧ t.f (F.RUN_INJECT_INSN n) = getBits v 0 16 ∧ (t.rn n).pc = (s.rn n).pc ∧ (t.rn n).st = (s.rn n).st)
    ∧ ((s.rn n).injPend = true ∨ (s.rn n).st = .fault → ∃ t, exec (.runInject r n v) s = .next t
      ∧ (t.rd (R.RUN_STAT n)).getLsbD 14 = true ∧ t.rn n = s.rn n ∧ ∀ a, a ≠ R.RUN_STAT n → t.rd a = s.rd a))
  ∧ (∀ (r : Requester) (n : Fin 32) (v : Word) (s : State), s.writesReach r →
    (∃ t, exec (.runFlagsWrite r n true v) s = .next t ∧ t.rd (R.RUN_FLAGS n) = s.rd (R.RUN_FLAGS n) ||| (v &&& 0xF)
      ∧ ∀ a, a ≠ R.RUN_FLAGS n → t.rd a = s.rd a)
    ∧ ∃ t, exec (.runFlagsWrite r n false v) s = .next t ∧ t.rd (R.RUN_FLAGS n) = s.rd (R.RUN_FLAGS n) &&& ~~~ (v &&& 0xF)
      ∧ ∀ a, a ≠ R.RUN_FLAGS n → t.rd a = s.rd a)
  ∧ (∀ (r : Requester) (n : Fin 32) (i : Fin 128) (v : Word) (s : State), s.writesReach r →
    ∃ t, exec (.runProgWrite r n i v) s = .next t ∧ t.rd (R.RUN_PROG n i) = v &&& 0xFFFF
      ∧ i.val ∉ (t.rn n).badProg ∧ (t.rn n).st = (s.rn n).st ∧ ∀ a, a ≠ R.RUN_PROG n i → t.rd a = s.rd a)
  ∧ ∀ (bad : List (Fin 32 × Fin 128)) (s : State), (s.part 18).busy = true →
    200 + 32 * ((List.range 32).filter (fun n => (s.rn n).st != .halted)).length ≤ s.tb.phase →
    ∃ t, exec (.runnerServiceCheck bad) s = .next t ∧ ((s.part 18).queued = none → (t.part 18).busy = false)
      ∧ ∀ n : Fin 32, ((s.rn n).st = .halted → t.rn n = s.rn n)
        ∧ ((s.rn n).st = .run ∨ (s.rn n).st = .wait →
          ((s.rn n).badProg ≠ [] ∨ (∃ k, (n, k) ∈ bad) → (t.rn n).st = .fault ∧ (t.rn n).byParity = true)
          ∧ ((s.rn n).badProg = [] → (∀ k, (n, k) ∉ bad) → t.rn n = s.rn n))

/-- The two switches of a bank (R200): `side` is 0 for both off, 1 for HSG_b, 2 for HBG_b, so that both are never on together. That DEAD is at least 10 SYSCLK periods is Table 9.5's. -/
def Obligations.BankSwitchesNeverOverlap : Prop :=
  (∀ (s : State) (b : Nat),
    let k := s.bk b
    let t := (s.bankSettle b).bk b
    (k.side ≠ 0 → t.side = k.side
      ∨ (t.side = 0 ∧ t.last = k.side ∧ t.dead = some (s.now + BitVec.ofNat 48 (2 * max 10 (s.f (F.HSW_CFG_DEAD b))))))
    ∧ (k.side = 0 → t.side ≠ 0 → t.side = k.last ∨ k.dead = none ∨ ∃ d, k.dead = some d ∧ s.reached d = true))
  ∧ (∀ (s : State) (b n : Nat), s.mode ≤ 1 ∨ s.mode = 3 ∨ s.mode = 6 ∨ s.b F.PWR_RAIL_STAT_VGD_UV = true →
    ((s.bankSettle b).bk b).side = 0 ∧ s.vlgOn n = false)
  ∧ ∀ (b : Fin 8) (s : State) (d : Time), (s.bk b).side = 0 → (s.bk b).dead = some d → s.reached d = true →
    ∃ t, exec (.deadTimeEnd b) s = .next t ∧ (t.bk b).side = s.wantSide b ∧ ∀ a, t.rd a = s.rd a

/-- Refused starts of a valve channel, whether from an event or from Holtid (R208, R215). -/
def Obligations.RefusedStartsLeaveTheChannel : Prop :=
  ∀ (s : State) (n : Fin 32) (o : VOwner) (p dur : Nat),
    let t := s.vStart n o p dur
    let v := s.vlv n
    (v.forced = true ∨ (s.mode ≠ 4 ∧ s.mode ≠ 5 ∧ s.mode ≠ 7) ∨ s.b F.PWR_STAT_RAMP = true ∨ v.st = .locked ∨ v.modelBad = true
      ∨ s.b F.PWR_VSG_STAT_GATE = false ∨ s.b F.PWR_RAIL_STAT_VGD_UV = true ∨ s.b (F.VLV_CTL_EN n) = false
      ∨ (s.solo (n.val / 4) = true ∧ n.val % 4 ≠ 0) →
      (t.vlv n).st = v.st ∧ (t.vlv n).prof = v.prof ∧ (t.vlv n).owner = v.owner ∧ (t.vlv n).wait = v.wait)
    ∧ ((s.mode ≠ 4 ∧ s.mode ≠ 5 ∧ s.mode ≠ 7) ∨ s.b F.PWR_STAT_RAMP = true → t.b (F.VLV_STAT_REFUSED_MODE n) = true)
    ∧ (v.forced = true ∨ v.st = .locked ∨ v.modelBad = true ∨ s.b F.PWR_VSG_STAT_GATE = false ∨ s.b F.PWR_RAIL_STAT_VGD_UV = true →
      t.rd (R.VLV_CNT_LOCKREF n) = BitVec.ofNat 32 (min ((s.rd (R.VLV_CNT_LOCKREF n)).toNat % 2 ^ 24 + 1) 0xFFFFFF))
    ∧ (t.bk (n / 4)).test = none

/-- VALVE_SENSE_RESULT (R203 to R205), the time tests (R209), durations (R212), grace (R216), BOOST_CONVERTER_PULSE and VBST_THRESHOLD (R201, R202). -/
def Obligations.ValvePhasesEndAtTheirTimes : Prop :=
  (∀ (n : Fin 32) (s : State), let v := s.vlv n
    v.flyback = none → v.wait = none →
    (v.st = .boost → s.passed v.tb v.prof.tBst = true → ∃ t, exec (.tBstMaxExpiry n) s = .next t ∧ (t.vlv n).st = .peak
      ∧ t.b (F.VLV_STAT_BOOST_TIMEOUT n) = true)
    ∧ (v.st = .peak → s.passed v.tb v.prof.tPeak = true → ∃ t, exec (.tPeakExpiry n) s = .next t ∧ (t.vlv n).st = .drop
      ∧ (t.vlv n).sw = false ∧ ∀ a, t.rd a = s.rd a)
    ∧ (v.st.runs = true → v.prof.tMax ≠ 0 → s.passed v.ts v.prof.tMax = true → ∃ t, exec (.tMaxExpiry n) s = .next t
      ∧ (t.vlv n).st = .decay ∧ (t.vlv n).td = s.now)
    ∧ (v.st = .decay → s.passed v.td v.prof.tDecay = true → ∃ t, exec (.tDecayMaxExpiry n) s = .next t ∧ (t.vlv n).st = .off
      ∧ (t.vlv n).owner = none ∧ t.b (F.VLV_STAT_DECAY_LONG n) = true)
    ∧ (∀ e, v.st.runs = true → v.durEnd = some e → s.reached e = true → ∃ t, exec (.vlvDurationEnd n) s = .next t
      ∧ (t.vlv n).st = .decay))
  ∧ (∀ (n : Fin 32) (s : State) (w : VWait), (s.vlv n).wait = some w → s.passed w.since (500 * s.f (F.HSW_CFG_GRACE (n.val / 4))) = true →
    ∃ t, exec (.boostGraceExpiry n) s = .next t ∧ (t.vlv n).wait = none
      ∧ (t.vlv n).st = (if (s.vlv n).st = .wait then .off else (s.vlv n).st) ∧ t.b (F.VLV_STAT_CONFLICT n) = true
      ∧ t.rd (R.VLV_CNT_CONFLICT n) = BitVec.ofNat 32 (min ((s.rd (R.VLV_CNT_CONFLICT n)).toNat % 2 ^ 24 + 1) 0xFFFFFF))
  ∧ (∀ (n : Fin 32) (code : BitVec 12) (s : State), s.resultTick n = true → 2 ≤ s.mode → s.b (F.VLV_DIAG_CFG_ON_EN n) = false →
    (s.vlv n).flyback = none →
    ∃ t, exec (.valveSenseResult n code) s = .next t
      ∧ (let x := code.toNat - s.f (F.VLV_OFS_OFS n)
         let v := s.vlv n
         (t.vlv n).x = x ∧ t.f (F.VLV_I_X n) = x
         ∧ (v.st = .peak → (t.vlv n).st = .peak ∧ (t.vlv n).sw =
            (if v.sw then decide (x < v.prof.peak) else decide (x + v.prof.hPeak ≤ v.prof.peak ∧ v.prof.chopMin ≤ since s.now v.tOn)))))
  ∧ (∀ s : State, s.b F.BST_STAT_CHARGING = true → s.b F.BST_STAT_OV = false → s.bst.gate = false → s.bst.offUntil = none →
    ∃ t, exec (.boostConverterPulse .gateOn) s = .next t ∧ t.bst.gate = true ∧ t.bst.gateAt = s.now
      ∧ t.rd R.BST_CNT_PULSE = BitVec.ofNat 32 (min ((s.rd R.BST_CNT_PULSE).toNat % 2 ^ 24 + 1) 0xFFFFFF)
      ∧ ∀ a, a ≠ R.BST_CNT_PULSE → t.rd a = s.rd a)
  ∧ (∀ (cs : Nat) (s : State), s.bst.gate = true → 5 * s.f F.BST_SW_ILIM ≤ cs ∨ s.passed s.bst.gateAt (20 * s.f F.BST_SW_TON_MAX) = true →
    exec (.boostConverterPulse (.gateOff cs)) s = .next { s with bst := { s.bst with
      gate := false, offUntil := some (s.now + BitVec.ofNat 48 (20 * s.f F.BST_SW_TOFF)) } })
  ∧ (∀ (s : State) (e : Time), s.bst.offUntil = some e → s.reached e = true →
    exec (.boostConverterPulse .offTimeEnd) s = .next { s with bst := { s.bst with offUntil := none } })
  ∧ ∀ (code : BitVec 9) (s : State), 2 ≤ s.mode → ∃ t, exec (.vbstThreshold code) s = .next t ∧ t.bst.vbst = code.toNat
      ∧ t.b F.BST_STAT_OV = decide (s.vov ≤ code.toNat) ∧ t.b F.BST_STAT_LOW = decide (code.toNat < s.f F.BST_LIM_VMIN)
      ∧ (s.vov ≤ code.toNat → t.bst.gate = false)

/-- Off-state tests (R228, R229), on-state checks (R230), offset calibration (R232), unlocking (R227, R234), the coil model (R225) and the supply guard (R233). -/
def Obligations.ValveDiagnosisLocksAndUnlocks : Prop :=
  (∀ (n : Fin 32) (s : State) (e : Time), s.onChecked n = true → (s.vlv n).onSince = some e → s.passed e 500 = true →
    ∃ t, exec (.overcurrentDetect n) s = .next t ∧ t.f (F.VLV_DIAG_STAT_ON_VERDICT n) = 3 ∧ t.cause n lShortSup = true
      ∧ (s.cause n lShortSup = false → (t.vlv n).st = .locked ∧ t.b (F.VLV_DIAG_STAT_LOCKED n) = true))
  ∧ (∀ (n : Fin 32) (s : State) (e : Time), s.onChecked n = true → (s.vlv n).onSince = some e →
    s.passed e (500 * max 1 (s.f (F.VLV_DIAG_CFG_T_OPEN n))) = true → s.resultTick n = true →
    (s.vlv n).x < s.f (F.VLV_DIAG_CFG_OPEN_THR n) → ∃ t, exec (.tOpenExpiry n) s = .next t ∧ (t.vlv n).flyback = some s.now
      ∧ ∀ a, t.rd a = s.rd a)
  ∧ (∀ (n : Fin 32) (s : State) (e : Time), (s.vlv n).flyback = some e → s.passed e 5000 = true →
    (∃ t, exec (.flybackCheckEnd n true) s = .next t ∧ t.f (F.VLV_DIAG_STAT_ON_VERDICT n) = 1 ∧ (t.vlv n).flyback = none
      ∧ t.b (F.VLV_DIAG_STAT_FAULT_STICKY n) = true)
    ∧ ∃ t, exec (.flybackCheckEnd n false) s = .next t ∧ t.f (F.VLV_DIAG_STAT_ON_VERDICT n) = 2 ∧ (t.vlv n).flyback = none
      ∧ t.cause n lShortGnd = true ∧ t.cause n lBank = true)
  ∧ (∀ (b : Fin 8) (s : State) (q : Time), (s.bk b).quiet = some q → s.passed q 25000 = true →
    (s.bk b).lastTest = none ∨ (∃ l, (s.bk b).lastTest = some l ∧ s.passed l 512000 = true) →
    s.diagMode = true → (s.bk b).test = none → (bankChans b).any (fun n => s.b (F.VLV_DIAG_CFG_OFF_EN n)) = true →
    exec (.offStateTestStart b) s = .next (s.setBk b { s.bk b with test := some s.now, lastTest := some s.now, pu := none }))
  ∧ (∀ (b : Fin 8) (h d0 d1 d2 d3 : NodeClass) (s : State) (e : Time), (s.bk b).test = some e → s.passed e 50000 = true →
    (s.bk b).pu = none → exec (.offStatePuEnd b h d0 d1 d2 d3) s = .next (s.setBk b { s.bk b with pu := some (h, [d0, d1, d2, d3]) }))
  ∧ (∀ (b : Fin 8) (h d0 d1 d2 d3 hu u0 u1 u2 u3 : NodeClass) (s : State) (e : Time), (s.bk b).test = some e →
    (s.bk b).pu = some (hu, [u0, u1, u2, u3]) → s.passed e 100000 = true →
    ∃ t, exec (.offStatePdEnd b h d0 d1 d2 d3) s = .next t ∧ (t.bk b).test = none
      ∧ ∀ n ∈ bankChans b, s.b (F.VLV_DIAG_CFG_OFF_EN n) = true →
        t.rd (R.VLV_CNT_TEST n) = BitVec.ofNat 32 (min ((s.rd (R.VLV_CNT_TEST n)).toNat % 2 ^ 24 + 1) 0xFFFFFF)
        ∧ ((∀ x ∈ [h, d0, d1, d2, d3, hu, u0, u1, u2, u3], x = NodeClass.mid) → t.f (F.VLV_DIAG_STAT_OFF_VERDICT n) = 1))
  ∧ (∀ hu hd vu vd : NodeClass, offVerdict hu hd vu vd = .ok ↔ hu = .mid ∧ hd = .mid ∧ vu = .mid ∧ vd = .mid)
  ∧ (∀ (n : Fin 32) (s : State), 256 ≤ (s.vlv n).calN → s.diagMode = true → 16 ≤ ((s.vlv n).calSum + 128) / 256 →
    ((s.vlv n).calSum + 128) / 256 ≤ 112 → ∃ t, exec (.offsetCalibrationDone n) s = .next t
      ∧ t.f (F.VLV_OFS_OFS n) = ((s.vlv n).calSum + 128) / 256 ∧ t.b (F.VLV_OFS_VALID n) = true ∧ (t.vlv n).calN = 0
      ∧ ∀ a, a ≠ R.VLV_OFS n → a ≠ R.VLV_DIAG_STAT n → t.rd a = s.rd a)
  ∧ (∀ (r : Requester) (n : Fin 32) (s : State), s.writesReach r → ∃ t, exec (.vlvUnlock r n) s = .next t
      ∧ t.cause n lOpen = false)
  ∧ (∀ (s : State) (n : Nat), -273 * 2 ^ 32 ≤ ((s.coilBeat n).vlv n).tw ∧ ((s.coilBeat n).vlv n).tw ≤ 1000 * 2 ^ 32
      ∧ -273 * 2 ^ 32 ≤ ((s.coilBeat n).vlv n).tbody ∧ ((s.coilBeat n).vlv n).tbody ≤ 1000 * 2 ^ 32)
  ∧ (∀ s : State, (s.part 17).busy = true → (s.part 17).queued = none → s.diagMode = true → (∀ n : Fin 32, s.coilFails n = false) →
    ∃ t, exec .valveModel s = .next t ∧ (t.part 17).busy = false
      ∧ ∀ n : Fin 32, (s.vlv n).model = true → (t.vlv n).tw = ((s.coilBeat n).vlv n).tw ∧ (t.vlv n).tbody = ((s.coilBeat n).vlv n).tbody)
  ∧ (∀ s : State, (∃ t, exec (.vinFault .reversed) s = .next t ∧ t.b F.PWR_VSG_STAT_REVERSED = true
      ∧ (s.b F.PWR_VSG_STAT_REVERSED = false → t.b F.PWR_VSG_STAT_REV_SEEN = true)
      ∧ (s.b F.PWR_VSG_STAT_REVERSED = false → t.b F.PWR_VSG_STAT_GATE = false))
    ∧ (s.b F.PWR_VSG_STAT_UV = false → ∃ t, exec (.vinFault .undervoltage) s = .next t ∧ t.b F.PWR_VSG_STAT_UV = true
      ∧ t.b F.PWR_VSG_STAT_GATE = false)
    ∧ ∃ t, exec (.vinFault .reverseCurrent) s = .next t ∧ t.b F.PWR_VSG_STAT_RCURR = true ∧ t.b F.PWR_VSG_STAT_GATE = false)
  ∧ (∀ s : State, (∃ t, exec (.vinRecovered .reversed) s = .next t ∧ t.b F.PWR_VSG_STAT_REVERSED = false)
    ∧ (∃ t, exec (.vinRecovered .undervoltage) s = .next t ∧ t.b F.PWR_VSG_STAT_UV = false)
    ∧ ∃ t, exec (.vinRecovered .reverseCurrent) s = .next t ∧ t.b F.PWR_VSG_STAT_RCURR = false)
  ∧ ∀ s : State, s.b F.PWR_VSG_STAT_REVERSED = false → s.b F.PWR_VSG_STAT_UV = false → s.b F.PWR_VSG_STAT_RCURR = false →
    s.b F.PWR_VSG_CTL_EN = true → 2 ≤ s.mode → s.b F.PWR_RAIL_STAT_VGD_UV = false → s.pwr.vsgHeld = false →
    ∃ t, exec (.vinQualified true) s = .next t ∧ t.b F.PWR_VSG_STAT_GATE = true ∧ t.bst.qualified = true

/-- Power-up (R240, R241, Table 11.3), boot (R384, Table 18.5) and the test port (R411). -/
def Obligations.PowerUpAndBootFollowTheirSteps : Prop :=
  (∀ s : State, s.mode = 0 → s.pwr.seq = .off → exec .vdd33Good s = .next { s with pwr := { s.pwr with seq := .vdd33 } })
  ∧ (∀ (st : BitVec 5) (s : State), s.mode = 0 → s.pwr.seq = .vdd33 → ∃ t, exec (.seqStepDelay st) s = .next t ∧ t.pwr.seq = .wantIo
    ∧ t.f F.PWR_SEQ_CTL_LEVEL = setBit (s.f F.PWR_SEQ_CTL_LEVEL) 0 ∧ ∀ a, a ≠ R.PWR_SEQ_CTL → t.rd a = s.rd a)
  ∧ (∀ s : State, s.pwr.seq = .wantIo → ∃ t, exec (.seqRailGood .vio) s = .next t ∧ t.pwr.seq = .wantCore
    ∧ t.f F.PWR_SEQ_CTL_LEVEL = setBit (s.f F.PWR_SEQ_CTL_LEVEL) 1)
  ∧ (∀ s : State, s.pwr.seq = .wantCore → exec (.seqRailGood .vcore) s = .next { s with pwr := { s.pwr with seq := .coreDelay } })
  ∧ (∀ (st : BitVec 5) (s : State), s.mode = 0 → s.pwr.seq = .coreDelay → ∃ t, exec (.seqStepDelay st) s = .next t ∧ t.mode = 1
    ∧ t.pwr.seq = .up ∧ t.pwr.seqFails = 0 ∧ t.rd R.SYS_STRAP = BitVec.ofNat 32 st.toNat ∧ t.f F.SYS_HOST_STAT_HOSTSEL = st.toNat % 4)
  ∧ (∀ s : State, s.pwr.seq = .wantIo ∨ s.pwr.seq = .wantCore → ∃ t, exec .seqRailTimeout s = .next t
    ∧ (t.f F.PWR_SEQ_CTL_LEVEL).testBit 0 = false ∧ (t.f F.PWR_SEQ_CTL_LEVEL).testBit 1 = false
    ∧ t.pwr.seq = (if s.pwr.seqFails = 2 then .stopped else .retry)
    ∧ (s.pwr.seqFails = 2 → t.b F.PWR_RST_CAUSE_SEQ_FAIL = true))
  ∧ (∀ s : State, s.pwr.seq = .retry → ∃ t, exec .seqRetry s = .next t ∧ t.pwr.seq = .wantIo
    ∧ t.f F.PWR_SEQ_CTL_LEVEL = setBit (s.f F.PWR_SEQ_CTL_LEVEL) 0)
  ∧ (∀ (s : State) (i : Fin 4), s.pwr.offGo = 0 → s.pwr.onGo = 2 ^ i.val → s.pwrPassed s.pwr.onAt (ms * s.f (F.PWR_SEQ_CFG_DELAY (i.val + 2))) = true →
    (∀ e, e ∈ s.pwr.askedAt → e.1 = i.val → s.pwrPassed e.2 (ms * s.f (F.PWR_SEQ_CFG_DELAY (i.val + 2))) = true) →
    s.pwr.seqHeld.testBit i = false →
    ∃ t, exec .seqOutputDelay s = .next t ∧ t.f F.PWR_SEQ_CTL_LEVEL = setBit (s.f F.PWR_SEQ_CTL_LEVEL) (i.val + 2)
      ∧ t.pwr.onGo = 0 ∧ ∀ a, a ≠ R.PWR_SEQ_CTL → t.rd a = s.rd a)
  ∧ (∀ (p : Bool) (s : State), s.mode = 1 → s.sys.boot = .start → ∃ t, exec (.bootStep (.pllLock p)) s = .next t
    ∧ t.tb.running = true ∧ t.sys.boot = .locked ∧ t.sys.tap = .bypass ∧ t.b F.SYS_CLK_STAT_PLL_LOCK = true ∧ t.b F.SYS_CLK_STAT_PCIE_REF_OK = p)
  ∧ (∀ s : State, s.mode = 1 → s.sys.boot = .locked →
    exec (.bootStep (.romCheck true)) s = .next { s with sys := { s.sys with boot := .checked } }
    ∧ ∃ t, exec (.bootStep (.romCheck false)) s = .next t ∧ t.sys.boot = .halted ∧ t.b F.SYS_BOOT_ROM_FAIL = true)
  ∧ (∀ s : State, s.mode = 1 → s.sys.boot = .checked → exec (.bootStep .memoryClear) s = .next
    (({ s.bootClear with sys := { s.bootClear.sys with boot := .cleared } }).log .sysReset wholeDevice (s.rd R.PWR_RST_CAUSE).toNat)
    ∧ (∀ p, s.bootClear.page p = {}) ∧ ∀ a, 0x400000 ≤ a → a < 0x600000 → s.bootClear.rd a = regReset a)
  ∧ (∀ s : State, s.mode = 1 → s.sys.boot = .cleared → exec (.bootStep (.otpRead false)) s = .next
    (({ s with sys := { s.sys with boot := .otp } }.setB F.SYS_BOOT_OTP_BAD true).log .sysOtpBad wholeDevice 0))
  ∧ (∀ s : State, s.mode = 1 → s.sys.boot = .otp → s.sys.check = false → exec (.bootStep .patchCheck) s = .next s)
  ∧ (∀ (us : BitVec 14) (s : State), s.mode = 1 → s.sys.boot = .otp → s.sys.check = false → ∃ t, exec (.bootComplete us) s = .next t
    ∧ t.mode = 2 ∧ t.f F.SYS_MODE_CAUSE = 1 ∧ t.f F.SYS_BOOT_BOOT_US = us.toNat ∧ t.sys.boot = .done)
  ∧ ∀ (rl : Bool) (cells : List Bool) (s : State),
    exec (.tapInstruction .idcode rl cells) s = .next { s with sys := { s.sys with tap := .idcode, tapData := idcodeBits } }
    ∧ exec (.tapInstruction .extest false cells) s = exec (.tapInstruction .bypass false cells) s
    ∧ exec (.tapInstruction .clamp false cells) s = exec (.tapInstruction .bypass false cells) s
    ∧ ∀ p, p < 160 → p < cells.length → ∃ t, exec (.tapInstruction .extest true cells) s = .next t ∧ t.ball p = cells[p]?

/-- The rail supervisors (R238, R239), the warning and the stop ramp (R243 to R245), the poller (R246, R247). -/
def Obligations.SupervisorsRampAndPmbusAct : Prop :=
  (∀ (s : State) (r : Rail), r ≠ .vgd → ∃ t, exec (.railUndervoltage r) s = .next t ∧ t.mode = 0
    ∧ t.rd R.PWR_RST_CAUSE = (match r with | .vcore => 2 | .vio => 4 | _ => 1)
    ∧ ∀ a, a ≠ R.PWR_RST_CAUSE → a ≠ R.SYS_MODE → t.rd a = regReset a)
  ∧ (∀ s : State, s.b F.PWR_RAIL_STAT_VGD_UV = false → ∃ t, exec (.railUndervoltage .vgd) s = .next t
    ∧ t.b F.PWR_RAIL_STAT_VGD_UV = true ∧ t.pwr.vgdGood = false ∧ t.mode = (if 2 ≤ s.mode then 6 else s.mode))
  ∧ (∀ (r : Rail) (s : State), (s.rd R.PWR_RAIL_STAT).getLsbD (4 + railNum r) = false → ∃ t, exec (.railOvervoltage r) s = .next t
    ∧ (t.rd R.PWR_RAIL_STAT).getLsbD (4 + railNum r) = true ∧ t.b F.PWR_RAIL_STAT_OV_SEEN = true
    ∧ t.mode = (if 2 ≤ s.mode then 6 else s.mode))
  ∧ (∀ (r : Rail) (s : State), r ≠ .vgd →
    ((s.rd R.PWR_RAIL_STAT).getLsbD (railNum r) = false → ∃ t, exec (.railWarning r) s = .next t
      ∧ (t.rd R.PWR_RAIL_STAT).getLsbD (railNum r) = true ∧ t.b F.PWR_RAIL_STAT_WARN_SEEN = true ∧ t.mode = s.mode)
    ∧ ∃ t, exec (.railWarningClear r) s = .next t ∧ (t.rd R.PWR_RAIL_STAT).getLsbD (railNum r) = false
      ∧ (t.rd R.PWR_RAIL_STAT).getLsbD (4 + railNum r) = false ∧ ∀ a, a ≠ R.PWR_RAIL_STAT → t.rd a = s.rd a)
  ∧ (∀ s : State, exec (.railWarning .vgd) s = .next s ∧ ∃ t, exec (.railWarningClear .vgd) s = .next t
    ∧ (t.rd R.PWR_RAIL_STAT).getLsbD 7 = false ∧ ∀ a, a ≠ R.PWR_RAIL_STAT → t.rd a = s.rd a)
  ∧ (∀ s : State, ∃ t, exec .vgdRecovered s = .next t ∧ t.b F.PWR_RAIL_STAT_VGD_UV = false ∧ t.pwr.vgdGood = true)
  ∧ (∀ (pin : Bool) (vs : BitVec 9) (held : Nat) (s : State),
    let byPin := pin = s.b F.PWR_CFG_PF_POL
    let byVs := vs.toNat < s.f F.PWR_CFG_VS_PF
    let src := s.f F.PWR_CFG_PF_SRC
    let warns := (src = 0 ∧ byPin) ∨ (src = 1 ∧ byVs) ∨ (src = 2 ∧ (byPin ∨ byVs))
    (¬ warns ∨ held < 50 * max 1 (s.f F.PWR_CFG_PF_FILT) ∨ s.b F.PWR_STAT_PFAIL_IN = true →
      exec (.pfailQualified pin vs held) s = .next s)
    ∧ (warns → 50 * max 1 (s.f F.PWR_CFG_PF_FILT) ≤ held → 2 ≤ s.mode → s.b F.PWR_STAT_PFAIL_IN = false → s.b F.PWR_STAT_RAMP = false →
    (s.b F.PWR_STAT_RAMP_BAD = false → ∃ t, exec (.pfailQualified pin vs held) s = .next t ∧ t.b F.PWR_STAT_PFAIL_IN = true
      ∧ t.b F.PWR_STAT_PFAIL_SEEN = true ∧ t.b F.PWR_STAT_RAMP = true ∧ t.f F.PWR_STAT_STEP = 0 ∧ t.pwr.prog = s.rampProg
      ∧ t.placed = [] ∧ t.points = [] ∧ t.deferred = [])
    ∧ (s.b F.PWR_STAT_RAMP_BAD = true → ∃ t, exec (.pfailQualified pin vs held) s = .next t ∧ t.b F.PWR_STAT_PFAIL_IN = true
      ∧ t.b F.PWR_STAT_PFAIL_SEEN = true ∧ t.b F.PWR_STAT_RAMP = false ∧ t.mode = 6)))
  ∧ (∀ s : State, s.b F.PWR_STAT_RAMP = true → 2 ≤ s.mode →
    let k := s.f F.PWR_STAT_STEP
    let w := s.pwr.prog.getD k 0
    let last := getBits w 0 4 = 0 ∨ getBits (s.pwr.prog.getD 31 0) 0 5 ≤ k + 1
    s.pwrPassed s.pwr.stepAt (500 * getBits w 12 12) = true →
    (last → ∃ t, exec .rampStep s = .next t ∧ t.b F.PWR_STAT_RAMP = false ∧ t.b F.PWR_STAT_RAMP_DONE = true ∧ t.mode = 6)
    ∧ (¬ last → ∃ t, exec .rampStep s = .next t ∧ t.b F.PWR_STAT_RAMP = true ∧ t.f F.PWR_STAT_STEP = k + 1 ∧ t.mode = s.mode))
  ∧ (∀ s : State, s.b F.PWR_STAT_PFAIL_IN = true → ∃ t, exec .pfailWarningReleased s = .next t ∧ t.b F.PWR_STAT_PFAIL_IN = false
    ∧ t.pwr.clearAt = s.now ∧ ∀ a, a ≠ R.PWR_STAT → t.rd a = s.rd a)
  ∧ (∀ s : State, s.pwr.clearLog = true → s.b F.PWR_STAT_RAMP = false → s.b F.PWR_STAT_PFAIL_IN = false →
    s.pwrPassed s.pwr.clearAt (10 * ms) = true →
    exec .pfailCleared s = .next (({ s with pwr := { s.pwr with clearLog := false } }).log .pwrPfailCleared wholeDevice 0))
  ∧ (∀ (i : Fin 16) (s : State), s.b F.PWR_PMB_CFG_EN = true → s.pwr.job = none → s.pmbDue i = true →
    (∀ j, j < i.val → s.pmbDue j = false) → ∃ t, exec (.pmbPollDue i) s = .next t ∧ t.pwr.job = some (.poll i)
    ∧ t.b F.PWR_PMB_STAT_BUSY = true ∧ ∀ a, a ≠ R.PWR_PMB_STAT → t.rd a = s.rd a)
  ∧ (∀ (i : Fin 16) (d : List Byte) (s : State), s.pwr.job = some (.poll i) →
    ∃ t, exec (.pmbTransactionDone (.ok d)) s = .next t
      ∧ t.f (F.PWR_PMB_DATA_RAW i) = ofBytes ((d.map BitVec.toNat).take (if s.b (F.PWR_PMB_POLL_BYTE i) then 1 else 2))
      ∧ t.b (F.PWR_PMB_DATA_VALID i) = true ∧ t.b (F.PWR_PMB_DATA_STALE i) = false)
  ∧ (∀ (i : Fin 16) (r : PmbResult) (s : State), s.pwr.job = some (.poll i) → (∀ d, r ≠ .ok d) →
    (r = .pecBad → s.b F.PWR_PMB_CFG_PEC = false → exec (.pmbTransactionDone r) s = .next s)
    ∧ ((r = .pecBad → s.b F.PWR_PMB_CFG_PEC = true) → (s.pwr.fails.find? (fun e => e.1 == i.val) = some (i.val, 2) →
      ∃ t, exec (.pmbTransactionDone r) s = .next t ∧ t.b (F.PWR_PMB_DATA_STALE i) = true
        ∧ (t.f F.PWR_PMB_STAT_STALE).testBit i = true)
    ∧ (s.pwr.fails.find? (fun e => e.1 == i.val) = none →
      ∃ t, exec (.pmbTransactionDone r) s = .next t ∧ ∀ a, a ≠ R.PWR_PMB_STAT → t.rd a = s.rd a)))
  ∧ ∀ (j : PmbJob) (s : State), s.pwr.job = some j → s.pwrPassed s.pwr.jobAt (35 * ms) = true →
    ∃ t, exec .pmbClockTimeout s = .next t ∧ t.b F.PWR_PMB_STAT_BUS_TIMEOUT = true

/-- PMBus alerts (R248). That the address stands in the upper seven bits of the byte read is PRESUMED from SMBus (log entry 45). -/
def Obligations.PmbusAlertsAreReadAndLogged : Prop :=
  (∀ s : State, exec (.pmbAlert false) s = .next (s.setB F.PWR_PMB_STAT_ALERT_IN false)
    ∧ (s.b F.PWR_PMB_CFG_EN = false ∨ s.b F.PWR_PMB_STAT_ALERT_IN = true →
      exec (.pmbAlert true) s = .next (s.setB F.PWR_PMB_STAT_ALERT_IN true)))
  ∧ (∀ s : State, s.b F.PWR_PMB_CFG_EN = true → s.b F.PWR_PMB_STAT_ALERT_IN = false →
    let s1 := ((s.setB F.PWR_PMB_STAT_ALERT_IN true).setB F.PWR_PMB_STAT_ALERT_SEEN true).pulse 231
    (s.b F.PWR_PMB_CFG_ALERT_ARA = false → exec (.pmbAlert true) s = .next (s1.log .pwrPmbAlert wholeDevice 0))
    ∧ (s.b F.PWR_PMB_CFG_ALERT_ARA = true → ∃ t, exec (.pmbAlert true) s = .next t ∧ t.b F.PWR_PMB_STAT_ALERT_SEEN = true
      ∧ t.irq = s1.irq ∧ (s.pwr.job = none → t.pwr.job = some .ara)
      ∧ (s.pwr.job ≠ none → t.pwr.job = s.pwr.job ∧ t.pwr.jobs = .ara :: s.pwr.jobs)))
  ∧ ∀ (d : Byte) (s : State), s.pwr.job = some .ara →
    exec (.pmbTransactionDone (.ok [d])) s = .next (State.pmbNext
      (State.log ((s.setF F.PWR_PMB_ALERT_ADDR_ADDR (d.toNat / 2)).setB F.PWR_PMB_ALERT_ADDR_VALID true)
        .pwrPmbAlert wholeDevice (d.toNat / 2)))

/-- COLD_RESET and RESET_N_LOW (R240, R242, R383, R386). -/
def Obligations.ResetsLeaveResetValues : Prop :=
  (∀ (c : ColdCause) (withPin : Bool) (s : State), s.sys.reboot = none → ∃ t, exec (.coldReset c withPin) s = .next t
    ∧ t = { State.reset with
        regs := t.regs, free := s.free, pending := s.pending
        pwr := { State.reset.pwr with seq := (match c with | .por => .off | _ => .vdd33), seqFailLog := s.pwr.seqFailLog } }
    ∧ t.mode = 0 ∧ (∀ a, a ≠ R.PWR_RST_CAUSE → a ≠ R.SYS_MODE → t.rd a = regReset a)
    ∧ (∀ i, 3 ≤ i → (t.rd R.SYS_MODE).getLsbD i = (regReset R.SYS_MODE).getLsbD i)
    ∧ t.rd R.PWR_RST_CAUSE = (match c with | .por => 1 | .brownoutCore => 2 | .brownoutIo => 4) + (if withPin then 8 else 0))
  ∧ (∀ (ns : Nat) (st : BitVec 5) (s : State), 1000 ≤ ns → s.mode ≠ 0 → ∃ t, exec (.resetNLow ns st) s = .next t
    ∧ t = { State.reset with
        regs := t.regs, free := s.logDrain.free, pending := s.logDrain.pending, logW := s.logDrain.logW, logLost := s.logDrain.logLost
        pwr := { State.reset.pwr with seq := s.logDrain.pwr.seq, seqFails := s.logDrain.pwr.seqFails, seqFailLog := s.logDrain.pwr.seqFailLog }
        sys := { State.reset.sys with patch := s.logDrain.sys.patch, check := !s.logDrain.sys.patch.isEmpty } }
    ∧ (∀ i, i < 32 → (t.rd R.PWR_RST_CAUSE).getLsbD i = ((s.logDrain.rd R.PWR_RST_CAUSE).getLsbD i || i == 3))
    ∧ t.b F.SYS_CLK_STAT_LOSS_SEEN = s.logDrain.b F.SYS_CLK_STAT_LOSS_SEEN
    ∧ t.f F.PWR_SEQ_CTL_LEVEL = s.logDrain.f F.PWR_SEQ_CTL_LEVEL
    ∧ t.b F.SYS_BOOT_PATCH_STAGED = !s.logDrain.sys.patch.isEmpty
    ∧ t.rd R.SYS_STRAP = BitVec.ofNat 32 st.toNat ∧ t.f F.SYS_HOST_STAT_HOSTSEL = st.toNat % 4
    ∧ (∀ a, a = R.LOG_STAT ∨ a = R.LOG_COUNT ∨ a = R.LOG_SEQ ∨ a = R.LOG_LOST → t.rd a = s.logDrain.rd a)
    ∧ (∀ a, a ∉ [R.PWR_RST_CAUSE, R.SYS_CLK_STAT, R.PWR_SEQ_CTL, R.SYS_BOOT, R.SYS_STRAP, R.SYS_HOST_STAT, R.LOG_STAT, R.LOG_COUNT,
        R.LOG_SEQ, R.LOG_LOST] → t.rd a = regReset a)
    ∧ ∀ x : Fld, x ∈ [F.SYS_CLK_STAT_LOSS_SEEN, F.PWR_SEQ_CTL_LEVEL, F.SYS_BOOT_PATCH_STAGED, F.SYS_HOST_STAT_HOSTSEL] →
      ∀ i, i < 32 → i < x.lo ∨ x.lo + x.len ≤ i → (t.rd x.addr).getLsbD i = (regReset x.addr).getLsbD i)
  ∧ ∀ (ns : Nat) (st : BitVec 5) (s : State), ns < 1000 ∨ s.mode = 0 → exec (.resetNLow ns st) s = .next s

/-- Entry to SAFE (R121, Tables 18.2 to 18.4), WATCHDOG_EXPIRY (R14), XIN_LOST, PLL_UNLOCK and XIN_RESTORED (R21), HOLTID_MEMORY_ECC and MODE_TRANSITION (R378). -/
def Obligations.CausesForceSafe : Prop :=
  (∀ (s : State) (cause : Nat), cause < 32 → let t := s.enterSafe cause
    t.mode = 6 ∧ t.f F.SYS_MODE_CAUSE = cause ∧ t.f F.SYS_MODE_PREV = s.mode ∧ t.placed = [] ∧ t.points = [] ∧ t.deferred = []
    ∧ ∀ p, p < 160 → s.f (F.TIO_CFG_OWNER p) ≠ 3 → (t.pin p).safe = true)
  ∧ (∀ s : State, 8 ≤ s.tb.missed → 2 ≤ s.mode → s.b F.SYS_MODE_LOCKED = false → ∃ t, exec .watchdogExpiry s = .next t
    ∧ t.mode = 6 ∧ t.b F.SYS_MODE_LOCKED = true)
  ∧ (∀ s : State, 1 ≤ s.mode → (∃ t, exec .xinLost s = .next t ∧ t.mode = 6 ∧ t.b F.SYS_MODE_LOCKED = true
      ∧ t.b F.SYS_CLK_STAT_FALLBACK = true ∧ t.b F.SYS_CLK_STAT_LOSS_SEEN = true ∧ t.b F.SYS_CLK_STAT_XIN_OK = false ∧ t.tb.running = false)
    ∧ ∃ t, exec .pllUnlock s = .next t ∧ t.mode = 6 ∧ t.b F.SYS_MODE_LOCKED = true ∧ t.b F.SYS_CLK_STAT_FALLBACK = true
      ∧ t.b F.SYS_CLK_STAT_LOSS_SEEN = true ∧ t.b F.SYS_CLK_STAT_PLL_LOCK = false ∧ t.tb.running = false)
  ∧ (∀ s : State, ∃ t, exec .xinRestored s = .next t ∧ t.b F.SYS_CLK_STAT_XIN_OK = true ∧ t.b F.SYS_CLK_STAT_PLL_LOCK = true
    ∧ t.tb = s.tb ∧ ∀ a, a ≠ R.SYS_CLK_STAT → t.rd a = s.rd a)
  ∧ (∀ s : State, 2 ≤ s.mode → (∃ t, exec (.holtidMemoryEcc false) s = .next t ∧ t.mode = 6 ∧ t.sys.patch = s.sys.patch)
    ∧ ∃ t, exec (.holtidMemoryEcc true) s = .next t ∧ t.mode = 6 ∧ t.sys.patch = [] ∧ t.b F.SYS_BOOT_PATCH_STAGED = false)
  ∧ (∀ s : State, s.mode = 1 → ∃ t, exec (.holtidMemoryEcc true) s = .next t ∧ t.mode = 1 ∧ t.sys.patch = []
    ∧ t.b F.SYS_BOOT_PATCH_STAGED = false ∧ t.logQ = (s.log .sysMemEcc wholeDevice 0).logQ)
  ∧ (∀ (s : State) (src : Fin 5) (v : Svc) (m : Nat), s.tb.running = true → s.tb.due = false → s.now = s.tb.t0 →
    s.modeWait src = some v → (∀ j, j < 5 → j ≠ src.val → s.modeWait j = none) → v.since ≠ s.now → v.arg ≠ s.mode →
    s.modeFor v.arg = some m → exec .modeTransition s = .next ((s.enterMode m causeCommand).complete src statusOk 0 [m]))
  ∧ ∀ s : State, (∀ j, j < 5 → s.modeWait j = none) → exec .modeTransition s = .next s

/-- Links and delays (R254, R255), the fold (R265), the gate (R267) and the states of discipline (R52). -/
def Obligations.TetherLinksMeasureAndFold : Prop :=
  (∀ (p : Fin 3) (s : State), p.val < 2 → (s.port p).link ≠ .down → ∃ t, exec (.linkDown p) s = .next t
    ∧ (t.port p).link = .down ∧ (t.port p).loop = true ∧ (t.port p).n = 0 ∧ (t.port p).d = 0
    ∧ t.f (F.TTHP_STAT_LINK p) = 0 ∧ t.b (F.TTHP_STAT_LOOP p) = true ∧ t.b (F.TTHP_STAT_DOWN_SEEN p) = true
    ∧ t.f (F.TTHP_DELAY_DELAY p) = 0 ∧ (s.tthEn = true → t.wrapped = true ∧ (t.tthpStat p.val).getLsbD 2 = true)
    ∧ t.logQ = (s.log .tthNeighbourLost p p).logQ ∧ (∀ q, q ≠ p.val → t.port q = s.port q)
    ∧ ∀ a, a ∉ [R.TTHP_STAT p, R.TTHP_DELAY p, R.TTHP_CNT_DOWN p, R.LOG_LOST] → t.rd a = s.rd a)
  ∧ (∀ s : State, (s.port 2).link ≠ .down → ∃ t, exec (.linkDown 2) s = .next t ∧ (t.port 2).link = .down ∧ (t.port 2).n = 0
    ∧ (t.port 2).d = 0 ∧ t.f F.TTH_GATE_STAT_LINK = 0 ∧ t.f F.TTH_GATE_DELAY_DELAY = 0
    ∧ (s.role = 2 → t.logQ = (s.log .tthGateLost 2 0).logQ) ∧ (∀ q, q ≠ 2 → t.port q = s.port q)
    ∧ ∀ a, a ∉ [R.TTH_GATE_STAT, R.TTH_GATE_DELAY, R.LOG_LOST] → t.rd a = s.rd a)
  ∧ (∀ (p : Fin 3) (s : State), (s.port p).link = .down → exec (.linkDown p) s = .next s
    ∧ (s.tthEn = true → exec (.linkSync p) s = .next (s.setLink p .sync) ∧ ((s.setLink p .sync).port p).link = .sync))
  ∧ (∀ (p : Fin 3) (t1 : BitVec 52) (s : State), (s.port p).link ≠ .down → let x := s.port p
    (x.dqBeat ≠ some s.tb.beat → s.tb.running = true → exec (.delayRequest p t1) s = .next (s.setPort p { x with
      dq := (x.seq, t1, s.tb.beat) :: x.dq.take 2, dqBeat := some s.tb.beat, seq := (x.seq + 1) % 256 }))
    ∧ (x.dqBeat = some s.tb.beat ∨ s.tb.running = false → exec (.delayRequest p t1) s = .next s))
  ∧ (∀ (p : Fin 3) (seq : BitVec 8) (turn : BitVec 24) (t4 t1 : BitVec 52) (b : BitVec 24) (s : State), let x := s.port p
    x.link ≠ .down → x.dq.find? (fun e => e.1 == seq.toNat) = some (seq.toNat, t1, b) → (t4 - t1).toNat ≤ 32 * s.P →
    let dm : Int := (((t4 - t1).toNat : Int) - (turn.toNat : Int)) / 2
    ∃ t, exec (.delayResponse p seq turn t4) s = .next t
      ∧ (x.n < 16 → (t.port p).n = x.n + 1 ∧ (t.port p).sum = x.sum + dm ∧ (t.port p).d = Int.tdiv (x.sum + dm) (x.n + 1))
      ∧ (16 ≤ x.n → (t.port p).d = x.d + (dm - x.d) / 16)
      ∧ (x.n < 15 → (t.port p).link = x.link) ∧ (x.n = 15 → x.link = .sync → (t.port p).link = .ready)
      ∧ t.f (if p.val = 2 then F.TTH_GATE_DELAY_DELAY else F.TTHP_DELAY_DELAY p) = trunc 24 (t.port p).d
      ∧ ∀ q, q ≠ p.val → t.port q = s.port q)
  ∧ (∀ (p : Fin 3) (seq : BitVec 8) (turn : BitVec 24) (t4 : BitVec 52) (s : State),
    (s.port p).dq.find? (fun e => e.1 == seq.toNat) = none → exec (.delayResponse p seq turn t4) s = .next s)
  ∧ (∀ (p : Fin 3) (seq : BitVec 8) (tIn tOut : BitVec 52) (s : State), (s.port p).link ≠ .down → s.tb.running = true →
    ∃ t, exec (.delayRequestReceived p seq tIn tOut) s = .next t
    ∧ (t.port p).answered = some (seq.toNat, (tOut - tIn).toNat % 2 ^ 24) ∧ ∀ a, t.rd a = s.rd a)
  ∧ (∀ (f : List Byte) (r : BitVec 52) (s : State), s.tthEn = true → s.role = 2 → s.b F.TTH_GATE_CFG_RX_EN = true →
    (s.port 2).link ≠ .down → frameGood (f.map (·.toNat)) = true → s.tth.joined = true →
    (s.b F.TTH_CTL_JOIN = false ∨ s.mode ≠ 2) → ∃ t, exec (.gateCopyReceived f r) s = .next t ∧ t.tth.gate = f.map (·.toNat)
      ∧ t.f F.TTH_STAT_HOPS = fget (f.map (·.toNat)) 21 1
      ∧ t.f F.TTH_PATH_PATH = trunc 24 (s.offsetOf 2 (f.map (·.toNat)) r).2
      ∧ t.f F.TB_DISC_OFS_OFS = trunc 24 (sat (s.offsetOf 2 (f.map (·.toNat)) r).1 (-8388608) 8388607) ∧ t.tb.discData = true)
  ∧ (∀ s : State, s.disc = 1 → 64 ≤ s.tb.discGood → exec .disciplineLocked s = .next (s.setDisc 2) ∧ (s.setDisc 2).disc = 2)
  ∧ ∀ s : State, s.disc = 1 ∨ s.disc = 2 → 4 ≤ s.tb.discNone → ∃ t, exec .disciplineHoldover s = .next t ∧ t.disc = 3
    ∧ t.rd R.TB_DISC_FREQ = s.rd R.TB_DISC_FREQ ∧ t.logQ = (s.log .tthTimeHoldover wholeDevice 0).logQ

/-- The CHECK and its stomp (R257), originating (R256, R264), forwarding (R257, R258), lost beats (R258), the ring version (R268), EN and JOIN (R257, R261). -/
def Obligations.TetherFramesAreSealedAndForwarded : Prop :=
  (∀ f : List Nat, f.length = 644 →
    frameGood (sealFrame f false) = true ∧ frameStomped (sealFrame f false) = false
    ∧ frameStomped (sealFrame f true) = true ∧ frameGood (sealFrame f true) = false)
  ∧ (∀ (p : Fin 2) (f : List Byte) (r so : BitVec 52) (s : State), let g := f.map (·.toNat)
    f.length = 644 → s.tthEn = true → s.mode ≠ 0 → s.tb.running = true → (s.port p).link ≠ .down →
    fget g 3 1 % 32 ≠ s.devId → fget g 21 1 < 64 →
    ∃ t out h, exec (.frameReceived p f r so) s = .next t ∧ t.tth.sent = some (out, h) ∧ fget h 21 1 = fget g 21 1 + 1
      ∧ frameGood h = frameGood g ∧ frameStomped h = !frameGood g
      ∧ (frameGood g = false → (∀ q, t.port q = s.port q) ∧ t.tth.last = s.tth.last
        ∧ let c := if frameStomped g then R.TTHP_CNT_STOMP p else R.TTHP_CNT_CRC p
          (t.rd c).toNat = min ((s.rd c).toNat % 2 ^ 24 + 1) 0xFFFFFF ∧ ∀ a, a ≠ c → t.rd a = s.rd a))
  ∧ (∀ (lag : BitVec 16) (s : State), s.tthEn = true → s.tb.running = true → s.tth.origin = true → s.tth.sentOwn = false →
    50 ≤ s.tb.phase → s.tb.due = false → ∃ t f, exec (.frameOriginate lag) s = .next t ∧ t.tth.sentOwn = true
      ∧ t.tth.sent = some (if t.folds 0 then 1 else 0, f) ∧ (s.tth.unwrapOut = none → t.port = s.port) ∧ frameGood f = true ∧ fget f 21 1 = 0
      ∧ fget f 4 3 = s.tb.beat.toNat ∧ fget f 8 6 = s.tb.t0.toNat)
  ∧ (∀ s : State, s.tth.missed = true → ∃ t, exec .frameLostBeat s = .next t ∧ t.tth.missed = false
    ∧ (t.rd R.TTH_CNT_LOST).toNat = min ((s.rd R.TTH_CNT_LOST).toNat % 2 ^ 24 + 1) 0xFFFFFF
    ∧ ∀ a, a ≠ R.TTH_CNT_LOST → t.rd a = s.rd a)
  ∧ (∀ s : State, s.tthEn = true → (s.role ≠ 0 ∨ s.f F.TTH_CFG_PRIO ≠ 0) → s.tth.origin = false →
    (4 ≤ s.tth.silent ∨ s.tth.returning = true ∧ 64 ≤ s.tth.lockedRun) → exec .originationStart s = .next { s with tth := { s.tth with start := true } })
  ∧ (∀ s : State, s.tth.origin = true → s.tth.ringVer < s.tth.riseMin → 64 ≤ s.tth.riseRun →
    exec .ringVerRise s = .next { s with tth := { s.tth with ringVer := s.tth.riseMin, riseRun := 0 } })
  ∧ (∀ (r : Requester) (s : State), s.writesReach r →
    (s.tthEn = false → ∃ t, exec (.tthCtlEn r true) s = .next t ∧ t.tthEn = true ∧ t.tthState ≠ 0 ∧ t.port = s.port
      ∧ ∀ a, a ≠ R.TTH_CTL → t.rd a = s.rd a)
    ∧ (s.tthEn = true → ∃ t, exec (.tthCtlEn r false) s = .next t ∧ t.tthState = 0 ∧ t.disc = 0
      ∧ t.tth.origin = false ∧ t.tth.joined = false ∧ ∀ p, p < 3 → (t.port p).link = .down))
  ∧ ∀ (r : Requester) (s : State), s.writesReach r →
    (s.mode = 2 → ∃ t, exec (.tthCtlJoin r) s = .next t ∧ t.b F.TTH_CTL_JOIN = true ∧ ∀ a, a ≠ R.TTH_CTL → t.rd a = s.rd a)
    ∧ (s.mode ≠ 2 → exec (.tthCtlJoin r) s = .next s)

/-- Ownership writes (R273, Table 13.3), data accesses (R275), quarantine (R277), the scrubber (R19) and EVT_SHADOW_READ (R104). -/
def Obligations.YardPagesAreOwnedAndGuarded : Prop :=
  (∀ (r : Requester) (p : Fin 8192) (v : Word) (still : Bool) (s : State), s.writesReach r → yardSide r = true →
    let x := s.page p
    (getBits v 2 6 ≠ x.gen → ∃ t, exec (.yrdOwnWrite r p v still) s = .next t ∧ t.pages = s.pages
      ∧ t.snapRd r R.YRD_RESULT = packed [(p, 0), (1, 13), (0, 14), (1, 15), (x.gen, 17)] ∧ ∀ a, t.rd a = s.rd a)
    ∧ (getBits v 2 6 = x.gen → ownAllowed r x.owner (getBits v 0 2) = false ∨ getBits v 9 15 ≠ 0 →
      ∃ t, exec (.yrdOwnWrite r p v still) s = .next t ∧ t.pages = s.pages
      ∧ t.snapRd r R.YRD_RESULT = packed [(p, 0), (1, 13), (0, 14), (2, 15), (x.gen, 17)] ∧ ∀ a, t.rd a = s.rd a)
    ∧ (getBits v 2 6 = x.gen → ownAllowed r x.owner (getBits v 0 2) = true → getBits v 9 15 = 0 →
      (x.owner ≠ 3 ∨ still = false → ∃ t, exec (.yrdOwnWrite r p v still) s = .next t
        ∧ t.page p = { owner := getBits v 0 2, gen := (x.gen + 1) % 64, ecc := false } ∧ (∀ q, q ≠ p.val → t.page q = s.page q)
        ∧ t.snapRd r R.YRD_RESULT = packed [(p, 0), (1, 13), (1, 14), (0, 15), ((x.gen + 1) % 64, 17)]
        ∧ (x.owner ≠ 3 → ∀ a, t.rd a = s.rd a) ∧ (x.owner = 3 → ∀ o, o < 256 → t.rd (R.YARD (256 * p + o)) = 0))
      ∧ (x.owner = 3 → still = true → ∃ t, exec (.yrdOwnWrite r p v still) s = .next t ∧ t.page p = x
        ∧ t.snapRd r R.YRD_RESULT = packed [(p, 0), (1, 13), (0, 14), (3, 15), (x.gen, 17)])))
  ∧ (∀ (r : Requester) (off : BitVec 21) (v : Word) (be : BitVec 4) (s : State), s.writesReach r → yardSide r = true →
    let a := R.YARD (off.toNat - off.toNat % 4)
    (s.yardMine r (off.toNat / 256) = true → ∃ t, exec (.yardDataWrite r off v be) s = .next t
      ∧ (∀ i, i < 32 → (t.rd a).getLsbD i = if be.getLsbD (i / 8) then v.getLsbD i else (s.rd a).getLsbD i)
      ∧ (∀ b, b ≠ a → t.rd b = s.rd b) ∧ t.pages = s.pages)
    ∧ (s.yardMine r (off.toNat / 256) = false → ∃ t, exec (.yardDataWrite r off v be) s = .next t ∧ t.pages = s.pages
      ∧ (t.rd R.YRD_VIOL).toNat = min ((s.rd R.YRD_VIOL).toNat % 2 ^ 24 + 1) 0xFFFFFF
      ∧ ∀ b, b ≠ R.YRD_VIOL → b ≠ R.LOG_LOST → t.rd b = s.rd b))
  ∧ (∀ (r : Requester) (off : BitVec 21) (s : State), s.readsReach r → yardSide r = true →
    (∃ t, exec (.yardDataRead r off .clean) s = .next t ∧ (∀ a, t.rd a = s.rd a) ∧ t.pages = s.pages
      ∧ Sparse.get (fun _ => 0) t.lastRead (reqIdx r)
        = if (s.page (off.toNat / 256)).owner = 3 then 0 else s.rd (R.YARD (off.toNat - off.toNat % 4)))
    ∧ ((s.page (off.toNat / 256)).owner ≠ 3 → ∃ t, exec (.yardDataRead r off .double) s = .next t
      ∧ t.page (off.toNat / 256) = { owner := 3, gen := ((s.page (off.toNat / 256)).gen + 1) % 64, ecc := true }
      ∧ Sparse.get (fun _ => 0) t.lastRead (reqIdx r) = 0))
  ∧ (∀ (a : BitVec 24) (s : State), 0x400000 ≤ a.toNat → a.toNat < 0x600000 → 2 ≤ s.mode → s.mode ≠ 3 → let p := (a.toNat - 0x400000) / 256
    exec (.scrubberVisit a .clean) s = .next s ∧ exec (.scrubberVisit a .single) s = .next (s.bump R.YRD_ECC_CNT)
    ∧ ((s.page p).owner ≠ 3 → ∃ t, exec (.scrubberVisit a .double) s = .next t
      ∧ t.page p = { owner := 3, gen := ((s.page p).gen + 1) % 64, ecc := true } ∧ ∀ q, q ≠ p → t.page q = s.page q))
  ∧ (∀ (a : BitVec 24) (s : State), 0x40000 ≤ a.toNat → a.toNat < 0x60000 → 2 ≤ s.mode → s.mode ≠ 3 →
    exec (.scrubberVisit a .single) s = .next (s.bump R.EVT_ECC_CNT)
    ∧ ∃ t, exec (.scrubberVisit a .double) s = .next t ∧ (t.es ((a.toNat - 0x40000) / 16)).ecc = true ∧ ∀ b, t.rd b = s.rd b)
  ∧ ∀ (r : Requester) (e : Fin 8192) (w : Fin 4) (s : State), s.readsReach r →
    (∃ t, exec (.evtShadowRead r e w .clean) s = .next t ∧ Sparse.get (fun _ => 0) t.lastRead (reqIdx r) = s.shadowRd (R.EVT e w)
      ∧ ∀ a, t.rd a = s.rd a)
    ∧ ∃ t, exec (.evtShadowRead r e w .double) s = .next t ∧ Sparse.get (fun _ => 0) t.lastRead (reqIdx r) = s.shadowRd (R.EVT e w)
      ∧ t.f F.EVT_ECC_ADDR_ENTRY = e ∧ t.b F.EVT_ECC_ADDR_VALID = true ∧ t.b F.EVT_ECC_ADDR_SHADOW = true

/-- Pushes and pulls (R280, R281, R284, R285), crossings (R282), EN (R279), FLUSH, MARK and REWIND (R285, R287), and the SSI samples (R60). -/
def Obligations.TroughCommandsPushPullAndRelease : Prop :=
  (∀ (r : Requester) (q : Fin 64) (v : Word) (s : State), s.writesReach r → s.trgWrong q (hostSide r) true = false →
    let x := s.tq q
    (s.trgEn q = true → s.pushTurn q (agentOf r) = true → 0 < s.trgSpace q → s.hostWaiter q true = none →
      ∃ t, exec (.troughPush r q v) s = .next t
      ∧ (∃ i b, t.tq q = { x with w := (x.w + 1) % s.trgMod q, pushIn := i, pushBy := b }) ∧ (∀ k, k ≠ q.val → t.tq k = s.tq k)
      ∧ Sparse.get (fun _ => {}) t.pool (s.trgWordAt q x.w) = ⟨v.setWidth 24, hostSide r && v.getLsbD 24, false⟩
      ∧ (∀ k, k ≠ s.trgWordAt q x.w → Sparse.get (fun _ => {}) t.pool k = Sparse.get (fun _ => {}) s.pool k) ∧ ∀ a, t.rd a = s.rd a)
    ∧ (s.trgEn q = true → s.pushTurn q (agentOf r) = false →
      exec (.troughPush r q v) s = .next { s with trgWaits := s.trgWaits ++ [⟨q, r, some v, s.now⟩] })
    ∧ (s.trgEn q = true → q.val < 48 → s.pushTurn q (agentOf r) = true → s.trgSpace q = 0 → ∃ t, exec (.troughPush r q v) s = .next t ∧ t.trg = s.trg ∧ t.pool = s.pool
      ∧ (t.rd (R.TRG_STAT q)).getLsbD 4 = true
      ∧ (t.rd (R.TRG_CNT_DROP q)).toNat = min ((s.rd (R.TRG_CNT_DROP q)).toNat % 2 ^ 24 + 1) 0xFFFFFF)
    ∧ (s.trgEn q = false → exec (.troughPush r q v) s = .next (s.bump (R.TRG_CNT_DROP q))))
  ∧ (∀ (r : Requester) (q : Fin 64) (v : Word) (s : State), s.writesReach r → s.trgWrong q (hostSide r) true = true →
    exec (.troughPush r q v) s = .next (s.flag (R.TRG_STAT q) 8))
  ∧ (∀ (r : Requester) (q : Fin 64) (s : State), s.readsReach r → s.trgWrong q (hostSide r) false = false →
    let x := s.tq q
    let w := Sparse.get (fun _ => ({} : TrgWord)) s.pool (s.trgWordAt q x.r)
    (0 < s.trgUnread q → w.bad = false → exec (.trgPeekRead r q false) s = .next (s.deliver r (portWord w.data.toNat w.poison false)))
    ∧ (s.trgUnread q = 0 → exec (.trgPeekRead r q false) s = .next (s.deliver r (portWord 0 false true)))
    ∧ (s.trgEn q = true → s.pullTurn q (agentOf r) = true → 0 < s.trgReady q → w.bad = false →
      (s.hostWaiter q false = none → ∃ t, exec (.troughPull r q false) s = .next t ∧ (t.tq q).r = (x.r + 1) % s.trgMod q
        ∧ (t.tq q).w = x.w ∧ (s.b (F.TRG_CFG_AUTO_REL q) = false → (t.tq q).rel = x.rel) ∧ t.pool = s.pool
        ∧ (∀ k, k ≠ q.val → t.tq k = s.tq k) ∧ (∀ a, t.rd a = s.rd a)
        ∧ Sparse.get (fun _ => 0) t.lastRead (reqIdx r) = portWord w.data.toNat w.poison false))
    ∧ (s.trgEn q = true → s.pullTurn q (agentOf r) = false →
      exec (.troughPull r q false) s = .next { s with trgWaits := s.trgWaits ++ [⟨q, r, none, s.now⟩] })
    ∧ (s.trgEn q = true → s.pullTurn q (agentOf r) = true → s.trgUnread q = 0 → q.val < 48 →
      exec (.troughPull r q false) s = .next (s.deliver r (portWord 0 false true)))
    ∧ (s.trgEn q = false → exec (.troughPull r q false) s = .next (s.deliver r (portWord 0 true true))))
  ∧ (∀ (q : Fin 64) (w : TrgWait) (v : Word) (s : State), s.hostWaiter q true = some w → w.push = some v →
    (0 < s.trgSpace q → ∀ bad, ∃ t, exec (.troughWaitServed q true bad) s = .next t ∧ t.trgWaits = s.trgWaits.erase w
      ∧ (t.tq q).w = ((s.tq q).w + 1) % s.trgMod q)
    ∧ (s.passed w.since (500 * s.f F.TRG_HOST_WAIT_WAIT_US) = true → ∃ t, exec (.troughHostWaitExpiry q true) s = .next t
      ∧ t.trgWaits = s.trgWaits.erase w ∧ t.trg = s.trg ∧ (t.rd (R.TRG_STAT q)).getLsbD 4 = true))
  ∧ (∀ (q : Fin 64) (w : TrgWait) (s : State), s.hostWaiter q false = some w → w.push = none →
    s.passed w.since (500 * s.f F.TRG_HOST_WAIT_WAIT_US) = true → ∃ t, exec (.troughHostWaitExpiry q false) s = .next t
      ∧ t.trgWaits = s.trgWaits.erase w ∧ t.trg = s.trg ∧ (t.rd (R.TRG_STAT q)).getLsbD 5 = true
      ∧ Sparse.get (fun _ => 0) t.lastRead (reqIdx w.req) = portWord 0 false true)
  ∧ (∀ (q : Fin 64) (s : State), 48 ≤ q.val → let x := s.tq q
    exec (.troughPointerCrossing q false) s = .next (s.setTq q { x with wSeen := x.w })
    ∧ (x.relGo = 0 → exec (.troughPointerCrossing q true) s = .next (s.setTq q { x with relSeen := x.rel })))
  ∧ (∀ (r : Requester) (q : Fin 64) (v : Word) (s : State), s.writesReach r → let x := s.tq q
    let n := min (if v.getLsbD 23 then s.trgMod q else getBits v 0 17) (pdiff (s.trgMod q) x.r x.rel - x.relGo)
    ∃ t, exec (.trgRelWrite r q v) s = .next t ∧ (t.tq q).r = x.r ∧ (t.tq q).w = x.w ∧ (∀ a, t.rd a = s.rd a)
      ∧ (q.val < 48 → (t.tq q).rel = (x.rel + n) % s.trgMod q) ∧ (48 ≤ q.val → (t.tq q).rel = x.rel ∧ (t.tq q).relGo = x.relGo + n))
  ∧ (∀ (r : Requester) (q : Fin 64) (s : State), s.writesReach r →
    (s.trgEn q = false → (s.trgBadRegion q = false → ∃ t, exec (.trgCtlEn r q true) s = .next t ∧ t.trgEn q = true ∧ t.trg = s.trg
        ∧ ∀ a, a ≠ R.TRG_CTL q → t.rd a = s.rd a)
      ∧ (s.trgBadRegion q = true → ∃ t, exec (.trgCtlEn r q true) s = .next t ∧ t.trgEn q = false ∧ (t.rd (R.TRG_STAT q)).getLsbD 6 = true)
      ∧ exec (.trgFlush r q) s = .next (s.setTq q {}))
    ∧ (s.trgEn q = true → exec (.trgFlush r q) s = .next s
      ∧ ∃ t, exec (.trgCtlEn r q false) s = .next t ∧ t.trgEn q = false ∧ t.trg = s.trg ∧ ∀ w, w ∈ t.trgWaits → w.q ≠ q.val)
    ∧ exec (.trgMark r q) s = .next (s.setTq q { s.tq q with mark := (s.tq q).r, markOk := true })
    ∧ ((s.tq q).markOk = true → exec (.trgRewind r q) s = .next (s.setTq q { s.tq q with r := (s.tq q).mark }))
    ∧ ((s.tq q).markOk = false → exec (.trgRewind r q) s = .next (s.flag (R.TRG_STAT q) 3)))
  ∧ ∀ (n : Fin 16) (s : State), let q := s.f (F.WHL_SSI_TROUGH n)
    let m := s.trgMod q
    let w1 := Sparse.get (fun _ => ({} : TrgWord)) s.pool (s.trgWordAt q (s.tq q).r)
    let w2 := Sparse.get (fun _ => ({} : TrgWord)) s.pool (s.trgWordAt q (((s.tq q).r + 1) % m))
    s.tmode n = 4 → (s.tr n).st ≠ .off → (s.tr n).st ≠ .sync → q < 48 → s.trgEn q = true → 2 ≤ s.trgReady q → s.mode ≠ 3 → s.pullTurn q (trkAgent n) = true →
    w1.bad = false → w1.poison = false → w2.bad = false → w2.poison = false →
    ∃ t x, exec (.ssiSamplePull n false) s = .next t ∧ (t.tq q).r = (((s.tq q).r + 1) % m + 1) % m
      ∧ (t.tr n).upds = (s.tr n).upds ++ [x] ∧ x.kind = .ssi ∧ x.due = s.now + 120 ∧ (∀ a, t.rd a = s.rd a)
      ∧ x.angle = (w1.data.toNat % 2 ^ s.f (F.WHL_SSI_BITS n)) * s.cpr n / 2 ^ s.f (F.WHL_SSI_BITS n)
      ∧ x.stamp = s.now - BitVec.ofNat 48 ((s.now.toNat + 2 ^ 24 - w2.data.toNat) % 2 ^ 24)

/-- The order of a trough's pointers (R280, R282, R285, R287), for every command that moves one. -/
def Obligations.TroughPointersKeepTheirOrder : Prop :=
  ∀ (r : Requester) (q : Fin 64) (v : Word) (x bad : Bool) (n : Fin 16) (c : Instr),
    c ∈ [Instr.troughPush r q v, .troughPull r q bad, .troughWaitServed q x bad, .troughHostWaitExpiry q x, .troughPointerCrossing q x,
      .trgPeekRead r q bad, .trgRelWrite r q v, .trgCtlEn r q x, .trgFlush r q, .trgMark r q, .trgRewind r q, .ssiSamplePull n bad] →
    ∀ s t : State, (∀ k, k < 64 → s.TroughInOrder k) → exec c s = .next t → ∀ k, k < 64 → t.TroughInOrder k

/-- The life of a channel that alone is in use: R295, R297, R299, R301, R302, R304 to R306, R308 and R309. What a disabled bulk channel reports as BYTES and CRC is a free value (log entry 4). -/
def Obligations.DmaChannelMovesItsData : Prop :=
  (∀ (r : Requester) (n : Fin 32) (s : State), s.writesReach r → s.DmaAlone n → s.b F.DMA_CQ_CFG_EN = true → 32 ≤ s.f (F.DMA_CFG_REQ_SEL n) →
    s.b (F.DMA_DESC_2_SPACE n) = false → s.chIdle n = true → (s.ch n).jobs = [] → (s.ch n).fetchAt = none →
    let x : DmaAddr := ⟨1, s.f (F.DMA_DESC_0_ADDR n) + 2 ^ 24 * s.f (F.DMA_DESC_1_ADDR n) + 2 ^ 48 * s.f (F.DMA_DESC_2_ADDR n)⟩
    ∃ t, exec (.dmaStart r n) s = .next t ∧ (t.ch n).on = true ∧ (t.ch n).next = some x ∧ (t.ch n).fetchAt = some s.dmaNow
      ∧ (t.ch n).hops = 1 ∧ t.chIdle n = false ∧ t.f (F.DMA_BYTES_BYTES n) = 0)
  ∧ (∀ (r : Requester) (n : Fin 32) (s : State), s.writesReach r → s.chIdle n = false ∨ s.b F.DMA_CQ_CFG_EN = false →
    exec (.dmaStart r n) s = .next (s.setB (F.DMA_STAT_CFG_ERR n) true))
  ∧ (∀ (n : Fin 32) (x : DmaAddr) (at_ : Time) (s : State), s.DmaAlone n → (s.ch n).on = true → (s.ch n).next = some x →
    (s.ch n).fetchAt = some at_ → (s.ch n).jobs = [] → (s.ch n).records = [] → (s.ch n).lost = [] →
    (x.space = 1 → x.addr % 32 = 0 → x.addr + 32 ≤ 0x200000 → let bs := s.yardSpace x.addr 32
      (s.descOk n bs = true → ∃ t, exec (.descriptorFetched n (.own .clean)) s = .next t
        ∧ (t.ch n).jobs = [{ at_ := x, hops := if (parseDesc bs).hopRst then 1 else (s.ch n).hops, d := parseDesc bs }]
        ∧ (t.ch n).fetchAt = none ∧ (t.ch n).next = if (parseDesc bs).last then none else some (parseDesc bs).next)
      ∧ (s.descOk n bs = false → ∃ t y, exec (.descriptorFetched n (.own .clean)) s = .next t ∧ (t.ch n).on = false
        ∧ (t.ch n).records = [y] ∧ y.status = dmaDescBad ∧ y.at_ = x))
    ∧ (s.timedOut at_ = true → ∃ t y, exec (.dmaAccessTimeout n) s = .next t ∧ (t.ch n).on = false
      ∧ (t.ch n).records = [y] ∧ y.status = dmaTimeout ∧ y.at_ = x
      ∧ (t.rd R.DMA_CNT_TIMEOUT).toNat = min ((s.rd R.DMA_CNT_TIMEOUT).toNat % 2 ^ 24 + 1) 0xFFFFFF))
  ∧ (∀ (n : Fin 32) (j : DmaJob) (s : State), s.DmaAlone n → s.DmaOnly n j → 96 ≤ s.f (F.DMA_CFG_REQ_SEL n) →
    j.issued < j.d.count → j.written < j.d.count → j.d.src.space ≠ 2 → s.dmaBuffered + (s.nextRead j.d j.issued (s.burstBytes n j)).2.1 ≤ 16384 →
    ∃ t k ks, exec .burstGrant s = .next t ∧ (t.ch n).jobs = k :: ks ∧ k.d = j.d ∧ j.issued < k.issued
      ∧ (t.rd (R.DMA_CNT_BURST n)).toNat = min ((s.rd (R.DMA_CNT_BURST n)).toNat % 2 ^ 24 + 1) 0xFFFFFF)
  ∧ (∀ (n : Fin 32) (j : DmaJob) (x : DmaRead) (data : List Byte) (s : State), s.DmaAlone n → s.DmaOnly n j →
    j.written < j.d.count → j.reads = [x] → x.data = none → x.src.space = 2 → data.length = x.size →
    ∃ t, exec (.dmaReadReturn n 0 (.host data)) s = .next t ∧ (t.ch n).jobs = [{ j with reads :=
      [{ x with data := some (dataBytes j.d.srcW (data.map (·.toNat))), order := s.dma.order + 1 }] }])
  ∧ (∀ (n : Fin 32) (j : DmaJob) (still : Bool) (s : State), s.DmaAlone n → s.DmaOnly n j → s.hostUp = true → j.d.dst.space = 2 →
    dataSize j.d.dstW ≤ (readyBytes j.reads).length → j.written + dataSize j.d.dstW ≤ j.d.count →
    let el := ((readyBytes j.reads).take (dataSize j.d.dstW)).map (·.1)
    let w := if j.d.dstW = 4 then el ++ [0] else el
    let a := if j.d.dstInc then j.d.dst.addr + j.written / dataSize j.d.dstW * storSize j.d.dstW else j.d.dst.addr
    let k := 4096 - a % 4096
    ∃ t, exec (.dmaWrite false still) s = .next t
      ∧ t.hostOut = (if w.length ≤ k then [(a, w)] else [(a + k, w.drop k), (a, w.take k)]) ++ s.hostOut
      ∧ (j.written + dataSize j.d.dstW < j.d.count → ∃ k, (t.ch n).jobs = [k] ∧ k.written = j.written + dataSize j.d.dstW ∧ k.d = j.d)
      ∧ (j.written + dataSize j.d.dstW = j.d.count → j.d.last = true → ∃ y, (t.ch n).on = false ∧ (t.ch n).records = [y]
        ∧ y.status = dmaOk ∧ y.bytes = j.d.count ∧ y.valid = true ∧ y.at_ = j.at_))
  ∧ (∀ (r : Requester) (n : Fin 32) (s : State), s.writesReach r → s.DmaAlone n → (s.ch n).on = true → (s.ch n).records = [] →
    (∀ j : DmaJob, (s.ch n).jobs = [j] → j.fault = none → j.written < j.d.count →
      ∃ t, exec (.dmaStop r n) s = .next t ∧ (t.ch n).on = true ∧ (t.ch n).jobs = [j] ∧ t.dmaState n = 4)
    ∧ (∀ x : DmaAddr, (s.ch n).jobs = [] → (s.ch n).next = some x →
      ∃ t y, exec (.dmaStop r n) s = .next t ∧ (t.ch n).on = false ∧ (t.ch n).records = [y] ∧ y.status = dmaStopped
        ∧ y.bytes = 0 ∧ y.valid = true ∧ y.at_ = x))
  ∧ (∀ (r : Requester) (n : Fin 32) (s : State), s.writesReach r → (s.ch n).on = true → s.bulk n = true →
    ∃ t y, exec (.dmaDisable r n) s = .next t ∧ (t.ch n).on = false ∧ (t.ch n).jobs = [] ∧ (t.ch n).next = none
      ∧ (t.ch n).records = (s.ch n).records ++ [y] ∧ y.status = dmaDisabled ∧ y.valid = false ∧ (∀ m, m ≠ n.val → t.ch m = s.ch m))
  ∧ (∀ (n : Fin 32) (y : DmaRec) (s : State), s.DmaAlone n → (s.ch n).on = false → (s.ch n).lost = [] → (s.ch n).records = [y] →
    s.b F.DMA_CQ_CFG_EN = true → s.cqFull = false → s.recOk s.recAddr = true →
    ∃ t, exec (.dmaRecordWrite n) s = .next t ∧ t.chIdle n = true ∧ (t.ch n).seq = ((s.ch n).seq + 1) % 2 ^ 16
      ∧ t.f F.DMA_CQ_HEAD_HEAD = (s.f F.DMA_CQ_HEAD_HEAD + 1) % 2 ^ s.cqLog
      ∧ (s.recAddr.space = 2 → t.hostOut = (s.recAddr.addr, s.recBytes n y) :: s.hostOut))
  ∧ (∀ (n : Fin 32) (x : Time) (s : State), (s.ch n).on = false → (s.ch n).lost = [x] → (s.ch n).records = [] →
    ∃ t, exec (.dmaDrainDone n) s = .next t ∧ t.chIdle n = true ∧ t.dmaState n = 0)
  ∧ ∀ (r : Requester) (v : Word) (s : State), s.writesReach r →
    (∃ t, exec (.dmaCqTailWrite r v) s = .next t ∧ t.f F.DMA_CQ_TAIL_TAIL = getBits v 0 14 ∧ ∀ a, a ≠ R.DMA_CQ_TAIL → t.rd a = s.rd a)
    ∧ (s.b F.DMA_CQ_CFG_EN = false → v.getLsbD 4 = true → ∃ t, exec (.dmaCqCfgEn r v) s = .next t ∧ t.b F.DMA_CQ_CFG_EN = true
      ∧ t.f F.DMA_CQ_HEAD_HEAD = 0 ∧ t.f F.DMA_CQ_TAIL_TAIL = 0 ∧ t.b F.DMA_CQ_HEAD_PHASE = true
      ∧ t.f F.DMA_CQ_CFG_SIZE_LOG = getBits v 0 4)

/-- The endpoint (R313, R316, R320, R321, R334) and the SPI target (R322 to R324; the timing of a read's prefix bytes: log entry 161). The words that follow a transaction's first act as ticks pass (TIME_BASE_TICK). -/
def Obligations.PcieAndSpiCommandsAct : Prop :=
  (∀ s : State, s.mode ≠ 0 → s.b F.SYS_CLK_STAT_PCIE_REF_OK = true → s.b F.SYS_HOST_STAT_BRIDGE_CLK = false →
    s.b F.SYS_HOST_STAT_LINK_UP = false → ∃ t, exec .refclkLost s = .next t ∧ t.b F.SYS_CLK_STAT_PCIE_REF_OK = false
      ∧ t.b F.SYS_HOST_STAT_BRIDGE_CLK = true ∧ t.logQ = (s.log .hstRefclkLost 0 0).logQ ∧ t.mode = s.mode)
  ∧ (∀ s : State, s.mode ≠ 0 → exec .pcieRefclkRestored s = .next (s.setB F.SYS_CLK_STAT_PCIE_REF_OK true))
  ∧ (∀ (sp : Fin 4) (w : Fin 3) (s : State), s.hostsel ≠ 2 → s.mode ≠ 0 → s.b F.SYS_CLK_STAT_PCIE_REF_OK = true →
    sp.val ≠ 0 → w.val ≠ 0 → ∃ t, exec (.pcieLinkUp sp w) s = .next t ∧ t.b F.SYS_HOST_STAT_LINK_UP = true
      ∧ t.f F.SYS_HOST_STAT_SPEED = sp ∧ t.f F.SYS_HOST_STAT_WIDTH = w ∧ t.mode = s.mode)
  ∧ (∀ (on en mk : Bool) (s : State), s.b F.SYS_HOST_STAT_LINK_UP = true →
    (∃ t, exec (.pcieConfigWrite (.busMaster on)) s = .next t ∧ t.b F.SYS_HOST_STAT_BME = on)
    ∧ (∃ t, exec (.pcieConfigWrite (.msix en mk)) s = .next t ∧ t.b F.SYS_HOST_STAT_MSIX_EN = en ∧ t.pcie.fmask = mk)
    ∧ (∃ t, exec (.pcieConfigWrite (.pmeEnable on)) s = .next t ∧ t.pcie.pmeEn = on)
    ∧ exec (.pcieConfigWrite (.maxPayload 256)) s = .next { s with pcie := { s.pcie with mps := 256 } }
    ∧ exec (.pcieConfigWrite (.maxRead 512)) s = .next { s with pcie := { s.pcie with mrrs := 512 } }
    ∧ (∀ (i : Fin 6) (v : Word), ∃ t, exec (.pcieConfigWrite (.bar i v)) s = .next t ∧ t.bar i = barWord i v
      ∧ (∀ k, k ≠ i.val → t.bar k = s.bar k) ∧ ∀ a, t.rd a = s.rd a)
    ∧ (∃ t, exec (.pcieConfigWrite (.aspmL1 on)) s = .next t ∧ t.pcie.aspm = on ∧ (on = false → t.b F.SYS_HOST_STAT_L1 = false)
      ∧ ∀ a, a ≠ R.SYS_HOST_STAT → t.rd a = s.rd a)
    ∧ exec (.pcieConfigWrite (.ecrc en mk)) s = .next { s with pcie := { s.pcie with ecrcGen := en, ecrcChk := mk } })
  ∧ (∀ (d3 : Bool) (s : State), s.b F.SYS_HOST_STAT_LINK_UP = true → s.f F.SYS_HOST_STAT_DSTATE ≠ (if d3 then 3 else 0) →
    ∃ t, exec (.pcieDStateChange d3) s = .next t ∧ t.f F.SYS_HOST_STAT_DSTATE = (if d3 then 3 else 0) ∧ t.mode = s.mode)
  ∧ (∀ (down : Bool) (s : State), s.hostsel ≠ 2 → s.mode ≠ 0 → ∃ t, exec (.pcieEndpointReset down) s = .next t
    ∧ t.b F.SYS_HOST_STAT_BME = false ∧ t.b F.SYS_HOST_STAT_MSIX_EN = false ∧ t.f F.SYS_HOST_STAT_DSTATE = 0
    ∧ (∀ v, v < 32 → (t.rd (R.MSIX v 3)).getLsbD 0 = true) ∧ (∀ a, a < 2 ^ 24 → t.snapRd .pcie a = 0)
    ∧ (down = true → t.b F.SYS_HOST_STAT_LINK_UP = false) ∧ t.mode = s.mode ∧ t.pages = s.pages ∧ t.trg = s.trg ∧ t.pool = s.pool)
  ∧ (∀ (a : BitVec 24) (w : Word) (ws : List Word) (gap : Nat) (s : State), s.linked .spi = true → s.spi.kind = .none →
    s.tb.running = true → s.spi.held = [] → s.accessWaits .spi = false →
    let b := a.toNat - a.toNat % 4
    let x := { s.spi with kind := .write, coming := ws, left := 0, want := 0, gap := gap, due := s.now + BitVec.ofNat 48 gap, pull := false, out := [] }
    exec (.spiWrite a (w :: ws) gap) s = .next (State.spiPut { s with spi := { x with fixed := false, addr := (b + 4) % 2 ^ 24 } } b w)
    ∧ exec (.spiWriteFixed a (w :: ws) gap) s = .next (State.spiPut { s with spi := { x with fixed := true, addr := b } } b w))
  ∧ (∀ (a : BitVec 24) (n gap : Nat) (s : State), s.linked .spi = true → s.spi.kind = .none →
    s.tb.running = true → s.spi.held = [] → s.accessWaits .spi = false →
    let b := a.toNat - a.toNat % 4
    let x := { s.spi with kind := .read, coming := [], left := n, want := n, gap := gap, due := s.now + BitVec.ofNat 48 gap, pull := false, out := [] }
    let u := State.busRead { s with spi := { x with fixed := false, addr := (b + 4) % 2 ^ 24 } } .spi b
    let v := State.busRead { s with spi := { x with fixed := true, addr := b } } .spi b
    let sent := fun (y : State) => if n = 0 then [] else spiPrefix true (max 1 (gap / 5)) (Config.spiRead y.draw.1 % 61)
      ++ (bytesOf 4 (y.got .spi).toNat).map (fun c => some (BitVec.ofNat 8 c))
    (u.accessWaits .spi = false → ∃ t, exec (.spiRead a n gap) s = .next t ∧ exec (.qread a n gap) s = .next t
      ∧ t = { (if n = 0 then u else u.draw.2) with spi := t.spi } ∧ t.spi.out = sent u ∧ t.spi.left = n ∧ t.spi.addr = (b + 4) % 2 ^ 24)
    ∧ (v.accessWaits .spi = false → ∃ t, exec (.spiReadFixed a n gap) s = .next t ∧ exec (.qreadFixed a n gap) s = .next t
      ∧ t = { (if n = 0 then v else v.draw.2) with spi := t.spi } ∧ t.spi.out = sent v ∧ t.spi.left = n ∧ t.spi.addr = b))
  ∧ (∀ (a2 a1 a0 : Byte) (ds : List Byte) (n gap : Nat), let a := a2 ++ a1 ++ a0
    spiCommand (0x02 :: a2 :: a1 :: a0 :: ds) n gap = some (.spiWrite a (spiWords ds) gap)
    ∧ spiCommand (0x42 :: a2 :: a1 :: a0 :: ds) n gap = some (.spiWriteFixed a (spiWords ds) gap)
    ∧ spiCommand (0x03 :: a2 :: a1 :: a0 :: ds) n gap = some (.spiRead a n gap)
    ∧ spiCommand (0x43 :: a2 :: a1 :: a0 :: ds) n gap = some (.spiReadFixed a n gap)
    ∧ spiCommand (0xEB :: a2 :: a1 :: a0 :: ds) n gap = some (.qread a n gap)
    ∧ spiCommand (0xEC :: a2 :: a1 :: a0 :: ds) n gap = some (.qreadFixed a n gap)
    ∧ ∀ c : Byte, c ∉ [0x02, 0x42, 0x03, 0x43, 0xEB, 0xEC, 0x05] → spiCommand (c :: a2 :: a1 :: a0 :: ds) n gap = none)
  ∧ (∀ s : State, s.linked .spi = true → s.spi.kind = .none → ∃ t, exec .spiStatus s = .next t ∧ t.spi.kind = .status
    ∧ (let h := !s.spi.held.isEmpty || s.trgWaits.any (fun w => decide (w.req = Requester.spi) && w.push.isSome)
      ∀ i, t.spiByte i = some (BitVec.ofNat 8 (toBit h + 2 * s.f F.SYS_HOST_STAT_SPI_ABORT + 4 * s.f F.SYS_HOST_STAT_SPI_OVF)))
    ∧ t.b F.SYS_HOST_STAT_SPI_ABORT = false ∧ t.b F.SYS_HOST_STAT_SPI_OVF = false ∧ ∀ a, a ≠ R.SYS_HOST_STAT → t.rd a = s.rd a)
  ∧ ∀ (cut : Bool) (s : State), ∃ t, exec (.spiCsRise cut) s = .next t ∧ t.spi.kind = .none ∧ t.spi.coming = [] ∧ t.spi.left = 0
    ∧ t.spi.held = s.spi.held ∧ t.b F.SYS_HOST_STAT_SPI_ABORT = (s.b F.SYS_HOST_STAT_SPI_ABORT || (cut && decide (s.spi.kind = .write)))

/-- The forerunner bus: R326 to R329, R352. -/
def Obligations.ForerunnerBusServesImageAndWindow : Prop :=
  (∀ s : State, s.frReady = true →
    (∃ t, exec (.frImageAccess 0 false 0) s = .next t ∧ t.got .fr = 0x0960 ∧ ∀ a, t.rd a = s.rd a)
    ∧ (∃ t, exec (.frImageAccess 1 false 0) s = .next t ∧ t.got .fr = 0x3840 ∧ ∀ a, t.rd a = s.rd a)
    ∧ (∀ w : BitVec 12, 0x800 ≤ w.toNat → w.toNat < 0xF00 → ∃ t, exec (.frImageAccess w false 0) s = .next t ∧ t.got .fr = 0
      ∧ ∀ a, t.rd a = s.rd a)
    ∧ (s.mayWrite .fr = true → ∀ (w : BitVec 12) (v : BitVec 16),
      (0x800 ≤ w.toNat → w.toNat < 0xF00 → exec (.frImageAccess w true v) s = .next s)
      ∧ (0x13 ≤ w.toNat → w.toNat < 0x100 → exec (.frImageAccess w true v) s = .next (s.setImg w.toNat v.toNat)))
    ∧ (∀ w : BitVec 12, w.toNat < 0xF00 →
      (∃ t, exec (.frAccessTimeout w true) s = .next t
        ∧ (t.rd R.SYS_HOST_FR_TIMEOUT).toNat = min ((s.rd R.SYS_HOST_FR_TIMEOUT).toNat % 2 ^ 24 + 1) 0xFFFFFF
        ∧ t.logQ = (s.log .hstFrTimeout 2 0).logQ ∧ ∀ a, a ≠ R.SYS_HOST_FR_TIMEOUT → a ≠ R.LOG_LOST → t.rd a = s.rd a)
      ∧ ∃ t, exec (.frAccessTimeout w false) s = .next t ∧ t.got .fr = 0
        ∧ (t.rd R.SYS_HOST_FR_TIMEOUT).toNat = min ((s.rd R.SYS_HOST_FR_TIMEOUT).toNat % 2 ^ 24 + 1) 0xFFFFFF)
    ∧ (∀ v : BitVec 16, exec (.frWinDataLoWrite v) s = .next { s with fr := { s.fr with held := some v.toNat } })
    ∧ (∀ v : BitVec 16, exec (.frWinAddrWrite false v) s = .next { s with fr := { s.fr with
          held := none, addr := s.fr.addr / 65536 * 65536 + v.toNat } }
      ∧ exec (.frWinAddrWrite true v) s = .next { s with fr := { s.fr with
          held := none, addr := s.fr.addr % 65536 + 65536 * (v.toNat % 256), inc := v.getLsbD 15 } })
    ∧ (let u := s.busRead .fr s.fr.addr
      u.accessWaits .fr = false → ∃ t, exec .frWinDataLoRead s = .next t ∧ t.got .fr = BitVec.ofNat 32 ((u.got .fr).toNat % 65536)
        ∧ t.fr.hi = (u.got .fr).toNat / 65536 ∧ t.fr.addr = if u.fr.inc then (u.fr.addr + 4) % 2 ^ 24 else u.fr.addr))
  ∧ (∀ (v : BitVec 16) (lo : Nat) (s : State), s.frReady = true → s.writesReach .fr → s.fr.held = some lo →
    exec (.frWinDataHiWrite v) s = .next (State.frStep
      (State.regWrite { s with fr := { s.fr with held := none } } .fr s.fr.addr (BitVec.ofNat 32 (lo + 65536 * v.toNat)) 15)))
  ∧ ∀ (v : BitVec 16) (s : State), s.frReady = true → s.writesReach .fr →
    let op := 0xF00 + v.toNat % 256
    (2 ≤ s.mode → (s.mb 4).svc = none → (opModes op).contains s.mode = true →
      s.argsBad op (s.windowBytes (needLen op [])) = none →
      ∃ t, exec (.frWindowCommand v) s = .next t ∧ (t.mb 4).svc = some { op := op, args := s.windowBytes (needLen op []) }
        ∧ t.frImg 0x10 = v.toNat ∧ ∀ a, t.rd a = s.rd a)
    ∧ ((s.mb 4).svc.isSome = true → exec (.frWindowCommand v) s = .next s)

/-- The rings (R335), doorbells and service (R338, R340, R354), and the end of moderation (R356). -/
def Obligations.MailboxRingIsServed : Prop :=
  (∀ (r : Requester) (m : Fin 4) (v : Word) (s : State), s.writesReach r →
    let step := ptrDiff (getBits v 0 7) (s.f (F.MBX_DB_PROD m))
    (1 ≤ step → step ≤ s.mbSlots m → ptrDiff (getBits v 0 7) (s.f (F.MBX_DONE_DONE m)) ≤ s.mbSlots m →
      ∃ t, exec (.mbxDoorbell r m v) s = .next t ∧ t.f (F.MBX_DB_PROD m) = getBits v 0 7
        ∧ (t.mb m).bells = (s.mb m).bells ++ [{ slots := step, fence := (List.range 4).map s.openSlots }]
        ∧ ∀ a, a ≠ R.MBX_DB m → t.rd a = s.rd a)
    ∧ (s.mbSlots m < step ∨ s.mbSlots m < ptrDiff (getBits v 0 7) (s.f (F.MBX_DONE_DONE m)) →
      ∃ t, exec (.mbxDoorbell r m v) s = .next t ∧ t.b (F.MBX_STAT_DB_ERR m) = true ∧ t.mbx = s.mbx
        ∧ t.rd (R.MBX_DB m) = s.rd (R.MBX_DB m)))
  ∧ (∀ (r : Requester) (m : Fin 4) (v : Word) (s : State), s.writesReach r →
    (s.b (F.MBX_CFG_EN m) = true → v.getLsbD 16 = true → exec (.mbxCfgWrite r m v) s = .next (s.setB (F.MBX_STAT_CFG_ERR m) true))
    ∧ (s.b (F.MBX_CFG_EN m) = true → v.getLsbD 16 = false → ∃ t, exec (.mbxCfgWrite r m v) s = .next t ∧ t.b (F.MBX_CFG_EN m) = false
      ∧ t.b (F.MBX_STAT_WAIT_OWN m) = false ∧ (t.mb m).waitSince = none ∧ (t.mb m).svc = (s.mb m).svc
      ∧ ∀ b, b ∉ [R.MBX_CFG m, R.MBX_STAT m] → t.rd b = s.rd b)
    ∧ (s.b (F.MBX_CFG_EN m) = false → v.getLsbD 16 = true → (s.mb m).svc = none →
      getBits v 0 13 + 2 ^ min 6 (getBits v 13 3) ≤ 8192 → ∃ t, exec (.mbxCfgWrite r m v) s = .next t ∧ t.b (F.MBX_CFG_EN m) = true
        ∧ t.f (F.MBX_CFG_BASE_PAGE m) = getBits v 0 13 ∧ t.f (F.MBX_CFG_SLOTS_LOG m) = getBits v 13 3
        ∧ t.f (F.MBX_DB_PROD m) = 0 ∧ t.f (F.MBX_STAT_CONS m) = 0 ∧ t.f (F.MBX_DONE_DONE m) = 0 ∧ (t.mb m).bells = []))
  ∧ (∀ (m : Fin 4) (s : State), 2 ≤ s.mode → s.b (F.MBX_CFG_EN m) = true → (s.mb m).svc = none →
    s.f (F.MBX_STAT_CONS m) ≠ s.f (F.MBX_DB_PROD m) →
    let page := s.mbPage m (s.f (F.MBX_STAT_CONS m))
    let h := s.yardBytes (256 * page) 16
    let a := s.yardBytes (256 * page + 16) (min 240 (h.getD 4 0))
    ((s.page page).owner = 2 → headerBad h = false → ((h.getD 5 0).testBit 3 = false ∨ s.fenceOpen m = true) →
      (opModes (le h 0 2)).contains s.mode = true → s.argsBad (le h 0 2) a = none →
      ∃ t, exec (.mbxServiceStart m) s = .next t ∧ t.f (F.MBX_STAT_CONS m) = (s.f (F.MBX_STAT_CONS m) + 1) % 128
        ∧ t.b (F.MBX_STAT_SERVING m) = true ∧ (t.mb m).svc = some { page := page, op := le h 0 2, flags := h.getD 5 0, args := a, pages := pgPages (le h 0 2) a }
        ∧ ∀ b, b ≠ R.MBX_STAT m → t.rd b = s.rd b)
    ∧ ((s.page page).owner < 2 → (s.mb m).waitSince = none → ∃ t, exec (.mbxServiceStart m) s = .next t
        ∧ (t.mb m).waitSince = some s.now ∧ t.b (F.MBX_STAT_WAIT_OWN m) = true ∧ t.f (F.MBX_STAT_CONS m) = s.f (F.MBX_STAT_CONS m)))
  ∧ (∀ (m : Fin 4) (t0 : Time) (s : State), (s.mb m).waitSince = some t0 → (s.mb m).notHanded = false → s.passed t0 500000 = true →
    s.b (F.MBX_STAT_WAIT_OWN m) = true → s.b (F.MBX_CFG_EN m) = true → (s.page (s.mbPage m (s.f (F.MBX_STAT_CONS m)))).owner ≠ 2 →
    ∃ t, exec (.mbxNotHanded m) s = .next t ∧ (t.mb m).notHanded = true
      ∧ t.logQ = (s.log .hstMbxNotHanded m 0).logQ ∧ ∀ b, b ≠ R.LOG_LOST → t.rd b = s.rd b)
  ∧ ∀ (c : Fin 6) (s : State), c.val < 5 → (s.hold c).n ≠ 0 → s.b F.MBX_SLEEP_ASLEEP = false →
    500 * s.modTime c ≤ since s.ctlNow (s.hold c).since →
    exec (.moderationTimeExpiry c) s = .next (s.releaseHold c) ∧ ((s.releaseHold c).hold c).n = 0

/-- Completion (R336, R339), and the commands that answer at once (Table 16.3, R341, R345, R348). -/
def Obligations.HoltidAnswersCarryTheirResults : Prop :=
  (∀ (src : Fin 4) (v : Svc) (status detail : Nat) (result : List Nat) (s : State), (s.mb src).svc = some v → v.pages = [] →
    v.page < 8192 → (s.page v.page).owner = 2 → status < 256 → result.length ≤ 240 → (∀ b, b ∈ result → b < 256) →
    let t := s.complete src status detail result
    t.yardBytes (256 * v.page + 16) result.length = result ∧ t.yardBytes (256 * v.page + 6) 2 = [status, result.length]
    ∧ t.yardBytes (256 * v.page + 8) 4 = bytesOf 4 detail ∧ le (t.yardBytes (256 * v.page) 16) 12 2 = hchk (t.yardBytes (256 * v.page) 16)
    ∧ t.page v.page = { s.page v.page with owner := 1, gen := ((s.page v.page).gen + 1) % 64 }
    ∧ t.f (F.MBX_DONE_DONE src) = (s.f (F.MBX_DONE_DONE src) + 1) % 128 ∧ t.b (F.MBX_STAT_SERVING src) = false ∧ (t.mb src).svc = none)
  ∧ (∀ (src : Fin 4) (v : Svc) (s : State),
    (s.serves src 0x100 v → exec (.cmdEcho src) s = .next (s.complete src statusOk 0 v.args))
    ∧ (s.serves src 0x101 v → exec (.cmdGetInfo src) s = .next (s.complete src statusOk 0
        (s.regBytes R.SYS_ID 4 ++ s.regBytes R.SYS_REV 4 ++ s.regBytes R.SYS_FW_VER 4
          ++ [s.mode, toBit s.sealed, s.hostsel, toBit (s.b F.MBX_SLEEP_ASLEEP)])))
    ∧ (s.serves src 0x200 v → exec (.cmdWhlStatus src) s = .next (s.complete src statusOk 0
        ((bitList 16 (le v.args 0 2)).flatMap (fun n =>
          s.regBytes (R.WHL_STAT n) 3 ++ s.regBytes (R.WHL_POS n) 3 ++ s.regBytes (R.WHL_ANGLE n) 3 ++ s.regBytes (R.WHL_RATE n) 3))))
    ∧ (s.serves src 0x301 v → exec (.cmdEvtStatus src) s = .next (s.complete src statusOk 0 (s.evtStatus v)))
    ∧ (s.serves src 0x402 v → exec (.cmdVlvStatus src) s = .next (s.complete src statusOk 0 (s.vlvStatus v)))
    ∧ (s.serves src 0x501 v → exec (.cmdUcodeInfo src) s = .next (s.complete src statusOk 0
        ((List.range 16).flatMap (fun n => s.regBytes (R.SHD_ENG_IMAGE n) 3 ++ s.regBytes (R.SHD_ENG_STAT n) 3))))
    ∧ (s.serves src 0x700 v → exec (.cmdTthStatus src) s = .next (s.complete src statusOk 0 s.tthStatus))
    ∧ (s.serves src 0xA01 v → exec (.cmdLogClear src) s = .next (s.logClear.complete src statusOk 0 []))
    ∧ (s.serves src 0x202 v → 16 ≤ v.pages.length → let n := v.args.getD 0 0
      let u := s.readCorr n (List.range 1024)
      exec (.cmdLearnSave src) s = .next ((u.yardPutBytes .core (256 * v.pages.headD 0)
        ((List.range 1024).flatMap (fun k => bytesOf 4 (u.shadowRd (R.LRN n k)).toNat))).complete src statusOk 0 [toBit (u.unlearned n)]))
    ∧ (∀ bad : List (Fin 2048), s.serves src 0xA00 v → (le v.args 2 2 + 15) / 16 ≤ v.pages.length → let o := le v.args 0 2
      let c := le v.args 2 2
      let u := overList ((bad.map Fin.val).filter (fun e => (e + 2048 - o) % 2048 < c)) State.logBad s
      exec (.cmdLogRead src bad) s = .next ((u.yardPutBytes .core (256 * v.pages.headD 0)
        ((List.range c).flatMap (fun i => (List.range 4).flatMap (fun w => bytesOf 4 (u.logWord ((o + i) % 2048) w).toNat)))).complete
          src statusOk 0 (bytesOf 2 c ++ bytesOf 2 ((o + c) % 2048))))
    ∧ (∀ x xs, s.serves src 0x702 v → s.tth.msgs = x :: xs → exec (.cmdTthMsgRead src) s = .next
      (State.complete { s with tth := { s.tth with msgs := xs } } src statusOk 0
        ([x.src, x.kind, x.data.length, xs.length] ++ bytesOf 3 x.beat ++ [0] ++ x.data ++ List.replicate (28 - x.data.length) 0)))
    ∧ (s.serves src 0x800 v → ∃ t, exec (.cmdYardReturn src) s = .next t ∧ (t.mb src).svc = none
      ∧ ∀ p, le v.args 0 2 ≤ p → p < le v.args 0 2 + le v.args 2 2 → (s.page p).owner = 2 → s.keptPage p = false →
        t.page p = { s.page p with owner := 1, gen := ((s.page p).gen + 1) % 64 }))
  ∧ ∀ (src : Fin 5) (v : Svc) (s : State), s.serves src 0xF04 v → let k := v.args.getD 0 0
    exec (.frChRead src) s = .next (s.complete src statusOk 0
      (bytesOf 2 (s.rd (R.STL_CNT k)).toNat ++ bytesOf 2 (s.rd (R.STL_CAP k)).toNat ++ [getBits (s.rd (R.STL_FLAGS k)) 0 7]))

/-- The commands of Tables 16.3 and 16.5 that act on the device: R10, R17, R178, R342, R345, R346, R348 to R350, R357, R358, R379, R387. What a UCODE_LOAD ended by a bad page leaves is log entry 155. -/
def Obligations.HoltidCommandsAct : Prop :=
  (∀ (src : Fin 4) (v : Svc) (s : State), let a := v.args
    (s.serves src 0x102 v → (a.getD 0 0 = s.mode → exec (.cmdSetMode src) s = .next (s.complete src statusOk 0 [s.mode]))
      ∧ (a.getD 0 0 ≠ s.mode → s.modeFor (a.getD 0 0) = none → exec (.cmdSetMode src) s = .next (s.complete src statusBadState 0 []))
      ∧ (a.getD 0 0 ≠ s.mode → s.modeFor (a.getD 0 0) ≠ none → exec (.cmdSetMode src) s
        = .next (s.setSvc src { v with waiting := true, arg := a.getD 0 0, since := s.now })))
    ∧ (s.serves src 0x103 v → (s.mode = 2 → s.sealed = false →
        exec (.cmdSeal src) s = .next ((s.setB F.SYS_MODE_SEALED true).complete src statusOk 0 []))
      ∧ (s.sealed = true → exec (.cmdSeal src) s = .next (s.complete src statusBadState 0 [])))
    ∧ (∀ st : BitVec 5, s.serves src 0x104 v → s.tb.running = true → s.sys.reboot = none → ∃ t, exec (.cmdReset src st) s = .next t
      ∧ t.sys.reboot = some (s.now + 5000, st.toNat) ∧ (t.mb src).svc = some { v with waiting := true } ∧ ∀ b, t.rd b = s.rd b)
    ∧ (s.serves src 0x105 v → v.flags.testBit 2 = false → s.shadowTicks = true →
      firstBad (s.pinOwnBad (a.getD 0 0) (a.getD 1 0) (le a 2 2)) = none → ∃ t, exec (.cmdPinOwn src) s = .next t
      ∧ getBits (t.shadowRd (R.TIO_CFG (a.getD 0 0))) 0 2 = a.getD 1 0 % 4 ∧ getBits (t.shadowRd (R.TIO_CFG (a.getD 0 0))) 2 9 = le a 2 2 % 512
      ∧ R.TIO_CFG (a.getD 0 0) ∈ t.ready)
    ∧ (∀ bad : BitVec 9, s.serves src 0x106 v → let b := bad.toNat &&& le a 0 2
      exec (.cmdSelftest src bad) s = .next ((overList (bitList 9 (le a 0 2)) State.bistClear s).complete src
        (if b = 0 then statusOk else statusHwFault) 0 (bytesOf 2 b)))
    ∧ (s.serves src 0x107 v → ∃ t w, exec (.cmdCalibrate src) s = .next t ∧ (t.mb src).svc = some w ∧ w.waiting = true ∧ w.since = s.now)
    ∧ (s.awaiting src 0x107 = some v → s.calDone v = a.getD 0 0 →
      exec (.cmdCalibrate src) s = .next (s.complete src statusOk 0 [s.calDone v]))
    ∧ (s.serves src 0x108 v → let img := s.yardBytes v.pgOff (min v.pgSize 32768)
      let n := 96 + imgField img 0x10 4
      s.patchCheck img = statusOk → v.pgSize ≠ 0 → n ≤ v.pgSize → ∃ t, exec (.cmdPatchLoad src false) s = .next t
        ∧ t.sys.patch = img.take n ∧ t.b F.SYS_BOOT_PATCH_STAGED = true ∧ (t.mb src).svc = none)
    ∧ (s.serves src 0x110 v → ∃ t, exec (.cmdSleepNotice src) s = .next t ∧ t.b F.MBX_SLEEP_ASLEEP = true
      ∧ t.f F.MBX_SLEEP_WAKE_EN = a.getD 0 0 % 64 ∧ (t.mb src).svc = none)
    ∧ (s.serves src 0x111 v → ∃ t, exec (.cmdWakeNotice src) s = .next t ∧ t.b F.MBX_SLEEP_ASLEEP = false ∧ t.wakeLow = false
      ∧ (t.mb src).svc = none)
    ∧ (s.serves src 0x201 v → v.flags.testBit 2 = false → s.shadowTicks = true → let ws := s.pgWords v (le a 4 2)
      (le a 4 2 + 63) / 64 ≤ v.pages.length → (∀ w, w ∈ ws → w < 2 ^ 24) → exec (.cmdPatternLoad src) s
        = .next ((s.putWords (R.PAT (a.getD 0 0) (le a 2 2)) ws).finish src ((List.range (le a 4 2)).map (fun i => R.PAT (a.getD 0 0) (le a 2 2 + i))) []))
    ∧ (s.serves src 0x203 v → v.flags.testBit 2 = false → s.shadowTicks = true → 16 ≤ v.pages.length → exec (.cmdLearnRestore src) s
        = .next ((s.putWords (R.LRN (a.getD 0 0) 0) (s.pgWords v 1024)).finish src ((List.range 1024).map (fun k => R.LRN (a.getD 0 0) k)) []))
    ∧ (s.serves src 0x300 v → v.flags.testBit 2 = false → s.shadowTicks = true → a.getD 4 0 = 0 → let c := le a 2 2
      let ws := (List.range (4 * c)).map (fun i => le a (8 + 4 * i) 4)
      (∀ i, i < c → s.checkHome (ws.getD (4 * i) 0 / 2 ^ 28) = false) → exec (.cmdEvtWrite src) s
        = .next ((s.putWords (R.EVT (le a 0 2) 0) ws).finish src ((List.range c).map (fun i => R.EVT (le a 0 2 + i) 0)) []))
    ∧ (s.serves src 0x400 v → exec (.cmdVlvOn src) s = .next (State.vStart (s.setSvc src { v with waiting := true, since := s.now })
        (a.getD 0 0) (.holtid src) (a.getD 1 0) (500 * le a 4 4)))
    ∧ (s.serves src 0x401 v → exec (.cmdVlvOff src) s = .next ((s.vEndAll (bitList 32 (le a 0 4)) State.cancelEnd State.vOff).complete src statusOk 0 []))
    ∧ (∀ d : BitVec 16, s.serves src 0x500 v → let img := s.yardBytes v.pgOff (min v.pgSize 20736)
      let n := 96 + imgField img 0x1C 4
      (∀ m, m < 4 → s.awaiting m 0x500 = none) → v.pgSize ≠ 0 → imageField img = none → n ≤ v.pgSize → imgField img 7 1 ≤ s.fwVer / 65536 →
      s.sigOk (imgField img 6 1) (img.take (n - 64)) ((img.drop (n - 64)).take 64) = true → d.toNat &&& le a 0 2 = 0 →
      let u := overList (bitList 16 (le a 0 2)) State.engCall s
      ((∃ k, k < 16 ∧ (le a 0 2).testBit k = true ∧ (u.eng k).st ≠ .loading) →
        exec (.cmdUcodeLoad src d) s = .next (u.setSvc src { v with waiting := true, answer := img }))
      ∧ ((∀ k, k < 16 → (le a 0 2).testBit k = true → (u.eng k).st = .loading) →
        ∃ t w, exec (.cmdUcodeLoad src d) s = .next t ∧ (t.mb src).svc = some w ∧ w.waiting = true
        ∧ ∀ k, k < 16 → (le a 0 2).testBit k = true → (t.eng k).st = .loading ∧ t.b (F.SHD_ENG_IMAGE_VALID k) = true))
    ∧ (∀ d : BitVec 16, s.awaiting src 0x500 = some v → v.items = [] →
      exec (.cmdUcodeLoad src d) s = .next (if s.hurt src v then s.ucodeStop src v else s.ucodeWrite src d.toNat v v.answer))
    ∧ (s.serves src 0x600 v → exec (.cmdRunLoad src) s = .next ((overList (List.range (a.getD 2 0)) (fun s i =>
        s.rnProg (a.getD 0 0) (a.getD 1 0 + i) (BitVec.ofNat 32 (le a (4 + 2 * i) 2))) s).complete src statusOk 0 []))
    ∧ (s.serves src 0x701 v → s.inRing = true → (a.getD 1 0 < 0x80 ∨ s.b F.TTH_VER_FEAT_HELD = false) →
      exec (.cmdTthMsgSend src) s = .next (s.setSvc src { v with waiting := true, arg := 64 }))
    ∧ (s.serves src 0x900 v → (s.b F.PWR_PMB_CFG_EN = true →
        exec (.cmdPmbXfer src) s = .next (State.pmbQueue (s.setSvc src { v with waiting := true }) (.cmd src) false))
      ∧ (s.b F.PWR_PMB_CFG_EN = false → exec (.cmdPmbXfer src) s = .next (s.complete src statusBadState 0 []))))
  ∧ ∀ (src : Fin 5) (v : Svc) (s : State), let a := v.args
    (s.serves src 0xF01 v → exec (.frChCfg src) s = .next ((s.frChCfg a).complete src statusOk 0 []))
    ∧ (s.serves src 0xF02 v → exec (.frChStart src) s = .next ((s.frGroups a State.stlRestart).complete src statusOk 0 []))
    ∧ (s.serves src 0xF03 v → exec (.frChStop src) s = .next ((s.frGroups a (fun s k => s.stlRun k false)).complete src statusOk 0 []))
    ∧ (s.serves src 0xF05 v → exec (.frValve src) s = .next (State.vStart (s.setSvc src { v with waiting := true, since := s.now })
        (a.getD 0 0) (.holtid src) (a.getD 1 0) (5000 * le a 2 2)))
    ∧ (s.serves src 0xF06 v → ∃ t, exec (.frIrqMask src) s = .next t
      ∧ ∀ k, k < 96 → s.stlMirror k = false → t.rd (R.STL_IEN k) = if (ofBytes a).testBit k then 0x1F else 0)

/-- The interrupt controller: R362, R364 to R368, R370 and R371. -/
def Obligations.InterruptSourcesPendAndAreServed : Prop :=
  (∀ (g : Fin 512) (s : State), levelLine g = false → (g.val < 248 ∨ 256 ≤ g.val) → (s.src g).line = none → (s.src g).raw = false →
    ∃ t, exec (.irqSourceEvent g none) s = .next t ∧ (t.src g).line = some s.ctlNow
      ∧ (t.src g).edge = ((s.src g).edge || decide (s.sense g = 1) || decide (s.sense g = 3))
      ∧ (s.sense g ≠ 2 → t.pend g = true) ∧ ∀ h, h ≠ g.val → t.src h = s.src h)
  ∧ (∀ (g : Fin 512) (b : Bool) (s : State), levelLine g = true → s.lineLevel g = b →
    ∃ t, exec (.irqSourceEvent g (some b)) s = .next t ∧ (t.src g).raw = b ∧ ∀ h, h ≠ g.val → t.src h = s.src h)
  ∧ (∀ (r : Requester) (w : Fin 32) (v : Word) (s : State), s.writesReach r → (w.val < 16 ∨ s.isCheck (w.val - 16) = false) →
    let on := fun g => decide (g / 16 = w.val) && v.getLsbD (g % 16)
    (∃ t, exec (.irqPendSetWrite r w v) s = .next t ∧ ∀ g, t.src g = if on g then { s.src g with sw := true } else s.src g)
    ∧ (∃ t, exec (.irqPendClrWrite r w v) s = .next t ∧ ∀ g, if on g then (t.src g).edge = decide (s.justSet (latchKey g) ≠ 0)
        ∧ (t.src g).sw = false ∧ (s.sense g ≠ 0 → s.justSet (latchKey g) = 0 → t.pend g = false) ∧ (t.src g).masked = (s.src g).masked else t.src g = s.src g)
    ∧ (∃ t, exec (.irqMaskSetWrite r w v) s = .next t ∧ ∀ g, t.src g = if on g then { s.src g with masked := true } else s.src g)
    ∧ (∃ t, exec (.irqMaskClrWrite r w v) s = .next t ∧ ∀ g, t.src g = if on g then { s.src g with masked := false } else s.src g))
  ∧ (∀ (r : Requester) (w : Fin 32) (v : Word) (s : State), s.writesReach r → 16 ≤ w.val → s.isCheck (w.val - 16) = true →
    exec (.irqPendSetWrite r w v) s = .next s ∧ exec (.irqPendClrWrite r w v) s = .next s
    ∧ exec (.irqMaskSetWrite r w v) s = .next s ∧ exec (.irqMaskClrWrite r w v) s = .next s)
  ∧ (∀ (s : State), s.readsReach .core →
    (∀ g, s.coreSource = some g → ∃ t, exec (.irqCoreClaimRead .core) s = .next t ∧ (t.src g).svc = .core ∧ (t.src g).edge = false
      ∧ (t.src g).sw = false ∧ Sparse.get (fun _ => 0) t.lastRead (reqIdx .core) = packed [(g, 0), (1, 9)]
      ∧ (∀ h, h ≠ g → t.src h = s.src h) ∧ ∀ a, t.rd a = s.rd a)
    ∧ (s.coreSource = none → exec (.irqCoreClaimRead .core) s = .next (s.deliver .core 0)))
  ∧ (∀ (r : Requester) (s : State), r ≠ .core → s.readsReach r → ∃ t, exec (.irqCoreClaimRead r) s = .next t ∧ t.irq = s.irq)
  ∧ (∀ (r : Requester) (v : Word) (s : State), s.writesReach r → let g := getBits v 0 9
    ((s.src g).svc = .core → exec (.irqCoreEoiWrite r v) s = .next (s.setSrc g { s.src g with svc := .no }))
    ∧ ((s.src g).svc ≠ .core → exec (.irqCoreEoiWrite r v) s = .next s))
  ∧ (∀ (r : Requester) (l : Fin 32) (v : Word) (s : State), s.writesReach r →
    (s.hostSource l = none → exec (.irqHostEoiWrite r l v) s = .next s)
    ∧ (s.hostSource l ≠ none → s.msixFree l = true → ∃ t, exec (.irqHostEoiWrite r l v) s = .next t
      ∧ t.pcie.msgs = l.val :: s.pcie.msgs ∧ (t.rd R.MSIX_PBA).getLsbD l = false))
  ∧ (∀ (r : Requester) (g : Fin 512) (v : Word) (s : State), s.writesReach r →
    (g.val < 240 ∨ 244 ≤ g.val ∧ g.val < 256 → ∃ t, exec (.irqSrcCfgWrite r g v) s = .next t
      ∧ (t.rd (R.IRQ_SRC_CFG g)) &&& 0x1FFF = v &&& 0x1FFF ∧ t.sense g = s.sense g ∧ ∀ a, a ≠ R.IRQ_SRC_CFG g → t.rd a = s.rd a)
    ∧ ((240 ≤ g.val ∧ g.val < 244) ∨ 256 ≤ g.val → s.isCheck ((g.val - 256) / 16) = false ∨ g.val < 256 →
      ∃ t, exec (.irqSrcCfgWrite r g v) s = .next t ∧ (t.rd (R.IRQ_SRC_CFG g)) &&& 0x3F = v &&& 0x3F ∧ t.sense g = s.sense g ∧ t.route g = s.route g
        ∧ ∀ a, a ≠ R.IRQ_SRC_CFG g → t.rd a = s.rd a))
  ∧ ∀ (g : Fin 512) (t0 : Time) (s : State), (s.src g).undel = some t0 → s.undeliverable g = true → 1000 ≤ since s.ctlNow t0 →
    ∃ t, exec (.irqFallback g) s = .next t ∧ (t.src g).fell = true ∧ t.b (F.IRQ_SRC_CFG_FELL_BACK g) = true
      ∧ (t.rd R.IRQ_FALLBACK_CNT).toNat = min ((s.rd R.IRQ_FALLBACK_CNT).toNat % 2 ^ 24 + 1) 0xFFFFFF
end

