-- ==== Sys2Proof/Laws/Access.lean ====
section
/-! SUPPORT. What an access of a requester does: served, refused, held back, or not there (R315, R320, R330). -/

namespace Sys2Proof.Machine

open Sys2Proof

theorem State.writeBy_served (s : State) (x : Access) (f : State → State) (h : s.writesReach x.req) : s.writeBy x f = f s := by
  unfold State.writeBy State.issueWrite; rw [if_neg (by simp [h.1]), if_neg (by simp [h.2.1]), if_pos h.2.2]

theorem State.writeBy_refused (s : State) (x : Access) (f : State → State) (h : s.readsReach x.req) (hm : s.mayWrite x.req = false) :
    s.writeBy x f = s.refuseWrite x.req := by
  unfold State.writeBy State.issueWrite; rw [if_neg (by simp [h.1]), if_neg (by simp [h.2]), if_neg (by simp [hm])]

theorem State.writeBy_queued (s : State) (x : Access) (f : State → State) (h : s.linked x.req = true) (hh : s.heldBack x.req = true) :
    s.writeBy x f = s.enqueue x := by
  unfold State.writeBy; rw [if_neg (by simp [h]), if_pos hh]

theorem State.writeBy_absent (s : State) (x : Access) (f : State → State) (h : s.linked x.req = false) :
    s.writeBy x f = s.noAccess x.req := by
  unfold State.writeBy; rw [if_pos (by simp [h])]

theorem State.readBy_served (s : State) (x : Access) (f : State → State) (h : s.readsReach x.req) : s.readBy x f = f s := by
  unfold State.readBy; rw [if_neg (by simp [h.1]), if_neg (by simp [h.2])]

theorem State.readBy_queued (s : State) (x : Access) (f : State → State) (h : s.linked x.req = true) (hh : s.heldBack x.req = true) :
    s.readBy x f = s.enqueue x := by
  unfold State.readBy; rw [if_neg (by simp [h]), if_pos hh]

theorem State.readBy_absent (s : State) (x : Access) (f : State → State) (h : s.linked x.req = false) :
    s.readBy x f = s.noAccess x.req := by
  unfold State.readBy; rw [if_pos (by simp [h])]

end Sys2Proof.Machine
end

