-- ==== Sys2Proof/Laws/Bits.lean ====
section
/-! SUPPORT. The laws of bit fields: a field after it is written, and the other fields of the word. -/

namespace Sys2Proof.Machine

/-- A bit of a field. -/
theorem testBit_getBits (w : Word) (lo len i : Nat) :
    (getBits w lo len).testBit i = (decide (i < len) && w.getLsbD (lo + i)) := by
  simp [getBits, Nat.testBit_mod_two_pow, Nat.testBit_shiftRight, BitVec.getLsbD]

/-- A field is below 2 to its length. -/
theorem getBits_lt (w : Word) (lo len : Nat) : getBits w lo len < 2 ^ len := Nat.mod_lt _ (Nat.two_pow_pos len)

/-- A bit of a word after one field was written. -/
theorem getLsbD_setBits (w : Word) (lo len v i : Nat) :
    (setBits w lo len v).getLsbD i =
      if lo ≤ i ∧ i < lo + len ∧ i < 32 then v.testBit (i - lo) else w.getLsbD i := by
  by_cases h32 : i < 32
  · have hb : ∀ x : Nat, (BitVec.ofNat 32 x).getLsbD i = x.testBit i := fun x => by
      rw [BitVec.getLsbD_ofNat, decide_eq_true h32, Bool.true_and]
    have hm : (BitVec.ofNat 32 ((2 ^ len - 1) <<< lo)).getLsbD i = decide (lo ≤ i ∧ i < lo + len) := by
      rw [hb, Nat.testBit_shiftLeft, Nat.testBit_two_pow_sub_one, Bool.decide_and]
      by_cases h : lo ≤ i
      · have : (i - lo < len) = (i < lo + len) := by simp only [eq_iff_iff]; omega
        simp [h, this]
      · simp [h]
    have hv : (BitVec.ofNat 32 ((v % 2 ^ len) <<< lo)).getLsbD i
        = (decide (lo ≤ i ∧ i < lo + len) && v.testBit (i - lo)) := by
      rw [hb, Nat.testBit_shiftLeft, Nat.testBit_mod_two_pow, Bool.decide_and]
      by_cases h : lo ≤ i
      · have : (i - lo < len) = (i < lo + len) := by simp only [eq_iff_iff]; omega
        simp [h, this]
      · simp [h]
    unfold setBits maskOf
    simp only [BitVec.getLsbD_or, BitVec.getLsbD_and, BitVec.getLsbD_not, hm, hv, h32, decide_true, Bool.true_and]
    by_cases hc : lo ≤ i ∧ i < lo + len
    · simp [hc]
    · rw [if_neg (fun h => hc ⟨h.1, h.2.1⟩), decide_eq_false hc]
      simp
  · rw [if_neg (fun h => h32 h.2.2)]
    rw [BitVec.getLsbD_of_ge _ _ (Nat.le_of_not_lt h32), BitVec.getLsbD_of_ge _ _ (Nat.le_of_not_lt h32)]

/-- A field that was just written holds the value, truncated to its width (R7). -/
theorem getBits_setBits_same (w : Word) {lo len : Nat} (v : Nat) (h : lo + len ≤ 32) :
    getBits (setBits w lo len v) lo len = v % 2 ^ len := by
  apply Nat.eq_of_testBit_eq
  intro i
  rw [testBit_getBits, getLsbD_setBits, Nat.testBit_mod_two_pow]
  by_cases hi : i < len
  · have : lo ≤ lo + i ∧ lo + i < lo + len ∧ lo + i < 32 := by omega
    simp [this]
  · simp [hi]

/-- A field beside the one written keeps its value. -/
theorem getBits_setBits_other (w : Word) {lo len lo' len' : Nat} (v : Nat) (h : lo + len ≤ lo' ∨ lo' + len' ≤ lo) :
    getBits (setBits w lo len v) lo' len' = getBits w lo' len' := by
  apply Nat.eq_of_testBit_eq
  intro i
  rw [testBit_getBits, testBit_getBits, getLsbD_setBits]
  by_cases hi : i < len'
  · have : ¬ (lo ≤ lo' + i ∧ lo' + i < lo + len ∧ lo' + i < 32) := by omega
    simp [this]
  · simp [hi]

end Sys2Proof.Machine
end

