-- ==== Sys2Proof/Laws/Sparse.lean ====
section
/-! SUPPORT. The laws of sparse tables: a read after a write, and the canonical form that every write keeps. -/

namespace Sys2Proof.Machine.Sparse

variable {α : Type}

@[simp] theorem get_nil (d : Nat → α) (k : Nat) : get d [] k = d k := rfl

theorem get_cons (d : Nat → α) (e : Nat × α) (m : List (Nat × α)) (k : Nat) :
    get d (e :: m) k = if k = e.1 then e.2 else get d m k := rfl

/-- Reading the key just listed. -/
theorem get_put_same (d : Nat → α) (m : List (Nat × α)) (k : Nat) (v : α) : get d (put k v m) k = v := by
  induction m with
  | nil => simp [put, get_cons]
  | cons e m ih =>
    unfold put
    split
    · simp [get_cons]
    · split
      · simp [get_cons]
      · rename_i h
        simp [get_cons, h, ih]

/-- Reading another key. -/
theorem get_put_other (d : Nat → α) (m : List (Nat × α)) {j k : Nat} (v : α) (h : j ≠ k) :
    get d (put k v m) j = get d m j := by
  induction m with
  | nil => simp [put, get_cons, h]
  | cons e m ih =>
    unfold put
    split
    · rw [get_cons]
      simp [h]
    · split
      · rename_i he
        simp [get_cons, h, ← he]
      · simp [get_cons, ih]

/-- Reading the key just taken off. -/
theorem get_drop_same (d : Nat → α) (m : List (Nat × α)) (k : Nat) : get d (drop k m) k = d k := by
  induction m with
  | nil => rfl
  | cons e m ih =>
    unfold drop
    split
    · exact ih
    · rename_i h
      simp [get_cons, h, ih]

/-- Reading another key than the one taken off. -/
theorem get_drop_other (d : Nat → α) (m : List (Nat × α)) {j k : Nat} (h : j ≠ k) : get d (drop k m) j = get d m j := by
  induction m with
  | nil => rfl
  | cons e m ih =>
    unfold drop
    split
    · rename_i he
      simp [get_cons, ih, ← he, h]
    · simp [get_cons, ih]

/-- A read after a write to the same key gives the value written. -/
@[simp] theorem get_set_same [DecidableEq α] (d : Nat → α) (m : List (Nat × α)) (k : Nat) (v : α) :
    get d (set d m k v) k = v := by
  unfold set
  split
  · rename_i h
    rw [get_drop_same, h]
  · exact get_put_same d m k v

/-- A write leaves every other key alone. -/
theorem get_set_other [DecidableEq α] (d : Nat → α) (m : List (Nat × α)) {j k : Nat} (v : α) (h : j ≠ k) :
    get d (set d m k v) j = get d m j := by
  unfold set
  split
  · exact get_drop_other d m h
  · exact get_put_other d m v h

/-- A read after a write, in one equation. -/
theorem get_set [DecidableEq α] (d : Nat → α) (m : List (Nat × α)) (j k : Nat) (v : α) :
    get d (set d m k v) j = if j = k then v else get d m j := by
  by_cases h : j = k
  · simp [h]
  · simp [h, get_set_other d m v h]

/-! ### The canonical form -/

/-- Rising keys, as a statement about every later entry. -/
theorem rising_cons (e : Nat × α) (m : List (Nat × α)) :
    rising (e :: m) = true ↔ (∀ f ∈ m, e.1 < f.1) ∧ rising m = true := by
  induction m generalizing e with
  | nil => simp [rising]
  | cons f m ih =>
    rw [rising, Bool.and_eq_true, decide_eq_true_eq]
    constructor
    · intro h
      refine ⟨fun g hg => ?_, h.2⟩
      rcases List.mem_cons.mp hg with rfl | hm
      · exact h.1
      · exact Nat.lt_trans h.1 (((ih f).mp h.2).1 g hm)
    · intro h
      exact ⟨h.1 f (List.mem_cons_self ..), h.2⟩

/-- Every entry of a table after listing a value was there before or is the listed one. -/
theorem mem_put {k : Nat} {v : α} {m : List (Nat × α)} {e : Nat × α} (h : e ∈ put k v m) : e = (k, v) ∨ e ∈ m := by
  induction m with
  | nil => exact .inl (by simpa [put] using h)
  | cons f m ih =>
    unfold put at h
    split at h
    · rcases List.mem_cons.mp h with h | h
      · exact .inl h
      · exact .inr h
    · split at h
      · rcases List.mem_cons.mp h with h | h
        · exact .inl h
        · exact .inr (List.mem_cons_of_mem _ h)
      · rcases List.mem_cons.mp h with h | h
        · exact .inr (h ▸ List.mem_cons_self ..)
        · exact (ih h).imp id (List.mem_cons_of_mem _)

/-- Listing a value keeps the keys rising. -/
theorem rising_put (k : Nat) (v : α) {m : List (Nat × α)} (h : rising m = true) : rising (put k v m) = true := by
  induction m with
  | nil => rfl
  | cons e m ih =>
    have he := (rising_cons e m).mp h
    unfold put
    split
    · rename_i hk
      refine (rising_cons _ _).mpr ⟨fun f hf => ?_, h⟩
      rcases List.mem_cons.mp hf with rfl | hm
      · exact hk
      · exact Nat.lt_trans hk (he.1 f hm)
    · split
      · rename_i hk
        exact (rising_cons _ _).mpr ⟨fun f hf => hk ▸ he.1 f hf, he.2⟩
      · rename_i h1 h2
        refine (rising_cons _ _).mpr ⟨fun f hf => ?_, ih he.2⟩
        rcases mem_put hf with rfl | hm
        · exact Nat.lt_of_le_of_ne (Nat.le_of_not_lt h1) (fun x => h2 x.symm)
        · exact he.1 f hm

/-- Every entry of a table after taking a key off was there before. -/
theorem mem_drop {k : Nat} {m : List (Nat × α)} {e : Nat × α} (h : e ∈ drop k m) : e ∈ m := by
  induction m with
  | nil => exact h
  | cons f m ih =>
    unfold drop at h
    split at h
    · exact List.mem_cons_of_mem _ (ih h)
    · rcases List.mem_cons.mp h with h | h
      · exact h ▸ List.mem_cons_self ..
      · exact List.mem_cons_of_mem _ (ih h)

/-- Taking a key off keeps the keys rising. -/
theorem rising_drop (k : Nat) {m : List (Nat × α)} (h : rising m = true) : rising (drop k m) = true := by
  induction m with
  | nil => rfl
  | cons e m ih =>
    have he := (rising_cons e m).mp h
    unfold drop
    split
    · exact ih he.2
    · exact (rising_cons _ _).mpr ⟨fun f hf => he.1 f (mem_drop hf), ih he.2⟩

@[simp] theorem wf_nil [DecidableEq α] (d : Nat → α) : wf d [] = true := rfl

/-- Every write keeps the canonical form. -/
theorem wf_set [DecidableEq α] {d : Nat → α} {m : List (Nat × α)} (k : Nat) (v : α) (h : wf d m = true) :
    wf d (set d m k v) = true := by
  unfold wf at h ⊢
  rw [Bool.and_eq_true, List.all_eq_true] at h ⊢
  unfold set
  split
  · exact ⟨rising_drop k h.1, fun e he => h.2 e (mem_drop he)⟩
  · rename_i hv
    refine ⟨rising_put k v h.1, fun e he => ?_⟩
    rcases mem_put he with rfl | hm
    · exact decide_eq_true hv
    · exact h.2 e hm

/-- Leaving entries out keeps the keys rising. -/
theorem rising_filter (f : Nat × α → Bool) {m : List (Nat × α)} (h : rising m = true) : rising (m.filter f) = true := by
  induction m with
  | nil => rfl
  | cons e m ih =>
    have he := (rising_cons e m).mp h
    rw [List.filter_cons]
    split
    · exact (rising_cons _ _).mpr ⟨fun g hg => he.1 g (List.mem_filter.mp hg).1, ih he.2⟩
    · exact ih he.2

/-- Leaving entries out keeps the canonical form. -/
theorem wf_filter [DecidableEq α] {d : Nat → α} {m : List (Nat × α)} (f : Nat × α → Bool) (h : wf d m = true) :
    wf d (m.filter f) = true := by
  unfold wf at h ⊢
  rw [Bool.and_eq_true, List.all_eq_true] at h ⊢
  exact ⟨rising_filter f h.1, fun e he => h.2 e (List.mem_filter.mp he).1⟩

/-- Changing every value, none into what an unlisted key reads as, keeps the canonical form. -/
theorem wf_map [DecidableEq α] {d : Nat → α} {m : List (Nat × α)} (f : α → α) (hf : ∀ k v, f v = d k → v = d k)
    (h : wf d m = true) : wf d (m.map (fun e => (e.1, f e.2))) = true := by
  unfold wf at h ⊢
  rw [Bool.and_eq_true, List.all_eq_true] at h ⊢
  refine ⟨?_, fun e he => ?_⟩
  · have hr := h.1
    clear h
    induction m with
    | nil => rfl
    | cons e m ih =>
      have hc := (rising_cons e m).mp hr
      refine (rising_cons _ _).mpr ⟨fun g hg => ?_, ih hc.2⟩
      obtain ⟨g', hg', rfl⟩ := List.mem_map.mp hg
      exact hc.1 g' hg'
  · obtain ⟨e', he', rfl⟩ := List.mem_map.mp he
    have hv := of_decide_eq_true (h.2 e' he')
    exact decide_eq_true (fun hx => hv (hf _ _ hx))

/-- Keys of a table in canonical form that rise above the first are not the first. -/
theorem get_below {d : Nat → α} {m : List (Nat × α)} {k : Nat} (h : ∀ e ∈ m, k < e.1) : get d m k = d k := by
  induction m with
  | nil => rfl
  | cons e m ih =>
    have hk := h e (List.mem_cons_self ..)
    rw [get_cons, if_neg (Nat.ne_of_lt hk)]
    exact ih (fun f hf => h f (List.mem_cons_of_mem _ hf))

/-- Equal tables are equal data: two tables in canonical form that read alike at every key are the same list. -/
theorem eq_of_get [DecidableEq α] {d : Nat → α} {m n : List (Nat × α)} (hm : wf d m = true) (hn : wf d n = true)
    (h : ∀ k, get d m k = get d n k) : m = n := by
  unfold wf at hm hn
  rw [Bool.and_eq_true, List.all_eq_true] at hm hn
  induction m generalizing n with
  | nil =>
    cases n with
    | nil => rfl
    | cons f n =>
      have hv := of_decide_eq_true (hn.2 f (List.mem_cons_self ..))
      exact absurd (by simpa [get_cons] using (h f.1).symm) hv
  | cons e m ih =>
    have he := (rising_cons e m).mp hm.1
    have hev := of_decide_eq_true (hm.2 e (List.mem_cons_self ..))
    cases n with
    | nil => exact absurd (by simpa [get_cons] using h e.1) hev
    | cons f n =>
      have hf := (rising_cons f n).mp hn.1
      have hfv := of_decide_eq_true (hn.2 f (List.mem_cons_self ..))
      have key : e.1 = f.1 := by
        rcases Nat.lt_trichotomy e.1 f.1 with hlt | heq | hgt
        · have hb : get d (f :: n) e.1 = d e.1 := get_below (fun g hg => by
            rcases List.mem_cons.mp hg with rfl | hg
            · exact hlt
            · exact Nat.lt_trans hlt (hf.1 g hg))
          have := h e.1
          rw [hb] at this
          exact absurd (by simpa [get_cons] using this) hev
        · exact heq
        · have hb : get d (e :: m) f.1 = d f.1 := get_below (fun g hg => by
            rcases List.mem_cons.mp hg with rfl | hg
            · exact hgt
            · exact Nat.lt_trans hgt (he.1 g hg))
          have := h f.1
          rw [hb] at this
          exact absurd (by simpa [get_cons] using this.symm) hfv
      have val : e.2 = f.2 := by
        have := h e.1
        simpa [get_cons, key] using this
      have head : e = f := Prod.ext key val
      subst head
      congr 1
      refine ih ⟨he.2, fun g hg => hm.2 g (List.mem_cons_of_mem _ hg)⟩
        ⟨hf.2, fun g hg => hn.2 g (List.mem_cons_of_mem _ hg)⟩ (fun k => ?_)
      by_cases hk : k = e.1
      · subst hk
        rw [get_below he.1, get_below hf.1]
      · simpa [get_cons, hk] using h k

end Sys2Proof.Machine.Sparse
end

