-- ==== Sys2Proof/Laws/State.lean ====
section
/-! SUPPORT. The laws of the named updates: what each reads back, and that it leaves everything else alone. -/

namespace Sys2Proof.Machine

open Sys2Proof


/-! ### A word of the registers -/

/-- A register word after a write of one. -/
theorem State.rd_wr (s : State) (a b : Nat) (w : Word) : (s.wr a w).rd b = if b = a then w else s.rd b :=
  Sparse.get_set regReset s.regs b a w

@[simp] theorem State.rd_wr_same (s : State) (a : Nat) (w : Word) : (s.wr a w).rd a = w := by simp [State.rd_wr]

theorem State.rd_wr_other (s : State) {a b : Nat} (w : Word) (h : b ≠ a) : (s.wr a w).rd b = s.rd b := by
  simp [State.rd_wr, h]

/-- A field just set holds the value, truncated to its width. -/
theorem State.f_setF_same (s : State) {x : Fld} (v : Nat) (h : x.lo + x.len ≤ 32) : (s.setF x v).f x = v % 2 ^ x.len := by
  simp [State.f, State.setF, getBits_setBits_same _ _ h]

/-- A field of another word, or beside the one set, keeps its value. -/
theorem State.f_setF_other (s : State) {x y : Fld} (v : Nat)
    (h : y.addr ≠ x.addr ∨ x.lo + x.len ≤ y.lo ∨ y.lo + y.len ≤ x.lo) : (s.setF x v).f y = s.f y := by
  unfold State.f State.setF
  by_cases ha : y.addr = x.addr
  · rw [ha, State.rd_wr_same]
    exact getBits_setBits_other _ _ (h.resolve_left (fun n => n ha))
  · rw [State.rd_wr_other _ _ ha]

/-- A word other than the field's keeps its value. -/
theorem State.rd_setF_other (s : State) {x : Fld} {a : Nat} (v : Nat) (h : a ≠ x.addr) : (s.setF x v).rd a = s.rd a :=
  State.rd_wr_other s _ h


/-! ### Frame of wr -/

@[simp] theorem State.tr_wr_frame (s : State) (a : Nat) (w : Word) (j : Nat) : (s.wr a w).tr j = s.tr j := rfl
@[simp] theorem State.sn_wr_frame (s : State) (a : Nat) (w : Word) (j : Nat) : (s.wr a w).sn j = s.sn j := rfl
@[simp] theorem State.te_wr_frame (s : State) (a : Nat) (w : Word) (j : Nat) : (s.wr a w).te j = s.te j := rfl
@[simp] theorem State.es_wr_frame (s : State) (a : Nat) (w : Word) (j : Nat) : (s.wr a w).es j = s.es j := rfl
@[simp] theorem State.sl_wr_frame (s : State) (a : Nat) (w : Word) (j : Nat) : (s.wr a w).sl j = s.sl j := rfl
@[simp] theorem State.pin_wr_frame (s : State) (a : Nat) (w : Word) (j : Nat) : (s.wr a w).pin j = s.pin j := rfl
@[simp] theorem State.stl_wr_frame (s : State) (a : Nat) (w : Word) (j : Nat) : (s.wr a w).stl j = s.stl j := rfl
@[simp] theorem State.src_wr_frame (s : State) (a : Nat) (w : Word) (j : Nat) : (s.wr a w).src j = s.src j := rfl
@[simp] theorem State.part_wr_frame (s : State) (a : Nat) (w : Word) (j : Nat) : (s.wr a w).part j = s.part j := rfl
@[simp] theorem State.tq_wr_frame (s : State) (a : Nat) (w : Word) (j : Nat) : (s.wr a w).tq j = s.tq j := rfl
@[simp] theorem State.page_wr_frame (s : State) (a : Nat) (w : Word) (j : Nat) : (s.wr a w).page j = s.page j := rfl
@[simp] theorem State.eng_wr_frame (s : State) (a : Nat) (w : Word) (j : Nat) : (s.wr a w).eng j = s.eng j := rfl
@[simp] theorem State.rn_wr_frame (s : State) (a : Nat) (w : Word) (j : Nat) : (s.wr a w).rn j = s.rn j := rfl
@[simp] theorem State.vlv_wr_frame (s : State) (a : Nat) (w : Word) (j : Nat) : (s.wr a w).vlv j = s.vlv j := rfl
@[simp] theorem State.bk_wr_frame (s : State) (a : Nat) (w : Word) (j : Nat) : (s.wr a w).bk j = s.bk j := rfl
@[simp] theorem State.port_wr_frame (s : State) (a : Nat) (w : Word) (j : Nat) : (s.wr a w).port j = s.port j := rfl
@[simp] theorem State.mb_wr_frame (s : State) (a : Nat) (w : Word) (j : Nat) : (s.wr a w).mb j = s.mb j := rfl
@[simp] theorem State.hold_wr_frame (s : State) (a : Nat) (w : Word) (j : Nat) : (s.wr a w).hold j = s.hold j := rfl
@[simp] theorem State.ch_wr_frame (s : State) (a : Nat) (w : Word) (j : Nat) : (s.wr a w).ch j = s.ch j := rfl
@[simp] theorem State.snaps_wr_frame (s : State) (a : Nat) (w : Word) : (s.wr a w).snaps = s.snaps := rfl
@[simp] theorem State.lastRead_wr_frame (s : State) (a : Nat) (w : Word) : (s.wr a w).lastRead = s.lastRead := rfl
@[simp] theorem State.setNow_wr_frame (s : State) (a : Nat) (w : Word) : (s.wr a w).setNow = s.setNow := rfl
@[simp] theorem State.stepped_wr_frame (s : State) (a : Nat) (w : Word) : (s.wr a w).stepped = s.stepped := rfl
@[simp] theorem State.shadow_wr_frame (s : State) (a : Nat) (w : Word) : (s.wr a w).shadow = s.shadow := rfl
@[simp] theorem State.ready_wr_frame (s : State) (a : Nat) (w : Word) : (s.wr a w).ready = s.ready := rfl
@[simp] theorem State.staged_wr_frame (s : State) (a : Nat) (w : Word) : (s.wr a w).staged = s.staged := rfl
@[simp] theorem State.stagedItems_wr_frame (s : State) (a : Nat) (w : Word) : (s.wr a w).stagedItems = s.stagedItems := rfl
@[simp] theorem State.touched_wr_frame (s : State) (a : Nat) (w : Word) : (s.wr a w).touched = s.touched := rfl
@[simp] theorem State.badWords_wr_frame (s : State) (a : Nat) (w : Word) : (s.wr a w).badWords = s.badWords := rfl
@[simp] theorem State.tb_wr_frame (s : State) (a : Nat) (w : Word) : (s.wr a w).tb = s.tb := rfl
@[simp] theorem State.points_wr_frame (s : State) (a : Nat) (w : Word) : (s.wr a w).points = s.points := rfl
@[simp] theorem State.deferred_wr_frame (s : State) (a : Nat) (w : Word) : (s.wr a w).deferred = s.deferred := rfl
@[simp] theorem State.placed_wr_frame (s : State) (a : Nat) (w : Word) : (s.wr a w).placed = s.placed := rfl
@[simp] theorem State.flight_wr_frame (s : State) (a : Nat) (w : Word) : (s.wr a w).flight = s.flight := rfl
@[simp] theorem State.pool_wr_frame (s : State) (a : Nat) (w : Word) : (s.wr a w).pool = s.pool := rfl
@[simp] theorem State.trgWaits_wr_frame (s : State) (a : Nat) (w : Word) : (s.wr a w).trgWaits = s.trgWaits := rfl
@[simp] theorem State.trkUndo_wr_frame (s : State) (a : Nat) (w : Word) : (s.wr a w).trkUndo = s.trkUndo := rfl
@[simp] theorem State.snap_wr_frame (s : State) (a : Nat) (w : Word) : (s.wr a w).snap = s.snap := rfl
@[simp] theorem State.bst_wr_frame (s : State) (a : Nat) (w : Word) : (s.wr a w).bst = s.bst := rfl
@[simp] theorem State.pwr_wr_frame (s : State) (a : Nat) (w : Word) : (s.wr a w).pwr = s.pwr := rfl
@[simp] theorem State.sys_wr_frame (s : State) (a : Nat) (w : Word) : (s.wr a w).sys = s.sys := rfl
@[simp] theorem State.tth_wr_frame (s : State) (a : Nat) (w : Word) : (s.wr a w).tth = s.tth := rfl
@[simp] theorem State.dma_wr_frame (s : State) (a : Nat) (w : Word) : (s.wr a w).dma = s.dma := rfl
@[simp] theorem State.hostOut_wr_frame (s : State) (a : Nat) (w : Word) : (s.wr a w).hostOut = s.hostOut := rfl
@[simp] theorem State.wakeLow_wr_frame (s : State) (a : Nat) (w : Word) : (s.wr a w).wakeLow = s.wakeLow := rfl
@[simp] theorem State.fr_wr_frame (s : State) (a : Nat) (w : Word) : (s.wr a w).fr = s.fr := rfl
@[simp] theorem State.pcie_wr_frame (s : State) (a : Nat) (w : Word) : (s.wr a w).pcie = s.pcie := rfl
@[simp] theorem State.spi_wr_frame (s : State) (a : Nat) (w : Word) : (s.wr a w).spi = s.spi := rfl
@[simp] theorem State.logQ_wr_frame (s : State) (a : Nat) (w : Word) : (s.wr a w).logQ = s.logQ := rfl
@[simp] theorem State.logLost_wr_frame (s : State) (a : Nat) (w : Word) : (s.wr a w).logLost = s.logLost := rfl
@[simp] theorem State.logHold_wr_frame (s : State) (a : Nat) (w : Word) : (s.wr a w).logHold = s.logHold := rfl
@[simp] theorem State.logAt_wr_frame (s : State) (a : Nat) (w : Word) : (s.wr a w).logAt = s.logAt := rfl
@[simp] theorem State.logTell_wr_frame (s : State) (a : Nat) (w : Word) : (s.wr a w).logTell = s.logTell := rfl
@[simp] theorem State.logW_wr_frame (s : State) (a : Nat) (w : Word) : (s.wr a w).logW = s.logW := rfl
@[simp] theorem State.once_wr_frame (s : State) (a : Nat) (w : Word) : (s.wr a w).once = s.once := rfl
@[simp] theorem State.free_wr_frame (s : State) (a : Nat) (w : Word) : (s.wr a w).free = s.free := rfl
@[simp] theorem State.pending_wr_frame (s : State) (a : Nat) (w : Word) : (s.wr a w).pending = s.pending := rfl
@[simp] theorem State.now_wr_frame (s : State) (a : Nat) (w : Word) : (s.wr a w).now = s.now := rfl

/-! ### Frame of setTr -/

/-- What the table reads after the update. -/
theorem State.tr_setTr (s : State) (k : Nat) (x : Tracker) (j : Nat) : (s.setTr k x).tr j = if j = k then x else s.tr j :=
  Sparse.get_set _ _ _ _ _

@[simp] theorem State.tr_setTr_same (s : State) (k : Nat) (x : Tracker) : (s.setTr k x).tr k = x := Sparse.get_set_same _ _ _ _

@[simp] theorem State.regs_setTr_frame (s : State) (k : Nat) (x : Tracker) : (s.setTr k x).regs = s.regs := rfl
@[simp] theorem State.rd_setTr_frame (s : State) (k : Nat) (x : Tracker) (b : Nat) : (s.setTr k x).rd b = s.rd b := rfl
@[simp] theorem State.f_setTr_frame (s : State) (k : Nat) (x : Tracker) (y : Fld) : (s.setTr k x).f y = s.f y := rfl
@[simp] theorem State.b_setTr_frame (s : State) (k : Nat) (x : Tracker) (y : Fld) : (s.setTr k x).b y = s.b y := rfl
@[simp] theorem State.sn_setTr_frame (s : State) (k : Nat) (x : Tracker) (j : Nat) : (s.setTr k x).sn j = s.sn j := rfl
@[simp] theorem State.te_setTr_frame (s : State) (k : Nat) (x : Tracker) (j : Nat) : (s.setTr k x).te j = s.te j := rfl
@[simp] theorem State.es_setTr_frame (s : State) (k : Nat) (x : Tracker) (j : Nat) : (s.setTr k x).es j = s.es j := rfl
@[simp] theorem State.sl_setTr_frame (s : State) (k : Nat) (x : Tracker) (j : Nat) : (s.setTr k x).sl j = s.sl j := rfl
@[simp] theorem State.pin_setTr_frame (s : State) (k : Nat) (x : Tracker) (j : Nat) : (s.setTr k x).pin j = s.pin j := rfl
@[simp] theorem State.stl_setTr_frame (s : State) (k : Nat) (x : Tracker) (j : Nat) : (s.setTr k x).stl j = s.stl j := rfl
@[simp] theorem State.src_setTr_frame (s : State) (k : Nat) (x : Tracker) (j : Nat) : (s.setTr k x).src j = s.src j := rfl
@[simp] theorem State.part_setTr_frame (s : State) (k : Nat) (x : Tracker) (j : Nat) : (s.setTr k x).part j = s.part j := rfl
@[simp] theorem State.tq_setTr_frame (s : State) (k : Nat) (x : Tracker) (j : Nat) : (s.setTr k x).tq j = s.tq j := rfl
@[simp] theorem State.page_setTr_frame (s : State) (k : Nat) (x : Tracker) (j : Nat) : (s.setTr k x).page j = s.page j := rfl
@[simp] theorem State.eng_setTr_frame (s : State) (k : Nat) (x : Tracker) (j : Nat) : (s.setTr k x).eng j = s.eng j := rfl
@[simp] theorem State.rn_setTr_frame (s : State) (k : Nat) (x : Tracker) (j : Nat) : (s.setTr k x).rn j = s.rn j := rfl
@[simp] theorem State.vlv_setTr_frame (s : State) (k : Nat) (x : Tracker) (j : Nat) : (s.setTr k x).vlv j = s.vlv j := rfl
@[simp] theorem State.bk_setTr_frame (s : State) (k : Nat) (x : Tracker) (j : Nat) : (s.setTr k x).bk j = s.bk j := rfl
@[simp] theorem State.port_setTr_frame (s : State) (k : Nat) (x : Tracker) (j : Nat) : (s.setTr k x).port j = s.port j := rfl
@[simp] theorem State.mb_setTr_frame (s : State) (k : Nat) (x : Tracker) (j : Nat) : (s.setTr k x).mb j = s.mb j := rfl
@[simp] theorem State.hold_setTr_frame (s : State) (k : Nat) (x : Tracker) (j : Nat) : (s.setTr k x).hold j = s.hold j := rfl
@[simp] theorem State.ch_setTr_frame (s : State) (k : Nat) (x : Tracker) (j : Nat) : (s.setTr k x).ch j = s.ch j := rfl
@[simp] theorem State.snaps_setTr_frame (s : State) (k : Nat) (x : Tracker) : (s.setTr k x).snaps = s.snaps := rfl
@[simp] theorem State.lastRead_setTr_frame (s : State) (k : Nat) (x : Tracker) : (s.setTr k x).lastRead = s.lastRead := rfl
@[simp] theorem State.setNow_setTr_frame (s : State) (k : Nat) (x : Tracker) : (s.setTr k x).setNow = s.setNow := rfl
@[simp] theorem State.stepped_setTr_frame (s : State) (k : Nat) (x : Tracker) : (s.setTr k x).stepped = s.stepped := rfl
@[simp] theorem State.shadow_setTr_frame (s : State) (k : Nat) (x : Tracker) : (s.setTr k x).shadow = s.shadow := rfl
@[simp] theorem State.ready_setTr_frame (s : State) (k : Nat) (x : Tracker) : (s.setTr k x).ready = s.ready := rfl
@[simp] theorem State.staged_setTr_frame (s : State) (k : Nat) (x : Tracker) : (s.setTr k x).staged = s.staged := rfl
@[simp] theorem State.stagedItems_setTr_frame (s : State) (k : Nat) (x : Tracker) : (s.setTr k x).stagedItems = s.stagedItems := rfl
@[simp] theorem State.touched_setTr_frame (s : State) (k : Nat) (x : Tracker) : (s.setTr k x).touched = s.touched := rfl
@[simp] theorem State.badWords_setTr_frame (s : State) (k : Nat) (x : Tracker) : (s.setTr k x).badWords = s.badWords := rfl
@[simp] theorem State.tb_setTr_frame (s : State) (k : Nat) (x : Tracker) : (s.setTr k x).tb = s.tb := rfl
@[simp] theorem State.points_setTr_frame (s : State) (k : Nat) (x : Tracker) : (s.setTr k x).points = s.points := rfl
@[simp] theorem State.deferred_setTr_frame (s : State) (k : Nat) (x : Tracker) : (s.setTr k x).deferred = s.deferred := rfl
@[simp] theorem State.placed_setTr_frame (s : State) (k : Nat) (x : Tracker) : (s.setTr k x).placed = s.placed := rfl
@[simp] theorem State.flight_setTr_frame (s : State) (k : Nat) (x : Tracker) : (s.setTr k x).flight = s.flight := rfl
@[simp] theorem State.pool_setTr_frame (s : State) (k : Nat) (x : Tracker) : (s.setTr k x).pool = s.pool := rfl
@[simp] theorem State.trgWaits_setTr_frame (s : State) (k : Nat) (x : Tracker) : (s.setTr k x).trgWaits = s.trgWaits := rfl
@[simp] theorem State.trkUndo_setTr_frame (s : State) (k : Nat) (x : Tracker) : (s.setTr k x).trkUndo = s.trkUndo := rfl
@[simp] theorem State.snap_setTr_frame (s : State) (k : Nat) (x : Tracker) : (s.setTr k x).snap = s.snap := rfl
@[simp] theorem State.bst_setTr_frame (s : State) (k : Nat) (x : Tracker) : (s.setTr k x).bst = s.bst := rfl
@[simp] theorem State.pwr_setTr_frame (s : State) (k : Nat) (x : Tracker) : (s.setTr k x).pwr = s.pwr := rfl
@[simp] theorem State.sys_setTr_frame (s : State) (k : Nat) (x : Tracker) : (s.setTr k x).sys = s.sys := rfl
@[simp] theorem State.tth_setTr_frame (s : State) (k : Nat) (x : Tracker) : (s.setTr k x).tth = s.tth := rfl
@[simp] theorem State.dma_setTr_frame (s : State) (k : Nat) (x : Tracker) : (s.setTr k x).dma = s.dma := rfl
@[simp] theorem State.hostOut_setTr_frame (s : State) (k : Nat) (x : Tracker) : (s.setTr k x).hostOut = s.hostOut := rfl
@[simp] theorem State.wakeLow_setTr_frame (s : State) (k : Nat) (x : Tracker) : (s.setTr k x).wakeLow = s.wakeLow := rfl
@[simp] theorem State.fr_setTr_frame (s : State) (k : Nat) (x : Tracker) : (s.setTr k x).fr = s.fr := rfl
@[simp] theorem State.pcie_setTr_frame (s : State) (k : Nat) (x : Tracker) : (s.setTr k x).pcie = s.pcie := rfl
@[simp] theorem State.spi_setTr_frame (s : State) (k : Nat) (x : Tracker) : (s.setTr k x).spi = s.spi := rfl
@[simp] theorem State.logQ_setTr_frame (s : State) (k : Nat) (x : Tracker) : (s.setTr k x).logQ = s.logQ := rfl
@[simp] theorem State.logLost_setTr_frame (s : State) (k : Nat) (x : Tracker) : (s.setTr k x).logLost = s.logLost := rfl
@[simp] theorem State.logHold_setTr_frame (s : State) (k : Nat) (x : Tracker) : (s.setTr k x).logHold = s.logHold := rfl
@[simp] theorem State.logAt_setTr_frame (s : State) (k : Nat) (x : Tracker) : (s.setTr k x).logAt = s.logAt := rfl
@[simp] theorem State.logTell_setTr_frame (s : State) (k : Nat) (x : Tracker) : (s.setTr k x).logTell = s.logTell := rfl
@[simp] theorem State.logW_setTr_frame (s : State) (k : Nat) (x : Tracker) : (s.setTr k x).logW = s.logW := rfl
@[simp] theorem State.once_setTr_frame (s : State) (k : Nat) (x : Tracker) : (s.setTr k x).once = s.once := rfl
@[simp] theorem State.free_setTr_frame (s : State) (k : Nat) (x : Tracker) : (s.setTr k x).free = s.free := rfl
@[simp] theorem State.pending_setTr_frame (s : State) (k : Nat) (x : Tracker) : (s.setTr k x).pending = s.pending := rfl
@[simp] theorem State.now_setTr_frame (s : State) (k : Nat) (x : Tracker) : (s.setTr k x).now = s.now := rfl

/-! ### Frame of setSn -/

/-- What the table reads after the update. -/
theorem State.sn_setSn (s : State) (k : Nat) (x : Sensor) (j : Nat) : (s.setSn k x).sn j = if j = k then x else s.sn j :=
  Sparse.get_set _ _ _ _ _

@[simp] theorem State.sn_setSn_same (s : State) (k : Nat) (x : Sensor) : (s.setSn k x).sn k = x := Sparse.get_set_same _ _ _ _

@[simp] theorem State.regs_setSn_frame (s : State) (k : Nat) (x : Sensor) : (s.setSn k x).regs = s.regs := rfl
@[simp] theorem State.rd_setSn_frame (s : State) (k : Nat) (x : Sensor) (b : Nat) : (s.setSn k x).rd b = s.rd b := rfl
@[simp] theorem State.f_setSn_frame (s : State) (k : Nat) (x : Sensor) (y : Fld) : (s.setSn k x).f y = s.f y := rfl
@[simp] theorem State.b_setSn_frame (s : State) (k : Nat) (x : Sensor) (y : Fld) : (s.setSn k x).b y = s.b y := rfl
@[simp] theorem State.tr_setSn_frame (s : State) (k : Nat) (x : Sensor) (j : Nat) : (s.setSn k x).tr j = s.tr j := rfl
@[simp] theorem State.te_setSn_frame (s : State) (k : Nat) (x : Sensor) (j : Nat) : (s.setSn k x).te j = s.te j := rfl
@[simp] theorem State.es_setSn_frame (s : State) (k : Nat) (x : Sensor) (j : Nat) : (s.setSn k x).es j = s.es j := rfl
@[simp] theorem State.sl_setSn_frame (s : State) (k : Nat) (x : Sensor) (j : Nat) : (s.setSn k x).sl j = s.sl j := rfl
@[simp] theorem State.pin_setSn_frame (s : State) (k : Nat) (x : Sensor) (j : Nat) : (s.setSn k x).pin j = s.pin j := rfl
@[simp] theorem State.stl_setSn_frame (s : State) (k : Nat) (x : Sensor) (j : Nat) : (s.setSn k x).stl j = s.stl j := rfl
@[simp] theorem State.src_setSn_frame (s : State) (k : Nat) (x : Sensor) (j : Nat) : (s.setSn k x).src j = s.src j := rfl
@[simp] theorem State.part_setSn_frame (s : State) (k : Nat) (x : Sensor) (j : Nat) : (s.setSn k x).part j = s.part j := rfl
@[simp] theorem State.tq_setSn_frame (s : State) (k : Nat) (x : Sensor) (j : Nat) : (s.setSn k x).tq j = s.tq j := rfl
@[simp] theorem State.page_setSn_frame (s : State) (k : Nat) (x : Sensor) (j : Nat) : (s.setSn k x).page j = s.page j := rfl
@[simp] theorem State.eng_setSn_frame (s : State) (k : Nat) (x : Sensor) (j : Nat) : (s.setSn k x).eng j = s.eng j := rfl
@[simp] theorem State.rn_setSn_frame (s : State) (k : Nat) (x : Sensor) (j : Nat) : (s.setSn k x).rn j = s.rn j := rfl
@[simp] theorem State.vlv_setSn_frame (s : State) (k : Nat) (x : Sensor) (j : Nat) : (s.setSn k x).vlv j = s.vlv j := rfl
@[simp] theorem State.bk_setSn_frame (s : State) (k : Nat) (x : Sensor) (j : Nat) : (s.setSn k x).bk j = s.bk j := rfl
@[simp] theorem State.port_setSn_frame (s : State) (k : Nat) (x : Sensor) (j : Nat) : (s.setSn k x).port j = s.port j := rfl
@[simp] theorem State.mb_setSn_frame (s : State) (k : Nat) (x : Sensor) (j : Nat) : (s.setSn k x).mb j = s.mb j := rfl
@[simp] theorem State.hold_setSn_frame (s : State) (k : Nat) (x : Sensor) (j : Nat) : (s.setSn k x).hold j = s.hold j := rfl
@[simp] theorem State.ch_setSn_frame (s : State) (k : Nat) (x : Sensor) (j : Nat) : (s.setSn k x).ch j = s.ch j := rfl
@[simp] theorem State.snaps_setSn_frame (s : State) (k : Nat) (x : Sensor) : (s.setSn k x).snaps = s.snaps := rfl
@[simp] theorem State.lastRead_setSn_frame (s : State) (k : Nat) (x : Sensor) : (s.setSn k x).lastRead = s.lastRead := rfl
@[simp] theorem State.setNow_setSn_frame (s : State) (k : Nat) (x : Sensor) : (s.setSn k x).setNow = s.setNow := rfl
@[simp] theorem State.stepped_setSn_frame (s : State) (k : Nat) (x : Sensor) : (s.setSn k x).stepped = s.stepped := rfl
@[simp] theorem State.shadow_setSn_frame (s : State) (k : Nat) (x : Sensor) : (s.setSn k x).shadow = s.shadow := rfl
@[simp] theorem State.ready_setSn_frame (s : State) (k : Nat) (x : Sensor) : (s.setSn k x).ready = s.ready := rfl
@[simp] theorem State.staged_setSn_frame (s : State) (k : Nat) (x : Sensor) : (s.setSn k x).staged = s.staged := rfl
@[simp] theorem State.stagedItems_setSn_frame (s : State) (k : Nat) (x : Sensor) : (s.setSn k x).stagedItems = s.stagedItems := rfl
@[simp] theorem State.touched_setSn_frame (s : State) (k : Nat) (x : Sensor) : (s.setSn k x).touched = s.touched := rfl
@[simp] theorem State.badWords_setSn_frame (s : State) (k : Nat) (x : Sensor) : (s.setSn k x).badWords = s.badWords := rfl
@[simp] theorem State.tb_setSn_frame (s : State) (k : Nat) (x : Sensor) : (s.setSn k x).tb = s.tb := rfl
@[simp] theorem State.points_setSn_frame (s : State) (k : Nat) (x : Sensor) : (s.setSn k x).points = s.points := rfl
@[simp] theorem State.deferred_setSn_frame (s : State) (k : Nat) (x : Sensor) : (s.setSn k x).deferred = s.deferred := rfl
@[simp] theorem State.placed_setSn_frame (s : State) (k : Nat) (x : Sensor) : (s.setSn k x).placed = s.placed := rfl
@[simp] theorem State.flight_setSn_frame (s : State) (k : Nat) (x : Sensor) : (s.setSn k x).flight = s.flight := rfl
@[simp] theorem State.pool_setSn_frame (s : State) (k : Nat) (x : Sensor) : (s.setSn k x).pool = s.pool := rfl
@[simp] theorem State.trgWaits_setSn_frame (s : State) (k : Nat) (x : Sensor) : (s.setSn k x).trgWaits = s.trgWaits := rfl
@[simp] theorem State.trkUndo_setSn_frame (s : State) (k : Nat) (x : Sensor) : (s.setSn k x).trkUndo = s.trkUndo := rfl
@[simp] theorem State.snap_setSn_frame (s : State) (k : Nat) (x : Sensor) : (s.setSn k x).snap = s.snap := rfl
@[simp] theorem State.bst_setSn_frame (s : State) (k : Nat) (x : Sensor) : (s.setSn k x).bst = s.bst := rfl
@[simp] theorem State.pwr_setSn_frame (s : State) (k : Nat) (x : Sensor) : (s.setSn k x).pwr = s.pwr := rfl
@[simp] theorem State.sys_setSn_frame (s : State) (k : Nat) (x : Sensor) : (s.setSn k x).sys = s.sys := rfl
@[simp] theorem State.tth_setSn_frame (s : State) (k : Nat) (x : Sensor) : (s.setSn k x).tth = s.tth := rfl
@[simp] theorem State.dma_setSn_frame (s : State) (k : Nat) (x : Sensor) : (s.setSn k x).dma = s.dma := rfl
@[simp] theorem State.hostOut_setSn_frame (s : State) (k : Nat) (x : Sensor) : (s.setSn k x).hostOut = s.hostOut := rfl
@[simp] theorem State.wakeLow_setSn_frame (s : State) (k : Nat) (x : Sensor) : (s.setSn k x).wakeLow = s.wakeLow := rfl
@[simp] theorem State.fr_setSn_frame (s : State) (k : Nat) (x : Sensor) : (s.setSn k x).fr = s.fr := rfl
@[simp] theorem State.pcie_setSn_frame (s : State) (k : Nat) (x : Sensor) : (s.setSn k x).pcie = s.pcie := rfl
@[simp] theorem State.spi_setSn_frame (s : State) (k : Nat) (x : Sensor) : (s.setSn k x).spi = s.spi := rfl
@[simp] theorem State.logQ_setSn_frame (s : State) (k : Nat) (x : Sensor) : (s.setSn k x).logQ = s.logQ := rfl
@[simp] theorem State.logLost_setSn_frame (s : State) (k : Nat) (x : Sensor) : (s.setSn k x).logLost = s.logLost := rfl
@[simp] theorem State.logHold_setSn_frame (s : State) (k : Nat) (x : Sensor) : (s.setSn k x).logHold = s.logHold := rfl
@[simp] theorem State.logAt_setSn_frame (s : State) (k : Nat) (x : Sensor) : (s.setSn k x).logAt = s.logAt := rfl
@[simp] theorem State.logTell_setSn_frame (s : State) (k : Nat) (x : Sensor) : (s.setSn k x).logTell = s.logTell := rfl
@[simp] theorem State.logW_setSn_frame (s : State) (k : Nat) (x : Sensor) : (s.setSn k x).logW = s.logW := rfl
@[simp] theorem State.once_setSn_frame (s : State) (k : Nat) (x : Sensor) : (s.setSn k x).once = s.once := rfl
@[simp] theorem State.free_setSn_frame (s : State) (k : Nat) (x : Sensor) : (s.setSn k x).free = s.free := rfl
@[simp] theorem State.pending_setSn_frame (s : State) (k : Nat) (x : Sensor) : (s.setSn k x).pending = s.pending := rfl
@[simp] theorem State.now_setSn_frame (s : State) (k : Nat) (x : Sensor) : (s.setSn k x).now = s.now := rfl

/-! ### Frame of setTe -/

/-- What the table reads after the update. -/
theorem State.te_setTe (s : State) (k : Nat) (x : TrkEv) (j : Nat) : (s.setTe k x).te j = if j = k then x else s.te j :=
  Sparse.get_set _ _ _ _ _

@[simp] theorem State.te_setTe_same (s : State) (k : Nat) (x : TrkEv) : (s.setTe k x).te k = x := Sparse.get_set_same _ _ _ _

@[simp] theorem State.regs_setTe_frame (s : State) (k : Nat) (x : TrkEv) : (s.setTe k x).regs = s.regs := rfl
@[simp] theorem State.rd_setTe_frame (s : State) (k : Nat) (x : TrkEv) (b : Nat) : (s.setTe k x).rd b = s.rd b := rfl
@[simp] theorem State.f_setTe_frame (s : State) (k : Nat) (x : TrkEv) (y : Fld) : (s.setTe k x).f y = s.f y := rfl
@[simp] theorem State.b_setTe_frame (s : State) (k : Nat) (x : TrkEv) (y : Fld) : (s.setTe k x).b y = s.b y := rfl
@[simp] theorem State.tr_setTe_frame (s : State) (k : Nat) (x : TrkEv) (j : Nat) : (s.setTe k x).tr j = s.tr j := rfl
@[simp] theorem State.sn_setTe_frame (s : State) (k : Nat) (x : TrkEv) (j : Nat) : (s.setTe k x).sn j = s.sn j := rfl
@[simp] theorem State.es_setTe_frame (s : State) (k : Nat) (x : TrkEv) (j : Nat) : (s.setTe k x).es j = s.es j := rfl
@[simp] theorem State.sl_setTe_frame (s : State) (k : Nat) (x : TrkEv) (j : Nat) : (s.setTe k x).sl j = s.sl j := rfl
@[simp] theorem State.pin_setTe_frame (s : State) (k : Nat) (x : TrkEv) (j : Nat) : (s.setTe k x).pin j = s.pin j := rfl
@[simp] theorem State.stl_setTe_frame (s : State) (k : Nat) (x : TrkEv) (j : Nat) : (s.setTe k x).stl j = s.stl j := rfl
@[simp] theorem State.src_setTe_frame (s : State) (k : Nat) (x : TrkEv) (j : Nat) : (s.setTe k x).src j = s.src j := rfl
@[simp] theorem State.part_setTe_frame (s : State) (k : Nat) (x : TrkEv) (j : Nat) : (s.setTe k x).part j = s.part j := rfl
@[simp] theorem State.tq_setTe_frame (s : State) (k : Nat) (x : TrkEv) (j : Nat) : (s.setTe k x).tq j = s.tq j := rfl
@[simp] theorem State.page_setTe_frame (s : State) (k : Nat) (x : TrkEv) (j : Nat) : (s.setTe k x).page j = s.page j := rfl
@[simp] theorem State.eng_setTe_frame (s : State) (k : Nat) (x : TrkEv) (j : Nat) : (s.setTe k x).eng j = s.eng j := rfl
@[simp] theorem State.rn_setTe_frame (s : State) (k : Nat) (x : TrkEv) (j : Nat) : (s.setTe k x).rn j = s.rn j := rfl
@[simp] theorem State.vlv_setTe_frame (s : State) (k : Nat) (x : TrkEv) (j : Nat) : (s.setTe k x).vlv j = s.vlv j := rfl
@[simp] theorem State.bk_setTe_frame (s : State) (k : Nat) (x : TrkEv) (j : Nat) : (s.setTe k x).bk j = s.bk j := rfl
@[simp] theorem State.port_setTe_frame (s : State) (k : Nat) (x : TrkEv) (j : Nat) : (s.setTe k x).port j = s.port j := rfl
@[simp] theorem State.mb_setTe_frame (s : State) (k : Nat) (x : TrkEv) (j : Nat) : (s.setTe k x).mb j = s.mb j := rfl
@[simp] theorem State.hold_setTe_frame (s : State) (k : Nat) (x : TrkEv) (j : Nat) : (s.setTe k x).hold j = s.hold j := rfl
@[simp] theorem State.ch_setTe_frame (s : State) (k : Nat) (x : TrkEv) (j : Nat) : (s.setTe k x).ch j = s.ch j := rfl
@[simp] theorem State.snaps_setTe_frame (s : State) (k : Nat) (x : TrkEv) : (s.setTe k x).snaps = s.snaps := rfl
@[simp] theorem State.lastRead_setTe_frame (s : State) (k : Nat) (x : TrkEv) : (s.setTe k x).lastRead = s.lastRead := rfl
@[simp] theorem State.setNow_setTe_frame (s : State) (k : Nat) (x : TrkEv) : (s.setTe k x).setNow = s.setNow := rfl
@[simp] theorem State.stepped_setTe_frame (s : State) (k : Nat) (x : TrkEv) : (s.setTe k x).stepped = s.stepped := rfl
@[simp] theorem State.shadow_setTe_frame (s : State) (k : Nat) (x : TrkEv) : (s.setTe k x).shadow = s.shadow := rfl
@[simp] theorem State.ready_setTe_frame (s : State) (k : Nat) (x : TrkEv) : (s.setTe k x).ready = s.ready := rfl
@[simp] theorem State.staged_setTe_frame (s : State) (k : Nat) (x : TrkEv) : (s.setTe k x).staged = s.staged := rfl
@[simp] theorem State.stagedItems_setTe_frame (s : State) (k : Nat) (x : TrkEv) : (s.setTe k x).stagedItems = s.stagedItems := rfl
@[simp] theorem State.touched_setTe_frame (s : State) (k : Nat) (x : TrkEv) : (s.setTe k x).touched = s.touched := rfl
@[simp] theorem State.badWords_setTe_frame (s : State) (k : Nat) (x : TrkEv) : (s.setTe k x).badWords = s.badWords := rfl
@[simp] theorem State.tb_setTe_frame (s : State) (k : Nat) (x : TrkEv) : (s.setTe k x).tb = s.tb := rfl
@[simp] theorem State.points_setTe_frame (s : State) (k : Nat) (x : TrkEv) : (s.setTe k x).points = s.points := rfl
@[simp] theorem State.deferred_setTe_frame (s : State) (k : Nat) (x : TrkEv) : (s.setTe k x).deferred = s.deferred := rfl
@[simp] theorem State.placed_setTe_frame (s : State) (k : Nat) (x : TrkEv) : (s.setTe k x).placed = s.placed := rfl
@[simp] theorem State.flight_setTe_frame (s : State) (k : Nat) (x : TrkEv) : (s.setTe k x).flight = s.flight := rfl
@[simp] theorem State.pool_setTe_frame (s : State) (k : Nat) (x : TrkEv) : (s.setTe k x).pool = s.pool := rfl
@[simp] theorem State.trgWaits_setTe_frame (s : State) (k : Nat) (x : TrkEv) : (s.setTe k x).trgWaits = s.trgWaits := rfl
@[simp] theorem State.trkUndo_setTe_frame (s : State) (k : Nat) (x : TrkEv) : (s.setTe k x).trkUndo = s.trkUndo := rfl
@[simp] theorem State.snap_setTe_frame (s : State) (k : Nat) (x : TrkEv) : (s.setTe k x).snap = s.snap := rfl
@[simp] theorem State.bst_setTe_frame (s : State) (k : Nat) (x : TrkEv) : (s.setTe k x).bst = s.bst := rfl
@[simp] theorem State.pwr_setTe_frame (s : State) (k : Nat) (x : TrkEv) : (s.setTe k x).pwr = s.pwr := rfl
@[simp] theorem State.sys_setTe_frame (s : State) (k : Nat) (x : TrkEv) : (s.setTe k x).sys = s.sys := rfl
@[simp] theorem State.tth_setTe_frame (s : State) (k : Nat) (x : TrkEv) : (s.setTe k x).tth = s.tth := rfl
@[simp] theorem State.dma_setTe_frame (s : State) (k : Nat) (x : TrkEv) : (s.setTe k x).dma = s.dma := rfl
@[simp] theorem State.hostOut_setTe_frame (s : State) (k : Nat) (x : TrkEv) : (s.setTe k x).hostOut = s.hostOut := rfl
@[simp] theorem State.wakeLow_setTe_frame (s : State) (k : Nat) (x : TrkEv) : (s.setTe k x).wakeLow = s.wakeLow := rfl
@[simp] theorem State.fr_setTe_frame (s : State) (k : Nat) (x : TrkEv) : (s.setTe k x).fr = s.fr := rfl
@[simp] theorem State.pcie_setTe_frame (s : State) (k : Nat) (x : TrkEv) : (s.setTe k x).pcie = s.pcie := rfl
@[simp] theorem State.spi_setTe_frame (s : State) (k : Nat) (x : TrkEv) : (s.setTe k x).spi = s.spi := rfl
@[simp] theorem State.logQ_setTe_frame (s : State) (k : Nat) (x : TrkEv) : (s.setTe k x).logQ = s.logQ := rfl
@[simp] theorem State.logLost_setTe_frame (s : State) (k : Nat) (x : TrkEv) : (s.setTe k x).logLost = s.logLost := rfl
@[simp] theorem State.logHold_setTe_frame (s : State) (k : Nat) (x : TrkEv) : (s.setTe k x).logHold = s.logHold := rfl
@[simp] theorem State.logAt_setTe_frame (s : State) (k : Nat) (x : TrkEv) : (s.setTe k x).logAt = s.logAt := rfl
@[simp] theorem State.logTell_setTe_frame (s : State) (k : Nat) (x : TrkEv) : (s.setTe k x).logTell = s.logTell := rfl
@[simp] theorem State.logW_setTe_frame (s : State) (k : Nat) (x : TrkEv) : (s.setTe k x).logW = s.logW := rfl
@[simp] theorem State.once_setTe_frame (s : State) (k : Nat) (x : TrkEv) : (s.setTe k x).once = s.once := rfl
@[simp] theorem State.free_setTe_frame (s : State) (k : Nat) (x : TrkEv) : (s.setTe k x).free = s.free := rfl
@[simp] theorem State.pending_setTe_frame (s : State) (k : Nat) (x : TrkEv) : (s.setTe k x).pending = s.pending := rfl
@[simp] theorem State.now_setTe_frame (s : State) (k : Nat) (x : TrkEv) : (s.setTe k x).now = s.now := rfl

/-! ### Frame of setEs -/

/-- What the table reads after the update. -/
theorem State.es_setEs (s : State) (k : Nat) (x : EntrySt) (j : Nat) : (s.setEs k x).es j = if j = k then x else s.es j :=
  Sparse.get_set _ _ _ _ _

@[simp] theorem State.es_setEs_same (s : State) (k : Nat) (x : EntrySt) : (s.setEs k x).es k = x := Sparse.get_set_same _ _ _ _

@[simp] theorem State.regs_setEs_frame (s : State) (k : Nat) (x : EntrySt) : (s.setEs k x).regs = s.regs := rfl
@[simp] theorem State.rd_setEs_frame (s : State) (k : Nat) (x : EntrySt) (b : Nat) : (s.setEs k x).rd b = s.rd b := rfl
@[simp] theorem State.f_setEs_frame (s : State) (k : Nat) (x : EntrySt) (y : Fld) : (s.setEs k x).f y = s.f y := rfl
@[simp] theorem State.b_setEs_frame (s : State) (k : Nat) (x : EntrySt) (y : Fld) : (s.setEs k x).b y = s.b y := rfl
@[simp] theorem State.tr_setEs_frame (s : State) (k : Nat) (x : EntrySt) (j : Nat) : (s.setEs k x).tr j = s.tr j := rfl
@[simp] theorem State.sn_setEs_frame (s : State) (k : Nat) (x : EntrySt) (j : Nat) : (s.setEs k x).sn j = s.sn j := rfl
@[simp] theorem State.te_setEs_frame (s : State) (k : Nat) (x : EntrySt) (j : Nat) : (s.setEs k x).te j = s.te j := rfl
@[simp] theorem State.sl_setEs_frame (s : State) (k : Nat) (x : EntrySt) (j : Nat) : (s.setEs k x).sl j = s.sl j := rfl
@[simp] theorem State.pin_setEs_frame (s : State) (k : Nat) (x : EntrySt) (j : Nat) : (s.setEs k x).pin j = s.pin j := rfl
@[simp] theorem State.stl_setEs_frame (s : State) (k : Nat) (x : EntrySt) (j : Nat) : (s.setEs k x).stl j = s.stl j := rfl
@[simp] theorem State.src_setEs_frame (s : State) (k : Nat) (x : EntrySt) (j : Nat) : (s.setEs k x).src j = s.src j := rfl
@[simp] theorem State.part_setEs_frame (s : State) (k : Nat) (x : EntrySt) (j : Nat) : (s.setEs k x).part j = s.part j := rfl
@[simp] theorem State.tq_setEs_frame (s : State) (k : Nat) (x : EntrySt) (j : Nat) : (s.setEs k x).tq j = s.tq j := rfl
@[simp] theorem State.page_setEs_frame (s : State) (k : Nat) (x : EntrySt) (j : Nat) : (s.setEs k x).page j = s.page j := rfl
@[simp] theorem State.eng_setEs_frame (s : State) (k : Nat) (x : EntrySt) (j : Nat) : (s.setEs k x).eng j = s.eng j := rfl
@[simp] theorem State.rn_setEs_frame (s : State) (k : Nat) (x : EntrySt) (j : Nat) : (s.setEs k x).rn j = s.rn j := rfl
@[simp] theorem State.vlv_setEs_frame (s : State) (k : Nat) (x : EntrySt) (j : Nat) : (s.setEs k x).vlv j = s.vlv j := rfl
@[simp] theorem State.bk_setEs_frame (s : State) (k : Nat) (x : EntrySt) (j : Nat) : (s.setEs k x).bk j = s.bk j := rfl
@[simp] theorem State.port_setEs_frame (s : State) (k : Nat) (x : EntrySt) (j : Nat) : (s.setEs k x).port j = s.port j := rfl
@[simp] theorem State.mb_setEs_frame (s : State) (k : Nat) (x : EntrySt) (j : Nat) : (s.setEs k x).mb j = s.mb j := rfl
@[simp] theorem State.hold_setEs_frame (s : State) (k : Nat) (x : EntrySt) (j : Nat) : (s.setEs k x).hold j = s.hold j := rfl
@[simp] theorem State.ch_setEs_frame (s : State) (k : Nat) (x : EntrySt) (j : Nat) : (s.setEs k x).ch j = s.ch j := rfl
@[simp] theorem State.snaps_setEs_frame (s : State) (k : Nat) (x : EntrySt) : (s.setEs k x).snaps = s.snaps := rfl
@[simp] theorem State.lastRead_setEs_frame (s : State) (k : Nat) (x : EntrySt) : (s.setEs k x).lastRead = s.lastRead := rfl
@[simp] theorem State.setNow_setEs_frame (s : State) (k : Nat) (x : EntrySt) : (s.setEs k x).setNow = s.setNow := rfl
@[simp] theorem State.stepped_setEs_frame (s : State) (k : Nat) (x : EntrySt) : (s.setEs k x).stepped = s.stepped := rfl
@[simp] theorem State.shadow_setEs_frame (s : State) (k : Nat) (x : EntrySt) : (s.setEs k x).shadow = s.shadow := rfl
@[simp] theorem State.ready_setEs_frame (s : State) (k : Nat) (x : EntrySt) : (s.setEs k x).ready = s.ready := rfl
@[simp] theorem State.staged_setEs_frame (s : State) (k : Nat) (x : EntrySt) : (s.setEs k x).staged = s.staged := rfl
@[simp] theorem State.stagedItems_setEs_frame (s : State) (k : Nat) (x : EntrySt) : (s.setEs k x).stagedItems = s.stagedItems := rfl
@[simp] theorem State.touched_setEs_frame (s : State) (k : Nat) (x : EntrySt) : (s.setEs k x).touched = s.touched := rfl
@[simp] theorem State.badWords_setEs_frame (s : State) (k : Nat) (x : EntrySt) : (s.setEs k x).badWords = s.badWords := rfl
@[simp] theorem State.tb_setEs_frame (s : State) (k : Nat) (x : EntrySt) : (s.setEs k x).tb = s.tb := rfl
@[simp] theorem State.points_setEs_frame (s : State) (k : Nat) (x : EntrySt) : (s.setEs k x).points = s.points := rfl
@[simp] theorem State.deferred_setEs_frame (s : State) (k : Nat) (x : EntrySt) : (s.setEs k x).deferred = s.deferred := rfl
@[simp] theorem State.placed_setEs_frame (s : State) (k : Nat) (x : EntrySt) : (s.setEs k x).placed = s.placed := rfl
@[simp] theorem State.flight_setEs_frame (s : State) (k : Nat) (x : EntrySt) : (s.setEs k x).flight = s.flight := rfl
@[simp] theorem State.pool_setEs_frame (s : State) (k : Nat) (x : EntrySt) : (s.setEs k x).pool = s.pool := rfl
@[simp] theorem State.trgWaits_setEs_frame (s : State) (k : Nat) (x : EntrySt) : (s.setEs k x).trgWaits = s.trgWaits := rfl
@[simp] theorem State.trkUndo_setEs_frame (s : State) (k : Nat) (x : EntrySt) : (s.setEs k x).trkUndo = s.trkUndo := rfl
@[simp] theorem State.snap_setEs_frame (s : State) (k : Nat) (x : EntrySt) : (s.setEs k x).snap = s.snap := rfl
@[simp] theorem State.bst_setEs_frame (s : State) (k : Nat) (x : EntrySt) : (s.setEs k x).bst = s.bst := rfl
@[simp] theorem State.pwr_setEs_frame (s : State) (k : Nat) (x : EntrySt) : (s.setEs k x).pwr = s.pwr := rfl
@[simp] theorem State.sys_setEs_frame (s : State) (k : Nat) (x : EntrySt) : (s.setEs k x).sys = s.sys := rfl
@[simp] theorem State.tth_setEs_frame (s : State) (k : Nat) (x : EntrySt) : (s.setEs k x).tth = s.tth := rfl
@[simp] theorem State.dma_setEs_frame (s : State) (k : Nat) (x : EntrySt) : (s.setEs k x).dma = s.dma := rfl
@[simp] theorem State.hostOut_setEs_frame (s : State) (k : Nat) (x : EntrySt) : (s.setEs k x).hostOut = s.hostOut := rfl
@[simp] theorem State.wakeLow_setEs_frame (s : State) (k : Nat) (x : EntrySt) : (s.setEs k x).wakeLow = s.wakeLow := rfl
@[simp] theorem State.fr_setEs_frame (s : State) (k : Nat) (x : EntrySt) : (s.setEs k x).fr = s.fr := rfl
@[simp] theorem State.pcie_setEs_frame (s : State) (k : Nat) (x : EntrySt) : (s.setEs k x).pcie = s.pcie := rfl
@[simp] theorem State.spi_setEs_frame (s : State) (k : Nat) (x : EntrySt) : (s.setEs k x).spi = s.spi := rfl
@[simp] theorem State.logQ_setEs_frame (s : State) (k : Nat) (x : EntrySt) : (s.setEs k x).logQ = s.logQ := rfl
@[simp] theorem State.logLost_setEs_frame (s : State) (k : Nat) (x : EntrySt) : (s.setEs k x).logLost = s.logLost := rfl
@[simp] theorem State.logHold_setEs_frame (s : State) (k : Nat) (x : EntrySt) : (s.setEs k x).logHold = s.logHold := rfl
@[simp] theorem State.logAt_setEs_frame (s : State) (k : Nat) (x : EntrySt) : (s.setEs k x).logAt = s.logAt := rfl
@[simp] theorem State.logTell_setEs_frame (s : State) (k : Nat) (x : EntrySt) : (s.setEs k x).logTell = s.logTell := rfl
@[simp] theorem State.logW_setEs_frame (s : State) (k : Nat) (x : EntrySt) : (s.setEs k x).logW = s.logW := rfl
@[simp] theorem State.once_setEs_frame (s : State) (k : Nat) (x : EntrySt) : (s.setEs k x).once = s.once := rfl
@[simp] theorem State.free_setEs_frame (s : State) (k : Nat) (x : EntrySt) : (s.setEs k x).free = s.free := rfl
@[simp] theorem State.pending_setEs_frame (s : State) (k : Nat) (x : EntrySt) : (s.setEs k x).pending = s.pending := rfl
@[simp] theorem State.now_setEs_frame (s : State) (k : Nat) (x : EntrySt) : (s.setEs k x).now = s.now := rfl

/-! ### Frame of setSl -/

/-- What the table reads after the update. -/
theorem State.sl_setSl (s : State) (k : Nat) (x : Slot) (j : Nat) : (s.setSl k x).sl j = if j = k then x else s.sl j :=
  Sparse.get_set _ _ _ _ _

@[simp] theorem State.sl_setSl_same (s : State) (k : Nat) (x : Slot) : (s.setSl k x).sl k = x := Sparse.get_set_same _ _ _ _

@[simp] theorem State.regs_setSl_frame (s : State) (k : Nat) (x : Slot) : (s.setSl k x).regs = s.regs := rfl
@[simp] theorem State.rd_setSl_frame (s : State) (k : Nat) (x : Slot) (b : Nat) : (s.setSl k x).rd b = s.rd b := rfl
@[simp] theorem State.f_setSl_frame (s : State) (k : Nat) (x : Slot) (y : Fld) : (s.setSl k x).f y = s.f y := rfl
@[simp] theorem State.b_setSl_frame (s : State) (k : Nat) (x : Slot) (y : Fld) : (s.setSl k x).b y = s.b y := rfl
@[simp] theorem State.tr_setSl_frame (s : State) (k : Nat) (x : Slot) (j : Nat) : (s.setSl k x).tr j = s.tr j := rfl
@[simp] theorem State.sn_setSl_frame (s : State) (k : Nat) (x : Slot) (j : Nat) : (s.setSl k x).sn j = s.sn j := rfl
@[simp] theorem State.te_setSl_frame (s : State) (k : Nat) (x : Slot) (j : Nat) : (s.setSl k x).te j = s.te j := rfl
@[simp] theorem State.es_setSl_frame (s : State) (k : Nat) (x : Slot) (j : Nat) : (s.setSl k x).es j = s.es j := rfl
@[simp] theorem State.pin_setSl_frame (s : State) (k : Nat) (x : Slot) (j : Nat) : (s.setSl k x).pin j = s.pin j := rfl
@[simp] theorem State.stl_setSl_frame (s : State) (k : Nat) (x : Slot) (j : Nat) : (s.setSl k x).stl j = s.stl j := rfl
@[simp] theorem State.src_setSl_frame (s : State) (k : Nat) (x : Slot) (j : Nat) : (s.setSl k x).src j = s.src j := rfl
@[simp] theorem State.part_setSl_frame (s : State) (k : Nat) (x : Slot) (j : Nat) : (s.setSl k x).part j = s.part j := rfl
@[simp] theorem State.tq_setSl_frame (s : State) (k : Nat) (x : Slot) (j : Nat) : (s.setSl k x).tq j = s.tq j := rfl
@[simp] theorem State.page_setSl_frame (s : State) (k : Nat) (x : Slot) (j : Nat) : (s.setSl k x).page j = s.page j := rfl
@[simp] theorem State.eng_setSl_frame (s : State) (k : Nat) (x : Slot) (j : Nat) : (s.setSl k x).eng j = s.eng j := rfl
@[simp] theorem State.rn_setSl_frame (s : State) (k : Nat) (x : Slot) (j : Nat) : (s.setSl k x).rn j = s.rn j := rfl
@[simp] theorem State.vlv_setSl_frame (s : State) (k : Nat) (x : Slot) (j : Nat) : (s.setSl k x).vlv j = s.vlv j := rfl
@[simp] theorem State.bk_setSl_frame (s : State) (k : Nat) (x : Slot) (j : Nat) : (s.setSl k x).bk j = s.bk j := rfl
@[simp] theorem State.port_setSl_frame (s : State) (k : Nat) (x : Slot) (j : Nat) : (s.setSl k x).port j = s.port j := rfl
@[simp] theorem State.mb_setSl_frame (s : State) (k : Nat) (x : Slot) (j : Nat) : (s.setSl k x).mb j = s.mb j := rfl
@[simp] theorem State.hold_setSl_frame (s : State) (k : Nat) (x : Slot) (j : Nat) : (s.setSl k x).hold j = s.hold j := rfl
@[simp] theorem State.ch_setSl_frame (s : State) (k : Nat) (x : Slot) (j : Nat) : (s.setSl k x).ch j = s.ch j := rfl
@[simp] theorem State.snaps_setSl_frame (s : State) (k : Nat) (x : Slot) : (s.setSl k x).snaps = s.snaps := rfl
@[simp] theorem State.lastRead_setSl_frame (s : State) (k : Nat) (x : Slot) : (s.setSl k x).lastRead = s.lastRead := rfl
@[simp] theorem State.setNow_setSl_frame (s : State) (k : Nat) (x : Slot) : (s.setSl k x).setNow = s.setNow := rfl
@[simp] theorem State.stepped_setSl_frame (s : State) (k : Nat) (x : Slot) : (s.setSl k x).stepped = s.stepped := rfl
@[simp] theorem State.shadow_setSl_frame (s : State) (k : Nat) (x : Slot) : (s.setSl k x).shadow = s.shadow := rfl
@[simp] theorem State.ready_setSl_frame (s : State) (k : Nat) (x : Slot) : (s.setSl k x).ready = s.ready := rfl
@[simp] theorem State.staged_setSl_frame (s : State) (k : Nat) (x : Slot) : (s.setSl k x).staged = s.staged := rfl
@[simp] theorem State.stagedItems_setSl_frame (s : State) (k : Nat) (x : Slot) : (s.setSl k x).stagedItems = s.stagedItems := rfl
@[simp] theorem State.touched_setSl_frame (s : State) (k : Nat) (x : Slot) : (s.setSl k x).touched = s.touched := rfl
@[simp] theorem State.badWords_setSl_frame (s : State) (k : Nat) (x : Slot) : (s.setSl k x).badWords = s.badWords := rfl
@[simp] theorem State.tb_setSl_frame (s : State) (k : Nat) (x : Slot) : (s.setSl k x).tb = s.tb := rfl
@[simp] theorem State.points_setSl_frame (s : State) (k : Nat) (x : Slot) : (s.setSl k x).points = s.points := rfl
@[simp] theorem State.deferred_setSl_frame (s : State) (k : Nat) (x : Slot) : (s.setSl k x).deferred = s.deferred := rfl
@[simp] theorem State.placed_setSl_frame (s : State) (k : Nat) (x : Slot) : (s.setSl k x).placed = s.placed := rfl
@[simp] theorem State.flight_setSl_frame (s : State) (k : Nat) (x : Slot) : (s.setSl k x).flight = s.flight := rfl
@[simp] theorem State.pool_setSl_frame (s : State) (k : Nat) (x : Slot) : (s.setSl k x).pool = s.pool := rfl
@[simp] theorem State.trgWaits_setSl_frame (s : State) (k : Nat) (x : Slot) : (s.setSl k x).trgWaits = s.trgWaits := rfl
@[simp] theorem State.trkUndo_setSl_frame (s : State) (k : Nat) (x : Slot) : (s.setSl k x).trkUndo = s.trkUndo := rfl
@[simp] theorem State.snap_setSl_frame (s : State) (k : Nat) (x : Slot) : (s.setSl k x).snap = s.snap := rfl
@[simp] theorem State.bst_setSl_frame (s : State) (k : Nat) (x : Slot) : (s.setSl k x).bst = s.bst := rfl
@[simp] theorem State.pwr_setSl_frame (s : State) (k : Nat) (x : Slot) : (s.setSl k x).pwr = s.pwr := rfl
@[simp] theorem State.sys_setSl_frame (s : State) (k : Nat) (x : Slot) : (s.setSl k x).sys = s.sys := rfl
@[simp] theorem State.tth_setSl_frame (s : State) (k : Nat) (x : Slot) : (s.setSl k x).tth = s.tth := rfl
@[simp] theorem State.dma_setSl_frame (s : State) (k : Nat) (x : Slot) : (s.setSl k x).dma = s.dma := rfl
@[simp] theorem State.hostOut_setSl_frame (s : State) (k : Nat) (x : Slot) : (s.setSl k x).hostOut = s.hostOut := rfl
@[simp] theorem State.wakeLow_setSl_frame (s : State) (k : Nat) (x : Slot) : (s.setSl k x).wakeLow = s.wakeLow := rfl
@[simp] theorem State.fr_setSl_frame (s : State) (k : Nat) (x : Slot) : (s.setSl k x).fr = s.fr := rfl
@[simp] theorem State.pcie_setSl_frame (s : State) (k : Nat) (x : Slot) : (s.setSl k x).pcie = s.pcie := rfl
@[simp] theorem State.spi_setSl_frame (s : State) (k : Nat) (x : Slot) : (s.setSl k x).spi = s.spi := rfl
@[simp] theorem State.logQ_setSl_frame (s : State) (k : Nat) (x : Slot) : (s.setSl k x).logQ = s.logQ := rfl
@[simp] theorem State.logLost_setSl_frame (s : State) (k : Nat) (x : Slot) : (s.setSl k x).logLost = s.logLost := rfl
@[simp] theorem State.logHold_setSl_frame (s : State) (k : Nat) (x : Slot) : (s.setSl k x).logHold = s.logHold := rfl
@[simp] theorem State.logAt_setSl_frame (s : State) (k : Nat) (x : Slot) : (s.setSl k x).logAt = s.logAt := rfl
@[simp] theorem State.logTell_setSl_frame (s : State) (k : Nat) (x : Slot) : (s.setSl k x).logTell = s.logTell := rfl
@[simp] theorem State.logW_setSl_frame (s : State) (k : Nat) (x : Slot) : (s.setSl k x).logW = s.logW := rfl
@[simp] theorem State.once_setSl_frame (s : State) (k : Nat) (x : Slot) : (s.setSl k x).once = s.once := rfl
@[simp] theorem State.free_setSl_frame (s : State) (k : Nat) (x : Slot) : (s.setSl k x).free = s.free := rfl
@[simp] theorem State.pending_setSl_frame (s : State) (k : Nat) (x : Slot) : (s.setSl k x).pending = s.pending := rfl
@[simp] theorem State.now_setSl_frame (s : State) (k : Nat) (x : Slot) : (s.setSl k x).now = s.now := rfl

/-! ### Frame of setPin -/

/-- What the table reads after the update. -/
theorem State.pin_setPin (s : State) (k : Nat) (x : Pin) (j : Nat) : (s.setPin k x).pin j = if j = k then x else s.pin j :=
  Sparse.get_set _ _ _ _ _

@[simp] theorem State.pin_setPin_same (s : State) (k : Nat) (x : Pin) : (s.setPin k x).pin k = x := Sparse.get_set_same _ _ _ _

@[simp] theorem State.regs_setPin_frame (s : State) (k : Nat) (x : Pin) : (s.setPin k x).regs = s.regs := rfl
@[simp] theorem State.rd_setPin_frame (s : State) (k : Nat) (x : Pin) (b : Nat) : (s.setPin k x).rd b = s.rd b := rfl
@[simp] theorem State.f_setPin_frame (s : State) (k : Nat) (x : Pin) (y : Fld) : (s.setPin k x).f y = s.f y := rfl
@[simp] theorem State.b_setPin_frame (s : State) (k : Nat) (x : Pin) (y : Fld) : (s.setPin k x).b y = s.b y := rfl
@[simp] theorem State.tr_setPin_frame (s : State) (k : Nat) (x : Pin) (j : Nat) : (s.setPin k x).tr j = s.tr j := rfl
@[simp] theorem State.sn_setPin_frame (s : State) (k : Nat) (x : Pin) (j : Nat) : (s.setPin k x).sn j = s.sn j := rfl
@[simp] theorem State.te_setPin_frame (s : State) (k : Nat) (x : Pin) (j : Nat) : (s.setPin k x).te j = s.te j := rfl
@[simp] theorem State.es_setPin_frame (s : State) (k : Nat) (x : Pin) (j : Nat) : (s.setPin k x).es j = s.es j := rfl
@[simp] theorem State.sl_setPin_frame (s : State) (k : Nat) (x : Pin) (j : Nat) : (s.setPin k x).sl j = s.sl j := rfl
@[simp] theorem State.stl_setPin_frame (s : State) (k : Nat) (x : Pin) (j : Nat) : (s.setPin k x).stl j = s.stl j := rfl
@[simp] theorem State.src_setPin_frame (s : State) (k : Nat) (x : Pin) (j : Nat) : (s.setPin k x).src j = s.src j := rfl
@[simp] theorem State.part_setPin_frame (s : State) (k : Nat) (x : Pin) (j : Nat) : (s.setPin k x).part j = s.part j := rfl
@[simp] theorem State.tq_setPin_frame (s : State) (k : Nat) (x : Pin) (j : Nat) : (s.setPin k x).tq j = s.tq j := rfl
@[simp] theorem State.page_setPin_frame (s : State) (k : Nat) (x : Pin) (j : Nat) : (s.setPin k x).page j = s.page j := rfl
@[simp] theorem State.eng_setPin_frame (s : State) (k : Nat) (x : Pin) (j : Nat) : (s.setPin k x).eng j = s.eng j := rfl
@[simp] theorem State.rn_setPin_frame (s : State) (k : Nat) (x : Pin) (j : Nat) : (s.setPin k x).rn j = s.rn j := rfl
@[simp] theorem State.vlv_setPin_frame (s : State) (k : Nat) (x : Pin) (j : Nat) : (s.setPin k x).vlv j = s.vlv j := rfl
@[simp] theorem State.bk_setPin_frame (s : State) (k : Nat) (x : Pin) (j : Nat) : (s.setPin k x).bk j = s.bk j := rfl
@[simp] theorem State.port_setPin_frame (s : State) (k : Nat) (x : Pin) (j : Nat) : (s.setPin k x).port j = s.port j := rfl
@[simp] theorem State.mb_setPin_frame (s : State) (k : Nat) (x : Pin) (j : Nat) : (s.setPin k x).mb j = s.mb j := rfl
@[simp] theorem State.hold_setPin_frame (s : State) (k : Nat) (x : Pin) (j : Nat) : (s.setPin k x).hold j = s.hold j := rfl
@[simp] theorem State.ch_setPin_frame (s : State) (k : Nat) (x : Pin) (j : Nat) : (s.setPin k x).ch j = s.ch j := rfl
@[simp] theorem State.snaps_setPin_frame (s : State) (k : Nat) (x : Pin) : (s.setPin k x).snaps = s.snaps := rfl
@[simp] theorem State.lastRead_setPin_frame (s : State) (k : Nat) (x : Pin) : (s.setPin k x).lastRead = s.lastRead := rfl
@[simp] theorem State.setNow_setPin_frame (s : State) (k : Nat) (x : Pin) : (s.setPin k x).setNow = s.setNow := rfl
@[simp] theorem State.stepped_setPin_frame (s : State) (k : Nat) (x : Pin) : (s.setPin k x).stepped = s.stepped := rfl
@[simp] theorem State.shadow_setPin_frame (s : State) (k : Nat) (x : Pin) : (s.setPin k x).shadow = s.shadow := rfl
@[simp] theorem State.ready_setPin_frame (s : State) (k : Nat) (x : Pin) : (s.setPin k x).ready = s.ready := rfl
@[simp] theorem State.staged_setPin_frame (s : State) (k : Nat) (x : Pin) : (s.setPin k x).staged = s.staged := rfl
@[simp] theorem State.stagedItems_setPin_frame (s : State) (k : Nat) (x : Pin) : (s.setPin k x).stagedItems = s.stagedItems := rfl
@[simp] theorem State.touched_setPin_frame (s : State) (k : Nat) (x : Pin) : (s.setPin k x).touched = s.touched := rfl
@[simp] theorem State.badWords_setPin_frame (s : State) (k : Nat) (x : Pin) : (s.setPin k x).badWords = s.badWords := rfl
@[simp] theorem State.tb_setPin_frame (s : State) (k : Nat) (x : Pin) : (s.setPin k x).tb = s.tb := rfl
@[simp] theorem State.points_setPin_frame (s : State) (k : Nat) (x : Pin) : (s.setPin k x).points = s.points := rfl
@[simp] theorem State.deferred_setPin_frame (s : State) (k : Nat) (x : Pin) : (s.setPin k x).deferred = s.deferred := rfl
@[simp] theorem State.placed_setPin_frame (s : State) (k : Nat) (x : Pin) : (s.setPin k x).placed = s.placed := rfl
@[simp] theorem State.flight_setPin_frame (s : State) (k : Nat) (x : Pin) : (s.setPin k x).flight = s.flight := rfl
@[simp] theorem State.pool_setPin_frame (s : State) (k : Nat) (x : Pin) : (s.setPin k x).pool = s.pool := rfl
@[simp] theorem State.trgWaits_setPin_frame (s : State) (k : Nat) (x : Pin) : (s.setPin k x).trgWaits = s.trgWaits := rfl
@[simp] theorem State.trkUndo_setPin_frame (s : State) (k : Nat) (x : Pin) : (s.setPin k x).trkUndo = s.trkUndo := rfl
@[simp] theorem State.snap_setPin_frame (s : State) (k : Nat) (x : Pin) : (s.setPin k x).snap = s.snap := rfl
@[simp] theorem State.bst_setPin_frame (s : State) (k : Nat) (x : Pin) : (s.setPin k x).bst = s.bst := rfl
@[simp] theorem State.pwr_setPin_frame (s : State) (k : Nat) (x : Pin) : (s.setPin k x).pwr = s.pwr := rfl
@[simp] theorem State.sys_setPin_frame (s : State) (k : Nat) (x : Pin) : (s.setPin k x).sys = s.sys := rfl
@[simp] theorem State.tth_setPin_frame (s : State) (k : Nat) (x : Pin) : (s.setPin k x).tth = s.tth := rfl
@[simp] theorem State.dma_setPin_frame (s : State) (k : Nat) (x : Pin) : (s.setPin k x).dma = s.dma := rfl
@[simp] theorem State.hostOut_setPin_frame (s : State) (k : Nat) (x : Pin) : (s.setPin k x).hostOut = s.hostOut := rfl
@[simp] theorem State.wakeLow_setPin_frame (s : State) (k : Nat) (x : Pin) : (s.setPin k x).wakeLow = s.wakeLow := rfl
@[simp] theorem State.fr_setPin_frame (s : State) (k : Nat) (x : Pin) : (s.setPin k x).fr = s.fr := rfl
@[simp] theorem State.pcie_setPin_frame (s : State) (k : Nat) (x : Pin) : (s.setPin k x).pcie = s.pcie := rfl
@[simp] theorem State.spi_setPin_frame (s : State) (k : Nat) (x : Pin) : (s.setPin k x).spi = s.spi := rfl
@[simp] theorem State.logQ_setPin_frame (s : State) (k : Nat) (x : Pin) : (s.setPin k x).logQ = s.logQ := rfl
@[simp] theorem State.logLost_setPin_frame (s : State) (k : Nat) (x : Pin) : (s.setPin k x).logLost = s.logLost := rfl
@[simp] theorem State.logHold_setPin_frame (s : State) (k : Nat) (x : Pin) : (s.setPin k x).logHold = s.logHold := rfl
@[simp] theorem State.logAt_setPin_frame (s : State) (k : Nat) (x : Pin) : (s.setPin k x).logAt = s.logAt := rfl
@[simp] theorem State.logTell_setPin_frame (s : State) (k : Nat) (x : Pin) : (s.setPin k x).logTell = s.logTell := rfl
@[simp] theorem State.logW_setPin_frame (s : State) (k : Nat) (x : Pin) : (s.setPin k x).logW = s.logW := rfl
@[simp] theorem State.once_setPin_frame (s : State) (k : Nat) (x : Pin) : (s.setPin k x).once = s.once := rfl
@[simp] theorem State.free_setPin_frame (s : State) (k : Nat) (x : Pin) : (s.setPin k x).free = s.free := rfl
@[simp] theorem State.pending_setPin_frame (s : State) (k : Nat) (x : Pin) : (s.setPin k x).pending = s.pending := rfl
@[simp] theorem State.now_setPin_frame (s : State) (k : Nat) (x : Pin) : (s.setPin k x).now = s.now := rfl

/-! ### Frame of setStl -/

/-- What the table reads after the update. -/
theorem State.stl_setStl (s : State) (k : Nat) (x : Stall) (j : Nat) : (s.setStl k x).stl j = if j = k then x else s.stl j :=
  Sparse.get_set _ _ _ _ _

@[simp] theorem State.stl_setStl_same (s : State) (k : Nat) (x : Stall) : (s.setStl k x).stl k = x := Sparse.get_set_same _ _ _ _

@[simp] theorem State.regs_setStl_frame (s : State) (k : Nat) (x : Stall) : (s.setStl k x).regs = s.regs := rfl
@[simp] theorem State.rd_setStl_frame (s : State) (k : Nat) (x : Stall) (b : Nat) : (s.setStl k x).rd b = s.rd b := rfl
@[simp] theorem State.f_setStl_frame (s : State) (k : Nat) (x : Stall) (y : Fld) : (s.setStl k x).f y = s.f y := rfl
@[simp] theorem State.b_setStl_frame (s : State) (k : Nat) (x : Stall) (y : Fld) : (s.setStl k x).b y = s.b y := rfl
@[simp] theorem State.tr_setStl_frame (s : State) (k : Nat) (x : Stall) (j : Nat) : (s.setStl k x).tr j = s.tr j := rfl
@[simp] theorem State.sn_setStl_frame (s : State) (k : Nat) (x : Stall) (j : Nat) : (s.setStl k x).sn j = s.sn j := rfl
@[simp] theorem State.te_setStl_frame (s : State) (k : Nat) (x : Stall) (j : Nat) : (s.setStl k x).te j = s.te j := rfl
@[simp] theorem State.es_setStl_frame (s : State) (k : Nat) (x : Stall) (j : Nat) : (s.setStl k x).es j = s.es j := rfl
@[simp] theorem State.sl_setStl_frame (s : State) (k : Nat) (x : Stall) (j : Nat) : (s.setStl k x).sl j = s.sl j := rfl
@[simp] theorem State.pin_setStl_frame (s : State) (k : Nat) (x : Stall) (j : Nat) : (s.setStl k x).pin j = s.pin j := rfl
@[simp] theorem State.src_setStl_frame (s : State) (k : Nat) (x : Stall) (j : Nat) : (s.setStl k x).src j = s.src j := rfl
@[simp] theorem State.part_setStl_frame (s : State) (k : Nat) (x : Stall) (j : Nat) : (s.setStl k x).part j = s.part j := rfl
@[simp] theorem State.tq_setStl_frame (s : State) (k : Nat) (x : Stall) (j : Nat) : (s.setStl k x).tq j = s.tq j := rfl
@[simp] theorem State.page_setStl_frame (s : State) (k : Nat) (x : Stall) (j : Nat) : (s.setStl k x).page j = s.page j := rfl
@[simp] theorem State.eng_setStl_frame (s : State) (k : Nat) (x : Stall) (j : Nat) : (s.setStl k x).eng j = s.eng j := rfl
@[simp] theorem State.rn_setStl_frame (s : State) (k : Nat) (x : Stall) (j : Nat) : (s.setStl k x).rn j = s.rn j := rfl
@[simp] theorem State.vlv_setStl_frame (s : State) (k : Nat) (x : Stall) (j : Nat) : (s.setStl k x).vlv j = s.vlv j := rfl
@[simp] theorem State.bk_setStl_frame (s : State) (k : Nat) (x : Stall) (j : Nat) : (s.setStl k x).bk j = s.bk j := rfl
@[simp] theorem State.port_setStl_frame (s : State) (k : Nat) (x : Stall) (j : Nat) : (s.setStl k x).port j = s.port j := rfl
@[simp] theorem State.mb_setStl_frame (s : State) (k : Nat) (x : Stall) (j : Nat) : (s.setStl k x).mb j = s.mb j := rfl
@[simp] theorem State.hold_setStl_frame (s : State) (k : Nat) (x : Stall) (j : Nat) : (s.setStl k x).hold j = s.hold j := rfl
@[simp] theorem State.ch_setStl_frame (s : State) (k : Nat) (x : Stall) (j : Nat) : (s.setStl k x).ch j = s.ch j := rfl
@[simp] theorem State.snaps_setStl_frame (s : State) (k : Nat) (x : Stall) : (s.setStl k x).snaps = s.snaps := rfl
@[simp] theorem State.lastRead_setStl_frame (s : State) (k : Nat) (x : Stall) : (s.setStl k x).lastRead = s.lastRead := rfl
@[simp] theorem State.setNow_setStl_frame (s : State) (k : Nat) (x : Stall) : (s.setStl k x).setNow = s.setNow := rfl
@[simp] theorem State.stepped_setStl_frame (s : State) (k : Nat) (x : Stall) : (s.setStl k x).stepped = s.stepped := rfl
@[simp] theorem State.shadow_setStl_frame (s : State) (k : Nat) (x : Stall) : (s.setStl k x).shadow = s.shadow := rfl
@[simp] theorem State.ready_setStl_frame (s : State) (k : Nat) (x : Stall) : (s.setStl k x).ready = s.ready := rfl
@[simp] theorem State.staged_setStl_frame (s : State) (k : Nat) (x : Stall) : (s.setStl k x).staged = s.staged := rfl
@[simp] theorem State.stagedItems_setStl_frame (s : State) (k : Nat) (x : Stall) : (s.setStl k x).stagedItems = s.stagedItems := rfl
@[simp] theorem State.touched_setStl_frame (s : State) (k : Nat) (x : Stall) : (s.setStl k x).touched = s.touched := rfl
@[simp] theorem State.badWords_setStl_frame (s : State) (k : Nat) (x : Stall) : (s.setStl k x).badWords = s.badWords := rfl
@[simp] theorem State.tb_setStl_frame (s : State) (k : Nat) (x : Stall) : (s.setStl k x).tb = s.tb := rfl
@[simp] theorem State.points_setStl_frame (s : State) (k : Nat) (x : Stall) : (s.setStl k x).points = s.points := rfl
@[simp] theorem State.deferred_setStl_frame (s : State) (k : Nat) (x : Stall) : (s.setStl k x).deferred = s.deferred := rfl
@[simp] theorem State.placed_setStl_frame (s : State) (k : Nat) (x : Stall) : (s.setStl k x).placed = s.placed := rfl
@[simp] theorem State.flight_setStl_frame (s : State) (k : Nat) (x : Stall) : (s.setStl k x).flight = s.flight := rfl
@[simp] theorem State.pool_setStl_frame (s : State) (k : Nat) (x : Stall) : (s.setStl k x).pool = s.pool := rfl
@[simp] theorem State.trgWaits_setStl_frame (s : State) (k : Nat) (x : Stall) : (s.setStl k x).trgWaits = s.trgWaits := rfl
@[simp] theorem State.trkUndo_setStl_frame (s : State) (k : Nat) (x : Stall) : (s.setStl k x).trkUndo = s.trkUndo := rfl
@[simp] theorem State.snap_setStl_frame (s : State) (k : Nat) (x : Stall) : (s.setStl k x).snap = s.snap := rfl
@[simp] theorem State.bst_setStl_frame (s : State) (k : Nat) (x : Stall) : (s.setStl k x).bst = s.bst := rfl
@[simp] theorem State.pwr_setStl_frame (s : State) (k : Nat) (x : Stall) : (s.setStl k x).pwr = s.pwr := rfl
@[simp] theorem State.sys_setStl_frame (s : State) (k : Nat) (x : Stall) : (s.setStl k x).sys = s.sys := rfl
@[simp] theorem State.tth_setStl_frame (s : State) (k : Nat) (x : Stall) : (s.setStl k x).tth = s.tth := rfl
@[simp] theorem State.dma_setStl_frame (s : State) (k : Nat) (x : Stall) : (s.setStl k x).dma = s.dma := rfl
@[simp] theorem State.hostOut_setStl_frame (s : State) (k : Nat) (x : Stall) : (s.setStl k x).hostOut = s.hostOut := rfl
@[simp] theorem State.wakeLow_setStl_frame (s : State) (k : Nat) (x : Stall) : (s.setStl k x).wakeLow = s.wakeLow := rfl
@[simp] theorem State.fr_setStl_frame (s : State) (k : Nat) (x : Stall) : (s.setStl k x).fr = s.fr := rfl
@[simp] theorem State.pcie_setStl_frame (s : State) (k : Nat) (x : Stall) : (s.setStl k x).pcie = s.pcie := rfl
@[simp] theorem State.spi_setStl_frame (s : State) (k : Nat) (x : Stall) : (s.setStl k x).spi = s.spi := rfl
@[simp] theorem State.logQ_setStl_frame (s : State) (k : Nat) (x : Stall) : (s.setStl k x).logQ = s.logQ := rfl
@[simp] theorem State.logLost_setStl_frame (s : State) (k : Nat) (x : Stall) : (s.setStl k x).logLost = s.logLost := rfl
@[simp] theorem State.logHold_setStl_frame (s : State) (k : Nat) (x : Stall) : (s.setStl k x).logHold = s.logHold := rfl
@[simp] theorem State.logAt_setStl_frame (s : State) (k : Nat) (x : Stall) : (s.setStl k x).logAt = s.logAt := rfl
@[simp] theorem State.logTell_setStl_frame (s : State) (k : Nat) (x : Stall) : (s.setStl k x).logTell = s.logTell := rfl
@[simp] theorem State.logW_setStl_frame (s : State) (k : Nat) (x : Stall) : (s.setStl k x).logW = s.logW := rfl
@[simp] theorem State.once_setStl_frame (s : State) (k : Nat) (x : Stall) : (s.setStl k x).once = s.once := rfl
@[simp] theorem State.free_setStl_frame (s : State) (k : Nat) (x : Stall) : (s.setStl k x).free = s.free := rfl
@[simp] theorem State.pending_setStl_frame (s : State) (k : Nat) (x : Stall) : (s.setStl k x).pending = s.pending := rfl
@[simp] theorem State.now_setStl_frame (s : State) (k : Nat) (x : Stall) : (s.setStl k x).now = s.now := rfl

/-! ### Frame of setSrc -/

/-- What the table reads after the update. -/
theorem State.src_setSrc (s : State) (k : Nat) (x : Irq) (j : Nat) : (s.setSrc k x).src j = if j = k then x else s.src j :=
  Sparse.get_set _ _ _ _ _

@[simp] theorem State.src_setSrc_same (s : State) (k : Nat) (x : Irq) : (s.setSrc k x).src k = x := Sparse.get_set_same _ _ _ _

@[simp] theorem State.regs_setSrc_frame (s : State) (k : Nat) (x : Irq) : (s.setSrc k x).regs = s.regs := rfl
@[simp] theorem State.rd_setSrc_frame (s : State) (k : Nat) (x : Irq) (b : Nat) : (s.setSrc k x).rd b = s.rd b := rfl
@[simp] theorem State.f_setSrc_frame (s : State) (k : Nat) (x : Irq) (y : Fld) : (s.setSrc k x).f y = s.f y := rfl
@[simp] theorem State.b_setSrc_frame (s : State) (k : Nat) (x : Irq) (y : Fld) : (s.setSrc k x).b y = s.b y := rfl
@[simp] theorem State.tr_setSrc_frame (s : State) (k : Nat) (x : Irq) (j : Nat) : (s.setSrc k x).tr j = s.tr j := rfl
@[simp] theorem State.sn_setSrc_frame (s : State) (k : Nat) (x : Irq) (j : Nat) : (s.setSrc k x).sn j = s.sn j := rfl
@[simp] theorem State.te_setSrc_frame (s : State) (k : Nat) (x : Irq) (j : Nat) : (s.setSrc k x).te j = s.te j := rfl
@[simp] theorem State.es_setSrc_frame (s : State) (k : Nat) (x : Irq) (j : Nat) : (s.setSrc k x).es j = s.es j := rfl
@[simp] theorem State.sl_setSrc_frame (s : State) (k : Nat) (x : Irq) (j : Nat) : (s.setSrc k x).sl j = s.sl j := rfl
@[simp] theorem State.pin_setSrc_frame (s : State) (k : Nat) (x : Irq) (j : Nat) : (s.setSrc k x).pin j = s.pin j := rfl
@[simp] theorem State.stl_setSrc_frame (s : State) (k : Nat) (x : Irq) (j : Nat) : (s.setSrc k x).stl j = s.stl j := rfl
@[simp] theorem State.part_setSrc_frame (s : State) (k : Nat) (x : Irq) (j : Nat) : (s.setSrc k x).part j = s.part j := rfl
@[simp] theorem State.tq_setSrc_frame (s : State) (k : Nat) (x : Irq) (j : Nat) : (s.setSrc k x).tq j = s.tq j := rfl
@[simp] theorem State.page_setSrc_frame (s : State) (k : Nat) (x : Irq) (j : Nat) : (s.setSrc k x).page j = s.page j := rfl
@[simp] theorem State.eng_setSrc_frame (s : State) (k : Nat) (x : Irq) (j : Nat) : (s.setSrc k x).eng j = s.eng j := rfl
@[simp] theorem State.rn_setSrc_frame (s : State) (k : Nat) (x : Irq) (j : Nat) : (s.setSrc k x).rn j = s.rn j := rfl
@[simp] theorem State.vlv_setSrc_frame (s : State) (k : Nat) (x : Irq) (j : Nat) : (s.setSrc k x).vlv j = s.vlv j := rfl
@[simp] theorem State.bk_setSrc_frame (s : State) (k : Nat) (x : Irq) (j : Nat) : (s.setSrc k x).bk j = s.bk j := rfl
@[simp] theorem State.port_setSrc_frame (s : State) (k : Nat) (x : Irq) (j : Nat) : (s.setSrc k x).port j = s.port j := rfl
@[simp] theorem State.mb_setSrc_frame (s : State) (k : Nat) (x : Irq) (j : Nat) : (s.setSrc k x).mb j = s.mb j := rfl
@[simp] theorem State.hold_setSrc_frame (s : State) (k : Nat) (x : Irq) (j : Nat) : (s.setSrc k x).hold j = s.hold j := rfl
@[simp] theorem State.ch_setSrc_frame (s : State) (k : Nat) (x : Irq) (j : Nat) : (s.setSrc k x).ch j = s.ch j := rfl
@[simp] theorem State.snaps_setSrc_frame (s : State) (k : Nat) (x : Irq) : (s.setSrc k x).snaps = s.snaps := rfl
@[simp] theorem State.lastRead_setSrc_frame (s : State) (k : Nat) (x : Irq) : (s.setSrc k x).lastRead = s.lastRead := rfl
@[simp] theorem State.setNow_setSrc_frame (s : State) (k : Nat) (x : Irq) : (s.setSrc k x).setNow = s.setNow := rfl
@[simp] theorem State.stepped_setSrc_frame (s : State) (k : Nat) (x : Irq) : (s.setSrc k x).stepped = s.stepped := rfl
@[simp] theorem State.shadow_setSrc_frame (s : State) (k : Nat) (x : Irq) : (s.setSrc k x).shadow = s.shadow := rfl
@[simp] theorem State.ready_setSrc_frame (s : State) (k : Nat) (x : Irq) : (s.setSrc k x).ready = s.ready := rfl
@[simp] theorem State.staged_setSrc_frame (s : State) (k : Nat) (x : Irq) : (s.setSrc k x).staged = s.staged := rfl
@[simp] theorem State.stagedItems_setSrc_frame (s : State) (k : Nat) (x : Irq) : (s.setSrc k x).stagedItems = s.stagedItems := rfl
@[simp] theorem State.touched_setSrc_frame (s : State) (k : Nat) (x : Irq) : (s.setSrc k x).touched = s.touched := rfl
@[simp] theorem State.badWords_setSrc_frame (s : State) (k : Nat) (x : Irq) : (s.setSrc k x).badWords = s.badWords := rfl
@[simp] theorem State.tb_setSrc_frame (s : State) (k : Nat) (x : Irq) : (s.setSrc k x).tb = s.tb := rfl
@[simp] theorem State.points_setSrc_frame (s : State) (k : Nat) (x : Irq) : (s.setSrc k x).points = s.points := rfl
@[simp] theorem State.deferred_setSrc_frame (s : State) (k : Nat) (x : Irq) : (s.setSrc k x).deferred = s.deferred := rfl
@[simp] theorem State.placed_setSrc_frame (s : State) (k : Nat) (x : Irq) : (s.setSrc k x).placed = s.placed := rfl
@[simp] theorem State.flight_setSrc_frame (s : State) (k : Nat) (x : Irq) : (s.setSrc k x).flight = s.flight := rfl
@[simp] theorem State.pool_setSrc_frame (s : State) (k : Nat) (x : Irq) : (s.setSrc k x).pool = s.pool := rfl
@[simp] theorem State.trgWaits_setSrc_frame (s : State) (k : Nat) (x : Irq) : (s.setSrc k x).trgWaits = s.trgWaits := rfl
@[simp] theorem State.trkUndo_setSrc_frame (s : State) (k : Nat) (x : Irq) : (s.setSrc k x).trkUndo = s.trkUndo := rfl
@[simp] theorem State.snap_setSrc_frame (s : State) (k : Nat) (x : Irq) : (s.setSrc k x).snap = s.snap := rfl
@[simp] theorem State.bst_setSrc_frame (s : State) (k : Nat) (x : Irq) : (s.setSrc k x).bst = s.bst := rfl
@[simp] theorem State.pwr_setSrc_frame (s : State) (k : Nat) (x : Irq) : (s.setSrc k x).pwr = s.pwr := rfl
@[simp] theorem State.sys_setSrc_frame (s : State) (k : Nat) (x : Irq) : (s.setSrc k x).sys = s.sys := rfl
@[simp] theorem State.tth_setSrc_frame (s : State) (k : Nat) (x : Irq) : (s.setSrc k x).tth = s.tth := rfl
@[simp] theorem State.dma_setSrc_frame (s : State) (k : Nat) (x : Irq) : (s.setSrc k x).dma = s.dma := rfl
@[simp] theorem State.hostOut_setSrc_frame (s : State) (k : Nat) (x : Irq) : (s.setSrc k x).hostOut = s.hostOut := rfl
@[simp] theorem State.wakeLow_setSrc_frame (s : State) (k : Nat) (x : Irq) : (s.setSrc k x).wakeLow = s.wakeLow := rfl
@[simp] theorem State.fr_setSrc_frame (s : State) (k : Nat) (x : Irq) : (s.setSrc k x).fr = s.fr := rfl
@[simp] theorem State.pcie_setSrc_frame (s : State) (k : Nat) (x : Irq) : (s.setSrc k x).pcie = s.pcie := rfl
@[simp] theorem State.spi_setSrc_frame (s : State) (k : Nat) (x : Irq) : (s.setSrc k x).spi = s.spi := rfl
@[simp] theorem State.logQ_setSrc_frame (s : State) (k : Nat) (x : Irq) : (s.setSrc k x).logQ = s.logQ := rfl
@[simp] theorem State.logLost_setSrc_frame (s : State) (k : Nat) (x : Irq) : (s.setSrc k x).logLost = s.logLost := rfl
@[simp] theorem State.logHold_setSrc_frame (s : State) (k : Nat) (x : Irq) : (s.setSrc k x).logHold = s.logHold := rfl
@[simp] theorem State.logAt_setSrc_frame (s : State) (k : Nat) (x : Irq) : (s.setSrc k x).logAt = s.logAt := rfl
@[simp] theorem State.logTell_setSrc_frame (s : State) (k : Nat) (x : Irq) : (s.setSrc k x).logTell = s.logTell := rfl
@[simp] theorem State.logW_setSrc_frame (s : State) (k : Nat) (x : Irq) : (s.setSrc k x).logW = s.logW := rfl
@[simp] theorem State.once_setSrc_frame (s : State) (k : Nat) (x : Irq) : (s.setSrc k x).once = s.once := rfl
@[simp] theorem State.free_setSrc_frame (s : State) (k : Nat) (x : Irq) : (s.setSrc k x).free = s.free := rfl
@[simp] theorem State.pending_setSrc_frame (s : State) (k : Nat) (x : Irq) : (s.setSrc k x).pending = s.pending := rfl
@[simp] theorem State.now_setSrc_frame (s : State) (k : Nat) (x : Irq) : (s.setSrc k x).now = s.now := rfl

/-! ### Frame of setPart -/

/-- What the table reads after the update. -/
theorem State.part_setPart (s : State) (k : Nat) (x : Part) (j : Nat) : (s.setPart k x).part j = if j = k then x else s.part j :=
  Sparse.get_set _ _ _ _ _

@[simp] theorem State.part_setPart_same (s : State) (k : Nat) (x : Part) : (s.setPart k x).part k = x := Sparse.get_set_same _ _ _ _

@[simp] theorem State.regs_setPart_frame (s : State) (k : Nat) (x : Part) : (s.setPart k x).regs = s.regs := rfl
@[simp] theorem State.rd_setPart_frame (s : State) (k : Nat) (x : Part) (b : Nat) : (s.setPart k x).rd b = s.rd b := rfl
@[simp] theorem State.f_setPart_frame (s : State) (k : Nat) (x : Part) (y : Fld) : (s.setPart k x).f y = s.f y := rfl
@[simp] theorem State.b_setPart_frame (s : State) (k : Nat) (x : Part) (y : Fld) : (s.setPart k x).b y = s.b y := rfl
@[simp] theorem State.tr_setPart_frame (s : State) (k : Nat) (x : Part) (j : Nat) : (s.setPart k x).tr j = s.tr j := rfl
@[simp] theorem State.sn_setPart_frame (s : State) (k : Nat) (x : Part) (j : Nat) : (s.setPart k x).sn j = s.sn j := rfl
@[simp] theorem State.te_setPart_frame (s : State) (k : Nat) (x : Part) (j : Nat) : (s.setPart k x).te j = s.te j := rfl
@[simp] theorem State.es_setPart_frame (s : State) (k : Nat) (x : Part) (j : Nat) : (s.setPart k x).es j = s.es j := rfl
@[simp] theorem State.sl_setPart_frame (s : State) (k : Nat) (x : Part) (j : Nat) : (s.setPart k x).sl j = s.sl j := rfl
@[simp] theorem State.pin_setPart_frame (s : State) (k : Nat) (x : Part) (j : Nat) : (s.setPart k x).pin j = s.pin j := rfl
@[simp] theorem State.stl_setPart_frame (s : State) (k : Nat) (x : Part) (j : Nat) : (s.setPart k x).stl j = s.stl j := rfl
@[simp] theorem State.src_setPart_frame (s : State) (k : Nat) (x : Part) (j : Nat) : (s.setPart k x).src j = s.src j := rfl
@[simp] theorem State.tq_setPart_frame (s : State) (k : Nat) (x : Part) (j : Nat) : (s.setPart k x).tq j = s.tq j := rfl
@[simp] theorem State.page_setPart_frame (s : State) (k : Nat) (x : Part) (j : Nat) : (s.setPart k x).page j = s.page j := rfl
@[simp] theorem State.eng_setPart_frame (s : State) (k : Nat) (x : Part) (j : Nat) : (s.setPart k x).eng j = s.eng j := rfl
@[simp] theorem State.rn_setPart_frame (s : State) (k : Nat) (x : Part) (j : Nat) : (s.setPart k x).rn j = s.rn j := rfl
@[simp] theorem State.vlv_setPart_frame (s : State) (k : Nat) (x : Part) (j : Nat) : (s.setPart k x).vlv j = s.vlv j := rfl
@[simp] theorem State.bk_setPart_frame (s : State) (k : Nat) (x : Part) (j : Nat) : (s.setPart k x).bk j = s.bk j := rfl
@[simp] theorem State.port_setPart_frame (s : State) (k : Nat) (x : Part) (j : Nat) : (s.setPart k x).port j = s.port j := rfl
@[simp] theorem State.mb_setPart_frame (s : State) (k : Nat) (x : Part) (j : Nat) : (s.setPart k x).mb j = s.mb j := rfl
@[simp] theorem State.hold_setPart_frame (s : State) (k : Nat) (x : Part) (j : Nat) : (s.setPart k x).hold j = s.hold j := rfl
@[simp] theorem State.ch_setPart_frame (s : State) (k : Nat) (x : Part) (j : Nat) : (s.setPart k x).ch j = s.ch j := rfl
@[simp] theorem State.snaps_setPart_frame (s : State) (k : Nat) (x : Part) : (s.setPart k x).snaps = s.snaps := rfl
@[simp] theorem State.lastRead_setPart_frame (s : State) (k : Nat) (x : Part) : (s.setPart k x).lastRead = s.lastRead := rfl
@[simp] theorem State.setNow_setPart_frame (s : State) (k : Nat) (x : Part) : (s.setPart k x).setNow = s.setNow := rfl
@[simp] theorem State.stepped_setPart_frame (s : State) (k : Nat) (x : Part) : (s.setPart k x).stepped = s.stepped := rfl
@[simp] theorem State.shadow_setPart_frame (s : State) (k : Nat) (x : Part) : (s.setPart k x).shadow = s.shadow := rfl
@[simp] theorem State.ready_setPart_frame (s : State) (k : Nat) (x : Part) : (s.setPart k x).ready = s.ready := rfl
@[simp] theorem State.staged_setPart_frame (s : State) (k : Nat) (x : Part) : (s.setPart k x).staged = s.staged := rfl
@[simp] theorem State.stagedItems_setPart_frame (s : State) (k : Nat) (x : Part) : (s.setPart k x).stagedItems = s.stagedItems := rfl
@[simp] theorem State.touched_setPart_frame (s : State) (k : Nat) (x : Part) : (s.setPart k x).touched = s.touched := rfl
@[simp] theorem State.badWords_setPart_frame (s : State) (k : Nat) (x : Part) : (s.setPart k x).badWords = s.badWords := rfl
@[simp] theorem State.tb_setPart_frame (s : State) (k : Nat) (x : Part) : (s.setPart k x).tb = s.tb := rfl
@[simp] theorem State.points_setPart_frame (s : State) (k : Nat) (x : Part) : (s.setPart k x).points = s.points := rfl
@[simp] theorem State.deferred_setPart_frame (s : State) (k : Nat) (x : Part) : (s.setPart k x).deferred = s.deferred := rfl
@[simp] theorem State.placed_setPart_frame (s : State) (k : Nat) (x : Part) : (s.setPart k x).placed = s.placed := rfl
@[simp] theorem State.flight_setPart_frame (s : State) (k : Nat) (x : Part) : (s.setPart k x).flight = s.flight := rfl
@[simp] theorem State.pool_setPart_frame (s : State) (k : Nat) (x : Part) : (s.setPart k x).pool = s.pool := rfl
@[simp] theorem State.trgWaits_setPart_frame (s : State) (k : Nat) (x : Part) : (s.setPart k x).trgWaits = s.trgWaits := rfl
@[simp] theorem State.trkUndo_setPart_frame (s : State) (k : Nat) (x : Part) : (s.setPart k x).trkUndo = s.trkUndo := rfl
@[simp] theorem State.snap_setPart_frame (s : State) (k : Nat) (x : Part) : (s.setPart k x).snap = s.snap := rfl
@[simp] theorem State.bst_setPart_frame (s : State) (k : Nat) (x : Part) : (s.setPart k x).bst = s.bst := rfl
@[simp] theorem State.pwr_setPart_frame (s : State) (k : Nat) (x : Part) : (s.setPart k x).pwr = s.pwr := rfl
@[simp] theorem State.sys_setPart_frame (s : State) (k : Nat) (x : Part) : (s.setPart k x).sys = s.sys := rfl
@[simp] theorem State.tth_setPart_frame (s : State) (k : Nat) (x : Part) : (s.setPart k x).tth = s.tth := rfl
@[simp] theorem State.dma_setPart_frame (s : State) (k : Nat) (x : Part) : (s.setPart k x).dma = s.dma := rfl
@[simp] theorem State.hostOut_setPart_frame (s : State) (k : Nat) (x : Part) : (s.setPart k x).hostOut = s.hostOut := rfl
@[simp] theorem State.wakeLow_setPart_frame (s : State) (k : Nat) (x : Part) : (s.setPart k x).wakeLow = s.wakeLow := rfl
@[simp] theorem State.fr_setPart_frame (s : State) (k : Nat) (x : Part) : (s.setPart k x).fr = s.fr := rfl
@[simp] theorem State.pcie_setPart_frame (s : State) (k : Nat) (x : Part) : (s.setPart k x).pcie = s.pcie := rfl
@[simp] theorem State.spi_setPart_frame (s : State) (k : Nat) (x : Part) : (s.setPart k x).spi = s.spi := rfl
@[simp] theorem State.logQ_setPart_frame (s : State) (k : Nat) (x : Part) : (s.setPart k x).logQ = s.logQ := rfl
@[simp] theorem State.logLost_setPart_frame (s : State) (k : Nat) (x : Part) : (s.setPart k x).logLost = s.logLost := rfl
@[simp] theorem State.logHold_setPart_frame (s : State) (k : Nat) (x : Part) : (s.setPart k x).logHold = s.logHold := rfl
@[simp] theorem State.logAt_setPart_frame (s : State) (k : Nat) (x : Part) : (s.setPart k x).logAt = s.logAt := rfl
@[simp] theorem State.logTell_setPart_frame (s : State) (k : Nat) (x : Part) : (s.setPart k x).logTell = s.logTell := rfl
@[simp] theorem State.logW_setPart_frame (s : State) (k : Nat) (x : Part) : (s.setPart k x).logW = s.logW := rfl
@[simp] theorem State.once_setPart_frame (s : State) (k : Nat) (x : Part) : (s.setPart k x).once = s.once := rfl
@[simp] theorem State.free_setPart_frame (s : State) (k : Nat) (x : Part) : (s.setPart k x).free = s.free := rfl
@[simp] theorem State.pending_setPart_frame (s : State) (k : Nat) (x : Part) : (s.setPart k x).pending = s.pending := rfl
@[simp] theorem State.now_setPart_frame (s : State) (k : Nat) (x : Part) : (s.setPart k x).now = s.now := rfl

/-! ### Frame of setTq -/

/-- What the table reads after the update. -/
theorem State.tq_setTq (s : State) (k : Nat) (x : Trough) (j : Nat) : (s.setTq k x).tq j = if j = k then x else s.tq j :=
  Sparse.get_set _ _ _ _ _

@[simp] theorem State.tq_setTq_same (s : State) (k : Nat) (x : Trough) : (s.setTq k x).tq k = x := Sparse.get_set_same _ _ _ _

@[simp] theorem State.regs_setTq_frame (s : State) (k : Nat) (x : Trough) : (s.setTq k x).regs = s.regs := rfl
@[simp] theorem State.rd_setTq_frame (s : State) (k : Nat) (x : Trough) (b : Nat) : (s.setTq k x).rd b = s.rd b := rfl
@[simp] theorem State.f_setTq_frame (s : State) (k : Nat) (x : Trough) (y : Fld) : (s.setTq k x).f y = s.f y := rfl
@[simp] theorem State.b_setTq_frame (s : State) (k : Nat) (x : Trough) (y : Fld) : (s.setTq k x).b y = s.b y := rfl
@[simp] theorem State.tr_setTq_frame (s : State) (k : Nat) (x : Trough) (j : Nat) : (s.setTq k x).tr j = s.tr j := rfl
@[simp] theorem State.sn_setTq_frame (s : State) (k : Nat) (x : Trough) (j : Nat) : (s.setTq k x).sn j = s.sn j := rfl
@[simp] theorem State.te_setTq_frame (s : State) (k : Nat) (x : Trough) (j : Nat) : (s.setTq k x).te j = s.te j := rfl
@[simp] theorem State.es_setTq_frame (s : State) (k : Nat) (x : Trough) (j : Nat) : (s.setTq k x).es j = s.es j := rfl
@[simp] theorem State.sl_setTq_frame (s : State) (k : Nat) (x : Trough) (j : Nat) : (s.setTq k x).sl j = s.sl j := rfl
@[simp] theorem State.pin_setTq_frame (s : State) (k : Nat) (x : Trough) (j : Nat) : (s.setTq k x).pin j = s.pin j := rfl
@[simp] theorem State.stl_setTq_frame (s : State) (k : Nat) (x : Trough) (j : Nat) : (s.setTq k x).stl j = s.stl j := rfl
@[simp] theorem State.src_setTq_frame (s : State) (k : Nat) (x : Trough) (j : Nat) : (s.setTq k x).src j = s.src j := rfl
@[simp] theorem State.part_setTq_frame (s : State) (k : Nat) (x : Trough) (j : Nat) : (s.setTq k x).part j = s.part j := rfl
@[simp] theorem State.page_setTq_frame (s : State) (k : Nat) (x : Trough) (j : Nat) : (s.setTq k x).page j = s.page j := rfl
@[simp] theorem State.eng_setTq_frame (s : State) (k : Nat) (x : Trough) (j : Nat) : (s.setTq k x).eng j = s.eng j := rfl
@[simp] theorem State.rn_setTq_frame (s : State) (k : Nat) (x : Trough) (j : Nat) : (s.setTq k x).rn j = s.rn j := rfl
@[simp] theorem State.vlv_setTq_frame (s : State) (k : Nat) (x : Trough) (j : Nat) : (s.setTq k x).vlv j = s.vlv j := rfl
@[simp] theorem State.bk_setTq_frame (s : State) (k : Nat) (x : Trough) (j : Nat) : (s.setTq k x).bk j = s.bk j := rfl
@[simp] theorem State.port_setTq_frame (s : State) (k : Nat) (x : Trough) (j : Nat) : (s.setTq k x).port j = s.port j := rfl
@[simp] theorem State.mb_setTq_frame (s : State) (k : Nat) (x : Trough) (j : Nat) : (s.setTq k x).mb j = s.mb j := rfl
@[simp] theorem State.hold_setTq_frame (s : State) (k : Nat) (x : Trough) (j : Nat) : (s.setTq k x).hold j = s.hold j := rfl
@[simp] theorem State.ch_setTq_frame (s : State) (k : Nat) (x : Trough) (j : Nat) : (s.setTq k x).ch j = s.ch j := rfl
@[simp] theorem State.snaps_setTq_frame (s : State) (k : Nat) (x : Trough) : (s.setTq k x).snaps = s.snaps := rfl
@[simp] theorem State.lastRead_setTq_frame (s : State) (k : Nat) (x : Trough) : (s.setTq k x).lastRead = s.lastRead := rfl
@[simp] theorem State.setNow_setTq_frame (s : State) (k : Nat) (x : Trough) : (s.setTq k x).setNow = s.setNow := rfl
@[simp] theorem State.stepped_setTq_frame (s : State) (k : Nat) (x : Trough) : (s.setTq k x).stepped = s.stepped := rfl
@[simp] theorem State.shadow_setTq_frame (s : State) (k : Nat) (x : Trough) : (s.setTq k x).shadow = s.shadow := rfl
@[simp] theorem State.ready_setTq_frame (s : State) (k : Nat) (x : Trough) : (s.setTq k x).ready = s.ready := rfl
@[simp] theorem State.staged_setTq_frame (s : State) (k : Nat) (x : Trough) : (s.setTq k x).staged = s.staged := rfl
@[simp] theorem State.stagedItems_setTq_frame (s : State) (k : Nat) (x : Trough) : (s.setTq k x).stagedItems = s.stagedItems := rfl
@[simp] theorem State.touched_setTq_frame (s : State) (k : Nat) (x : Trough) : (s.setTq k x).touched = s.touched := rfl
@[simp] theorem State.badWords_setTq_frame (s : State) (k : Nat) (x : Trough) : (s.setTq k x).badWords = s.badWords := rfl
@[simp] theorem State.tb_setTq_frame (s : State) (k : Nat) (x : Trough) : (s.setTq k x).tb = s.tb := rfl
@[simp] theorem State.points_setTq_frame (s : State) (k : Nat) (x : Trough) : (s.setTq k x).points = s.points := rfl
@[simp] theorem State.deferred_setTq_frame (s : State) (k : Nat) (x : Trough) : (s.setTq k x).deferred = s.deferred := rfl
@[simp] theorem State.placed_setTq_frame (s : State) (k : Nat) (x : Trough) : (s.setTq k x).placed = s.placed := rfl
@[simp] theorem State.flight_setTq_frame (s : State) (k : Nat) (x : Trough) : (s.setTq k x).flight = s.flight := rfl
@[simp] theorem State.pool_setTq_frame (s : State) (k : Nat) (x : Trough) : (s.setTq k x).pool = s.pool := rfl
@[simp] theorem State.trgWaits_setTq_frame (s : State) (k : Nat) (x : Trough) : (s.setTq k x).trgWaits = s.trgWaits := rfl
@[simp] theorem State.trkUndo_setTq_frame (s : State) (k : Nat) (x : Trough) : (s.setTq k x).trkUndo = s.trkUndo := rfl
@[simp] theorem State.snap_setTq_frame (s : State) (k : Nat) (x : Trough) : (s.setTq k x).snap = s.snap := rfl
@[simp] theorem State.bst_setTq_frame (s : State) (k : Nat) (x : Trough) : (s.setTq k x).bst = s.bst := rfl
@[simp] theorem State.pwr_setTq_frame (s : State) (k : Nat) (x : Trough) : (s.setTq k x).pwr = s.pwr := rfl
@[simp] theorem State.sys_setTq_frame (s : State) (k : Nat) (x : Trough) : (s.setTq k x).sys = s.sys := rfl
@[simp] theorem State.tth_setTq_frame (s : State) (k : Nat) (x : Trough) : (s.setTq k x).tth = s.tth := rfl
@[simp] theorem State.dma_setTq_frame (s : State) (k : Nat) (x : Trough) : (s.setTq k x).dma = s.dma := rfl
@[simp] theorem State.hostOut_setTq_frame (s : State) (k : Nat) (x : Trough) : (s.setTq k x).hostOut = s.hostOut := rfl
@[simp] theorem State.wakeLow_setTq_frame (s : State) (k : Nat) (x : Trough) : (s.setTq k x).wakeLow = s.wakeLow := rfl
@[simp] theorem State.fr_setTq_frame (s : State) (k : Nat) (x : Trough) : (s.setTq k x).fr = s.fr := rfl
@[simp] theorem State.pcie_setTq_frame (s : State) (k : Nat) (x : Trough) : (s.setTq k x).pcie = s.pcie := rfl
@[simp] theorem State.spi_setTq_frame (s : State) (k : Nat) (x : Trough) : (s.setTq k x).spi = s.spi := rfl
@[simp] theorem State.logQ_setTq_frame (s : State) (k : Nat) (x : Trough) : (s.setTq k x).logQ = s.logQ := rfl
@[simp] theorem State.logLost_setTq_frame (s : State) (k : Nat) (x : Trough) : (s.setTq k x).logLost = s.logLost := rfl
@[simp] theorem State.logHold_setTq_frame (s : State) (k : Nat) (x : Trough) : (s.setTq k x).logHold = s.logHold := rfl
@[simp] theorem State.logAt_setTq_frame (s : State) (k : Nat) (x : Trough) : (s.setTq k x).logAt = s.logAt := rfl
@[simp] theorem State.logTell_setTq_frame (s : State) (k : Nat) (x : Trough) : (s.setTq k x).logTell = s.logTell := rfl
@[simp] theorem State.logW_setTq_frame (s : State) (k : Nat) (x : Trough) : (s.setTq k x).logW = s.logW := rfl
@[simp] theorem State.once_setTq_frame (s : State) (k : Nat) (x : Trough) : (s.setTq k x).once = s.once := rfl
@[simp] theorem State.free_setTq_frame (s : State) (k : Nat) (x : Trough) : (s.setTq k x).free = s.free := rfl
@[simp] theorem State.pending_setTq_frame (s : State) (k : Nat) (x : Trough) : (s.setTq k x).pending = s.pending := rfl
@[simp] theorem State.now_setTq_frame (s : State) (k : Nat) (x : Trough) : (s.setTq k x).now = s.now := rfl

/-! ### Frame of setPage -/

/-- What the table reads after the update. -/
theorem State.page_setPage (s : State) (k : Nat) (x : Page) (j : Nat) : (s.setPage k x).page j = if j = k then x else s.page j :=
  Sparse.get_set _ _ _ _ _

@[simp] theorem State.page_setPage_same (s : State) (k : Nat) (x : Page) : (s.setPage k x).page k = x := Sparse.get_set_same _ _ _ _

@[simp] theorem State.regs_setPage_frame (s : State) (k : Nat) (x : Page) : (s.setPage k x).regs = s.regs := rfl
@[simp] theorem State.rd_setPage_frame (s : State) (k : Nat) (x : Page) (b : Nat) : (s.setPage k x).rd b = s.rd b := rfl
@[simp] theorem State.f_setPage_frame (s : State) (k : Nat) (x : Page) (y : Fld) : (s.setPage k x).f y = s.f y := rfl
@[simp] theorem State.b_setPage_frame (s : State) (k : Nat) (x : Page) (y : Fld) : (s.setPage k x).b y = s.b y := rfl
@[simp] theorem State.tr_setPage_frame (s : State) (k : Nat) (x : Page) (j : Nat) : (s.setPage k x).tr j = s.tr j := rfl
@[simp] theorem State.sn_setPage_frame (s : State) (k : Nat) (x : Page) (j : Nat) : (s.setPage k x).sn j = s.sn j := rfl
@[simp] theorem State.te_setPage_frame (s : State) (k : Nat) (x : Page) (j : Nat) : (s.setPage k x).te j = s.te j := rfl
@[simp] theorem State.es_setPage_frame (s : State) (k : Nat) (x : Page) (j : Nat) : (s.setPage k x).es j = s.es j := rfl
@[simp] theorem State.sl_setPage_frame (s : State) (k : Nat) (x : Page) (j : Nat) : (s.setPage k x).sl j = s.sl j := rfl
@[simp] theorem State.pin_setPage_frame (s : State) (k : Nat) (x : Page) (j : Nat) : (s.setPage k x).pin j = s.pin j := rfl
@[simp] theorem State.stl_setPage_frame (s : State) (k : Nat) (x : Page) (j : Nat) : (s.setPage k x).stl j = s.stl j := rfl
@[simp] theorem State.src_setPage_frame (s : State) (k : Nat) (x : Page) (j : Nat) : (s.setPage k x).src j = s.src j := rfl
@[simp] theorem State.part_setPage_frame (s : State) (k : Nat) (x : Page) (j : Nat) : (s.setPage k x).part j = s.part j := rfl
@[simp] theorem State.tq_setPage_frame (s : State) (k : Nat) (x : Page) (j : Nat) : (s.setPage k x).tq j = s.tq j := rfl
@[simp] theorem State.eng_setPage_frame (s : State) (k : Nat) (x : Page) (j : Nat) : (s.setPage k x).eng j = s.eng j := rfl
@[simp] theorem State.rn_setPage_frame (s : State) (k : Nat) (x : Page) (j : Nat) : (s.setPage k x).rn j = s.rn j := rfl
@[simp] theorem State.vlv_setPage_frame (s : State) (k : Nat) (x : Page) (j : Nat) : (s.setPage k x).vlv j = s.vlv j := rfl
@[simp] theorem State.bk_setPage_frame (s : State) (k : Nat) (x : Page) (j : Nat) : (s.setPage k x).bk j = s.bk j := rfl
@[simp] theorem State.port_setPage_frame (s : State) (k : Nat) (x : Page) (j : Nat) : (s.setPage k x).port j = s.port j := rfl
@[simp] theorem State.mb_setPage_frame (s : State) (k : Nat) (x : Page) (j : Nat) : (s.setPage k x).mb j = s.mb j := rfl
@[simp] theorem State.hold_setPage_frame (s : State) (k : Nat) (x : Page) (j : Nat) : (s.setPage k x).hold j = s.hold j := rfl
@[simp] theorem State.ch_setPage_frame (s : State) (k : Nat) (x : Page) (j : Nat) : (s.setPage k x).ch j = s.ch j := rfl
@[simp] theorem State.snaps_setPage_frame (s : State) (k : Nat) (x : Page) : (s.setPage k x).snaps = s.snaps := rfl
@[simp] theorem State.lastRead_setPage_frame (s : State) (k : Nat) (x : Page) : (s.setPage k x).lastRead = s.lastRead := rfl
@[simp] theorem State.setNow_setPage_frame (s : State) (k : Nat) (x : Page) : (s.setPage k x).setNow = s.setNow := rfl
@[simp] theorem State.stepped_setPage_frame (s : State) (k : Nat) (x : Page) : (s.setPage k x).stepped = s.stepped := rfl
@[simp] theorem State.shadow_setPage_frame (s : State) (k : Nat) (x : Page) : (s.setPage k x).shadow = s.shadow := rfl
@[simp] theorem State.ready_setPage_frame (s : State) (k : Nat) (x : Page) : (s.setPage k x).ready = s.ready := rfl
@[simp] theorem State.staged_setPage_frame (s : State) (k : Nat) (x : Page) : (s.setPage k x).staged = s.staged := rfl
@[simp] theorem State.stagedItems_setPage_frame (s : State) (k : Nat) (x : Page) : (s.setPage k x).stagedItems = s.stagedItems := rfl
@[simp] theorem State.touched_setPage_frame (s : State) (k : Nat) (x : Page) : (s.setPage k x).touched = s.touched := rfl
@[simp] theorem State.badWords_setPage_frame (s : State) (k : Nat) (x : Page) : (s.setPage k x).badWords = s.badWords := rfl
@[simp] theorem State.tb_setPage_frame (s : State) (k : Nat) (x : Page) : (s.setPage k x).tb = s.tb := rfl
@[simp] theorem State.points_setPage_frame (s : State) (k : Nat) (x : Page) : (s.setPage k x).points = s.points := rfl
@[simp] theorem State.deferred_setPage_frame (s : State) (k : Nat) (x : Page) : (s.setPage k x).deferred = s.deferred := rfl
@[simp] theorem State.placed_setPage_frame (s : State) (k : Nat) (x : Page) : (s.setPage k x).placed = s.placed := rfl
@[simp] theorem State.flight_setPage_frame (s : State) (k : Nat) (x : Page) : (s.setPage k x).flight = s.flight := rfl
@[simp] theorem State.pool_setPage_frame (s : State) (k : Nat) (x : Page) : (s.setPage k x).pool = s.pool := rfl
@[simp] theorem State.trgWaits_setPage_frame (s : State) (k : Nat) (x : Page) : (s.setPage k x).trgWaits = s.trgWaits := rfl
@[simp] theorem State.trkUndo_setPage_frame (s : State) (k : Nat) (x : Page) : (s.setPage k x).trkUndo = s.trkUndo := rfl
@[simp] theorem State.snap_setPage_frame (s : State) (k : Nat) (x : Page) : (s.setPage k x).snap = s.snap := rfl
@[simp] theorem State.bst_setPage_frame (s : State) (k : Nat) (x : Page) : (s.setPage k x).bst = s.bst := rfl
@[simp] theorem State.pwr_setPage_frame (s : State) (k : Nat) (x : Page) : (s.setPage k x).pwr = s.pwr := rfl
@[simp] theorem State.sys_setPage_frame (s : State) (k : Nat) (x : Page) : (s.setPage k x).sys = s.sys := rfl
@[simp] theorem State.tth_setPage_frame (s : State) (k : Nat) (x : Page) : (s.setPage k x).tth = s.tth := rfl
@[simp] theorem State.dma_setPage_frame (s : State) (k : Nat) (x : Page) : (s.setPage k x).dma = s.dma := rfl
@[simp] theorem State.hostOut_setPage_frame (s : State) (k : Nat) (x : Page) : (s.setPage k x).hostOut = s.hostOut := rfl
@[simp] theorem State.wakeLow_setPage_frame (s : State) (k : Nat) (x : Page) : (s.setPage k x).wakeLow = s.wakeLow := rfl
@[simp] theorem State.fr_setPage_frame (s : State) (k : Nat) (x : Page) : (s.setPage k x).fr = s.fr := rfl
@[simp] theorem State.pcie_setPage_frame (s : State) (k : Nat) (x : Page) : (s.setPage k x).pcie = s.pcie := rfl
@[simp] theorem State.spi_setPage_frame (s : State) (k : Nat) (x : Page) : (s.setPage k x).spi = s.spi := rfl
@[simp] theorem State.logQ_setPage_frame (s : State) (k : Nat) (x : Page) : (s.setPage k x).logQ = s.logQ := rfl
@[simp] theorem State.logLost_setPage_frame (s : State) (k : Nat) (x : Page) : (s.setPage k x).logLost = s.logLost := rfl
@[simp] theorem State.logHold_setPage_frame (s : State) (k : Nat) (x : Page) : (s.setPage k x).logHold = s.logHold := rfl
@[simp] theorem State.logAt_setPage_frame (s : State) (k : Nat) (x : Page) : (s.setPage k x).logAt = s.logAt := rfl
@[simp] theorem State.logTell_setPage_frame (s : State) (k : Nat) (x : Page) : (s.setPage k x).logTell = s.logTell := rfl
@[simp] theorem State.logW_setPage_frame (s : State) (k : Nat) (x : Page) : (s.setPage k x).logW = s.logW := rfl
@[simp] theorem State.once_setPage_frame (s : State) (k : Nat) (x : Page) : (s.setPage k x).once = s.once := rfl
@[simp] theorem State.free_setPage_frame (s : State) (k : Nat) (x : Page) : (s.setPage k x).free = s.free := rfl
@[simp] theorem State.pending_setPage_frame (s : State) (k : Nat) (x : Page) : (s.setPage k x).pending = s.pending := rfl
@[simp] theorem State.now_setPage_frame (s : State) (k : Nat) (x : Page) : (s.setPage k x).now = s.now := rfl

/-! ### Frame of setEng -/

/-- What the table reads after the update. -/
theorem State.eng_setEng (s : State) (k : Nat) (x : Eng) (j : Nat) : (s.setEng k x).eng j = if j = k then x else s.eng j :=
  Sparse.get_set _ _ _ _ _

@[simp] theorem State.eng_setEng_same (s : State) (k : Nat) (x : Eng) : (s.setEng k x).eng k = x := Sparse.get_set_same _ _ _ _

@[simp] theorem State.regs_setEng_frame (s : State) (k : Nat) (x : Eng) : (s.setEng k x).regs = s.regs := rfl
@[simp] theorem State.rd_setEng_frame (s : State) (k : Nat) (x : Eng) (b : Nat) : (s.setEng k x).rd b = s.rd b := rfl
@[simp] theorem State.f_setEng_frame (s : State) (k : Nat) (x : Eng) (y : Fld) : (s.setEng k x).f y = s.f y := rfl
@[simp] theorem State.b_setEng_frame (s : State) (k : Nat) (x : Eng) (y : Fld) : (s.setEng k x).b y = s.b y := rfl
@[simp] theorem State.tr_setEng_frame (s : State) (k : Nat) (x : Eng) (j : Nat) : (s.setEng k x).tr j = s.tr j := rfl
@[simp] theorem State.sn_setEng_frame (s : State) (k : Nat) (x : Eng) (j : Nat) : (s.setEng k x).sn j = s.sn j := rfl
@[simp] theorem State.te_setEng_frame (s : State) (k : Nat) (x : Eng) (j : Nat) : (s.setEng k x).te j = s.te j := rfl
@[simp] theorem State.es_setEng_frame (s : State) (k : Nat) (x : Eng) (j : Nat) : (s.setEng k x).es j = s.es j := rfl
@[simp] theorem State.sl_setEng_frame (s : State) (k : Nat) (x : Eng) (j : Nat) : (s.setEng k x).sl j = s.sl j := rfl
@[simp] theorem State.pin_setEng_frame (s : State) (k : Nat) (x : Eng) (j : Nat) : (s.setEng k x).pin j = s.pin j := rfl
@[simp] theorem State.stl_setEng_frame (s : State) (k : Nat) (x : Eng) (j : Nat) : (s.setEng k x).stl j = s.stl j := rfl
@[simp] theorem State.src_setEng_frame (s : State) (k : Nat) (x : Eng) (j : Nat) : (s.setEng k x).src j = s.src j := rfl
@[simp] theorem State.part_setEng_frame (s : State) (k : Nat) (x : Eng) (j : Nat) : (s.setEng k x).part j = s.part j := rfl
@[simp] theorem State.tq_setEng_frame (s : State) (k : Nat) (x : Eng) (j : Nat) : (s.setEng k x).tq j = s.tq j := rfl
@[simp] theorem State.page_setEng_frame (s : State) (k : Nat) (x : Eng) (j : Nat) : (s.setEng k x).page j = s.page j := rfl
@[simp] theorem State.rn_setEng_frame (s : State) (k : Nat) (x : Eng) (j : Nat) : (s.setEng k x).rn j = s.rn j := rfl
@[simp] theorem State.vlv_setEng_frame (s : State) (k : Nat) (x : Eng) (j : Nat) : (s.setEng k x).vlv j = s.vlv j := rfl
@[simp] theorem State.bk_setEng_frame (s : State) (k : Nat) (x : Eng) (j : Nat) : (s.setEng k x).bk j = s.bk j := rfl
@[simp] theorem State.port_setEng_frame (s : State) (k : Nat) (x : Eng) (j : Nat) : (s.setEng k x).port j = s.port j := rfl
@[simp] theorem State.mb_setEng_frame (s : State) (k : Nat) (x : Eng) (j : Nat) : (s.setEng k x).mb j = s.mb j := rfl
@[simp] theorem State.hold_setEng_frame (s : State) (k : Nat) (x : Eng) (j : Nat) : (s.setEng k x).hold j = s.hold j := rfl
@[simp] theorem State.ch_setEng_frame (s : State) (k : Nat) (x : Eng) (j : Nat) : (s.setEng k x).ch j = s.ch j := rfl
@[simp] theorem State.snaps_setEng_frame (s : State) (k : Nat) (x : Eng) : (s.setEng k x).snaps = s.snaps := rfl
@[simp] theorem State.lastRead_setEng_frame (s : State) (k : Nat) (x : Eng) : (s.setEng k x).lastRead = s.lastRead := rfl
@[simp] theorem State.setNow_setEng_frame (s : State) (k : Nat) (x : Eng) : (s.setEng k x).setNow = s.setNow := rfl
@[simp] theorem State.stepped_setEng_frame (s : State) (k : Nat) (x : Eng) : (s.setEng k x).stepped = s.stepped := rfl
@[simp] theorem State.shadow_setEng_frame (s : State) (k : Nat) (x : Eng) : (s.setEng k x).shadow = s.shadow := rfl
@[simp] theorem State.ready_setEng_frame (s : State) (k : Nat) (x : Eng) : (s.setEng k x).ready = s.ready := rfl
@[simp] theorem State.staged_setEng_frame (s : State) (k : Nat) (x : Eng) : (s.setEng k x).staged = s.staged := rfl
@[simp] theorem State.stagedItems_setEng_frame (s : State) (k : Nat) (x : Eng) : (s.setEng k x).stagedItems = s.stagedItems := rfl
@[simp] theorem State.touched_setEng_frame (s : State) (k : Nat) (x : Eng) : (s.setEng k x).touched = s.touched := rfl
@[simp] theorem State.badWords_setEng_frame (s : State) (k : Nat) (x : Eng) : (s.setEng k x).badWords = s.badWords := rfl
@[simp] theorem State.tb_setEng_frame (s : State) (k : Nat) (x : Eng) : (s.setEng k x).tb = s.tb := rfl
@[simp] theorem State.points_setEng_frame (s : State) (k : Nat) (x : Eng) : (s.setEng k x).points = s.points := rfl
@[simp] theorem State.deferred_setEng_frame (s : State) (k : Nat) (x : Eng) : (s.setEng k x).deferred = s.deferred := rfl
@[simp] theorem State.placed_setEng_frame (s : State) (k : Nat) (x : Eng) : (s.setEng k x).placed = s.placed := rfl
@[simp] theorem State.flight_setEng_frame (s : State) (k : Nat) (x : Eng) : (s.setEng k x).flight = s.flight := rfl
@[simp] theorem State.pool_setEng_frame (s : State) (k : Nat) (x : Eng) : (s.setEng k x).pool = s.pool := rfl
@[simp] theorem State.trgWaits_setEng_frame (s : State) (k : Nat) (x : Eng) : (s.setEng k x).trgWaits = s.trgWaits := rfl
@[simp] theorem State.trkUndo_setEng_frame (s : State) (k : Nat) (x : Eng) : (s.setEng k x).trkUndo = s.trkUndo := rfl
@[simp] theorem State.snap_setEng_frame (s : State) (k : Nat) (x : Eng) : (s.setEng k x).snap = s.snap := rfl
@[simp] theorem State.bst_setEng_frame (s : State) (k : Nat) (x : Eng) : (s.setEng k x).bst = s.bst := rfl
@[simp] theorem State.pwr_setEng_frame (s : State) (k : Nat) (x : Eng) : (s.setEng k x).pwr = s.pwr := rfl
@[simp] theorem State.sys_setEng_frame (s : State) (k : Nat) (x : Eng) : (s.setEng k x).sys = s.sys := rfl
@[simp] theorem State.tth_setEng_frame (s : State) (k : Nat) (x : Eng) : (s.setEng k x).tth = s.tth := rfl
@[simp] theorem State.dma_setEng_frame (s : State) (k : Nat) (x : Eng) : (s.setEng k x).dma = s.dma := rfl
@[simp] theorem State.hostOut_setEng_frame (s : State) (k : Nat) (x : Eng) : (s.setEng k x).hostOut = s.hostOut := rfl
@[simp] theorem State.wakeLow_setEng_frame (s : State) (k : Nat) (x : Eng) : (s.setEng k x).wakeLow = s.wakeLow := rfl
@[simp] theorem State.fr_setEng_frame (s : State) (k : Nat) (x : Eng) : (s.setEng k x).fr = s.fr := rfl
@[simp] theorem State.pcie_setEng_frame (s : State) (k : Nat) (x : Eng) : (s.setEng k x).pcie = s.pcie := rfl
@[simp] theorem State.spi_setEng_frame (s : State) (k : Nat) (x : Eng) : (s.setEng k x).spi = s.spi := rfl
@[simp] theorem State.logQ_setEng_frame (s : State) (k : Nat) (x : Eng) : (s.setEng k x).logQ = s.logQ := rfl
@[simp] theorem State.logLost_setEng_frame (s : State) (k : Nat) (x : Eng) : (s.setEng k x).logLost = s.logLost := rfl
@[simp] theorem State.logHold_setEng_frame (s : State) (k : Nat) (x : Eng) : (s.setEng k x).logHold = s.logHold := rfl
@[simp] theorem State.logAt_setEng_frame (s : State) (k : Nat) (x : Eng) : (s.setEng k x).logAt = s.logAt := rfl
@[simp] theorem State.logTell_setEng_frame (s : State) (k : Nat) (x : Eng) : (s.setEng k x).logTell = s.logTell := rfl
@[simp] theorem State.logW_setEng_frame (s : State) (k : Nat) (x : Eng) : (s.setEng k x).logW = s.logW := rfl
@[simp] theorem State.once_setEng_frame (s : State) (k : Nat) (x : Eng) : (s.setEng k x).once = s.once := rfl
@[simp] theorem State.free_setEng_frame (s : State) (k : Nat) (x : Eng) : (s.setEng k x).free = s.free := rfl
@[simp] theorem State.pending_setEng_frame (s : State) (k : Nat) (x : Eng) : (s.setEng k x).pending = s.pending := rfl
@[simp] theorem State.now_setEng_frame (s : State) (k : Nat) (x : Eng) : (s.setEng k x).now = s.now := rfl

/-! ### Frame of setRn -/

/-- What the table reads after the update. -/
theorem State.rn_setRn (s : State) (k : Nat) (x : Runner) (j : Nat) : (s.setRn k x).rn j = if j = k then x else s.rn j :=
  Sparse.get_set _ _ _ _ _

@[simp] theorem State.rn_setRn_same (s : State) (k : Nat) (x : Runner) : (s.setRn k x).rn k = x := Sparse.get_set_same _ _ _ _

@[simp] theorem State.regs_setRn_frame (s : State) (k : Nat) (x : Runner) : (s.setRn k x).regs = s.regs := rfl
@[simp] theorem State.rd_setRn_frame (s : State) (k : Nat) (x : Runner) (b : Nat) : (s.setRn k x).rd b = s.rd b := rfl
@[simp] theorem State.f_setRn_frame (s : State) (k : Nat) (x : Runner) (y : Fld) : (s.setRn k x).f y = s.f y := rfl
@[simp] theorem State.b_setRn_frame (s : State) (k : Nat) (x : Runner) (y : Fld) : (s.setRn k x).b y = s.b y := rfl
@[simp] theorem State.tr_setRn_frame (s : State) (k : Nat) (x : Runner) (j : Nat) : (s.setRn k x).tr j = s.tr j := rfl
@[simp] theorem State.sn_setRn_frame (s : State) (k : Nat) (x : Runner) (j : Nat) : (s.setRn k x).sn j = s.sn j := rfl
@[simp] theorem State.te_setRn_frame (s : State) (k : Nat) (x : Runner) (j : Nat) : (s.setRn k x).te j = s.te j := rfl
@[simp] theorem State.es_setRn_frame (s : State) (k : Nat) (x : Runner) (j : Nat) : (s.setRn k x).es j = s.es j := rfl
@[simp] theorem State.sl_setRn_frame (s : State) (k : Nat) (x : Runner) (j : Nat) : (s.setRn k x).sl j = s.sl j := rfl
@[simp] theorem State.pin_setRn_frame (s : State) (k : Nat) (x : Runner) (j : Nat) : (s.setRn k x).pin j = s.pin j := rfl
@[simp] theorem State.stl_setRn_frame (s : State) (k : Nat) (x : Runner) (j : Nat) : (s.setRn k x).stl j = s.stl j := rfl
@[simp] theorem State.src_setRn_frame (s : State) (k : Nat) (x : Runner) (j : Nat) : (s.setRn k x).src j = s.src j := rfl
@[simp] theorem State.part_setRn_frame (s : State) (k : Nat) (x : Runner) (j : Nat) : (s.setRn k x).part j = s.part j := rfl
@[simp] theorem State.tq_setRn_frame (s : State) (k : Nat) (x : Runner) (j : Nat) : (s.setRn k x).tq j = s.tq j := rfl
@[simp] theorem State.page_setRn_frame (s : State) (k : Nat) (x : Runner) (j : Nat) : (s.setRn k x).page j = s.page j := rfl
@[simp] theorem State.eng_setRn_frame (s : State) (k : Nat) (x : Runner) (j : Nat) : (s.setRn k x).eng j = s.eng j := rfl
@[simp] theorem State.vlv_setRn_frame (s : State) (k : Nat) (x : Runner) (j : Nat) : (s.setRn k x).vlv j = s.vlv j := rfl
@[simp] theorem State.bk_setRn_frame (s : State) (k : Nat) (x : Runner) (j : Nat) : (s.setRn k x).bk j = s.bk j := rfl
@[simp] theorem State.port_setRn_frame (s : State) (k : Nat) (x : Runner) (j : Nat) : (s.setRn k x).port j = s.port j := rfl
@[simp] theorem State.mb_setRn_frame (s : State) (k : Nat) (x : Runner) (j : Nat) : (s.setRn k x).mb j = s.mb j := rfl
@[simp] theorem State.hold_setRn_frame (s : State) (k : Nat) (x : Runner) (j : Nat) : (s.setRn k x).hold j = s.hold j := rfl
@[simp] theorem State.ch_setRn_frame (s : State) (k : Nat) (x : Runner) (j : Nat) : (s.setRn k x).ch j = s.ch j := rfl
@[simp] theorem State.snaps_setRn_frame (s : State) (k : Nat) (x : Runner) : (s.setRn k x).snaps = s.snaps := rfl
@[simp] theorem State.lastRead_setRn_frame (s : State) (k : Nat) (x : Runner) : (s.setRn k x).lastRead = s.lastRead := rfl
@[simp] theorem State.setNow_setRn_frame (s : State) (k : Nat) (x : Runner) : (s.setRn k x).setNow = s.setNow := rfl
@[simp] theorem State.stepped_setRn_frame (s : State) (k : Nat) (x : Runner) : (s.setRn k x).stepped = s.stepped := rfl
@[simp] theorem State.shadow_setRn_frame (s : State) (k : Nat) (x : Runner) : (s.setRn k x).shadow = s.shadow := rfl
@[simp] theorem State.ready_setRn_frame (s : State) (k : Nat) (x : Runner) : (s.setRn k x).ready = s.ready := rfl
@[simp] theorem State.staged_setRn_frame (s : State) (k : Nat) (x : Runner) : (s.setRn k x).staged = s.staged := rfl
@[simp] theorem State.stagedItems_setRn_frame (s : State) (k : Nat) (x : Runner) : (s.setRn k x).stagedItems = s.stagedItems := rfl
@[simp] theorem State.touched_setRn_frame (s : State) (k : Nat) (x : Runner) : (s.setRn k x).touched = s.touched := rfl
@[simp] theorem State.badWords_setRn_frame (s : State) (k : Nat) (x : Runner) : (s.setRn k x).badWords = s.badWords := rfl
@[simp] theorem State.tb_setRn_frame (s : State) (k : Nat) (x : Runner) : (s.setRn k x).tb = s.tb := rfl
@[simp] theorem State.points_setRn_frame (s : State) (k : Nat) (x : Runner) : (s.setRn k x).points = s.points := rfl
@[simp] theorem State.deferred_setRn_frame (s : State) (k : Nat) (x : Runner) : (s.setRn k x).deferred = s.deferred := rfl
@[simp] theorem State.placed_setRn_frame (s : State) (k : Nat) (x : Runner) : (s.setRn k x).placed = s.placed := rfl
@[simp] theorem State.flight_setRn_frame (s : State) (k : Nat) (x : Runner) : (s.setRn k x).flight = s.flight := rfl
@[simp] theorem State.pool_setRn_frame (s : State) (k : Nat) (x : Runner) : (s.setRn k x).pool = s.pool := rfl
@[simp] theorem State.trgWaits_setRn_frame (s : State) (k : Nat) (x : Runner) : (s.setRn k x).trgWaits = s.trgWaits := rfl
@[simp] theorem State.trkUndo_setRn_frame (s : State) (k : Nat) (x : Runner) : (s.setRn k x).trkUndo = s.trkUndo := rfl
@[simp] theorem State.snap_setRn_frame (s : State) (k : Nat) (x : Runner) : (s.setRn k x).snap = s.snap := rfl
@[simp] theorem State.bst_setRn_frame (s : State) (k : Nat) (x : Runner) : (s.setRn k x).bst = s.bst := rfl
@[simp] theorem State.pwr_setRn_frame (s : State) (k : Nat) (x : Runner) : (s.setRn k x).pwr = s.pwr := rfl
@[simp] theorem State.sys_setRn_frame (s : State) (k : Nat) (x : Runner) : (s.setRn k x).sys = s.sys := rfl
@[simp] theorem State.tth_setRn_frame (s : State) (k : Nat) (x : Runner) : (s.setRn k x).tth = s.tth := rfl
@[simp] theorem State.dma_setRn_frame (s : State) (k : Nat) (x : Runner) : (s.setRn k x).dma = s.dma := rfl
@[simp] theorem State.hostOut_setRn_frame (s : State) (k : Nat) (x : Runner) : (s.setRn k x).hostOut = s.hostOut := rfl
@[simp] theorem State.wakeLow_setRn_frame (s : State) (k : Nat) (x : Runner) : (s.setRn k x).wakeLow = s.wakeLow := rfl
@[simp] theorem State.fr_setRn_frame (s : State) (k : Nat) (x : Runner) : (s.setRn k x).fr = s.fr := rfl
@[simp] theorem State.pcie_setRn_frame (s : State) (k : Nat) (x : Runner) : (s.setRn k x).pcie = s.pcie := rfl
@[simp] theorem State.spi_setRn_frame (s : State) (k : Nat) (x : Runner) : (s.setRn k x).spi = s.spi := rfl
@[simp] theorem State.logQ_setRn_frame (s : State) (k : Nat) (x : Runner) : (s.setRn k x).logQ = s.logQ := rfl
@[simp] theorem State.logLost_setRn_frame (s : State) (k : Nat) (x : Runner) : (s.setRn k x).logLost = s.logLost := rfl
@[simp] theorem State.logHold_setRn_frame (s : State) (k : Nat) (x : Runner) : (s.setRn k x).logHold = s.logHold := rfl
@[simp] theorem State.logAt_setRn_frame (s : State) (k : Nat) (x : Runner) : (s.setRn k x).logAt = s.logAt := rfl
@[simp] theorem State.logTell_setRn_frame (s : State) (k : Nat) (x : Runner) : (s.setRn k x).logTell = s.logTell := rfl
@[simp] theorem State.logW_setRn_frame (s : State) (k : Nat) (x : Runner) : (s.setRn k x).logW = s.logW := rfl
@[simp] theorem State.once_setRn_frame (s : State) (k : Nat) (x : Runner) : (s.setRn k x).once = s.once := rfl
@[simp] theorem State.free_setRn_frame (s : State) (k : Nat) (x : Runner) : (s.setRn k x).free = s.free := rfl
@[simp] theorem State.pending_setRn_frame (s : State) (k : Nat) (x : Runner) : (s.setRn k x).pending = s.pending := rfl
@[simp] theorem State.now_setRn_frame (s : State) (k : Nat) (x : Runner) : (s.setRn k x).now = s.now := rfl

/-! ### Frame of setVlv -/

/-- What the table reads after the update. -/
theorem State.vlv_setVlv (s : State) (k : Nat) (x : Valve) (j : Nat) : (s.setVlv k x).vlv j = if j = k then x else s.vlv j :=
  Sparse.get_set _ _ _ _ _

@[simp] theorem State.vlv_setVlv_same (s : State) (k : Nat) (x : Valve) : (s.setVlv k x).vlv k = x := Sparse.get_set_same _ _ _ _

@[simp] theorem State.regs_setVlv_frame (s : State) (k : Nat) (x : Valve) : (s.setVlv k x).regs = s.regs := rfl
@[simp] theorem State.rd_setVlv_frame (s : State) (k : Nat) (x : Valve) (b : Nat) : (s.setVlv k x).rd b = s.rd b := rfl
@[simp] theorem State.f_setVlv_frame (s : State) (k : Nat) (x : Valve) (y : Fld) : (s.setVlv k x).f y = s.f y := rfl
@[simp] theorem State.b_setVlv_frame (s : State) (k : Nat) (x : Valve) (y : Fld) : (s.setVlv k x).b y = s.b y := rfl
@[simp] theorem State.tr_setVlv_frame (s : State) (k : Nat) (x : Valve) (j : Nat) : (s.setVlv k x).tr j = s.tr j := rfl
@[simp] theorem State.sn_setVlv_frame (s : State) (k : Nat) (x : Valve) (j : Nat) : (s.setVlv k x).sn j = s.sn j := rfl
@[simp] theorem State.te_setVlv_frame (s : State) (k : Nat) (x : Valve) (j : Nat) : (s.setVlv k x).te j = s.te j := rfl
@[simp] theorem State.es_setVlv_frame (s : State) (k : Nat) (x : Valve) (j : Nat) : (s.setVlv k x).es j = s.es j := rfl
@[simp] theorem State.sl_setVlv_frame (s : State) (k : Nat) (x : Valve) (j : Nat) : (s.setVlv k x).sl j = s.sl j := rfl
@[simp] theorem State.pin_setVlv_frame (s : State) (k : Nat) (x : Valve) (j : Nat) : (s.setVlv k x).pin j = s.pin j := rfl
@[simp] theorem State.stl_setVlv_frame (s : State) (k : Nat) (x : Valve) (j : Nat) : (s.setVlv k x).stl j = s.stl j := rfl
@[simp] theorem State.src_setVlv_frame (s : State) (k : Nat) (x : Valve) (j : Nat) : (s.setVlv k x).src j = s.src j := rfl
@[simp] theorem State.part_setVlv_frame (s : State) (k : Nat) (x : Valve) (j : Nat) : (s.setVlv k x).part j = s.part j := rfl
@[simp] theorem State.tq_setVlv_frame (s : State) (k : Nat) (x : Valve) (j : Nat) : (s.setVlv k x).tq j = s.tq j := rfl
@[simp] theorem State.page_setVlv_frame (s : State) (k : Nat) (x : Valve) (j : Nat) : (s.setVlv k x).page j = s.page j := rfl
@[simp] theorem State.eng_setVlv_frame (s : State) (k : Nat) (x : Valve) (j : Nat) : (s.setVlv k x).eng j = s.eng j := rfl
@[simp] theorem State.rn_setVlv_frame (s : State) (k : Nat) (x : Valve) (j : Nat) : (s.setVlv k x).rn j = s.rn j := rfl
@[simp] theorem State.bk_setVlv_frame (s : State) (k : Nat) (x : Valve) (j : Nat) : (s.setVlv k x).bk j = s.bk j := rfl
@[simp] theorem State.port_setVlv_frame (s : State) (k : Nat) (x : Valve) (j : Nat) : (s.setVlv k x).port j = s.port j := rfl
@[simp] theorem State.mb_setVlv_frame (s : State) (k : Nat) (x : Valve) (j : Nat) : (s.setVlv k x).mb j = s.mb j := rfl
@[simp] theorem State.hold_setVlv_frame (s : State) (k : Nat) (x : Valve) (j : Nat) : (s.setVlv k x).hold j = s.hold j := rfl
@[simp] theorem State.ch_setVlv_frame (s : State) (k : Nat) (x : Valve) (j : Nat) : (s.setVlv k x).ch j = s.ch j := rfl
@[simp] theorem State.snaps_setVlv_frame (s : State) (k : Nat) (x : Valve) : (s.setVlv k x).snaps = s.snaps := rfl
@[simp] theorem State.lastRead_setVlv_frame (s : State) (k : Nat) (x : Valve) : (s.setVlv k x).lastRead = s.lastRead := rfl
@[simp] theorem State.setNow_setVlv_frame (s : State) (k : Nat) (x : Valve) : (s.setVlv k x).setNow = s.setNow := rfl
@[simp] theorem State.stepped_setVlv_frame (s : State) (k : Nat) (x : Valve) : (s.setVlv k x).stepped = s.stepped := rfl
@[simp] theorem State.shadow_setVlv_frame (s : State) (k : Nat) (x : Valve) : (s.setVlv k x).shadow = s.shadow := rfl
@[simp] theorem State.ready_setVlv_frame (s : State) (k : Nat) (x : Valve) : (s.setVlv k x).ready = s.ready := rfl
@[simp] theorem State.staged_setVlv_frame (s : State) (k : Nat) (x : Valve) : (s.setVlv k x).staged = s.staged := rfl
@[simp] theorem State.stagedItems_setVlv_frame (s : State) (k : Nat) (x : Valve) : (s.setVlv k x).stagedItems = s.stagedItems := rfl
@[simp] theorem State.touched_setVlv_frame (s : State) (k : Nat) (x : Valve) : (s.setVlv k x).touched = s.touched := rfl
@[simp] theorem State.badWords_setVlv_frame (s : State) (k : Nat) (x : Valve) : (s.setVlv k x).badWords = s.badWords := rfl
@[simp] theorem State.tb_setVlv_frame (s : State) (k : Nat) (x : Valve) : (s.setVlv k x).tb = s.tb := rfl
@[simp] theorem State.points_setVlv_frame (s : State) (k : Nat) (x : Valve) : (s.setVlv k x).points = s.points := rfl
@[simp] theorem State.deferred_setVlv_frame (s : State) (k : Nat) (x : Valve) : (s.setVlv k x).deferred = s.deferred := rfl
@[simp] theorem State.placed_setVlv_frame (s : State) (k : Nat) (x : Valve) : (s.setVlv k x).placed = s.placed := rfl
@[simp] theorem State.flight_setVlv_frame (s : State) (k : Nat) (x : Valve) : (s.setVlv k x).flight = s.flight := rfl
@[simp] theorem State.pool_setVlv_frame (s : State) (k : Nat) (x : Valve) : (s.setVlv k x).pool = s.pool := rfl
@[simp] theorem State.trgWaits_setVlv_frame (s : State) (k : Nat) (x : Valve) : (s.setVlv k x).trgWaits = s.trgWaits := rfl
@[simp] theorem State.trkUndo_setVlv_frame (s : State) (k : Nat) (x : Valve) : (s.setVlv k x).trkUndo = s.trkUndo := rfl
@[simp] theorem State.snap_setVlv_frame (s : State) (k : Nat) (x : Valve) : (s.setVlv k x).snap = s.snap := rfl
@[simp] theorem State.bst_setVlv_frame (s : State) (k : Nat) (x : Valve) : (s.setVlv k x).bst = s.bst := rfl
@[simp] theorem State.pwr_setVlv_frame (s : State) (k : Nat) (x : Valve) : (s.setVlv k x).pwr = s.pwr := rfl
@[simp] theorem State.sys_setVlv_frame (s : State) (k : Nat) (x : Valve) : (s.setVlv k x).sys = s.sys := rfl
@[simp] theorem State.tth_setVlv_frame (s : State) (k : Nat) (x : Valve) : (s.setVlv k x).tth = s.tth := rfl
@[simp] theorem State.dma_setVlv_frame (s : State) (k : Nat) (x : Valve) : (s.setVlv k x).dma = s.dma := rfl
@[simp] theorem State.hostOut_setVlv_frame (s : State) (k : Nat) (x : Valve) : (s.setVlv k x).hostOut = s.hostOut := rfl
@[simp] theorem State.wakeLow_setVlv_frame (s : State) (k : Nat) (x : Valve) : (s.setVlv k x).wakeLow = s.wakeLow := rfl
@[simp] theorem State.fr_setVlv_frame (s : State) (k : Nat) (x : Valve) : (s.setVlv k x).fr = s.fr := rfl
@[simp] theorem State.pcie_setVlv_frame (s : State) (k : Nat) (x : Valve) : (s.setVlv k x).pcie = s.pcie := rfl
@[simp] theorem State.spi_setVlv_frame (s : State) (k : Nat) (x : Valve) : (s.setVlv k x).spi = s.spi := rfl
@[simp] theorem State.logQ_setVlv_frame (s : State) (k : Nat) (x : Valve) : (s.setVlv k x).logQ = s.logQ := rfl
@[simp] theorem State.logLost_setVlv_frame (s : State) (k : Nat) (x : Valve) : (s.setVlv k x).logLost = s.logLost := rfl
@[simp] theorem State.logHold_setVlv_frame (s : State) (k : Nat) (x : Valve) : (s.setVlv k x).logHold = s.logHold := rfl
@[simp] theorem State.logAt_setVlv_frame (s : State) (k : Nat) (x : Valve) : (s.setVlv k x).logAt = s.logAt := rfl
@[simp] theorem State.logTell_setVlv_frame (s : State) (k : Nat) (x : Valve) : (s.setVlv k x).logTell = s.logTell := rfl
@[simp] theorem State.logW_setVlv_frame (s : State) (k : Nat) (x : Valve) : (s.setVlv k x).logW = s.logW := rfl
@[simp] theorem State.once_setVlv_frame (s : State) (k : Nat) (x : Valve) : (s.setVlv k x).once = s.once := rfl
@[simp] theorem State.free_setVlv_frame (s : State) (k : Nat) (x : Valve) : (s.setVlv k x).free = s.free := rfl
@[simp] theorem State.pending_setVlv_frame (s : State) (k : Nat) (x : Valve) : (s.setVlv k x).pending = s.pending := rfl
@[simp] theorem State.now_setVlv_frame (s : State) (k : Nat) (x : Valve) : (s.setVlv k x).now = s.now := rfl

/-! ### Frame of setBk -/

/-- What the table reads after the update. -/
theorem State.bk_setBk (s : State) (k : Nat) (x : Bank) (j : Nat) : (s.setBk k x).bk j = if j = k then x else s.bk j :=
  Sparse.get_set _ _ _ _ _

@[simp] theorem State.bk_setBk_same (s : State) (k : Nat) (x : Bank) : (s.setBk k x).bk k = x := Sparse.get_set_same _ _ _ _

@[simp] theorem State.regs_setBk_frame (s : State) (k : Nat) (x : Bank) : (s.setBk k x).regs = s.regs := rfl
@[simp] theorem State.rd_setBk_frame (s : State) (k : Nat) (x : Bank) (b : Nat) : (s.setBk k x).rd b = s.rd b := rfl
@[simp] theorem State.f_setBk_frame (s : State) (k : Nat) (x : Bank) (y : Fld) : (s.setBk k x).f y = s.f y := rfl
@[simp] theorem State.b_setBk_frame (s : State) (k : Nat) (x : Bank) (y : Fld) : (s.setBk k x).b y = s.b y := rfl
@[simp] theorem State.tr_setBk_frame (s : State) (k : Nat) (x : Bank) (j : Nat) : (s.setBk k x).tr j = s.tr j := rfl
@[simp] theorem State.sn_setBk_frame (s : State) (k : Nat) (x : Bank) (j : Nat) : (s.setBk k x).sn j = s.sn j := rfl
@[simp] theorem State.te_setBk_frame (s : State) (k : Nat) (x : Bank) (j : Nat) : (s.setBk k x).te j = s.te j := rfl
@[simp] theorem State.es_setBk_frame (s : State) (k : Nat) (x : Bank) (j : Nat) : (s.setBk k x).es j = s.es j := rfl
@[simp] theorem State.sl_setBk_frame (s : State) (k : Nat) (x : Bank) (j : Nat) : (s.setBk k x).sl j = s.sl j := rfl
@[simp] theorem State.pin_setBk_frame (s : State) (k : Nat) (x : Bank) (j : Nat) : (s.setBk k x).pin j = s.pin j := rfl
@[simp] theorem State.stl_setBk_frame (s : State) (k : Nat) (x : Bank) (j : Nat) : (s.setBk k x).stl j = s.stl j := rfl
@[simp] theorem State.src_setBk_frame (s : State) (k : Nat) (x : Bank) (j : Nat) : (s.setBk k x).src j = s.src j := rfl
@[simp] theorem State.part_setBk_frame (s : State) (k : Nat) (x : Bank) (j : Nat) : (s.setBk k x).part j = s.part j := rfl
@[simp] theorem State.tq_setBk_frame (s : State) (k : Nat) (x : Bank) (j : Nat) : (s.setBk k x).tq j = s.tq j := rfl
@[simp] theorem State.page_setBk_frame (s : State) (k : Nat) (x : Bank) (j : Nat) : (s.setBk k x).page j = s.page j := rfl
@[simp] theorem State.eng_setBk_frame (s : State) (k : Nat) (x : Bank) (j : Nat) : (s.setBk k x).eng j = s.eng j := rfl
@[simp] theorem State.rn_setBk_frame (s : State) (k : Nat) (x : Bank) (j : Nat) : (s.setBk k x).rn j = s.rn j := rfl
@[simp] theorem State.vlv_setBk_frame (s : State) (k : Nat) (x : Bank) (j : Nat) : (s.setBk k x).vlv j = s.vlv j := rfl
@[simp] theorem State.port_setBk_frame (s : State) (k : Nat) (x : Bank) (j : Nat) : (s.setBk k x).port j = s.port j := rfl
@[simp] theorem State.mb_setBk_frame (s : State) (k : Nat) (x : Bank) (j : Nat) : (s.setBk k x).mb j = s.mb j := rfl
@[simp] theorem State.hold_setBk_frame (s : State) (k : Nat) (x : Bank) (j : Nat) : (s.setBk k x).hold j = s.hold j := rfl
@[simp] theorem State.ch_setBk_frame (s : State) (k : Nat) (x : Bank) (j : Nat) : (s.setBk k x).ch j = s.ch j := rfl
@[simp] theorem State.snaps_setBk_frame (s : State) (k : Nat) (x : Bank) : (s.setBk k x).snaps = s.snaps := rfl
@[simp] theorem State.lastRead_setBk_frame (s : State) (k : Nat) (x : Bank) : (s.setBk k x).lastRead = s.lastRead := rfl
@[simp] theorem State.setNow_setBk_frame (s : State) (k : Nat) (x : Bank) : (s.setBk k x).setNow = s.setNow := rfl
@[simp] theorem State.stepped_setBk_frame (s : State) (k : Nat) (x : Bank) : (s.setBk k x).stepped = s.stepped := rfl
@[simp] theorem State.shadow_setBk_frame (s : State) (k : Nat) (x : Bank) : (s.setBk k x).shadow = s.shadow := rfl
@[simp] theorem State.ready_setBk_frame (s : State) (k : Nat) (x : Bank) : (s.setBk k x).ready = s.ready := rfl
@[simp] theorem State.staged_setBk_frame (s : State) (k : Nat) (x : Bank) : (s.setBk k x).staged = s.staged := rfl
@[simp] theorem State.stagedItems_setBk_frame (s : State) (k : Nat) (x : Bank) : (s.setBk k x).stagedItems = s.stagedItems := rfl
@[simp] theorem State.touched_setBk_frame (s : State) (k : Nat) (x : Bank) : (s.setBk k x).touched = s.touched := rfl
@[simp] theorem State.badWords_setBk_frame (s : State) (k : Nat) (x : Bank) : (s.setBk k x).badWords = s.badWords := rfl
@[simp] theorem State.tb_setBk_frame (s : State) (k : Nat) (x : Bank) : (s.setBk k x).tb = s.tb := rfl
@[simp] theorem State.points_setBk_frame (s : State) (k : Nat) (x : Bank) : (s.setBk k x).points = s.points := rfl
@[simp] theorem State.deferred_setBk_frame (s : State) (k : Nat) (x : Bank) : (s.setBk k x).deferred = s.deferred := rfl
@[simp] theorem State.placed_setBk_frame (s : State) (k : Nat) (x : Bank) : (s.setBk k x).placed = s.placed := rfl
@[simp] theorem State.flight_setBk_frame (s : State) (k : Nat) (x : Bank) : (s.setBk k x).flight = s.flight := rfl
@[simp] theorem State.pool_setBk_frame (s : State) (k : Nat) (x : Bank) : (s.setBk k x).pool = s.pool := rfl
@[simp] theorem State.trgWaits_setBk_frame (s : State) (k : Nat) (x : Bank) : (s.setBk k x).trgWaits = s.trgWaits := rfl
@[simp] theorem State.trkUndo_setBk_frame (s : State) (k : Nat) (x : Bank) : (s.setBk k x).trkUndo = s.trkUndo := rfl
@[simp] theorem State.snap_setBk_frame (s : State) (k : Nat) (x : Bank) : (s.setBk k x).snap = s.snap := rfl
@[simp] theorem State.bst_setBk_frame (s : State) (k : Nat) (x : Bank) : (s.setBk k x).bst = s.bst := rfl
@[simp] theorem State.pwr_setBk_frame (s : State) (k : Nat) (x : Bank) : (s.setBk k x).pwr = s.pwr := rfl
@[simp] theorem State.sys_setBk_frame (s : State) (k : Nat) (x : Bank) : (s.setBk k x).sys = s.sys := rfl
@[simp] theorem State.tth_setBk_frame (s : State) (k : Nat) (x : Bank) : (s.setBk k x).tth = s.tth := rfl
@[simp] theorem State.dma_setBk_frame (s : State) (k : Nat) (x : Bank) : (s.setBk k x).dma = s.dma := rfl
@[simp] theorem State.hostOut_setBk_frame (s : State) (k : Nat) (x : Bank) : (s.setBk k x).hostOut = s.hostOut := rfl
@[simp] theorem State.wakeLow_setBk_frame (s : State) (k : Nat) (x : Bank) : (s.setBk k x).wakeLow = s.wakeLow := rfl
@[simp] theorem State.fr_setBk_frame (s : State) (k : Nat) (x : Bank) : (s.setBk k x).fr = s.fr := rfl
@[simp] theorem State.pcie_setBk_frame (s : State) (k : Nat) (x : Bank) : (s.setBk k x).pcie = s.pcie := rfl
@[simp] theorem State.spi_setBk_frame (s : State) (k : Nat) (x : Bank) : (s.setBk k x).spi = s.spi := rfl
@[simp] theorem State.logQ_setBk_frame (s : State) (k : Nat) (x : Bank) : (s.setBk k x).logQ = s.logQ := rfl
@[simp] theorem State.logLost_setBk_frame (s : State) (k : Nat) (x : Bank) : (s.setBk k x).logLost = s.logLost := rfl
@[simp] theorem State.logHold_setBk_frame (s : State) (k : Nat) (x : Bank) : (s.setBk k x).logHold = s.logHold := rfl
@[simp] theorem State.logAt_setBk_frame (s : State) (k : Nat) (x : Bank) : (s.setBk k x).logAt = s.logAt := rfl
@[simp] theorem State.logTell_setBk_frame (s : State) (k : Nat) (x : Bank) : (s.setBk k x).logTell = s.logTell := rfl
@[simp] theorem State.logW_setBk_frame (s : State) (k : Nat) (x : Bank) : (s.setBk k x).logW = s.logW := rfl
@[simp] theorem State.once_setBk_frame (s : State) (k : Nat) (x : Bank) : (s.setBk k x).once = s.once := rfl
@[simp] theorem State.free_setBk_frame (s : State) (k : Nat) (x : Bank) : (s.setBk k x).free = s.free := rfl
@[simp] theorem State.pending_setBk_frame (s : State) (k : Nat) (x : Bank) : (s.setBk k x).pending = s.pending := rfl
@[simp] theorem State.now_setBk_frame (s : State) (k : Nat) (x : Bank) : (s.setBk k x).now = s.now := rfl

/-! ### Frame of setPort -/

/-- What the table reads after the update. -/
theorem State.port_setPort (s : State) (k : Nat) (x : Port) (j : Nat) : (s.setPort k x).port j = if j = k then x else s.port j :=
  Sparse.get_set _ _ _ _ _

@[simp] theorem State.port_setPort_same (s : State) (k : Nat) (x : Port) : (s.setPort k x).port k = x := Sparse.get_set_same _ _ _ _

@[simp] theorem State.regs_setPort_frame (s : State) (k : Nat) (x : Port) : (s.setPort k x).regs = s.regs := rfl
@[simp] theorem State.rd_setPort_frame (s : State) (k : Nat) (x : Port) (b : Nat) : (s.setPort k x).rd b = s.rd b := rfl
@[simp] theorem State.f_setPort_frame (s : State) (k : Nat) (x : Port) (y : Fld) : (s.setPort k x).f y = s.f y := rfl
@[simp] theorem State.b_setPort_frame (s : State) (k : Nat) (x : Port) (y : Fld) : (s.setPort k x).b y = s.b y := rfl
@[simp] theorem State.tr_setPort_frame (s : State) (k : Nat) (x : Port) (j : Nat) : (s.setPort k x).tr j = s.tr j := rfl
@[simp] theorem State.sn_setPort_frame (s : State) (k : Nat) (x : Port) (j : Nat) : (s.setPort k x).sn j = s.sn j := rfl
@[simp] theorem State.te_setPort_frame (s : State) (k : Nat) (x : Port) (j : Nat) : (s.setPort k x).te j = s.te j := rfl
@[simp] theorem State.es_setPort_frame (s : State) (k : Nat) (x : Port) (j : Nat) : (s.setPort k x).es j = s.es j := rfl
@[simp] theorem State.sl_setPort_frame (s : State) (k : Nat) (x : Port) (j : Nat) : (s.setPort k x).sl j = s.sl j := rfl
@[simp] theorem State.pin_setPort_frame (s : State) (k : Nat) (x : Port) (j : Nat) : (s.setPort k x).pin j = s.pin j := rfl
@[simp] theorem State.stl_setPort_frame (s : State) (k : Nat) (x : Port) (j : Nat) : (s.setPort k x).stl j = s.stl j := rfl
@[simp] theorem State.src_setPort_frame (s : State) (k : Nat) (x : Port) (j : Nat) : (s.setPort k x).src j = s.src j := rfl
@[simp] theorem State.part_setPort_frame (s : State) (k : Nat) (x : Port) (j : Nat) : (s.setPort k x).part j = s.part j := rfl
@[simp] theorem State.tq_setPort_frame (s : State) (k : Nat) (x : Port) (j : Nat) : (s.setPort k x).tq j = s.tq j := rfl
@[simp] theorem State.page_setPort_frame (s : State) (k : Nat) (x : Port) (j : Nat) : (s.setPort k x).page j = s.page j := rfl
@[simp] theorem State.eng_setPort_frame (s : State) (k : Nat) (x : Port) (j : Nat) : (s.setPort k x).eng j = s.eng j := rfl
@[simp] theorem State.rn_setPort_frame (s : State) (k : Nat) (x : Port) (j : Nat) : (s.setPort k x).rn j = s.rn j := rfl
@[simp] theorem State.vlv_setPort_frame (s : State) (k : Nat) (x : Port) (j : Nat) : (s.setPort k x).vlv j = s.vlv j := rfl
@[simp] theorem State.bk_setPort_frame (s : State) (k : Nat) (x : Port) (j : Nat) : (s.setPort k x).bk j = s.bk j := rfl
@[simp] theorem State.mb_setPort_frame (s : State) (k : Nat) (x : Port) (j : Nat) : (s.setPort k x).mb j = s.mb j := rfl
@[simp] theorem State.hold_setPort_frame (s : State) (k : Nat) (x : Port) (j : Nat) : (s.setPort k x).hold j = s.hold j := rfl
@[simp] theorem State.ch_setPort_frame (s : State) (k : Nat) (x : Port) (j : Nat) : (s.setPort k x).ch j = s.ch j := rfl
@[simp] theorem State.snaps_setPort_frame (s : State) (k : Nat) (x : Port) : (s.setPort k x).snaps = s.snaps := rfl
@[simp] theorem State.lastRead_setPort_frame (s : State) (k : Nat) (x : Port) : (s.setPort k x).lastRead = s.lastRead := rfl
@[simp] theorem State.setNow_setPort_frame (s : State) (k : Nat) (x : Port) : (s.setPort k x).setNow = s.setNow := rfl
@[simp] theorem State.stepped_setPort_frame (s : State) (k : Nat) (x : Port) : (s.setPort k x).stepped = s.stepped := rfl
@[simp] theorem State.shadow_setPort_frame (s : State) (k : Nat) (x : Port) : (s.setPort k x).shadow = s.shadow := rfl
@[simp] theorem State.ready_setPort_frame (s : State) (k : Nat) (x : Port) : (s.setPort k x).ready = s.ready := rfl
@[simp] theorem State.staged_setPort_frame (s : State) (k : Nat) (x : Port) : (s.setPort k x).staged = s.staged := rfl
@[simp] theorem State.stagedItems_setPort_frame (s : State) (k : Nat) (x : Port) : (s.setPort k x).stagedItems = s.stagedItems := rfl
@[simp] theorem State.touched_setPort_frame (s : State) (k : Nat) (x : Port) : (s.setPort k x).touched = s.touched := rfl
@[simp] theorem State.badWords_setPort_frame (s : State) (k : Nat) (x : Port) : (s.setPort k x).badWords = s.badWords := rfl
@[simp] theorem State.tb_setPort_frame (s : State) (k : Nat) (x : Port) : (s.setPort k x).tb = s.tb := rfl
@[simp] theorem State.points_setPort_frame (s : State) (k : Nat) (x : Port) : (s.setPort k x).points = s.points := rfl
@[simp] theorem State.deferred_setPort_frame (s : State) (k : Nat) (x : Port) : (s.setPort k x).deferred = s.deferred := rfl
@[simp] theorem State.placed_setPort_frame (s : State) (k : Nat) (x : Port) : (s.setPort k x).placed = s.placed := rfl
@[simp] theorem State.flight_setPort_frame (s : State) (k : Nat) (x : Port) : (s.setPort k x).flight = s.flight := rfl
@[simp] theorem State.pool_setPort_frame (s : State) (k : Nat) (x : Port) : (s.setPort k x).pool = s.pool := rfl
@[simp] theorem State.trgWaits_setPort_frame (s : State) (k : Nat) (x : Port) : (s.setPort k x).trgWaits = s.trgWaits := rfl
@[simp] theorem State.trkUndo_setPort_frame (s : State) (k : Nat) (x : Port) : (s.setPort k x).trkUndo = s.trkUndo := rfl
@[simp] theorem State.snap_setPort_frame (s : State) (k : Nat) (x : Port) : (s.setPort k x).snap = s.snap := rfl
@[simp] theorem State.bst_setPort_frame (s : State) (k : Nat) (x : Port) : (s.setPort k x).bst = s.bst := rfl
@[simp] theorem State.pwr_setPort_frame (s : State) (k : Nat) (x : Port) : (s.setPort k x).pwr = s.pwr := rfl
@[simp] theorem State.sys_setPort_frame (s : State) (k : Nat) (x : Port) : (s.setPort k x).sys = s.sys := rfl
@[simp] theorem State.tth_setPort_frame (s : State) (k : Nat) (x : Port) : (s.setPort k x).tth = s.tth := rfl
@[simp] theorem State.dma_setPort_frame (s : State) (k : Nat) (x : Port) : (s.setPort k x).dma = s.dma := rfl
@[simp] theorem State.hostOut_setPort_frame (s : State) (k : Nat) (x : Port) : (s.setPort k x).hostOut = s.hostOut := rfl
@[simp] theorem State.wakeLow_setPort_frame (s : State) (k : Nat) (x : Port) : (s.setPort k x).wakeLow = s.wakeLow := rfl
@[simp] theorem State.fr_setPort_frame (s : State) (k : Nat) (x : Port) : (s.setPort k x).fr = s.fr := rfl
@[simp] theorem State.pcie_setPort_frame (s : State) (k : Nat) (x : Port) : (s.setPort k x).pcie = s.pcie := rfl
@[simp] theorem State.spi_setPort_frame (s : State) (k : Nat) (x : Port) : (s.setPort k x).spi = s.spi := rfl
@[simp] theorem State.logQ_setPort_frame (s : State) (k : Nat) (x : Port) : (s.setPort k x).logQ = s.logQ := rfl
@[simp] theorem State.logLost_setPort_frame (s : State) (k : Nat) (x : Port) : (s.setPort k x).logLost = s.logLost := rfl
@[simp] theorem State.logHold_setPort_frame (s : State) (k : Nat) (x : Port) : (s.setPort k x).logHold = s.logHold := rfl
@[simp] theorem State.logAt_setPort_frame (s : State) (k : Nat) (x : Port) : (s.setPort k x).logAt = s.logAt := rfl
@[simp] theorem State.logTell_setPort_frame (s : State) (k : Nat) (x : Port) : (s.setPort k x).logTell = s.logTell := rfl
@[simp] theorem State.logW_setPort_frame (s : State) (k : Nat) (x : Port) : (s.setPort k x).logW = s.logW := rfl
@[simp] theorem State.once_setPort_frame (s : State) (k : Nat) (x : Port) : (s.setPort k x).once = s.once := rfl
@[simp] theorem State.free_setPort_frame (s : State) (k : Nat) (x : Port) : (s.setPort k x).free = s.free := rfl
@[simp] theorem State.pending_setPort_frame (s : State) (k : Nat) (x : Port) : (s.setPort k x).pending = s.pending := rfl
@[simp] theorem State.now_setPort_frame (s : State) (k : Nat) (x : Port) : (s.setPort k x).now = s.now := rfl

/-! ### Frame of setMb -/

/-- What the table reads after the update. -/
theorem State.mb_setMb (s : State) (k : Nat) (x : Mbx) (j : Nat) : (s.setMb k x).mb j = if j = k then x else s.mb j :=
  Sparse.get_set _ _ _ _ _

@[simp] theorem State.mb_setMb_same (s : State) (k : Nat) (x : Mbx) : (s.setMb k x).mb k = x := Sparse.get_set_same _ _ _ _

@[simp] theorem State.regs_setMb_frame (s : State) (k : Nat) (x : Mbx) : (s.setMb k x).regs = s.regs := rfl
@[simp] theorem State.rd_setMb_frame (s : State) (k : Nat) (x : Mbx) (b : Nat) : (s.setMb k x).rd b = s.rd b := rfl
@[simp] theorem State.f_setMb_frame (s : State) (k : Nat) (x : Mbx) (y : Fld) : (s.setMb k x).f y = s.f y := rfl
@[simp] theorem State.b_setMb_frame (s : State) (k : Nat) (x : Mbx) (y : Fld) : (s.setMb k x).b y = s.b y := rfl
@[simp] theorem State.tr_setMb_frame (s : State) (k : Nat) (x : Mbx) (j : Nat) : (s.setMb k x).tr j = s.tr j := rfl
@[simp] theorem State.sn_setMb_frame (s : State) (k : Nat) (x : Mbx) (j : Nat) : (s.setMb k x).sn j = s.sn j := rfl
@[simp] theorem State.te_setMb_frame (s : State) (k : Nat) (x : Mbx) (j : Nat) : (s.setMb k x).te j = s.te j := rfl
@[simp] theorem State.es_setMb_frame (s : State) (k : Nat) (x : Mbx) (j : Nat) : (s.setMb k x).es j = s.es j := rfl
@[simp] theorem State.sl_setMb_frame (s : State) (k : Nat) (x : Mbx) (j : Nat) : (s.setMb k x).sl j = s.sl j := rfl
@[simp] theorem State.pin_setMb_frame (s : State) (k : Nat) (x : Mbx) (j : Nat) : (s.setMb k x).pin j = s.pin j := rfl
@[simp] theorem State.stl_setMb_frame (s : State) (k : Nat) (x : Mbx) (j : Nat) : (s.setMb k x).stl j = s.stl j := rfl
@[simp] theorem State.src_setMb_frame (s : State) (k : Nat) (x : Mbx) (j : Nat) : (s.setMb k x).src j = s.src j := rfl
@[simp] theorem State.part_setMb_frame (s : State) (k : Nat) (x : Mbx) (j : Nat) : (s.setMb k x).part j = s.part j := rfl
@[simp] theorem State.tq_setMb_frame (s : State) (k : Nat) (x : Mbx) (j : Nat) : (s.setMb k x).tq j = s.tq j := rfl
@[simp] theorem State.page_setMb_frame (s : State) (k : Nat) (x : Mbx) (j : Nat) : (s.setMb k x).page j = s.page j := rfl
@[simp] theorem State.eng_setMb_frame (s : State) (k : Nat) (x : Mbx) (j : Nat) : (s.setMb k x).eng j = s.eng j := rfl
@[simp] theorem State.rn_setMb_frame (s : State) (k : Nat) (x : Mbx) (j : Nat) : (s.setMb k x).rn j = s.rn j := rfl
@[simp] theorem State.vlv_setMb_frame (s : State) (k : Nat) (x : Mbx) (j : Nat) : (s.setMb k x).vlv j = s.vlv j := rfl
@[simp] theorem State.bk_setMb_frame (s : State) (k : Nat) (x : Mbx) (j : Nat) : (s.setMb k x).bk j = s.bk j := rfl
@[simp] theorem State.port_setMb_frame (s : State) (k : Nat) (x : Mbx) (j : Nat) : (s.setMb k x).port j = s.port j := rfl
@[simp] theorem State.hold_setMb_frame (s : State) (k : Nat) (x : Mbx) (j : Nat) : (s.setMb k x).hold j = s.hold j := rfl
@[simp] theorem State.ch_setMb_frame (s : State) (k : Nat) (x : Mbx) (j : Nat) : (s.setMb k x).ch j = s.ch j := rfl
@[simp] theorem State.snaps_setMb_frame (s : State) (k : Nat) (x : Mbx) : (s.setMb k x).snaps = s.snaps := rfl
@[simp] theorem State.lastRead_setMb_frame (s : State) (k : Nat) (x : Mbx) : (s.setMb k x).lastRead = s.lastRead := rfl
@[simp] theorem State.setNow_setMb_frame (s : State) (k : Nat) (x : Mbx) : (s.setMb k x).setNow = s.setNow := rfl
@[simp] theorem State.stepped_setMb_frame (s : State) (k : Nat) (x : Mbx) : (s.setMb k x).stepped = s.stepped := rfl
@[simp] theorem State.shadow_setMb_frame (s : State) (k : Nat) (x : Mbx) : (s.setMb k x).shadow = s.shadow := rfl
@[simp] theorem State.ready_setMb_frame (s : State) (k : Nat) (x : Mbx) : (s.setMb k x).ready = s.ready := rfl
@[simp] theorem State.staged_setMb_frame (s : State) (k : Nat) (x : Mbx) : (s.setMb k x).staged = s.staged := rfl
@[simp] theorem State.stagedItems_setMb_frame (s : State) (k : Nat) (x : Mbx) : (s.setMb k x).stagedItems = s.stagedItems := rfl
@[simp] theorem State.touched_setMb_frame (s : State) (k : Nat) (x : Mbx) : (s.setMb k x).touched = s.touched := rfl
@[simp] theorem State.badWords_setMb_frame (s : State) (k : Nat) (x : Mbx) : (s.setMb k x).badWords = s.badWords := rfl
@[simp] theorem State.tb_setMb_frame (s : State) (k : Nat) (x : Mbx) : (s.setMb k x).tb = s.tb := rfl
@[simp] theorem State.points_setMb_frame (s : State) (k : Nat) (x : Mbx) : (s.setMb k x).points = s.points := rfl
@[simp] theorem State.deferred_setMb_frame (s : State) (k : Nat) (x : Mbx) : (s.setMb k x).deferred = s.deferred := rfl
@[simp] theorem State.placed_setMb_frame (s : State) (k : Nat) (x : Mbx) : (s.setMb k x).placed = s.placed := rfl
@[simp] theorem State.flight_setMb_frame (s : State) (k : Nat) (x : Mbx) : (s.setMb k x).flight = s.flight := rfl
@[simp] theorem State.pool_setMb_frame (s : State) (k : Nat) (x : Mbx) : (s.setMb k x).pool = s.pool := rfl
@[simp] theorem State.trgWaits_setMb_frame (s : State) (k : Nat) (x : Mbx) : (s.setMb k x).trgWaits = s.trgWaits := rfl
@[simp] theorem State.trkUndo_setMb_frame (s : State) (k : Nat) (x : Mbx) : (s.setMb k x).trkUndo = s.trkUndo := rfl
@[simp] theorem State.snap_setMb_frame (s : State) (k : Nat) (x : Mbx) : (s.setMb k x).snap = s.snap := rfl
@[simp] theorem State.bst_setMb_frame (s : State) (k : Nat) (x : Mbx) : (s.setMb k x).bst = s.bst := rfl
@[simp] theorem State.pwr_setMb_frame (s : State) (k : Nat) (x : Mbx) : (s.setMb k x).pwr = s.pwr := rfl
@[simp] theorem State.sys_setMb_frame (s : State) (k : Nat) (x : Mbx) : (s.setMb k x).sys = s.sys := rfl
@[simp] theorem State.tth_setMb_frame (s : State) (k : Nat) (x : Mbx) : (s.setMb k x).tth = s.tth := rfl
@[simp] theorem State.dma_setMb_frame (s : State) (k : Nat) (x : Mbx) : (s.setMb k x).dma = s.dma := rfl
@[simp] theorem State.hostOut_setMb_frame (s : State) (k : Nat) (x : Mbx) : (s.setMb k x).hostOut = s.hostOut := rfl
@[simp] theorem State.wakeLow_setMb_frame (s : State) (k : Nat) (x : Mbx) : (s.setMb k x).wakeLow = s.wakeLow := rfl
@[simp] theorem State.fr_setMb_frame (s : State) (k : Nat) (x : Mbx) : (s.setMb k x).fr = s.fr := rfl
@[simp] theorem State.pcie_setMb_frame (s : State) (k : Nat) (x : Mbx) : (s.setMb k x).pcie = s.pcie := rfl
@[simp] theorem State.spi_setMb_frame (s : State) (k : Nat) (x : Mbx) : (s.setMb k x).spi = s.spi := rfl
@[simp] theorem State.logQ_setMb_frame (s : State) (k : Nat) (x : Mbx) : (s.setMb k x).logQ = s.logQ := rfl
@[simp] theorem State.logLost_setMb_frame (s : State) (k : Nat) (x : Mbx) : (s.setMb k x).logLost = s.logLost := rfl
@[simp] theorem State.logHold_setMb_frame (s : State) (k : Nat) (x : Mbx) : (s.setMb k x).logHold = s.logHold := rfl
@[simp] theorem State.logAt_setMb_frame (s : State) (k : Nat) (x : Mbx) : (s.setMb k x).logAt = s.logAt := rfl
@[simp] theorem State.logTell_setMb_frame (s : State) (k : Nat) (x : Mbx) : (s.setMb k x).logTell = s.logTell := rfl
@[simp] theorem State.logW_setMb_frame (s : State) (k : Nat) (x : Mbx) : (s.setMb k x).logW = s.logW := rfl
@[simp] theorem State.once_setMb_frame (s : State) (k : Nat) (x : Mbx) : (s.setMb k x).once = s.once := rfl
@[simp] theorem State.free_setMb_frame (s : State) (k : Nat) (x : Mbx) : (s.setMb k x).free = s.free := rfl
@[simp] theorem State.pending_setMb_frame (s : State) (k : Nat) (x : Mbx) : (s.setMb k x).pending = s.pending := rfl
@[simp] theorem State.now_setMb_frame (s : State) (k : Nat) (x : Mbx) : (s.setMb k x).now = s.now := rfl

/-! ### Frame of setHold -/

/-- What the table reads after the update. -/
theorem State.hold_setHold (s : State) (k : Nat) (x : Hold) (j : Nat) : (s.setHold k x).hold j = if j = k then x else s.hold j :=
  Sparse.get_set _ _ _ _ _

@[simp] theorem State.hold_setHold_same (s : State) (k : Nat) (x : Hold) : (s.setHold k x).hold k = x := Sparse.get_set_same _ _ _ _

@[simp] theorem State.regs_setHold_frame (s : State) (k : Nat) (x : Hold) : (s.setHold k x).regs = s.regs := rfl
@[simp] theorem State.rd_setHold_frame (s : State) (k : Nat) (x : Hold) (b : Nat) : (s.setHold k x).rd b = s.rd b := rfl
@[simp] theorem State.f_setHold_frame (s : State) (k : Nat) (x : Hold) (y : Fld) : (s.setHold k x).f y = s.f y := rfl
@[simp] theorem State.b_setHold_frame (s : State) (k : Nat) (x : Hold) (y : Fld) : (s.setHold k x).b y = s.b y := rfl
@[simp] theorem State.tr_setHold_frame (s : State) (k : Nat) (x : Hold) (j : Nat) : (s.setHold k x).tr j = s.tr j := rfl
@[simp] theorem State.sn_setHold_frame (s : State) (k : Nat) (x : Hold) (j : Nat) : (s.setHold k x).sn j = s.sn j := rfl
@[simp] theorem State.te_setHold_frame (s : State) (k : Nat) (x : Hold) (j : Nat) : (s.setHold k x).te j = s.te j := rfl
@[simp] theorem State.es_setHold_frame (s : State) (k : Nat) (x : Hold) (j : Nat) : (s.setHold k x).es j = s.es j := rfl
@[simp] theorem State.sl_setHold_frame (s : State) (k : Nat) (x : Hold) (j : Nat) : (s.setHold k x).sl j = s.sl j := rfl
@[simp] theorem State.pin_setHold_frame (s : State) (k : Nat) (x : Hold) (j : Nat) : (s.setHold k x).pin j = s.pin j := rfl
@[simp] theorem State.stl_setHold_frame (s : State) (k : Nat) (x : Hold) (j : Nat) : (s.setHold k x).stl j = s.stl j := rfl
@[simp] theorem State.src_setHold_frame (s : State) (k : Nat) (x : Hold) (j : Nat) : (s.setHold k x).src j = s.src j := rfl
@[simp] theorem State.part_setHold_frame (s : State) (k : Nat) (x : Hold) (j : Nat) : (s.setHold k x).part j = s.part j := rfl
@[simp] theorem State.tq_setHold_frame (s : State) (k : Nat) (x : Hold) (j : Nat) : (s.setHold k x).tq j = s.tq j := rfl
@[simp] theorem State.page_setHold_frame (s : State) (k : Nat) (x : Hold) (j : Nat) : (s.setHold k x).page j = s.page j := rfl
@[simp] theorem State.eng_setHold_frame (s : State) (k : Nat) (x : Hold) (j : Nat) : (s.setHold k x).eng j = s.eng j := rfl
@[simp] theorem State.rn_setHold_frame (s : State) (k : Nat) (x : Hold) (j : Nat) : (s.setHold k x).rn j = s.rn j := rfl
@[simp] theorem State.vlv_setHold_frame (s : State) (k : Nat) (x : Hold) (j : Nat) : (s.setHold k x).vlv j = s.vlv j := rfl
@[simp] theorem State.bk_setHold_frame (s : State) (k : Nat) (x : Hold) (j : Nat) : (s.setHold k x).bk j = s.bk j := rfl
@[simp] theorem State.port_setHold_frame (s : State) (k : Nat) (x : Hold) (j : Nat) : (s.setHold k x).port j = s.port j := rfl
@[simp] theorem State.mb_setHold_frame (s : State) (k : Nat) (x : Hold) (j : Nat) : (s.setHold k x).mb j = s.mb j := rfl
@[simp] theorem State.ch_setHold_frame (s : State) (k : Nat) (x : Hold) (j : Nat) : (s.setHold k x).ch j = s.ch j := rfl
@[simp] theorem State.snaps_setHold_frame (s : State) (k : Nat) (x : Hold) : (s.setHold k x).snaps = s.snaps := rfl
@[simp] theorem State.lastRead_setHold_frame (s : State) (k : Nat) (x : Hold) : (s.setHold k x).lastRead = s.lastRead := rfl
@[simp] theorem State.setNow_setHold_frame (s : State) (k : Nat) (x : Hold) : (s.setHold k x).setNow = s.setNow := rfl
@[simp] theorem State.stepped_setHold_frame (s : State) (k : Nat) (x : Hold) : (s.setHold k x).stepped = s.stepped := rfl
@[simp] theorem State.shadow_setHold_frame (s : State) (k : Nat) (x : Hold) : (s.setHold k x).shadow = s.shadow := rfl
@[simp] theorem State.ready_setHold_frame (s : State) (k : Nat) (x : Hold) : (s.setHold k x).ready = s.ready := rfl
@[simp] theorem State.staged_setHold_frame (s : State) (k : Nat) (x : Hold) : (s.setHold k x).staged = s.staged := rfl
@[simp] theorem State.stagedItems_setHold_frame (s : State) (k : Nat) (x : Hold) : (s.setHold k x).stagedItems = s.stagedItems := rfl
@[simp] theorem State.touched_setHold_frame (s : State) (k : Nat) (x : Hold) : (s.setHold k x).touched = s.touched := rfl
@[simp] theorem State.badWords_setHold_frame (s : State) (k : Nat) (x : Hold) : (s.setHold k x).badWords = s.badWords := rfl
@[simp] theorem State.tb_setHold_frame (s : State) (k : Nat) (x : Hold) : (s.setHold k x).tb = s.tb := rfl
@[simp] theorem State.points_setHold_frame (s : State) (k : Nat) (x : Hold) : (s.setHold k x).points = s.points := rfl
@[simp] theorem State.deferred_setHold_frame (s : State) (k : Nat) (x : Hold) : (s.setHold k x).deferred = s.deferred := rfl
@[simp] theorem State.placed_setHold_frame (s : State) (k : Nat) (x : Hold) : (s.setHold k x).placed = s.placed := rfl
@[simp] theorem State.flight_setHold_frame (s : State) (k : Nat) (x : Hold) : (s.setHold k x).flight = s.flight := rfl
@[simp] theorem State.pool_setHold_frame (s : State) (k : Nat) (x : Hold) : (s.setHold k x).pool = s.pool := rfl
@[simp] theorem State.trgWaits_setHold_frame (s : State) (k : Nat) (x : Hold) : (s.setHold k x).trgWaits = s.trgWaits := rfl
@[simp] theorem State.trkUndo_setHold_frame (s : State) (k : Nat) (x : Hold) : (s.setHold k x).trkUndo = s.trkUndo := rfl
@[simp] theorem State.snap_setHold_frame (s : State) (k : Nat) (x : Hold) : (s.setHold k x).snap = s.snap := rfl
@[simp] theorem State.bst_setHold_frame (s : State) (k : Nat) (x : Hold) : (s.setHold k x).bst = s.bst := rfl
@[simp] theorem State.pwr_setHold_frame (s : State) (k : Nat) (x : Hold) : (s.setHold k x).pwr = s.pwr := rfl
@[simp] theorem State.sys_setHold_frame (s : State) (k : Nat) (x : Hold) : (s.setHold k x).sys = s.sys := rfl
@[simp] theorem State.tth_setHold_frame (s : State) (k : Nat) (x : Hold) : (s.setHold k x).tth = s.tth := rfl
@[simp] theorem State.dma_setHold_frame (s : State) (k : Nat) (x : Hold) : (s.setHold k x).dma = s.dma := rfl
@[simp] theorem State.hostOut_setHold_frame (s : State) (k : Nat) (x : Hold) : (s.setHold k x).hostOut = s.hostOut := rfl
@[simp] theorem State.wakeLow_setHold_frame (s : State) (k : Nat) (x : Hold) : (s.setHold k x).wakeLow = s.wakeLow := rfl
@[simp] theorem State.fr_setHold_frame (s : State) (k : Nat) (x : Hold) : (s.setHold k x).fr = s.fr := rfl
@[simp] theorem State.pcie_setHold_frame (s : State) (k : Nat) (x : Hold) : (s.setHold k x).pcie = s.pcie := rfl
@[simp] theorem State.spi_setHold_frame (s : State) (k : Nat) (x : Hold) : (s.setHold k x).spi = s.spi := rfl
@[simp] theorem State.logQ_setHold_frame (s : State) (k : Nat) (x : Hold) : (s.setHold k x).logQ = s.logQ := rfl
@[simp] theorem State.logLost_setHold_frame (s : State) (k : Nat) (x : Hold) : (s.setHold k x).logLost = s.logLost := rfl
@[simp] theorem State.logHold_setHold_frame (s : State) (k : Nat) (x : Hold) : (s.setHold k x).logHold = s.logHold := rfl
@[simp] theorem State.logAt_setHold_frame (s : State) (k : Nat) (x : Hold) : (s.setHold k x).logAt = s.logAt := rfl
@[simp] theorem State.logTell_setHold_frame (s : State) (k : Nat) (x : Hold) : (s.setHold k x).logTell = s.logTell := rfl
@[simp] theorem State.logW_setHold_frame (s : State) (k : Nat) (x : Hold) : (s.setHold k x).logW = s.logW := rfl
@[simp] theorem State.once_setHold_frame (s : State) (k : Nat) (x : Hold) : (s.setHold k x).once = s.once := rfl
@[simp] theorem State.free_setHold_frame (s : State) (k : Nat) (x : Hold) : (s.setHold k x).free = s.free := rfl
@[simp] theorem State.pending_setHold_frame (s : State) (k : Nat) (x : Hold) : (s.setHold k x).pending = s.pending := rfl
@[simp] theorem State.now_setHold_frame (s : State) (k : Nat) (x : Hold) : (s.setHold k x).now = s.now := rfl

/-! ### Frame of setCh -/

/-- What the table reads after the update. -/
theorem State.ch_setCh (s : State) (k : Nat) (x : DmaChan) (j : Nat) : (s.setCh k x).ch j = if j = k then x else s.ch j :=
  Sparse.get_set _ _ _ _ _

@[simp] theorem State.ch_setCh_same (s : State) (k : Nat) (x : DmaChan) : (s.setCh k x).ch k = x := Sparse.get_set_same _ _ _ _

@[simp] theorem State.regs_setCh_frame (s : State) (k : Nat) (x : DmaChan) : (s.setCh k x).regs = s.regs := rfl
@[simp] theorem State.rd_setCh_frame (s : State) (k : Nat) (x : DmaChan) (b : Nat) : (s.setCh k x).rd b = s.rd b := rfl
@[simp] theorem State.f_setCh_frame (s : State) (k : Nat) (x : DmaChan) (y : Fld) : (s.setCh k x).f y = s.f y := rfl
@[simp] theorem State.b_setCh_frame (s : State) (k : Nat) (x : DmaChan) (y : Fld) : (s.setCh k x).b y = s.b y := rfl
@[simp] theorem State.tr_setCh_frame (s : State) (k : Nat) (x : DmaChan) (j : Nat) : (s.setCh k x).tr j = s.tr j := rfl
@[simp] theorem State.sn_setCh_frame (s : State) (k : Nat) (x : DmaChan) (j : Nat) : (s.setCh k x).sn j = s.sn j := rfl
@[simp] theorem State.te_setCh_frame (s : State) (k : Nat) (x : DmaChan) (j : Nat) : (s.setCh k x).te j = s.te j := rfl
@[simp] theorem State.es_setCh_frame (s : State) (k : Nat) (x : DmaChan) (j : Nat) : (s.setCh k x).es j = s.es j := rfl
@[simp] theorem State.sl_setCh_frame (s : State) (k : Nat) (x : DmaChan) (j : Nat) : (s.setCh k x).sl j = s.sl j := rfl
@[simp] theorem State.pin_setCh_frame (s : State) (k : Nat) (x : DmaChan) (j : Nat) : (s.setCh k x).pin j = s.pin j := rfl
@[simp] theorem State.stl_setCh_frame (s : State) (k : Nat) (x : DmaChan) (j : Nat) : (s.setCh k x).stl j = s.stl j := rfl
@[simp] theorem State.src_setCh_frame (s : State) (k : Nat) (x : DmaChan) (j : Nat) : (s.setCh k x).src j = s.src j := rfl
@[simp] theorem State.part_setCh_frame (s : State) (k : Nat) (x : DmaChan) (j : Nat) : (s.setCh k x).part j = s.part j := rfl
@[simp] theorem State.tq_setCh_frame (s : State) (k : Nat) (x : DmaChan) (j : Nat) : (s.setCh k x).tq j = s.tq j := rfl
@[simp] theorem State.page_setCh_frame (s : State) (k : Nat) (x : DmaChan) (j : Nat) : (s.setCh k x).page j = s.page j := rfl
@[simp] theorem State.eng_setCh_frame (s : State) (k : Nat) (x : DmaChan) (j : Nat) : (s.setCh k x).eng j = s.eng j := rfl
@[simp] theorem State.rn_setCh_frame (s : State) (k : Nat) (x : DmaChan) (j : Nat) : (s.setCh k x).rn j = s.rn j := rfl
@[simp] theorem State.vlv_setCh_frame (s : State) (k : Nat) (x : DmaChan) (j : Nat) : (s.setCh k x).vlv j = s.vlv j := rfl
@[simp] theorem State.bk_setCh_frame (s : State) (k : Nat) (x : DmaChan) (j : Nat) : (s.setCh k x).bk j = s.bk j := rfl
@[simp] theorem State.port_setCh_frame (s : State) (k : Nat) (x : DmaChan) (j : Nat) : (s.setCh k x).port j = s.port j := rfl
@[simp] theorem State.mb_setCh_frame (s : State) (k : Nat) (x : DmaChan) (j : Nat) : (s.setCh k x).mb j = s.mb j := rfl
@[simp] theorem State.hold_setCh_frame (s : State) (k : Nat) (x : DmaChan) (j : Nat) : (s.setCh k x).hold j = s.hold j := rfl
@[simp] theorem State.snaps_setCh_frame (s : State) (k : Nat) (x : DmaChan) : (s.setCh k x).snaps = s.snaps := rfl
@[simp] theorem State.lastRead_setCh_frame (s : State) (k : Nat) (x : DmaChan) : (s.setCh k x).lastRead = s.lastRead := rfl
@[simp] theorem State.setNow_setCh_frame (s : State) (k : Nat) (x : DmaChan) : (s.setCh k x).setNow = s.setNow := rfl
@[simp] theorem State.stepped_setCh_frame (s : State) (k : Nat) (x : DmaChan) : (s.setCh k x).stepped = s.stepped := rfl
@[simp] theorem State.shadow_setCh_frame (s : State) (k : Nat) (x : DmaChan) : (s.setCh k x).shadow = s.shadow := rfl
@[simp] theorem State.ready_setCh_frame (s : State) (k : Nat) (x : DmaChan) : (s.setCh k x).ready = s.ready := rfl
@[simp] theorem State.staged_setCh_frame (s : State) (k : Nat) (x : DmaChan) : (s.setCh k x).staged = s.staged := rfl
@[simp] theorem State.stagedItems_setCh_frame (s : State) (k : Nat) (x : DmaChan) : (s.setCh k x).stagedItems = s.stagedItems := rfl
@[simp] theorem State.touched_setCh_frame (s : State) (k : Nat) (x : DmaChan) : (s.setCh k x).touched = s.touched := rfl
@[simp] theorem State.badWords_setCh_frame (s : State) (k : Nat) (x : DmaChan) : (s.setCh k x).badWords = s.badWords := rfl
@[simp] theorem State.tb_setCh_frame (s : State) (k : Nat) (x : DmaChan) : (s.setCh k x).tb = s.tb := rfl
@[simp] theorem State.points_setCh_frame (s : State) (k : Nat) (x : DmaChan) : (s.setCh k x).points = s.points := rfl
@[simp] theorem State.deferred_setCh_frame (s : State) (k : Nat) (x : DmaChan) : (s.setCh k x).deferred = s.deferred := rfl
@[simp] theorem State.placed_setCh_frame (s : State) (k : Nat) (x : DmaChan) : (s.setCh k x).placed = s.placed := rfl
@[simp] theorem State.flight_setCh_frame (s : State) (k : Nat) (x : DmaChan) : (s.setCh k x).flight = s.flight := rfl
@[simp] theorem State.pool_setCh_frame (s : State) (k : Nat) (x : DmaChan) : (s.setCh k x).pool = s.pool := rfl
@[simp] theorem State.trgWaits_setCh_frame (s : State) (k : Nat) (x : DmaChan) : (s.setCh k x).trgWaits = s.trgWaits := rfl
@[simp] theorem State.trkUndo_setCh_frame (s : State) (k : Nat) (x : DmaChan) : (s.setCh k x).trkUndo = s.trkUndo := rfl
@[simp] theorem State.snap_setCh_frame (s : State) (k : Nat) (x : DmaChan) : (s.setCh k x).snap = s.snap := rfl
@[simp] theorem State.bst_setCh_frame (s : State) (k : Nat) (x : DmaChan) : (s.setCh k x).bst = s.bst := rfl
@[simp] theorem State.pwr_setCh_frame (s : State) (k : Nat) (x : DmaChan) : (s.setCh k x).pwr = s.pwr := rfl
@[simp] theorem State.sys_setCh_frame (s : State) (k : Nat) (x : DmaChan) : (s.setCh k x).sys = s.sys := rfl
@[simp] theorem State.tth_setCh_frame (s : State) (k : Nat) (x : DmaChan) : (s.setCh k x).tth = s.tth := rfl
@[simp] theorem State.dma_setCh_frame (s : State) (k : Nat) (x : DmaChan) : (s.setCh k x).dma = s.dma := rfl
@[simp] theorem State.hostOut_setCh_frame (s : State) (k : Nat) (x : DmaChan) : (s.setCh k x).hostOut = s.hostOut := rfl
@[simp] theorem State.wakeLow_setCh_frame (s : State) (k : Nat) (x : DmaChan) : (s.setCh k x).wakeLow = s.wakeLow := rfl
@[simp] theorem State.fr_setCh_frame (s : State) (k : Nat) (x : DmaChan) : (s.setCh k x).fr = s.fr := rfl
@[simp] theorem State.pcie_setCh_frame (s : State) (k : Nat) (x : DmaChan) : (s.setCh k x).pcie = s.pcie := rfl
@[simp] theorem State.spi_setCh_frame (s : State) (k : Nat) (x : DmaChan) : (s.setCh k x).spi = s.spi := rfl
@[simp] theorem State.logQ_setCh_frame (s : State) (k : Nat) (x : DmaChan) : (s.setCh k x).logQ = s.logQ := rfl
@[simp] theorem State.logLost_setCh_frame (s : State) (k : Nat) (x : DmaChan) : (s.setCh k x).logLost = s.logLost := rfl
@[simp] theorem State.logHold_setCh_frame (s : State) (k : Nat) (x : DmaChan) : (s.setCh k x).logHold = s.logHold := rfl
@[simp] theorem State.logAt_setCh_frame (s : State) (k : Nat) (x : DmaChan) : (s.setCh k x).logAt = s.logAt := rfl
@[simp] theorem State.logTell_setCh_frame (s : State) (k : Nat) (x : DmaChan) : (s.setCh k x).logTell = s.logTell := rfl
@[simp] theorem State.logW_setCh_frame (s : State) (k : Nat) (x : DmaChan) : (s.setCh k x).logW = s.logW := rfl
@[simp] theorem State.once_setCh_frame (s : State) (k : Nat) (x : DmaChan) : (s.setCh k x).once = s.once := rfl
@[simp] theorem State.free_setCh_frame (s : State) (k : Nat) (x : DmaChan) : (s.setCh k x).free = s.free := rfl
@[simp] theorem State.pending_setCh_frame (s : State) (k : Nat) (x : DmaChan) : (s.setCh k x).pending = s.pending := rfl
@[simp] theorem State.now_setCh_frame (s : State) (k : Nat) (x : DmaChan) : (s.setCh k x).now = s.now := rfl

/-! ### Frame of latch -/

@[simp] theorem State.regs_latch_frame (s : State) (r : Requester) (a : Nat) (w : Word) : (s.latch r a w).regs = s.regs := rfl
@[simp] theorem State.rd_latch_frame (s : State) (r : Requester) (a : Nat) (w : Word) (b : Nat) : (s.latch r a w).rd b = s.rd b := rfl
@[simp] theorem State.f_latch_frame (s : State) (r : Requester) (a : Nat) (w : Word) (y : Fld) : (s.latch r a w).f y = s.f y := rfl
@[simp] theorem State.b_latch_frame (s : State) (r : Requester) (a : Nat) (w : Word) (y : Fld) : (s.latch r a w).b y = s.b y := rfl
@[simp] theorem State.tr_latch_frame (s : State) (r : Requester) (a : Nat) (w : Word) (j : Nat) : (s.latch r a w).tr j = s.tr j := rfl
@[simp] theorem State.sn_latch_frame (s : State) (r : Requester) (a : Nat) (w : Word) (j : Nat) : (s.latch r a w).sn j = s.sn j := rfl
@[simp] theorem State.te_latch_frame (s : State) (r : Requester) (a : Nat) (w : Word) (j : Nat) : (s.latch r a w).te j = s.te j := rfl
@[simp] theorem State.es_latch_frame (s : State) (r : Requester) (a : Nat) (w : Word) (j : Nat) : (s.latch r a w).es j = s.es j := rfl
@[simp] theorem State.sl_latch_frame (s : State) (r : Requester) (a : Nat) (w : Word) (j : Nat) : (s.latch r a w).sl j = s.sl j := rfl
@[simp] theorem State.pin_latch_frame (s : State) (r : Requester) (a : Nat) (w : Word) (j : Nat) : (s.latch r a w).pin j = s.pin j := rfl
@[simp] theorem State.stl_latch_frame (s : State) (r : Requester) (a : Nat) (w : Word) (j : Nat) : (s.latch r a w).stl j = s.stl j := rfl
@[simp] theorem State.src_latch_frame (s : State) (r : Requester) (a : Nat) (w : Word) (j : Nat) : (s.latch r a w).src j = s.src j := rfl
@[simp] theorem State.part_latch_frame (s : State) (r : Requester) (a : Nat) (w : Word) (j : Nat) : (s.latch r a w).part j = s.part j := rfl
@[simp] theorem State.tq_latch_frame (s : State) (r : Requester) (a : Nat) (w : Word) (j : Nat) : (s.latch r a w).tq j = s.tq j := rfl
@[simp] theorem State.page_latch_frame (s : State) (r : Requester) (a : Nat) (w : Word) (j : Nat) : (s.latch r a w).page j = s.page j := rfl
@[simp] theorem State.eng_latch_frame (s : State) (r : Requester) (a : Nat) (w : Word) (j : Nat) : (s.latch r a w).eng j = s.eng j := rfl
@[simp] theorem State.rn_latch_frame (s : State) (r : Requester) (a : Nat) (w : Word) (j : Nat) : (s.latch r a w).rn j = s.rn j := rfl
@[simp] theorem State.vlv_latch_frame (s : State) (r : Requester) (a : Nat) (w : Word) (j : Nat) : (s.latch r a w).vlv j = s.vlv j := rfl
@[simp] theorem State.bk_latch_frame (s : State) (r : Requester) (a : Nat) (w : Word) (j : Nat) : (s.latch r a w).bk j = s.bk j := rfl
@[simp] theorem State.port_latch_frame (s : State) (r : Requester) (a : Nat) (w : Word) (j : Nat) : (s.latch r a w).port j = s.port j := rfl
@[simp] theorem State.mb_latch_frame (s : State) (r : Requester) (a : Nat) (w : Word) (j : Nat) : (s.latch r a w).mb j = s.mb j := rfl
@[simp] theorem State.hold_latch_frame (s : State) (r : Requester) (a : Nat) (w : Word) (j : Nat) : (s.latch r a w).hold j = s.hold j := rfl
@[simp] theorem State.ch_latch_frame (s : State) (r : Requester) (a : Nat) (w : Word) (j : Nat) : (s.latch r a w).ch j = s.ch j := rfl
@[simp] theorem State.lastRead_latch_frame (s : State) (r : Requester) (a : Nat) (w : Word) : (s.latch r a w).lastRead = s.lastRead := rfl
@[simp] theorem State.setNow_latch_frame (s : State) (r : Requester) (a : Nat) (w : Word) : (s.latch r a w).setNow = s.setNow := rfl
@[simp] theorem State.stepped_latch_frame (s : State) (r : Requester) (a : Nat) (w : Word) : (s.latch r a w).stepped = s.stepped := rfl
@[simp] theorem State.shadow_latch_frame (s : State) (r : Requester) (a : Nat) (w : Word) : (s.latch r a w).shadow = s.shadow := rfl
@[simp] theorem State.ready_latch_frame (s : State) (r : Requester) (a : Nat) (w : Word) : (s.latch r a w).ready = s.ready := rfl
@[simp] theorem State.staged_latch_frame (s : State) (r : Requester) (a : Nat) (w : Word) : (s.latch r a w).staged = s.staged := rfl
@[simp] theorem State.stagedItems_latch_frame (s : State) (r : Requester) (a : Nat) (w : Word) : (s.latch r a w).stagedItems = s.stagedItems := rfl
@[simp] theorem State.touched_latch_frame (s : State) (r : Requester) (a : Nat) (w : Word) : (s.latch r a w).touched = s.touched := rfl
@[simp] theorem State.badWords_latch_frame (s : State) (r : Requester) (a : Nat) (w : Word) : (s.latch r a w).badWords = s.badWords := rfl
@[simp] theorem State.tb_latch_frame (s : State) (r : Requester) (a : Nat) (w : Word) : (s.latch r a w).tb = s.tb := rfl
@[simp] theorem State.points_latch_frame (s : State) (r : Requester) (a : Nat) (w : Word) : (s.latch r a w).points = s.points := rfl
@[simp] theorem State.deferred_latch_frame (s : State) (r : Requester) (a : Nat) (w : Word) : (s.latch r a w).deferred = s.deferred := rfl
@[simp] theorem State.placed_latch_frame (s : State) (r : Requester) (a : Nat) (w : Word) : (s.latch r a w).placed = s.placed := rfl
@[simp] theorem State.flight_latch_frame (s : State) (r : Requester) (a : Nat) (w : Word) : (s.latch r a w).flight = s.flight := rfl
@[simp] theorem State.pool_latch_frame (s : State) (r : Requester) (a : Nat) (w : Word) : (s.latch r a w).pool = s.pool := rfl
@[simp] theorem State.trgWaits_latch_frame (s : State) (r : Requester) (a : Nat) (w : Word) : (s.latch r a w).trgWaits = s.trgWaits := rfl
@[simp] theorem State.trkUndo_latch_frame (s : State) (r : Requester) (a : Nat) (w : Word) : (s.latch r a w).trkUndo = s.trkUndo := rfl
@[simp] theorem State.snap_latch_frame (s : State) (r : Requester) (a : Nat) (w : Word) : (s.latch r a w).snap = s.snap := rfl
@[simp] theorem State.bst_latch_frame (s : State) (r : Requester) (a : Nat) (w : Word) : (s.latch r a w).bst = s.bst := rfl
@[simp] theorem State.pwr_latch_frame (s : State) (r : Requester) (a : Nat) (w : Word) : (s.latch r a w).pwr = s.pwr := rfl
@[simp] theorem State.sys_latch_frame (s : State) (r : Requester) (a : Nat) (w : Word) : (s.latch r a w).sys = s.sys := rfl
@[simp] theorem State.tth_latch_frame (s : State) (r : Requester) (a : Nat) (w : Word) : (s.latch r a w).tth = s.tth := rfl
@[simp] theorem State.dma_latch_frame (s : State) (r : Requester) (a : Nat) (w : Word) : (s.latch r a w).dma = s.dma := rfl
@[simp] theorem State.hostOut_latch_frame (s : State) (r : Requester) (a : Nat) (w : Word) : (s.latch r a w).hostOut = s.hostOut := rfl
@[simp] theorem State.wakeLow_latch_frame (s : State) (r : Requester) (a : Nat) (w : Word) : (s.latch r a w).wakeLow = s.wakeLow := rfl
@[simp] theorem State.fr_latch_frame (s : State) (r : Requester) (a : Nat) (w : Word) : (s.latch r a w).fr = s.fr := rfl
@[simp] theorem State.pcie_latch_frame (s : State) (r : Requester) (a : Nat) (w : Word) : (s.latch r a w).pcie = s.pcie := rfl
@[simp] theorem State.spi_latch_frame (s : State) (r : Requester) (a : Nat) (w : Word) : (s.latch r a w).spi = s.spi := rfl
@[simp] theorem State.logQ_latch_frame (s : State) (r : Requester) (a : Nat) (w : Word) : (s.latch r a w).logQ = s.logQ := rfl
@[simp] theorem State.logLost_latch_frame (s : State) (r : Requester) (a : Nat) (w : Word) : (s.latch r a w).logLost = s.logLost := rfl
@[simp] theorem State.logHold_latch_frame (s : State) (r : Requester) (a : Nat) (w : Word) : (s.latch r a w).logHold = s.logHold := rfl
@[simp] theorem State.logAt_latch_frame (s : State) (r : Requester) (a : Nat) (w : Word) : (s.latch r a w).logAt = s.logAt := rfl
@[simp] theorem State.logTell_latch_frame (s : State) (r : Requester) (a : Nat) (w : Word) : (s.latch r a w).logTell = s.logTell := rfl
@[simp] theorem State.logW_latch_frame (s : State) (r : Requester) (a : Nat) (w : Word) : (s.latch r a w).logW = s.logW := rfl
@[simp] theorem State.once_latch_frame (s : State) (r : Requester) (a : Nat) (w : Word) : (s.latch r a w).once = s.once := rfl
@[simp] theorem State.free_latch_frame (s : State) (r : Requester) (a : Nat) (w : Word) : (s.latch r a w).free = s.free := rfl
@[simp] theorem State.pending_latch_frame (s : State) (r : Requester) (a : Nat) (w : Word) : (s.latch r a w).pending = s.pending := rfl
@[simp] theorem State.now_latch_frame (s : State) (r : Requester) (a : Nat) (w : Word) : (s.latch r a w).now = s.now := rfl

/-! ### Frame of deliver -/

@[simp] theorem State.regs_deliver_frame (s : State) (r : Requester) (w : Word) : (s.deliver r w).regs = s.regs := rfl
@[simp] theorem State.rd_deliver_frame (s : State) (r : Requester) (w : Word) (b : Nat) : (s.deliver r w).rd b = s.rd b := rfl
@[simp] theorem State.f_deliver_frame (s : State) (r : Requester) (w : Word) (y : Fld) : (s.deliver r w).f y = s.f y := rfl
@[simp] theorem State.b_deliver_frame (s : State) (r : Requester) (w : Word) (y : Fld) : (s.deliver r w).b y = s.b y := rfl
@[simp] theorem State.tr_deliver_frame (s : State) (r : Requester) (w : Word) (j : Nat) : (s.deliver r w).tr j = s.tr j := rfl
@[simp] theorem State.sn_deliver_frame (s : State) (r : Requester) (w : Word) (j : Nat) : (s.deliver r w).sn j = s.sn j := rfl
@[simp] theorem State.te_deliver_frame (s : State) (r : Requester) (w : Word) (j : Nat) : (s.deliver r w).te j = s.te j := rfl
@[simp] theorem State.es_deliver_frame (s : State) (r : Requester) (w : Word) (j : Nat) : (s.deliver r w).es j = s.es j := rfl
@[simp] theorem State.sl_deliver_frame (s : State) (r : Requester) (w : Word) (j : Nat) : (s.deliver r w).sl j = s.sl j := rfl
@[simp] theorem State.pin_deliver_frame (s : State) (r : Requester) (w : Word) (j : Nat) : (s.deliver r w).pin j = s.pin j := rfl
@[simp] theorem State.stl_deliver_frame (s : State) (r : Requester) (w : Word) (j : Nat) : (s.deliver r w).stl j = s.stl j := rfl
@[simp] theorem State.src_deliver_frame (s : State) (r : Requester) (w : Word) (j : Nat) : (s.deliver r w).src j = s.src j := rfl
@[simp] theorem State.part_deliver_frame (s : State) (r : Requester) (w : Word) (j : Nat) : (s.deliver r w).part j = s.part j := rfl
@[simp] theorem State.tq_deliver_frame (s : State) (r : Requester) (w : Word) (j : Nat) : (s.deliver r w).tq j = s.tq j := rfl
@[simp] theorem State.page_deliver_frame (s : State) (r : Requester) (w : Word) (j : Nat) : (s.deliver r w).page j = s.page j := rfl
@[simp] theorem State.eng_deliver_frame (s : State) (r : Requester) (w : Word) (j : Nat) : (s.deliver r w).eng j = s.eng j := rfl
@[simp] theorem State.rn_deliver_frame (s : State) (r : Requester) (w : Word) (j : Nat) : (s.deliver r w).rn j = s.rn j := rfl
@[simp] theorem State.vlv_deliver_frame (s : State) (r : Requester) (w : Word) (j : Nat) : (s.deliver r w).vlv j = s.vlv j := rfl
@[simp] theorem State.bk_deliver_frame (s : State) (r : Requester) (w : Word) (j : Nat) : (s.deliver r w).bk j = s.bk j := rfl
@[simp] theorem State.port_deliver_frame (s : State) (r : Requester) (w : Word) (j : Nat) : (s.deliver r w).port j = s.port j := rfl
@[simp] theorem State.mb_deliver_frame (s : State) (r : Requester) (w : Word) (j : Nat) : (s.deliver r w).mb j = s.mb j := rfl
@[simp] theorem State.hold_deliver_frame (s : State) (r : Requester) (w : Word) (j : Nat) : (s.deliver r w).hold j = s.hold j := rfl
@[simp] theorem State.ch_deliver_frame (s : State) (r : Requester) (w : Word) (j : Nat) : (s.deliver r w).ch j = s.ch j := rfl
@[simp] theorem State.snaps_deliver_frame (s : State) (r : Requester) (w : Word) : (s.deliver r w).snaps = s.snaps := rfl
@[simp] theorem State.setNow_deliver_frame (s : State) (r : Requester) (w : Word) : (s.deliver r w).setNow = s.setNow := rfl
@[simp] theorem State.stepped_deliver_frame (s : State) (r : Requester) (w : Word) : (s.deliver r w).stepped = s.stepped := rfl
@[simp] theorem State.shadow_deliver_frame (s : State) (r : Requester) (w : Word) : (s.deliver r w).shadow = s.shadow := rfl
@[simp] theorem State.ready_deliver_frame (s : State) (r : Requester) (w : Word) : (s.deliver r w).ready = s.ready := rfl
@[simp] theorem State.staged_deliver_frame (s : State) (r : Requester) (w : Word) : (s.deliver r w).staged = s.staged := rfl
@[simp] theorem State.stagedItems_deliver_frame (s : State) (r : Requester) (w : Word) : (s.deliver r w).stagedItems = s.stagedItems := rfl
@[simp] theorem State.touched_deliver_frame (s : State) (r : Requester) (w : Word) : (s.deliver r w).touched = s.touched := rfl
@[simp] theorem State.badWords_deliver_frame (s : State) (r : Requester) (w : Word) : (s.deliver r w).badWords = s.badWords := rfl
@[simp] theorem State.tb_deliver_frame (s : State) (r : Requester) (w : Word) : (s.deliver r w).tb = s.tb := rfl
@[simp] theorem State.points_deliver_frame (s : State) (r : Requester) (w : Word) : (s.deliver r w).points = s.points := rfl
@[simp] theorem State.deferred_deliver_frame (s : State) (r : Requester) (w : Word) : (s.deliver r w).deferred = s.deferred := rfl
@[simp] theorem State.placed_deliver_frame (s : State) (r : Requester) (w : Word) : (s.deliver r w).placed = s.placed := rfl
@[simp] theorem State.flight_deliver_frame (s : State) (r : Requester) (w : Word) : (s.deliver r w).flight = s.flight := rfl
@[simp] theorem State.pool_deliver_frame (s : State) (r : Requester) (w : Word) : (s.deliver r w).pool = s.pool := rfl
@[simp] theorem State.trgWaits_deliver_frame (s : State) (r : Requester) (w : Word) : (s.deliver r w).trgWaits = s.trgWaits := rfl
@[simp] theorem State.trkUndo_deliver_frame (s : State) (r : Requester) (w : Word) : (s.deliver r w).trkUndo = s.trkUndo := rfl
@[simp] theorem State.snap_deliver_frame (s : State) (r : Requester) (w : Word) : (s.deliver r w).snap = s.snap := rfl
@[simp] theorem State.bst_deliver_frame (s : State) (r : Requester) (w : Word) : (s.deliver r w).bst = s.bst := rfl
@[simp] theorem State.pwr_deliver_frame (s : State) (r : Requester) (w : Word) : (s.deliver r w).pwr = s.pwr := rfl
@[simp] theorem State.sys_deliver_frame (s : State) (r : Requester) (w : Word) : (s.deliver r w).sys = s.sys := rfl
@[simp] theorem State.tth_deliver_frame (s : State) (r : Requester) (w : Word) : (s.deliver r w).tth = s.tth := rfl
@[simp] theorem State.dma_deliver_frame (s : State) (r : Requester) (w : Word) : (s.deliver r w).dma = s.dma := rfl
@[simp] theorem State.hostOut_deliver_frame (s : State) (r : Requester) (w : Word) : (s.deliver r w).hostOut = s.hostOut := rfl
@[simp] theorem State.wakeLow_deliver_frame (s : State) (r : Requester) (w : Word) : (s.deliver r w).wakeLow = s.wakeLow := rfl
@[simp] theorem State.fr_deliver_frame (s : State) (r : Requester) (w : Word) : (s.deliver r w).fr = s.fr := rfl
@[simp] theorem State.pcie_deliver_frame (s : State) (r : Requester) (w : Word) : (s.deliver r w).pcie = s.pcie := rfl
@[simp] theorem State.spi_deliver_frame (s : State) (r : Requester) (w : Word) : (s.deliver r w).spi = s.spi := rfl
@[simp] theorem State.logQ_deliver_frame (s : State) (r : Requester) (w : Word) : (s.deliver r w).logQ = s.logQ := rfl
@[simp] theorem State.logLost_deliver_frame (s : State) (r : Requester) (w : Word) : (s.deliver r w).logLost = s.logLost := rfl
@[simp] theorem State.logHold_deliver_frame (s : State) (r : Requester) (w : Word) : (s.deliver r w).logHold = s.logHold := rfl
@[simp] theorem State.logAt_deliver_frame (s : State) (r : Requester) (w : Word) : (s.deliver r w).logAt = s.logAt := rfl
@[simp] theorem State.logTell_deliver_frame (s : State) (r : Requester) (w : Word) : (s.deliver r w).logTell = s.logTell := rfl
@[simp] theorem State.logW_deliver_frame (s : State) (r : Requester) (w : Word) : (s.deliver r w).logW = s.logW := rfl
@[simp] theorem State.once_deliver_frame (s : State) (r : Requester) (w : Word) : (s.deliver r w).once = s.once := rfl
@[simp] theorem State.free_deliver_frame (s : State) (r : Requester) (w : Word) : (s.deliver r w).free = s.free := rfl
@[simp] theorem State.pending_deliver_frame (s : State) (r : Requester) (w : Word) : (s.deliver r w).pending = s.pending := rfl
@[simp] theorem State.now_deliver_frame (s : State) (r : Requester) (w : Word) : (s.deliver r w).now = s.now := rfl

/-! ### Snapshots and reads -/

/-- What a requester sees in a snapshot register after a latch. -/
theorem State.snapRd_latch_same (s : State) (r : Requester) (a : Nat) (w : Word) : (s.latch r a w).snapRd r a = w :=
  Sparse.get_set_same _ _ _ _

/-- A latch leaves every other snapshot alone. -/
theorem State.snapRd_latch_other (s : State) (r q : Requester) (a b : Nat) (w : Word) (h : bank q b ≠ bank r a) :
    (s.latch r a w).snapRd q b = s.snapRd q b :=
  Sparse.get_set_other _ _ _ h


end Sys2Proof.Machine
end

