-- ==== Sys2Proof/Laws/Ops.lean ====
section
/-! SUPPORT. The laws of the shared operations: fields, counters, the log, the interrupt lines. -/

namespace Sys2Proof.Machine

open Sys2Proof


/-! ### What is set in a tick (R9) -/

@[simp] theorem State.regs_note_frame (s : State) (a : Nat) (new : Word → Word) : (s.note a new).regs = s.regs := by
  unfold State.note; split
  · rfl
  · split <;> rfl
@[simp] theorem State.rd_note_frame (s : State) (a : Nat) (new : Word → Word) (b : Nat) : (s.note a new).rd b = s.rd b := by
  unfold State.note; split
  · rfl
  · split <;> rfl
@[simp] theorem State.f_note_frame (s : State) (a : Nat) (new : Word → Word) (y : Fld) : (s.note a new).f y = s.f y := by
  unfold State.note; split
  · rfl
  · split <;> rfl
@[simp] theorem State.b_note_frame (s : State) (a : Nat) (new : Word → Word) (y : Fld) : (s.note a new).b y = s.b y := by
  unfold State.note; split
  · rfl
  · split <;> rfl
@[simp] theorem State.tr_note_frame (s : State) (a : Nat) (new : Word → Word) (j : Nat) : (s.note a new).tr j = s.tr j := by
  unfold State.note; split
  · rfl
  · split <;> rfl
@[simp] theorem State.sn_note_frame (s : State) (a : Nat) (new : Word → Word) (j : Nat) : (s.note a new).sn j = s.sn j := by
  unfold State.note; split
  · rfl
  · split <;> rfl
@[simp] theorem State.te_note_frame (s : State) (a : Nat) (new : Word → Word) (j : Nat) : (s.note a new).te j = s.te j := by
  unfold State.note; split
  · rfl
  · split <;> rfl
@[simp] theorem State.es_note_frame (s : State) (a : Nat) (new : Word → Word) (j : Nat) : (s.note a new).es j = s.es j := by
  unfold State.note; split
  · rfl
  · split <;> rfl
@[simp] theorem State.sl_note_frame (s : State) (a : Nat) (new : Word → Word) (j : Nat) : (s.note a new).sl j = s.sl j := by
  unfold State.note; split
  · rfl
  · split <;> rfl
@[simp] theorem State.pin_note_frame (s : State) (a : Nat) (new : Word → Word) (j : Nat) : (s.note a new).pin j = s.pin j := by
  unfold State.note; split
  · rfl
  · split <;> rfl
@[simp] theorem State.stl_note_frame (s : State) (a : Nat) (new : Word → Word) (j : Nat) : (s.note a new).stl j = s.stl j := by
  unfold State.note; split
  · rfl
  · split <;> rfl
@[simp] theorem State.src_note_frame (s : State) (a : Nat) (new : Word → Word) (j : Nat) : (s.note a new).src j = s.src j := by
  unfold State.note; split
  · rfl
  · split <;> rfl
@[simp] theorem State.part_note_frame (s : State) (a : Nat) (new : Word → Word) (j : Nat) : (s.note a new).part j = s.part j := by
  unfold State.note; split
  · rfl
  · split <;> rfl
@[simp] theorem State.tq_note_frame (s : State) (a : Nat) (new : Word → Word) (j : Nat) : (s.note a new).tq j = s.tq j := by
  unfold State.note; split
  · rfl
  · split <;> rfl
@[simp] theorem State.page_note_frame (s : State) (a : Nat) (new : Word → Word) (j : Nat) : (s.note a new).page j = s.page j := by
  unfold State.note; split
  · rfl
  · split <;> rfl
@[simp] theorem State.eng_note_frame (s : State) (a : Nat) (new : Word → Word) (j : Nat) : (s.note a new).eng j = s.eng j := by
  unfold State.note; split
  · rfl
  · split <;> rfl
@[simp] theorem State.rn_note_frame (s : State) (a : Nat) (new : Word → Word) (j : Nat) : (s.note a new).rn j = s.rn j := by
  unfold State.note; split
  · rfl
  · split <;> rfl
@[simp] theorem State.vlv_note_frame (s : State) (a : Nat) (new : Word → Word) (j : Nat) : (s.note a new).vlv j = s.vlv j := by
  unfold State.note; split
  · rfl
  · split <;> rfl
@[simp] theorem State.bk_note_frame (s : State) (a : Nat) (new : Word → Word) (j : Nat) : (s.note a new).bk j = s.bk j := by
  unfold State.note; split
  · rfl
  · split <;> rfl
@[simp] theorem State.port_note_frame (s : State) (a : Nat) (new : Word → Word) (j : Nat) : (s.note a new).port j = s.port j := by
  unfold State.note; split
  · rfl
  · split <;> rfl
@[simp] theorem State.mb_note_frame (s : State) (a : Nat) (new : Word → Word) (j : Nat) : (s.note a new).mb j = s.mb j := by
  unfold State.note; split
  · rfl
  · split <;> rfl
@[simp] theorem State.hold_note_frame (s : State) (a : Nat) (new : Word → Word) (j : Nat) : (s.note a new).hold j = s.hold j := by
  unfold State.note; split
  · rfl
  · split <;> rfl
@[simp] theorem State.ch_note_frame (s : State) (a : Nat) (new : Word → Word) (j : Nat) : (s.note a new).ch j = s.ch j := by
  unfold State.note; split
  · rfl
  · split <;> rfl
@[simp] theorem State.snaps_note_frame (s : State) (a : Nat) (new : Word → Word) : (s.note a new).snaps = s.snaps := by
  unfold State.note; split
  · rfl
  · split <;> rfl
@[simp] theorem State.lastRead_note_frame (s : State) (a : Nat) (new : Word → Word) : (s.note a new).lastRead = s.lastRead := by
  unfold State.note; split
  · rfl
  · split <;> rfl
@[simp] theorem State.stepped_note_frame (s : State) (a : Nat) (new : Word → Word) : (s.note a new).stepped = s.stepped := by
  unfold State.note; split
  · rfl
  · split <;> rfl
@[simp] theorem State.shadow_note_frame (s : State) (a : Nat) (new : Word → Word) : (s.note a new).shadow = s.shadow := by
  unfold State.note; split
  · rfl
  · split <;> rfl
@[simp] theorem State.ready_note_frame (s : State) (a : Nat) (new : Word → Word) : (s.note a new).ready = s.ready := by
  unfold State.note; split
  · rfl
  · split <;> rfl
@[simp] theorem State.staged_note_frame (s : State) (a : Nat) (new : Word → Word) : (s.note a new).staged = s.staged := by
  unfold State.note; split
  · rfl
  · split <;> rfl
@[simp] theorem State.stagedItems_note_frame (s : State) (a : Nat) (new : Word → Word) : (s.note a new).stagedItems = s.stagedItems := by
  unfold State.note; split
  · rfl
  · split <;> rfl
@[simp] theorem State.touched_note_frame (s : State) (a : Nat) (new : Word → Word) : (s.note a new).touched = s.touched := by
  unfold State.note; split
  · rfl
  · split <;> rfl
@[simp] theorem State.badWords_note_frame (s : State) (a : Nat) (new : Word → Word) : (s.note a new).badWords = s.badWords := by
  unfold State.note; split
  · rfl
  · split <;> rfl
@[simp] theorem State.tb_note_frame (s : State) (a : Nat) (new : Word → Word) : (s.note a new).tb = s.tb := by
  unfold State.note; split
  · rfl
  · split <;> rfl
@[simp] theorem State.points_note_frame (s : State) (a : Nat) (new : Word → Word) : (s.note a new).points = s.points := by
  unfold State.note; split
  · rfl
  · split <;> rfl
@[simp] theorem State.deferred_note_frame (s : State) (a : Nat) (new : Word → Word) : (s.note a new).deferred = s.deferred := by
  unfold State.note; split
  · rfl
  · split <;> rfl
@[simp] theorem State.placed_note_frame (s : State) (a : Nat) (new : Word → Word) : (s.note a new).placed = s.placed := by
  unfold State.note; split
  · rfl
  · split <;> rfl
@[simp] theorem State.flight_note_frame (s : State) (a : Nat) (new : Word → Word) : (s.note a new).flight = s.flight := by
  unfold State.note; split
  · rfl
  · split <;> rfl
@[simp] theorem State.pool_note_frame (s : State) (a : Nat) (new : Word → Word) : (s.note a new).pool = s.pool := by
  unfold State.note; split
  · rfl
  · split <;> rfl
@[simp] theorem State.trgWaits_note_frame (s : State) (a : Nat) (new : Word → Word) : (s.note a new).trgWaits = s.trgWaits := by
  unfold State.note; split
  · rfl
  · split <;> rfl
@[simp] theorem State.trkUndo_note_frame (s : State) (a : Nat) (new : Word → Word) : (s.note a new).trkUndo = s.trkUndo := by
  unfold State.note; split
  · rfl
  · split <;> rfl
@[simp] theorem State.snap_note_frame (s : State) (a : Nat) (new : Word → Word) : (s.note a new).snap = s.snap := by
  unfold State.note; split
  · rfl
  · split <;> rfl
@[simp] theorem State.bst_note_frame (s : State) (a : Nat) (new : Word → Word) : (s.note a new).bst = s.bst := by
  unfold State.note; split
  · rfl
  · split <;> rfl
@[simp] theorem State.pwr_note_frame (s : State) (a : Nat) (new : Word → Word) : (s.note a new).pwr = s.pwr := by
  unfold State.note; split
  · rfl
  · split <;> rfl
@[simp] theorem State.sys_note_frame (s : State) (a : Nat) (new : Word → Word) : (s.note a new).sys = s.sys := by
  unfold State.note; split
  · rfl
  · split <;> rfl
@[simp] theorem State.tth_note_frame (s : State) (a : Nat) (new : Word → Word) : (s.note a new).tth = s.tth := by
  unfold State.note; split
  · rfl
  · split <;> rfl
@[simp] theorem State.dma_note_frame (s : State) (a : Nat) (new : Word → Word) : (s.note a new).dma = s.dma := by
  unfold State.note; split
  · rfl
  · split <;> rfl
@[simp] theorem State.hostOut_note_frame (s : State) (a : Nat) (new : Word → Word) : (s.note a new).hostOut = s.hostOut := by
  unfold State.note; split
  · rfl
  · split <;> rfl
@[simp] theorem State.wakeLow_note_frame (s : State) (a : Nat) (new : Word → Word) : (s.note a new).wakeLow = s.wakeLow := by
  unfold State.note; split
  · rfl
  · split <;> rfl
@[simp] theorem State.fr_note_frame (s : State) (a : Nat) (new : Word → Word) : (s.note a new).fr = s.fr := by
  unfold State.note; split
  · rfl
  · split <;> rfl
@[simp] theorem State.pcie_note_frame (s : State) (a : Nat) (new : Word → Word) : (s.note a new).pcie = s.pcie := by
  unfold State.note; split
  · rfl
  · split <;> rfl
@[simp] theorem State.spi_note_frame (s : State) (a : Nat) (new : Word → Word) : (s.note a new).spi = s.spi := by
  unfold State.note; split
  · rfl
  · split <;> rfl
@[simp] theorem State.logQ_note_frame (s : State) (a : Nat) (new : Word → Word) : (s.note a new).logQ = s.logQ := by
  unfold State.note; split
  · rfl
  · split <;> rfl
@[simp] theorem State.logLost_note_frame (s : State) (a : Nat) (new : Word → Word) : (s.note a new).logLost = s.logLost := by
  unfold State.note; split
  · rfl
  · split <;> rfl
@[simp] theorem State.logHold_note_frame (s : State) (a : Nat) (new : Word → Word) : (s.note a new).logHold = s.logHold := by
  unfold State.note; split
  · rfl
  · split <;> rfl
@[simp] theorem State.logAt_note_frame (s : State) (a : Nat) (new : Word → Word) : (s.note a new).logAt = s.logAt := by
  unfold State.note; split
  · rfl
  · split <;> rfl
@[simp] theorem State.logTell_note_frame (s : State) (a : Nat) (new : Word → Word) : (s.note a new).logTell = s.logTell := by
  unfold State.note; split
  · rfl
  · split <;> rfl
@[simp] theorem State.logW_note_frame (s : State) (a : Nat) (new : Word → Word) : (s.note a new).logW = s.logW := by
  unfold State.note; split
  · rfl
  · split <;> rfl
@[simp] theorem State.once_note_frame (s : State) (a : Nat) (new : Word → Word) : (s.note a new).once = s.once := by
  unfold State.note; split
  · rfl
  · split <;> rfl
@[simp] theorem State.free_note_frame (s : State) (a : Nat) (new : Word → Word) : (s.note a new).free = s.free := by
  unfold State.note; split
  · rfl
  · split <;> rfl
@[simp] theorem State.pending_note_frame (s : State) (a : Nat) (new : Word → Word) : (s.note a new).pending = s.pending := by
  unfold State.note; split
  · rfl
  · split <;> rfl
@[simp] theorem State.now_note_frame (s : State) (a : Nat) (new : Word → Word) : (s.note a new).now = s.now := by
  unfold State.note; split
  · rfl
  · split <;> rfl

/-! ### Frame of setF -/

@[simp] theorem State.tr_setF_frame (s : State) (x : Fld) (v : Nat) (j : Nat) : (s.setF x v).tr j = s.tr j := rfl
@[simp] theorem State.sn_setF_frame (s : State) (x : Fld) (v : Nat) (j : Nat) : (s.setF x v).sn j = s.sn j := rfl
@[simp] theorem State.te_setF_frame (s : State) (x : Fld) (v : Nat) (j : Nat) : (s.setF x v).te j = s.te j := rfl
@[simp] theorem State.es_setF_frame (s : State) (x : Fld) (v : Nat) (j : Nat) : (s.setF x v).es j = s.es j := rfl
@[simp] theorem State.sl_setF_frame (s : State) (x : Fld) (v : Nat) (j : Nat) : (s.setF x v).sl j = s.sl j := rfl
@[simp] theorem State.pin_setF_frame (s : State) (x : Fld) (v : Nat) (j : Nat) : (s.setF x v).pin j = s.pin j := rfl
@[simp] theorem State.stl_setF_frame (s : State) (x : Fld) (v : Nat) (j : Nat) : (s.setF x v).stl j = s.stl j := rfl
@[simp] theorem State.src_setF_frame (s : State) (x : Fld) (v : Nat) (j : Nat) : (s.setF x v).src j = s.src j := rfl
@[simp] theorem State.part_setF_frame (s : State) (x : Fld) (v : Nat) (j : Nat) : (s.setF x v).part j = s.part j := rfl
@[simp] theorem State.tq_setF_frame (s : State) (x : Fld) (v : Nat) (j : Nat) : (s.setF x v).tq j = s.tq j := rfl
@[simp] theorem State.page_setF_frame (s : State) (x : Fld) (v : Nat) (j : Nat) : (s.setF x v).page j = s.page j := rfl
@[simp] theorem State.eng_setF_frame (s : State) (x : Fld) (v : Nat) (j : Nat) : (s.setF x v).eng j = s.eng j := rfl
@[simp] theorem State.rn_setF_frame (s : State) (x : Fld) (v : Nat) (j : Nat) : (s.setF x v).rn j = s.rn j := rfl
@[simp] theorem State.vlv_setF_frame (s : State) (x : Fld) (v : Nat) (j : Nat) : (s.setF x v).vlv j = s.vlv j := rfl
@[simp] theorem State.bk_setF_frame (s : State) (x : Fld) (v : Nat) (j : Nat) : (s.setF x v).bk j = s.bk j := rfl
@[simp] theorem State.port_setF_frame (s : State) (x : Fld) (v : Nat) (j : Nat) : (s.setF x v).port j = s.port j := rfl
@[simp] theorem State.mb_setF_frame (s : State) (x : Fld) (v : Nat) (j : Nat) : (s.setF x v).mb j = s.mb j := rfl
@[simp] theorem State.hold_setF_frame (s : State) (x : Fld) (v : Nat) (j : Nat) : (s.setF x v).hold j = s.hold j := rfl
@[simp] theorem State.ch_setF_frame (s : State) (x : Fld) (v : Nat) (j : Nat) : (s.setF x v).ch j = s.ch j := rfl
@[simp] theorem State.snaps_setF_frame (s : State) (x : Fld) (v : Nat) : (s.setF x v).snaps = s.snaps := rfl
@[simp] theorem State.lastRead_setF_frame (s : State) (x : Fld) (v : Nat) : (s.setF x v).lastRead = s.lastRead := rfl
@[simp] theorem State.setNow_setF_frame (s : State) (x : Fld) (v : Nat) : (s.setF x v).setNow = s.setNow := rfl
@[simp] theorem State.stepped_setF_frame (s : State) (x : Fld) (v : Nat) : (s.setF x v).stepped = s.stepped := rfl
@[simp] theorem State.shadow_setF_frame (s : State) (x : Fld) (v : Nat) : (s.setF x v).shadow = s.shadow := rfl
@[simp] theorem State.ready_setF_frame (s : State) (x : Fld) (v : Nat) : (s.setF x v).ready = s.ready := rfl
@[simp] theorem State.staged_setF_frame (s : State) (x : Fld) (v : Nat) : (s.setF x v).staged = s.staged := rfl
@[simp] theorem State.stagedItems_setF_frame (s : State) (x : Fld) (v : Nat) : (s.setF x v).stagedItems = s.stagedItems := rfl
@[simp] theorem State.touched_setF_frame (s : State) (x : Fld) (v : Nat) : (s.setF x v).touched = s.touched := rfl
@[simp] theorem State.badWords_setF_frame (s : State) (x : Fld) (v : Nat) : (s.setF x v).badWords = s.badWords := rfl
@[simp] theorem State.tb_setF_frame (s : State) (x : Fld) (v : Nat) : (s.setF x v).tb = s.tb := rfl
@[simp] theorem State.points_setF_frame (s : State) (x : Fld) (v : Nat) : (s.setF x v).points = s.points := rfl
@[simp] theorem State.deferred_setF_frame (s : State) (x : Fld) (v : Nat) : (s.setF x v).deferred = s.deferred := rfl
@[simp] theorem State.placed_setF_frame (s : State) (x : Fld) (v : Nat) : (s.setF x v).placed = s.placed := rfl
@[simp] theorem State.flight_setF_frame (s : State) (x : Fld) (v : Nat) : (s.setF x v).flight = s.flight := rfl
@[simp] theorem State.pool_setF_frame (s : State) (x : Fld) (v : Nat) : (s.setF x v).pool = s.pool := rfl
@[simp] theorem State.trgWaits_setF_frame (s : State) (x : Fld) (v : Nat) : (s.setF x v).trgWaits = s.trgWaits := rfl
@[simp] theorem State.trkUndo_setF_frame (s : State) (x : Fld) (v : Nat) : (s.setF x v).trkUndo = s.trkUndo := rfl
@[simp] theorem State.snap_setF_frame (s : State) (x : Fld) (v : Nat) : (s.setF x v).snap = s.snap := rfl
@[simp] theorem State.bst_setF_frame (s : State) (x : Fld) (v : Nat) : (s.setF x v).bst = s.bst := rfl
@[simp] theorem State.pwr_setF_frame (s : State) (x : Fld) (v : Nat) : (s.setF x v).pwr = s.pwr := rfl
@[simp] theorem State.sys_setF_frame (s : State) (x : Fld) (v : Nat) : (s.setF x v).sys = s.sys := rfl
@[simp] theorem State.tth_setF_frame (s : State) (x : Fld) (v : Nat) : (s.setF x v).tth = s.tth := rfl
@[simp] theorem State.dma_setF_frame (s : State) (x : Fld) (v : Nat) : (s.setF x v).dma = s.dma := rfl
@[simp] theorem State.hostOut_setF_frame (s : State) (x : Fld) (v : Nat) : (s.setF x v).hostOut = s.hostOut := rfl
@[simp] theorem State.wakeLow_setF_frame (s : State) (x : Fld) (v : Nat) : (s.setF x v).wakeLow = s.wakeLow := rfl
@[simp] theorem State.fr_setF_frame (s : State) (x : Fld) (v : Nat) : (s.setF x v).fr = s.fr := rfl
@[simp] theorem State.pcie_setF_frame (s : State) (x : Fld) (v : Nat) : (s.setF x v).pcie = s.pcie := rfl
@[simp] theorem State.spi_setF_frame (s : State) (x : Fld) (v : Nat) : (s.setF x v).spi = s.spi := rfl
@[simp] theorem State.logQ_setF_frame (s : State) (x : Fld) (v : Nat) : (s.setF x v).logQ = s.logQ := rfl
@[simp] theorem State.logLost_setF_frame (s : State) (x : Fld) (v : Nat) : (s.setF x v).logLost = s.logLost := rfl
@[simp] theorem State.logHold_setF_frame (s : State) (x : Fld) (v : Nat) : (s.setF x v).logHold = s.logHold := rfl
@[simp] theorem State.logAt_setF_frame (s : State) (x : Fld) (v : Nat) : (s.setF x v).logAt = s.logAt := rfl
@[simp] theorem State.logTell_setF_frame (s : State) (x : Fld) (v : Nat) : (s.setF x v).logTell = s.logTell := rfl
@[simp] theorem State.logW_setF_frame (s : State) (x : Fld) (v : Nat) : (s.setF x v).logW = s.logW := rfl
@[simp] theorem State.once_setF_frame (s : State) (x : Fld) (v : Nat) : (s.setF x v).once = s.once := rfl
@[simp] theorem State.free_setF_frame (s : State) (x : Fld) (v : Nat) : (s.setF x v).free = s.free := rfl
@[simp] theorem State.pending_setF_frame (s : State) (x : Fld) (v : Nat) : (s.setF x v).pending = s.pending := rfl
@[simp] theorem State.now_setF_frame (s : State) (x : Fld) (v : Nat) : (s.setF x v).now = s.now := rfl

/-! ### Frame of setB -/

@[simp] theorem State.tr_setB_frame (s : State) (x : Fld) (v : Bool) (j : Nat) : (s.setB x v).tr j = s.tr j := by cases v <;> simp [State.setB]
@[simp] theorem State.sn_setB_frame (s : State) (x : Fld) (v : Bool) (j : Nat) : (s.setB x v).sn j = s.sn j := by cases v <;> simp [State.setB]
@[simp] theorem State.te_setB_frame (s : State) (x : Fld) (v : Bool) (j : Nat) : (s.setB x v).te j = s.te j := by cases v <;> simp [State.setB]
@[simp] theorem State.es_setB_frame (s : State) (x : Fld) (v : Bool) (j : Nat) : (s.setB x v).es j = s.es j := by cases v <;> simp [State.setB]
@[simp] theorem State.sl_setB_frame (s : State) (x : Fld) (v : Bool) (j : Nat) : (s.setB x v).sl j = s.sl j := by cases v <;> simp [State.setB]
@[simp] theorem State.pin_setB_frame (s : State) (x : Fld) (v : Bool) (j : Nat) : (s.setB x v).pin j = s.pin j := by cases v <;> simp [State.setB]
@[simp] theorem State.stl_setB_frame (s : State) (x : Fld) (v : Bool) (j : Nat) : (s.setB x v).stl j = s.stl j := by cases v <;> simp [State.setB]
@[simp] theorem State.src_setB_frame (s : State) (x : Fld) (v : Bool) (j : Nat) : (s.setB x v).src j = s.src j := by cases v <;> simp [State.setB]
@[simp] theorem State.part_setB_frame (s : State) (x : Fld) (v : Bool) (j : Nat) : (s.setB x v).part j = s.part j := by cases v <;> simp [State.setB]
@[simp] theorem State.tq_setB_frame (s : State) (x : Fld) (v : Bool) (j : Nat) : (s.setB x v).tq j = s.tq j := by cases v <;> simp [State.setB]
@[simp] theorem State.page_setB_frame (s : State) (x : Fld) (v : Bool) (j : Nat) : (s.setB x v).page j = s.page j := by cases v <;> simp [State.setB]
@[simp] theorem State.eng_setB_frame (s : State) (x : Fld) (v : Bool) (j : Nat) : (s.setB x v).eng j = s.eng j := by cases v <;> simp [State.setB]
@[simp] theorem State.rn_setB_frame (s : State) (x : Fld) (v : Bool) (j : Nat) : (s.setB x v).rn j = s.rn j := by cases v <;> simp [State.setB]
@[simp] theorem State.vlv_setB_frame (s : State) (x : Fld) (v : Bool) (j : Nat) : (s.setB x v).vlv j = s.vlv j := by cases v <;> simp [State.setB]
@[simp] theorem State.bk_setB_frame (s : State) (x : Fld) (v : Bool) (j : Nat) : (s.setB x v).bk j = s.bk j := by cases v <;> simp [State.setB]
@[simp] theorem State.port_setB_frame (s : State) (x : Fld) (v : Bool) (j : Nat) : (s.setB x v).port j = s.port j := by cases v <;> simp [State.setB]
@[simp] theorem State.mb_setB_frame (s : State) (x : Fld) (v : Bool) (j : Nat) : (s.setB x v).mb j = s.mb j := by cases v <;> simp [State.setB]
@[simp] theorem State.hold_setB_frame (s : State) (x : Fld) (v : Bool) (j : Nat) : (s.setB x v).hold j = s.hold j := by cases v <;> simp [State.setB]
@[simp] theorem State.ch_setB_frame (s : State) (x : Fld) (v : Bool) (j : Nat) : (s.setB x v).ch j = s.ch j := by cases v <;> simp [State.setB]
@[simp] theorem State.snaps_setB_frame (s : State) (x : Fld) (v : Bool) : (s.setB x v).snaps = s.snaps := by cases v <;> simp [State.setB]
@[simp] theorem State.lastRead_setB_frame (s : State) (x : Fld) (v : Bool) : (s.setB x v).lastRead = s.lastRead := by cases v <;> simp [State.setB]
@[simp] theorem State.stepped_setB_frame (s : State) (x : Fld) (v : Bool) : (s.setB x v).stepped = s.stepped := by cases v <;> simp [State.setB]
@[simp] theorem State.shadow_setB_frame (s : State) (x : Fld) (v : Bool) : (s.setB x v).shadow = s.shadow := by cases v <;> simp [State.setB]
@[simp] theorem State.ready_setB_frame (s : State) (x : Fld) (v : Bool) : (s.setB x v).ready = s.ready := by cases v <;> simp [State.setB]
@[simp] theorem State.staged_setB_frame (s : State) (x : Fld) (v : Bool) : (s.setB x v).staged = s.staged := by cases v <;> simp [State.setB]
@[simp] theorem State.stagedItems_setB_frame (s : State) (x : Fld) (v : Bool) : (s.setB x v).stagedItems = s.stagedItems := by cases v <;> simp [State.setB]
@[simp] theorem State.touched_setB_frame (s : State) (x : Fld) (v : Bool) : (s.setB x v).touched = s.touched := by cases v <;> simp [State.setB]
@[simp] theorem State.badWords_setB_frame (s : State) (x : Fld) (v : Bool) : (s.setB x v).badWords = s.badWords := by cases v <;> simp [State.setB]
@[simp] theorem State.tb_setB_frame (s : State) (x : Fld) (v : Bool) : (s.setB x v).tb = s.tb := by cases v <;> simp [State.setB]
@[simp] theorem State.points_setB_frame (s : State) (x : Fld) (v : Bool) : (s.setB x v).points = s.points := by cases v <;> simp [State.setB]
@[simp] theorem State.deferred_setB_frame (s : State) (x : Fld) (v : Bool) : (s.setB x v).deferred = s.deferred := by cases v <;> simp [State.setB]
@[simp] theorem State.placed_setB_frame (s : State) (x : Fld) (v : Bool) : (s.setB x v).placed = s.placed := by cases v <;> simp [State.setB]
@[simp] theorem State.flight_setB_frame (s : State) (x : Fld) (v : Bool) : (s.setB x v).flight = s.flight := by cases v <;> simp [State.setB]
@[simp] theorem State.pool_setB_frame (s : State) (x : Fld) (v : Bool) : (s.setB x v).pool = s.pool := by cases v <;> simp [State.setB]
@[simp] theorem State.trgWaits_setB_frame (s : State) (x : Fld) (v : Bool) : (s.setB x v).trgWaits = s.trgWaits := by cases v <;> simp [State.setB]
@[simp] theorem State.trkUndo_setB_frame (s : State) (x : Fld) (v : Bool) : (s.setB x v).trkUndo = s.trkUndo := by cases v <;> simp [State.setB]
@[simp] theorem State.snap_setB_frame (s : State) (x : Fld) (v : Bool) : (s.setB x v).snap = s.snap := by cases v <;> simp [State.setB]
@[simp] theorem State.bst_setB_frame (s : State) (x : Fld) (v : Bool) : (s.setB x v).bst = s.bst := by cases v <;> simp [State.setB]
@[simp] theorem State.pwr_setB_frame (s : State) (x : Fld) (v : Bool) : (s.setB x v).pwr = s.pwr := by cases v <;> simp [State.setB]
@[simp] theorem State.sys_setB_frame (s : State) (x : Fld) (v : Bool) : (s.setB x v).sys = s.sys := by cases v <;> simp [State.setB]
@[simp] theorem State.tth_setB_frame (s : State) (x : Fld) (v : Bool) : (s.setB x v).tth = s.tth := by cases v <;> simp [State.setB]
@[simp] theorem State.dma_setB_frame (s : State) (x : Fld) (v : Bool) : (s.setB x v).dma = s.dma := by cases v <;> simp [State.setB]
@[simp] theorem State.hostOut_setB_frame (s : State) (x : Fld) (v : Bool) : (s.setB x v).hostOut = s.hostOut := by cases v <;> simp [State.setB]
@[simp] theorem State.wakeLow_setB_frame (s : State) (x : Fld) (v : Bool) : (s.setB x v).wakeLow = s.wakeLow := by cases v <;> simp [State.setB]
@[simp] theorem State.fr_setB_frame (s : State) (x : Fld) (v : Bool) : (s.setB x v).fr = s.fr := by cases v <;> simp [State.setB]
@[simp] theorem State.pcie_setB_frame (s : State) (x : Fld) (v : Bool) : (s.setB x v).pcie = s.pcie := by cases v <;> simp [State.setB]
@[simp] theorem State.spi_setB_frame (s : State) (x : Fld) (v : Bool) : (s.setB x v).spi = s.spi := by cases v <;> simp [State.setB]
@[simp] theorem State.logQ_setB_frame (s : State) (x : Fld) (v : Bool) : (s.setB x v).logQ = s.logQ := by cases v <;> simp [State.setB]
@[simp] theorem State.logLost_setB_frame (s : State) (x : Fld) (v : Bool) : (s.setB x v).logLost = s.logLost := by cases v <;> simp [State.setB]
@[simp] theorem State.logHold_setB_frame (s : State) (x : Fld) (v : Bool) : (s.setB x v).logHold = s.logHold := by cases v <;> simp [State.setB]
@[simp] theorem State.logAt_setB_frame (s : State) (x : Fld) (v : Bool) : (s.setB x v).logAt = s.logAt := by cases v <;> simp [State.setB]
@[simp] theorem State.logTell_setB_frame (s : State) (x : Fld) (v : Bool) : (s.setB x v).logTell = s.logTell := by cases v <;> simp [State.setB]
@[simp] theorem State.logW_setB_frame (s : State) (x : Fld) (v : Bool) : (s.setB x v).logW = s.logW := by cases v <;> simp [State.setB]
@[simp] theorem State.once_setB_frame (s : State) (x : Fld) (v : Bool) : (s.setB x v).once = s.once := by cases v <;> simp [State.setB]
@[simp] theorem State.free_setB_frame (s : State) (x : Fld) (v : Bool) : (s.setB x v).free = s.free := by cases v <;> simp [State.setB]
@[simp] theorem State.pending_setB_frame (s : State) (x : Fld) (v : Bool) : (s.setB x v).pending = s.pending := by cases v <;> simp [State.setB]
@[simp] theorem State.now_setB_frame (s : State) (x : Fld) (v : Bool) : (s.setB x v).now = s.now := by cases v <;> simp [State.setB]

/-! ### Frame of flag -/

@[simp] theorem State.tr_flag_frame (s : State) (a k : Nat) (j : Nat) : (s.flag a k).tr j = s.tr j := by simp [State.flag]
@[simp] theorem State.sn_flag_frame (s : State) (a k : Nat) (j : Nat) : (s.flag a k).sn j = s.sn j := by simp [State.flag]
@[simp] theorem State.te_flag_frame (s : State) (a k : Nat) (j : Nat) : (s.flag a k).te j = s.te j := by simp [State.flag]
@[simp] theorem State.es_flag_frame (s : State) (a k : Nat) (j : Nat) : (s.flag a k).es j = s.es j := by simp [State.flag]
@[simp] theorem State.sl_flag_frame (s : State) (a k : Nat) (j : Nat) : (s.flag a k).sl j = s.sl j := by simp [State.flag]
@[simp] theorem State.pin_flag_frame (s : State) (a k : Nat) (j : Nat) : (s.flag a k).pin j = s.pin j := by simp [State.flag]
@[simp] theorem State.stl_flag_frame (s : State) (a k : Nat) (j : Nat) : (s.flag a k).stl j = s.stl j := by simp [State.flag]
@[simp] theorem State.src_flag_frame (s : State) (a k : Nat) (j : Nat) : (s.flag a k).src j = s.src j := by simp [State.flag]
@[simp] theorem State.part_flag_frame (s : State) (a k : Nat) (j : Nat) : (s.flag a k).part j = s.part j := by simp [State.flag]
@[simp] theorem State.tq_flag_frame (s : State) (a k : Nat) (j : Nat) : (s.flag a k).tq j = s.tq j := by simp [State.flag]
@[simp] theorem State.page_flag_frame (s : State) (a k : Nat) (j : Nat) : (s.flag a k).page j = s.page j := by simp [State.flag]
@[simp] theorem State.eng_flag_frame (s : State) (a k : Nat) (j : Nat) : (s.flag a k).eng j = s.eng j := by simp [State.flag]
@[simp] theorem State.rn_flag_frame (s : State) (a k : Nat) (j : Nat) : (s.flag a k).rn j = s.rn j := by simp [State.flag]
@[simp] theorem State.vlv_flag_frame (s : State) (a k : Nat) (j : Nat) : (s.flag a k).vlv j = s.vlv j := by simp [State.flag]
@[simp] theorem State.bk_flag_frame (s : State) (a k : Nat) (j : Nat) : (s.flag a k).bk j = s.bk j := by simp [State.flag]
@[simp] theorem State.port_flag_frame (s : State) (a k : Nat) (j : Nat) : (s.flag a k).port j = s.port j := by simp [State.flag]
@[simp] theorem State.mb_flag_frame (s : State) (a k : Nat) (j : Nat) : (s.flag a k).mb j = s.mb j := by simp [State.flag]
@[simp] theorem State.hold_flag_frame (s : State) (a k : Nat) (j : Nat) : (s.flag a k).hold j = s.hold j := by simp [State.flag]
@[simp] theorem State.ch_flag_frame (s : State) (a k : Nat) (j : Nat) : (s.flag a k).ch j = s.ch j := by simp [State.flag]
@[simp] theorem State.snaps_flag_frame (s : State) (a k : Nat) : (s.flag a k).snaps = s.snaps := by simp [State.flag]
@[simp] theorem State.lastRead_flag_frame (s : State) (a k : Nat) : (s.flag a k).lastRead = s.lastRead := by simp [State.flag]
@[simp] theorem State.stepped_flag_frame (s : State) (a k : Nat) : (s.flag a k).stepped = s.stepped := by simp [State.flag]
@[simp] theorem State.shadow_flag_frame (s : State) (a k : Nat) : (s.flag a k).shadow = s.shadow := by simp [State.flag]
@[simp] theorem State.ready_flag_frame (s : State) (a k : Nat) : (s.flag a k).ready = s.ready := by simp [State.flag]
@[simp] theorem State.staged_flag_frame (s : State) (a k : Nat) : (s.flag a k).staged = s.staged := by simp [State.flag]
@[simp] theorem State.stagedItems_flag_frame (s : State) (a k : Nat) : (s.flag a k).stagedItems = s.stagedItems := by simp [State.flag]
@[simp] theorem State.touched_flag_frame (s : State) (a k : Nat) : (s.flag a k).touched = s.touched := by simp [State.flag]
@[simp] theorem State.badWords_flag_frame (s : State) (a k : Nat) : (s.flag a k).badWords = s.badWords := by simp [State.flag]
@[simp] theorem State.tb_flag_frame (s : State) (a k : Nat) : (s.flag a k).tb = s.tb := by simp [State.flag]
@[simp] theorem State.points_flag_frame (s : State) (a k : Nat) : (s.flag a k).points = s.points := by simp [State.flag]
@[simp] theorem State.deferred_flag_frame (s : State) (a k : Nat) : (s.flag a k).deferred = s.deferred := by simp [State.flag]
@[simp] theorem State.placed_flag_frame (s : State) (a k : Nat) : (s.flag a k).placed = s.placed := by simp [State.flag]
@[simp] theorem State.flight_flag_frame (s : State) (a k : Nat) : (s.flag a k).flight = s.flight := by simp [State.flag]
@[simp] theorem State.pool_flag_frame (s : State) (a k : Nat) : (s.flag a k).pool = s.pool := by simp [State.flag]
@[simp] theorem State.trgWaits_flag_frame (s : State) (a k : Nat) : (s.flag a k).trgWaits = s.trgWaits := by simp [State.flag]
@[simp] theorem State.trkUndo_flag_frame (s : State) (a k : Nat) : (s.flag a k).trkUndo = s.trkUndo := by simp [State.flag]
@[simp] theorem State.snap_flag_frame (s : State) (a k : Nat) : (s.flag a k).snap = s.snap := by simp [State.flag]
@[simp] theorem State.bst_flag_frame (s : State) (a k : Nat) : (s.flag a k).bst = s.bst := by simp [State.flag]
@[simp] theorem State.pwr_flag_frame (s : State) (a k : Nat) : (s.flag a k).pwr = s.pwr := by simp [State.flag]
@[simp] theorem State.sys_flag_frame (s : State) (a k : Nat) : (s.flag a k).sys = s.sys := by simp [State.flag]
@[simp] theorem State.tth_flag_frame (s : State) (a k : Nat) : (s.flag a k).tth = s.tth := by simp [State.flag]
@[simp] theorem State.dma_flag_frame (s : State) (a k : Nat) : (s.flag a k).dma = s.dma := by simp [State.flag]
@[simp] theorem State.hostOut_flag_frame (s : State) (a k : Nat) : (s.flag a k).hostOut = s.hostOut := by simp [State.flag]
@[simp] theorem State.wakeLow_flag_frame (s : State) (a k : Nat) : (s.flag a k).wakeLow = s.wakeLow := by simp [State.flag]
@[simp] theorem State.fr_flag_frame (s : State) (a k : Nat) : (s.flag a k).fr = s.fr := by simp [State.flag]
@[simp] theorem State.pcie_flag_frame (s : State) (a k : Nat) : (s.flag a k).pcie = s.pcie := by simp [State.flag]
@[simp] theorem State.spi_flag_frame (s : State) (a k : Nat) : (s.flag a k).spi = s.spi := by simp [State.flag]
@[simp] theorem State.logQ_flag_frame (s : State) (a k : Nat) : (s.flag a k).logQ = s.logQ := by simp [State.flag]
@[simp] theorem State.logLost_flag_frame (s : State) (a k : Nat) : (s.flag a k).logLost = s.logLost := by simp [State.flag]
@[simp] theorem State.logHold_flag_frame (s : State) (a k : Nat) : (s.flag a k).logHold = s.logHold := by simp [State.flag]
@[simp] theorem State.logAt_flag_frame (s : State) (a k : Nat) : (s.flag a k).logAt = s.logAt := by simp [State.flag]
@[simp] theorem State.logTell_flag_frame (s : State) (a k : Nat) : (s.flag a k).logTell = s.logTell := by simp [State.flag]
@[simp] theorem State.logW_flag_frame (s : State) (a k : Nat) : (s.flag a k).logW = s.logW := by simp [State.flag]
@[simp] theorem State.once_flag_frame (s : State) (a k : Nat) : (s.flag a k).once = s.once := by simp [State.flag]
@[simp] theorem State.free_flag_frame (s : State) (a k : Nat) : (s.flag a k).free = s.free := by simp [State.flag]
@[simp] theorem State.pending_flag_frame (s : State) (a k : Nat) : (s.flag a k).pending = s.pending := by simp [State.flag]
@[simp] theorem State.now_flag_frame (s : State) (a k : Nat) : (s.flag a k).now = s.now := by simp [State.flag]

/-! ### Frame of unflag -/

@[simp] theorem State.tr_unflag_frame (s : State) (a k : Nat) (j : Nat) : (s.unflag a k).tr j = s.tr j := rfl
@[simp] theorem State.sn_unflag_frame (s : State) (a k : Nat) (j : Nat) : (s.unflag a k).sn j = s.sn j := rfl
@[simp] theorem State.te_unflag_frame (s : State) (a k : Nat) (j : Nat) : (s.unflag a k).te j = s.te j := rfl
@[simp] theorem State.es_unflag_frame (s : State) (a k : Nat) (j : Nat) : (s.unflag a k).es j = s.es j := rfl
@[simp] theorem State.sl_unflag_frame (s : State) (a k : Nat) (j : Nat) : (s.unflag a k).sl j = s.sl j := rfl
@[simp] theorem State.pin_unflag_frame (s : State) (a k : Nat) (j : Nat) : (s.unflag a k).pin j = s.pin j := rfl
@[simp] theorem State.stl_unflag_frame (s : State) (a k : Nat) (j : Nat) : (s.unflag a k).stl j = s.stl j := rfl
@[simp] theorem State.src_unflag_frame (s : State) (a k : Nat) (j : Nat) : (s.unflag a k).src j = s.src j := rfl
@[simp] theorem State.part_unflag_frame (s : State) (a k : Nat) (j : Nat) : (s.unflag a k).part j = s.part j := rfl
@[simp] theorem State.tq_unflag_frame (s : State) (a k : Nat) (j : Nat) : (s.unflag a k).tq j = s.tq j := rfl
@[simp] theorem State.page_unflag_frame (s : State) (a k : Nat) (j : Nat) : (s.unflag a k).page j = s.page j := rfl
@[simp] theorem State.eng_unflag_frame (s : State) (a k : Nat) (j : Nat) : (s.unflag a k).eng j = s.eng j := rfl
@[simp] theorem State.rn_unflag_frame (s : State) (a k : Nat) (j : Nat) : (s.unflag a k).rn j = s.rn j := rfl
@[simp] theorem State.vlv_unflag_frame (s : State) (a k : Nat) (j : Nat) : (s.unflag a k).vlv j = s.vlv j := rfl
@[simp] theorem State.bk_unflag_frame (s : State) (a k : Nat) (j : Nat) : (s.unflag a k).bk j = s.bk j := rfl
@[simp] theorem State.port_unflag_frame (s : State) (a k : Nat) (j : Nat) : (s.unflag a k).port j = s.port j := rfl
@[simp] theorem State.mb_unflag_frame (s : State) (a k : Nat) (j : Nat) : (s.unflag a k).mb j = s.mb j := rfl
@[simp] theorem State.hold_unflag_frame (s : State) (a k : Nat) (j : Nat) : (s.unflag a k).hold j = s.hold j := rfl
@[simp] theorem State.ch_unflag_frame (s : State) (a k : Nat) (j : Nat) : (s.unflag a k).ch j = s.ch j := rfl
@[simp] theorem State.snaps_unflag_frame (s : State) (a k : Nat) : (s.unflag a k).snaps = s.snaps := rfl
@[simp] theorem State.lastRead_unflag_frame (s : State) (a k : Nat) : (s.unflag a k).lastRead = s.lastRead := rfl
@[simp] theorem State.setNow_unflag_frame (s : State) (a k : Nat) : (s.unflag a k).setNow = s.setNow := rfl
@[simp] theorem State.stepped_unflag_frame (s : State) (a k : Nat) : (s.unflag a k).stepped = s.stepped := rfl
@[simp] theorem State.shadow_unflag_frame (s : State) (a k : Nat) : (s.unflag a k).shadow = s.shadow := rfl
@[simp] theorem State.ready_unflag_frame (s : State) (a k : Nat) : (s.unflag a k).ready = s.ready := rfl
@[simp] theorem State.staged_unflag_frame (s : State) (a k : Nat) : (s.unflag a k).staged = s.staged := rfl
@[simp] theorem State.stagedItems_unflag_frame (s : State) (a k : Nat) : (s.unflag a k).stagedItems = s.stagedItems := rfl
@[simp] theorem State.touched_unflag_frame (s : State) (a k : Nat) : (s.unflag a k).touched = s.touched := rfl
@[simp] theorem State.badWords_unflag_frame (s : State) (a k : Nat) : (s.unflag a k).badWords = s.badWords := rfl
@[simp] theorem State.tb_unflag_frame (s : State) (a k : Nat) : (s.unflag a k).tb = s.tb := rfl
@[simp] theorem State.points_unflag_frame (s : State) (a k : Nat) : (s.unflag a k).points = s.points := rfl
@[simp] theorem State.deferred_unflag_frame (s : State) (a k : Nat) : (s.unflag a k).deferred = s.deferred := rfl
@[simp] theorem State.placed_unflag_frame (s : State) (a k : Nat) : (s.unflag a k).placed = s.placed := rfl
@[simp] theorem State.flight_unflag_frame (s : State) (a k : Nat) : (s.unflag a k).flight = s.flight := rfl
@[simp] theorem State.pool_unflag_frame (s : State) (a k : Nat) : (s.unflag a k).pool = s.pool := rfl
@[simp] theorem State.trgWaits_unflag_frame (s : State) (a k : Nat) : (s.unflag a k).trgWaits = s.trgWaits := rfl
@[simp] theorem State.trkUndo_unflag_frame (s : State) (a k : Nat) : (s.unflag a k).trkUndo = s.trkUndo := rfl
@[simp] theorem State.snap_unflag_frame (s : State) (a k : Nat) : (s.unflag a k).snap = s.snap := rfl
@[simp] theorem State.bst_unflag_frame (s : State) (a k : Nat) : (s.unflag a k).bst = s.bst := rfl
@[simp] theorem State.pwr_unflag_frame (s : State) (a k : Nat) : (s.unflag a k).pwr = s.pwr := rfl
@[simp] theorem State.sys_unflag_frame (s : State) (a k : Nat) : (s.unflag a k).sys = s.sys := rfl
@[simp] theorem State.tth_unflag_frame (s : State) (a k : Nat) : (s.unflag a k).tth = s.tth := rfl
@[simp] theorem State.dma_unflag_frame (s : State) (a k : Nat) : (s.unflag a k).dma = s.dma := rfl
@[simp] theorem State.hostOut_unflag_frame (s : State) (a k : Nat) : (s.unflag a k).hostOut = s.hostOut := rfl
@[simp] theorem State.wakeLow_unflag_frame (s : State) (a k : Nat) : (s.unflag a k).wakeLow = s.wakeLow := rfl
@[simp] theorem State.fr_unflag_frame (s : State) (a k : Nat) : (s.unflag a k).fr = s.fr := rfl
@[simp] theorem State.pcie_unflag_frame (s : State) (a k : Nat) : (s.unflag a k).pcie = s.pcie := rfl
@[simp] theorem State.spi_unflag_frame (s : State) (a k : Nat) : (s.unflag a k).spi = s.spi := rfl
@[simp] theorem State.logQ_unflag_frame (s : State) (a k : Nat) : (s.unflag a k).logQ = s.logQ := rfl
@[simp] theorem State.logLost_unflag_frame (s : State) (a k : Nat) : (s.unflag a k).logLost = s.logLost := rfl
@[simp] theorem State.logHold_unflag_frame (s : State) (a k : Nat) : (s.unflag a k).logHold = s.logHold := rfl
@[simp] theorem State.logAt_unflag_frame (s : State) (a k : Nat) : (s.unflag a k).logAt = s.logAt := rfl
@[simp] theorem State.logTell_unflag_frame (s : State) (a k : Nat) : (s.unflag a k).logTell = s.logTell := rfl
@[simp] theorem State.logW_unflag_frame (s : State) (a k : Nat) : (s.unflag a k).logW = s.logW := rfl
@[simp] theorem State.once_unflag_frame (s : State) (a k : Nat) : (s.unflag a k).once = s.once := rfl
@[simp] theorem State.free_unflag_frame (s : State) (a k : Nat) : (s.unflag a k).free = s.free := rfl
@[simp] theorem State.pending_unflag_frame (s : State) (a k : Nat) : (s.unflag a k).pending = s.pending := rfl
@[simp] theorem State.now_unflag_frame (s : State) (a k : Nat) : (s.unflag a k).now = s.now := rfl

/-! ### Frame of bumpBy -/

@[simp] theorem State.tr_bumpBy_frame (s : State) (a k : Nat) (j : Nat) : (s.bumpBy a k).tr j = s.tr j := by simp [State.bumpBy]
@[simp] theorem State.sn_bumpBy_frame (s : State) (a k : Nat) (j : Nat) : (s.bumpBy a k).sn j = s.sn j := by simp [State.bumpBy]
@[simp] theorem State.te_bumpBy_frame (s : State) (a k : Nat) (j : Nat) : (s.bumpBy a k).te j = s.te j := by simp [State.bumpBy]
@[simp] theorem State.es_bumpBy_frame (s : State) (a k : Nat) (j : Nat) : (s.bumpBy a k).es j = s.es j := by simp [State.bumpBy]
@[simp] theorem State.sl_bumpBy_frame (s : State) (a k : Nat) (j : Nat) : (s.bumpBy a k).sl j = s.sl j := by simp [State.bumpBy]
@[simp] theorem State.pin_bumpBy_frame (s : State) (a k : Nat) (j : Nat) : (s.bumpBy a k).pin j = s.pin j := by simp [State.bumpBy]
@[simp] theorem State.stl_bumpBy_frame (s : State) (a k : Nat) (j : Nat) : (s.bumpBy a k).stl j = s.stl j := by simp [State.bumpBy]
@[simp] theorem State.src_bumpBy_frame (s : State) (a k : Nat) (j : Nat) : (s.bumpBy a k).src j = s.src j := by simp [State.bumpBy]
@[simp] theorem State.part_bumpBy_frame (s : State) (a k : Nat) (j : Nat) : (s.bumpBy a k).part j = s.part j := by simp [State.bumpBy]
@[simp] theorem State.tq_bumpBy_frame (s : State) (a k : Nat) (j : Nat) : (s.bumpBy a k).tq j = s.tq j := by simp [State.bumpBy]
@[simp] theorem State.page_bumpBy_frame (s : State) (a k : Nat) (j : Nat) : (s.bumpBy a k).page j = s.page j := by simp [State.bumpBy]
@[simp] theorem State.eng_bumpBy_frame (s : State) (a k : Nat) (j : Nat) : (s.bumpBy a k).eng j = s.eng j := by simp [State.bumpBy]
@[simp] theorem State.rn_bumpBy_frame (s : State) (a k : Nat) (j : Nat) : (s.bumpBy a k).rn j = s.rn j := by simp [State.bumpBy]
@[simp] theorem State.vlv_bumpBy_frame (s : State) (a k : Nat) (j : Nat) : (s.bumpBy a k).vlv j = s.vlv j := by simp [State.bumpBy]
@[simp] theorem State.bk_bumpBy_frame (s : State) (a k : Nat) (j : Nat) : (s.bumpBy a k).bk j = s.bk j := by simp [State.bumpBy]
@[simp] theorem State.port_bumpBy_frame (s : State) (a k : Nat) (j : Nat) : (s.bumpBy a k).port j = s.port j := by simp [State.bumpBy]
@[simp] theorem State.mb_bumpBy_frame (s : State) (a k : Nat) (j : Nat) : (s.bumpBy a k).mb j = s.mb j := by simp [State.bumpBy]
@[simp] theorem State.hold_bumpBy_frame (s : State) (a k : Nat) (j : Nat) : (s.bumpBy a k).hold j = s.hold j := by simp [State.bumpBy]
@[simp] theorem State.ch_bumpBy_frame (s : State) (a k : Nat) (j : Nat) : (s.bumpBy a k).ch j = s.ch j := by simp [State.bumpBy]
@[simp] theorem State.snaps_bumpBy_frame (s : State) (a k : Nat) : (s.bumpBy a k).snaps = s.snaps := by simp [State.bumpBy]
@[simp] theorem State.lastRead_bumpBy_frame (s : State) (a k : Nat) : (s.bumpBy a k).lastRead = s.lastRead := by simp [State.bumpBy]
@[simp] theorem State.stepped_bumpBy_frame (s : State) (a k : Nat) : (s.bumpBy a k).stepped = s.stepped := by simp [State.bumpBy]
@[simp] theorem State.shadow_bumpBy_frame (s : State) (a k : Nat) : (s.bumpBy a k).shadow = s.shadow := by simp [State.bumpBy]
@[simp] theorem State.ready_bumpBy_frame (s : State) (a k : Nat) : (s.bumpBy a k).ready = s.ready := by simp [State.bumpBy]
@[simp] theorem State.staged_bumpBy_frame (s : State) (a k : Nat) : (s.bumpBy a k).staged = s.staged := by simp [State.bumpBy]
@[simp] theorem State.stagedItems_bumpBy_frame (s : State) (a k : Nat) : (s.bumpBy a k).stagedItems = s.stagedItems := by simp [State.bumpBy]
@[simp] theorem State.touched_bumpBy_frame (s : State) (a k : Nat) : (s.bumpBy a k).touched = s.touched := by simp [State.bumpBy]
@[simp] theorem State.badWords_bumpBy_frame (s : State) (a k : Nat) : (s.bumpBy a k).badWords = s.badWords := by simp [State.bumpBy]
@[simp] theorem State.tb_bumpBy_frame (s : State) (a k : Nat) : (s.bumpBy a k).tb = s.tb := by simp [State.bumpBy]
@[simp] theorem State.points_bumpBy_frame (s : State) (a k : Nat) : (s.bumpBy a k).points = s.points := by simp [State.bumpBy]
@[simp] theorem State.deferred_bumpBy_frame (s : State) (a k : Nat) : (s.bumpBy a k).deferred = s.deferred := by simp [State.bumpBy]
@[simp] theorem State.placed_bumpBy_frame (s : State) (a k : Nat) : (s.bumpBy a k).placed = s.placed := by simp [State.bumpBy]
@[simp] theorem State.flight_bumpBy_frame (s : State) (a k : Nat) : (s.bumpBy a k).flight = s.flight := by simp [State.bumpBy]
@[simp] theorem State.pool_bumpBy_frame (s : State) (a k : Nat) : (s.bumpBy a k).pool = s.pool := by simp [State.bumpBy]
@[simp] theorem State.trgWaits_bumpBy_frame (s : State) (a k : Nat) : (s.bumpBy a k).trgWaits = s.trgWaits := by simp [State.bumpBy]
@[simp] theorem State.trkUndo_bumpBy_frame (s : State) (a k : Nat) : (s.bumpBy a k).trkUndo = s.trkUndo := by simp [State.bumpBy]
@[simp] theorem State.snap_bumpBy_frame (s : State) (a k : Nat) : (s.bumpBy a k).snap = s.snap := by simp [State.bumpBy]
@[simp] theorem State.bst_bumpBy_frame (s : State) (a k : Nat) : (s.bumpBy a k).bst = s.bst := by simp [State.bumpBy]
@[simp] theorem State.pwr_bumpBy_frame (s : State) (a k : Nat) : (s.bumpBy a k).pwr = s.pwr := by simp [State.bumpBy]
@[simp] theorem State.sys_bumpBy_frame (s : State) (a k : Nat) : (s.bumpBy a k).sys = s.sys := by simp [State.bumpBy]
@[simp] theorem State.tth_bumpBy_frame (s : State) (a k : Nat) : (s.bumpBy a k).tth = s.tth := by simp [State.bumpBy]
@[simp] theorem State.dma_bumpBy_frame (s : State) (a k : Nat) : (s.bumpBy a k).dma = s.dma := by simp [State.bumpBy]
@[simp] theorem State.hostOut_bumpBy_frame (s : State) (a k : Nat) : (s.bumpBy a k).hostOut = s.hostOut := by simp [State.bumpBy]
@[simp] theorem State.wakeLow_bumpBy_frame (s : State) (a k : Nat) : (s.bumpBy a k).wakeLow = s.wakeLow := by simp [State.bumpBy]
@[simp] theorem State.fr_bumpBy_frame (s : State) (a k : Nat) : (s.bumpBy a k).fr = s.fr := by simp [State.bumpBy]
@[simp] theorem State.pcie_bumpBy_frame (s : State) (a k : Nat) : (s.bumpBy a k).pcie = s.pcie := by simp [State.bumpBy]
@[simp] theorem State.spi_bumpBy_frame (s : State) (a k : Nat) : (s.bumpBy a k).spi = s.spi := by simp [State.bumpBy]
@[simp] theorem State.logQ_bumpBy_frame (s : State) (a k : Nat) : (s.bumpBy a k).logQ = s.logQ := by simp [State.bumpBy]
@[simp] theorem State.logLost_bumpBy_frame (s : State) (a k : Nat) : (s.bumpBy a k).logLost = s.logLost := by simp [State.bumpBy]
@[simp] theorem State.logHold_bumpBy_frame (s : State) (a k : Nat) : (s.bumpBy a k).logHold = s.logHold := by simp [State.bumpBy]
@[simp] theorem State.logAt_bumpBy_frame (s : State) (a k : Nat) : (s.bumpBy a k).logAt = s.logAt := by simp [State.bumpBy]
@[simp] theorem State.logTell_bumpBy_frame (s : State) (a k : Nat) : (s.bumpBy a k).logTell = s.logTell := by simp [State.bumpBy]
@[simp] theorem State.logW_bumpBy_frame (s : State) (a k : Nat) : (s.bumpBy a k).logW = s.logW := by simp [State.bumpBy]
@[simp] theorem State.once_bumpBy_frame (s : State) (a k : Nat) : (s.bumpBy a k).once = s.once := by simp [State.bumpBy]
@[simp] theorem State.free_bumpBy_frame (s : State) (a k : Nat) : (s.bumpBy a k).free = s.free := by simp [State.bumpBy]
@[simp] theorem State.pending_bumpBy_frame (s : State) (a k : Nat) : (s.bumpBy a k).pending = s.pending := by simp [State.bumpBy]
@[simp] theorem State.now_bumpBy_frame (s : State) (a k : Nat) : (s.bumpBy a k).now = s.now := by simp [State.bumpBy]

/-! ### Frame of bump -/

@[simp] theorem State.tr_bump_frame (s : State) (a : Nat) (j : Nat) : (s.bump a).tr j = s.tr j := by simp [State.bump]
@[simp] theorem State.sn_bump_frame (s : State) (a : Nat) (j : Nat) : (s.bump a).sn j = s.sn j := by simp [State.bump]
@[simp] theorem State.te_bump_frame (s : State) (a : Nat) (j : Nat) : (s.bump a).te j = s.te j := by simp [State.bump]
@[simp] theorem State.es_bump_frame (s : State) (a : Nat) (j : Nat) : (s.bump a).es j = s.es j := by simp [State.bump]
@[simp] theorem State.sl_bump_frame (s : State) (a : Nat) (j : Nat) : (s.bump a).sl j = s.sl j := by simp [State.bump]
@[simp] theorem State.pin_bump_frame (s : State) (a : Nat) (j : Nat) : (s.bump a).pin j = s.pin j := by simp [State.bump]
@[simp] theorem State.stl_bump_frame (s : State) (a : Nat) (j : Nat) : (s.bump a).stl j = s.stl j := by simp [State.bump]
@[simp] theorem State.src_bump_frame (s : State) (a : Nat) (j : Nat) : (s.bump a).src j = s.src j := by simp [State.bump]
@[simp] theorem State.part_bump_frame (s : State) (a : Nat) (j : Nat) : (s.bump a).part j = s.part j := by simp [State.bump]
@[simp] theorem State.tq_bump_frame (s : State) (a : Nat) (j : Nat) : (s.bump a).tq j = s.tq j := by simp [State.bump]
@[simp] theorem State.page_bump_frame (s : State) (a : Nat) (j : Nat) : (s.bump a).page j = s.page j := by simp [State.bump]
@[simp] theorem State.eng_bump_frame (s : State) (a : Nat) (j : Nat) : (s.bump a).eng j = s.eng j := by simp [State.bump]
@[simp] theorem State.rn_bump_frame (s : State) (a : Nat) (j : Nat) : (s.bump a).rn j = s.rn j := by simp [State.bump]
@[simp] theorem State.vlv_bump_frame (s : State) (a : Nat) (j : Nat) : (s.bump a).vlv j = s.vlv j := by simp [State.bump]
@[simp] theorem State.bk_bump_frame (s : State) (a : Nat) (j : Nat) : (s.bump a).bk j = s.bk j := by simp [State.bump]
@[simp] theorem State.port_bump_frame (s : State) (a : Nat) (j : Nat) : (s.bump a).port j = s.port j := by simp [State.bump]
@[simp] theorem State.mb_bump_frame (s : State) (a : Nat) (j : Nat) : (s.bump a).mb j = s.mb j := by simp [State.bump]
@[simp] theorem State.hold_bump_frame (s : State) (a : Nat) (j : Nat) : (s.bump a).hold j = s.hold j := by simp [State.bump]
@[simp] theorem State.ch_bump_frame (s : State) (a : Nat) (j : Nat) : (s.bump a).ch j = s.ch j := by simp [State.bump]
@[simp] theorem State.snaps_bump_frame (s : State) (a : Nat) : (s.bump a).snaps = s.snaps := by simp [State.bump]
@[simp] theorem State.lastRead_bump_frame (s : State) (a : Nat) : (s.bump a).lastRead = s.lastRead := by simp [State.bump]
@[simp] theorem State.stepped_bump_frame (s : State) (a : Nat) : (s.bump a).stepped = s.stepped := by simp [State.bump]
@[simp] theorem State.shadow_bump_frame (s : State) (a : Nat) : (s.bump a).shadow = s.shadow := by simp [State.bump]
@[simp] theorem State.ready_bump_frame (s : State) (a : Nat) : (s.bump a).ready = s.ready := by simp [State.bump]
@[simp] theorem State.staged_bump_frame (s : State) (a : Nat) : (s.bump a).staged = s.staged := by simp [State.bump]
@[simp] theorem State.stagedItems_bump_frame (s : State) (a : Nat) : (s.bump a).stagedItems = s.stagedItems := by simp [State.bump]
@[simp] theorem State.touched_bump_frame (s : State) (a : Nat) : (s.bump a).touched = s.touched := by simp [State.bump]
@[simp] theorem State.badWords_bump_frame (s : State) (a : Nat) : (s.bump a).badWords = s.badWords := by simp [State.bump]
@[simp] theorem State.tb_bump_frame (s : State) (a : Nat) : (s.bump a).tb = s.tb := by simp [State.bump]
@[simp] theorem State.points_bump_frame (s : State) (a : Nat) : (s.bump a).points = s.points := by simp [State.bump]
@[simp] theorem State.deferred_bump_frame (s : State) (a : Nat) : (s.bump a).deferred = s.deferred := by simp [State.bump]
@[simp] theorem State.placed_bump_frame (s : State) (a : Nat) : (s.bump a).placed = s.placed := by simp [State.bump]
@[simp] theorem State.flight_bump_frame (s : State) (a : Nat) : (s.bump a).flight = s.flight := by simp [State.bump]
@[simp] theorem State.pool_bump_frame (s : State) (a : Nat) : (s.bump a).pool = s.pool := by simp [State.bump]
@[simp] theorem State.trgWaits_bump_frame (s : State) (a : Nat) : (s.bump a).trgWaits = s.trgWaits := by simp [State.bump]
@[simp] theorem State.trkUndo_bump_frame (s : State) (a : Nat) : (s.bump a).trkUndo = s.trkUndo := by simp [State.bump]
@[simp] theorem State.snap_bump_frame (s : State) (a : Nat) : (s.bump a).snap = s.snap := by simp [State.bump]
@[simp] theorem State.bst_bump_frame (s : State) (a : Nat) : (s.bump a).bst = s.bst := by simp [State.bump]
@[simp] theorem State.pwr_bump_frame (s : State) (a : Nat) : (s.bump a).pwr = s.pwr := by simp [State.bump]
@[simp] theorem State.sys_bump_frame (s : State) (a : Nat) : (s.bump a).sys = s.sys := by simp [State.bump]
@[simp] theorem State.tth_bump_frame (s : State) (a : Nat) : (s.bump a).tth = s.tth := by simp [State.bump]
@[simp] theorem State.dma_bump_frame (s : State) (a : Nat) : (s.bump a).dma = s.dma := by simp [State.bump]
@[simp] theorem State.hostOut_bump_frame (s : State) (a : Nat) : (s.bump a).hostOut = s.hostOut := by simp [State.bump]
@[simp] theorem State.wakeLow_bump_frame (s : State) (a : Nat) : (s.bump a).wakeLow = s.wakeLow := by simp [State.bump]
@[simp] theorem State.fr_bump_frame (s : State) (a : Nat) : (s.bump a).fr = s.fr := by simp [State.bump]
@[simp] theorem State.pcie_bump_frame (s : State) (a : Nat) : (s.bump a).pcie = s.pcie := by simp [State.bump]
@[simp] theorem State.spi_bump_frame (s : State) (a : Nat) : (s.bump a).spi = s.spi := by simp [State.bump]
@[simp] theorem State.logQ_bump_frame (s : State) (a : Nat) : (s.bump a).logQ = s.logQ := by simp [State.bump]
@[simp] theorem State.logLost_bump_frame (s : State) (a : Nat) : (s.bump a).logLost = s.logLost := by simp [State.bump]
@[simp] theorem State.logHold_bump_frame (s : State) (a : Nat) : (s.bump a).logHold = s.logHold := by simp [State.bump]
@[simp] theorem State.logAt_bump_frame (s : State) (a : Nat) : (s.bump a).logAt = s.logAt := by simp [State.bump]
@[simp] theorem State.logTell_bump_frame (s : State) (a : Nat) : (s.bump a).logTell = s.logTell := by simp [State.bump]
@[simp] theorem State.logW_bump_frame (s : State) (a : Nat) : (s.bump a).logW = s.logW := by simp [State.bump]
@[simp] theorem State.once_bump_frame (s : State) (a : Nat) : (s.bump a).once = s.once := by simp [State.bump]
@[simp] theorem State.free_bump_frame (s : State) (a : Nat) : (s.bump a).free = s.free := by simp [State.bump]
@[simp] theorem State.pending_bump_frame (s : State) (a : Nat) : (s.bump a).pending = s.pending := by simp [State.bump]
@[simp] theorem State.now_bump_frame (s : State) (a : Nat) : (s.bump a).now = s.now := by simp [State.bump]

/-! ### Frame of plainWr -/

@[simp] theorem State.tr_plainWr_frame (s : State) (a : Nat) (v : Word) (j : Nat) : (s.plainWr a v).tr j = s.tr j := rfl
@[simp] theorem State.sn_plainWr_frame (s : State) (a : Nat) (v : Word) (j : Nat) : (s.plainWr a v).sn j = s.sn j := rfl
@[simp] theorem State.te_plainWr_frame (s : State) (a : Nat) (v : Word) (j : Nat) : (s.plainWr a v).te j = s.te j := rfl
@[simp] theorem State.es_plainWr_frame (s : State) (a : Nat) (v : Word) (j : Nat) : (s.plainWr a v).es j = s.es j := rfl
@[simp] theorem State.sl_plainWr_frame (s : State) (a : Nat) (v : Word) (j : Nat) : (s.plainWr a v).sl j = s.sl j := rfl
@[simp] theorem State.pin_plainWr_frame (s : State) (a : Nat) (v : Word) (j : Nat) : (s.plainWr a v).pin j = s.pin j := rfl
@[simp] theorem State.stl_plainWr_frame (s : State) (a : Nat) (v : Word) (j : Nat) : (s.plainWr a v).stl j = s.stl j := rfl
@[simp] theorem State.src_plainWr_frame (s : State) (a : Nat) (v : Word) (j : Nat) : (s.plainWr a v).src j = s.src j := rfl
@[simp] theorem State.part_plainWr_frame (s : State) (a : Nat) (v : Word) (j : Nat) : (s.plainWr a v).part j = s.part j := rfl
@[simp] theorem State.tq_plainWr_frame (s : State) (a : Nat) (v : Word) (j : Nat) : (s.plainWr a v).tq j = s.tq j := rfl
@[simp] theorem State.page_plainWr_frame (s : State) (a : Nat) (v : Word) (j : Nat) : (s.plainWr a v).page j = s.page j := rfl
@[simp] theorem State.eng_plainWr_frame (s : State) (a : Nat) (v : Word) (j : Nat) : (s.plainWr a v).eng j = s.eng j := rfl
@[simp] theorem State.rn_plainWr_frame (s : State) (a : Nat) (v : Word) (j : Nat) : (s.plainWr a v).rn j = s.rn j := rfl
@[simp] theorem State.vlv_plainWr_frame (s : State) (a : Nat) (v : Word) (j : Nat) : (s.plainWr a v).vlv j = s.vlv j := rfl
@[simp] theorem State.bk_plainWr_frame (s : State) (a : Nat) (v : Word) (j : Nat) : (s.plainWr a v).bk j = s.bk j := rfl
@[simp] theorem State.port_plainWr_frame (s : State) (a : Nat) (v : Word) (j : Nat) : (s.plainWr a v).port j = s.port j := rfl
@[simp] theorem State.mb_plainWr_frame (s : State) (a : Nat) (v : Word) (j : Nat) : (s.plainWr a v).mb j = s.mb j := rfl
@[simp] theorem State.hold_plainWr_frame (s : State) (a : Nat) (v : Word) (j : Nat) : (s.plainWr a v).hold j = s.hold j := rfl
@[simp] theorem State.ch_plainWr_frame (s : State) (a : Nat) (v : Word) (j : Nat) : (s.plainWr a v).ch j = s.ch j := rfl
@[simp] theorem State.snaps_plainWr_frame (s : State) (a : Nat) (v : Word) : (s.plainWr a v).snaps = s.snaps := rfl
@[simp] theorem State.lastRead_plainWr_frame (s : State) (a : Nat) (v : Word) : (s.plainWr a v).lastRead = s.lastRead := rfl
@[simp] theorem State.setNow_plainWr_frame (s : State) (a : Nat) (v : Word) : (s.plainWr a v).setNow = s.setNow := rfl
@[simp] theorem State.stepped_plainWr_frame (s : State) (a : Nat) (v : Word) : (s.plainWr a v).stepped = s.stepped := rfl
@[simp] theorem State.shadow_plainWr_frame (s : State) (a : Nat) (v : Word) : (s.plainWr a v).shadow = s.shadow := rfl
@[simp] theorem State.ready_plainWr_frame (s : State) (a : Nat) (v : Word) : (s.plainWr a v).ready = s.ready := rfl
@[simp] theorem State.staged_plainWr_frame (s : State) (a : Nat) (v : Word) : (s.plainWr a v).staged = s.staged := rfl
@[simp] theorem State.stagedItems_plainWr_frame (s : State) (a : Nat) (v : Word) : (s.plainWr a v).stagedItems = s.stagedItems := rfl
@[simp] theorem State.touched_plainWr_frame (s : State) (a : Nat) (v : Word) : (s.plainWr a v).touched = s.touched := rfl
@[simp] theorem State.badWords_plainWr_frame (s : State) (a : Nat) (v : Word) : (s.plainWr a v).badWords = s.badWords := rfl
@[simp] theorem State.tb_plainWr_frame (s : State) (a : Nat) (v : Word) : (s.plainWr a v).tb = s.tb := rfl
@[simp] theorem State.points_plainWr_frame (s : State) (a : Nat) (v : Word) : (s.plainWr a v).points = s.points := rfl
@[simp] theorem State.deferred_plainWr_frame (s : State) (a : Nat) (v : Word) : (s.plainWr a v).deferred = s.deferred := rfl
@[simp] theorem State.placed_plainWr_frame (s : State) (a : Nat) (v : Word) : (s.plainWr a v).placed = s.placed := rfl
@[simp] theorem State.flight_plainWr_frame (s : State) (a : Nat) (v : Word) : (s.plainWr a v).flight = s.flight := rfl
@[simp] theorem State.pool_plainWr_frame (s : State) (a : Nat) (v : Word) : (s.plainWr a v).pool = s.pool := rfl
@[simp] theorem State.trgWaits_plainWr_frame (s : State) (a : Nat) (v : Word) : (s.plainWr a v).trgWaits = s.trgWaits := rfl
@[simp] theorem State.trkUndo_plainWr_frame (s : State) (a : Nat) (v : Word) : (s.plainWr a v).trkUndo = s.trkUndo := rfl
@[simp] theorem State.snap_plainWr_frame (s : State) (a : Nat) (v : Word) : (s.plainWr a v).snap = s.snap := rfl
@[simp] theorem State.bst_plainWr_frame (s : State) (a : Nat) (v : Word) : (s.plainWr a v).bst = s.bst := rfl
@[simp] theorem State.pwr_plainWr_frame (s : State) (a : Nat) (v : Word) : (s.plainWr a v).pwr = s.pwr := rfl
@[simp] theorem State.sys_plainWr_frame (s : State) (a : Nat) (v : Word) : (s.plainWr a v).sys = s.sys := rfl
@[simp] theorem State.tth_plainWr_frame (s : State) (a : Nat) (v : Word) : (s.plainWr a v).tth = s.tth := rfl
@[simp] theorem State.dma_plainWr_frame (s : State) (a : Nat) (v : Word) : (s.plainWr a v).dma = s.dma := rfl
@[simp] theorem State.hostOut_plainWr_frame (s : State) (a : Nat) (v : Word) : (s.plainWr a v).hostOut = s.hostOut := rfl
@[simp] theorem State.wakeLow_plainWr_frame (s : State) (a : Nat) (v : Word) : (s.plainWr a v).wakeLow = s.wakeLow := rfl
@[simp] theorem State.fr_plainWr_frame (s : State) (a : Nat) (v : Word) : (s.plainWr a v).fr = s.fr := rfl
@[simp] theorem State.pcie_plainWr_frame (s : State) (a : Nat) (v : Word) : (s.plainWr a v).pcie = s.pcie := rfl
@[simp] theorem State.spi_plainWr_frame (s : State) (a : Nat) (v : Word) : (s.plainWr a v).spi = s.spi := rfl
@[simp] theorem State.logQ_plainWr_frame (s : State) (a : Nat) (v : Word) : (s.plainWr a v).logQ = s.logQ := rfl
@[simp] theorem State.logLost_plainWr_frame (s : State) (a : Nat) (v : Word) : (s.plainWr a v).logLost = s.logLost := rfl
@[simp] theorem State.logHold_plainWr_frame (s : State) (a : Nat) (v : Word) : (s.plainWr a v).logHold = s.logHold := rfl
@[simp] theorem State.logAt_plainWr_frame (s : State) (a : Nat) (v : Word) : (s.plainWr a v).logAt = s.logAt := rfl
@[simp] theorem State.logTell_plainWr_frame (s : State) (a : Nat) (v : Word) : (s.plainWr a v).logTell = s.logTell := rfl
@[simp] theorem State.logW_plainWr_frame (s : State) (a : Nat) (v : Word) : (s.plainWr a v).logW = s.logW := rfl
@[simp] theorem State.once_plainWr_frame (s : State) (a : Nat) (v : Word) : (s.plainWr a v).once = s.once := rfl
@[simp] theorem State.free_plainWr_frame (s : State) (a : Nat) (v : Word) : (s.plainWr a v).free = s.free := rfl
@[simp] theorem State.pending_plainWr_frame (s : State) (a : Nat) (v : Word) : (s.plainWr a v).pending = s.pending := rfl
@[simp] theorem State.now_plainWr_frame (s : State) (a : Nat) (v : Word) : (s.plainWr a v).now = s.now := rfl

/-! ### The log -/

/-- A report changes no register but the lost count, and that only when the queue is full (R391). -/
theorem State.rd_log (s : State) (c : LogCode) (src det : Nat) {a : Nat} (h : a ≠ R.LOG_LOST) :
    (s.log c src det).rd a = s.rd a := by
  unfold State.log
  split
  · exact (State.rd_wr_other _ _ h).trans (State.rd_note_frame s R.LOG_LOST _ a)
  · rfl

/-- A report that finds room is queued, at most 32 of them (R391). -/
theorem State.logQ_log_length (s : State) (c : LogCode) (src det : Nat) (h : s.logQ.length ≤ 32) :
    (s.log c src det).logQ.length ≤ 32 := by
  have len : ∀ (r : Report) (l : List Report), (queueIn r l).length = l.length + 1 := by
    intro r l
    induction l with
    | nil => rfl
    | cons x xs ih =>
      unfold queueIn
      split
      · rfl
      · simp [ih]
  unfold State.log
  split
  · exact (State.logQ_bump_frame s R.LOG_LOST).symm ▸ h
  · rename_i hlt
    simp only [len]
    omega


/-! ### Frame of log -/

@[simp] theorem State.tr_log_frame (s : State) (c : LogCode) (x d : Nat) (j : Nat) : (s.log c x d).tr j = s.tr j := by
  unfold State.log
  split
  · exact State.tr_bump_frame s R.LOG_LOST j
  · rfl
@[simp] theorem State.sn_log_frame (s : State) (c : LogCode) (x d : Nat) (j : Nat) : (s.log c x d).sn j = s.sn j := by
  unfold State.log
  split
  · exact State.sn_bump_frame s R.LOG_LOST j
  · rfl
@[simp] theorem State.te_log_frame (s : State) (c : LogCode) (x d : Nat) (j : Nat) : (s.log c x d).te j = s.te j := by
  unfold State.log
  split
  · exact State.te_bump_frame s R.LOG_LOST j
  · rfl
@[simp] theorem State.es_log_frame (s : State) (c : LogCode) (x d : Nat) (j : Nat) : (s.log c x d).es j = s.es j := by
  unfold State.log
  split
  · exact State.es_bump_frame s R.LOG_LOST j
  · rfl
@[simp] theorem State.sl_log_frame (s : State) (c : LogCode) (x d : Nat) (j : Nat) : (s.log c x d).sl j = s.sl j := by
  unfold State.log
  split
  · exact State.sl_bump_frame s R.LOG_LOST j
  · rfl
@[simp] theorem State.pin_log_frame (s : State) (c : LogCode) (x d : Nat) (j : Nat) : (s.log c x d).pin j = s.pin j := by
  unfold State.log
  split
  · exact State.pin_bump_frame s R.LOG_LOST j
  · rfl
@[simp] theorem State.stl_log_frame (s : State) (c : LogCode) (x d : Nat) (j : Nat) : (s.log c x d).stl j = s.stl j := by
  unfold State.log
  split
  · exact State.stl_bump_frame s R.LOG_LOST j
  · rfl
@[simp] theorem State.src_log_frame (s : State) (c : LogCode) (x d : Nat) (j : Nat) : (s.log c x d).src j = s.src j := by
  unfold State.log
  split
  · exact State.src_bump_frame s R.LOG_LOST j
  · rfl
@[simp] theorem State.part_log_frame (s : State) (c : LogCode) (x d : Nat) (j : Nat) : (s.log c x d).part j = s.part j := by
  unfold State.log
  split
  · exact State.part_bump_frame s R.LOG_LOST j
  · rfl
@[simp] theorem State.tq_log_frame (s : State) (c : LogCode) (x d : Nat) (j : Nat) : (s.log c x d).tq j = s.tq j := by
  unfold State.log
  split
  · exact State.tq_bump_frame s R.LOG_LOST j
  · rfl
@[simp] theorem State.page_log_frame (s : State) (c : LogCode) (x d : Nat) (j : Nat) : (s.log c x d).page j = s.page j := by
  unfold State.log
  split
  · exact State.page_bump_frame s R.LOG_LOST j
  · rfl
@[simp] theorem State.eng_log_frame (s : State) (c : LogCode) (x d : Nat) (j : Nat) : (s.log c x d).eng j = s.eng j := by
  unfold State.log
  split
  · exact State.eng_bump_frame s R.LOG_LOST j
  · rfl
@[simp] theorem State.rn_log_frame (s : State) (c : LogCode) (x d : Nat) (j : Nat) : (s.log c x d).rn j = s.rn j := by
  unfold State.log
  split
  · exact State.rn_bump_frame s R.LOG_LOST j
  · rfl
@[simp] theorem State.vlv_log_frame (s : State) (c : LogCode) (x d : Nat) (j : Nat) : (s.log c x d).vlv j = s.vlv j := by
  unfold State.log
  split
  · exact State.vlv_bump_frame s R.LOG_LOST j
  · rfl
@[simp] theorem State.bk_log_frame (s : State) (c : LogCode) (x d : Nat) (j : Nat) : (s.log c x d).bk j = s.bk j := by
  unfold State.log
  split
  · exact State.bk_bump_frame s R.LOG_LOST j
  · rfl
@[simp] theorem State.port_log_frame (s : State) (c : LogCode) (x d : Nat) (j : Nat) : (s.log c x d).port j = s.port j := by
  unfold State.log
  split
  · exact State.port_bump_frame s R.LOG_LOST j
  · rfl
@[simp] theorem State.mb_log_frame (s : State) (c : LogCode) (x d : Nat) (j : Nat) : (s.log c x d).mb j = s.mb j := by
  unfold State.log
  split
  · exact State.mb_bump_frame s R.LOG_LOST j
  · rfl
@[simp] theorem State.hold_log_frame (s : State) (c : LogCode) (x d : Nat) (j : Nat) : (s.log c x d).hold j = s.hold j := by
  unfold State.log
  split
  · exact State.hold_bump_frame s R.LOG_LOST j
  · rfl
@[simp] theorem State.ch_log_frame (s : State) (c : LogCode) (x d : Nat) (j : Nat) : (s.log c x d).ch j = s.ch j := by
  unfold State.log
  split
  · exact State.ch_bump_frame s R.LOG_LOST j
  · rfl
@[simp] theorem State.snaps_log_frame (s : State) (c : LogCode) (x d : Nat) : (s.log c x d).snaps = s.snaps := by
  unfold State.log
  split
  · exact State.snaps_bump_frame s R.LOG_LOST
  · rfl
@[simp] theorem State.lastRead_log_frame (s : State) (c : LogCode) (x d : Nat) : (s.log c x d).lastRead = s.lastRead := by
  unfold State.log
  split
  · exact State.lastRead_bump_frame s R.LOG_LOST
  · rfl
@[simp] theorem State.stepped_log_frame (s : State) (c : LogCode) (x d : Nat) : (s.log c x d).stepped = s.stepped := by
  unfold State.log
  split
  · exact State.stepped_bump_frame s R.LOG_LOST
  · rfl
@[simp] theorem State.shadow_log_frame (s : State) (c : LogCode) (x d : Nat) : (s.log c x d).shadow = s.shadow := by
  unfold State.log
  split
  · exact State.shadow_bump_frame s R.LOG_LOST
  · rfl
@[simp] theorem State.ready_log_frame (s : State) (c : LogCode) (x d : Nat) : (s.log c x d).ready = s.ready := by
  unfold State.log
  split
  · exact State.ready_bump_frame s R.LOG_LOST
  · rfl
@[simp] theorem State.staged_log_frame (s : State) (c : LogCode) (x d : Nat) : (s.log c x d).staged = s.staged := by
  unfold State.log
  split
  · exact State.staged_bump_frame s R.LOG_LOST
  · rfl
@[simp] theorem State.stagedItems_log_frame (s : State) (c : LogCode) (x d : Nat) : (s.log c x d).stagedItems = s.stagedItems := by
  unfold State.log
  split
  · exact State.stagedItems_bump_frame s R.LOG_LOST
  · rfl
@[simp] theorem State.touched_log_frame (s : State) (c : LogCode) (x d : Nat) : (s.log c x d).touched = s.touched := by
  unfold State.log
  split
  · exact State.touched_bump_frame s R.LOG_LOST
  · rfl
@[simp] theorem State.badWords_log_frame (s : State) (c : LogCode) (x d : Nat) : (s.log c x d).badWords = s.badWords := by
  unfold State.log
  split
  · exact State.badWords_bump_frame s R.LOG_LOST
  · rfl
@[simp] theorem State.tb_log_frame (s : State) (c : LogCode) (x d : Nat) : (s.log c x d).tb = s.tb := by
  unfold State.log
  split
  · exact State.tb_bump_frame s R.LOG_LOST
  · rfl
@[simp] theorem State.points_log_frame (s : State) (c : LogCode) (x d : Nat) : (s.log c x d).points = s.points := by
  unfold State.log
  split
  · exact State.points_bump_frame s R.LOG_LOST
  · rfl
@[simp] theorem State.deferred_log_frame (s : State) (c : LogCode) (x d : Nat) : (s.log c x d).deferred = s.deferred := by
  unfold State.log
  split
  · exact State.deferred_bump_frame s R.LOG_LOST
  · rfl
@[simp] theorem State.placed_log_frame (s : State) (c : LogCode) (x d : Nat) : (s.log c x d).placed = s.placed := by
  unfold State.log
  split
  · exact State.placed_bump_frame s R.LOG_LOST
  · rfl
@[simp] theorem State.flight_log_frame (s : State) (c : LogCode) (x d : Nat) : (s.log c x d).flight = s.flight := by
  unfold State.log
  split
  · exact State.flight_bump_frame s R.LOG_LOST
  · rfl
@[simp] theorem State.pool_log_frame (s : State) (c : LogCode) (x d : Nat) : (s.log c x d).pool = s.pool := by
  unfold State.log
  split
  · exact State.pool_bump_frame s R.LOG_LOST
  · rfl
@[simp] theorem State.trgWaits_log_frame (s : State) (c : LogCode) (x d : Nat) : (s.log c x d).trgWaits = s.trgWaits := by
  unfold State.log
  split
  · exact State.trgWaits_bump_frame s R.LOG_LOST
  · rfl
@[simp] theorem State.trkUndo_log_frame (s : State) (c : LogCode) (x d : Nat) : (s.log c x d).trkUndo = s.trkUndo := by
  unfold State.log
  split
  · exact State.trkUndo_bump_frame s R.LOG_LOST
  · rfl
@[simp] theorem State.snap_log_frame (s : State) (c : LogCode) (x d : Nat) : (s.log c x d).snap = s.snap := by
  unfold State.log
  split
  · exact State.snap_bump_frame s R.LOG_LOST
  · rfl
@[simp] theorem State.bst_log_frame (s : State) (c : LogCode) (x d : Nat) : (s.log c x d).bst = s.bst := by
  unfold State.log
  split
  · exact State.bst_bump_frame s R.LOG_LOST
  · rfl
@[simp] theorem State.pwr_log_frame (s : State) (c : LogCode) (x d : Nat) : (s.log c x d).pwr = s.pwr := by
  unfold State.log
  split
  · exact State.pwr_bump_frame s R.LOG_LOST
  · rfl
@[simp] theorem State.sys_log_frame (s : State) (c : LogCode) (x d : Nat) : (s.log c x d).sys = s.sys := by
  unfold State.log
  split
  · exact State.sys_bump_frame s R.LOG_LOST
  · rfl
@[simp] theorem State.tth_log_frame (s : State) (c : LogCode) (x d : Nat) : (s.log c x d).tth = s.tth := by
  unfold State.log
  split
  · exact State.tth_bump_frame s R.LOG_LOST
  · rfl
@[simp] theorem State.dma_log_frame (s : State) (c : LogCode) (x d : Nat) : (s.log c x d).dma = s.dma := by
  unfold State.log
  split
  · exact State.dma_bump_frame s R.LOG_LOST
  · rfl
@[simp] theorem State.hostOut_log_frame (s : State) (c : LogCode) (x d : Nat) : (s.log c x d).hostOut = s.hostOut := by
  unfold State.log
  split
  · exact State.hostOut_bump_frame s R.LOG_LOST
  · rfl
@[simp] theorem State.wakeLow_log_frame (s : State) (c : LogCode) (x d : Nat) : (s.log c x d).wakeLow = s.wakeLow := by
  unfold State.log
  split
  · exact State.wakeLow_bump_frame s R.LOG_LOST
  · rfl
@[simp] theorem State.fr_log_frame (s : State) (c : LogCode) (x d : Nat) : (s.log c x d).fr = s.fr := by
  unfold State.log
  split
  · exact State.fr_bump_frame s R.LOG_LOST
  · rfl
@[simp] theorem State.pcie_log_frame (s : State) (c : LogCode) (x d : Nat) : (s.log c x d).pcie = s.pcie := by
  unfold State.log
  split
  · exact State.pcie_bump_frame s R.LOG_LOST
  · rfl
@[simp] theorem State.spi_log_frame (s : State) (c : LogCode) (x d : Nat) : (s.log c x d).spi = s.spi := by
  unfold State.log
  split
  · exact State.spi_bump_frame s R.LOG_LOST
  · rfl
@[simp] theorem State.logHold_log_frame (s : State) (c : LogCode) (x d : Nat) : (s.log c x d).logHold = s.logHold := by
  unfold State.log
  split
  · exact State.logHold_bump_frame s R.LOG_LOST
  · rfl
@[simp] theorem State.logAt_log_frame (s : State) (c : LogCode) (x d : Nat) : (s.log c x d).logAt = s.logAt := by
  unfold State.log
  split
  · exact State.logAt_bump_frame s R.LOG_LOST
  · rfl
@[simp] theorem State.logTell_log_frame (s : State) (c : LogCode) (x d : Nat) : (s.log c x d).logTell = s.logTell := by
  unfold State.log
  split
  · exact State.logTell_bump_frame s R.LOG_LOST
  · rfl
@[simp] theorem State.logW_log_frame (s : State) (c : LogCode) (x d : Nat) : (s.log c x d).logW = s.logW := by
  unfold State.log
  split
  · exact State.logW_bump_frame s R.LOG_LOST
  · rfl
@[simp] theorem State.once_log_frame (s : State) (c : LogCode) (x d : Nat) : (s.log c x d).once = s.once := by
  unfold State.log
  split
  · exact State.once_bump_frame s R.LOG_LOST
  · rfl
@[simp] theorem State.free_log_frame (s : State) (c : LogCode) (x d : Nat) : (s.log c x d).free = s.free := by
  unfold State.log
  split
  · exact State.free_bump_frame s R.LOG_LOST
  · rfl
@[simp] theorem State.pending_log_frame (s : State) (c : LogCode) (x d : Nat) : (s.log c x d).pending = s.pending := by
  unfold State.log
  split
  · exact State.pending_bump_frame s R.LOG_LOST
  · rfl
@[simp] theorem State.now_log_frame (s : State) (c : LogCode) (x d : Nat) : (s.log c x d).now = s.now := by
  unfold State.log
  split
  · exact State.now_bump_frame s R.LOG_LOST
  · rfl

/-! ### Frame of logOnceFor -/

@[simp] theorem State.tr_logOnceFor_frame (s : State) (c : LogCode) (k x d : Nat) (j : Nat) : (s.logOnceFor c k x d).tr j = s.tr j := by
  unfold State.logOnceFor
  split
  · rfl
  · exact State.tr_log_frame s c x d j
@[simp] theorem State.sn_logOnceFor_frame (s : State) (c : LogCode) (k x d : Nat) (j : Nat) : (s.logOnceFor c k x d).sn j = s.sn j := by
  unfold State.logOnceFor
  split
  · rfl
  · exact State.sn_log_frame s c x d j
@[simp] theorem State.te_logOnceFor_frame (s : State) (c : LogCode) (k x d : Nat) (j : Nat) : (s.logOnceFor c k x d).te j = s.te j := by
  unfold State.logOnceFor
  split
  · rfl
  · exact State.te_log_frame s c x d j
@[simp] theorem State.es_logOnceFor_frame (s : State) (c : LogCode) (k x d : Nat) (j : Nat) : (s.logOnceFor c k x d).es j = s.es j := by
  unfold State.logOnceFor
  split
  · rfl
  · exact State.es_log_frame s c x d j
@[simp] theorem State.sl_logOnceFor_frame (s : State) (c : LogCode) (k x d : Nat) (j : Nat) : (s.logOnceFor c k x d).sl j = s.sl j := by
  unfold State.logOnceFor
  split
  · rfl
  · exact State.sl_log_frame s c x d j
@[simp] theorem State.pin_logOnceFor_frame (s : State) (c : LogCode) (k x d : Nat) (j : Nat) : (s.logOnceFor c k x d).pin j = s.pin j := by
  unfold State.logOnceFor
  split
  · rfl
  · exact State.pin_log_frame s c x d j
@[simp] theorem State.stl_logOnceFor_frame (s : State) (c : LogCode) (k x d : Nat) (j : Nat) : (s.logOnceFor c k x d).stl j = s.stl j := by
  unfold State.logOnceFor
  split
  · rfl
  · exact State.stl_log_frame s c x d j
@[simp] theorem State.src_logOnceFor_frame (s : State) (c : LogCode) (k x d : Nat) (j : Nat) : (s.logOnceFor c k x d).src j = s.src j := by
  unfold State.logOnceFor
  split
  · rfl
  · exact State.src_log_frame s c x d j
@[simp] theorem State.part_logOnceFor_frame (s : State) (c : LogCode) (k x d : Nat) (j : Nat) : (s.logOnceFor c k x d).part j = s.part j := by
  unfold State.logOnceFor
  split
  · rfl
  · exact State.part_log_frame s c x d j
@[simp] theorem State.tq_logOnceFor_frame (s : State) (c : LogCode) (k x d : Nat) (j : Nat) : (s.logOnceFor c k x d).tq j = s.tq j := by
  unfold State.logOnceFor
  split
  · rfl
  · exact State.tq_log_frame s c x d j
@[simp] theorem State.page_logOnceFor_frame (s : State) (c : LogCode) (k x d : Nat) (j : Nat) : (s.logOnceFor c k x d).page j = s.page j := by
  unfold State.logOnceFor
  split
  · rfl
  · exact State.page_log_frame s c x d j
@[simp] theorem State.eng_logOnceFor_frame (s : State) (c : LogCode) (k x d : Nat) (j : Nat) : (s.logOnceFor c k x d).eng j = s.eng j := by
  unfold State.logOnceFor
  split
  · rfl
  · exact State.eng_log_frame s c x d j
@[simp] theorem State.rn_logOnceFor_frame (s : State) (c : LogCode) (k x d : Nat) (j : Nat) : (s.logOnceFor c k x d).rn j = s.rn j := by
  unfold State.logOnceFor
  split
  · rfl
  · exact State.rn_log_frame s c x d j
@[simp] theorem State.vlv_logOnceFor_frame (s : State) (c : LogCode) (k x d : Nat) (j : Nat) : (s.logOnceFor c k x d).vlv j = s.vlv j := by
  unfold State.logOnceFor
  split
  · rfl
  · exact State.vlv_log_frame s c x d j
@[simp] theorem State.bk_logOnceFor_frame (s : State) (c : LogCode) (k x d : Nat) (j : Nat) : (s.logOnceFor c k x d).bk j = s.bk j := by
  unfold State.logOnceFor
  split
  · rfl
  · exact State.bk_log_frame s c x d j
@[simp] theorem State.port_logOnceFor_frame (s : State) (c : LogCode) (k x d : Nat) (j : Nat) : (s.logOnceFor c k x d).port j = s.port j := by
  unfold State.logOnceFor
  split
  · rfl
  · exact State.port_log_frame s c x d j
@[simp] theorem State.mb_logOnceFor_frame (s : State) (c : LogCode) (k x d : Nat) (j : Nat) : (s.logOnceFor c k x d).mb j = s.mb j := by
  unfold State.logOnceFor
  split
  · rfl
  · exact State.mb_log_frame s c x d j
@[simp] theorem State.hold_logOnceFor_frame (s : State) (c : LogCode) (k x d : Nat) (j : Nat) : (s.logOnceFor c k x d).hold j = s.hold j := by
  unfold State.logOnceFor
  split
  · rfl
  · exact State.hold_log_frame s c x d j
@[simp] theorem State.ch_logOnceFor_frame (s : State) (c : LogCode) (k x d : Nat) (j : Nat) : (s.logOnceFor c k x d).ch j = s.ch j := by
  unfold State.logOnceFor
  split
  · rfl
  · exact State.ch_log_frame s c x d j
@[simp] theorem State.snaps_logOnceFor_frame (s : State) (c : LogCode) (k x d : Nat) : (s.logOnceFor c k x d).snaps = s.snaps := by
  unfold State.logOnceFor
  split
  · rfl
  · exact State.snaps_log_frame s c x d
@[simp] theorem State.lastRead_logOnceFor_frame (s : State) (c : LogCode) (k x d : Nat) : (s.logOnceFor c k x d).lastRead = s.lastRead := by
  unfold State.logOnceFor
  split
  · rfl
  · exact State.lastRead_log_frame s c x d
@[simp] theorem State.stepped_logOnceFor_frame (s : State) (c : LogCode) (k x d : Nat) : (s.logOnceFor c k x d).stepped = s.stepped := by
  unfold State.logOnceFor
  split
  · rfl
  · exact State.stepped_log_frame s c x d
@[simp] theorem State.shadow_logOnceFor_frame (s : State) (c : LogCode) (k x d : Nat) : (s.logOnceFor c k x d).shadow = s.shadow := by
  unfold State.logOnceFor
  split
  · rfl
  · exact State.shadow_log_frame s c x d
@[simp] theorem State.ready_logOnceFor_frame (s : State) (c : LogCode) (k x d : Nat) : (s.logOnceFor c k x d).ready = s.ready := by
  unfold State.logOnceFor
  split
  · rfl
  · exact State.ready_log_frame s c x d
@[simp] theorem State.staged_logOnceFor_frame (s : State) (c : LogCode) (k x d : Nat) : (s.logOnceFor c k x d).staged = s.staged := by
  unfold State.logOnceFor
  split
  · rfl
  · exact State.staged_log_frame s c x d
@[simp] theorem State.stagedItems_logOnceFor_frame (s : State) (c : LogCode) (k x d : Nat) : (s.logOnceFor c k x d).stagedItems = s.stagedItems := by
  unfold State.logOnceFor
  split
  · rfl
  · exact State.stagedItems_log_frame s c x d
@[simp] theorem State.touched_logOnceFor_frame (s : State) (c : LogCode) (k x d : Nat) : (s.logOnceFor c k x d).touched = s.touched := by
  unfold State.logOnceFor
  split
  · rfl
  · exact State.touched_log_frame s c x d
@[simp] theorem State.badWords_logOnceFor_frame (s : State) (c : LogCode) (k x d : Nat) : (s.logOnceFor c k x d).badWords = s.badWords := by
  unfold State.logOnceFor
  split
  · rfl
  · exact State.badWords_log_frame s c x d
@[simp] theorem State.tb_logOnceFor_frame (s : State) (c : LogCode) (k x d : Nat) : (s.logOnceFor c k x d).tb = s.tb := by
  unfold State.logOnceFor
  split
  · rfl
  · exact State.tb_log_frame s c x d
@[simp] theorem State.points_logOnceFor_frame (s : State) (c : LogCode) (k x d : Nat) : (s.logOnceFor c k x d).points = s.points := by
  unfold State.logOnceFor
  split
  · rfl
  · exact State.points_log_frame s c x d
@[simp] theorem State.deferred_logOnceFor_frame (s : State) (c : LogCode) (k x d : Nat) : (s.logOnceFor c k x d).deferred = s.deferred := by
  unfold State.logOnceFor
  split
  · rfl
  · exact State.deferred_log_frame s c x d
@[simp] theorem State.placed_logOnceFor_frame (s : State) (c : LogCode) (k x d : Nat) : (s.logOnceFor c k x d).placed = s.placed := by
  unfold State.logOnceFor
  split
  · rfl
  · exact State.placed_log_frame s c x d
@[simp] theorem State.flight_logOnceFor_frame (s : State) (c : LogCode) (k x d : Nat) : (s.logOnceFor c k x d).flight = s.flight := by
  unfold State.logOnceFor
  split
  · rfl
  · exact State.flight_log_frame s c x d
@[simp] theorem State.pool_logOnceFor_frame (s : State) (c : LogCode) (k x d : Nat) : (s.logOnceFor c k x d).pool = s.pool := by
  unfold State.logOnceFor
  split
  · rfl
  · exact State.pool_log_frame s c x d
@[simp] theorem State.trgWaits_logOnceFor_frame (s : State) (c : LogCode) (k x d : Nat) : (s.logOnceFor c k x d).trgWaits = s.trgWaits := by
  unfold State.logOnceFor
  split
  · rfl
  · exact State.trgWaits_log_frame s c x d
@[simp] theorem State.trkUndo_logOnceFor_frame (s : State) (c : LogCode) (k x d : Nat) : (s.logOnceFor c k x d).trkUndo = s.trkUndo := by
  unfold State.logOnceFor
  split
  · rfl
  · exact State.trkUndo_log_frame s c x d
@[simp] theorem State.snap_logOnceFor_frame (s : State) (c : LogCode) (k x d : Nat) : (s.logOnceFor c k x d).snap = s.snap := by
  unfold State.logOnceFor
  split
  · rfl
  · exact State.snap_log_frame s c x d
@[simp] theorem State.bst_logOnceFor_frame (s : State) (c : LogCode) (k x d : Nat) : (s.logOnceFor c k x d).bst = s.bst := by
  unfold State.logOnceFor
  split
  · rfl
  · exact State.bst_log_frame s c x d
@[simp] theorem State.pwr_logOnceFor_frame (s : State) (c : LogCode) (k x d : Nat) : (s.logOnceFor c k x d).pwr = s.pwr := by
  unfold State.logOnceFor
  split
  · rfl
  · exact State.pwr_log_frame s c x d
@[simp] theorem State.sys_logOnceFor_frame (s : State) (c : LogCode) (k x d : Nat) : (s.logOnceFor c k x d).sys = s.sys := by
  unfold State.logOnceFor
  split
  · rfl
  · exact State.sys_log_frame s c x d
@[simp] theorem State.tth_logOnceFor_frame (s : State) (c : LogCode) (k x d : Nat) : (s.logOnceFor c k x d).tth = s.tth := by
  unfold State.logOnceFor
  split
  · rfl
  · exact State.tth_log_frame s c x d
@[simp] theorem State.dma_logOnceFor_frame (s : State) (c : LogCode) (k x d : Nat) : (s.logOnceFor c k x d).dma = s.dma := by
  unfold State.logOnceFor
  split
  · rfl
  · exact State.dma_log_frame s c x d
@[simp] theorem State.hostOut_logOnceFor_frame (s : State) (c : LogCode) (k x d : Nat) : (s.logOnceFor c k x d).hostOut = s.hostOut := by
  unfold State.logOnceFor
  split
  · rfl
  · exact State.hostOut_log_frame s c x d
@[simp] theorem State.wakeLow_logOnceFor_frame (s : State) (c : LogCode) (k x d : Nat) : (s.logOnceFor c k x d).wakeLow = s.wakeLow := by
  unfold State.logOnceFor
  split
  · rfl
  · exact State.wakeLow_log_frame s c x d
@[simp] theorem State.fr_logOnceFor_frame (s : State) (c : LogCode) (k x d : Nat) : (s.logOnceFor c k x d).fr = s.fr := by
  unfold State.logOnceFor
  split
  · rfl
  · exact State.fr_log_frame s c x d
@[simp] theorem State.pcie_logOnceFor_frame (s : State) (c : LogCode) (k x d : Nat) : (s.logOnceFor c k x d).pcie = s.pcie := by
  unfold State.logOnceFor
  split
  · rfl
  · exact State.pcie_log_frame s c x d
@[simp] theorem State.spi_logOnceFor_frame (s : State) (c : LogCode) (k x d : Nat) : (s.logOnceFor c k x d).spi = s.spi := by
  unfold State.logOnceFor
  split
  · rfl
  · exact State.spi_log_frame s c x d
@[simp] theorem State.logHold_logOnceFor_frame (s : State) (c : LogCode) (k x d : Nat) : (s.logOnceFor c k x d).logHold = s.logHold := by
  unfold State.logOnceFor
  split
  · rfl
  · exact State.logHold_log_frame s c x d
@[simp] theorem State.logAt_logOnceFor_frame (s : State) (c : LogCode) (k x d : Nat) : (s.logOnceFor c k x d).logAt = s.logAt := by
  unfold State.logOnceFor
  split
  · rfl
  · exact State.logAt_log_frame s c x d
@[simp] theorem State.logTell_logOnceFor_frame (s : State) (c : LogCode) (k x d : Nat) : (s.logOnceFor c k x d).logTell = s.logTell := by
  unfold State.logOnceFor
  split
  · rfl
  · exact State.logTell_log_frame s c x d
@[simp] theorem State.logW_logOnceFor_frame (s : State) (c : LogCode) (k x d : Nat) : (s.logOnceFor c k x d).logW = s.logW := by
  unfold State.logOnceFor
  split
  · rfl
  · exact State.logW_log_frame s c x d
@[simp] theorem State.free_logOnceFor_frame (s : State) (c : LogCode) (k x d : Nat) : (s.logOnceFor c k x d).free = s.free := by
  unfold State.logOnceFor
  split
  · rfl
  · exact State.free_log_frame s c x d
@[simp] theorem State.pending_logOnceFor_frame (s : State) (c : LogCode) (k x d : Nat) : (s.logOnceFor c k x d).pending = s.pending := by
  unfold State.logOnceFor
  split
  · rfl
  · exact State.pending_log_frame s c x d
@[simp] theorem State.now_logOnceFor_frame (s : State) (c : LogCode) (k x d : Nat) : (s.logOnceFor c k x d).now = s.now := by
  unfold State.logOnceFor
  split
  · rfl
  · exact State.now_log_frame s c x d

/-! ### Frame of logOnce -/

@[simp] theorem State.tr_logOnce_frame (s : State) (c : LogCode) (x d : Nat) (j : Nat) : (s.logOnce c x d).tr j = s.tr j := State.tr_logOnceFor_frame s c x x d j
@[simp] theorem State.sn_logOnce_frame (s : State) (c : LogCode) (x d : Nat) (j : Nat) : (s.logOnce c x d).sn j = s.sn j := State.sn_logOnceFor_frame s c x x d j
@[simp] theorem State.te_logOnce_frame (s : State) (c : LogCode) (x d : Nat) (j : Nat) : (s.logOnce c x d).te j = s.te j := State.te_logOnceFor_frame s c x x d j
@[simp] theorem State.es_logOnce_frame (s : State) (c : LogCode) (x d : Nat) (j : Nat) : (s.logOnce c x d).es j = s.es j := State.es_logOnceFor_frame s c x x d j
@[simp] theorem State.sl_logOnce_frame (s : State) (c : LogCode) (x d : Nat) (j : Nat) : (s.logOnce c x d).sl j = s.sl j := State.sl_logOnceFor_frame s c x x d j
@[simp] theorem State.pin_logOnce_frame (s : State) (c : LogCode) (x d : Nat) (j : Nat) : (s.logOnce c x d).pin j = s.pin j := State.pin_logOnceFor_frame s c x x d j
@[simp] theorem State.stl_logOnce_frame (s : State) (c : LogCode) (x d : Nat) (j : Nat) : (s.logOnce c x d).stl j = s.stl j := State.stl_logOnceFor_frame s c x x d j
@[simp] theorem State.src_logOnce_frame (s : State) (c : LogCode) (x d : Nat) (j : Nat) : (s.logOnce c x d).src j = s.src j := State.src_logOnceFor_frame s c x x d j
@[simp] theorem State.part_logOnce_frame (s : State) (c : LogCode) (x d : Nat) (j : Nat) : (s.logOnce c x d).part j = s.part j := State.part_logOnceFor_frame s c x x d j
@[simp] theorem State.tq_logOnce_frame (s : State) (c : LogCode) (x d : Nat) (j : Nat) : (s.logOnce c x d).tq j = s.tq j := State.tq_logOnceFor_frame s c x x d j
@[simp] theorem State.page_logOnce_frame (s : State) (c : LogCode) (x d : Nat) (j : Nat) : (s.logOnce c x d).page j = s.page j := State.page_logOnceFor_frame s c x x d j
@[simp] theorem State.eng_logOnce_frame (s : State) (c : LogCode) (x d : Nat) (j : Nat) : (s.logOnce c x d).eng j = s.eng j := State.eng_logOnceFor_frame s c x x d j
@[simp] theorem State.rn_logOnce_frame (s : State) (c : LogCode) (x d : Nat) (j : Nat) : (s.logOnce c x d).rn j = s.rn j := State.rn_logOnceFor_frame s c x x d j
@[simp] theorem State.vlv_logOnce_frame (s : State) (c : LogCode) (x d : Nat) (j : Nat) : (s.logOnce c x d).vlv j = s.vlv j := State.vlv_logOnceFor_frame s c x x d j
@[simp] theorem State.bk_logOnce_frame (s : State) (c : LogCode) (x d : Nat) (j : Nat) : (s.logOnce c x d).bk j = s.bk j := State.bk_logOnceFor_frame s c x x d j
@[simp] theorem State.port_logOnce_frame (s : State) (c : LogCode) (x d : Nat) (j : Nat) : (s.logOnce c x d).port j = s.port j := State.port_logOnceFor_frame s c x x d j
@[simp] theorem State.mb_logOnce_frame (s : State) (c : LogCode) (x d : Nat) (j : Nat) : (s.logOnce c x d).mb j = s.mb j := State.mb_logOnceFor_frame s c x x d j
@[simp] theorem State.hold_logOnce_frame (s : State) (c : LogCode) (x d : Nat) (j : Nat) : (s.logOnce c x d).hold j = s.hold j := State.hold_logOnceFor_frame s c x x d j
@[simp] theorem State.ch_logOnce_frame (s : State) (c : LogCode) (x d : Nat) (j : Nat) : (s.logOnce c x d).ch j = s.ch j := State.ch_logOnceFor_frame s c x x d j
@[simp] theorem State.snaps_logOnce_frame (s : State) (c : LogCode) (x d : Nat) : (s.logOnce c x d).snaps = s.snaps := State.snaps_logOnceFor_frame s c x x d
@[simp] theorem State.lastRead_logOnce_frame (s : State) (c : LogCode) (x d : Nat) : (s.logOnce c x d).lastRead = s.lastRead := State.lastRead_logOnceFor_frame s c x x d
@[simp] theorem State.stepped_logOnce_frame (s : State) (c : LogCode) (x d : Nat) : (s.logOnce c x d).stepped = s.stepped := State.stepped_logOnceFor_frame s c x x d
@[simp] theorem State.shadow_logOnce_frame (s : State) (c : LogCode) (x d : Nat) : (s.logOnce c x d).shadow = s.shadow := State.shadow_logOnceFor_frame s c x x d
@[simp] theorem State.ready_logOnce_frame (s : State) (c : LogCode) (x d : Nat) : (s.logOnce c x d).ready = s.ready := State.ready_logOnceFor_frame s c x x d
@[simp] theorem State.staged_logOnce_frame (s : State) (c : LogCode) (x d : Nat) : (s.logOnce c x d).staged = s.staged := State.staged_logOnceFor_frame s c x x d
@[simp] theorem State.stagedItems_logOnce_frame (s : State) (c : LogCode) (x d : Nat) : (s.logOnce c x d).stagedItems = s.stagedItems := State.stagedItems_logOnceFor_frame s c x x d
@[simp] theorem State.touched_logOnce_frame (s : State) (c : LogCode) (x d : Nat) : (s.logOnce c x d).touched = s.touched := State.touched_logOnceFor_frame s c x x d
@[simp] theorem State.badWords_logOnce_frame (s : State) (c : LogCode) (x d : Nat) : (s.logOnce c x d).badWords = s.badWords := State.badWords_logOnceFor_frame s c x x d
@[simp] theorem State.tb_logOnce_frame (s : State) (c : LogCode) (x d : Nat) : (s.logOnce c x d).tb = s.tb := State.tb_logOnceFor_frame s c x x d
@[simp] theorem State.points_logOnce_frame (s : State) (c : LogCode) (x d : Nat) : (s.logOnce c x d).points = s.points := State.points_logOnceFor_frame s c x x d
@[simp] theorem State.deferred_logOnce_frame (s : State) (c : LogCode) (x d : Nat) : (s.logOnce c x d).deferred = s.deferred := State.deferred_logOnceFor_frame s c x x d
@[simp] theorem State.placed_logOnce_frame (s : State) (c : LogCode) (x d : Nat) : (s.logOnce c x d).placed = s.placed := State.placed_logOnceFor_frame s c x x d
@[simp] theorem State.flight_logOnce_frame (s : State) (c : LogCode) (x d : Nat) : (s.logOnce c x d).flight = s.flight := State.flight_logOnceFor_frame s c x x d
@[simp] theorem State.pool_logOnce_frame (s : State) (c : LogCode) (x d : Nat) : (s.logOnce c x d).pool = s.pool := State.pool_logOnceFor_frame s c x x d
@[simp] theorem State.trgWaits_logOnce_frame (s : State) (c : LogCode) (x d : Nat) : (s.logOnce c x d).trgWaits = s.trgWaits := State.trgWaits_logOnceFor_frame s c x x d
@[simp] theorem State.trkUndo_logOnce_frame (s : State) (c : LogCode) (x d : Nat) : (s.logOnce c x d).trkUndo = s.trkUndo := State.trkUndo_logOnceFor_frame s c x x d
@[simp] theorem State.snap_logOnce_frame (s : State) (c : LogCode) (x d : Nat) : (s.logOnce c x d).snap = s.snap := State.snap_logOnceFor_frame s c x x d
@[simp] theorem State.bst_logOnce_frame (s : State) (c : LogCode) (x d : Nat) : (s.logOnce c x d).bst = s.bst := State.bst_logOnceFor_frame s c x x d
@[simp] theorem State.pwr_logOnce_frame (s : State) (c : LogCode) (x d : Nat) : (s.logOnce c x d).pwr = s.pwr := State.pwr_logOnceFor_frame s c x x d
@[simp] theorem State.sys_logOnce_frame (s : State) (c : LogCode) (x d : Nat) : (s.logOnce c x d).sys = s.sys := State.sys_logOnceFor_frame s c x x d
@[simp] theorem State.tth_logOnce_frame (s : State) (c : LogCode) (x d : Nat) : (s.logOnce c x d).tth = s.tth := State.tth_logOnceFor_frame s c x x d
@[simp] theorem State.dma_logOnce_frame (s : State) (c : LogCode) (x d : Nat) : (s.logOnce c x d).dma = s.dma := State.dma_logOnceFor_frame s c x x d
@[simp] theorem State.hostOut_logOnce_frame (s : State) (c : LogCode) (x d : Nat) : (s.logOnce c x d).hostOut = s.hostOut := State.hostOut_logOnceFor_frame s c x x d
@[simp] theorem State.wakeLow_logOnce_frame (s : State) (c : LogCode) (x d : Nat) : (s.logOnce c x d).wakeLow = s.wakeLow := State.wakeLow_logOnceFor_frame s c x x d
@[simp] theorem State.fr_logOnce_frame (s : State) (c : LogCode) (x d : Nat) : (s.logOnce c x d).fr = s.fr := State.fr_logOnceFor_frame s c x x d
@[simp] theorem State.pcie_logOnce_frame (s : State) (c : LogCode) (x d : Nat) : (s.logOnce c x d).pcie = s.pcie := State.pcie_logOnceFor_frame s c x x d
@[simp] theorem State.spi_logOnce_frame (s : State) (c : LogCode) (x d : Nat) : (s.logOnce c x d).spi = s.spi := State.spi_logOnceFor_frame s c x x d
@[simp] theorem State.logHold_logOnce_frame (s : State) (c : LogCode) (x d : Nat) : (s.logOnce c x d).logHold = s.logHold := State.logHold_logOnceFor_frame s c x x d
@[simp] theorem State.logAt_logOnce_frame (s : State) (c : LogCode) (x d : Nat) : (s.logOnce c x d).logAt = s.logAt := State.logAt_logOnceFor_frame s c x x d
@[simp] theorem State.logTell_logOnce_frame (s : State) (c : LogCode) (x d : Nat) : (s.logOnce c x d).logTell = s.logTell := State.logTell_logOnceFor_frame s c x x d
@[simp] theorem State.logW_logOnce_frame (s : State) (c : LogCode) (x d : Nat) : (s.logOnce c x d).logW = s.logW := State.logW_logOnceFor_frame s c x x d
@[simp] theorem State.free_logOnce_frame (s : State) (c : LogCode) (x d : Nat) : (s.logOnce c x d).free = s.free := State.free_logOnceFor_frame s c x x d
@[simp] theorem State.pending_logOnce_frame (s : State) (c : LogCode) (x d : Nat) : (s.logOnce c x d).pending = s.pending := State.pending_logOnceFor_frame s c x x d
@[simp] theorem State.now_logOnce_frame (s : State) (c : LogCode) (x d : Nat) : (s.logOnce c x d).now = s.now := State.now_logOnceFor_frame s c x x d

/-- A report made once per beat changes no register but the lost count. -/
theorem State.rd_logOnceFor (s : State) (c : LogCode) (k x d : Nat) {a : Nat} (h : a ≠ R.LOG_LOST) :
    (s.logOnceFor c k x d).rd a = s.rd a := by
  unfold State.logOnceFor
  split
  · rfl
  · exact State.rd_log s c x d h

theorem State.rd_logOnce (s : State) (c : LogCode) (x d : Nat) {a : Nat} (h : a ≠ R.LOG_LOST) :
    (s.logOnce c x d).rd a = s.rd a := State.rd_logOnceFor s c x x d h

/-- A field outside LOG_LOST after a report. -/
theorem State.f_log (s : State) (c : LogCode) (x d : Nat) {y : Fld} (h : y.addr ≠ R.LOG_LOST) :
    (s.log c x d).f y = s.f y := by
  unfold State.f
  rw [State.rd_log s c x d h]


/-! ### The interrupt lines -/

@[simp] theorem State.regs_pulse_frame (s : State) (g : Nat) : (s.pulse g).regs = s.regs := by
  unfold State.pulse; simp only []; split <;> simp
@[simp] theorem State.rd_pulse_frame (s : State) (g : Nat) (b : Nat) : (s.pulse g).rd b = s.rd b := by
  unfold State.pulse; simp only []; split <;> simp
@[simp] theorem State.f_pulse_frame (s : State) (g : Nat) (y : Fld) : (s.pulse g).f y = s.f y := by
  unfold State.pulse; simp only []; split <;> simp
@[simp] theorem State.b_pulse_frame (s : State) (g : Nat) (y : Fld) : (s.pulse g).b y = s.b y := by
  unfold State.pulse; simp only []; split <;> simp
@[simp] theorem State.tr_pulse_frame (s : State) (g : Nat) (j : Nat) : (s.pulse g).tr j = s.tr j := by
  unfold State.pulse; simp only []; split <;> simp
@[simp] theorem State.sn_pulse_frame (s : State) (g : Nat) (j : Nat) : (s.pulse g).sn j = s.sn j := by
  unfold State.pulse; simp only []; split <;> simp
@[simp] theorem State.te_pulse_frame (s : State) (g : Nat) (j : Nat) : (s.pulse g).te j = s.te j := by
  unfold State.pulse; simp only []; split <;> simp
@[simp] theorem State.es_pulse_frame (s : State) (g : Nat) (j : Nat) : (s.pulse g).es j = s.es j := by
  unfold State.pulse; simp only []; split <;> simp
@[simp] theorem State.sl_pulse_frame (s : State) (g : Nat) (j : Nat) : (s.pulse g).sl j = s.sl j := by
  unfold State.pulse; simp only []; split <;> simp
@[simp] theorem State.pin_pulse_frame (s : State) (g : Nat) (j : Nat) : (s.pulse g).pin j = s.pin j := by
  unfold State.pulse; simp only []; split <;> simp
@[simp] theorem State.stl_pulse_frame (s : State) (g : Nat) (j : Nat) : (s.pulse g).stl j = s.stl j := by
  unfold State.pulse; simp only []; split <;> simp
@[simp] theorem State.part_pulse_frame (s : State) (g : Nat) (j : Nat) : (s.pulse g).part j = s.part j := by
  unfold State.pulse; simp only []; split <;> simp
@[simp] theorem State.tq_pulse_frame (s : State) (g : Nat) (j : Nat) : (s.pulse g).tq j = s.tq j := by
  unfold State.pulse; simp only []; split <;> simp
@[simp] theorem State.page_pulse_frame (s : State) (g : Nat) (j : Nat) : (s.pulse g).page j = s.page j := by
  unfold State.pulse; simp only []; split <;> simp
@[simp] theorem State.eng_pulse_frame (s : State) (g : Nat) (j : Nat) : (s.pulse g).eng j = s.eng j := by
  unfold State.pulse; simp only []; split <;> simp
@[simp] theorem State.rn_pulse_frame (s : State) (g : Nat) (j : Nat) : (s.pulse g).rn j = s.rn j := by
  unfold State.pulse; simp only []; split <;> simp
@[simp] theorem State.vlv_pulse_frame (s : State) (g : Nat) (j : Nat) : (s.pulse g).vlv j = s.vlv j := by
  unfold State.pulse; simp only []; split <;> simp
@[simp] theorem State.bk_pulse_frame (s : State) (g : Nat) (j : Nat) : (s.pulse g).bk j = s.bk j := by
  unfold State.pulse; simp only []; split <;> simp
@[simp] theorem State.port_pulse_frame (s : State) (g : Nat) (j : Nat) : (s.pulse g).port j = s.port j := by
  unfold State.pulse; simp only []; split <;> simp
@[simp] theorem State.mb_pulse_frame (s : State) (g : Nat) (j : Nat) : (s.pulse g).mb j = s.mb j := by
  unfold State.pulse; simp only []; split <;> simp
@[simp] theorem State.hold_pulse_frame (s : State) (g : Nat) (j : Nat) : (s.pulse g).hold j = s.hold j := by
  unfold State.pulse; simp only []; split <;> simp
@[simp] theorem State.ch_pulse_frame (s : State) (g : Nat) (j : Nat) : (s.pulse g).ch j = s.ch j := by
  unfold State.pulse; simp only []; split <;> simp
@[simp] theorem State.snaps_pulse_frame (s : State) (g : Nat) : (s.pulse g).snaps = s.snaps := by
  unfold State.pulse; simp only []; split <;> simp
@[simp] theorem State.lastRead_pulse_frame (s : State) (g : Nat) : (s.pulse g).lastRead = s.lastRead := by
  unfold State.pulse; simp only []; split <;> simp
@[simp] theorem State.stepped_pulse_frame (s : State) (g : Nat) : (s.pulse g).stepped = s.stepped := by
  unfold State.pulse; simp only []; split <;> simp
@[simp] theorem State.shadow_pulse_frame (s : State) (g : Nat) : (s.pulse g).shadow = s.shadow := by
  unfold State.pulse; simp only []; split <;> simp
@[simp] theorem State.ready_pulse_frame (s : State) (g : Nat) : (s.pulse g).ready = s.ready := by
  unfold State.pulse; simp only []; split <;> simp
@[simp] theorem State.staged_pulse_frame (s : State) (g : Nat) : (s.pulse g).staged = s.staged := by
  unfold State.pulse; simp only []; split <;> simp
@[simp] theorem State.stagedItems_pulse_frame (s : State) (g : Nat) : (s.pulse g).stagedItems = s.stagedItems := by
  unfold State.pulse; simp only []; split <;> simp
@[simp] theorem State.touched_pulse_frame (s : State) (g : Nat) : (s.pulse g).touched = s.touched := by
  unfold State.pulse; simp only []; split <;> simp
@[simp] theorem State.badWords_pulse_frame (s : State) (g : Nat) : (s.pulse g).badWords = s.badWords := by
  unfold State.pulse; simp only []; split <;> simp
@[simp] theorem State.tb_pulse_frame (s : State) (g : Nat) : (s.pulse g).tb = s.tb := by
  unfold State.pulse; simp only []; split <;> simp
@[simp] theorem State.points_pulse_frame (s : State) (g : Nat) : (s.pulse g).points = s.points := by
  unfold State.pulse; simp only []; split <;> simp
@[simp] theorem State.deferred_pulse_frame (s : State) (g : Nat) : (s.pulse g).deferred = s.deferred := by
  unfold State.pulse; simp only []; split <;> simp
@[simp] theorem State.placed_pulse_frame (s : State) (g : Nat) : (s.pulse g).placed = s.placed := by
  unfold State.pulse; simp only []; split <;> simp
@[simp] theorem State.flight_pulse_frame (s : State) (g : Nat) : (s.pulse g).flight = s.flight := by
  unfold State.pulse; simp only []; split <;> simp
@[simp] theorem State.pool_pulse_frame (s : State) (g : Nat) : (s.pulse g).pool = s.pool := by
  unfold State.pulse; simp only []; split <;> simp
@[simp] theorem State.trgWaits_pulse_frame (s : State) (g : Nat) : (s.pulse g).trgWaits = s.trgWaits := by
  unfold State.pulse; simp only []; split <;> simp
@[simp] theorem State.trkUndo_pulse_frame (s : State) (g : Nat) : (s.pulse g).trkUndo = s.trkUndo := by
  unfold State.pulse; simp only []; split <;> simp
@[simp] theorem State.snap_pulse_frame (s : State) (g : Nat) : (s.pulse g).snap = s.snap := by
  unfold State.pulse; simp only []; split <;> simp
@[simp] theorem State.bst_pulse_frame (s : State) (g : Nat) : (s.pulse g).bst = s.bst := by
  unfold State.pulse; simp only []; split <;> simp
@[simp] theorem State.pwr_pulse_frame (s : State) (g : Nat) : (s.pulse g).pwr = s.pwr := by
  unfold State.pulse; simp only []; split <;> simp
@[simp] theorem State.sys_pulse_frame (s : State) (g : Nat) : (s.pulse g).sys = s.sys := by
  unfold State.pulse; simp only []; split <;> simp
@[simp] theorem State.tth_pulse_frame (s : State) (g : Nat) : (s.pulse g).tth = s.tth := by
  unfold State.pulse; simp only []; split <;> simp
@[simp] theorem State.dma_pulse_frame (s : State) (g : Nat) : (s.pulse g).dma = s.dma := by
  unfold State.pulse; simp only []; split <;> simp
@[simp] theorem State.hostOut_pulse_frame (s : State) (g : Nat) : (s.pulse g).hostOut = s.hostOut := by
  unfold State.pulse; simp only []; split <;> simp
@[simp] theorem State.wakeLow_pulse_frame (s : State) (g : Nat) : (s.pulse g).wakeLow = s.wakeLow := by
  unfold State.pulse; simp only []; split <;> simp
@[simp] theorem State.fr_pulse_frame (s : State) (g : Nat) : (s.pulse g).fr = s.fr := by
  unfold State.pulse; simp only []; split <;> simp
@[simp] theorem State.pcie_pulse_frame (s : State) (g : Nat) : (s.pulse g).pcie = s.pcie := by
  unfold State.pulse; simp only []; split <;> simp
@[simp] theorem State.spi_pulse_frame (s : State) (g : Nat) : (s.pulse g).spi = s.spi := by
  unfold State.pulse; simp only []; split <;> simp
@[simp] theorem State.logQ_pulse_frame (s : State) (g : Nat) : (s.pulse g).logQ = s.logQ := by
  unfold State.pulse; simp only []; split <;> simp
@[simp] theorem State.logLost_pulse_frame (s : State) (g : Nat) : (s.pulse g).logLost = s.logLost := by
  unfold State.pulse; simp only []; split <;> simp
@[simp] theorem State.logHold_pulse_frame (s : State) (g : Nat) : (s.pulse g).logHold = s.logHold := by
  unfold State.pulse; simp only []; split <;> simp
@[simp] theorem State.logAt_pulse_frame (s : State) (g : Nat) : (s.pulse g).logAt = s.logAt := by
  unfold State.pulse; simp only []; split <;> simp
@[simp] theorem State.logTell_pulse_frame (s : State) (g : Nat) : (s.pulse g).logTell = s.logTell := by
  unfold State.pulse; simp only []; split <;> simp
@[simp] theorem State.logW_pulse_frame (s : State) (g : Nat) : (s.pulse g).logW = s.logW := by
  unfold State.pulse; simp only []; split <;> simp
@[simp] theorem State.once_pulse_frame (s : State) (g : Nat) : (s.pulse g).once = s.once := by
  unfold State.pulse; simp only []; split <;> simp
@[simp] theorem State.free_pulse_frame (s : State) (g : Nat) : (s.pulse g).free = s.free := by
  unfold State.pulse; simp only []; split <;> simp
@[simp] theorem State.pending_pulse_frame (s : State) (g : Nat) : (s.pulse g).pending = s.pending := by
  unfold State.pulse; simp only []; split <;> simp
@[simp] theorem State.now_pulse_frame (s : State) (g : Nat) : (s.pulse g).now = s.now := by
  unfold State.pulse; simp only []; split <;> simp
@[simp] theorem State.regs_level_frame (s : State) (g : Nat) (l : Bool) : (s.level g l).regs = s.regs := by
  unfold State.level; simp only []; split <;> simp
@[simp] theorem State.rd_level_frame (s : State) (g : Nat) (l : Bool) (b : Nat) : (s.level g l).rd b = s.rd b := by
  unfold State.level; simp only []; split <;> simp
@[simp] theorem State.f_level_frame (s : State) (g : Nat) (l : Bool) (y : Fld) : (s.level g l).f y = s.f y := by
  unfold State.level; simp only []; split <;> simp
@[simp] theorem State.b_level_frame (s : State) (g : Nat) (l : Bool) (y : Fld) : (s.level g l).b y = s.b y := by
  unfold State.level; simp only []; split <;> simp
@[simp] theorem State.tr_level_frame (s : State) (g : Nat) (l : Bool) (j : Nat) : (s.level g l).tr j = s.tr j := by
  unfold State.level; simp only []; split <;> simp
@[simp] theorem State.sn_level_frame (s : State) (g : Nat) (l : Bool) (j : Nat) : (s.level g l).sn j = s.sn j := by
  unfold State.level; simp only []; split <;> simp
@[simp] theorem State.te_level_frame (s : State) (g : Nat) (l : Bool) (j : Nat) : (s.level g l).te j = s.te j := by
  unfold State.level; simp only []; split <;> simp
@[simp] theorem State.es_level_frame (s : State) (g : Nat) (l : Bool) (j : Nat) : (s.level g l).es j = s.es j := by
  unfold State.level; simp only []; split <;> simp
@[simp] theorem State.sl_level_frame (s : State) (g : Nat) (l : Bool) (j : Nat) : (s.level g l).sl j = s.sl j := by
  unfold State.level; simp only []; split <;> simp
@[simp] theorem State.pin_level_frame (s : State) (g : Nat) (l : Bool) (j : Nat) : (s.level g l).pin j = s.pin j := by
  unfold State.level; simp only []; split <;> simp
@[simp] theorem State.stl_level_frame (s : State) (g : Nat) (l : Bool) (j : Nat) : (s.level g l).stl j = s.stl j := by
  unfold State.level; simp only []; split <;> simp
@[simp] theorem State.part_level_frame (s : State) (g : Nat) (l : Bool) (j : Nat) : (s.level g l).part j = s.part j := by
  unfold State.level; simp only []; split <;> simp
@[simp] theorem State.tq_level_frame (s : State) (g : Nat) (l : Bool) (j : Nat) : (s.level g l).tq j = s.tq j := by
  unfold State.level; simp only []; split <;> simp
@[simp] theorem State.page_level_frame (s : State) (g : Nat) (l : Bool) (j : Nat) : (s.level g l).page j = s.page j := by
  unfold State.level; simp only []; split <;> simp
@[simp] theorem State.eng_level_frame (s : State) (g : Nat) (l : Bool) (j : Nat) : (s.level g l).eng j = s.eng j := by
  unfold State.level; simp only []; split <;> simp
@[simp] theorem State.rn_level_frame (s : State) (g : Nat) (l : Bool) (j : Nat) : (s.level g l).rn j = s.rn j := by
  unfold State.level; simp only []; split <;> simp
@[simp] theorem State.vlv_level_frame (s : State) (g : Nat) (l : Bool) (j : Nat) : (s.level g l).vlv j = s.vlv j := by
  unfold State.level; simp only []; split <;> simp
@[simp] theorem State.bk_level_frame (s : State) (g : Nat) (l : Bool) (j : Nat) : (s.level g l).bk j = s.bk j := by
  unfold State.level; simp only []; split <;> simp
@[simp] theorem State.port_level_frame (s : State) (g : Nat) (l : Bool) (j : Nat) : (s.level g l).port j = s.port j := by
  unfold State.level; simp only []; split <;> simp
@[simp] theorem State.mb_level_frame (s : State) (g : Nat) (l : Bool) (j : Nat) : (s.level g l).mb j = s.mb j := by
  unfold State.level; simp only []; split <;> simp
@[simp] theorem State.hold_level_frame (s : State) (g : Nat) (l : Bool) (j : Nat) : (s.level g l).hold j = s.hold j := by
  unfold State.level; simp only []; split <;> simp
@[simp] theorem State.ch_level_frame (s : State) (g : Nat) (l : Bool) (j : Nat) : (s.level g l).ch j = s.ch j := by
  unfold State.level; simp only []; split <;> simp
@[simp] theorem State.snaps_level_frame (s : State) (g : Nat) (l : Bool) : (s.level g l).snaps = s.snaps := by
  unfold State.level; simp only []; split <;> simp
@[simp] theorem State.lastRead_level_frame (s : State) (g : Nat) (l : Bool) : (s.level g l).lastRead = s.lastRead := by
  unfold State.level; simp only []; split <;> simp
@[simp] theorem State.stepped_level_frame (s : State) (g : Nat) (l : Bool) : (s.level g l).stepped = s.stepped := by
  unfold State.level; simp only []; split <;> simp
@[simp] theorem State.shadow_level_frame (s : State) (g : Nat) (l : Bool) : (s.level g l).shadow = s.shadow := by
  unfold State.level; simp only []; split <;> simp
@[simp] theorem State.ready_level_frame (s : State) (g : Nat) (l : Bool) : (s.level g l).ready = s.ready := by
  unfold State.level; simp only []; split <;> simp
@[simp] theorem State.staged_level_frame (s : State) (g : Nat) (l : Bool) : (s.level g l).staged = s.staged := by
  unfold State.level; simp only []; split <;> simp
@[simp] theorem State.stagedItems_level_frame (s : State) (g : Nat) (l : Bool) : (s.level g l).stagedItems = s.stagedItems := by
  unfold State.level; simp only []; split <;> simp
@[simp] theorem State.touched_level_frame (s : State) (g : Nat) (l : Bool) : (s.level g l).touched = s.touched := by
  unfold State.level; simp only []; split <;> simp
@[simp] theorem State.badWords_level_frame (s : State) (g : Nat) (l : Bool) : (s.level g l).badWords = s.badWords := by
  unfold State.level; simp only []; split <;> simp
@[simp] theorem State.tb_level_frame (s : State) (g : Nat) (l : Bool) : (s.level g l).tb = s.tb := by
  unfold State.level; simp only []; split <;> simp
@[simp] theorem State.points_level_frame (s : State) (g : Nat) (l : Bool) : (s.level g l).points = s.points := by
  unfold State.level; simp only []; split <;> simp
@[simp] theorem State.deferred_level_frame (s : State) (g : Nat) (l : Bool) : (s.level g l).deferred = s.deferred := by
  unfold State.level; simp only []; split <;> simp
@[simp] theorem State.placed_level_frame (s : State) (g : Nat) (l : Bool) : (s.level g l).placed = s.placed := by
  unfold State.level; simp only []; split <;> simp
@[simp] theorem State.flight_level_frame (s : State) (g : Nat) (l : Bool) : (s.level g l).flight = s.flight := by
  unfold State.level; simp only []; split <;> simp
@[simp] theorem State.pool_level_frame (s : State) (g : Nat) (l : Bool) : (s.level g l).pool = s.pool := by
  unfold State.level; simp only []; split <;> simp
@[simp] theorem State.trgWaits_level_frame (s : State) (g : Nat) (l : Bool) : (s.level g l).trgWaits = s.trgWaits := by
  unfold State.level; simp only []; split <;> simp
@[simp] theorem State.trkUndo_level_frame (s : State) (g : Nat) (l : Bool) : (s.level g l).trkUndo = s.trkUndo := by
  unfold State.level; simp only []; split <;> simp
@[simp] theorem State.snap_level_frame (s : State) (g : Nat) (l : Bool) : (s.level g l).snap = s.snap := by
  unfold State.level; simp only []; split <;> simp
@[simp] theorem State.bst_level_frame (s : State) (g : Nat) (l : Bool) : (s.level g l).bst = s.bst := by
  unfold State.level; simp only []; split <;> simp
@[simp] theorem State.pwr_level_frame (s : State) (g : Nat) (l : Bool) : (s.level g l).pwr = s.pwr := by
  unfold State.level; simp only []; split <;> simp
@[simp] theorem State.sys_level_frame (s : State) (g : Nat) (l : Bool) : (s.level g l).sys = s.sys := by
  unfold State.level; simp only []; split <;> simp
@[simp] theorem State.tth_level_frame (s : State) (g : Nat) (l : Bool) : (s.level g l).tth = s.tth := by
  unfold State.level; simp only []; split <;> simp
@[simp] theorem State.dma_level_frame (s : State) (g : Nat) (l : Bool) : (s.level g l).dma = s.dma := by
  unfold State.level; simp only []; split <;> simp
@[simp] theorem State.hostOut_level_frame (s : State) (g : Nat) (l : Bool) : (s.level g l).hostOut = s.hostOut := by
  unfold State.level; simp only []; split <;> simp
@[simp] theorem State.wakeLow_level_frame (s : State) (g : Nat) (l : Bool) : (s.level g l).wakeLow = s.wakeLow := by
  unfold State.level; simp only []; split <;> simp
@[simp] theorem State.fr_level_frame (s : State) (g : Nat) (l : Bool) : (s.level g l).fr = s.fr := by
  unfold State.level; simp only []; split <;> simp
@[simp] theorem State.pcie_level_frame (s : State) (g : Nat) (l : Bool) : (s.level g l).pcie = s.pcie := by
  unfold State.level; simp only []; split <;> simp
@[simp] theorem State.spi_level_frame (s : State) (g : Nat) (l : Bool) : (s.level g l).spi = s.spi := by
  unfold State.level; simp only []; split <;> simp
@[simp] theorem State.logQ_level_frame (s : State) (g : Nat) (l : Bool) : (s.level g l).logQ = s.logQ := by
  unfold State.level; simp only []; split <;> simp
@[simp] theorem State.logLost_level_frame (s : State) (g : Nat) (l : Bool) : (s.level g l).logLost = s.logLost := by
  unfold State.level; simp only []; split <;> simp
@[simp] theorem State.logHold_level_frame (s : State) (g : Nat) (l : Bool) : (s.level g l).logHold = s.logHold := by
  unfold State.level; simp only []; split <;> simp
@[simp] theorem State.logAt_level_frame (s : State) (g : Nat) (l : Bool) : (s.level g l).logAt = s.logAt := by
  unfold State.level; simp only []; split <;> simp
@[simp] theorem State.logTell_level_frame (s : State) (g : Nat) (l : Bool) : (s.level g l).logTell = s.logTell := by
  unfold State.level; simp only []; split <;> simp
@[simp] theorem State.logW_level_frame (s : State) (g : Nat) (l : Bool) : (s.level g l).logW = s.logW := by
  unfold State.level; simp only []; split <;> simp
@[simp] theorem State.once_level_frame (s : State) (g : Nat) (l : Bool) : (s.level g l).once = s.once := by
  unfold State.level; simp only []; split <;> simp
@[simp] theorem State.free_level_frame (s : State) (g : Nat) (l : Bool) : (s.level g l).free = s.free := by
  unfold State.level; simp only []; split <;> simp
@[simp] theorem State.pending_level_frame (s : State) (g : Nat) (l : Bool) : (s.level g l).pending = s.pending := by
  unfold State.level; simp only []; split <;> simp
@[simp] theorem State.now_level_frame (s : State) (g : Nat) (l : Bool) : (s.level g l).now = s.now := by
  unfold State.level; simp only []; split <;> simp

/-- A pulse holds its line high and sets the edge latch of its source under RISE and BOTH, where the line was low (R364). -/
theorem State.src_pulse (s : State) (g j : Nat) :
    (s.pulse g).src j = if j = g then (fun x : Irq => { x with
      edge := x.edge || (!x.raw && !s.samePulse x && (decide (s.sense g = 1) || decide (s.sense g = 3)))
      line := if s.samePulse x then x.line else some s.ctlNow }) (s.src g) else s.src j := by
  unfold State.pulse
  simp only []
  split <;> by_cases hj : j = g <;> simp [hj, State.src_setSrc]


end Sys2Proof.Machine
end

