-- ==== Sys2Proof/Laws/Fields.lean ====
section
/-! SUPPORT. Fields and words after the shared writes: one-bit fields, counters, flag bits, level lines. -/

namespace Sys2Proof.Machine

open Sys2Proof

/-- A word rests on the register file alone. -/
theorem State.rd_congr {s t : State} (h : s.regs = t.regs) (a : Nat) : s.rd a = t.rd a := by
  unfold State.rd
  rw [h]

/-- A field rests on the register file alone. -/
theorem State.f_congr {s t : State} (h : s.regs = t.regs) (x : Fld) : s.f x = t.f x := by
  unfold State.f
  rw [State.rd_congr h]

/-- A bit rests on the register file alone. -/
theorem State.b_congr {s t : State} (h : s.regs = t.regs) (x : Fld) : s.b x = t.b x := by
  unfold State.b
  rw [State.f_congr h]

/-- The registers after a one-bit field is written are those after the field is. -/
theorem State.regs_setB (s : State) (x : Fld) (v : Bool) : (s.setB x v).regs = (s.setF x (toBit v)).regs := by
  cases v
  · rfl
  · show Sparse.set regReset (s.note _ _).regs x.addr (setBits ((s.note _ _).rd x.addr) x.lo x.len (toBit true)) = _
    rw [State.regs_note_frame, State.rd_note_frame]
    rfl

/-- A one-bit field after it is set. -/
theorem State.b_setB_same (s : State) {x : Fld} (v : Bool) (h : x.lo + x.len ≤ 32) (hl : x.len = 1) :
    (s.setB x v).b x = v := by
  rw [State.b_congr (State.regs_setB s x v)]
  unfold State.b
  rw [State.f_setF_same _ _ h, hl]
  cases v <;> rfl

/-- A field after a one-bit field beside it is set. -/
theorem State.f_setB_other (s : State) {x y : Fld} (v : Bool)
    (h : y.addr ≠ x.addr ∨ x.lo + x.len ≤ y.lo ∨ y.lo + y.len ≤ x.lo) : (s.setB x v).f y = s.f y :=
  (State.f_congr (State.regs_setB s x v) y).trans (State.f_setF_other s _ h)

/-- A bit after a field beside it is written. -/
theorem State.b_setF_other (s : State) {x y : Fld} (v : Nat)
    (h : y.addr ≠ x.addr ∨ x.lo + x.len ≤ y.lo ∨ y.lo + y.len ≤ x.lo) : (s.setF x v).b y = s.b y := by
  unfold State.b
  rw [State.f_setF_other s v h]

/-- A bit after a one-bit field beside it is set. -/
theorem State.b_setB_other (s : State) {x y : Fld} (v : Bool)
    (h : y.addr ≠ x.addr ∨ x.lo + x.len ≤ y.lo ∨ y.lo + y.len ≤ x.lo) : (s.setB x v).b y = s.b y :=
  (State.b_congr (State.regs_setB s x v) y).trans (State.b_setF_other s _ h)

/-- A word after a one-bit field of another word is set. -/
theorem State.rd_setB_other (s : State) {x : Fld} {a : Nat} (v : Bool) (h : a ≠ x.addr) : (s.setB x v).rd a = s.rd a :=
  (State.rd_congr (State.regs_setB s x v) a).trans (State.rd_setF_other s _ h)

/-- A field after another word is written. -/
theorem State.f_wr_other (s : State) {a : Nat} (w : Word) {y : Fld} (h : y.addr ≠ a) : (s.wr a w).f y = s.f y := by
  unfold State.f
  rw [State.rd_wr_other _ _ h]

/-- A bit after another word is written. -/
theorem State.b_wr_other (s : State) {a : Nat} (w : Word) {y : Fld} (h : y.addr ≠ a) : (s.wr a w).b y = s.b y := by
  unfold State.b
  rw [State.f_wr_other _ _ h]

/-- A counter after one is counted. -/
theorem State.rd_bump_same (s : State) (a : Nat) :
    (s.bump a).rd a = BitVec.ofNat 32 (min ((s.rd a).toNat % 2 ^ 24 + 1) 0xFFFFFF) := by
  show ((s.note a (countUp 1)).wr a (countUp 1 (s.rd a))).rd a = _
  rw [State.rd_wr_same]
  rfl

/-- Another word after one is counted. -/
theorem State.rd_bump_other (s : State) {a c : Nat} (h : a ≠ c) : (s.bump c).rd a = s.rd a :=
  (State.rd_wr_other _ _ h).trans (State.rd_note_frame _ _ _ _)

/-- A field of another word after one is counted. -/
theorem State.f_bump_other (s : State) {c : Nat} {y : Fld} (h : y.addr ≠ c) : (s.bump c).f y = s.f y :=
  (State.f_wr_other _ _ h).trans (State.f_note_frame _ _ _ _)

/-- A bit of another word after one is counted. -/
theorem State.b_bump_other (s : State) {c : Nat} {y : Fld} (h : y.addr ≠ c) : (s.bump c).b y = s.b y :=
  (State.b_wr_other _ _ h).trans (State.b_note_frame _ _ _ _)

/-- A word after a bit of it is set. -/
theorem State.rd_flag_same (s : State) (a k : Nat) : (s.flag a k).rd a = s.rd a ||| BitVec.ofNat 32 (2 ^ k) :=
  State.rd_wr_same _ _ _

/-- Another word after a bit is set. -/
theorem State.rd_flag_other (s : State) {a c : Nat} (k : Nat) (h : a ≠ c) : (s.flag c k).rd a = s.rd a :=
  (State.rd_wr_other _ _ h).trans (State.rd_note_frame _ _ _ _)

/-- Another word after a bit is cleared. -/
theorem State.rd_unflag_other (s : State) {a c : Nat} (k : Nat) (h : a ≠ c) : (s.unflag c k).rd a = s.rd a :=
  State.rd_wr_other _ _ h

/-- A bit of a word other than the log's lost count after a report. -/
theorem State.b_log (s : State) (c : LogCode) (x d : Nat) {y : Fld} (h : y.addr ≠ R.LOG_LOST) :
    (s.log c x d).b y = s.b y := by
  unfold State.b
  rw [State.f_log s c x d h]

end Sys2Proof.Machine
end

