-- ==== Sys2Proof/Laws/Keeps.lean ====
section
/-! SUPPORT. What every operation of the model keeps: a sound state, and the queue of waiting commands. One lemma per
operation says so once; the lemmas of the other Keeps files are put together from these. -/

namespace Sys2Proof.Machine

open Sys2Proof

/-- The state is sound and its queue is `q`. -/
def State.Keeps (q : List Instr) (s : State) : Prop := s.Sound ∧ s.pending = q

/-- The part of the state that `Keeps` speaks about. -/
def State.kept (s : State) :=
  (s.regs, s.snaps, s.lastRead, s.trk, s.trkUndo, s.sns, s.snap, s.entries, s.tev, s.slots, s.pins, s.stalls, s.irq, s.parts,
    s.pool, s.trg, s.pages, s.engs, s.rns, s.valves, s.banks, s.ports, s.mbx, s.holds, s.chans, s.logW, s.logQ,
    s.tth.msgs, s.spi.held, s.pending)

/-- An update of anything else keeps it. -/
theorem State.Keeps.same {q : List Instr} {s t : State} (h : s.Keeps q) (e : t.kept = s.kept) : t.Keeps q := by
  unfold State.kept at e
  simp only [Prod.mk.injEq] at e
  obtain ⟨e1, e2, e3, e4, e5, e6, e7, e8, e9, e10, e11, e12, e13, e14, e15, e16, e17, e18, e19, e20, e21, e22, e23, e24, e25,
    e26, e27, e28, e29, e30⟩ := e
  unfold State.Keeps State.Sound State.Canonical State.Bounded at h ⊢
  rw [e1, e2, e3, e4, e5, e6, e7, e8, e9, e10, e11, e12, e13, e14, e15, e16, e17, e18, e19, e20, e21, e22, e23, e24, e25, e26,
    e27, e28, e29, e30]
  exact h

theorem State.Keeps.ite {q : List Instr} {c : Prop} [Decidable c] {a b : State} (ha : a.Keeps q) (hb : b.Keeps q) :
    (if c then a else b).Keeps q := by
  split
  · exact ha
  · exact hb

/-- A fold of an operation that keeps it keeps it. -/
theorem State.Keeps.foldl {q : List Instr} {α : Type} {f : State → α → State} {l : List α} {s : State}
    (hf : ∀ x a, x.Keeps q → (f x a).Keeps q) (h : s.Keeps q) : (l.foldl f s).Keeps q := by
  induction l generalizing s with
  | nil => exact h
  | cons a l ih => exact ih (hf s a h)

theorem State.Keeps.overList {q : List Instr} {α : Type} {f : State → α → State} {l : List α} {s : State}
    (hf : ∀ x a, x.Keeps q → (f x a).Keeps q) (h : s.Keeps q) : (Machine.overList l f s).Keeps q :=
  State.Keeps.foldl hf h

/-- A fold over a pair whose state part an operation keeps. -/
theorem State.Keeps.foldPair {q : List Instr} {α β : Type} {f : State × β → α → State × β} {l : List α} {x : State × β}
    (hf : ∀ y a, y.1.Keeps q → (f y a).1.Keeps q) (h : x.1.Keeps q) : (l.foldl f x).1.Keeps q := by
  induction l generalizing x with
  | nil => exact h
  | cons a l ih => exact ih (hf x a h)

/-- The state of a pair, once the pair is known. -/
theorem State.Keeps.fst {q : List Instr} {α : Type} {p : State × α} {a : State} {b : α} (e : p = (a, b)) (h : p.1.Keeps q) :
    a.Keeps q := by
  rw [e] at h
  exact h

theorem State.Keeps.snd {q : List Instr} {α : Type} {p : α × State} {a : State} {b : α} (e : p = (b, a)) (h : p.2.Keeps q) :
    a.Keeps q := by
  rw [e] at h
  exact h

section Tables

variable {q : List Instr} {s : State}

theorem State.wr_keeps {a : Nat} {w : Word} (h : s.Keeps q) : (s.wr a w).Keeps q := by
  obtain ⟨⟨⟨c0, c1, c2, c3, c4, c5, c6, c7, c8, c9, c10, c11, c12, c13, c14, c15, c16, c17, c18, c19, c20, c21, c22, c23,
    c24, c25⟩, d⟩, e⟩ := h
  exact ⟨⟨⟨Sparse.wf_set _ _ c0, c1, c2, c3, c4, c5, c6, c7, c8, c9, c10, c11, c12, c13, c14, c15, c16, c17, c18, c19,
    c20, c21, c22, c23, c24, c25⟩, d⟩, e⟩

theorem State.setTr_keeps {k : Nat} {x : Tracker} (h : s.Keeps q) : (s.setTr k x).Keeps q := by
  obtain ⟨⟨⟨c0, c1, c2, c3, c4, c5, c6, c7, c8, c9, c10, c11, c12, c13, c14, c15, c16, c17, c18, c19, c20, c21, c22, c23,
    c24, c25⟩, d⟩, e⟩ := h
  exact ⟨⟨⟨c0, c1, c2, Sparse.wf_set _ _ c3, c4, c5, c6, c7, c8, c9, c10, c11, c12, c13, c14, c15, c16, c17, c18, c19,
    c20, c21, c22, c23, c24, c25⟩, d⟩, e⟩

theorem State.setSn_keeps {k : Nat} {x : Sensor} (h : s.Keeps q) : (s.setSn k x).Keeps q := by
  obtain ⟨⟨⟨c0, c1, c2, c3, c4, c5, c6, c7, c8, c9, c10, c11, c12, c13, c14, c15, c16, c17, c18, c19, c20, c21, c22, c23,
    c24, c25⟩, d⟩, e⟩ := h
  exact ⟨⟨⟨c0, c1, c2, c3, c4, Sparse.wf_set _ _ c5, c6, c7, c8, c9, c10, c11, c12, c13, c14, c15, c16, c17, c18, c19,
    c20, c21, c22, c23, c24, c25⟩, d⟩, e⟩

theorem State.setTe_keeps {k : Nat} {x : TrkEv} (h : s.Keeps q) : (s.setTe k x).Keeps q := by
  obtain ⟨⟨⟨c0, c1, c2, c3, c4, c5, c6, c7, c8, c9, c10, c11, c12, c13, c14, c15, c16, c17, c18, c19, c20, c21, c22, c23,
    c24, c25⟩, d⟩, e⟩ := h
  exact ⟨⟨⟨c0, c1, c2, c3, c4, c5, c6, c7, Sparse.wf_set _ _ c8, c9, c10, c11, c12, c13, c14, c15, c16, c17, c18, c19,
    c20, c21, c22, c23, c24, c25⟩, d⟩, e⟩

theorem State.setEs_keeps {k : Nat} {x : EntrySt} (h : s.Keeps q) : (s.setEs k x).Keeps q := by
  obtain ⟨⟨⟨c0, c1, c2, c3, c4, c5, c6, c7, c8, c9, c10, c11, c12, c13, c14, c15, c16, c17, c18, c19, c20, c21, c22, c23,
    c24, c25⟩, d⟩, e⟩ := h
  exact ⟨⟨⟨c0, c1, c2, c3, c4, c5, c6, Sparse.wf_set _ _ c7, c8, c9, c10, c11, c12, c13, c14, c15, c16, c17, c18, c19,
    c20, c21, c22, c23, c24, c25⟩, d⟩, e⟩

theorem State.setSl_keeps {k : Nat} {x : Slot} (h : s.Keeps q) : (s.setSl k x).Keeps q := by
  obtain ⟨⟨⟨c0, c1, c2, c3, c4, c5, c6, c7, c8, c9, c10, c11, c12, c13, c14, c15, c16, c17, c18, c19, c20, c21, c22, c23,
    c24, c25⟩, d⟩, e⟩ := h
  exact ⟨⟨⟨c0, c1, c2, c3, c4, c5, c6, c7, c8, Sparse.wf_set _ _ c9, c10, c11, c12, c13, c14, c15, c16, c17, c18, c19,
    c20, c21, c22, c23, c24, c25⟩, d⟩, e⟩

theorem State.setPin_keeps {k : Nat} {x : Pin} (h : s.Keeps q) : (s.setPin k x).Keeps q := by
  obtain ⟨⟨⟨c0, c1, c2, c3, c4, c5, c6, c7, c8, c9, c10, c11, c12, c13, c14, c15, c16, c17, c18, c19, c20, c21, c22, c23,
    c24, c25⟩, d⟩, e⟩ := h
  exact ⟨⟨⟨c0, c1, c2, c3, c4, c5, c6, c7, c8, c9, Sparse.wf_set _ _ c10, c11, c12, c13, c14, c15, c16, c17, c18, c19,
    c20, c21, c22, c23, c24, c25⟩, d⟩, e⟩

theorem State.setStl_keeps {k : Nat} {x : Stall} (h : s.Keeps q) : (s.setStl k x).Keeps q := by
  obtain ⟨⟨⟨c0, c1, c2, c3, c4, c5, c6, c7, c8, c9, c10, c11, c12, c13, c14, c15, c16, c17, c18, c19, c20, c21, c22, c23,
    c24, c25⟩, d⟩, e⟩ := h
  exact ⟨⟨⟨c0, c1, c2, c3, c4, c5, c6, c7, c8, c9, c10, Sparse.wf_set _ _ c11, c12, c13, c14, c15, c16, c17, c18, c19,
    c20, c21, c22, c23, c24, c25⟩, d⟩, e⟩

theorem State.setSrc_keeps {k : Nat} {x : Irq} (h : s.Keeps q) : (s.setSrc k x).Keeps q := by
  obtain ⟨⟨⟨c0, c1, c2, c3, c4, c5, c6, c7, c8, c9, c10, c11, c12, c13, c14, c15, c16, c17, c18, c19, c20, c21, c22, c23,
    c24, c25⟩, d⟩, e⟩ := h
  exact ⟨⟨⟨c0, c1, c2, c3, c4, c5, c6, c7, c8, c9, c10, c11, Sparse.wf_set _ _ c12, c13, c14, c15, c16, c17, c18, c19,
    c20, c21, c22, c23, c24, c25⟩, d⟩, e⟩

theorem State.setPart_keeps {k : Nat} {x : Part} (h : s.Keeps q) : (s.setPart k x).Keeps q := by
  obtain ⟨⟨⟨c0, c1, c2, c3, c4, c5, c6, c7, c8, c9, c10, c11, c12, c13, c14, c15, c16, c17, c18, c19, c20, c21, c22, c23,
    c24, c25⟩, d⟩, e⟩ := h
  exact ⟨⟨⟨c0, c1, c2, c3, c4, c5, c6, c7, c8, c9, c10, c11, c12, Sparse.wf_set _ _ c13, c14, c15, c16, c17, c18, c19,
    c20, c21, c22, c23, c24, c25⟩, d⟩, e⟩

theorem State.setTq_keeps {k : Nat} {x : Trough} (h : s.Keeps q) : (s.setTq k x).Keeps q := by
  obtain ⟨⟨⟨c0, c1, c2, c3, c4, c5, c6, c7, c8, c9, c10, c11, c12, c13, c14, c15, c16, c17, c18, c19, c20, c21, c22, c23,
    c24, c25⟩, d⟩, e⟩ := h
  exact ⟨⟨⟨c0, c1, c2, c3, c4, c5, c6, c7, c8, c9, c10, c11, c12, c13, c14, Sparse.wf_set _ _ c15, c16, c17, c18, c19,
    c20, c21, c22, c23, c24, c25⟩, d⟩, e⟩

theorem State.setPage_keeps {k : Nat} {x : Page} (h : s.Keeps q) : (s.setPage k x).Keeps q := by
  obtain ⟨⟨⟨c0, c1, c2, c3, c4, c5, c6, c7, c8, c9, c10, c11, c12, c13, c14, c15, c16, c17, c18, c19, c20, c21, c22, c23,
    c24, c25⟩, d⟩, e⟩ := h
  exact ⟨⟨⟨c0, c1, c2, c3, c4, c5, c6, c7, c8, c9, c10, c11, c12, c13, c14, c15, Sparse.wf_set _ _ c16, c17, c18, c19,
    c20, c21, c22, c23, c24, c25⟩, d⟩, e⟩

theorem State.setEng_keeps {k : Nat} {x : Eng} (h : s.Keeps q) : (s.setEng k x).Keeps q := by
  obtain ⟨⟨⟨c0, c1, c2, c3, c4, c5, c6, c7, c8, c9, c10, c11, c12, c13, c14, c15, c16, c17, c18, c19, c20, c21, c22, c23,
    c24, c25⟩, d⟩, e⟩ := h
  exact ⟨⟨⟨c0, c1, c2, c3, c4, c5, c6, c7, c8, c9, c10, c11, c12, c13, c14, c15, c16, Sparse.wf_set _ _ c17, c18, c19,
    c20, c21, c22, c23, c24, c25⟩, d⟩, e⟩

theorem State.setRn_keeps {k : Nat} {x : Runner} (h : s.Keeps q) : (s.setRn k x).Keeps q := by
  obtain ⟨⟨⟨c0, c1, c2, c3, c4, c5, c6, c7, c8, c9, c10, c11, c12, c13, c14, c15, c16, c17, c18, c19, c20, c21, c22, c23,
    c24, c25⟩, d⟩, e⟩ := h
  exact ⟨⟨⟨c0, c1, c2, c3, c4, c5, c6, c7, c8, c9, c10, c11, c12, c13, c14, c15, c16, c17, Sparse.wf_set _ _ c18, c19,
    c20, c21, c22, c23, c24, c25⟩, d⟩, e⟩

theorem State.setVlv_keeps {k : Nat} {x : Valve} (h : s.Keeps q) : (s.setVlv k x).Keeps q := by
  obtain ⟨⟨⟨c0, c1, c2, c3, c4, c5, c6, c7, c8, c9, c10, c11, c12, c13, c14, c15, c16, c17, c18, c19, c20, c21, c22, c23,
    c24, c25⟩, d⟩, e⟩ := h
  exact ⟨⟨⟨c0, c1, c2, c3, c4, c5, c6, c7, c8, c9, c10, c11, c12, c13, c14, c15, c16, c17, c18, Sparse.wf_set _ _ c19,
    c20, c21, c22, c23, c24, c25⟩, d⟩, e⟩

theorem State.setBk_keeps {k : Nat} {x : Bank} (h : s.Keeps q) : (s.setBk k x).Keeps q := by
  obtain ⟨⟨⟨c0, c1, c2, c3, c4, c5, c6, c7, c8, c9, c10, c11, c12, c13, c14, c15, c16, c17, c18, c19, c20, c21, c22, c23,
    c24, c25⟩, d⟩, e⟩ := h
  exact ⟨⟨⟨c0, c1, c2, c3, c4, c5, c6, c7, c8, c9, c10, c11, c12, c13, c14, c15, c16, c17, c18, c19, Sparse.wf_set _ _
    c20, c21, c22, c23, c24, c25⟩, d⟩, e⟩

theorem State.setPort_keeps {k : Nat} {x : Port} (h : s.Keeps q) : (s.setPort k x).Keeps q := by
  obtain ⟨⟨⟨c0, c1, c2, c3, c4, c5, c6, c7, c8, c9, c10, c11, c12, c13, c14, c15, c16, c17, c18, c19, c20, c21, c22, c23,
    c24, c25⟩, d⟩, e⟩ := h
  exact ⟨⟨⟨c0, c1, c2, c3, c4, c5, c6, c7, c8, c9, c10, c11, c12, c13, c14, c15, c16, c17, c18, c19, c20, Sparse.wf_set _
    _ c21, c22, c23, c24, c25⟩, d⟩, e⟩

theorem State.setMb_keeps {k : Nat} {x : Mbx} (h : s.Keeps q) : (s.setMb k x).Keeps q := by
  obtain ⟨⟨⟨c0, c1, c2, c3, c4, c5, c6, c7, c8, c9, c10, c11, c12, c13, c14, c15, c16, c17, c18, c19, c20, c21, c22, c23,
    c24, c25⟩, d⟩, e⟩ := h
  exact ⟨⟨⟨c0, c1, c2, c3, c4, c5, c6, c7, c8, c9, c10, c11, c12, c13, c14, c15, c16, c17, c18, c19, c20, c21,
    Sparse.wf_set _ _ c22, c23, c24, c25⟩, d⟩, e⟩

theorem State.setHold_keeps {k : Nat} {x : Hold} (h : s.Keeps q) : (s.setHold k x).Keeps q := by
  obtain ⟨⟨⟨c0, c1, c2, c3, c4, c5, c6, c7, c8, c9, c10, c11, c12, c13, c14, c15, c16, c17, c18, c19, c20, c21, c22, c23,
    c24, c25⟩, d⟩, e⟩ := h
  exact ⟨⟨⟨c0, c1, c2, c3, c4, c5, c6, c7, c8, c9, c10, c11, c12, c13, c14, c15, c16, c17, c18, c19, c20, c21, c22,
    Sparse.wf_set _ _ c23, c24, c25⟩, d⟩, e⟩

theorem State.setCh_keeps {k : Nat} {x : DmaChan} (h : s.Keeps q) : (s.setCh k x).Keeps q := by
  obtain ⟨⟨⟨c0, c1, c2, c3, c4, c5, c6, c7, c8, c9, c10, c11, c12, c13, c14, c15, c16, c17, c18, c19, c20, c21, c22, c23,
    c24, c25⟩, d⟩, e⟩ := h
  exact ⟨⟨⟨c0, c1, c2, c3, c4, c5, c6, c7, c8, c9, c10, c11, c12, c13, c14, c15, c16, c17, c18, c19, c20, c21, c22, c23,
    Sparse.wf_set _ _ c24, c25⟩, d⟩, e⟩

theorem State.latch_keeps {r : Requester} {a : Nat} {w : Word} (h : s.Keeps q) : (s.latch r a w).Keeps q := by
  obtain ⟨⟨⟨c0, c1, c2, c3, c4, c5, c6, c7, c8, c9, c10, c11, c12, c13, c14, c15, c16, c17, c18, c19, c20, c21, c22, c23,
    c24, c25⟩, d⟩, e⟩ := h
  exact ⟨⟨⟨c0, Sparse.wf_set _ _ c1, c2, c3, c4, c5, c6, c7, c8, c9, c10, c11, c12, c13, c14, c15, c16, c17, c18, c19,
    c20, c21, c22, c23, c24, c25⟩, d⟩, e⟩

theorem State.deliver_keeps {r : Requester} {w : Word} (h : s.Keeps q) : (s.deliver r w).Keeps q := by
  obtain ⟨⟨⟨c0, c1, c2, c3, c4, c5, c6, c7, c8, c9, c10, c11, c12, c13, c14, c15, c16, c17, c18, c19, c20, c21, c22, c23,
    c24, c25⟩, d⟩, e⟩ := h
  exact ⟨⟨⟨c0, c1, Sparse.wf_set _ _ c2, c3, c4, c5, c6, c7, c8, c9, c10, c11, c12, c13, c14, c15, c16, c17, c18, c19,
    c20, c21, c22, c23, c24, c25⟩, d⟩, e⟩

theorem State.pool_set_keeps {k : Nat} {x : TrgWord} (h : s.Keeps q) :
    State.Keeps q { s with pool := Sparse.set (fun _ => {}) s.pool k x } := by
  obtain ⟨⟨⟨c0, c1, c2, c3, c4, c5, c6, c7, c8, c9, c10, c11, c12, c13, c14, c15, c16, c17, c18, c19, c20, c21, c22, c23,
    c24, c25⟩, d⟩, e⟩ := h
  exact ⟨⟨⟨c0, c1, c2, c3, c4, c5, c6, c7, c8, c9, c10, c11, c12, c13, Sparse.wf_set _ _ c14, c15, c16, c17, c18, c19,
    c20, c21, c22, c23, c24, c25⟩, d⟩, e⟩

theorem State.snap_set_keeps {k : Nat} {x : Snap} (h : s.Keeps q) :
    State.Keeps q { s with snap := Sparse.set (fun _ => {}) s.snap k x } := by
  obtain ⟨⟨⟨c0, c1, c2, c3, c4, c5, c6, c7, c8, c9, c10, c11, c12, c13, c14, c15, c16, c17, c18, c19, c20, c21, c22, c23,
    c24, c25⟩, d⟩, e⟩ := h
  exact ⟨⟨⟨c0, c1, c2, c3, c4, c5, Sparse.wf_set _ _ c6, c7, c8, c9, c10, c11, c12, c13, c14, c15, c16, c17, c18, c19,
    c20, c21, c22, c23, c24, c25⟩, d⟩, e⟩

theorem State.trkUndo_set_keeps {k : Nat} {x : Tracker} (h : s.Keeps q) :
    State.Keeps q { s with trkUndo := Sparse.set (fun _ => {}) s.trkUndo k x } := by
  obtain ⟨⟨⟨c0, c1, c2, c3, c4, c5, c6, c7, c8, c9, c10, c11, c12, c13, c14, c15, c16, c17, c18, c19, c20, c21, c22, c23,
    c24, c25⟩, d⟩, e⟩ := h
  exact ⟨⟨⟨c0, c1, c2, c3, Sparse.wf_set _ _ c4, c5, c6, c7, c8, c9, c10, c11, c12, c13, c14, c15, c16, c17, c18, c19,
    c20, c21, c22, c23, c24, c25⟩, d⟩, e⟩
/-- Leaving register words out keeps it. -/
theorem State.regs_filter_keeps {f : Nat × Word → Bool} (h : s.Keeps q) :
    State.Keeps q { s with regs := s.regs.filter f } := by
  obtain ⟨⟨⟨c0, c1, c2, c3, c4, c5, c6, c7, c8, c9, c10, c11, c12, c13, c14, c15, c16, c17, c18, c19, c20, c21, c22, c23,
    c24, c25⟩, d⟩, e⟩ := h
  exact ⟨⟨⟨Sparse.wf_filter _ c0, c1, c2, c3, c4, c5, c6, c7, c8, c9, c10, c11, c12, c13, c14, c15, c16, c17, c18, c19,
    c20, c21, c22, c23, c24, c25⟩, d⟩, e⟩

/-- Leaving snapshots out keeps it. -/
theorem State.snaps_filter_keeps {f : Nat × Word → Bool} (h : s.Keeps q) :
    State.Keeps q { s with snaps := s.snaps.filter f } := by
  obtain ⟨⟨⟨c0, c1, c2, c3, c4, c5, c6, c7, c8, c9, c10, c11, c12, c13, c14, c15, c16, c17, c18, c19, c20, c21, c22, c23,
    c24, c25⟩, d⟩, e⟩ := h
  exact ⟨⟨⟨c0, Sparse.wf_filter _ c1, c2, c3, c4, c5, c6, c7, c8, c9, c10, c11, c12, c13, c14, c15, c16, c17, c18, c19,
    c20, c21, c22, c23, c24, c25⟩, d⟩, e⟩

/-- Other log words in canonical form keep it. -/
theorem State.logW_keeps {m : List (Nat × Word)} (hm : Sparse.wf (fun _ => (0 : Word)) m = true) (h : s.Keeps q) :
    State.Keeps q { s with logW := m } := by
  obtain ⟨⟨⟨c0, c1, c2, c3, c4, c5, c6, c7, c8, c9, c10, c11, c12, c13, c14, c15, c16, c17, c18, c19, c20, c21, c22, c23,
    c24, c25⟩, d⟩, e⟩ := h
  exact ⟨⟨⟨c0, c1, c2, c3, c4, c5, c6, c7, c8, c9, c10, c11, c12, c13, c14, c15, c16, c17, c18, c19, c20, c21, c22, c23,
    c24, hm⟩, d⟩, e⟩

/-- No entry state keeps it. -/
theorem State.entries_nil_keeps  (h : s.Keeps q) :
    State.Keeps q { s with entries := [] } := by
  obtain ⟨⟨⟨c0, c1, c2, c3, c4, c5, c6, c7, c8, c9, c10, c11, c12, c13, c14, c15, c16, c17, c18, c19, c20, c21, c22, c23,
    c24, c25⟩, d⟩, e⟩ := h
  exact ⟨⟨⟨c0, c1, c2, c3, c4, c5, c6, rfl, c8, c9, c10, c11, c12, c13, c14, c15, c16, c17, c18, c19, c20, c21, c22, c23,
    c24, c25⟩, d⟩, e⟩

/-- An empty trough pool keeps it. -/
theorem State.pool_nil_keeps  (h : s.Keeps q) :
    State.Keeps q { s with pool := [] } := by
  obtain ⟨⟨⟨c0, c1, c2, c3, c4, c5, c6, c7, c8, c9, c10, c11, c12, c13, c14, c15, c16, c17, c18, c19, c20, c21, c22, c23,
    c24, c25⟩, d⟩, e⟩ := h
  exact ⟨⟨⟨c0, c1, c2, c3, c4, c5, c6, c7, c8, c9, c10, c11, c12, c13, rfl, c15, c16, c17, c18, c19, c20, c21, c22, c23,
    c24, c25⟩, d⟩, e⟩

/-- No page state keeps it. -/
theorem State.pages_nil_keeps  (h : s.Keeps q) :
    State.Keeps q { s with pages := [] } := by
  obtain ⟨⟨⟨c0, c1, c2, c3, c4, c5, c6, c7, c8, c9, c10, c11, c12, c13, c14, c15, c16, c17, c18, c19, c20, c21, c22, c23,
    c24, c25⟩, d⟩, e⟩ := h
  exact ⟨⟨⟨c0, c1, c2, c3, c4, c5, c6, c7, c8, c9, c10, c11, c12, c13, c14, c15, rfl, c17, c18, c19, c20, c21, c22, c23,
    c24, c25⟩, d⟩, e⟩

/-- Other channels in canonical form keep it. -/
theorem State.chans_keeps {m : List (Nat × DmaChan)} (hm : Sparse.wf (fun _ => ({} : DmaChan)) m = true) (h : s.Keeps q) :
    State.Keeps q { s with chans := m } := by
  obtain ⟨⟨⟨c0, c1, c2, c3, c4, c5, c6, c7, c8, c9, c10, c11, c12, c13, c14, c15, c16, c17, c18, c19, c20, c21, c22, c23,
    c24, c25⟩, d⟩, e⟩ := h
  exact ⟨⟨⟨c0, c1, c2, c3, c4, c5, c6, c7, c8, c9, c10, c11, c12, c13, c14, c15, c16, c17, c18, c19, c20, c21, c22, c23,
    hm, c25⟩, d⟩, e⟩

/-- At most 32 other reports keep it. -/
theorem State.logQ_keeps {l : List Report} (hl : l.length ≤ 32) (h : s.Keeps q) : State.Keeps q { s with logQ := l } :=
  ⟨⟨h.1.1, hl, h.1.2.2⟩, h.2⟩

/-- At most 16 other messages keep it. -/
theorem State.msgs_keeps {l : List Msg} (hl : l.length ≤ 16) (h : s.Keeps q) :
    State.Keeps q { s with tth := { s.tth with msgs := l } } :=
  ⟨⟨h.1.1, h.1.2.1, hl, h.1.2.2.2⟩, h.2⟩

/-- Any other state of the Tether block with at most 16 messages keeps it. -/
theorem State.tth_keeps {x : Tether} (hl : x.msgs.length ≤ 16) (h : s.Keeps q) : State.Keeps q { s with tth := x } :=
  ⟨⟨h.1.1, h.1.2.1, hl, h.1.2.2.2⟩, h.2⟩

/-- Anything else of the device as a whole keeps it. -/
theorem State.sys_keeps {x : Sys} (h : s.Keeps q) : State.Keeps q { s with sys := x } := h

/-- Any other state of the SPI target with at most 8 held words keeps it. -/
theorem State.spi_keeps {x : Spi} (hl : x.held.length ≤ 8) (h : s.Keeps q) : State.Keeps q { s with spi := x } :=
  ⟨⟨h.1.1, h.1.2.1, h.1.2.2.1, hl⟩, h.2⟩

/-- Updates of fields that hold no table and no bounded queue keep it. -/
theorem State.shadow_keeps {x : List (Nat × Word)} (h : s.Keeps q) : State.Keeps q { s with shadow := x } := h
theorem State.ready_keeps {x : List Nat} (h : s.Keeps q) : State.Keeps q { s with ready := x } := h
theorem State.staged_keeps {x : List (Nat × Word)} (h : s.Keeps q) : State.Keeps q { s with staged := x } := h
theorem State.stagedItems_keeps {x : List Nat} (h : s.Keeps q) : State.Keeps q { s with stagedItems := x } := h
theorem State.touched_keeps {x : List Nat} (h : s.Keeps q) : State.Keeps q { s with touched := x } := h
theorem State.badWords_keeps {x : List Nat} (h : s.Keeps q) : State.Keeps q { s with badWords := x } := h
theorem State.setNow_keeps {x : List (Nat × Word × Word)} (h : s.Keeps q) : State.Keeps q { s with setNow := x } := h
theorem State.stepped_keeps {x : List Nat} (h : s.Keeps q) : State.Keeps q { s with stepped := x } := h
theorem State.tb_keeps {x : TimeSt} (h : s.Keeps q) : State.Keeps q { s with tb := x } := h
theorem State.points_keeps {x : List (Nat × Point)} (h : s.Keeps q) : State.Keeps q { s with points := x } := h
theorem State.deferred_keeps {x : List (Nat × Point)} (h : s.Keeps q) : State.Keeps q { s with deferred := x } := h
theorem State.placed_keeps {x : List Act} (h : s.Keeps q) : State.Keeps q { s with placed := x } := h
theorem State.flight_keeps {x : List PinEdge} (h : s.Keeps q) : State.Keeps q { s with flight := x } := h
theorem State.trgWaits_keeps {x : List TrgWait} (h : s.Keeps q) : State.Keeps q { s with trgWaits := x } := h
theorem State.bst_keeps {x : Boost} (h : s.Keeps q) : State.Keeps q { s with bst := x } := h
theorem State.pwr_keeps {x : Power} (h : s.Keeps q) : State.Keeps q { s with pwr := x } := h
theorem State.dma_keeps {x : Dma} (h : s.Keeps q) : State.Keeps q { s with dma := x } := h
theorem State.hostOut_keeps {x : List (Nat × List Nat)} (h : s.Keeps q) : State.Keeps q { s with hostOut := x } := h
theorem State.wakeLow_keeps {x : Bool} (h : s.Keeps q) : State.Keeps q { s with wakeLow := x } := h
theorem State.fr_keeps {x : Fr} (h : s.Keeps q) : State.Keeps q { s with fr := x } := h
theorem State.pcie_keeps {x : Pcie} (h : s.Keeps q) : State.Keeps q { s with pcie := x } := h
theorem State.logLost_keeps {x : Nat} (h : s.Keeps q) : State.Keeps q { s with logLost := x } := h
theorem State.logHold_keeps {x : Bool} (h : s.Keeps q) : State.Keeps q { s with logHold := x } := h
theorem State.once_keeps {x : List (LogCode × Nat)} (h : s.Keeps q) : State.Keeps q { s with once := x } := h
theorem State.free_keeps {x : Nat} (h : s.Keeps q) : State.Keeps q { s with free := x } := h

/-- At most 8 other held words keep it. -/
theorem State.held_keeps {l : List (Nat × Word)} (hl : l.length ≤ 8) (h : s.Keeps q) :
    State.Keeps q { s with spi := { s.spi with held := l } } :=
  ⟨⟨h.1.1, h.1.2.1, h.1.2.2.1, hl⟩, h.2⟩

end Tables

end Sys2Proof.Machine
end

