-- ==== Sys2Proof/Laws/Keep/Ops.lean ====
section
/-! SUPPORT. Every operation of Machine/Ops.lean keeps a sound state and the queue of waiting commands. -/

namespace Sys2Proof.Machine

open Sys2Proof

/-- setF keeps a sound state and the queue. -/
theorem State.setF_keeps {pq : List Instr} {s : State} {x : Fld} {v : Nat} (hs : s.Keeps pq) :
    State.Keeps pq (State.setF s x v) := by
  unfold State.setF
  exact (State.wr_keeps hs)

/-- note keeps a sound state and the queue. -/
theorem State.note_keeps {pq : List Instr} {s : State} {a : Nat} {new : Word → Word} (hs : s.Keeps pq) :
    State.Keeps pq (State.note s a new) := by
  unfold State.note
  refine State.Keeps.ite ?_ ?_
  · exact hs
  · split
    · exact (State.setNow_keeps hs)
    · exact (State.setNow_keeps hs)

/-- setB keeps a sound state and the queue. -/
theorem State.setB_keeps {pq : List Instr} {s : State} {x : Fld} {v : Bool} (hs : s.Keeps pq) :
    State.Keeps pq (State.setB s x v) := by
  unfold State.setB
  refine State.setF_keeps ?_
  refine State.Keeps.ite ?_ ?_
  · exact (State.note_keeps hs)
  · exact hs

/-- flag keeps a sound state and the queue. -/
theorem State.flag_keeps {pq : List Instr} {s : State} {a : Nat} {bit : Nat} (hs : s.Keeps pq) :
    State.Keeps pq (State.flag s a bit) := by
  unfold State.flag
  exact (State.wr_keeps (State.note_keeps hs))

/-- unflag keeps a sound state and the queue. -/
theorem State.unflag_keeps {pq : List Instr} {s : State} {a : Nat} {bit : Nat} (hs : s.Keeps pq) :
    State.Keeps pq (State.unflag s a bit) := by
  unfold State.unflag
  exact (State.wr_keeps hs)

/-- bumpBy keeps a sound state and the queue. -/
theorem State.bumpBy_keeps {pq : List Instr} {s : State} {a : Nat} {k : Nat} (hs : s.Keeps pq) :
    State.Keeps pq (State.bumpBy s a k) := by
  unfold State.bumpBy
  exact (State.wr_keeps (State.note_keeps hs))

/-- bump keeps a sound state and the queue. -/
theorem State.bump_keeps {pq : List Instr} {s : State} {a : Nat} (hs : s.Keeps pq) :
    State.Keeps pq (State.bump s a) := by
  unfold State.bump
  exact (State.bumpBy_keeps hs)

/-- plainWr keeps a sound state and the queue. -/
theorem State.plainWr_keeps {pq : List Instr} {s : State} {a : Nat} {v : Word} (hs : s.Keeps pq) :
    State.Keeps pq (State.plainWr s a v) := by
  unfold State.plainWr
  exact (State.wr_keeps hs)

/-- setUndo keeps a sound state and the queue. -/
theorem State.setUndo_keeps {q : List Instr} {s : State} {n : Nat} {t : Tracker} (h : s.Keeps q) :
    State.Keeps q (State.setUndo s n t) := State.trkUndo_set_keeps h

/-- log keeps a sound state and the queue. -/
theorem State.log_keeps {q : List Instr} {s : State} {c : LogCode} {src det : Nat} (h : s.Keeps q) :
    State.Keeps q (State.log s c src det) := by
  have hl := State.logQ_log_length s c src det h.1.2.1
  unfold State.log at hl ⊢
  split
  · exact State.Keeps.same (State.bump_keeps h) rfl
  · rename_i hn
    rw [if_neg hn] at hl
    exact State.logQ_keeps hl h

/-- logOnceFor keeps a sound state and the queue. -/
theorem State.logOnceFor_keeps {pq : List Instr} {s : State} {c : LogCode} {key : Nat} {src : Nat} {det : Nat} (hs : s.Keeps
    pq) :
    State.Keeps pq (State.logOnceFor s c key src det) := by
  unfold State.logOnceFor
  extract_lets __src
  have h___src : State.Keeps pq __src := (State.log_keeps hs)
  refine State.Keeps.ite ?_ ?_
  · exact hs
  · exact (State.once_keeps h___src)

/-- logOnce keeps a sound state and the queue. -/
theorem State.logOnce_keeps {pq : List Instr} {s : State} {c : LogCode} {src : Nat} {det : Nat} (hs : s.Keeps pq) :
    State.Keeps pq (State.logOnce s c src det) := by
  unfold State.logOnce
  exact (State.logOnceFor_keeps hs)

/-- pulse keeps a sound state and the queue. -/
theorem State.pulse_keeps {pq : List Instr} {s : State} {g : Nat} (hs : s.Keeps pq) :
    State.Keeps pq (State.pulse s g) := by
  unfold State.pulse
  extract_lets x up
  refine State.setSrc_keeps ?_
  refine State.Keeps.ite ?_ ?_
  · exact (State.note_keeps hs)
  · exact hs

/-- level keeps a sound state and the queue. -/
theorem State.level_keeps {pq : List Instr} {s : State} {g : Nat} {l : Bool} (hs : s.Keeps pq) :
    State.Keeps pq (State.level s g l) := by
  unfold State.level
  extract_lets x e
  refine State.setSrc_keeps ?_
  refine State.Keeps.ite ?_ ?_
  · exact (State.note_keeps hs)
  · exact hs

/-- pulseEnd keeps a sound state and the queue. -/
theorem State.pulseEnd_keeps {pq : List Instr} {s : State} {g : Nat} (hs : s.Keeps pq) :
    State.Keeps pq (State.pulseEnd s g) := by
  unfold State.pulseEnd
  extract_lets x down
  split
  · refine State.Keeps.ite ?_ ?_
    · exact hs
    · refine State.setSrc_keeps ?_
      refine State.Keeps.ite ?_ ?_
      · exact (State.note_keeps hs)
      · exact hs
  · exact hs

/-- doneTick keeps a sound state and the queue. -/
theorem State.doneTick_keeps {pq : List Instr} {s : State} {n : Nat} {p : Nat} {d : Nat} (hs : s.Keeps pq) :
    State.Keeps pq (State.doneTick s n p d) := by
  unfold State.doneTick
  extract_lets d_1 peak s1
  have h_s1 : State.Keeps pq s1 := (State.wr_keeps (State.note_keeps (State.wr_keeps hs)))
  clear_value s1
  refine State.Keeps.ite ?_ ?_
  · exact (State.pulse_keeps (State.flag_keeps h_s1))
  · exact h_s1

/-- partDoneAt keeps a sound state and the queue. -/
theorem State.partDoneAt_keeps {pq : List Instr} {s : State} {n : Nat} {t : Time} (hs : s.Keeps pq) :
    State.Keeps pq (State.partDoneAt s n t) := by
  unfold State.partDoneAt
  extract_lets x
  refine State.Keeps.ite ?_ ?_
  · exact hs
  · refine State.setPart_keeps ?_
    refine State.Keeps.ite ?_ ?_
    · exact hs
    · exact (State.doneTick_keeps hs)

/-- partDone keeps a sound state and the queue. -/
theorem State.partDone_keeps {q : List Instr} {s : State} {n : Nat} (h : s.Keeps q) : State.Keeps q (State.partDone s n) :=
  State.partDoneAt_keeps h

/-- partStart keeps a sound state and the queue. -/
theorem State.partStart_keeps {pq : List Instr} {s : State} {n : Nat} {work : Bool} (hs : s.Keeps pq) :
    State.Keeps pq (State.partStart s n work) := by
  unfold State.partStart
  extract_lets x
  refine State.Keeps.ite ?_ ?_
  · exact (State.setPart_keeps hs)
  · refine State.Keeps.ite ?_ ?_
    · exact (State.setPart_keeps hs)
    · exact (State.doneTick_keeps hs)

/-- shadowWr keeps a sound state and the queue. -/
theorem State.shadowWr_keeps {pq : List Instr} {s : State} {a : Nat} {w : Word} (hs : s.Keeps pq) :
    State.Keeps pq (State.shadowWr s a w) := by
  unfold State.shadowWr
  extract_lets i
  exact (State.Keeps.same hs rfl)

/-- takeStage keeps a sound state and the queue. -/
theorem State.takeStage_keeps {pq : List Instr} {s : State} (hs : s.Keeps pq) :
    State.Keeps pq (State.takeStage s) := by
  unfold State.takeStage
  exact (State.Keeps.same hs rfl)

/-- commitStage keeps a sound state and the queue. -/
theorem State.commitStage_keeps {pq : List Instr} {s : State} (hs : s.Keeps pq) :
    State.Keeps pq (State.commitStage s) := by
  unfold State.commitStage
  extract_lets s1 gone
  have h_s1 : State.Keeps pq s1 := (State.Keeps.foldl (fun _ _ h1 => (State.wr_keeps h1)) hs)
  clear_value s1
  exact (State.Keeps.same h_s1 rfl)

/-- dropStage keeps a sound state and the queue. -/
theorem State.dropStage_keeps {pq : List Instr} {s : State} (hs : s.Keeps pq) :
    State.Keeps pq (State.dropStage s) := by
  unfold State.dropStage
  exact (State.Keeps.same hs rfl)

/-- draw keeps a sound state and the queue. -/
theorem State.draw_keeps {pq : List Instr} {s : State} (hs : s.Keeps pq) :
    State.Keeps pq (State.draw s).2 := by
  unfold State.draw
  exact (State.free_keeps hs)

end Sys2Proof.Machine
end

