-- ==== Sys2Proof/Laws/Keep/Operands.lean ====
section
/-! SUPPORT. Every operation of Machine/Operands.lean keeps a sound state and the queue of waiting commands. -/

namespace Sys2Proof.Machine

open Sys2Proof

/-- srcSet keeps a sound state and the queue. -/
theorem State.srcSet_keeps {pq : List Instr} {s : State} {src : Nat} {rising : Bool} (hs : s.Keeps pq) :
    State.Keeps pq (State.srcSet s src rising) := by
  unfold State.srcSet
  extract_lets __src __src_1
  refine State.Keeps.ite ?_ ?_
  · exact (State.setSn_keeps hs)
  · refine State.Keeps.ite ?_ ?_
    · exact (State.setPin_keeps hs)
    · exact hs

/-- refuseWrite keeps a sound state and the queue. -/
theorem State.refuseWrite_keeps {pq : List Instr} {s : State} {r : Requester} (hs : s.Keeps pq) :
    State.Keeps pq (State.refuseWrite s r) := by
  unfold State.refuseWrite
  exact (State.logOnceFor_keeps (State.bump_keeps hs))

/-- issueWrite keeps a sound state and the queue. -/
theorem State.issueWrite_keeps {pq : List Instr} {s : State} {r : Requester} {f : State → State} (hs : s.Keeps pq) (h_f : ∀
    x0, State.Keeps pq x0 → State.Keeps pq (f x0)) :
    State.Keeps pq (State.issueWrite s r f) := by
  unfold State.issueWrite
  refine State.Keeps.ite ?_ ?_
  · exact (h_f _ hs)
  · exact (State.refuseWrite_keeps hs)

/-- noAccess keeps a sound state and the queue. -/
theorem State.noAccess_keeps {pq : List Instr} {s : State} {r : Requester} (hs : s.Keeps pq) :
    State.Keeps pq (State.noAccess s r) := by
  unfold State.noAccess
  extract_lets __src
  refine State.Keeps.ite ?_ ?_
  · exact (State.pcie_keeps hs)
  · exact hs

/-- enqueue keeps a sound state and the queue. -/
theorem State.enqueue_keeps {pq : List Instr} {s : State} {x : Access} (hs : s.Keeps pq) :
    State.Keeps pq (State.enqueue s x) := by
  unfold State.enqueue
  exact (State.pcie_keeps hs)

/-- writeBy keeps a sound state and the queue. -/
theorem State.writeBy_keeps {pq : List Instr} {s : State} {x : Access} {f : State → State} (hs : s.Keeps pq) (h_f : ∀ x0,
    State.Keeps pq x0 → State.Keeps pq (f x0)) :
    State.Keeps pq (State.writeBy s x f) := by
  unfold State.writeBy
  refine State.Keeps.ite ?_ ?_
  · exact (State.noAccess_keeps hs)
  · refine State.Keeps.ite ?_ ?_
    · exact (State.enqueue_keeps hs)
    · exact (State.issueWrite_keeps hs (fun _ h1 => (h_f _ h1)))

/-- readBy keeps a sound state and the queue. -/
theorem State.readBy_keeps {pq : List Instr} {s : State} {x : Access} {f : State → State} (hs : s.Keeps pq) (h_f : ∀ x0,
    State.Keeps pq x0 → State.Keeps pq (f x0)) :
    State.Keeps pq (State.readBy s x f) := by
  unfold State.readBy
  refine State.Keeps.ite ?_ ?_
  · exact (State.noAccess_keeps hs)
  · refine State.Keeps.ite ?_ ?_
    · exact (State.enqueue_keeps hs)
    · exact (h_f _ hs)

end Sys2Proof.Machine
end

