-- ==== Sys2Proof/Laws/Keep/Slots.lean ====
section
/-! SUPPORT. Every operation of Machine/Slots.lean keeps a sound state and the queue of waiting commands. -/

namespace Sys2Proof.Machine

open Sys2Proof

/-- putAct keeps a sound state and the queue. -/
theorem State.putAct_keeps {pq : List Instr} {s : State} {a : Act} (hs : s.Keeps pq) :
    State.Keeps pq (State.putAct s a) := by
  unfold State.putAct
  refine State.Keeps.ite ?_ ?_
  · exact hs
  · exact (State.placed_keeps hs)

/-- dropEnds keeps a sound state and the queue. -/
theorem State.dropEnds_keeps {pq : List Instr} {s : State} {sh : Nat} {slot : Nat} (hs : s.Keeps pq) :
    State.Keeps pq (State.dropEnds s sh slot) := by
  unfold State.dropEnds
  exact (State.placed_keeps hs)

/-- dropActs keeps a sound state and the queue. -/
theorem State.dropActs_keeps {pq : List Instr} {s : State} {sh : Nat} {slot : Nat} (hs : s.Keeps pq) :
    State.Keeps pq (State.dropActs s sh slot) := by
  unfold State.dropActs
  exact (State.placed_keeps hs)

/-- inject keeps a sound state and the queue. -/
theorem State.inject_keeps {pq : List Instr} {s : State} {sh : Nat} {slot : Nat} {t : Fine} (hs : s.Keeps pq) :
    State.Keeps pq (State.inject s sh slot t).2 := by
  unfold State.inject
  split
  · exact (State.setB_keeps hs)
  · exact hs

/-- placeStart keeps a sound state and the queue. -/
theorem State.placeStart_keeps {pq : List Instr} {s : State} {sh : Nat} {slot : Nat} {total : Fine} {late : Bool} (hs :
    s.Keeps pq) :
    State.Keeps pq (State.placeStart s sh slot total late) := by
  unfold State.placeStart
  extract_lets k
  split
  rename_i _ t1 e1
  have k1 : State.Keeps pq t1 := State.Keeps.snd e1 (State.inject_keeps hs)
  extract_lets x x1 s1 __src s2
  have h_s1 : State.Keeps pq s1 := (State.putAct_keeps (State.setSl_keeps k1))
  clear_value s1
  have h_s2 : State.Keeps pq s2 := by
    refine State.Keeps.ite ?_ ?_
    · exact (State.setEs_keeps h_s1)
    · exact h_s1
  clear_value s2
  refine State.Keeps.ite ?_ ?_
  · exact (State.pulse_keeps (State.bump_keeps h_s2))
  · exact h_s2

/-- placeEnd keeps a sound state and the queue. -/
theorem State.placeEnd_keeps {pq : List Instr} {s : State} {sh : Nat} {slot : Nat} {total : Fine} {late : Bool} (hs :
    s.Keeps pq) :
    State.Keeps pq (State.placeEnd s sh slot total late) := by
  unfold State.placeEnd
  extract_lets k x floor t0
  refine State.Keeps.ite ?_ ?_
  · exact hs
  · split
    · refine State.Keeps.ite ?_ ?_
      · split
        rename_i _ t1 e1
        have k1 : State.Keeps pq t1 := State.Keeps.snd e1 (State.inject_keeps hs)
        exact (State.putAct_keeps (State.setSl_keeps (State.dropEnds_keeps k1)))
      · exact hs
    · split
      rename_i _ t1 e1
      have k1 : State.Keeps pq t1 := State.Keeps.snd e1 (State.inject_keeps hs)
      exact (State.putAct_keeps (State.setSl_keeps k1))

/-- forceEnd keeps a sound state and the queue. -/
theorem State.forceEnd_keeps {pq : List Instr} {s : State} {sh : Nat} {slot : Nat} (hs : s.Keeps pq) :
    State.Keeps pq (State.forceEnd s sh slot) := by
  unfold State.forceEnd
  exact (State.placeEnd_keeps hs)

/-- unload keeps a sound state and the queue. -/
theorem State.unload_keeps {pq : List Instr} {s : State} {sh : Nat} {slot : Nat} (hs : s.Keeps pq) :
    State.Keeps pq (State.unload s sh slot) := by
  unfold State.unload
  extract_lets k
  exact (State.setSl_keeps hs)

/-- dropLate keeps a sound state and the queue. -/
theorem State.dropLate_keeps {pq : List Instr} {s : State} {sh : Nat} {slot : Nat} (hs : s.Keeps pq) :
    State.Keeps pq (State.dropLate s sh slot) := by
  unfold State.dropLate
  extract_lets e s1
  have h_s1 : State.Keeps pq s1 := (State.pulse_keeps (State.bump_keeps (State.unload_keeps hs)))
  clear_value s1
  refine State.Keeps.ite ?_ ?_
  · exact h_s1
  · exact (State.logOnce_keeps h_s1)

/-- lateStart keeps a sound state and the queue. -/
theorem State.lateStart_keeps {pq : List Instr} {s : State} {sh : Nat} {slot : Nat} (hs : s.Keeps pq) :
    State.Keeps pq (State.lateStart s sh slot) := by
  unfold State.lateStart
  extract_lets x
  refine State.Keeps.ite ?_ ?_
  · exact (State.placeStart_keeps hs)
  · exact (State.dropLate_keeps hs)

/-- overSlots keeps a sound state and the queue. -/
theorem overSlots_keeps {pq : List Instr} {l : List (Nat × Nat)} {f : State → Nat → Nat → State} {s : State} (h_f : ∀ x0 x1
    x2, State.Keeps pq x0 → State.Keeps pq (f x0 x1 x2)) (hs : s.Keeps pq) :
    State.Keeps pq (overSlots l f s) := by
  unfold overSlots
  exact (State.Keeps.foldl (fun _ _ h1 => (h_f _ _ _ h1)) hs)

/-- dropPoints keeps a sound state and the queue. -/
theorem State.dropPoints_keeps {pq : List Instr} {s : State} {n : Nat} (hs : s.Keeps pq) :
    State.Keeps pq (State.dropPoints s n) := by
  unfold State.dropPoints
  exact (State.Keeps.same hs rfl)

/-- evLoss keeps a sound state and the queue. -/
theorem State.evLoss_keeps {pq : List Instr} {s : State} {n : Nat} (hs : s.Keeps pq) :
    State.Keeps pq (State.evLoss s n) := by
  unfold State.evLoss
  extract_lets s1 __src
  have h_s1 : State.Keeps pq s1 := (overSlots_keeps (fun _ _ _ h1 => by
        extract_lets x
        refine State.Keeps.ite ?_ ?_
        · exact (State.unload_keeps h1)
        · refine State.Keeps.ite ?_ ?_
          · exact (State.forceEnd_keeps h1)
          · refine State.Keeps.ite ?_ ?_
            · exact h1
            · exact (State.forceEnd_keeps h1)) hs)
  clear_value s1
  exact (State.setTe_keeps (State.dropPoints_keeps h_s1))

/-- evStall keeps a sound state and the queue. -/
theorem State.evStall_keeps {pq : List Instr} {s : State} {n : Nat} (hs : s.Keeps pq) :
    State.Keeps pq (State.evStall s n) := by
  unfold State.evStall
  extract_lets s1 __src
  have h_s1 : State.Keeps pq s1 := (overSlots_keeps (fun _ _ _ h1 => by
        extract_lets x
        refine State.Keeps.ite ?_ ?_
        · exact (State.forceEnd_keeps h1)
        · exact h1) hs)
  clear_value s1
  exact (State.setTe_keeps h_s1)

/-- evReverse keeps a sound state and the queue. -/
theorem State.evReverse_keeps {pq : List Instr} {s : State} {n : Nat} {aOld : Nat} (hs : s.Keeps pq) :
    State.Keeps pq (State.evReverse s n aOld) := by
  unfold State.evReverse
  extract_lets s1 e
  have h_s1 : State.Keeps pq s1 := (overSlots_keeps (fun _ _ _ h1 => by
        refine State.Keeps.ite ?_ ?_
        · exact (State.unload_keeps h1)
        · exact (State.forceEnd_keeps h1)) hs)
  clear_value s1
  exact (State.setTe_keeps (State.dropPoints_keeps h_s1))

/-- cutEdges keeps a sound state and the queue. -/
theorem State.cutEdges_keeps {pq : List Instr} {s : State} {p : Nat} (hs : s.Keeps pq) :
    State.Keeps pq (State.cutEdges s p) := by
  unfold State.cutEdges
  exact (State.setPin_keeps hs)

/-- dropEdges keeps a sound state and the queue. -/
theorem State.dropEdges_keeps {pq : List Instr} {s : State} {gone : Nat → Bool} (hs : s.Keeps pq) :
    State.Keeps pq (State.dropEdges s gone) := by
  unfold State.dropEdges
  exact (State.Keeps.overList (fun _ _ h1 => (State.cutEdges_keeps h1)) (State.flight_keeps hs))

/-- evClear keeps a sound state and the queue. -/
theorem State.evClear_keeps {pq : List Instr} {s : State} (hs : s.Keeps pq) :
    State.Keeps pq (State.evClear s) := by
  unfold State.evClear
  extract_lets s1
  have h_s1 : State.Keeps pq s1 := (State.Keeps.foldl (fun _ _ h1 => (State.setSl_keeps h1)) hs)
  clear_value s1
  exact (State.Keeps.overList (fun _ _ h2 => (State.cutEdges_keeps h2)) (State.Keeps.same h_s1 rfl))

end Sys2Proof.Machine
end

