-- ==== Sys2Proof/Laws/Keep/Trackers.lean ====
section
/-! SUPPORT. Every operation of Machine/Trackers.lean keeps a sound state and the queue of waiting commands. -/

namespace Sys2Proof.Machine

open Sys2Proof

/-- setSt keeps a sound state and the queue. -/
theorem State.setSt_keeps {pq : List Instr} {s : State} {n : Nat} {new : TState} (hs : s.Keeps pq) :
    State.Keeps pq (State.setSt s n new) := by
  unfold State.setSt
  extract_lets t old tracking was s0 __src s1 __src_1 s2 __src_2
  have h_s0 : State.Keeps pq s0 := by
    refine State.Keeps.ite ?_ ?_
    · exact (State.bump_keeps hs)
    · exact hs
  clear_value s0
  have h_s1 : State.Keeps pq s1 := (State.pulse_keeps (State.setTr_keeps h_s0))
  clear_value s1
  have h_s2 : State.Keeps pq s2 := by
    refine State.Keeps.ite ?_ ?_
    · exact (State.evStall_keeps (State.setTe_keeps h_s1))
    · refine State.Keeps.ite ?_ ?_
      · exact (State.evLoss_keeps h_s1)
      · exact h_s1
  clear_value s2
  refine State.Keeps.ite ?_ ?_
  · exact hs
  · refine State.Keeps.ite ?_ ?_
    · exact (State.setTe_keeps h_s2)
    · refine State.Keeps.ite ?_ ?_
      · exact (State.setTe_keeps h_s2)
      · refine State.Keeps.ite ?_ ?_
        · exact (State.setTe_keeps h_s2)
        · exact h_s2

/-- restartTrk keeps a sound state and the queue. -/
theorem State.restartTrk_keeps {pq : List Instr} {s : State} {n : Nat} (hs : s.Keeps pq) :
    State.Keeps pq (State.restartTrk s n) := by
  unfold State.restartTrk
  extract_lets __src s1
  have h_s1 : State.Keeps pq s1 := (State.setTr_keeps hs)
  clear_value s1
  exact (State.setSt_keeps h_s1)

/-- trkErrPulse keeps a sound state and the queue. -/
theorem State.trkErrPulse_keeps {pq : List Instr} {s : State} {n : Nat} (hs : s.Keeps pq) :
    State.Keeps pq (State.trkErrPulse s n) := by
  unfold State.trkErrPulse
  exact (State.pulse_keeps (State.bump_keeps hs))

/-- trkError keeps a sound state and the queue. -/
theorem State.trkError_keeps {pq : List Instr} {s : State} {n : Nat} (hs : s.Keeps pq) :
    State.Keeps pq (State.trkError s n) := by
  unfold State.trkError
  exact (State.trkErrPulse_keeps (State.setTr_keeps hs))

/-- trkIdxError keeps a sound state and the queue. -/
theorem State.trkIdxError_keeps {pq : List Instr} {s : State} {n : Nat} (hs : s.Keeps pq) :
    State.Keeps pq (State.trkIdxError s n) := by
  unfold State.trkIdxError
  exact (State.trkErrPulse_keeps (State.setTr_keeps hs))

/-- limpFromSync keeps a sound state and the queue. -/
theorem State.limpFromSync_keeps {pq : List Instr} {s : State} {n : Nat} (hs : s.Keeps pq) :
    State.Keeps pq (State.limpFromSync s n) := by
  unfold State.limpFromSync
  extract_lets t m elt dist j __src t1
  exact (State.setSt_keeps (State.setTr_keeps hs))

/-- loseLimp keeps a sound state and the queue. -/
theorem State.loseLimp_keeps {pq : List Instr} {s : State} {n : Nat} (hs : s.Keeps pq) :
    State.Keeps pq (State.loseLimp s n) := by
  unfold State.loseLimp
  exact (State.setSt_keeps (State.log_keeps hs))

/-- loseSync keeps a sound state and the queue. -/
theorem State.loseSync_keeps {pq : List Instr} {s : State} {n : Nat} (hs : s.Keeps pq) :
    State.Keeps pq (State.loseSync s n) := by
  unfold State.loseSync
  extract_lets s1
  have h_s1 : State.Keeps pq s1 := (State.limpFromSync_keeps (State.log_keeps hs))
  clear_value s1
  refine State.Keeps.ite ?_ ?_
  · refine State.Keeps.ite ?_ ?_
    · exact (State.loseLimp_keeps h_s1)
    · exact h_s1
  · exact (State.setSt_keeps (State.log_keeps hs))

/-- faultRows keeps a sound state and the queue. -/
theorem State.faultRows_keeps {pq : List Instr} {s : State} {n : Nat} (hs : s.Keeps pq) :
    State.Keeps pq (State.faultRows s n) := by
  unfold State.faultRows
  extract_lets s1
  have h_s1 : State.Keeps pq s1 := by
    refine State.Keeps.ite ?_ ?_
    · exact (State.loseSync_keeps hs)
    · exact hs
  clear_value s1
  refine State.Keeps.ite ?_ ?_
  · exact (State.loseLimp_keeps h_s1)
  · exact h_s1

/-- setLaw keeps a sound state and the queue. -/
theorem State.setLaw_keeps {pq : List Instr} {s : State} {n : Nat} {thk : Nat} {dth : Nat} {e : Nat} {el : Nat} {runRaw :
    Nat} (hs : s.Keeps pq) :
    State.Keeps pq (State.setLaw s n thk dth e el runRaw) := by
  unfold State.setLaw
  extract_lets t m num e_1 saturated q_1 rem den lam t1 s1
  have h_s1 : State.Keeps pq s1 := (State.setTr_keeps hs)
  clear_value s1
  refine State.Keeps.ite ?_ ?_
  · exact (State.log_keeps h_s1)
  · exact h_s1

/-- toothLaw keeps a sound state and the queue. -/
theorem State.toothLaw_keeps {pq : List Instr} {s : State} {n : Nat} {e : Nat} {stamp : Time} {u : Time} (hs : s.Keeps pq) :
    State.Keeps pq (State.toothLaw s n e stamp u) := by
  unfold State.toothLaw
  extract_lets t thk
  split
  · split
    · exact (State.setLaw_keeps hs)

/-- ssiLaw keeps a sound state and the queue. -/
theorem State.ssiLaw_keeps {pq : List Instr} {s : State} {n : Nat} {e : Nat} {stamp : Time} {u : Time} (hs : s.Keeps pq) :
    State.Keeps pq (State.ssiLaw s n e stamp u) := by
  unfold State.ssiLaw
  extract_lets t
  exact (State.setLaw_keeps hs)

/-- edgeLaw keeps a sound state and the queue. -/
theorem State.edgeLaw_keeps {pq : List Instr} {s : State} {n : Nat} {e : Nat} {stamp : Time} {u : Time} (hs : s.Keeps pq) :
    State.Keeps pq (State.edgeLaw s n e stamp u) := by
  unfold State.edgeLaw
  refine State.Keeps.ite ?_ ?_
  · exact (State.ssiLaw_keeps hs)
  · exact (State.toothLaw_keeps hs)

/-- onLaw keeps a sound state and the queue. -/
theorem State.onLaw_keeps {pq : List Instr} {s : State} {n : Nat} (hs : s.Keeps pq) :
    State.Keeps pq (State.onLaw s n) := by
  unfold State.onLaw
  exact (State.setTr_keeps hs)

/-- atAngle keeps a sound state and the queue. -/
theorem State.atAngle_keeps {pq : List Instr} {s : State} {n : Nat} {ang : Nat} (hs : s.Keeps pq) :
    State.Keeps pq (State.atAngle s n ang) := by
  unfold State.atAngle
  exact (State.setTr_keeps hs)

/-- enterSync keeps a sound state and the queue. -/
theorem State.enterSync_keeps {pq : List Instr} {s : State} {n : Nat} {e : Nat} {stamp : Time} {u : Time} (hs : s.Keeps pq) :
    State.Keeps pq (State.enterSync s n e stamp u) := by
  unfold State.enterSync
  extract_lets s1
  have h_s1 : State.Keeps pq s1 := (State.setSt_keeps hs)
  clear_value s1
  exact (State.faultRows_keeps (State.onLaw_keeps (State.edgeLaw_keeps (State.setTr_keeps h_s1))))

/-- idxLaw keeps a sound state and the queue. -/
theorem State.idxLaw_keeps {pq : List Instr} {s : State} {n : Nat} {j : Nat} {e : Nat} {stamp : Time} {u : Time} (hs :
    s.Keeps pq) :
    State.Keeps pq (State.idxLaw s n j e stamp u) := by
  unfold State.idxLaw
  extract_lets c j1
  exact (State.setLaw_keeps hs)

/-- limpFound keeps a sound state and the queue. -/
theorem State.limpFound_keeps {pq : List Instr} {s : State} {n : Nat} {ta : Nat} {e : Nat} {stamp : Time} {u : Time} (hs :
    s.Keeps pq) :
    State.Keeps pq (State.limpFound s n ta e stamp u) := by
  unfold State.limpFound
  extract_lets t c cpr el la d s1
  have h_s1 : State.Keeps pq s1 := (State.setTr_keeps hs)
  clear_value s1
  refine State.Keeps.ite ?_ ?_
  · exact (State.faultRows_keeps (State.edgeLaw_keeps (State.setSt_keeps h_s1)))
  · exact (State.setTr_keeps (State.log_keeps hs))

/-- lrnParity keeps a sound state and the queue. -/
theorem State.lrnParity_keeps {pq : List Instr} {s : State} {n : Nat} {k : Nat} (hs : s.Keeps pq) :
    State.Keeps pq (State.lrnParity s n k) := by
  unfold State.lrnParity
  extract_lets a s1 __src
  have h_s1 : State.Keeps pq s1 := (State.setF_keeps (State.badWords_keeps hs))
  clear_value s1
  refine State.Keeps.ite ?_ ?_
  · exact (State.log_keeps (State.setTr_keeps h_s1))
  · exact hs

/-- readCorr keeps a sound state and the queue. -/
theorem State.readCorr_keeps {pq : List Instr} {s : State} {n : Nat} {ks : List Nat} (hs : s.Keeps pq) :
    State.Keeps pq (State.readCorr s n ks) := by
  unfold State.readCorr
  exact (State.Keeps.overList (fun _ _ h1 => (State.lrnParity_keeps h1)) hs)

/-- recognise keeps a sound state and the queue. -/
theorem State.recognise_keeps {pq : List Instr} {s : State} {n : Nat} {x : EdgeUpd} {e : Nat} {tp : Nat} (hs : s.Keeps pq) :
    State.Keeps pq (State.recognise s n x e tp) := by
  unfold State.recognise
  extract_lets t limp t2 cs t1 s1
  have h_s1 : State.Keeps pq s1 := (State.setTr_keeps hs)
  clear_value s1
  refine State.Keeps.ite ?_ ?_
  · exact h_s1
  · refine State.Keeps.ite ?_ ?_
    · exact (State.limpFound_keeps (State.readCorr_keeps h_s1))
    · refine State.Keeps.ite ?_ ?_
      · exact (State.enterSync_keeps (State.setTr_keeps h_s1))
      · refine State.Keeps.ite ?_ ?_
        · exact (State.enterSync_keeps h_s1)
        · exact h_s1

/-- seekEdge keeps a sound state and the queue. -/
theorem State.seekEdge_keeps {pq : List Instr} {s : State} {n : Nat} {x : EdgeUpd} (hs : s.Keeps pq) :
    State.Keeps pq (State.seekEdge s n x) := by
  unfold State.seekEdge
  extract_lets t limp s1 t1 s1_1 s2
  have h_s1 : State.Keeps pq s1 := (State.setTr_keeps hs)
  clear_value s1
  have h_s1_1 : State.Keeps pq s1_1 := (State.setTr_keeps hs)
  clear_value s1_1
  have h_s2 : State.Keeps pq s2 := (State.setTr_keeps h_s1_1)
  clear_value s2
  split
  · exact hs
  · refine State.Keeps.ite ?_ ?_
    · refine State.Keeps.ite ?_ ?_
      · split
        · exact (State.setTr_keeps hs)
      · exact (State.setTr_keeps hs)
    · refine State.Keeps.ite ?_ ?_
      · refine State.Keeps.ite ?_ ?_
        · exact h_s1
        · exact (State.setSt_keeps h_s1)
      · refine State.Keeps.ite ?_ ?_
        · exact (State.recognise_keeps (State.setTr_keeps hs))
        · refine State.Keeps.ite ?_ ?_
          · exact h_s1_1
          · refine State.Keeps.ite ?_ ?_
            · refine State.Keeps.ite ?_ ?_
              · exact (State.enterSync_keeps h_s1_1)
              · exact (State.setSt_keeps (State.setTr_keeps h_s1_1))
            · refine State.recognise_keeps ?_
              refine State.Keeps.ite ?_ ?_
              · exact h_s2
              · exact (State.setSt_keeps h_s2)

/-- learnStep keeps a sound state and the queue. -/
theorem State.learnStep_keeps {pq : List Instr} {s : State} {n : Nat} (hs : s.Keeps pq) :
    State.Keeps pq (State.learnStep s n) := by
  unfold State.learnStep
  extract_lets c rate t
  split
  · extract_lets th0 th2 th3 th4 da ta db tb d0 d1 e0 e1 dev delta v
    refine State.Keeps.ite ?_ ?_
    · exact hs
    · refine State.Keeps.ite ?_ ?_
      · exact hs
      · exact (State.setTr_keeps (State.setF_keeps hs))
  · exact hs

/-- turnBack keeps a sound state and the queue. -/
theorem State.turnBack_keeps {pq : List Instr} {s : State} {n : Nat} (hs : s.Keeps pq) :
    State.Keeps pq (State.turnBack s n) := by
  unfold State.turnBack
  extract_lets t __src
  refine State.Keeps.ite ?_ ?_
  · exact hs
  · exact (State.evReverse_keeps (State.log_keeps (State.setTr_keeps hs)))

/-- indexToothCheck keeps a sound state and the queue. -/
theorem State.indexToothCheck_keeps {pq : List Instr} {s : State} {n : Nat} (hs : s.Keeps pq) :
    State.Keeps pq (State.indexToothCheck s n) := by
  unfold State.indexToothCheck
  extract_lets t s1 __src
  have h_s1 : State.Keeps pq s1 := (State.setTr_keeps hs)
  clear_value s1
  refine State.Keeps.ite ?_ ?_
  · refine State.Keeps.ite ?_ ?_
    · exact (State.setTr_keeps h_s1)
    · exact (State.trkIdxError_keeps h_s1)
  · exact hs

/-- reverseEdge keeps a sound state and the queue. -/
theorem State.reverseEdge_keeps {pq : List Instr} {s : State} {n : Nat} {stamp : Time} (hs : s.Keeps pq) :
    State.Keeps pq (State.reverseEdge s n stamp) := by
  unfold State.reverseEdge
  extract_lets s1 t
  have h_s1 : State.Keeps pq s1 := (State.turnBack_keeps hs)
  clear_value s1
  split
  · exact (State.atAngle_keeps (State.indexToothCheck_keeps (State.setTr_keeps h_s1)))

/-- syncEdge keeps a sound state and the queue. -/
theorem State.syncEdge_keeps {pq : List Instr} {s : State} {n : Nat} {x : EdgeUpd} (hs : s.Keeps pq) :
    State.Keeps pq (State.syncEdge s n x) := by
  unfold State.syncEdge
  extract_lets t e
  split
  · extract_lets featBad featOk clean s1 s2 s3 s4 t4 s5 s6
    have h_s1 : State.Keeps pq s1 := (State.setTr_keeps hs)
    clear_value s1
    have h_s2 : State.Keeps pq s2 := by
      refine State.Keeps.ite ?_ ?_
      · exact (State.trkError_keeps h_s1)
      · exact h_s1
    clear_value s2
    have h_s3 : State.Keeps pq s3 := by
      refine State.Keeps.ite ?_ ?_
      · exact (State.trkError_keeps h_s2)
      · exact h_s2
    clear_value s3
    have h_s4 : State.Keeps pq s4 := (State.indexToothCheck_keeps h_s3)
    clear_value s4
    have h_s5 : State.Keeps pq s5 := (State.toothLaw_keeps (State.setTr_keeps h_s4))
    clear_value s5
    have h_s6 : State.Keeps pq s6 := by
      refine State.Keeps.ite ?_ ?_
      · exact (State.onLaw_keeps h_s5)
      · exact h_s5
    clear_value s6
    refine State.Keeps.ite ?_ ?_
    · exact (State.atAngle_keeps (State.setTr_keeps h_s4))
    · refine State.Keeps.ite ?_ ?_
      · exact (State.learnStep_keeps (State.readCorr_keeps h_s6))
      · exact h_s6

/-- restartStep keeps a sound state and the queue. -/
theorem State.restartStep_keeps {pq : List Instr} {s : State} {n : Nat} {x : EdgeUpd} {ang : Nat} {new : TState} {law :
    State → State} (hs : s.Keeps pq) (h_law : ∀ x0, State.Keeps pq x0 → State.Keeps pq (law x0)) :
    State.Keeps pq (State.restartStep s n x ang new law) := by
  unfold State.restartStep
  extract_lets t fast periods s1 __src s2
  have h_s1 : State.Keeps pq s1 := (State.atAngle_keeps (State.setTr_keeps hs))
  clear_value s1
  have h_s2 : State.Keeps pq s2 := (State.setSt_keeps (State.setTr_keeps h_s1))
  clear_value s2
  refine State.Keeps.ite ?_ ?_
  · exact h_s1
  · refine State.Keeps.ite ?_ ?_
    · exact (State.faultRows_keeps (State.onLaw_keeps (h_law _ h_s2)))
    · exact (State.faultRows_keeps (State.turnBack_keeps h_s2))

/-- stoppedEdge keeps a sound state and the queue. -/
theorem State.stoppedEdge_keeps {pq : List Instr} {s : State} {n : Nat} {x : EdgeUpd} {idx : Bool} (hs : s.Keeps pq) :
    State.Keeps pq (State.stoppedEdge s n x idx) := by
  unfold State.stoppedEdge
  extract_lets t s1 t1 j
  have h_s1 : State.Keeps pq s1 := (State.restartTrk_keeps hs)
  clear_value s1
  refine State.Keeps.ite ?_ ?_
  · exact (State.setTr_keeps h_s1)
  · refine State.Keeps.ite ?_ ?_
    · exact (State.restartStep_keeps (State.setTr_keeps hs) (fun _ h2 => (State.idxLaw_keeps h2)))
    · split
      · exact (State.restartStep_keeps (State.setTr_keeps hs) (fun _ h2 => (State.toothLaw_keeps (State.setTr_keeps h2))))

/-- idxVerdict keeps a sound state and the queue. -/
theorem State.idxVerdict_keeps {pq : List Instr} {s : State} {n : Nat} {x : IdxCheck} {mk : Option Nat} (hs : s.Keeps pq) :
    State.Keeps pq (State.idxVerdict s n x mk) := by
  unfold State.idxVerdict
  extract_lets t s0 t0 c cpr thk
  have h_s0 : State.Keeps pq s0 := (State.setTr_keeps hs)
  clear_value s0
  refine State.Keeps.ite ?_ ?_
  · split
    · exact (State.setTr_keeps h_s0)
    · exact (State.trkIdxError_keeps h_s0)
  · refine State.Keeps.ite ?_ ?_
    · split
      · extract_lets cyc at_ __src
        exact (State.enterSync_keeps (State.setTr_keeps h_s0))
      · exact h_s0
    · exact h_s0

/-- idxJudge75 keeps a sound state and the queue. -/
theorem State.idxJudge75_keeps {pq : List Instr} {s : State} {n : Nat} {x : EdgeUpd} {sync : Bool} (hs : s.Keeps pq) :
    State.Keeps pq (State.idxJudge75 s n x sync) := by
  unfold State.idxJudge75
  extract_lets a m chk __src
  refine State.Keeps.ite ?_ ?_
  · split
    · exact (State.idxVerdict_keeps hs)
    · exact (State.setTr_keeps hs)
  · exact (State.idxVerdict_keeps hs)

/-- idxRecognise keeps a sound state and the queue. -/
theorem State.idxRecognise_keeps {pq : List Instr} {s : State} {n : Nat} {x : EdgeUpd} (hs : s.Keeps pq) :
    State.Keeps pq (State.idxRecognise s n x) := by
  unfold State.idxRecognise
  extract_lets t p nn stepped
  split
  · exact hs
  · extract_lets cs got recog j t1 s1 s2
    have h_s1 : State.Keeps pq s1 := (State.setTr_keeps hs)
    clear_value s1
    have h_s2 : State.Keeps pq s2 := (State.setSt_keeps (State.log_keeps (State.setTr_keeps h_s1)))
    clear_value s2
    refine State.Keeps.ite ?_ ?_
    · exact (State.setTr_keeps hs)
    · refine State.Keeps.ite ?_ ?_
      · exact (State.setTr_keeps hs)
      · refine State.Keeps.ite ?_ ?_
        · exact (State.faultRows_keeps (State.onLaw_keeps (State.idxLaw_keeps h_s2)))
        · exact h_s1

/-- limpMark keeps a sound state and the queue. -/
theorem State.limpMark_keeps {pq : List Instr} {s : State} {n : Nat} {j : Nat} {mk : Nat} (hs : s.Keeps pq) :
    State.Keeps pq (State.limpMark s n j mk) := by
  unfold State.limpMark
  extract_lets __src s1 __src_1
  have h_s1 : State.Keeps pq s1 := (State.setTr_keeps hs)
  clear_value s1
  refine State.Keeps.ite ?_ ?_
  · exact (State.setTr_keeps h_s1)
  · exact (State.trkIdxError_keeps h_s1)

/-- limpBack keeps a sound state and the queue. -/
theorem State.limpBack_keeps {pq : List Instr} {s : State} {n : Nat} {x : EdgeUpd} (hs : s.Keeps pq) :
    State.Keeps pq (State.limpBack s n x) := by
  unfold State.limpBack
  extract_lets j __src
  exact (State.atAngle_keeps (State.setTr_keeps hs))

/-- limpIndex keeps a sound state and the queue. -/
theorem State.limpIndex_keeps {pq : List Instr} {s : State} {n : Nat} {x : EdgeUpd} (hs : s.Keeps pq) :
    State.Keeps pq (State.limpIndex s n x) := by
  unfold State.limpIndex
  extract_lets __src s0 t j judge t1 s1 s2 s3
  have h_s0 : State.Keeps pq s0 := by
    refine State.Keeps.ite ?_ ?_
    · exact (State.trkIdxError_keeps (State.setTr_keeps hs))
    · exact hs
  clear_value s0
  have h_s1 : State.Keeps pq s1 := (State.setTr_keeps h_s0)
  clear_value s1
  have h_s2 : State.Keeps pq s2 := by
    refine State.Keeps.ite ?_ ?_
    · exact (State.trkIdxError_keeps h_s1)
    · exact h_s1
  clear_value s2
  have h_s3 : State.Keeps pq s3 := by
    unfold s3
    clear_value judge
    split
    · exact (State.limpMark_keeps h_s2)
    · exact h_s2
  clear_value s3
  refine State.Keeps.ite ?_ ?_
  · exact (State.limpBack_keeps h_s0)
  · split
    · extract_lets s4 __src_1
      have h_s4 : State.Keeps pq s4 := (State.idxLaw_keeps h_s3)
      clear_value s4
      refine State.Keeps.ite ?_ ?_
      · exact (State.onLaw_keeps (State.setTr_keeps h_s4))
      · exact h_s4
    · refine State.Keeps.ite ?_ ?_
      · exact h_s3
      · exact (State.atAngle_keeps h_s3)

/-- quadCheck keeps a sound state and the queue. -/
theorem State.quadCheck_keeps {pq : List Instr} {s : State} {n : Nat} {quad : Nat} (hs : s.Keeps pq) :
    State.Keeps pq (State.quadCheck s n quad) := by
  unfold State.quadCheck
  extract_lets t s1
  have h_s1 : State.Keeps pq s1 := (State.setTr_keeps hs)
  clear_value s1
  refine State.Keeps.ite ?_ ?_
  · exact hs
  · refine State.Keeps.ite ?_ ?_
    · exact (State.setTr_keeps hs)
    · refine State.Keeps.ite ?_ ?_
      · exact (State.log_keeps h_s1)
      · exact h_s1

/-- applyIndex keeps a sound state and the queue. -/
theorem State.applyIndex_keeps {pq : List Instr} {s : State} {n : Nat} {x : EdgeUpd} (hs : s.Keeps pq) :
    State.Keeps pq (State.applyIndex s n x) := by
  unfold State.applyIndex
  extract_lets s0 t s1 __src s1_1 t1
  have h_s0 : State.Keeps pq s0 := by
    refine State.quadCheck_keeps ?_
    split
    · exact (State.idxVerdict_keeps hs)
    · exact hs
  clear_value s0
  have h_s1 : State.Keeps pq s1 := by
    refine State.Keeps.ite ?_ ?_
    · exact (State.trkIdxError_keeps h_s0)
    · exact h_s0
  clear_value s1
  have h_s1_1 : State.Keeps pq s1_1 := by
    refine State.Keeps.ite ?_ ?_
    · exact (State.setTr_keeps h_s0)
    · refine State.Keeps.ite ?_ ?_
      · exact (State.idxJudge75_keeps h_s0)
      · exact h_s0
  clear_value s1_1
  split
  · refine State.Keeps.ite ?_ ?_
    · exact (State.loseSync_keeps h_s0)
    · refine State.Keeps.ite ?_ ?_
      · exact h_s0
      · refine State.Keeps.ite ?_ ?_
        · exact (State.setTr_keeps h_s1)
        · exact (State.idxJudge75_keeps h_s0)
  · refine State.Keeps.ite ?_ ?_
    · exact h_s0
    · refine State.Keeps.ite ?_ ?_
      · exact (State.idxRecognise_keeps h_s1_1)
      · exact h_s1_1
  · refine State.Keeps.ite ?_ ?_
    · exact h_s0
    · refine State.Keeps.ite ?_ ?_
      · exact (State.idxRecognise_keeps h_s1_1)
      · exact h_s1_1
  · exact (State.limpIndex_keeps h_s0)
  · refine State.Keeps.ite ?_ ?_
    · exact (State.stoppedEdge_keeps h_s0)
    · exact h_s0
  · exact h_s0

/-- ssiSync keeps a sound state and the queue. -/
theorem State.ssiSync_keeps {pq : List Instr} {s : State} {n : Nat} {x : EdgeUpd} {back : Bool} {cyc : Nat} (hs : s.Keeps pq) :
    State.Keeps pq (State.ssiSync s n x back cyc) := by
  unfold State.ssiSync
  extract_lets t s1
  have h_s1 : State.Keeps pq s1 := (State.ssiLaw_keeps (State.setTr_keeps hs))
  clear_value s1
  refine State.Keeps.ite ?_ ?_
  · exact (State.atAngle_keeps (State.turnBack_keeps hs))
  · refine State.Keeps.ite ?_ ?_
    · exact (State.atAngle_keeps (State.setTr_keeps hs))
    · refine State.Keeps.ite ?_ ?_
      · exact (State.onLaw_keeps h_s1)
      · exact h_s1

/-- ssiSeek keeps a sound state and the queue. -/
theorem State.ssiSeek_keeps {pq : List Instr} {s : State} {n : Nat} {x : EdgeUpd} (hs : s.Keeps pq) :
    State.Keeps pq (State.ssiSeek s n x) := by
  unfold State.ssiSeek
  extract_lets t s1 t1 s1_1
  have h_s1 : State.Keeps pq s1 := (State.setTr_keeps hs)
  clear_value s1
  have h_s1_1 : State.Keeps pq s1_1 := (State.setTr_keeps hs)
  clear_value s1_1
  split
  · exact hs
  · refine State.Keeps.ite ?_ ?_
    · refine State.Keeps.ite ?_ ?_
      · exact h_s1
      · exact (State.setSt_keeps h_s1)
    · refine State.Keeps.ite ?_ ?_
      · exact h_s1_1
      · refine State.Keeps.ite ?_ ?_
        · exact (State.limpFound_keeps h_s1_1)
        · refine State.Keeps.ite ?_ ?_
          · exact h_s1_1
          · refine State.Keeps.ite ?_ ?_
            · exact (State.enterSync_keeps h_s1_1)
            · exact (State.setSt_keeps (State.setTr_keeps h_s1_1))

/-- applySsi keeps a sound state and the queue. -/
theorem State.applySsi_keeps {pq : List Instr} {s : State} {n : Nat} {x : EdgeUpd} (hs : s.Keeps pq) :
    State.Keeps pq (State.applySsi s n x) := by
  unfold State.applySsi
  extract_lets t cpr half rev cyc back s1 s2 s3 __src
  have h_s1 : State.Keeps pq s1 := (State.setTr_keeps hs)
  clear_value s1
  have h_s2 : State.Keeps pq s2 := (State.turnBack_keeps h_s1)
  clear_value s2
  have h_s3 : State.Keeps pq s3 := by
    refine State.Keeps.ite ?_ ?_
    · exact h_s2
    · exact (State.atAngle_keeps h_s2)
  clear_value s3
  split
  · exact (State.ssiSync_keeps h_s1)
  · refine State.Keeps.ite ?_ ?_
    · exact (State.setTr_keeps h_s3)
    · exact (State.ssiSeek_keeps (State.setTr_keeps h_s1))
  · exact (State.ssiSeek_keeps h_s1)
  · exact (State.ssiSeek_keeps h_s1)
  · refine State.Keeps.ite ?_ ?_
    · exact h_s1
    · refine State.Keeps.ite ?_ ?_
      · exact (State.restartTrk_keeps hs)
      · exact (State.restartStep_keeps h_s1 (fun _ h4 => (State.ssiLaw_keeps (State.setTr_keeps h4))))
  · exact h_s1

/-- limpReverse keeps a sound state and the queue. -/
theorem State.limpReverse_keeps {pq : List Instr} {s : State} {n : Nat} {x : EdgeUpd} (hs : s.Keeps pq) :
    State.Keeps pq (State.limpReverse s n x) := by
  unfold State.limpReverse
  extract_lets s1
  have h_s1 : State.Keeps pq s1 := (State.seekEdge_keeps hs)
  clear_value s1
  refine State.Keeps.ite ?_ ?_
  · exact h_s1
  · exact (State.atAngle_keeps (State.turnBack_keeps h_s1))

/-- applyTooth keeps a sound state and the queue. -/
theorem State.applyTooth_keeps {pq : List Instr} {s : State} {n : Nat} {x : EdgeUpd} (hs : s.Keeps pq) :
    State.Keeps pq (State.applyTooth s n x) := by
  unfold State.applyTooth
  extract_lets t here
  split
  · refine State.Keeps.ite ?_ ?_
    · exact (State.syncEdge_keeps hs)
    · exact (State.reverseEdge_keeps hs)
  · exact (State.seekEdge_keeps (State.setTr_keeps hs))
  · exact (State.seekEdge_keeps (State.setTr_keeps hs))
  · refine State.Keeps.ite ?_ ?_
    · exact (State.limpReverse_keeps (State.setTr_keeps hs))
    · exact (State.seekEdge_keeps (State.setTr_keeps hs))
  · refine State.Keeps.ite ?_ ?_
    · exact hs
    · exact (State.stoppedEdge_keeps hs)
  · exact hs

/-- spoilLearn keeps a sound state and the queue. -/
theorem State.spoilLearn_keeps {pq : List Instr} {s : State} {n : Nat} {bad : List Nat} (hs : s.Keeps pq) :
    State.Keeps pq (State.spoilLearn s n bad) := by
  unfold State.spoilLearn
  exact (State.badWords_keeps hs)

/-- leadDone keeps a sound state and the queue. -/
theorem State.leadDone_keeps {pq : List Instr} {s : State} {s0 : State} {n : Nat} (hs : s.Keeps pq) :
    State.Keeps pq (State.leadDone s s0 n) := by
  unfold State.leadDone
  extract_lets t k
  exact (State.setTr_keeps hs)

/-- applyEdge keeps a sound state and the queue. -/
theorem State.applyEdge_keeps {pq : List Instr} {s : State} {n : Nat} {x : EdgeUpd} (hs : s.Keeps pq) :
    State.Keeps pq (State.applyEdge s n x) := by
  unfold State.applyEdge
  split
  · exact (State.applyTooth_keeps hs)
  · exact (State.applyIndex_keeps hs)
  · exact (State.applySsi_keeps hs)

/-- lawUpdate keeps a sound state and the queue. -/
theorem State.lawUpdate_keeps {pq : List Instr} {s : State} {n : Nat} (hs : s.Keeps pq) :
    State.Keeps pq (State.lawUpdate s n) := by
  unfold State.lawUpdate
  extract_lets __src
  split
  · exact hs
  · extract_lets s1 lead s2 s3 s4
    have h_s1 : State.Keeps pq s1 := (State.setTr_keeps hs)
    clear_value s1
    have h_s2 : State.Keeps pq s2 := by
      refine State.Keeps.ite ?_ ?_
      · exact (State.setUndo_keeps h_s1)
      · exact h_s1
    clear_value s2
    have h_s3 : State.Keeps pq s3 := (State.applyEdge_keeps h_s2)
    clear_value s3
    have h_s4 : State.Keeps pq s4 := by
      refine State.Keeps.ite ?_ ?_
      · exact (State.leadDone_keeps h_s3)
      · exact h_s3
    clear_value s4
    refine State.Keeps.ite ?_ ?_
    · refine State.Keeps.ite ?_ ?_
      · exact (State.setSt_keeps (State.log_keeps h_s2))
      · exact (State.readCorr_keeps h_s4)
    · exact hs

/-- acceptTooth keeps a sound state and the queue. -/
theorem State.acceptTooth_keeps {pq : List Instr} {s : State} {n : Nat} {stamp : Time} {fwdEdge : Bool} (hs : s.Keeps pq) :
    State.Keeps pq (State.acceptTooth s n stamp fwdEdge) := by
  unfold State.acceptTooth
  extract_lets t e x
  refine State.Keeps.ite ?_ ?_
  · exact (State.bump_keeps hs)
  · exact (State.setTr_keeps hs)

/-- takePeak keeps a sound state and the queue. -/
theorem State.takePeak_keeps {pq : List Instr} {s : State} {k : Nat} {peak : Nat} (hs : s.Keeps pq) :
    State.Keeps pq (State.takePeak s k peak) := by
  unfold State.takePeak
  extract_lets __src
  refine State.Keeps.ite ?_ ?_
  · exact (State.setSn_keeps (State.setF_keeps hs))
  · exact hs

/-- pairRise keeps a sound state and the queue. -/
theorem State.pairRise_keeps {pq : List Instr} {s : State} {k : Nat} {c : LogCode} (hs : s.Keeps pq) :
    State.Keeps pq (State.pairRise s k c) := by
  unfold State.pairRise
  extract_lets s1
  have h_s1 : State.Keeps pq s1 := (State.log_keeps (State.pulse_keeps (State.setB_keeps hs)))
  clear_value s1
  exact (State.Keeps.overList (fun _ _ h2 => (State.faultRows_keeps h2)) h_s1)

/-- turnLevels keeps a sound state and the queue. -/
theorem State.turnLevels_keeps {pq : List Instr} {s : State} {k : Nat} (hs : s.Keeps pq) :
    State.Keeps pq (State.turnLevels s k) := by
  unfold State.turnLevels
  exact (State.Keeps.overList (fun _ _ h1 => by
        extract_lets t
        exact (State.setTr_keeps h1)) hs)

/-- dutyCheck keeps a sound state and the queue. -/
theorem State.dutyCheck_keeps {pq : List Instr} {s : State} {k : Nat} {mark : Nat} {per : Nat} (hs : s.Keeps pq) :
    State.Keeps pq (State.dutyCheck s k mark per) := by
  unfold State.dutyCheck
  extract_lets x ed tol off mir good bad x1 s1 s2 s3
  have h_s1 : State.Keeps pq s1 := (State.setSn_keeps hs)
  clear_value s1
  have h_s2 : State.Keeps pq s2 := (State.pairRise_keeps (State.setB_keeps h_s1))
  clear_value s2
  have h_s3 : State.Keeps pq s3 := by
    refine State.setB_keeps ?_
    refine State.setB_keeps ?_
    refine State.Keeps.ite ?_ ?_
    · exact h_s2
    · exact (State.turnLevels_keeps h_s2)
  clear_value s3
  refine State.Keeps.ite ?_ ?_
  · exact hs
  · refine State.Keeps.ite ?_ ?_
    · refine State.Keeps.ite ?_ ?_
      · exact (State.Keeps.overList (fun _ _ h4 => by
        refine State.Keeps.ite ?_ ?_
        · exact (State.restartTrk_keeps h4)
        · exact h4) h_s3)
      · exact h_s2
    · refine State.Keeps.ite ?_ ?_
      · exact (State.setB_keeps h_s1)
      · exact h_s1

/-- pairMark keeps a sound state and the queue. -/
theorem State.pairMark_keeps {pq : List Instr} {s : State} {k : Nat} {n : Nat} {idx : Bool} {stamp : Time} (hs : s.Keeps pq) :
    State.Keeps pq (State.pairMark s k n idx stamp) := by
  unfold State.pairMark
  extract_lets x
  refine State.Keeps.ite ?_ ?_
  · exact (State.setSn_keeps hs)
  · exact hs

/-- pairTooth keeps a sound state and the queue. -/
theorem State.pairTooth_keeps {pq : List Instr} {s : State} {k : Nat} {n : Nat} {idx : Bool} {stamp : Time} {up : Bool} (hs
    : s.Keeps pq) :
    State.Keeps pq (State.pairTooth s k n idx stamp up) := by
  unfold State.pairTooth
  extract_lets x per s1
  have h_s1 : State.Keeps pq s1 := (State.setSn_keeps hs)
  clear_value s1
  refine State.Keeps.ite ?_ ?_
  · exact hs
  · split
    · exact (State.dutyCheck_keeps h_s1)
    · exact h_s1

/-- toothCross keeps a sound state and the queue. -/
theorem State.toothCross_keeps {pq : List Instr} {s : State} {n : Nat} {onB : Bool} {lvl : Bool} {active : Bool} {t :
    Tracker} {stamp : Time} (hs : s.Keeps pq) :
    State.Keeps pq (State.toothCross s n onB lvl active t stamp) := by
  unfold State.toothCross
  extract_lets __src
  split
  · extract_lets s1 __src_1
    have h_s1 : State.Keeps pq s1 := (State.acceptTooth_keeps hs)
    clear_value s1
    refine State.Keeps.ite ?_ ?_
    · exact (State.setTr_keeps (State.setUndo_keeps h_s1))
    · exact h_s1
  · refine State.Keeps.ite ?_ ?_
    · exact (State.setTr_keeps hs)
    · exact hs

/-- toothEdge keeps a sound state and the queue. -/
theorem State.toothEdge_keeps {pq : List Instr} {s : State} {n : Nat} {onB : Bool} {x : Crossing} (hs : s.Keeps pq) :
    State.Keeps pq (State.toothEdge s n onB x) := by
  unfold State.toothEdge
  extract_lets src g lvl active stamp t s1 s2 s3 noise
  have h_s1 : State.Keeps pq s1 := (State.setTr_keeps (State.srcSet_keeps hs))
  clear_value s1
  have h_s2 : State.Keeps pq s2 := by
    refine State.Keeps.ite ?_ ?_
    · exact (State.takePeak_keeps h_s1)
    · exact (State.pairMark_keeps h_s1)
  clear_value s2
  have h_s3 : State.Keeps pq s3 := (State.toothCross_keeps h_s2)
  clear_value s3
  refine State.Keeps.ite ?_ ?_
  · exact hs
  · refine State.Keeps.ite ?_ ?_
    · exact h_s1
    · refine State.Keeps.ite ?_ ?_
      · exact (State.pairTooth_keeps h_s3)
      · exact h_s3

/-- acceptIndex keeps a sound state and the queue. -/
theorem State.acceptIndex_keeps {pq : List Instr} {s : State} {n : Nat} {stamp : Time} {g : Nat} (hs : s.Keeps pq) :
    State.Keeps pq (State.acceptIndex s n stamp g) := by
  unfold State.acceptIndex
  extract_lets t e windowed reject s0 x t1
  have h_s0 : State.Keeps pq s0 := by
    refine State.Keeps.ite ?_ ?_
    · exact (State.bump_keeps hs)
    · exact hs
  clear_value s0
  refine State.Keeps.ite ?_ ?_
  · exact (State.bump_keeps hs)
  · exact (State.setTr_keeps h_s0)

/-- indexEdge keeps a sound state and the queue. -/
theorem State.indexEdge_keeps {pq : List Instr} {s : State} {n : Nat} {x : Crossing} (hs : s.Keeps pq) :
    State.Keeps pq (State.indexEdge s n x) := by
  unfold State.indexEdge
  extract_lets src g lvl stamp s1 s2
  have h_s1 : State.Keeps pq s1 := (State.takePeak_keeps (State.srcSet_keeps hs))
  clear_value s1
  have h_s2 : State.Keeps pq s2 := by
    refine State.Keeps.ite ?_ ?_
    · exact h_s1
    · exact (State.acceptIndex_keeps h_s1)
  clear_value s2
  refine State.Keeps.ite ?_ ?_
  · exact hs
  · refine State.Keeps.ite ?_ ?_
    · exact (State.srcSet_keeps hs)
    · refine State.Keeps.ite ?_ ?_
      · exact h_s2
      · exact (State.pairTooth_keeps h_s2)

/-- indexTrailing keeps a sound state and the queue. -/
theorem State.indexTrailing_keeps {pq : List Instr} {s : State} {n : Nat} {x : Crossing} (hs : s.Keeps pq) :
    State.Keeps pq (State.indexTrailing s n x) := by
  unfold State.indexTrailing
  extract_lets src g t stamp s0 mk s1
  have h_s0 : State.Keeps pq s0 := (State.pairMark_keeps (State.srcSet_keeps hs))
  clear_value s0
  have h_s1 : State.Keeps pq s1 := (State.setTr_keeps h_s0)
  clear_value s1
  refine State.Keeps.ite ?_ ?_
  · exact hs
  · refine State.Keeps.ite ?_ ?_
    · exact (State.srcSet_keeps hs)
    · refine State.Keeps.ite ?_ ?_
      · exact h_s0
      · split
        · extract_lets s2
          have h_s2 : State.Keeps pq s2 := (State.idxVerdict_keeps h_s1)
          clear_value s2
          exact (State.readCorr_keeps h_s2)
        · refine State.Keeps.ite ?_ ?_
          · exact (State.limpMark_keeps h_s1)
          · exact h_s1

/-- gearStep keeps a sound state and the queue. -/
theorem State.gearStep_keeps {pq : List Instr} {s : State} {n : Nat} (hs : s.Keeps pq) :
    State.Keeps pq (State.gearStep s n).2 := by
  unfold State.gearStep
  extract_lets t src ms m num den x ds g st t1 d24
  split
  · split
    rename_i _ t1 e1
    have k1 : State.Keeps pq t1 := State.Keeps.snd e1 (State.draw_keeps hs)
    exact k1
  · exact hs

/-- gearTick keeps a sound state and the queue. -/
theorem State.gearTick_keeps {pq : List Instr} {s : State} {n : Nat} (hs : s.Keeps pq) :
    State.Keeps pq (State.gearTick s n) := by
  unfold State.gearTick
  extract_lets src m s0 __src t __src_1
  have h_s0 : State.Keeps pq s0 := (State.setSt_keeps hs)
  clear_value s0
  refine State.Keeps.ite ?_ ?_
  · split
    rename_i _ t2 e2
    have k2 : State.Keeps pq t2 := State.Keeps.snd e2 (State.gearStep_keeps (State.setTr_keeps h_s0))
    extract_lets s2
    have h_s2 : State.Keeps pq s2 := (State.setTr_keeps k2)
    clear_value s2
    refine State.Keeps.ite ?_ ?_
    · exact (State.evReverse_keeps (State.log_keeps h_s2))
    · exact h_s2
  · exact (State.setTr_keeps h_s0)

/-- evTick keeps a sound state and the queue. -/
theorem State.evTick_keeps {pq : List Instr} {s : State} {n : Nat} {aOld : Nat} (hs : s.Keeps pq) :
    State.Keeps pq (State.evTick s n aOld) := by
  unfold State.evTick
  extract_lets t e m c adv rearm cross aRevRaw pastRev e1
  exact (State.setTe_keeps hs)

/-- tickTracker keeps a sound state and the queue. -/
theorem State.tickTracker_keeps {pq : List Instr} {s : State} {n : Nat} (hs : s.Keeps pq) :
    State.Keeps pq (State.tickTracker s n) := by
  unfold State.tickTracker
  extract_lets t g t0 s1 s2 s3 __src
  have h_s1 : State.Keeps pq s1 := (State.setTr_keeps hs)
  clear_value s1
  have h_s2 : State.Keeps pq s2 := by
    refine State.Keeps.ite ?_ ?_
    · exact (State.setTr_keeps h_s1)
    · refine State.Keeps.ite ?_ ?_
      · exact (State.gearTick_keeps h_s1)
      · refine State.Keeps.ite ?_ ?_
        · exact (State.setTr_keeps h_s1)
        · exact (State.setTr_keeps h_s1)
  clear_value s2
  have h_s3 : State.Keeps pq s3 := (State.evTick_keeps h_s2)
  clear_value s3
  exact (State.setTr_keeps h_s3)

/-- stopExpiry keeps a sound state and the queue. -/
theorem State.stopExpiry_keeps {pq : List Instr} {s : State} {n : Nat} (hs : s.Keeps pq) :
    State.Keeps pq (State.stopExpiry s n) := by
  unfold State.stopExpiry
  extract_lets t
  refine State.Keeps.ite ?_ ?_
  · exact hs
  · refine State.Keeps.ite ?_ ?_
    · exact (State.setSt_keeps (State.setTr_keeps hs))
    · refine State.Keeps.ite ?_ ?_
      · exact (State.setSt_keeps (State.setTr_keeps hs))
      · exact hs

/-- errMaxRow keeps a sound state and the queue. -/
theorem State.errMaxRow_keeps {pq : List Instr} {s : State} {n : Nat} (hs : s.Keeps pq) :
    State.Keeps pq (State.errMaxRow s n) := by
  unfold State.errMaxRow
  refine State.Keeps.ite ?_ ?_
  · exact (State.loseSync_keeps hs)
  · exact hs

/-- idxErrMaxRow keeps a sound state and the queue. -/
theorem State.idxErrMaxRow_keeps {pq : List Instr} {s : State} {n : Nat} (hs : s.Keeps pq) :
    State.Keeps pq (State.idxErrMaxRow s n) := by
  unfold State.idxErrMaxRow
  extract_lets t
  refine State.Keeps.ite ?_ ?_
  · exact hs
  · refine State.Keeps.ite ?_ ?_
    · exact (State.log_keeps (State.setTr_keeps hs))
    · refine State.Keeps.ite ?_ ?_
      · exact (State.loseLimp_keeps hs)
      · exact hs

/-- seekRow keeps a sound state and the queue. -/
theorem State.seekRow_keeps {pq : List Instr} {s : State} {n : Nat} (hs : s.Keeps pq) :
    State.Keeps pq (State.seekRow s n) := by
  unfold State.seekRow
  extract_lets t
  refine State.Keeps.ite ?_ ?_
  · exact (State.setSt_keeps (State.log_keeps hs))
  · exact hs

/-- tetherRow keeps a sound state and the queue. -/
theorem State.tetherRow_keeps {pq : List Instr} {s : State} {n : Nat} (hs : s.Keeps pq) :
    State.Keeps pq (State.tetherRow s n) := by
  unfold State.tetherRow
  extract_lets t
  refine State.Keeps.ite ?_ ?_
  · exact (State.setSt_keeps (State.log_keeps hs))
  · exact hs

/-- vrHalve keeps a sound state and the queue. -/
theorem State.vrHalve_keeps {pq : List Instr} {s : State} {k : Nat} (hs : s.Keeps pq) :
    State.Keeps pq (State.vrHalve s k) := by
  unfold State.vrHalve
  extract_lets x due
  refine State.Keeps.ite ?_ ?_
  · exact (State.setSn_keeps hs)
  · exact hs

/-- flagBy keeps a sound state and the queue. -/
theorem State.flagBy_keeps {pq : List Instr} {s : State} {x : Fld} {k : Nat} {c : LogCode} {on : Nat} {off : Nat} (hs :
    s.Keeps pq) :
    State.Keeps pq (State.flagBy s x k c on off) := by
  unfold State.flagBy
  refine State.Keeps.ite ?_ ?_
  · exact (State.pairRise_keeps (State.setB_keeps hs))
  · refine State.Keeps.ite ?_ ?_
    · exact (State.setB_keeps hs)
    · exact hs

/-- snsSample keeps a sound state and the queue. -/
theorem State.snsSample_keeps {pq : List Instr} {s : State} {k : Nat} {p : Int} {n : Int} (hs : s.Keeps pq) :
    State.Keeps pq (State.snsSample s k p n) := by
  unfold State.snsSample
  extract_lets c x
  refine State.Keeps.ite ?_ ?_
  · exact hs
  · split
    · split
      · split
        · extract_lets s1 s2 s3
          have h_s1 : State.Keeps pq s1 := (State.setSn_keeps hs)
          clear_value s1
          have h_s2 : State.Keeps pq s2 := (State.flagBy_keeps h_s1)
          clear_value s2
          have h_s3 : State.Keeps pq s3 := (State.flagBy_keeps h_s2)
          clear_value s3
          exact (State.flagBy_keeps h_s3)

/-- unlearnLead keeps a sound state and the queue. -/
theorem State.unlearnLead_keeps {pq : List Instr} {s : State} {n : Nat} {old : Tracker} (hs : s.Keeps pq) :
    State.Keeps pq (State.unlearnLead s n old) := by
  unfold State.unlearnLead
  extract_lets __src
  split
  · refine State.Keeps.ite ?_ ?_
    · exact (State.setTr_keeps (State.setF_keeps hs))
    · exact hs
  · exact hs

/-- undoLead keeps a sound state and the queue. -/
theorem State.undoLead_keeps {pq : List Instr} {s : State} {n : Nat} {old : Tracker} {ran : Tracker} (hs : s.Keeps pq) :
    State.Keeps pq (State.undoLead s n old ran) := by
  unfold State.undoLead
  extract_lets s0 t waits t1 t2 t3
  have h_s0 : State.Keeps pq s0 := (State.unlearnLead_keeps hs)
  clear_value s0
  refine State.Keeps.ite ?_ ?_
  · exact (State.setTr_keeps hs)
  · exact (State.setSt_keeps (State.setTr_keeps h_s0))

/-- retake keeps a sound state and the queue. -/
theorem State.retake_keeps {pq : List Instr} {s : State} {n : Nat} {stamp : Time} {fwd : Bool} (hs : s.Keeps pq) :
    State.Keeps pq (State.retake s n stamp fwd) := by
  unfold State.retake
  extract_lets s1 __src
  have h_s1 : State.Keeps pq s1 := (State.acceptTooth_keeps hs)
  clear_value s1
  split
  · extract_lets s2
    have h_s2 : State.Keeps pq s2 := (State.applyTooth_keeps (State.setTr_keeps h_s1))
    clear_value s2
    refine State.Keeps.ite ?_ ?_
    · exact (State.readCorr_keeps h_s2)
    · exact h_s1
  · exact h_s1

/-- indexAgain keeps a sound state and the queue. -/
theorem State.indexAgain_keeps {pq : List Instr} {s : State} {n : Nat} (hs : s.Keeps pq) :
    State.Keeps pq (State.indexAgain s n) := by
  unfold State.indexAgain
  extract_lets t s1 __src
  have h_s1 : State.Keeps pq s1 := by
    refine State.Keeps.ite ?_ ?_
    · exact (State.trkIdxError_keeps hs)
    · exact hs
  clear_value s1
  exact (State.setTr_keeps h_s1)

/-- pulseClass keeps a sound state and the queue. -/
theorem State.pulseClass_keeps {pq : List Instr} {s : State} {n : Nat} {old : Tracker} {stamp : Time} {at_ : Time} (hs :
    s.Keeps pq) :
    State.Keeps pq (State.pulseClass s n old stamp at_) := by
  unfold State.pulseClass
  extract_lets t w rev tooth done ran mine s1 __src s2 s2_1
  have h_done : State.Keeps pq done := (State.setTr_keeps hs)
  clear_value done
  have h_s1 : State.Keeps pq s1 := by
    refine State.Keeps.ite ?_ ?_
    · exact (State.undoLead_keeps hs)
    · exact h_done
  clear_value s1
  have h_s2 : State.Keeps pq s2 := (State.setTr_keeps h_s1)
  clear_value s2
  have h_s2_1 : State.Keeps pq s2_1 := by
    refine State.Keeps.ite ?_ ?_
    · exact (State.bump_keeps h_s1)
    · refine State.Keeps.ite ?_ ?_
      · exact (State.retake_keeps h_s2)
      · exact h_s2
  clear_value s2_1
  refine State.Keeps.ite ?_ ?_
  · exact h_done
  · refine State.Keeps.ite ?_ ?_
    · exact (State.indexAgain_keeps h_s2_1)
    · exact h_s2_1

/-- pulseTrailing keeps a sound state and the queue. -/
theorem State.pulseTrailing_keeps {pq : List Instr} {s : State} {n : Nat} {x : Crossing} (hs : s.Keeps pq) :
    State.Keeps pq (State.pulseTrailing s n x) := by
  unfold State.pulseTrailing
  extract_lets src g at_ s1 __src s1_1 s2
  have h_s1 : State.Keeps pq s1 := (State.srcSet_keeps hs)
  clear_value s1
  have h_s1_1 : State.Keeps pq s1_1 := (State.setTr_keeps h_s1)
  clear_value s1_1
  have h_s2 : State.Keeps pq s2 := (State.pairMark_keeps (State.setUndo_keeps h_s1_1))
  clear_value s2
  refine State.Keeps.ite ?_ ?_
  · exact hs
  · refine State.Keeps.ite ?_ ?_
    · exact h_s1_1
    · split
      · exact h_s2
      · exact (State.pulseClass_keeps h_s2)

end Sys2Proof.Machine
end

