-- ==== Sys2Proof/Laws/Keep/TrackerRegs.lean ====
section
/-! SUPPORT. Every operation of Machine/TrackerRegs.lean keeps a sound state and the queue of waiting commands. -/

namespace Sys2Proof.Machine

open Sys2Proof

/-- clearLearn keeps a sound state and the queue. -/
theorem State.clearLearn_keeps {q : List Instr} {s : State} {n : Nat} {kept : List Nat} (h : s.Keeps q) :
    State.Keeps q (State.clearLearn s n kept) :=
  State.setTr_keeps (State.regs_filter_keeps h)

/-- learnCommit keeps a sound state and the queue. -/
theorem State.learnCommit_keeps {pq : List Instr} {s : State} {n : Nat} {clear : Bool} {lrn : List Nat} (hs : s.Keeps pq) :
    State.Keeps pq (State.learnCommit s n clear lrn) := by
  unfold State.learnCommit
  extract_lets ks m s1 t
  have h_s1 : State.Keeps pq s1 := by
    refine State.setB_keeps ?_
    refine State.Keeps.ite ?_ ?_
    · exact (State.clearLearn_keeps hs)
    · exact hs
  clear_value s1
  exact (State.setTr_keeps h_s1)

/-- trkEnable keeps a sound state and the queue. -/
theorem State.trkEnable_keeps {pq : List Instr} {s : State} {n : Nat} (hs : s.Keeps pq) :
    State.Keeps pq (State.trkEnable s n) := by
  unfold State.trkEnable
  extract_lets __src
  refine State.Keeps.ite ?_ ?_
  · exact (State.restartTrk_keeps (State.setTr_keeps hs))
  · exact (State.log_keeps (State.setB_keeps hs))

/-- enCommit keeps a sound state and the queue. -/
theorem State.enCommit_keeps {pq : List Instr} {s : State} {n : Nat} {enOld : Bool} (hs : s.Keeps pq) :
    State.Keeps pq (State.enCommit s n enOld) := by
  unfold State.enCommit
  extract_lets en resync s1 st
  have h_s1 : State.Keeps pq s1 := (State.setB_keeps hs)
  clear_value s1
  refine State.Keeps.ite ?_ ?_
  · refine State.Keeps.ite ?_ ?_
    · exact (State.trkEnable_keeps h_s1)
    · exact h_s1
  · refine State.Keeps.ite ?_ ?_
    · exact (State.setSt_keeps h_s1)
    · refine State.Keeps.ite ?_ ?_
      · exact (State.restartTrk_keeps h_s1)
      · refine State.Keeps.ite ?_ ?_
        · exact (State.restartTrk_keeps (State.log_keeps h_s1))
        · exact h_s1

/-- patCommit keeps a sound state and the queue. -/
theorem State.patCommit_keeps {pq : List Instr} {s : State} {n : Nat} {st : TState} (hs : s.Keeps pq) :
    State.Keeps pq (State.patCommit s n st) := by
  unfold State.patCommit
  extract_lets t __src t1
  refine State.Keeps.ite ?_ ?_
  · exact (State.setSt_keeps (State.log_keeps (State.setTr_keeps hs)))
  · refine State.Keeps.ite ?_ ?_
    · exact (State.setTr_keeps hs)
    · exact hs

/-- idxCommit keeps a sound state and the queue. -/
theorem State.idxCommit_keeps {pq : List Instr} {s : State} {n : Nat} {st : TState} (hs : s.Keeps pq) :
    State.Keeps pq (State.idxCommit s n st) := by
  unfold State.idxCommit
  extract_lets __src
  refine State.Keeps.ite ?_ ?_
  · exact (State.setTr_keeps hs)
  · refine State.Keeps.ite ?_ ?_
    · exact (State.loseLimp_keeps hs)
    · exact hs

/-- trkCommit keeps a sound state and the queue. -/
theorem State.trkCommit_keeps {pq : List Instr} {s : State} {old : State} {items : List Nat} {n : Nat} (hs : s.Keeps pq) :
    State.Keeps pq (State.trkCommit s old items n) := by
  unfold State.trkCommit
  extract_lets changed pats pitchChanged idxChanged lrn real s1 s2 s3
  have h_s1 : State.Keeps pq s1 := (State.learnCommit_keeps hs)
  clear_value s1
  have h_s2 : State.Keeps pq s2 := (State.enCommit_keeps h_s1)
  clear_value s2
  have h_s3 : State.Keeps pq s3 := by
    refine State.Keeps.ite ?_ ?_
    · exact h_s2
    · exact (State.patCommit_keeps h_s2)
  clear_value s3
  refine State.Keeps.ite ?_ ?_
  · exact (State.idxCommit_keeps h_s3)
  · exact h_s3

/-- snsCommits keeps a sound state and the queue. -/
theorem State.snsCommits_keeps {pq : List Instr} {s : State} {old : State} (hs : s.Keeps pq) :
    State.Keeps pq (State.snsCommits s old) := by
  unfold State.snsCommits
  exact (State.Keeps.overList (fun _ _ h2 => by
        refine State.Keeps.ite ?_ ?_
        · exact h2
        · exact (State.turnLevels_keeps h2)) hs)

/-- trkCommits keeps a sound state and the queue. -/
theorem State.trkCommits_keeps {pq : List Instr} {s : State} {old : State} {items : List Nat} (hs : s.Keeps pq) :
    State.Keeps pq (State.trkCommits s old items) := by
  unfold State.trkCommits
  exact (State.Keeps.overList (fun _ _ h2 => (State.trkCommit_keeps h2)) (State.snsCommits_keeps hs))

/-- trkBoundary keeps a sound state and the queue. -/
theorem State.trkBoundary_keeps {pq : List Instr} {s : State} {n : Nat} (hs : s.Keeps pq) :
    State.Keeps pq (State.trkBoundary s n) := by
  unfold State.trkBoundary
  refine State.Keeps.ite ?_ ?_
  · exact (State.restartTrk_keeps hs)
  · exact hs

/-- snapAll keeps a sound state and the queue. -/
theorem State.snapAll_keeps {pq : List Instr} {s : State} (hs : s.Keeps pq) :
    State.Keeps pq (State.snapAll s) := by
  unfold State.snapAll
  exact (State.Keeps.overList (fun _ _ h1 => by
        extract_lets t
        exact (State.Keeps.same (State.snap_set_keeps h1) rfl)) hs)

/-- trkAllLost keeps a sound state and the queue. -/
theorem State.trkAllLost_keeps {pq : List Instr} {s : State} (hs : s.Keeps pq) :
    State.Keeps pq (State.trkAllLost s) := by
  unfold State.trkAllLost
  exact (State.Keeps.overList (fun _ _ h1 => by
        refine State.Keeps.ite ?_ ?_
        · exact h1
        · exact (State.setSt_keeps h1)) hs)

/-- trkAllAcquire keeps a sound state and the queue. -/
theorem State.trkAllAcquire_keeps {pq : List Instr} {s : State} (hs : s.Keeps pq) :
    State.Keeps pq (State.trkAllAcquire s) := by
  unfold State.trkAllAcquire
  exact (State.Keeps.overList (fun _ _ h1 => by
        refine State.Keeps.ite ?_ ?_
        · exact h1
        · exact (State.restartTrk_keeps h1)) hs)

end Sys2Proof.Machine
end

