-- ==== Sys2Proof/Laws/Keep/Armer.lean ====
section
/-! SUPPORT. Every operation of Machine/Armer.lean keeps a sound state and the queue of waiting commands. -/

namespace Sys2Proof.Machine

open Sys2Proof

/-- bumpShed keeps a sound state and the queue. -/
theorem State.bumpShed_keeps {pq : List Instr} {s : State} {r : Nat → Nat} {sh : Nat} {k : Nat} (hs : s.Keeps pq) :
    State.Keeps pq (State.bumpShed s r sh k) := by
  unfold State.bumpShed
  extract_lets s1
  have h_s1 : State.Keeps pq s1 := (State.bumpBy_keeps hs)
  clear_value s1
  refine State.Keeps.ite ?_ ?_
  · exact (State.bumpBy_keeps h_s1)
  · exact h_s1

/-- pulseShed keeps a sound state and the queue. -/
theorem State.pulseShed_keeps {pq : List Instr} {s : State} {sh : Nat} {k : Nat} (hs : s.Keeps pq) :
    State.Keeps pq (State.pulseShed s sh k) := by
  unfold State.pulseShed
  extract_lets s1
  have h_s1 : State.Keeps pq s1 := (State.pulse_keeps hs)
  clear_value s1
  refine State.Keeps.ite ?_ ?_
  · exact (State.pulse_keeps h_s1)
  · exact h_s1

/-- noSlot keeps a sound state and the queue. -/
theorem State.noSlot_keeps {pq : List Instr} {s : State} {sh : Nat} {e : Nat} (hs : s.Keeps pq) :
    State.Keeps pq (State.noSlot s sh e) := by
  unfold State.noSlot
  exact (State.logOnce_keeps (State.pulseShed_keeps (State.bumpShed_keeps hs)))

/-- scanBad keeps a sound state and the queue. -/
theorem State.scanBad_keeps {pq : List Instr} {s : State} (hs : s.Keeps pq) :
    State.Keeps pq (State.scanBad s) := by
  unfold State.scanBad
  extract_lets bad
  exact (State.Keeps.overList (fun _ _ h1 => (State.logOnceFor_keeps (State.setB_keeps (State.setB_keeps (State.setF_keeps
      h1))))) hs)

/-- scanFound keeps a sound state and the queue. -/
theorem State.scanFound_keeps {pq : List Instr} {s : State} {found : List (Nat × Bool)} (hs : s.Keeps pq) :
    State.Keeps pq (State.scanFound s found) := by
  unfold State.scanFound
  exact (State.Keeps.overList (fun _ _ h1 => by
        extract_lets __src
        refine State.Keeps.ite ?_ ?_
        · exact (State.setEs_keeps h1)
        · exact (State.bump_keeps h1)) hs)

/-- scanEntry keeps a sound state and the queue. -/
theorem State.scanEntry_keeps {pq : List Instr} {s : State} {e : Nat} (hs : s.Keeps pq) :
    State.Keeps pq (State.scanEntry s e) := by
  unfold State.scanEntry
  extract_lets ev n x c s1 s1_1 as due t rearm skip s2 due_1
  have h_s1 : State.Keeps pq s1 := (State.setEs_keeps hs)
  clear_value s1
  have h_s1_1 : State.Keeps pq s1_1 := (State.setEs_keeps hs)
  clear_value s1_1
  have h_s2 : State.Keeps pq s2 := by
    refine State.Keeps.ite ?_ ?_
    · exact h_s1_1
    · exact (State.bumpShed_keeps h_s1_1)
  clear_value s2
  refine State.Keeps.ite ?_ ?_
  · exact hs
  · refine State.Keeps.ite ?_ ?_
    · refine State.Keeps.ite ?_ ?_
      · exact h_s1
      · exact (State.log_keeps (State.pulseShed_keeps (State.bumpShed_keeps h_s1)))
    · refine State.Keeps.ite ?_ ?_
      · exact h_s1_1
      · refine State.Keeps.ite ?_ ?_
        · refine State.Keeps.ite ?_ ?_
          · exact h_s2
          · exact (State.bumpShed_keeps h_s2)
        · clear_value due_1
          split
          · exact h_s2
          · extract_lets best s3
            have h_s3 : State.Keeps pq s3 := (State.points_keeps h_s2)
            clear_value s3
            refine State.Keeps.ite ?_ ?_
            · exact h_s3
            · exact (State.bumpShed_keeps h_s3)

/-- scanFront keeps a sound state and the queue. -/
theorem State.scanFront_keeps {pq : List Instr} {s : State} {n : Nat} (hs : s.Keeps pq) :
    State.Keeps pq (State.scanFront s n) := by
  unfold State.scanFront
  extract_lets t as
  refine State.Keeps.ite ?_ ?_
  · exact (State.setTe_keeps hs)
  · exact (State.setTe_keeps hs)

/-- scanDeferred keeps a sound state and the queue. -/
theorem State.scanDeferred_keeps {pq : List Instr} {s : State} (hs : s.Keeps pq) :
    State.Keeps pq (State.scanDeferred s) := by
  unfold State.scanDeferred
  extract_lets gone lost
  exact (State.Keeps.overList (fun _ _ h1 => (State.noSlot_keeps h1)) (State.deferred_keeps hs))

/-- scanAll keeps a sound state and the queue. -/
theorem State.scanAll_keeps {pq : List Instr} {s : State} (hs : s.Keeps pq) :
    State.Keeps pq (State.scanAll s) := by
  unfold State.scanAll
  extract_lets __src s1 s2 arms s3
  have h___src : State.Keeps pq __src := (State.scanBad_keeps hs)
  have h_s1 : State.Keeps pq s1 := (State.Keeps.overList (fun _ _ h2 => (State.scanFront_keeps h2)) (State.points_keeps
      h___src))
  clear_value s1
  have h_s2 : State.Keeps pq s2 := (State.scanDeferred_keeps h_s1)
  clear_value s2
  have h_s3 : State.Keeps pq s3 := (State.Keeps.overList (fun _ _ h4 => (State.scanEntry_keeps h4)) h_s2)
  clear_value s3
  exact (State.setF_keeps (State.setF_keeps h_s3))

/-- entryCommit keeps a sound state and the queue. -/
theorem State.entryCommit_keeps {pq : List Instr} {s : State} {e : Nat} (hs : s.Keeps pq) :
    State.Keeps pq (State.entryCommit s e) := by
  unfold State.entryCommit
  extract_lets __src s1 mine
  have h___src : State.Keeps pq __src := (State.setEs_keeps hs)
  have h_s1 : State.Keeps pq s1 := (State.Keeps.same h___src rfl)
  clear_value s1
  exact (overSlots_keeps (fun _ _ _ h3 => by
        refine State.Keeps.ite ?_ ?_
        · exact (State.unload_keeps h3)
        · refine State.Keeps.ite ?_ ?_
          · exact (State.forceEnd_keeps h3)
          · exact h3) h_s1)

/-- compareSlot keeps a sound state and the queue. -/
theorem State.compareSlot_keeps {pq : List Instr} {s : State} {sh : Nat} {slot : Nat} (hs : s.Keeps pq) :
    State.Keeps pq (State.compareSlot s sh slot) := by
  unfold State.compareSlot
  extract_lets k x n t m back p0 p1 late start s1 y e
  have h_s1 : State.Keeps pq s1 := by
    refine State.Keeps.ite ?_ ?_
    · refine State.Keeps.ite ?_ ?_
      · exact (State.lateStart_keeps hs)
      · exact (State.placeStart_keeps hs)
    · exact hs
  clear_value s1
  refine State.Keeps.ite ?_ ?_
  · exact hs
  · refine State.Keeps.ite ?_ ?_
    · refine State.Keeps.ite ?_ ?_
      · exact (State.placeEnd_keeps h_s1)
      · exact (State.placeEnd_keeps h_s1)
    · exact h_s1

/-- endSlot keeps a sound state and the queue. -/
theorem State.endSlot_keeps {pq : List Instr} {s : State} {sh : Nat} {slot : Nat} (hs : s.Keeps pq) :
    State.Keeps pq (State.endSlot s sh slot) := by
  unfold State.endSlot
  extract_lets x
  split
  · refine State.Keeps.ite ?_ ?_
    · exact (State.unload_keeps hs)
    · exact hs
  · exact hs

/-- compareAll keeps a sound state and the queue. -/
theorem State.compareAll_keeps {pq : List Instr} {s : State} (hs : s.Keeps pq) :
    State.Keeps pq (State.compareAll s) := by
  unfold State.compareAll
  extract_lets s0 s1
  have h_s0 : State.Keeps pq s0 := (overSlots_keeps (fun _ _ _ h1 => (State.endSlot_keeps h1)) hs)
  clear_value s0
  have h_s1 : State.Keeps pq s1 := (overSlots_keeps (fun _ _ _ h2 => (State.compareSlot_keeps h2)) h_s0)
  clear_value s1
  exact (State.Keeps.overList (fun _ _ h3 => by
        extract_lets __src
        refine State.Keeps.ite ?_ ?_
        · exact (State.setTe_keeps h3)
        · exact h3) h_s1)

/-- durEnd keeps a sound state and the queue. -/
theorem State.durEnd_keeps {pq : List Instr} {s : State} {sh : Nat} {slot : Nat} (hs : s.Keeps pq) :
    State.Keeps pq (State.durEnd s sh slot) := by
  unfold State.durEnd
  extract_lets x
  refine State.Keeps.ite ?_ ?_
  · exact (State.placeEnd_keeps hs)
  · exact hs

/-- capEndAt keeps a sound state and the queue. -/
theorem State.capEndAt_keeps {pq : List Instr} {s : State} {sh : Nat} {slot : Nat} (hs : s.Keeps pq) :
    State.Keeps pq (State.capEndAt s sh slot) := by
  unfold State.capEndAt
  extract_lets x
  refine State.Keeps.ite ?_ ?_
  · exact (State.placeEnd_keeps hs)
  · exact hs

/-- stallRow keeps a sound state and the queue. -/
theorem State.stallRow_keeps {pq : List Instr} {s : State} {n : Nat} (hs : s.Keeps pq) :
    State.Keeps pq (State.stallRow s n) := by
  unfold State.stallRow
  extract_lets tm e
  refine State.Keeps.ite ?_ ?_
  · exact (State.evStall_keeps hs)
  · exact hs

/-- pinColl keeps a sound state and the queue. -/
theorem State.pinColl_keeps {pq : List Instr} {s : State} {p : Nat} (hs : s.Keeps pq) :
    State.Keeps pq (State.pinColl s p) := by
  unfold State.pinColl
  exact (State.logOnceFor_keeps (State.pulse_keeps (State.bump_keeps hs)))

/-- pinHold keeps a sound state and the queue. -/
theorem State.pinHold_keeps {pq : List Instr} {s : State} {p : Nat} (hs : s.Keeps pq) :
    State.Keeps pq (State.pinHold s p) := by
  unfold State.pinHold
  extract_lets x
  refine State.Keeps.ite ?_ ?_
  · exact (State.setPin_keeps hs)
  · exact hs

/-- pinEdge keeps a sound state and the queue. -/
theorem State.pinEdge_keeps {pq : List Instr} {s : State} {p : Nat} {at_ : Fine} {new : Bool} (hs : s.Keeps pq) :
    State.Keeps pq (State.pinEdge s p at_ new) := by
  unfold State.pinEdge
  extract_lets s0 x last close apart when_ line s1
  have h_s0 : State.Keeps pq s0 := (State.pinHold_keeps hs)
  clear_value s0
  have h_s1 : State.Keeps pq s1 := (State.setPin_keeps h_s0)
  clear_value s1
  refine State.Keeps.ite ?_ ?_
  · exact (State.pinColl_keeps h_s1)
  · exact h_s1

/-- pinsSettle keeps a sound state and the queue. -/
theorem State.pinsSettle_keeps {pq : List Instr} {s : State} (hs : s.Keeps pq) :
    State.Keeps pq (State.pinsSettle s) := by
  unfold State.pinsSettle
  exact (State.Keeps.overList (fun _ _ h1 => (State.setPin_keeps h1)) hs)

/-- pinAct keeps a sound state and the queue. -/
theorem State.pinAct_keeps {pq : List Instr} {s : State} {a : Act} (hs : s.Keeps pq) :
    State.Keeps pq (State.pinAct s a) := by
  unfold State.pinAct
  extract_lets p x at_ tick before want rival s1
  have h_s1 : State.Keeps pq s1 := (State.setPin_keeps hs)
  clear_value s1
  refine State.Keeps.ite ?_ ?_
  · exact hs
  · refine State.Keeps.ite ?_ ?_
    · refine State.Keeps.ite ?_ ?_
      · exact (State.pinColl_keeps hs)
      · exact hs
    · clear_value rival
      split
      · refine State.Keeps.ite ?_ ?_
        · exact (State.pinColl_keeps hs)
        · exact hs
      · refine State.Keeps.ite ?_ ?_
        · exact (State.pinHold_keeps h_s1)
        · exact (State.pinEdge_keeps h_s1)

/-- pinStatic keeps a sound state and the queue. -/
theorem State.pinStatic_keeps {pq : List Instr} {s : State} {p : Nat} (hs : s.Keeps pq) :
    State.Keeps pq (State.pinStatic s p) := by
  unfold State.pinStatic
  exact (State.setPin_keeps hs)

/-- pinForce keeps a sound state and the queue. -/
theorem State.pinForce_keeps {pq : List Instr} {s : State} {p : Nat} {sh : Nat} {slot : Nat} (hs : s.Keeps pq) :
    State.Keeps pq (State.pinForce s p sh slot) := by
  unfold State.pinForce
  exact (State.setPin_keeps hs)

/-- pinUnforce keeps a sound state and the queue. -/
theorem State.pinUnforce_keeps {pq : List Instr} {s : State} {gone : Nat × Nat → Bool} (hs : s.Keeps pq) :
    State.Keeps pq (State.pinUnforce s gone) := by
  unfold State.pinUnforce
  exact (State.Keeps.overList (fun _ _ h1 => by
        extract_lets l __src s1
        have h_s1 : State.Keeps pq s1 := (State.setPin_keeps h1)
        clear_value s1
        refine State.Keeps.ite ?_ ?_
        · exact (State.pinStatic_keeps h_s1)
        · exact h_s1) hs)

/-- pinRelease keeps a sound state and the queue. -/
theorem State.pinRelease_keeps {pq : List Instr} {s : State} {sh : Nat} {slot : Nat} (hs : s.Keeps pq) :
    State.Keeps pq (State.pinRelease s sh slot) := by
  unfold State.pinRelease
  exact (State.pinUnforce_keeps hs)

/-- pinCommit keeps a sound state and the queue. -/
theorem State.pinCommit_keeps {pq : List Instr} {s : State} {old : State} {p : Nat} (hs : s.Keeps pq) :
    State.Keeps pq (State.pinCommit s old p) := by
  unfold State.pinCommit
  extract_lets w
  refine State.Keeps.ite ?_ ?_
  · exact hs
  · exact (State.pinStatic_keeps (State.Keeps.same hs rfl))

/-- pinsSafe keeps a sound state and the queue. -/
theorem State.pinsSafe_keeps {pq : List Instr} {s : State} {safe : Bool} (hs : s.Keeps pq) :
    State.Keeps pq (State.pinsSafe s safe) := by
  unfold State.pinsSafe
  exact (State.Keeps.overList (fun _ _ h1 => by
        extract_lets __src
        refine State.Keeps.ite ?_ ?_
        · exact (State.setPin_keeps h1)
        · exact (State.pinStatic_keeps (State.setPin_keeps h1))) hs)

/-- dllDone keeps a sound state and the queue. -/
theorem State.dllDone_keeps {pq : List Instr} {s : State} {c : Nat} {taps : Nat} (hs : s.Keeps pq) :
    State.Keeps pq (State.dllDone s c taps) := by
  unfold State.dllDone
  extract_lets x good l was y s1 s2
  have h_s1 : State.Keeps pq s1 := (State.setPin_keeps hs)
  clear_value s1
  have h_s2 : State.Keeps pq s2 := by
    refine State.Keeps.ite ?_ ?_
    · exact (State.pulse_keeps h_s1)
    · exact h_s1
  clear_value s2
  refine State.Keeps.ite ?_ ?_
  · exact hs
  · refine State.Keeps.ite ?_ ?_
    · exact (State.log_keeps h_s2)
    · exact h_s1

/-- dllSwap keeps a sound state and the queue. -/
theorem State.dllSwap_keeps {pq : List Instr} {s : State} {c : Nat} (hs : s.Keeps pq) :
    State.Keeps pq (State.dllSwap s c) := by
  unfold State.dllSwap
  extract_lets x idle quiet mine none_
  refine State.Keeps.ite ?_ ?_
  · exact (State.setPin_keeps hs)
  · exact hs

/-- injectWrite keeps a sound state and the queue. -/
theorem State.injectWrite_keeps {pq : List Instr} {s : State} {v : Word} (hs : s.Keeps pq) :
    State.Keeps pq (State.injectWrite s v) := by
  unfold State.injectWrite
  extract_lets pair s1
  have h_s1 : State.Keeps pq s1 := (State.setF_keeps (State.setF_keeps hs))
  clear_value s1
  refine State.Keeps.ite ?_ ?_
  · refine State.Keeps.ite ?_ ?_
    · exact (State.setB_keeps h_s1)
    · exact h_s1
  · exact hs

end Sys2Proof.Machine
end

