-- ==== Sys2Proof/Laws/Keep/Stalls.lean ====
section
/-! SUPPORT. Every operation of Machine/Stalls.lean keeps a sound state and the queue of waiting commands. -/

namespace Sys2Proof.Machine

open Sys2Proof

/-- stallLines keeps a sound state and the queue. -/
theorem State.stallLines_keeps {pq : List Instr} {s : State} {sh : Nat} (hs : s.Keeps pq) :
    State.Keeps pq (State.stallLines s sh) := by
  unfold State.stallLines
  extract_lets l
  exact (State.level_keeps (State.level_keeps hs))

/-- stlFlags keeps a sound state and the queue. -/
theorem State.stlFlags_keeps {pq : List Instr} {s : State} {k : Nat} {bits : Nat} (hs : s.Keeps pq) :
    State.Keeps pq (State.stlFlags s k bits) := by
  unfold State.stlFlags
  extract_lets x s1
  have h_s1 : State.Keeps pq s1 := (State.setStl_keeps hs)
  clear_value s1
  refine State.Keeps.ite ?_ ?_
  · exact hs
  · exact (State.stallLines_keeps (State.wr_keeps h_s1))

/-- stlCopy keeps a sound state and the queue. -/
theorem State.stlCopy_keeps {pq : List Instr} {s : State} {k : Nat} (hs : s.Keeps pq) :
    State.Keeps pq (State.stlCopy s k) := by
  unfold State.stlCopy
  exact (State.wr_keeps (State.wr_keeps (State.wr_keeps hs)))

/-- stlDrive keeps a sound state and the queue. -/
theorem State.stlDrive_keeps {pq : List Instr} {s : State} {k : Nat} (hs : s.Keeps pq) :
    State.Keeps pq (State.stlDrive s k) := by
  unfold State.stlDrive
  extract_lets at_ mine
  refine State.Keeps.ite ?_ ?_
  · exact hs
  · exact (State.flight_keeps hs)

/-- stlOut keeps a sound state and the queue. -/
theorem State.stlOut_keeps {pq : List Instr} {s : State} {k : Nat} {l : Bool} (hs : s.Keeps pq) :
    State.Keeps pq (State.stlOut s k l) := by
  unfold State.stlOut
  exact (State.stlDrive_keeps (State.setB_keeps hs))

/-- stlKeep keeps a sound state and the queue. -/
theorem State.stlKeep_keeps {pq : List Instr} {s : State} {k : Nat} {from_ : Time} (hs : s.Keeps pq) :
    State.Keeps pq (State.stlKeep s k from_) := by
  unfold State.stlKeep
  extract_lets x
  exact (State.setStl_keeps hs)

/-- stlRestart1 keeps a sound state and the queue. -/
theorem State.stlRestart1_keeps {pq : List Instr} {s : State} {k : Nat} (hs : s.Keeps pq) :
    State.Keeps pq (State.stlRestart1 s k) := by
  unfold State.stlRestart1
  extract_lets s1 down s2 s3 __src __src_1 s4 s5
  have h_s1 : State.Keeps pq s1 := (State.stlCopy_keeps (State.stlKeep_keeps hs))
  clear_value s1
  have h_s2 : State.Keeps pq s2 := (State.setF_keeps h_s1)
  clear_value s2
  have h_s3 : State.Keeps pq s3 := (State.setB_keeps (State.setB_keeps (State.setB_keeps h_s2)))
  clear_value s3
  have h___src_1 : State.Keeps pq __src_1 := (State.setStl_keeps h_s3)
  have h_s4 : State.Keeps pq s4 := (State.stepped_keeps h___src_1)
  clear_value s4
  have h_s5 : State.Keeps pq s5 := by
    refine State.Keeps.ite ?_ ?_
    · exact (State.pinUnforce_keeps h_s4)
    · exact h_s4
  clear_value s5
  exact (State.stlOut_keeps h_s5)

/-- stlCapture1 keeps a sound state and the queue. -/
theorem State.stlCapture1_keeps {pq : List Instr} {s : State} {k : Nat} {cnt : Nat} {stamp : Time} (hs : s.Keeps pq) :
    State.Keeps pq (State.stlCapture1 s k cnt stamp) := by
  unfold State.stlCapture1
  extract_lets v s1
  have h_s1 : State.Keeps pq s1 := (State.setF_keeps hs)
  clear_value s1
  exact (State.stlFlags_keeps h_s1)

/-- stlStep1 keeps a sound state and the queue. -/
theorem State.stlStep1_keeps {pq : List Instr} {s : State} {k : Nat} (hs : s.Keeps pq) :
    State.Keeps pq (State.stlStep1 s k).1 := by
  unfold State.stlStep1
  extract_lets mode per shadow c first o s1 per2 s2 __src s3 still top z ca cb ma mb s4 l acts s5
  have h_s1 : State.Keeps pq s1 := by
    refine State.Keeps.ite ?_ ?_
    · exact (State.stlCopy_keeps (State.stlKeep_keeps hs))
    · exact (State.stlKeep_keeps hs)
  clear_value s1
  have h_s2 : State.Keeps pq s2 := (State.setB_keeps (State.setF_keeps h_s1))
  clear_value s2
  have h_s3 : State.Keeps pq s3 := by
    refine State.setStl_keeps ?_
    refine State.Keeps.ite ?_ ?_
    · exact (State.setB_keeps h_s2)
    · exact h_s2
  clear_value s3
  have h_s4 : State.Keeps pq s4 := (State.stlFlags_keeps (State.stepped_keeps h_s3))
  clear_value s4
  have h_s5 : State.Keeps pq s5 := by
    unfold s5
    split
    · exact (State.stlOut_keeps h_s4)
    · exact h_s4
  clear_value s5
  exact h_s5

/-- stlStepN keeps a sound state and the queue. -/
theorem State.stlStepN_keeps {q : List Instr} {fuel : Nat} {s : State} {k : Nat} (h : s.Keeps q) :
    State.Keeps q (State.stlStepN fuel s k) := by
  induction fuel generalizing s k with
  | zero => exact h
  | succ fuel ih =>
    have h1 : State.Keeps q (s.stlStep1 k).1 := State.stlStep1_keeps h
    unfold State.stlStepN
    split
    rename_i t _ e
    have ht : State.Keeps q t := State.Keeps.fst e h1
    exact State.Keeps.ite (ih ht) ht

/-- stlStep keeps a sound state and the queue. -/
theorem State.stlStep_keeps {pq : List Instr} {s : State} {k : Nat} (hs : s.Keeps pq) :
    State.Keeps pq (State.stlStep s k) := by
  unfold State.stlStep
  exact (State.Keeps.overList (fun _ _ h1 => by
        refine State.Keeps.ite ?_ ?_
        · exact (State.stlStepN_keeps h1)
        · exact h1) hs)

/-- stallTick keeps a sound state and the queue. -/
theorem State.stallTick_keeps {pq : List Instr} {s : State} {k : Nat} (hs : s.Keeps pq) :
    State.Keeps pq (State.stallTick s k) := by
  unfold State.stallTick
  refine State.Keeps.ite ?_ ?_
  · exact (State.stlStep_keeps hs)
  · exact hs

/-- stlDue keeps a sound state and the queue. -/
theorem State.stlDue_keeps {pq : List Instr} {s : State} {k : Nat} (hs : s.Keeps pq) :
    State.Keeps pq (State.stlDue s k) := by
  unfold State.stlDue
  extract_lets h s1
  have h_s1 : State.Keeps pq s1 := (State.stallTick_keeps hs)
  clear_value s1
  refine State.Keeps.ite ?_ ?_
  · exact (State.stepped_keeps h_s1)
  · exact hs

/-- stlRestart keeps a sound state and the queue. -/
theorem State.stlRestart_keeps {pq : List Instr} {s : State} {k : Nat} (hs : s.Keeps pq) :
    State.Keeps pq (State.stlRestart s k) := by
  unfold State.stlRestart
  extract_lets s1
  have h_s1 : State.Keeps pq s1 := (State.stlDue_keeps hs)
  clear_value s1
  exact (State.Keeps.overList (fun _ _ h2 => (State.stlRestart1_keeps h2)) h_s1)

/-- stlRun keeps a sound state and the queue. -/
theorem State.stlRun_keeps {pq : List Instr} {s : State} {k : Nat} {b : Bool} (hs : s.Keeps pq) :
    State.Keeps pq (State.stlRun s k b) := by
  unfold State.stlRun
  extract_lets s1
  have h_s1 : State.Keeps pq s1 := (State.stlDue_keeps hs)
  clear_value s1
  exact (State.Keeps.overList (fun _ _ h2 => (State.setB_keeps h2)) h_s1)

/-- stlEdge keeps a sound state and the queue. -/
theorem State.stlEdge_keeps {pq : List Instr} {s : State} {k : Nat} {stamp : Time} (hs : s.Keeps pq) :
    State.Keeps pq (State.stlEdge s k stamp) := by
  unfold State.stlEdge
  extract_lets cm s1 s2
  have h_s1 : State.Keeps pq s1 := by
    refine State.Keeps.ite ?_ ?_
    · exact (State.stlStep_keeps hs)
    · exact (State.stlDue_keeps hs)
  clear_value s1
  have h_s2 : State.Keeps pq s2 := by
    refine State.Keeps.ite ?_ ?_
    · exact h_s1
    · exact (State.Keeps.overList (fun _ _ h2 => (State.stlCapture1_keeps h2)) h_s1)
  clear_value s2
  refine State.Keeps.ite ?_ ?_
  · exact hs
  · refine State.Keeps.ite ?_ ?_
    · exact (State.stlRestart_keeps h_s2)
    · exact h_s2

/-- stallInput keeps a sound state and the queue. -/
theorem State.stallInput_keeps {pq : List Instr} {s : State} {k : Nat} {x : Crossing} (hs : s.Keeps pq) :
    State.Keeps pq (State.stallInput s k x) := by
  unfold State.stallInput
  extract_lets src rising read s0 s1 ie
  have h_s0 : State.Keeps pq s0 := by
    refine State.Keeps.ite ?_ ?_
    · exact hs
    · exact (State.takePeak_keeps hs)
  clear_value s0
  have h_s1 : State.Keeps pq s1 := (State.srcSet_keeps (State.stlDue_keeps h_s0))
  clear_value s1
  refine State.Keeps.ite ?_ ?_
  · exact hs
  · refine State.Keeps.ite ?_ ?_
    · exact (State.stlEdge_keeps h_s1)
    · exact h_s1

/-- feedStalls keeps a sound state and the queue. -/
theorem State.feedStalls_keeps {pq : List Instr} {s : State} {n : Nat} {stamp : Time} (hs : s.Keeps pq) :
    State.Keeps pq (State.feedStalls s n stamp) := by
  unfold State.feedStalls
  exact (State.Keeps.overList (fun _ _ h1 => (State.stlEdge_keeps h1)) hs)

/-- stlFlagsWr keeps a sound state and the queue. -/
theorem State.stlFlagsWr_keeps {pq : List Instr} {s : State} {k : Nat} {v : Word} (hs : s.Keeps pq) :
    State.Keeps pq (State.stlFlagsWr s k v) := by
  unfold State.stlFlagsWr
  extract_lets s_1
  have h_s_1 : State.Keeps pq s_1 := (State.stlDue_keeps hs)
  clear_value s_1
  exact (State.Keeps.overList (fun _ _ h2 => by
        extract_lets x kept
        exact (State.stallLines_keeps (State.wr_keeps h2))) h_s_1)

/-- stlCrossed keeps a sound state and the queue. -/
theorem State.stlCrossed_keeps {pq : List Instr} {s : State} {k : Nat} (hs : s.Keeps pq) :
    State.Keeps pq (State.stlCrossed s k) := by
  unfold State.stlCrossed
  refine State.Keeps.ite ?_ ?_
  · exact (State.stlFlags_keeps hs)
  · exact hs

/-- stlCtl keeps a sound state and the queue. -/
theorem State.stlCtl_keeps {pq : List Instr} {s : State} {k : Nat} {v : Word} (hs : s.Keeps pq) :
    State.Keeps pq (State.stlCtl s k v) := by
  unfold State.stlCtl
  extract_lets s_1
  have h_s_1 : State.Keeps pq s_1 := (State.stlDue_keeps hs)
  clear_value s_1
  exact (State.Keeps.overList (fun _ _ h2 => by
        extract_lets was s1 s2
        have h_s1 : State.Keeps pq s1 := (State.setB_keeps (State.setB_keeps h2))
        clear_value s1
        have h_s2 : State.Keeps pq s2 := by
          refine State.Keeps.ite ?_ ?_
          · exact (State.stlCopy_keeps h_s1)
          · exact h_s1
        clear_value s2
        refine State.Keeps.ite ?_ ?_
        · exact (State.stlRestart1_keeps h_s2)
        · exact h_s2) h_s_1)

/-- stlShadowClear keeps a sound state and the queue. -/
theorem State.stlShadowClear_keeps {pq : List Instr} {s : State} {k : Nat} (hs : s.Keeps pq) :
    State.Keeps pq (State.stlShadowClear s k) := by
  unfold State.stlShadowClear
  extract_lets s1
  have h_s1 : State.Keeps pq s1 := (State.stlDue_keeps hs)
  clear_value s1
  exact (State.stlCtl_keeps h_s1)

/-- stlValue keeps a sound state and the queue. -/
theorem State.stlValue_keeps {pq : List Instr} {s : State} {k : Nat} {which : Nat} {v : Word} (hs : s.Keeps pq) :
    State.Keeps pq (State.stlValue s k which v) := by
  unfold State.stlValue
  extract_lets w s_1
  have h_s_1 : State.Keeps pq s_1 := (State.stlDue_keeps hs)
  clear_value s_1
  exact (State.Keeps.overList (fun _ _ h2 => by
        extract_lets sh s1 s1_1 s1_2
        have h_s1 : State.Keeps pq s1 := (State.wr_keeps h2)
        clear_value s1
        have h_s1_1 : State.Keeps pq s1_1 := (State.wr_keeps h2)
        clear_value s1_1
        have h_s1_2 : State.Keeps pq s1_2 := (State.wr_keeps h2)
        clear_value s1_2
        split
        · refine State.Keeps.ite ?_ ?_
          · exact h_s1
          · exact (State.stlCrossed_keeps (State.wr_keeps h_s1))
        · refine State.Keeps.ite ?_ ?_
          · exact h_s1_1
          · exact (State.wr_keeps h_s1_1)
        · refine State.Keeps.ite ?_ ?_
          · exact h_s1_2
          · exact (State.wr_keeps h_s1_2)) h_s_1)

/-- stlCnt keeps a sound state and the queue. -/
theorem State.stlCnt_keeps {pq : List Instr} {s : State} {k : Nat} {v : Word} (hs : s.Keeps pq) :
    State.Keeps pq (State.stlCnt s k v) := by
  unfold State.stlCnt
  extract_lets s_1
  have h_s_1 : State.Keeps pq s_1 := (State.stlDue_keeps hs)
  clear_value s_1
  exact (State.Keeps.overList (fun _ _ h2 => (State.stlCrossed_keeps (State.wr_keeps (State.stlKeep_keeps h2)))) h_s_1)

/-- stlPlain keeps a sound state and the queue. -/
theorem State.stlPlain_keeps {pq : List Instr} {s : State} {k : Nat} {r : Nat → Nat} {w : Word} (hs : s.Keeps pq) :
    State.Keeps pq (State.stlPlain s k r w) := by
  unfold State.stlPlain
  extract_lets s_1
  have h_s_1 : State.Keeps pq s_1 := (State.stlDue_keeps hs)
  clear_value s_1
  exact (State.Keeps.overList (fun _ _ h2 => by
        extract_lets s0 s1
        have h_s0 : State.Keeps pq s0 := (State.stallLines_keeps (State.wr_keeps h2))
        clear_value s0
        have h_s1 : State.Keeps pq s1 := by
          refine State.Keeps.ite ?_ ?_
          · exact h_s0
          · exact (State.stepped_keeps h_s0)
        clear_value s1
        refine State.Keeps.ite ?_ ?_
        · exact h_s1
        · exact (State.stlDrive_keeps h_s1)) h_s_1)

/-- cntLatch keeps a sound state and the queue. -/
theorem State.cntLatch_keeps {pq : List Instr} {s : State} {r : Requester} {k : Nat} (hs : s.Keeps pq) :
    State.Keeps pq (State.cntLatch s r k) := by
  unfold State.cntLatch
  extract_lets head
  exact (State.Keeps.overList (fun _ _ h1 => (State.latch_keeps h1)) hs)

/-- cntRead keeps a sound state and the queue. -/
theorem State.cntRead_keeps {pq : List Instr} {s : State} {r : Requester} {k : Nat} (hs : s.Keeps pq) :
    State.Keeps pq (State.cntRead s r k) := by
  unfold State.cntRead
  exact (State.deliver_keeps (State.cntLatch_keeps hs))

/-- stlGroup keeps a sound state and the queue. -/
theorem State.stlGroup_keeps {pq : List Instr} {s : State} {sh : Nat} {mask : Nat} {f : State → Nat → State} (hs : s.Keeps
    pq) (h_f : ∀ x0 x1, State.Keeps pq x0 → State.Keeps pq (f x0 x1)) :
    State.Keeps pq (State.stlGroup s sh mask f) := by
  unfold State.stlGroup
  refine State.Keeps.ite ?_ ?_
  · exact hs
  · exact (State.Keeps.overList (fun _ _ h1 => (h_f _ _ h1)) hs)

/-- stallCompare keeps a sound state and the queue. -/
theorem State.stallCompare_keeps {pq : List Instr} {s : State} (hs : s.Keeps pq) :
    State.Keeps pq (State.stallCompare s) := by
  unfold State.stallCompare
  exact (State.Keeps.overList (fun _ _ h1 => by
        extract_lets k s1 s2
        have h_s1 : State.Keeps pq s1 := (State.Keeps.overList (fun _ _ h2 => (State.pinForce_keeps h2)) h1)
        clear_value s1
        have h_s2 : State.Keeps pq s2 := (State.flag_keeps (State.setB_keeps h_s1))
        clear_value s2
        refine State.Keeps.ite ?_ ?_
        · refine State.Keeps.ite ?_ ?_
          · exact h_s1
          · exact (State.log_keeps h_s2)
        · exact h1) hs)

/-- landEdges keeps a sound state and the queue. -/
theorem State.landEdges_keeps {pq : List Instr} {s : State} (hs : s.Keeps pq) :
    State.Keeps pq (State.landEdges s) := by
  unfold State.landEdges
  extract_lets due s1
  have h_s1 : State.Keeps pq s1 := (State.flight_keeps hs)
  clear_value s1
  exact (State.Keeps.overList (fun _ _ h2 => by
        extract_lets at_
        refine State.Keeps.ite ?_ ?_
        · exact h2
        · refine State.Keeps.ite ?_ ?_
          · exact (State.pinHold_keeps h2)
          · exact (State.pinEdge_keeps h2)) h_s1)

end Sys2Proof.Machine
end

