-- ==== Sys2Proof/Laws/Keep/Troughs.lean ====
section
/-! SUPPORT. Every operation of Machine/Troughs.lean keeps a sound state and the queue of waiting commands. -/

namespace Sys2Proof.Machine

open Sys2Proof

/-- trgSet keeps a sound state and the queue. -/
theorem State.trgSet_keeps {pq : List Instr} {s : State} {q : Nat} {bit : Nat} (hs : s.Keeps pq) :
    State.Keeps pq (State.trgSet s q bit) := by
  unfold State.trgSet
  exact (State.flag_keeps hs)

/-- trgDrop keeps a sound state and the queue. -/
theorem State.trgDrop_keeps {pq : List Instr} {s : State} {q : Nat} (hs : s.Keeps pq) :
    State.Keeps pq (State.trgDrop s q) := by
  unfold State.trgDrop
  exact (State.bump_keeps hs)

/-- trgOverflow keeps a sound state and the queue. -/
theorem State.trgOverflow_keeps {pq : List Instr} {s : State} {q : Nat} (hs : s.Keeps pq) :
    State.Keeps pq (State.trgOverflow s q) := by
  unfold State.trgOverflow
  exact (State.logOnce_keeps (State.trgDrop_keeps (State.trgSet_keeps hs)))

/-- trgPut keeps a sound state and the queue. -/
theorem State.trgPut_keeps {pq : List Instr} {s : State} {q : Nat} {data : Nat} {poison : Bool} (hs : s.Keeps pq) :
    State.Keeps pq (State.trgPut s q data poison) := by
  unfold State.trgPut
  extract_lets t s1 before
  have h_s1 : State.Keeps pq s1 := (State.Keeps.same (State.pool_set_keeps hs) rfl)
  clear_value s1
  exact (State.setTq_keeps h_s1)

/-- trgRelease keeps a sound state and the queue. -/
theorem State.trgRelease_keeps {pq : List Instr} {s : State} {q : Nat} {n : Nat} (hs : s.Keeps pq) :
    State.Keeps pq (State.trgRelease s q n) := by
  unfold State.trgRelease
  extract_lets t m k
  exact (State.setTq_keeps hs)

/-- trgLook keeps a sound state and the queue. -/
theorem State.trgLook_keeps {pq : List Instr} {s : State} {q : Nat} (hs : s.Keeps pq) :
    State.Keeps pq (State.trgLook s q).1 := by
  unfold State.trgLook
  extract_lets x s1
  have h_s1 : State.Keeps pq s1 := by
    refine State.Keeps.ite ?_ ?_
    · exact (State.logOnce_keeps (State.trgSet_keeps (State.bump_keeps hs)))
    · exact hs
  clear_value s1
  exact h_s1

/-- trgTake keeps a sound state and the queue. -/
theorem State.trgTake_keeps {pq : List Instr} {s : State} {q : Nat} (hs : s.Keeps pq) :
    State.Keeps pq (State.trgTake s q).1 := by
  unfold State.trgTake
  split
  rename_i t1 _ _ e1
  have k1 : State.Keeps pq t1 := State.Keeps.fst e1 (State.trgLook_keeps hs)
  extract_lets t m t1 t2
  exact (State.setTq_keeps k1)

/-- pulledBy keeps a sound state and the queue. -/
theorem State.pulledBy_keeps {pq : List Instr} {s : State} {q : Nat} {a : Nat} {k : Nat} (hs : s.Keeps pq) :
    State.Keeps pq (State.pulledBy s q a k) := by
  unfold State.pulledBy
  extract_lets __src
  refine State.Keeps.ite ?_ ?_
  · exact hs
  · exact (State.setTq_keeps hs)

/-- pushedBy keeps a sound state and the queue. -/
theorem State.pushedBy_keeps {pq : List Instr} {s : State} {q : Nat} {a : Nat} (hs : s.Keeps pq) :
    State.Keeps pq (State.pushedBy s q a) := by
  unfold State.pushedBy
  extract_lets __src
  refine State.Keeps.ite ?_ ?_
  · exact hs
  · exact (State.setTq_keeps hs)

/-- agentPull keeps a sound state and the queue. -/
theorem State.agentPull_keeps {pq : List Instr} {s : State} {q : Nat} {a : Nat} {cut : Bool} (hs : s.Keeps pq) :
    State.Keeps pq (State.agentPull s q a cut).1 := by
  unfold State.agentPull
  extract_lets x
  split
  · exact (State.trgSet_keeps hs)
  · split
    · exact hs
    · exact (State.pulledBy_keeps (State.trgTake_keeps hs))

/-- agentPush keeps a sound state and the queue. -/
theorem State.agentPush_keeps {pq : List Instr} {s : State} {q : Nat} {a : Nat} {cut : Bool} {data : Nat} {poison : Bool}
    (hs : s.Keeps pq) :
    State.Keeps pq (State.agentPush s q a cut data poison) := by
  unfold State.agentPush
  refine State.Keeps.ite ?_ ?_
  · exact (State.trgSet_keeps hs)
  · refine State.Keeps.ite ?_ ?_
    · exact (State.trgDrop_keeps hs)
    · exact (State.pushedBy_keeps (State.trgPut_keeps hs))

/-- portPush keeps a sound state and the queue. -/
theorem State.portPush_keeps {pq : List Instr} {s : State} {r : Requester} {q : Nat} {v : Word} (hs : s.Keeps pq) :
    State.Keeps pq (State.portPush s r q v) := by
  unfold State.portPush
  extract_lets host
  refine State.Keeps.ite ?_ ?_
  · exact (State.trgSet_keeps hs)
  · refine State.Keeps.ite ?_ ?_
    · exact (State.trgDrop_keeps hs)
    · refine State.Keeps.ite ?_ ?_
      · exact (State.trgWaits_keeps hs)
      · refine State.Keeps.ite ?_ ?_
        · exact (State.pushedBy_keeps (State.trgPut_keeps hs))
        · refine State.Keeps.ite ?_ ?_
          · exact (State.trgWaits_keeps hs)
          · exact (State.trgOverflow_keeps hs)

/-- portPull keeps a sound state and the queue. -/
theorem State.portPull_keeps {pq : List Instr} {s : State} {r : Requester} {q : Nat} (hs : s.Keeps pq) :
    State.Keeps pq (State.portPull s r q) := by
  unfold State.portPull
  extract_lets host
  refine State.Keeps.ite ?_ ?_
  · exact (State.deliver_keeps (State.trgSet_keeps hs))
  · refine State.Keeps.ite ?_ ?_
    · exact (State.deliver_keeps hs)
    · refine State.Keeps.ite ?_ ?_
      · exact (State.trgWaits_keeps hs)
      · refine State.Keeps.ite ?_ ?_
        · split
          rename_i t1 _ _ e1
          have k1 : State.Keeps pq t1 := State.Keeps.fst e1 (State.trgTake_keeps hs)
          exact (State.deliver_keeps (State.pulledBy_keeps k1))
        · refine State.Keeps.ite ?_ ?_
          · exact (State.trgWaits_keeps hs)
          · refine State.Keeps.ite ?_ ?_
            · exact (State.deliver_keeps (State.trgSet_keeps hs))
            · exact (State.deliver_keeps hs)

/-- spoil keeps a sound state and the queue. -/
theorem State.spoil_keeps {pq : List Instr} {s : State} {q : Nat} {bad : Bool} (hs : s.Keeps pq) :
    State.Keeps pq (State.spoil s q bad) := by
  unfold State.spoil
  extract_lets k __src
  refine State.Keeps.ite ?_ ?_
  · exact (State.Keeps.same (State.pool_set_keeps hs) rfl)
  · exact hs

/-- dropWaiter keeps a sound state and the queue. -/
theorem State.dropWaiter_keeps {pq : List Instr} {s : State} {w : TrgWait} (hs : s.Keeps pq) :
    State.Keeps pq (State.dropWaiter s w) := by
  unfold State.dropWaiter
  exact (State.trgWaits_keeps hs)

/-- portsAgain keeps a sound state and the queue. -/
theorem State.portsAgain_keeps {pq : List Instr} {s : State} (hs : s.Keeps pq) :
    State.Keeps pq (State.portsAgain s) := by
  unfold State.portsAgain
  exact (State.Keeps.overList (fun _ _ h1 => by
        split
        · exact (State.portPush_keeps (State.dropWaiter_keeps h1))
        · exact (State.portPull_keeps (State.dropWaiter_keeps h1))) hs)

/-- waitServed keeps a sound state and the queue. -/
theorem State.waitServed_keeps {pq : List Instr} {s : State} {q : Nat} {push : Bool} (hs : s.Keeps pq) :
    State.Keeps pq (State.waitServed s q push) := by
  unfold State.waitServed
  split
  · exact hs
  · split
    · refine State.Keeps.ite ?_ ?_
      · exact (State.trgPut_keeps (State.dropWaiter_keeps hs))
      · exact hs
    · refine State.Keeps.ite ?_ ?_
      · split
        rename_i t1 _ _ e1
        have k1 : State.Keeps pq t1 := State.Keeps.fst e1 (State.trgTake_keeps (State.dropWaiter_keeps hs))
        exact (State.deliver_keeps k1)
      · exact hs

/-- waitExpired keeps a sound state and the queue. -/
theorem State.waitExpired_keeps {pq : List Instr} {s : State} {q : Nat} {push : Bool} (hs : s.Keeps pq) :
    State.Keeps pq (State.waitExpired s q push) := by
  unfold State.waitExpired
  split
  · exact hs
  · refine State.Keeps.ite ?_ ?_
    · refine State.Keeps.ite ?_ ?_
      · exact (State.trgOverflow_keeps (State.dropWaiter_keeps hs))
      · exact (State.deliver_keeps (State.trgSet_keeps (State.dropWaiter_keeps hs)))
    · exact hs

/-- trgCross keeps a sound state and the queue. -/
theorem State.trgCross_keeps {pq : List Instr} {s : State} {q : Nat} {rel : Bool} (hs : s.Keeps pq) :
    State.Keeps pq (State.trgCross s q rel) := by
  unfold State.trgCross
  extract_lets t m __src t1
  refine State.Keeps.ite ?_ ?_
  · exact hs
  · refine State.Keeps.ite ?_ ?_
    · exact (State.setTq_keeps hs)
    · exact (State.setTq_keeps hs)

/-- trgFlush keeps a sound state and the queue. -/
theorem State.trgFlush_keeps {pq : List Instr} {s : State} {q : Nat} (hs : s.Keeps pq) :
    State.Keeps pq (State.trgFlush s q) := by
  unfold State.trgFlush
  refine State.Keeps.ite ?_ ?_
  · exact hs
  · exact (State.setTq_keeps hs)

/-- trgMark keeps a sound state and the queue. -/
theorem State.trgMark_keeps {pq : List Instr} {s : State} {q : Nat} (hs : s.Keeps pq) :
    State.Keeps pq (State.trgMark s q) := by
  unfold State.trgMark
  extract_lets t
  exact (State.setTq_keeps hs)

/-- trgRewind keeps a sound state and the queue. -/
theorem State.trgRewind_keeps {pq : List Instr} {s : State} {q : Nat} (hs : s.Keeps pq) :
    State.Keeps pq (State.trgRewind s q) := by
  unfold State.trgRewind
  extract_lets t
  refine State.Keeps.ite ?_ ?_
  · exact (State.setTq_keeps hs)
  · exact (State.trgSet_keeps hs)

/-- trgRelWrite keeps a sound state and the queue. -/
theorem State.trgRelWrite_keeps {pq : List Instr} {s : State} {q : Nat} {v : Word} (hs : s.Keeps pq) :
    State.Keeps pq (State.trgRelWrite s q v) := by
  unfold State.trgRelWrite
  exact (State.trgRelease_keeps hs)

/-- trgPeek keeps a sound state and the queue. -/
theorem State.trgPeek_keeps {pq : List Instr} {s : State} {r : Requester} {q : Nat} (hs : s.Keeps pq) :
    State.Keeps pq (State.trgPeek s r q) := by
  unfold State.trgPeek
  refine State.Keeps.ite ?_ ?_
  · split
    rename_i t1 _ _ e1
    have k1 : State.Keeps pq t1 := State.Keeps.fst e1 (State.trgLook_keeps hs)
    exact (State.deliver_keeps k1)
  · exact (State.deliver_keeps hs)

/-- trgCfg keeps a sound state and the queue. -/
theorem State.trgCfg_keeps {pq : List Instr} {s : State} {q : Nat} {v : Word} (hs : s.Keeps pq) :
    State.Keeps pq (State.trgCfg s q v) := by
  unfold State.trgCfg
  refine State.Keeps.ite ?_ ?_
  · exact (State.trgSet_keeps hs)
  · exact (State.wr_keeps hs)

/-- ssiPull keeps a sound state and the queue. -/
theorem State.ssiPull_keeps {pq : List Instr} {s : State} {n : Nat} (hs : s.Keeps pq) :
    State.Keeps pq (State.ssiPull s n) := by
  unfold State.ssiPull
  extract_lets q_1 t bits
  refine State.Keeps.ite ?_ ?_
  · exact hs
  · split
    rename_i t1 _ _ e1
    have k1 : State.Keeps pq t1 := State.Keeps.fst e1 (State.trgTake_keeps hs)
    extract_lets ang
    split
    rename_i t2 _ _ e2
    have k2 : State.Keeps pq t2 := State.Keeps.fst e2 (State.trgTake_keeps k1)
    extract_lets s3 back stamp law est d e x
    have h_s3 : State.Keeps pq s3 := by
      refine State.pulledBy_keeps ?_
      refine State.Keeps.ite ?_ ?_
      · exact k2
      · exact (State.trgRelease_keeps k2)
    clear_value s3
    refine State.Keeps.ite ?_ ?_
    · exact (State.log_keeps (State.trkError_keeps h_s3))
    · refine State.Keeps.ite ?_ ?_
      · exact (State.trkError_keeps h_s3)
      · exact (State.setTr_keeps h_s3)

end Sys2Proof.Machine
end

