-- ==== Sys2Proof/Laws/Keep/Yard.lean ====
section
/-! SUPPORT. Every operation of Machine/Yard.lean keeps a sound state and the queue of waiting commands. -/

namespace Sys2Proof.Machine

open Sys2Proof

/-- quarantine keeps a sound state and the queue. -/
theorem State.quarantine_keeps {pq : List Instr} {s : State} {p : Nat} (hs : s.Keeps pq) :
    State.Keeps pq (State.quarantine s p) := by
  unfold State.quarantine
  extract_lets x
  refine State.Keeps.ite ?_ ?_
  · exact hs
  · exact (State.pulse_keeps (State.log_keeps (State.setPage_keeps hs)))

/-- yardClear keeps a sound state and the queue. -/
theorem State.yardClear_keeps {q : List Instr} {s : State} {p : Nat} (h : s.Keeps q) :
    State.Keeps q (State.yardClear s p) :=
  State.regs_filter_keeps h

/-- ownResult keeps a sound state and the queue. -/
theorem State.ownResult_keeps {pq : List Instr} {s : State} {r : Requester} {p : Nat} {reason : Nat} (hs : s.Keeps pq) :
    State.Keeps pq (State.ownResult s r p reason) := by
  unfold State.ownResult
  exact (State.latch_keeps hs)

/-- ownWrite keeps a sound state and the queue. -/
theorem State.ownWrite_keeps {pq : List Instr} {s : State} {r : Requester} {p : Nat} {v : Word} {still : Bool} (hs : s.Keeps
    pq) :
    State.Keeps pq (State.ownWrite s r p v still) := by
  unfold State.ownWrite
  extract_lets x dst s1
  have h_s1 : State.Keeps pq s1 := by
    refine State.Keeps.ite ?_ ?_
    · exact (State.yardClear_keeps hs)
    · exact hs
  clear_value s1
  refine State.Keeps.ite ?_ ?_
  · exact hs
  · refine State.Keeps.ite ?_ ?_
    · exact (State.ownResult_keeps hs)
    · refine State.Keeps.ite ?_ ?_
      · exact (State.ownResult_keeps hs)
      · refine State.Keeps.ite ?_ ?_
        · exact (State.ownResult_keeps (State.log_keeps h_s1))
        · exact (State.ownResult_keeps (State.setPage_keeps h_s1))

/-- yardViolation keeps a sound state and the queue. -/
theorem State.yardViolation_keeps {pq : List Instr} {s : State} {p : Nat} (hs : s.Keeps pq) :
    State.Keeps pq (State.yardViolation s p) := by
  unfold State.yardViolation
  exact (State.logOnceFor_keeps (State.bump_keeps hs))

/-- yardWrite keeps a sound state and the queue. -/
theorem State.yardWrite_keeps {pq : List Instr} {s : State} {r : Requester} {o : Nat} {v : Word} {be : BitVec 4} (hs :
    s.Keeps pq) :
    State.Keeps pq (State.yardWrite s r o v be) := by
  unfold State.yardWrite
  extract_lets a
  refine State.Keeps.ite ?_ ?_
  · exact hs
  · refine State.Keeps.ite ?_ ?_
    · exact (State.wr_keeps hs)
    · exact (State.yardViolation_keeps hs)

/-- yardFound keeps a sound state and the queue. -/
theorem State.yardFound_keeps {pq : List Instr} {s : State} {o : Nat} {e : Ecc} (hs : s.Keeps pq) :
    State.Keeps pq (State.yardFound s o e) := by
  unfold State.yardFound
  split
  · exact hs
  · exact (State.bump_keeps hs)
  · exact (State.quarantine_keeps hs)

/-- yardRead keeps a sound state and the queue. -/
theorem State.yardRead_keeps {pq : List Instr} {s : State} {r : Requester} {o : Nat} {e : Ecc} (hs : s.Keeps pq) :
    State.Keeps pq (State.yardRead s r o e) := by
  unfold State.yardRead
  extract_lets s1
  have h_s1 : State.Keeps pq s1 := (State.yardFound_keeps hs)
  clear_value s1
  refine State.Keeps.ite ?_ ?_
  · exact hs
  · exact (State.deliver_keeps h_s1)

/-- yardPutBytes keeps a sound state and the queue. -/
theorem State.yardPutBytes_keeps {q : List Instr} {s : State} {r : Requester} {o : Nat} {bs : List Nat} (h : s.Keeps q) :
    State.Keeps q (State.yardPutBytes s r o bs) := by
  unfold State.yardPutBytes
  generalize hx : (s, o) = x
  have hk : x.1.Keeps q := by rw [← hx]; exact h
  clear hx
  induction bs generalizing x with
  | nil => exact hk
  | cons b bs ih => exact ih _ (State.yardWrite_keeps hk)

/-- entryEcc keeps a sound state and the queue. -/
theorem State.entryEcc_keeps {pq : List Instr} {s : State} {e : Nat} (hs : s.Keeps pq) :
    State.Keeps pq (State.entryEcc s e) := by
  unfold State.entryEcc
  exact (State.setEs_keeps hs)

/-- tackBad keeps a sound state and the queue. -/
theorem State.tackBad_keeps {pq : List Instr} {s : State} {a : Nat} (hs : s.Keeps pq) :
    State.Keeps pq (State.tackBad s a) := by
  unfold State.tackBad
  extract_lets s1 n
  have h_s1 : State.Keeps pq s1 := (State.badWords_keeps hs)
  clear_value s1
  refine State.Keeps.ite ?_ ?_
  · refine State.Keeps.ite ?_ ?_
    · exact h_s1
    · exact (State.setSt_keeps (State.log_keeps h_s1))
  · exact h_s1

/-- scrub keeps a sound state and the queue. -/
theorem State.scrub_keeps {pq : List Instr} {s : State} {a : Nat} {e : Ecc} (hs : s.Keeps pq) :
    State.Keeps pq (State.scrub s a e) := by
  unfold State.scrub
  refine State.Keeps.ite ?_ ?_
  · exact hs
  · refine State.Keeps.ite ?_ ?_
    · split
      · exact hs
      · exact (State.bump_keeps hs)
      · exact (State.entryEcc_keeps hs)
    · refine State.Keeps.ite ?_ ?_
      · exact (State.yardFound_keeps hs)
      · refine State.Keeps.ite ?_ ?_
        · split
          · exact (State.tackBad_keeps hs)
          · exact hs
        · exact hs

/-- evtShadowRead keeps a sound state and the queue. -/
theorem State.evtShadowRead_keeps {pq : List Instr} {s : State} {r : Requester} {e : Nat} {w : Nat} {x : Ecc} (hs : s.Keeps
    pq) :
    State.Keeps pq (State.evtShadowRead s r e w x) := by
  unfold State.evtShadowRead
  extract_lets s1
  have h_s1 : State.Keeps pq s1 := by
    unfold s1
    split
    · exact hs
    · exact (State.bump_keeps hs)
    · exact (State.setB_keeps (State.setB_keeps (State.setF_keeps hs)))
  clear_value s1
  exact (State.deliver_keeps h_s1)

end Sys2Proof.Machine
end

