-- ==== Sys2Proof/Laws/Keep/Log.lean ====
section
/-! SUPPORT. Every operation of Machine/Log.lean keeps a sound state and the queue of waiting commands. -/

namespace Sys2Proof.Machine

open Sys2Proof

/-- logPut keeps a sound state and the queue. -/
theorem State.logPut_keeps {q : List Instr} {s : State} {e a b c d : Nat} (h : s.Keeps q) :
    State.Keeps q (State.logPut s e a b c d) := by
  have hw : Sparse.wf (fun _ => (0 : Word)) s.logW = true := h.1.1.2.2.2.2.2.2.2.2.2.2.2.2.2.2.2.2.2.2.2.2.2.2.2.2.2
  exact State.logW_keeps (Sparse.wf_set _ _ (Sparse.wf_set _ _ (Sparse.wf_set _ _ (Sparse.wf_set _ _ hw)))) h

/-- logEntry keeps a sound state and the queue. -/
theorem State.logEntry_keeps {pq : List Instr} {s : State} {x : Report} (hs : s.Keeps pq) :
    State.Keeps pq (State.logEntry s x) := by
  unfold State.logEntry
  extract_lets e t s1 s2 s3 s4
  have h_s1 : State.Keeps pq s1 := (State.logPut_keeps hs)
  clear_value s1
  have h_s2 : State.Keeps pq s2 := (State.setF_keeps h_s1)
  clear_value s2
  have h_s3 : State.Keeps pq s3 := by
    refine State.Keeps.ite ?_ ?_
    · exact (State.setB_keeps h_s2)
    · exact h_s2
  clear_value s3
  have h_s4 : State.Keeps pq s4 := (State.setF_keeps h_s3)
  clear_value s4
  exact (State.setF_keeps h_s4)

/-- logNext keeps a sound state and the queue. -/
theorem State.logNext_keeps {q : List Instr} {s : State} (h : s.Keeps q) : State.Keeps q (State.logNext s) := by
  have hl := h.1.2.1
  unfold State.logNext
  refine State.Keeps.ite (State.logEntry_keeps (State.Keeps.same h rfl)) ?_
  split
  · exact h
  · rename_i x xs hx
    have hxs : xs.length ≤ 32 := by
      rw [hx, List.length_cons] at hl
      omega
    exact State.logEntry_keeps (State.Keeps.same (State.logQ_keeps hxs h) rfl)

/-- logBad keeps a sound state and the queue. -/
theorem State.logBad_keeps {pq : List Instr} {s : State} {e : Nat} (hs : s.Keeps pq) :
    State.Keeps pq (State.logBad s e) := by
  unfold State.logBad
  refine State.Keeps.ite ?_ ?_
  · exact (State.setF_keeps (State.logPut_keeps hs))
  · exact hs

/-- logSel keeps a sound state and the queue. -/
theorem State.logSel_keeps {pq : List Instr} {s : State} {r : Requester} {v : Word} (hs : s.Keeps pq) :
    State.Keeps pq (State.logSel s r v) := by
  unfold State.logSel
  extract_lets e
  exact (State.Keeps.overList (fun _ _ h1 => (State.latch_keeps h1)) (State.setF_keeps hs))

/-- logClear keeps a sound state and the queue. -/
theorem State.logClear_keeps {q : List Instr} {s : State} (h : s.Keeps q) : State.Keeps q (State.logClear s) :=
  State.logEntry_keeps (State.wr_keeps (State.wr_keeps (State.logW_keeps rfl h)))

end Sys2Proof.Machine
end

