-- ==== Sys2Proof/Laws/Keep/Irq.lean ====
section
/-! SUPPORT. Every operation of Machine/Irq.lean keeps a sound state and the queue of waiting commands. -/

namespace Sys2Proof.Machine

open Sys2Proof

/-- claim keeps a sound state and the queue. -/
theorem State.claim_keeps {pq : List Instr} {s : State} {g : Nat} {t : InSvc} (hs : s.Keeps pq) :
    State.Keeps pq (State.claim s g t) := by
  unfold State.claim
  exact (State.setSrc_keeps hs)

/-- endService keeps a sound state and the queue. -/
theorem State.endService_keeps {pq : List Instr} {s : State} {n : Nat} (hs : s.Keeps pq) :
    State.Keeps pq (State.endService s n) := by
  unfold State.endService
  exact (State.Keeps.overList (fun _ _ h1 => (State.setSrc_keeps h1)) hs)

/-- irqSettle keeps a sound state and the queue. -/
theorem State.irqSettle_keeps {pq : List Instr} {s : State} {g : Nat} (hs : s.Keeps pq) :
    State.Keeps pq (State.irqSettle s g) := by
  unfold State.irqSettle
  extract_lets x
  exact (State.setSrc_keeps hs)

/-- irqShow keeps a sound state and the queue. -/
theorem State.irqShow_keeps {pq : List Instr} {s : State} {n : Nat} (hs : s.Keeps pq) :
    State.Keeps pq (State.irqShow s n) := by
  unfold State.irqShow
  extract_lets e now
  refine State.Keeps.ite ?_ ?_
  · exact hs
  · exact (State.setEng_keeps hs)

/-- irqTick keeps a sound state and the queue. -/
theorem State.irqTick_keeps {pq : List Instr} {s : State} (hs : s.Keeps pq) :
    State.Keeps pq (State.irqTick s) := by
  unfold State.irqTick
  exact (State.Keeps.overList (fun _ _ h1 => (State.irqShow_keeps h1)) (State.Keeps.overList (fun _ _ h1 =>
      (State.irqSettle_keeps h1)) (State.Keeps.overList (fun _ _ h1 => (State.pulseEnd_keeps h1)) hs)))

/-- fallBack keeps a sound state and the queue. -/
theorem State.fallBack_keeps {pq : List Instr} {s : State} {g : Nat} (hs : s.Keeps pq) :
    State.Keeps pq (State.fallBack s g) := by
  unfold State.fallBack
  extract_lets __src s1
  have h_s1 : State.Keeps pq s1 := (State.setB_keeps (State.setSrc_keeps hs))
  clear_value s1
  split
  · refine State.Keeps.ite ?_ ?_
    · exact (State.logOnceFor_keeps (State.bump_keeps h_s1))
    · exact hs
  · exact hs

/-- pendSet keeps a sound state and the queue. -/
theorem State.pendSet_keeps {pq : List Instr} {s : State} {w : Nat} {v : Word} (hs : s.Keeps pq) :
    State.Keeps pq (State.pendSet s w v) := by
  unfold State.pendSet
  exact (State.Keeps.overList (fun _ _ h1 => (State.setSrc_keeps h1)) hs)

/-- pendClr1 keeps a sound state and the queue. -/
theorem State.pendClr1_keeps {pq : List Instr} {s : State} {g : Nat} (hs : s.Keeps pq) :
    State.Keeps pq (State.pendClr1 s g) := by
  unfold State.pendClr1
  extract_lets __src s1 __src_1
  have h_s1 : State.Keeps pq s1 := (State.setSrc_keeps hs)
  clear_value s1
  exact (State.setSrc_keeps h_s1)

/-- pendClr keeps a sound state and the queue. -/
theorem State.pendClr_keeps {pq : List Instr} {s : State} {w : Nat} {v : Word} (hs : s.Keeps pq) :
    State.Keeps pq (State.pendClr s w v) := by
  unfold State.pendClr
  exact (State.Keeps.overList (fun _ _ h1 => (State.pendClr1_keeps h1)) hs)

/-- maskSet keeps a sound state and the queue. -/
theorem State.maskSet_keeps {pq : List Instr} {s : State} {w : Nat} {v : Word} (hs : s.Keeps pq) :
    State.Keeps pq (State.maskSet s w v) := by
  unfold State.maskSet
  exact (State.Keeps.overList (fun _ _ h1 => (State.setSrc_keeps h1)) hs)

/-- maskClr keeps a sound state and the queue. -/
theorem State.maskClr_keeps {pq : List Instr} {s : State} {w : Nat} {v : Word} (hs : s.Keeps pq) :
    State.Keeps pq (State.maskClr s w v) := by
  unfold State.maskClr
  exact (State.Keeps.overList (fun _ _ h1 => (State.setSrc_keeps h1)) hs)

/-- srcCfg keeps a sound state and the queue. -/
theorem State.srcCfg_keeps {pq : List Instr} {s : State} {g : Nat} {v : Word} (hs : s.Keeps pq) :
    State.Keeps pq (State.srcCfg s g v) := by
  unfold State.srcCfg
  extract_lets a old fixed rw keep w w_1 x was s1 __src
  have h_s1 : State.Keeps pq s1 := (State.setSrc_keeps (State.wr_keeps hs))
  clear_value s1
  refine State.Keeps.ite ?_ ?_
  · exact hs
  · refine State.Keeps.ite ?_ ?_
    · exact h_s1
    · exact (State.setSrc_keeps h_s1)

/-- coreClaim keeps a sound state and the queue. -/
theorem State.coreClaim_keeps {pq : List Instr} {s : State} {r : Requester} (hs : s.Keeps pq) :
    State.Keeps pq (State.coreClaim s r) := by
  unfold State.coreClaim
  split
  · refine State.deliver_keeps ?_
    refine State.Keeps.ite ?_ ?_
    · exact (State.claim_keeps hs)
    · exact hs
  · exact (State.deliver_keeps hs)

/-- coreEoi keeps a sound state and the queue. -/
theorem State.coreEoi_keeps {pq : List Instr} {s : State} {v : Word} (hs : s.Keeps pq) :
    State.Keeps pq (State.coreEoi s v) := by
  unfold State.coreEoi
  extract_lets g __src
  refine State.Keeps.ite ?_ ?_
  · exact (State.setSrc_keeps hs)
  · exact hs

end Sys2Proof.Machine
end

