-- ==== Sys2Proof/Laws/Keep/Engines.lean ====
section
/-! SUPPORT. Every operation of Machine/Engines.lean keeps a sound state and the queue of waiting commands. -/

namespace Sys2Proof.Machine

open Sys2Proof

/-- stlFieldWr keeps a sound state and the queue. -/
theorem State.stlFieldWr_keeps {pq : List Instr} {s : State} {k : Nat} {sf : Nat} {v : Nat} (hs : s.Keeps pq) :
    State.Keeps pq (State.stlFieldWr s k sf v) := by
  unfold State.stlFieldWr
  extract_lets w plain
  split
  · exact (State.stlCtl_keeps hs)
  · exact (State.stlPlain_keeps hs)
  · exact (State.stlPlain_keeps hs)
  · exact (State.stlFlagsWr_keeps hs)
  · exact (State.stlPlain_keeps hs)
  · exact (State.stlCnt_keeps hs)
  · exact (State.stlValue_keeps hs)
  · exact (State.stlValue_keeps hs)
  · exact (State.stlValue_keeps hs)
  · exact hs

/-- engAct keeps a sound state and the queue. -/
theorem State.engAct_keeps {pq : List Instr} {s : State} {n : Nat} {x : EngEff} (hs : s.Keeps pq) :
    State.Keeps pq (State.engAct s n x) := by
  unfold State.engAct
  split
  · exact (State.stlFieldWr_keeps hs)
  · extract_lets g
    split
    · refine State.Keeps.ite ?_ ?_
      · exact (State.stlStep_keeps hs)
      · exact hs
    · exact (State.stlRestart_keeps hs)
    · exact (State.stlRun_keeps hs)
    · exact (State.pulse_keeps hs)
    · exact (State.pulse_keeps hs)
    · exact (State.pendClr1_keeps hs)
    · exact hs
  · exact hs
  · exact hs
  · exact (State.agentPush_keeps hs)
  · exact hs
  · split
    · exact (State.trgRelease_keeps hs)
    · exact (State.trgMark_keeps hs)
    · exact (State.trgRewind_keeps hs)

/-- engEff keeps a sound state and the queue. -/
theorem State.engEff_keeps {pq : List Instr} {s : State} {n : Nat} {x : EngEff} (hs : s.Keeps pq) :
    State.Keeps pq (State.engEff s n x) := by
  unfold State.engEff
  extract_lets __src
  refine State.Keeps.ite ?_ ?_
  · exact (State.setEng_keeps hs)
  · exact (State.engAct_keeps hs)

/-- engStop keeps a sound state and the queue. -/
theorem State.engStop_keeps {pq : List Instr} {s : State} {n : Nat} (hs : s.Keeps pq) :
    State.Keeps pq (State.engStop s n) := by
  unfold State.engStop
  extract_lets e __src
  refine State.Keeps.ite ?_ ?_
  · exact hs
  · refine State.Keeps.ite ?_ ?_
    · exact (State.setPart_keeps (State.setEng_keeps hs))
    · exact (State.setEng_keeps hs)

/-- engResumed keeps a sound state and the queue. -/
theorem State.engResumed_keeps {pq : List Instr} {s : State} {n : Nat} (hs : s.Keeps pq) :
    State.Keeps pq (State.engResumed s n) := by
  unfold State.engResumed
  extract_lets e
  exact (State.engStop_keeps (State.endService_keeps (State.setEng_keeps hs)))

/-- engLand keeps a sound state and the queue. -/
theorem State.engLand_keeps {pq : List Instr} {s : State} {n : Nat} (hs : s.Keeps pq) :
    State.Keeps pq (State.engLand s n) := by
  unfold State.engLand
  extract_lets e due
  refine State.Keeps.ite ?_ ?_
  · exact hs
  · exact (State.Keeps.foldl (fun _ _ h1 => by
        refine State.Keeps.ite ?_ ?_
        · exact (State.partDoneAt_keeps h1)
        · refine State.Keeps.ite ?_ ?_
          · exact (State.engResumed_keeps h1)
          · exact (State.engAct_keeps h1)) (State.setEng_keeps hs))

/-- engFlush keeps a sound state and the queue. -/
theorem State.engFlush_keeps {pq : List Instr} {s : State} (hs : s.Keeps pq) :
    State.Keeps pq (State.engFlush s) := by
  unfold State.engFlush
  exact (State.Keeps.overList (fun _ _ h1 => (State.engLand_keeps h1)) hs)

/-- engDst keeps a sound state and the queue. -/
theorem State.engDst_keeps {pq : List Instr} {s : State} {n : Nat} {x : Nano} {r : Nat} (hs : s.Keeps pq) :
    State.Keeps pq (State.engDst s n x r) := by
  unfold State.engDst
  refine State.Keeps.ite ?_ ?_
  · exact (State.wr_keeps hs)
  · refine State.Keeps.ite ?_ ?_
    · exact (State.wr_keeps hs)
    · exact hs

/-- engResume keeps a sound state and the queue. -/
theorem State.engResume_keeps {pq : List Instr} {s : State} {n : Nat} (hs : s.Keeps pq) :
    State.Keeps pq (State.engResume s n) := by
  unfold State.engResume
  extract_lets e k w depth stk inDone
  exact (State.setEng_keeps hs)

/-- engNext keeps a sound state and the queue. -/
theorem State.engNext_keeps {pq : List Instr} {s : State} {s0 : State} {n : Nat} {u : Nat} {res : Nat} {x : Nano} (hs :
    s.Keeps pq) :
    State.Keeps pq (State.engNext s s0 n u res x) := by
  unfold State.engNext
  extract_lets e na stallCond c go
  split
  · exact (State.setEng_keeps hs)
  · exact (State.setEng_keeps hs)
  · exact (State.setEng_keeps hs)
  · exact (State.setEng_keeps hs)
  · exact (State.setEng_keeps hs)
  · refine State.Keeps.ite ?_ ?_
    · exact (State.setEng_keeps hs)
    · exact (State.setEng_keeps hs)
  · exact (State.engEff_keeps (State.setEng_keeps hs))
  · exact hs

/-- engFault keeps a sound state and the queue. -/
theorem State.engFault_keeps {pq : List Instr} {s : State} {n : Nat} (hs : s.Keeps pq) :
    State.Keeps pq (State.engFault s n) := by
  unfold State.engFault
  extract_lets e
  exact (State.pulse_keeps (State.log_keeps (State.endService_keeps (State.setEng_keeps hs))))

/-- engRun keeps a sound state and the queue. -/
theorem State.engRun_keeps {pq : List Instr} {s : State} {n : Nat} {o : EngOut} {keep : List EngEff} (hs : s.Keeps pq) :
    State.Keeps pq (State.engRun s n o keep) := by
  unfold State.engRun
  extract_lets u x e resume __src e1 s1 s2 __src_1 s2_1
  have h_s1 : State.Keeps pq s1 := (State.setEng_keeps (State.engDst_keeps hs))
  clear_value s1
  have h_s2 : State.Keeps pq s2 := (State.Keeps.foldl (fun _ _ h2 => (State.engEff_keeps h2)) h_s1)
  clear_value s2
  have h_s2_1 : State.Keeps pq s2_1 := (State.setEng_keeps h_s2)
  clear_value s2_1
  refine State.engStop_keeps ?_
  refine State.Keeps.ite ?_ ?_
  · exact (State.engResume_keeps h_s2_1)
  · exact (State.engNext_keeps h_s2_1)

/-- engLatch keeps a sound state and the queue. -/
theorem State.engLatch_keeps {pq : List Instr} {s : State} {n : Nat} (hs : s.Keeps pq) :
    State.Keeps pq (State.engLatch s n) := by
  unfold State.engLatch
  extract_lets x
  refine State.Keeps.ite ?_ ?_
  · exact (State.cntLatch_keeps hs)
  · exact hs

/-- engHold keeps a sound state and the queue. -/
theorem State.engHold_keeps {pq : List Instr} {s : State} {n : Nat} (hs : s.Keeps pq) :
    State.Keeps pq (State.engHold s n) := by
  unfold State.engHold
  extract_lets __src
  refine State.Keeps.ite ?_ ?_
  · exact (State.engStop_keeps (State.setEng_keeps hs))
  · exact hs

/-- engPull keeps a sound state and the queue. -/
theorem State.engPull_keeps {q : List Instr} {s : State} {n : Nat} {b : Bool} (h : s.Keeps q) :
    State.Keeps q (State.engPull s n b).1 := by
  unfold State.engPull
  extract_lets x y r made
  have hr : State.Keeps q r.1 := State.agentPull_keeps (State.spoil_keeps h)
  split
  · exact State.Keeps.ite hr h
  · exact h

/-- mgrLog keeps a sound state and the queue. -/
theorem State.mgrLog_keeps {pq : List Instr} {s : State} {n : Nat} {bad : Bool} (hs : s.Keeps pq) :
    State.Keeps pq (State.mgrLog s n bad) := by
  unfold State.mgrLog
  extract_lets x
  refine State.Keeps.ite ?_ ?_
  · exact (State.logOnce_keeps hs)
  · exact hs

/-- engPairDoes keeps a sound state and the queue. -/
theorem State.engPairDoes_keeps {pq : List Instr} {s : State} {n : Nat} {bad : Bool} {d : Nat} {p : Bool} {a : Bool} {b :
    Bool} (hs : s.Keeps pq) :
    State.Keeps pq (State.engPairDoes s n bad d p a b) := by
  unfold State.engPairDoes
  extract_lets bad2 o o2 mine other same s1 s2
  have h_s1 : State.Keeps pq s1 := by
    refine State.Keeps.ite ?_ ?_
    · exact (State.engRun_keeps (State.engLatch_keeps (State.mgrLog_keeps hs)))
    · exact hs
  clear_value s1
  have h_s2 : State.Keeps pq s2 := by
    refine State.Keeps.ite ?_ ?_
    · exact (State.engRun_keeps (State.engLatch_keeps (State.mgrLog_keeps h_s1)))
    · exact h_s1
  clear_value s2
  refine State.Keeps.ite ?_ ?_
  · exact h_s2
  · exact (State.log_keeps (State.engFault_keeps (State.engFault_keeps h_s2)))

/-- engDoes keeps a sound state and the queue. -/
theorem State.engDoes_keeps {q : List Instr} {s : State} {n : Nat} {b t : Bool} (h : s.Keeps q) :
    State.Keeps q (State.engDoes s n b t) := by
  have hr : State.Keeps q (s.engPull n t).1 := State.engPull_keeps h
  unfold State.engDoes
  exact State.Keeps.ite (State.setEng_keeps (State.engPairDoes_keeps hr))
    (State.engRun_keeps (State.engLatch_keeps (State.mgrLog_keeps hr)))

/-- engWord keeps a sound state and the queue. -/
theorem State.engWord_keeps {pq : List Instr} {s : State} {n : Nat} {bad : Bool} {trgBad : Bool} (hs : s.Keeps pq) :
    State.Keeps pq (State.engWord s n bad trgBad) := by
  unfold State.engWord
  extract_lets __src s_1 s1
  have h_s_1 : State.Keeps pq s_1 := (State.Keeps.overList (fun _ _ h1 => (State.stlDue_keeps h1)) (State.engFlush_keeps hs))
  clear_value s_1
  have h_s1 : State.Keeps pq s1 := (State.Keeps.overList (fun _ _ h2 => (State.engHold_keeps h2)) h_s_1)
  clear_value s1
  refine State.Keeps.ite ?_ ?_
  · exact (State.setEng_keeps hs)
  · refine State.Keeps.ite ?_ ?_
    · exact h_s_1
    · refine State.Keeps.ite ?_ ?_
      · exact (State.engDoes_keeps h_s1)
      · exact h_s1

/-- engWaitEnd keeps a sound state and the queue. -/
theorem State.engWaitEnd_keeps {pq : List Instr} {s : State} {n : Nat} (hs : s.Keeps pq) :
    State.Keeps pq (State.engWaitEnd s n) := by
  unfold State.engWaitEnd
  refine State.Keeps.ite ?_ ?_
  · exact hs
  · exact (State.Keeps.overList (fun _ _ h1 => by
        extract_lets ready __src
        refine State.Keeps.ite ?_ ?_
        · exact (State.setEng_keeps h1)
        · exact h1) hs)

/-- engFirst keeps a sound state and the queue. -/
theorem State.engFirst_keeps {pq : List Instr} {s : State} {n : Nat} (hs : s.Keeps pq) :
    State.Keeps pq (State.engFirst s n) := by
  unfold State.engFirst
  extract_lets e s1
  have h_s1 : State.Keeps pq s1 := (State.setEng_keeps hs)
  clear_value s1
  refine State.Keeps.ite ?_ ?_
  · refine State.Keeps.ite ?_ ?_
    · exact (State.engStop_keeps h_s1)
    · exact h_s1
  · exact hs

/-- engFirsts keeps a sound state and the queue. -/
theorem State.engFirsts_keeps {pq : List Instr} {s : State} (hs : s.Keeps pq) :
    State.Keeps pq (State.engFirsts s) := by
  unfold State.engFirsts
  exact (State.Keeps.overList (fun _ _ h1 => (State.engFirst_keeps h1)) hs)

/-- engStart keeps a sound state and the queue. -/
theorem State.engStart_keeps {pq : List Instr} {s : State} {n : Nat} (hs : s.Keeps pq) :
    State.Keeps pq (State.engStart s n) := by
  unfold State.engStart
  extract_lets e valid
  split
  · exact hs
  · exact hs
  · refine State.Keeps.ite ?_ ?_
    · exact (State.setEng_keeps hs)
    · exact hs
  · refine State.Keeps.ite ?_ ?_
    · exact (State.logOnce_keeps (State.bump_keeps hs))
    · exact (State.setEng_keeps hs)

/-- engPass1 keeps a sound state and the queue. -/
theorem State.engPass1_keeps {pq : List Instr} {s : State} {n : Nat} (hs : s.Keeps pq) :
    State.Keeps pq (State.engPass1 s n) := by
  unfold State.engPass1
  extract_lets e
  refine State.Keeps.ite ?_ ?_
  · exact (State.setEng_keeps hs)
  · exact hs

/-- engPass keeps a sound state and the queue. -/
theorem State.engPass_keeps {pq : List Instr} {s : State} {n : Nat} (hs : s.Keeps pq) :
    State.Keeps pq (State.engPass s n) := by
  unfold State.engPass
  refine State.Keeps.ite ?_ ?_
  · exact hs
  · exact (State.Keeps.overList (fun _ _ h1 => (State.engFirst_keeps (State.engPass1_keeps h1))) hs)

/-- engTrap keeps a sound state and the queue. -/
theorem State.engTrap_keeps {q : List Instr} {s : State} {n kind : Nat} {g : Option Nat} {lag : Nat} (h : s.Keeps q) :
    State.Keeps q (State.engTrap s n kind g lag) := by
  have fold : ∀ (f : Nat → Nat) (words : List Nat) (x : State × Nat), x.1.Keeps q →
      (words.foldl (fun (x : State × Nat) w => (x.1.wr (f x.2) (BitVec.ofNat 32 w), x.2 + 1)) x).1.Keeps q := by
    intro f words
    induction words with
    | nil => exact fun _ hx => hx
    | cons w ws ih => exact fun _ hx => ih _ (State.wr_keeps hx)
  unfold State.engTrap
  extract_lets e k done stk cause words s1 vec s2
  have h1 : State.Keeps q s1 := fold (R.STL_SAVE (24 * n + k)) words (s, 0) h
  exact State.wr_keeps (State.bump_keeps (State.setEng_keeps h1))

/-- engFaultTrap keeps a sound state and the queue. -/
theorem State.engFaultTrap_keeps {pq : List Instr} {s : State} {n : Nat} {kind : Nat} {c : LogCode} (hs : s.Keeps pq) :
    State.Keeps pq (State.engFaultTrap s n kind c) := by
  unfold State.engFaultTrap
  extract_lets s1 __src s2 e
  have h_s1 : State.Keeps pq s1 := (State.log_keeps hs)
  clear_value s1
  have h_s2 : State.Keeps pq s2 := by
    refine State.Keeps.ite ?_ ?_
    · exact (State.setEng_keeps h_s1)
    · exact h_s1
  clear_value s2
  refine State.Keeps.ite ?_ ?_
  · exact (State.engFault_keeps h_s2)
  · exact (State.pulse_keeps (State.bump_keeps (State.engTrap_keeps h_s2)))

/-- engBoth keeps a sound state and the queue. -/
theorem State.engBoth_keeps {pq : List Instr} {s : State} {n : Nat} {f : State → Nat → State} (hs : s.Keeps pq) (h_f : ∀ x0
    x1, State.Keeps pq x0 → State.Keeps pq (f x0 x1)) :
    State.Keeps pq (State.engBoth s n f) := by
  unfold State.engBoth
  refine State.Keeps.ite ?_ ?_
  · exact (h_f _ _ (h_f _ _ hs))
  · exact (h_f _ _ hs)

/-- trapRow keeps a sound state and the queue. -/
theorem State.trapRow_keeps {pq : List Instr} {s : State} {n : Nat} {c : TrapCause} (hs : s.Keeps pq) :
    State.Keeps pq (State.trapRow s n c) := by
  unfold State.trapRow
  extract_lets e on next
  refine State.Keeps.ite ?_ ?_
  · exact hs
  · split
    · refine State.Keeps.ite ?_ ?_
      · exact (State.engBoth_keeps hs (fun _ _ h1 => (State.engTrap_keeps h1)))
      · exact hs
    · split
      · refine State.Keeps.ite ?_ ?_
        · exact (State.claim_keeps (State.engBoth_keeps hs (fun _ _ h1 => (State.engTrap_keeps h1))))
        · exact hs
      · exact hs
    · refine State.Keeps.ite ?_ ?_
      · exact (State.engBoth_keeps hs (fun _ _ h1 => (State.engFaultTrap_keeps h1)))
      · exact hs
    · refine State.Keeps.ite ?_ ?_
      · exact (State.engBoth_keeps hs (fun _ _ h1 => (State.engFaultTrap_keeps h1)))
      · exact hs
    · refine State.Keeps.ite ?_ ?_
      · exact (State.engBoth_keeps hs (fun _ _ h1 => (State.engFaultTrap_keeps h1)))
      · exact hs

/-- engClear keeps a sound state and the queue. -/
theorem State.engClear_keeps {pq : List Instr} {s : State} {n : Nat} {st : EngSt} (hs : s.Keeps pq) :
    State.Keeps pq (State.engClear s n st) := by
  unfold State.engClear
  extract_lets e s1 s2
  have h_s1 : State.Keeps pq s1 := (State.Keeps.overList (fun _ _ h1 => (State.wr_keeps h1)) hs)
  clear_value s1
  have h_s2 : State.Keeps pq s2 := (State.Keeps.overList (fun _ _ h2 => (State.wr_keeps h2)) h_s1)
  clear_value s2
  exact (State.setEng_keeps h_s2)

/-- engReset keeps a sound state and the queue. -/
theorem State.engReset_keeps {pq : List Instr} {s : State} {n : Nat} (hs : s.Keeps pq) :
    State.Keeps pq (State.engReset s n) := by
  unfold State.engReset
  exact (State.endService_keeps (State.engClear_keeps hs))

/-- engRst keeps a sound state and the queue. -/
theorem State.engRst_keeps {pq : List Instr} {s : State} {n : Nat} {b : Bool} (hs : s.Keeps pq) :
    State.Keeps pq (State.engRst s n b) := by
  unfold State.engRst
  refine State.Keeps.ite ?_ ?_
  · exact hs
  · exact (State.engBoth_keeps hs (fun _ _ h1 => by
        extract_lets s1
        have h_s1 : State.Keeps pq s1 := (State.setB_keeps h1)
        clear_value s1
        refine State.Keeps.ite ?_ ?_
        · exact (State.engReset_keeps h_s1)
        · exact h_s1))

/-- engCall keeps a sound state and the queue. -/
theorem State.engCall_keeps {pq : List Instr} {s : State} {n : Nat} (hs : s.Keeps pq) :
    State.Keeps pq (State.engCall s n) := by
  unfold State.engCall
  extract_lets __src
  refine State.Keeps.ite ?_ ?_
  · exact hs
  · refine State.Keeps.ite ?_ ?_
    · exact (State.engClear_keeps hs)
    · exact (State.setEng_keeps hs)

/-- engPark keeps a sound state and the queue. -/
theorem State.engPark_keeps {pq : List Instr} {s : State} {n : Nat} {b : Bool} (hs : s.Keeps pq) :
    State.Keeps pq (State.engPark s n b) := by
  unfold State.engPark
  refine State.Keeps.ite ?_ ?_
  · exact hs
  · exact (State.engBoth_keeps hs (fun _ _ h1 => by
        extract_lets e s1
        have h_s1 : State.Keeps pq s1 := (State.setB_keeps h1)
        clear_value s1
        refine State.Keeps.ite ?_ ?_
        · refine State.Keeps.ite ?_ ?_
          · exact h_s1
          · exact (State.setEng_keeps h_s1)
        · refine State.Keeps.ite ?_ ?_
          · exact (State.engFirst_keeps (State.setEng_keeps h_s1))
          · exact h_s1))

/-- engTick1 keeps a sound state and the queue. -/
theorem State.engTick1_keeps {pq : List Instr} {s : State} {n : Nat} (hs : s.Keeps pq) :
    State.Keeps pq (State.engTick1 s n) := by
  unfold State.engTick1
  extract_lets e
  refine State.Keeps.ite ?_ ?_
  · exact hs
  · refine State.Keeps.ite ?_ ?_
    · exact (State.engClear_keeps hs)
    · refine State.Keeps.ite ?_ ?_
      · exact (State.engReset_keeps hs)
      · exact (State.engFirst_keeps hs)

/-- engTick keeps a sound state and the queue. -/
theorem State.engTick_keeps {pq : List Instr} {s : State} (hs : s.Keeps pq) :
    State.Keeps pq (State.engTick s) := by
  unfold State.engTick
  exact (State.Keeps.overList (fun _ _ h1 => (State.engTick1_keeps h1)) hs)

/-- engIdle1 keeps a sound state and the queue. -/
theorem State.engIdle1_keeps {pq : List Instr} {s : State} {n : Nat} (hs : s.Keeps pq) :
    State.Keeps pq (State.engIdle1 s n) := by
  unfold State.engIdle1
  extract_lets e
  refine State.Keeps.ite ?_ ?_
  · exact (State.setPart_keeps (State.setEng_keeps hs))
  · refine State.Keeps.ite ?_ ?_
    · exact hs
    · exact (State.setEng_keeps hs)

/-- engIdle keeps a sound state and the queue. -/
theorem State.engIdle_keeps {pq : List Instr} {s : State} (hs : s.Keeps pq) :
    State.Keeps pq (State.engIdle s) := by
  unfold State.engIdle
  exact (State.Keeps.overList (fun _ _ h1 => (State.engIdle1_keeps h1)) hs)

/-- engWake keeps a sound state and the queue. -/
theorem State.engWake_keeps {pq : List Instr} {s : State} (hs : s.Keeps pq) :
    State.Keeps pq (State.engWake s) := by
  unfold State.engWake
  exact (State.Keeps.overList (fun _ _ h1 => by
        extract_lets e
        refine State.Keeps.ite ?_ ?_
        · exact (State.setEng_keeps h1)
        · exact h1) hs)

/-- engCtl keeps a sound state and the queue. -/
theorem State.engCtl_keeps {pq : List Instr} {s : State} {n : Nat} {v : Word} (hs : s.Keeps pq) :
    State.Keeps pq (State.engCtl s n v) := by
  unfold State.engCtl
  refine State.Keeps.ite ?_ ?_
  · exact hs
  · exact (State.engBoth_keeps (State.engPark_keeps (State.engRst_keeps hs)) (fun _ _ h1 => (State.setB_keeps h1)))

end Sys2Proof.Machine
end

