-- ==== Sys2Proof/Laws/Keep/Runners.lean ====
section
/-! SUPPORT. Every operation of Machine/Runners.lean keeps a sound state and the queue of waiting commands. -/

namespace Sys2Proof.Machine

open Sys2Proof

/-- setRnTr keeps a sound state and the queue. -/
theorem State.setRnTr_keeps {pq : List Instr} {s : State} {n : Nat} {v : BitVec 24} (hs : s.Keeps pq) :
    State.Keeps pq (State.setRnTr s n v) := by
  unfold State.setRnTr
  exact (State.wr_keeps hs)

/-- setRnSr keeps a sound state and the queue. -/
theorem State.setRnSr_keeps {pq : List Instr} {s : State} {n : Nat} {v : BitVec 32} (hs : s.Keeps pq) :
    State.Keeps pq (State.setRnSr s n v) := by
  unfold State.setRnSr
  exact (State.setF_keeps (State.setF_keeps hs))

/-- rnEdge keeps a sound state and the queue. -/
theorem State.rnEdge_keeps {pq : List Instr} {s : State} {n : Nat} {k : Nat} {act : Nat} {at_ : Fine} (hs : s.Keeps pq) :
    State.Keeps pq (State.rnEdge s n k act at_) := by
  unfold State.rnEdge
  extract_lets p r l s1
  have h_s1 : State.Keeps pq s1 := (State.pulse_keeps (State.flag_keeps hs))
  clear_value s1
  refine State.Keeps.ite ?_ ?_
  · exact (State.flight_keeps hs)
  · refine State.Keeps.ite ?_ ?_
    · exact h_s1
    · exact (State.log_keeps (State.setRn_keeps h_s1))

/-- rnTimed keeps a sound state and the queue. -/
theorem State.rnTimed_keeps {pq : List Instr} {s : State} {n : Nat} {k : Nat} {act : Nat} {t : BitVec 24} (hs : s.Keeps pq) :
    State.Keeps pq (State.rnTimed s n k act t) := by
  unfold State.rnTimed
  extract_lets at_
  refine State.Keeps.ite ?_ ?_
  · exact (State.rnEdge_keeps hs)
  · exact (State.rnEdge_keeps (State.bump_keeps (State.flag_keeps hs)))

/-- rnUnreq keeps a sound state and the queue. -/
theorem State.rnUnreq_keeps {pq : List Instr} {s : State} {n : Nat} (hs : s.Keeps pq) :
    State.Keeps pq (State.rnUnreq s n) := by
  unfold State.rnUnreq
  extract_lets r
  refine State.Keeps.ite ?_ ?_
  · exact (State.setRn_keeps hs)
  · exact hs

/-- rnHaltNow keeps a sound state and the queue. -/
theorem State.rnHaltNow_keeps {pq : List Instr} {s : State} {n : Nat} (hs : s.Keeps pq) :
    State.Keeps pq (State.rnHaltNow s n) := by
  unfold State.rnHaltNow
  extract_lets s_1 __src
  have h_s_1 : State.Keeps pq s_1 := (State.rnUnreq_keeps hs)
  clear_value s_1
  exact (State.setRn_keeps h_s_1)

/-- rnFault keeps a sound state and the queue. -/
theorem State.rnFault_keeps {pq : List Instr} {s : State} {n : Nat} {parity : Bool} {addr : Nat} (hs : s.Keeps pq) :
    State.Keeps pq (State.rnFault s n parity addr) := by
  unfold State.rnFault
  extract_lets s1 __src s2
  have h_s1 : State.Keeps pq s1 := (State.rnUnreq_keeps (State.dropEdges_keeps hs))
  clear_value s1
  have h_s2 : State.Keeps pq s2 := (State.setRn_keeps h_s1)
  clear_value s2
  exact (State.log_keeps (State.pulse_keeps h_s2))

/-- rnStart keeps a sound state and the queue. -/
theorem State.rnStart_keeps {pq : List Instr} {s : State} {n : Nat} {entry : Nat} (hs : s.Keeps pq) :
    State.Keeps pq (State.rnStart s n entry) := by
  unfold State.rnStart
  extract_lets s_1 r s1 s2
  have h_s_1 : State.Keeps pq s_1 := (State.rnUnreq_keeps hs)
  clear_value s_1
  have h_s1 : State.Keeps pq s1 := (State.setF_keeps (State.setRnSr_keeps h_s_1))
  clear_value s1
  have h_s2 : State.Keeps pq s2 := (State.setB_keeps (State.setF_keeps h_s1))
  clear_value s2
  exact (State.setRn_keeps h_s2)

/-- rnNext keeps a sound state and the queue. -/
theorem State.rnNext_keeps {pq : List Instr} {s : State} {n : Nat} (hs : s.Keeps pq) :
    State.Keeps pq (State.rnNext s n) := by
  unfold State.rnNext
  extract_lets r
  exact (State.setRn_keeps hs)

/-- rnWaitOn keeps a sound state and the queue. -/
theorem State.rnWaitOn_keeps {pq : List Instr} {s : State} {n : Nat} {on : Nat} (hs : s.Keeps pq) :
    State.Keeps pq (State.rnWaitOn s n on) := by
  unfold State.rnWaitOn
  exact (State.setRn_keeps hs)

/-- rnFetch keeps a sound state and the queue. -/
theorem State.rnFetch_keeps {pq : List Instr} {s : State} {n : Nat} (hs : s.Keeps pq) :
    State.Keeps pq (State.rnFetch s n) := by
  unfold State.rnFetch
  extract_lets r
  exact (State.setRn_keeps hs)

/-- rnIssue keeps a sound state and the queue. -/
theorem State.rnIssue_keeps {pq : List Instr} {s : State} {n : Nat} {op : RnOp} {bad : Bool} {f : State → Nat → State} (hs :
    s.Keeps pq) (h_f : ∀ x0 x1, State.Keeps pq x0 → State.Keeps pq (f x0 x1)) :
    State.Keeps pq (State.rnIssue s n op bad f) := by
  unfold State.rnIssue
  extract_lets r w s1 __src
  have h_s1 : State.Keeps pq s1 := (State.rnFetch_keeps hs)
  clear_value s1
  refine State.Keeps.ite ?_ ?_
  · exact hs
  · refine State.Keeps.ite ?_ ?_
    · exact (State.rnFault_keeps (State.setRn_keeps h_s1))
    · refine State.Keeps.ite ?_ ?_
      · exact (State.rnFault_keeps (State.rnFetch_keeps hs))
      · refine State.Keeps.ite ?_ ?_
        · exact hs
        · exact (h_f _ _ (State.setRn_keeps h_s1))

/-- rnQuick keeps a sound state and the queue. -/
theorem State.rnQuick_keeps {pq : List Instr} {s : State} {n : Nat} {op : RnOp} {bad : Bool} {f : State → Nat → State} (hs :
    s.Keeps pq) (h_f : ∀ x0 x1, State.Keeps pq x0 → State.Keeps pq (f x0 x1)) :
    State.Keeps pq (State.rnQuick s n op bad f) := by
  unfold State.rnQuick
  exact (State.rnIssue_keeps hs (fun _ _ h1 => (State.rnNext_keeps (h_f _ _ h1))))

/-- rnWaitEnds keeps a sound state and the queue. -/
theorem State.rnWaitEnds_keeps {pq : List Instr} {s : State} {n : Nat} {w : Nat} (hs : s.Keeps pq) :
    State.Keeps pq (State.rnWaitEnds s n w) := by
  unfold State.rnWaitEnds
  refine State.rnNext_keeps ?_
  refine State.Keeps.ite ?_ ?_
  · exact (State.unflag_keeps hs)
  · exact hs

/-- rnPushNow keeps a sound state and the queue. -/
theorem State.rnPushNow_keeps {pq : List Instr} {s : State} {n : Nat} {w : Nat} (hs : s.Keeps pq) :
    State.Keeps pq (State.rnPushNow s n w) := by
  unfold State.rnPushNow
  extract_lets v
  exact (State.rnNext_keeps (State.agentPush_keeps hs))

/-- rnPullNow keeps a sound state and the queue. -/
theorem State.rnPullNow_keeps {pq : List Instr} {s : State} {n : Nat} {w : Nat} (hs : s.Keeps pq) :
    State.Keeps pq (State.rnPullNow s n w) := by
  unfold State.rnPullNow
  extract_lets q_1 auto had
  split
  rename_i t1 _ _ e1
  have k1 : State.Keeps pq t1 := State.Keeps.fst e1 (State.agentPull_keeps hs)
  extract_lets s2 __src s3 s4
  have h_s2 : State.Keeps pq s2 := by
    refine State.Keeps.ite ?_ ?_
    · exact (State.trgRelease_keeps k1)
    · exact k1
  clear_value s2
  have h_s3 : State.Keeps pq s3 := (State.setRn_keeps h_s2)
  clear_value s3
  have h_s4 : State.Keeps pq s4 := by
    unfold s4
    split
    · exact (State.setRnSr_keeps h_s3)
    · exact (State.setRnSr_keeps h_s3)
    · exact (State.setF_keeps h_s3)
    · exact (State.setF_keeps h_s3)
    · exact (State.setRnTr_keeps h_s3)
    · exact (State.setF_keeps h_s3)
    · exact (State.setF_keeps h_s3)
  clear_value s4
  exact (State.rnNext_keeps h_s4)

/-- rnShiftIn keeps a sound state and the queue. -/
theorem State.rnShiftIn_keeps {pq : List Instr} {s : State} {n : Nat} {lsb : Bool} {b : Bool} (hs : s.Keeps pq) :
    State.Keeps pq (State.rnShiftIn s n lsb b) := by
  unfold State.rnShiftIn
  extract_lets sr v
  exact (State.setRnSr_keeps hs)

/-- rnBitTimes keeps a sound state and the queue. -/
theorem State.rnBitTimes_keeps {pq : List Instr} {s : State} {n : Nat} (hs : s.Keeps pq) :
    State.Keeps pq (State.rnBitTimes s n) := by
  unfold State.rnBitTimes
  extract_lets t __src
  exact (State.setRn_keeps hs)

/-- rnShiftEnd keeps a sound state and the queue. -/
theorem State.rnShiftEnd_keeps {pq : List Instr} {s : State} {n : Nat} (hs : s.Keeps pq) :
    State.Keeps pq (State.rnShiftEnd s n) := by
  unfold State.rnShiftEnd
  extract_lets r
  refine State.Keeps.ite ?_ ?_
  · exact (State.rnNext_keeps hs)
  · exact hs

/-- rnShiftBit keeps a sound state and the queue. -/
theorem State.rnShiftBit_keeps {pq : List Instr} {s : State} {n : Nat} {level : Bool} (hs : s.Keeps pq) :
    State.Keeps pq (State.rnShiftBit s n level) := by
  unfold State.rnShiftBit
  extract_lets r w inp out bit idle lsb high lvl sampleDue ob s1 s2 s3 at_ r3 s1_1 s2_1 __src s3_1
  have h_s1 : State.Keeps pq s1 := (State.rnTimed_keeps hs)
  clear_value s1
  have h_s2 : State.Keeps pq s2 := by
    refine State.Keeps.ite ?_ ?_
    · exact (State.rnTimed_keeps h_s1)
    · exact h_s1
  clear_value s2
  have h_s3 : State.Keeps pq s3 := by
    refine State.Keeps.ite ?_ ?_
    · exact (State.rnShiftIn_keeps h_s2)
    · exact h_s2
  clear_value s3
  have h_s1_1 : State.Keeps pq s1_1 := (State.rnTimed_keeps hs)
  clear_value s1_1
  have h_s2_1 : State.Keeps pq s2_1 := (State.setF_keeps (State.setRnTr_keeps h_s1_1))
  clear_value s2_1
  have h_s3_1 : State.Keeps pq s3_1 := (State.setRn_keeps h_s2_1)
  clear_value s3_1
  clear_value sampleDue
  split
  · exact (State.rnShiftEnd_keeps (State.setRn_keeps (State.rnShiftIn_keeps hs)))
  · refine State.Keeps.ite ?_ ?_
    · exact (State.rnShiftEnd_keeps hs)
    · refine State.Keeps.ite ?_ ?_
      · refine State.Keeps.ite ?_ ?_
        · exact hs
        · exact (State.setRn_keeps h_s3)
      · refine State.Keeps.ite ?_ ?_
        · exact hs
        · exact (State.rnShiftEnd_keeps (State.rnBitTimes_keeps h_s3_1))

/-- rnTake keeps a sound state and the queue. -/
theorem State.rnTake_keeps {pq : List Instr} {s : State} {n : Nat} (hs : s.Keeps pq) :
    State.Keeps pq (State.rnTake s n) := by
  unfold State.rnTake
  exact (State.bump_keeps (State.setRn_keeps hs))

/-- rnPinRow keeps a sound state and the queue. -/
theorem State.rnPinRow_keeps {pq : List Instr} {s : State} {n : Nat} {bad : Bool} (hs : s.Keeps pq) :
    State.Keeps pq (State.rnPinRow s n bad) := by
  unfold State.rnPinRow
  exact (State.rnIssue_keeps hs (fun _ _ h1 => by
        refine State.Keeps.ite ?_ ?_
        · exact (State.rnNext_keeps (State.rnEdge_keeps h1))
        · refine State.Keeps.ite ?_ ?_
          · exact (State.rnNext_keeps (State.rnTimed_keeps h1))
          · exact (State.rnWaitOn_keeps h1)))

/-- rnTimedRow keeps a sound state and the queue. -/
theorem State.rnTimedRow_keeps {pq : List Instr} {s : State} {n : Nat} (hs : s.Keeps pq) :
    State.Keeps pq (State.rnTimedRow s n) := by
  unfold State.rnTimedRow
  extract_lets r
  refine State.Keeps.ite ?_ ?_
  · exact (State.rnNext_keeps (State.rnTimed_keeps hs))
  · exact hs

/-- rnWaitRow keeps a sound state and the queue. -/
theorem State.rnWaitRow_keeps {pq : List Instr} {s : State} {n : Nat} {bad : Bool} (hs : s.Keeps pq) :
    State.Keeps pq (State.rnWaitRow s n bad) := by
  unfold State.rnWaitRow
  exact (State.rnIssue_keeps hs (fun _ _ h1 => by
        extract_lets __src s_1 kind
        have h_s_1 : State.Keeps pq s_1 := (State.setRn_keeps h1)
        clear_value s_1
        refine State.Keeps.ite ?_ ?_
        · exact (State.rnWaitEnds_keeps h_s_1)
        · exact (State.rnWaitOn_keeps h_s_1)))

/-- rnWaitEndRow keeps a sound state and the queue. -/
theorem State.rnWaitEndRow_keeps {pq : List Instr} {s : State} {n : Nat} {level : Bool} {trgBad : Bool} (hs : s.Keeps pq) :
    State.Keeps pq (State.rnWaitEndRow s n level trgBad) := by
  unfold State.rnWaitEndRow
  extract_lets r
  refine State.Keeps.ite ?_ ?_
  · exact hs
  · split
    · refine State.Keeps.ite ?_ ?_
      · exact (State.rnWaitEnds_keeps hs)
      · exact hs
    · refine State.Keeps.ite ?_ ?_
      · exact (State.rnPushNow_keeps hs)
      · exact hs
    · refine State.Keeps.ite ?_ ?_
      · exact (State.rnPullNow_keeps (State.spoil_keeps hs))
      · exact hs
    · refine State.Keeps.ite ?_ ?_
      · exact hs
      · exact (State.rnNext_keeps hs)
    · exact hs

/-- rnJmpRow keeps a sound state and the queue. -/
theorem State.rnJmpRow_keeps {pq : List Instr} {s : State} {n : Nat} {level : Bool} {bad : Bool} (hs : s.Keeps pq) :
    State.Keeps pq (State.rnJmpRow s n level bad) := by
  unfold State.rnJmpRow
  exact (State.rnQuick_keeps hs (fun _ _ h1 => by
        extract_lets la lb take s1 __src
        have h_s1 : State.Keeps pq s1 := by
          unfold s1
          split
          · exact (State.setF_keeps h1)
          · exact (State.setF_keeps h1)
          · exact h1
        clear_value s1
        refine State.Keeps.ite ?_ ?_
        · exact h1
        · exact (State.setRn_keeps h_s1)))

/-- rnShiftRow keeps a sound state and the queue. -/
theorem State.rnShiftRow_keeps {pq : List Instr} {s : State} {n : Nat} {level : Bool} {bad : Bool} (hs : s.Keeps pq) :
    State.Keeps pq (State.rnShiftRow s n level bad) := by
  unfold State.rnShiftRow
  exact (State.rnIssue_keeps hs (fun _ _ h1 => by
        extract_lets __src s1
        have h_s1 : State.Keeps pq s1 := (State.setF_keeps (State.setRn_keeps h1))
        clear_value s1
        exact (State.rnShiftBit_keeps (State.rnWaitOn_keeps (State.rnBitTimes_keeps h_s1)))))

/-- rnGo keeps a sound state and the queue. -/
theorem State.rnGo_keeps {pq : List Instr} {s : State} {n : Nat} (hs : s.Keeps pq) :
    State.Keeps pq (State.rnGo s n) := by
  unfold State.rnGo
  refine State.Keeps.ite ?_ ?_
  · exact (State.rnStart_keeps hs)
  · exact hs

/-- rnRestart keeps a sound state and the queue. -/
theorem State.rnRestart_keeps {pq : List Instr} {s : State} {n : Nat} (hs : s.Keeps pq) :
    State.Keeps pq (State.rnRestart s n) := by
  unfold State.rnRestart
  exact (State.rnStart_keeps hs)

/-- rnStop keeps a sound state and the queue. -/
theorem State.rnStop_keeps {pq : List Instr} {s : State} {n : Nat} (hs : s.Keeps pq) :
    State.Keeps pq (State.rnStop s n) := by
  unfold State.rnStop
  refine State.Keeps.ite ?_ ?_
  · exact hs
  · exact (State.rnHaltNow_keeps hs)

/-- rnPark keeps a sound state and the queue. -/
theorem State.rnPark_keeps {pq : List Instr} {s : State} {n : Nat} {b : Bool} (hs : s.Keeps pq) :
    State.Keeps pq (State.rnPark s n b) := by
  unfold State.rnPark
  exact (State.setB_keeps hs)

/-- rnCtl keeps a sound state and the queue. -/
theorem State.rnCtl_keeps {pq : List Instr} {s : State} {n : Nat} {v : Word} (hs : s.Keeps pq) :
    State.Keeps pq (State.rnCtl s n v) := by
  unfold State.rnCtl
  extract_lets s1 s2 s3
  have h_s1 : State.Keeps pq s1 := (State.wr_keeps hs)
  clear_value s1
  have h_s2 : State.Keeps pq s2 := by
    refine State.Keeps.ite ?_ ?_
    · exact (State.rnStop_keeps h_s1)
    · exact h_s1
  clear_value s2
  have h_s3 : State.Keeps pq s3 := by
    refine State.Keeps.ite ?_ ?_
    · exact (State.rnGo_keeps h_s2)
    · exact h_s2
  clear_value s3
  refine State.Keeps.ite ?_ ?_
  · exact (State.rnRestart_keeps h_s3)
  · exact h_s3

/-- rnInject keeps a sound state and the queue. -/
theorem State.rnInject_keeps {pq : List Instr} {s : State} {n : Nat} {v : Word} (hs : s.Keeps pq) :
    State.Keeps pq (State.rnInject s n v) := by
  unfold State.rnInject
  extract_lets r
  refine State.Keeps.ite ?_ ?_
  · exact (State.flag_keeps hs)
  · exact (State.setRn_keeps (State.setF_keeps hs))

/-- rnFlags keeps a sound state and the queue. -/
theorem State.rnFlags_keeps {pq : List Instr} {s : State} {n : Nat} {set : Bool} {v : Word} (hs : s.Keeps pq) :
    State.Keeps pq (State.rnFlags s n set v) := by
  unfold State.rnFlags
  extract_lets m
  exact (State.wr_keeps hs)

/-- rnProg keeps a sound state and the queue. -/
theorem State.rnProg_keeps {pq : List Instr} {s : State} {n : Nat} {i : Nat} {v : Word} (hs : s.Keeps pq) :
    State.Keeps pq (State.rnProg s n i v) := by
  unfold State.rnProg
  extract_lets r
  exact (State.setRn_keeps (State.wr_keeps hs))

/-- rnPins keeps a sound state and the queue. -/
theorem State.rnPins_keeps {pq : List Instr} {s : State} {n : Nat} {b : Bool} {v : Word} (hs : s.Keeps pq) :
    State.Keeps pq (State.rnPins s n b v) := by
  unfold State.rnPins
  extract_lets a s1 r
  have h_s1 : State.Keeps pq s1 := (State.wr_keeps hs)
  clear_value s1
  exact (State.setRn_keeps h_s1)

/-- rnService keeps a sound state and the queue. -/
theorem State.rnService_keeps {pq : List Instr} {s : State} {bad : List (Fin 32 × Fin 128)} (hs : s.Keeps pq) :
    State.Keeps pq (State.rnService s bad) := by
  unfold State.rnService
  extract_lets live s1 s2
  have h_s1 : State.Keeps pq s1 := (State.Keeps.overList (fun _ _ h1 => by
        extract_lets __src
        refine State.Keeps.ite ?_ ?_
        · exact (State.setRn_keeps h1)
        · exact h1) hs)
  clear_value s1
  have h_s2 : State.Keeps pq s2 := (State.Keeps.overList (fun _ _ h2 => by
        split
        · exact h2
        · refine State.Keeps.ite ?_ ?_
          · exact h2
          · exact (State.rnFault_keeps h2)) h_s1)
  clear_value s2
  refine State.Keeps.ite ?_ ?_
  · exact hs
  · exact (State.partDone_keeps h_s2)

end Sys2Proof.Machine
end

