-- ==== Sys2Proof/Laws/Keep/TroughCtl.lean ====
section
/-! SUPPORT. Every operation of Machine/TroughCtl.lean keeps a sound state and the queue of waiting commands. -/

namespace Sys2Proof.Machine

open Sys2Proof

/-- cutDma keeps a sound state and the queue. -/
theorem State.cutDma_keeps {pq : List Instr} {s : State} {q : Nat} (hs : s.Keeps pq) :
    State.Keeps pq (State.cutDma s q) := by
  unfold State.cutDma
  exact (State.Keeps.overList (fun _ _ h1 => by
        extract_lets c
        exact (State.setCh_keeps h1)) hs)

/-- cutRunners keeps a sound state and the queue. -/
theorem State.cutRunners_keeps {pq : List Instr} {s : State} {q : Nat} (hs : s.Keeps pq) :
    State.Keeps pq (State.cutRunners s q) := by
  unfold State.cutRunners
  exact (State.Keeps.overList (fun _ _ h1 => by
        extract_lets r here
        refine State.Keeps.ite ?_ ?_
        · exact (State.setRn_keeps h1)
        · exact h1) hs)

/-- cutEngines keeps a sound state and the queue. -/
theorem State.cutEngines_keeps {pq : List Instr} {s : State} {q : Nat} (hs : s.Keeps pq) :
    State.Keeps pq (State.cutEngines s q) := by
  unfold State.cutEngines
  exact (State.Keeps.overList (fun _ _ h1 => by
        extract_lets e x
        refine State.Keeps.ite ?_ ?_
        · exact (State.setEng_keeps h1)
        · exact h1) hs)

/-- trgDisable keeps a sound state and the queue. -/
theorem State.trgDisable_keeps {pq : List Instr} {s : State} {q : Nat} (hs : s.Keeps pq) :
    State.Keeps pq (State.trgDisable s q) := by
  unfold State.trgDisable
  extract_lets mine __src s1 s2
  have h___src : State.Keeps pq __src := (State.setB_keeps hs)
  have h_s1 : State.Keeps pq s1 := (State.trgWaits_keeps h___src)
  clear_value s1
  have h_s2 : State.Keeps pq s2 := (State.Keeps.overList (fun _ _ h3 => by
        refine State.Keeps.ite ?_ ?_
        · exact (State.trgDrop_keeps h3)
        · exact (State.deliver_keeps h3)) h_s1)
  clear_value s2
  exact (State.cutEngines_keeps (State.cutRunners_keeps (State.cutDma_keeps h_s2)))

/-- trgSetEn keeps a sound state and the queue. -/
theorem State.trgSetEn_keeps {pq : List Instr} {s : State} {q : Nat} {b : Bool} (hs : s.Keeps pq) :
    State.Keeps pq (State.trgSetEn s q b) := by
  unfold State.trgSetEn
  refine State.Keeps.ite ?_ ?_
  · refine State.Keeps.ite ?_ ?_
    · exact (State.trgDisable_keeps hs)
    · exact hs
  · refine State.Keeps.ite ?_ ?_
    · exact hs
    · refine State.Keeps.ite ?_ ?_
      · exact (State.log_keeps (State.trgSet_keeps hs))
      · exact (State.setB_keeps hs)

/-- trgCtl keeps a sound state and the queue. -/
theorem State.trgCtl_keeps {pq : List Instr} {s : State} {q : Nat} {v : Word} (hs : s.Keeps pq) :
    State.Keeps pq (State.trgCtl s q v) := by
  unfold State.trgCtl
  extract_lets s1 s2 s3
  have h_s1 : State.Keeps pq s1 := (State.trgSetEn_keeps hs)
  clear_value s1
  have h_s2 : State.Keeps pq s2 := by
    refine State.Keeps.ite ?_ ?_
    · exact (State.trgFlush_keeps h_s1)
    · exact h_s1
  clear_value s2
  have h_s3 : State.Keeps pq s3 := by
    refine State.Keeps.ite ?_ ?_
    · exact (State.trgRewind_keeps h_s2)
    · exact h_s2
  clear_value s3
  refine State.Keeps.ite ?_ ?_
  · exact (State.trgMark_keeps h_s3)
  · exact h_s3

end Sys2Proof.Machine
end

