-- ==== Sys2Proof/Laws/Keep/MbxCore.lean ====
section
/-! SUPPORT. Every operation of Machine/MbxCore.lean keeps a sound state and the queue of waiting commands. -/

namespace Sys2Proof.Machine

open Sys2Proof

/-- showHold keeps a sound state and the queue. -/
theorem State.showHold_keeps {pq : List Instr} {s : State} {c : Nat} (hs : s.Keeps pq) :
    State.Keeps pq (State.showHold s c) := by
  unfold State.showHold
  extract_lets n w s1
  have h_s1 : State.Keeps pq s1 := (State.setF_keeps hs)
  clear_value s1
  refine State.Keeps.ite ?_ ?_
  · exact (State.setF_keeps h_s1)
  · exact h_s1

/-- releaseHold keeps a sound state and the queue. -/
theorem State.releaseHold_keeps {pq : List Instr} {s : State} {c : Nat} (hs : s.Keeps pq) :
    State.Keeps pq (State.releaseHold s c) := by
  unfold State.releaseHold
  refine State.Keeps.ite ?_ ?_
  · exact hs
  · exact (State.pulse_keeps (State.showHold_keeps (State.setHold_keeps hs)))

/-- holdOne keeps a sound state and the queue. -/
theorem State.holdOne_keeps {pq : List Instr} {s : State} {c : Nat} (hs : s.Keeps pq) :
    State.Keeps pq (State.holdOne s c) := by
  unfold State.holdOne
  extract_lets h
  exact (State.showHold_keeps (State.setHold_keeps hs))

/-- modPulse keeps a sound state and the queue. -/
theorem State.modPulse_keeps {pq : List Instr} {s : State} {c : Nat} (hs : s.Keeps pq) :
    State.Keeps pq (State.modPulse s c) := by
  unfold State.modPulse
  extract_lets s1 __src s2 __src_1
  have h_s1 : State.Keeps pq s1 := (State.holdOne_keeps hs)
  clear_value s1
  have h___src : State.Keeps pq __src := (State.setB_keeps h_s1)
  have h_s2 : State.Keeps pq s2 := (State.wakeLow_keeps h___src)
  clear_value s2
  refine State.Keeps.ite ?_ ?_
  · exact (State.pulse_keeps hs)
  · refine State.Keeps.ite ?_ ?_
    · refine State.Keeps.ite ?_ ?_
      · refine State.Keeps.ite ?_ ?_
        · exact (State.pcie_keeps h_s2)
        · exact h_s2
      · exact h_s1
    · refine State.Keeps.ite ?_ ?_
      · exact (State.pulse_keeps hs)
      · refine State.Keeps.ite ?_ ?_
        · exact (State.releaseHold_keeps h_s1)
        · exact h_s1

/-- modExpire keeps a sound state and the queue. -/
theorem State.modExpire_keeps {pq : List Instr} {s : State} {c : Nat} (hs : s.Keeps pq) :
    State.Keeps pq (State.modExpire s c) := by
  unfold State.modExpire
  extract_lets h
  refine State.Keeps.ite ?_ ?_
  · exact (State.releaseHold_keeps hs)
  · exact hs

/-- handBack keeps a sound state and the queue. -/
theorem State.handBack_keeps {pq : List Instr} {s : State} {p : Nat} (hs : s.Keeps pq) :
    State.Keeps pq (State.handBack s p) := by
  unfold State.handBack
  extract_lets x
  refine State.Keeps.ite ?_ ?_
  · exact (State.setPage_keeps hs)
  · exact hs

/-- writeResult keeps a sound state and the queue. -/
theorem State.writeResult_keeps {pq : List Instr} {s : State} {page : Nat} {status : Nat} {detail : Nat} {result : List Nat}
    (hs : s.Keeps pq) :
    State.Keeps pq (State.writeResult s page status detail result) := by
  unfold State.writeResult
  extract_lets o s1 h
  have h_s1 : State.Keeps pq s1 := (State.yardPutBytes_keeps hs)
  clear_value s1
  refine State.Keeps.ite ?_ ?_
  · exact hs
  · exact (State.yardPutBytes_keeps h_s1)

/-- slotDone keeps a sound state and the queue. -/
theorem State.slotDone_keeps {pq : List Instr} {s : State} {m : Nat} (hs : s.Keeps pq) :
    State.Keeps pq (State.slotDone s m) := by
  unfold State.slotDone
  extract_lets s1
  have h_s1 : State.Keeps pq s1 := (State.setF_keeps hs)
  clear_value s1
  exact (State.Keeps.overList (fun _ _ h2 => (State.setMb_keeps h2)) h_s1)

/-- windowDone keeps a sound state and the queue. -/
theorem State.windowDone_keeps {pq : List Instr} {s : State} {status : Nat} {result : List Nat} (hs : s.Keeps pq) :
    State.Keeps pq (State.windowDone s status result) := by
  unfold State.windowDone
  extract_lets put halves img __src __src_1
  have h___src : State.Keeps pq __src := (State.setMb_keeps hs)
  exact (State.fr_keeps h___src)

/-- endCommand keeps a sound state and the queue. -/
theorem State.endCommand_keeps {pq : List Instr} {s : State} {src : Nat} {status : Nat} {detail : Nat} {result : List Nat}
    {free_ : Bool} (hs : s.Keeps pq) :
    State.Keeps pq (State.endCommand s src status detail result free_) := by
  unfold State.endCommand
  split
  · exact hs
  · extract_lets lost detail_1 result_1 status_1 s1 __src s2 s3
    have h_s1 : State.Keeps pq s1 := (State.Keeps.overList (fun _ _ h1 => (State.handBack_keeps h1))
        (State.writeResult_keeps hs))
    clear_value s1
    have h_s2 : State.Keeps pq s2 := (State.setMb_keeps (State.handBack_keeps h_s1))
    clear_value s2
    have h_s3 : State.Keeps pq s3 := (State.slotDone_keeps (State.setB_keeps h_s2))
    clear_value s3
    refine State.Keeps.ite ?_ ?_
    · exact (State.windowDone_keeps hs)
    · refine State.Keeps.ite ?_ ?_
      · refine State.Keeps.ite ?_ ?_
        · exact (State.pulse_keeps h_s3)
        · exact (State.modPulse_keeps h_s3)
      · exact h_s3

/-- complete keeps a sound state and the queue. -/
theorem State.complete_keeps {pq : List Instr} {s : State} {src : Nat} {status : Nat} {detail : Nat} {result : List Nat} (hs
    : s.Keeps pq) :
    State.Keeps pq (State.complete s src status detail result) := by
  unfold State.complete
  exact (State.endCommand_keeps hs)

/-- setSvc keeps a sound state and the queue. -/
theorem State.setSvc_keeps {pq : List Instr} {s : State} {src : Nat} {v : Svc} (hs : s.Keeps pq) :
    State.Keeps pq (State.setSvc s src v) := by
  unfold State.setSvc
  exact (State.setMb_keeps hs)

/-- finish keeps a sound state and the queue. -/
theorem State.finish_keeps {pq : List Instr} {s : State} {src : Nat} {items : List Nat} {result : List Nat} (hs : s.Keeps pq) :
    State.Keeps pq (State.finish s src items result) := by
  unfold State.finish
  split
  · exact hs
  · refine State.Keeps.ite ?_ ?_
    · exact (State.setSvc_keeps hs)
    · exact (State.complete_keeps hs)

/-- finishCommitted keeps a sound state and the queue. -/
theorem State.finishCommitted_keeps {pq : List Instr} {s : State} {items : List Nat} (hs : s.Keeps pq) :
    State.Keeps pq (State.finishCommitted s items) := by
  unfold State.finishCommitted
  exact (State.Keeps.overList (fun _ _ h1 => by
        split
        · extract_lets left
          refine State.Keeps.ite ?_ ?_
          · exact h1
          · refine State.Keeps.ite ?_ ?_
            · exact (State.complete_keeps h1)
            · exact (State.setSvc_keeps h1)
        · exact h1) hs)

end Sys2Proof.Machine
end

