-- ==== Sys2Proof/Laws/Keep/Logger.lean ====
section
/-! SUPPORT. Every operation of Machine/Logger.lean keeps a sound state and the queue of waiting commands. -/

namespace Sys2Proof.Machine

open Sys2Proof

/-- logOne keeps a sound state and the queue. -/
theorem State.logOne_keeps {q : List Instr} {s : State} (h : s.Keeps q) : State.Keeps q (State.logOne s) := by
  have hl := h.1.2.1
  unfold State.logOne
  refine State.Keeps.ite h (State.Keeps.ite ?_ (State.logNext_keeps h))
  split
  · rename_i r _
    exact State.logEntry_keeps (State.Keeps.same
      (State.logQ_keeps (l := s.logQ.erase r) (Nat.le_trans List.length_erase_le hl) h) rfl)
  · exact h

end Sys2Proof.Machine
end

