-- ==== Sys2Proof/Laws/Keep/Valves.lean ====
section
/-! SUPPORT. Every operation of Machine/Valves.lean keeps a sound state and the queue of waiting commands. -/

namespace Sys2Proof.Machine

open Sys2Proof

/-- gateEdge keeps a sound state and the queue. -/
theorem State.gateEdge_keeps {pq : List Instr} {s : State} {n : Nat} {on : Bool} (hs : s.Keeps pq) :
    State.Keeps pq (State.gateEdge s n on) := by
  unfold State.gateEdge
  extract_lets x t line
  exact (State.setPin_keeps hs)

/-- gateSettle keeps a sound state and the queue. -/
theorem State.gateSettle_keeps {pq : List Instr} {s : State} {n : Nat} (hs : s.Keeps pq) :
    State.Keeps pq (State.gateSettle s n) := by
  unfold State.gateSettle
  extract_lets v on s1
  have h_s1 : State.Keeps pq s1 := by
    refine State.Keeps.ite ?_ ?_
    · exact hs
    · exact (State.gateEdge_keeps hs)
  clear_value s1
  exact (State.setVlv_keeps h_s1)

/-- bankSettle keeps a sound state and the queue. -/
theorem State.bankSettle_keeps {pq : List Instr} {s : State} {b : Nat} (hs : s.Keeps pq) :
    State.Keeps pq (State.bankSettle s b) := by
  unfold State.bankSettle
  extract_lets s1 k want k1 rests k2 s2
  have h_s1 : State.Keeps pq s1 := (State.Keeps.overList (fun _ _ h1 => (State.gateSettle_keeps h1)) hs)
  clear_value s1
  have h_s2 : State.Keeps pq s2 := (State.setBk_keeps h_s1)
  clear_value s2
  exact (State.setBk_keeps h_s2)

/-- deadPast keeps a sound state and the queue. -/
theorem State.deadPast_keeps {pq : List Instr} {s : State} (hs : s.Keeps pq) :
    State.Keeps pq (State.deadPast s) := by
  unfold State.deadPast
  exact (State.Keeps.overList (fun _ _ h1 => by
        extract_lets k
        exact (State.setBk_keeps h1)) hs)

/-- vFail keeps a sound state and the queue. -/
theorem State.vFail_keeps {pq : List Instr} {s : State} {o : VOwner} {status : Nat} {detail : Nat} (hs : s.Keeps pq) :
    State.Keeps pq (State.vFail s o status detail) := by
  unfold State.vFail
  split
  · exact hs
  · exact (State.complete_keeps hs)

/-- vOk keeps a sound state and the queue. -/
theorem State.vOk_keeps {pq : List Instr} {s : State} {n : Nat} {o : VOwner} (hs : s.Keeps pq) :
    State.Keeps pq (State.vOk s n o) := by
  unfold State.vOk
  extract_lets st
  split
  · exact hs
  · extract_lets op
    exact (State.complete_keeps hs)

/-- unqueue keeps a sound state and the queue. -/
theorem State.unqueue_keeps {pq : List Instr} {s : State} {n : Nat} (hs : s.Keeps pq) :
    State.Keeps pq (State.unqueue s n) := by
  unfold State.unqueue
  extract_lets b __src
  exact (State.setBk_keeps hs)

/-- cancelWait keeps a sound state and the queue. -/
theorem State.cancelWait_keeps {pq : List Instr} {s : State} {n : Nat} {f : State → VOwner → State} (hs : s.Keeps pq) (h_f :
    ∀ x0 x1, State.Keeps pq x0 → State.Keeps pq (f x0 x1)) :
    State.Keeps pq (State.cancelWait s n f) := by
  unfold State.cancelWait
  extract_lets v s1
  have h_s1 : State.Keeps pq s1 := (State.setVlv_keeps (State.unqueue_keeps hs))
  clear_value s1
  split
  · exact hs
  · exact (h_f _ _ h_s1)

/-- cancelEnd keeps a sound state and the queue. -/
theorem State.cancelEnd_keeps {pq : List Instr} {s : State} {n : Nat} (hs : s.Keeps pq) :
    State.Keeps pq (State.cancelEnd s n) := by
  unfold State.cancelEnd
  exact (State.cancelWait_keeps hs (fun _ _ h1 => (State.vOk_keeps h1)))

/-- cancelState keeps a sound state and the queue. -/
theorem State.cancelState_keeps {pq : List Instr} {s : State} {n : Nat} (hs : s.Keeps pq) :
    State.Keeps pq (State.cancelState s n) := by
  unfold State.cancelState
  exact (State.cancelWait_keeps hs (fun _ _ h1 => (State.vFail_keeps h1)))

/-- setTStart keeps a sound state and the queue. -/
theorem State.setTStart_keeps {pq : List Instr} {s : State} {n : Nat} (hs : s.Keeps pq) :
    State.Keeps pq (State.setTStart s n) := by
  unfold State.setTStart
  exact (State.setF_keeps (State.setF_keeps hs))

/-- grant keeps a sound state and the queue. -/
theorem State.grant_keeps {pq : List Instr} {s : State} {n : Nat} (hs : s.Keeps pq) :
    State.Keeps pq (State.grant s n) := by
  unfold State.grant
  extract_lets b v __src
  split
  · exact hs
  · extract_lets ts dur v1 s1 s2 s3
    have h_s1 : State.Keeps pq s1 := (State.setBk_keeps (State.setVlv_keeps hs))
    clear_value s1
    have h_s2 : State.Keeps pq s2 := (State.setTStart_keeps (State.setF_keeps h_s1))
    clear_value s2
    have h_s3 : State.Keeps pq s3 := (State.bump_keeps h_s2)
    clear_value s3
    exact (State.vOk_keeps h_s3)

/-- boostFree keeps a sound state and the queue. -/
theorem State.boostFree_keeps {pq : List Instr} {s : State} {n : Nat} (hs : s.Keeps pq) :
    State.Keeps pq (State.boostFree s n) := by
  unfold State.boostFree
  extract_lets b k s1 s2
  have h_s1 : State.Keeps pq s1 := (State.setBk_keeps hs)
  clear_value s1
  have h_s2 : State.Keeps pq s2 := (State.setF_keeps h_s1)
  clear_value s2
  refine State.Keeps.ite ?_ ?_
  · exact hs
  · split
    · exact h_s2
    · exact (State.grant_keeps h_s2)

/-- conflict keeps a sound state and the queue. -/
theorem State.conflict_keeps {pq : List Instr} {s : State} {n : Nat} {o : VOwner} (hs : s.Keeps pq) :
    State.Keeps pq (State.conflict s n o) := by
  unfold State.conflict
  extract_lets b h s1
  have h_s1 : State.Keeps pq s1 := (State.bump_keeps (State.bump_keeps (State.setB_keeps hs)))
  clear_value s1
  exact (State.vFail_keeps (State.log_keeps (State.pulse_keeps h_s1)))

/-- graceEnd keeps a sound state and the queue. -/
theorem State.graceEnd_keeps {pq : List Instr} {s : State} {n : Nat} (hs : s.Keeps pq) :
    State.Keeps pq (State.graceEnd s n) := by
  unfold State.graceEnd
  split
  · exact hs
  · refine State.Keeps.ite ?_ ?_
    · exact (State.cancelWait_keeps hs (fun _ _ h1 => (State.conflict_keeps h1)))
    · exact hs

/-- queueBoost keeps a sound state and the queue. -/
theorem State.queueBoost_keeps {pq : List Instr} {s : State} {n : Nat} (hs : s.Keeps pq) :
    State.Keeps pq (State.queueBoost s n) := by
  unfold State.queueBoost
  extract_lets b q_1 later __src
  exact (State.setBk_keeps hs)

/-- decay keeps a sound state and the queue. -/
theorem State.decay_keeps {pq : List Instr} {s : State} {n : Nat} (hs : s.Keeps pq) :
    State.Keeps pq (State.decay s n) := by
  unfold State.decay
  extract_lets v v1
  refine State.Keeps.ite ?_ ?_
  · exact hs
  · exact (State.boostFree_keeps (State.setVlv_keeps hs))

/-- vIdle keeps a sound state and the queue. -/
theorem State.vIdle_keeps {pq : List Instr} {s : State} {n : Nat} (hs : s.Keeps pq) :
    State.Keeps pq (State.vIdle s n) := by
  unfold State.vIdle
  extract_lets v
  split
  · exact (State.setVlv_keeps hs)
  · exact (State.setVlv_keeps hs)

/-- vOff keeps a sound state and the queue. -/
theorem State.vOff_keeps {pq : List Instr} {s : State} {n : Nat} (hs : s.Keeps pq) :
    State.Keeps pq (State.vOff s n) := by
  unfold State.vOff
  exact (State.bankSettle_keeps (State.decay_keeps (State.cancelEnd_keeps hs)))

/-- vStop keeps a sound state and the queue. -/
theorem State.vStop_keeps {pq : List Instr} {s : State} {n : Nat} (hs : s.Keeps pq) :
    State.Keeps pq (State.vStop s n) := by
  unfold State.vStop
  exact (State.bankSettle_keeps (State.decay_keeps (State.cancelState_keeps hs)))

/-- vEndAll keeps a sound state and the queue. -/
theorem State.vEndAll_keeps {pq : List Instr} {s : State} {l : List Nat} {cancel : State → Nat → State} {stop : State → Nat
    → State} (hs : s.Keeps pq) (h_cancel : ∀ x0 x1, State.Keeps pq x0 → State.Keeps pq (cancel x0 x1)) (h_stop : ∀ x0 x1,
    State.Keeps pq x0 → State.Keeps pq (stop x0 x1)) :
    State.Keeps pq (State.vEndAll s l cancel stop) := by
  unfold State.vEndAll
  exact (State.Keeps.overList (fun _ _ h1 => (h_stop _ _ h1)) (State.Keeps.overList (fun _ _ h1 => (h_cancel _ _ h1)) hs))

/-- cancelSupply keeps a sound state and the queue. -/
theorem State.cancelSupply_keeps {pq : List Instr} {s : State} {n : Nat} (hs : s.Keeps pq) :
    State.Keeps pq (State.cancelSupply s n) := by
  unfold State.cancelSupply
  extract_lets v s1 __src
  have h_s1 : State.Keeps pq s1 := (State.cancelState_keeps hs)
  clear_value s1
  split
  · exact hs
  · refine State.Keeps.ite ?_ ?_
    · exact (State.setVlv_keeps h_s1)
    · exact h_s1

/-- vEndEv keeps a sound state and the queue. -/
theorem State.vEndEv_keeps {pq : List Instr} {s : State} {n : Nat} {o : VOwner} {t : Fine} (hs : s.Keeps pq) :
    State.Keeps pq (State.vEndEv s n o t) := by
  unfold State.vEndEv
  extract_lets v mine s1 __src s2
  have h_s1 : State.Keeps pq s1 := by
    refine State.Keeps.ite ?_ ?_
    · exact (State.cancelEnd_keeps hs)
    · exact hs
  clear_value s1
  have h_s2 : State.Keeps pq s2 := (State.setVlv_keeps h_s1)
  clear_value s2
  refine State.Keeps.ite ?_ ?_
  · exact hs
  · refine State.bankSettle_keeps ?_
    refine State.Keeps.ite ?_ ?_
    · exact (State.decay_keeps h_s2)
    · exact h_s1

/-- vDurEnd keeps a sound state and the queue. -/
theorem State.vDurEnd_keeps {pq : List Instr} {s : State} {n : Nat} (hs : s.Keeps pq) :
    State.Keeps pq (State.vDurEnd s n) := by
  unfold State.vDurEnd
  extract_lets v waits s1
  have h_s1 : State.Keeps pq s1 := by
    refine State.Keeps.ite ?_ ?_
    · exact (State.cancelEnd_keeps hs)
    · exact hs
  clear_value s1
  refine State.bankSettle_keeps ?_
  split
  · refine State.Keeps.ite ?_ ?_
    · exact (State.decay_keeps h_s1)
    · exact h_s1
  · exact h_s1

/-- vForce keeps a sound state and the queue. -/
theorem State.vForce_keeps {pq : List Instr} {s : State} {n : Nat} {sh : Nat} {slot : Nat} (hs : s.Keeps pq) :
    State.Keeps pq (State.vForce s n sh slot) := by
  unfold State.vForce
  extract_lets s1 __src
  have h_s1 : State.Keeps pq s1 := (State.vStop_keeps hs)
  clear_value s1
  exact (State.setVlv_keeps h_s1)

/-- vUnforce keeps a sound state and the queue. -/
theorem State.vUnforce_keeps {pq : List Instr} {s : State} {gone : Nat × Nat → Bool} (hs : s.Keeps pq) :
    State.Keeps pq (State.vUnforce s gone) := by
  unfold State.vUnforce
  exact (State.Keeps.overList (fun _ _ h1 => (State.setVlv_keeps h1)) hs)

/-- abortTest keeps a sound state and the queue. -/
theorem State.abortTest_keeps {pq : List Instr} {s : State} {n : Nat} (hs : s.Keeps pq) :
    State.Keeps pq (State.abortTest s n) := by
  unfold State.abortTest
  extract_lets b __src s0 __src_1 s1
  have h_s0 : State.Keeps pq s0 := (State.setVlv_keeps hs)
  clear_value s0
  have h_s1 : State.Keeps pq s1 := (State.setBk_keeps h_s0)
  clear_value s1
  refine State.Keeps.ite ?_ ?_
  · exact h_s0
  · exact (State.Keeps.overList (fun _ _ h3 => by
        refine State.Keeps.ite ?_ ?_
        · exact (State.bump_keeps h3)
        · exact h3) h_s1)

/-- vSkip keeps a sound state and the queue. -/
theorem State.vSkip_keeps {pq : List Instr} {s : State} {n : Nat} {o : VOwner} {p : VProf} {dur : Nat} (hs : s.Keeps pq) :
    State.Keeps pq (State.vSkip s n o p dur) := by
  unfold State.vSkip
  extract_lets v again end_ v1 s1 __src s2
  have h_s1 : State.Keeps pq s1 := (State.boostFree_keeps (State.setVlv_keeps hs))
  clear_value s1
  have h_s2 : State.Keeps pq s2 := (State.setTStart_keeps (State.setVlv_keeps h_s1))
  clear_value s2
  exact (State.vOk_keeps (State.bump_keeps h_s2))

/-- vBegin keeps a sound state and the queue. -/
theorem State.vBegin_keeps {pq : List Instr} {s : State} {n : Nat} {o : VOwner} {p : VProf} {dur : Nat} (hs : s.Keeps pq) :
    State.Keeps pq (State.vBegin s n o p dur) := by
  unfold State.vBegin
  extract_lets b s1 v again w
  have h_s1 : State.Keeps pq s1 := (State.cancelWait_keeps hs (fun _ _ h1 => (State.vFail_keeps h1)))
  clear_value s1
  refine State.Keeps.ite ?_ ?_
  · exact (State.vSkip_keeps h_s1)
  · refine State.Keeps.ite ?_ ?_
    · exact (State.grant_keeps (State.setVlv_keeps h_s1))
    · refine State.Keeps.ite ?_ ?_
      · exact (State.conflict_keeps h_s1)
      · exact (State.queueBoost_keeps (State.setVlv_keeps h_s1))

/-- vExtend keeps a sound state and the queue. -/
theorem State.vExtend_keeps {pq : List Instr} {s : State} {n : Nat} {o : VOwner} {dur : Nat} (hs : s.Keeps pq) :
    State.Keeps pq (State.vExtend s n o dur) := by
  unfold State.vExtend
  extract_lets v s1 end_
  have h_s1 : State.Keeps pq s1 := (State.bump_keeps hs)
  clear_value s1
  refine State.Keeps.ite ?_ ?_
  · split
    · exact h_s1
    · extract_lets s2
      have h_s2 : State.Keeps pq s2 := (State.setVlv_keeps h_s1)
      clear_value s2
      exact (State.vOk_keeps h_s2)
  · exact (State.vOk_keeps (State.setVlv_keeps h_s1))

/-- vStart keeps a sound state and the queue. -/
theorem State.vStart_keeps {pq : List Instr} {s0 : State} {n : Nat} {o : VOwner} {p : Nat} {dur : Nat} (h_s0 : s0.Keeps pq) :
    State.Keeps pq (State.vStart s0 n o p dur) := by
  unfold State.vStart
  extract_lets b s v s2 s2_1 s1
  have h_s : State.Keeps pq s := (State.abortTest_keeps h_s0)
  clear_value s
  have h_s2 : State.Keeps pq s2 := by
    refine State.Keeps.ite ?_ ?_
    · exact (State.bump_keeps h_s)
    · exact h_s
  clear_value s2
  have h_s2_1 : State.Keeps pq s2_1 := (State.pulse_keeps (State.setB_keeps (State.setB_keeps h_s)))
  clear_value s2_1
  have h_s1 : State.Keeps pq s1 := by
    refine State.Keeps.ite ?_ ?_
    · refine State.vFail_keeps ?_
      refine State.Keeps.ite ?_ ?_
      · exact h_s2
      · exact (State.setB_keeps h_s2)
    · refine State.Keeps.ite ?_ ?_
      · exact (State.vFail_keeps h_s)
      · refine State.Keeps.ite ?_ ?_
        · exact (State.vFail_keeps (State.logOnce_keeps h_s2_1))
        · refine State.Keeps.ite ?_ ?_
          · exact (State.vExtend_keeps h_s)
          · refine State.Keeps.ite ?_ ?_
            · exact (State.vFail_keeps (State.log_keeps (State.vStop_keeps h_s)))
            · refine State.Keeps.ite ?_ ?_
              · exact (State.vFail_keeps (State.logOnce_keeps (State.pulse_keeps (State.setB_keeps h_s))))
              · exact (State.vBegin_keeps h_s)
  clear_value s1
  exact (State.bankSettle_keeps h_s1)

/-- doseStart keeps a sound state and the queue. -/
theorem State.doseStart_keeps {pq : List Instr} {s : State} {a : Act} (hs : s.Keeps pq) :
    State.Keeps pq (State.doseStart s a) := by
  unfold State.doseStart
  extract_lets n key rival __src s1
  have h_s1 : State.Keeps pq s1 := (State.setVlv_keeps hs)
  clear_value s1
  refine State.Keeps.ite ?_ ?_
  · exact hs
  · exact (State.vStart_keeps h_s1)

/-- toPeak keeps a sound state and the queue. -/
theorem State.toPeak_keeps {pq : List Instr} {s : State} {n : Nat} (hs : s.Keeps pq) :
    State.Keeps pq (State.toPeak s n) := by
  unfold State.toPeak
  exact (State.boostFree_keeps (State.setVlv_keeps hs))

/-- phaseOnResult keeps a sound state and the queue. -/
theorem State.phaseOnResult_keeps {pq : List Instr} {s : State} {n : Nat} (hs : s.Keeps pq) :
    State.Keeps pq (State.phaseOnResult s n) := by
  unfold State.phaseOnResult
  extract_lets v
  refine State.Keeps.ite ?_ ?_
  · exact hs
  · split
    · refine State.Keeps.ite ?_ ?_
      · exact (State.toPeak_keeps hs)
      · exact hs
    · exact (State.setVlv_keeps hs)
    · exact (State.setVlv_keeps hs)
    · refine State.Keeps.ite ?_ ?_
      · exact (State.setVlv_keeps hs)
      · exact hs
    · refine State.Keeps.ite ?_ ?_
      · exact (State.vIdle_keeps hs)
      · exact hs
    · exact hs

/-- takeSample keeps a sound state and the queue. -/
theorem State.takeSample_keeps {pq : List Instr} {s : State} {n : Nat} {code : Nat} (hs : s.Keeps pq) :
    State.Keeps pq (State.takeSample s n code) := by
  unfold State.takeSample
  extract_lets v x rests v1 peak s1
  have h_s1 : State.Keeps pq s1 := (State.note_keeps (State.setF_keeps (State.setVlv_keeps hs)))
  clear_value s1
  exact (State.wr_keeps h_s1)

/-- bstTimeout keeps a sound state and the queue. -/
theorem State.bstTimeout_keeps {pq : List Instr} {s : State} {n : Nat} (hs : s.Keeps pq) :
    State.Keeps pq (State.bstTimeout s n) := by
  unfold State.bstTimeout
  extract_lets v s1
  have h_s1 : State.Keeps pq s1 := (State.pulse_keeps (State.setB_keeps (State.toPeak_keeps hs)))
  clear_value s1
  refine State.Keeps.ite ?_ ?_
  · exact (State.bankSettle_keeps (State.logOnce_keeps h_s1))
  · exact hs

/-- peakEnd keeps a sound state and the queue. -/
theorem State.peakEnd_keeps {pq : List Instr} {s : State} {n : Nat} (hs : s.Keeps pq) :
    State.Keeps pq (State.peakEnd s n) := by
  unfold State.peakEnd
  extract_lets v
  refine State.Keeps.ite ?_ ?_
  · exact (State.bankSettle_keeps (State.setVlv_keeps hs))
  · exact hs

/-- capEndV keeps a sound state and the queue. -/
theorem State.capEndV_keeps {pq : List Instr} {s : State} {n : Nat} (hs : s.Keeps pq) :
    State.Keeps pq (State.capEndV s n) := by
  unfold State.capEndV
  extract_lets v
  refine State.Keeps.ite ?_ ?_
  · exact (State.bankSettle_keeps (State.decay_keeps hs))
  · exact hs

/-- decayTimeout keeps a sound state and the queue. -/
theorem State.decayTimeout_keeps {pq : List Instr} {s : State} {n : Nat} (hs : s.Keeps pq) :
    State.Keeps pq (State.decayTimeout s n) := by
  unfold State.decayTimeout
  extract_lets v
  refine State.Keeps.ite ?_ ?_
  · exact (State.bankSettle_keeps (State.vIdle_keeps (State.log_keeps (State.setB_keeps hs))))
  · exact hs

/-- bstCompare keeps a sound state and the queue. -/
theorem State.bstCompare_keeps {pq : List Instr} {s : State} (hs : s.Keeps pq) :
    State.Keeps pq (State.bstCompare s) := by
  unfold State.bstCompare
  extract_lets v watched ov low s1 s2 charging s3 __src
  have h_s1 : State.Keeps pq s1 := by
    refine State.Keeps.ite ?_ ?_
    · exact (State.log_keeps (State.pulse_keeps (State.setB_keeps hs)))
    · exact hs
  clear_value s1
  have h_s2 : State.Keeps pq s2 := by
    refine State.Keeps.ite ?_ ?_
    · exact (State.log_keeps (State.pulse_keeps (State.setB_keeps h_s1)))
    · exact h_s1
  clear_value s2
  have h_s3 : State.Keeps pq s3 := (State.setB_keeps (State.setB_keeps (State.setB_keeps h_s2)))
  clear_value s3
  exact (State.bst_keeps h_s3)

/-- vbstAt keeps a sound state and the queue. -/
theorem State.vbstAt_keeps {pq : List Instr} {s : State} {code : Nat} (hs : s.Keeps pq) :
    State.Keeps pq (State.vbstAt s code) := by
  unfold State.vbstAt
  exact (State.bstCompare_keeps (State.bst_keeps hs))

/-- bstPulse keeps a sound state and the queue. -/
theorem State.bstPulse_keeps {pq : List Instr} {s : State} {e : BoostEdge} (hs : s.Keeps pq) :
    State.Keeps pq (State.bstPulse s e) := by
  unfold State.bstPulse
  extract_lets __src
  split
  · refine State.Keeps.ite ?_ ?_
    · exact (State.bump_keeps (State.bst_keeps hs))
    · exact hs
  · refine State.Keeps.ite ?_ ?_
    · exact (State.bst_keeps hs)
    · exact hs
  · split
    · refine State.Keeps.ite ?_ ?_
      · exact (State.bst_keeps hs)
      · exact hs
    · exact hs

/-- valveCommit keeps a sound state and the queue. -/
theorem State.valveCommit_keeps {pq : List Instr} {s : State} (hs : s.Keeps pq) :
    State.Keeps pq (State.valveCommit s) := by
  unfold State.valveCommit
  extract_lets ends s1
  have h_s1 : State.Keeps pq s1 := (State.vEndAll_keeps hs (fun _ _ h1 => (State.cancelState_keeps h1)) (fun _ _ h1 =>
      (State.vStop_keeps h1)))
  clear_value s1
  exact (State.bstCompare_keeps (State.Keeps.overList (fun _ _ h2 => by
        extract_lets rest __src
        refine State.bankSettle_keeps ?_
        refine State.Keeps.ite ?_ ?_
        · exact (State.setBk_keeps h2)
        · exact h2) h_s1))

/-- valveSense keeps a sound state and the queue. -/
theorem State.valveSense_keeps {pq : List Instr} {s : State} (hs : s.Keeps pq) :
    State.Keeps pq (State.valveSense s) := by
  unfold State.valveSense
  exact (State.Keeps.overList (fun _ _ h1 => by
        extract_lets v s1
        have h_s1 : State.Keeps pq s1 := (State.setF_keeps (State.setF_keeps h1))
        clear_value s1
        refine State.Keeps.ite ?_ ?_
        · exact h1
        · exact (State.setVlv_keeps h_s1)) hs)

end Sys2Proof.Machine
end

