-- ==== Sys2Proof/Laws/Keep/VlvDiag.lean ====
section
/-! SUPPORT. Every operation of Machine/VlvDiag.lean keeps a sound state and the queue of waiting commands. -/

namespace Sys2Proof.Machine

open Sys2Proof

/-- vlog keeps a sound state and the queue. -/
theorem State.vlog_keeps {pq : List Instr} {s : State} {c : LogCode} {n : Nat} (hs : s.Keeps pq) :
    State.Keeps pq (State.vlog s c n) := by
  unfold State.vlog
  exact (State.log_keeps hs)

/-- lockNow keeps a sound state and the queue. -/
theorem State.lockNow_keeps {pq : List Instr} {s : State} {n : Nat} (hs : s.Keeps pq) :
    State.Keeps pq (State.lockNow s n) := by
  unfold State.lockNow
  extract_lets s1 v s2
  have h_s1 : State.Keeps pq s1 := (State.cancelState_keeps hs)
  clear_value s1
  have h_s2 : State.Keeps pq s2 := (State.boostFree_keeps (State.setVlv_keeps h_s1))
  clear_value s2
  exact (State.setB_keeps h_s2)

/-- lock keeps a sound state and the queue. -/
theorem State.lock_keeps {pq : List Instr} {s : State} {n : Nat} {c : Nat} (hs : s.Keeps pq) :
    State.Keeps pq (State.lock s n c) := by
  unfold State.lock
  refine State.Keeps.ite ?_ ?_
  · exact hs
  · exact (State.pulse_keeps (State.lockNow_keeps (State.flag_keeps hs)))

/-- lockBank keeps a sound state and the queue. -/
theorem State.lockBank_keeps {pq : List Instr} {s : State} {b : Nat} (hs : s.Keeps pq) :
    State.Keeps pq (State.lockBank s b) := by
  unfold State.lockBank
  exact (State.vEndAll_keeps hs (fun _ _ h1 => (State.cancelState_keeps h1)) (fun _ _ h1 => (State.lock_keeps h1)))

/-- unlockCause keeps a sound state and the queue. -/
theorem State.unlockCause_keeps {pq : List Instr} {s : State} {n : Nat} {c : Nat} (hs : s.Keeps pq) :
    State.Keeps pq (State.unlockCause s n c) := by
  unfold State.unlockCause
  extract_lets s0 __src s1 __src_1
  have h_s0 : State.Keeps pq s0 := (State.unflag_keeps hs)
  clear_value s0
  have h_s1 : State.Keeps pq s1 := by
    refine State.Keeps.ite ?_ ?_
    · exact (State.setVlv_keeps h_s0)
    · exact h_s0
  clear_value s1
  refine State.Keeps.ite ?_ ?_
  · exact h_s1
  · exact (State.setB_keeps (State.setVlv_keeps h_s1))

/-- sticky keeps a sound state and the queue. -/
theorem State.sticky_keeps {pq : List Instr} {s : State} {n : Nat} (hs : s.Keeps pq) :
    State.Keeps pq (State.sticky s n) := by
  unfold State.sticky
  exact (State.setB_keeps hs)

/-- showTemp keeps a sound state and the queue. -/
theorem State.showTemp_keeps {pq : List Instr} {s : State} {n : Nat} (hs : s.Keeps pq) :
    State.Keeps pq (State.showTemp s n) := by
  unfold State.showTemp
  extract_lets v
  exact (State.setF_keeps (State.setF_keeps hs))

/-- coilCommit keeps a sound state and the queue. -/
theorem State.coilCommit_keeps {pq : List Instr} {s : State} {n : Nat} (hs : s.Keeps pq) :
    State.Keeps pq (State.coilCommit s n) := by
  unfold State.coilCommit
  extract_lets v s1 s1_1 t0 v1
  have h_s1 : State.Keeps pq s1 := (State.setVlv_keeps hs)
  clear_value s1
  have h_s1_1 : State.Keeps pq s1_1 := (State.setVlv_keeps hs)
  clear_value s1_1
  refine State.Keeps.ite ?_ ?_
  · exact (State.bankSettle_keeps (State.unlockCause_keeps (State.setB_keeps (State.setB_keeps h_s1))))
  · refine State.Keeps.ite ?_ ?_
    · exact (State.log_keeps (State.setB_keeps h_s1_1))
    · exact (State.showTemp_keeps (State.setB_keeps (State.setVlv_keeps hs)))

/-- coilLatch keeps a sound state and the queue. -/
theorem State.coilLatch_keeps {pq : List Instr} {s : State} (hs : s.Keeps pq) :
    State.Keeps pq (State.coilLatch s) := by
  unfold State.coilLatch
  exact (State.Keeps.overList (fun _ _ h1 => (State.setVlv_keeps h1)) hs)

/-- coilBeat keeps a sound state and the queue. -/
theorem State.coilBeat_keeps {pq : List Instr} {s : State} {n : Nat} (hs : s.Keeps pq) :
    State.Keeps pq (State.coilBeat s n) := by
  unfold State.coilBeat
  extract_lets v w k p shunt isq alpha dtw rhot pw qwb qba tw tb s1
  have h_s1 : State.Keeps pq s1 := (State.showTemp_keeps (State.setVlv_keeps hs))
  clear_value s1
  exact (State.setF_keeps (State.setF_keeps h_s1))

/-- valveModel keeps a sound state and the queue. -/
theorem State.valveModel_keeps {pq : List Instr} {s : State} (hs : s.Keeps pq) :
    State.Keeps pq (State.valveModel s) := by
  unfold State.valveModel
  extract_lets s1
  have h_s1 : State.Keeps pq s1 := (State.partDone_keeps (State.Keeps.overList (fun _ _ h1 => by
        extract_lets __src s1_1
        have h_s1_1 : State.Keeps pq s1_1 := (State.setVlv_keeps h1)
        clear_value s1_1
        refine State.Keeps.ite ?_ ?_
        · exact h1
        · refine State.Keeps.ite ?_ ?_
          · exact (State.log_keeps (State.vStop_keeps (State.setB_keeps h_s1_1)))
          · exact (State.coilBeat_keeps h1)) hs))
  clear_value s1
  refine State.Keeps.ite ?_ ?_
  · exact hs
  · refine State.Keeps.ite ?_ ?_
    · exact (State.coilLatch_keeps h_s1)
    · exact h_s1

/-- coilDecide keeps a sound state and the queue. -/
theorem State.coilDecide_keeps {pq : List Instr} {s : State} {n : Nat} (hs : s.Keeps pq) :
    State.Keeps pq (State.coilDecide s n) := by
  unfold State.coilDecide
  extract_lets v s0 warn hot s1 s2
  have h_s0 : State.Keeps pq s0 := (State.setVlv_keeps hs)
  clear_value s0
  have h_s1 : State.Keeps pq s1 := by
    refine State.Keeps.ite ?_ ?_
    · refine State.Keeps.ite ?_ ?_
      · exact h_s0
      · exact (State.pulse_keeps (State.vlog_keeps (State.sticky_keeps (State.setB_keeps h_s0))))
    · refine State.Keeps.ite ?_ ?_
      · exact (State.setB_keeps h_s0)
      · exact h_s0
  clear_value s1
  have h_s2 : State.Keeps pq s2 := by
    refine State.Keeps.ite ?_ ?_
    · refine State.Keeps.ite ?_ ?_
      · exact h_s1
      · exact (State.lock_keeps (State.sticky_keeps (State.vlog_keeps h_s1)))
    · refine State.Keeps.ite ?_ ?_
      · exact (State.unlockCause_keeps h_s1)
      · exact h_s1
  clear_value s2
  refine State.Keeps.ite ?_ ?_
  · exact hs
  · exact (State.bankSettle_keeps h_s2)

/-- coilDecisions keeps a sound state and the queue. -/
theorem State.coilDecisions_keeps {pq : List Instr} {s : State} (hs : s.Keeps pq) :
    State.Keeps pq (State.coilDecisions s) := by
  unfold State.coilDecisions
  exact (State.vEndAll_keeps hs (fun _ _ h1 => by
        refine State.Keeps.ite ?_ ?_
        · exact (State.cancelState_keeps h1)
        · exact h1) (fun _ _ h1 => (State.coilDecide_keeps h1)))

/-- shortSupOn keeps a sound state and the queue. -/
theorem State.shortSupOn_keeps {pq : List Instr} {s : State} {n : Nat} (hs : s.Keeps pq) :
    State.Keeps pq (State.shortSupOn s n) := by
  unfold State.shortSupOn
  extract_lets s1 s2
  have h_s1 : State.Keeps pq s1 := (State.sticky_keeps (State.setF_keeps hs))
  clear_value s1
  have h_s2 : State.Keeps pq s2 := by
    refine State.Keeps.ite ?_ ?_
    · exact h_s1
    · exact (State.vlog_keeps h_s1)
  clear_value s2
  exact (State.bankSettle_keeps (State.lock_keeps h_s2))

/-- senseResult keeps a sound state and the queue. -/
theorem State.senseResult_keeps {pq : List Instr} {s : State} {n : Nat} {code : Nat} (hs : s.Keeps pq) :
    State.Keeps pq (State.senseResult s n code) := by
  unfold State.senseResult
  extract_lets s1
  have h_s1 : State.Keeps pq s1 := (State.takeSample_keeps hs)
  clear_value s1
  refine State.Keeps.ite ?_ ?_
  · exact hs
  · refine State.Keeps.ite ?_ ?_
    · exact (State.shortSupOn_keeps h_s1)
    · exact (State.bankSettle_keeps (State.phaseOnResult_keeps h_s1))

/-- overcurrent keeps a sound state and the queue. -/
theorem State.overcurrent_keeps {pq : List Instr} {s : State} {n : Nat} (hs : s.Keeps pq) :
    State.Keeps pq (State.overcurrent s n) := by
  unfold State.overcurrent
  extract_lets blank
  refine State.Keeps.ite ?_ ?_
  · exact (State.shortSupOn_keeps hs)
  · exact hs

/-- openCheck keeps a sound state and the queue. -/
theorem State.openCheck_keeps {pq : List Instr} {s : State} {n : Nat} (hs : s.Keeps pq) :
    State.Keeps pq (State.openCheck s n) := by
  unfold State.openCheck
  extract_lets v long
  refine State.Keeps.ite ?_ ?_
  · exact (State.bankSettle_keeps (State.setVlv_keeps hs))
  · exact hs

/-- flybackEnd keeps a sound state and the queue. -/
theorem State.flybackEnd_keeps {pq : List Instr} {s : State} {n : Nat} {high : Bool} (hs : s.Keeps pq) :
    State.Keeps pq (State.flybackEnd s n high) := by
  unfold State.flybackEnd
  extract_lets v s0 s1 s2 s1_1 s2_1 s3 __src s4
  have h_s0 : State.Keeps pq s0 := (State.sticky_keeps (State.setVlv_keeps hs))
  clear_value s0
  have h_s1 : State.Keeps pq s1 := (State.setF_keeps h_s0)
  clear_value s1
  have h_s2 : State.Keeps pq s2 := by
    refine State.Keeps.ite ?_ ?_
    · exact h_s1
    · exact (State.vlog_keeps h_s1)
  clear_value s2
  have h_s1_1 : State.Keeps pq s1_1 := (State.setF_keeps h_s0)
  clear_value s1_1
  have h_s2_1 : State.Keeps pq s2_1 := by
    refine State.Keeps.ite ?_ ?_
    · exact h_s1_1
    · exact (State.vlog_keeps h_s1_1)
  clear_value s2_1
  have h_s3 : State.Keeps pq s3 := (State.Keeps.overList (fun _ _ h6 => (State.cancelState_keeps h6)) h_s2_1)
  clear_value s3
  have h_s4 : State.Keeps pq s4 := (State.lock_keeps (State.setVlv_keeps h_s3))
  clear_value s4
  split
  · exact hs
  · refine State.Keeps.ite ?_ ?_
    · exact hs
    · refine State.Keeps.ite ?_ ?_
      · refine State.bankSettle_keeps ?_
        refine State.Keeps.ite ?_ ?_
        · exact (State.lock_keeps h_s2)
        · exact (State.decay_keeps h_s2)
      · exact (State.bankSettle_keeps (State.lockBank_keeps h_s4))

/-- testStart keeps a sound state and the queue. -/
theorem State.testStart_keeps {pq : List Instr} {s : State} {b : Nat} (hs : s.Keeps pq) :
    State.Keeps pq (State.testStart s b) := by
  unfold State.testStart
  extract_lets k quiet apart
  refine State.Keeps.ite ?_ ?_
  · exact (State.setBk_keeps hs)
  · exact hs

/-- testPu keeps a sound state and the queue. -/
theorem State.testPu_keeps {pq : List Instr} {s : State} {b : Nat} {node : NodeClass} {ds : List NodeClass} (hs : s.Keeps pq) :
    State.Keeps pq (State.testPu s b node ds) := by
  unfold State.testPu
  extract_lets k
  split
  · refine State.Keeps.ite ?_ ?_
    · exact (State.setBk_keeps hs)
    · exact hs
  · exact hs

/-- judgePend keeps a sound state and the queue. -/
theorem State.judgePend_keeps {pq : List Instr} {s : State} {b : Nat} {mid : Bool} {vs : List (Nat × Verdict)} (hs : s.Keeps
    pq) :
    State.Keeps pq (State.judgePend s b mid vs) := by
  unfold State.judgePend
  extract_lets short ground
  exact (State.Keeps.overList (fun _ _ h1 => by
        extract_lets v ok seen left s1 good
        have h_s1 : State.Keeps pq s1 := (State.setB_keeps (State.setVlv_keeps h1))
        clear_value s1
        refine State.Keeps.ite ?_ ?_
        · exact h1
        · exact (State.Keeps.overList (fun _ _ h3 => by
        refine State.Keeps.ite ?_ ?_
        · exact (State.unlockCause_keeps h3)
        · exact h3) h_s1)) hs)

/-- actVerdict keeps a sound state and the queue. -/
theorem State.actVerdict_keeps {pq : List Instr} {s : State} {n : Nat} {x : Verdict} {was : Verdict} (hs : s.Keeps pq) :
    State.Keeps pq (State.actVerdict s n x was) := by
  unfold State.actVerdict
  extract_lets __src s0 rise s1 s2 code s3
  have h_s0 : State.Keeps pq s0 := (State.setVlv_keeps hs)
  clear_value s0
  have h_s1 : State.Keeps pq s1 := (State.setF_keeps h_s0)
  clear_value s1
  have h_s2 : State.Keeps pq s2 := (State.sticky_keeps h_s1)
  clear_value s2
  have h_s3 : State.Keeps pq s3 := by
    refine State.Keeps.ite ?_ ?_
    · exact (State.logOnceFor_keeps h_s2)
    · exact h_s2
  clear_value s3
  refine State.Keeps.ite ?_ ?_
  · exact (State.setF_keeps h_s0)
  · refine State.Keeps.ite ?_ ?_
    · exact h_s0
    · split
      · refine State.Keeps.ite ?_ ?_
        · refine State.Keeps.ite ?_ ?_
          · exact h_s2
          · exact (State.lock_keeps (State.vlog_keeps h_s2))
        · refine State.Keeps.ite ?_ ?_
          · exact (State.vlog_keeps h_s2)
          · exact h_s2
      · refine State.Keeps.ite ?_ ?_
        · exact h_s2
        · exact (State.lock_keeps (State.vlog_keeps h_s2))
      · refine State.Keeps.ite ?_ ?_
        · exact h_s2
        · exact (State.lock_keeps (State.vlog_keeps h_s2))
      · refine State.Keeps.ite ?_ ?_
        · exact (State.pulse_keeps (State.vlog_keeps h_s2))
        · exact h_s2
      · exact (State.lockBank_keeps h_s3)
      · exact (State.lockBank_keeps h_s3)
      · exact h_s2

/-- testPd keeps a sound state and the queue. -/
theorem State.testPd_keeps {pq : List Instr} {s : State} {b : Nat} {node : NodeClass} {ds : List NodeClass} (hs : s.Keeps pq) :
    State.Keeps pq (State.testPd s b node ds) := by
  unfold State.testPd
  extract_lets k bank out
  split
  · extract_lets chans vs nodeV k1 s1 s2 s3
    have h_s1 : State.Keeps pq s1 := (State.Keeps.overList (fun _ _ h1 => (State.bump_keeps h1)) (State.setBk_keeps hs))
    clear_value s1
    have h_s2 : State.Keeps pq s2 := (State.judgePend_keeps h_s1)
    clear_value s2
    have h_s3 : State.Keeps pq s3 := (State.Keeps.overList (fun _ _ h3 => (State.setVlv_keeps h3)) h_s2)
    clear_value s3
    refine State.Keeps.ite ?_ ?_
    · exact hs
    · exact (State.bankSettle_keeps (State.Keeps.overList (fun _ _ h4 => (State.actVerdict_keeps h4)) h_s3))
  · exact hs

/-- pendUnlock keeps a sound state and the queue. -/
theorem State.pendUnlock_keeps {pq : List Instr} {s : State} {n : Nat} {c : Nat} (hs : s.Keeps pq) :
    State.Keeps pq (State.pendUnlock s n c) := by
  unfold State.pendUnlock
  exact (State.setB_keeps (State.setVlv_keeps hs))

/-- unlock keeps a sound state and the queue. -/
theorem State.unlock_keeps {pq : List Instr} {s : State} {n : Nat} (hs : s.Keeps pq) :
    State.Keeps pq (State.unlock s n) := by
  unfold State.unlock
  extract_lets s1 auto s2 s3 s4
  have h_s1 : State.Keeps pq s1 := by
    refine State.Keeps.ite ?_ ?_
    · exact (State.unlockCause_keeps hs)
    · exact hs
  clear_value s1
  have h_s2 : State.Keeps pq s2 := by
    refine State.Keeps.ite ?_ ?_
    · exact (State.unlockCause_keeps h_s1)
    · exact h_s1
  clear_value s2
  have h_s3 : State.Keeps pq s3 := (State.Keeps.overList (fun _ _ h3 => by
        refine State.Keeps.ite ?_ ?_
        · exact (State.pendUnlock_keeps h3)
        · exact h3) h_s2)
  clear_value s3
  have h_s4 : State.Keeps pq s4 := by
    refine State.Keeps.ite ?_ ?_
    · exact (State.Keeps.overList (fun _ _ h4 => by
        refine State.Keeps.ite ?_ ?_
        · exact (State.pendUnlock_keeps h4)
        · exact h4) h_s3)
    · exact h_s3
  clear_value s4
  exact (State.bankSettle_keeps h_s4)

/-- offsetDone keeps a sound state and the queue. -/
theorem State.offsetDone_keeps {pq : List Instr} {s : State} {n : Nat} (hs : s.Keeps pq) :
    State.Keeps pq (State.offsetDone s n) := by
  unfold State.offsetDone
  extract_lets v c s1
  have h_s1 : State.Keeps pq s1 := (State.setVlv_keeps hs)
  clear_value s1
  refine State.Keeps.ite ?_ ?_
  · exact hs
  · refine State.Keeps.ite ?_ ?_
    · exact (State.setB_keeps (State.setB_keeps (State.setF_keeps h_s1)))
    · refine State.Keeps.ite ?_ ?_
      · exact h_s1
      · exact (State.pulse_keeps (State.vlog_keeps (State.sticky_keeps (State.setB_keeps h_s1))))

/-- guardSettle keeps a sound state and the queue. -/
theorem State.guardSettle_keeps {pq : List Instr} {s : State} (hs : s.Keeps pq) :
    State.Keeps pq (State.guardSettle s) := by
  unfold State.guardSettle
  extract_lets was on s1 s2 ends
  have h_s1 : State.Keeps pq s1 := (State.setB_keeps hs)
  clear_value s1
  have h_s2 : State.Keeps pq s2 := (State.Keeps.overList (fun _ _ h2 => (State.setB_keeps h2)) h_s1)
  clear_value s2
  exact (State.bstCompare_keeps (State.vEndAll_keeps h_s2 (fun _ _ h3 => (State.cancelSupply_keeps h3)) (fun _ _ h3 =>
      (State.vStop_keeps h3))))

/-- vinGood keeps a sound state and the queue. -/
theorem State.vinGood_keeps {pq : List Instr} {s : State} {above : Bool} (hs : s.Keeps pq) :
    State.Keeps pq (State.vinGood s above) := by
  unfold State.vinGood
  extract_lets __src
  refine State.Keeps.ite ?_ ?_
  · exact hs
  · exact (State.guardSettle_keeps (State.bst_keeps hs))

/-- vinBad keeps a sound state and the queue. -/
theorem State.vinBad_keeps {pq : List Instr} {s : State} {k : VinKind} (hs : s.Keeps pq) :
    State.Keeps pq (State.vinBad s k) := by
  unfold State.vinBad
  extract_lets s1 __src __src_1 s1_1 __src_2 __src_3 __src_4
  have h_s1 : State.Keeps pq s1 := (State.setB_keeps (State.setB_keeps hs))
  clear_value s1
  have h___src : State.Keeps pq __src := (State.pulse_keeps (State.log_keeps h_s1))
  have h_s1_1 : State.Keeps pq s1_1 := (State.pulse_keeps (State.setB_keeps hs))
  clear_value s1_1
  have h___src_3 : State.Keeps pq __src_3 := (State.setB_keeps hs)
  refine State.guardSettle_keeps ?_
  split
  · refine State.Keeps.ite ?_ ?_
    · exact hs
    · exact (State.bst_keeps h___src)
  · refine State.Keeps.ite ?_ ?_
    · exact hs
    · exact (State.bst_keeps h_s1_1)
  · exact (State.bst_keeps h___src_3)

/-- vinBack keeps a sound state and the queue. -/
theorem State.vinBack_keeps {pq : List Instr} {s : State} {k : VinKind} (hs : s.Keeps pq) :
    State.Keeps pq (State.vinBack s k) := by
  unfold State.vinBack
  extract_lets __src __src_1
  have h___src : State.Keeps pq __src := (State.setB_keeps hs)
  refine State.guardSettle_keeps ?_
  split
  · exact (State.setB_keeps hs)
  · exact (State.setB_keeps hs)
  · exact (State.bst_keeps h___src)

end Sys2Proof.Machine
end

