-- ==== Sys2Proof/Laws/Keep/Rebase.lean ====
section
/-! SUPPORT. Every operation of Machine/Rebase.lean keeps a sound state and the queue of waiting commands. -/

namespace Sys2Proof.Machine

open Sys2Proof

/-- moveIn keeps a sound state and the queue. -/
theorem State.moveIn_keeps {pq : List Instr} {s : State} {d : Time} (hs : s.Keeps pq) :
    State.Keeps pq (State.moveIn s d) := by
  unfold State.moveIn
  extract_lets s1 s2
  have h_s1 : State.Keeps pq s1 := (State.Keeps.overList (fun _ _ h1 => (State.setTr_keeps h1)) hs)
  clear_value s1
  have h_s2 : State.Keeps pq s2 := (State.Keeps.overList (fun _ _ h2 => (State.setUndo_keeps h2)) h_s1)
  clear_value s2
  exact (State.Keeps.overList (fun _ _ h3 => (State.setSn_keeps h3)) h_s2)

/-- moveOut keeps a sound state and the queue. -/
theorem State.moveOut_keeps {pq : List Instr} {s : State} {d : Time} (hs : s.Keeps pq) :
    State.Keeps pq (State.moveOut s d) := by
  unfold State.moveOut
  extract_lets s1 s2
  have h_s1 : State.Keeps pq s1 := (State.Keeps.overList (fun _ _ h1 => (State.setSl_keeps h1)) hs)
  clear_value s1
  have h_s2 : State.Keeps pq s2 := (State.Keeps.overList (fun _ _ h2 => (State.setPin_keeps h2)) h_s1)
  clear_value s2
  exact (State.Keeps.overList (fun _ _ h3 => (State.setStl_keeps h3)) h_s2)

/-- moveActs keeps a sound state and the queue. -/
theorem State.moveActs_keeps {pq : List Instr} {s : State} {d : Time} (hs : s.Keeps pq) :
    State.Keeps pq (State.moveActs s d) := by
  unfold State.moveActs
  exact (State.Keeps.same hs rfl)

/-- moveRest keeps a sound state and the queue. -/
theorem State.moveRest_keeps {pq : List Instr} {s : State} {d : Time} (hs : s.Keeps pq) :
    State.Keeps pq (State.moveRest s d) := by
  unfold State.moveRest
  extract_lets s1 s2 s3 s4 s5 s6 s7 s8 s9 s10 s11 __src __src_1 __src_2
  have h_s1 : State.Keeps pq s1 := (State.Keeps.overList (fun _ _ h1 => (State.setPart_keeps h1)) hs)
  clear_value s1
  have h_s2 : State.Keeps pq s2 := (State.Keeps.overList (fun _ _ h2 => (State.setSrc_keeps h2)) h_s1)
  clear_value s2
  have h_s3 : State.Keeps pq s3 := (State.Keeps.overList (fun _ _ h3 => (State.setEng_keeps h3)) h_s2)
  clear_value s3
  have h_s4 : State.Keeps pq s4 := (State.Keeps.overList (fun _ _ h4 => (State.setRn_keeps h4)) h_s3)
  clear_value s4
  have h_s5 : State.Keeps pq s5 := (State.Keeps.overList (fun _ _ h5 => (State.setVlv_keeps h5)) h_s4)
  clear_value s5
  have h_s6 : State.Keeps pq s6 := (State.Keeps.overList (fun _ _ h6 => (State.setBk_keeps h6)) h_s5)
  clear_value s6
  have h_s7 : State.Keeps pq s7 := (State.Keeps.overList (fun _ _ h7 => (State.setPort_keeps h7)) h_s6)
  clear_value s7
  have h_s8 : State.Keeps pq s8 := (State.Keeps.overList (fun _ _ h8 => (State.setMb_keeps h8)) h_s7)
  clear_value s8
  have h_s9 : State.Keeps pq s9 := (State.Keeps.overList (fun _ _ h9 => (State.setHold_keeps h9)) h_s8)
  clear_value s9
  have h_s10 : State.Keeps pq s10 := (State.Keeps.overList (fun _ _ h10 => (State.setCh_keeps h10)) h_s9)
  clear_value s10
  have h_s11 : State.Keeps pq s11 := (State.Keeps.overList (fun _ _ h11 => (State.setTq_keeps h11)) h_s10)
  clear_value s11
  exact (State.Keeps.same h_s11 rfl)

/-- rebase keeps a sound state and the queue. -/
theorem State.rebase_keeps {pq : List Instr} {s : State} {now : Time} (hs : s.Keeps pq) :
    State.Keeps pq (State.rebase s now) := by
  unfold State.rebase
  extract_lets d s1 __src
  have h_s1 : State.Keeps pq s1 := (State.moveRest_keeps (State.moveActs_keeps (State.moveOut_keeps (State.moveIn_keeps hs))))
  clear_value s1
  exact (State.tb_keeps h_s1)

end Sys2Proof.Machine
end

