-- ==== Sys2Proof/Laws/Keep/Tether.lean ====
section
/-! SUPPORT. Every operation of Machine/Tether.lean keeps a sound state and the queue of waiting commands. -/

namespace Sys2Proof.Machine

open Sys2Proof

/-- setLink keeps a sound state and the queue. -/
theorem State.setLink_keeps {pq : List Instr} {s : State} {p : Nat} {l : LinkSt} (hs : s.Keeps pq) :
    State.Keeps pq (State.setLink s p l) := by
  unfold State.setLink
  extract_lets c __src s1
  have h_s1 : State.Keeps pq s1 := (State.setPort_keeps hs)
  clear_value s1
  refine State.pulse_keeps ?_
  refine State.Keeps.ite ?_ ?_
  · exact (State.setF_keeps h_s1)
  · exact (State.setF_keeps h_s1)

/-- showDelay keeps a sound state and the queue. -/
theorem State.showDelay_keeps {pq : List Instr} {s : State} {p : Nat} (hs : s.Keeps pq) :
    State.Keeps pq (State.showDelay s p) := by
  unfold State.showDelay
  extract_lets v
  refine State.Keeps.ite ?_ ?_
  · exact (State.setF_keeps hs)
  · exact (State.setF_keeps hs)

/-- dropDelay keeps a sound state and the queue. -/
theorem State.dropDelay_keeps {pq : List Instr} {s : State} {p : Nat} (hs : s.Keeps pq) :
    State.Keeps pq (State.dropDelay s p) := by
  unfold State.dropDelay
  exact (State.showDelay_keeps (State.setPort_keeps hs))

/-- linkDown keeps a sound state and the queue. -/
theorem State.linkDown_keeps {q : List Instr} {s : State} {p : Nat} (h : s.Keeps q) : State.Keeps q (State.linkDown s p) := by
  unfold State.linkDown
  extract_lets s1 s2 a s3 b c
  have h1 : State.Keeps q s1 := State.dropDelay_keeps (State.setLink_keeps h)
  have h3 : State.Keeps q s3 := State.setPort_keeps (State.setB_keeps (State.setB_keeps (State.bump_keeps h1)))
  refine State.Keeps.ite h (State.Keeps.ite (State.Keeps.ite (State.log_keeps h1) h1) ?_)
  exact State.tth_keeps (x := { s3.tth with pathLogged := false, unwrapIn := none }) h3.1.2.2.1
    (State.pulse_keeps (State.log_keeps h3))

/-- linkSync keeps a sound state and the queue. -/
theorem State.linkSync_keeps {pq : List Instr} {s : State} {p : Nat} (hs : s.Keeps pq) :
    State.Keeps pq (State.linkSync s p) := by
  unfold State.linkSync
  refine State.Keeps.ite ?_ ?_
  · exact (State.setLink_keeps hs)
  · exact hs

/-- delayReq keeps a sound state and the queue. -/
theorem State.delayReq_keeps {pq : List Instr} {s : State} {p : Nat} {t1 : BitVec 52} (hs : s.Keeps pq) :
    State.Keeps pq (State.delayReq s p t1) := by
  unfold State.delayReq
  extract_lets x
  refine State.Keeps.ite ?_ ?_
  · exact hs
  · exact (State.setPort_keeps hs)

/-- delayResp keeps a sound state and the queue. -/
theorem State.delayResp_keeps {pq : List Instr} {s : State} {p : Nat} {seq : Nat} {turn : Nat} {t4 : BitVec 52} (hs :
    s.Keeps pq) :
    State.Keeps pq (State.delayResp s p seq turn t4) := by
  unfold State.delayResp
  extract_lets x dq
  split
  · exact hs
  · extract_lets rtt dm y s1
    have h_s1 : State.Keeps pq s1 := (State.showDelay_keeps (State.setPort_keeps hs))
    clear_value s1
    refine State.Keeps.ite ?_ ?_
    · exact hs
    · refine State.Keeps.ite ?_ ?_
      · exact (State.setLink_keeps h_s1)
      · exact h_s1

/-- delayAsked keeps a sound state and the queue. -/
theorem State.delayAsked_keeps {pq : List Instr} {s : State} {p : Nat} {seq : Nat} {tIn : BitVec 52} {tOut : BitVec 52} (hs
    : s.Keeps pq) :
    State.Keeps pq (State.delayAsked s p seq tIn tOut) := by
  unfold State.delayAsked
  extract_lets x
  refine State.Keeps.ite ?_ ?_
  · exact hs
  · exact (State.setPort_keeps hs)

/-- setDisc keeps a sound state and the queue. -/
theorem State.setDisc_keeps {pq : List Instr} {s : State} {d : Nat} (hs : s.Keeps pq) :
    State.Keeps pq (State.setDisc s d) := by
  unfold State.setDisc
  extract_lets __src __src_1
  have h___src : State.Keeps pq __src := (State.setF_keeps hs)
  exact (State.tb_keeps h___src)

/-- steer keeps a sound state and the queue. -/
theorem State.steer_keeps {pq : List Instr} {s : State} {ofs : Int} (hs : s.Keeps pq) :
    State.Keeps pq (State.steer s ofs) := by
  unfold State.steer
  extract_lets slew
  split
  rename_i _ t1 e1
  have k1 : State.Keeps pq t1 := State.Keeps.snd e1 (State.draw_keeps hs)
  extract_lets drift
  exact (State.setF_keeps k1)

/-- timeData keeps a sound state and the queue. -/
theorem State.timeData_keeps {pq : List Instr} {s : State} {ofs : Int} (hs : s.Keeps pq) :
    State.Keeps pq (State.timeData s ofs) := by
  unfold State.timeData
  extract_lets __src __src_1 s1 far good __src_2
  have h___src : State.Keeps pq __src := (State.setF_keeps hs)
  have h_s1 : State.Keeps pq s1 := (State.tb_keeps h___src)
  clear_value s1
  split
  · exact h_s1
  · refine State.Keeps.ite ?_ ?_
    · exact h_s1
    · refine State.Keeps.ite ?_ ?_
      · exact (State.log_keeps (State.setB_keeps h_s1))
      · exact (State.steer_keeps (State.setDisc_keeps h_s1))
  · refine State.Keeps.ite ?_ ?_
    · exact (State.log_keeps (State.setB_keeps (State.setDisc_keeps h_s1)))
    · exact (State.steer_keeps (State.tb_keeps h_s1))

/-- discLocked keeps a sound state and the queue. -/
theorem State.discLocked_keeps {pq : List Instr} {s : State} (hs : s.Keeps pq) :
    State.Keeps pq (State.discLocked s) := by
  unfold State.discLocked
  refine State.Keeps.ite ?_ ?_
  · exact (State.setDisc_keeps hs)
  · exact hs

/-- discHoldover keeps a sound state and the queue. -/
theorem State.discHoldover_keeps {pq : List Instr} {s : State} (hs : s.Keeps pq) :
    State.Keeps pq (State.discHoldover s) := by
  unfold State.discHoldover
  refine State.Keeps.ite ?_ ?_
  · exact (State.log_keeps (State.setDisc_keeps hs))
  · exact hs

/-- tetherSample keeps a sound state and the queue. -/
theorem State.tetherSample_keeps {pq : List Instr} {s : State} {n : Nat} {f : List Nat} (hs : s.Keeps pq) :
    State.Keeps pq (State.tetherSample s n f) := by
  unfold State.tetherSample
  extract_lets o u th rm tm c cpc st m t el tracked same s0 t0 good t1 s1 lam t2 s2 __src run fresh
  have h_s0 : State.Keeps pq s0 := by
    refine State.Keeps.ite ?_ ?_
    · exact (State.log_keeps hs)
    · exact hs
  clear_value s0
  have h_s1 : State.Keeps pq s1 := (State.setSt_keeps (State.setTr_keeps h_s0))
  clear_value s1
  have h_s2 : State.Keeps pq s2 := (State.turnBack_keeps h_s1)
  clear_value s2
  refine State.Keeps.ite ?_ ?_
  · exact hs
  · refine State.Keeps.ite ?_ ?_
    · exact (State.setTr_keeps h_s0)
    · refine State.Keeps.ite ?_ ?_
      · exact (State.setTr_keeps h_s0)
      · refine State.Keeps.ite ?_ ?_
        · exact (State.setTr_keeps h_s2)
        · refine State.Keeps.ite ?_ ?_
          · exact (State.setTr_keeps h_s1)
          · exact (State.setTr_keeps h_s1)

/-- tetherBeat keeps a sound state and the queue. -/
theorem State.tetherBeat_keeps {pq : List Instr} {s : State} {n : Nat} (hs : s.Keeps pq) :
    State.Keeps pq (State.tetherBeat s n) := by
  unfold State.tetherBeat
  extract_lets t
  refine State.Keeps.ite ?_ ?_
  · exact hs
  · exact (State.setTr_keeps hs)

/-- putAngles keeps a sound state and the queue. -/
theorem State.putAngles_keeps {q : List Instr} {s : State} {f : List Nat} (h : s.Keeps q) :
    State.Keeps q (State.putAngles s f).1 := by
  unfold State.putAngles
  refine State.Keeps.foldPair (fun x j hk => ?_) h
  extract_lets src pub clash a b s1
  have h1 : State.Keeps q s1 := by
    unfold s1
    split
    · exact State.tth_keeps (x := { x.1.tth with angLogged := j :: x.1.tth.angLogged }) hk.1.2.2.1 (State.log_keeps hk)
    · exact hk
  split
  · exact h1
  · split
    · exact hk
    · exact hk

/-- latchSlots keeps a sound state and the queue. -/
theorem State.latchSlots_keeps {pq : List Instr} {s : State} {f : List Nat} (hs : s.Keeps pq) :
    State.Keeps pq (State.latchSlots s f) := by
  unfold State.latchSlots
  exact (State.Keeps.overList (fun _ _ h1 => by
        extract_lets o st
        exact (State.wr_keeps (State.wr_keeps (State.wr_keeps h1)))) hs)

/-- takeMsg keeps a sound state and the queue. -/
theorem State.takeMsg_keeps {q : List Instr} {s : State} {f : List Nat} (h : s.Keeps q) :
    State.Keeps q (State.takeMsg s f).1 := by
  unfold State.takeMsg
  extract_lets dest mine len msg a s1
  have h1 : State.Keeps q s1 := by
    unfold s1
    split
    · rename_i hl
      refine State.msgs_keeps ?_ h
      rw [List.length_append, List.length_singleton]
      exact hl
    · exact State.log_keeps h
  split
  · exact h
  · exact h1

/-- msgBeat keeps a sound state and the queue. -/
theorem State.msgBeat_keeps {pq : List Instr} {s : State} {m : Nat} (hs : s.Keeps pq) :
    State.Keeps pq (State.msgBeat s m) := by
  unfold State.msgBeat
  split
  · exact hs
  · refine State.Keeps.ite ?_ ?_
    · exact (State.complete_keeps hs)
    · refine State.Keeps.ite ?_ ?_
      · exact (State.complete_keeps hs)
      · exact (State.setSvc_keeps hs)

/-- sendMsg keeps a sound state and the queue. -/
theorem State.sendMsg_keeps {pq : List Instr} {s : State} {f : List Nat} (hs : s.Keeps pq) :
    State.Keeps pq (State.sendMsg s f).1 := by
  unfold State.sendMsg
  split
  · exact hs
  · extract_lets d f1
    split
    · exact hs
    · exact (State.complete_keeps hs)

/-- showCopy keeps a sound state and the queue. -/
theorem State.showCopy_keeps {pq : List Instr} {s : State} {f : List Nat} {path : Int} (hs : s.Keeps pq) :
    State.Keeps pq (State.showCopy s f path) := by
  unfold State.showCopy
  extract_lets present ver oldVer org s1 s2 first turned __src s2_1 s3
  have h_s1 : State.Keeps pq s1 := (State.setF_keeps (State.setF_keeps (State.setF_keeps (State.setF_keeps (State.setB_keeps
      hs)))))
  clear_value s1
  have h_s2 : State.Keeps pq s2 := (State.setB_keeps (State.setF_keeps (State.setF_keeps h_s1)))
  clear_value s2
  have h_s2_1 : State.Keeps pq s2_1 := by
    refine State.Keeps.ite ?_ ?_
    · exact (State.Keeps.same h_s2 rfl)
    · exact h_s2
  clear_value s2_1
  have h_s3 : State.Keeps pq s3 := by
    refine State.Keeps.ite ?_ ?_
    · exact (State.pulse_keeps h_s2_1)
    · exact h_s2_1
  clear_value s3
  refine State.pulse_keeps ?_
  refine State.Keeps.ite ?_ ?_
  · exact (State.log_keeps h_s3)
  · exact h_s3

/-- pathLong keeps a sound state and the queue. -/
theorem State.pathLong_keeps {q : List Instr} {s : State} {f : List Nat} (h : s.Keeps q) : State.Keeps q (State.pathLong s f) := by
  unfold State.pathLong
  refine State.Keeps.ite ?_ h
  exact State.tth_keeps (x := { s.tth with pathLogged := true }) h.1.2.2.1 (State.log_keeps h)

/-- tryJoin keeps a sound state and the queue. -/
theorem State.tryJoin_keeps {pq : List Instr} {s : State} {p : Nat} {f : List Nat} {r : BitVec 52} {step : Bool} (hs :
    s.Keeps pq) :
    State.Keeps pq (State.tryJoin s p f r step) := by
  unfold State.tryJoin
  extract_lets s0 ver idTaken __src __src_1 s1 ofs v now bnd us ph s2 __src_2
  have h_s0 : State.Keeps pq s0 := (State.setB_keeps hs)
  clear_value s0
  have h___src : State.Keeps pq __src := (State.setB_keeps (State.setDisc_keeps h_s0))
  have h_s1 : State.Keeps pq s1 := (State.Keeps.same h___src rfl)
  clear_value s1
  have h_s2 : State.Keeps pq s2 := (State.rebase_keeps h_s1)
  clear_value s2
  refine State.Keeps.ite ?_ ?_
  · exact (State.log_keeps h_s0)
  · refine State.Keeps.ite ?_ ?_
    · exact (State.log_keeps h_s0)
    · refine State.Keeps.ite ?_ ?_
      · exact (State.log_keeps h_s0)
      · refine State.Keeps.ite ?_ ?_
        · exact h_s1
        · exact (State.tb_keeps h_s2)

/-- meetOrigin keeps a sound state and the queue. -/
theorem State.meetOrigin_keeps {pq : List Instr} {s : State} {f : List Nat} (hs : s.Keeps pq) :
    State.Keeps pq (State.meetOrigin s f) := by
  unfold State.meetOrigin
  extract_lets org prio higher s1 s2 __src __src_1
  have h_s1 : State.Keeps pq s1 := (State.log_keeps hs)
  clear_value s1
  have h_s2 : State.Keeps pq s2 := by
    refine State.Keeps.ite ?_ ?_
    · exact (State.log_keeps h_s1)
    · exact h_s1
  clear_value s2
  have h___src : State.Keeps pq __src := (State.setDisc_keeps h_s2)
  refine State.Keeps.ite ?_ ?_
  · exact hs
  · exact (State.Keeps.same h___src rfl)

/-- process keeps a sound state and the queue. -/
theorem State.process_keeps {q : List Instr} {s : State} {p : Nat} {f : List Nat} {r : BitVec 52} (h : s.Keeps q) :
    State.Keeps q (State.process s p f r).1 := by
  unfold State.process
  extract_lets org own
  split
  rename_i ofs path _
  extract_lets s1 a s2 s3 s4 s5
  have h1 : State.Keeps q s1 := State.meetOrigin_keeps (State.showCopy_keeps h)
  have h2 : State.Keeps q s2 := State.Keeps.same h1 rfl
  have h3 : State.Keeps q s3 := State.Keeps.ite h2 (State.timeData_keeps h2)
  have h4 : State.Keeps q s4 := State.Keeps.overList (fun _ _ hx => State.tetherSample_keeps hx) h3
  have h5 : State.Keeps q s5 := State.latchSlots_keeps h4
  clear_value s5
  split
  rename_i s7 f1 e7
  have h7 : State.Keeps q s7 := State.Keeps.fst e7 (State.takeMsg_keeps (State.pathLong_keeps h5))
  split
  rename_i s8 f2 e8
  have h8 : State.Keeps q s8 := by
    refine State.Keeps.fst e8 ?_
    split
    · exact h7
    · exact State.sendMsg_keeps h7
  split
  · exact h8
  · split
    rename_i s9 f3 e9
    exact State.Keeps.fst e9 (State.putAngles_keeps h8)

/-- returned keeps a sound state and the queue. -/
theorem State.returned_keeps {pq : List Instr} {s : State} {f : List Nat} (hs : s.Keeps pq) :
    State.Keeps pq (State.returned s f).1 := by
  unfold State.returned
  extract_lets dest lost v set_ x falls same again g y
  exact (State.Keeps.same hs rfl)

/-- verRise keeps a sound state and the queue. -/
theorem State.verRise_keeps {pq : List Instr} {s : State} (hs : s.Keeps pq) :
    State.Keeps pq (State.verRise s) := by
  unfold State.verRise
  extract_lets x
  refine State.Keeps.ite ?_ ?_
  · exact (State.Keeps.same hs rfl)
  · exact hs

/-- unfold keeps a sound state and the queue. -/
theorem State.unfold_keeps {q : List Instr} {s : State} {un : Option Nat} {beat : Nat} (h : s.Keeps q) :
    State.Keeps q (State.unfold s un beat) := by
  unfold State.unfold
  extract_lets a s0 reached ends s1 b c
  have h0 : State.Keeps q s0 := State.Keeps.same h rfl
  have h1 : State.Keeps q s1 := State.Keeps.overList
    (fun _ _ hx => State.log_keeps (State.setB_keeps (State.setPort_keeps hx))) h0
  refine State.Keeps.ite h0 ?_
  exact State.tth_keeps (x := { s1.tth with unwrapIn := none, pathLogged := false }) h1.1.2.2.1 (State.pulse_keeps h1)

/-- frameIn keeps a sound state and the queue. -/
theorem State.frameIn_keeps {q : List Instr} {s : State} {p : Nat} {f : List Nat} {r so : BitVec 52} (h : s.Keeps q) :
    State.Keeps q (State.frameIn s p f r so) := by
  unfold State.frameIn
  extract_lets good a s1 org own back b s2 join s3 s4 first r1
  have h1 : State.Keeps q s1 := State.Keeps.ite (State.Keeps.same h rfl)
    (State.Keeps.ite (State.bump_keeps h) (State.bump_keeps h))
  have h2 : State.Keeps q s2 := State.Keeps.ite (State.Keeps.same h1 rfl) h1
  have h3 : State.Keeps q s3 := State.Keeps.ite (State.tryJoin_keeps h2) h2
  have h4 : State.Keeps q s4 := State.Keeps.ite (State.unfold_keeps h3) h3
  refine State.Keeps.ite h ?_
  split
  rename_i s5 f0 e5
  have h5 : State.Keeps q s5 := by
    refine State.Keeps.fst e5 ?_
    split
    · exact State.process_keeps h4
    · exact h4
  split
  rename_i s6 f1 e6
  have h6 : State.Keeps q s6 := by
    refine State.Keeps.fst e6 ?_
    split
    · exact State.returned_keeps h5
    · exact h5
  refine State.Keeps.ite h6 ?_
  exact State.Keeps.same h6 rfl

/-- ownFrame keeps a sound state and the queue. -/
theorem State.ownFrame_keeps {q : List Instr} {s : State} {lag : Nat} (h : s.Keeps q) :
    State.Keeps q (State.ownFrame s lag).1 := by
  unfold State.ownFrame
  extract_lets x fresh base aged f0 loops allReady un depth ver head s1
  have h1 : State.Keeps q s1 := State.tth_keeps (x := { x with ringVer := ver, unwrapOut := un }) h.1.2.2.1 h
  split
  rename_i s2 f1 e2
  have h2 : State.Keeps q s2 := State.Keeps.fst e2 (State.putAngles_keeps h1)
  split
  rename_i s3 f2 e3
  exact State.Keeps.fst e3 (State.sendMsg_keeps h2)

/-- originate keeps a sound state and the queue. -/
theorem State.originate_keeps {q : List Instr} {s : State} {lag : Nat} (h : s.Keeps q) :
    State.Keeps q (State.originate s lag) := by
  unfold State.originate
  extract_lets s0
  have h0 : State.Keeps q s0 := State.Keeps.ite (State.unfold_keeps h) h
  refine State.Keeps.ite h ?_
  split
  rename_i s1 f e1
  have h1 : State.Keeps q s1 := State.Keeps.fst e1 (State.ownFrame_keeps h0)
  exact State.Keeps.same h1 rfl

/-- origStart keeps a sound state and the queue. -/
theorem State.origStart_keeps {pq : List Instr} {s : State} (hs : s.Keeps pq) :
    State.Keeps pq (State.origStart s) := by
  unfold State.origStart
  extract_lets x silent back
  refine State.Keeps.ite ?_ ?_
  · exact (State.Keeps.same hs rfl)
  · exact hs

/-- lostBeat keeps a sound state and the queue. -/
theorem State.lostBeat_keeps {pq : List Instr} {s : State} (hs : s.Keeps pq) :
    State.Keeps pq (State.lostBeat s) := by
  unfold State.lostBeat
  extract_lets __src
  refine State.Keeps.ite ?_ ?_
  · exact (State.bump_keeps (State.Keeps.same hs rfl))
  · exact hs

/-- gateIn keeps a sound state and the queue. -/
theorem State.gateIn_keeps {pq : List Instr} {s : State} {f : List Nat} {r : BitVec 52} (hs : s.Keeps pq) :
    State.Keeps pq (State.gateIn s f r) := by
  unfold State.gateIn
  extract_lets __src s1 s2 r1
  have h_s1 : State.Keeps pq s1 := (State.Keeps.same hs rfl)
  clear_value s1
  have h_s2 : State.Keeps pq s2 := by
    refine State.Keeps.ite ?_ ?_
    · exact (State.tryJoin_keeps h_s1)
    · exact h_s1
  clear_value s2
  refine State.Keeps.ite ?_ ?_
  · exact hs
  · refine State.Keeps.ite ?_ ?_
    · exact h_s2
    · split
      · extract_lets s3 s4
        have h_s3 : State.Keeps pq s3 := (State.Keeps.overList (fun _ _ h3 => (State.tetherSample_keeps h3))
            (State.timeData_keeps h_s2))
        clear_value s3
        have h_s4 : State.Keeps pq s4 := (State.setF_keeps (State.setF_keeps (State.latchSlots_keeps h_s3)))
        clear_value s4
        exact (State.pulse_keeps (State.pathLong_keeps h_s4))

/-- tthBoundary keeps a sound state and the queue. -/
theorem State.tthBoundary_keeps {pq : List Instr} {s : State} (hs : s.Keeps pq) :
    State.Keeps pq (State.tthBoundary s) := by
  unfold State.tthBoundary
  extract_lets x org changed y d __src s1 s2 s3 s4
  have h_s1 : State.Keeps pq s1 := (State.Keeps.same hs rfl)
  clear_value s1
  have h_s2 : State.Keeps pq s2 := by
    refine State.Keeps.ite ?_ ?_
    · exact (State.pulse_keeps (State.setF_keeps h_s1))
    · exact h_s1
  clear_value s2
  have h_s3 : State.Keeps pq s3 := by
    refine State.Keeps.ite ?_ ?_
    · exact (State.setDisc_keeps h_s2)
    · exact h_s2
  clear_value s3
  have h_s4 : State.Keeps pq s4 := (State.Keeps.overList (fun _ _ h4 => (State.tetherBeat_keeps h4)) h_s3)
  clear_value s4
  exact (State.Keeps.overList (fun _ _ h5 => (State.msgBeat_keeps h5)) h_s4)

/-- tthEnable keeps a sound state and the queue. -/
theorem State.tthEnable_keeps {q : List Instr} {s : State} {b : Bool} (h : s.Keeps q) :
    State.Keeps q (State.tthEnable s b) := by
  unfold State.tthEnable
  extract_lets s1 a s2 s3 c
  have h1 : State.Keeps q s1 := State.setB_keeps h
  have h2 : State.Keeps q s2 := State.Keeps.overList
    (fun _ _ hx => State.Keeps.ite hx (State.dropDelay_keeps (State.setLink_keeps hx))) h1
  have h3 : State.Keeps q s3 := State.Keeps.overList (fun _ _ hx => State.setB_keeps (State.setPort_keeps hx)) h2
  clear_value s3
  clear_value s2
  clear_value s1
  refine State.Keeps.ite h (State.Keeps.ite (State.tth_keeps (x := { s1.tth with sinceEn := 0, silent := 0 }) h1.1.2.2.1 h1) ?_)
  exact State.tth_keeps (x := { msgs := s3.tth.msgs, mgmtLost := s3.tth.mgmtLost }) h3.1.2.2.1
    (State.setDisc_keeps h3)

/-- tthJoin keeps a sound state and the queue. -/
theorem State.tthJoin_keeps {pq : List Instr} {s : State} (hs : s.Keeps pq) :
    State.Keeps pq (State.tthJoin s) := by
  unfold State.tthJoin
  refine State.Keeps.ite ?_ ?_
  · exact (State.setB_keeps hs)
  · exact hs

/-- tthCtl keeps a sound state and the queue. -/
theorem State.tthCtl_keeps {pq : List Instr} {s : State} {v : Word} (hs : s.Keeps pq) :
    State.Keeps pq (State.tthCtl s v) := by
  unfold State.tthCtl
  extract_lets s1
  have h_s1 : State.Keeps pq s1 := (State.tthEnable_keeps hs)
  clear_value s1
  refine State.Keeps.ite ?_ ?_
  · exact (State.tthJoin_keeps h_s1)
  · exact h_s1

end Sys2Proof.Machine
end

