-- ==== Sys2Proof/Laws/Keep/ModeCore.lean ====
section
/-! SUPPORT. Every operation of Machine/ModeCore.lean keeps a sound state and the queue of waiting commands. -/

namespace Sys2Proof.Machine

open Sys2Proof

/-- twinCopy keeps a sound state and the queue. -/
theorem State.twinCopy_keeps {pq : List Instr} {s : State} {a : Nat} (hs : s.Keeps pq) :
    State.Keeps pq (State.twinCopy s a) := by
  unfold State.twinCopy
  extract_lets s1 __src
  have h_s1 : State.Keeps pq s1 := (State.Keeps.overList (fun _ _ h1 => by
        extract_lets k s1_1 s2 s3
        have h_s1_1 : State.Keeps pq s1_1 := (State.Keeps.overList (fun _ _ h2 => (State.wr_keeps h2)) h1)
        clear_value s1_1
        have h_s2 : State.Keeps pq s2 := (State.Keeps.overList (fun _ _ h3 => (State.wr_keeps h3)) h_s1_1)
        clear_value s2
        have h_s3 : State.Keeps pq s3 := (State.Keeps.overList (fun _ _ h4 => (State.latch_keeps h4)) h_s2)
        clear_value s3
        exact (State.setStl_keeps h_s3)) hs)
  clear_value s1
  exact (State.stallLines_keeps (State.setEng_keeps h_s1))

/-- shadowStatic keeps a sound state and the queue. -/
theorem State.shadowStatic_keeps {pq : List Instr} {s : State} {sh : Nat} (hs : s.Keeps pq) :
    State.Keeps pq (State.shadowStatic s sh) := by
  unfold State.shadowStatic
  extract_lets pins
  exact (State.shadow_keeps hs)

/-- twinOn keeps a sound state and the queue. -/
theorem State.twinOn_keeps {pq : List Instr} {s : State} {a : Nat} (hs : s.Keeps pq) :
    State.Keeps pq (State.twinOn s a) := by
  unfold State.twinOn
  extract_lets s1 s2 gone __src __src_1 s3
  have h_s1 : State.Keeps pq s1 := (State.engReset_keeps (State.engReset_keeps (State.twinCopy_keeps hs)))
  clear_value s1
  have h_s2 : State.Keeps pq s2 := (State.Keeps.overList (fun _ _ h2 => (State.setSl_keeps h2)) h_s1)
  clear_value s2
  have h___src : State.Keeps pq __src := (State.dropEdges_keeps (State.shadowStatic_keeps h_s2))
  have h_s3 : State.Keeps pq s3 := (State.tb_keeps h___src)
  clear_value s3
  exact (State.Keeps.overList (fun _ _ h5 => (State.pinStatic_keeps (State.setF_keeps (State.setF_keeps h5)))) h_s3)

/-- bankKeep keeps a sound state and the queue. -/
theorem State.bankKeep_keeps {pq : List Instr} {s : State} {a : Nat} (hs : s.Keeps pq) :
    State.Keeps pq (State.bankKeep s a) := by
  unfold State.bankKeep
  exact (State.Keeps.overList (fun _ _ h1 => by
        extract_lets x y
        exact (State.setSrc_keeps (State.wr_keeps h1))) hs)

/-- twinOff keeps a sound state and the queue. -/
theorem State.twinOff_keeps {pq : List Instr} {s : State} {a : Nat} (hs : s.Keeps pq) :
    State.Keeps pq (State.twinOff s a) := by
  unfold State.twinOff
  extract_lets mine s1 s2 s3 s4
  have h_s1 : State.Keeps pq s1 := (State.vUnforce_keeps (State.pinUnforce_keeps (State.bankKeep_keeps hs)))
  clear_value s1
  have h_s2 : State.Keeps pq s2 := (State.Keeps.overList (fun _ _ h2 => (State.setB_keeps h2)) h_s1)
  clear_value s2
  have h_s3 : State.Keeps pq s3 := (State.wr_keeps (State.wr_keeps h_s2))
  clear_value s3
  have h_s4 : State.Keeps pq s4 := (State.Keeps.overList (fun _ _ h4 => (State.setSl_keeps h4)) h_s3)
  clear_value s4
  exact (State.engReset_keeps (State.engReset_keeps h_s4))

/-- twinChange keeps a sound state and the queue. -/
theorem State.twinChange_keeps {pq : List Instr} {s : State} (hs : s.Keeps pq) :
    State.Keeps pq (State.twinChange s) := by
  unfold State.twinChange
  exact (State.Keeps.overList (fun _ _ h1 => by
        extract_lets en act
        refine State.Keeps.ite ?_ ?_
        · exact h1
        · refine State.Keeps.ite ?_ ?_
          · exact (State.twinOn_keeps (State.setF_keeps h1))
          · exact (State.twinOff_keeps (State.setF_keeps h1))) hs)

/-- markMode keeps a sound state and the queue. -/
theorem State.markMode_keeps {pq : List Instr} {s : State} {m : Nat} {cause : Nat} (hs : s.Keeps pq) :
    State.Keeps pq (State.markMode s m cause) := by
  unfold State.markMode
  exact (State.setF_keeps (State.setF_keeps (State.setF_keeps hs)))

/-- modeSettle keeps a sound state and the queue. -/
theorem State.modeSettle_keeps {pq : List Instr} {s : State} (hs : s.Keeps pq) :
    State.Keeps pq (State.modeSettle s) := by
  unfold State.modeSettle
  exact (State.Keeps.overList (fun _ _ h1 => (State.bankSettle_keeps h1)) (State.guardSettle_keeps hs))

/-- valvesStop keeps a sound state and the queue. -/
theorem State.valvesStop_keeps {pq : List Instr} {s : State} (hs : s.Keeps pq) :
    State.Keeps pq (State.valvesStop s) := by
  unfold State.valvesStop
  exact (State.vEndAll_keeps hs (fun _ _ h1 => (State.cancelState_keeps h1)) (fun _ _ h1 => (State.vStop_keeps h1)))

/-- failModes keeps a sound state and the queue. -/
theorem State.failModes_keeps {pq : List Instr} {s : State} (hs : s.Keeps pq) :
    State.Keeps pq (State.failModes s) := by
  unfold State.failModes
  refine State.Keeps.ite ?_ ?_
  · exact (State.Keeps.overList (fun _ _ h1 => by
        refine State.Keeps.ite ?_ ?_
        · exact (State.complete_keeps h1)
        · exact h1) hs)
  · exact hs

/-- enterSafe keeps a sound state and the queue. -/
theorem State.enterSafe_keeps {pq : List Instr} {s : State} {cause : Nat} (hs : s.Keeps pq) :
    State.Keeps pq (State.enterSafe s cause) := by
  unfold State.enterSafe
  extract_lets s0 s1 s2 s3 s4 s5
  have h_s0 : State.Keeps pq s0 := by
    refine State.Keeps.ite ?_ ?_
    · exact (State.engWake_keeps (State.trkAllAcquire_keeps hs))
    · exact hs
  clear_value s0
  have h_s1 : State.Keeps pq s1 := by
    refine State.Keeps.ite ?_ ?_
    · exact (State.twinChange_keeps h_s0)
    · exact h_s0
  clear_value s1
  have h_s2 : State.Keeps pq s2 := (State.markMode_keeps (State.valvesStop_keeps (State.evClear_keeps h_s1)))
  clear_value s2
  have h_s3 : State.Keeps pq s3 := (State.Keeps.overList (fun _ _ h4 => by
        extract_lets __src
        refine State.Keeps.ite ?_ ?_
        · exact h4
        · exact (State.setPin_keeps h4)) (State.dropEdges_keeps h_s2))
  clear_value s3
  have h_s4 : State.Keeps pq s4 := (State.Keeps.overList (fun _ _ h5 => by
        refine State.Keeps.ite ?_ ?_
        · exact h5
        · exact (State.rnStop_keeps h5)) h_s3)
  clear_value s4
  have h_s5 : State.Keeps pq s5 := (State.modeSettle_keeps (State.log_keeps (State.bump_keeps h_s4)))
  clear_value s5
  refine State.Keeps.ite ?_ ?_
  · exact (State.engFirsts_keeps h_s5)
  · exact h_s5

/-- causeSafe keeps a sound state and the queue. -/
theorem State.causeSafe_keeps {pq : List Instr} {s : State} {cause : Nat} (hs : s.Keeps pq) :
    State.Keeps pq (State.causeSafe s cause) := by
  unfold State.causeSafe
  refine State.Keeps.ite ?_ ?_
  · exact (State.failModes_keeps (State.enterSafe_keeps hs))
  · exact hs

/-- causeLocked keeps a sound state and the queue. -/
theorem State.causeLocked_keeps {pq : List Instr} {s : State} {from_ : Nat} {cause : Nat} (hs : s.Keeps pq) :
    State.Keeps pq (State.causeLocked s from_ cause) := by
  unfold State.causeLocked
  refine State.Keeps.ite ?_ ?_
  · exact hs
  · refine State.setB_keeps ?_
    refine State.Keeps.ite ?_ ?_
    · exact hs
    · exact (State.failModes_keeps (State.enterSafe_keeps hs))

/-- releaseSafe keeps a sound state and the queue. -/
theorem State.releaseSafe_keeps {pq : List Instr} {s : State} (hs : s.Keeps pq) :
    State.Keeps pq (State.releaseSafe s) := by
  unfold State.releaseSafe
  extract_lets held again __src s1
  have h_s1 : State.Keeps pq s1 := (State.pwr_keeps hs)
  clear_value s1
  exact (State.Keeps.overList (fun _ _ h2 => by
        extract_lets __src_1
        refine State.Keeps.ite ?_ ?_
        · exact (State.pinStatic_keeps (State.setPin_keeps h2))
        · exact h2) h_s1)

/-- frontsAfresh keeps a sound state and the queue. -/
theorem State.frontsAfresh_keeps {pq : List Instr} {s : State} (hs : s.Keeps pq) :
    State.Keeps pq (State.frontsAfresh s) := by
  unfold State.frontsAfresh
  exact (State.Keeps.overList (fun _ _ h1 => (State.setTe_keeps h1)) hs)

/-- idleEntry keeps a sound state and the queue. -/
theorem State.idleEntry_keeps {pq : List Instr} {s : State} (hs : s.Keeps pq) :
    State.Keeps pq (State.idleEntry s) := by
  unfold State.idleEntry
  extract_lets s1 s2
  have h_s1 : State.Keeps pq s1 := (State.Keeps.overList (fun _ _ h1 => (State.setPart_keeps h1)) (State.engIdle_keeps
      (State.points_keeps hs)))
  clear_value s1
  have h_s2 : State.Keeps pq s2 := (State.Keeps.overList (fun _ _ h2 => (State.setBk_keeps h2)) h_s1)
  clear_value s2
  exact (State.Keeps.overList (fun _ _ h3 => (State.setVlv_keeps h3)) h_s2)

/-- configEntry keeps a sound state and the queue. -/
theorem State.configEntry_keeps {pq : List Instr} {s : State} (hs : s.Keeps pq) :
    State.Keeps pq (State.configEntry s) := by
  unfold State.configEntry
  refine State.Keeps.ite ?_ ?_
  · exact (State.Keeps.overList (fun _ _ h1 => (State.setB_keeps h1)) hs)
  · exact hs

/-- shedPins keeps a sound state and the queue. -/
theorem State.shedPins_keeps {pq : List Instr} {s : State} (hs : s.Keeps pq) :
    State.Keeps pq (State.shedPins s) := by
  unfold State.shedPins
  exact (State.Keeps.overList (fun _ _ h1 => (State.pinStatic_keeps h1)) hs)

/-- enterMode keeps a sound state and the queue. -/
theorem State.enterMode_keeps {pq : List Instr} {s : State} {m : Nat} {cause : Nat} (hs : s.Keeps pq) :
    State.Keeps pq (State.enterMode s m cause) := by
  unfold State.enterMode
  extract_lets old s1 s2 s3 s4 s5 s6
  have h_s1 : State.Keeps pq s1 := by
    refine State.Keeps.ite ?_ ?_
    · exact (State.engWake_keeps (State.trkAllAcquire_keeps hs))
    · exact hs
  clear_value s1
  have h_s2 : State.Keeps pq s2 := by
    refine State.Keeps.ite ?_ ?_
    · exact (State.twinChange_keeps h_s1)
    · exact h_s1
  clear_value s2
  have h_s3 : State.Keeps pq s3 := by
    refine State.Keeps.ite ?_ ?_
    · exact (State.valvesStop_keeps (State.shedPins_keeps (State.evClear_keeps h_s2)))
    · exact h_s2
  clear_value s3
  have h_s4 : State.Keeps pq s4 := (State.markMode_keeps h_s3)
  clear_value s4
  have h_s5 : State.Keeps pq s5 := by
    refine State.Keeps.ite ?_ ?_
    · exact (State.releaseSafe_keeps h_s4)
    · exact h_s4
  clear_value s5
  have h_s6 : State.Keeps pq s6 := by
    unfold s6
    split
    · exact (State.configEntry_keeps h_s5)
    · exact (State.idleEntry_keeps h_s5)
    · exact (State.frontsAfresh_keeps h_s5)
    · exact (State.frontsAfresh_keeps h_s5)
    · exact h_s5
  clear_value s6
  refine State.Keeps.ite ?_ ?_
  · exact (State.enterSafe_keeps hs)
  · refine State.Keeps.ite ?_ ?_
    · exact (State.engFirsts_keeps (State.modeSettle_keeps h_s6))
    · exact (State.modeSettle_keeps h_s6)

/-- modeRow keeps a sound state and the queue. -/
theorem State.modeRow_keeps {pq : List Instr} {s : State} (hs : s.Keeps pq) :
    State.Keeps pq (State.modeRow s) := by
  unfold State.modeRow
  refine State.Keeps.ite ?_ ?_
  · exact hs
  · exact (State.Keeps.overList (fun _ _ h1 => by
        split
        · exact h1
        · refine State.Keeps.ite ?_ ?_
          · exact h1
          · refine State.Keeps.ite ?_ ?_
            · exact (State.complete_keeps h1)
            · split
              · exact (State.complete_keeps h1)
              · exact (State.complete_keeps (State.enterMode_keeps h1))) hs)

/-- policyMode keeps a sound state and the queue. -/
theorem State.policyMode_keeps {pq : List Instr} {s : State} {m : Nat} {cause : Nat} {c : LogCode} (hs : s.Keeps pq) :
    State.Keeps pq (State.policyMode s m cause c) := by
  unfold State.policyMode
  exact (State.failModes_keeps (State.log_keeps (State.markMode_keeps hs)))

/-- policy keeps a sound state and the queue. -/
theorem State.policy_keeps {pq : List Instr} {s : State} (hs : s.Keeps pq) :
    State.Keeps pq (State.policy s) := by
  unfold State.policy
  extract_lets all s1 __src
  have h_s1 : State.Keeps pq s1 := by
    refine State.Keeps.ite ?_ ?_
    · exact hs
    · refine State.Keeps.ite ?_ ?_
      · exact (State.causeSafe_keeps hs)
      · refine State.Keeps.ite ?_ ?_
        · exact (State.causeSafe_keeps hs)
        · refine State.Keeps.ite ?_ ?_
          · exact (State.policyMode_keeps hs)
          · refine State.Keeps.ite ?_ ?_
            · exact (State.policyMode_keeps hs)
            · exact hs
  clear_value s1
  exact (State.sys_keeps h_s1)

/-- watchdog keeps a sound state and the queue. -/
theorem State.watchdog_keeps {pq : List Instr} {s : State} (hs : s.Keeps pq) :
    State.Keeps pq (State.watchdog s) := by
  unfold State.watchdog
  refine State.Keeps.ite ?_ ?_
  · exact hs
  · exact (State.causeLocked_keeps (State.log_keeps hs))

/-- clockLost keeps a sound state and the queue. -/
theorem State.clockLost_keeps {pq : List Instr} {s : State} {c : LogCode} (hs : s.Keeps pq) :
    State.Keeps pq (State.clockLost s c) := by
  unfold State.clockLost
  extract_lets s1 s2 __src
  have h_s1 : State.Keeps pq s1 := (State.setB_keeps (State.setB_keeps hs))
  clear_value s1
  have h_s2 : State.Keeps pq s2 := by
    refine State.Keeps.ite ?_ ?_
    · exact h_s1
    · exact (State.trkAllLost_keeps (State.causeLocked_keeps (State.log_keeps h_s1)))
  clear_value s2
  exact (State.tb_keeps h_s2)

/-- clockBack keeps a sound state and the queue. -/
theorem State.clockBack_keeps {pq : List Instr} {s : State} (hs : s.Keeps pq) :
    State.Keeps pq (State.clockBack s) := by
  unfold State.clockBack
  exact (State.setB_keeps (State.setB_keeps hs))

/-- memEcc keeps a sound state and the queue. -/
theorem State.memEcc_keeps {q : List Instr} {s : State} {patchArea : Bool} (h : s.Keeps q) :
    State.Keeps q (State.memEcc s patchArea) := by
  unfold State.memEcc
  extract_lets s1 a b s2
  have h1 : State.Keeps q s1 := State.log_keeps h
  clear_value s1
  have h2 : State.Keeps q s2 := State.Keeps.ite (State.sys_keeps (State.setB_keeps h1)) h1
  exact State.Keeps.ite h (State.causeSafe_keeps h2)

/-- strapIn keeps a sound state and the queue. -/
theorem State.strapIn_keeps {pq : List Instr} {s : State} {v : Nat} (hs : s.Keeps pq) :
    State.Keeps pq (State.strapIn s v) := by
  unfold State.strapIn
  exact (State.setF_keeps (State.wr_keeps hs))

/-- logDrain keeps a sound state and the queue. -/
theorem State.logDrain_keeps {pq : List Instr} {s : State} (hs : s.Keeps pq) :
    State.Keeps pq (State.logDrain s) := by
  unfold State.logDrain
  exact (State.Keeps.overList (fun _ _ h1 => (State.logNext_keeps h1)) hs)

/-- warmReset keeps a sound state and the queue. -/
theorem State.warmReset_keeps {q : List Instr} {s : State} {bit straps : Nat} (h : s.Keeps q) :
    State.Keeps q (State.warmReset s bit straps) := by
  unfold State.warmReset
  extract_lets s0 keep a b c r0 r1 r2
  have h0 : State.Keeps q s0 := State.logDrain_keeps h
  clear_value s0
  have hr : State.Keeps q r0 := by
    have hw : Sparse.wf (fun _ => (0 : Word)) s0.logW = true := h0.1.1.2.2.2.2.2.2.2.2.2.2.2.2.2.2.2.2.2.2.2.2.2.2.2.2.2
    exact ⟨⟨⟨rfl, rfl, rfl, rfl, rfl, rfl, rfl, rfl, rfl, rfl, rfl, rfl, rfl, rfl, rfl, rfl, rfl, rfl, rfl, rfl, rfl, rfl, rfl,
      rfl, rfl, hw⟩, Nat.zero_le _, Nat.zero_le _, Nat.zero_le _⟩, h0.2⟩
  have h1 : State.Keeps q r1 := State.Keeps.overList (fun _ _ hx => State.wr_keeps hx) hr
  have h2 : State.Keeps q r2 := State.setF_keeps (State.setB_keeps h1)
  exact State.strapIn_keeps (State.flag_keeps (State.setB_keeps h2))

/-- pinReset keeps a sound state and the queue. -/
theorem State.pinReset_keeps {pq : List Instr} {s : State} {lenNs : Nat} {straps : Nat} (hs : s.Keeps pq) :
    State.Keeps pq (State.pinReset s lenNs straps) := by
  unfold State.pinReset
  refine State.Keeps.ite ?_ ?_
  · exact (State.warmReset_keeps hs)
  · exact hs

/-- softReset keeps a sound state and the queue. -/
theorem State.softReset_keeps {pq : List Instr} {s : State} (hs : s.Keeps pq) :
    State.Keeps pq (State.softReset s) := by
  unfold State.softReset
  split
  · refine State.Keeps.ite ?_ ?_
    · exact (State.warmReset_keeps hs)
    · exact hs
  · exact hs

/-- coldReset keeps a sound state and the queue. -/
theorem State.coldReset_keeps {q : List Instr} {s : State} {causes : Nat} {pos : SeqPos} (h : s.Keeps q) :
    State.Keeps q (State.coldReset s causes pos) := by
  unfold State.coldReset
  extract_lets a b r
  have hr : State.Keeps q r :=
    ⟨⟨⟨rfl, rfl, rfl, rfl, rfl, rfl, rfl, rfl, rfl, rfl, rfl, rfl, rfl, rfl, rfl, rfl, rfl, rfl, rfl, rfl, rfl, rfl, rfl,
      rfl, rfl, rfl⟩, Nat.zero_le _, Nat.zero_le _, Nat.zero_le _⟩, h.2⟩
  exact State.setF_keeps (State.wr_keeps hr)

/-- coldRow keeps a sound state and the queue. -/
theorem State.coldRow_keeps {pq : List Instr} {s : State} {c : ColdCause} {withPin : Bool} (hs : s.Keeps pq) :
    State.Keeps pq (State.coldRow s c withPin) := by
  unfold State.coldRow
  extract_lets soft warm
  split
  · exact (State.coldReset_keeps hs)
  · exact (State.coldReset_keeps hs)
  · exact (State.coldReset_keeps hs)

/-- setBoot keeps a sound state and the queue. -/
theorem State.setBoot_keeps {pq : List Instr} {s : State} {p : BootPos} (hs : s.Keeps pq) :
    State.Keeps pq (State.setBoot s p) := by
  unfold State.setBoot
  exact (State.sys_keeps hs)

/-- bootPatch keeps a sound state and the queue. -/
theorem State.bootPatch_keeps {pq : List Instr} {s : State} (hs : s.Keeps pq) :
    State.Keeps pq (State.bootPatch s) := by
  unfold State.bootPatch
  extract_lets __src s0 __src_1 s1
  have h_s0 : State.Keeps pq s0 := (State.sys_keeps hs)
  clear_value s0
  have h_s1 : State.Keeps pq s1 := (State.sys_keeps h_s0)
  clear_value s1
  refine State.Keeps.ite ?_ ?_
  · exact h_s0
  · refine State.Keeps.ite ?_ ?_
    · exact (State.setB_keeps (State.sys_keeps h_s0))
    · exact (State.log_keeps (State.setB_keeps (State.setB_keeps h_s1)))

/-- clearWords keeps a sound state and the queue. -/
theorem State.clearWords_keeps {q : List Instr} {s : State} {lo hi : Nat} (h : s.Keeps q) :
    State.Keeps q (State.clearWords s lo hi) :=
  State.Keeps.same (State.regs_filter_keeps (f := fun e => decide (e.1 < lo) || decide (hi ≤ e.1)) h) rfl

/-- bistClear keeps a sound state and the queue. -/
theorem State.bistClear_keeps {q : List Instr} {s : State} {k : Nat} (h : s.Keeps q) :
    State.Keeps q (State.bistClear s k) := by
  unfold State.bistClear
  split
  · exact State.Keeps.same (State.entries_nil_keeps (State.clearWords_keeps h)) rfl
  · exact State.Keeps.overList (fun _ _ hx => State.setTr_keeps hx) (State.clearWords_keeps h)
  · exact State.Keeps.overList (fun _ _ hx => State.setTr_keeps hx) (State.clearWords_keeps h)
  · exact State.clearWords_keeps h
  · exact State.Keeps.overList (fun _ _ hx => State.setRn_keeps (State.clearWords_keeps hx)) h
  · exact State.Keeps.overList (fun _ _ hx => State.coilCommit_keeps hx) (State.clearWords_keeps h)
  · exact State.pool_nil_keeps h
  · have hc : Sparse.wf (fun _ => ({} : DmaChan)) s.chans = true := h.1.1.2.2.2.2.2.2.2.2.2.2.2.2.2.2.2.2.2.2.2.2.2.2.2.2.1
    refine State.chans_keeps (Sparse.wf_map (fun v : DmaChan => { v with jobs := v.jobs.map (fun j =>
      { j with reads := j.reads.map (fun r => { r with data := r.data.map (fun d => d.map (fun _ => (0, false))) }) }) })
      (fun _ v hv => ?_) hc) h
    have hj := congrArg DmaChan.jobs hv
    have hn : v.jobs = [] := List.map_eq_nil_iff.mp hj
    cases v
    simp only at hn
    subst hn
    exact hv
  · exact h

/-- bootClear keeps a sound state and the queue. -/
theorem State.bootClear_keeps {q : List Instr} {s : State} (h : s.Keeps q) : State.Keeps q (State.bootClear s) :=
  State.pages_nil_keeps (State.clearWords_keeps (State.Keeps.overList (fun _ _ hx => State.bistClear_keeps hx) h))

/-- bootStep keeps a sound state and the queue. -/
theorem State.bootStep_keeps {pq : List Instr} {s : State} {x : BootStage} (hs : s.Keeps pq) :
    State.Keeps pq (State.bootStep s x) := by
  unfold State.bootStep
  extract_lets s1
  have h_s1 : State.Keeps pq s1 := (State.setB_keeps (State.setB_keeps (State.setB_keeps hs)))
  clear_value s1
  refine State.Keeps.ite ?_ ?_
  · exact hs
  · split
    · extract_lets s2 __src
      have h_s2 : State.Keeps pq s2 := (State.setB_keeps (State.setB_keeps (State.setB_keeps h_s1)))
      clear_value s2
      exact (State.setBoot_keeps (State.Keeps.same h_s2 rfl))
    · refine State.Keeps.ite ?_ ?_
      · exact (State.setBoot_keeps hs)
      · exact (State.setBoot_keeps (State.setB_keeps hs))
    · exact (State.log_keeps (State.setBoot_keeps (State.bootClear_keeps hs)))
    · refine State.Keeps.ite ?_ ?_
      · exact (State.setBoot_keeps (State.setB_keeps hs))
      · exact (State.log_keeps (State.setBoot_keeps (State.setB_keeps hs)))
    · exact (State.bootPatch_keeps hs)
    · exact hs

/-- bootEnd keeps a sound state and the queue. -/
theorem State.bootEnd_keeps {pq : List Instr} {s : State} {us : Nat} (hs : s.Keeps pq) :
    State.Keeps pq (State.bootEnd s us) := by
  unfold State.bootEnd
  extract_lets s1 __src __src_1
  have h_s1 : State.Keeps pq s1 := (State.enterMode_keeps (State.setF_keeps (State.setBoot_keeps hs)))
  clear_value s1
  have h___src : State.Keeps pq __src := (State.log_keeps h_s1)
  refine State.Keeps.ite ?_ ?_
  · exact hs
  · refine State.Keeps.ite ?_ ?_
    · exact (State.pwr_keeps h___src)
    · exact h_s1

/-- tap keeps a sound state and the queue. -/
theorem State.tap_keeps {pq : List Instr} {s : State} {i : TapInsn} {resetLow : Bool} {cells : List Bool} (hs : s.Keeps pq) :
    State.Keeps pq (State.tap s i resetLow cells) := by
  unfold State.tap
  extract_lets i_1 pins data pre __src
  exact (State.sys_keeps hs)

end Sys2Proof.Machine
end

