-- ==== Sys2Proof/Laws/Keep/Power.lean ====
section
/-! SUPPORT. Every operation of Machine/Power.lean keeps a sound state and the queue of waiting commands. -/

namespace Sys2Proof.Machine

open Sys2Proof

/-- setSeq keeps a sound state and the queue. -/
theorem State.setSeq_keeps {pq : List Instr} {s : State} {p : SeqPos} (hs : s.Keeps pq) :
    State.Keeps pq (State.setSeq s p) := by
  unfold State.setSeq
  exact (State.pwr_keeps hs)

/-- seqOut keeps a sound state and the queue. -/
theorem State.seqOut_keeps {pq : List Instr} {s : State} {k : Nat} {on : Bool} (hs : s.Keeps pq) :
    State.Keeps pq (State.seqOut s k on) := by
  unfold State.seqOut
  extract_lets l
  exact (State.setF_keeps hs)

/-- vdd33 keeps a sound state and the queue. -/
theorem State.vdd33_keeps {pq : List Instr} {s : State} (hs : s.Keeps pq) :
    State.Keeps pq (State.vdd33 s) := by
  unfold State.vdd33
  refine State.Keeps.ite ?_ ?_
  · exact (State.setSeq_keeps hs)
  · exact hs

/-- seqDelay keeps a sound state and the queue. -/
theorem State.seqDelay_keeps {pq : List Instr} {s : State} {straps : Nat} (hs : s.Keeps pq) :
    State.Keeps pq (State.seqDelay s straps) := by
  unfold State.seqDelay
  extract_lets s1 __src
  have h_s1 : State.Keeps pq s1 := (State.strapIn_keeps (State.markMode_keeps (State.setSeq_keeps hs)))
  clear_value s1
  refine State.Keeps.ite ?_ ?_
  · exact hs
  · split
    · exact (State.setSeq_keeps (State.seqOut_keeps hs))
    · exact (State.pwr_keeps h_s1)
    · exact hs

/-- seqGood keeps a sound state and the queue. -/
theorem State.seqGood_keeps {pq : List Instr} {s : State} {r : Rail} (hs : s.Keeps pq) :
    State.Keeps pq (State.seqGood s r) := by
  unfold State.seqGood
  split
  · exact (State.setSeq_keeps (State.seqOut_keeps hs))
  · exact (State.setSeq_keeps hs)
  · exact hs

/-- seqTimeout keeps a sound state and the queue. -/
theorem State.seqTimeout_keeps {pq : List Instr} {s : State} (hs : s.Keeps pq) :
    State.Keeps pq (State.seqTimeout s) := by
  unfold State.seqTimeout
  extract_lets s1 k __src
  have h_s1 : State.Keeps pq s1 := (State.seqOut_keeps (State.seqOut_keeps hs))
  clear_value s1
  refine State.Keeps.ite ?_ ?_
  · refine State.Keeps.ite ?_ ?_
    · exact (State.setB_keeps (State.pwr_keeps h_s1))
    · exact (State.pwr_keeps h_s1)
  · exact hs

/-- seqRetry keeps a sound state and the queue. -/
theorem State.seqRetry_keeps {pq : List Instr} {s : State} (hs : s.Keeps pq) :
    State.Keeps pq (State.seqRetry s) := by
  unfold State.seqRetry
  refine State.Keeps.ite ?_ ?_
  · exact (State.setSeq_keeps (State.seqOut_keeps hs))
  · exact hs

/-- seqCommit keeps a sound state and the queue. -/
theorem State.seqCommit_keeps {pq : List Instr} {s : State} {old : Nat} (hs : s.Keeps pq) :
    State.Keeps pq (State.seqCommit s old) := by
  unfold State.seqCommit
  extract_lets req rise fall p
  refine State.Keeps.ite ?_ ?_
  · exact (State.setF_keeps hs)
  · exact (State.pwr_keeps hs)

/-- seqNext keeps a sound state and the queue. -/
theorem State.seqNext_keeps {pq : List Instr} {s : State} {on : Bool} (hs : s.Keeps pq) :
    State.Keeps pq (State.seqNext s on) := by
  unfold State.seqNext
  extract_lets g d asked s1 gone __src p
  have h_s1 : State.Keeps pq s1 := (State.Keeps.overList (fun _ _ h1 => (State.seqOut_keeps h1)) hs)
  clear_value s1
  refine State.Keeps.ite ?_ ?_
  · exact hs
  · exact (State.pwr_keeps h_s1)

/-- seqStep keeps a sound state and the queue. -/
theorem State.seqStep_keeps {pq : List Instr} {s : State} (hs : s.Keeps pq) :
    State.Keeps pq (State.seqStep s) := by
  unfold State.seqStep
  exact (State.seqNext_keeps (State.seqNext_keeps hs))

/-- railUv keeps a sound state and the queue. -/
theorem State.railUv_keeps {pq : List Instr} {s : State} {r : Rail} (hs : s.Keeps pq) :
    State.Keeps pq (State.railUv s r) := by
  unfold State.railUv
  extract_lets s1 __src __src_1 s2
  have h_s1 : State.Keeps pq s1 := (State.setB_keeps (State.setB_keeps hs))
  clear_value s1
  have h___src : State.Keeps pq __src := (State.log_keeps h_s1)
  have h_s2 : State.Keeps pq s2 := (State.pwr_keeps h___src)
  clear_value s2
  split
  · exact (State.coldReset_keeps hs)
  · exact (State.coldReset_keeps hs)
  · exact (State.coldReset_keeps hs)
  · refine State.Keeps.ite ?_ ?_
    · exact hs
    · exact (State.modeSettle_keeps (State.causeSafe_keeps h_s2))

/-- railOv keeps a sound state and the queue. -/
theorem State.railOv_keeps {pq : List Instr} {s : State} {r : Rail} (hs : s.Keeps pq) :
    State.Keeps pq (State.railOv s r) := by
  unfold State.railOv
  extract_lets k s1
  have h_s1 : State.Keeps pq s1 := (State.setB_keeps (State.flag_keeps hs))
  clear_value s1
  refine State.Keeps.ite ?_ ?_
  · exact hs
  · exact (State.causeSafe_keeps (State.pulse_keeps (State.log_keeps h_s1)))

/-- railWarn keeps a sound state and the queue. -/
theorem State.railWarn_keeps {pq : List Instr} {s : State} {r : Rail} (hs : s.Keeps pq) :
    State.Keeps pq (State.railWarn s r) := by
  unfold State.railWarn
  extract_lets k
  refine State.Keeps.ite ?_ ?_
  · exact hs
  · exact (State.pulse_keeps (State.log_keeps (State.setB_keeps (State.flag_keeps hs))))

/-- railClear keeps a sound state and the queue. -/
theorem State.railClear_keeps {pq : List Instr} {s : State} {r : Rail} (hs : s.Keeps pq) :
    State.Keeps pq (State.railClear s r) := by
  unfold State.railClear
  extract_lets k
  refine State.Keeps.ite ?_ ?_
  · exact (State.unflag_keeps hs)
  · exact (State.unflag_keeps (State.unflag_keeps hs))

/-- vgdBack keeps a sound state and the queue. -/
theorem State.vgdBack_keeps {pq : List Instr} {s : State} (hs : s.Keeps pq) :
    State.Keeps pq (State.vgdBack s) := by
  unfold State.vgdBack
  extract_lets s1 __src
  have h_s1 : State.Keeps pq s1 := (State.setB_keeps hs)
  clear_value s1
  exact (State.modeSettle_keeps (State.pwr_keeps h_s1))

/-- rampCommit keeps a sound state and the queue. -/
theorem State.rampCommit_keeps {pq : List Instr} {s : State} (hs : s.Keeps pq) :
    State.Keeps pq (State.rampCommit s) := by
  unfold State.rampCommit
  extract_lets bad s1
  have h_s1 : State.Keeps pq s1 := (State.setB_keeps hs)
  clear_value s1
  refine State.Keeps.ite ?_ ?_
  · exact (State.log_keeps h_s1)
  · exact h_s1

/-- pfail keeps a sound state and the queue. -/
theorem State.pfail_keeps {pq : List Instr} {s : State} {pin : Bool} {vs : Nat} {held : Nat} (hs : s.Keeps pq) :
    State.Keeps pq (State.pfail s pin vs held) := by
  unfold State.pfail
  extract_lets s1 s2 s3 s4 __src
  have h_s1 : State.Keeps pq s1 := (State.log_keeps (State.setB_keeps (State.setB_keeps hs)))
  clear_value s1
  have h_s2 : State.Keeps pq s2 := (State.pulse_keeps h_s1)
  clear_value s2
  have h_s3 : State.Keeps pq s3 := by
    refine State.Keeps.ite ?_ ?_
    · exact (State.enterMode_keeps h_s2)
    · exact h_s2
  clear_value s3
  have h_s4 : State.Keeps pq s4 := (State.evClear_keeps (State.setF_keeps (State.setB_keeps h_s3)))
  clear_value s4
  refine State.Keeps.ite ?_ ?_
  · exact hs
  · refine State.Keeps.ite ?_ ?_
    · exact (State.setB_keeps hs)
    · refine State.Keeps.ite ?_ ?_
      · exact h_s2
      · refine State.Keeps.ite ?_ ?_
        · exact (State.causeSafe_keeps h_s2)
        · exact (State.pwr_keeps h_s4)

/-- rampEnd keeps a sound state and the queue. -/
theorem State.rampEnd_keeps {pq : List Instr} {s : State} (hs : s.Keeps pq) :
    State.Keeps pq (State.rampEnd s) := by
  unfold State.rampEnd
  extract_lets s1
  have h_s1 : State.Keeps pq s1 := (State.log_keeps (State.setB_keeps (State.setB_keeps hs)))
  clear_value s1
  exact (State.causeSafe_keeps (State.pulse_keeps h_s1))

/-- holdPin keeps a sound state and the queue. -/
theorem State.holdPin_keeps {pq : List Instr} {s : State} {l : Nat} {p : Nat} (hs : s.Keeps pq) :
    State.Keeps pq (State.holdPin s l p) := by
  unfold State.holdPin
  exact (State.pwr_keeps hs)

/-- banksOff keeps a sound state and the queue. -/
theorem State.banksOff_keeps {pq : List Instr} {s : State} {mask : Nat} (hs : s.Keeps pq) :
    State.Keeps pq (State.banksOff s mask) := by
  unfold State.banksOff
  exact (State.vEndAll_keeps hs (fun _ _ h1 => (State.cancelSupply_keeps h1)) (fun _ _ h1 => (State.vStop_keeps h1)))

/-- rampAct keeps a sound state and the queue. -/
theorem State.rampAct_keeps {pq : List Instr} {s : State} {op : Nat} {arg : Nat} (hs : s.Keeps pq) :
    State.Keeps pq (State.rampAct s op arg) := by
  unfold State.rampAct
  extract_lets __src s1 s1_1 __src_1
  have h_s1 : State.Keeps pq s1 := (State.pwr_keeps hs)
  clear_value s1
  have h_s1_1 : State.Keeps pq s1_1 := (State.Keeps.overList (fun _ _ h2 => (State.seqOut_keeps h2)) hs)
  clear_value s1_1
  split
  · exact (State.banksOff_keeps hs)
  · exact (State.Keeps.overList (fun _ _ h3 => (State.bankSettle_keeps h3)) (State.banksOff_keeps h_s1))
  · exact (State.bstCompare_keeps (State.pwr_keeps hs))
  · exact (State.guardSettle_keeps (State.pwr_keeps hs))
  · refine State.Keeps.ite ?_ ?_
    · exact (State.Keeps.overList (fun _ _ h3 => (State.holdPin_keeps h3)) hs)
    · exact (State.Keeps.overList (fun _ _ h3 => (State.holdPin_keeps h3)) hs)
  · exact (State.holdPin_keeps hs)
  · exact (State.holdPin_keeps hs)
  · refine State.Keeps.ite ?_ ?_
    · exact (State.Keeps.overList (fun _ _ h3 => (State.rnStop_keeps h3)) hs)
    · exact (State.rnStop_keeps hs)
  · exact (State.pwr_keeps h_s1_1)
  · exact hs

/-- rampStep keeps a sound state and the queue. -/
theorem State.rampStep_keeps {pq : List Instr} {s : State} (hs : s.Keeps pq) :
    State.Keeps pq (State.rampStep s) := by
  unfold State.rampStep
  extract_lets k w len __src s1 s2
  have h_s1 : State.Keeps pq s1 := (State.setF_keeps (State.pwr_keeps hs))
  clear_value s1
  have h_s2 : State.Keeps pq s2 := (State.rampAct_keeps h_s1)
  clear_value s2
  refine State.Keeps.ite ?_ ?_
  · exact hs
  · refine State.Keeps.ite ?_ ?_
    · exact (State.rampEnd_keeps h_s2)
    · exact h_s2

/-- pfailOver keeps a sound state and the queue. -/
theorem State.pfailOver_keeps {pq : List Instr} {s : State} (hs : s.Keeps pq) :
    State.Keeps pq (State.pfailOver s) := by
  unfold State.pfailOver
  extract_lets __src
  refine State.Keeps.ite ?_ ?_
  · exact hs
  · exact (State.setB_keeps (State.pwr_keeps hs))

/-- pfailCleared keeps a sound state and the queue. -/
theorem State.pfailCleared_keeps {pq : List Instr} {s : State} (hs : s.Keeps pq) :
    State.Keeps pq (State.pfailCleared s) := by
  unfold State.pfailCleared
  extract_lets __src
  refine State.Keeps.ite ?_ ?_
  · exact (State.log_keeps (State.pwr_keeps hs))
  · exact hs

/-- pmbStart keeps a sound state and the queue. -/
theorem State.pmbStart_keeps {pq : List Instr} {s : State} {j : PmbJob} (hs : s.Keeps pq) :
    State.Keeps pq (State.pmbStart s j) := by
  unfold State.pmbStart
  exact (State.setB_keeps (State.pwr_keeps hs))

/-- pmbQueue keeps a sound state and the queue. -/
theorem State.pmbQueue_keeps {pq : List Instr} {s : State} {j : PmbJob} {first : Bool} (hs : s.Keeps pq) :
    State.Keeps pq (State.pmbQueue s j first) := by
  unfold State.pmbQueue
  extract_lets __src
  refine State.Keeps.ite ?_ ?_
  · exact (State.pmbStart_keeps hs)
  · exact (State.pwr_keeps hs)

/-- pmbNext keeps a sound state and the queue. -/
theorem State.pmbNext_keeps {pq : List Instr} {s : State} (hs : s.Keeps pq) :
    State.Keeps pq (State.pmbNext s) := by
  unfold State.pmbNext
  extract_lets __src
  split
  · exact (State.setB_keeps (State.pwr_keeps hs))
  · exact (State.pmbStart_keeps (State.pwr_keeps hs))

/-- pmbPoll keeps a sound state and the queue. -/
theorem State.pmbPoll_keeps {pq : List Instr} {s : State} {i : Nat} (hs : s.Keeps pq) :
    State.Keeps pq (State.pmbPoll s i) := by
  unfold State.pmbPoll
  extract_lets __src
  refine State.Keeps.ite ?_ ?_
  · exact (State.pmbStart_keeps (State.pwr_keeps hs))
  · exact hs

/-- setStale keeps a sound state and the queue. -/
theorem State.setStale_keeps {pq : List Instr} {s : State} {i : Nat} {b : Bool} (hs : s.Keeps pq) :
    State.Keeps pq (State.setStale s i b) := by
  unfold State.setStale
  extract_lets w
  exact (State.setB_keeps (State.setF_keeps hs))

/-- pollFailed keeps a sound state and the queue. -/
theorem State.pollFailed_keeps {pq : List Instr} {s : State} {i : Nat} (hs : s.Keeps pq) :
    State.Keeps pq (State.pollFailed s i) := by
  unfold State.pollFailed
  extract_lets k __src s1
  have h_s1 : State.Keeps pq s1 := (State.pwr_keeps hs)
  clear_value s1
  refine State.Keeps.ite ?_ ?_
  · exact (State.pulse_keeps (State.log_keeps (State.setStale_keeps h_s1)))
  · exact h_s1

/-- pollOk keeps a sound state and the queue. -/
theorem State.pollOk_keeps {pq : List Instr} {s : State} {i : Nat} {data : List Nat} (hs : s.Keeps pq) :
    State.Keeps pq (State.pollOk s i data) := by
  unfold State.pollOk
  extract_lets __src s1 v
  have h_s1 : State.Keeps pq s1 := (State.pwr_keeps hs)
  clear_value s1
  exact (State.setStale_keeps (State.setB_keeps (State.setF_keeps h_s1)))

/-- alertLog keeps a sound state and the queue. -/
theorem State.alertLog_keeps {pq : List Instr} {s : State} {a : Nat} (hs : s.Keeps pq) :
    State.Keeps pq (State.alertLog s a) := by
  unfold State.alertLog
  exact (State.log_keeps hs)

/-- pmbDone keeps a sound state and the queue. -/
theorem State.pmbDone_keeps {pq : List Instr} {s : State} {r : PmbResult} (hs : s.Keeps pq) :
    State.Keeps pq (State.pmbDone s r) := by
  unfold State.pmbDone
  split
  · exact hs
  · refine State.Keeps.ite ?_ ?_
    · exact hs
    · refine State.pmbNext_keeps ?_
      split
      · exact (State.pollOk_keeps hs)
      · exact (State.pollFailed_keeps hs)
      · extract_lets a
        exact (State.alertLog_keeps (State.setB_keeps (State.setF_keeps hs)))
      · exact (State.alertLog_keeps hs)
      · exact (State.complete_keeps hs)
      · exact (State.complete_keeps hs)

/-- pmbTimeout keeps a sound state and the queue. -/
theorem State.pmbTimeout_keeps {pq : List Instr} {s : State} (hs : s.Keeps pq) :
    State.Keeps pq (State.pmbTimeout s) := by
  unfold State.pmbTimeout
  extract_lets s1
  have h_s1 : State.Keeps pq s1 := (State.setB_keeps hs)
  clear_value s1
  split
  · exact hs
  · refine State.Keeps.ite ?_ ?_
    · exact hs
    · refine State.pmbNext_keeps ?_
      split
      · exact (State.pollFailed_keeps h_s1)
      · exact (State.alertLog_keeps h_s1)
      · exact (State.complete_keeps h_s1)

/-- pmbAlert keeps a sound state and the queue. -/
theorem State.pmbAlert_keeps {pq : List Instr} {s : State} {low : Bool} (hs : s.Keeps pq) :
    State.Keeps pq (State.pmbAlert s low) := by
  unfold State.pmbAlert
  extract_lets s1
  have h_s1 : State.Keeps pq s1 := (State.pulse_keeps (State.setB_keeps (State.setB_keeps hs)))
  clear_value s1
  refine State.Keeps.ite ?_ ?_
  · exact (State.setB_keeps hs)
  · refine State.Keeps.ite ?_ ?_
    · exact (State.pmbQueue_keeps h_s1)
    · exact (State.alertLog_keeps h_s1)

end Sys2Proof.Machine
end

