-- ==== Sys2Proof/Laws/Keep/EventActions.lean ====
section
/-! SUPPORT. Every operation of Machine/EventActions.lean keeps a sound state and the queue of waiting commands. -/

namespace Sys2Proof.Machine

open Sys2Proof

/-- freeSlots keeps a sound state and the queue. -/
theorem State.freeSlots_keeps {pq : List Instr} {s : State} (hs : s.Keeps pq) :
    State.Keeps pq (State.freeSlots s) := by
  unfold State.freeSlots
  exact (State.Keeps.foldl (fun _ _ h1 => by
        extract_lets __src
        split
        · exact (State.setSl_keeps h1)
        · exact h1) hs)

/-- freeForced keeps a sound state and the queue. -/
theorem State.freeForced_keeps {pq : List Instr} {s : State} {sh : Nat} {slot : Nat} (hs : s.Keeps pq) :
    State.Keeps pq (State.freeForced s sh slot) := by
  unfold State.freeForced
  exact (State.vUnforce_keeps (State.pinRelease_keeps hs))

/-- loadSlot keeps a sound state and the queue. -/
theorem State.loadSlot_keeps {pq : List Instr} {s : State} {sh : Nat} {slot : Nat} {p : Point} (hs : s.Keeps pq) :
    State.Keeps pq (State.loadSlot s sh slot p) := by
  unfold State.loadSlot
  extract_lets k ev endAng __src s1
  have h_s1 : State.Keeps pq s1 := (State.setSl_keeps hs)
  clear_value s1
  refine State.Keeps.ite ?_ ?_
  · exact h_s1
  · exact (State.lateStart_keeps h_s1)

/-- loadPoint keeps a sound state and the queue. -/
theorem State.loadPoint_keeps {pq : List Instr} {s : State} {sh : Nat} {p : Point} (hs : s.Keeps pq) :
    State.Keeps pq (State.loadPoint s sh p) := by
  unfold State.loadPoint
  split
  · extract_lets s1
    have h_s1 : State.Keeps pq s1 := (State.loadSlot_keeps (State.freeForced_keeps hs))
    clear_value s1
    refine State.Keeps.ite ?_ ?_
    · exact (State.loadSlot_keeps h_s1)
    · exact h_s1
  · refine State.Keeps.ite ?_ ?_
    · exact (State.deferred_keeps hs)
    · exact (State.noSlot_keeps hs)

/-- moveFront keeps a sound state and the queue. -/
theorem State.moveFront_keeps {pq : List Instr} {s : State} {n : Nat} (hs : s.Keeps pq) :
    State.Keeps pq (State.moveFront s n) := by
  unfold State.moveFront
  extract_lets __src
  split
  · extract_lets d
    exact (State.setTe_keeps hs)
  · exact hs

/-- enterLoads keeps a sound state and the queue. -/
theorem State.enterLoads_keeps {pq : List Instr} {s : State} (hs : s.Keeps pq) :
    State.Keeps pq (State.enterLoads s) := by
  unfold State.enterLoads
  extract_lets all s1
  have h_s1 : State.Keeps pq s1 := (State.Keeps.overList (fun _ _ h1 => (State.loadPoint_keeps h1)) (State.Keeps.same hs rfl))
  clear_value s1
  exact (State.Keeps.overList (fun _ _ h2 => (State.moveFront_keeps h2)) h_s1)

/-- dropLoads keeps a sound state and the queue. -/
theorem State.dropLoads_keeps {pq : List Instr} {s : State} (hs : s.Keeps pq) :
    State.Keeps pq (State.dropLoads s) := by
  unfold State.dropLoads
  extract_lets s1
  have h_s1 : State.Keeps pq s1 := (State.Keeps.overList (fun _ _ h1 => (State.setEs_keeps h1)) hs)
  clear_value s1
  exact (State.Keeps.overList (fun _ _ h2 => (State.setTe_keeps h2)) (State.points_keeps h_s1))

/-- forceTarget keeps a sound state and the queue. -/
theorem State.forceTarget_keeps {pq : List Instr} {s : State} {sh : Nat} {slot : Nat} {ev : EvEntry} (hs : s.Keeps pq) :
    State.Keeps pq (State.forceTarget s sh slot ev) := by
  unfold State.forceTarget
  split
  · refine State.Keeps.ite ?_ ?_
    · exact (State.pinForce_keeps hs)
    · exact hs
  · exact (State.vForce_keeps hs)
  · exact hs

/-- twinMismatch keeps a sound state and the queue. -/
theorem State.twinMismatch_keeps {pq : List Instr} {s : State} {a : Nat} {slot : Nat} (hs : s.Keeps pq) :
    State.Keeps pq (State.twinMismatch s a slot) := by
  unfold State.twinMismatch
  extract_lets x y s1 s2 __src z
  have h_s1 : State.Keeps pq s1 := (State.forceTarget_keeps (State.dropActs_keeps hs))
  clear_value s1
  have h_s2 : State.Keeps pq s2 := by
    refine State.Keeps.ite ?_ ?_
    · exact h_s1
    · exact (State.forceTarget_keeps h_s1)
  clear_value s2
  exact (State.log_keeps (State.setSl_keeps (State.setSl_keeps h_s2)))

/-- twinCompare keeps a sound state and the queue. -/
theorem State.twinCompare_keeps {pq : List Instr} {s : State} (hs : s.Keeps pq) :
    State.Keeps pq (State.twinCompare s) := by
  unfold State.twinCompare
  extract_lets pairs bad evs chans
  exact (State.Keeps.overList (fun _ _ h1 => (State.twinMismatch_keeps h1)) (State.Keeps.overList (fun _ _ h1 =>
      (State.cancelState_keeps h1)) hs))

/-- slotRow keeps a sound state and the queue. -/
theorem State.slotRow_keeps {pq : List Instr} {s : State} (hs : s.Keeps pq) :
    State.Keeps pq (State.slotRow s) := by
  unfold State.slotRow
  refine State.Keeps.ite ?_ ?_
  · exact (State.stallCompare_keeps (State.twinCompare_keeps (State.compareAll_keeps hs)))
  · exact hs

/-- trackerRow keeps a sound state and the queue. -/
theorem State.trackerRow_keeps {pq : List Instr} {s : State} (hs : s.Keeps pq) :
    State.Keeps pq (State.trackerRow s) := by
  unfold State.trackerRow
  extract_lets s1
  have h_s1 : State.Keeps pq s1 := (State.Keeps.overList (fun _ _ h1 => (State.tickTracker_keeps h1)) hs)
  clear_value s1
  refine State.Keeps.ite ?_ ?_
  · exact hs
  · refine State.policy_keeps ?_
    refine State.Keeps.ite ?_ ?_
    · exact (State.snapAll_keeps h_s1)
    · exact h_s1

/-- trkRow keeps a sound state and the queue. -/
theorem State.trkRow_keeps {pq : List Instr} {s : State} {f : State → State} (hs : s.Keeps pq) (h_f : ∀ x0, State.Keeps pq
    x0 → State.Keeps pq (f x0)) :
    State.Keeps pq (State.trkRow s f) := by
  unfold State.trkRow
  refine State.Keeps.ite ?_ ?_
  · exact hs
  · exact (State.policy_keeps (h_f _ hs))

/-- toothRow keeps a sound state and the queue. -/
theorem State.toothRow_keeps {pq : List Instr} {s : State} {n : Nat} {onB : Bool} {x : Crossing} (hs : s.Keeps pq) :
    State.Keeps pq (State.toothRow s n onB x) := by
  unfold State.toothRow
  extract_lets s1 accepted
  have h_s1 : State.Keeps pq s1 := (State.toothEdge_keeps hs)
  clear_value s1
  refine State.policy_keeps ?_
  refine State.Keeps.ite ?_ ?_
  · exact (State.feedStalls_keeps h_s1)
  · exact h_s1

/-- act keeps a sound state and the queue. -/
theorem State.act_keeps {pq : List Instr} {s : State} {sh : Nat} {slot : Nat} {type : Nat} {action : Nat} {f : State → Act →
    State} (hs : s.Keeps pq) (h_f : ∀ x0 x1, State.Keeps pq x0 → State.Keeps pq (f x0 x1)) :
    State.Keeps pq (State.act s sh slot type action f) := by
  unfold State.act
  split
  · exact hs
  · exact (h_f _ _ (State.placed_keeps hs))

/-- actCapture keeps a sound state and the queue. -/
theorem State.actCapture_keeps {pq : List Instr} {s : State} {a : Act} (hs : s.Keeps pq) :
    State.Keeps pq (State.actCapture s a) := by
  unfold State.actCapture
  extract_lets s1
  have h_s1 : State.Keeps pq s1 := (State.stlDue_keeps hs)
  clear_value s1
  exact (State.Keeps.overList (fun _ _ h2 => (State.stlCapture1_keeps h2)) h_s1)

/-- actDose keeps a sound state and the queue. -/
theorem State.actDose_keeps {pq : List Instr} {s : State} {a : Act} (hs : s.Keeps pq) :
    State.Keeps pq (State.actDose s a) := by
  unfold State.actDose
  refine State.Keeps.ite ?_ ?_
  · exact (State.vEndEv_keeps hs)
  · exact (State.doseStart_keeps hs)

/-- actStart keeps a sound state and the queue. -/
theorem State.actStart_keeps {pq : List Instr} {s : State} {a : Act} (hs : s.Keeps pq) :
    State.Keeps pq (State.actStart s a) := by
  unfold State.actStart
  extract_lets n s1
  have h_s1 : State.Keeps pq s1 := (State.rnStart_keeps hs)
  clear_value s1
  exact (State.setF_keeps (State.setRnTr_keeps h_s1))

end Sys2Proof.Machine
end

