-- ==== Sys2Proof/Laws/Keep/TimeBase.lean ====
section
/-! SUPPORT. Every operation of Machine/TimeBase.lean keeps a sound state and the queue of waiting commands. -/

namespace Sys2Proof.Machine

open Sys2Proof

/-- beatCfg keeps a sound state and the queue. -/
theorem State.beatCfg_keeps {pq : List Instr} {s : State} {v : Word} (hs : s.Keeps pq) :
    State.Keeps pq (State.beatCfg s v) := by
  unfold State.beatCfg
  extract_lets p s1
  have h_s1 : State.Keeps pq s1 := (State.setF_keeps hs)
  clear_value s1
  refine State.Keeps.ite ?_ ?_
  · exact hs
  · refine State.Keeps.ite ?_ ?_
    · exact (State.setB_keeps h_s1)
    · refine State.Keeps.ite ?_ ?_
      · exact h_s1
      · exact (State.setF_keeps h_s1)

/-- commitCtl keeps a sound state and the queue. -/
theorem State.commitCtl_keeps {pq : List Instr} {s : State} {v : Word} (hs : s.Keeps pq) :
    State.Keeps pq (State.commitCtl s v) := by
  unfold State.commitCtl
  extract_lets s1 __src
  have h_s1 : State.Keeps pq s1 := (State.setB_keeps hs)
  clear_value s1
  refine State.Keeps.ite ?_ ?_
  · exact h_s1
  · exact (State.tb_keeps h_s1)

/-- holdExpiry keeps a sound state and the queue. -/
theorem State.holdExpiry_keeps {pq : List Instr} {s : State} (hs : s.Keeps pq) :
    State.Keeps pq (State.holdExpiry s) := by
  unfold State.holdExpiry
  extract_lets s1 __src
  have h_s1 : State.Keeps pq s1 := (State.setB_keeps (State.setB_keeps hs))
  clear_value s1
  refine State.Keeps.ite ?_ ?_
  · exact (State.log_keeps (State.tb_keeps h_s1))
  · exact hs

/-- tbLoRead keeps a sound state and the queue. -/
theorem State.tbLoRead_keeps {pq : List Instr} {s : State} {r : Requester} (hs : s.Keeps pq) :
    State.Keeps pq (State.tbLoRead s r) := by
  unfold State.tbLoRead
  exact (State.deliver_keeps (State.latch_keeps hs))

/-- tbBeatRead keeps a sound state and the queue. -/
theorem State.tbBeatRead_keeps {pq : List Instr} {s : State} {r : Requester} (hs : s.Keeps pq) :
    State.Keeps pq (State.tbBeatRead s r) := by
  unfold State.tbBeatRead
  extract_lets t
  exact (State.deliver_keeps (State.latch_keeps (State.latch_keeps hs)))

end Sys2Proof.Machine
end

