-- ==== Sys2Proof/Laws/Keep/DmaCore.lean ====
section
/-! SUPPORT. Every operation of Machine/DmaCore.lean keeps a sound state and the queue of waiting commands. -/

namespace Sys2Proof.Machine

open Sys2Proof

/-- leaveL1 keeps a sound state and the queue. -/
theorem State.leaveL1_keeps {pq : List Instr} {s : State} (hs : s.Keeps pq) :
    State.Keeps pq (State.leaveL1 s) := by
  unfold State.leaveL1
  exact (State.setF_keeps hs)

/-- outTo keeps a sound state and the queue. -/
theorem State.outTo_keeps {pq : List Instr} {s : State} {space : Nat} (hs : s.Keeps pq) :
    State.Keeps pq (State.outTo s space) := by
  unfold State.outTo
  refine State.Keeps.ite ?_ ?_
  · exact (State.leaveL1_keeps hs)
  · exact hs

/-- setCur keeps a sound state and the queue. -/
theorem State.setCur_keeps {pq : List Instr} {s : State} {n : Nat} {x : DmaAddr} (hs : s.Keeps pq) :
    State.Keeps pq (State.setCur s n x) := by
  unfold State.setCur
  exact (State.wr_keeps (State.wr_keeps (State.wr_keeps hs)))

/-- setCrc keeps a sound state and the queue. -/
theorem State.setCrc_keeps {pq : List Instr} {s : State} {n : Nat} {c : Nat} (hs : s.Keeps pq) :
    State.Keeps pq (State.setCrc s n c) := by
  unfold State.setCrc
  exact (State.setF_keeps (State.setF_keeps hs))

/-- cutBurst keeps a sound state and the queue. -/
theorem State.cutBurst_keeps {pq : List Instr} {s : State} {n : Nat} (hs : s.Keeps pq) :
    State.Keeps pq (State.cutBurst s n) := by
  unfold State.cutBurst
  extract_lets __src
  split
  · refine State.Keeps.ite ?_ ?_
    · exact (State.dma_keeps hs)
    · exact hs
  · exact hs

/-- dmaRest keeps a sound state and the queue. -/
theorem State.dmaRest_keeps {pq : List Instr} {s : State} {n : Nat} (hs : s.Keeps pq) :
    State.Keeps pq (State.dmaRest s n) := by
  unfold State.dmaRest
  extract_lets c
  refine State.Keeps.ite ?_ ?_
  · exact (State.setB_keeps (State.setB_keeps hs))
  · exact hs

/-- dmaEnd keeps a sound state and the queue. -/
theorem State.dmaEnd_keeps {pq : List Instr} {s : State} {n : Nat} {r : DmaRec} (hs : s.Keeps pq) :
    State.Keeps pq (State.dmaEnd s n r) := by
  unfold State.dmaEnd
  extract_lets c
  exact (State.setB_keeps (State.setCh_keeps (State.cutBurst_keeps hs)))

/-- recOf keeps a sound state and the queue. -/
theorem State.recOf_keeps {pq : List Instr} {s : State} {n : Nat} {j : DmaJob} {status : Nat} {exact : Bool} {ends : Bool}
    (hs : s.Keeps pq) :
    State.Keeps pq (State.recOf s n j status exact ends).1 := by
  unfold State.recOf
  extract_lets b c bytes crc s1
  have h_s1 : State.Keeps pq s1 := by
    refine State.Keeps.ite ?_ ?_
    · exact hs
    · exact (State.setF_keeps (State.draw_keeps (State.draw_keeps hs)))
  clear_value s1
  exact h_s1

/-- jobRec keeps a sound state and the queue. -/
theorem State.jobRec_keeps {pq : List Instr} {s : State} {n : Nat} {j : DmaJob} {status : Nat} {exact : Bool} {ends : Bool}
    (hs : s.Keeps pq) :
    State.Keeps pq (State.jobRec s n j status exact ends).1 := by
  unfold State.jobRec
  extract_lets x
  exact (State.setCrc_keeps (State.recOf_keeps hs))

/-- jobDone keeps a sound state and the queue. -/
theorem State.jobDone_keeps {pq : List Instr} {s : State} {n : Nat} {j : DmaJob} {rest : List DmaJob} {status : Nat} {ends :
    Bool} (hs : s.Keeps pq) :
    State.Keeps pq (State.jobDone s n j rest status ends) := by
  unfold State.jobDone
  extract_lets x c keep s1 s2
  have h_s1 : State.Keeps pq s1 := (State.setCh_keeps (State.jobRec_keeps hs))
  clear_value s1
  have h_s2 : State.Keeps pq s2 := (State.setF_keeps h_s1)
  clear_value s2
  refine State.Keeps.ite ?_ ?_
  · exact (State.dmaEnd_keeps (State.jobRec_keeps hs))
  · split
    · exact (State.setCur_keeps h_s2)
    · exact (State.setCur_keeps h_s2)

/-- dmaHead keeps a sound state and the queue. -/
theorem State.dmaHead_keeps {pq : List Instr} {s : State} {n : Nat} (hs : s.Keeps pq) :
    State.Keeps pq (State.dmaHead s n) := by
  unfold State.dmaHead
  extract_lets c stop dis mine
  refine State.Keeps.ite ?_ ?_
  · exact hs
  · split
    · extract_lets status s1
      have h_s1 : State.Keeps pq s1 := (State.jobDone_keeps hs)
      clear_value s1
      split
      · extract_lets x x_1
        refine State.Keeps.ite ?_ ?_
        · exact (State.dmaEnd_keeps (State.jobRec_keeps hs))
        · refine State.Keeps.ite ?_ ?_
          · exact hs
          · exact (State.dmaEnd_keeps (State.jobRec_keeps hs))
      · refine State.Keeps.ite ?_ ?_
        · exact hs
        · refine State.Keeps.ite ?_ ?_
          · exact (State.setCur_keeps h_s1)
          · exact h_s1
    · split
      · extract_lets y
        refine State.Keeps.ite ?_ ?_
        · exact (State.setCur_keeps (State.dmaEnd_keeps (State.recOf_keeps hs)))
        · exact hs
      · exact hs

/-- dmaFails keeps a sound state and the queue. -/
theorem State.dmaFails_keeps {pq : List Instr} {s : State} {n : Nat} {c : DmaChan} {j : DmaJob} {status : Nat} (hs : s.Keeps
    pq) :
    State.Keeps pq (State.dmaFails s n c j status) := by
  unfold State.dmaFails
  extract_lets s1 s2
  have h_s1 : State.Keeps pq s1 := (State.setF_keeps (State.setCur_keeps (State.setCh_keeps (State.cutBurst_keeps hs))))
  clear_value s1
  have h_s2 : State.Keeps pq s2 := by
    unfold s2
    split
    · exact (State.log_keeps h_s1)
    · exact h_s1
  clear_value s2
  exact (State.dmaHead_keeps h_s2)

/-- dmaFault keeps a sound state and the queue. -/
theorem State.dmaFault_keeps {pq : List Instr} {s : State} {n : Nat} {k : Nat} {status : Nat} (hs : s.Keeps pq) :
    State.Keeps pq (State.dmaFault s n k status) := by
  unfold State.dmaFault
  extract_lets c kept
  split
  · exact (State.dmaFails_keeps hs)
  · exact hs

/-- dmaBadDesc keeps a sound state and the queue. -/
theorem State.dmaBadDesc_keeps {pq : List Instr} {s : State} {n : Nat} {x : DmaAddr} {status : Nat} (hs : s.Keeps pq) :
    State.Keeps pq (State.dmaBadDesc s n x status) := by
  unfold State.dmaBadDesc
  extract_lets c j
  exact (State.dmaFails_keeps hs)

/-- dmaFetch keeps a sound state and the queue. -/
theorem State.dmaFetch_keeps {pq : List Instr} {s : State} {n : Nat} (hs : s.Keeps pq) :
    State.Keeps pq (State.dmaFetch s n) := by
  unfold State.dmaFetch
  extract_lets c
  split
  · exact hs
  · refine State.Keeps.ite ?_ ?_
    · exact hs
    · refine State.Keeps.ite ?_ ?_
      · exact (State.dmaBadDesc_keeps hs)
      · refine State.Keeps.ite ?_ ?_
        · exact (State.dmaBadDesc_keeps (State.setCh_keeps hs))
        · refine State.Keeps.ite ?_ ?_
          · exact hs
          · exact (State.setCh_keeps (State.outTo_keeps hs))

/-- takeBurst keeps a sound state and the queue. -/
theorem State.takeBurst_keeps {pq : List Instr} {s : State} {n : Nat} (hs : s.Keeps pq) :
    State.Keeps pq (State.takeBurst s n) := by
  unfold State.takeBurst
  extract_lets r s1 __src __src_1
  have h_s1 : State.Keeps pq s1 := by
    refine State.Keeps.ite ?_ ?_
    · exact (State.rnTake_keeps hs)
    · exact hs
  clear_value s1
  have h___src : State.Keeps pq __src := (State.bump_keeps h_s1)
  exact (State.dma_keeps h___src)

/-- issueOne keeps a sound state and the queue. -/
theorem State.issueOne_keeps {pq : List Instr} {s : State} (hs : s.Keeps pq) :
    State.Keeps pq (State.issueOne s) := by
  unfold State.issueOne
  split
  · exact hs
  · extract_lets c
    split
    · exact (State.cutBurst_keeps hs)
    · extract_lets x s0 j1 s1 __src
      have h_s0 : State.Keeps pq s0 := by
        refine State.outTo_keeps ?_
        refine State.Keeps.ite ?_ ?_
        · exact (State.takeBurst_keeps hs)
        · exact hs
      clear_value s0
      have h_s1 : State.Keeps pq s1 := (State.setCh_keeps h_s0)
      clear_value s1
      refine State.Keeps.ite ?_ ?_
      · exact (State.cutBurst_keeps hs)
      · refine State.Keeps.ite ?_ ?_
        · exact hs
        · refine State.Keeps.ite ?_ ?_
          · exact (State.dmaFault_keeps hs)
          · exact (State.dma_keeps h_s1)

/-- issueReads keeps a sound state and the queue. -/
theorem State.issueReads_keeps {q : List Instr} {k : Nat} {s : State} (h : s.Keeps q) :
    State.Keeps q (State.issueReads k s) := by
  induction k generalizing s with
  | zero => exact h
  | succ k ih => exact ih (State.issueOne_keeps h)

/-- pump keeps a sound state and the queue. -/
theorem State.pump_keeps {pq : List Instr} {s : State} (hs : s.Keeps pq) :
    State.Keeps pq (State.pump s) := by
  unfold State.pump
  extract_lets s1
  have h_s1 : State.Keeps pq s1 := (State.issueReads_keeps hs)
  clear_value s1
  exact (State.Keeps.overList (fun _ _ h2 => (State.dmaFetch_keeps (State.dmaHead_keeps h2))) h_s1)

/-- dmaWake keeps a sound state and the queue. -/
theorem State.dmaWake_keeps {pq : List Instr} {s : State} (hs : s.Keeps pq) :
    State.Keeps pq (State.dmaWake s) := by
  unfold State.dmaWake
  extract_lets __src
  refine State.Keeps.ite ?_ ?_
  · exact (State.dma_keeps hs)
  · refine State.Keeps.ite ?_ ?_
    · exact (State.pump_keeps (State.dma_keeps hs))
    · exact hs

/-- grantBurst keeps a sound state and the queue. -/
theorem State.grantBurst_keeps {pq : List Instr} {s : State} (hs : s.Keeps pq) :
    State.Keeps pq (State.grantBurst s) := by
  unfold State.grantBurst
  extract_lets __src
  refine State.Keeps.ite ?_ ?_
  · exact hs
  · split
    · exact hs
    · extract_lets top
      exact (State.pump_keeps (State.dma_keeps hs))

/-- dmaStart keeps a sound state and the queue. -/
theorem State.dmaStart_keeps {pq : List Instr} {s : State} {n : Nat} (hs : s.Keeps pq) :
    State.Keeps pq (State.dmaStart s n) := by
  unfold State.dmaStart
  extract_lets r taken x c
  refine State.Keeps.ite ?_ ?_
  · exact (State.setB_keeps hs)
  · exact (State.dmaFetch_keeps (State.setF_keeps (State.setCur_keeps (State.setCh_keeps hs))))

/-- trim keeps a sound state and the queue. -/
theorem State.trim_keeps {pq : List Instr} {s : State} {n : Nat} (hs : s.Keeps pq) :
    State.Keeps pq (State.trim s n) := by
  unfold State.trim
  extract_lets c
  exact (State.setCh_keeps hs)

/-- dmaStop keeps a sound state and the queue. -/
theorem State.dmaStop_keeps {pq : List Instr} {s : State} {n : Nat} (hs : s.Keeps pq) :
    State.Keeps pq (State.dmaStop s n) := by
  unfold State.dmaStop
  refine State.Keeps.ite ?_ ?_
  · exact hs
  · exact (State.dmaHead_keeps (State.trim_keeps (State.setB_keeps hs)))

/-- dmaDisable keeps a sound state and the queue. -/
theorem State.dmaDisable_keeps {pq : List Instr} {s : State} {n : Nat} (hs : s.Keeps pq) :
    State.Keeps pq (State.dmaDisable s n) := by
  unfold State.dmaDisable
  extract_lets c s1 x
  have h_s1 : State.Keeps pq s1 := (State.setB_keeps hs)
  clear_value s1
  refine State.Keeps.ite ?_ ?_
  · exact hs
  · refine State.Keeps.ite ?_ ?_
    · split
      · extract_lets x_1
        exact (State.dmaEnd_keeps (State.jobRec_keeps h_s1))
      · exact (State.dmaEnd_keeps (State.recOf_keeps h_s1))
    · exact (State.dmaHead_keeps (State.trim_keeps (State.setB_keeps hs)))

/-- dmaCtl keeps a sound state and the queue. -/
theorem State.dmaCtl_keeps {pq : List Instr} {s : State} {n : Nat} {v : Word} (hs : s.Keeps pq) :
    State.Keeps pq (State.dmaCtl s n v) := by
  unfold State.dmaCtl
  extract_lets s1
  have h_s1 : State.Keeps pq s1 := by
    refine State.Keeps.ite ?_ ?_
    · exact (State.dmaDisable_keeps hs)
    · refine State.Keeps.ite ?_ ?_
      · exact (State.dmaStop_keeps hs)
      · exact hs
  clear_value s1
  refine State.Keeps.ite ?_ ?_
  · exact (State.dmaStart_keeps h_s1)
  · exact h_s1

/-- dmaPlain keeps a sound state and the queue. -/
theorem State.dmaPlain_keeps {pq : List Instr} {s : State} {n : Nat} {a : Nat} {v : Word} (hs : s.Keeps pq) :
    State.Keeps pq (State.dmaPlain s n a v) := by
  unfold State.dmaPlain
  refine State.Keeps.ite ?_ ?_
  · exact (State.plainWr_keeps hs)
  · exact (State.setB_keeps hs)

/-- cqCfg keeps a sound state and the queue. -/
theorem State.cqCfg_keeps {pq : List Instr} {s : State} {v : Word} (hs : s.Keeps pq) :
    State.Keeps pq (State.cqCfg s v) := by
  unfold State.cqCfg
  extract_lets was s1 s2
  have h_s1 : State.Keeps pq s1 := by
    refine State.Keeps.ite ?_ ?_
    · exact hs
    · exact (State.setF_keeps hs)
  clear_value s1
  have h_s2 : State.Keeps pq s2 := (State.setB_keeps h_s1)
  clear_value s2
  refine State.Keeps.ite ?_ ?_
  · exact (State.setF_keeps (State.setB_keeps (State.setF_keeps h_s2)))
  · exact h_s2

/-- cqBase keeps a sound state and the queue. -/
theorem State.cqBase_keeps {pq : List Instr} {s : State} {a : Nat} {v : Word} (hs : s.Keeps pq) :
    State.Keeps pq (State.cqBase s a v) := by
  unfold State.cqBase
  refine State.Keeps.ite ?_ ?_
  · exact hs
  · exact (State.plainWr_keeps hs)

/-- cqTail keeps a sound state and the queue. -/
theorem State.cqTail_keeps {pq : List Instr} {s : State} {v : Word} (hs : s.Keeps pq) :
    State.Keeps pq (State.cqTail s v) := by
  unfold State.cqTail
  exact (State.setF_keeps hs)

/-- dmaHostGone keeps a sound state and the queue. -/
theorem State.dmaHostGone_keeps {pq : List Instr} {s : State} (hs : s.Keeps pq) :
    State.Keeps pq (State.dmaHostGone s) := by
  unfold State.dmaHostGone
  exact (State.Keeps.overList (fun _ _ h1 => by
        extract_lets c gone s1
        have h_s1 : State.Keeps pq s1 := (State.setCh_keeps h1)
        clear_value s1
        split
        · exact (State.dmaFault_keeps h_s1)
        · split
          · refine State.Keeps.ite ?_ ?_
            · exact (State.dmaBadDesc_keeps (State.setCh_keeps h1))
            · exact h1
          · exact h1) hs)

end Sys2Proof.Machine
end

