-- ==== Sys2Proof/Laws/Keep/HostLines.lean ====
section
/-! SUPPORT. Every operation of Machine/HostLines.lean keeps a sound state and the queue of waiting commands. -/

namespace Sys2Proof.Machine

open Sys2Proof

/-- msixPend keeps a sound state and the queue. -/
theorem State.msixPend_keeps {pq : List Instr} {s : State} {v : Nat} {on : Bool} (hs : s.Keeps pq) :
    State.Keeps pq (State.msixPend s v on) := by
  unfold State.msixPend
  refine State.Keeps.ite ?_ ?_
  · exact (State.flag_keeps hs)
  · exact (State.unflag_keeps hs)

/-- msixRaise keeps a sound state and the queue. -/
theorem State.msixRaise_keeps {pq : List Instr} {s : State} {v : Nat} (hs : s.Keeps pq) :
    State.Keeps pq (State.msixRaise s v) := by
  unfold State.msixRaise
  extract_lets __src __src_1
  have h___src : State.Keeps pq __src := (State.leaveL1_keeps (State.msixPend_keeps hs))
  refine State.Keeps.ite ?_ ?_
  · exact (State.pcie_keeps h___src)
  · exact (State.msixPend_keeps hs)

/-- hostSettle keeps a sound state and the queue. -/
theorem State.hostSettle_keeps {pq : List Instr} {s : State} (hs : s.Keeps pq) :
    State.Keeps pq (State.hostSettle s) := by
  unfold State.hostSettle
  extract_lets now new wake pme intx s0 __src s1 s2
  have h_s0 : State.Keeps pq s0 := by
    refine State.Keeps.ite ?_ ?_
    · exact (State.leaveL1_keeps hs)
    · exact hs
  clear_value s0
  have h_s1 : State.Keeps pq s1 := (State.pcie_keeps h_s0)
  clear_value s1
  have h_s2 : State.Keeps pq s2 := (State.Keeps.overList (fun _ _ h3 => (State.msixRaise_keeps h3)) h_s1)
  clear_value s2
  refine State.Keeps.ite ?_ ?_
  · exact h_s1
  · exact (State.Keeps.overList (fun _ _ h4 => by
        refine State.Keeps.ite ?_ ?_
        · exact (State.msixRaise_keeps h4)
        · exact h4) h_s2)

/-- hostEoi keeps a sound state and the queue. -/
theorem State.hostEoi_keeps {pq : List Instr} {s : State} {v : Nat} (hs : s.Keeps pq) :
    State.Keeps pq (State.hostEoi s v) := by
  unfold State.hostEoi
  refine State.Keeps.ite ?_ ?_
  · exact (State.msixRaise_keeps hs)
  · exact hs

/-- sourceEvent keeps a sound state and the queue. -/
theorem State.sourceEvent_keeps {pq : List Instr} {s : State} {g : Nat} {l : Option Bool} (hs : s.Keeps pq) :
    State.Keeps pq (State.sourceEvent s g l) := by
  unfold State.sourceEvent
  extract_lets s1
  have h_s1 : State.Keeps pq s1 := by
    unfold s1
    split
    · refine State.Keeps.ite ?_ ?_
      · exact hs
      · exact (State.pulse_keeps hs)
    · refine State.Keeps.ite ?_ ?_
      · exact (State.level_keeps hs)
      · exact hs
  clear_value s1
  exact (State.hostSettle_keeps (State.irqSettle_keeps h_s1))

end Sys2Proof.Machine
end

