-- ==== Sys2Proof/Laws/Keep/MbxRegs.lean ====
section
/-! SUPPORT. Every operation of Machine/MbxRegs.lean keeps a sound state and the queue of waiting commands. -/

namespace Sys2Proof.Machine

open Sys2Proof

/-- doorbell keeps a sound state and the queue. -/
theorem State.doorbell_keeps {pq : List Instr} {s : State} {m : Nat} {v : Word} (hs : s.Keeps pq) :
    State.Keeps pq (State.doorbell s m v) := by
  unfold State.doorbell
  extract_lets new step n bell s1 x s2
  have h_s1 : State.Keeps pq s1 := (State.setF_keeps hs)
  clear_value s1
  have h_s2 : State.Keeps pq s2 := by
    refine State.Keeps.ite ?_ ?_
    · exact h_s1
    · exact (State.setMb_keeps h_s1)
  clear_value s2
  refine State.Keeps.ite ?_ ?_
  · exact (State.pulse_keeps h_s2)
  · exact (State.logOnceFor_keeps (State.setB_keeps hs))

/-- waitEnd keeps a sound state and the queue. -/
theorem State.waitEnd_keeps {pq : List Instr} {s : State} {m : Nat} (hs : s.Keeps pq) :
    State.Keeps pq (State.waitEnd s m) := by
  unfold State.waitEnd
  exact (State.setMb_keeps (State.setB_keeps hs))

/-- mbxCfg keeps a sound state and the queue. -/
theorem State.mbxCfg_keeps {pq : List Instr} {s : State} {m : Nat} {v : Word} (hs : s.Keeps pq) :
    State.Keeps pq (State.mbxCfg s m v) := by
  unfold State.mbxCfg
  extract_lets s1 s2 s3
  have h_s1 : State.Keeps pq s1 := (State.wr_keeps hs)
  clear_value s1
  have h_s2 : State.Keeps pq s2 := (State.setB_keeps (State.setF_keeps (State.setF_keeps (State.setF_keeps (State.setB_keeps
      h_s1)))))
  clear_value s2
  have h_s3 : State.Keeps pq s3 := (State.setMb_keeps h_s2)
  clear_value s3
  refine State.Keeps.ite ?_ ?_
  · refine State.Keeps.ite ?_ ?_
    · exact (State.setB_keeps hs)
    · exact (State.waitEnd_keeps (State.setB_keeps hs))
  · refine State.Keeps.ite ?_ ?_
    · exact h_s1
    · refine State.Keeps.ite ?_ ?_
      · exact (State.setB_keeps h_s1)
      · exact (State.Keeps.overList (fun _ _ h4 => by
        extract_lets x
        exact (State.setMb_keeps h4)) h_s3)

/-- modWrite keeps a sound state and the queue. -/
theorem State.modWrite_keeps {pq : List Instr} {s : State} {c : Nat} {a : Nat} {v : Word} (hs : s.Keeps pq) :
    State.Keeps pq (State.modWrite s c a v) := by
  unfold State.modWrite
  extract_lets s1
  have h_s1 : State.Keeps pq s1 := (State.plainWr_keeps hs)
  clear_value s1
  refine State.Keeps.ite ?_ ?_
  · exact (State.releaseHold_keeps h_s1)
  · exact h_s1

/-- notHanded keeps a sound state and the queue. -/
theorem State.notHanded_keeps {pq : List Instr} {s : State} {m : Nat} (hs : s.Keeps pq) :
    State.Keeps pq (State.notHanded s m) := by
  unfold State.notHanded
  extract_lets x
  split
  · refine State.Keeps.ite ?_ ?_
    · exact (State.log_keeps (State.setMb_keeps hs))
    · exact hs
  · exact hs

end Sys2Proof.Machine
end

