-- ==== Sys2Proof/Laws/Keep/Bus.lean ====
section
/-! SUPPORT. Every operation of Machine/Bus.lean keeps a sound state and the queue of waiting commands. -/

namespace Sys2Proof.Machine

open Sys2Proof

/-- readClears keeps a sound state and the queue. -/
theorem State.readClears_keeps {pq : List Instr} {s : State} {a : Nat} (hs : s.Keeps pq) :
    State.Keeps pq (State.readClears s a) := by
  unfold State.readClears
  extract_lets m s1
  have h_s1 : State.Keeps pq s1 := (State.wr_keeps hs)
  clear_value s1
  refine State.Keeps.ite ?_ ?_
  · exact hs
  · refine State.Keeps.ite ?_ ?_
    · exact h_s1
    · exact (State.setNow_keeps h_s1)

/-- busRead keeps a sound state and the queue. -/
theorem State.busRead_keeps {pq : List Instr} {s : State} {r : Requester} {addr : Nat} (hs : s.Keeps pq) :
    State.Keeps pq (State.busRead s r addr) := by
  unfold State.busRead
  extract_lets a s_1 v s1
  have h_s_1 : State.Keeps pq s_1 := by
    refine State.Keeps.ite ?_ ?_
    · exact (State.lrnParity_keeps hs)
    · exact hs
  clear_value s_1
  have h_s1 : State.Keeps pq s1 := by
    refine State.Keeps.ite ?_ ?_
    · exact (State.latch_keeps h_s_1)
    · exact h_s_1
  clear_value s1
  refine State.Keeps.ite ?_ ?_
  · exact (State.tbBeatRead_keeps hs)
  · refine State.Keeps.ite ?_ ?_
    · exact (State.coreClaim_keeps hs)
    · refine State.Keeps.ite ?_ ?_
      · exact (State.portPull_keeps hs)
      · refine State.Keeps.ite ?_ ?_
        · exact (State.trgPeek_keeps hs)
        · split
          · exact (State.cntRead_keeps hs)
          · exact (State.deliver_keeps (State.readClears_keeps h_s1))

/-- plainBus keeps a sound state and the queue. -/
theorem State.plainBus_keeps {pq : List Instr} {s : State} {a : Nat} {v : Word} (hs : s.Keeps pq) :
    State.Keeps pq (State.plainBus s a v) := by
  unfold State.plainBus
  split
  · exact hs
  · refine State.Keeps.ite ?_ ?_
    · exact hs
    · refine State.Keeps.ite ?_ ?_
      · exact (State.shadowWr_keeps hs)
      · exact (State.wr_keeps hs)

/-- whlWrite keeps a sound state and the queue. -/
theorem State.whlWrite_keeps {pq : List Instr} {s : State} {a : Nat} {v : Word} (hs : s.Keeps pq) :
    State.Keeps pq (State.whlWrite s a v) := by
  unfold State.whlWrite
  extract_lets n
  refine State.Keeps.ite ?_ ?_
  · exact (State.setB_keeps hs)
  · exact (State.plainBus_keeps hs)

/-- stlWrite keeps a sound state and the queue. -/
theorem State.stlWrite_keeps {pq : List Instr} {s : State} {k : Nat} {o : Nat} {v : Word} (hs : s.Keeps pq) :
    State.Keeps pq (State.stlWrite s k o v) := by
  unfold State.stlWrite
  refine State.Keeps.ite ?_ ?_
  · exact hs
  · split
    · exact (State.stlCtl_keeps hs)
    · exact (State.stlPlain_keeps hs)
    · exact (State.stlPlain_keeps hs)
    · exact (State.stlFlagsWr_keeps hs)
    · exact (State.stlPlain_keeps hs)
    · exact (State.stlCnt_keeps hs)
    · exact (State.stlValue_keeps hs)
    · exact (State.stlValue_keeps hs)
    · exact (State.stlValue_keeps hs)
    · exact hs

/-- shdWrite keeps a sound state and the queue. -/
theorem State.shdWrite_keeps {pq : List Instr} {s : State} {a : Nat} {v : Word} (hs : s.Keeps pq) :
    State.Keeps pq (State.shdWrite s a v) := by
  unfold State.shdWrite
  extract_lets n o
  split
  · exact (State.stlWrite_keeps hs)
  · refine State.Keeps.ite ?_ ?_
    · exact (State.injectWrite_keeps hs)
    · refine State.Keeps.ite ?_ ?_
      · exact (State.engCtl_keeps hs)
      · refine State.Keeps.ite ?_ ?_
        · refine State.Keeps.ite ?_ ?_
          · exact hs
          · exact (State.engBoth_keeps hs (fun _ _ h1 => (State.plainBus_keeps h1)))
        · refine State.Keeps.ite ?_ ?_
          · exact (State.stlGroup_keeps hs (fun _ _ h1 => (State.stlRestart_keeps h1)))
          · refine State.Keeps.ite ?_ ?_
            · exact (State.stlGroup_keeps hs (fun _ _ h1 => (State.stlRun_keeps h1)))
            · exact (State.plainBus_keeps hs)

/-- irqWrite keeps a sound state and the queue. -/
theorem State.irqWrite_keeps {pq : List Instr} {s : State} {a : Nat} {v : Word} (hs : s.Keeps pq) :
    State.Keeps pq (State.irqWrite s a v) := by
  unfold State.irqWrite
  refine State.Keeps.ite ?_ ?_
  · exact (State.coreEoi_keeps hs)
  · refine State.Keeps.ite ?_ ?_
    · exact (State.hostEoi_keeps hs)
    · refine State.Keeps.ite ?_ ?_
      · exact (State.pendSet_keeps hs)
      · refine State.Keeps.ite ?_ ?_
        · exact (State.pendClr_keeps hs)
        · refine State.Keeps.ite ?_ ?_
          · exact (State.maskSet_keeps hs)
          · refine State.Keeps.ite ?_ ?_
            · exact (State.maskClr_keeps hs)
            · refine State.Keeps.ite ?_ ?_
              · exact (State.srcCfg_keeps hs)
              · exact (State.plainBus_keeps hs)

/-- runWrite keeps a sound state and the queue. -/
theorem State.runWrite_keeps {pq : List Instr} {s : State} {a : Nat} {v : Word} (hs : s.Keeps pq) :
    State.Keeps pq (State.runWrite s a v) := by
  unfold State.runWrite
  extract_lets n o
  clear_value o
  split
  · exact (State.rnCtl_keeps hs)
  · exact (State.rnPins_keeps hs)
  · exact (State.rnPins_keeps hs)
  · exact (State.rnFlags_keeps hs)
  · exact (State.rnFlags_keeps hs)
  · exact (State.rnInject_keeps hs)
  · refine State.Keeps.ite ?_ ?_
    · exact (State.rnProg_keeps hs)
    · exact (State.plainBus_keeps hs)

/-- trgWrite keeps a sound state and the queue. -/
theorem State.trgWrite_keeps {pq : List Instr} {s : State} {r : Requester} {a : Nat} {v : Word} (hs : s.Keeps pq) :
    State.Keeps pq (State.trgWrite s r a v) := by
  unfold State.trgWrite
  extract_lets q_1
  refine State.Keeps.ite ?_ ?_
  · exact (State.plainBus_keeps hs)
  · split
    · exact (State.trgCtl_keeps hs)
    · exact (State.trgCfg_keeps hs)
    · exact (State.portPush_keeps hs)
    · exact (State.trgRelWrite_keeps hs)
    · exact (State.plainBus_keeps hs)

/-- dmaWriteReg keeps a sound state and the queue. -/
theorem State.dmaWriteReg_keeps {pq : List Instr} {s : State} {a : Nat} {v : Word} (hs : s.Keeps pq) :
    State.Keeps pq (State.dmaWriteReg s a v) := by
  unfold State.dmaWriteReg
  extract_lets n
  refine State.Keeps.ite ?_ ?_
  · split
    · exact (State.dmaCtl_keeps hs)
    · exact (State.dmaPlain_keeps hs)
    · exact (State.dmaPlain_keeps hs)
    · exact (State.dmaPlain_keeps hs)
    · exact (State.dmaPlain_keeps hs)
    · exact (State.dmaPlain_keeps hs)
    · exact (State.plainBus_keeps hs)
  · refine State.Keeps.ite ?_ ?_
    · exact (State.cqCfg_keeps hs)
    · refine State.Keeps.ite ?_ ?_
      · exact (State.cqBase_keeps hs)
      · refine State.Keeps.ite ?_ ?_
        · exact (State.cqTail_keeps hs)
        · exact (State.plainBus_keeps hs)

/-- mbxWrite keeps a sound state and the queue. -/
theorem State.mbxWrite_keeps {pq : List Instr} {s : State} {a : Nat} {v : Word} (hs : s.Keeps pq) :
    State.Keeps pq (State.mbxWrite s a v) := by
  unfold State.mbxWrite
  extract_lets m
  refine State.Keeps.ite ?_ ?_
  · split
    · exact (State.mbxCfg_keeps hs)
    · exact (State.doorbell_keeps hs)
    · exact (State.modWrite_keeps hs)
    · exact (State.plainBus_keeps hs)
  · refine State.Keeps.ite ?_ ?_
    · exact (State.modWrite_keeps hs)
    · exact (State.plainBus_keeps hs)

/-- busWrite keeps a sound state and the queue. -/
theorem State.busWrite_keeps {pq : List Instr} {s : State} {r : Requester} {addr : Nat} {v : Word} {still : Bool} (hs :
    s.Keeps pq) :
    State.Keeps pq (State.busWrite s r addr v still) := by
  unfold State.busWrite
  extract_lets a
  refine State.Keeps.ite ?_ ?_
  · refine State.Keeps.ite ?_ ?_
    · exact (State.plainBus_keeps hs)
    · exact hs
  · refine State.Keeps.ite ?_ ?_
    · exact (State.plainBus_keeps hs)
    · refine State.Keeps.ite ?_ ?_
      · exact (State.beatCfg_keeps hs)
      · refine State.Keeps.ite ?_ ?_
        · exact (State.commitCtl_keeps hs)
        · refine State.Keeps.ite ?_ ?_
          · exact (State.plainBus_keeps hs)
          · refine State.Keeps.ite ?_ ?_
            · exact (State.irqWrite_keeps hs)
            · refine State.Keeps.ite ?_ ?_
              · exact (State.logSel_keeps hs)
              · refine State.Keeps.ite ?_ ?_
                · exact (State.plainBus_keeps hs)
                · refine State.Keeps.ite ?_ ?_
                  · exact (State.whlWrite_keeps hs)
                  · refine State.Keeps.ite ?_ ?_
                    · exact (State.plainBus_keeps hs)
                    · refine State.Keeps.ite ?_ ?_
                      · exact (State.shdWrite_keeps hs)
                      · refine State.Keeps.ite ?_ ?_
                        · exact hs
                        · refine State.Keeps.ite ?_ ?_
                          · exact (State.runWrite_keeps hs)
                          · refine State.Keeps.ite ?_ ?_
                            · refine State.Keeps.ite ?_ ?_
                              · refine State.Keeps.ite ?_ ?_
                                · exact (State.unlock_keeps hs)
                                · exact hs
                              · exact (State.plainBus_keeps hs)
                            · refine State.Keeps.ite ?_ ?_
                              · exact (State.plainBus_keeps hs)
                              · refine State.Keeps.ite ?_ ?_
                                · exact (State.tthCtl_keeps hs)
                                · refine State.Keeps.ite ?_ ?_
                                  · exact (State.plainBus_keeps hs)
                                  · refine State.Keeps.ite ?_ ?_
                                    · exact (State.trgWrite_keeps hs)
                                    · refine State.Keeps.ite ?_ ?_
                                      · exact (State.dmaWriteReg_keeps hs)
                                      · refine State.Keeps.ite ?_ ?_
                                        · exact (State.mbxWrite_keeps hs)
                                        · refine State.Keeps.ite ?_ ?_
                                          · exact (State.yardWrite_keeps hs)
                                          · refine State.Keeps.ite ?_ ?_
                                            · exact (State.ownWrite_keeps hs)
                                            · refine State.Keeps.ite ?_ ?_
                                              · exact (State.plainBus_keeps hs)
                                              · exact (State.hostSettle_keeps (State.plainBus_keeps hs))

/-- partialWrite keeps a sound state and the queue. -/
theorem State.partialWrite_keeps {pq : List Instr} {s : State} {r : Requester} (hs : s.Keeps pq) :
    State.Keeps pq (State.partialWrite s r) := by
  unfold State.partialWrite
  exact (State.logOnceFor_keeps (State.bump_keeps hs))

/-- regWrite keeps a sound state and the queue. -/
theorem State.regWrite_keeps {pq : List Instr} {s : State} {r : Requester} {a : Nat} {v : Word} {be : BitVec 4} (hs :
    s.Keeps pq) :
    State.Keeps pq (State.regWrite s r a v be) := by
  unfold State.regWrite
  refine State.Keeps.ite ?_ ?_
  · exact (State.yardWrite_keeps hs)
  · refine State.Keeps.ite ?_ ?_
    · exact (State.busWrite_keeps hs)
    · exact (State.partialWrite_keeps hs)

/-- access keeps a sound state and the queue. -/
theorem State.access_keeps {pq : List Instr} {s : State} {x : Access} (hs : s.Keeps pq) :
    State.Keeps pq (State.access s x) := by
  unfold State.access
  extract_lets bad
  split
  · exact (State.issueWrite_keeps hs (fun _ h1 => by
        refine State.Keeps.ite ?_ ?_
        · refine State.busWrite_keeps ?_
          refine State.Keeps.ite ?_ ?_
          · exact (State.logBad_keeps h1)
          · exact h1
        · exact (State.regWrite_keeps h1)))
  · refine State.Keeps.ite ?_ ?_
    · exact (State.yardRead_keeps hs)
    · refine State.Keeps.ite ?_ ?_
      · exact (State.evtShadowRead_keeps hs)
      · refine State.Keeps.ite ?_ ?_
        · exact (State.busRead_keeps (State.spoil_keeps hs))
        · exact (State.busRead_keeps hs)

/-- bridge keeps a sound state and the queue. -/
theorem State.bridge_keeps {q : List Instr} {k : Nat} {s : State} (h : s.Keeps q) : State.Keeps q (State.bridge k s) := by
  induction k generalizing s with
  | zero => exact h
  | succ k ih =>
    unfold State.bridge
    split
    · exact h
    · exact ih (State.Keeps.ite (State.access_keeps (State.pcie_keeps h)) (State.noAccess_keeps (State.pcie_keeps h)))

/-- bridgeTick keeps a sound state and the queue. -/
theorem State.bridgeTick_keeps {pq : List Instr} {s : State} (hs : s.Keeps pq) :
    State.Keeps pq (State.bridgeTick s) := by
  unfold State.bridgeTick
  extract_lets s1
  have h_s1 : State.Keeps pq s1 := (State.portsAgain_keeps hs)
  clear_value s1
  exact (State.bridge_keeps h_s1)

end Sys2Proof.Machine
end

