-- ==== Sys2Proof/Laws/Keep/Dma.lean ====
section
/-! SUPPORT. Every operation of Machine/Dma.lean keeps a sound state and the queue of waiting commands. -/

namespace Sys2Proof.Machine

open Sys2Proof

/-- yardClears keeps a sound state and the queue. -/
theorem State.yardClears_keeps {pq : List Instr} {s : State} {o : Nat} {n : Nat} (hs : s.Keeps pq) :
    State.Keeps pq (State.yardClears s o n) := by
  unfold State.yardClears
  exact (State.Keeps.overList (fun _ _ h1 => (State.readClears_keeps h1)) hs)

/-- takeDesc keeps a sound state and the queue. -/
theorem State.takeDesc_keeps {pq : List Instr} {s : State} {n : Nat} {x : DmaAddr} {bs : List Nat} (hs : s.Keeps pq) :
    State.Keeps pq (State.takeDesc s n x bs) := by
  unfold State.takeDesc
  extract_lets c d h s1
  have h_s1 : State.Keeps pq s1 := (State.setCh_keeps hs)
  clear_value s1
  refine State.Keeps.ite ?_ ?_
  · exact (State.dmaBadDesc_keeps hs)
  · refine State.pump_keeps ?_
    refine State.Keeps.ite ?_ ?_
    · exact (State.setF_keeps (State.setCur_keeps h_s1))
    · exact h_s1

/-- descFetched keeps a sound state and the queue. -/
theorem State.descFetched_keeps {pq : List Instr} {s : State} {n : Nat} {back : DmaReturn} (hs : s.Keeps pq) :
    State.Keeps pq (State.descFetched s n back) := by
  unfold State.descFetched
  extract_lets c
  split
  · refine State.Keeps.ite ?_ ?_
    · split
      · refine State.Keeps.ite ?_ ?_
        · exact (State.takeDesc_keeps hs)
        · exact hs
      · exact (State.pump_keeps (State.dmaBadDesc_keeps hs))
      · exact hs
    · split
      · extract_lets s1
        have h_s1 : State.Keeps pq s1 := by
          refine State.Keeps.ite ?_ ?_
          · exact (State.yardFound_keeps hs)
          · exact hs
        clear_value s1
        refine State.Keeps.ite ?_ ?_
        · exact (State.pump_keeps (State.dmaBadDesc_keeps h_s1))
        · exact (State.takeDesc_keeps (State.yardClears_keeps h_s1))
      · exact hs
  · exact hs

/-- readData keeps a sound state and the queue. -/
theorem State.readData_keeps {q : List Instr} {s : State} {n : Nat} {p : Nat × Nat} {bs : List (Nat × Bool)} (h : s.Keeps q) :
    State.Keeps q (State.readData s n p bs) :=
  State.pump_keeps (State.Keeps.same (s := s.setCh n _) (State.setCh_keeps h) rfl)

/-- readFails keeps a sound state and the queue. -/
theorem State.readFails_keeps {pq : List Instr} {s : State} {n : Nat} {p : Nat × Nat} {status : Nat} (hs : s.Keeps pq) :
    State.Keeps pq (State.readFails s n p status) := by
  unfold State.readFails
  exact (State.pump_keeps (State.dmaFault_keeps (State.setCh_keeps hs)))

/-- readTrough keeps a sound state and the queue. -/
theorem State.readTrough_keeps {pq : List Instr} {s : State} {n : Nat} {p : Nat × Nat} {q : Nat} {cut : Bool} {bad : Bool}
    (hs : s.Keeps pq) :
    State.Keeps pq (State.readTrough s n p q cut bad) := by
  unfold State.readTrough
  extract_lets x s1
  have h_s1 : State.Keeps pq s1 := by
    refine State.Keeps.ite ?_ ?_
    · exact (State.agentPull_keeps (State.spoil_keeps hs))
    · exact (State.trgRelease_keeps (State.agentPull_keeps (State.spoil_keeps hs)))
  clear_value s1
  refine State.Keeps.ite ?_ ?_
  · exact (State.readFails_keeps (State.agentPull_keeps hs))
  · refine State.Keeps.ite ?_ ?_
    · exact hs
    · exact (State.readData_keeps h_s1)

/-- readYard keeps a sound state and the queue. -/
theorem State.readYard_keeps {pq : List Instr} {s : State} {n : Nat} {p : Nat × Nat} {r : DmaRead} {w : Nat} {e : Ecc} (hs :
    s.Keeps pq) :
    State.Keeps pq (State.readYard s n p r w e) := by
  unfold State.readYard
  extract_lets s1 last quar
  have h_s1 : State.Keeps pq s1 := by
    refine State.Keeps.ite ?_ ?_
    · exact (State.yardFound_keeps hs)
    · exact hs
  clear_value s1
  refine State.Keeps.ite ?_ ?_
  · exact (State.readFails_keeps h_s1)
  · exact (State.readData_keeps (State.yardClears_keeps h_s1))

/-- readReturn keeps a sound state and the queue. -/
theorem State.readReturn_keeps {pq : List Instr} {s : State} {n : Nat} {i : Nat} {back : DmaReturn} (hs : s.Keeps pq) :
    State.Keeps pq (State.readReturn s n i back) := by
  unfold State.readReturn
  extract_lets c l inside
  split
  · exact (State.dmaHead_keeps (State.dmaRest_keeps (State.setCh_keeps hs)))
  · split
    · extract_lets s1 v
      have h_s1 : State.Keeps pq s1 := (State.busRead_keeps hs)
      clear_value s1
      refine State.Keeps.ite ?_ ?_
      · split
        · refine State.Keeps.ite ?_ ?_
          · exact (State.readData_keeps hs)
          · exact hs
        · exact (State.readFails_keeps hs)
        · exact hs
      · refine State.Keeps.ite ?_ ?_
        · exact hs
        · split
          · refine State.Keeps.ite ?_ ?_
            · exact (State.readTrough_keeps hs)
            · refine State.Keeps.ite ?_ ?_
              · exact (State.readYard_keeps hs)
              · exact (State.readData_keeps h_s1)
          · exact hs
    · exact hs

/-- markWaits keeps a sound state and the queue. -/
theorem State.markWaits_keeps {pq : List Instr} {s : State} (hs : s.Keeps pq) :
    State.Keeps pq (State.markWaits s) := by
  unfold State.markWaits
  exact (State.Keeps.overList (fun _ _ h1 => by
        extract_lets c
        split
        · refine State.Keeps.ite ?_ ?_
          · exact (State.setCh_keeps h1)
          · exact h1
        · exact h1) hs)

/-- putYard keeps a sound state and the queue. -/
theorem State.putYard_keeps {pq : List Instr} {s : State} {a : Nat} {bs : List Nat} (hs : s.Keeps pq) :
    State.Keeps pq (State.putYard s a bs).1 := by
  unfold State.putYard
  split
  · exact hs
  · split
    · exact (State.yardPutBytes_keeps hs)
    · exact (State.yardViolation_keeps hs)

/-- putOwn keeps a sound state and the queue. -/
theorem State.putOwn_keeps {pq : List Instr} {s : State} {a : Nat} {v : Word} {bs : List Nat} {still : Bool} (hs : s.Keeps pq) :
    State.Keeps pq (State.putOwn s a v bs still).1 := by
  unfold State.putOwn
  extract_lets s1
  have h_s1 : State.Keeps pq s1 := (State.busWrite_keeps hs)
  clear_value s1
  split
  · exact hs
  · split
    · exact hs
    · exact h_s1

/-- putElement keeps a sound state and the queue. -/
theorem State.putElement_keeps {pq : List Instr} {s : State} {j : DmaJob} {a : Nat} {el : List (Nat × Bool)} {still : Bool}
    (hs : s.Keeps pq) :
    State.Keeps pq (State.putElement s j a el still).1 := by
  unfold State.putElement
  extract_lets d bs v stored k x k_1 out __src q_1
  have h___src : State.Keeps pq __src := (State.leaveL1_keeps hs)
  split
  · exact (State.busWrite_keeps hs)
  · split
    · exact (State.putOwn_keeps hs)
    · split
      · exact (State.putYard_keeps hs)
      · split
        · exact (State.putOwn_keeps (State.putYard_keeps hs))
        · exact (State.putYard_keeps (State.putYard_keeps hs))
  · split
    · exact (State.hostOut_keeps h___src)
    · exact hs
  · exact (State.agentPush_keeps hs)

/-- wrote keeps a sound state and the queue. -/
theorem State.wrote_keeps {pq : List Instr} {s : State} {n : Nat} {el : List (Nat × Bool)} (hs : s.Keeps pq) :
    State.Keeps pq (State.wrote s n el) := by
  unfold State.wrote
  extract_lets c poison
  split
  · exact hs
  · extract_lets crc j1 s1 s2
    have h_s1 : State.Keeps pq s1 := (State.setCh_keeps hs)
    clear_value s1
    have h_s2 : State.Keeps pq s2 := by
      refine State.Keeps.ite ?_ ?_
      · exact (State.setB_keeps h_s1)
      · exact h_s1
    clear_value s2
    exact (State.pump_keeps (State.dmaHead_keeps (State.setF_keeps h_s2)))

/-- dmaWrite keeps a sound state and the queue. -/
theorem State.dmaWrite_keeps {pq : List Instr} {s : State} {parityBad : Bool} {still : Bool} (hs : s.Keeps pq) :
    State.Keeps pq (State.dmaWrite s parityBad still) := by
  unfold State.dmaWrite
  extract_lets s0
  have h_s0 : State.Keeps pq s0 := (State.markWaits_keeps hs)
  clear_value s0
  refine State.Keeps.ite ?_ ?_
  · exact hs
  · split
    · exact h_s0
    · extract_lets el a x
      refine State.Keeps.ite ?_ ?_
      · exact (State.pump_keeps (State.dmaFault_keeps h_s0))
      · split
        · exact (State.pump_keeps (State.dmaFault_keeps (State.putElement_keeps h_s0)))
        · exact (State.wrote_keeps (State.putElement_keeps h_s0))

/-- cqAdvance keeps a sound state and the queue. -/
theorem State.cqAdvance_keeps {pq : List Instr} {s : State} (hs : s.Keeps pq) :
    State.Keeps pq (State.cqAdvance s) := by
  unfold State.cqAdvance
  extract_lets h s1
  have h_s1 : State.Keeps pq s1 := (State.setF_keeps hs)
  clear_value s1
  refine State.Keeps.ite ?_ ?_
  · exact (State.setF_keeps h_s1)
  · exact h_s1

/-- cqFault keeps a sound state and the queue. -/
theorem State.cqFault_keeps {pq : List Instr} {s : State} {n : Nat} (hs : s.Keeps pq) :
    State.Keeps pq (State.cqFault s n) := by
  unfold State.cqFault
  exact (State.log_keeps (State.setB_keeps (State.setB_keeps hs)))

/-- markRecs keeps a sound state and the queue. -/
theorem State.markRecs_keeps {pq : List Instr} {s : State} (hs : s.Keeps pq) :
    State.Keeps pq (State.markRecs s) := by
  unfold State.markRecs
  extract_lets can
  exact (State.Keeps.overList (fun _ _ h1 => by
        extract_lets c at_
        refine State.Keeps.ite ?_ ?_
        · exact h1
        · exact (State.setCh_keeps h1)) hs)

/-- dmaMarks keeps a sound state and the queue. -/
theorem State.dmaMarks_keeps {pq : List Instr} {s : State} (hs : s.Keeps pq) :
    State.Keeps pq (State.dmaMarks s) := by
  unfold State.dmaMarks
  exact (State.markWaits_keeps (State.markRecs_keeps hs))

/-- recWrite keeps a sound state and the queue. -/
theorem State.recWrite_keeps {pq : List Instr} {s : State} {n : Nat} (hs : s.Keeps pq) :
    State.Keeps pq (State.recWrite s n) := by
  unfold State.recWrite
  extract_lets c x __src
  have h___src : State.Keeps pq __src := (State.leaveL1_keeps hs)
  split
  · exact hs
  · extract_lets bs s1 s2 s3 s4
    have h_s1 : State.Keeps pq s1 := by
      refine State.Keeps.ite ?_ ?_
      · exact (State.hostOut_keeps h___src)
      · exact (State.yardPutBytes_keeps hs)
    clear_value s1
    have h_s2 : State.Keeps pq s2 := (State.setCh_keeps (State.setF_keeps (State.cqAdvance_keeps h_s1)))
    clear_value s2
    have h_s3 : State.Keeps pq s3 := by
      refine State.Keeps.ite ?_ ?_
      · exact (State.modPulse_keeps h_s2)
      · exact h_s2
    clear_value s3
    have h_s4 : State.Keeps pq s4 := by
      refine State.Keeps.ite ?_ ?_
      · exact (State.modPulse_keeps h_s3)
      · exact h_s3
    clear_value s4
    refine State.Keeps.ite ?_ ?_
    · exact hs
    · refine State.Keeps.ite ?_ ?_
      · refine State.cqFault_keeps ?_
        refine State.Keeps.ite ?_ ?_
        · exact (State.yardViolation_keeps hs)
        · exact hs
      · exact (State.pump_keeps (State.dmaHead_keeps (State.dmaRest_keeps h_s4)))

/-- dmaWaitOut keeps a sound state and the queue. -/
theorem State.dmaWaitOut_keeps {pq : List Instr} {s : State} {n : Nat} (hs : s.Keeps pq) :
    State.Keeps pq (State.dmaWaitOut s n) := by
  unfold State.dmaWaitOut
  extract_lets c late
  refine State.Keeps.ite ?_ ?_
  · exact (State.cqFault_keeps (State.setCh_keeps (State.bump_keeps hs)))
  · refine State.Keeps.ite ?_ ?_
    · exact (State.pump_keeps (State.dmaFault_keeps (State.bump_keeps hs)))
    · split
      · refine State.Keeps.ite ?_ ?_
        · exact (State.dmaHead_keeps (State.dmaRest_keeps (State.setCh_keeps (State.bump_keeps hs))))
        · exact hs
      · exact hs

/-- dmaTimedOut keeps a sound state and the queue. -/
theorem State.dmaTimedOut_keeps {pq : List Instr} {s : State} {n : Nat} (hs : s.Keeps pq) :
    State.Keeps pq (State.dmaTimedOut s n) := by
  unfold State.dmaTimedOut
  extract_lets c late
  split
  · refine State.Keeps.ite ?_ ?_
    · exact (State.pump_keeps (State.dmaBadDesc_keeps (State.bump_keeps hs)))
    · split
      · exact (State.readFails_keeps (State.bump_keeps hs))
      · exact (State.dmaWaitOut_keeps hs)
  · split
    · exact (State.readFails_keeps (State.bump_keeps hs))
    · exact (State.dmaWaitOut_keeps hs)

/-- drainDone keeps a sound state and the queue. -/
theorem State.drainDone_keeps {pq : List Instr} {s : State} {n : Nat} (hs : s.Keeps pq) :
    State.Keeps pq (State.drainDone s n) := by
  unfold State.drainDone
  extract_lets c
  refine State.Keeps.ite ?_ ?_
  · exact (State.dmaRest_keeps (State.setCh_keeps hs))
  · exact hs

end Sys2Proof.Machine
end

