-- ==== Sys2Proof/Laws/Keep/Host.lean ====
section
/-! SUPPORT. Every operation of Machine/Host.lean keeps a sound state and the queue of waiting commands. -/

namespace Sys2Proof.Machine

open Sys2Proof

/-- hstLink keeps a sound state and the queue. -/
theorem State.hstLink_keeps {pq : List Instr} {s : State} (hs : s.Keeps pq) :
    State.Keeps pq (State.hstLink s) := by
  unfold State.hstLink
  exact (State.hostSettle_keeps (State.pulse_keeps hs))

/-- endpointClear keeps a sound state and the queue. -/
theorem State.endpointClear_keeps {q : List Instr} {s : State} {linkDown : Bool} (h : s.Keeps q) :
    State.Keeps q (State.endpointClear s linkDown) := by
  unfold State.endpointClear
  extract_lets s1 s2 a s3 s4
  have h1 : State.Keeps q s1 := State.setB_keeps (State.setF_keeps (State.setB_keeps (State.setB_keeps h)))
  have h2 : State.Keeps q s2 := State.Keeps.overList (fun _ _ hx => State.flag_keeps hx) (State.wr_keeps h1)
  clear_value s2
  have h3 : State.Keeps q s3 :=
    State.Keeps.same (State.snaps_filter_keeps (f := fun e => decide (2 ^ 24 ≤ e.1)) h2) rfl
  have h4 : State.Keeps q s4 := State.dmaHostGone_keeps h3
  exact State.Keeps.ite (State.setF_keeps (State.setF_keeps (State.setB_keeps h4))) h4

/-- endpointReset keeps a sound state and the queue. -/
theorem State.endpointReset_keeps {pq : List Instr} {s : State} {linkDown : Bool} (hs : s.Keeps pq) :
    State.Keeps pq (State.endpointReset s linkDown) := by
  unfold State.endpointReset
  refine State.Keeps.ite ?_ ?_
  · exact hs
  · exact (State.hstLink_keeps (State.log_keeps (State.endpointClear_keeps hs)))

/-- dState keeps a sound state and the queue. -/
theorem State.dState_keeps {pq : List Instr} {s : State} {d3hot : Bool} (hs : s.Keeps pq) :
    State.Keeps pq (State.dState s d3hot) := by
  unfold State.dState
  extract_lets d s1
  have h_s1 : State.Keeps pq s1 := (State.setF_keeps hs)
  clear_value s1
  refine State.Keeps.ite ?_ ?_
  · exact hs
  · refine State.hstLink_keeps ?_
    refine State.Keeps.ite ?_ ?_
    · exact (State.dmaHostGone_keeps h_s1)
    · exact h_s1

/-- pcieUp keeps a sound state and the queue. -/
theorem State.pcieUp_keeps {pq : List Instr} {s : State} {speed : Nat} {width : Nat} (hs : s.Keeps pq) :
    State.Keeps pq (State.pcieUp s speed width) := by
  unfold State.pcieUp
  extract_lets was s1
  have h_s1 : State.Keeps pq s1 := (State.setF_keeps (State.setF_keeps (State.setB_keeps hs)))
  clear_value s1
  refine State.Keeps.ite ?_ ?_
  · exact hs
  · refine State.Keeps.ite ?_ ?_
    · exact h_s1
    · exact (State.hstLink_keeps h_s1)

/-- linkTick keeps a sound state and the queue. -/
theorem State.linkTick_keeps {pq : List Instr} {s : State} (hs : s.Keeps pq) :
    State.Keeps pq (State.linkTick s) := by
  unfold State.linkTick
  extract_lets d
  refine State.Keeps.ite ?_ ?_
  · exact (State.setF_keeps (State.draw_keeps hs))
  · exact hs

/-- pcieConfig keeps a sound state and the queue. -/
theorem State.pcieConfig_keeps {pq : List Instr} {s : State} {x : PcieConfig} (hs : s.Keeps pq) :
    State.Keeps pq (State.pcieConfig s x) := by
  unfold State.pcieConfig
  extract_lets __src
  refine State.Keeps.ite ?_ ?_
  · exact hs
  · split
    · exact (State.hostSettle_keeps (State.setB_keeps hs))
    · extract_lets s1 __src_1
      have h_s1 : State.Keeps pq s1 := (State.setB_keeps hs)
      clear_value s1
      exact (State.hostSettle_keeps (State.pcie_keeps h_s1))
    · exact (State.hostSettle_keeps (State.pcie_keeps hs))
    · refine State.Keeps.ite ?_ ?_
      · exact (State.pcie_keeps hs)
      · exact hs
    · refine State.Keeps.ite ?_ ?_
      · exact (State.pcie_keeps hs)
      · exact hs
    · exact (State.pcie_keeps hs)
    · extract_lets s1
      have h_s1 : State.Keeps pq s1 := (State.pcie_keeps hs)
      clear_value s1
      refine State.Keeps.ite ?_ ?_
      · exact h_s1
      · exact (State.leaveL1_keeps h_s1)
    · exact (State.pcie_keeps hs)

/-- refclkLost keeps a sound state and the queue. -/
theorem State.refclkLost_keeps {pq : List Instr} {s : State} (hs : s.Keeps pq) :
    State.Keeps pq (State.refclkLost s) := by
  unfold State.refclkLost
  extract_lets s1 s2
  have h_s1 : State.Keeps pq s1 := (State.setB_keeps hs)
  clear_value s1
  have h_s2 : State.Keeps pq s2 := (State.log_keeps (State.setB_keeps h_s1))
  clear_value s2
  refine State.Keeps.ite ?_ ?_
  · exact h_s1
  · refine State.hstLink_keeps ?_
    refine State.Keeps.ite ?_ ?_
    · exact (State.log_keeps (State.endpointClear_keeps h_s2))
    · exact h_s2

/-- refclkBack keeps a sound state and the queue. -/
theorem State.refclkBack_keeps {pq : List Instr} {s : State} (hs : s.Keeps pq) :
    State.Keeps pq (State.refclkBack s) := by
  unfold State.refclkBack
  refine State.Keeps.ite ?_ ?_
  · exact hs
  · exact (State.setB_keeps hs)

/-- spiPut keeps a sound state and the queue. -/
theorem State.spiPut_keeps {pq : List Instr} {s : State} {a : Nat} {w : Word} (hs : s.Keeps pq) :
    State.Keeps pq (State.spiPut s a w) := by
  unfold State.spiPut
  exact (State.writeBy_keeps hs (fun _ h1 => (State.regWrite_keeps h1)))

/-- spiWord keeps a sound state and the queue. -/
theorem State.spiWord_keeps {q : List Instr} {s : State} {w : Word} (h : s.Keeps q) :
    State.Keeps q (State.spiWord s w) := by
  have hl := h.1.2.2.2
  unfold State.spiWord
  extract_lets x s1 a
  have h1 : State.Keeps q s1 := State.Keeps.same h rfl
  refine State.Keeps.ite (State.spiPut_keeps h1) ?_
  split
  · rename_i hx
    refine State.spi_keeps ?_ h1
    have e : (x.held ++ [(x.addr, w)]).length = x.held.length + 1 := by simp
    exact e ▸ hx
  · exact State.setB_keeps h1

/-- spiHeld keeps a sound state and the queue. -/
theorem State.spiHeld_keeps {q : List Instr} {k : Nat} {s : State} (h : s.Keeps q) :
    State.Keeps q (State.spiHeld k s) := by
  induction k generalizing s with
  | zero => exact h
  | succ k ih =>
    have hl := h.1.2.2.2
    unfold State.spiHeld
    split
    · exact h
    · rename_i e es he
      refine State.Keeps.ite h (ih (State.spiPut_keeps (State.held_keeps ?_ h)))
      rw [he, List.length_cons] at hl
      omega

/-- spiSend keeps a sound state and the queue. -/
theorem State.spiSend_keeps {pq : List Instr} {s : State} (hs : s.Keeps pq) :
    State.Keeps pq (State.spiSend s) := by
  unfold State.spiSend
  extract_lets x d t bytes __src
  have h___src : State.Keeps pq __src := (State.draw_keeps hs)
  refine State.Keeps.ite ?_ ?_
  · exact (State.Keeps.same hs rfl)
  · exact (State.Keeps.same h___src rfl)

/-- spiFetch keeps a sound state and the queue. -/
theorem State.spiFetch_keeps {pq : List Instr} {s : State} (hs : s.Keeps pq) :
    State.Keeps pq (State.spiFetch s) := by
  unfold State.spiFetch
  extract_lets x s1 s2 __src
  have h_s1 : State.Keeps pq s1 := (State.Keeps.same hs rfl)
  clear_value s1
  have h_s2 : State.Keeps pq s2 := (State.readBy_keeps h_s1 (fun _ h2 => (State.busRead_keeps h2)))
  clear_value s2
  refine State.Keeps.ite ?_ ?_
  · exact (State.Keeps.same h_s2 rfl)
  · exact (State.spiSend_keeps h_s2)

/-- spiStep keeps a sound state and the queue. -/
theorem State.spiStep_keeps {pq : List Instr} {s : State} (hs : s.Keeps pq) :
    State.Keeps pq (State.spiStep s) := by
  unfold State.spiStep
  extract_lets s1 __src s1_1 s2 x
  have h_s1 : State.Keeps pq s1 := (State.spiSend_keeps hs)
  clear_value s1
  have h_s1_1 : State.Keeps pq s1_1 := by
    refine State.Keeps.ite ?_ ?_
    · exact (State.Keeps.same h_s1 rfl)
    · exact hs
  clear_value s1_1
  have h_s2 : State.Keeps pq s2 := (State.spiHeld_keeps h_s1_1)
  clear_value s2
  split
  · refine State.Keeps.ite ?_ ?_
    · exact (State.spiWord_keeps (State.Keeps.same h_s2 rfl))
    · exact h_s2
  · refine State.Keeps.ite ?_ ?_
    · exact (State.spiFetch_keeps h_s2)
    · exact h_s2

/-- spiSteps keeps a sound state and the queue. -/
theorem State.spiSteps_keeps {q : List Instr} {k : Nat} {s : State} (h : s.Keeps q) :
    State.Keeps q (State.spiSteps k s) := by
  induction k generalizing s with
  | zero => exact h
  | succ k ih => exact ih (State.spiStep_keeps h)

/-- spiGo keeps a sound state and the queue. -/
theorem State.spiGo_keeps {q : List Instr} {s : State} {x : Spi} {n : Nat} (hx : x.held.length ≤ 8) (h : s.Keeps q) :
    State.Keeps q (State.spiGo s x n) := by
  unfold State.spiGo
  extract_lets s1
  have h1 : State.Keeps q s1 := State.spi_keeps hx h
  exact State.Keeps.ite (State.spiStep_keeps h1) (State.spiSteps_keeps h1)

/-- spiWrite keeps a sound state and the queue. -/
theorem State.spiWrite_keeps {q : List Instr} {s : State} {a : Nat} {ws : List Word} {gap : Nat} {fixed : Bool}
    (h : s.Keeps q) : State.Keeps q (State.spiWrite s a ws gap fixed) := by
  unfold State.spiWrite
  exact State.Keeps.ite h (State.spiGo_keeps h.1.2.2.2 h)

/-- spiRead keeps a sound state and the queue. -/
theorem State.spiRead_keeps {q : List Instr} {s : State} {a count gap : Nat} {fixed : Bool} (h : s.Keeps q) :
    State.Keeps q (State.spiRead s a count gap fixed) := by
  unfold State.spiRead
  exact State.Keeps.ite h (State.spiGo_keeps h.1.2.2.2 h)

/-- spiStatus keeps a sound state and the queue. -/
theorem State.spiStatus_keeps {pq : List Instr} {s : State} (hs : s.Keeps pq) :
    State.Keeps pq (State.spiStatus s) := by
  unfold State.spiStatus
  extract_lets h w s1 __src
  have h_s1 : State.Keeps pq s1 := (State.setB_keeps (State.setB_keeps hs))
  clear_value s1
  refine State.Keeps.ite ?_ ?_
  · exact hs
  · exact (State.Keeps.same h_s1 rfl)

/-- spiEnd keeps a sound state and the queue. -/
theorem State.spiEnd_keeps {pq : List Instr} {s : State} {partialWord : Bool} (hs : s.Keeps pq) :
    State.Keeps pq (State.spiEnd s partialWord) := by
  unfold State.spiEnd
  extract_lets x s1
  have h_s1 : State.Keeps pq s1 := (State.Keeps.same hs rfl)
  clear_value s1
  refine State.Keeps.ite ?_ ?_
  · exact (State.setB_keeps h_s1)
  · exact h_s1

/-- setImg keeps a sound state and the queue. -/
theorem State.setImg_keeps {pq : List Instr} {s : State} {w : Nat} {v : Nat} (hs : s.Keeps pq) :
    State.Keeps pq (State.setImg s w v) := by
  unfold State.setImg
  exact (State.fr_keeps hs)

/-- frOut keeps a sound state and the queue. -/
theorem State.frOut_keeps {pq : List Instr} {s : State} {v : Nat} (hs : s.Keeps pq) :
    State.Keeps pq (State.frOut s v) := by
  unfold State.frOut
  exact (State.deliver_keeps hs)

/-- windowStart keeps a sound state and the queue. -/
theorem State.windowStart_keeps {pq : List Instr} {s : State} {v : Nat} (hs : s.Keeps pq) :
    State.Keeps pq (State.windowStart s v) := by
  unfold State.windowStart
  extract_lets op a s1 __src s2
  have h_s1 : State.Keeps pq s1 := (State.setImg_keeps hs)
  clear_value s1
  have h_s2 : State.Keeps pq s2 := (State.setMb_keeps h_s1)
  clear_value s2
  refine State.Keeps.ite ?_ ?_
  · exact hs
  · split
    · exact (State.windowDone_keeps h_s2)
    · refine State.Keeps.ite ?_ ?_
      · exact (State.windowDone_keeps h_s2)
      · refine State.Keeps.ite ?_ ?_
        · exact (State.windowDone_keeps h_s2)
        · exact h_s2

/-- imageRead keeps a sound state and the queue. -/
theorem State.imageRead_keeps {pq : List Instr} {s : State} {w : Nat} (hs : s.Keeps pq) :
    State.Keeps pq (State.imageRead s w) := by
  unfold State.imageRead
  extract_lets d unknown
  have h_unknown : State.Keeps pq unknown := (State.frOut_keeps (State.draw_keeps hs))
  clear_value unknown
  refine State.Keeps.ite ?_ ?_
  · exact (State.frOut_keeps hs)
  · refine State.Keeps.ite ?_ ?_
    · exact (State.frOut_keeps hs)
    · refine State.Keeps.ite ?_ ?_
      · exact h_unknown
      · refine State.Keeps.ite ?_ ?_
        · exact (State.frOut_keeps hs)
        · refine State.Keeps.ite ?_ ?_
          · split
            · extract_lets s1
              have h_s1 : State.Keeps pq s1 := (State.busRead_keeps hs)
              clear_value s1
              exact (State.frOut_keeps h_s1)
          · refine State.Keeps.ite ?_ ?_
            · exact h_unknown
            · refine State.Keeps.ite ?_ ?_
              · exact (State.frOut_keeps hs)
              · refine State.Keeps.ite ?_ ?_
                · exact (State.frOut_keeps hs)
                · refine State.Keeps.ite ?_ ?_
                  · exact (State.frOut_keeps hs)
                  · exact (State.frOut_keeps hs)

/-- imageWrite keeps a sound state and the queue. -/
theorem State.imageWrite_keeps {pq : List Instr} {s : State} {w : Nat} {v : Nat} (hs : s.Keeps pq) :
    State.Keeps pq (State.imageWrite s w v) := by
  unfold State.imageWrite
  refine State.Keeps.ite ?_ ?_
  · exact (State.windowStart_keeps hs)
  · refine State.Keeps.ite ?_ ?_
    · exact (State.setImg_keeps hs)
    · refine State.Keeps.ite ?_ ?_
      · split
        · refine State.Keeps.ite ?_ ?_
          · exact hs
          · exact (State.stlWrite_keeps hs)
      · exact hs

/-- frStep keeps a sound state and the queue. -/
theorem State.frStep_keeps {pq : List Instr} {s : State} (hs : s.Keeps pq) :
    State.Keeps pq (State.frStep s) := by
  unfold State.frStep
  extract_lets __src
  refine State.Keeps.ite ?_ ?_
  · exact (State.fr_keeps hs)
  · exact hs

/-- frGot keeps a sound state and the queue. -/
theorem State.frGot_keeps {pq : List Instr} {s : State} (hs : s.Keeps pq) :
    State.Keeps pq (State.frGot s) := by
  unfold State.frGot
  extract_lets w __src
  exact (State.frStep_keeps (State.frOut_keeps (State.fr_keeps hs)))

/-- winRead keeps a sound state and the queue. -/
theorem State.winRead_keeps {pq : List Instr} {s : State} (hs : s.Keeps pq) :
    State.Keeps pq (State.winRead s) := by
  unfold State.winRead
  extract_lets s1 __src
  have h_s1 : State.Keeps pq s1 := (State.busRead_keeps hs)
  clear_value s1
  refine State.Keeps.ite ?_ ?_
  · exact hs
  · refine State.Keeps.ite ?_ ?_
    · exact (State.fr_keeps h_s1)
    · exact (State.frGot_keeps h_s1)

/-- frWake keeps a sound state and the queue. -/
theorem State.frWake_keeps {pq : List Instr} {s : State} (hs : s.Keeps pq) :
    State.Keeps pq (State.frWake s) := by
  unfold State.frWake
  refine State.Keeps.ite ?_ ?_
  · exact (State.frGot_keeps hs)
  · exact hs

/-- winHold keeps a sound state and the queue. -/
theorem State.winHold_keeps {pq : List Instr} {s : State} {v : Nat} (hs : s.Keeps pq) :
    State.Keeps pq (State.winHold s v) := by
  unfold State.winHold
  extract_lets __src
  refine State.Keeps.ite ?_ ?_
  · exact (State.fr_keeps hs)
  · exact hs

/-- winWrite keeps a sound state and the queue. -/
theorem State.winWrite_keeps {q : List Instr} {s : State} {v : Nat} (h : s.Keeps q) :
    State.Keeps q (State.winWrite s v) := by
  unfold State.winWrite
  refine State.Keeps.ite h ?_
  split
  rename_i lo s1 e1
  have h1 : State.Keeps q s1 := by
    refine State.Keeps.snd e1 ?_
    split
    · exact h
    · exact State.draw_keeps h
  extract_lets a b s2
  have h2 : State.Keeps q s2 := State.issueWrite_keeps (State.Keeps.same h1 rfl) (fun _ hx => State.regWrite_keeps hx)
  exact State.frStep_keeps h2

/-- winAddr keeps a sound state and the queue. -/
theorem State.winAddr_keeps {pq : List Instr} {s : State} {hi : Bool} {v : Nat} (hs : s.Keeps pq) :
    State.Keeps pq (State.winAddr s hi v) := by
  unfold State.winAddr
  extract_lets a __src
  refine State.Keeps.ite ?_ ?_
  · exact hs
  · exact (State.fr_keeps hs)

/-- imageAccess keeps a sound state and the queue. -/
theorem State.imageAccess_keeps {pq : List Instr} {s : State} {w : Nat} {write : Bool} {v : Nat} (hs : s.Keeps pq) :
    State.Keeps pq (State.imageAccess s w write v) := by
  unfold State.imageAccess
  refine State.Keeps.ite ?_ ?_
  · exact hs
  · refine State.Keeps.ite ?_ ?_
    · refine State.Keeps.ite ?_ ?_
      · exact (State.winAddr_keeps hs)
      · refine State.Keeps.ite ?_ ?_
        · exact (State.winAddr_keeps hs)
        · refine State.Keeps.ite ?_ ?_
          · exact (State.winHold_keeps hs)
          · refine State.Keeps.ite ?_ ?_
            · exact (State.winWrite_keeps hs)
            · exact (State.issueWrite_keeps hs (fun _ h1 => (State.imageWrite_keeps h1)))
    · refine State.Keeps.ite ?_ ?_
      · exact (State.winRead_keeps hs)
      · exact (State.imageRead_keeps hs)

/-- frTimeout keeps a sound state and the queue. -/
theorem State.frTimeout_keeps {pq : List Instr} {s : State} {w : Nat} {write : Bool} (hs : s.Keeps pq) :
    State.Keeps pq (State.frTimeout s w write) := by
  unfold State.frTimeout
  extract_lets s1
  have h_s1 : State.Keeps pq s1 := (State.log_keeps (State.bump_keeps hs))
  clear_value s1
  refine State.Keeps.ite ?_ ?_
  · exact hs
  · refine State.Keeps.ite ?_ ?_
    · exact h_s1
    · exact (State.frOut_keeps h_s1)

end Sys2Proof.Machine
end

