-- ==== Sys2Proof/Laws/Keep/Mailbox.lean ====
section
/-! SUPPORT. Every operation of Machine/Mailbox.lean keeps a sound state and the queue of waiting commands. -/

namespace Sys2Proof.Machine

open Sys2Proof

/-- takeSlot keeps a sound state and the queue. -/
theorem State.takeSlot_keeps {pq : List Instr} {s : State} {m : Nat} {v : Svc} (hs : s.Keeps pq) :
    State.Keeps pq (State.takeSlot s m v) := by
  unfold State.takeSlot
  extract_lets s1 __src
  have h_s1 : State.Keeps pq s1 := (State.waitEnd_keeps (State.setB_keeps (State.setF_keeps hs)))
  clear_value s1
  exact (State.setMb_keeps h_s1)

/-- serveSlot keeps a sound state and the queue. -/
theorem State.serveSlot_keeps {pq : List Instr} {s : State} {m : Nat} {page : Nat} (hs : s.Keeps pq) :
    State.Keeps pq (State.serveSlot s m page) := by
  unfold State.serveSlot
  extract_lets h op a s1 s1_1
  have h_s1 : State.Keeps pq s1 := (State.log_keeps (State.setB_keeps (State.takeSlot_keeps hs)))
  clear_value s1
  have h_s1_1 : State.Keeps pq s1_1 := (State.takeSlot_keeps hs)
  clear_value s1_1
  refine State.Keeps.ite ?_ ?_
  · exact (State.complete_keeps h_s1)
  · refine State.Keeps.ite ?_ ?_
    · exact hs
    · split
      · exact (State.complete_keeps h_s1_1)
      · refine State.Keeps.ite ?_ ?_
        · exact (State.complete_keeps h_s1_1)
        · split
          · exact (State.complete_keeps h_s1_1)
          · exact h_s1_1

/-- serviceStart keeps a sound state and the queue. -/
theorem State.serviceStart_keeps {pq : List Instr} {s : State} {m : Nat} (hs : s.Keeps pq) :
    State.Keeps pq (State.serviceStart s m) := by
  unfold State.serviceStart
  extract_lets cons page __src
  refine State.Keeps.ite ?_ ?_
  · exact hs
  · refine State.Keeps.ite ?_ ?_
    · exact (State.serveSlot_keeps (State.waitEnd_keeps hs))
    · refine State.Keeps.ite ?_ ?_
      · exact (State.slotDone_keeps (State.waitEnd_keeps (State.setF_keeps hs)))
      · refine State.Keeps.ite ?_ ?_
        · exact hs
        · exact (State.setB_keeps (State.setMb_keeps hs))

/-- command keeps a sound state and the queue. -/
theorem State.command_keeps {pq : List Instr} {s : State} {src : Nat} {op : Nat} {f : State → Svc → State} (hs : s.Keeps pq)
    (h_f : ∀ x0 x1, State.Keeps pq x0 → State.Keeps pq (f x0 x1)) :
    State.Keeps pq (State.command s src op f) := by
  unfold State.command
  split
  · exact hs
  · refine State.Keeps.ite ?_ ?_
    · exact (State.complete_keeps hs)
    · exact (h_f _ _ hs)

/-- answer keeps a sound state and the queue. -/
theorem State.answer_keeps {pq : List Instr} {s : State} {src : Nat} {op : Nat} {f : State → Svc → List Nat} (hs : s.Keeps pq) :
    State.Keeps pq (State.answer s src op f) := by
  unfold State.answer
  exact (State.command_keeps hs (fun _ _ h1 => (State.complete_keeps h1)))

/-- shadowCommand keeps a sound state and the queue. -/
theorem State.shadowCommand_keeps {pq : List Instr} {s : State} {src : Nat} {op : Nat} {words : Svc → Nat} {f : State → Svc
    → State} (hs : s.Keeps pq) (h_f : ∀ x0 x1, State.Keeps pq x0 → State.Keeps pq (f x0 x1)) :
    State.Keeps pq (State.shadowCommand s src op words f) := by
  unfold State.shadowCommand
  exact (State.command_keeps hs (fun _ _ h1 => by
        refine State.Keeps.ite ?_ ?_
        · exact (State.complete_keeps h1)
        · refine State.Keeps.ite ?_ ?_
          · exact (h_f _ _ h1)
          · exact h1))

/-- setModeCmd keeps a sound state and the queue. -/
theorem State.setModeCmd_keeps {pq : List Instr} {s : State} {src : Nat} {v : Svc} (hs : s.Keeps pq) :
    State.Keeps pq (State.setModeCmd s src v) := by
  unfold State.setModeCmd
  extract_lets m
  refine State.Keeps.ite ?_ ?_
  · exact (State.complete_keeps hs)
  · refine State.Keeps.ite ?_ ?_
    · exact (State.complete_keeps hs)
    · exact (State.setSvc_keeps hs)

/-- sealCmd keeps a sound state and the queue. -/
theorem State.sealCmd_keeps {pq : List Instr} {s : State} {src : Nat} (hs : s.Keeps pq) :
    State.Keeps pq (State.sealCmd s src) := by
  unfold State.sealCmd
  refine State.Keeps.ite ?_ ?_
  · exact (State.complete_keeps hs)
  · exact (State.complete_keeps (State.setB_keeps hs))

/-- resetCmd keeps a sound state and the queue. -/
theorem State.resetCmd_keeps {pq : List Instr} {s : State} {src : Nat} {straps : Nat} {v : Svc} (hs : s.Keeps pq) :
    State.Keeps pq (State.resetCmd s src straps v) := by
  unfold State.resetCmd
  extract_lets __src __src_1
  have h___src : State.Keeps pq __src := (State.setSvc_keeps hs)
  refine State.Keeps.ite ?_ ?_
  · exact (State.sys_keeps h___src)
  · exact (State.warmReset_keeps hs)

/-- pinOwn keeps a sound state and the queue. -/
theorem State.pinOwn_keeps {pq : List Instr} {s : State} {src : Nat} {v : Svc} (hs : s.Keeps pq) :
    State.Keeps pq (State.pinOwn s src v) := by
  unfold State.pinOwn
  extract_lets a p
  split
  · exact (State.complete_keeps hs)
  · exact (State.finish_keeps (State.shadowWr_keeps hs))

/-- selftest keeps a sound state and the queue. -/
theorem State.selftest_keeps {pq : List Instr} {s : State} {src : Nat} {fail : Nat} {v : Svc} (hs : s.Keeps pq) :
    State.Keeps pq (State.selftest s src fail v) := by
  unfold State.selftest
  extract_lets mask bad s1
  have h_s1 : State.Keeps pq s1 := (State.Keeps.overList (fun _ _ h1 => (State.bistClear_keeps h1)) hs)
  clear_value s1
  exact (State.complete_keeps h_s1)

/-- calStart keeps a sound state and the queue. -/
theorem State.calStart_keeps {pq : List Instr} {s : State} {src : Nat} {v : Svc} (hs : s.Keeps pq) :
    State.Keeps pq (State.calStart s src v) := by
  unfold State.calStart
  extract_lets m named s1 s2
  have h_s1 : State.Keeps pq s1 := by
    refine State.Keeps.ite ?_ ?_
    · exact (State.Keeps.overList (fun _ _ h1 => (State.setPin_keeps h1)) hs)
    · exact hs
  clear_value s1
  have h_s2 : State.Keeps pq s2 := (State.Keeps.overList (fun _ _ h2 => (State.setVlv_keeps h2)) h_s1)
  clear_value s2
  exact (State.setSvc_keeps h_s2)

/-- calibrate keeps a sound state and the queue. -/
theorem State.calibrate_keeps {pq : List Instr} {s : State} {src : Nat} (hs : s.Keeps pq) :
    State.Keeps pq (State.calibrate s src) := by
  unfold State.calibrate
  split
  · refine State.Keeps.ite ?_ ?_
    · exact (State.complete_keeps hs)
    · refine State.Keeps.ite ?_ ?_
      · exact (State.complete_keeps hs)
      · exact hs
  · exact (State.command_keeps hs (fun _ _ h1 => (State.calStart_keeps h1)))

/-- patchLoad keeps a sound state and the queue. -/
theorem State.patchLoad_keeps {pq : List Instr} {s : State} {src : Nat} {differs : Bool} {v : Svc} (hs : s.Keeps pq) :
    State.Keeps pq (State.patchLoad s src differs v) := by
  unfold State.patchLoad
  extract_lets img size st __src __src_1 s1 __src_2
  have h___src : State.Keeps pq __src := (State.setB_keeps hs)
  have h_s1 : State.Keeps pq s1 := (State.sys_keeps h___src)
  clear_value s1
  have h___src_2 : State.Keeps pq __src_2 := (State.setB_keeps hs)
  refine State.Keeps.ite ?_ ?_
  · exact (State.complete_keeps hs)
  · refine State.Keeps.ite ?_ ?_
    · exact (State.complete_keeps hs)
    · refine State.Keeps.ite ?_ ?_
      · exact (State.complete_keeps hs)
      · refine State.Keeps.ite ?_ ?_
        · exact (State.complete_keeps hs)
        · refine State.Keeps.ite ?_ ?_
          · exact (State.complete_keeps (State.log_keeps hs))
          · refine State.Keeps.ite ?_ ?_
            · exact (State.complete_keeps (State.log_keeps h_s1))
            · exact (State.complete_keeps (State.sys_keeps h___src_2))

/-- sleepNotice keeps a sound state and the queue. -/
theorem State.sleepNotice_keeps {pq : List Instr} {s : State} {src : Nat} {v : Svc} (hs : s.Keeps pq) :
    State.Keeps pq (State.sleepNotice s src v) := by
  unfold State.sleepNotice
  extract_lets s1 s2
  have h_s1 : State.Keeps pq s1 := by
    refine State.Keeps.ite ?_ ?_
    · exact hs
    · exact (State.Keeps.overList (fun _ _ h1 => (State.releaseHold_keeps h1)) hs)
  clear_value s1
  have h_s2 : State.Keeps pq s2 := (State.endCommand_keeps (State.setSvc_keeps h_s1))
  clear_value s2
  exact (State.setF_keeps (State.setB_keeps h_s2))

/-- wakeNotice keeps a sound state and the queue. -/
theorem State.wakeNotice_keeps {pq : List Instr} {s : State} {src : Nat} (hs : s.Keeps pq) :
    State.Keeps pq (State.wakeNotice s src) := by
  unfold State.wakeNotice
  extract_lets held __src s1
  have h___src : State.Keeps pq __src := (State.setB_keeps hs)
  have h_s1 : State.Keeps pq s1 := (State.wakeLow_keeps h___src)
  clear_value s1
  exact (State.complete_keeps (State.Keeps.overList (fun _ _ h3 => (State.releaseHold_keeps h3)) h_s1))

/-- putWords keeps a sound state and the queue. -/
theorem State.putWords_keeps {pq : List Instr} {s : State} {a : Nat} {ws : List Nat} (hs : s.Keeps pq) :
    State.Keeps pq (State.putWords s a ws) := by
  unfold State.putWords
  exact (State.Keeps.overList (fun _ _ h1 => (State.plainBus_keeps h1)) hs)

/-- patternLoad keeps a sound state and the queue. -/
theorem State.patternLoad_keeps {pq : List Instr} {s : State} {src : Nat} {v : Svc} (hs : s.Keeps pq) :
    State.Keeps pq (State.patternLoad s src v) := by
  unfold State.patternLoad
  extract_lets n first count ws
  refine State.Keeps.ite ?_ ?_
  · exact (State.complete_keeps hs)
  · split
    · exact (State.complete_keeps hs)
    · exact (State.finish_keeps (State.putWords_keeps hs))

/-- learnSave keeps a sound state and the queue. -/
theorem State.learnSave_keeps {pq : List Instr} {s : State} {src : Nat} {v : Svc} (hs : s.Keeps pq) :
    State.Keeps pq (State.learnSave s src v) := by
  unfold State.learnSave
  extract_lets n s_1 bs
  have h_s_1 : State.Keeps pq s_1 := (State.readCorr_keeps hs)
  clear_value s_1
  refine State.Keeps.ite ?_ ?_
  · exact (State.complete_keeps hs)
  · exact (State.complete_keeps (State.yardPutBytes_keeps h_s_1))

/-- learnRestore keeps a sound state and the queue. -/
theorem State.learnRestore_keeps {pq : List Instr} {s : State} {src : Nat} {v : Svc} (hs : s.Keeps pq) :
    State.Keeps pq (State.learnRestore s src v) := by
  unfold State.learnRestore
  extract_lets n
  refine State.Keeps.ite ?_ ?_
  · exact (State.complete_keeps hs)
  · exact (State.finish_keeps (State.putWords_keeps hs))

/-- evtWrite keeps a sound state and the queue. -/
theorem State.evtWrite_keeps {pq : List Instr} {s : State} {src : Nat} {v : Svc} (hs : s.Keeps pq) :
    State.Keeps pq (State.evtWrite s src v) := by
  unfold State.evtWrite
  extract_lets first count
  split
  · refine State.Keeps.ite ?_ ?_
    · exact (State.complete_keeps hs)
    · split
      · exact (State.complete_keeps hs)
      · exact (State.finish_keeps (State.putWords_keeps hs))

/-- valveOn keeps a sound state and the queue. -/
theorem State.valveOn_keeps {pq : List Instr} {s : State} {src : Nat} {n : Nat} {prof : Nat} {dur : Nat} {v : Svc} (hs :
    s.Keeps pq) :
    State.Keeps pq (State.valveOn s src n prof dur v) := by
  unfold State.valveOn
  exact (State.vStart_keeps (State.setSvc_keeps hs))

/-- valvesOff keeps a sound state and the queue. -/
theorem State.valvesOff_keeps {pq : List Instr} {s : State} {mask : Nat} (hs : s.Keeps pq) :
    State.Keeps pq (State.valvesOff s mask) := by
  unfold State.valvesOff
  exact (State.vEndAll_keeps hs (fun _ _ h1 => (State.cancelEnd_keeps h1)) (fun _ _ h1 => (State.vOff_keeps h1)))

/-- loadEngine keeps a sound state and the queue. -/
theorem State.loadEngine_keeps {pq : List Instr} {s : State} {n : Nat} {img : List Nat} (hs : s.Keeps pq) :
    State.Keeps pq (State.loadEngine s n img) := by
  unfold State.loadEngine
  extract_lets f uw nw s1 s2 s3 s4 s5 s6 __src __src_1
  have h_s1 : State.Keeps pq s1 := (State.clearWords_keeps hs)
  clear_value s1
  have h_s2 : State.Keeps pq s2 := (State.Keeps.overList (fun _ _ h2 => (State.wr_keeps h2)) h_s1)
  clear_value s2
  have h_s3 : State.Keeps pq s3 := (State.Keeps.overList (fun _ _ h3 => (State.Keeps.overList (fun _ _ h4 => (State.wr_keeps
      h4)) h3)) h_s2)
  clear_value s3
  have h_s4 : State.Keeps pq s4 := (State.setF_keeps (State.setF_keeps (State.setF_keeps h_s3)))
  clear_value s4
  have h_s5 : State.Keeps pq s5 := (State.setF_keeps (State.setF_keeps (State.setF_keeps h_s4)))
  clear_value s5
  have h_s6 : State.Keeps pq s6 := (State.setB_keeps (State.setF_keeps h_s5))
  clear_value s6
  have h___src_1 : State.Keeps pq __src_1 := (State.setEng_keeps h_s6)
  exact (State.ready_keeps h___src_1)

/-- loadFailed keeps a sound state and the queue. -/
theorem State.loadFailed_keeps {pq : List Instr} {s : State} {n : Nat} (hs : s.Keeps pq) :
    State.Keeps pq (State.loadFailed s n) := by
  unfold State.loadFailed
  extract_lets s1 __src
  have h_s1 : State.Keeps pq s1 := (State.ready_keeps hs)
  clear_value s1
  exact (State.log_keeps (State.setB_keeps (State.setEng_keeps h_s1)))

/-- ucodeWrite keeps a sound state and the queue. -/
theorem State.ucodeWrite_keeps {pq : List Instr} {s : State} {src : Nat} {differs : Nat} {v : Svc} {img : List Nat} (hs :
    s.Keeps pq) :
    State.Keeps pq (State.ucodeWrite s src differs v img) := by
  unfold State.ucodeWrite
  extract_lets sheds s1 bad
  have h_s1 : State.Keeps pq s1 := (State.Keeps.overList (fun _ _ h1 => (State.loadEngine_keeps h1)) hs)
  clear_value s1
  refine State.Keeps.ite ?_ ?_
  · exact hs
  · refine State.Keeps.ite ?_ ?_
    · exact (State.setSvc_keeps h_s1)
    · exact (State.complete_keeps (State.Keeps.overList (fun _ _ h2 => (State.loadFailed_keeps h2)) h_s1))

/-- ucodeCheck keeps a sound state and the queue. -/
theorem State.ucodeCheck_keeps {pq : List Instr} {s : State} {src : Nat} {differs : Nat} {v : Svc} (hs : s.Keeps pq) :
    State.Keeps pq (State.ucodeCheck s src differs v) := by
  unfold State.ucodeCheck
  extract_lets sheds img size s1
  have h_s1 : State.Keeps pq s1 := (State.Keeps.overList (fun _ _ h1 => (State.engCall_keeps h1)) hs)
  clear_value s1
  refine State.Keeps.ite ?_ ?_
  · exact (State.complete_keeps hs)
  · refine State.Keeps.ite ?_ ?_
    · exact (State.complete_keeps hs)
    · split
      · exact (State.complete_keeps hs)
      · refine State.Keeps.ite ?_ ?_
        · exact (State.complete_keeps hs)
        · refine State.Keeps.ite ?_ ?_
          · exact (State.complete_keeps hs)
          · refine State.Keeps.ite ?_ ?_
            · exact (State.complete_keeps (State.log_keeps hs))
            · exact (State.ucodeWrite_keeps (State.setSvc_keeps h_s1))

/-- ucodeStop keeps a sound state and the queue. -/
theorem State.ucodeStop_keeps {pq : List Instr} {s : State} {src : Nat} {v : Svc} (hs : s.Keeps pq) :
    State.Keeps pq (State.ucodeStop s src v) := by
  unfold State.ucodeStop
  extract_lets s1
  have h_s1 : State.Keeps pq s1 := (State.Keeps.overList (fun _ _ h1 => (State.setB_keeps (State.setEng_keeps
      (State.engClear_keeps h1)))) hs)
  clear_value s1
  exact (State.complete_keeps h_s1)

/-- ucodeLoad keeps a sound state and the queue. -/
theorem State.ucodeLoad_keeps {pq : List Instr} {s : State} {src : Nat} {differs : Nat} (hs : s.Keeps pq) :
    State.Keeps pq (State.ucodeLoad s src differs) := by
  unfold State.ucodeLoad
  split
  · refine State.Keeps.ite ?_ ?_
    · exact hs
    · refine State.Keeps.ite ?_ ?_
      · exact (State.ucodeStop_keeps hs)
      · exact (State.ucodeWrite_keeps hs)
  · exact (State.command_keeps hs (fun _ _ h1 => (State.ucodeCheck_keeps h1)))

/-- ucodeCommit keeps a sound state and the queue. -/
theorem State.ucodeCommit_keeps {pq : List Instr} {s : State} {items : List Nat} (hs : s.Keeps pq) :
    State.Keeps pq (State.ucodeCommit s items) := by
  unfold State.ucodeCommit
  exact (State.Keeps.overList (fun _ _ h1 => by
        extract_lets __src
        refine State.Keeps.ite ?_ ?_
        · exact (State.setB_keeps (State.setEng_keeps h1))
        · exact h1) hs)

/-- runLoad keeps a sound state and the queue. -/
theorem State.runLoad_keeps {pq : List Instr} {s : State} {src : Nat} {v : Svc} (hs : s.Keeps pq) :
    State.Keeps pq (State.runLoad s src v) := by
  unfold State.runLoad
  extract_lets a
  exact (State.complete_keeps (State.Keeps.overList (fun _ _ h1 => (State.rnProg_keeps h1)) hs))

/-- msgSend keeps a sound state and the queue. -/
theorem State.msgSend_keeps {pq : List Instr} {s : State} {src : Nat} {v : Svc} (hs : s.Keeps pq) :
    State.Keeps pq (State.msgSend s src v) := by
  unfold State.msgSend
  refine State.Keeps.ite ?_ ?_
  · exact (State.complete_keeps hs)
  · refine State.Keeps.ite ?_ ?_
    · exact (State.complete_keeps hs)
    · exact (State.setSvc_keeps hs)

/-- msgRead keeps a sound state and the queue. -/
theorem State.msgRead_keeps {q : List Instr} {s : State} {src : Nat} (h : s.Keeps q) : State.Keeps q (State.msgRead s src) := by
  have hl := h.1.2.2.1
  unfold State.msgRead
  split
  · exact State.complete_keeps h
  · rename_i x xs hx
    rw [hx, List.length_cons] at hl
    exact State.complete_keeps (State.msgs_keeps (by omega) h)

/-- yardReturn keeps a sound state and the queue. -/
theorem State.yardReturn_keeps {pq : List Instr} {s : State} {src : Nat} {v : Svc} (hs : s.Keeps pq) :
    State.Keeps pq (State.yardReturn s src v) := by
  unfold State.yardReturn
  extract_lets ps
  exact (State.complete_keeps (State.Keeps.overList (fun _ _ h1 => (State.handBack_keeps h1)) hs))

/-- pmbXfer keeps a sound state and the queue. -/
theorem State.pmbXfer_keeps {pq : List Instr} {s : State} {src : Nat} {v : Svc} (hs : s.Keeps pq) :
    State.Keeps pq (State.pmbXfer s src v) := by
  unfold State.pmbXfer
  refine State.Keeps.ite ?_ ?_
  · exact (State.complete_keeps hs)
  · exact (State.pmbQueue_keeps (State.setSvc_keeps hs))

/-- logRead keeps a sound state and the queue. -/
theorem State.logRead_keeps {pq : List Instr} {s : State} {src : Nat} {v : Svc} {bad : List Nat} (hs : s.Keeps pq) :
    State.Keeps pq (State.logRead s src v bad) := by
  unfold State.logRead
  extract_lets from_ count s_1 bs
  have h_s_1 : State.Keeps pq s_1 := (State.Keeps.overList (fun _ _ h1 => (State.logBad_keeps h1)) hs)
  clear_value s_1
  refine State.Keeps.ite ?_ ?_
  · exact (State.complete_keeps hs)
  · exact (State.complete_keeps (State.yardPutBytes_keeps h_s_1))

/-- frChCfg keeps a sound state and the queue. -/
theorem State.frChCfg_keeps {pq : List Instr} {s : State} {a : List Nat} (hs : s.Keeps pq) :
    State.Keeps pq (State.frChCfg s a) := by
  unfold State.frChCfg
  extract_lets k act s1 s2 s3
  have h_s1 : State.Keeps pq s1 := (State.stlPlain_keeps hs)
  clear_value s1
  have h_s2 : State.Keeps pq s2 := (State.stlCtl_keeps h_s1)
  clear_value s2
  have h_s3 : State.Keeps pq s3 := (State.stlValue_keeps (State.stlValue_keeps (State.stlValue_keeps h_s2)))
  clear_value s3
  exact (State.stlPlain_keeps h_s3)

/-- frGroups keeps a sound state and the queue. -/
theorem State.frGroups_keeps {pq : List Instr} {s : State} {a : List Nat} {f : State → Nat → State} (hs : s.Keeps pq) (h_f :
    ∀ x0 x1, State.Keeps pq x0 → State.Keeps pq (f x0 x1)) :
    State.Keeps pq (State.frGroups s a f) := by
  unfold State.frGroups
  exact (State.Keeps.overList (fun _ _ h1 => (State.stlGroup_keeps h1 (fun _ _ h2 => (h_f _ _ h2)))) hs)

/-- frIrqMask keeps a sound state and the queue. -/
theorem State.frIrqMask_keeps {pq : List Instr} {s : State} {a : List Nat} (hs : s.Keeps pq) :
    State.Keeps pq (State.frIrqMask s a) := by
  unfold State.frIrqMask
  exact (State.Keeps.overList (fun _ _ h1 => by
        refine State.Keeps.ite ?_ ?_
        · exact h1
        · exact (State.stlPlain_keeps h1)) hs)

end Sys2Proof.Machine
end

