-- ==== Sys2Proof/Laws/Keep/Tick.lean ====
section
/-! SUPPORT. Every operation of Machine/Tick.lean keeps a sound state and the queue of waiting commands. -/

namespace Sys2Proof.Machine

open Sys2Proof

/-- advance keeps a sound state and the queue. -/
theorem State.advance_keeps {pq : List Instr} {s : State} (hs : s.Keeps pq) :
    State.Keeps pq (State.advance s) := by
  unfold State.advance
  extract_lets t wrap __src
  exact (State.Keeps.same hs rfl)

/-- tickWork keeps a sound state and the queue. -/
theorem State.tickWork_keeps {pq : List Instr} {s : State} (hs : s.Keeps pq) :
    State.Keeps pq (State.tickWork s) := by
  unfold State.tickWork
  extract_lets s1
  have h_s1 : State.Keeps pq s1 := (State.linkTick_keeps (State.hostSettle_keeps (State.bridgeTick_keeps
      (State.engTick_keeps (State.irqTick_keeps (State.landEdges_keeps hs))))))
  clear_value s1
  refine State.softReset_keeps ?_
  refine State.dmaMarks_keeps ?_
  refine State.dmaWake_keeps ?_
  refine State.frWake_keeps ?_
  refine State.Keeps.ite ?_ ?_
  · exact (State.spiStep_keeps h_s1)
  · exact h_s1

/-- coreTick keeps a sound state and the queue. -/
theorem State.coreTick_keeps {pq : List Instr} {s : State} (hs : s.Keeps pq) :
    State.Keeps pq (State.coreTick s) := by
  unfold State.coreTick
  extract_lets __src s1
  have h_s1 : State.Keeps pq s1 := (State.tb_keeps hs)
  clear_value s1
  refine State.Keeps.ite ?_ ?_
  · exact hs
  · exact (State.frWake_keeps (State.spiStep_keeps (State.hostSettle_keeps (State.bridgeTick_keeps (State.irqTick_keeps
        h_s1)))))

/-- spiLast keeps a sound state and the queue. -/
theorem State.spiLast_keeps {pq : List Instr} {s : State} (hs : s.Keeps pq) :
    State.Keeps pq (State.spiLast s) := by
  unfold State.spiLast
  refine State.Keeps.ite ?_ ?_
  · exact (State.spiStep_keeps hs)
  · exact hs

/-- tick keeps a sound state and the queue. -/
theorem State.tick_keeps {pq : List Instr} {s : State} (hs : s.Keeps pq) :
    State.Keeps pq (State.tick s) := by
  unfold State.tick
  refine State.Keeps.ite ?_ ?_
  · exact (State.coreTick_keeps hs)
  · refine State.Keeps.ite ?_ ?_
    · exact hs
    · exact (State.tickWork_keeps (State.advance_keeps (State.engFlush_keeps (State.spiLast_keeps hs))))

/-- computeStart keeps a sound state and the queue. -/
theorem State.computeStart_keeps {q : List Instr} {s : State} (h : s.Keeps q) : State.Keeps q (State.computeStart s) := by
  unfold State.computeStart
  extract_lets a s1 s2 s3
  have h1 : State.Keeps q s1 := State.tb_keeps h
  have h2 : State.Keeps q s2 := State.Keeps.ite h1 (State.Keeps.overList (fun _ _ hx => State.engStart_keeps hx) h1)
  have h3 : State.Keeps q s3 := State.Keeps.ite h2 (State.coilLatch_keeps h2)
  exact State.Keeps.ite h (State.Keeps.overList (fun _ _ hx => State.partStart_keeps hx) h3)

/-- participantDone keeps a sound state and the queue. -/
theorem State.participantDone_keeps {pq : List Instr} {s : State} {n : Nat} (hs : s.Keeps pq) :
    State.Keeps pq (State.participantDone s n) := by
  unfold State.participantDone
  extract_lets engine
  refine State.Keeps.ite ?_ ?_
  · exact (State.partDone_keeps hs)
  · exact hs

/-- prepare keeps a sound state and the queue. -/
theorem State.prepare_keeps {pq : List Instr} {s : State} (hs : s.Keeps pq) :
    State.Keeps pq (State.prepare s) := by
  unfold State.prepare
  extract_lets __src
  refine State.Keeps.ite ?_ ?_
  · exact hs
  · exact (State.takeStage_keeps (State.tb_keeps hs))

/-- holdRamp keeps a sound state and the queue. -/
theorem State.holdRamp_keeps {pq : List Instr} {s : State} (hs : s.Keeps pq) :
    State.Keeps pq (State.holdRamp s) := by
  unfold State.holdRamp
  refine State.Keeps.ite ?_ ?_
  · exact (State.Keeps.same hs rfl)
  · exact hs

/-- commitEffects keeps a sound state and the queue. -/
theorem State.commitEffects_keeps {pq : List Instr} {s : State} {old : State} {items : List Nat} (hs : s.Keeps pq) :
    State.Keeps pq (State.commitEffects s old items) := by
  unfold State.commitEffects
  extract_lets s1 s2 s3 s4 s5 s6
  have h_s1 : State.Keeps pq s1 := (State.trkCommits_keeps hs)
  clear_value s1
  have h_s2 : State.Keeps pq s2 := (State.Keeps.overList (fun _ _ h3 => (State.entryCommit_keeps h3)) h_s1)
  clear_value s2
  have h_s3 : State.Keeps pq s3 := (State.Keeps.overList (fun _ _ h4 => (State.pinCommit_keeps h4)) h_s2)
  clear_value s3
  have h_s4 : State.Keeps pq s4 := (State.Keeps.overList (fun _ _ h5 => (State.coilCommit_keeps h5)) h_s3)
  clear_value s4
  have h_s5 : State.Keeps pq s5 := by
    refine State.Keeps.ite ?_ ?_
    · exact (State.seqCommit_keeps h_s4)
    · exact h_s4
  clear_value s5
  have h_s6 : State.Keeps pq s6 := by
    refine State.Keeps.ite ?_ ?_
    · exact (State.rampCommit_keeps h_s5)
    · exact h_s5
  clear_value s6
  exact (State.finishCommitted_keeps (State.ucodeCommit_keeps (State.guardSettle_keeps (State.valveCommit_keeps h_s6))))

/-- commitAll keeps a sound state and the queue. -/
theorem State.commitAll_keeps {pq : List Instr} {s : State} (hs : s.Keeps pq) :
    State.Keeps pq (State.commitAll s) := by
  unfold State.commitAll
  extract_lets s1 items gone s2
  have h_s1 : State.Keeps pq s1 := (State.holdRamp_keeps hs)
  clear_value s1
  have h_s2 : State.Keeps pq s2 := (State.commitStage_keeps h_s1)
  clear_value s2
  exact (State.commitEffects_keeps (State.badWords_keeps h_s2))

/-- openBeat keeps a sound state and the queue. -/
theorem State.openBeat_keeps {pq : List Instr} {s : State} (hs : s.Keeps pq) :
    State.Keeps pq (State.openBeat s) := by
  unfold State.openBeat
  exact (State.Keeps.same hs rfl)

/-- overrun keeps a sound state and the queue. -/
theorem State.overrun_keeps {pq : List Instr} {s : State} {late : Nat} (hs : s.Keeps pq) :
    State.Keeps pq (State.overrun s late) := by
  unfold State.overrun
  extract_lets __src s0 s1 s2
  have h_s0 : State.Keeps pq s0 := (State.tb_keeps hs)
  clear_value s0
  have h_s1 : State.Keeps pq s1 := (State.bump_keeps (State.setB_keeps (State.setB_keeps h_s0)))
  clear_value s1
  have h_s2 : State.Keeps pq s2 := (State.pulse_keeps (State.setF_keeps h_s1))
  clear_value s2
  exact (State.dropLoads_keeps (State.log_keeps h_s2))

/-- noOverrun keeps a sound state and the queue. -/
theorem State.noOverrun_keeps {pq : List Instr} {s : State} (hs : s.Keeps pq) :
    State.Keeps pq (State.noOverrun s) := by
  unfold State.noOverrun
  extract_lets s1 __src
  have h_s1 : State.Keeps pq s1 := (State.enterLoads_keeps (State.setB_keeps hs))
  clear_value s1
  exact (State.tb_keeps h_s1)

/-- holdBoundary keeps a sound state and the queue. -/
theorem State.holdBoundary_keeps {pq : List Instr} {s : State} (hs : s.Keeps pq) :
    State.Keeps pq (State.holdBoundary s) := by
  unfold State.holdBoundary
  extract_lets s1 __src
  have h_s1 : State.Keeps pq s1 := (State.bump_keeps hs)
  clear_value s1
  exact (State.tb_keeps h_s1)

/-- boundaryCommit keeps a sound state and the queue. -/
theorem State.boundaryCommit_keeps {pq : List Instr} {s : State} (hs : s.Keeps pq) :
    State.Keeps pq (State.boundaryCommit s) := by
  unfold State.boundaryCommit
  extract_lets late hold s0 s1 s2 s3 __src
  have h_s0 : State.Keeps pq s0 := (State.coilDecisions_keeps hs)
  clear_value s0
  have h_s1 : State.Keeps pq s1 := by
    refine State.Keeps.ite ?_ ?_
    · exact (State.dropStage_keeps h_s0)
    · exact (State.commitAll_keeps h_s0)
  clear_value s1
  have h_s2 : State.Keeps pq s2 := by
    refine State.Keeps.ite ?_ ?_
    · exact (State.overrun_keeps h_s1)
    · exact (State.noOverrun_keeps h_s1)
  clear_value s2
  have h_s3 : State.Keeps pq s3 := by
    refine State.Keeps.ite ?_ ?_
    · exact (State.holdBoundary_keeps h_s2)
    · exact h_s2
  clear_value s3
  exact (State.tb_keeps h_s3)

/-- idleBoundary keeps a sound state and the queue. -/
theorem State.idleBoundary_keeps {pq : List Instr} {s : State} (hs : s.Keeps pq) :
    State.Keeps pq (State.idleBoundary s) := by
  unfold State.idleBoundary
  extract_lets s1 __src
  have h_s1 : State.Keeps pq s1 := (State.dropStage_keeps (State.setB_keeps hs))
  clear_value s1
  exact (State.tb_keeps h_s1)

/-- senseReadings keeps a sound state and the queue. -/
theorem State.senseReadings_keeps {pq : List Instr} {s : State} {r : Readings} (hs : s.Keeps pq) :
    State.Keeps pq (State.senseReadings s r) := by
  unfold State.senseReadings
  extract_lets s1
  have h_s1 : State.Keeps pq s1 := (State.setF_keeps (State.setF_keeps (State.setF_keeps (State.setF_keeps hs))))
  clear_value s1
  exact (State.setF_keeps (State.setF_keeps (State.setF_keeps h_s1)))

/-- kick keeps a sound state and the queue. -/
theorem State.kick_keeps {pq : List Instr} {s : State} {k : Bool} (hs : s.Keeps pq) :
    State.Keeps pq (State.kick s k) := by
  unfold State.kick
  extract_lets __src s1 __src_1
  have h_s1 : State.Keeps pq s1 := (State.tb_keeps hs)
  clear_value s1
  refine State.Keeps.ite ?_ ?_
  · exact hs
  · refine State.Keeps.ite ?_ ?_
    · exact (State.sys_keeps h_s1)
    · exact h_s1

/-- boundary keeps a sound state and the queue. -/
theorem State.boundary_keeps {pq : List Instr} {s : State} {r : Readings} {k : Bool} (hs : s.Keeps pq) :
    State.Keeps pq (State.boundary s r k) := by
  unfold State.boundary
  extract_lets s1 s2 s3 s4
  have h_s1 : State.Keeps pq s1 := (State.deadPast_keeps (State.pinsSettle_keeps (State.freeSlots_keeps
      (State.openBeat_keeps hs))))
  clear_value s1
  have h_s2 : State.Keeps pq s2 := by
    refine State.Keeps.ite ?_ ?_
    · exact (State.idleBoundary_keeps h_s1)
    · exact (State.boundaryCommit_keeps h_s1)
  clear_value s2
  have h_s3 : State.Keeps pq s3 := by
    refine State.Keeps.ite ?_ ?_
    · exact h_s2
    · exact (State.policy_keeps (State.Keeps.overList (fun _ _ h3 => (State.trkBoundary_keeps h3)) h_s2))
  clear_value s3
  have h_s4 : State.Keeps pq s4 := (State.senseReadings_keeps (State.valveSense_keeps (State.snapAll_keeps h_s3)))
  clear_value s4
  refine State.Keeps.ite ?_ ?_
  · exact hs
  · exact (State.pulse_keeps (State.kick_keeps (State.tthBoundary_keeps h_s4)))

/-- overrunLimit keeps a sound state and the queue. -/
theorem State.overrunLimit_keeps {pq : List Instr} {s : State} (hs : s.Keeps pq) :
    State.Keeps pq (State.overrunLimit s) := by
  unfold State.overrunLimit
  refine State.Keeps.ite ?_ ?_
  · exact hs
  · refine State.Keeps.ite ?_ ?_
    · exact hs
    · exact (State.causeSafe_keeps (State.log_keeps hs))

end Sys2Proof.Machine
end

