-- ==== Sys2Proof/Laws/Literals.lean ====
section
/-! SUPPORT. What is read from a state written out field by field, and its reading back into the accessors: no proof
unfolds a record update. -/

namespace Sys2Proof.Machine

open Sys2Proof


variable (x_regs : List (Nat × Word)) (x_shadow : List (Nat × Word)) (x_ready : List Nat) (x_staged : List (Nat × Word)) (x_stagedItems : List Nat) (x_touched : List Nat) (x_snaps : List (Nat × Word)) (x_lastRead : List (Nat × Word)) (x_badWords : List Nat) (x_setNow : List (Nat × Word × Word)) (x_tb : TimeSt) (x_trk : List (Nat × Tracker)) (x_trkUndo : List (Nat × Tracker)) (x_sns : List (Nat × Sensor)) (x_snap : List (Nat × Snap)) (x_entries : List (Nat × EntrySt)) (x_tev : List (Nat × TrkEv)) (x_points : List (Nat × Point)) (x_deferred : List (Nat × Point)) (x_slots : List (Nat × Slot)) (x_placed : List Act) (x_pins : List (Nat × Pin)) (x_flight : List PinEdge) (x_stalls : List (Nat × Stall)) (x_stepped : List Nat) (x_irq : List (Nat × Irq)) (x_parts : List (Nat × Part)) (x_pool : List (Nat × TrgWord)) (x_trg : List (Nat × Trough)) (x_trgWaits : List TrgWait) (x_pages : List (Nat × Page)) (x_engs : List (Nat × Eng)) (x_rns : List (Nat × Runner)) (x_valves : List (Nat × Valve)) (x_banks : List (Nat × Bank)) (x_bst : Boost) (x_pwr : Power) (x_sys : Sys) (x_ports : List (Nat × Port)) (x_tth : Tether) (x_mbx : List (Nat × Mbx)) (x_holds : List (Nat × Hold)) (x_dma : Dma) (x_chans : List (Nat × DmaChan)) (x_hostOut : List (Nat × List Nat)) (x_wakeLow : Bool) (x_fr : Fr) (x_pcie : Pcie) (x_spi : Spi) (x_logQ : List Report) (x_logLost : Nat) (x_logHold : Bool) (x_logAt : Option Time) (x_logTell : Bool) (x_logW : List (Nat × Word)) (x_once : List (LogCode × Nat)) (x_free : Nat) (x_pending : List Instr)

@[simp] theorem State.rd_mk (j : Nat) : State.rd (State.mk x_regs x_shadow x_ready x_staged x_stagedItems x_touched x_snaps x_lastRead x_badWords x_setNow x_tb x_trk x_trkUndo x_sns x_snap x_entries x_tev x_points x_deferred x_slots x_placed x_pins x_flight x_stalls x_stepped x_irq x_parts x_pool x_trg x_trgWaits x_pages x_engs x_rns x_valves x_banks x_bst x_pwr x_sys x_ports x_tth x_mbx x_holds x_dma x_chans x_hostOut x_wakeLow x_fr x_pcie x_spi x_logQ x_logLost x_logHold x_logAt x_logTell x_logW x_once x_free x_pending) j = Sparse.get regReset x_regs j := rfl
@[simp] theorem State.rd_eta (s : State) (j : Nat) : Sparse.get regReset s.regs j = s.rd j := rfl

@[simp] theorem State.tr_mk (j : Nat) : State.tr (State.mk x_regs x_shadow x_ready x_staged x_stagedItems x_touched x_snaps x_lastRead x_badWords x_setNow x_tb x_trk x_trkUndo x_sns x_snap x_entries x_tev x_points x_deferred x_slots x_placed x_pins x_flight x_stalls x_stepped x_irq x_parts x_pool x_trg x_trgWaits x_pages x_engs x_rns x_valves x_banks x_bst x_pwr x_sys x_ports x_tth x_mbx x_holds x_dma x_chans x_hostOut x_wakeLow x_fr x_pcie x_spi x_logQ x_logLost x_logHold x_logAt x_logTell x_logW x_once x_free x_pending) j = Sparse.get (fun _ => {}) x_trk j := rfl
@[simp] theorem State.tr_eta (s : State) (j : Nat) : Sparse.get (fun _ => {}) s.trk j = s.tr j := rfl

@[simp] theorem State.sn_mk (j : Nat) : State.sn (State.mk x_regs x_shadow x_ready x_staged x_stagedItems x_touched x_snaps x_lastRead x_badWords x_setNow x_tb x_trk x_trkUndo x_sns x_snap x_entries x_tev x_points x_deferred x_slots x_placed x_pins x_flight x_stalls x_stepped x_irq x_parts x_pool x_trg x_trgWaits x_pages x_engs x_rns x_valves x_banks x_bst x_pwr x_sys x_ports x_tth x_mbx x_holds x_dma x_chans x_hostOut x_wakeLow x_fr x_pcie x_spi x_logQ x_logLost x_logHold x_logAt x_logTell x_logW x_once x_free x_pending) j = Sparse.get (fun _ => {}) x_sns j := rfl
@[simp] theorem State.sn_eta (s : State) (j : Nat) : Sparse.get (fun _ => {}) s.sns j = s.sn j := rfl

@[simp] theorem State.snapOf_mk (j : Nat) : State.snapOf (State.mk x_regs x_shadow x_ready x_staged x_stagedItems x_touched x_snaps x_lastRead x_badWords x_setNow x_tb x_trk x_trkUndo x_sns x_snap x_entries x_tev x_points x_deferred x_slots x_placed x_pins x_flight x_stalls x_stepped x_irq x_parts x_pool x_trg x_trgWaits x_pages x_engs x_rns x_valves x_banks x_bst x_pwr x_sys x_ports x_tth x_mbx x_holds x_dma x_chans x_hostOut x_wakeLow x_fr x_pcie x_spi x_logQ x_logLost x_logHold x_logAt x_logTell x_logW x_once x_free x_pending) j = Sparse.get (fun _ => {}) x_snap j := rfl
@[simp] theorem State.snapOf_eta (s : State) (j : Nat) : Sparse.get (fun _ => {}) s.snap j = s.snapOf j := rfl

@[simp] theorem State.te_mk (j : Nat) : State.te (State.mk x_regs x_shadow x_ready x_staged x_stagedItems x_touched x_snaps x_lastRead x_badWords x_setNow x_tb x_trk x_trkUndo x_sns x_snap x_entries x_tev x_points x_deferred x_slots x_placed x_pins x_flight x_stalls x_stepped x_irq x_parts x_pool x_trg x_trgWaits x_pages x_engs x_rns x_valves x_banks x_bst x_pwr x_sys x_ports x_tth x_mbx x_holds x_dma x_chans x_hostOut x_wakeLow x_fr x_pcie x_spi x_logQ x_logLost x_logHold x_logAt x_logTell x_logW x_once x_free x_pending) j = Sparse.get (fun _ => {}) x_tev j := rfl
@[simp] theorem State.te_eta (s : State) (j : Nat) : Sparse.get (fun _ => {}) s.tev j = s.te j := rfl

@[simp] theorem State.es_mk (j : Nat) : State.es (State.mk x_regs x_shadow x_ready x_staged x_stagedItems x_touched x_snaps x_lastRead x_badWords x_setNow x_tb x_trk x_trkUndo x_sns x_snap x_entries x_tev x_points x_deferred x_slots x_placed x_pins x_flight x_stalls x_stepped x_irq x_parts x_pool x_trg x_trgWaits x_pages x_engs x_rns x_valves x_banks x_bst x_pwr x_sys x_ports x_tth x_mbx x_holds x_dma x_chans x_hostOut x_wakeLow x_fr x_pcie x_spi x_logQ x_logLost x_logHold x_logAt x_logTell x_logW x_once x_free x_pending) j = Sparse.get (fun _ => {}) x_entries j := rfl
@[simp] theorem State.es_eta (s : State) (j : Nat) : Sparse.get (fun _ => {}) s.entries j = s.es j := rfl

@[simp] theorem State.sl_mk (j : Nat) : State.sl (State.mk x_regs x_shadow x_ready x_staged x_stagedItems x_touched x_snaps x_lastRead x_badWords x_setNow x_tb x_trk x_trkUndo x_sns x_snap x_entries x_tev x_points x_deferred x_slots x_placed x_pins x_flight x_stalls x_stepped x_irq x_parts x_pool x_trg x_trgWaits x_pages x_engs x_rns x_valves x_banks x_bst x_pwr x_sys x_ports x_tth x_mbx x_holds x_dma x_chans x_hostOut x_wakeLow x_fr x_pcie x_spi x_logQ x_logLost x_logHold x_logAt x_logTell x_logW x_once x_free x_pending) j = Sparse.get (fun _ => {}) x_slots j := rfl
@[simp] theorem State.sl_eta (s : State) (j : Nat) : Sparse.get (fun _ => {}) s.slots j = s.sl j := rfl

@[simp] theorem State.pin_mk (j : Nat) : State.pin (State.mk x_regs x_shadow x_ready x_staged x_stagedItems x_touched x_snaps x_lastRead x_badWords x_setNow x_tb x_trk x_trkUndo x_sns x_snap x_entries x_tev x_points x_deferred x_slots x_placed x_pins x_flight x_stalls x_stepped x_irq x_parts x_pool x_trg x_trgWaits x_pages x_engs x_rns x_valves x_banks x_bst x_pwr x_sys x_ports x_tth x_mbx x_holds x_dma x_chans x_hostOut x_wakeLow x_fr x_pcie x_spi x_logQ x_logLost x_logHold x_logAt x_logTell x_logW x_once x_free x_pending) j = Sparse.get (fun _ => {}) x_pins j := rfl
@[simp] theorem State.pin_eta (s : State) (j : Nat) : Sparse.get (fun _ => {}) s.pins j = s.pin j := rfl

@[simp] theorem State.stl_mk (j : Nat) : State.stl (State.mk x_regs x_shadow x_ready x_staged x_stagedItems x_touched x_snaps x_lastRead x_badWords x_setNow x_tb x_trk x_trkUndo x_sns x_snap x_entries x_tev x_points x_deferred x_slots x_placed x_pins x_flight x_stalls x_stepped x_irq x_parts x_pool x_trg x_trgWaits x_pages x_engs x_rns x_valves x_banks x_bst x_pwr x_sys x_ports x_tth x_mbx x_holds x_dma x_chans x_hostOut x_wakeLow x_fr x_pcie x_spi x_logQ x_logLost x_logHold x_logAt x_logTell x_logW x_once x_free x_pending) j = Sparse.get (fun _ => {}) x_stalls j := rfl
@[simp] theorem State.stl_eta (s : State) (j : Nat) : Sparse.get (fun _ => {}) s.stalls j = s.stl j := rfl

@[simp] theorem State.src_mk (j : Nat) : State.src (State.mk x_regs x_shadow x_ready x_staged x_stagedItems x_touched x_snaps x_lastRead x_badWords x_setNow x_tb x_trk x_trkUndo x_sns x_snap x_entries x_tev x_points x_deferred x_slots x_placed x_pins x_flight x_stalls x_stepped x_irq x_parts x_pool x_trg x_trgWaits x_pages x_engs x_rns x_valves x_banks x_bst x_pwr x_sys x_ports x_tth x_mbx x_holds x_dma x_chans x_hostOut x_wakeLow x_fr x_pcie x_spi x_logQ x_logLost x_logHold x_logAt x_logTell x_logW x_once x_free x_pending) j = Sparse.get (fun _ => {}) x_irq j := rfl
@[simp] theorem State.src_eta (s : State) (j : Nat) : Sparse.get (fun _ => {}) s.irq j = s.src j := rfl

@[simp] theorem State.part_mk (j : Nat) : State.part (State.mk x_regs x_shadow x_ready x_staged x_stagedItems x_touched x_snaps x_lastRead x_badWords x_setNow x_tb x_trk x_trkUndo x_sns x_snap x_entries x_tev x_points x_deferred x_slots x_placed x_pins x_flight x_stalls x_stepped x_irq x_parts x_pool x_trg x_trgWaits x_pages x_engs x_rns x_valves x_banks x_bst x_pwr x_sys x_ports x_tth x_mbx x_holds x_dma x_chans x_hostOut x_wakeLow x_fr x_pcie x_spi x_logQ x_logLost x_logHold x_logAt x_logTell x_logW x_once x_free x_pending) j = Sparse.get (fun _ => {}) x_parts j := rfl
@[simp] theorem State.part_eta (s : State) (j : Nat) : Sparse.get (fun _ => {}) s.parts j = s.part j := rfl

@[simp] theorem State.tq_mk (j : Nat) : State.tq (State.mk x_regs x_shadow x_ready x_staged x_stagedItems x_touched x_snaps x_lastRead x_badWords x_setNow x_tb x_trk x_trkUndo x_sns x_snap x_entries x_tev x_points x_deferred x_slots x_placed x_pins x_flight x_stalls x_stepped x_irq x_parts x_pool x_trg x_trgWaits x_pages x_engs x_rns x_valves x_banks x_bst x_pwr x_sys x_ports x_tth x_mbx x_holds x_dma x_chans x_hostOut x_wakeLow x_fr x_pcie x_spi x_logQ x_logLost x_logHold x_logAt x_logTell x_logW x_once x_free x_pending) j = Sparse.get (fun _ => {}) x_trg j := rfl
@[simp] theorem State.tq_eta (s : State) (j : Nat) : Sparse.get (fun _ => {}) s.trg j = s.tq j := rfl

@[simp] theorem State.page_mk (j : Nat) : State.page (State.mk x_regs x_shadow x_ready x_staged x_stagedItems x_touched x_snaps x_lastRead x_badWords x_setNow x_tb x_trk x_trkUndo x_sns x_snap x_entries x_tev x_points x_deferred x_slots x_placed x_pins x_flight x_stalls x_stepped x_irq x_parts x_pool x_trg x_trgWaits x_pages x_engs x_rns x_valves x_banks x_bst x_pwr x_sys x_ports x_tth x_mbx x_holds x_dma x_chans x_hostOut x_wakeLow x_fr x_pcie x_spi x_logQ x_logLost x_logHold x_logAt x_logTell x_logW x_once x_free x_pending) j = Sparse.get (fun _ => {}) x_pages j := rfl
@[simp] theorem State.page_eta (s : State) (j : Nat) : Sparse.get (fun _ => {}) s.pages j = s.page j := rfl

@[simp] theorem State.eng_mk (j : Nat) : State.eng (State.mk x_regs x_shadow x_ready x_staged x_stagedItems x_touched x_snaps x_lastRead x_badWords x_setNow x_tb x_trk x_trkUndo x_sns x_snap x_entries x_tev x_points x_deferred x_slots x_placed x_pins x_flight x_stalls x_stepped x_irq x_parts x_pool x_trg x_trgWaits x_pages x_engs x_rns x_valves x_banks x_bst x_pwr x_sys x_ports x_tth x_mbx x_holds x_dma x_chans x_hostOut x_wakeLow x_fr x_pcie x_spi x_logQ x_logLost x_logHold x_logAt x_logTell x_logW x_once x_free x_pending) j = Sparse.get (fun _ => {}) x_engs j := rfl
@[simp] theorem State.eng_eta (s : State) (j : Nat) : Sparse.get (fun _ => {}) s.engs j = s.eng j := rfl

@[simp] theorem State.rn_mk (j : Nat) : State.rn (State.mk x_regs x_shadow x_ready x_staged x_stagedItems x_touched x_snaps x_lastRead x_badWords x_setNow x_tb x_trk x_trkUndo x_sns x_snap x_entries x_tev x_points x_deferred x_slots x_placed x_pins x_flight x_stalls x_stepped x_irq x_parts x_pool x_trg x_trgWaits x_pages x_engs x_rns x_valves x_banks x_bst x_pwr x_sys x_ports x_tth x_mbx x_holds x_dma x_chans x_hostOut x_wakeLow x_fr x_pcie x_spi x_logQ x_logLost x_logHold x_logAt x_logTell x_logW x_once x_free x_pending) j = Sparse.get (fun _ => {}) x_rns j := rfl
@[simp] theorem State.rn_eta (s : State) (j : Nat) : Sparse.get (fun _ => {}) s.rns j = s.rn j := rfl

@[simp] theorem State.vlv_mk (j : Nat) : State.vlv (State.mk x_regs x_shadow x_ready x_staged x_stagedItems x_touched x_snaps x_lastRead x_badWords x_setNow x_tb x_trk x_trkUndo x_sns x_snap x_entries x_tev x_points x_deferred x_slots x_placed x_pins x_flight x_stalls x_stepped x_irq x_parts x_pool x_trg x_trgWaits x_pages x_engs x_rns x_valves x_banks x_bst x_pwr x_sys x_ports x_tth x_mbx x_holds x_dma x_chans x_hostOut x_wakeLow x_fr x_pcie x_spi x_logQ x_logLost x_logHold x_logAt x_logTell x_logW x_once x_free x_pending) j = Sparse.get (fun _ => {}) x_valves j := rfl
@[simp] theorem State.vlv_eta (s : State) (j : Nat) : Sparse.get (fun _ => {}) s.valves j = s.vlv j := rfl

@[simp] theorem State.bk_mk (j : Nat) : State.bk (State.mk x_regs x_shadow x_ready x_staged x_stagedItems x_touched x_snaps x_lastRead x_badWords x_setNow x_tb x_trk x_trkUndo x_sns x_snap x_entries x_tev x_points x_deferred x_slots x_placed x_pins x_flight x_stalls x_stepped x_irq x_parts x_pool x_trg x_trgWaits x_pages x_engs x_rns x_valves x_banks x_bst x_pwr x_sys x_ports x_tth x_mbx x_holds x_dma x_chans x_hostOut x_wakeLow x_fr x_pcie x_spi x_logQ x_logLost x_logHold x_logAt x_logTell x_logW x_once x_free x_pending) j = Sparse.get (fun _ => {}) x_banks j := rfl
@[simp] theorem State.bk_eta (s : State) (j : Nat) : Sparse.get (fun _ => {}) s.banks j = s.bk j := rfl

@[simp] theorem State.port_mk (j : Nat) : State.port (State.mk x_regs x_shadow x_ready x_staged x_stagedItems x_touched x_snaps x_lastRead x_badWords x_setNow x_tb x_trk x_trkUndo x_sns x_snap x_entries x_tev x_points x_deferred x_slots x_placed x_pins x_flight x_stalls x_stepped x_irq x_parts x_pool x_trg x_trgWaits x_pages x_engs x_rns x_valves x_banks x_bst x_pwr x_sys x_ports x_tth x_mbx x_holds x_dma x_chans x_hostOut x_wakeLow x_fr x_pcie x_spi x_logQ x_logLost x_logHold x_logAt x_logTell x_logW x_once x_free x_pending) j = Sparse.get (fun _ => {}) x_ports j := rfl
@[simp] theorem State.port_eta (s : State) (j : Nat) : Sparse.get (fun _ => {}) s.ports j = s.port j := rfl

@[simp] theorem State.mb_mk (j : Nat) : State.mb (State.mk x_regs x_shadow x_ready x_staged x_stagedItems x_touched x_snaps x_lastRead x_badWords x_setNow x_tb x_trk x_trkUndo x_sns x_snap x_entries x_tev x_points x_deferred x_slots x_placed x_pins x_flight x_stalls x_stepped x_irq x_parts x_pool x_trg x_trgWaits x_pages x_engs x_rns x_valves x_banks x_bst x_pwr x_sys x_ports x_tth x_mbx x_holds x_dma x_chans x_hostOut x_wakeLow x_fr x_pcie x_spi x_logQ x_logLost x_logHold x_logAt x_logTell x_logW x_once x_free x_pending) j = Sparse.get (fun _ => {}) x_mbx j := rfl
@[simp] theorem State.mb_eta (s : State) (j : Nat) : Sparse.get (fun _ => {}) s.mbx j = s.mb j := rfl

@[simp] theorem State.hold_mk (j : Nat) : State.hold (State.mk x_regs x_shadow x_ready x_staged x_stagedItems x_touched x_snaps x_lastRead x_badWords x_setNow x_tb x_trk x_trkUndo x_sns x_snap x_entries x_tev x_points x_deferred x_slots x_placed x_pins x_flight x_stalls x_stepped x_irq x_parts x_pool x_trg x_trgWaits x_pages x_engs x_rns x_valves x_banks x_bst x_pwr x_sys x_ports x_tth x_mbx x_holds x_dma x_chans x_hostOut x_wakeLow x_fr x_pcie x_spi x_logQ x_logLost x_logHold x_logAt x_logTell x_logW x_once x_free x_pending) j = Sparse.get (fun _ => {}) x_holds j := rfl
@[simp] theorem State.hold_eta (s : State) (j : Nat) : Sparse.get (fun _ => {}) s.holds j = s.hold j := rfl

@[simp] theorem State.ch_mk (j : Nat) : State.ch (State.mk x_regs x_shadow x_ready x_staged x_stagedItems x_touched x_snaps x_lastRead x_badWords x_setNow x_tb x_trk x_trkUndo x_sns x_snap x_entries x_tev x_points x_deferred x_slots x_placed x_pins x_flight x_stalls x_stepped x_irq x_parts x_pool x_trg x_trgWaits x_pages x_engs x_rns x_valves x_banks x_bst x_pwr x_sys x_ports x_tth x_mbx x_holds x_dma x_chans x_hostOut x_wakeLow x_fr x_pcie x_spi x_logQ x_logLost x_logHold x_logAt x_logTell x_logW x_once x_free x_pending) j = Sparse.get (fun _ => {}) x_chans j := rfl
@[simp] theorem State.ch_eta (s : State) (j : Nat) : Sparse.get (fun _ => {}) s.chans j = s.ch j := rfl

@[simp] theorem State.f_mk (y : Fld) : State.f (State.mk x_regs x_shadow x_ready x_staged x_stagedItems x_touched x_snaps x_lastRead x_badWords x_setNow x_tb x_trk x_trkUndo x_sns x_snap x_entries x_tev x_points x_deferred x_slots x_placed x_pins x_flight x_stalls x_stepped x_irq x_parts x_pool x_trg x_trgWaits x_pages x_engs x_rns x_valves x_banks x_bst x_pwr x_sys x_ports x_tth x_mbx x_holds x_dma x_chans x_hostOut x_wakeLow x_fr x_pcie x_spi x_logQ x_logLost x_logHold x_logAt x_logTell x_logW x_once x_free x_pending) y = getBits (Sparse.get regReset x_regs y.addr) y.lo y.len := rfl
@[simp] theorem State.f_eta (s : State) (y : Fld) : getBits (s.rd y.addr) y.lo y.len = s.f y := rfl

@[simp] theorem State.b_mk (y : Fld) : State.b (State.mk x_regs x_shadow x_ready x_staged x_stagedItems x_touched x_snaps x_lastRead x_badWords x_setNow x_tb x_trk x_trkUndo x_sns x_snap x_entries x_tev x_points x_deferred x_slots x_placed x_pins x_flight x_stalls x_stepped x_irq x_parts x_pool x_trg x_trgWaits x_pages x_engs x_rns x_valves x_banks x_bst x_pwr x_sys x_ports x_tth x_mbx x_holds x_dma x_chans x_hostOut x_wakeLow x_fr x_pcie x_spi x_logQ x_logLost x_logHold x_logAt x_logTell x_logW x_once x_free x_pending) y = decide (getBits (Sparse.get regReset x_regs y.addr) y.lo y.len ≠ 0) := rfl
theorem State.b_eta (s : State) (y : Fld) : decide (s.f y ≠ 0) = s.b y := rfl

@[simp] theorem State.mode_mk : State.mode (State.mk x_regs x_shadow x_ready x_staged x_stagedItems x_touched x_snaps x_lastRead x_badWords x_setNow x_tb x_trk x_trkUndo x_sns x_snap x_entries x_tev x_points x_deferred x_slots x_placed x_pins x_flight x_stalls x_stepped x_irq x_parts x_pool x_trg x_trgWaits x_pages x_engs x_rns x_valves x_banks x_bst x_pwr x_sys x_ports x_tth x_mbx x_holds x_dma x_chans x_hostOut x_wakeLow x_fr x_pcie x_spi x_logQ x_logLost x_logHold x_logAt x_logTell x_logW x_once x_free x_pending) = getBits (Sparse.get regReset x_regs F.SYS_MODE_MODE.addr) F.SYS_MODE_MODE.lo F.SYS_MODE_MODE.len := rfl
@[simp] theorem State.mode_eta (s : State) : s.f F.SYS_MODE_MODE = s.mode := rfl

@[simp] theorem State.now_mk : State.now (State.mk x_regs x_shadow x_ready x_staged x_stagedItems x_touched x_snaps x_lastRead x_badWords x_setNow x_tb x_trk x_trkUndo x_sns x_snap x_entries x_tev x_points x_deferred x_slots x_placed x_pins x_flight x_stalls x_stepped x_irq x_parts x_pool x_trg x_trgWaits x_pages x_engs x_rns x_valves x_banks x_bst x_pwr x_sys x_ports x_tth x_mbx x_holds x_dma x_chans x_hostOut x_wakeLow x_fr x_pcie x_spi x_logQ x_logLost x_logHold x_logAt x_logTell x_logW x_once x_free x_pending) = x_tb.now := rfl
theorem State.now_eta (s : State) : s.tb.now = s.now := rfl

@[simp] theorem State.P_mk : State.P (State.mk x_regs x_shadow x_ready x_staged x_stagedItems x_touched x_snaps x_lastRead x_badWords x_setNow x_tb x_trk x_trkUndo x_sns x_snap x_entries x_tev x_points x_deferred x_slots x_placed x_pins x_flight x_stalls x_stepped x_irq x_parts x_pool x_trg x_trgWaits x_pages x_engs x_rns x_valves x_banks x_bst x_pwr x_sys x_ports x_tth x_mbx x_holds x_dma x_chans x_hostOut x_wakeLow x_fr x_pcie x_spi x_logQ x_logLost x_logHold x_logAt x_logTell x_logW x_once x_free x_pending) = 500 * x_tb.periodUs := rfl
theorem State.P_eta (s : State) : 500 * s.tb.periodUs = s.P := rfl

@[simp] theorem State.reached_mk (t : Time) : State.reached (State.mk x_regs x_shadow x_ready x_staged x_stagedItems x_touched x_snaps x_lastRead x_badWords x_setNow x_tb x_trk x_trkUndo x_sns x_snap x_entries x_tev x_points x_deferred x_slots x_placed x_pins x_flight x_stalls x_stepped x_irq x_parts x_pool x_trg x_trgWaits x_pages x_engs x_rns x_valves x_banks x_bst x_pwr x_sys x_ports x_tth x_mbx x_holds x_dma x_chans x_hostOut x_wakeLow x_fr x_pcie x_spi x_logQ x_logLost x_logHold x_logAt x_logTell x_logW x_once x_free x_pending) t = decide (since x_tb.now t < 2 ^ 47) := rfl
@[simp] theorem State.passed_mk (t : Time) (d : Nat) : State.passed (State.mk x_regs x_shadow x_ready x_staged x_stagedItems x_touched x_snaps x_lastRead x_badWords x_setNow x_tb x_trk x_trkUndo x_sns x_snap x_entries x_tev x_points x_deferred x_slots x_placed x_pins x_flight x_stalls x_stepped x_irq x_parts x_pool x_trg x_trgWaits x_pages x_engs x_rns x_valves x_banks x_bst x_pwr x_sys x_ports x_tth x_mbx x_holds x_dma x_chans x_hostOut x_wakeLow x_fr x_pcie x_spi x_logQ x_logLost x_logHold x_logAt x_logTell x_logW x_once x_free x_pending) t d = decide (d ≤ since x_tb.now t) := rfl

end Sys2Proof.Machine
end

