-- ==== Sys2Proof/Tests/Slice0.lean ====
section
/-! SUPPORT. Tests: ill-formed commands are refused by the well-formedness check, the spec's worked numbers, and for every
statement with hypotheses a state and operands that meet them. -/

namespace Sys2Proof.Tests

open Sys2Proof Sys2Proof.Machine

set_option Elab.async false

/-! ### The states of the tests -/

/-- The state after reset, with register fields set. -/
def cfg (l : List (Fld × Nat)) (s : State := State.reset) : State := l.foldl (fun s e => s.setF e.1 e.2) s

/-- The reset state in a mode, the time base running at tick `now`. -/
def at_ (mode : Nat) (now : Time) (l : List (Fld × Nat) := []) : State :=
  let s := cfg ((F.SYS_MODE_MODE, mode) :: l)
  { s with tb := { s.tb with running := true, now := now } }

/-- The same, in a beat that began `phase` ticks ago. -/
def inBeat (mode phase : Nat) (l : List (Fld × Nat) := []) : State :=
  let s := at_ mode (BitVec.ofNat 48 (1000000 + phase)) l
  { s with tb := { s.tb with t0 := 1000000, phase := phase } }

/-- With tracker `n` as given. -/
def trkAs (n : Nat) (t : Tracker) (s : State) : State := s.setTr n t

/-! ### Well-formed commands -/

/-- The entries of the ill-formed readings: each field one beyond what its register takes (R40). -/
def okReadings : Readings := { vcore := 1200, vio := 3300, v33 := 3300, vgd := 12000, vbst := 260, vs := 240, vin := 96 }

theorem test_wf_readings : (Instr.beatBoundary okReadings true).wf = true
    ∧ (Instr.beatBoundary { okReadings with vcore := 65536 } true).wf = false
    ∧ (Instr.beatBoundary { okReadings with vio := 65536 } true).wf = false
    ∧ (Instr.beatBoundary { okReadings with v33 := 65536 } true).wf = false
    ∧ (Instr.beatBoundary { okReadings with vgd := 65536 } true).wf = false
    ∧ (Instr.beatBoundary { okReadings with vbst := 512 } true).wf = false
    ∧ (Instr.beatBoundary { okReadings with vs := 512 } true).wf = false
    ∧ (Instr.beatBoundary { okReadings with vin := 1024 } true).wf = false := by decide

theorem test_wf_bytes : (Instr.registerWrite .core 0 0 0).wf = false ∧ (Instr.registerWrite .core 0 0 1).wf = true
    ∧ (Instr.yardDataWrite .core 0 0 0).wf = false ∧ (Instr.runnerServiceCheck [(1, 2), (1, 2)]).wf = false
    ∧ (Instr.runnerServiceCheck [(1, 2), (2, 1)]).wf = true
    ∧ (Instr.lawUpdate 3 [7, 7]).wf = false ∧ (Instr.lawUpdate 3 [7, 8]).wf = true
    ∧ (Instr.armerScan [(9, true), (9, false)]).wf = false ∧ (Instr.armerScan [(9, true), (8, true)]).wf = true
    ∧ (Instr.cmdLogRead 2 [2047, 2047]).wf = false ∧ (Instr.cmdLogRead 2 [2047, 0]).wf = true := by decide

theorem test_wf_lengths : (Instr.pmbTransactionDone (.ok (List.replicate 33 0))).wf = false
    ∧ (Instr.pmbTransactionDone (.ok (List.replicate 32 0))).wf = true
    ∧ (Instr.descriptorFetched 0 (.host [])).wf = false ∧ (Instr.dmaReadReturn 0 0 (.host (List.replicate 513 0))).wf = false
    ∧ (Instr.dmaReadReturn 0 0 (.host (List.replicate 512 0))).wf = true
    ∧ (Instr.tapInstruction .idcode false (List.replicate 161 false)).wf = false := by decide +kernel

theorem test_wf_frames : (Instr.frameReceived 0 (List.replicate 643 0) 0 0).wf = false
    ∧ (Instr.frameReceived 0 (List.replicate 644 0) 0 0).wf = true
    ∧ (Instr.gateCopyReceived (List.replicate 645 0) 0).wf = false
    ∧ (Instr.gateCopyReceived (List.replicate 644 0) 0).wf = true := by decide +kernel

theorem test_wf_pcie : (Instr.pcieLinkUp 0 1).wf = false ∧ (Instr.pcieLinkUp 1 0).wf = false ∧ (Instr.pcieLinkUp 1 1).wf = true
    ∧ (Instr.pcieConfigWrite (.maxPayload 512)).wf = false ∧ (Instr.pcieConfigWrite (.maxRead 1024)).wf = false
    ∧ (Instr.pcieConfigWrite (.maxRead 512)).wf = true := by decide


/-! ### The block as a whole, the time base and the bus -/

theorem test_reset_sound : State.reset.Sound := by decide

/-- A sound state meets the hypothesis of EveryCommandActsAndLeavesTheQueue; an empty queue that of AnEmptyQueueIdles. -/
theorem test_hyp_EveryCommandActsAndLeavesTheQueue : (at_ 4 5).Sound ∧ (at_ 4 5).pending = [] := ⟨by decide +kernel, rfl⟩

theorem test_idle : step State.reset = .next State.reset := by rfl

/-- A sound state with a command that waits meets the hypotheses of the statements about every step. -/
theorem test_hyp_EveryStepKeepsTheStateSound :
    let s := { at_ 4 5 with pending := [.timeBaseTick] }
    s.Sound ∧ ∃ t, step s = .next t := ⟨by decide +kernel, _, rfl⟩

theorem test_hyp_TimeBaseTickCountsOneTick :
    (let s := at_ 4 5
     s.tb.running = true ∧ s.tb.due = false)
    ∧ ((cfg [(F.SYS_MODE_MODE, 0)]).tb.running = false ∧ (cfg [(F.SYS_MODE_MODE, 0)]).mode = 0)
    ∧ (let s := { at_ 4 5 with tb := { (at_ 4 5).tb with due := true } }
       s.tb.running = true ∧ s.tb.due = true)
    ∧ (let s := cfg [(F.SYS_MODE_MODE, 6)]
       s.tb.running = false ∧ s.mode ≠ 0) := by decide

theorem test_hyp_CommitPreparationTakesReadyItems :
    (let s := inBeat 4 7872
     s.tb.running = true ∧ s.tb.due = false ∧ s.tb.prepared = false ∧ s.tb.phase + 128 = s.P ∧ s.mode ≠ 3)
    ∧ (let s := inBeat 2 200
       s.tb.running = true ∧ s.tb.due = false ∧ s.tb.started = false ∧ s.tb.phase = 200 ∧ 2 ≤ s.mode ∧ s.mode ≠ 3) := by decide

theorem test_hyp_CommitMakesStagedWordsActive :
    let s : State := { State.reset with staged := [(0x100, 1), (0x104, 2)] }
    Sparse.rising s.staged = true ∧ s.staged ≠ [] := by decide

theorem test_hyp_HoldAndOverrunSkipTheCommit : 0xFFFFF < 2 ^ 20 := by decide

theorem test_hyp_ShadowWritesActAtCommitOnly :
    let s := State.reset.shadowWr (R.WHL_CPC 3) 60
    Sparse.rising s.shadow = true ∧ s.shadow ≠ [] := by decide

theorem test_hyp_BoundaryOpensTheBeat :
    let s := { at_ 4 5 with tb := { (at_ 4 5).tb with due := true } }
    s.tb.running = true ∧ s.tb.due = true ∧ s.mode ≠ 3 ∧ (s.openBeat.freeSlots.pinsSettle.deadPast.boundaryCommit).mode ≠ 3 := by decide +kernel

theorem test_hyp_TimeBaseRegistersAct :
    (let s := at_ 4 5
     s.writesReach .core ∧ s.readsReach .core)
    ∧ (let s := at_ 2 5
       s.writesReach .core ∧ s.mode = 2 ∧ s.sealed = false ∧ s.inRing = false ∧ 4 ≤ getBits (4#32) 0 7
       ∧ getBits (64#32) 0 7 ≤ 64)
    ∧ (let s := at_ 4 5
       s.writesReach .core ∧ s.sealed = false ∧ getBits (3#32) 0 7 < 4 ∧ 64 < getBits (65#32) 0 7)
    ∧ (let s := { at_ 4 5 [(F.TB_COMMIT_CTL_HOLD, 1)] with tb := { (at_ 4 5).tb with holdRun := 4096 } }
       s.b F.TB_COMMIT_CTL_HOLD = true ∧ 4096 ≤ s.tb.holdRun)
    ∧ (let s := { at_ 4 5 with parts := [(19, { busy := true })] }
       s.mode ≠ 3 ∧ (s.part 19).busy = true ∧ (s.part 19).queued = none)
    ∧ (let s := { inBeat 4 0 with tb := { (inBeat 4 0).tb with ovrRun := 16 } }
       s.tb.due = false ∧ s.now = s.tb.t0 ∧ 2 ≤ s.mode ∧ s.mode ≠ 3 ∧ s.mode ≠ 6
       ∧ max 1 (s.f F.TB_BEAT_CFG_OVR_LIMIT) ≤ s.tb.ovrRun) := by decide

theorem test_hyp_RegisterWriteActsByAccessCode :
    (let s := at_ 4 5
     s.readsReach .core ∧ 20 % 4 = 0 ∧ 20 < 0x2000 ∧ 20 ≠ R.SYS_TWIN ∧ s.mayWrite .core = true
     ∧ ((rowAt 20).any (fun x => x.commit == false && x.w1c != 0) = true) ∧ rowAt 24 = none ∧ (1 : BitVec 4) ≠ 15)
    ∧ (let s := cfg [(F.SYS_MODE_MODE, 2), (F.SYS_HOST_STAT_HOSTSEL, 0)]
       s.readsReach .spi ∧ s.mayWrite .spi = false) := by decide

theorem test_hyp_ReadsReturnLatchAndClear :
    (let s := at_ 4 5
     s.readsReach .core ∧ R.TB_LO % 4 = 0 ∧ isLo R.TB_LO = true)
    ∧ (let s := at_ 4 5
       let a := R.SYS_HOST_PARTIAL
       a % 4 = 0 ∧ ((rowAt a).any (fun x => x.rc != 0) = true) ∧ isBanked a = false ∧ isLo a = false
       ∧ s.viewAt a = none ∧ s.shadowAt a = none ∧ stallAt a = none ∧ a ≠ R.TB_BEAT ∧ a ≠ R.IRQ_CORE_CLAIM
       ∧ ¬ (0x114000 ≤ a ∧ a < 0x115000) ∧ ¬ (0x30000 ≤ a ∧ a < 0x40000)
       ∧ s.setAt a = none ∧ { s with setNow := [(a, 1, 2)] }.setAt a = some (1, 2)) := by decide

theorem test_hyp_LogWritesTheOldestReport :
    let s := { at_ 4 5 with logHold := false, logQ := [{ time := 3, beat := 1, code := .whlSyncLost, source := 2, detail := 4 }] }
    s.mode ≠ 3 ∧ s.logHold = false ∧ s.logTell = false ∧ s.logFree = true ∧ s.logQ ≠ [] ∧ s.writesReach .core
    ∧ { s with logAt := some 4 }.logFree = false ∧ { s with logTell := true }.logTell = true
    ∧ { s with logW := [(4 * 5 + 3, 0x4000000)] }.logValid (getBits (5#32) 0 11) = true := by decide

/-! ### Events -/

/-- A pin event of shed 2 and slot 5 that has come, and the pins owned by that shed. -/
def pinEv (action : Nat) (isEnd : Bool := false) : Act :=
  { sh := 2, slot := 5, at_ := 64, isEnd := isEnd, ev := { tgtType := 0, target := 7, action := action }, entry := 1 }

def pinAt (a : Act) : State :=
  { at_ 4 100 [(F.TIO_CFG_OWNER 7, 1), (F.TIO_CFG_OWN_IDX 7, 2)] with placed := [a], pins := [(7, { safe := false })] }

/-- An event of shed 2 and slot 5 on another target. -/
def evOn (type action target : Nat) (isEnd : Bool := false) : Act :=
  { sh := 2, slot := 5, at_ := 64, isEnd := isEnd, ev := { tgtType := type, target := target, action := action }, entry := 1 }

def placedAt (a : Act) : State := { at_ 4 100 with placed := [a] }

theorem test_hyp_SlotsCompareAndTrackersTick :
    (let s := at_ 4 5
     s.tb.running = true ∧ s.mode ≠ 3)
    ∧ (let s := at_ 3 5
       s.tb.running = true ∧ s.mode = 3) := by decide

theorem test_hyp_LoadsTakeTheLowestFreeSlot :
    (let s : State := { slots := [(slotKey 2 0, { st := .armed }), (slotKey 2 1, { st := .over 2 })] }
     (s.sl (slotKey 2 2)).st = .free ∧ (∀ j : Fin 2, (s.sl (slotKey 2 j)).st ≠ .free))
    ∧ (let s : State := State.reset
       (s.sl (slotKey 2 0)).st = .free)
    ∧ (let s : State := { slots := (List.range 64).map (fun k => (slotKey 2 k, { st := .active })) }
       ∀ j : Fin 64, (s.sl (slotKey 2 j)).st ≠ .free) := by decide +kernel

theorem test_hyp_AnInstanceTakesTheEarliestEnd :
    (let s : State := { slots := [(slotKey 2 5, { st := .active, startAt := 320, endAt := some 1600 })] }
     (s.sl (slotKey 2 5)).st = .active ∧ s.isCheck 2 = false ∧ s.b F.EVT_TWIN_INJECT_GO = false
     ∧ (s.sl (slotKey 2 5)).endAt = some 1600 ∧ earlier 1599 1600 = true ∧ earlier 1600 1600 = false)
    ∧ (let s : State := { slots := [(slotKey 2 5, { st := .active, startAt := 320 })] }
       (s.sl (slotKey 2 5)).st = .active ∧ (s.sl (slotKey 2 5)).endAt = none) := by decide

theorem test_hyp_PinActionsDriveTheirEdges :
    ∀ (k : Fin 6) (e : Bool), let s := pinAt (pinEv k e)
      s.pinFree 7 = true ∧ s.pinOfShed 7 2 = true ∧ (s.pin 7).actTick ≠ some (tickOf (s.atCell 7 64))
      ∧ (s.placed.erase (pinEv k e)).find? (fun b => decide (b.slot < 5)) = none ∧ s.actDue 2 5 0 k = some (pinEv k e) := by decide

theorem test_hyp_EventActionsReachTheirTargets :
    (∀ k : Fin 4, (placedAt (evOn 1 k 23)).engFlush.actDue 2 5 1 k = some (evOn 1 k 23))
    ∧ (∀ e : Bool, (placedAt (evOn 2 0 31 e)).actDue 2 5 2 0 = some (evOn 2 0 31 e)
  ∧ ((placedAt (evOn 2 0 31 e)).vlv 31).evAt ≠ some (placedAt (evOn 2 0 31 e)).now
  ∧ ((placedAt (evOn 2 0 31 e)).placed.erase (evOn 2 0 31 e)).any (fun x => x.ev.tgtType == 2) = false)
    ∧ (∀ k : Fin 4, (placedAt (evOn 3 k 31)).actDue 2 5 3 k = some (evOn 3 k 31))
    ∧ (∀ k : Fin 2, (placedAt (evOn 4 k 64)).actDue 2 5 4 k = some (evOn 4 k 64)) := by decide

/-! ### Trackers -/

/-- A law with a fractional rate: 7 / 3 raw units per tick. -/
def aLaw : Tracker := { lawOn := true, q := 2, rem := 1, den := 3, acc := 2, run := 1000 }

/-- An accepted edge whose update tick is tick 1000. -/
def anEdge (k : EdgeKind) : EdgeUpd :=
  { kind := k, due := 1000, stamp := 880, period := some 500, before := none, fwd := true, late := false, mprev := none
    angle := 0, quad := 0, overdue := false, noise := false }

def edgeDue (k : EdgeKind) : State := trkAs 3 { st := .acquire, upds := [anEdge k] } (at_ 4 1000)

theorem test_hyp_LawAdvancesExactly :
    let t := aLaw
    t.freshLaw = false ∧ t.acc < t.den ∧ t.rem < t.den := by decide

theorem test_hyp_EstimateNeverMovesBackward :
    (let t : Tracker := { aLaw with a := 99, lam := 98, h := 5 }
     t.a < 100 ∧ t.lam < 100 ∧ t.h < 100)
    ∧ (let t : Tracker := { aLaw with a := 3, h := 3, run := 0, gone := 0 }
       (t.tick 100 false).halted = true)
    ∧ (let t : Tracker := { aLaw with lam := 30, a := 3, h := 90 }
       (t.tick 100 true).catching = true) := by decide

/-- A change to the high level on a pin, passed by a filter of 10 (40 ticks). -/
def upTo (rising : Bool) : Crossing := { rising := rising, held := 40, mv := 0, peak := 0 }

def toothIn (t : Tracker) (l : List (Fld × Nat) := []) : State :=
  trkAs 3 t (at_ 4 1000 ([(F.WHL_IN_TOOTH_SRC 3, 40), (F.WHL_FILT_TOOTH_GLITCH 3, 10), (F.WHL_IN_IDX_SRC 3, 41)] ++ l))

/-- The hypotheses on a tooth edge that is taken. -/
def toothTaken (s : State) (x : Crossing) : Bool :=
  let src := s.f (F.WHL_IN_TOOTH_SRC 3)
  decide (4 * s.f (F.WHL_FILT_TOOTH_GLITCH 3) ≤ x.held) && s.mode != 3 && decide (s.tmode 3 < 2) && (s.tr 3).st != .off && s.taken src x
    && s.toothLevel 3 src (s.sensed src x.rising) && s.arms 3 src x.peak

theorem test_hyp_EdgesAreAcceptedAtTheirStamps :
    (let s := toothIn { st := .acquire, seen := true, edge := 900 }
     toothTaken s (upTo true) = true ∧ (s.tr 3).seen = true ∧ since (s.now - 40) (s.tr 3).edge < 125)
    ∧ (let s := toothIn { st := .acquire, seen := true, edge := 970 } [(F.WHL_CFG_MODE 3, 1), (F.WHL_CFG_EDGE_POL 3, 1)]
       toothTaken s (upTo false) = true ∧ since (s.tr 3).edge (s.now - 40) ≤ 252)
    ∧ (at_ 3 5).mode = 3
    ∧ (let s := toothIn { st := .acquire } [(F.WHL_IN_TOOTH_SRC 3, 5), (F.SNS_CFG_TYPE 5, 0)]
       toothTaken s { upTo false with peak := 9999, mv := -9999 } = true ∧ (s.tr 3).seen = false ∧ (s.tr 3).haveEdge = false
       ∧ (s.tr 3).upds = [] ∧ (s.sn (s.f (F.WHL_IN_TOOTH_SRC 3))).haveEdge = false)
    ∧ (let s := toothIn { st := .sync }
       let src := s.f (F.WHL_IN_IDX_SRC 3)
       4 * s.f (F.WHL_FILT_IDX_GLITCH 3) ≤ 40 ∧ s.mode ≠ 3 ∧ s.tmode 3 < 5 ∧ (s.tr 3).st = .sync ∧ s.taken src (upTo true) = true
       ∧ s.idxLevel 3 (s.sensed src true) = true ∧ s.arms 3 src 0 = true ∧ 32 ≤ src)
    ∧ (let s := toothIn { st := .sync, haveIdx := true, idxEdge := 500 }
       let src := s.f (F.WHL_IN_IDX_SRC 3)
       s.taken src (upTo false) = true ∧ s.idxLevel 3 (s.sensed src false) = false ∧ (s.tr 3).haveIdx = true
       ∧ (s.tr 3).idxMarkC = none ∧ (s.tr 3).idxChk = none ∧ (s.tr 3).idxJudge = false)
    ∧ (let s := toothIn { st := .sync, lead := some 100, pulseRev := true } [(F.WHL_CFG_MODE 3, 2), (F.WHL_PW_FWD_MAX 3, 6), (F.WHL_PW_REV_MAX 3, 7)]
       let src := s.f (F.WHL_IN_TOOTH_SRC 3)
       (s.tr 3).lead = some 100 ∧ s.tmode 3 = 2 ∧ s.taken src (upTo false) = true
       ∧ s.toothLevel 3 src (s.sensed src false) = false
       ∧ since (s.now - 40) 100 ≤ 125 * s.f (F.WHL_PW_REV_MAX 3)
       ∧ (s.tr 3).pulseRev = decide (125 * s.f (F.WHL_PW_FWD_MAX 3) < since (s.now - 40) 100))
    ∧ (let s := toothIn { st := .sync, lead := some 100 } [(F.WHL_CFG_MODE 3, 2), (F.WHL_PW_REV_MAX 3, 6)]
       125 * s.f (F.WHL_PW_REV_MAX 3) < since (s.now - 40) 100 ∧ (s.tr 3).upds = [] ∧ (s.tr 3).leadSt = none)
    ∧ (∀ k ∈ [EdgeKind.tooth, .index, .ssi], ((edgeDue k).tr 3).upds = [anEdge k] ∧ (edgeDue k).reached (anEdge k).due = true
       ∧ ((edgeDue k).setTr 3 { (edgeDue k).tr 3 with upds := [] }).patFails 3 = false)
    ∧ (let s := { trkAs 3 { st := .sync, upds := [anEdge .tooth] } (at_ 4 1000) with badWords := [R.PAT 3 0] }
       (s.setTr 3 { s.tr 3 with upds := [] }).patFails 3 = true) := by decide

theorem test_hyp_TrackerLimitsChangeItsState :
    (let s := trkAs 3 { st := .sync, stopBase := 0 } (at_ 4 256 [(F.WHL_STOP_STOP_TIME 3, 1)])
     s.mode ≠ 3 ∧ s.tmode 3 < 5 ∧ (s.tr 3).st = .sync ∧ s.passed (s.tr 3).stopBase (s.stopTicks 3) = true)
    ∧ (let s := trkAs 3 { st := .limp, idxPer := 128 } (at_ 4 256 [(F.WHL_STOP_STOP_TIME 3, 1)])
       s.tmode 3 < 5 ∧ (s.tr 3).st = .limp ∧ s.passed (s.tr 3).idxEdge (max (s.stopTicks 3) (2 * s.idxExp 3)) = true)
    ∧ (let s := trkAs 3 { st := .sync, idxErr := 8, idxDue := true } (at_ 4 256 [(F.WHL_SYNCCFG_IDX_ERR_MAX 3, 8)])
       (s.tr 3).idxDue = true ∧ (s.tr 3).idxErr = s.idxErrMax 3)
    ∧ (at_ 3 5).mode = 3
    ∧ (let s := trkAs 3 { st := .sync, err := 8, idxErr := 8, idxSync := true } (at_ 4 256 [(F.WHL_SYNCCFG_ERR_MAX 3, 8), (F.WHL_SYNCCFG_IDX_ERR_MAX 3, 8)])
       (s.tr 3).st = .sync ∧ s.errMax 3 ≤ (s.tr 3).err ∧ s.idxErrMax 3 ≤ (s.tr 3).idxErr ∧ (s.tr 3).idxSync = true)
    ∧ (let s := trkAs 3 { st := .limp, idxErr := 8 } (at_ 4 256 [(F.WHL_SYNCCFG_IDX_ERR_MAX 3, 8)])
       (s.tr 3).st = .limp ∧ s.idxErrMax 3 ≤ (s.tr 3).idxErr)
    ∧ (let s := trkAs 3 { st := .gapSeek, seekEdges := 120 } (at_ 4 256 [(F.WHL_PAT_TOOTH_N_M1 3, 59), (F.WHL_SYNCCFG_SEEK_REVS 3, 2)])
       (s.tr 3).st = .gapSeek ∧ s.seekRevs 3 * s.toothN 3 ≤ (s.tr 3).seekEdges)
    ∧ (let s := trkAs 3 { st := .sync, tthNone := 4 } (at_ 4 256 [(F.WHL_CFG_MODE 3, 6)])
       s.tmode 3 = 6 ∧ (s.tr 3).st ≠ .off ∧ (s.tr 3).st ≠ .lost ∧ 4 ≤ (s.tr 3).tthNone) := by decide

theorem test_hyp_SensorPairsAreChecked :
    (let s := trkAs 3 { st := .acquire, havePer := true, per := 100, edge := 0 } (at_ 4 200 [(F.SNS_CFG_TYPE 5, 0), (F.WHL_IN_TOOTH_SRC 3, 5)])
     s.isVr 5 = true ∧ s.mode ≠ 3 ∧ s.firstUser 5 = some 3 ∧ (s.tr 3).havePer = true ∧ s.pairPeriod 5 = some (100, 0)
     ∧ ((s.sn 5).halvings + 2) * 100 ≤ since s.now 0)
    ∧ ((5500 : Int) < 5501 ∧ (301 : Int) ≤ 5500 ∧ (-300 ≤ (-300 : Int) ∧ (-300 : Int) ≤ 300)
       ∧ (300 : Int) < 802 ∧ (300 : Int) < 301 ∧ (802 : Int) ≤ 5500 ∧ 500 < (802 : Int) - 301)
    ∧ (let s := at_ 4 200
       2 ≤ s.mode ∧ s.mode ≠ 3 ∧ snsClass (s.f (F.SNS_CFG_TYPE 5)) 2600 2500 = .none ∧ (s.sn 5).supOff < 99 ∧ (s.sn 5).gndOff < 99
       ∧ (s.sn 5).openOff < 99) := by decide

/-! ### The armer and the pin cells -/

theorem test_hyp_AScanStagesAtMostOnePointOfAnEntry :
    (State.reset.snapOf (State.reset.entry 600).trk).arm = false
    ∧ (({ at_ 4 5 with tev := [(0, { waiting := true })] } : State).te ((at_ 4 5).entry 600).trk).waiting = true
    ∧ (({ at_ 4 5 with entries := [(600, { ecc := true, spent := true })] } : State).es 600).ecc = true := by decide +kernel

theorem test_hyp_ScansAndForcedEndsAct :
    (let s0 := inBeat 4 300 [(F.EVT_ARM_CFG_ARM_EN, 1)]
     let s := { s0 with tb := { s0.tb with started := true }, parts := [(16, { busy := true })] }
     s.tb.started = true ∧ s.tb.prepared = false ∧ (s.part 16).busy = true ∧ s.running = true
     ∧ s.b F.EVT_ARM_CFG_ARM_EN = true ∧ s.b F.PWR_STAT_RAMP = false)
    ∧ (let s := { inBeat 2 300 with tb := { (inBeat 2 300).tb with started := true }, parts := [(16, { busy := true })] }
       s.tb.started = true ∧ s.tb.prepared = false ∧ (s.part 16).busy = true ∧ s.running = false)
    ∧ (let s := { at_ 4 1076 with slots := [(slotKey 2 5, { st := .active, startAt := 320, ev := { form := true, endDur := 1090 } })] }
       let x := s.sl (slotKey 2 5)
       x.st = .active ∧ x.ev.hasEnd = true ∧ x.ev.form = true ∧ (x.ev.duration : Int) ≤ s.ticksSince x.startAt + 24)
    ∧ (let s := { at_ 4 4082 with slots := [(slotKey 2 5, { st := .active, startAt := 320, ev := { maxDur := 1 } })] }
       let x := s.sl (slotKey 2 5)
       x.st = .active ∧ x.ev.hasEnd = true ∧ x.ev.form = false ∧ x.ev.maxDur ≠ 0
       ∧ (x.ev.cap : Int) ≤ s.ticksSince x.startAt + 24)
    ∧ (let s := { at_ 4 1000 [(F.EVT_STALL_TIME 3, 1)] with tev := [(3, { haltTicks := 256 })] }
       s.f (F.EVT_STALL_TIME 3) ≠ 0 ∧ 256 * s.f (F.EVT_STALL_TIME 3) ≤ (s.te 3).haltTicks ∧ (s.te 3).stalled = false) := by decide

/-- Cell 191 has driven an edge at tick 8998 and may swap its lines at tick 9000. -/
def driven : State :=
  { at_ 4 9000 with
    pins := [(191, { measured := true, b := { taps := 40, ok := true }, edges := [(32 * 8998, true)], swapAt := 808 })] }

theorem test_hyp_DelayLinesAreMeasuredAndSwapped :
    (∀ l : Bool, ({ at_ 4 9000 with pins := [(7, { line := l })] }.pin 7).measured = false)
    ∧ (2 ≤ driven.mode ∧ (driven.pin 191).measured = true
       ∧ (if (driven.pin 191).line then (driven.pin 191).a else (driven.pin 191).b).ok = true
       ∧ driven.placed = [] ∧ driven.flight = [] ∧ driven.passed (driven.pin 191).swapAt 8192 = true)
    ∧ (let s := cfg [(F.SYS_MODE_MODE, 4), (F.SYS_TWIN_PAIR_ACT, 8)]
       s.writesReach .core ∧ (s.f F.SYS_TWIN_PAIR_ACT).testBit (getBits (0x2C5#32) 6 3) = true
       ∧ (s.f F.SYS_TWIN_PAIR_ACT).testBit (getBits (0x285#32) 6 3) = false) := by decide +kernel

/-- The remaining hypothesis of a swap: the last edges of the cell lie two ticks back. -/
theorem test_hyp_DelayLinesAreMeasuredAndSwapped_edges :
    ∀ e ∈ (driven.pin 191).edges, tickOf e.1 ≠ driven.now ∧ tickOf e.1 ≠ driven.now - 1 := by
  intro e he
  have h : (driven.pin 191).edges = [(32 * 8998, true)] := by decide +kernel
  rw [h, List.mem_singleton] at he
  subst he
  decide +kernel

/-! ### Stalls -/

/-- Stall 25 may step by its own clock at tick 1000, in the first cycle after its restart. -/
def stepAt (l : List (Fld × Nat)) (cnt : Nat) (ref : Time := 999) : State :=
  { at_ 4 1000 ([(F.STL_CTL_RUN 25, 1), (F.STL_CFG_CLK_SRC 25, 0), (F.STL_CFG_ONE_PASS 25, 1), (F.STL_PERIOD_ACT_PER 25, 9),
      (F.STL_CNT_COUNT 25, cnt)] ++ l) with stalls := [(25, { ref := ref, first := true })] }

def mayStep (s : State) : Bool :=
  !s.isCheck 1 && s.stallsRun && s.stepping 25 && !s.stepped.contains 25 && s.f (F.STL_CFG_CLK_SRC 25) == 0
    && s.b (F.STL_CFG_ONE_PASS 25) && (s.stlPhase 25).toNat % 2 ^ s.f (F.STL_CFG_PRESCALE 25) == 0

theorem test_hyp_StallCountersRunTheirSequences :
    0 < 1 := by decide

theorem test_hyp_OnePassStopsAtTheEndOfTheCycle :
    (mayStep (stepAt [] 9) = true ∧ mayStep (stepAt [] 8) = true
     ∧ mayStep (stepAt [(F.STL_CFG_PRESCALE 25, 3)] 9 992) = true)
    ∧ (let s := stepAt [(F.STL_CFG_DIR_MODE 25, 1)] 1
       mayStep s = true ∧ s.f (F.STL_CFG_DIR_MODE 25) = 1 ∧ s.f (F.STL_CNT_COUNT 25) = 1)
    ∧ (let s := stepAt [(F.STL_CFG_DIR_MODE 25, 2), (F.STL_STAT_DOWN 25, 1)] 1
       mayStep s = true ∧ s.f (F.STL_CFG_DIR_MODE 25) = 2 ∧ s.b (F.STL_STAT_DOWN 25) = true)
    ∧ (let s := stepAt [(F.STL_PERIOD_ACT_PER 25, 0)] 0
       mayStep s = true ∧ s.f (F.STL_PERIOD_ACT_PER 25) = 0)
    ∧ ((stepAt [] 9).stl 25).first = true := by decide

/-- Stall 25 on the level of pin 7 - 0, an output of a tracker or nothing, in mode 4. -/
def inAt (src edge : Nat) (l : List (Fld × Nat) := []) : State :=
  at_ 4 5 ([(F.STL_IO_IN_SRC 25, src), (F.STL_CFG_IN_EDGE 25, edge)] ++ l)

def inTaken (s : State) (rising : Bool) : Bool :=
  let src := s.f (F.STL_IO_IN_SRC 25)
  s.taken src { upTo rising with mv := if rising then 9999 else -9999, peak := 9999 } && !s.isCheck 1
    && s.arms ((s.firstUser src).getD 16) src 9999

theorem test_hyp_StallEdgesStepCaptureAndRestart :
    192 ≤ (inAt 192 0).f (F.STL_IO_IN_SRC 25) ∧ (inAt 5 0 [(F.SNS_CFG_TYPE 5, 0)]).arms (((inAt 5 0).firstUser 5).getD 16) 5 0 = false
    ∧ (let s := inAt 191 1
       inTaken s true = true ∧ s.f (F.STL_CFG_IN_EDGE 25) = 1 ∧ s.sensed 191 true = true)
    ∧ (let s := inAt 0 0
       inTaken s false = true ∧ s.f (F.STL_CFG_IN_EDGE 25) = 0 ∧ s.sensed 0 false = false)
    ∧ (let s := at_ 3 5 [(F.STL_IO_IN_SRC 25, 40)]
       inTaken s true = true ∧ s.stallsRun = false)
    ∧ (let s := inAt 47 2 [(F.STL_CFG_CAP_MODE 25, 1), (F.STL_CFG_CAP_SEL 25, 1), (F.STL_FLAGS_CAPTURE 25, 1)]
       s.stallsRun = true ∧ inTaken s true = true ∧ 2 ≤ s.f (F.STL_CFG_IN_EDGE 25) ∧ s.f (F.STL_CFG_CAP_MODE 25) = 1
       ∧ s.b (F.STL_CFG_CAP_SEL 25) = true ∧ s.b (F.STL_FLAGS_CAPTURE 25) = true ∧ s.f (F.STL_CFG_CLK_SRC 25) ≠ 1)
    ∧ (let s := inAt 47 1 [(F.STL_CFG_CAP_MODE 25, 3), (F.STL_CFG_CLK_SRC 25, 1)]
       s.stallsRun = true ∧ inTaken s false = true ∧ s.sensed 47 false = false ∧ s.f (F.STL_CFG_CAP_MODE 25) = 3
       ∧ s.b (F.STL_CFG_CAP_SEL 25) = false)
    ∧ (let s := inAt 47 0 [(F.STL_CFG_CAP_MODE 25, 2), (F.STL_CFG_DIR_MODE 25, 1)]
       s.stallsRun = true ∧ inTaken s true = true ∧ s.sensed 47 true = true ∧ s.f (F.STL_CFG_CAP_MODE 25) = 2
       ∧ s.f (F.STL_CFG_DIR_MODE 25) = 1) := by decide

theorem test_hyp_StallRegistersAct :
    (let s := at_ 4 5
     s.writesReach .core ∧ s.readsReach .core ∧ s.isCheck 1 = false ∧ s.f (F.STL_CFG_CLK_SRC (s.chainHead 25)) = 0)
    ∧ (at_ 4 5 [(F.STL_CFG_CLK_SRC 25, 1)]).f (F.STL_CFG_CLK_SRC ((at_ 4 5 [(F.STL_CFG_CLK_SRC 25, 1)]).chainHead 25)) ≠ 0
    ∧ (let s := at_ 4 5 [(F.STL_CFG_CLK_SRC 26, 2), (F.STL_CFG_CLK_SRC 27, 2)]
       s.chainAbove 25 = [26, 27] ∧ s.f (F.STL_CFG_CLK_SRC 25) ≠ 2)
    ∧ (let s := at_ 4 5 [(F.SYS_TWIN_PAIR_ACT, 1)]
       s.writesReach .core ∧ s.isCheck ((25 : Fin 384).val / 24) = true) := by decide +kernel

/-! ### Engines -/

/-- Engine 3 at word 0 of a store of ten words; its nanoword is the first of the named words. -/
def engAt (e : Eng) (nano : Nat := 0) (l : List (Fld × Nat) := []) : State :=
  let s := { at_ 4 1000 ([(F.SHD_ENG_LIMIT_UW_LIMIT 3, 10), (F.SHD_ENG_LIMIT_NW_LIMIT 3, 10), (F.SHD_ENG_VEC_FAULT_VEC 3, 5)] ++ l) with
    engs := [(3, e)] }
  overList (List.range 4) (fun x w => x.wr (R.NWORD 3 0 w) (BitVec.ofNat 32 (nano / 2 ^ (24 * w) % 2 ^ 24))) s

theorem test_hyp_EngineArithmeticIsExact :
    0xFFFFFF < 2 ^ 24 := by decide

/-- A microword of each next-address form, and an engine whose loop counter is not 0. -/
theorem test_hyp_EngineWordsTakeTheirNextAddress :
    (∀ k : Fin 8, uBsel (k.val * 2 ^ 21) = k.val) ∧ ((engAt { lc := 5 }).eng 3).lc ≠ 0 ∧ ((engAt {}).eng 3).lc = 0 := by decide

/-- The state in which the word is taken: the engines' writes on their way have landed, and the steps due at the stalls it reads. -/
def flushed (n : Nat) (s : State) : State := overList ((s.engFlush.engPair n).flatMap s.engFlush.engStalls) State.stlDue s.engFlush

/-- The hypotheses on engine n for a word to be taken or to wait. -/
def wordReady (f : State) (n : Fin 16) (waits : Bool) : Bool :=
  f.engReady n && f.engCycle && !(f.eng n).waiting && !f.engIrqDue n && !f.engIllegal n && !f.engStackBad n
    && f.engMustWait n == waits

/-- Engines 2 and 3 as a twin pair: the lead about to run an empty word, the check engine one of its own. -/
def twinEngs (nano : Nat := 0) : State :=
  let s := engAt { st := .run, ready := 1000 } nano [(F.SYS_TWIN_PAIR_ACT, 2), (F.SHD_ENG_LIMIT_UW_LIMIT 2, 10), (F.SHD_ENG_LIMIT_NW_LIMIT 2, 10)]
  { s with engs := [(2, { st := .run, ready := 1000 }), (3, { st := .run, ready := 1000 })] }

theorem test_hyp_EnginesRunTheirWords :
    (let f := flushed 3 (engAt { st := .run, ready := 1000 })
     f.isLead 3 = false ∧ wordReady f 3 false = true
     ∧ f.reached ((f.eng 3).ready + BitVec.ofNat 48 (2 * (f.engCycles 3 - 1))) = true)
    ∧ (let f := flushed 3 (engAt { st := .run, ready := 1000 } (2 ^ 48 + 2 ^ 54))
       f.isLead 3 = false ∧ f.mode ≠ 3 ∧ wordReady f 3 true = true ∧ f.reached (f.eng 3).ready = true)
    ∧ (let s := engAt { st := .run, waiting := true, waitOver := true, ready := 900 }
       s.isLead 3 = false ∧ s.engReady 3 = true ∧ s.engCycle = true ∧ (s.eng 3).waiting = true ∧ s.engIrqDue 3 = false
       ∧ s.engMustWait 3 = false)
    ∧ (let s := engAt { st := .done, startHeld := true, ready := 900 }
       s.isCheck 3 = false ∧ (s.eng 3).st = .done ∧ (s.eng 3).startHeld = true ∧ s.engParked 3 = false
       ∧ s.engClock = true ∧ s.mode ≠ 3 ∧ s.engCycle = true ∧ s.engIrqDue 3 = false)
    ∧ (let s := engAt { st := .done }
       s.writesReach .core ∧ s.isCheck 3 = false ∧ s.engFreeAt 3 s.now = true)
    ∧ (engAt { st := .run, ready := 1000 }).engFreeAt 3 1000 = false := by decide +kernel

/-- The pair takes its word, and both engines have the same effects. -/
theorem test_hyp_EnginesRunTheirWords_twin :
    (let f := flushed 2 twinEngs
     let h := overList (f.engPair 2) State.engHold f
     let p := h.engPull 2 false
     twinEngs.isCheck 2 = false ∧ f.isLead 2 = true ∧ h.isLead 2 = true ∧ f.engIrqDue 2 = false ∧ h.engActs 2 = true
     ∧ h.engActs 3 = true ∧ p.1.engIllegal 3 = false ∧ p.1.engStackBad 3 = false
     ∧ (p.1.engEval 3 p.2.1 p.2.2 false).effs = (p.1.engEval 2 p.2.1 p.2.2 false).effs)
    ∧ (let f := flushed 2 (twinEngs (4 * 2 ^ 60))
       let h := overList (f.engPair 2) State.engHold f
       let p := h.engPull 2 false
       h.isLead 2 = true ∧ f.engIrqDue 2 = false ∧ h.engActs 2 = true ∧ h.engActs 3 = true
       ∧ (p.1.engEval 3 p.2.1 p.2.2 false).effs ≠ (p.1.engEval 2 p.2.1 p.2.2 false).effs)
    ∧ twinEngs.isCheck 3 = true := by decide +kernel

/-- The hypotheses on engine 3 for a trap. -/
def mayTrap (s : State) : Bool :=
  !s.isCheck 3 && s.engClock && s.mode != 3 && s.engCycle && !s.engParked 3 && s.engFree 3

theorem test_hyp_EngineTrapsSaveAndVector :
    (let s := engAt { st := .run, soft := true, ready := 900, upc := 2047 }
     mayTrap s = true ∧ (s.eng 3).st = .run ∧ (s.eng 3).soft = true ∧ (s.eng 3).upc < 2 ^ 11)
    ∧ (let s := { engAt { st := .run, ready := 900, irq := some (7, 800) } 0 [(F.SHD_ENG_CTL_IE 3, 1), (F.IRQ_SRC_CFG_TGT_KIND 7, 2), (F.IRQ_SRC_CFG_TGT_IDX 7, 3)] with
         irq := [(7, { edge := true, masked := false })] }
       mayTrap s = true ∧ s.engSource 3 = some 7 ∧ s.engIrqDue 3 = true ∧ (s.eng 3).soft = false)
    ∧ (∀ t, let s := engAt { st := .run, ready := 900, upc := 10, trapped := t }
       mayTrap s = true ∧ s.engNextUp 3 = true ∧ s.engIrqDue 3 = false ∧ s.engIllegal 3 = true ∧ (s.eng 3).trapped = t
       ∧ (s.eng 3).waiting = false)
    ∧ (let s := (engAt { st := .run, ready := 900, stk := [1, 2, 3, 4] }).wr (R.UWORD 3 0) 0x600000
       mayTrap s = true ∧ s.engNextUp 3 = true ∧ s.engIrqDue 3 = false ∧ s.engIllegal 3 = false ∧ s.engStackBad 3 = true
       ∧ (s.eng 3).trapped = false) := by decide +kernel

/-! ### Runners -/

/-- Runner 5 about to issue a word of its program; runner 5 in WAIT with a word in hand. -/
def rnAt (w : Nat) (l : List (Fld × Nat) := []) : State :=
  { at_ 4 1000 ((F.RUN_PROG_INSN 5 3, w) :: l) with rns := [(5, { st := .run, pc := 3, due := 1000 })] }

def rnWaits (w on : Nat) (l : List (Fld × Nat) := []) : State :=
  { at_ 4 1000 l with rns := [(5, { st := .wait, ir := w, on := on })] }

def rnIs (st : RunSt) (r : Runner := {}) : State := { at_ 4 1000 with rns := [(5, { r with st := st })] }

theorem test_hyp_RunnerRegisterInstructionsComplete :
    (∀ p ∈ [(0x0000, RnOp.nop), (0x060F, .clrf), (0x0701, .now), (0x2FFF, .addt), (0x3001, .addd), (0x081F, .fine), (0x0900, .clrsr),
    (0x0A00, .stamp), (0x6FFF, .ldl), (0x0200, .irq), (0x0100, .halt), (0x5000, .jmp), (0x5E7F, .jmp)],
  (rnAt p.1).issues 5 p.2 false)
    ∧ (let s := { at_ 6 1000 [(F.RUN_CTL_SENSOR 5, 1), (F.RUN_INJECT_INSN 5, 0x0700)] with rns := [(5, { st := .halted, injPend := true })] }
       s.issues 5 .now false) := by decide +kernel

theorem test_hyp_RunnersWaitShiftAndDrive :
    (∀ p ∈ [(0x1080, RnOp.pin), (0x1E00, .pin), (0x4000, .wait), (0x0300, .req), (0x0555, .unreq), (0x0400, .reqw), (0x8800, .push),
    (0x9C00, .pull), (0x7020, .shift), (0x7001, .shift)], (rnAt p.1).issues 5 p.2 false)
    ∧ (let s := rnAt 0x4000 [(F.RUN_TIME_TR 5, 1000)]
       s.issues 5 .wait false ∧ (s.now.setWidth 24 - s.rnTr 5).toNat < 2 ^ 23)
    ∧ (let s := rnAt 0x4000 [(F.RUN_TIME_TR 5, 1001)]
       s.issues 5 .wait false ∧ 2 ^ 23 ≤ (s.now.setWidth 24 - s.rnTr 5).toNat)
    ∧ (let s := rnAt 0x4803 [(F.RUN_FLAGS_F 5, 8)]
       s.issues 5 .wait false ∧ 0x4803 >>> 10 % 4 = 2 ∧ (s.rd (R.RUN_FLAGS 5)).getLsbD (0x4803 % 4) = true)
    ∧ (let s := rnAt 0x4802 [(F.RUN_FLAGS_F 5, 8)]
       s.issues 5 .wait false ∧ (s.rd (R.RUN_FLAGS 5)).getLsbD (0x4802 % 4) = false)
    ∧ (let s := rnAt 0x4700
       s.issues 5 .wait false ∧ 0x4700 >>> 10 % 4 = 1)
    ∧ (let s := rnWaits 0x1080 6 [(F.RUN_TIME_TR 5, 1024)]
       (s.rn 5).st = .wait ∧ s.rnMode 5 = true ∧ s.rnParked 5 = false ∧ (s.rn 5).on = 6 ∧ rnOp (s.rn 5).ir = .pin
       ∧ s.rnDue (s.rnTr 5) = true)
    ∧ (let s := rnWaits 0x7008 6
       rnOp (s.rn 5).ir = .shift)
    ∧ (let s := rnWaits 0x4000 1
       rnOp (s.rn 5).ir = .wait ∧ s.rnWaitOver 5 (s.rn 5).ir false = true)
    ∧ (let s := rnWaits 0x8000 5 [(F.RUN_CFG_TRG_OUT 5, 3), (F.TRG_CTL_EN 3, 1)]
       rnOp (s.rn 5).ir = .push ∧ s.rnCanPush 5 = true)
    ∧ (let s := rnWaits 0x9000 5 [(F.RUN_CFG_TRG_IN 5, 3)]
       rnOp (s.rn 5).ir = .pull ∧ s.rnCanPull 5 = true)
    ∧ (let s := rnWaits 0x0400 7
       rnOp (s.rn 5).ir = .reqw ∧ (s.rn 5).req = false) := by decide +kernel

theorem test_hyp_RunnerControlActs :
    ((rnIs .halted).writesReach .core ∧ ((rnIs .halted).rn 5).st = .halted ∧ ((rnIs .fault).rn 5).st = .fault
     ∧ ((rnIs .run).rn 5).st = .run ∧ ((rnIs .wait).rn 5).st = .wait ∧ ((rnIs .wait).rn 5).injPend = false
     ∧ ((rnIs .halted { injPend := true }).rn 5).injPend = true)
    ∧ (let s := { inBeat 4 200 with parts := [(18, { busy := true })] }
       (s.part 18).busy = true ∧ (s.part 18).queued = none ∧ (∀ n : Fin 32, (s.rn n).st = .halted) ∧ 200 ≤ s.tb.phase)
    ∧ (let s := { inBeat 4 1224 with parts := [(18, { busy := true })], rns := [(5, { st := .run })] }
       (s.part 18).busy = true ∧ 200 + 32 * 32 ≤ s.tb.phase ∧ (s.rn 5).st = .run) := by decide +kernel

/-! ### Valves -/

/-- Channel 6, of bank 1, as given. -/
def vlvAt (mode : Nat) (now : Time) (v : Valve) (l : List (Fld × Nat) := []) : State := { at_ mode now l with valves := [(6, v)] }

def bankAt (now : Time) (b : Bank) (l : List (Fld × Nat) := []) : State := { at_ 4 now l with banks := [(1, b)] }

theorem test_hyp_BankSwitchesNeverOverlap :
    (let s := bankAt 1000 { side := 1 }
     (s.bk 1).side ≠ 0)
    ∧ (let s := bankAt 1000 { side := 0, last := 2, dead := some 1000 }
       (s.bk 1).side = 0 ∧ (s.bk 1).dead = some 1000 ∧ s.reached 1000 = true)
    ∧ (let s := bankAt 1000 { last := 1, dead := some 2000 } [(F.PWR_VSG_STAT_GATE, 1)]
       let t := { s with valves := [(6, { st := .peak, sw := true, owner := some (.ev 2 5) })] }
       (t.bk 1).side = 0 ∧ ((t.bankSettle 1).bk 1).side = (t.bk 1).last)
    ∧ (at_ 3 5).mode = 3 ∧ (at_ 6 5).mode = 6 ∧ (at_ 1 5).mode ≤ 1 := by decide

theorem test_hyp_RefusedStartsLeaveTheChannel :
    ((vlvAt 4 5 { forcedBy := [(2, 5)] }).vlv 6).forced = true
    ∧ ((vlvAt 2 5 {}).mode ≠ 4 ∧ (vlvAt 2 5 {}).mode ≠ 5 ∧ (vlvAt 2 5 {}).mode ≠ 7)
    ∧ (vlvAt 4 5 {} [(F.PWR_STAT_RAMP, 1)]).b F.PWR_STAT_RAMP = true
    ∧ ((vlvAt 4 5 { st := .locked }).vlv 6).st = .locked
    ∧ ((vlvAt 4 5 { modelBad := true }).vlv 6).modelBad = true
    ∧ (at_ 4 5).b F.PWR_VSG_STAT_GATE = false
    ∧ (at_ 4 5 [(F.PWR_RAIL_STAT_VGD_UV, 1)]).b F.PWR_RAIL_STAT_VGD_UV = true
    ∧ (at_ 4 5).b (F.VLV_CTL_EN 6) = false
    ∧ ((bankAt 5 { solo := true }).solo ((6 : Fin 32).val / 4) = true ∧ (6 : Fin 32).val % 4 ≠ 0) := by decide

theorem test_hyp_ValvePhasesEndAtTheirTimes :
    (let s := vlvAt 4 1000 { st := .boost, tb := 500, prof := { tBst := 500 } }
     let v := s.vlv 6
     v.flyback = none ∧ v.wait = none ∧ v.st = .boost ∧ s.passed v.tb v.prof.tBst = true)
    ∧ (let s := vlvAt 4 1000 { st := .peak, tb := 500, prof := { tPeak := 500 } }
       let v := s.vlv 6
       v.st = .peak ∧ s.passed v.tb v.prof.tPeak = true)
    ∧ (let s := vlvAt 4 1000 { st := .hold, ts := 500, prof := { tMax := 500 } }
       let v := s.vlv 6
       v.st.runs = true ∧ v.prof.tMax ≠ 0 ∧ s.passed v.ts v.prof.tMax = true)
    ∧ (let s := vlvAt 4 1000 { st := .decay, td := 500, prof := { tDecay := 500 } }
       let v := s.vlv 6
       v.st = .decay ∧ s.passed v.td v.prof.tDecay = true)
    ∧ (let s := vlvAt 4 1000 { st := .drop, durEnd := some 1000 }
       let v := s.vlv 6
       v.st.runs = true ∧ v.durEnd = some 1000 ∧ s.reached 1000 = true)
    ∧ (let w : VWait := { owner := .ev 2 5, prof := {}, start := 0, since := 500, dur := 0, restart := false }
       let s := vlvAt 4 1000 { st := .wait, wait := some w } [(F.HSW_CFG_GRACE 1, 1)]
       (s.vlv 6).wait = some w ∧ s.passed w.since (500 * s.f (F.HSW_CFG_GRACE ((6 : Fin 32).val / 4))) = true)
    ∧ (let s := vlvAt 4 1075 { st := .peak } [(F.VLV_DIAG_CFG_ON_EN 6, 0)]
       s.resultTick 6 = true ∧ 2 ≤ s.mode ∧ s.b (F.VLV_DIAG_CFG_ON_EN 6) = false ∧ (s.vlv 6).flyback = none
       ∧ (s.vlv 6).st = .peak)
    ∧ (let s := at_ 4 5 [(F.BST_STAT_CHARGING, 1)]
       s.b F.BST_STAT_CHARGING = true ∧ s.b F.BST_STAT_OV = false ∧ s.bst.gate = false ∧ s.bst.offUntil = none)
    ∧ (let s := { at_ 4 1000 [(F.BST_SW_ILIM, 20), (F.BST_SW_TON_MAX, 40)] with bst := { gate := true, gateAt := 200 } }
       s.bst.gate = true ∧ 5 * s.f F.BST_SW_ILIM ≤ 100 ∧ s.passed s.bst.gateAt (20 * s.f F.BST_SW_TON_MAX) = true)
    ∧ (let s := { at_ 4 5 with bst := { gate := true, offUntil := some 5 } }
       s.bst.gate = true ∧ s.bst.offUntil = some 5 ∧ s.reached 5 = true ∧ s.vov ≤ (511 : BitVec 9).toNat) := by decide

theorem test_hyp_ValveDiagnosisLocksAndUnlocks :
    (let s := vlvAt 4 1000 { st := .peak, onSince := some 500 } [(F.VLV_DIAG_CFG_ON_EN 6, 1)]
     s.onChecked 6 = true ∧ (s.vlv 6).onSince = some 500 ∧ s.passed 500 500 = true ∧ s.cause 6 lShortSup = false)
    ∧ (let s := vlvAt 4 1075 { st := .peak, onSince := some 75, x := 9 } [(F.VLV_DIAG_CFG_ON_EN 6, 1), (F.VLV_DIAG_CFG_T_OPEN 6, 2), (F.VLV_DIAG_CFG_OPEN_THR 6, 10)]
       s.onChecked 6 = true ∧ s.passed 75 (500 * max 1 (s.f (F.VLV_DIAG_CFG_T_OPEN 6))) = true ∧ s.resultTick 6 = true
       ∧ (s.vlv 6).x < s.f (F.VLV_DIAG_CFG_OPEN_THR 6))
    ∧ (let s := vlvAt 4 6000 { flyback := some 1000 }
       (s.vlv 6).flyback = some 1000 ∧ s.passed 1000 5000 = true)
    ∧ (let s := bankAt 26000 { quiet := some 1000 } [(F.VLV_DIAG_CFG_OFF_EN 6, 1)]
       (s.bk 1).quiet = some 1000 ∧ s.passed 1000 25000 = true ∧ (s.bk 1).lastTest = none ∧ s.diagMode = true
       ∧ (s.bk 1).test = none ∧ ((bankChans 1).any (fun n => s.b (F.VLV_DIAG_CFG_OFF_EN n)) = true))
    ∧ (let s := bankAt 51000 { test := some 1000 }
       (s.bk 1).test = some 1000 ∧ s.passed 1000 50000 = true ∧ (s.bk 1).pu = none)
    ∧ (let s := bankAt 101000 { test := some 1000, pu := some (.mid, [.mid, .mid, .mid, .mid]) }
       (s.bk 1).pu = some (.mid, [.mid, .mid, .mid, .mid]) ∧ s.passed 1000 100000 = true)
    ∧ (let s := vlvAt 2 5 { calN := 256, calSum := 16 * 256 - 128 }
       256 ≤ (s.vlv 6).calN ∧ s.diagMode = true ∧ 16 ≤ ((s.vlv 6).calSum + 128) / 256
       ∧ ((s.vlv 6).calSum + 128) / 256 ≤ 112)
    ∧ (let s := { inBeat 4 300 with parts := [(17, { busy := true })] }
       (s.part 17).busy = true ∧ (s.part 17).queued = none ∧ s.diagMode = true ∧ (∀ n : Fin 32, s.coilFails n = false)
       ∧ s.b F.PWR_VSG_STAT_REVERSED = false ∧ s.b F.PWR_VSG_STAT_UV = false)
    ∧ (let s := at_ 4 5 [(F.PWR_VSG_CTL_EN, 1)]
       s.writesReach .core ∧ s.b F.PWR_VSG_STAT_REVERSED = false ∧ s.b F.PWR_VSG_STAT_UV = false
       ∧ s.b F.PWR_VSG_STAT_RCURR = false ∧ s.b F.PWR_VSG_CTL_EN = true ∧ 2 ≤ s.mode
       ∧ s.b F.PWR_RAIL_STAT_VGD_UV = false ∧ s.pwr.vsgHeld = false) := by decide +kernel

/-! ### Power, reset and modes -/

def pwrAt (mode : Nat) (p : Power) (l : List (Fld × Nat) := []) : State := { at_ mode 1000 l with pwr := p }
def bootAt (b : BootPos) : State := { at_ 1 5 with sys := { boot := b } }

theorem test_hyp_PowerUpAndBootFollowTheirSteps :
    (∀ q ∈ [SeqPos.off, .vdd33, .coreDelay], (pwrAt 0 { seq := q }).mode = 0 ∧ (pwrAt 0 { seq := q }).pwr.seq = q)
    ∧ (∀ q ∈ [SeqPos.wantIo, .wantCore, .retry], (pwrAt 0 { seq := q }).pwr.seq = q)
    ∧ ((pwrAt 0 { seq := .wantIo, seqFails := 2 }).pwr.seqFails = 2
       ∧ (pwrAt 0 { seq := .wantIo, seqFails := 1 }).pwr.seqFails ≠ 2)
    ∧ (∀ i : Fin 4, (pwrAt 1 { onGo := 2 ^ i.val, onAt := 0, askedAt := [(i.val, 0)] }).pwr.offGo = 0
  ∧ (pwrAt 1 { onGo := 2 ^ i.val }).pwrPassed 0 (ms * (pwrAt 1 {}).f (F.PWR_SEQ_CFG_DELAY (i.val + 2))) = true
  ∧ (pwrAt 1 { onGo := 2 ^ i.val }).pwr.seqHeld.testBit i = false)
    ∧ (∀ b ∈ [BootPos.start, .locked, .checked, .cleared, .otp], (bootAt b).mode = 1 ∧ (bootAt b).sys.boot = b
  ∧ (bootAt b).pwr.seqFailLog = false ∧ (bootAt b).sys.check = false) := by decide +kernel

theorem test_hyp_SupervisorsRampAndPmbusAct :
    (let s := at_ 4 1000
     s.b F.PWR_RAIL_STAT_VGD_UV = false
     ∧ (∀ r ∈ [Rail.vcore, .vio, .v33, .vgd], (s.rd R.PWR_RAIL_STAT).getLsbD (4 + railNum r) = false
  ∧ (s.rd R.PWR_RAIL_STAT).getLsbD (railNum r) = false)
     ∧ Rail.vcore ≠ .vgd)
    ∧ (let s := at_ 2 1000 [(F.PWR_CFG_PF_SRC, 0), (F.PWR_STAT_RAMP_BAD, 0)]
       2 ≤ s.mode ∧ s.f F.PWR_CFG_PF_SRC = 0 ∧ s.b F.PWR_STAT_PFAIL_IN = false ∧ s.b F.PWR_STAT_RAMP = false
       ∧ s.b F.PWR_STAT_RAMP_BAD = false)
    ∧ (let s := at_ 2 1000 [(F.PWR_CFG_PF_SRC, 2), (F.PWR_CFG_VS_PF, 100), (F.PWR_CFG_PF_FILT, 3)]
       (99#9).toNat < s.f F.PWR_CFG_VS_PF ∧ ¬ (100#9).toNat < s.f F.PWR_CFG_VS_PF ∧ s.f F.PWR_CFG_PF_SRC = 2
       ∧ 50 * max 1 (s.f F.PWR_CFG_PF_FILT) ≤ 150 ∧ 149 < 50 * max 1 (s.f F.PWR_CFG_PF_FILT))
    ∧ (at_ 2 1000 [(F.PWR_CFG_PF_SRC, 3)]).f F.PWR_CFG_PF_SRC = 3
    ∧ (let s := at_ 2 1000 [(F.PWR_CFG_PF_SRC, 0), (F.PWR_STAT_RAMP_BAD, 1)]
       s.b F.PWR_STAT_RAMP_BAD = true)
    ∧ (let s := pwrAt 4 { prog := [0x1001] ++ List.replicate 30 0 ++ [3], stepAt := 500 } [(F.PWR_STAT_RAMP, 1)]
       s.b F.PWR_STAT_RAMP = true ∧ 2 ≤ s.mode
       ∧ s.pwrPassed s.pwr.stepAt (500 * getBits (s.pwr.prog.getD 0 0) 12 12) = true
       ∧ (¬ (getBits (s.pwr.prog.getD 0 0) 0 4 = 0 ∨ getBits (s.pwr.prog.getD 31 0) 0 5 ≤ 0 + 1)))
    ∧ (let s := pwrAt 4 { prog := [0x1001], stepAt := 500 } [(F.PWR_STAT_RAMP, 1), (F.PWR_STAT_STEP, 31)]
       s.b F.PWR_STAT_RAMP = true ∧ s.pwrPassed s.pwr.stepAt (500 * getBits (s.pwr.prog.getD 31 0) 12 12) = true
       ∧ getBits (s.pwr.prog.getD 31 0) 0 4 = 0)
    ∧ (at_ 4 5 [(F.PWR_STAT_PFAIL_IN, 1)]).b F.PWR_STAT_PFAIL_IN = true
    ∧ (let s := { pwrAt 4 { clearLog := true, clearAt := 0 } with tb := { (at_ 4 1000).tb with now := BitVec.ofNat 48 (10 * ms) } }
       s.pwr.clearLog = true ∧ s.b F.PWR_STAT_RAMP = false ∧ s.b F.PWR_STAT_PFAIL_IN = false
       ∧ s.pwrPassed s.pwr.clearAt (10 * ms) = true)
    ∧ (let s := pwrAt 4 {} [(F.PWR_PMB_CFG_EN, 1), (F.PWR_PMB_POLL_EN 3, 1)]
       s.b F.PWR_PMB_CFG_EN = true ∧ s.pwr.job = none ∧ s.pmbDue 3 = true ∧ (∀ j : Fin 3, s.pmbDue j = false))
    ∧ (let s := pwrAt 4 { job := some (.poll 3), fails := [(3, 2)] }
       s.pwr.job = some (.poll 3) ∧ s.b (F.PWR_PMB_POLL_BYTE 3) = false ∧ (at_ 4 5 [(F.PWR_PMB_CFG_PEC, 0)]).b F.PWR_PMB_CFG_PEC = false
       ∧ (at_ 4 5 [(F.PWR_PMB_CFG_PEC, 1)]).b F.PWR_PMB_CFG_PEC = true
       ∧ (s.pwr.fails.find? (fun e => e.1 == 3) = some (3, 2)))
    ∧ (let s := { pwrAt 4 { job := some (.poll 3), jobAt := 0 } with tb := { (at_ 4 1000).tb with now := BitVec.ofNat 48 (35 * ms) } }
       s.pwr.job = some (.poll 3) ∧ s.pwrPassed s.pwr.jobAt (35 * ms) = true) := by decide +kernel

theorem test_hyp_PmbusAlertsAreReadAndLogged :
    (let s := pwrAt 4 { job := some .ara } [(F.PWR_PMB_CFG_EN, 1), (F.PWR_PMB_CFG_ALERT_ARA, 1)]
     s.b F.PWR_PMB_CFG_EN = true ∧ s.b F.PWR_PMB_STAT_ALERT_IN = false ∧ s.b F.PWR_PMB_CFG_ALERT_ARA = true ∧ s.pwr.job = some .ara)
    ∧ (at_ 4 5 [(F.PWR_PMB_STAT_ALERT_IN, 1)]).b F.PWR_PMB_STAT_ALERT_IN = true ∧ (at_ 4 5 [(F.PWR_PMB_CFG_EN, 0)]).b F.PWR_PMB_CFG_EN = false
    ∧ (let s := pwrAt 4 {} [(F.PWR_PMB_CFG_EN, 1), (F.PWR_PMB_CFG_ALERT_ARA, 0)]
       s.b F.PWR_PMB_CFG_EN = true ∧ s.b F.PWR_PMB_CFG_ALERT_ARA = false ∧ s.pwr.job = none) := by decide

theorem test_hyp_ResetsLeaveResetValues :
    1000 ≤ 1000 ∧ (at_ 4 5).mode ≠ 0 ∧ 999 < 1000 ∧ (at_ 0 5).mode = 0 := by decide

theorem test_hyp_CausesForceSafe :
    31 < 32
    ∧ (let s := { at_ 4 5 with tb := { (at_ 4 5).tb with missed := 8 } }
       8 ≤ s.tb.missed ∧ 2 ≤ s.mode ∧ 1 ≤ s.mode ∧ s.b F.SYS_MODE_LOCKED = false
       ∧ (∀ j ∈ [0, 1, 2, 3, 4], s.modeWait j = none))
    ∧ (let v : Svc := { op := 0x102, waiting := true, arg := 4, since := 5 }
       let s := { inBeat 2 0 with mbx := [(1, { svc := some v })] }
       s.tb.running = true ∧ s.tb.due = false ∧ s.now = s.tb.t0 ∧ s.modeWait 1 = some v
       ∧ (∀ j ∈ [0, 2, 3, 4], s.modeWait j = none) ∧ v.since ≠ s.now ∧ v.arg ≠ s.mode ∧ s.modeFor v.arg = some 4) := by decide +kernel

/-! ### Tether -/

/-- A frame whose first four bytes take the CRC register to 0, and whose other bytes but the last four are 0. -/
def zeroFrame (n check : Nat) : List Nat := (255 :: 255 :: 255 :: 255 :: List.replicate n 0) ++ [check, check, check, check]

theorem crcByte_zero (poly : Nat) : crcByte poly 0 0 = 0 := by
  have h : crcBit poly 0 = 0 := by simp [crcBit]
  simp [crcByte, h]

theorem crcRun_zeros (poly : Nat) : (n : Nat) → crcRun poly 0 (List.replicate n 0) = 0
  | 0 => rfl
  | n + 1 => (congrArg (fun c => crcRun poly c (List.replicate n 0)) (crcByte_zero poly)).trans (crcRun_zeros poly n)

theorem crcRun_zeroFrame (n : Nat) : crcRun crc32cPoly 0xFFFFFFFF (255 :: 255 :: 255 :: 255 :: List.replicate n 0) = 0 := by
  have e : crcByte crc32cPoly (crcByte crc32cPoly (crcByte crc32cPoly (crcByte crc32cPoly 0xFFFFFFFF 255) 255) 255) 255 = 0 := by
    decide +kernel
  exact (congrArg (fun c => crcRun crc32cPoly c (List.replicate n 0)) e).trans (crcRun_zeros _ _)

theorem zeroFrame_good (n c : Nat) (hn : n = 636) :
    frameGood (zeroFrame n c) = (ofBytes [c, c, c, c] == 0xFFFFFFFF) := by
  have l : (255 :: 255 :: 255 :: 255 :: List.replicate n 0).length = 640 := by
    simp only [List.length_cons, List.length_replicate, hn]
  have h : (zeroFrame n c).take 640 = 255 :: 255 :: 255 :: 255 :: List.replicate n 0 := by
    rw [zeroFrame, List.take_append_of_le_length (by omega)]
    exact List.take_of_length_le (by omega)
  have g : fget (zeroFrame n c) 640 4 = ofBytes [c, c, c, c] := by
    rw [fget, zeroFrame, List.drop_append_of_le_length (by omega), List.drop_of_length_le (by omega)]
    rfl
  have k : (zeroFrame n c).length = 644 := by rw [zeroFrame, List.length_append, l]; rfl
  rw [frameGood, g, frameCrc, h, crcOf, crcRun_zeroFrame, k]
  rfl

/-- A frame with a good check and one with a bad one. -/
theorem test_frames : frameGood (zeroFrame 636 255) = true ∧ frameGood (zeroFrame 636 0) = false := by
  rw [zeroFrame_good _ _ rfl, zeroFrame_good _ _ rfl]
  decide

def portAt (x : Port) (l : List (Fld × Nat) := []) : State := { at_ 4 1000 ((F.TTH_CTL_EN, 1) :: l) with ports := [(1, x)] }
def ringAt (x : Tether) (l : List (Fld × Nat) := []) : State := { inBeat 4 50 ((F.TTH_CTL_EN, 1) :: l) with tth := x }

theorem test_hyp_TetherLinksMeasureAndFold :
    (let s := portAt { link := .sync, dq := [(7, 100, 3)], n := 15 }
     s.tthEn = true ∧ (s.port 1).link ≠ .down ∧ (∀ e ∈ (s.port 1).dq.head?, e.2.2 ≠ s.tb.beat)
     ∧ ((s.port 1).dq.find? (fun e => e.1 == 7) = some (7, 100, 3)) ∧ ((228 : BitVec 52) - 100).toNat ≤ 32 * s.P
     ∧ (s.port 1).n = 15 ∧ ((s.port 1).dq.find? (fun e => e.1 == 8) = none))
    ∧ (let s := portAt { n := 16, link := .ready }
       16 ≤ (s.port 1).n)
    ∧ (let s := portAt {}
       (s.port 1).link = .down ∧ s.tthEn = true)
    ∧ (let s := { portAt {} [(F.TTH_CFG_ROLE, 2), (F.TTH_GATE_CFG_RX_EN, 1)] with ports := [(2, { link := .ready })], tth := { joined := true } }
       s.tthEn = true ∧ s.role = 2 ∧ s.b F.TTH_GATE_CFG_RX_EN = true ∧ (s.port 2).link ≠ .down ∧ s.tth.joined = true
       ∧ s.b F.TTH_CTL_JOIN = false)
    ∧ (let s := { at_ 4 5 [(F.TB_DISC_STAT_STATE, 1)] with tb := { (at_ 4 5).tb with discGood := 64, discNone := 4 } }
       s.disc = 1 ∧ 64 ≤ s.tb.discGood ∧ 4 ≤ s.tb.discNone) := by decide +kernel

theorem test_hyp_TetherFramesAreSealedAndForwarded :
    (let s := portAt { link := .ready } [(F.TTH_CFG_DEV_ID, 5)]
     let g := zeroFrame 636 0
     s.tthEn = true ∧ s.mode ≠ 0 ∧ s.tb.running = true ∧ (s.port 1).link ≠ .down ∧ fget g 3 1 % 32 ≠ s.devId
     ∧ fget g 21 1 < 64 ∧ g.length = 644)
    ∧ (let s := ringAt { origin := true, missed := true }
       s.tthEn = true ∧ s.tb.running = true ∧ s.tth.origin = true ∧ s.tth.sentOwn = false ∧ 50 ≤ s.tb.phase
       ∧ s.tb.due = false ∧ s.tth.missed = true)
    ∧ (let s := ringAt { silent := 4 } [(F.TTH_CFG_PRIO, 1)]
       s.tthEn = true ∧ s.f F.TTH_CFG_PRIO ≠ 0 ∧ s.tth.origin = false ∧ 4 ≤ s.tth.silent)
    ∧ (let s := ringAt { returning := true, lockedRun := 64 } [(F.TTH_CFG_ROLE, 1)]
       s.tthEn = true ∧ s.role ≠ 0 ∧ s.tth.origin = false ∧ s.tth.returning = true ∧ 64 ≤ s.tth.lockedRun)
    ∧ (let s := ringAt { origin := true, ringVer := 1, riseMin := 2, riseRun := 64 }
       s.tth.origin = true ∧ s.tth.ringVer < s.tth.riseMin ∧ 64 ≤ s.tth.riseRun)
    ∧ (let s := at_ 2 5
       s.writesReach .core ∧ s.tthEn = false)
    ∧ (let s := at_ 2 5 [(F.TTH_CTL_EN, 1)]
       s.writesReach .core ∧ s.tthEn = true ∧ s.mode = 2) := by decide +kernel

/-! ### The Yard and the troughs -/

/-- Page 3 as given. -/
def pageAt (x : Page) : State := { at_ 4 1000 with pages := [(3, x)] }

/-- Trough 3, of 16 words, EN as given; trough 50 is host-facing. -/
def trgAt (en : Nat) (t : Trough) (l : List (Fld × Nat) := []) : State :=
  { at_ 4 1000 ([(F.TRG_CFG_SIZE_LOG 3, 4), (F.TRG_CTL_EN 3, en)] ++ l) with trg := [(3, t)] }

/-- The state after reset keeps the order of every trough's pointers, and the commands act on it. -/
theorem test_hyp_TroughPointersKeepTheirOrder :
    (∀ k : Fin 64, State.reset.TroughInOrder k) ∧ ∃ t, exec (.troughPush .core 3 5) State.reset = .next t := ⟨by decide +kernel, _, rfl⟩

theorem test_hyp_YardPagesAreOwnedAndGuarded :
    (let s := pageAt { owner := 2, gen := 63 }
     s.writesReach .core ∧ s.readsReach .core ∧ yardSide .core = true ∧ getBits (0xFD#32) 2 6 = (s.page 3).gen
     ∧ ownAllowed .core 2 (getBits (0xFD#32) 0 2) = true ∧ getBits (0xFD#32) 9 15 = 0 ∧ (s.page 3).owner ≠ 3
     ∧ getBits (0xF9#32) 2 6 ≠ (s.page 3).gen ∧ ownAllowed .core 2 (getBits (0xFE#32) 0 2) = false
     ∧ s.yardMine .core 3 = true ∧ s.yardMine .core 4 = false)
    ∧ (let s := { at_ 4 5 [(F.SYS_HOST_STAT_HOSTSEL, 1)] with pages := [(3, { owner := 3, gen := 1 })] }
       s.writesReach .spi ∧ yardSide .spi = true ∧ ownAllowed .spi 3 (getBits (4#32) 0 2) = true
       ∧ getBits (4#32) 2 6 = (s.page 3).gen ∧ getBits (4#32) 9 15 = 0 ∧ (s.page 3).owner = 3)
    ∧ (0x400000 ≤ 0x5FFFFC ∧ 0x5FFFFC < 0x600000 ∧ 0x40000 ≤ 0x5FFFC ∧ 0x5FFFC < 0x60000)
    ∧ 2 ≤ (at_ 4 5).mode ∧ (at_ 4 5).mode ≠ 3 := by decide +kernel

theorem test_hyp_TroughCommandsPushPullAndRelease :
    (let s := trgAt 1 {}
     s.writesReach .core ∧ s.readsReach .core ∧ s.trgWrong 3 false true = false ∧ s.trgEn 3 = true
     ∧ 0 < s.trgSpace 3 ∧ s.hostWaiter 3 true = none ∧ s.pushTurn 3 (agentOf .core) = true ∧ s.trgUnread 3 = 0 ∧ s.trgBadRegion 4 = false)
    ∧ (let s := trgAt 1 { w := 16 }
       s.trgEn 3 = true ∧ s.trgSpace 3 = 0 ∧ s.trgWrong 3 false false = false ∧ 0 < s.trgReady 3
       ∧ ((Sparse.get (fun _ => ({} : TrgWord)) s.pool (s.trgWordAt 3 (s.tq 3).r)).bad = false)
       ∧ s.hostWaiter 3 false = none ∧ s.pullTurn 3 (agentOf .core) = true ∧ s.pushTurn 3 (agentOf .core) = true)
    ∧ (let s := trgAt 1 { w := 2, pullBy := some (500, 0), pushBy := some (500, 0) }
       s.writesReach .core ∧ s.readsReach .core ∧ s.trgEn 3 = true ∧ s.pullTurn 3 (agentOf .core) = false
       ∧ s.pushTurn 3 (agentOf .core) = false)
    ∧ (let s := trgAt 0 { markOk := true }
       s.writesReach .core ∧ s.trgEn 3 = false ∧ s.trgBadRegion 3 = false ∧ (s.tq 3).markOk = true)
    ∧ (let s := trgAt 0 {} [(F.TRG_CFG_BASE 3, 1)]
       s.trgBadRegion 3 = true ∧ (s.tq 3).markOk = false)
    ∧ (let s := at_ 4 5 [(F.TRG_CFG_DIR 50, 1)]
       s.trgWrong 50 false true = true ∧ s.trgWrong 50 false false = false)
    ∧ (let w : TrgWait := { q := 50, req := .pcie, push := some 9, since := 0 }
       let s := { at_ 4 1000 [(F.TRG_CFG_DIR 50, 1), (F.TRG_HOST_WAIT_WAIT_US, 2)] with trgWaits := [w] }
       s.hostWaiter 50 true = some w ∧ w.push = some 9 ∧ 0 < s.trgSpace 50
       ∧ s.passed w.since (500 * s.f F.TRG_HOST_WAIT_WAIT_US) = true)
    ∧ (let w : TrgWait := { q := 50, req := .pcie, push := none, since := 0 }
       let s := { at_ 4 1000 [(F.TRG_HOST_WAIT_WAIT_US, 2)] with trgWaits := [w] }
       s.hostWaiter 50 false = some w ∧ s.passed w.since (500 * s.f F.TRG_HOST_WAIT_WAIT_US) = true)
    ∧ (let s := trkAs 2 { st := .acquire } (trgAt 1 { w := 4 } [(F.WHL_SSI_TROUGH 2, 3), (F.WHL_CFG_MODE 2, 4), (F.WHL_SSI_BITS 2, 12)])
       s.tmode 2 = 4 ∧ (s.tr 2).st = .acquire ∧ s.f (F.WHL_SSI_TROUGH 2) < 48
       ∧ s.trgEn (s.f (F.WHL_SSI_TROUGH 2)) = true ∧ 2 ≤ s.trgReady (s.f (F.WHL_SSI_TROUGH 2)) ∧ s.mode ≠ 3 ∧ (s.tr 2).st ≠ .sync
       ∧ s.pullTurn (s.f (F.WHL_SSI_TROUGH 2)) (trkAgent 2) = true
       ∧ ((Sparse.get (fun _ => ({} : TrgWord)) s.pool (s.trgWordAt 3 (s.tq 3).r)) = {})
       ∧ ((Sparse.get (fun _ => ({} : TrgWord)) s.pool (s.trgWordAt 3 (((s.tq 3).r + 1) % s.trgMod 3))) = {})) := by decide +kernel

/-! ### DMA -/

/-- Channel 3 as given, and no other in use; the queue of completion records is on. -/
def dmaAt (c : DmaChan) (l : List (Fld × Nat) := []) : State :=
  { at_ 4 40000 ([(F.DMA_CQ_CFG_EN, 1), (F.DMA_CFG_REQ_SEL 3, 96), (F.DMA_CQ_CFG_SIZE_LOG, 4)] ++ l) with chans := [(3, c)] }

theorem test_dma_alone (c : DmaChan) (l : List (Fld × Nat)) : ∀ m, m ≠ 3 → (dmaAt c l).ch m = {} := by
  intro m h
  simp [State.ch, dmaAt, Sparse.get, h]

/-- The rest of State.DmaAlone. -/
def loneOk (s : State) : Bool :=
  s.dmaRuns && s.dma.burst.isNone && !s.b (F.DMA_CTL_STOP 3) && !s.b (F.DMA_CTL_DISABLE 3) && decide (s.dmaFlying < 128)

def aJob : DmaJob :=
  { at_ := ⟨1, 0⟩, hops := 1
    d := { src := ⟨1, 0x100⟩, dst := ⟨2, 0x1000⟩, count := 8, srcW := 3, dstW := 3, srcInc := true, dstInc := true, last := true } }

/-- A read of the job, in flight, and returned. -/
def aRead : DmaRead := { src := ⟨2, 0x4000⟩, size := 4, width := 3, at_ := 39000 }
def gotRead : DmaRead := { aRead with size := 8, data := some (List.replicate 8 (7, false)) }

/-- The descriptor of the job, in page 0 of the Yard. -/
def withDesc (s : State) : State :=
  overList [(0, 0x100), (8, 0x1000), (16, 0x1B000008), (20, 0x839)] (fun x e => x.wr (R.YARD e.1) (BitVec.ofNat 32 e.2))
    { s with pages := [(0, { owner := 2 })] }

theorem test_hyp_DmaChannelMovesItsData :
    (let s := dmaAt {}
     s.writesReach .core ∧ loneOk s = true ∧ s.b F.DMA_CQ_CFG_EN = true ∧ 32 ≤ s.f (F.DMA_CFG_REQ_SEL 3)
     ∧ s.b (F.DMA_DESC_2_SPACE 3) = false ∧ s.chIdle 3 = true ∧ (s.ch 3).jobs = [] ∧ (s.ch 3).fetchAt = none)
    ∧ (let s := withDesc (dmaAt { on := true, next := some ⟨1, 0⟩, fetchAt := some 8000, hops := 1 })
       s.chIdle 3 = false ∧ loneOk s = true ∧ (s.ch 3).next = some ⟨1, 0⟩ ∧ (s.ch 3).fetchAt = some 8000
       ∧ s.descOk 3 (s.yardSpace 0 32) = true ∧ s.descOk 3 (s.yardSpace 32 32) = false ∧ s.timedOut 8000 = true)
    ∧ (let s := dmaAt { on := true, jobs := [aJob] }
       loneOk s = true ∧ 96 ≤ s.f (F.DMA_CFG_REQ_SEL 3) ∧ aJob.issued < aJob.d.count ∧ aJob.written < aJob.d.count
       ∧ aJob.d.src.space ≠ 2 ∧ s.dmaBuffered + (s.nextRead aJob.d aJob.issued (s.burstBytes 3 aJob)).2.1 ≤ 16384)
    ∧ (let s := dmaAt { on := true, jobs := [{ aJob with issued := 8, reads := [aRead] }] }
       loneOk s = true ∧ aRead.data = none ∧ aRead.src.space = 2)
    ∧ (let j := { aJob with issued := 8, reads := [gotRead] }
       let s := dmaAt { on := true, jobs := [j] } [(F.SYS_HOST_STAT_LINK_UP, 1), (F.SYS_HOST_STAT_BME, 1), (F.SYS_HOST_STAT_DSTATE, 0)]
       loneOk s = true ∧ s.hostUp = true ∧ j.d.dst.space = 2 ∧ dataSize j.d.dstW ≤ (readyBytes j.reads).length
       ∧ j.written + dataSize j.d.dstW ≤ j.d.count)
    ∧ (let s := dmaAt { on := true, jobs := [{ aJob with issued := 8, written := 4, reads := [gotRead] }] }
       loneOk s = true ∧ aJob.d.last = true ∧ 4 + dataSize aJob.d.dstW = aJob.d.count)
    ∧ (let s := dmaAt { on := true, next := some ⟨1, 64⟩ }
       loneOk s = true ∧ (s.ch 3).records = [] ∧ (s.ch 3).next = some ⟨1, 64⟩ ∧ (s.ch 3).fetchAt = none)
    ∧ (let s := dmaAt { on := true } [(F.DMA_CFG_CLASS 3, 1)]
       s.bulk 3 = true)
    ∧ (let y : DmaRec := { at_ := ⟨1, 0⟩, bytes := 8, status := dmaOk, poison := false, valid := true, irq := false, crc := 0, hops := 1, ends := true }
       let s := { dmaAt { records := [y] } [(F.DMA_CQ_TAIL_TAIL, 2)] with pages := [(0, { owner := 2 })] }
       loneOk s = true ∧ (s.ch 3).on = false ∧ s.cqFull = false ∧ s.recOk s.recAddr = true)
    ∧ (let s := dmaAt { lost := [5] }
       (s.ch 3).on = false ∧ (s.ch 3).lost = [5])
    ∧ (let s := at_ 4 5
       s.writesReach .core ∧ s.b F.DMA_CQ_CFG_EN = false ∧ (0x10#32).getLsbD 4 = true) := by decide +kernel

/-! ### Host interfaces -/

def pcieAt (l : List (Fld × Nat)) : State :=
  at_ 4 1000 ([(F.SYS_HOST_STAT_HOSTSEL, 0), (F.SYS_CLK_STAT_PCIE_REF_OK, 1), (F.SYS_HOST_STAT_BRIDGE_CLK, 0)] ++ l)

def frAt (mode : Nat) (l : List (Fld × Nat) := []) : State := at_ mode 1000 ((F.SYS_HOST_STAT_HOSTSEL, 2) :: l)

theorem test_hyp_PcieAndSpiCommandsAct :
    (let s := pcieAt [(F.SYS_HOST_STAT_LINK_UP, 0)]
     s.mode ≠ 0 ∧ s.b F.SYS_CLK_STAT_PCIE_REF_OK = true ∧ s.b F.SYS_HOST_STAT_BRIDGE_CLK = false
     ∧ s.b F.SYS_HOST_STAT_LINK_UP = false ∧ s.hostsel ≠ 2 ∧ (1 : Fin 4).val ≠ 0 ∧ (2 : Fin 3).val ≠ 0)
    ∧ (let s := pcieAt [(F.SYS_HOST_STAT_LINK_UP, 1), (F.SYS_HOST_STAT_DSTATE, 0)]
       s.b F.SYS_HOST_STAT_LINK_UP = true ∧ s.f F.SYS_HOST_STAT_DSTATE ≠ (if true then 3 else 0))
    ∧ (let s := pcieAt [(F.SYS_HOST_STAT_LINK_UP, 1), (F.SYS_HOST_STAT_DSTATE, 3)]
       s.f F.SYS_HOST_STAT_DSTATE ≠ (if false then 3 else 0))
    ∧ (let s := pcieAt []
       s.linked .spi = true ∧ s.spi.kind = .none ∧ s.tb.running = true ∧ s.spi.held = [] ∧ s.accessWaits .spi = false
       ∧ (State.busRead s .spi R.TB_LO).accessWaits .spi = false) := by decide

theorem test_hyp_ForerunnerBusServesImageAndWindow :
    (let s := frAt 4
     s.frReady = true ∧ s.mayWrite .fr = true ∧ 0x800 ≤ (0x800#12).toNat ∧ (0xEFF#12).toNat < 0xF00
     ∧ 0x13 ≤ (0x13#12).toNat ∧ (0xFF#12).toNat < 0x100 ∧ (s.busRead .fr s.fr.addr).accessWaits .fr = false)
    ∧ (let s := { frAt 4 with fr := { held := some 7 } }
       s.frReady = true ∧ s.writesReach .fr ∧ s.fr.held = some 7)
    ∧ (let s := frAt 4
       let op := 0xF00 + (4#16).toNat % 256
       s.writesReach .fr ∧ 2 ≤ s.mode ∧ (s.mb 4).svc = none ∧ (opModes op).contains s.mode = true
       ∧ s.argsBad op (s.windowBytes (needLen op [])) = none)
    ∧ (let s := { frAt 4 with mbx := [(4, { svc := some { op := 0xF04 } })] }
       (s.mb 4).svc.isSome = true) := by decide +kernel

/-! ### Mailboxes -/

/-- Mailbox 2 with a command in service. -/
def svcAt (mode : Nat) (v : Svc) (l : List (Fld × Nat) := []) : State := { inBeat mode 300 l with mbx := [(2, { svc := some v })] }

def hasPages (s : State) (k : Nat) : State := { s with pages := (List.range k).map (fun p => (3 + p, { owner := 2 })) }

def ringOf (owner : Nat) (h : List Nat) (l : List (Fld × Nat) := []) : State :=
  overList (List.range 4) (fun x i => x.wr (R.YARD (256 * 3 + 4 * i)) (BitVec.ofNat 32 (h.getD i 0)))
    { at_ 4 1000 ([(F.MBX_CFG_EN 2, 1), (F.MBX_CFG_SLOTS_LOG 2, 1), (F.MBX_CFG_BASE_PAGE 2, 3), (F.MBX_DB_PROD 2, 1)] ++ l) with
      pages := [(3, { owner := owner })] }

/-- A slot header of ECHO with FENCE, its check from CRC-32C over its first 12 bytes. -/
def echoHeader : List Nat := [0x100, 0x800, 0, 49103]

/-- The public key of test 1 of RFC 8032, 7.1. -/
def rfcKey : List Nat :=
  [215, 90, 152, 1, 130, 177, 10, 183, 213, 75, 254, 211, 201, 100, 7, 58,
   14, 225, 114, 243, 218, 166, 35, 37, 175, 2, 26, 104, 247, 7, 81, 26]

/-- A signature under that key over the header of the patch image below, made outside Lean. -/
def patchSig : List Nat :=
  [0x59B940C3, 0x30663DE9, 0xE85E7FA2, 0x98E6905B, 0xE317BF67, 0x84A61BB0, 0x5482A696, 0xE925A38F,
   0x9121CF80, 0x088CB228, 0x19F1EC42, 0x848CDF0B, 0x5BC61754, 0x16BCA65A, 0x8AB6E114, 0x0F84A27E]

/-- The same over the header and the body of the microengine image below. -/
def ucodeSig : List Nat :=
  [0xF60A0AB5, 0x70D5A84F, 0xB846E3CF, 0x6C903D1A, 0xB493DF24, 0x3BDD302C, 0x7D14DBB9, 0xFFA38C81,
   0xC89EC651, 0xA2B48659, 0x630C6A34, 0x43AA4C7A, 0x7E44E700, 0xA849D41D, 0xEB09CEA4, 0x02F073B9]

def putWords (at_ : Nat) (ws : List Nat) (s : State) : State :=
  overList (List.range ws.length) (fun x i => x.wr (R.YARD (at_ + 4 * i)) (BitVec.ofNat 32 (ws.getD i 0))) s

/-- A signed patch image of no payload, and a signed microengine image of 16 bytes, in page 3 of the Yard. -/
def patchAt : State := putWords 800 patchSig (putWords 768 [0x31484C50, 0x05000001] (hasPages (svcAt 7 { op := 0x108, pages := [3] }) 1))

def ucodeAt : State :=
  putWords 816 ucodeSig (putWords 768 [0x314E5A45, 1, 0x10001, 0, 0, 0, 0, 16]
    (hasPages (svcAt 2 { op := 0x500, pages := [3], args := [2, 0] }) 1))

theorem test_patch_signature :
    ed25519 rfcKey ((patchAt.yardBytes 768 256).take 32) (((patchAt.yardBytes 768 256).drop 32).take 64) = true := by decide +kernel

theorem test_ucode_signature :
    ed25519 rfcKey ((ucodeAt.yardBytes 768 256).take 48) (((ucodeAt.yardBytes 768 256).drop 48).take 64) = true := by decide +kernel

/-- The hypotheses of the statements about PATCH_LOAD and UCODE_LOAD on the signatures, at that vendor key. -/
theorem test_hyp_PatchLoad (key : Config.vendorKey = rfcKey) (id : Config.romId = 5) (ver : Config.romVersion = 0) :
    patchAt.patchCheck (patchAt.yardBytes 768 256) = statusOk := by
  have h : (imgField (patchAt.yardBytes 768 256) 0 4 = 0x31484C50 ∧ imgField (patchAt.yardBytes 768 256) 4 2 = 1
      ∧ imgField (patchAt.yardBytes 768 256) 0x10 4 = 0 ∧ imgField (patchAt.yardBytes 768 256) 0x0B 1 = 0
      ∧ imgField (patchAt.yardBytes 768 256) 0x14 12 = 0 ∧ imgField (patchAt.yardBytes 768 256) 7 1 = 5
      ∧ imgField (patchAt.yardBytes 768 256) 8 1 = 0 ∧ imgField (patchAt.yardBytes 768 256) 6 1 = 0) := by decide +kernel
  obtain ⟨h0, h1, h2, h3, h4, h5, h6, h7⟩ := h
  simp [State.patchCheck, State.sigOk, h0, h1, h2, h3, h4, h5, h6, h7, id, ver, key, test_patch_signature]

theorem test_hyp_UcodeLoad (key : Config.vendorKey = rfcKey) :
    ucodeAt.sigOk (imgField (ucodeAt.yardBytes 768 256) 6 1) ((ucodeAt.yardBytes 768 256).take 48)
      (((ucodeAt.yardBytes 768 256).drop 48).take 64) = true := by
  have h : imgField (ucodeAt.yardBytes 768 256) 6 1 = 0 := by decide +kernel
  simp [State.sigOk, h, key, test_ucode_signature]

theorem test_hyp_MailboxRingIsServed :
    (let s := at_ 4 5 [(F.MBX_CFG_SLOTS_LOG 2, 3), (F.MBX_DB_PROD 2, 126), (F.MBX_DONE_DONE 2, 126)]
     s.writesReach .core ∧ 1 ≤ ptrDiff (getBits (127#32) 0 7) (s.f (F.MBX_DB_PROD 2))
     ∧ ptrDiff (getBits (6#32) 0 7) (s.f (F.MBX_DB_PROD 2)) = s.mbSlots 2
     ∧ ptrDiff (getBits (6#32) 0 7) (s.f (F.MBX_DONE_DONE 2)) ≤ s.mbSlots 2
     ∧ s.mbSlots 2 < ptrDiff (getBits (7#32) 0 7) (s.f (F.MBX_DB_PROD 2)))
    ∧ (let s := at_ 4 5 [(F.MBX_CFG_EN 2, 1)]
       s.b (F.MBX_CFG_EN 2) = true ∧ (0x10000#32).getLsbD 16 = true ∧ (0#32).getLsbD 16 = false)
    ∧ (let s := at_ 4 5 [(F.MBX_CFG_EN 2, 0)]
       s.b (F.MBX_CFG_EN 2) = false ∧ (s.mb 2).svc = none
       ∧ getBits (0x1DFC0#32) 0 13 + 2 ^ min 6 (getBits (0x1DFC0#32) 13 3) ≤ 8192)
    ∧ (let s := { ringOf 2 echoHeader with mbx := [(2, { bells := [{ slots := 1, fence := [0, 0, 0, 0] }] })] }
       let h := s.yardBytes (256 * s.mbPage 2 (s.f (F.MBX_STAT_CONS 2))) 16
       2 ≤ s.mode ∧ s.b (F.MBX_CFG_EN 2) = true ∧ (s.mb 2).svc = none
       ∧ s.f (F.MBX_STAT_CONS 2) ≠ s.f (F.MBX_DB_PROD 2) ∧ (s.page (s.mbPage 2 (s.f (F.MBX_STAT_CONS 2)))).owner = 2
       ∧ headerBad h = false ∧ (h.getD 5 0).testBit 3 = true ∧ s.fenceOpen 2 = true
       ∧ (opModes (le h 0 2)).contains s.mode = true ∧ s.argsBad (le h 0 2) [] = none)
    ∧ (let s := ringOf 1 echoHeader
       (s.page (s.mbPage 2 (s.f (F.MBX_STAT_CONS 2)))).owner < 2 ∧ (s.mb 2).waitSince = none)
    ∧ (let s := { at_ 4 500005 [(F.MBX_STAT_WAIT_OWN 2, 1), (F.MBX_CFG_EN 2, 1)] with mbx := [(2, { waitSince := some 5 })] }
       (s.mb 2).waitSince = some 5 ∧ (s.mb 2).notHanded = false ∧ s.passed 5 500000 = true
       ∧ s.b (F.MBX_STAT_WAIT_OWN 2) = true ∧ s.b (F.MBX_CFG_EN 2) = true
       ∧ (s.page (s.mbPage 2 (s.f (F.MBX_STAT_CONS 2)))).owner ≠ 2)
    ∧ (let s := { at_ 4 50000 with holds := [(4, { n := 1, since := 0 })] }
       (s.hold 4).n ≠ 0 ∧ s.b F.MBX_SLEEP_ASLEEP = false ∧ 500 * s.modTime 4 ≤ since s.ctlNow (s.hold 4).since) := by decide +kernel

theorem test_hyp_HoltidAnswersCarryTheirResults :
    (let s := hasPages (svcAt 4 { page := 3 }) 1
     (s.mb 2).svc = some { page := 3 } ∧ 3 < 8192 ∧ (s.page 3).owner = 2 ∧ statusOk < 256
     ∧ (List.replicate 240 255).length ≤ 240 ∧ (∀ b ∈ List.replicate 240 255, b < 256))
    ∧ (∀ op ∈ [0x100, 0x101, 0x200, 0x301, 0x402, 0x501, 0x700, 0xA01, 0x800], (svcAt 4 { op := op }).serves 2 op { op := op })
    ∧ (let v : Svc := { op := 0x202, pages := (List.range 16).map (· + 3) }
       (hasPages (svcAt 4 v) 16).serves 2 0x202 v ∧ 16 ≤ v.pages.length)
    ∧ (let v : Svc := { op := 0xA00, args := [5, 0, 16, 0], pages := [3] }
       (hasPages (svcAt 4 v) 1).serves 2 0xA00 v ∧ (le v.args 2 2 + 15) / 16 ≤ v.pages.length)
    ∧ (let v : Svc := { op := 0x702 }
       let s := { svcAt 4 v with tth := { msgs := [{ src := 1, kind := 2, beat := 3, data := [4] }] } }
       s.serves 2 0x702 v ∧ s.tth.msgs ≠ [])
    ∧ (let v : Svc := { op := 0x800, args := [3, 0, 1, 0] }
       let s := hasPages (svcAt 4 v) 1
       s.serves 2 0x800 v ∧ (s.page 3).owner = 2 ∧ s.keptPage 3 = false)
    ∧ (let v : Svc := { op := 0xF04 }
       let s := { at_ 4 5 with mbx := [(4, { svc := some v })] }
       s.serves 4 0xF04 v) := by decide +kernel

theorem test_hyp_HoltidCommandsAct :
    (∀ op ∈ [0x102, 0x103, 0x106, 0x107, 0x110, 0x111, 0x400, 0x401, 0x600, 0x900], (svcAt 4 { op := op }).serves 2 op { op := op })
    ∧ (let v : Svc := { op := 0x102, args := [4] }
       (svcAt 4 v).serves 2 0x102 v ∧ v.args.getD 0 0 = (svcAt 4 v).mode ∧ v.args.getD 0 0 ≠ (svcAt 7 v).mode
       ∧ (svcAt 3 v).modeFor 7 = none ∧ (svcAt 2 v).modeFor 4 ≠ none ∧ (svcAt 2 v).mode = 2
       ∧ (svcAt 2 v).sealed = false)
    ∧ (let v : Svc := { op := 0x104 }
       (svcAt 4 v).serves 2 0x104 v ∧ (svcAt 4 v).tb.running = true ∧ (svcAt 4 v).sys.reboot = none)
    ∧ (let v : Svc := { op := 0x105, args := [159, 1, 15, 0] }
       let s := svcAt 4 v
       s.serves 2 0x105 v ∧ v.flags.testBit 2 = false ∧ s.shadowTicks = true
       ∧ firstBad (s.pinOwnBad (v.args.getD 0 0) (v.args.getD 1 0) (le v.args 2 2)) = none)
    ∧ (let v : Svc := { op := 0x107, waiting := true, args := [2] }
       let s := svcAt 7 v
       s.awaiting 2 0x107 = some v ∧ s.calDone v = v.args.getD 0 0)
    ∧ (let v : Svc := { op := 0x108, pages := [3] }
       patchAt.serves 2 0x108 v ∧ v.pgSize ≠ 0
       ∧ 96 + imgField (patchAt.yardBytes v.pgOff (min v.pgSize 32768)) 0x10 4 ≤ v.pgSize
       ∧ v.pgOff = 768 ∧ min v.pgSize 32768 = 256) := by decide +kernel

theorem test_hyp_HoltidCommandsAct_loads :
    (let v : Svc := { op := 0x201, args := [2, 0, 0, 0, 64, 0], pages := [3] }
     let s := hasPages (svcAt 4 v) 1
     s.serves 2 0x201 v ∧ s.shadowTicks = true ∧ (le v.args 4 2 + 63) / 64 ≤ v.pages.length
     ∧ (∀ w ∈ s.pgWords v (le v.args 4 2), w < 2 ^ 24))
    ∧ (let v : Svc := { op := 0x203, args := [2], pages := (List.range 16).map (· + 3) }
       (hasPages (svcAt 4 v) 16).serves 2 0x203 v ∧ 16 ≤ v.pages.length)
    ∧ (let v : Svc := { op := 0x300, args := [0, 0, 1, 0, 0, 0, 0, 0] }
       let s := svcAt 4 v
       s.serves 2 0x300 v ∧ s.shadowTicks = true ∧ v.args.getD 4 0 = 0 ∧ s.checkHome 3 = false)
    ∧ (let v : Svc := { op := 0x500, pages := [3], args := [2, 0] }
       let img := ucodeAt.yardBytes v.pgOff (min v.pgSize 20736)
       ucodeAt.serves 2 0x500 v ∧ (∀ m ∈ [0, 1, 2, 3], ucodeAt.awaiting m 0x500 = none) ∧ v.pgSize ≠ 0
       ∧ imageField img = none ∧ 96 + imgField img 0x1C 4 ≤ v.pgSize ∧ imgField img 7 1 ≤ ucodeAt.fwVer / 65536
       ∧ (0 : BitVec 16).toNat &&& le v.args 0 2 = 0 ∧ v.pgOff = 768 ∧ min v.pgSize 20736 = 256
       ∧ le v.args 0 2 = 2 ∧ ((overList (bitList 16 (le v.args 0 2)) State.engCall ucodeAt).eng 1).st = .loading)
    ∧ (let v : Svc := { op := 0x500, pages := [3], args := [2, 0] }
       let s := { ucodeAt with engs := [(1, { st := .run, ready := 1000300 })] }
       s.serves 2 0x500 v ∧ ((overList (bitList 16 (le v.args 0 2)) State.engCall s).eng 1).st ≠ .loading)
    ∧ (let v : Svc := { op := 0x500, waiting := true, args := [2, 0] }
       (svcAt 2 v).awaiting 2 0x500 = some v ∧ v.items = [])
    ∧ (let v : Svc := { op := 0x701, args := [1, 0x7F] }
       let s := { svcAt 4 v [(F.TTH_CTL_EN, 1)] with tth := { joined := true } }
       s.serves 2 0x701 v ∧ s.inRing = true ∧ v.args.getD 1 0 < 0x80)
    ∧ (let v : Svc := { op := 0x900 }
       let s := svcAt 4 v [(F.PWR_PMB_CFG_EN, 1)]
       s.serves 2 0x900 v ∧ s.b F.PWR_PMB_CFG_EN = true)
    ∧ (∀ op ∈ [0xF01, 0xF02, 0xF03, 0xF05, 0xF06], ({ at_ 4 5 with mbx := [(4, { svc := some { op := op } })] } : State).serves 4 op { op := op }) := by decide +kernel

/-! ### Interrupts -/

def irqAt (g : Nat) (x : Irq) (l : List (Fld × Nat) := []) : State := { at_ 4 1000 l with irq := [(g, x)] }

theorem test_hyp_InterruptSourcesPendAndAreServed :
    (let s := at_ 4 5
     levelLine 247 = false ∧ (247 : Fin 512).val < 248 ∧ (s.src 247).line = none ∧ (s.src 247).raw = false ∧ s.sense 247 ≠ 0 ∧ levelLine 79 = true
     ∧ s.lineLevel 79 = false ∧ levelLine 511 = true ∧ s.writesReach .core ∧ s.readsReach .core
     ∧ s.coreSource = none ∧ s.hostSource 31 = none ∧ s.isCheck (31 - 16) = false
     ∧ (getBits (5#32) 0 9) < 240 ∧ 240 ≤ (243 : Fin 512).val)
    ∧ (let s := at_ 4 5 [(F.SYS_TWIN_PAIR_ACT, 0x80)]
       16 ≤ (31 : Fin 32).val ∧ s.isCheck (31 - 16) = true)
    ∧ (let s := irqAt 7 { edge := true, masked := false }
       s.coreSource = some 7)
    ∧ (let s := { at_ 4 5 [(F.SYS_HOST_STAT_HOSTSEL, 0)] with irq := [(7, { svc := .core })] }
       Requester.spi ≠ .core ∧ s.readsReach .spi ∧ (s.src (getBits (7#32) 0 9)).svc = .core
       ∧ (s.src (getBits (8#32) 0 9)).svc ≠ .core)
    ∧ (let s := irqAt 7 { edge := true, masked := false } [(F.IRQ_SRC_CFG_TGT_KIND 7, 1), (F.IRQ_SRC_CFG_TGT_IDX 7, 5), (F.SYS_HOST_STAT_MSIX_EN, 1),
         (F.SYS_HOST_STAT_LINK_UP, 1), (F.SYS_HOST_STAT_BME, 1)]
       let t := s.wr (R.MSIX 5 3) 0
       t.hostSource 5 ≠ none ∧ t.msixFree 5 = true)
    ∧ (let s := irqAt 7 { edge := true, masked := false, undel := some 0 } [(F.IRQ_SRC_CFG_TGT_KIND 7, 2), (F.IRQ_SRC_CFG_TGT_IDX 7, 3)]
       (s.src 7).undel = some 0 ∧ s.undeliverable 7 = true ∧ 1000 ≤ since s.ctlNow 0) := by decide +kernel

/-! ### The worked examples of the spec -/

/-- What a command answers, where it answers a next state. -/
def after (c : Instr) (s : State) : State := match exec c s with | .next t => t | _ => s

/-- The read across a carry of spec/02: TB_LO reads 0xFF_FFFE, and two ticks later TB_HI_SNAP still gives 0x12. -/
theorem test_example_split_read :
    let s := after (.tbLoRead .core) (at_ 4 0x12FFFFFE)
    let t := after .timeBaseTick (after .timeBaseTick s)
    s.got .core = 0xFFFFFE ∧ t.snapRd .core R.TB_HI_SNAP = 0x12 ∧ t.now = 0x13000000 := by decide +kernel

/-- The die cutter of Table 4.2: a 36-1 wheel, its entry 34 stamped at tick 5,000,000. -/
def gapWheel : State :=
  trkAs 3 { st := .sync, pos := 33, seen := true, haveEdge := true, havePer := true, per := 2000000, edge := 5000000
            upds := [{ kind := .tooth, due := 5000120, stamp := 5000000, period := some 2000000, before := some 2000000, fwd := true
                       late := false, mprev := none, angle := 0, quad := 0, overdue := false, noise := false }] }
    (at_ 4 5000120 ([(F.WHL_CPC_C 3, 2359296), (F.WHL_PAT_TOOTH_N_M1 3, 34), (F.WHL_ZERO_ZERO_OFS 3, 65536), (F.PAT_PITCH 3 0, 512)]
      ++ (List.range 34).map (fun k => (F.PAT_PITCH 3 (k + 1), 256))))

/-- Table 4.2: the law of entry 34, whose next entry is 0 across the gap. -/
theorem test_example_gap : let t := (after (.lawUpdate 3 []) gapWheel).tr 3
    t.q = 2147 ∧ t.rem = 967296 ∧ t.lam = 2293760 * 65536 + 257698 ∧ t.acc = 75520 ∧ t.h = 65536 * 65536 + 257698 ∧ t.pos = 34 := by
  decide +kernel

/-- The law of Table 4.3 at tick 16,504, and the estimate of the tick before. -/
def doubled : Tracker :=
  { lawOn := true, q := 16384, den := 16384, lam := 413726 * 65536, a := 411662 * 65536 + 57344, h := 417822 * 65536
    run := 4096 * 65536, freshLaw := true }

/-- Tables 4.3 and 4.4: JUMP at once to the law; CATCHUP by 1.000 count per tick, across 412,000 in tick 16,841. -/
theorem test_example_doubling : let m := 8388608 * 65536
    (doubled.tick m false).a = 413726 * 65536 ∧ (doubled.tick m false).jumped = true
    ∧ (doubled.tick m true).a = 411663 * 65536 + 57344 ∧ (doubled.tick m true).catching = true := by decide

/-- Table 5.3: entry 600 as its four words give it. -/
theorem test_example_entry :
    (overList [(0, 0x40100464), (1, 0x81002710), (2, 0xC80000), (3, 0x2A)] (fun s e => s.wr (R.EVT 600 e.1) (BitVec.ofNat 32 e.2))
      (at_ 4 5)).entry 600 = { start := 1049700, home := 4, endDur := 10000, form := true, en := true, fine := 200, target := 42 } := by
  decide +kernel

/-- The window of that example: (7,895 × 8,000 × 3) >> 16 = 2,891 counts. -/
theorem test_example_window :
    ({ at_ 4 5 [(F.EVT_WCFG_AUTO 0, 1), (F.EVT_WCFG_BEATS 0, 3), (F.WHL_CPC_C 0, 8388608)] with snap := [(0, { q := 7895 })] } : State).window 0
      = 2891 := by decide +kernel

/-- Profile 3 of spec/09, with a shunt of 50 mΩ: codes 1,843, 819, 51 and 307. -/
theorem test_example_profile :
    (overList [(0, 0x0B40B4), (1, 0x5050), (2, 0x01E01E), (3, 0x12C), (4, 0x9C4), (5, 0x64), (6, 0xC8), (7, 0x4E20)]
      (fun s e => s.wr (R.PROFW 3 e.1) (BitVec.ofNat 32 e.2)) (at_ 4 5 [(F.VLV_SHUNT_SHUNT 8, 500)])).latchProf 8 3
    = { idx := 3, boost := 1843, peak := 1843, hold := 819, zero := 51, hPeak := 307, hHold := 307, tBst := 15000, tPeak := 125000
        chopMin := 5000, tDecay := 10000, tMax := 10000000 } := by decide +kernel

/-- Table 10.2: one beat of the coil of VLV_8. -/
theorem test_example_coil :
    let s := overList [(0, 2000), (1, 3930), (2, 2000), (3, 30000), (4, 8000), (5, 15000), (6, 8960)]
      (fun s e => s.wr (R.COILW 8 e.1) (BitVec.ofNat 32 e.2)) { at_ 4 5 with parts := [(17, { busy := true, period := 8000 })] }
    let t := (s.setVlv 8 { model := true, isqIn := 450000, shuntIn := 500, tw := 40 * 2 ^ 32, tbody := 38 * 2 ^ 32 }).coilBeat 8
    (t.vlv 8).tw = 40 * 2 ^ 32 + 23216 ∧ (t.vlv 8).tbody = 38 * 2 ^ 32 + 114 ∧ t.f (F.VLV_RHOT_RHOT 8) = 2157
      ∧ t.f (F.VLV_PW_PW 8) = 925 := by decide +kernel

/-- The entry decoded in spec/19: VLV_11 refused while VLV_10 holds boost. -/
theorem test_example_log :
    let t := after .logEntryWrite { at_ 4 0x04C4F474 with
      logHold := false, logQ := [{ time := 0x04C4F474, beat := 0x2712, code := .vlvConflict, source := 11, detail := 0xA00B }] }
    t.logWord 0 0 = 0x04C4F474 ∧ t.logWord 0 1 = 0x27120000 ∧ t.logWord 0 2 = 0x000B3001 ∧ t.logWord 0 3 = 0x0600A00B := by decide +kernel

/-- The check values of CRC-32 and CRC-32C over the characters 1 to 9, as the catalogues of CRC algorithms give them. -/
theorem test_crc_check_values :
    crcOf crc32Poly (List.range' 0x31 9) = 0xCBF43926 ∧ crcOf crc32cPoly (List.range' 0x31 9) = 0xE3069283 := by decide +kernel

end Sys2Proof.Tests
end

section
/-! Register writes (R8 to R12, R315, R317): a register without a row of its own, written whole, in part, or refused. -/

namespace Sys2Proof.Machine

open Sys2Proof

/-- One bit of a written word by its access code (R8, R9, R10). -/
theorem State.getLsbD_mergeWord (s : State) (x : RegRow) (old v keep : Word) {i : Nat} (hi : i < 32) :
    (s.mergeWord x old v keep).getLsbD i =
      (if v.getLsbD i && x.w1c.testBit i && !keep.getLsbD i then false
       else if v.getLsbD i && x.w1s.testBit i then true
       else if x.rw.testBit i || (!s.sealed && x.rwl.testBit i) then v.getLsbD i
       else old.getLsbD i) := by
  have hrw : (if s.sealed then x.rw else x.rw ||| x.rwl).testBit i = (x.rw.testBit i || (!s.sealed && x.rwl.testBit i)) := by
    cases s.sealed <;> simp [Nat.testBit_or]
  unfold State.mergeWord
  simp only [BitVec.getLsbD_and, BitVec.getLsbD_or, BitVec.getLsbD_not, BitVec.getLsbD_ofNat, hi, decide_true, Bool.true_and, hrw]
  generalize (x.rw.testBit i || (!s.sealed && x.rwl.testBit i)) = w
  -- what is left is a truth table over the written bit and its three masks
  cases v.getLsbD i <;> cases x.w1c.testBit i <;> cases x.w1s.testBit i <;> cases w <;> simp [Bool.and_comm]

/-- A row all of whose writable bits are locked: the seal makes it read-only (R10). -/
def RegRow.lockOnly (x : RegRow) : Bool := x.rwl ≠ 0 && x.rw = 0 && x.w1s = 0 && x.w1c = 0

/-- A plain write of a register that acts at once (R8, R10). -/
theorem State.plainBus_atOnce (s : State) {a : Nat} {x : RegRow} (v : Word) (hrow : rowAt a = some x) (hc : x.commit = false) :
    s.plainBus a v = if x.lockOnly && s.sealed then s else s.wr a (s.mergeWord x (s.rd a) v (s.justSet a)) := by
  unfold State.plainBus RegRow.lockOnly
  rw [hrow]
  simp only [hc]
  rfl

/-- A plain write of an address that no block defines (R12). -/
theorem State.plainBus_undefined (s : State) {a : Nat} (v : Word) (hrow : rowAt a = none) : s.plainBus a v = s := by
  unfold State.plainBus
  rw [hrow]

/-- A row whose bits are all locked has nothing else to write: no written bit differs from the old one. -/
theorem RegRow.lockOnly_masks {x : RegRow} (h : x.lockOnly = true) : x.rw = 0 ∧ x.w1s = 0 ∧ x.w1c = 0 := by
  simp only [RegRow.lockOnly, Bool.and_eq_true, decide_eq_true_eq] at h
  obtain ⟨⟨⟨-, hrw⟩, hw1s⟩, hw1c⟩ := h
  exact ⟨hrw, hw1s, hw1c⟩

/-- A sealed row's written word is the old one. -/
theorem State.mergeWord_lockOnly (s : State) {x : RegRow} (old v keep : Word) (hx : x.lockOnly = true) (hs : s.sealed = true) :
    s.mergeWord x old v keep = old := by
  obtain ⟨hrw, hw1s, hw1c⟩ := RegRow.lockOnly_masks hx
  apply BitVec.eq_of_getLsbD_eq
  intro i hi
  rw [State.getLsbD_mergeWord s x old v keep hi]
  simp [hrw, hw1s, hw1c, hs]

/-- A plain write of a register that acts at once puts the merged word there and leaves everything else (R8). -/
theorem State.plainBus_changes_word (s : State) {a : Nat} {x : RegRow} (v : Word) (hrow : rowAt a = some x) (hc : x.commit = false) :
    s.plainBus a v = { s with regs := (s.plainBus a v).regs }
    ∧ (s.plainBus a v).rd a = s.mergeWord x (s.rd a) v (s.justSet a)
    ∧ ∀ b, b ≠ a → (s.plainBus a v).rd b = s.rd b := by
  rw [State.plainBus_atOnce s v hrow hc]
  split
  · rename_i h
    obtain ⟨hx, hs⟩ := Bool.and_eq_true_iff.mp h
    exact ⟨rfl, (State.mergeWord_lockOnly s _ v _ hx hs).symm, fun _ _ => rfl⟩
  · exact ⟨rfl, State.rd_wr_same _ _ _, fun b hb => State.rd_wr_other _ _ hb⟩

/-- A whole word to an address of the SYS or PWR block but SYS_TWIN is a plain write. -/
theorem State.regWrite_plain (s : State) (r : Requester) {a : Nat} (v : Word) (h4 : a % 4 = 0) (hlt : a < 0x2000)
    (hne : a ≠ R.SYS_TWIN) : s.regWrite r a v 15 = s.plainBus a v := by
  have hYard : ¬ 0x400000 ≤ a := by omega
  have ha : a - a % 4 = a := by omega
  unfold State.regWrite State.busWrite
  simp only [hYard, decide_false, Bool.false_and, Bool.false_eq_true, if_false, if_true, ha, hne, hlt]

/-- A word with partial byte enables outside the Yard's data (R317). -/
theorem State.regWrite_partial (s : State) (r : Requester) {a : Nat} (v : Word) {be : BitVec 4} (hlt : a < 0x2000)
    (hbe : be ≠ 15) : s.regWrite r a v be = s.partialWrite r := by
  have hYard : ¬ 0x400000 ≤ a := by omega
  unfold State.regWrite
  simp only [hYard, decide_false, Bool.false_and, Bool.false_eq_true, if_false, hbe]

/-- A counted and logged event changes its counter and, with the log full, the lost count (R315, R317, R391). -/
theorem State.rd_bump_logOnceFor (s : State) {cnt : Nat} (c : LogCode) (k x d : Nat) (hc : cnt ≠ R.LOG_LOST) :
    ((s.bump cnt).logOnceFor c k x d).rd cnt = BitVec.ofNat 32 (min ((s.rd cnt).toNat % 2 ^ 24 + 1) 0xFFFFFF)
    ∧ ∀ b, b ≠ cnt → b ≠ R.LOG_LOST → ((s.bump cnt).logOnceFor c k x d).rd b = s.rd b :=
  ⟨(State.rd_logOnceFor _ c k x d hc).trans (State.rd_bump_same s cnt),
   fun _ hb hl => (State.rd_logOnceFor _ c k x d hl).trans (State.rd_bump_other s hb)⟩

/-- REGISTER_WRITE by a requester that may write acts on the bus. -/
theorem exec_registerWrite_served {r : Requester} {s : State} (a : BitVec 24) (v : Word) (be : BitVec 4) (h : s.writesReach r) :
    exec (.registerWrite r a v be) s = .next (s.regWrite r a.toNat v be) :=
  congrArg Host.Outcome.next (State.writeBy_served s ⟨r, a.toNat, some (v, be), .clean⟩ _ h)

/-- REGISTER_WRITE by a requester that may not write is refused (R315). -/
theorem exec_registerWrite_refused {r : Requester} {s : State} (a : BitVec 24) (v : Word) (be : BitVec 4) (h : s.readsReach r)
    (hm : s.mayWrite r = false) : exec (.registerWrite r a v be) s = .next (s.refuseWrite r) :=
  congrArg Host.Outcome.next (State.writeBy_refused s ⟨r, a.toNat, some (v, be), .clean⟩ _ h hm)

/-- Settles O13: a plain write puts the merged word there, whose bits `getLsbD_mergeWord` reads by access code; a partial or
refused one is a counted and logged event. -/
theorem registerWriteActsByAccessCode : Obligations.RegisterWriteActsByAccessCode := by
  unfold Obligations.RegisterWriteActsByAccessCode
  intro r a v s hreach h4 hlt hne
  have served : ∀ be, s.mayWrite r = true → exec (.registerWrite r a v be) s = .next (s.regWrite r a.toNat v be) :=
    fun be hm => exec_registerWrite_served a v be ⟨hreach.1, hreach.2, hm⟩
  refine ⟨fun x hm hrow hc => ?_, fun hm hrow => ?_, fun be hm hbe => ?_, fun be hm => ?_⟩
  · obtain ⟨hframe, hword, hother⟩ := State.plainBus_changes_word s v hrow hc
    refine ⟨_, (served 15 hm).trans (congrArg _ (State.regWrite_plain s r v h4 hlt hne)), hframe, hother, fun i hi => ?_⟩
    rw [hword, State.getLsbD_mergeWord s x _ v _ hi]
  · rw [served 15 hm, State.regWrite_plain s r v h4 hlt hne, State.plainBus_undefined s v hrow]
  · exact ⟨_, (served be hm).trans (congrArg _ (State.regWrite_partial s r v hlt hbe)),
      State.rd_bump_logOnceFor s .hstPartialWrite 0 (ifaceNum r) 0 (by decide)⟩
  · exact ⟨_, exec_registerWrite_refused a v be hreach hm,
      State.rd_bump_logOnceFor s .hstWriteRefused 0 (ifaceNum r) (ifaceNum r) (by decide)⟩

end Sys2Proof.Machine
end

section
/-! Register reads (R8, R9, R36, R37): a register whose read has no row of its own, and the snapshot that it may latch. -/

namespace Sys2Proof.Machine

open Sys2Proof

/-! ### Clearing by a read -/

/-- What a read of a register leaves of its RC bits: those that the hardware sets in the same tick (R8, R9). -/
theorem State.rd_readClears_same (s : State) (a : Nat) :
    (s.readClears a).rd a = (s.rd a &&& ~~~ rcMask a) ||| (s.justSet a &&& rcMask a) := by
  unfold State.readClears
  dsimp only
  split
  · rename_i h
    simp only [h, BitVec.ofNat_eq_ofNat, BitVec.not_zero, BitVec.and_allOnes, BitVec.and_zero, BitVec.or_zero]
  · split
    · exact State.rd_wr_same _ _ _
    · exact State.rd_wr_same s a _

/-- A read clears bits of its own register alone. -/
theorem State.rd_readClears_other (s : State) {a b : Nat} (h : b ≠ a) : (s.readClears a).rd b = s.rd b := by
  unfold State.readClears
  dsimp only
  split
  · rfl
  · split
    · exact State.rd_wr_other _ _ h
    · exact State.rd_wr_other s _ h

/-- A clearing read changes the register file and what is noted of the tick's sets. -/
theorem State.readClears_frame (s : State) (a : Nat) :
    s.readClears a = { s with regs := (s.readClears a).regs, setNow := (s.readClears a).setNow } := by
  unfold State.readClears
  dsimp only
  split
  · rfl
  · split <;> rfl

/-- Nothing set in this tick. -/
theorem State.justSet_of_setAt_none {s : State} {a : Nat} (h : s.setAt a = none) : s.justSet a = 0 := by
  unfold State.justSet
  rw [h]

/-- What was set in this tick. -/
theorem State.justSet_of_setAt_some {s : State} {a : Nat} {before new : Word} (h : s.setAt a = some (before, new)) :
    s.justSet a = new := by
  unfold State.justSet
  rw [h]

/-- Without a set of this tick a read returns the word that it sees. -/
theorem State.rcView_of_setAt_none {s : State} {a : Nat} (v : Word) (h : s.setAt a = none) : s.rcView a v = v := by
  unfold State.rcView
  rw [h]

/-- With a set of this tick a read returns the RC bits from before it (R9). -/
theorem State.rcView_of_setAt_some {s : State} {a : Nat} {before new : Word} (v : Word) (h : s.setAt a = some (before, new)) :
    s.rcView a v = (v &&& ~~~ rcMask a) ||| (before &&& rcMask a) := by
  unfold State.rcView
  rw [h]

/-- The RC bits of a row. -/
theorem rcMask_of_rowAt {a : Nat} {x : RegRow} (h : rowAt a = some x) : rcMask a = BitVec.ofNat 32 x.rc := by
  unfold rcMask
  rw [h]

/-! ### The read itself -/

/-- Addresses whose read is the bus's own: no claim, pull, peek, stall count or learned entry, and not TB_BEAT. -/
def busOwnRead (a : Nat) : Prop :=
  a % 4 = 0 ∧ a ≠ R.TB_BEAT ∧ a ≠ R.IRQ_CORE_CLAIM ∧ ¬ (0x114000 ≤ a ∧ a < 0x115000) ∧ stallAt a = none
    ∧ ¬ (0x30000 ≤ a ∧ a < 0x40000)

/-- Such a read latches the high half of a split counter, clears, and delivers. -/
theorem State.busRead_own (s : State) (r : Requester) {a : Nat} (h : busOwnRead a) :
    s.busRead r a = ((if isLo a then s.latch r (a + 8) (s.busView r (a + 4)) else s).readClears a).deliver r
      (s.rcView a (s.busView r a)) := by
  obtain ⟨h4, hbeat, hclaim, htrg, hstall, hlrn⟩ := h
  have ha : a - a % 4 = a := by omega
  have hport : ∀ o, ¬ ((decide (0x114000 ≤ a) && decide (a < 0x115000) && decide (a % 0x40 = o)) = true) := by
    intro o
    simp only [Bool.and_eq_true, decide_eq_true_eq]
    omega
  have hl : ¬ ((decide (0x30000 ≤ a) && decide (a < 0x40000)) = true) := by
    simp only [Bool.and_eq_true, decide_eq_true_eq]
    exact hlrn
  unfold State.busRead
  simp only [ha, if_neg hbeat, if_neg hclaim, if_neg (hport _), hstall, if_neg hl]

/-- The low half of a split counter lies below the mailboxes, and its read is the bus's own. -/
theorem isLo_busOwnRead {a : Nat} (h4 : a % 4 = 0) (h : isLo a = true) : a < 0x120000 ∧ busOwnRead a := by
  unfold isLo at h
  simp only [Bool.or_eq_true, Bool.and_eq_true, decide_eq_true_eq, beq_iff_eq, R.TB_LO] at h
  have hstall : stallAt a = none := by
    unfold stallAt
    refine if_neg ?_
    simp only [Bool.and_eq_true, decide_eq_true_eq]
    omega
  unfold busOwnRead
  refine ⟨by omega, h4, ?_, ?_, by omega, hstall, by omega⟩
  · unfold R.TB_BEAT
    omega
  · unfold R.IRQ_CORE_CLAIM
    omega

/-- No two requesters share a number. -/
theorem reqIdx_injective {q r : Requester} (h : reqIdx q = reqIdx r) : q = r := by
  cases q <;> cases r <;> grind [reqIdx]

/-- The banks of two requesters do not meet. -/
theorem bank_ne {q r : Requester} {a b : Nat} (hq : q ≠ r) (ha : a < 2 ^ 24) (hb : b < 2 ^ 24) : bank q b ≠ bank r a := by
  intro h
  refine hq (reqIdx_injective ?_)
  unfold bank at h
  omega

/-- Clearing and delivering move no snapshot. -/
theorem State.snapRd_readClears_deliver (s : State) (r q : Requester) (a b : Nat) (v : Word) :
    ((s.readClears a).deliver r v).snapRd q b = s.snapRd q b := by
  rw [State.readClears_frame]
  rfl

/-- What a requester is delivered. -/
theorem State.lastRead_deliver (s : State) (r : Requester) (v : Word) :
    Sparse.get (fun _ => 0) (s.deliver r v).lastRead (reqIdx r) = v :=
  Sparse.get_set_same _ _ _ _

/-- A plain register reads as its word. -/
theorem State.busView_plain {s : State} (r : Requester) {a : Nat} (hb : isBanked a = false) (hv : s.viewAt a = none)
    (hs : s.shadowAt a = none) : s.busView r a = s.rd a := by
  unfold State.busView State.shadowRd
  rw [hb, hv, hs]
  rfl

/-- Both reading rows act on the bus for a requester whose accesses reach the registers. -/
theorem exec_splitCounterRead {r : Requester} {s : State} (a : BitVec 24) (h : s.readsReach r) :
    exec (.splitCounterRead r a) s = .next (s.busRead r a.toNat) :=
  congrArg Host.Outcome.next (State.readBy_served s (wordOf r a.toNat .clean) _ h)

theorem exec_readClearRegister {r : Requester} {s : State} (a : BitVec 24) (h : s.readsReach r) :
    exec (.readClearRegister r a) s = .next (s.busRead r a.toNat) :=
  congrArg Host.Outcome.next (State.readBy_served s (wordOf r a.toNat .clean) _ h)

/-- Settles O14: both reads are the bus's own, so `busRead_own` says what they do. -/
theorem readsReturnLatchAndClear : Obligations.ReadsReturnLatchAndClear := by
  unfold Obligations.ReadsReturnLatchAndClear
  refine ⟨fun r a s hreach h4 hlo => ?_, fun r a s x hreach h4 hrow hbank hlo hview hsh hstall hbeat hclaim htrg hlrn => ?_⟩
  · obtain ⟨hlt, hown⟩ := isLo_busOwnRead h4 hlo
    have hread := State.busRead_own s r hown
    rw [if_pos hlo] at hread
    refine ⟨_, (exec_splitCounterRead a hreach).trans (congrArg _ hread), ?_, State.lastRead_deliver _ _ _, fun q b hq hb => ?_,
      fun b hb => State.rd_readClears_other _ hb⟩
    · rw [State.snapRd_readClears_deliver, State.snapRd_latch_same]
    · rw [State.snapRd_readClears_deliver, State.snapRd_latch_other _ _ _ _ _ _ (bank_ne hq (by omega) hb)]
  · have hread := State.busRead_own s r ⟨h4, hbeat, hclaim, htrg, hstall, hlrn⟩
    rw [if_neg (by simp [hlo]), State.busView_plain r hbank hview hsh] at hread
    have hword := State.rd_readClears_same s a.toNat
    rw [rcMask_of_rowAt hrow] at hword
    refine ⟨_, (exec_readClearRegister a hreach).trans (congrArg _ hread), fun hset => ⟨?_, ?_⟩, fun before new hset => ⟨?_, ?_⟩,
      fun b hb => State.rd_readClears_other s hb, ?_⟩
    · rw [State.lastRead_deliver, State.rcView_of_setAt_none _ hset]
    · exact hword.trans (by simp [State.justSet_of_setAt_none hset])
    · rw [State.lastRead_deliver, State.rcView_of_setAt_some _ hset, rcMask_of_rowAt hrow]
    · exact hword.trans (by rw [State.justSet_of_setAt_some hset])
    · rw [State.readClears_frame s a.toNat]
      rfl

end Sys2Proof.Machine
end

section
/-! Folds of operations over lists of indices: what every step leaves, the fold leaves. -/

namespace Sys2Proof.Machine

open Sys2Proof

/-- A fold over a list's head and its rest. -/
theorem overList_cons {α : Type} (a : α) (l : List α) (f : State → α → State) (s : State) :
    overList (a :: l) f s = overList l f (f s a) := rfl

/-- A relation that holds over every step holds over the fold. -/
theorem overList_rel {α : Type} {P : State → State → Prop} (hrefl : ∀ x, P x x) (htrans : ∀ {x y z}, P x y → P y z → P x z)
    {f : State → α → State} (hf : ∀ x i, P x (f x i)) (l : List α) (s : State) : P s (overList l f s) := by
  induction l generalizing s with
  | nil => exact hrefl s
  | cons i l ih => exact htrans (hf s i) (ih (f s i))

/-- What reads the same after every step reads the same after the fold. -/
theorem overList_leaves {α β : Type} {f : State → α → State} (g : State → β) (hf : ∀ x i, g (f x i) = g x) (l : List α)
    (s : State) : g (overList l f s) = g s :=
  overList_rel (P := fun x y => g y = g x) (fun _ => rfl) (fun h k => k.trans h) hf l s

end Sys2Proof.Machine
end

section
/-! The end of a Holtid command (R339, R352, R356, R357): what its result, its pages, DONE and the pulse leave alone. -/

namespace Sys2Proof.Machine

open Sys2Proof

/-- From `s` to `t` nothing has changed but the Yard, the mailboxes' registers, the pages and the pulses: the shadowed
items, the device as a whole, every register below the mailboxes but the log's lost count, and the host's sleep are as they
were, and WAKE_N too where the host does not sleep. -/
structure State.EndLeaves (s t : State) : Prop where
  shadow : t.shadow = s.shadow
  ready : t.ready = s.ready
  sys : t.sys = s.sys
  rd : ∀ a, a < 0x120000 → a ≠ R.LOG_LOST → t.rd a = s.rd a
  asleep : t.b F.MBX_SLEEP_ASLEEP = s.b F.MBX_SLEEP_ASLEEP
  wakeLow : s.b F.MBX_SLEEP_ASLEEP = false → t.wakeLow = s.wakeLow

namespace State.EndLeaves

variable {s t u : State}

theorem refl (s : State) : s.EndLeaves s := ⟨rfl, rfl, rfl, fun _ _ _ => rfl, rfl, fun _ => rfl⟩

theorem trans (h : s.EndLeaves t) (k : t.EndLeaves u) : s.EndLeaves u where
  shadow := k.shadow.trans h.shadow
  ready := k.ready.trans h.ready
  sys := k.sys.trans h.sys
  rd a ha hl := (k.rd a ha hl).trans (h.rd a ha hl)
  asleep := k.asleep.trans h.asleep
  wakeLow hs := (k.wakeLow (h.asleep.trans hs)).trans (h.wakeLow hs)

/-- An update of anything that `EndLeaves` does not speak of. -/
theorem same (hr : t.regs = s.regs) (hsh : t.shadow = s.shadow) (hrd : t.ready = s.ready) (hsys : t.sys = s.sys)
    (hw : t.wakeLow = s.wakeLow) : s.EndLeaves t :=
  ⟨hsh, hrd, hsys, fun a _ _ => State.rd_congr hr a, State.b_congr hr _, fun _ => hw⟩

theorem ite {c : Prop} [Decidable c] (ht : s.EndLeaves t) (hu : s.EndLeaves u) : s.EndLeaves (if c then t else u) := by
  split
  · exact ht
  · exact hu

/-- A fold of an operation that leaves it leaves it. -/
theorem overList {α : Type} {f : State → α → State} (hf : ∀ x a, State.EndLeaves x (f x a)) (l : List α) (s : State) :
    s.EndLeaves (Machine.overList l f s) :=
  overList_rel refl trans hf l s

/-- A fold whose state is the first of a pair. -/
theorem foldPair {α β : Type} {f : State × β → α → State × β} (hf : ∀ y a, State.EndLeaves y.1 (f y a).1) (l : List α)
    (x : State × β) : State.EndLeaves x.1 (l.foldl f x).1 := by
  induction l generalizing x with
  | nil => exact refl x.1
  | cons a l ih => exact (hf x a).trans (ih (f x a))

end State.EndLeaves

/-! ### The shared operations -/

/-- A word above the mailboxes' base that is not MBX_SLEEP. -/
theorem State.wr_endLeaves (s : State) {a : Nat} (w : Word) (ha : 0x120000 ≤ a) (hs : a ≠ R.MBX_SLEEP) : s.EndLeaves (s.wr a w) where
  shadow := rfl
  ready := rfl
  sys := rfl
  rd b hb _ := State.rd_wr_other s w (by omega)
  asleep := State.b_wr_other s w hs.symm
  wakeLow _ := rfl

/-- A field there that is not ASLEEP. -/
theorem State.setF_endLeaves (s : State) {x : Fld} (v : Nat) (ha : 0x120000 ≤ x.addr) (hs : x.addr ≠ R.MBX_SLEEP ∨ 1 ≤ x.lo) :
    s.EndLeaves (s.setF x v) where
  shadow := rfl
  ready := rfl
  sys := rfl
  rd b hb _ := State.rd_setF_other s v (by omega)
  asleep := State.b_setF_other s v (hs.imp Ne.symm (fun h => .inr h))
  wakeLow _ := rfl

theorem State.setB_endLeaves (s : State) {x : Fld} (v : Bool) (ha : 0x120000 ≤ x.addr) (hs : x.addr ≠ R.MBX_SLEEP ∨ 1 ≤ x.lo) :
    s.EndLeaves (s.setB x v) where
  shadow := State.shadow_setB_frame s x v
  ready := State.ready_setB_frame s x v
  sys := State.sys_setB_frame s x v
  rd b hb _ := State.rd_setB_other s v (by omega)
  asleep := State.b_setB_other s v (hs.imp Ne.symm (fun h => .inr h))
  wakeLow _ := State.wakeLow_setB_frame s x v

theorem State.log_endLeaves (s : State) (c : LogCode) (x d : Nat) : s.EndLeaves (s.log c x d) where
  shadow := State.shadow_log_frame s c x d
  ready := State.ready_log_frame s c x d
  sys := State.sys_log_frame s c x d
  rd _ _ hl := State.rd_log s c x d hl
  asleep := State.b_log s c x d (by decide)
  wakeLow _ := State.wakeLow_log_frame s c x d

theorem State.logOnceFor_endLeaves (s : State) (c : LogCode) (k x d : Nat) : s.EndLeaves (s.logOnceFor c k x d) := by
  unfold State.logOnceFor
  refine State.EndLeaves.ite (.refl s) ((s.log_endLeaves c x d).trans ?_)
  exact .same rfl rfl rfl rfl rfl

theorem State.pulse_endLeaves (s : State) (g : Nat) : s.EndLeaves (s.pulse g) :=
  .same (State.regs_pulse_frame s g) (State.shadow_pulse_frame s g) (State.ready_pulse_frame s g) (State.sys_pulse_frame s g)
    (State.wakeLow_pulse_frame s g)

/-! ### The Yard and the pages (R275, R339) -/

theorem State.yardViolation_endLeaves (s : State) (p : Nat) : s.EndLeaves (s.yardViolation p) := by
  have hnote : s.EndLeaves (s.note R.YRD_VIOL (countUp 1)) :=
    .same (State.regs_note_frame ..) (State.shadow_note_frame ..) (State.ready_note_frame ..) (State.sys_note_frame ..)
      (State.wakeLow_note_frame ..)
  exact (hnote.trans (State.wr_endLeaves _ _ (by decide) (by decide))).trans (State.logOnceFor_endLeaves _ _ _ _ _)

theorem State.yardWrite_endLeaves (s : State) (r : Requester) (o : Nat) (v : Word) (be : BitVec 4) :
    s.EndLeaves (s.yardWrite r o v be) := by
  unfold State.yardWrite
  refine State.EndLeaves.ite (.refl s) (State.EndLeaves.ite (State.wr_endLeaves s _ ?_ ?_) (s.yardViolation_endLeaves _))
  · simp only [R.YARD]
    omega
  · simp only [R.YARD, R.MBX_SLEEP]
    omega

theorem State.yardPutBytes_endLeaves (s : State) (r : Requester) (o : Nat) (bs : List Nat) : s.EndLeaves (s.yardPutBytes r o bs) :=
  State.EndLeaves.foldPair (fun y _ => State.yardWrite_endLeaves y.1 _ _ _ _) bs (s, o)

theorem State.writeResult_endLeaves (s : State) (page status detail : Nat) (result : List Nat) :
    s.EndLeaves (s.writeResult page status detail result) := by
  unfold State.writeResult
  exact State.EndLeaves.ite (.refl s) ((s.yardPutBytes_endLeaves _ _ _).trans (State.yardPutBytes_endLeaves _ _ _ _))

theorem State.handBack_endLeaves (s : State) (p : Nat) : s.EndLeaves (s.handBack p) := by
  unfold State.handBack
  exact State.EndLeaves.ite (.same rfl rfl rfl rfl rfl) (.refl s)

/-! ### DONE and the pulse (R339, R354, R356, R357) -/

theorem State.setMb_endLeaves (s : State) (m : Nat) (x : Mbx) : s.EndLeaves (s.setMb m x) := .same rfl rfl rfl rfl rfl

theorem State.setMbxStat_endLeaves (s : State) (m v lo len : Nat) : s.EndLeaves (s.setF ⟨R.MBX_STAT m, lo, len⟩ v) :=
  State.setF_endLeaves s v (by simp only [R.MBX_STAT]; omega) (.inl (by simp only [R.MBX_STAT, R.MBX_SLEEP]; omega))

theorem State.slotDone_endLeaves (s : State) (m : Nat) : s.EndLeaves (s.slotDone m) := by
  have hdone : s.EndLeaves (s.setF (F.MBX_DONE_DONE m) (s.f (F.MBX_DONE_DONE m) + 1)) :=
    State.setF_endLeaves s _ (by simp only [F.MBX_DONE_DONE, R.MBX_DONE]; omega)
      (.inl (by simp only [F.MBX_DONE_DONE, R.MBX_DONE, R.MBX_SLEEP]; omega))
  exact hdone.trans (State.EndLeaves.overList (fun x _ => x.setMb_endLeaves _ _) _ _)

theorem State.showHold_endLeaves (s : State) (c : Nat) : s.EndLeaves (s.showHold c) := by
  have hcls : ∀ v, s.EndLeaves (s.setF F.MBX_SLEEP_HELD_CLS v) := fun v => State.setF_endLeaves s v (by decide) (.inr (by decide))
  exact State.EndLeaves.ite ((hcls _).trans (State.setMbxStat_endLeaves _ c _ 12 8)) (hcls _)

theorem State.setHold_endLeaves (s : State) (c : Nat) (x : Hold) : s.EndLeaves (s.setHold c x) := .same rfl rfl rfl rfl rfl

theorem State.releaseHold_endLeaves (s : State) (c : Nat) : s.EndLeaves (s.releaseHold c) := by
  unfold State.releaseHold
  exact State.EndLeaves.ite (.refl s)
    (((s.setHold_endLeaves c {}).trans (State.showHold_endLeaves _ c)).trans (State.pulse_endLeaves _ _))

theorem State.holdOne_endLeaves (s : State) (c : Nat) : s.EndLeaves (s.holdOne c) :=
  (s.setHold_endLeaves c _).trans (State.showHold_endLeaves _ c)

/-- A moderated pulse drives WAKE_N for a sleeping host alone (R357). -/
theorem State.modPulse_endLeaves (s : State) (c : Nat) : s.EndLeaves (s.modPulse c) := by
  have hone := s.holdOne_endLeaves c
  unfold State.modPulse
  refine State.EndLeaves.ite (s.pulse_endLeaves _) ?_
  by_cases hs : s.b F.MBX_SLEEP_ASLEEP = true
  · rw [if_pos hs]
    refine State.EndLeaves.ite ?_ hone
    have hpend : s.EndLeaves { (s.holdOne c).setB F.MBX_SLEEP_WAKE_PEND true with wakeLow := true } := by
      have h := hone.trans (State.setB_endLeaves (s.holdOne c) (x := F.MBX_SLEEP_WAKE_PEND) true (by decide) (.inr (by decide)))
      exact ⟨h.shadow, h.ready, h.sys, h.rd, h.asleep, fun hn => absurd hs (by simp [hn])⟩
    exact State.EndLeaves.ite (hpend.trans (.same rfl rfl rfl rfl rfl)) hpend
  · rw [if_neg hs]
    exact State.EndLeaves.ite (s.pulse_endLeaves _) (State.EndLeaves.ite (hone.trans (State.releaseHold_endLeaves _ c)) hone)

/-! ### The end -/

/-- The end of a command leaves everything outside the mailboxes and the Yard. -/
theorem State.endCommand_endLeaves (s : State) (src status detail : Nat) (result : List Nat) (free_ : Bool) :
    s.EndLeaves (s.endCommand src status detail result free_) := by
  unfold State.endCommand
  split
  · exact .refl s
  · rename_i v _
    extract_lets lost d res st s1 box s2 s3
    have h1 : s.EndLeaves s1 := (s.writeResult_endLeaves _ _ _ _).trans (State.EndLeaves.overList State.handBack_endLeaves _ _)
    have h2 : s.EndLeaves s2 := (h1.trans (State.handBack_endLeaves _ _)).trans (State.setMb_endLeaves _ _ _)
    have h3 : s.EndLeaves s3 := by
      refine (h2.trans ?_).trans (State.slotDone_endLeaves _ _)
      exact State.setB_endLeaves s2 (x := F.MBX_STAT_SERVING src) false (by simp only [F.MBX_STAT_SERVING, R.MBX_STAT]; omega)
        (.inl (by simp only [F.MBX_STAT_SERVING, R.MBX_STAT, R.MBX_SLEEP]; omega))
    refine State.EndLeaves.ite (.same rfl rfl rfl rfl rfl) (State.EndLeaves.ite ?_ h3)
    exact State.EndLeaves.ite (h3.trans (State.pulse_endLeaves _ _)) (h3.trans (State.modPulse_endLeaves _ _))

/-- A command that finishes, at once or with the commit of its items, leaves the same. -/
theorem State.finish_endLeaves (s : State) (src : Nat) (items result : List Nat) : s.EndLeaves (s.finish src items result) := by
  unfold State.finish
  split
  · exact .refl s
  · exact State.EndLeaves.ite (s.setMb_endLeaves _ _) (s.endCommand_endLeaves _ _ _ _ _)

/-! ### The mailbox is free again -/

/-- The slot's end moves fences, not the command in service. -/
theorem State.svc_slotDone (s : State) (m j : Nat) : ((s.slotDone m).mb j).svc = (s.mb j).svc := by
  refine overList_leaves (fun x => (x.mb j).svc) (fun x i => ?_) _ _
  rw [State.mb_setMb]
  split
  · rename_i h
    rw [h]
  · rfl

theorem State.mb_showHold (s : State) (c j : Nat) : (s.showHold c).mb j = s.mb j := by
  unfold State.showHold
  dsimp only
  split <;> rfl

theorem State.mb_holdOne (s : State) (c j : Nat) : (s.holdOne c).mb j = s.mb j := State.mb_showHold _ c j

theorem State.mb_releaseHold (s : State) (c j : Nat) : (s.releaseHold c).mb j = s.mb j := by
  unfold State.releaseHold
  split
  · rfl
  · rw [State.mb_pulse_frame, State.mb_showHold, State.mb_setHold_frame]

theorem State.mb_modPulse (s : State) (c j : Nat) : (s.modPulse c).mb j = s.mb j := by
  have hwake : (State.mb { (s.holdOne c).setB F.MBX_SLEEP_WAKE_PEND true with wakeLow := true } j) = s.mb j :=
    (State.mb_setB_frame _ _ _ j).trans (State.mb_holdOne s c j)
  unfold State.modPulse
  dsimp only
  split
  · exact State.mb_pulse_frame s _ j
  · split
    · split
      · split
        · exact hwake
        · exact hwake
      · exact State.mb_holdOne s c j
    · split
      · exact State.mb_pulse_frame s _ j
      · split
        · exact (State.mb_releaseHold _ c j).trans (State.mb_holdOne s c j)
        · exact State.mb_holdOne s c j

/-- After a command's end its mailbox has none in service (R339). -/
theorem State.svc_endCommand (s : State) (src status detail : Nat) (result : List Nat) (free_ : Bool) :
    ((s.endCommand src status detail result free_).mb src).svc = none := by
  unfold State.endCommand
  split
  · assumption
  · rename_i v _
    extract_lets lost d res st s1 box s2 s3
    have h3 : (s3.mb src).svc = none := by
      unfold s3 s2
      rw [State.svc_slotDone, State.mb_setB_frame, State.mb_setMb_same]
    split
    · rename_i h
      rw [h]
      exact congrArg Mbx.svc (State.mb_setMb_same s 4 {})
    · split
      · split
        · rw [State.mb_pulse_frame, h3]
        · rw [State.mb_modPulse, h3]
      · exact h3

theorem State.svc_complete (s : State) (src status detail : Nat) (result : List Nat) :
    ((s.complete src status detail result).mb src).svc = none := s.svc_endCommand src status detail result false

theorem State.complete_endLeaves (s : State) (src status detail : Nat) (result : List Nat) :
    s.EndLeaves (s.complete src status detail result) := s.endCommand_endLeaves src status detail result false

end Sys2Proof.Machine
end

section
/-! The stalls' interrupt enables (R144, R349): the counted step that comes due before a write leaves them, and a plain write
puts its word on the stall and its mirror. -/

namespace Sys2Proof.Machine

open Sys2Proof

/-- The words that no step of a stall writes: those below the shed pages, the twin pairs among them, and every place of a
shed page at which an enable word may stand. -/
def stepLeft (a : Nat) : Prop := a < 0x60000 ∨ a % 64 = 0x10

/-- An enable word is one of them. -/
theorem stepLeft_ien (k : Nat) : stepLeft (R.STL_IEN k) := by
  unfold stepLeft R.STL_IEN
  omega

/-- No two stalls share an enable word. -/
theorem ien_injective {j k : Nat} (h : R.STL_IEN j = R.STL_IEN k) : j = k := by
  unfold R.STL_IEN at h
  omega

/-- From `s` to `t` the words that no step writes are as they were. -/
def State.StepLeaves (s t : State) : Prop := ∀ a, stepLeft a → t.rd a = s.rd a

namespace State.StepLeaves

variable {s t u : State}

theorem refl (s : State) : s.StepLeaves s := fun _ _ => rfl

theorem trans (h : s.StepLeaves t) (k : t.StepLeaves u) : s.StepLeaves u := fun a ha => (k a ha).trans (h a ha)

theorem same (h : t.regs = s.regs) : s.StepLeaves t := fun a _ => State.rd_congr h a

theorem ite {c : Prop} [Decidable c] (ht : s.StepLeaves t) (hu : s.StepLeaves u) : s.StepLeaves (if c then t else u) := by
  split
  · exact ht
  · exact hu

theorem overList {α : Type} {f : State → α → State} (hf : ∀ x a, State.StepLeaves x (f x a)) (l : List α) (s : State) :
    s.StepLeaves (Machine.overList l f s) :=
  overList_rel refl trans hf l s

/-- A check shed stays one: the twin pairs are among what is left. -/
theorem stlMirror (h : s.StepLeaves t) (k : Nat) : t.stlMirror k = s.stlMirror k := by
  unfold State.stlMirror State.isCheck State.f
  rw [h F.SYS_TWIN_PAIR_ACT.addr (.inl (by decide))]

end State.StepLeaves

/-! ### The counted step (R129 to R139) -/

/-- A word of a stall at another offset than the enables'. -/
theorem State.wr_stepLeaves (s : State) {a : Nat} (w : Word) (ha : ¬ stepLeft a) : s.StepLeaves (s.wr a w) :=
  fun _ hb => State.rd_wr_other s w (fun h => ha (h ▸ hb))

theorem State.setF_stepLeaves (s : State) {x : Fld} (v : Nat) (ha : ¬ stepLeft x.addr) : s.StepLeaves (s.setF x v) :=
  s.wr_stepLeaves _ ha

theorem State.setB_stepLeaves (s : State) {x : Fld} (v : Bool) (ha : ¬ stepLeft x.addr) : s.StepLeaves (s.setB x v) :=
  fun _ hb => State.rd_setB_other s v (fun h => ha (h ▸ hb))

/-- Where the registers that a step writes stand. -/
theorem not_stepLeft_of_offset {k o : Nat} (h : o < 64) (ho : o ≠ 0x10) :
    ¬ stepLeft (0x60000 + k / 24 * 0x2000 + 64 * (k % 24) + o) := by
  unfold stepLeft
  omega

theorem State.stallLines_stepLeaves (s : State) (sh : Nat) : s.StepLeaves (s.stallLines sh) := by
  unfold State.stallLines
  exact .same ((State.regs_level_frame _ _ _).trans (State.regs_level_frame _ _ _))

theorem State.stlFlags_stepLeaves (s : State) (k bits : Nat) : s.StepLeaves (s.stlFlags k bits) := by
  unfold State.stlFlags
  extract_lets x s1
  have h1 : s.StepLeaves s1 := .same rfl
  refine .ite (.refl s) ((h1.trans (State.wr_stepLeaves _ _ ?_)).trans (State.stallLines_stepLeaves _ _))
  exact not_stepLeft_of_offset (o := 0xc) (by decide) (by decide)

theorem State.stlCopy_stepLeaves (s : State) (k : Nat) : s.StepLeaves (s.stlCopy k) := by
  unfold State.stlCopy
  refine ((s.wr_stepLeaves _ ?_).trans (State.wr_stepLeaves _ _ ?_)).trans (State.wr_stepLeaves _ _ ?_)
  · exact not_stepLeft_of_offset (o := 0x30) (by decide) (by decide)
  · exact not_stepLeft_of_offset (o := 0x34) (by decide) (by decide)
  · exact not_stepLeft_of_offset (o := 0x38) (by decide) (by decide)

theorem State.stlKeep_stepLeaves (s : State) (k : Nat) (t : Time) : s.StepLeaves (s.stlKeep k t) := .same rfl

theorem State.stlDrive_stepLeaves (s : State) (k : Nat) : s.StepLeaves (s.stlDrive k) := by
  unfold State.stlDrive
  exact .ite (.refl s) (.same rfl)

theorem State.stlOut_stepLeaves (s : State) (k : Nat) (l : Bool) : s.StepLeaves (s.stlOut k l) :=
  (s.setB_stepLeaves l (not_stepLeft_of_offset (o := 0x14) (by decide) (by decide))).trans (State.stlDrive_stepLeaves _ k)

theorem State.stlStep1_stepLeaves (s : State) (k : Nat) : s.StepLeaves (s.stlStep1 k).1 := by
  have hdown : ¬ stepLeft (F.STL_STAT_DOWN k).addr := not_stepLeft_of_offset (o := 0x14) (by decide) (by decide)
  have hcnt : ¬ stepLeft (F.STL_CNT_COUNT k).addr := not_stepLeft_of_offset (o := 0x18) (by decide) (by decide)
  have hrun : ¬ stepLeft (F.STL_CTL_RUN k).addr := not_stepLeft_of_offset (o := 0) (by decide) (by decide)
  unfold State.stlStep1
  extract_lets mode per shadow c first o s1 per2 s2 stl s3 still top z ca cb ma mb s4 l acts s5
  have h1 : s.StepLeaves s1 := .ite ((s.stlKeep_stepLeaves k _).trans (State.stlCopy_stepLeaves _ k)) (s.stlKeep_stepLeaves k _)
  have h2 : s.StepLeaves s2 := (h1.trans (State.setF_stepLeaves _ _ hcnt)).trans (State.setB_stepLeaves _ _ hdown)
  have h3 : s.StepLeaves s3 := .trans (.ite (h2.trans (State.setB_stepLeaves _ _ hrun)) h2) (.same rfl)
  have h4 : s.StepLeaves s4 := (h3.trans (.same rfl)).trans (State.stlFlags_stepLeaves _ k _)
  show s.StepLeaves s5
  unfold s5
  split
  · exact h4.trans (State.stlOut_stepLeaves _ k _)
  · exact h4

theorem State.stlStepN_stepLeaves (fuel : Nat) (s : State) (k : Nat) : s.StepLeaves (State.stlStepN fuel s k) := by
  induction fuel generalizing s k with
  | zero => exact .refl s
  | succ fuel ih =>
    have h1 := s.stlStep1_stepLeaves k
    unfold State.stlStepN
    exact .ite (h1.trans (ih _ _)) h1

theorem State.stlStep_stepLeaves (s : State) (k : Nat) : s.StepLeaves (s.stlStep k) :=
  .overList (fun x _ => .ite (x.stlStepN_stepLeaves 24 _) (.refl x)) _ s

/-- The step that comes due before a write. -/
theorem State.stlDue_stepLeaves (s : State) (k : Nat) : s.StepLeaves (s.stlDue k) := by
  have htick : ∀ h, s.StepLeaves (s.stallTick h) := fun h => .ite (s.stlStep_stepLeaves h) (.refl s)
  exact .ite ((htick _).trans (.same rfl)) (.refl s)

/-! ### A plain write (R145) -/

/-- The word goes to its place, and the rest of the write leaves it. -/
theorem State.stlPlain_one (s : State) (k : Nat) (r : Nat → Nat) (w : Word) :
    (s.wr (r k) w).StepLeaves
      (let s0 := (s.wr (r k) w).stallLines (k / 24)
       let s1 := if s0.f (F.STL_CFG_CLK_SRC k) = s.f (F.STL_CFG_CLK_SRC k) then s0 else { s0 with stepped := addItem k s0.stepped }
       if s1.b (F.STL_IO_OUT_POL k) = s.b (F.STL_IO_OUT_POL k) then s1 else s1.stlDrive k) := by
  have h0 := (s.wr (r k) w).stallLines_stepLeaves (k / 24)
  extract_lets s0 s1
  have h1 : (s.wr (r k) w).StepLeaves s1 := .ite h0 (h0.trans (.same rfl))
  exact .ite h1 (h1.trans (State.stlDrive_stepLeaves _ k))

/-- Writes of one word to the enables of several stalls, each with steps that leave the enables. -/
theorem State.rd_overList_ien {w : Word} {f : State → Nat → State} (hf : ∀ x j, State.StepLeaves (x.wr (R.STL_IEN j) w) (f x j))
    {a : Nat} (ha : stepLeft a) (l : List Nat) (x : State) :
    (overList l f x).rd a = if ∃ j ∈ l, a = R.STL_IEN j then w else x.rd a := by
  induction l generalizing x with
  | nil => simp [overList]
  | cons j l ih =>
    rw [overList_cons, ih, hf x j a ha, State.rd_wr]
    by_cases hj : a = R.STL_IEN j <;> simp [hj]

/-- What a plain write of enable words leaves in the words that no step writes. -/
theorem State.rd_stlPlain_ien (s : State) (k : Nat) (w : Word) {a : Nat} (ha : stepLeft a) :
    (s.stlPlain k R.STL_IEN w).rd a = if ∃ j ∈ (s.stlDue k).stlBoth k, a = R.STL_IEN j then w else s.rd a := by
  rw [← s.stlDue_stepLeaves k a ha]
  exact State.rd_overList_ien (fun x j => x.stlPlain_one j R.STL_IEN w) ha _ _

/-- The stalls that a write reaches beside its own are mirrors (R145). -/
theorem State.mirror_of_mem_stlBoth {s : State} {j k : Nat} (h : j ∈ s.stlBoth k) (hne : j ≠ k) : s.stlMirror j = true := by
  unfold State.stlBoth at h
  split at h
  · rename_i hl
    simp only [List.mem_cons, List.not_mem_nil, or_false] at h
    obtain rfl := h.resolve_left hne
    unfold State.isLead at hl
    unfold State.stlMirror State.isCheck
    rw [Bool.and_eq_true, beq_iff_eq] at hl
    have hdiv : (k + 24) / 24 = k / 24 + 1 := by omega
    have hodd : (k / 24 + 1) % 2 = 1 := by omega
    have hpair : (k / 24 + 1) / 2 = k / 24 / 2 := by omega
    rw [hdiv, hpair, hodd, hl.2]
    rfl
  · exact absurd (List.mem_singleton.mp h) hne

theorem State.mem_stlBoth_self (s : State) (k : Nat) : k ∈ s.stlBoth k := by
  unfold State.stlBoth
  split <;> simp

/-- The enable word of a stall that is no mirror, after a plain write of a stall's enables. -/
theorem State.rd_stlPlain_own_ien (s : State) (j : Nat) (w : Word) {k : Nat} (hk : s.stlMirror k = false) :
    (s.stlPlain j R.STL_IEN w).rd (R.STL_IEN k) = if k = j then w else s.rd (R.STL_IEN k) := by
  rw [State.rd_stlPlain_ien s j w (stepLeft_ien k)]
  have hk' : (s.stlDue j).stlMirror k = false := ((s.stlDue_stepLeaves j).stlMirror k).trans hk
  by_cases h : k = j
  · rw [if_pos h, if_pos ⟨j, State.mem_stlBoth_self _ j, by rw [h]⟩]
  · rw [if_neg h, if_neg]
    rintro ⟨i, hi, he⟩
    obtain rfl := ien_injective he
    exact absurd (State.mirror_of_mem_stlBoth hi h) (by simp [hk'])

/-- A write of enables moves no twin pair. -/
theorem State.stlMirror_stlPlain_ien (s : State) (j : Nat) (w : Word) (k : Nat) :
    (s.stlPlain j R.STL_IEN w).stlMirror k = s.stlMirror k := by
  unfold State.stlMirror State.isCheck State.f
  have hne : ¬ ∃ i ∈ (s.stlDue j).stlBoth j, F.SYS_TWIN_PAIR_ACT.addr = R.STL_IEN i := by
    rintro ⟨i, -, hi⟩
    simp only [F.SYS_TWIN_PAIR_ACT, R.SYS_TWIN, R.STL_IEN] at hi
    omega
  rw [State.rd_stlPlain_ien s j w (.inl (by decide)), if_neg hne]

/-! ### FR_IRQ_MASK (R349) -/

/-- The enables that one bit of a mask gives. -/
def ienOf (a : List Nat) (k : Nat) : Word := if (ofBytes a).testBit k then 0x1F else 0

/-- One stall's part of FR_IRQ_MASK. -/
def State.frIrqMask1 (a : List Nat) (s : State) (k : Nat) : State :=
  if s.stlMirror k then s else s.stlPlain k R.STL_IEN (ienOf a k)

theorem State.frIrqMask_eq (s : State) (a : List Nat) : s.frIrqMask a = overList (List.range 96) (State.frIrqMask1 a) s := rfl

/-- A stall that is no mirror stays one. -/
theorem State.stlMirror_frIrqMask1 (a : List Nat) (s : State) (j k : Nat) : (State.frIrqMask1 a s j).stlMirror k = s.stlMirror k := by
  unfold State.frIrqMask1
  split
  · rfl
  · exact s.stlMirror_stlPlain_ien j _ k

/-- Its enables come from its own part alone. -/
theorem State.rd_frIrqMask1 (a : List Nat) (s : State) (j : Nat) {k : Nat} (hk : s.stlMirror k = false) :
    (State.frIrqMask1 a s j).rd (R.STL_IEN k) = if k = j then ienOf a k else s.rd (R.STL_IEN k) := by
  unfold State.frIrqMask1
  split
  · rename_i hj
    rw [if_neg]
    rintro rfl
    simp [hk] at hj
  · rw [State.rd_stlPlain_own_ien s j _ hk]
    split
    · rename_i h
      rw [h]
    · rfl

/-- After the parts of several stalls. -/
theorem State.rd_frIrqMask_list (a : List Nat) (l : List Nat) (s : State) {k : Nat} (hk : s.stlMirror k = false) :
    (overList l (State.frIrqMask1 a) s).rd (R.STL_IEN k) = if k ∈ l then ienOf a k else s.rd (R.STL_IEN k) := by
  induction l generalizing s with
  | nil => rfl
  | cons j l ih =>
    rw [overList_cons, ih _ ((State.stlMirror_frIrqMask1 a s j k).trans hk), State.rd_frIrqMask1 a s j hk]
    by_cases hj : k = j <;> simp [hj]

/-- Every stall of the mask that is no mirror has its enables from the mask. -/
theorem State.rd_frIrqMask (s : State) (a : List Nat) {k : Nat} (hlt : k < 96) (hk : s.stlMirror k = false) :
    (s.frIrqMask a).rd (R.STL_IEN k) = if (ofBytes a).testBit k then 0x1F else 0 := by
  rw [State.frIrqMask_eq, State.rd_frIrqMask_list a _ s hk]
  exact if_pos (List.mem_range.mpr hlt)

end Sys2Proof.Machine
end

section
/-! A load of the engines' stores (R178): the engines stay in the state in which they were called, and each gets a valid
image. -/

namespace Sys2Proof.Machine

open Sys2Proof

/-- A read at a key that a filter on keys lets through. -/
theorem Sparse.get_filter_key {α : Type} (d : Nat → α) (m : List (Nat × α)) (p : Nat → Bool) {k : Nat} (hk : p k = true) :
    Sparse.get d (m.filter (fun e => p e.1)) k = Sparse.get d m k := by
  induction m with
  | nil => rfl
  | cons e m ih =>
    rw [List.filter_cons]
    by_cases he : k = e.1
    · rw [if_pos (he ▸ hk), Sparse.get_cons, Sparse.get_cons, if_pos he, if_pos he]
    · split
      · rw [Sparse.get_cons, Sparse.get_cons, if_neg he, if_neg he, ih]
      · rw [ih, Sparse.get_cons, if_neg he]

/-- Clearing an address range leaves the words below it. -/
theorem State.rd_clearWords_below (s : State) {lo hi a : Nat} (h : a < lo) : (s.clearWords lo hi).rd a = s.rd a :=
  Sparse.get_filter_key regReset s.regs (fun a => decide (a < lo) || decide (hi ≤ a)) (by simp [h])

/-- The body of an image in one engine's stores, before the engine's registers are written. -/
def State.putStores (s : State) (n : Nat) (img : List Nat) : State :=
  let f := imgField img
  overList (List.range (f 0x0A 2)) (fun s k => overList (List.range 4) (fun s w =>
      s.wr (R.NWORD n k w) (BitVec.ofNat 32 (f (32 + 4 * f 8 2 + 12 * k + 3 * w) 3 % 2 ^ (if w = 3 then 6 else 24)))) s)
    (overList (List.range (f 8 2)) (fun s k => s.wr (R.UWORD n k) (BitVec.ofNat 32 (f (32 + 4 * k) 4 % 2 ^ 24)))
      (s.clearWords (R.UWORD n 0) (R.UWORD (n + 1) 0)))

/-- The stores stand above the shed pages. -/
theorem State.rd_putStores_below (s : State) (n : Nat) (img : List Nat) {a : Nat} (ha : a < 0x80000) :
    (s.putStores n img).rd a = s.rd a := by
  have hu : ∀ k, a ≠ R.UWORD n k := fun k => by unfold R.UWORD; omega
  have hn : ∀ k w, a ≠ R.NWORD n k w := fun k w => by unfold R.NWORD; omega
  unfold State.putStores
  refine (overList_leaves (·.rd a) (fun x k => overList_leaves (·.rd a) (fun x w => State.rd_wr_other x _ (hn k w)) _ x) _ _).trans ?_
  refine (overList_leaves (·.rd a) (fun x k => State.rd_wr_other x _ (hu k)) _ _).trans ?_
  exact State.rd_clearWords_below s (by unfold R.UWORD; omega)

theorem State.eng_putStores (s : State) (n : Nat) (img : List Nat) (k : Nat) : (s.putStores n img).eng k = s.eng k := by
  unfold State.putStores
  refine (overList_leaves (·.eng k) (fun x i => overList_leaves (·.eng k) (fun x w => State.eng_wr_frame x _ _ k) _ x) _ _).trans ?_
  exact overList_leaves (·.eng k) (fun x i => State.eng_wr_frame x _ _ k) _ _

/-- The engine's registers as a load writes them (R178). -/
def State.putImageRegs (s : State) (n : Nat) (img : List Nat) : State :=
  let f := imgField img
  let s4 := ((s.setF (F.SHD_ENG_ENTRY_ENTRY n) (f 0x0C 2)).setF (F.SHD_ENG_VEC_IRQ_VEC n) (f 0x0E 2)).setF (F.SHD_ENG_VEC_FAULT_VEC n) (f 0x10 2)
  let s5 := ((s4.setF (F.SHD_ENG_LIMIT_UW_LIMIT n) (f 8 2)).setF (F.SHD_ENG_LIMIT_NW_LIMIT n) (f 0x0A 2)).setF (F.SHD_ENG_IMAGE_VER n) (f 0x18 4)
  (s5.setF (F.SHD_ENG_IMAGE_KEY n) (f 6 1)).setB (F.SHD_ENG_IMAGE_VALID n) true

/-- Another engine's image word keeps what it holds. -/
theorem State.rd_putImageRegs_other (s : State) {n k : Nat} (img : List Nat) (h : k ≠ n) :
    (s.putImageRegs n img).rd (R.SHD_ENG_IMAGE k) = s.rd (R.SHD_ENG_IMAGE k) := by
  have hentry : R.SHD_ENG_IMAGE k ≠ R.SHD_ENG_ENTRY n := by unfold R.SHD_ENG_IMAGE R.SHD_ENG_ENTRY; omega
  have hvec : R.SHD_ENG_IMAGE k ≠ R.SHD_ENG_VEC n := by unfold R.SHD_ENG_IMAGE R.SHD_ENG_VEC; omega
  have hlimit : R.SHD_ENG_IMAGE k ≠ R.SHD_ENG_LIMIT n := by unfold R.SHD_ENG_IMAGE R.SHD_ENG_LIMIT; omega
  have himage : R.SHD_ENG_IMAGE k ≠ R.SHD_ENG_IMAGE n := by unfold R.SHD_ENG_IMAGE; omega
  unfold State.putImageRegs
  dsimp only
  rw [State.rd_setB_other _ _ himage, State.rd_setF_other _ _ himage, State.rd_setF_other _ _ himage, State.rd_setF_other _ _ hlimit,
    State.rd_setF_other _ _ hlimit, State.rd_setF_other _ _ hvec, State.rd_setF_other _ _ hvec, State.rd_setF_other _ _ hentry]

theorem State.eng_putImageRegs (s : State) (n : Nat) (img : List Nat) (k : Nat) : (s.putImageRegs n img).eng k = s.eng k := by
  simp only [State.putImageRegs, State.eng_setB_frame, State.eng_setF_frame]

/-- The end of a load: the engine's manger is emptied, and its store is a ready item (R45). -/
def State.storeReady (s : State) (n : Nat) : State :=
  { s.setEng n { s.eng n with manger := [] } with ready := addItem (R.SHD_ENG_IMAGE n) s.ready }

theorem State.regs_storeReady (s : State) (n : Nat) : (s.storeReady n).regs = s.regs := rfl

theorem State.st_storeReady (s : State) (n k : Nat) : ((s.storeReady n).eng k).st = (s.eng k).st := by
  refine (congrArg Eng.st (State.eng_setEng s n _ k)).trans ?_
  split
  · rename_i h
    rw [h]
  · rfl

/-- A load of one engine in its three parts. -/
theorem State.loadEngine_eq (s : State) (n : Nat) (img : List Nat) :
    s.loadEngine n img = ((s.putStores n img).putImageRegs n img).storeReady n := rfl

/-- A load moves no engine to another state. -/
theorem State.st_loadEngine (s : State) (n : Nat) (img : List Nat) (k : Nat) : ((s.loadEngine n img).eng k).st = (s.eng k).st := by
  rw [State.loadEngine_eq, State.st_storeReady, State.eng_putImageRegs, State.eng_putStores]

/-- The loaded engine's image is valid, and another one's as it was. -/
theorem State.valid_loadEngine (s : State) (n : Nat) (img : List Nat) {k : Nat} (hk : k < 16) :
    (s.loadEngine n img).b (F.SHD_ENG_IMAGE_VALID k) = (decide (k = n) || s.b (F.SHD_ENG_IMAGE_VALID k)) := by
  rw [State.loadEngine_eq, State.b_congr (State.regs_storeReady _ n)]
  by_cases h : k = n
  · subst h
    rw [decide_eq_true rfl, Bool.true_or]
    exact State.b_setB_same _ true (by show 17 + 1 ≤ 32; decide) rfl
  · rw [decide_eq_false h, Bool.false_or]
    unfold State.b State.f
    rw [show (F.SHD_ENG_IMAGE_VALID k).addr = R.SHD_ENG_IMAGE k from rfl, State.rd_putImageRegs_other _ img h,
      State.rd_putStores_below _ _ _ (by unfold R.SHD_ENG_IMAGE; omega)]

/-- After a load of several engines each of them has a valid image, and no engine is in another state. -/
theorem State.loadEngines (l : List Nat) (s : State) (img : List Nat) {k : Nat} (hk : k < 16) :
    ((overList l (fun s n => s.loadEngine n img) s).eng k).st = (s.eng k).st
    ∧ (overList l (fun s n => s.loadEngine n img) s).b (F.SHD_ENG_IMAGE_VALID k) = (decide (k ∈ l) || s.b (F.SHD_ENG_IMAGE_VALID k)) := by
  refine ⟨overList_leaves (fun x => (x.eng k).st) (fun x n => x.st_loadEngine n img k) l s, ?_⟩
  induction l generalizing s with
  | nil => simp [overList]
  | cons n l ih =>
    rw [overList_cons, ih, State.valid_loadEngine s n img hk, ← Bool.or_assoc]
    congr 1
    by_cases h : k = n <;> simp [h]

/-- The engines of a mask. -/
theorem mem_bitList {n v k : Nat} : k ∈ bitList n v ↔ k < n ∧ v.testBit k = true := by
  unfold bitList
  rw [List.mem_filter, List.mem_range]

/-- Read-backs that differ in no named engine. -/
theorem filter_testBit_disjoint {n d m : Nat} (h : d &&& m = 0) : (bitList n m).filter (fun k => d.testBit k) = [] := by
  rw [List.filter_eq_nil_iff]
  intro k hk hd
  have hbit : (d &&& m).testBit k = true := by rw [Nat.testBit_and, hd, (mem_bitList.mp hk).2]; rfl
  simp [h] at hbit

/-- Steps 4 and 5 of R178 with every named engine in LOADING and every read-back as written. -/
theorem State.ucodeWrite_loaded (s : State) (src d : Nat) (v : Svc) (img : List Nat) (hd : d &&& le v.args 0 2 = 0)
    (hst : ∀ k, k < 16 → (le v.args 0 2).testBit k = true → (s.eng k).st = .loading) :
    s.ucodeWrite src d v img = (overList (bitList 16 (le v.args 0 2)) (fun s n => s.loadEngine n img) s).setSvc src
      { v with waiting := true, items := (bitList 16 (le v.args 0 2)).map R.SHD_ENG_IMAGE, answer := (img.drop 0x14).take 8 } := by
  have hany : ¬ (bitList 16 (le v.args 0 2)).any (fun n => decide ((s.eng n).st ≠ .loading)) = true := by
    rw [List.any_eq_true]
    rintro ⟨k, hk, hne⟩
    obtain ⟨hlt, hbit⟩ := mem_bitList.mp hk
    simp [hst k hlt hbit] at hne
  unfold State.ucodeWrite
  dsimp only
  rw [if_neg (by simpa using hany), filter_testBit_disjoint hd]
  rfl

/-- The same with an engine that still runs a word: the load waits. -/
theorem State.ucodeWrite_waits (s : State) (src d : Nat) (v : Svc) (img : List Nat)
    (h : ∃ k, k < 16 ∧ (le v.args 0 2).testBit k = true ∧ (s.eng k).st ≠ .loading) : s.ucodeWrite src d v img = s := by
  obtain ⟨k, hlt, hbit, hne⟩ := h
  unfold State.ucodeWrite
  refine if_pos (List.any_eq_true.mpr ⟨k, mem_bitList.mpr ⟨hlt, hbit⟩, ?_⟩)
  simpa using hne

end Sys2Proof.Machine
end

section
/-! The Holtid commands that act on the device (R10, R17, R178, R342 to R350, R357, R358, R379, R387). -/

namespace Sys2Proof.Machine

open Sys2Proof

/-! ### A command in service -/

/-- A command in service acts. -/
theorem State.command_serves {s : State} {src op : Nat} {v : Svc} {f : State → Svc → State} (h : s.serves src op v) :
    s.command src op f = f s v := by
  unfold State.command
  rw [h.1]
  exact if_neg (by simp [h.2])

/-- A command in service that writes shadowed items, without ATOMIC and in the ticks for them (R342). -/
theorem State.shadowCommand_serves {s : State} {src op : Nat} {v : Svc} {words : Svc → Nat} {f : State → Svc → State}
    (h : s.serves src op v) (hflag : v.flags.testBit 2 = false) (hticks : s.shadowTicks = true) :
    s.shadowCommand src op words f = f s v := by
  refine (State.command_serves h).trans ?_
  simp [hflag, hticks]

/-- What is in service stands in the mailbox, and does not wait. -/
theorem State.svc_of_serving {s : State} {src op : Nat} {v : Svc} (h : s.serving src op = some v) :
    (s.mb src).svc = some v ∧ v.op = op ∧ v.waiting = false := by
  unfold State.serving at h
  split at h
  · rename_i w hw
    split at h
    · rename_i hc
      obtain rfl := Option.some.inj h
      simp only [Bool.and_eq_true, decide_eq_true_eq, Bool.not_eq_true'] at hc
      exact ⟨hw, hc.1, hc.2⟩
    · simp at h
  · simp at h

/-- A command that has not been executed is not one that waits. -/
theorem State.awaiting_of_serving {s : State} {src op : Nat} {v : Svc} (h : s.serving src op = some v) : s.awaiting src op = none := by
  obtain ⟨hsvc, -, hw⟩ := State.svc_of_serving h
  unfold State.awaiting
  rw [hsvc]
  simp [hw]

/-- The command in service after it is changed. -/
theorem State.svc_setSvc (s : State) (src : Nat) (v : Svc) : ((s.setSvc src v).mb src).svc = some v :=
  congrArg Mbx.svc (State.mb_setMb_same s src _)

/-- No field of a list is wrong. -/
theorem firstBad_eq_none {l : List (Bool × Nat)} : firstBad l = none ↔ ∀ x ∈ l, x.1 = false := by
  induction l with
  | nil => simp [firstBad]
  | cons x l ih =>
    unfold firstBad
    cases hx : x.1 <;> simp [hx, ih]

/-! ### PIN_OWN (R17) -/

/-- A word just written waits in the shadow. -/
theorem Sparse.find?_put_same {α : Type} (a : Nat) (w : α) (m : List (Nat × α)) :
    (Sparse.put a w m).find? (fun e => e.1 == a) = some (a, w) := by
  induction m with
  | nil => simp [Sparse.put]
  | cons e m ih =>
    unfold Sparse.put
    split
    · simp
    · split
      · simp
      · rename_i h
        rw [List.find?_cons_of_neg (by simpa using fun he => h he.symm), ih]

theorem State.shadowAt_shadowWr_same (s : State) (a : Nat) (w : Word) : (s.shadowWr a w).shadowAt a = some w := by
  unfold State.shadowAt State.shadowWr
  rw [Sparse.find?_put_same]
  rfl

/-- A shadow address other than SEQ_CTL's reads as the word that waits there (R44). -/
theorem State.shadowRd_of_shadowAt {s : State} {a : Nat} {w : Word} (h : s.shadowAt a = some w) (ha : a ≠ R.PWR_SEQ_CTL) :
    s.shadowRd a = w := by
  unfold State.shadowRd State.liveWord
  rw [h]
  exact if_neg ha

/-- An item of one word is ready once it is written (R43). -/
theorem State.mem_ready_shadowWr (s : State) {a : Nat} (w : Word) (h : itemOf a = a) (hl : lastWord a = a) :
    a ∈ (s.shadowWr a w).ready := by
  unfold State.shadowWr
  dsimp only
  rw [h, hl, if_pos rfl]
  unfold addItem
  split
  · assumption
  · exact List.mem_cons_self ..

/-- A pin that PIN_OWN may name. -/
theorem State.lt_of_pinOwnBad {s : State} {p o i : Nat} (h : firstBad (s.pinOwnBad p o i) = none) : p < 160 := by
  have h0 := firstBad_eq_none.mp h _ (List.mem_cons_self ..)
  simp only [Bool.or_eq_false_iff, decide_eq_false_iff_not] at h0
  omega

/-- The configuration of a pin is an item of one word. -/
theorem itemOf_tioCfg {p : Nat} (h : p < 160) : itemOf (R.TIO_CFG p) = R.TIO_CFG p ∧ lastWord (R.TIO_CFG p) = R.TIO_CFG p := by
  have hlo : 0x60000 ≤ R.TIO_CFG p := by unfold R.TIO_CFG; omega
  have hhi : R.TIO_CFG p < 0x10B000 := by unfold R.TIO_CFG; omega
  generalize R.TIO_CFG p = a at hlo hhi
  have hevt : (decide (0x40000 ≤ a) && decide (a < 0x60000)) = false := by simp; omega
  have htack : (decide (0x10B000 ≤ a) && decide (a < 0x10E000)) = false := by simp; omega
  have hblk : (decide (0x1400 ≤ a) && decide (a < 0x1480)) = false := by simp; omega
  have hne : (a == 0x1400) = false := by simp; omega
  constructor
  · simp only [itemOf, hevt, htack, hblk, Bool.false_eq_true, if_false]
  · simp only [lastWord, hevt, htack, hne, Bool.or_self, Bool.false_eq_true, if_false]

/-- PIN_OWN puts owner and index into the shadow of the pin's CFG, which is then ready (R17, R43). -/
theorem State.pinOwn_shadow (s : State) (src : Nat) (v : Svc)
    (h : firstBad (s.pinOwnBad (v.args.getD 0 0) (v.args.getD 1 0) (le v.args 2 2)) = none) :
    let a := R.TIO_CFG (v.args.getD 0 0)
    getBits ((s.pinOwn src v).shadowRd a) 0 2 = v.args.getD 1 0 % 4 ∧ getBits ((s.pinOwn src v).shadowRd a) 2 9 = le v.args 2 2 % 512
      ∧ a ∈ (s.pinOwn src v).ready := by
  intro a
  obtain ⟨hitem, hlast⟩ := itemOf_tioCfg (State.lt_of_pinOwnBad h)
  have ha : a ≠ R.PWR_SEQ_CTL := by unfold a R.TIO_CFG R.PWR_SEQ_CTL; omega
  unfold State.pinOwn
  simp only [h]
  generalize hw : setBits (setBits (s.pinCfg (v.args.getD 0 0)) 0 2 (v.args.getD 1 0)) 2 9 (le v.args 2 2) = w
  have hend := (s.shadowWr a w).finish_endLeaves src [a] []
  have hat : ((s.shadowWr a w).finish src [a] []).shadowAt a = some w := by
    unfold State.shadowAt
    rw [hend.shadow]
    exact s.shadowAt_shadowWr_same a w
  rw [State.shadowRd_of_shadowAt hat ha, hend.ready, ← hw, getBits_setBits_other _ _ (.inr (by decide)),
    getBits_setBits_same _ _ (by decide), getBits_setBits_same _ _ (by decide)]
  exact ⟨rfl, rfl, s.mem_ready_shadowWr _ hitem hlast⟩

/-! ### SET_MODE, SEAL, RESET, CALIBRATE, PATCH_LOAD (R10, R345, R346, R379, R387) -/

theorem State.setModeCmd_present (s : State) (src : Nat) (v : Svc) (hm : v.args.getD 0 0 = s.mode) :
    s.setModeCmd src v = s.complete src statusOk 0 [s.mode] := by
  unfold State.setModeCmd
  rw [hm]
  exact if_pos rfl

theorem State.setModeCmd_impossible (s : State) (src : Nat) (v : Svc) (hm : v.args.getD 0 0 ≠ s.mode)
    (hf : s.modeFor (v.args.getD 0 0) = none) : s.setModeCmd src v = s.complete src statusBadState 0 [] := by
  unfold State.setModeCmd
  exact (if_neg hm).trans (if_pos (Option.isNone_iff_eq_none.mpr hf))

theorem State.setModeCmd_waits (s : State) (src : Nat) (v : Svc) (hm : v.args.getD 0 0 ≠ s.mode)
    (hf : s.modeFor (v.args.getD 0 0) ≠ none) :
    s.setModeCmd src v = s.setSvc src { v with waiting := true, arg := v.args.getD 0 0, since := s.now } := by
  unfold State.setModeCmd
  exact (if_neg hm).trans (if_neg (fun h => hf (Option.isNone_iff_eq_none.mp h)))

theorem State.sealCmd_seals (s : State) (src : Nat) (hm : s.mode = 2) (hs : s.sealed = false) :
    s.sealCmd src = (s.setB F.SYS_MODE_SEALED true).complete src statusOk 0 [] := by
  unfold State.sealCmd
  exact if_neg (by simp [hm, hs])

theorem State.sealCmd_sealed (s : State) (src : Nat) (hs : s.sealed = true) : s.sealCmd src = s.complete src statusBadState 0 [] := by
  unfold State.sealCmd
  exact if_pos (by simp [hs])

/-- With the time base running the reset comes 10 us later, and until then the command waits (R346). -/
theorem State.resetCmd_running (s : State) (src straps : Nat) (v : Svc) (hrun : s.tb.running = true) (hboot : s.sys.reboot = none) :
    s.resetCmd src straps v = { s.setSvc src { v with waiting := true } with sys := { s.sys with reboot := some (s.now + 5000, straps) } } := by
  unfold State.resetCmd
  rw [if_pos hrun, hboot]
  rfl

/-- CALIBRATE once served is started. -/
theorem State.calibrate_serves {s : State} {src : Nat} {v : Svc} (h : s.serves src 0x107 v) : s.calibrate src = s.calStart src v := by
  unfold State.calibrate
  rw [State.awaiting_of_serving h.1]
  exact State.command_serves h

/-- A good patch is staged (R387). -/
theorem State.patchLoad_staged (s : State) (src : Nat) (v : Svc) (img : List Nat) (himg : img = s.yardBytes v.pgOff (min v.pgSize 32768))
    (hok : s.patchCheck img = statusOk) (hpg : v.pgSize ≠ 0) (hsize : 96 + imgField img 0x10 4 ≤ v.pgSize) :
    s.patchLoad src false v
      = State.complete { s.setB F.SYS_BOOT_PATCH_STAGED true with sys := { s.sys with patch := img.take (96 + imgField img 0x10 4) } }
          src statusOk 0 ((img.drop 0x0C).take 4) := by
  unfold State.patchLoad
  simp only [← himg, hok, if_neg hpg, if_neg (Nat.not_lt.mpr hsize)]
  rfl

/-- A patch stays staged through the end of its command. -/
theorem State.patchLoad_effect (s : State) (src : Nat) (v : Svc) (img : List Nat) (himg : img = s.yardBytes v.pgOff (min v.pgSize 32768))
    (hok : s.patchCheck img = statusOk) (hpg : v.pgSize ≠ 0) (hsize : 96 + imgField img 0x10 4 ≤ v.pgSize) :
    (s.patchLoad src false v).sys.patch = img.take (96 + imgField img 0x10 4)
    ∧ (s.patchLoad src false v).b F.SYS_BOOT_PATCH_STAGED = true ∧ ((s.patchLoad src false v).mb src).svc = none := by
  rw [State.patchLoad_staged s src v img himg hok hpg hsize]
  generalize hx : ({ s.setB F.SYS_BOOT_PATCH_STAGED true with
    sys := { s.sys with patch := img.take (96 + imgField img 0x10 4) } } : State) = x
  have hsys : x.sys.patch = img.take (96 + imgField img 0x10 4) := by rw [← hx]
  have hstaged : x.b F.SYS_BOOT_PATCH_STAGED = true := by
    rw [← hx]
    exact State.b_setB_same s true (by decide) rfl
  have hend := x.complete_endLeaves src statusOk 0 ((img.drop 0x0C).take 4)
  refine ⟨by rw [hend.sys, hsys], ?_, State.svc_complete ..⟩
  rw [← hstaged]
  unfold State.b State.f
  rw [hend.rd F.SYS_BOOT_PATCH_STAGED.addr (by decide) (by decide)]

/-! ### Sleep (R357, R358) -/

/-- SLEEP_NOTICE ends, and the host sleeps with its WAKE_EN. -/
theorem State.sleepNotice_effect (s : State) (src : Nat) (v : Svc) :
    (s.sleepNotice src v).b F.MBX_SLEEP_ASLEEP = true
    ∧ (s.sleepNotice src v).f F.MBX_SLEEP_WAKE_EN = v.args.getD 0 0 % 64 ∧ ((s.sleepNotice src v).mb src).svc = none := by
  unfold State.sleepNotice
  extract_lets s1 s2
  refine ⟨?_, State.f_setF_same _ _ (by decide), ?_⟩
  · rw [State.b_setF_other _ _ (.inr (.inr (by decide))), State.b_setB_same _ _ (by decide) rfl]
  · rw [State.mb_setF_frame, State.mb_setB_frame]
    exact State.svc_endCommand ..

/-- WAKE_NOTICE releases WAKE_N, and its own pulse does not take it again. -/
theorem State.wakeNotice_effect (s : State) (src : Nat) :
    (s.wakeNotice src).b F.MBX_SLEEP_ASLEEP = false ∧ (s.wakeNotice src).wakeLow = false ∧ ((s.wakeNotice src).mb src).svc = none := by
  unfold State.wakeNotice
  extract_lets held woken s1
  have hawake : s1.b F.MBX_SLEEP_ASLEEP = false := State.b_setB_same s false (by decide) rfl
  have hend : s1.EndLeaves ((overList (List.range 6) State.releaseHold s1).complete src statusOk 0 [held]) :=
    (State.EndLeaves.overList State.releaseHold_endLeaves _ s1).trans (State.complete_endLeaves _ _ _ _ _)
  exact ⟨hend.asleep.trans hawake, hend.wakeLow hawake, State.svc_complete ..⟩

/-! ### PATTERN_LOAD, LEARN_RESTORE, EVT_WRITE (R342) -/

/-- PATTERN_LOAD with the pages and words that it needs. -/
theorem State.patternLoad_good (s : State) (src : Nat) (v : Svc) (hpg : (le v.args 4 2 + 63) / 64 ≤ v.pages.length)
    (hw : ∀ w, w ∈ s.pgWords v (le v.args 4 2) → w < 2 ^ 24) :
    s.patternLoad src v = (s.putWords (R.PAT (v.args.getD 0 0) (le v.args 2 2)) (s.pgWords v (le v.args 4 2))).finish src
      ((List.range (le v.args 4 2)).map (fun i => R.PAT (v.args.getD 0 0) (le v.args 2 2 + i))) [] := by
  have hgood : firstBad ((s.pgWords v (le v.args 4 2)).zipIdx.map (fun e => (decide (2 ^ 24 ≤ e.1), 4 * e.2))) = none := by
    rw [firstBad_eq_none, List.forall_mem_map]
    rintro ⟨w, i⟩ he
    exact decide_eq_false (Nat.not_le.mpr (hw w (List.fst_mem_of_mem_zipIdx he)))
  unfold State.patternLoad
  simp only [if_neg (Nat.not_lt.mpr hpg), hgood]

/-- LEARN_RESTORE with the pages that it needs. -/
theorem State.learnRestore_good (s : State) (src : Nat) (v : Svc) (hpg : 16 ≤ v.pages.length) :
    s.learnRestore src v = (s.putWords (R.LRN (v.args.getD 0 0) 0) (s.pgWords v 1024)).finish src
      ((List.range 1024).map (fun k => R.LRN (v.args.getD 0 0) k)) [] :=
  if_neg (Nat.not_lt.mpr hpg)

/-- EVT_WRITE with its entries in the slot, none of them of a check shed. -/
theorem State.evtWrite_good (s : State) (src : Nat) (v : Svc) (hform : v.args.getD 4 0 = 0)
    (hhome : ∀ i, i < le v.args 2 2 →
      s.checkHome (((List.range (4 * le v.args 2 2)).map (fun i => le v.args (8 + 4 * i) 4)).getD (4 * i) 0 / 2 ^ 28) = false) :
    s.evtWrite src v = (s.putWords (R.EVT (le v.args 0 2) 0) ((List.range (4 * le v.args 2 2)).map (fun i => le v.args (8 + 4 * i) 4))).finish
      src ((List.range (le v.args 2 2)).map (fun i => R.EVT (le v.args 0 2 + i) 0)) [] := by
  have hwords : s.evtWords v = ((List.range (4 * le v.args 2 2)).map (fun i => le v.args (8 + 4 * i) 4), 8) := by
    unfold State.evtWords
    exact if_pos hform
  unfold State.evtWrite
  simp only [hwords, hform]
  rw [firstBad_eq_none.mpr]
  · rfl
  · rw [List.forall_mem_map]
    exact fun i hi => hhome i (List.mem_range.mp hi)

/-! ### UCODE_LOAD (R178) -/

/-- A good image calls the named engines, and is written once they all stand in LOADING. -/
theorem State.ucodeLoad_good (s : State) (src d : Nat) (v : Svc) (img : List Nat) (himg : img = s.yardBytes v.pgOff (min v.pgSize 20736))
    (h : s.serves src 0x500 v) (hfree : ∀ m, m < 4 → s.awaiting m 0x500 = none) (hpg : v.pgSize ≠ 0) (hfield : imageField img = none)
    (hsize : 96 + imgField img 0x1C 4 ≤ v.pgSize) (hver : imgField img 7 1 ≤ s.fwVer / 65536)
    (hsig : s.sigOk (imgField img 6 1) (img.take (96 + imgField img 0x1C 4 - 64)) ((img.drop (96 + imgField img 0x1C 4 - 64)).take 64) = true) :
    s.ucodeLoad src d = ((overList (bitList 16 (le v.args 0 2)) State.engCall s).setSvc src { v with waiting := true, answer := img }).ucodeWrite
      src d v img := by
  have hbusy : (List.range 4).any (fun m => (s.awaiting m 0x500).isSome) = false := by
    rw [List.any_eq_false]
    intro m hm
    simp [hfree m (List.mem_range.mp hm)]
  unfold State.ucodeLoad
  rw [State.awaiting_of_serving h.1]
  refine (State.command_serves h).trans ?_
  unfold State.ucodeCheck
  simp only [hbusy, ← himg, hfield, hsig, if_neg hpg, if_neg (Nat.not_lt.mpr hsize), if_neg (Nat.not_lt.mpr hver)]
  rfl

/-- The load of engines that all stand in LOADING: they stay there, each with a valid image, and the command waits. -/
theorem State.ucodeWrite_effect (s : State) (src d : Nat) (v : Svc) (img : List Nat) (hd : d &&& le v.args 0 2 = 0)
    (hst : ∀ k, k < 16 → (le v.args 0 2).testBit k = true → (s.eng k).st = .loading) :
    ∃ w, ((s.ucodeWrite src d v img).mb src).svc = some w ∧ w.waiting = true
      ∧ ∀ k, k < 16 → (le v.args 0 2).testBit k = true →
        ((s.ucodeWrite src d v img).eng k).st = .loading ∧ (s.ucodeWrite src d v img).b (F.SHD_ENG_IMAGE_VALID k) = true := by
  rw [State.ucodeWrite_loaded s src d v img hd hst]
  refine ⟨_, State.svc_setSvc _ _ _, rfl, fun k hlt hbit => ?_⟩
  obtain ⟨hsame, hvalid⟩ := State.loadEngines (bitList 16 (le v.args 0 2)) s img hlt
  refine ⟨(congrArg Eng.st (State.eng_setMb_frame _ _ _ k)).trans (hsame.trans (hst k hlt hbit)), ?_⟩
  refine (State.b_setMb_frame _ _ _ _).trans (hvalid.trans ?_)
  rw [decide_eq_true (mem_bitList.mpr ⟨hlt, hbit⟩), Bool.true_or]

/-- A load that waits: the row again, or its end where a page has gone bad (log entry 155). -/
theorem State.ucodeLoad_again {s : State} {src d : Nat} {v : Svc} (h : s.awaiting src 0x500 = some v) (hitems : v.items = []) :
    s.ucodeLoad src d = if s.hurt src v then s.ucodeStop src v else s.ucodeWrite src d v v.answer := by
  unfold State.ucodeLoad
  rw [h]
  simp [hitems]

/-! ### TTH_MSG_SEND and PMB_XFER (R247, R268, R348) -/

/-- A message that the ring takes waits for at most 64 beats. -/
theorem State.msgSend_waits (s : State) (src : Nat) (v : Svc) (hring : s.inRing = true)
    (hfeat : v.args.getD 1 0 < 0x80 ∨ s.b F.TTH_VER_FEAT_HELD = false) :
    s.msgSend src v = s.setSvc src { v with waiting := true, arg := 64 } := by
  have hheld : s.msgHeld v = false := by
    unfold State.msgHeld
    rw [Bool.and_eq_false_iff]
    exact hfeat.imp (fun h => decide_eq_false (Nat.not_le.mpr h)) id
  unfold State.msgSend
  simp [hring, hheld]

/-! ### The settlement -/

/-- What a row of the dispatch does with a command in service. -/
theorem next_of_serves {s : State} {src op : Nat} {v : Svc} {f : State → Svc → State} {t : State} (h : s.serves src op v)
    (ht : f s v = t) : (Host.Outcome.next (s.command src op f) : Host.Outcome State Fault Refusal) = .next t :=
  congrArg Host.Outcome.next ((State.command_serves h).trans ht)

/-- The same of a command that writes shadowed items. -/
theorem next_of_shadow_serves {s : State} {src op : Nat} {v : Svc} {words : Svc → Nat} {f : State → Svc → State} {t : State}
    (h : s.serves src op v) (hflag : v.flags.testBit 2 = false) (hticks : s.shadowTicks = true) (ht : f s v = t) :
    (Host.Outcome.next (s.shadowCommand src op words f) : Host.Outcome State Fault Refusal) = .next t :=
  congrArg Host.Outcome.next ((State.shadowCommand_serves h hflag hticks).trans ht)

/-- Settles O59: each command in service runs its own meaning, whose effect is a lemma above; that shadowed items are
written in one tick (log entry 102), UCODE_LOAD's repeated row (log entry 110) and CALIBRATE's (log entry 108) are the
model's choices, as is what a UCODE_LOAD ended by a bad page leaves (log entry 155). -/
theorem holtidCommandsAct : Obligations.HoltidCommandsAct := by
  unfold Obligations.HoltidCommandsAct
  refine ⟨fun src v s => ⟨?setMode, ?setSeal, ?reset, ?pinOwn, ?selftest, ?calStart, ?calDone, ?patch, ?sleep, ?wake, ?pattern, ?learn,
    ?evt, ?vlvOn, ?vlvOff, ?ucode, ?ucodeAgain, ?run, ?msg, ?pmb⟩, fun src v s => ⟨?frCfg, ?frStart, ?frStop, ?frValve, ?frMask⟩⟩
  case setMode =>
    exact fun h => ⟨fun hm => next_of_serves h (s.setModeCmd_present src v hm),
      fun hm hf => next_of_serves h (s.setModeCmd_impossible src v hm hf), fun hm hf => next_of_serves h (s.setModeCmd_waits src v hm hf)⟩
  case setSeal =>
    exact fun h => ⟨fun hm hs => next_of_serves h (s.sealCmd_seals src hm hs), fun hs => next_of_serves h (s.sealCmd_sealed src hs)⟩
  case reset =>
    exact fun st h hrun hboot => ⟨_, next_of_serves h (s.resetCmd_running src st.toNat v hrun hboot), rfl, State.svc_setSvc s src _,
      fun _ => rfl⟩
  case pinOwn =>
    exact fun h hflag hticks hgood => ⟨_, next_of_shadow_serves h hflag hticks rfl, s.pinOwn_shadow src v hgood⟩
  case selftest => exact fun bad h => next_of_serves h rfl
  case calStart =>
    exact fun h => ⟨_, _, congrArg Host.Outcome.next (State.calibrate_serves h), State.svc_setSvc _ src _, rfl, rfl⟩
  case calDone =>
    intro h hdone
    refine congrArg Host.Outcome.next ?_
    unfold State.calibrate
    simp only [h, if_pos hdone]
  case patch =>
    exact fun h hok hpg hsize => ⟨_, next_of_serves h rfl, s.patchLoad_effect src v _ rfl hok hpg hsize⟩
  case sleep => exact fun h => ⟨_, next_of_serves h rfl, s.sleepNotice_effect src v⟩
  case wake => exact fun h => ⟨_, next_of_serves h rfl, s.wakeNotice_effect src⟩
  case pattern =>
    exact fun h hflag hticks hpg hw => next_of_shadow_serves h hflag hticks (s.patternLoad_good src v hpg hw)
  case learn => exact fun h hflag hticks hpg => next_of_shadow_serves h hflag hticks (s.learnRestore_good src v hpg)
  case evt =>
    exact fun h hflag hticks hform hhome => next_of_shadow_serves h hflag hticks (s.evtWrite_good src v hform hhome)
  case vlvOn => exact fun h => next_of_serves h rfl
  case vlvOff => exact fun h => next_of_serves h rfl
  case ucode =>
    intro d h img n hfree hpg hfield hsize hver hsig hd u
    have hload := s.ucodeLoad_good src d.toNat v img rfl h hfree hpg hfield hsize hver hsig
    refine ⟨fun hwait => congrArg Host.Outcome.next (hload.trans ?_), fun hall => ?_⟩
    · exact State.ucodeWrite_waits _ src d.toNat v img hwait
    · obtain ⟨w, hsvc, hw, heng⟩ := State.ucodeWrite_effect (u.setSvc src { v with waiting := true, answer := img }) src d.toNat v img hd hall
      exact ⟨_, w, congrArg Host.Outcome.next hload, hsvc, hw, heng⟩
  case ucodeAgain => exact fun d h hitems => congrArg Host.Outcome.next (State.ucodeLoad_again h hitems)
  case run => exact fun h => next_of_serves h rfl
  case msg => exact fun h hring hfeat => next_of_serves h (s.msgSend_waits src v hring hfeat)
  case pmb =>
    exact fun h => ⟨fun hen => next_of_serves h (if_neg (by simp [hen])), fun hen => next_of_serves h (if_pos (by simp [hen]))⟩
  case frCfg => exact fun h => next_of_serves h rfl
  case frStart => exact fun h => next_of_serves h rfl
  case frStop => exact fun h => next_of_serves h rfl
  case frValve => exact fun h => next_of_serves h rfl
  case frMask =>
    refine fun h => ⟨_, next_of_serves h rfl, fun k hlt hk => ?_⟩
    have hbelow : R.STL_IEN k < 0x120000 ∧ R.STL_IEN k ≠ R.LOG_LOST := by unfold R.STL_IEN R.LOG_LOST; omega
    rw [((s.frIrqMask v.args).complete_endLeaves src statusOk 0 []).rd _ hbelow.1 hbelow.2]
    exact s.rd_frIrqMask v.args hlt hk

end Sys2Proof.Machine
end

section
/-! Limits of the trackers and losses of sync (R69, R70, R73, R75, R78, R98, R380, R382). -/

namespace Sys2Proof.Machine

open Sys2Proof

/-! ### Rows of the trackers (R380, R382) -/

/-- Outside IDLE a row acts and ends with the judgement of R380. -/
theorem next_trkRow {s t : State} {f : State → State} (h : s.mode ≠ 3) (ht : f s = t) :
    (Host.Outcome.next (s.trkRow f) : Host.Outcome State Fault Refusal) = .next t.policy :=
  congrArg Host.Outcome.next ((if_neg h).trans (congrArg State.policy ht))

/-- In IDLE it changes nothing. -/
theorem next_trkRow_idle {s : State} {f : State → State} (h : s.mode = 3) :
    (Host.Outcome.next (s.trkRow f) : Host.Outcome State Fault Refusal) = .next s :=
  congrArg Host.Outcome.next (if_pos h)

/-! ### The limits (Table 3.5) -/

theorem State.stopExpiry_sync {s : State} {n : Nat} (hm : s.tmode n < 5) (hst : (s.tr n).st = .sync)
    (hp : s.passed (s.tr n).stopBase (s.stopTicks n) = true) :
    s.stopExpiry n = (s.setTr n { s.tr n with stopFrom := false, turning := false, periods := 0
                                              haveEdge := false, havePer := false }).setSt n .stopped := by
  unfold State.stopExpiry
  exact (if_neg (Nat.not_le.mpr hm)).trans (if_pos (by simp [hst, hp]))

theorem State.stopExpiry_limp {s : State} {n : Nat} (hm : s.tmode n < 5) (hst : (s.tr n).st = .limp)
    (hp : s.passed (s.tr n).idxEdge (max (s.stopTicks n) (2 * s.idxExp n)) = true) :
    s.stopExpiry n = (s.setTr n { s.tr n with stopFrom := true, turning := false, periods := 0
                                              haveIdx := false }).setSt n .stopped := by
  unfold State.stopExpiry
  exact (if_neg (Nat.not_le.mpr hm)).trans ((if_neg (by simp [hst])).trans (if_pos (by simp [hst, hp])))

/-- At ERR_MAX sync is lost (R70). -/
theorem State.errMaxRow_reached {s : State} {n : Nat} (hst : (s.tr n).st = .sync) (he : s.errMax n ≤ (s.tr n).err) :
    s.errMaxRow n = s.loseSync n := by
  unfold State.errMaxRow
  exact if_pos (by simp [hst, he])

/-- Where the index errors make IDX_SYNC clear (R75). -/
theorem State.idxErrMaxRow_sync {s : State} {n : Nat} (hi : s.idxErrMax n ≤ (s.tr n).idxErr) (hst : (s.tr n).st = .sync)
    (h : (s.tr n).idxSync = true ∨ ((s.tr n).idxDue = true ∧ (s.tr n).idxErr = s.idxErrMax n)) :
    s.idxErrMaxRow n = (s.setTr n { s.tr n with idxSync := false, idxDue := false }).log .whlIndexLost n 0 := by
  unfold State.idxErrMaxRow
  exact (if_neg (Nat.not_lt.mpr hi)).trans (if_pos (by simpa [hst] using h))

theorem State.idxErrMaxRow_limp {s : State} {n : Nat} (hi : s.idxErrMax n ≤ (s.tr n).idxErr) (hst : (s.tr n).st = .limp) :
    s.idxErrMaxRow n = s.loseLimp n := by
  unfold State.idxErrMaxRow
  exact (if_neg (Nat.not_lt.mpr hi)).trans ((if_neg (by simp [hst])).trans (if_pos hst))

theorem State.seekRow_exhausted {s : State} {n : Nat} (hst : (s.tr n).st = .gapSeek)
    (he : s.seekRevs n * s.toothN n ≤ (s.tr n).seekEdges) : s.seekRow n = (s.log .whlGapNotFound n 0).setSt n .lost := by
  unfold State.seekRow
  exact if_pos (by simp [hst, he])

theorem State.tetherRow_lost {s : State} {n : Nat} (hm : s.tmode n = 6) (hoff : (s.tr n).st ≠ .off) (hlost : (s.tr n).st ≠ .lost)
    (he : 4 ≤ (s.tr n).tthNone) : s.tetherRow n = (s.log .whlTetherAngleLost n 0).setSt n .lost := by
  unfold State.tetherRow
  exact if_pos (by simp [hm, hoff, hlost, he])

/-! ### A loss of sync counts (Table 3.11) -/

/-- An injection moves no register but EVT_TWIN_INJECT, whose GO it clears (R123). -/
theorem State.rd_inject (s : State) (sh slot : Nat) (t : Fine) {a : Nat} (h : a ≠ R.EVT_TWIN_INJECT) :
    (s.inject sh slot t).2.rd a = s.rd a := by
  unfold State.inject
  split
  · exact State.rd_setB_other s false h
  · rfl

theorem State.rd_putAct (s : State) (x : Act) (a : Nat) : (s.putAct x).rd a = s.rd a := by
  unfold State.putAct
  split <;> rfl

/-- Nor does the end of a slot's action. -/
theorem State.rd_placeEnd (s : State) (sh slot : Nat) (total : Fine) (late : Bool) {a : Nat} (h : a ≠ R.EVT_TWIN_INJECT) :
    (s.placeEnd sh slot total late).rd a = s.rd a := by
  unfold State.placeEnd
  extract_lets k x floor t0
  split
  · rfl
  · split
    · split
      · exact (State.rd_putAct _ _ a).trans (s.rd_inject sh slot t0 h)
      · rfl
    · exact (State.rd_putAct _ _ a).trans (s.rd_inject sh slot t0 h)

/-- Nor does a tracker's loss for the events (Table 5.5). -/
theorem State.rd_evLoss (s : State) (n : Nat) {a : Nat} (h : a ≠ R.EVT_TWIN_INJECT) : (s.evLoss n).rd a = s.rd a := by
  unfold State.evLoss
  refine overList_leaves (fun x => x.rd a) (fun x e => ?_) (s.slotsOf n) s
  dsimp only
  split
  · rfl
  · split
    · exact State.rd_placeEnd x _ _ _ _ h
    · split
      · rfl
      · exact State.rd_placeEnd x _ _ _ _ h

theorem loss_ne_inject (n : Nat) : R.WHL_CNT_LOSS n ≠ R.EVT_TWIN_INJECT := by
  unfold R.WHL_CNT_LOSS R.EVT_TWIN_INJECT
  omega

/-- SYNC left for LIMP or LOST counts in CNT_LOSS. -/
theorem State.rd_setSt_loss (s : State) (n : Nat) {new : TState} (hst : (s.tr n).st = .sync) (hnew : new = .limp ∨ new = .lost) :
    (s.setSt n new).rd (R.WHL_CNT_LOSS n)
      = BitVec.ofNat 32 (min ((s.rd (R.WHL_CNT_LOSS n)).toNat % 2 ^ 24 + 1) 0xFFFFFF) := by
  have hpulse : ∀ t, (((s.bump (R.WHL_CNT_LOSS n)).setTr n t).pulse (192 + n)).rd (R.WHL_CNT_LOSS n)
      = BitVec.ofNat 32 (min ((s.rd (R.WHL_CNT_LOSS n)).toNat % 2 ^ 24 + 1) 0xFFFFFF) := by
    intro t
    rw [State.rd_pulse_frame, State.rd_setTr_frame, State.rd_bump_same]
  unfold State.setSt
  rcases hnew with rfl | rfl
  · simp [hst, hpulse]
  · simp [hst, hpulse, State.rd_evLoss _ _ (loss_ne_inject n)]

/-- Settles O24: each limit's own equation above, and what a loss of SYNC counts. -/
theorem trackerLimitsChangeItsState : Obligations.TrackerLimitsChangeItsState := by
  unfold Obligations.TrackerLimitsChangeItsState
  refine ⟨?stopSync, ?stopLimp, ?errMax, ?counts, ?idxSync, ?idxLimp, ?seek, ?tether, ?idle⟩
  case stopSync => exact fun n s hmode hm hst hp => next_trkRow hmode (State.stopExpiry_sync hm hst hp)
  case stopLimp => exact fun n s hmode hm hst hp => next_trkRow hmode (State.stopExpiry_limp hm hst hp)
  case errMax => exact fun n s hmode hst he => next_trkRow hmode (State.errMaxRow_reached hst he)
  case counts => exact fun n s new hst hnew => State.rd_setSt_loss s n hst hnew
  case idxSync => exact fun n s hmode hi hst h => next_trkRow hmode (State.idxErrMaxRow_sync hi hst h)
  case idxLimp => exact fun n s hmode hi hst => next_trkRow hmode (State.idxErrMaxRow_limp hi hst)
  case seek => exact fun n s hmode hst he => next_trkRow hmode (State.seekRow_exhausted hst he)
  case tether => exact fun n s hmode hm hoff hlost he => next_trkRow hmode (State.tetherRow_lost hm hoff hlost he)
  case idle =>
    exact fun n s h => ⟨next_trkRow_idle h, next_trkRow_idle h, next_trkRow_idle h, next_trkRow_idle h, next_trkRow_idle h⟩

end Sys2Proof.Machine
end

section
/-! The checks of the sensor pairs (R56, R62, R64, R389). -/

namespace Sys2Proof.Machine

open Sys2Proof

/-! ### The threshold of a VR pair (R56) -/

/-- A further expected period without an edge halves the threshold once more. -/
theorem State.vrHalve_due {s : State} {k e : Nat} {u : Time} (hvr : s.isVr k = true) (hmode : s.mode ≠ 3)
    (hper : s.pairPeriod k = some (e, u)) (he : e ≠ 0) (hdue : ((s.sn k).halvings + 2) * e ≤ since s.now u) :
    s.vrHalve k = s.setSn k { s.sn k with halvings := (s.sn k).halvings + 1 } := by
  unfold State.vrHalve
  simp only [hper]
  exact if_pos (by simp [hvr, hmode, he, hdue])

/-- The period that counts is that of the lowest-numbered tooth user (log entry 25). -/
theorem State.pairPeriod_of_firstUser {s : State} {k n : Nat} (hfirst : s.firstUser k = some n) (hper : (s.tr n).havePer = true) :
    s.pairPeriod k
      = some (if (s.tr n).st = .sync ∨ (s.tr n).st = .stopped then s.toothExp n else (s.tr n).per, (s.tr n).edge) := by
  unfold State.pairPeriod
  simp [hfirst, hper]

/-! ### The class of a sample of a VR pair (Table 3.2) -/

theorem snsClass_vr_shortSup {p n : Int} (hp : 5500 < p) : snsClass 0 p n = .shortSup := by
  unfold snsClass
  exact if_pos (by simp [hp])

theorem snsClass_vr_shortGnd {p n : Int} (hp : p ≤ 5500) (hn : n ≤ 5500)
    (h : (-300 ≤ p ∧ p ≤ 300) ∨ (-300 ≤ n ∧ n ≤ 300)) : snsClass 0 p n = .shortGnd := by
  unfold snsClass
  exact (if_neg (by simp [hp, hn])).trans (if_pos (by simpa using h))

theorem snsClass_vr_open {p n : Int} (hp : 300 < p) (hn : 300 < n) (hp' : p ≤ 5500) (hn' : n ≤ 5500) (hd : 500 < p - n) :
    snsClass 0 p n = .open := by
  unfold snsClass
  exact (if_neg (by simp [hp', hn'])).trans ((if_neg (by simp; omega)).trans (if_pos (by simpa using hd)))

/-! ### The runs of the classes (R64) -/

/-- A sample outside a class lengthens the run without it. -/
theorem runs_miss {on off : Nat} (h : off < 99) : runs false on off = (0, off + 1) := by
  unfold runs
  simp only [Bool.false_eq_true, if_false]
  rw [Nat.min_eq_right (by omega)]

/-- A flag stands until a run reaches 100. -/
theorem State.flagBy_short (s : State) (x : Fld) (k : Nat) (c : LogCode) {off : Nat} (h : off < 99) :
    s.flagBy x k c 0 (off + 1) = s := by
  unfold State.flagBy
  exact (if_neg (by simp)).trans (if_neg (by omega))

/-- A sample of no class after short runs moves the runs alone. -/
theorem State.snsSample_good {s : State} {k : Nat} {vP vN : Int} (hcfg : 2 ≤ s.mode) (hmode : s.mode ≠ 3)
    (hclass : snsClass (s.f (F.SNS_CFG_TYPE k)) vP vN = .none)
    (hsup : (s.sn k).supOff < 99) (hgnd : (s.sn k).gndOff < 99) (hopen : (s.sn k).openOff < 99) :
    s.snsSample k vP vN = s.setSn k { s.sn k with
      supRun := 0, supOff := (s.sn k).supOff + 1, gndRun := 0, gndOff := (s.sn k).gndOff + 1
      openRun := 0, openOff := (s.sn k).openOff + 1 } := by
  have hnone : (SnsClass.none == .shortSup) = false ∧ (SnsClass.none == .shortGnd) = false ∧ (SnsClass.none == .open) = false := by decide
  unfold State.snsSample
  rw [if_neg (by simp [hmode]; omega)]
  simp only [hclass, hnone, runs_miss hsup, runs_miss hgnd, runs_miss hopen,
    State.flagBy_short _ _ _ _ hsup, State.flagBy_short _ _ _ _ hgnd, State.flagBy_short _ _ _ _ hopen]

/-- Settles O25: the halving, the classes in their order, and the sample that moves runs alone. -/
theorem sensorPairsAreChecked : Obligations.SensorPairsAreChecked := by
  unfold Obligations.SensorPairsAreChecked
  refine ⟨?halving, ?period, ?shortSup, ?shortGnd, ?openLine, ?sample⟩
  case halving => exact fun k e u s hvr hmode hper he hdue => congrArg Host.Outcome.next (State.vrHalve_due hvr hmode hper he hdue)
  case period => exact fun k n s hfirst hper => State.pairPeriod_of_firstUser hfirst hper
  case shortSup => exact fun p n hp => snsClass_vr_shortSup hp
  case shortGnd => exact fun p n hp hn h => snsClass_vr_shortGnd hp hn h
  case openLine => exact fun p n hp hn hp' hn' hd => snsClass_vr_open hp hn hp' hn' hd
  case sample =>
    exact fun k vP vN s hcfg hmode hclass hsup hgnd hopen =>
      next_trkRow hmode (State.snsSample_good hcfg hmode hclass hsup hgnd hopen)

end Sys2Proof.Machine
end

section
/-! Edges from the front end to their update tick (R54, R55, R58, R70, R71, R84, R96, R380, R382). -/

namespace Sys2Proof.Machine

open Sys2Proof

/-! ### What the front end moves (R54 to R57) -/

@[simp] theorem State.regs_srcSet (s : State) (src : Nat) (up : Bool) : (s.srcSet src up).regs = s.regs := by
  unfold State.srcSet
  split
  · rfl
  · split <;> rfl

@[simp] theorem State.tr_srcSet (s : State) (src : Nat) (up : Bool) (k : Nat) : (s.srcSet src up).tr k = s.tr k := by
  unfold State.srcSet
  split
  · rfl
  · split <;> rfl

@[simp] theorem State.now_srcSet (s : State) (src : Nat) (up : Bool) : (s.srcSet src up).now = s.now := by
  unfold State.srcSet
  split
  · rfl
  · split <;> rfl

@[simp] theorem State.rd_srcSet (s : State) (src : Nat) (up : Bool) (a : Nat) : (s.srcSet src up).rd a = s.rd a :=
  State.rd_congr (s.regs_srcSet src up) a

@[simp] theorem State.f_srcSet (s : State) (src : Nat) (up : Bool) (y : Fld) : (s.srcSet src up).f y = s.f y :=
  State.f_congr (s.regs_srcSet src up) y

/-- A level moves no pair's edges. -/
theorem State.haveEdge_srcSet (s : State) (src : Nat) (up : Bool) (k : Nat) :
    ((s.srcSet src up).sn k).haveEdge = (s.sn k).haveEdge := by
  unfold State.srcSet
  split
  · rw [State.sn_setSn]
    split
    · rename_i h
      rw [h]
    · rfl
  · split <;> rfl

@[simp] theorem State.tr_takePeak (s : State) (src peak k : Nat) : (s.takePeak src peak).tr k = s.tr k := by
  unfold State.takePeak
  split <;> rfl

@[simp] theorem State.now_takePeak (s : State) (src peak : Nat) : (s.takePeak src peak).now = s.now := by
  unfold State.takePeak
  split <;> rfl

/-- The peak stands in the pair's own words, which lie above those of the trackers in a tracker's page. -/
theorem State.f_takePeak (s : State) (src peak : Nat) {y : Fld} (h : y.addr % 0x1000 < 0x200) : (s.takePeak src peak).f y = s.f y := by
  unfold State.takePeak
  split
  · refine State.f_setF_other s _ (.inl ?_)
    simp only [F.SNS_STAT_VR_PEAK, R.SNS_STAT]
    omega
  · rfl

/-- A peak moves no pair's edges. -/
theorem State.haveEdge_takePeak (s : State) (src peak k : Nat) : ((s.takePeak src peak).sn k).haveEdge = (s.sn k).haveEdge := by
  unfold State.takePeak
  split
  · rw [State.sn_setSn]
    split
    · rename_i h
      rw [h]
    · rfl
  · rfl

/-- A pin has no peak. -/
theorem State.takePeak_pin (s : State) {src : Nat} (peak : Nat) (h : 32 ≤ src) : s.takePeak src peak = s := by
  unfold State.takePeak State.isVr
  exact if_neg (by simp; omega)

/-- A pin has no mark of a pair's tooth. -/
theorem State.pairMark_pin (s : State) {src : Nat} (n : Nat) (idx : Bool) (stamp : Time) (h : 32 ≤ src) :
    s.pairMark src n idx stamp = s := by
  unfold State.pairMark
  exact if_neg (by simp; omega)

@[simp] theorem State.tr_pairMark (s : State) (src n : Nat) (idx : Bool) (stamp : Time) (k : Nat) :
    (s.pairMark src n idx stamp).tr k = s.tr k := by
  unfold State.pairMark
  dsimp only
  split <;> rfl

@[simp] theorem State.regs_pairMark (s : State) (src n : Nat) (idx : Bool) (stamp : Time) :
    (s.pairMark src n idx stamp).regs = s.regs := by
  unfold State.pairMark
  dsimp only
  split <;> rfl

/-- A pin has no teeth of a pair. -/
theorem State.pairTooth_pin (s : State) {src : Nat} (n : Nat) (idx : Bool) (stamp : Time) (up : Bool) (h : 32 ≤ src) :
    s.pairTooth src n idx stamp up = s := by
  unfold State.pairTooth
  exact if_pos (by simp [h])

/-- The first tooth of a pair is not yet measured, and moves no tracker (R63). -/
theorem State.tr_pairTooth_first (s : State) {src : Nat} (n : Nat) (idx : Bool) (stamp : Time) (up : Bool)
    (h : 32 ≤ src ∨ (s.sn src).haveEdge = false) (k : Nat) : (s.pairTooth src n idx stamp up).tr k = s.tr k := by
  rcases h with h | h
  · rw [s.pairTooth_pin n idx stamp up h]
  · unfold State.pairTooth
    dsimp only
    rw [h]
    split <;> rfl

/-! ### Tooth edges in VR and DIGITAL (R55 to R57, R70, R71) -/

/-- The moment at which the tooth input crossed, before the filter (R54). -/
def State.toothStamp (s : State) (n : Nat) : Time := s.now - BitVec.ofNat 48 (4 * s.f (F.WHL_FILT_TOOTH_GLITCH n))

/-- A level change on the tooth input of a tracker in VR or DIGITAL that is a tooth edge: held for the filter, delivered, to
the tooth level, of a VR pair armed; outside IDLE and not in OFF. -/
structure State.ToothTaken (s : State) (n : Nat) (x : Crossing) : Prop where
  held : 4 * s.f (F.WHL_FILT_TOOTH_GLITCH n) ≤ x.held
  awake : s.mode ≠ 3
  vrDigital : s.tmode n < 2
  atWork : (s.tr n).st ≠ .off
  taken : s.taken (s.f (F.WHL_IN_TOOTH_SRC n)) x = true
  level : s.toothLevel n (s.f (F.WHL_IN_TOOTH_SRC n)) (s.sensed (s.f (F.WHL_IN_TOOTH_SRC n)) x.rising) = true
  armed : s.arms n (s.f (F.WHL_IN_TOOTH_SRC n)) x.peak = true

/-- What the front end has moved before such an edge is judged: the input's level and the pair's peak. -/
def State.toothSeen (s : State) (n : Nat) (x : Crossing) : State :=
  ((s.srcSet (s.f (F.WHL_IN_TOOTH_SRC n)) x.rising).setTr n
    { s.tr n with lvA := s.sensed (s.f (F.WHL_IN_TOOTH_SRC n)) x.rising }).takePeak (s.f (F.WHL_IN_TOOTH_SRC n)) x.peak

theorem State.tr_toothSeen (s : State) (n : Nat) (x : Crossing) :
    (s.toothSeen n x).tr n = { s.tr n with lvA := s.sensed (s.f (F.WHL_IN_TOOTH_SRC n)) x.rising } := by
  unfold State.toothSeen
  rw [State.tr_takePeak, State.tr_setTr_same]

theorem State.now_toothSeen (s : State) (n : Nat) (x : Crossing) : (s.toothSeen n x).now = s.now := by
  unfold State.toothSeen
  rw [State.now_takePeak]
  exact s.now_srcSet _ _

theorem State.tmode_toothSeen (s : State) (n : Nat) (x : Crossing) : (s.toothSeen n x).tmode n = s.tmode n := by
  unfold State.toothSeen State.tmode
  rw [State.f_takePeak _ _ _ (by simp only [F.WHL_CFG_MODE, R.WHL_CFG]; omega), State.f_setTr_frame, State.f_srcSet]

/-- In VR and DIGITAL the crossing to the tooth level is a forward tooth edge. -/
theorem State.toothWay_active (s : State) (n : Nat) (lvl : Bool) {t : Tracker} (hm : s.tmode n < 2) (hoff : t.st ≠ .off) :
    s.toothWay n false lvl true t = some true := by
  have h2 : s.tmode n ≠ 2 := by omega
  have h3 : s.tmode n ≠ 3 := by omega
  unfold State.toothWay
  simp [hoff, h2, h3]

theorem State.toothCross_active (s : State) (n : Nat) (lvl : Bool) {t : Tracker} (stamp : Time) (hm : s.tmode n < 2)
    (hoff : t.st ≠ .off) : s.toothCross n false lvl true t stamp = s.acceptTooth n stamp true := by
  have h2 : s.tmode n ≠ 2 := by omega
  unfold State.toothCross
  rw [s.toothWay_active n lvl hm hoff]
  simp [h2]

/-- A tooth edge that is taken is judged once: noise, or accepted and then the end of the pair's tooth. -/
theorem State.toothEdge_taken {s : State} {n : Nat} {x : Crossing} (h : s.ToothTaken n x) :
    s.toothEdge n false x
      = if (s.toothSeen n x).toothNoise n (s.toothStamp n) true then (s.toothSeen n x).acceptTooth n (s.toothStamp n) true
        else ((s.toothSeen n x).acceptTooth n (s.toothStamp n) true).pairTooth (s.f (F.WHL_IN_TOOTH_SRC n)) n false (s.toothStamp n)
          (s.sensed (s.f (F.WHL_IN_TOOTH_SRC n)) x.rising) := by
  obtain ⟨hheld, hawake, hmode, hoff, htaken, hlevel, harms⟩ := h
  have hm : (s.toothSeen n x).tmode n < 2 := by rwa [s.tmode_toothSeen n x]
  unfold State.toothEdge
  extract_lets src g lvl active stamp t s1 s2 s3 noise
  have hactive : active = true := hlevel
  have hs2 : s2 = s.toothSeen n x := if_pos hactive
  have hnoise : noise = (s.toothSeen n x).toothNoise n stamp true := by
    unfold noise
    rw [hactive, hs2, State.toothWay_active _ n lvl hm hoff]
  have hs3 : s3 = (s.toothSeen n x).acceptTooth n stamp true := by
    unfold s3
    rw [hactive, hs2, State.toothCross_active _ n lvl stamp hm hoff]
  rw [if_neg, if_neg hawake, hactive, hnoise, hs3]
  · change (if (true && !(s.toothSeen n x).toothNoise n stamp true) = true then _ else _) = _
    cases h : (s.toothSeen n x).toothNoise n (s.toothStamp n) true
    · exact (if_pos (congrArg (true && !·) h)).trans (if_neg (Bool.false_ne_true)).symm
    · exact (if_neg (ne_true_of_eq_false (congrArg (true && !·) h))).trans (if_pos rfl).symm
  · have harms' : s.arms n src x.peak = true := harms
    have htaken' : s.taken src x = true := htaken
    have hheld' : g ≤ x.held := hheld
    simp only [hactive, htaken', harms', Bool.not_true, Bool.and_false, Bool.or_false, Bool.or_eq_true, decide_eq_true_eq]
    omega

/-- An edge close behind the last accepted one, or stamped before it, is noise whatever the state (R55, log entry 132). -/
theorem State.toothNoise_close {s : State} {n : Nat} {stamp : Time} (way : Bool) (hseen : (s.tr n).seen = true)
    (h : since stamp (s.tr n).edge < 125 ∨ since (s.tr n).edge stamp ≤ 252) : s.toothNoise n stamp way = true := by
  unfold State.toothNoise
  simp [hseen, h]

/-- The first edge is held against nothing. -/
theorem State.toothNoise_first {s : State} {n : Nat} (stamp : Time) (way : Bool) (hseen : (s.tr n).seen = false)
    (hedge : (s.tr n).haveEdge = false) : s.toothNoise n stamp way = false := by
  unfold State.toothNoise State.toothWindow
  simp [hseen, hedge]

theorem State.acceptTooth_noise {s : State} {n : Nat} {stamp : Time} {way : Bool} (h : s.toothNoise n stamp way = true) :
    s.acceptTooth n stamp way = s.bump (R.WHL_CNT_NOISE n) := by
  unfold State.acceptTooth
  exact if_pos h

/-- A tracker with the first edge it accepts, which waits for its update tick (R84, log entry 11). -/
def Tracker.firstEdge (t : Tracker) (stamp due : Time) : Tracker :=
  { t with seen := true, edge := stamp, stopBase := stamp, haveEdge := true, havePer := false, mark := none
           upds := [{ kind := .tooth, due := due, stamp := stamp, period := none, before := none
                      fwd := true, late := false, mprev := t.mark, angle := 0, quad := 0, overdue := false
                      noise := false }] }

/-- The first edge is no noise and opens no window. -/
theorem State.acceptTooth_first {s : State} {n : Nat} (stamp : Time) (hseen : (s.tr n).seen = false) (hedge : (s.tr n).haveEdge = false)
    (hupds : (s.tr n).upds = []) :
    s.acceptTooth n stamp true = s.setTr n ((s.tr n).firstEdge stamp (s.now + 120)) := by
  have hwin : s.toothWindow n true = false := by
    unfold State.toothWindow
    simp [hedge]
  unfold State.acceptTooth Tracker.firstEdge
  rw [if_neg (by simp [State.toothNoise_first stamp true hseen hedge])]
  simp [hedge, hupds, hwin]

/-- An edge that the tracker has not accepted reaches no stall (R130). -/
theorem State.toothRow_kept {s y : State} {n : Nat} {onB : Bool} {x : Crossing} (h : s.toothEdge n onB x = y)
    (hedge : (y.tr n).edge = (s.tr n).edge) (hseen : (y.tr n).seen = (s.tr n).seen) : s.toothRow n onB x = y.policy := by
  unfold State.toothRow
  rw [h]
  exact congrArg State.policy (if_neg (by simp [hedge, hseen]))

/-- A first edge reaches the stalls that select the tracker. -/
theorem State.toothRow_fed {s y : State} {n : Nat} {onB : Bool} {x : Crossing} (h : s.toothEdge n onB x = y)
    (hseen : (y.tr n).seen = true) (hbefore : (s.tr n).seen = false) :
    s.toothRow n onB x = (y.feedStalls n (y.tr n).edge).policy := by
  unfold State.toothRow
  rw [h]
  exact congrArg State.policy (if_pos (by simp [hseen, hbefore]))

/-- An edge taken as noise counts in CNT_NOISE and goes no further. -/
theorem State.toothRow_noise {s : State} {n : Nat} {x : Crossing} (h : s.ToothTaken n x) (hseen : (s.tr n).seen = true)
    (hclose : since (s.toothStamp n) (s.tr n).edge < 125 ∨ since (s.tr n).edge (s.toothStamp n) ≤ 252) :
    s.toothRow n false x = ((s.toothSeen n x).bump (R.WHL_CNT_NOISE n)).policy := by
  have htr := s.tr_toothSeen n x
  have hnoise : (s.toothSeen n x).toothNoise n (s.toothStamp n) true = true :=
    State.toothNoise_close true (by rw [htr]; exact hseen) (by rw [htr]; exact hclose)
  have hedge := State.toothEdge_taken h
  rw [if_pos hnoise, State.acceptTooth_noise hnoise] at hedge
  exact State.toothRow_kept hedge (by rw [State.tr_bump_frame, htr]) (by rw [State.tr_bump_frame, htr])

/-- The first edge of a tracker is accepted, ends a pair's tooth, and reaches the stalls. -/
theorem State.toothRow_first {s : State} {n : Nat} {x : Crossing} (h : s.ToothTaken n x) (hseen : (s.tr n).seen = false)
    (hedge : (s.tr n).haveEdge = false) (hupds : (s.tr n).upds = [])
    (hpair : 32 ≤ s.f (F.WHL_IN_TOOTH_SRC n) ∨ (s.sn (s.f (F.WHL_IN_TOOTH_SRC n))).haveEdge = false) :
    s.toothRow n false x = ((((s.toothSeen n x).setTr n (((s.toothSeen n x).tr n).firstEdge (s.toothStamp n) (s.now + 120))).pairTooth
      (s.f (F.WHL_IN_TOOTH_SRC n)) n false (s.toothStamp n) (s.sensed (s.f (F.WHL_IN_TOOTH_SRC n)) x.rising)).feedStalls n
        (s.toothStamp n)).policy := by
  have htr := s.tr_toothSeen n x
  have hseen' : ((s.toothSeen n x).tr n).seen = false := by rw [htr]; exact hseen
  have hedge' : ((s.toothSeen n x).tr n).haveEdge = false := by rw [htr]; exact hedge
  have hupds' : ((s.toothSeen n x).tr n).upds = [] := by rw [htr]; exact hupds
  have hrow := State.toothEdge_taken h
  rw [if_neg (by simp [State.toothNoise_first _ _ hseen' hedge']), State.acceptTooth_first _ hseen' hedge' hupds',
    s.now_toothSeen n x] at hrow
  have hpair' : ∀ t, 32 ≤ s.f (F.WHL_IN_TOOTH_SRC n)
      ∨ (((s.toothSeen n x).setTr n t).sn (s.f (F.WHL_IN_TOOTH_SRC n))).haveEdge = false := by
    refine fun t => hpair.imp id fun hsn => ?_
    unfold State.toothSeen
    rw [State.sn_setTr_frame, State.haveEdge_takePeak, State.sn_setTr_frame, State.haveEdge_srcSet, hsn]
  have hafter := State.tr_pairTooth_first _ n false (s.toothStamp n) (s.sensed (s.f (F.WHL_IN_TOOTH_SRC n)) x.rising)
    (hpair' (((s.toothSeen n x).tr n).firstEdge (s.toothStamp n) (s.now + 120))) n
  rw [State.tr_setTr_same] at hafter
  have hfed := State.toothRow_fed hrow (by rw [hafter]; rfl) hseen
  rwa [hafter] at hfed

/-- In IDLE the tooth input moves its level alone (R382). -/
theorem State.toothEdge_idle {s : State} (n : Nat) (onB : Bool) (x : Crossing) (h : s.mode = 3) :
    s.toothEdge n onB x = s
    ∨ ∃ src a b, s.toothEdge n onB x = (s.srcSet src x.rising).setTr n { s.tr n with lvA := a, lvB := b } := by
  unfold State.toothEdge
  extract_lets src g lvl active stamp t s1 s2 s3 noise
  rw [if_pos h]
  refine (Classical.em _).imp (fun hskip => if_pos hskip) fun htaken => ?_
  cases onB
  · exact ⟨src, lvl, t.lvB, if_neg htaken⟩
  · exact ⟨src, t.lvA, lvl, if_neg htaken⟩

/-! ### Index edges (R70, R71, R75) -/

/-- The moment at which the index input crossed, before the filter (R54). -/
def State.indexStamp (s : State) (n : Nat) : Time := s.now - BitVec.ofNat 48 (4 * s.f (F.WHL_FILT_IDX_GLITCH n))

/-- A level change on the index input of a tracker that is an index edge: held for the filter, delivered, to the active level,
of a VR pair armed; outside IDLE. -/
structure State.IndexTaken (s : State) (n : Nat) (x : Crossing) : Prop where
  held : 4 * s.f (F.WHL_FILT_IDX_GLITCH n) ≤ x.held
  awake : s.mode ≠ 3
  hasIndex : s.tmode n < 5
  taken : s.taken (s.f (F.WHL_IN_IDX_SRC n)) x = true
  level : s.idxLevel n (s.sensed (s.f (F.WHL_IN_IDX_SRC n)) x.rising) = true
  armed : s.arms n (s.f (F.WHL_IN_IDX_SRC n)) x.peak = true

/-- What the front end has moved before such an edge is judged. -/
def State.indexSeen (s : State) (n : Nat) (x : Crossing) : State :=
  (s.srcSet (s.f (F.WHL_IN_IDX_SRC n)) x.rising).takePeak (s.f (F.WHL_IN_IDX_SRC n)) x.peak

theorem State.tr_indexSeen (s : State) (n : Nat) (x : Crossing) (k : Nat) : (s.indexSeen n x).tr k = s.tr k := by
  unfold State.indexSeen
  rw [State.tr_takePeak, State.tr_srcSet]

theorem State.now_indexSeen (s : State) (n : Nat) (x : Crossing) : (s.indexSeen n x).now = s.now := by
  unfold State.indexSeen
  rw [State.now_takePeak, State.now_srcSet]

/-- At a pin it is no register. -/
theorem State.rd_indexSeen_pin (s : State) (n : Nat) (x : Crossing) (hpin : 32 ≤ s.f (F.WHL_IN_IDX_SRC n)) (a : Nat) :
    (s.indexSeen n x).rd a = s.rd a := by
  unfold State.indexSeen
  rw [State.takePeak_pin _ _ hpin, State.rd_srcSet]

/-- In SYNC no index edge is noise. -/
theorem State.idxEarly_sync {s : State} {n : Nat} (stamp : Time) (hst : (s.tr n).st = .sync) : s.idxEarly n stamp = false := by
  unfold State.idxEarly
  simp [hst]

theorem State.idxReject_sync {s : State} {n : Nat} (stamp : Time) (hst : (s.tr n).st = .sync) : s.idxReject n stamp = false := by
  unfold State.idxReject
  simp [hst]

/-- In SYNC an index edge is accepted, and at a pair the duty check follows (R63). -/
theorem State.indexEdge_taken {s : State} {n : Nat} {x : Crossing} (h : s.IndexTaken n x) (hst : (s.tr n).st = .sync) :
    s.indexEdge n x
      = ((s.indexSeen n x).acceptIndex n (s.indexStamp n) (4 * s.f (F.WHL_FILT_IDX_GLITCH n))).pairTooth (s.f (F.WHL_IN_IDX_SRC n)) n
          true (s.indexStamp n) (s.sensed (s.f (F.WHL_IN_IDX_SRC n)) x.rising) := by
  obtain ⟨hheld, hawake, hm, htaken, hlevel, harms⟩ := h
  have hst' : ((s.indexSeen n x).tr n).st = .sync := by rw [s.tr_indexSeen n x n]; exact hst
  unfold State.indexEdge
  extract_lets src g lvl stamp s1 s2
  have hjudge : ¬ (s1.idxEarly n stamp || s1.idxReject n stamp) = true := by
    have hearly : s1.idxEarly n stamp = false := State.idxEarly_sync stamp hst'
    have hreject : s1.idxReject n stamp = false := State.idxReject_sync stamp hst'
    rw [hearly, hreject]
    exact Bool.false_ne_true
  have hs2 : s2 = s1.acceptIndex n stamp g := if_neg (by simp [hst])
  rw [if_neg, if_neg hawake, if_neg hjudge, hs2]
  · rfl
  · simp only [src, g, lvl, htaken, hlevel, harms, Bool.not_true, Bool.or_false, Bool.or_eq_true, decide_eq_true_eq]
    omega

/-- It waits for its update tick with its stamp and quadrant, and moves no more of the tracker than its index input. -/
theorem State.acceptIndex_sync {s : State} {n : Nat} (stamp : Time) (g : Nat) (hst : (s.tr n).st = .sync) :
    ∃ (e : EdgeUpd) (t : Tracker), s.acceptIndex n stamp g = s.setTr n t ∧ t.upds = (s.tr n).upds ++ [e] ∧ e.kind = .index
      ∧ e.due = s.now + 120 ∧ e.stamp = stamp ∧ e.quad = 2 * toBit (s.tr n).lvB + toBit (s.tr n).lvA
      ∧ t.idxEdge = stamp ∧ t.a = (s.tr n).a ∧ t.st = .sync := by
  unfold State.acceptIndex
  extract_lets t e windowed reject s0 x t1
  have hreject : ¬ reject = true := ne_true_of_eq_false (State.idxReject_sync stamp hst)
  have hs0 : s0 = s := if_neg hreject
  have ht1 : t1 = { t with idxEdge := stamp, haveIdx := !t.dirNow, idxMark := none
                           idxPer := if t.haveIdx && !t.dirNow then e else 0 } := if_neg hreject
  rw [if_neg (ne_true_of_eq_false (State.idxEarly_sync stamp hst)), hs0, ht1]
  exact ⟨x, _, rfl, rfl, rfl, rfl, rfl, rfl, rfl, rfl, hst⟩

/-- The same of the edge that the front end delivers. -/
theorem State.acceptIndex_seen (s : State) (n : Nat) (x : Crossing) (hst : (s.tr n).st = .sync) :
    ∃ (e : EdgeUpd) (t : Tracker), (s.indexSeen n x).acceptIndex n (s.indexStamp n) (4 * s.f (F.WHL_FILT_IDX_GLITCH n))
        = (s.indexSeen n x).setTr n t ∧ t.upds = (s.tr n).upds ++ [e] ∧ e.kind = .index
      ∧ e.due = s.now + 120 ∧ e.stamp = s.indexStamp n ∧ e.quad = 2 * toBit (s.tr n).lvB + toBit (s.tr n).lvA
      ∧ t.idxEdge = s.indexStamp n ∧ t.a = (s.tr n).a ∧ t.st = .sync := by
  have htr := s.tr_indexSeen n x n
  have h := State.acceptIndex_sync (s := s.indexSeen n x) (s.indexStamp n) (4 * s.f (F.WHL_FILT_IDX_GLITCH n)) (by rw [htr]; exact hst)
  rwa [htr, s.now_indexSeen n x] at h

/-- The first trailing edge at a pin after an index edge that no check waits for gives its mark (R70, R75). -/
theorem State.indexTrailing_pin {s : State} {n : Nat} {x : Crossing} (hheld : 4 * s.f (F.WHL_FILT_IDX_GLITCH n) ≤ x.held)
    (hawake : s.mode ≠ 3) (hm : s.tmode n < 5) (hpin : 32 ≤ s.f (F.WHL_IN_IDX_SRC n))
    (htaken : s.taken (s.f (F.WHL_IN_IDX_SRC n)) x = true)
    (hlevel : s.idxLevel n (s.sensed (s.f (F.WHL_IN_IDX_SRC n)) x.rising) = false) (hidx : (s.tr n).haveIdx = true)
    (hmark : (s.tr n).idxMarkC = none) (hoff : (s.tr n).st ≠ .off) (hchk : (s.tr n).idxChk = none) (hjudge : (s.tr n).idxJudge = false) :
    s.indexTrailing n x = (s.srcSet (s.f (F.WHL_IN_IDX_SRC n)) x.rising).setTr n { s.tr n with
      idxMark := if (s.tr n).idxNoise then (s.tr n).idxMark else some (since (s.indexStamp n) (s.tr n).idxEdge)
      idxMarkC := some (s.idxMarkCounts n ((if 4 * s.f (F.WHL_FILT_IDX_GLITCH n) = 0 then (s.tr n).a
        else (s.tr n).hist.getD (4 * s.f (F.WHL_FILT_IDX_GLITCH n) - 1) (s.tr n).a) / 65536) (s.indexStamp n)) } := by
  unfold State.indexTrailing
  extract_lets src g t stamp s0 mk s1
  have hs0 : s0 = s.srcSet src x.rising := State.pairMark_pin _ n true stamp hpin
  have hchk' : t.idxChk = none := hchk
  rw [if_neg, if_neg hawake, if_neg (by simp [t, hmark, hoff, hidx])]
  · split
    next c hc => exact absurd (hchk'.symm.trans hc) nofun
    next =>
      rw [if_neg (ne_true_of_eq_false hjudge)]
      unfold s1
      rw [hs0]
      rfl
  · simp only [src, g, htaken, hlevel, Bool.not_true, Bool.or_false, Bool.or_eq_true, decide_eq_true_eq]
    omega

/-! ### The end of a pulse (R58) -/

/-- What the front end has moved when a pulse ends. -/
def State.pulseSeen (s : State) (n : Nat) (x : Crossing) : State :=
  let s1 := s.srcSet (s.f (F.WHL_IN_TOOTH_SRC n)) x.rising
  ((s1.setTr n { s1.tr n with lvA := s.sensed (s.f (F.WHL_IN_TOOTH_SRC n)) x.rising }).setUndo n {}).pairMark
    (s.f (F.WHL_IN_TOOTH_SRC n)) n false (s.toothStamp n)

theorem State.tr_pulseSeen (s : State) (n : Nat) (x : Crossing) :
    (s.pulseSeen n x).tr n = { s.tr n with lvA := s.sensed (s.f (F.WHL_IN_TOOTH_SRC n)) x.rising } := by
  unfold State.pulseSeen
  rw [State.tr_pairMark, State.tr_srcSet]
  exact State.tr_setTr_same _ _ _

theorem State.tr_pulseSeen_other (s : State) {n k : Nat} (x : Crossing) (hk : k ≠ n) : (s.pulseSeen n x).tr k = s.tr k := by
  unfold State.pulseSeen
  rw [State.tr_pairMark]
  refine (State.tr_setTr _ _ _ _).trans ?_
  rw [if_neg hk, State.tr_srcSet]

theorem State.rd_pulseSeen (s : State) (n : Nat) (x : Crossing) (a : Nat) : (s.pulseSeen n x).rd a = s.rd a := by
  unfold State.pulseSeen
  exact (State.rd_congr (State.regs_pairMark _ _ _ _ _) a).trans (State.rd_srcSet s _ _ a)

theorem State.f_pulseSeen (s : State) (n : Nat) (x : Crossing) (y : Fld) : (s.pulseSeen n x).f y = s.f y := by
  unfold State.f
  rw [s.rd_pulseSeen]

/-- The end of the pulse in hand classes it. -/
theorem State.pulseTrailing_taken {s : State} {n : Nat} {x : Crossing} {lead : Time}
    (hheld : 4 * s.f (F.WHL_FILT_TOOTH_GLITCH n) ≤ x.held) (hawake : s.mode ≠ 3) (hlead : (s.tr n).lead = some lead)
    (hm : s.tmode n = 2) (htaken : s.taken (s.f (F.WHL_IN_TOOTH_SRC n)) x = true)
    (hlevel : s.toothLevel n (s.f (F.WHL_IN_TOOTH_SRC n)) (s.sensed (s.f (F.WHL_IN_TOOTH_SRC n)) x.rising) = false) :
    s.pulseTrailing n x = (s.pulseSeen n x).pulseClass n (s.undoOf n) lead (s.toothStamp n) := by
  unfold State.pulseTrailing
  extract_lets src g at_ s0 s1 s2
  rw [if_neg, if_neg hawake, hlead]
  · rfl
  · simp only [src, g, htaken, hlevel, hm, Bool.not_true, Bool.or_false, ne_eq, not_true_eq_false, decide_false, decide_eq_true_eq]
    omega

/-- A pulse whose class is the direction it was processed in ends (R58). -/
theorem State.pulseClass_same {s : State} {n : Nat} {old : Tracker} {stamp at_ : Time}
    (hw : since at_ stamp ≤ 125 * s.f (F.WHL_PW_REV_MAX n))
    (hrev : (s.tr n).pulseRev = decide (125 * s.f (F.WHL_PW_FWD_MAX n) < since at_ stamp)) :
    s.pulseClass n old stamp at_ = s.setTr n { s.tr n with lead := none, leadSt := none } := by
  unfold State.pulseClass
  exact if_pos (by simp [hw, hrev])

/-- A pulse that is no tooth, and whose step no longer bears on the state, is noise. -/
theorem State.pulseClass_wide {s : State} {n : Nat} {old : Tracker} {stamp at_ : Time}
    (hw : 125 * s.f (F.WHL_PW_REV_MAX n) < since at_ stamp) (hupds : (s.tr n).upds = []) (hlead : (s.tr n).leadSt = none) :
    s.pulseClass n old stamp at_ = (s.setTr n { s.tr n with lead := none, leadSt := none }).bump (R.WHL_CNT_NOISE n) := by
  unfold State.pulseClass
  extract_lets t w rev tooth done ran mine s1 t1 retaken s2
  have htooth : tooth = false := decide_eq_false (Nat.not_le.mpr hw)
  have hmine : mine = false := by
    unfold mine t
    rw [hupds, hlead]
    rfl
  have hs1 : s1 = done := if_neg (ne_true_of_eq_false hmine)
  have hs2 : s2 = s1.bump (R.WHL_CNT_NOISE n) := if_pos (by rw [htooth]; rfl)
  rw [if_neg (by simp [htooth]), if_neg (by simp [hmine]), hs2, hs1]

/-! ### The update tick (R84, R96) -/

/-- The oldest waiting edge at its update tick: with a bad tack entry in use the tracker is lost, else the edge is applied, and
the bad learning entries that it has read are mended. -/
theorem State.lawUpdate_due {s : State} {n : Nat} {x : EdgeUpd} {xs : List EdgeUpd} (hupds : (s.tr n).upds = x :: xs)
    (hdue : s.reached x.due = true) :
    let s1 := s.setTr n { s.tr n with upds := xs }
    let pulse : Bool := decide (x.kind = .tooth ∧ (s.tr n).lead = some x.stamp)
    let s2 := if pulse then s1.setUndo n ((s1.tr n).beforeLead (s1.undoOf n)) else s1
    let s3 := s2.applyEdge n x
    let s4 := if pulse && decide ((s3.tr n).lead = some x.stamp) then s3.leadDone s1 n else s3
    s.lawUpdate n = if s1.patFails n then (s2.log .whlTackEcc n 0).setSt n .lost else s4.readCorr n (s4.readEntries n x.kind) := by
  intro s1 pulse s2 s3 s4
  have hpulse : pulse = (decide (x.kind = .tooth) && decide ((s.tr n).lead = some x.stamp)) := Bool.decide_and _ _
  have hpat : s2.patFails n = s1.patFails n := by
    unfold s2
    split <;> rfl
  unfold State.lawUpdate
  rw [hupds, ← hpat]
  unfold s4 s3 s2
  rw [hpulse]
  exact if_pos hdue

/-! ### The settlement -/

/-- Settles O23: each row comes down to what the front end has moved (`toothSeen`, `indexSeen`, `pulseSeen`), followed by the one
operation that the tracker is left with: the count of the noise, the queued edge, the mark, or the end of the pulse. That an
edge is accepted as it leaves the filter, 120 ticks before its update, is log entry 11; that one stamped before the last accepted
edge is noise is log entry 132. -/
theorem edgesAreAcceptedAtTheirStamps : Obligations.EdgesAreAcceptedAtTheirStamps := by
  unfold Obligations.EdgesAreAcceptedAtTheirStamps
  refine ⟨?tooth, ?idle, ?index, ?indexTrailing, ?pulseTrailing, ?law⟩
  case tooth =>
    intro n x s src g stamp lvl t s1 hheld hawake hm hoff htaken hlevel harms
    have h : s.ToothTaken n x := ⟨hheld, hawake, hm, hoff, htaken, hlevel, harms⟩
    refine ⟨fun hseen hclose => congrArg Host.Outcome.next (State.toothRow_noise h hseen hclose), fun hseen hedge hupds hpair => ?_⟩
    have hrow := State.toothRow_first h hseen hedge hupds hpair
    rw [s.tr_toothSeen n x] at hrow
    exact congrArg Host.Outcome.next hrow
  case idle =>
    intro n onB x s hmode
    rcases s.toothEdge_idle n onB x hmode with h | ⟨src, a, b, h⟩
    · exact ⟨s, congrArg Host.Outcome.next (State.toothRow_kept h rfl rfl), rfl, rfl, rfl, fun _ => rfl⟩
    · refine ⟨_, congrArg Host.Outcome.next (State.toothRow_kept h ?_ ?_), ?_, ?_, ?_, fun a => s.rd_srcSet src _ a⟩
      all_goals rw [State.tr_setTr_same]
  case index =>
    intro n x s src g stamp lvl hheld hawake hm hst htaken hlevel harms
    obtain ⟨e, t, haccept, hupds, hkind, hdue, hstamp, hquad, hedge, ha, hsync⟩ := s.acceptIndex_seen n x hst
    have hrow := State.indexEdge_taken ⟨hheld, hawake, hm, htaken, hlevel, harms⟩ hst
    refine ⟨_, e, congrArg (fun y => Host.Outcome.next (State.policy y)) hrow, ?_, hkind, hdue, hstamp, hquad, ?_, ?_, ?_,
      fun hpin => ⟨State.pairTooth_pin _ n true _ _ hpin, fun a => ?_⟩, fun k hk => ?_⟩
    all_goals rw [haccept]
    · rw [State.tr_setTr_same, hupds]
    · rw [State.tr_setTr_same, hedge]
      rfl
    · rw [State.tr_setTr_same, ha]
    · rw [State.tr_setTr_same, hsync]
    · exact s.rd_indexSeen_pin n x hpin a
    · rw [State.tr_setTr, if_neg hk, s.tr_indexSeen]
  case indexTrailing =>
    intro n x s src g stamp hheld hawake hm hpin htaken hlevel hidx hmark hoff hchk hjudge
    exact congrArg (fun y => Host.Outcome.next (State.policy y))
      (State.indexTrailing_pin hheld hawake hm hpin htaken hlevel hidx hmark hoff hchk hjudge)
  case pulseTrailing =>
    intro n x s lead src g lvl w hheld hawake hlead hm htaken hlevel
    have hrow := State.pulseTrailing_taken hheld hawake hlead hm htaken hlevel
    have htr := s.tr_pulseSeen n x
    refine ⟨fun hw hrev => ?_, fun hw hupds hleadSt => ?_⟩
    · rw [State.pulseClass_same (by rwa [State.f_pulseSeen]) (by rwa [htr, State.f_pulseSeen]), htr] at hrow
      refine ⟨_, congrArg (fun y => Host.Outcome.next (State.policy y)) hrow, State.tr_setTr_same _ _ _, fun k hk => ?_,
        fun a => s.rd_pulseSeen n x a⟩
      rw [State.tr_setTr, if_neg hk, s.tr_pulseSeen_other x hk]
    · rw [State.pulseClass_wide (by rwa [State.f_pulseSeen]) (by rw [htr]; exact hupds) (by rw [htr]; exact hleadSt)] at hrow
      refine ⟨_, congrArg (fun y => Host.Outcome.next (State.policy y)) hrow, ?_, ?_, fun a ha => ?_⟩
      · rw [State.tr_bump_frame, State.tr_setTr_same]
      · rw [State.rd_bump_same, State.rd_setTr_frame, s.rd_pulseSeen]
      · rw [State.rd_bump_other _ ha, State.rd_setTr_frame, s.rd_pulseSeen]
  case law =>
    intro n bad s x xs s0 s1 pulse s2 s3 s4 hawake hupds hdue
    have hrow : s0.lawUpdate n = if s1.patFails n then (s2.log .whlTackEcc n 0).setSt n .lost
        else s4.readCorr n (s4.readEntries n x.kind) := State.lawUpdate_due (s := s0) hupds hdue
    exact ⟨fun hgood => next_trkRow hawake (hrow.trans (if_neg (ne_true_of_eq_false hgood))),
      fun hbad => next_trkRow hawake (hrow.trans (if_pos hbad))⟩

end Sys2Proof.Machine
end

section
/-! Why O52 fails: the row of the SSI samples ends with the judgement of the tracker policy (R380), which writes SYS_MODE. -/

namespace Sys2Proof.Machine

open Sys2Proof

/-- In RUN, tracker 0 in SSI mode (R60): critical and allowed to limp (R380), it stands in LIMP with its search in the background
(R77), and trough 0 holds the two words of a sample. -/
def ssiLimping : State :=
  { ((((State.reset.setF F.SYS_MODE_MODE 4).setF F.SYS_TRK_CRIT_CRIT 1).setF F.SYS_TRK_LIMP_LIMP_OK 1).setF
      (F.WHL_CFG_MODE 0) 4).setB (F.TRG_CTL_EN 0) true with
    trk := [(0, { st := .limp })], trg := [(0, { w := 2 })] }

/-- It is a sound state, and meets what the statement asks of a sample that is pulled. -/
theorem ssiLimping_pulls : ssiLimping.Sound ∧ ssiLimping.mode = 4 ∧ ssiLimping.tmode 0 = 4 ∧ (ssiLimping.tr 0).st = .limp
    ∧ ssiLimping.f (F.WHL_SSI_TROUGH 0) = 0 ∧ ssiLimping.trgEn 0 = true ∧ 2 ≤ ssiLimping.trgReady 0
    ∧ ssiLimping.pullTurn 0 (trkAgent 0) = true ∧ ssiLimping.pool = [] := by decide +kernel

/-- The row takes the sample, and then the device from RUN to LIMP. -/
theorem ssiLimping_enters_limp : ∃ t, exec (.ssiSamplePull 0 false) ssiLimping = .next t ∧ t.mode = 5 := by
  refine ⟨_, rfl, ?_⟩
  decide +kernel

/-- Refutes O52: its last clause has SSI_SAMPLE_PULL leave every register as it was, but the row ends with the judgement of
R380; in `ssiLimping`, RUN with a critical tracker in LIMP, that moves SYS_MODE to LIMP. -/
theorem not_troughCommandsPushPullAndRelease : ¬ Obligations.TroughCommandsPushPullAndRelease := by
  unfold Obligations.TroughCommandsPushPullAndRelease
  rintro ⟨-, -, -, -, -, -, -, -, hssi⟩
  obtain ⟨-, hmode, htmode, hst, htrough, hen, hready, hturn, hpool⟩ := ssiLimping_pulls
  have hgood : ∀ k, (Sparse.get (fun _ => ({} : TrgWord)) ssiLimping.pool k).bad = false
      ∧ (Sparse.get (fun _ => ({} : TrgWord)) ssiLimping.pool k).poison = false := by
    intro k
    rw [hpool, Sparse.get_nil]
    exact ⟨rfl, rfl⟩
  have hpull := hssi 0 ssiLimping
  simp only [Fin.val_zero, htrough] at hpull
  obtain ⟨t, -, hnext, -, -, -, -, hrd, -⟩ := hpull htmode (by simp [hst]) (by simp [hst]) (by decide) hen hready (by simp [hmode])
    hturn (hgood _).1 (hgood _).2 (hgood _).1 (hgood _).2
  obtain ⟨u, hnext', hlimp⟩ := ssiLimping_enters_limp
  obtain rfl : t = u := Host.Outcome.next.inj (hnext.symm.trans hnext')
  have hkept : t.mode = ssiLimping.mode := by
    unfold State.mode State.f
    rw [hrd]
  omega

end Sys2Proof.Machine
end

section
/-! The tick of the trackers and of the slots, the law and the estimate (R84, R86, R111, R112, R122, R380, R382). -/

namespace Sys2Proof.Machine

open Sys2Proof

/-! ### The rows of a tick -/

/-- While the time base runs, outside IDLE, the trackers tick in order and the policy judges (R84, R380). -/
theorem State.trackerRow_awake {s : State} (hrun : s.tb.running = true) (hmode : s.mode ≠ 3) :
    s.trackerRow = (let s1 := overList (List.range 16) State.tickTracker s
      (if s1.now = s1.tb.t0 then s1.snapAll else s1).policy) := by
  unfold State.trackerRow
  exact if_neg (by simp [hrun, hmode])

/-- In IDLE the trackers stand still (R382). -/
theorem State.trackerRow_idle {s : State} (hmode : s.mode = 3) : s.trackerRow = s := by
  unfold State.trackerRow
  exact if_pos (by simp [hmode])

/-- While the time base runs the slots are tested, then the twin pairs, then the stalls (R111, R122). -/
theorem State.slotRow_running {s : State} (hrun : s.tb.running = true) :
    s.slotRow = (s.compareAll.twinCompare).stallCompare :=
  if_pos hrun

/-- Settles O16: what each row does while the time base runs, and what it does in IDLE. -/
theorem slotsCompareAndTrackersTick : Obligations.SlotsCompareAndTrackersTick := by
  unfold Obligations.SlotsCompareAndTrackersTick
  exact ⟨fun _ hrun hmode => congrArg Host.Outcome.next (State.trackerRow_awake hrun hmode),
    fun _ _ hmode => congrArg Host.Outcome.next (State.trackerRow_idle hmode),
    fun _ hrun => congrArg Host.Outcome.next (State.slotRow_running hrun)⟩

/-! ### One tick of the law and of the estimate (R86) -/

/-- The law step of R86: `q`, and one raw unit more when the remainder carries; in the tick of replacement `q` alone. -/
def Tracker.lawStep (t : Tracker) : Nat := if t.freshLaw then t.q else if t.den ≤ t.acc + t.rem then t.q + 1 else t.q

/-- How far the law has gone since it was replaced, this tick included. -/
def Tracker.lawGone (t : Tracker) : Nat := if t.freshLaw then t.gone else t.gone + t.lawStep

theorem Tracker.tick_gone (t : Tracker) (m : Nat) (c : Bool) : (t.tick m c).gone = t.lawGone := rfl

/-- Where the estimate is to go in this tick: the halt limit once the law has passed it, else the law. -/
def Tracker.target (t : Tracker) (m : Nat) : Nat :=
  if t.run < t.lawGone then t.h else if t.freshLaw then t.lam else (t.lam + t.lawStep) % m

theorem Tracker.lawStep_le (t : Tracker) : t.lawStep ≤ t.q + 1 := by
  unfold Tracker.lawStep
  split
  · omega
  · split <;> omega

theorem Tracker.target_lt {t : Tracker} {m : Nat} (hlam : t.lam < m) (hh : t.h < m) : t.target m < m := by
  unfold Tracker.target
  split
  · exact hh
  · split
    · exact hlam
    · exact Nat.mod_lt _ (by omega)

/-- Without a carry a law in use goes `q` and keeps its whole remainder. -/
theorem Tracker.tick_noCarry {t : Tracker} (m : Nat) (c : Bool) (hfresh : t.freshLaw = false) (hcarry : ¬ t.den ≤ t.acc + t.rem) :
    (t.tick m c).gone = t.gone + t.q ∧ (t.tick m c).acc = t.acc + t.rem := by
  simp [Tracker.tick, hfresh, hcarry]

/-- With a carry it goes one raw unit more, which leaves the remainder by `den`. -/
theorem Tracker.tick_carry {t : Tracker} (m : Nat) (c : Bool) (hfresh : t.freshLaw = false) (hcarry : t.den ≤ t.acc + t.rem) :
    (t.tick m c).gone = t.gone + (t.q + 1) ∧ (t.tick m c).acc = t.acc + t.rem - t.den := by
  simp [Tracker.tick, hfresh, hcarry]

/-- HALTED says that the law has gone past its run. -/
theorem Tracker.tick_halted (t : Tracker) (m : Nat) (c : Bool) : (t.tick m c).halted = true ↔ t.run < (t.tick m c).gone :=
  decide_eq_true_iff

/-- After a halt the target is the halt limit. -/
theorem Tracker.target_of_halted {t : Tracker} {m : Nat} {c : Bool} (h : (t.tick m c).halted = true) : t.target m = t.h :=
  if_pos (t.tick_gone m c ▸ (t.tick_halted m c).mp h)

/-- What a tick makes of the estimate: it stays, it catches up by four law steps towards a target further ahead, or it moves
to the target ahead of it. -/
theorem Tracker.tick_estimate (t : Tracker) (m : Nat) (c : Bool) :
    ((t.tick m c).a = t.a ∧ (t.tick m c).catching = false)
    ∨ ((t.tick m c).a = (t.a + 4 * t.lawStep) % m ∧ (t.tick m c).catching = true ∧ c = true
      ∧ ahead m t.a (t.target m) = true ∧ 4 * t.lawStep < fwd m t.a (t.target m))
    ∨ ((t.tick m c).a = t.target m ∧ (t.tick m c).catching = false ∧ ahead m t.a (t.target m) = true) := by
  have hcatching : (t.tick m c).catching
      = (ahead m t.a (t.target m) && c && decide (4 * t.lawStep < fwd m t.a (t.target m))) := rfl
  have ha : (t.tick m c).a = if !ahead m t.a (t.target m) then t.a
      else if (t.tick m c).catching then (t.a + 4 * t.lawStep) % m else t.target m := rfl
  cases hmoves : ahead m t.a (t.target m) with
  | false => exact .inl (by simp [ha, hcatching, hmoves])
  | true =>
    cases hcatch : (t.tick m c).catching with
    | false => exact .inr (.inr (by simp [ha, hmoves, hcatch]))
    | true =>
      have hparts := hcatching.symm.trans hcatch
      simp only [hmoves, Bool.true_and, Bool.and_eq_true, decide_eq_true_eq] at hparts
      exact .inr (.inl ⟨by simp [ha, hmoves, hcatch], rfl, hparts.1, rfl, hparts.2⟩)

/-! ### Distances on the wheel (R86) -/

/-- The forward distance to a point `d` further on is `d`. -/
theorem fwd_add_mod {m x d : Nat} (hx : x < m) (hd : d < m) : fwd m x ((x + d) % m) = d := by
  unfold fwd
  rw [if_neg (by omega), Nat.mod_eq_of_lt hx, Nat.mod_add_mod, show x + d + (m - x) = d + m by omega, Nat.add_mod_right,
    Nat.mod_eq_of_lt hd]

/-- A point between `x` and one ahead of it is ahead of `x`, or is `x`. -/
theorem ahead_of_lt_fwd {m x y d : Nat} (hx : x < m) (hy : ahead m x y = true) (hd : d < fwd m x y) :
    (x + d) % m = x ∨ ahead m x ((x + d) % m) = true := by
  simp only [ahead, Bool.and_eq_true, decide_eq_true_eq] at hy ⊢
  rw [fwd_add_mod hx (by omega)]
  rcases Nat.eq_zero_or_pos d with rfl | hpos
  · exact .inl (Nat.mod_eq_of_lt hx)
  · exact .inr (by omega)

/-- Settles O22: in each of the three things a tick makes of the estimate (`tick_estimate`) it stays or moves ahead; a step of
the catch-up falls short of a target that lies ahead. -/
theorem estimateNeverMovesBackward : Obligations.EstimateNeverMovesBackward := by
  unfold Obligations.EstimateNeverMovesBackward
  intro t m c ha hlam hh u
  have hhalted : u.halted = true ↔ t.run < u.gone := t.tick_halted m c
  rcases t.tick_estimate m c with ⟨hstay, hno⟩ | ⟨hstep, hyes, hc, hahead, hshort⟩ | ⟨hmove, hno, hahead⟩
  · exact ⟨.inl hstay, Nat.lt_of_le_of_lt (Nat.le_of_eq hstay) ha, hhalted, fun _ => .inl hstay,
      fun h => absurd (hno.symm.trans h) Bool.false_ne_true⟩
  · refine ⟨?_, Nat.lt_of_le_of_lt (Nat.le_of_eq hstep) (Nat.mod_lt _ (by omega)), hhalted, fun _ => .inr (.inr hyes),
      fun _ => ⟨hc, t.lawStep, t.lawStep_le, hstep⟩⟩
    rw [show u.a = _ from hstep]
    exact ahead_of_lt_fwd ha hahead hshort
  · refine ⟨.inr ?_, Nat.lt_of_le_of_lt (Nat.le_of_eq hmove) (Tracker.target_lt hlam hh), hhalted,
      fun h => .inr (.inl (hmove.trans (Tracker.target_of_halted h))), fun h => absurd (hno.symm.trans h) Bool.false_ne_true⟩
    rw [show u.a = _ from hmove]
    exact hahead

/-! ### The law over several ticks (R86) -/

/-- What `k` ticks make of a law: its rate stands, and what it has gone and still carries, in parts of a raw unit, has grown by
`k` times the rate. -/
structure Tracker.LawAfter (t : Tracker) (k : Nat) (u : Tracker) : Prop where
  fresh : u.freshLaw = false
  acc_lt : u.acc < t.den
  q_eq : u.q = t.q
  rem_eq : u.rem = t.rem
  den_eq : u.den = t.den
  run_eq : u.run = t.run
  h_eq : u.h = t.h
  total : t.den * u.gone + u.acc = t.den * t.gone + t.acc + k * (t.den * t.q + t.rem)

/-- One more tick: a carry turns `den` parts of the remainder into one raw unit gone. -/
theorem Tracker.LawAfter.tick {t u : Tracker} {k : Nat} (h : t.LawAfter k u) (hrem : t.rem < t.den) (m : Nat) (c : Bool) :
    t.LawAfter (k + 1) (u.tick m c) := by
  obtain ⟨hfresh, hacc, hq, hr, hden, hrun, hh, htotal⟩ := h
  suffices hnew : (u.tick m c).acc < t.den
      ∧ t.den * (u.tick m c).gone + (u.tick m c).acc = t.den * u.gone + u.acc + (t.den * t.q + t.rem) from
    ⟨rfl, hnew.1, hq, hr, hden, hrun, hh, by rw [hnew.2, htotal, Nat.add_one_mul, Nat.add_assoc]⟩
  by_cases hcarry : u.den ≤ u.acc + u.rem
  · obtain ⟨hgone', hacc'⟩ := Tracker.tick_carry m c hfresh hcarry
    rw [hr, hden] at hacc' hcarry
    rw [hgone', hacc', hq]
    rw [Nat.mul_add, Nat.mul_add_one]
    omega
  · obtain ⟨hgone', hacc'⟩ := Tracker.tick_noCarry m c hfresh hcarry
    rw [hr, hden] at hcarry
    rw [hgone', hacc', hq, hr]
    rw [Nat.mul_add]
    omega

/-- The law after `k` ticks of the tracker, by induction on `k`. -/
theorem Tracker.lawAfter_ticks {t : Tracker} (hfresh : t.freshLaw = false) (hacc : t.acc < t.den) (hrem : t.rem < t.den)
    (m : Nat) (c : Bool) (k : Nat) :
    t.LawAfter k ((List.range k).foldl (fun (x : Tracker) _ => x.tick m c) t) := by
  induction k with
  | zero => exact ⟨hfresh, hacc, rfl, rfl, rfl, rfl, rfl, by simp⟩
  | succ k ih =>
    rw [List.range_succ, List.foldl_append]
    exact ih.tick hrem m c

/-- Settles O21: over `den` ticks the law grows by a whole number of raw units, so modulo `den` its remainder is the
old one, and it has gone exactly that number. -/
theorem lawAdvancesExactly : Obligations.LawAdvancesExactly := by
  unfold Obligations.LawAdvancesExactly
  intro t m c hfresh hacc hrem u
  obtain ⟨-, hacc', hq, hr, hden, hrun, hh, htotal⟩ := Tracker.lawAfter_ticks hfresh hacc hrem m c t.den
  have hwhole : t.den * u.gone + u.acc = t.den * (t.gone + (t.q * t.den + t.rem)) + t.acc :=
    htotal.trans (by rw [Nat.mul_add t.den t.gone, Nat.mul_comm t.q, Nat.add_right_comm])
  have hkept : u.acc = t.acc := by
    have hmod := congrArg (· % t.den) hwhole
    simp only [Nat.mul_add_mod] at hmod
    rwa [Nat.mod_eq_of_lt hacc', Nat.mod_eq_of_lt hacc] at hmod
  have hgone : u.gone = t.gone + (t.q * t.den + t.rem) :=
    Nat.eq_of_mul_eq_mul_left (by omega : 0 < t.den) (by omega)
  exact ⟨hgone, hkept, hq, hr, hden, hrun, hh⟩

end Sys2Proof.Machine
end

section
/-! What the armer's bookkeeping leaves alone: the staged loads, the deferral lists and the slots (R104, R109, R110). -/

namespace Sys2Proof.Machine

open Sys2Proof

/-- From `s` to `t` the staged loads, the deferral lists and the slots are as they were. -/
structure State.LeavesLoads (s t : State) : Prop where
  points : t.points = s.points
  deferred : t.deferred = s.deferred
  slots : t.slots = s.slots

namespace State.LeavesLoads

variable {s t u : State}

theorem refl (s : State) : s.LeavesLoads s := ⟨rfl, rfl, rfl⟩

theorem trans (h : s.LeavesLoads t) (k : t.LeavesLoads u) : s.LeavesLoads u :=
  ⟨k.points.trans h.points, k.deferred.trans h.deferred, k.slots.trans h.slots⟩

theorem ite {c : Prop} [Decidable c] (ht : s.LeavesLoads t) (hu : s.LeavesLoads u) : s.LeavesLoads (if c then t else u) := by
  split
  · exact ht
  · exact hu

/-- A fold of an operation that leaves them leaves them. -/
theorem overList {α : Type} {f : State → α → State} (hf : ∀ x a, State.LeavesLoads x (f x a)) (l : List α) (s : State) :
    s.LeavesLoads (Machine.overList l f s) :=
  overList_rel refl trans hf l s

end State.LeavesLoads

/-! ### The shared operations -/

theorem State.note_leavesLoads (s : State) (a : Nat) (new : Word → Word) : s.LeavesLoads (s.note a new) := by
  unfold State.note
  split
  · exact .refl s
  · split <;> exact ⟨rfl, rfl, rfl⟩

theorem State.wr_leavesLoads (s : State) (a : Nat) (w : Word) : s.LeavesLoads (s.wr a w) := ⟨rfl, rfl, rfl⟩

theorem State.setB_leavesLoads (s : State) (x : Fld) (v : Bool) : s.LeavesLoads (s.setB x v) :=
  (State.LeavesLoads.ite (s.note_leavesLoads x.addr _) (.refl s)).trans (State.wr_leavesLoads _ _ _)

theorem State.bumpBy_leavesLoads (s : State) (a k : Nat) : s.LeavesLoads (s.bumpBy a k) :=
  (s.note_leavesLoads a (countUp k)).trans (State.wr_leavesLoads _ _ _)

theorem State.pulse_leavesLoads (s : State) (g : Nat) : s.LeavesLoads (s.pulse g) :=
  (State.LeavesLoads.ite (s.note_leavesLoads (latchKey g) _) (.refl s)).trans ⟨rfl, rfl, rfl⟩

theorem State.log_leavesLoads (s : State) (c : LogCode) (x d : Nat) : s.LeavesLoads (s.log c x d) := by
  unfold State.log
  split
  · exact (s.bumpBy_leavesLoads R.LOG_LOST 1).trans ⟨rfl, rfl, rfl⟩
  · exact ⟨rfl, rfl, rfl⟩

theorem State.logOnceFor_leavesLoads (s : State) (c : LogCode) (k x d : Nat) : s.LeavesLoads (s.logOnceFor c k x d) := by
  unfold State.logOnceFor
  split
  · exact .refl s
  · exact (s.log_leavesLoads c x d).trans ⟨rfl, rfl, rfl⟩

theorem State.setEs_leavesLoads (s : State) (e : Nat) (x : EntrySt) : s.LeavesLoads (s.setEs e x) := ⟨rfl, rfl, rfl⟩

theorem State.setTe_leavesLoads (s : State) (n : Nat) (x : TrkEv) : s.LeavesLoads (s.setTe n x) := ⟨rfl, rfl, rfl⟩

/-! ### The sheds' counters and sources, and the participants (R41, R109, R122) -/

theorem State.bumpShed_leavesLoads (s : State) (r : Nat → Nat) (sh k : Nat) : s.LeavesLoads (s.bumpShed r sh k) :=
  .ite ((s.bumpBy_leavesLoads (r sh) k).trans (State.bumpBy_leavesLoads _ _ _)) (s.bumpBy_leavesLoads (r sh) k)

theorem State.pulseShed_leavesLoads (s : State) (sh k : Nat) : s.LeavesLoads (s.pulseShed sh k) :=
  .ite ((s.pulse_leavesLoads (priv sh k)).trans (State.pulse_leavesLoads _ _)) (s.pulse_leavesLoads (priv sh k))

theorem State.noSlot_leavesLoads (s : State) (sh e : Nat) : s.LeavesLoads (s.noSlot sh e) :=
  ((s.bumpShed_leavesLoads R.SHD_EVT_NOSLOT sh 1).trans (State.pulseShed_leavesLoads _ sh 9)).trans
    (State.logOnceFor_leavesLoads _ _ _ _ _)

theorem State.doneTick_leavesLoads (s : State) (n p d : Nat) : s.LeavesLoads (s.doneTick n p d) := by
  have hwords : ∀ a b w v new, s.LeavesLoads (((s.wr a w).note b new).wr b v) := fun a b w v new =>
    ((s.wr_leavesLoads a w).trans (State.note_leavesLoads _ b new)).trans (State.wr_leavesLoads _ b v)
  unfold State.doneTick
  exact .ite (((hwords _ _ _ _ _).trans ((State.note_leavesLoads _ _ _).trans (State.wr_leavesLoads _ _ _))).trans
    (State.pulse_leavesLoads _ 228)) (hwords _ _ _ _ _)

theorem State.partDone_leavesLoads (s : State) (n : Nat) : s.LeavesLoads (s.partDone n) := by
  unfold State.partDone State.partDoneAt
  exact .ite (.refl s) ((State.LeavesLoads.ite (.refl s) (s.doneTick_leavesLoads n _ _)).trans ⟨rfl, rfl, rfl⟩)

/-- A done tick of a participant writes its own words alone. -/
theorem State.rd_doneTick (s : State) {n a : Nat} (p d : Nat) (hused : a ≠ R.TB_USED n) (hpeak : a ≠ R.TB_PEAK n)
    (hwarn : a ≠ R.TB_WARN) : (s.doneTick n p d).rd a = s.rd a := by
  unfold State.doneTick
  extract_lets d' peak s1
  have hs1 : s1.rd a = s.rd a := by
    rw [State.rd_wr_other _ _ hpeak, State.rd_note_frame, State.rd_wr_other _ _ hused]
  split
  · rw [State.rd_pulse_frame, State.rd_flag_other _ _ hwarn, hs1]
  · exact hs1

theorem State.rd_partDone (s : State) {n a : Nat} (hused : a ≠ R.TB_USED n) (hpeak : a ≠ R.TB_PEAK n) (hwarn : a ≠ R.TB_WARN) :
    (s.partDone n).rd a = s.rd a := by
  unfold State.partDone State.partDoneAt
  extract_lets x
  split
  · rfl
  · rw [State.rd_setPart_frame]
    split
    · rfl
    · exact s.rd_doneTick _ _ hused hpeak hwarn

end Sys2Proof.Machine
end

section
/-! Loads into the slots and the ends placed for a slot (R108, R109, R112, R123). -/

namespace Sys2Proof.Machine

open Sys2Proof

/-! ### Loads (R108, R109) -/

/-- The slot that a load takes: a free one with none free below it. -/
theorem State.freeSlot_eq_some {s : State} {sh k : Nat} (hk : k < 64) (hfree : (s.sl (slotKey sh k)).st = .free)
    (hlow : ∀ j, j < k → (s.sl (slotKey sh j)).st ≠ .free) : s.freeSlot sh = some k :=
  List.find?_range_eq_some.mpr ⟨by simp [hfree], List.mem_range.mpr hk, fun j hj => by simp [hlow j hj]⟩

/-- No slot is free. -/
theorem State.freeSlot_eq_none {s : State} {sh : Nat} (hfull : ∀ j, j < 64 → (s.sl (slotKey sh j)).st ≠ .free) :
    s.freeSlot sh = none :=
  List.find?_eq_none.mpr fun j hj => by simp [hfull j (List.mem_range.mp hj)]

/-- Settles O17: the two answers of the search for the lowest free slot. -/
theorem loadsTakeTheLowestFreeSlot : Obligations.LoadsTakeTheLowestFreeSlot := by
  unfold Obligations.LoadsTakeTheLowestFreeSlot
  intro s sh p
  refine ⟨fun k hk hfree hlow => ?_, fun hfull => ?_⟩
  · unfold State.loadPoint
    rw [State.freeSlot_eq_some hk hfree hlow]
  · unfold State.loadPoint
    rw [State.freeSlot_eq_none hfull]

/-! ### Ends (R112, R123) -/

/-- Without an injection armed an action is placed as it is. -/
theorem State.inject_off {s : State} (sh slot : Nat) (t : Fine) (hgo : s.b F.EVT_TWIN_INJECT_GO = false) :
    s.inject sh slot t = (t, s) := by
  unfold State.inject
  rw [hgo]
  rfl

/-- A shed that is no check shed hands its actions to their targets. -/
theorem State.placed_putAct {s : State} {a : Act} (hcheck : s.isCheck a.sh = false) : (s.putAct a).placed = s.placed ++ [a] := by
  unfold State.putAct
  rw [hcheck]
  rfl

@[simp] theorem State.sl_putAct (s : State) (a : Act) (k : Nat) : (s.putAct a).sl k = s.sl k := by
  unfold State.putAct
  split <;> rfl

/-- Where an end found on time is placed: as it is, or 3 ticks after the start where it falls in the start's own tick. -/
def Slot.endFor (x : Slot) (total : Fine) : Fine := if tickOf total = tickOf x.startAt then x.startAt + 96 else total

/-- The end action of what a slot holds, placed at `t`. -/
def State.endAct (s : State) (sh slot : Nat) (t : Fine) : Act :=
  ⟨sh, slot, t, true, (s.sl (slotKey sh slot)).ev, (s.sl (slotKey sh slot)).entry⟩

/-- An ACTIVE slot takes an end at `t`. -/
def State.takeEnd (s : State) (sh slot : Nat) (t : Fine) : State :=
  (s.setSl (slotKey sh slot) { s.sl (slotKey sh slot) with endAt := some t }).putAct (s.endAct sh slot t)

/-- An end found on time for an ACTIVE slot without an injection: the first one is taken, and a further one where it is placed
earlier. -/
theorem State.placeEnd_active {s : State} {sh slot : Nat} (total : Fine) (hst : (s.sl (slotKey sh slot)).st = .active)
    (hgo : s.b F.EVT_TWIN_INJECT_GO = false) :
    let t := (s.sl (slotKey sh slot)).endFor total
    ((s.sl (slotKey sh slot)).endAt = none → s.placeEnd sh slot total false = s.takeEnd sh slot t)
    ∧ ∀ e, (s.sl (slotKey sh slot)).endAt = some e →
      s.placeEnd sh slot total false = if earlier t e then (s.dropEnds sh slot).takeEnd sh slot t else s := by
  unfold State.placeEnd
  dsimp only
  rw [if_neg (fun hne => hne hst)]
  simp only [State.inject_off _ _ _ hgo, Bool.false_and, Bool.or_false, decide_eq_true_eq]
  exact ⟨fun h => by rw [h]; rfl, fun e h => by rw [h]; rfl⟩

/-- What the slot and the queue hold once an end is taken. -/
theorem State.takeEnd_effect {s : State} {sh slot : Nat} (t : Fine) (hcheck : s.isCheck sh = false) :
    ((s.takeEnd sh slot t).sl (slotKey sh slot)).endAt = some t
    ∧ (s.takeEnd sh slot t).placed = s.placed ++ [s.endAct sh slot t] := by
  refine ⟨?_, State.placed_putAct hcheck⟩
  unfold State.takeEnd
  rw [State.sl_putAct, State.sl_setSl_same]

/-- Once the ends of a slot are taken out of the queue, a new one is its only one. -/
theorem State.ends_dropEnds (s : State) (sh slot : Nat) (t : Fine) :
    ((s.dropEnds sh slot).placed ++ [s.endAct sh slot t]).filter (fun a => a.sh == sh && a.slot == slot && a.isEnd)
      = [s.endAct sh slot t] := by
  simp [State.dropEnds, State.endAct, List.filter_filter]

/-- Settles O18: the three answers of `placeEnd_active`. -/
theorem anInstanceTakesTheEarliestEnd : Obligations.AnInstanceTakesTheEarliestEnd := by
  unfold Obligations.AnInstanceTakesTheEarliestEnd
  intro s sh slot total hst hcheck hgo x t
  obtain ⟨hfirst, hfurther⟩ := State.placeEnd_active total hst hgo
  refine ⟨fun e he hearly => ?_, fun e he hlate => ?_, fun he => ?_⟩
  · obtain ⟨hend, hplaced⟩ := State.takeEnd_effect (s := s.dropEnds sh slot) (slot := slot) t hcheck
    rw [(hfurther e he).trans (if_pos hearly)]
    exact ⟨hend, (congrArg _ hplaced).trans (s.ends_dropEnds sh slot t)⟩
  · exact (hfurther e he).trans (if_neg (Bool.eq_false_iff.mp hlate))
  · rw [hfirst he]
    exact State.takeEnd_effect t hcheck

end Sys2Proof.Machine
end

section
/-! The scan of one entry (R103, R105, R106, R110). -/

namespace Sys2Proof.Machine

open Sys2Proof

/-- The scan goes on to an entry's due points: its tracker is to be scanned, its words are good, it is valid, not spent, and
in no slot or deferral list yet (R103, R104, R106, R110). -/
structure State.MayStage (s : State) (e : Nat) : Prop where
  armed : (s.snapOf (s.entry e).trk).arm = true
  ready : (s.te (s.entry e).trk).waiting = false
  stored : (s.es e).ecc = false
  valid : s.entryBad (s.entry e) = false
  owned : s.pinRefused (s.entry e) = false
  fresh : (s.es e).spent = false
  alone : s.hasInstance e = false

/-- One point of an entry staged on its home shed. -/
def State.stagePoint (s : State) (e : Nat) (p : Nat × Nat) : State :=
  { s with points := s.points ++ [((s.entry e).home, ⟨e, p.1, p.2, !(s.es e).examined⟩)] }

/-- A choice between two at every step of a fold ends with one of the list. -/
theorem foldl_either_mem {α : Type} {f : α → α → α} (hf : ∀ b q, f b q = b ∨ f b q = q) (p : α) (ps : List α) :
    ps.foldl f p ∈ p :: ps :=
  List.foldlRecOn ps f List.mem_cons_self fun b hb q hq => by
    rcases hf b q with h | h
    · rwa [h]
    · rw [h]
      exact List.mem_cons_of_mem p hq

/-- What the scan of an entry does with its loads: nothing, or one of the entry's points is staged where it may be. -/
theorem State.scanEntry_cases (s : State) (e : Nat) :
    s.LeavesLoads (s.scanEntry e)
    ∨ (s.MayStage e ∧ ∃ p ∈ s.pointsOf (s.entry e), (s.stagePoint e p).LeavesLoads (s.scanEntry e)) := by
  unfold State.scanEntry
  extract_lets ev n x c sBad s1 as due t rearm skip s2 left
  have hs2 : s.LeavesLoads s2 := .ite (s.setEs_leavesLoads e _)
    ((s.setEs_leavesLoads e _).trans (State.bumpShed_leavesLoads _ _ _ _))
  have hleft : ∀ q ∈ left, q ∈ s.pointsOf ev := fun q hq => (List.mem_filter.mp (List.mem_filter.mp hq).1).1
  clear_value s2 left
  split
  case isTrue => exact .inl (.refl s)
  case isFalse hscan =>
    split
    case isTrue =>
      exact .inl (.ite (s.setEs_leavesLoads e _) (((s.setEs_leavesLoads e _).trans (State.bumpShed_leavesLoads _ _ _ _)).trans
        ((State.pulseShed_leavesLoads _ _ _).trans (State.log_leavesLoads _ _ _ _))))
    case isFalse hvalid =>
      split
      case isTrue => exact .inl (s.setEs_leavesLoads e _)
      case isFalse hspent =>
        split
        case isTrue => exact .inl (.ite hs2 (hs2.trans (State.bumpShed_leavesLoads _ _ _ _)))
        case isFalse halone =>
          cases left with
          | nil => exact .inl hs2
          | cons p ps =>
            simp only [Bool.or_eq_true, Bool.not_eq_true', not_or, Bool.not_eq_false, Bool.not_eq_true] at hscan hvalid
            obtain ⟨⟨harmed, hready⟩, hstored⟩ := hscan
            have hbest : ps.foldl (fun b q => if fwd c as q.2 < fwd c as b.2 then q else b) p ∈ p :: ps :=
              foldl_either_mem (fun b q => by
                split
                · exact .inr rfl
                · exact .inl rfl) p ps
            have hstaged : ∀ q : Nat × Nat, (s.stagePoint e q).LeavesLoads
                { s2 with points := s2.points ++ [(ev.home, ⟨e, q.1, q.2, !x.examined⟩)] } :=
              fun q => ⟨congrArg (· ++ _) hs2.points, hs2.deferred, hs2.slots⟩
            exact .inr ⟨⟨harmed, hready, hstored, hvalid.1, hvalid.2, Bool.eq_false_iff.mpr hspent, Bool.eq_false_iff.mpr halone⟩,
              _, hleft _ hbest, .ite (hstaged _) ((hstaged _).trans (State.bumpShed_leavesLoads _ _ _ _))⟩

/-- Settles O26: the two things the scan of an entry does (`scanEntry_cases`). -/
theorem aScanStagesAtMostOnePointOfAnEntry : Obligations.AScanStagesAtMostOnePointOfAnEntry := by
  unfold Obligations.AScanStagesAtMostOnePointOfAnEntry
  intro s e
  rcases s.scanEntry_cases e with hleft | ⟨hmay, p, hp, hstaged⟩
  · exact ⟨.inl hleft.points, fun _ => hleft.points, hleft.deferred, hleft.slots⟩
  · refine ⟨.inr ⟨p, hp, hstaged.points⟩, fun hno => ?_, hstaged.deferred, hstaged.slots⟩
    obtain ⟨harmed, hready, hstored, hvalid, howned, hfresh, halone⟩ := hmay
    simp [harmed, hready, hstored, hvalid, howned, hfresh, halone] at hno

end Sys2Proof.Machine
end

section
/-! The actions of the slots at the pins (R114, R124, Table 5.2). -/

namespace Sys2Proof.Machine

open Sys2Proof

/-- The command's kind is that of the action that is due for it. -/
theorem State.action_of_actDue {s : State} {sh slot type action : Nat} {a : Act} (h : s.actDue sh slot type action = some a) :
    a.ev.action = action := by
  have hkind := List.find?_some h
  simp only [Bool.and_eq_true, beq_iff_eq] at hkind
  exact hkind.1.2

/-- A due action acts once it has left the queue. -/
theorem State.act_due {s : State} {sh slot type action : Nat} {a : Act} (f : State → Act → State)
    (h : s.actDue sh slot type action = some a) : s.act sh slot type action f = f { s with placed := s.placed.erase a } a := by
  unfold State.act
  rw [h]

/-- The pin of an action takes the level it asks for: tick and level are noted, and an edge is made where the level held at the
placed time is another one. -/
def State.pinTake (s : State) (a : Act) (want : Bool) : State :=
  let p := a.ev.target
  let at_ := s.atCell p a.at_
  let s1 := s.setPin p { s.pin p with actTick := some (tickOf at_), actWant := want }
  if want = s.levelAt p at_ then s1.pinHold p else s1.pinEdge p at_ want

/-- An action at a free pin of its shed that meets no other in its tick: the pin takes the level it asks for. -/
theorem State.pinAct_sole {s : State} {a : Act} (hfree : s.pinFree a.ev.target = true)
    (hown : s.pinOfShed a.ev.target a.sh = true)
    (htick : (s.pin a.ev.target).actTick ≠ some (tickOf (s.atCell a.ev.target a.at_)))
    (hsole : s.placed.find? (fun b => b.ev.tgtType == 0 && b.ev.target == a.ev.target && b.sh == a.sh && decide (b.slot < a.slot)
      && tickOf (s.atCell a.ev.target b.at_) == tickOf (s.atCell a.ev.target a.at_)) = none) :
    s.pinAct a = s.pinTake a (askedLevel a.ev.action a.isEnd
      (s.levelAt a.ev.target (fineOf (tickOf (s.atCell a.ev.target a.at_)) 0 - 1))) := by
  unfold State.pinAct
  dsimp only
  rw [if_neg (by simp [hfree, hown]), if_neg htick, hsole]
  rfl

/-- Settles O19: each pin action is due alone at its pin, so `pinAct_sole` applies with the level its kind asks for. -/
theorem pinActionsDriveTheirEdges : Obligations.PinActionsDriveTheirEdges := by
  unfold Obligations.PinActionsDriveTheirEdges
  intro sh slot s a hfree hown p at_ htick hsole old go
  have acts : ∀ k, s.actDue sh slot 0 k = some a → s.act sh slot 0 k State.pinAct = go (askedLevel k a.isEnd old) := by
    intro k hdue
    have htakes := State.pinAct_sole (s := { s with placed := s.placed.erase a }) hfree hown htick hsole
    rw [State.act_due _ hdue, htakes, State.action_of_actDue hdue]
    rfl
  exact ⟨fun h => congrArg Host.Outcome.next (acts 0 h), fun h => congrArg Host.Outcome.next (acts 1 h),
    fun h => congrArg Host.Outcome.next (acts 2 h), fun h => congrArg Host.Outcome.next (acts 3 h),
    fun h => congrArg Host.Outcome.next (acts 4 h), fun h => congrArg Host.Outcome.next (acts 5 h)⟩

end Sys2Proof.Machine
end

section
/-! ARMER_SCAN, the forced ends and the stall of a tracker (R100, R104 to R106, R112, R117). -/

namespace Sys2Proof.Machine

open Sys2Proof

/-! ### The check bits that a scan meets (R104) -/

/-- Of the registers they count the corrected errors alone. -/
theorem State.rd_scanFound (s : State) (found : List (Nat × Bool)) {a : Nat} (h : a ≠ R.EVT_ECC_CNT) :
    (s.scanFound found).rd a = s.rd a :=
  overList_leaves (fun x => x.rd a) (fun x e => by
    dsimp only
    split
    · rfl
    · exact x.rd_bump_other h) found s

theorem State.tb_scanFound (s : State) (found : List (Nat × Bool)) : (s.scanFound found).tb = s.tb :=
  overList_leaves State.tb (fun x e => by
    dsimp only
    split
    · rfl
    · exact State.tb_bump_frame x _) found s

/-- The mode does not move, nor the enable of the armer, nor the ramp. -/
theorem State.f_scanFound (s : State) (found : List (Nat × Bool)) {y : Fld} (h : y.addr ≠ R.EVT_ECC_CNT) :
    (s.scanFound found).f y = s.f y := by
  unfold State.f
  rw [s.rd_scanFound found h]

theorem State.b_scanFound (s : State) (found : List (Nat × Bool)) {y : Fld} (h : y.addr ≠ R.EVT_ECC_CNT) :
    (s.scanFound found).b y = s.b y := by
  unfold State.b
  rw [s.f_scanFound found h]

theorem State.running_scanFound (s : State) (found : List (Nat × Bool)) : (s.scanFound found).running = s.running := by
  unfold State.running State.mode
  rw [s.f_scanFound found (by decide)]

theorem State.scanFound_leavesLoads (s : State) (found : List (Nat × Bool)) : s.LeavesLoads (s.scanFound found) :=
  .overList (fun x _ => .ite (x.setEs_leavesLoads _ _) (x.bumpBy_leavesLoads _ 1)) found s

theorem State.scanBad_leavesLoads (s : State) : s.LeavesLoads s.scanBad :=
  .overList (fun x _ => (((x.wr_leavesLoads _ _).trans (State.setB_leavesLoads _ _ true)).trans
    (State.setB_leavesLoads _ _ false)).trans (State.logOnceFor_leavesLoads _ _ _ _ _)) _ s

/-! ### The scan (R105, R106) -/

theorem State.scanFront_leavesLoads (s : State) (n : Nat) : s.LeavesLoads (s.scanFront n) :=
  .ite (s.setTe_leavesLoads n _) (s.setTe_leavesLoads n _)

/-- The scan up to its entries: the double-bit errors reported, the fronts set, the deferral lists gone through. -/
def State.scanLists (s : State) : State :=
  (overList (List.range 16) State.scanFront { s.scanBad with points := [] }).scanDeferred

/-- The points dropped from the deferral lists are counted; nothing is staged for them. -/
theorem State.scanDeferred_loads (s : State) : s.scanDeferred.points = s.points ∧ s.scanDeferred.slots = s.slots := by
  unfold State.scanDeferred
  extract_lets gone lost
  have hlost := State.LeavesLoads.overList (f := fun s (e : Nat × Point) => s.noSlot e.1 e.2.entry)
    (fun x e => x.noSlot_leavesLoads e.1 e.2.entry) lost { s with deferred := s.deferred.filter (fun e => !gone e) }
  exact ⟨hlost.points, hlost.slots⟩

/-- Nothing is staged by then, and the slots stay. -/
theorem State.scanLists_loads (s : State) : s.scanLists.points = [] ∧ s.scanLists.slots = s.slots := by
  have hfront := State.LeavesLoads.overList State.scanFront_leavesLoads (List.range 16) { s.scanBad with points := [] }
  obtain ⟨hpoints, hslots⟩ := (overList (List.range 16) State.scanFront { s.scanBad with points := [] }).scanDeferred_loads
  exact ⟨hpoints.trans hfront.points, (hslots.trans hfront.slots).trans s.scanBad_leavesLoads.slots⟩

/-- The end of a scan: the staged loads are counted and its ticks noted. -/
def State.scanNoted (s : State) (phase : Nat) : State :=
  (s.setF F.EVT_ARM_STAGED_COUNT s.points.length).setF F.EVT_ARM_STAT_SCAN_TICKS (min 1100 (phase - 200))

/-- The scan takes its entries where loads are staged. -/
theorem State.scanAll_eq (s : State) :
    s.scanAll = (overList (if s.running && s.b F.EVT_ARM_CFG_ARM_EN && !s.b F.PWR_STAT_RAMP then s.scanLists.enabledEntries
      else []) State.scanEntry s.scanLists).scanNoted s.tb.phase := rfl

theorem State.scanAll_arms {s : State} (hrun : s.running = true) (hen : s.b F.EVT_ARM_CFG_ARM_EN = true)
    (hramp : s.b F.PWR_STAT_RAMP = false) :
    s.scanAll = (overList s.scanLists.enabledEntries State.scanEntry s.scanLists).scanNoted s.tb.phase := by
  rw [State.scanAll_eq, if_pos (by simp [hrun, hen, hramp])]

theorem State.scanAll_idle {s : State} (hrun : s.running = false) : s.scanAll = s.scanLists.scanNoted s.tb.phase := by
  rw [State.scanAll_eq, if_neg (by simp [hrun]), overList, List.foldl_nil]

/-- In the compute phase, with the armer's work in hand, the row scans and signals done. -/
theorem exec_armerScan {s : State} (found : List (Fin 8192 × Bool)) (hstart : s.tb.started = true)
    (hprep : s.tb.prepared = false) (hbusy : (s.part 16).busy = true) :
    exec (.armerScan found) s = .next (((s.scanFound (found.map (fun e => (e.1.val, e.2)))).scanAll).partDone 16) :=
  congrArg Host.Outcome.next (if_pos (by simp [hstart, hprep, hbusy]))

/-- A scan that stages nothing counts none staged, and signalling done leaves that. -/
theorem State.partDone_scanNoted {s : State} (phase : Nat) (h : s.points = []) :
    let t := (s.scanNoted phase).partDone 16
    t.f F.EVT_ARM_STAGED_COUNT = 0 ∧ t.points = [] ∧ t.slots = s.slots := by
  have hleft := (s.scanNoted phase).partDone_leavesLoads 16
  have hcount : ((s.scanNoted phase).partDone 16).f F.EVT_ARM_STAGED_COUNT = (s.scanNoted phase).f F.EVT_ARM_STAGED_COUNT := by
    unfold State.f
    rw [State.rd_partDone _ (by decide) (by decide) (by decide)]
  refine ⟨hcount.trans ?_, hleft.points.trans h, hleft.slots⟩
  unfold State.scanNoted
  rw [State.f_setF_other _ _ (.inl (by decide)), State.f_setF_same _ _ (by decide), h]
  rfl

/-! ### Forced ends and stalls (R100, R112, R117) -/

theorem State.durEnd_due {s : State} {sh slot : Nat} (hst : (s.sl (slotKey sh slot)).st = .active)
    (hend : (s.sl (slotKey sh slot)).ev.hasEnd = true) (hform : (s.sl (slotKey sh slot)).ev.form = true)
    (hdue : ((s.sl (slotKey sh slot)).ev.duration : Int) ≤ s.ticksSince (s.sl (slotKey sh slot)).startAt + 24) :
    s.durEnd sh slot = s.placeEnd sh slot
      ((s.sl (slotKey sh slot)).startAt + BitVec.ofNat 53 (32 * (s.sl (slotKey sh slot)).ev.duration)) false :=
  if_pos (by simp [hst, hend, hform, hdue])

theorem State.capEndAt_due {s : State} {sh slot : Nat} (hst : (s.sl (slotKey sh slot)).st = .active)
    (hend : (s.sl (slotKey sh slot)).ev.hasEnd = true) (hform : (s.sl (slotKey sh slot)).ev.form = false)
    (hmax : (s.sl (slotKey sh slot)).ev.maxDur ≠ 0)
    (hdue : ((s.sl (slotKey sh slot)).ev.cap : Int) ≤ s.ticksSince (s.sl (slotKey sh slot)).startAt + 24) :
    s.capEndAt sh slot = s.placeEnd sh slot
      ((s.sl (slotKey sh slot)).startAt + BitVec.ofNat 53 (32 * (s.sl (slotKey sh slot)).ev.cap)) false :=
  if_pos (by simp [hst, hend, hform, hmax, hdue])

theorem State.stallRow_due {s : State} {n : Nat} (htime : s.f (F.EVT_STALL_TIME n) ≠ 0)
    (hhalt : 256 * s.f (F.EVT_STALL_TIME n) ≤ (s.te n).haltTicks) (hno : (s.te n).stalled = false) :
    s.stallRow n = s.evStall n :=
  if_pos (by simp [htime, hhalt, hno])

/-- Settles O27: the scan's two forms, on the state in which the check bits have been counted, and each row's own equation. -/
theorem scansAndForcedEndsAct : Obligations.ScansAndForcedEndsAct := by
  unfold Obligations.ScansAndForcedEndsAct
  refine ⟨?arms, ?idle, ?duration, ?cap, ?stall⟩
  case arms =>
    intro found s hstart hprep hbusy hrun hen hramp s0 s1 s2
    rw [exec_armerScan found hstart hprep hbusy, State.scanAll_arms ((s.running_scanFound _).trans hrun)
      ((s.b_scanFound _ (by decide)).trans hen) ((s.b_scanFound _ (by decide)).trans hramp), State.tb_scanFound]
    rfl
  case idle =>
    intro found s hstart hprep hbusy hrun
    let found' := found.map (fun e => (e.1.val, e.2))
    obtain ⟨hpoints, hslots⟩ := (s.scanFound found').scanLists_loads
    obtain ⟨hcount, hnone, hkept⟩ := State.partDone_scanNoted (s.scanFound found').tb.phase hpoints
    refine ⟨_, ?_, hcount, hnone, (hkept.trans hslots).trans (s.scanFound_leavesLoads found').slots⟩
    rw [exec_armerScan found hstart hprep hbusy, State.scanAll_idle ((s.running_scanFound found').trans hrun)]
  case duration =>
    exact fun sh slot s hst hend hform hdue => congrArg Host.Outcome.next (State.durEnd_due hst hend hform hdue)
  case cap =>
    exact fun sh slot s hst hend hform hmax hdue => congrArg Host.Outcome.next (State.capEndAt_due hst hend hform hmax hdue)
  case stall => exact fun n s htime hhalt hno => congrArg Host.Outcome.next (State.stallRow_due htime hhalt hno)

end Sys2Proof.Machine
end

section
/-! The delay lines of the pin cells, and the twin injection (R123, R125, R126). -/

namespace Sys2Proof.Machine

open Sys2Proof

/-! ### Measurements (R125) -/

/-- A line that has counted `taps` taps per tick: good from 33 to 63. -/
def Line.measured (taps : Nat) : Line :=
  { taps := taps, ok := 33 ≤ taps && taps ≤ 63, failed := !(33 ≤ taps && taps ≤ 63) }

theorem Line.measured_eq (taps : Nat) : Line.measured taps =
    { taps := taps, ok := decide (33 ≤ taps ∧ taps ≤ 63), failed := !decide (33 ≤ taps ∧ taps ≤ 63) } := by
  rw [Bool.decide_and]
  rfl

/-- A cell whose idle line has been measured as `l`. -/
def Pin.withIdle (x : Pin) (l : Line) : Pin :=
  { x with a := if x.line then l else x.a, b := if x.line then x.b else l, measured := true, count := min 2 (x.count + 1)
           calA := x.calA || x.line, calB := x.calB || !x.line }

/-- A measurement notes the idle line; a line that has just failed pulses and is logged. -/
theorem State.dllDone_effect {s : State} {c : Nat} (taps : Nat) (hm : (s.pin c).measured = false) (hmode : 2 ≤ s.mode) :
    (∀ k, (s.dllDone c taps).pin k = (s.setPin c ((s.pin c).withIdle (.measured taps))).pin k)
    ∧ ∀ a, a ≠ R.LOG_LOST → (s.dllDone c taps).rd a = s.rd a := by
  unfold State.dllDone
  extract_lets x good l was y s1
  have hpulse : ∀ {β : Type} (g : State → β), g (s1.pulse (priv (c / 10) 10)) = g s1 →
      g (if c < 160 then s1.pulse (priv (c / 10) 10) else s1) = g s1 := fun g hg => by
    split
    · exact hg
    · rfl
  rw [if_neg (by simp [x, hm]; omega)]
  split
  · exact ⟨fun k => (State.pin_log_frame _ _ _ _ k).trans (hpulse (fun x => x.pin k) (State.pin_pulse_frame s1 _ k)),
      fun a ha => (State.rd_log _ _ _ _ ha).trans (hpulse (fun x => x.rd a) (State.rd_pulse_frame s1 _ a))⟩
  · exact ⟨fun _ => rfl, fun _ _ => rfl⟩

/-! ### The swap (R126) -/

/-- No edge, action or flying edge of the cell falls in this tick, and no edge in the tick before. -/
structure State.QuietAt (s : State) (c : Nat) : Prop where
  edges : ∀ e ∈ (s.pin c).edges, tickOf e.1 ≠ s.now ∧ tickOf e.1 ≠ s.now - 1
  placed : ∀ a ∈ s.placed, (c < 160 → a.ev.tgtType = 0 → a.ev.target = c → tickOf a.at_ ≠ s.now)
    ∧ (160 ≤ c → a.ev.tgtType = 2 → a.ev.target = c - 160 → tickOf a.at_ ≠ s.now)
  flight : ∀ e ∈ s.flight, e.pin = c → tickOf e.at_ ≠ s.now

/-- A good measured idle line is swapped in at a quiet tick, 8,192 ticks after the last swap. -/
theorem State.dllSwap_due {s : State} {c : Nat} (hm : (s.pin c).measured = true)
    (hok : (if (s.pin c).line then (s.pin c).a else (s.pin c).b).ok = true) (hquiet : s.QuietAt c)
    (hlast : s.passed (s.pin c).swapAt 8192 = true) :
    s.dllSwap c = s.setPin c { s.pin c with line := !(s.pin c).line, swapAt := s.now, measured := false } := by
  obtain ⟨hedges, hplaced, hflight⟩ := hquiet
  have hno : ∀ a ∈ s.placed, (if c < 160 then a.ev.tgtType == 0 && a.ev.target == c
      else a.ev.tgtType == 2 && a.ev.target == c - 160) = true → tickOf a.at_ ≠ s.now := by
    intro a ha hmine
    split at hmine
    case isTrue hc =>
      simp only [Bool.and_eq_true, beq_iff_eq] at hmine
      exact (hplaced a ha).1 hc hmine.1 hmine.2
    case isFalse hc =>
      simp only [Bool.and_eq_true, beq_iff_eq] at hmine
      exact (hplaced a ha).2 (Nat.le_of_not_lt hc) hmine.1 hmine.2
  have hedges' : (s.pin c).edges.all (fun e => tickOf e.1 != s.now && tickOf e.1 != s.now - 1) = true :=
    List.all_eq_true.mpr fun e he => by
      rw [Bool.and_eq_true, bne_iff_ne, bne_iff_ne]
      exact hedges e he
  have hplaced' : s.placed.all (fun a => !((if c < 160 then a.ev.tgtType == 0 && a.ev.target == c
      else a.ev.tgtType == 2 && a.ev.target == c - 160) && tickOf a.at_ == s.now)) = true :=
    List.all_eq_true.mpr fun a ha => by
      simp only [Bool.not_eq_true', Bool.and_eq_false_imp, beq_eq_false_iff_ne]
      exact hno a ha
  have hflight' : s.flight.all (fun e => !(e.pin == c && tickOf e.at_ == s.now)) = true :=
    List.all_eq_true.mpr fun e he => by
      simp only [Bool.not_eq_true', Bool.and_eq_false_imp, beq_iff_eq, beq_eq_false_iff_ne]
      exact hflight e he
  unfold State.dllSwap
  dsimp only
  rw [hedges', hplaced', hflight']
  exact if_pos (by simp [hm, hok, hlast])

/-! ### The injection (R123) -/

/-- SLOT and PAIR of EVT_TWIN_INJECT take their values and GO, beside them, stays. -/
theorem State.injectFields (s : State) (slot pair : Nat) :
    let t := (s.setF F.EVT_TWIN_INJECT_SLOT slot).setF F.EVT_TWIN_INJECT_PAIR pair
    t.f F.EVT_TWIN_INJECT_SLOT = slot % 2 ^ 6 ∧ t.f F.EVT_TWIN_INJECT_PAIR = pair % 2 ^ 3
      ∧ t.b F.EVT_TWIN_INJECT_GO = s.b F.EVT_TWIN_INJECT_GO ∧ ∀ a, a ≠ R.EVT_TWIN_INJECT → t.rd a = s.rd a := by
  refine ⟨?_, State.f_setF_same _ _ (by decide), ?_, fun a ha => ?_⟩
  · rw [State.f_setF_other _ _ (.inr (.inr (by decide))), State.f_setF_same _ _ (by decide)]
    rfl
  · rw [State.b_setF_other _ _ (.inr (.inl (by decide))), State.b_setF_other _ _ (.inr (.inl (by decide)))]
  · rw [State.rd_setF_other _ _ ha, State.rd_setF_other _ _ ha]

/-- A write while the pair is in twin mode takes SLOT and PAIR, and arms GO where bit 9 is 1. -/
theorem State.injectWrite_active {s : State} {v : Word} (h : (s.f F.SYS_TWIN_PAIR_ACT).testBit (getBits v 6 3) = true) :
    (s.injectWrite v).f F.EVT_TWIN_INJECT_SLOT = getBits v 0 6 ∧ (s.injectWrite v).f F.EVT_TWIN_INJECT_PAIR = getBits v 6 3
      ∧ (s.injectWrite v).b F.EVT_TWIN_INJECT_GO = (s.b F.EVT_TWIN_INJECT_GO || v.getLsbD 9)
      ∧ ∀ a, a ≠ R.EVT_TWIN_INJECT → (s.injectWrite v).rd a = s.rd a := by
  obtain ⟨hslot, hpair, hgo, hrest⟩ := s.injectFields (getBits v 0 6) (getBits v 6 3)
  rw [Nat.mod_eq_of_lt (getBits_lt v 0 6)] at hslot
  rw [Nat.mod_eq_of_lt (getBits_lt v 6 3)] at hpair
  unfold State.injectWrite
  dsimp only
  rw [if_pos h]
  split
  case isTrue h9 =>
    refine ⟨?_, ?_, ?_, fun a ha => (State.rd_setB_other _ true ha).trans (hrest a ha)⟩
    · exact (State.f_setB_other _ true (.inr (.inr (by decide)))).trans hslot
    · exact (State.f_setB_other _ true (.inr (.inr (by decide)))).trans hpair
    · rw [State.b_setB_same _ true (by decide) rfl, h9, Bool.or_true]
  case isFalse h9 =>
    exact ⟨hslot, hpair, by rw [hgo, Bool.eq_false_iff.mpr h9, Bool.or_false], hrest⟩

/-- A write while the pair is not in twin mode is discarded. -/
theorem State.injectWrite_inactive {s : State} {v : Word} (h : (s.f F.SYS_TWIN_PAIR_ACT).testBit (getBits v 6 3) = false) :
    s.injectWrite v = s :=
  if_neg (by simp [h])

theorem exec_evtTwinInjectWrite_served {r : Requester} {v : Word} {s : State} (h : s.writesReach r) :
    exec (.evtTwinInjectWrite r v) s = .next (s.injectWrite v) :=
  congrArg Host.Outcome.next (State.writeBy_served s (wordTo r R.EVT_TWIN_INJECT v) _ h)

/-- Settles O28: the measured cell, the quiet swap, and the two answers to a write of EVT_TWIN_INJECT. -/
theorem delayLinesAreMeasuredAndSwapped : Obligations.DelayLinesAreMeasuredAndSwapped := by
  unfold Obligations.DelayLinesAreMeasuredAndSwapped
  refine ⟨?measured, ?swapped, ?active, ?inactive⟩
  case measured =>
    intro c taps s hm hmode
    obtain ⟨hpins, hrest⟩ := State.dllDone_effect taps.toNat hm hmode
    have hcell : (s.dllDone c taps.toNat).pin c = (s.pin c).withIdle (.measured taps.toNat) :=
      (hpins c).trans (State.pin_setPin_same s _ _)
    rw [Line.measured_eq] at hcell
    refine ⟨_, rfl, ?_, ?_, fun hline => ?_, fun hline => ?_, fun k hk => ?_, hrest⟩
    · rw [hcell]; rfl
    · rw [hcell]; rfl
    · rw [hcell]
      exact ⟨if_pos hline, if_pos hline⟩
    · rw [hcell]
      exact ⟨if_neg (by simp [hline]), if_neg (by simp [hline])⟩
    · rw [hpins k, State.pin_setPin, if_neg hk]
  case swapped =>
    exact fun c s hm hok hedges hplaced hflight hlast =>
      congrArg Host.Outcome.next (State.dllSwap_due hm hok ⟨hedges, hplaced, hflight⟩ hlast)
  case active => exact fun r v s hreach h => ⟨_, exec_evtTwinInjectWrite_served hreach, State.injectWrite_active h⟩
  case inactive =>
    intro r v s hreach h
    rw [exec_evtTwinInjectWrite_served hreach, State.injectWrite_inactive h]

end Sys2Proof.Machine
end


section
/-! The arithmetic of the engines' ALU on 24-bit operands (R155, Table 7.7). -/

namespace Sys2Proof.Machine

open Sys2Proof

/-! ### Signs -/

/-- A 24-bit word read in two's complement. -/
def signed24 (x : Nat) : Int := if 2 ^ 23 ≤ x then (x : Int) - 2 ^ 24 else (x : Int)

/-- An integer that 24 bits hold in two's complement. -/
def fits24 (x : Int) : Prop := -(2 ^ 23) ≤ x ∧ x < 2 ^ 23

/-- The sign bit of a 24-bit word. -/
theorem testBit_23 {x : Nat} (hx : x < 2 ^ 24) : x.testBit 23 = decide (2 ^ 23 ≤ x) := by
  rw [Nat.testBit_eq_decide_div_mod_eq, decide_eq_decide]
  omega

/-! ### Sums and differences -/

/-- The sum with a carry in (ADD, ADDC). -/
def aluSum (a b k : Nat) : AluOut :=
  ⟨(a + b + k) % 2 ^ 24, decide (2 ^ 24 ≤ a + b + k),
    a.testBit 23 == b.testBit 23 && ((a + b + k) % 2 ^ 24).testBit 23 != a.testBit 23⟩

/-- The difference with a borrow in (SUB, SUBB, CMP). -/
def aluDif (a b k : Nat) : AluOut :=
  let r := (a + 2 * 2 ^ 24 - b - k) % 2 ^ 24
  ⟨r, decide (a < b + k), a.testBit 23 != b.testBit 23 && r.testBit 23 != a.testBit 23⟩

theorem alu_add (a b : Nat) (cin : Bool) : alu 1 a b cin = aluSum a b 0 := rfl
theorem alu_addc (a b : Nat) (cin : Bool) : alu 11 a b cin = aluSum a b (toBit cin) := rfl
theorem alu_sub (a b : Nat) (cin : Bool) : alu 2 a b cin = aluDif a b 0 := rfl
theorem alu_cmp (a b : Nat) (cin : Bool) : alu 15 a b cin = aluDif a b 0 := rfl
theorem alu_subb (a b : Nat) (cin : Bool) : alu 12 a b cin = aluDif a b (toBit cin) := rfl

theorem toBit_le_one (b : Bool) : toBit b ≤ 1 := by cases b <;> decide

theorem toBit_decide (p : Prop) [Decidable p] : toBit (decide p) = if p then 1 else 0 := by
  unfold toBit
  simp only [decide_eq_true_eq]

section
variable {a b k : Nat} (ha : a < 2 ^ 24) (hb : b < 2 ^ 24) (hk : k ≤ 1)
include ha hb hk

/-- Result and carry together are the sum. -/
theorem aluSum_exact : (aluSum a b k).res + 2 ^ 24 * toBit (aluSum a b k).c = a + b + k := by
  unfold aluSum
  dsimp only
  rw [toBit_decide]
  split <;> omega

/-- Result and borrow together are the difference. -/
theorem aluDif_exact : (aluDif a b k).res + b + k = a + 2 ^ 24 * toBit (aluDif a b k).c := by
  unfold aluDif
  dsimp only
  rw [toBit_decide]
  split <;> omega

end

section
variable {a b : Nat} (ha : a < 2 ^ 24) (hb : b < 2 ^ 24)
include ha hb

/-- Overflow: operands of one sign, and a sum of the other. -/
theorem aluSum_overflow : (aluSum a b 0).v = true ↔ ¬ fits24 (signed24 a + signed24 b) := by
  have hr : (a + b + 0) % 2 ^ 24 < 2 ^ 24 := Nat.mod_lt _ (by decide)
  unfold aluSum fits24 signed24
  rw [testBit_23 ha, testBit_23 hb, testBit_23 hr]
  simp only [Bool.and_eq_true, beq_iff_eq, bne_iff_ne, ne_eq, decide_eq_decide]
  split <;> split <;> omega

/-- Overflow: operands of two signs, and a difference of the subtrahend's. -/
theorem aluDif_overflow : (aluDif a b 0).v = true ↔ ¬ fits24 (signed24 a - signed24 b) := by
  have hr : (a + 2 * 2 ^ 24 - b - 0) % 2 ^ 24 < 2 ^ 24 := Nat.mod_lt _ (by decide)
  unfold aluDif fits24 signed24
  dsimp only
  rw [testBit_23 ha, testBit_23 hb, testBit_23 hr]
  simp only [Bool.and_eq_true, bne_iff_ne, ne_eq, decide_eq_decide]
  split <;> split <;> omega

end

/-! ### Products and shifts -/

/-- The halves of a product. -/
theorem alu_mul {a b : Nat} (cin : Bool) (ha : a < 2 ^ 24) (hb : b < 2 ^ 24) :
    (alu 13 a b cin).res + 2 ^ 24 * (alu 14 a b cin).res = a * b := by
  show a * b % 2 ^ 24 + 2 ^ 24 * (a * b / 2 ^ 24 % 2 ^ 24) = a * b
  have hlt : a * b < 2 ^ 24 * 2 ^ 24 := Nat.mul_lt_mul'' ha hb
  rw [Nat.mod_eq_of_lt (Nat.div_lt_of_lt_mul hlt), Nat.mod_add_div]

theorem alu_shl (a b : Nat) (cin : Bool) : (alu 6 a b cin).res = a * 2 ^ (b % 32) % 2 ^ 24 :=
  congrArg (· % 2 ^ 24) (Nat.shiftLeft_eq a (b % 32))

theorem alu_shr (a b : Nat) (cin : Bool) : (alu 7 a b cin).res = a / 2 ^ (b % 32) := Nat.shiftRight_eq_div_pow a (b % 32)

/-- A word shifted right with its sign. -/
def sarRes (a i : Nat) : Nat :=
  if 24 ≤ i then (if a.testBit 23 then 2 ^ 24 - 1 else 0)
  else ((a >>> i) + (if a.testBit 23 then 2 ^ 24 - 2 ^ (24 - i) else 0)) % 2 ^ 24

theorem alu_sar (a b : Nat) (cin : Bool) : (alu 8 a b cin).res = sarRes a (b % 32) := rfl

/-- A shift past the word leaves the sign alone. -/
theorem signed24_sarRes_of_ge {a i : Nat} (ha : a < 2 ^ 24) (hi : 24 ≤ i) : signed24 (sarRes a i) = signed24 a / 2 ^ i := by
  have hpow : 2 ^ 24 ≤ 2 ^ i := Nat.pow_le_pow_right (by decide) hi
  have hp : (2 : Int) ^ 24 ≤ 2 ^ i := by exact_mod_cast hpow
  unfold sarRes signed24
  rw [if_pos hi, testBit_23 ha]
  by_cases hneg : 2 ^ 23 ≤ a
  · -- a negative word: the floor of a fraction between -1 and 0
    simp only [hneg, decide_true, if_true]
    exact (Int.ediv_eq_neg_one_of_neg_of_le (by omega) (by omega)).symm
  · simp only [hneg, decide_false, if_false, Bool.false_eq_true]
    exact (Int.ediv_eq_zero_of_lt (by omega) (by omega)).symm

/-- A negative word's floor: 2^24 is a multiple of every power of two within the word. -/
theorem negative_ediv {a i p : Nat} (hp : 2 ^ i * p = 2 ^ 23) : ((a : Int) - 2 ^ 24) / 2 ^ i = ((a / 2 ^ i : Nat) : Int) - 2 * p := by
  have hp' : (2 : Int) ^ i * p = 2 ^ 23 := by exact_mod_cast hp
  have hpos : (0 : Int) < 2 ^ i := by exact_mod_cast Nat.two_pow_pos i
  have hsplit : (a : Int) - 2 ^ 24 = a + 2 ^ i * -(2 * p) := by
    rw [Int.mul_neg, Int.mul_left_comm, hp']
    omega
  have hcast : ((a / 2 ^ i : Nat) : Int) = (a : Int) / 2 ^ i := by exact_mod_cast rfl
  rw [hsplit, Int.add_mul_ediv_left _ _ (Int.ne_of_gt hpos), hcast, Int.sub_eq_add_neg]

/-- Within the word the vacant bits take the sign. -/
theorem signed24_sarRes_of_lt {a i : Nat} (ha : a < 2 ^ 24) (hi : i < 24) : signed24 (sarRes a i) = signed24 a / 2 ^ i := by
  obtain ⟨p, hpow, htop⟩ : ∃ p, 2 ^ i * p = 2 ^ 23 ∧ 2 ^ (24 - i) = 2 * p :=
    ⟨2 ^ (23 - i), by rw [← Nat.pow_add, show i + (23 - i) = 23 by omega],
      by rw [show 24 - i = (23 - i) + 1 by omega, Nat.pow_succ']⟩
  have hpos : 0 < 2 ^ i := Nat.two_pow_pos i
  have hp : p ≤ 2 ^ 23 := hpow ▸ Nat.le_mul_of_pos_left p hpos
  unfold sarRes signed24
  rw [if_neg (Nat.not_le.mpr hi), testBit_23 ha, Nat.shiftRight_eq_div_pow, htop]
  by_cases hneg : 2 ^ 23 ≤ a
  · have hlow : p ≤ a / 2 ^ i := by rwa [Nat.le_div_iff_mul_le hpos, Nat.mul_comm, hpow]
    have hhigh : a / 2 ^ i < 2 * p := Nat.div_lt_of_lt_mul (by rwa [Nat.mul_left_comm, hpow])
    simp only [hneg, decide_true, if_true]
    rw [negative_ediv hpow, Nat.mod_eq_of_lt (by omega), if_pos (by omega)]
    omega
  · have hlow : a / 2 ^ i < 2 ^ 23 := Nat.lt_of_le_of_lt (Nat.div_le_self _ _) (by omega)
    simp only [hneg, decide_false, if_false, Bool.false_eq_true]
    rw [Nat.add_zero, Nat.mod_eq_of_lt (by omega), if_neg (by omega)]
    push_cast
    rfl

theorem signed24_sarRes {a : Nat} (ha : a < 2 ^ 24) (i : Nat) : signed24 (sarRes a i) = signed24 a / 2 ^ i :=
  (Nat.lt_or_ge i 24).elim (signed24_sarRes_of_lt ha) (signed24_sarRes_of_ge ha)

theorem sarRes_lt (a i : Nat) : sarRes a i < 2 ^ 24 := by
  unfold sarRes
  split
  · split <;> decide
  · exact Nat.mod_lt _ (by decide)

/-! ### The width of the result -/

/-- Every operation's result is a 24-bit word. -/
theorem alu_res_lt {op a b : Nat} (cin : Bool) (hop : op < 16) (ha : a < 2 ^ 24) (hb : b < 2 ^ 24) :
    (alu op a b cin).res < 2 ^ 24 := by
  have hmod : ∀ x : Nat, x % 2 ^ 24 < 2 ^ 24 := fun x => Nat.mod_lt x (by decide)
  match op, hop with
  | 0, _ => exact ha
  | 3, _ => exact Nat.and_lt_two_pow a hb
  | 4, _ => exact Nat.or_lt_two_pow ha hb
  | 5, _ => exact Nat.xor_lt_two_pow ha hb
  | 7, _ =>
    rw [alu_shr]
    exact Nat.lt_of_le_of_lt (Nat.div_le_self _ _) ha
  | 8, _ => exact sarRes_lt a (b % 32)
  | 9, _ => exact Nat.lt_of_le_of_lt (Nat.min_le_left a b) ha
  | 10, _ => exact Nat.max_lt.mpr ⟨ha, hb⟩
  | 1, _ | 2, _ | 6, _ | 11, _ | 12, _ | 13, _ | 14, _ | 15, _ => exact hmod _
  | _ + 16, h => exact absurd h (by omega)

/-- Settles O33: each operation by its own lemma; carry, borrow and overflow from `aluSum` and `aluDif`. -/
theorem engineArithmeticIsExact : Obligations.EngineArithmeticIsExact := by
  unfold Obligations.EngineArithmeticIsExact
  intro a b cin ha hb sg fits
  rw [alu_add, alu_addc, alu_sub, alu_subb, alu_sar, alu_shl, alu_shr]
  refine ⟨fun op hop => alu_res_lt cin hop ha hb, aluSum_exact ha hb (Nat.zero_le 1), aluSum_exact ha hb (toBit_le_one cin), ?_, rfl,
    aluDif_exact ha hb (toBit_le_one cin), alu_mul cin ha hb, rfl, rfl, rfl, rfl, signed24_sarRes ha (b % 32),
    aluSum_overflow ha hb, aluDif_overflow ha hb⟩
  rintro op (rfl | rfl)
  · rw [alu_sub]
    exact ⟨rfl, aluDif_exact ha hb (Nat.zero_le 1)⟩
  · rw [alu_cmp]
    exact ⟨rfl, aluDif_exact ha hb (Nat.zero_le 1)⟩

end Sys2Proof.Machine
end

section
/-! The next microword address (R151, Table 7.3). -/

namespace Sys2Proof.Machine

open Sys2Proof

/-- Another engine after an engine is written. -/
theorem State.eng_setEng_other (s : State) {n m : Nat} (x : Eng) (h : m ≠ n) : (s.setEng n x).eng m = s.eng m := by
  rw [State.eng_setEng, if_neg h]

/-- The engine goes on, as `e`, at an address in the next cycle. -/
def State.engGo (s : State) (n : Nat) (e : Eng) (a : Nat) : State := s.setEng n { e with upc := a, ready := s.now + 2 }

@[simp] theorem State.eng_engGo_same (s : State) (n : Nat) (e : Eng) (a : Nat) :
    (s.engGo n e a).eng n = { e with upc := a, ready := s.now + 2 } := State.eng_setEng_same _ _ _

/-- The condition of a BRANCH: a stall's flag as it was before the word's own effects (R161). -/
def State.branchCond (s s0 : State) (n : Nat) (x : Nano) : Bool :=
  if 8 ≤ x.cond ∧ x.cond ≤ 15 then s0.engCond n (s.eng n) x else s.engCond n (s.eng n) x

section
variable {s s0 : State} {n u res : Nat} {x : Nano}

theorem State.engNext_next (h : uBsel u = 0) : s.engNext s0 n u res x = s.engGo n (s.eng n) (uNa u) := by
  simp only [State.engNext, h]
  rfl

theorem State.engNext_branch (h : uBsel u = 1) :
    s.engNext s0 n u res x = s.engGo n (s.eng n) (uNa u / 2 * 2 + toBit (s.branchCond s0 n x)) := by
  simp only [State.engNext, h, State.branchCond, Bool.and_eq_true, decide_eq_true_eq]
  rfl

theorem State.engNext_dispatch (h : uBsel u = 2) :
    s.engNext s0 n u res x = s.engGo n (s.eng n) (uNa u / 16 * 16 + res % 16) := by
  simp only [State.engNext, h]
  rfl

theorem State.engNext_call (h : uBsel u = 3) :
    s.engNext s0 n u res x = s.engGo n { s.eng n with stk := (s.eng n).stk ++ [uNa u] } (x.imm % 2048) := by
  simp only [State.engNext, h]
  rfl

theorem State.engNext_ret (h : uBsel u = 4) :
    s.engNext s0 n u res x = s.engGo n { s.eng n with stk := (s.eng n).stk.dropLast } ((s.eng n).stk.getLastD 0) := by
  simp only [State.engNext, h]
  rfl

theorem State.engNext_loop (h : uBsel u = 5) (hlc : (s.eng n).lc ≠ 0) :
    s.engNext s0 n u res x = s.engGo n { s.eng n with lc := (s.eng n).lc - 1 } (uNa u / 2 * 2) := by
  simp only [State.engNext, h, if_pos hlc]
  rfl

theorem State.engNext_loopEnd (h : uBsel u = 5) (hlc : (s.eng n).lc = 0) :
    s.engNext s0 n u res x = s.engGo n (s.eng n) (uNa u / 2 * 2 + 1) := by
  simp only [State.engNext, h]
  exact if_neg fun h => h hlc

/-- The end of the pass is on its way as an effect of the next cycle (R163). -/
theorem State.engNext_done (h : uBsel u = 6) :
    s.engNext s0 n u res x = (s.setEng n { s.eng n with upc := uNa u, st := .done
                                                        ready := s.now + 2 + (if (s.eng n).startHeld then 4 else 0) }).engEff n .done := by
  simp only [State.engNext, h]

end

/-- A later effect waits in its engine. -/
theorem State.engEff_later (s : State) (n : Nat) {x : EngEff} (h : x.later = true) :
    s.engEff n x = s.setEng n { s.eng n with out := (s.eng n).out ++ [(s.now + 2, x)] } := if_pos h

/-- The step to the next address changes no register and no other engine. -/
theorem State.engNext_frame (s s0 : State) (n u res : Nat) (x : Nano) :
    (∀ m, m ≠ n → (s.engNext s0 n u res x).eng m = s.eng m) ∧ ∀ a, (s.engNext s0 n u res x).rd a = s.rd a := by
  have hdone : EngEff.later .done = true := rfl
  refine ⟨fun m hm => ?_, fun a => ?_⟩
  · unfold State.engNext
    dsimp only
    split
    case h_6 => split <;> exact State.eng_setEng_other _ _ hm
    case h_7 => rw [State.engEff_later _ n hdone, State.eng_setEng_other _ _ hm, State.eng_setEng_other _ _ hm]
    case h_8 => rfl
    all_goals exact State.eng_setEng_other _ _ hm
  · unfold State.engNext
    dsimp only
    split
    case h_6 => split <;> rfl
    case h_7 => rw [State.engEff_later _ n hdone]; rfl
    all_goals rfl

/-- Settles O34: the engine after each of the seven ways on, and what all of them leave. -/
theorem engineWordsTakeTheirNextAddress : Obligations.EngineWordsTakeTheirNextAddress := by
  unfold Obligations.EngineWordsTakeTheirNextAddress
  intro s s0 n u res x e t c
  refine ⟨fun h => ?_, fun h => ?_, fun h => ?_, fun h => ?_, fun h => ?_, fun h hlc => ?_, fun h hlc => ?_, fun h => ?_,
    State.engNext_frame s s0 n u res x⟩
  · rw [show t = _ from State.engNext_next h, State.eng_engGo_same]
  · rw [show t = _ from State.engNext_branch h, State.eng_engGo_same]
    rfl
  · rw [show t = _ from State.engNext_dispatch h, State.eng_engGo_same]
  · rw [show t = _ from State.engNext_call h, State.eng_engGo_same]
    exact ⟨rfl, rfl⟩
  · rw [show t = _ from State.engNext_ret h, State.eng_engGo_same]
    exact ⟨rfl, rfl⟩
  · rw [show t = _ from State.engNext_loop h hlc, State.eng_engGo_same]
    exact ⟨rfl, rfl⟩
  · rw [show t = _ from State.engNext_loopEnd h hlc, State.eng_engGo_same]
    exact ⟨rfl, hlc⟩
  · rw [show t = _ from State.engNext_done h, State.engEff_later _ _ (show EngEff.later .done = true from rfl), State.eng_setEng_same,
      State.eng_setEng_same]
    exact ⟨rfl, rfl⟩

end Sys2Proof.Machine
end

section
/-! What the engines' shared operations leave: the end of service, the stop in IDLE, the first cycle of a word, FAULT, and an
operation on a twin pair (R158, R163, R170, R173, R175). -/

namespace Sys2Proof.Machine

open Sys2Proof

/-! ### Twin pairs (R175) -/

theorem State.engPair_single {s : State} {n : Nat} (h : s.isLead n = false) : s.engPair n = [n] := if_neg (by simp [h])

theorem State.engPair_lead {s : State} {n : Nat} (h : s.isLead n = true) : s.engPair n = [n, n + 1] := if_pos h

section
variable {s : State} {n : Nat} {f : State → Nat → State}

theorem State.engBoth_lead (h : s.isLead n = true) : s.engBoth n f = f (f s n) (n + 1) := if_pos h

/-- What the second engine's part leaves is as after the first engine's. -/
theorem State.engBoth_first {β : Type} (g : State → β) (h : ∀ x, g (f x (n + 1)) = g x) : g (s.engBoth n f) = g (f s n) := by
  unfold State.engBoth
  split
  · exact h _
  · rfl

/-- What both parts leave. -/
theorem State.engBoth_leaves {β : Type} (g : State → β) (h1 : ∀ x, g (f x n) = g x) (h2 : ∀ x, g (f x (n + 1)) = g x) :
    g (s.engBoth n f) = g s := (State.engBoth_first g h2).trans (h1 s)

end

/-! ### The end of service (R368) -/

@[simp] theorem State.eng_endService (s : State) (n m : Nat) : (s.endService n).eng m = s.eng m :=
  overList_leaves (·.eng m) (fun x g => State.eng_setSrc_frame x g _ m) _ s

@[simp] theorem State.rd_endService (s : State) (n a : Nat) : (s.endService n).rd a = s.rd a :=
  overList_leaves (·.rd a) (fun x g => State.rd_setSrc_frame x g _ a) _ s

@[simp] theorem State.now_endService (s : State) (n : Nat) : (s.endService n).now = s.now :=
  overList_leaves (·.now) (fun x g => State.now_setSrc_frame x g _) _ s

/-! ### The stop in IDLE (R173) -/

theorem State.engStop_of_mode {s : State} (n : Nat) (h : s.mode ≠ 3) : s.engStop n = s := if_pos h

/-- A stop moves no register, no other engine, and neither the state nor the address of its own. -/
theorem State.engStop_frame (s : State) (n : Nat) :
    (∀ a, (s.engStop n).rd a = s.rd a) ∧ (∀ m, m ≠ n → (s.engStop n).eng m = s.eng m)
      ∧ ((s.engStop n).eng n).upc = (s.eng n).upc ∧ ((s.engStop n).eng n).st = (s.eng n).st := by
  unfold State.engStop
  dsimp only
  split
  · exact ⟨fun _ => rfl, fun _ _ => rfl, rfl, rfl⟩
  · split
    · rw [State.eng_setPart_frame, State.eng_setEng_same]
      exact ⟨fun _ => rfl, fun m hm => State.eng_setEng_other _ _ hm, rfl, rfl⟩
    · rw [State.eng_setEng_same]
      exact ⟨fun _ => rfl, fun m hm => State.eng_setEng_other _ _ hm, rfl, rfl⟩

/-! ### The first cycle of a word (R159) -/

/-- A first cycle moves no register, no other engine, and neither the state nor the address of its own. -/
theorem State.engFirst_frame (s : State) (n : Nat) :
    (∀ a, (s.engFirst n).rd a = s.rd a) ∧ (∀ m, m ≠ n → (s.engFirst n).eng m = s.eng m)
      ∧ ((s.engFirst n).eng n).upc = (s.eng n).upc ∧ ((s.engFirst n).eng n).st = (s.eng n).st := by
  unfold State.engFirst
  extract_lets e s1
  have h1 : (∀ a, s1.rd a = s.rd a) ∧ (∀ m, m ≠ n → s1.eng m = s.eng m)
      ∧ (s1.eng n).upc = (s.eng n).upc ∧ (s1.eng n).st = (s.eng n).st := by
    rw [show s1.eng n = _ from State.eng_setEng_same _ _ _]
    exact ⟨fun _ => rfl, fun m hm => State.eng_setEng_other _ _ hm, rfl, rfl⟩
  split
  · split
    · obtain ⟨hrd, hothers, hupc, hst⟩ := s1.engStop_frame n
      obtain ⟨hrd1, hothers1, hupc1, hst1⟩ := h1
      exact ⟨fun a => (hrd a).trans (hrd1 a), fun m hm => (hothers m hm).trans (hothers1 m hm), hupc.trans hupc1, hst.trans hst1⟩
    · exact h1
  · exact ⟨fun _ => rfl, fun _ _ => rfl, rfl, rfl⟩

/-! ### FAULT (R170) -/

theorem State.st_engFault (s : State) (n : Nat) : ((s.engFault n).eng n).st = .fault := by
  unfold State.engFault
  dsimp only
  rw [State.eng_pulse_frame, State.eng_log_frame, State.eng_endService, State.eng_setEng_same]

theorem State.eng_engFault_other (s : State) {n m : Nat} (h : m ≠ n) : (s.engFault n).eng m = s.eng m := by
  unfold State.engFault
  dsimp only
  rw [State.eng_pulse_frame, State.eng_log_frame, State.eng_endService, State.eng_setEng_other _ _ h]

end Sys2Proof.Machine
end

section
/-! The words of the engines: a word that runs, one that waits, the words of a twin pair, the end of a wait, and the start of a
pass (R157 to R162, R175). -/

namespace Sys2Proof.Machine

open Sys2Proof

/-! ### The state in which a word is taken -/

/-- The engines' writes on their way have landed, and the steps due at the stalls that the words read are made (R139, R161). -/
def State.engSeen (s : State) (n : Nat) : State :=
  overList ((s.engFlush.engPair n).flatMap s.engFlush.engStalls) State.stlDue s.engFlush

/-- The words that must wait have begun to. -/
def State.engHeld (s : State) (n : Nat) : State := overList (s.engPair n) State.engHold s

theorem exec_engineWord_check {n : Fin 16} {s : State} (mgrBad trgBad : Bool) (h : s.isCheck n = true) :
    exec (.engineWord n mgrBad trgBad) s = .next (s.setEng n { s.eng n with mgrBad := (s.eng n).mgrBad || mgrBad }) :=
  congrArg Host.Outcome.next (if_pos h)

/-- ENGINE_WORD of an engine that no pair checks, with no interrupt trap due. -/
theorem exec_engineWord {n : Fin 16} {s : State} (mgrBad trgBad : Bool) (hcheck : s.isCheck n = false)
    (hirq : (s.engSeen n).engIrqDue n = false) : exec (.engineWord n mgrBad trgBad) s = .next
      (let h := (s.engSeen n).engHeld n
       if (h.engPair n).any h.engActs then h.engDoes n mgrBad trgBad else h) := by
  refine congrArg Host.Outcome.next ?_
  unfold State.engWord
  exact (if_neg (by simp [hcheck])).trans (if_neg (by exact Bool.eq_false_iff.mp hirq))

/-! ### One engine -/

section
variable {s : State} {n : Nat}

/-- A word that need not wait is not held. -/
theorem State.engHold_free (h : s.engMustWait n = false) : s.engHold n = s := if_neg (by simp [h])

/-- A word that must wait begins to. -/
theorem State.engHold_waits (hcan : s.engCan n = true) (hmust : s.engMustWait n = true) (hready : s.reached (s.eng n).ready = true)
    (hmode : s.mode ≠ 3) : s.engHold n = s.setEng n { s.eng n with waiting := true, waitOver := s.condMet n } :=
  (if_pos (by simp [hcan, hmust, hready])).trans (State.engStop_of_mode n hmode)

/-- A waiting engine ends no word. -/
theorem State.engActs_waiting (h : (s.eng n).waiting = true) : s.engActs n = false := by
  unfold State.engActs State.engCan
  simp [h]

theorem State.engHeld_single (h : s.isLead n = false) : s.engHeld n = s.engHold n := by
  unfold State.engHeld
  rw [State.engPair_single h]
  rfl

/-- The last cycle of a word of an engine outside a pair makes all its effects (R157, R158). -/
theorem State.engDoes_single (bad trgBad : Bool) (hlead : s.isLead n = false) (hacts : s.engActs n = true) :
    s.engDoes n bad trgBad =
      (let x := s.nword n
       let p := if x.reads 21 then (s.spoil x.trg trgBad).agentPull x.trg (engAgent (s.engOf n)) (s.eng n).cut else (s, 0, false)
       let o := p.1.engEval n p.2.1 p.2.2 bad
       ((p.1.mgrLog n bad).engLatch n).engRun n o o.effs) := by
  unfold State.engDoes State.engPull
  simp only [hlead, hacts, Bool.not_false, Bool.true_or, Bool.true_and, if_true, Bool.false_eq_true, if_false]

end

/-! ### Twin pairs (R175) -/

section
variable {s : State} {n : Nat} {bad : Bool} {d : Nat} {p : Bool}

/-- Both words end with the same effects: the lead's act, the check engine's do not. -/
theorem State.engPairDoes_agree (heffs : (s.engEval (n + 1) d p (s.eng (n + 1)).mgrBad).effs = (s.engEval n d p bad).effs)
    (hill : s.engIllegal (n + 1) = false) (hstack : s.engStackBad (n + 1) = false) :
    s.engPairDoes n bad d p true true =
      (let bad2 := (s.eng (n + 1)).mgrBad
       let o := s.engEval n d p bad
       ((((s.mgrLog n bad).engLatch n).engRun n o o.effs).mgrLog (n + 1) bad2 |>.engLatch (n + 1)).engRun (n + 1)
         (s.engEval (n + 1) d p bad2) []) := by
  have hkeep : ∀ l : List EngEff, l.filter (fun f => l.contains f) = l := fun l => by
    rw [List.filter_eq_self]
    exact fun f hf => List.contains_iff_mem.mpr hf
  unfold State.engPairDoes
  simp only [heffs, hill, hstack, hkeep, if_true, decide_true, Bool.or_self, Bool.and_false, Bool.not_false, Bool.and_self]

/-- Words that differ in their visible effects put both engines into FAULT. -/
theorem State.engPairDoes_differ {a b : Bool}
    (h : (if a then (s.engEval n d p bad).effs else []) ≠ (if b then (s.engEval (n + 1) d p (s.eng (n + 1)).mgrBad).effs else [])) :
    ((s.engPairDoes n bad d p a b).eng n).st = .fault ∧ ((s.engPairDoes n bad d p a b).eng (n + 1)).st = .fault := by
  unfold State.engPairDoes
  simp only [h, decide_false, Bool.false_and, Bool.false_eq_true, if_false, State.eng_log_frame, State.st_engFault, and_true]
  rw [State.eng_engFault_other _ (Nat.ne_of_lt (Nat.lt_succ_self n)), State.st_engFault]

/-- A pair's cycle that ends a word of either engine. -/
theorem State.engDoes_lead (trgBad : Bool) (hlead : s.isLead n = true) : s.engDoes n bad trgBad =
    (let r := s.engPull n trgBad
     let t := r.1.engPairDoes n bad r.2.1 r.2.2 (s.engActs n) (s.engActs (n + 1))
     t.setEng (n + 1) { t.eng (n + 1) with mgrBad := false }) := if_pos hlead

/-- One of the two ends a word. -/
theorem State.any_engActs_lead (hlead : s.isLead n = true) (h : s.engActs n = true ∨ s.engActs (n + 1) = true) :
    (s.engPair n).any s.engActs = true := by
  simpa [State.engPair_lead hlead] using h

end

/-! ### The end of a wait and the start of a pass -/

/-- ENGINE_WAIT_END of one engine whose wait is over (R159). -/
theorem State.engWaitEnd_over {s : State} {n : Nat} (hcheck : s.isCheck n = false) (hlead : s.isLead n = false)
    (hready : s.engReady n = true) (hcycle : s.engCycle = true) (hwait : (s.eng n).waiting = true) (hirq : s.engIrqDue n = false)
    (hmust : s.engMustWait n = false) :
    s.engWaitEnd n = s.setEng n { s.eng n with waiting := false, waitOver := true, ready := s.now } := by
  unfold State.engWaitEnd
  rw [if_neg (by simp [hcheck, hirq]), State.engPair_single hlead]
  refine (if_pos (by simp [hready, hcycle, hwait])).trans ?_
  rw [hmust]
  rfl

/-- ENGINE_PASS_START of one engine in DONE with a start request (R162). -/
theorem State.engPass_starts {s : State} {n : Nat} (hlead : s.isLead n = false) (hcheck : s.isCheck n = false)
    (hst : (s.eng n).st = .done) (hheld : (s.eng n).startHeld = true) (hparked : s.engParked n = false) (hclock : s.engClock = true)
    (hmode : s.mode ≠ 3) (hcycle : s.engCycle = true) (hirq : s.engIrqDue n = false) :
    s.engPass n = State.engFirst (s.setEng n { s.eng n with
      st := .run, sx := 31, stk := [], vis := false, startHeld := false
      ready := if s.reached (s.eng n).ready then s.now else (s.eng n).ready }) n := by
  unfold State.engPass
  rw [if_neg (by simp [hcheck]), State.engPair_single hlead]
  refine congrArg (State.engFirst · n) (if_pos ?_)
  simp [hst, hheld, hparked, hclock, hmode, hcycle, hirq]

end Sys2Proof.Machine
end

section
/-! The control of the engines: RST and PARK (R172). -/

namespace Sys2Proof.Machine

open Sys2Proof

/-! ### Writes of one word over indices -/

/-- A word after one value is written at the addresses of a list. -/
theorem State.rd_overList_wr (r : Nat → Nat) (w : Word) (l : List Nat) (s : State) (a : Nat) :
    (overList l (fun s i => s.wr (r i) w) s).rd a = if ∃ i ∈ l, a = r i then w else s.rd a := by
  induction l generalizing s with
  | nil => simp [overList]
  | cons j l ih =>
    rw [overList_cons, ih, State.rd_wr]
    by_cases hj : a = r j <;> simp [hj]

theorem State.eng_overList_wr (r : Nat → Nat) (w : Word) (l : List Nat) (s : State) (m : Nat) :
    (overList l (fun s i => s.wr (r i) w) s).eng m = s.eng m :=
  overList_leaves (·.eng m) (fun x i => State.eng_wr_frame x (r i) w m) l s

theorem State.now_overList_wr (r : Nat → Nat) (w : Word) (l : List Nat) (s : State) :
    (overList l (fun s i => s.wr (r i) w) s).now = s.now :=
  overList_leaves (·.now) (fun x i => State.now_wr_frame x (r i) w) l s

/-! ### RESET (R172) -/

/-- The engine in RESET: the manger, its latches of the image and what it has on its way at stalls stay. -/
def State.clearedEng (s : State) (n : Nat) (st : EngSt) : Eng :=
  { eccSafe := (s.eng n).eccSafe, manger := (s.eng n).manger, st := st, ready := s.nextCycle, frozen := (s.eng n).frozen
    out := (s.eng n).out.filter (fun o => o.2 != .done && o.2 != .resumed) }

/-- The G and T registers of an engine cleared. -/
def State.clearGT (s : State) (n : Nat) : State :=
  overList [12, 13, 14, 15] (fun s i => s.wr (R.SHD_ENG_T n i) 0) (overList (List.range 16) (fun s i => s.wr (R.SHD_ENG_G n i) 0) s)

theorem State.rd_clearGT (s : State) (n a : Nat) : (s.clearGT n).rd a =
    if ∃ i ∈ ([12, 13, 14, 15] : List Nat), a = R.SHD_ENG_T n i then 0
    else if ∃ i ∈ List.range 16, a = R.SHD_ENG_G n i then 0 else s.rd a := by
  unfold State.clearGT
  rw [State.rd_overList_wr, State.rd_overList_wr]

theorem State.eng_clearGT (s : State) (n m : Nat) : (s.clearGT n).eng m = s.eng m :=
  (State.eng_overList_wr _ _ _ _ _).trans (State.eng_overList_wr _ _ _ _ _)

theorem State.now_clearGT (s : State) (n : Nat) : (s.clearGT n).now = s.now :=
  (State.now_overList_wr _ _ _ _).trans (State.now_overList_wr _ _ _ _)

theorem State.engReset_eq (s : State) (n : Nat) :
    s.engReset n = ((s.clearGT n).setEng n (s.clearedEng n .reset)).endService n := rfl

theorem State.rd_engReset (s : State) (n a : Nat) : (s.engReset n).rd a = (s.clearGT n).rd a := by
  rw [State.engReset_eq, State.rd_endService, State.rd_setEng_frame]

theorem State.eng_engReset (s : State) (n m : Nat) : (s.engReset n).eng m = if m = n then s.clearedEng n .reset else s.eng m := by
  rw [State.engReset_eq, State.eng_endService, State.eng_setEng, State.eng_clearGT]

theorem State.now_engReset (s : State) (n : Nat) : (s.engReset n).now = s.now := by
  rw [State.engReset_eq, State.now_endService, State.now_setEng_frame, State.now_clearGT]

theorem State.rd_engReset_g (s : State) (n : Nat) {i : Nat} (hi : i < 16) : (s.engReset n).rd (R.SHD_ENG_G n i) = 0 := by
  rw [State.rd_engReset, State.rd_clearGT]
  split
  · rfl
  · exact if_pos ⟨i, List.mem_range.mpr hi, rfl⟩

theorem State.rd_engReset_t (s : State) (n : Nat) {i : Nat} (hi : i < 16) (h12 : 12 ≤ i) : (s.engReset n).rd (R.SHD_ENG_T n i) = 0 := by
  rw [State.rd_engReset, State.rd_clearGT]
  exact if_pos ⟨i, by simp only [List.mem_cons, List.not_mem_nil]; omega, rfl⟩

/-- A word that is neither a G nor a T register of the engine. -/
theorem State.rd_engReset_other (s : State) (n : Nat) {a : Nat} (h : a < R.SHD_ENG_G n 0 ∨ R.SHD_ENG_G n 0 + 0x50 ≤ a) :
    (s.engReset n).rd a = s.rd a := by
  unfold R.SHD_ENG_G at h
  rw [State.rd_engReset, State.rd_clearGT, if_neg, if_neg]
  · rintro ⟨i, hi, rfl⟩
    rw [List.mem_range] at hi
    unfold R.SHD_ENG_G at h
    omega
  · rintro ⟨i, hi, rfl⟩
    simp only [List.mem_cons, List.not_mem_nil, or_false] at hi
    unfold R.SHD_ENG_T at h
    omega

theorem State.rd_engReset_ctl (s : State) (n : Nat) : (s.engReset n).rd (R.SHD_ENG_CTL n) = s.rd (R.SHD_ENG_CTL n) :=
  s.rd_engReset_other n (.inl (by unfold R.SHD_ENG_CTL R.SHD_ENG_G; omega))

/-- A bit rests on its word alone. -/
theorem State.b_of_rd {s t : State} {x : Fld} (h : t.rd x.addr = s.rd x.addr) : t.b x = s.b x := by
  unfold State.b State.f
  rw [h]

/-! ### RST of one engine -/

/-- The control, G and T words of an engine. -/
def isEngWord (m a : Nat) : Prop := R.SHD_ENG_CTL m ≤ a ∧ a < R.SHD_ENG_CTL m + 0x100

/-- No word of one engine is one of another's. -/
theorem isEngWord_disjoint {m n a b : Nat} (h : m ≠ n) (ha : isEngWord m a) (hb : isEngWord n b) : a ≠ b := by
  unfold isEngWord R.SHD_ENG_CTL at ha hb
  omega

theorem isEngWord_ctl (n : Nat) : isEngWord n (R.SHD_ENG_CTL n) := ⟨Nat.le_refl _, Nat.lt_add_of_pos_right (by decide)⟩

theorem isEngWord_g {i : Nat} (n : Nat) (hi : i < 16) : isEngWord n (R.SHD_ENG_G n i) := by
  unfold isEngWord R.SHD_ENG_G R.SHD_ENG_CTL
  omega

theorem isEngWord_t {i : Nat} (n : Nat) (hi : i < 16) : isEngWord n (R.SHD_ENG_T n i) := by
  unfold isEngWord R.SHD_ENG_T R.SHD_ENG_CTL
  omega

/-- Engine `m`, its words and the time are in `t` as in `s`. -/
structure State.AgreesAt (m : Nat) (s t : State) : Prop where
  eng : t.eng m = s.eng m
  rd : ∀ a, isEngWord m a → t.rd a = s.rd a
  now : t.now = s.now

/-- Whether RST acts now rests on the engine, its control word and the time. -/
theorem State.AgreesAt.engFreeAt {m : Nat} {s t : State} (h : State.AgreesAt m s t) : t.engFreeAt m t.now = s.engFreeAt m s.now := by
  obtain ⟨heng, hrd, hnow⟩ := h
  have hpark : t.b (F.SHD_ENG_CTL_PARK m) = s.b (F.SHD_ENG_CTL_PARK m) := State.b_of_rd (hrd _ (isEngWord_ctl m))
  unfold State.engFreeAt State.engParked State.engInWord
  rw [heng, hnow, hpark]

/-- One engine's part of a write of RST. -/
def State.engRst1 (b : Bool) (s : State) (n : Nat) : State :=
  let s1 := s.setB (F.SHD_ENG_CTL_RST n) b
  if b && s.engFreeAt n s.now then s1.engReset n else s1

theorem State.engRst_eq {s : State} {n : Nat} (b : Bool) (h : s.isCheck n = false) : s.engRst n b = s.engBoth n (State.engRst1 b) :=
  if_neg (by simp [h])

/-- A write of RST for one engine leaves every other engine and its words. -/
theorem State.engRst1_agrees (b : Bool) (s : State) {n m : Nat} (h : m ≠ n) : State.AgreesAt m s (s.engRst1 b n) := by
  have hset : State.AgreesAt m s (s.setB (F.SHD_ENG_CTL_RST n) b) :=
    ⟨State.eng_setB_frame _ _ _ _, fun a ha => State.rd_setB_other _ _ (isEngWord_disjoint h ha (isEngWord_ctl n)),
      State.now_setB_frame _ _ _⟩
  unfold State.engRst1
  dsimp only
  split
  · refine ⟨?_, fun a ha => ?_, (State.now_engReset _ n).trans hset.now⟩
    · rw [State.eng_engReset, if_neg h, hset.eng]
    · rw [State.rd_engReset_other _ n ?_, hset.rd a ha]
      unfold isEngWord R.SHD_ENG_CTL at ha
      unfold R.SHD_ENG_G
      omega
  · exact hset

/-- What a write of 1 to RST has done to engine `m`: the bit is set, and outside a word the engine is in RESET. -/
def State.RstDone (m : Nat) (s t : State) : Prop :=
  t.b (F.SHD_ENG_CTL_RST m) = true
    ∧ (s.engFreeAt m s.now = true → (t.eng m).st = .reset ∧ (t.eng m).sx = 0
      ∧ (t.eng m).lc = 0 ∧ (t.eng m).stk = [] ∧ (t.eng m).vis = false ∧ (t.eng m).startHeld = false
      ∧ (t.eng m).manger = (s.eng m).manger
      ∧ (∀ i : Fin 16, t.rd (R.SHD_ENG_G m i) = 0) ∧ ∀ i : Fin 16, 12 ≤ i.val → t.rd (R.SHD_ENG_T m i) = 0)
    ∧ (s.engFreeAt m s.now = false → t.eng m = s.eng m)

/-- It rests on what the engine was before. -/
theorem State.RstDone.before {m : Nat} {s s' t : State} (h : State.RstDone m s' t) (hs : State.AgreesAt m s s') : State.RstDone m s t := by
  unfold State.RstDone at h ⊢
  rwa [hs.engFreeAt, hs.eng] at h

/-- It rests on what the engine and its words are afterwards. -/
theorem State.RstDone.after {m : Nat} {s t t' : State} (h : State.RstDone m s t) (ht : State.AgreesAt m t t') : State.RstDone m s t' := by
  obtain ⟨hbit, hreset, hword⟩ := h
  refine ⟨(State.b_of_rd (ht.rd _ (isEngWord_ctl m))).trans hbit, fun hfree => ?_, fun hfree => ht.eng.trans (hword hfree)⟩
  obtain ⟨hst, hsx, hlc, hstk, hvis, hstart, hmanger, hg, ht'⟩ := hreset hfree
  rw [ht.eng]
  exact ⟨hst, hsx, hlc, hstk, hvis, hstart, hmanger, fun i => (ht.rd _ (isEngWord_g m i.isLt)).trans (hg i),
    fun i hi => (ht.rd _ (isEngWord_t m i.isLt)).trans (ht' i hi)⟩

/-- One engine's part does it. -/
theorem State.engRst1_done (s : State) (m : Nat) : State.RstDone m s (s.engRst1 true m) := by
  have hset : (s.setB (F.SHD_ENG_CTL_RST m) true).b (F.SHD_ENG_CTL_RST m) = true :=
    State.b_setB_same _ true (by show 0 + 1 ≤ 32; decide) rfl
  unfold State.engRst1 State.RstDone
  rw [Bool.true_and]
  dsimp only
  split
  case isTrue hfree =>
    have hmanger : ((s.setB (F.SHD_ENG_CTL_RST m) true).eng m).manger = (s.eng m).manger :=
      congrArg Eng.manger (State.eng_setB_frame _ _ _ _)
    refine ⟨(State.b_of_rd (State.rd_engReset_ctl _ m)).trans hset, fun _ => ?_, fun h => absurd (hfree.symm.trans h) (by decide)⟩
    rw [State.eng_engReset, if_pos rfl]
    exact ⟨rfl, rfl, rfl, rfl, rfl, rfl, hmanger, fun i => State.rd_engReset_g _ m i.isLt,
      fun i hi => State.rd_engReset_t _ m i.isLt hi⟩
  case isFalse hfree =>
    exact ⟨hset, fun h => absurd h hfree, fun _ => State.eng_setB_frame _ _ _ _⟩

/-- A write of 0 to RST moves no engine. -/
theorem State.eng_engRst1_false (s : State) (n m : Nat) : (s.engRst1 false n).eng m = s.eng m := State.eng_setB_frame _ _ _ _

/-! ### RST of an engine or a pair -/

theorem exec_engCtlRst {r : Requester} {n : Fin 16} {s : State} (b : Bool) (hreach : s.writesReach r) (hcheck : s.isCheck n = false) :
    exec (.engCtlRst r n b) s = .next (s.engBoth n (State.engRst1 b)) :=
  congrArg Host.Outcome.next
    ((State.writeBy_served s (fieldTo s r (F.SHD_ENG_CTL_RST n) (toBit b)) _ hreach).trans (State.engRst_eq b hcheck))

/-- RST 1 acts on the engine, and in a pair on the check engine. -/
theorem State.engBoth_rst_done (s : State) (n : Nat) {m : Nat} (h : m = n ∨ (s.isLead n = true ∧ m = n + 1)) :
    State.RstDone m s (s.engBoth n (State.engRst1 true)) := by
  have hne : n ≠ n + 1 := Nat.ne_of_lt (Nat.lt_succ_self n)
  rcases h with rfl | ⟨hlead, rfl⟩
  · unfold State.engBoth
    split
    · exact (s.engRst1_done m).after (State.engRst1_agrees true _ hne)
    · exact s.engRst1_done m
  · rw [State.engBoth_lead hlead]
    exact (State.engRst1_done _ (n + 1)).before (s.engRst1_agrees true hne.symm)

/-- It leaves every other engine. -/
theorem State.eng_engBoth_rst (s : State) (b : Bool) {n m : Nat} (h : m ≠ n) (h' : m ≠ n + 1) :
    (s.engBoth n (State.engRst1 b)).eng m = s.eng m :=
  State.engBoth_leaves (·.eng m) (fun x => (x.engRst1_agrees b h).eng) (fun x => (x.engRst1_agrees b h').eng)

/-- RST 0 clears the bit. -/
theorem State.b_engBoth_rst_false (s : State) (n : Nat) : (s.engBoth n (State.engRst1 false)).b (F.SHD_ENG_CTL_RST n) = false := by
  refine (State.engBoth_first (·.b (F.SHD_ENG_CTL_RST n)) fun x => ?_).trans ?_
  · exact State.b_setB_other x false (.inl (by show R.SHD_ENG_CTL n ≠ R.SHD_ENG_CTL (n + 1); unfold R.SHD_ENG_CTL; omega))
  · exact State.b_setB_same s false (by show 0 + 1 ≤ 32; decide) rfl

/-! ### PARK -/

/-- One engine's part of a write of PARK. -/
def State.engPark1 (b : Bool) (s : State) (n : Nat) : State :=
  let s1 := s.setB (F.SHD_ENG_CTL_PARK n) b
  if b then (if s.b (F.SHD_ENG_CTL_PARK n) then s1 else s1.setEng n { s.eng n with parkAt := s.now })
  else if s.engParked n && s.reached (s.eng n).ready then (s1.setEng n { s.eng n with ready := s.nextCycle }).engFirst n else s1

theorem State.engPark_eq {s : State} {n : Nat} (b : Bool) (h : s.isCheck n = false) : s.engPark n b = s.engBoth n (State.engPark1 b) :=
  if_neg (by simp [h])

/-- The registers are those after the bit is written; no other engine moves, and neither the state nor the address of its own. -/
theorem State.engPark1_frame (s : State) (b : Bool) (n : Nat) :
    (∀ a, (s.engPark1 b n).rd a = (s.setB (F.SHD_ENG_CTL_PARK n) b).rd a) ∧ (∀ m, m ≠ n → (s.engPark1 b n).eng m = s.eng m)
      ∧ ((s.engPark1 b n).eng n).upc = (s.eng n).upc ∧ ((s.engPark1 b n).eng n).st = (s.eng n).st := by
  have hset : ∀ m, (s.setB (F.SHD_ENG_CTL_PARK n) b).eng m = s.eng m := State.eng_setB_frame s _ b
  have hput : ∀ (e : Eng) m, m ≠ n → ((s.setB (F.SHD_ENG_CTL_PARK n) b).setEng n e).eng m = s.eng m :=
    fun e m hm => (State.eng_setEng_other _ e hm).trans (hset m)
  unfold State.engPark1
  extract_lets s1
  split
  · split
    · exact ⟨fun _ => rfl, fun m _ => hset m, congrArg Eng.upc (hset n), congrArg Eng.st (hset n)⟩
    · rw [State.eng_setEng_same]
      exact ⟨State.rd_setEng_frame s1 n _, hput _, rfl, rfl⟩
  · split
    · obtain ⟨hrd, hothers, hupc, hst⟩ := State.engFirst_frame (s1.setEng n { s.eng n with ready := s.nextCycle }) n
      rw [State.eng_setEng_same] at hupc hst
      exact ⟨fun a => (hrd a).trans (State.rd_setEng_frame s1 n _ a), fun m hm => (hothers m hm).trans (hput _ m hm), hupc, hst⟩
    · exact ⟨fun _ => rfl, fun m _ => hset m, congrArg Eng.upc (hset n), congrArg Eng.st (hset n)⟩

/-- Neither the address nor the state of any engine moves. -/
theorem State.place_engPark1 (s : State) (b : Bool) (n m : Nat) :
    (((s.engPark1 b n).eng m).upc, ((s.engPark1 b n).eng m).st) = ((s.eng m).upc, (s.eng m).st) := by
  obtain ⟨-, hothers, hupc, hst⟩ := s.engPark1_frame b n
  by_cases hm : m = n
  · rw [hm, hupc, hst]
  · rw [hothers m hm]

theorem State.rd_engPark1_other (s : State) (b : Bool) {n a : Nat} (h : a ≠ R.SHD_ENG_CTL n) : (s.engPark1 b n).rd a = s.rd a :=
  ((s.engPark1_frame b n).1 a).trans (State.rd_setB_other s b h)

/-- The bit. -/
theorem State.b_engPark1 (s : State) (b : Bool) (n : Nat) : (s.engPark1 b n).b (F.SHD_ENG_CTL_PARK n) = b := by
  have hset : (s.setB (F.SHD_ENG_CTL_PARK n) b).b (F.SHD_ENG_CTL_PARK n) = b := State.b_setB_same s b (by show 1 + 1 ≤ 32; decide) rfl
  exact (State.b_of_rd ((s.engPark1_frame b n).1 _)).trans hset

theorem exec_engCtlPark {r : Requester} {n : Fin 16} {s : State} (b : Bool) (hreach : s.writesReach r) (hcheck : s.isCheck n = false) :
    exec (.engCtlPark r n b) s = .next (s.engBoth n (State.engPark1 b)) :=
  congrArg Host.Outcome.next
    ((State.writeBy_served s (fieldTo s r (F.SHD_ENG_CTL_PARK n) (toBit b)) _ hreach).trans (State.engPark_eq b hcheck))

/-- The bit of the engine written, not that of the check engine beside it. -/
theorem State.b_engBoth_park (s : State) (b : Bool) (n : Nat) : (s.engBoth n (State.engPark1 b)).b (F.SHD_ENG_CTL_PARK n) = b := by
  refine (State.engBoth_first (·.b (F.SHD_ENG_CTL_PARK n)) fun x => ?_).trans (s.b_engPark1 b n)
  exact State.b_of_rd (x.rd_engPark1_other b (by show R.SHD_ENG_CTL n ≠ R.SHD_ENG_CTL (n + 1); unfold R.SHD_ENG_CTL; omega))

/-! ### The settlement -/

/-- Settles O35: the words by `exec_engineWord`, the wait and the pass by their own lemmas, RST by `RstDone`, PARK by its frame. -/
theorem enginesRunTheirWords : Obligations.EnginesRunTheirWords := by
  unfold Obligations.EnginesRunTheirWords
  refine ⟨?single, ?pair, fun _ _ trgBad _ => exec_engineWord_check _ trgBad, ?waits, ?waitEnd, ?pass, ?rst, ?rstOff, ?park⟩
  case single =>
    intro n mgrBad trgBad s hcheck f x hlead hready hcycle hwait hirq hill hstack hmust hlast
    have hacts : f.engActs n = true := by simp [State.engActs, State.engCan, hready, hcycle, hwait, hill, hstack, hmust, hlast]
    have hheld : f.engHeld n = f := (State.engHeld_single hlead).trans (State.engHold_free hmust)
    have hany : (f.engPair n).any f.engActs = true := by simp [State.engPair_single hlead, hacts]
    rw [exec_engineWord mgrBad trgBad hcheck hirq, show (s.engSeen n).engHeld n = f from hheld]
    exact congrArg Host.Outcome.next ((if_pos hany).trans (State.engDoes_single mgrBad trgBad hlead hacts))
  case pair =>
    intro n mgrBad trgBad s hcheck f h p bad2 o o2 _ hlead hirq hends
    have hrun : exec (.engineWord n mgrBad trgBad) s = .next (h.engDoes n mgrBad trgBad) :=
      (exec_engineWord mgrBad trgBad hcheck hirq).trans (congrArg _ (if_pos (State.any_engActs_lead hlead hends)))
    rw [State.engDoes_lead trgBad hlead] at hrun
    refine ⟨fun hacts hacts2 heffs hill hstack => ?_, fun hdiffer => ⟨_, hrun, ?_⟩⟩
    · dsimp only at hrun
      rw [hrun, hacts, hacts2, State.engPairDoes_agree heffs hill hstack]
    · obtain ⟨hst, hst2⟩ := State.engPairDoes_differ hdiffer
      dsimp only
      rw [State.eng_setEng_other _ _ (Nat.ne_of_lt (Nat.lt_succ_self _)), State.eng_setEng_same]
      exact ⟨hst, hst2⟩
  case waits =>
    intro n mgrBad trgBad s hcheck f hlead hready hcycle hmode hwait hirq hill hstack hmust hbegun
    have hcan : f.engCan n = true := by simp [State.engCan, hready, hcycle, hwait, hill, hstack]
    have hheld : f.engHeld n = f.setEng n { f.eng n with waiting := true, waitOver := f.condMet n } :=
      (State.engHeld_single hlead).trans (State.engHold_waits hcan hmust hbegun hmode)
    rw [exec_engineWord mgrBad trgBad hcheck hirq, show (s.engSeen n).engHeld n = _ from hheld]
    refine congrArg Host.Outcome.next (if_neg ?_)
    rw [State.engPair_single (show State.isLead (f.setEng n _) n = false from hlead), List.any_cons, List.any_nil, Bool.or_false,
      State.engActs_waiting (by rw [State.eng_setEng_same])]
    decide
  case waitEnd =>
    exact fun n s hcheck hlead hready hcycle hwait hirq hmust =>
      congrArg Host.Outcome.next (State.engWaitEnd_over hcheck hlead hready hcycle hwait hirq hmust)
  case pass =>
    exact fun n s hlead hcheck hst hheld hparked hclock hmode hcycle hirq =>
      congrArg Host.Outcome.next (State.engPass_starts hlead hcheck hst hheld hparked hclock hmode hcycle hirq)
  case rst =>
    exact fun r n s hreach hcheck => ⟨_, exec_engCtlRst true hreach hcheck, fun _ => s.engBoth_rst_done n,
      fun _ => s.eng_engBoth_rst true⟩
  case rstOff =>
    exact fun r n s hreach hcheck => ⟨_, exec_engCtlRst false hreach hcheck, s.b_engBoth_rst_false n,
      fun m => State.engBoth_leaves (·.eng m) (fun x => x.eng_engRst1_false n m) (fun x => x.eng_engRst1_false (n + 1) m)⟩
  case park =>
    intro r n b s hreach hcheck
    refine ⟨_, exec_engCtlPark b hreach hcheck, s.b_engBoth_park b n, fun m => ?_, fun m h h' => ?_, fun a h h' => ?_⟩
    · exact Prod.mk.inj (State.engBoth_leaves (fun t => ((t.eng m).upc, (t.eng m).st)) (fun x => x.place_engPark1 b n m)
        (fun x => x.place_engPark1 b (n + 1) m))
    · exact State.engBoth_leaves (·.eng m) (fun x => (x.engPark1_frame b n).2.1 m h) (fun x => (x.engPark1_frame b (n + 1)).2.1 m h')
    · exact State.engBoth_leaves (·.rd a) (fun x => x.rd_engPark1_other b h) (fun x => x.rd_engPark1_other b h')

end Sys2Proof.Machine
end

section
/-! Traps of the engines: what is saved, where they go on, and when one is taken (R164, R166, R168, R170, R171). -/

namespace Sys2Proof.Machine

open Sys2Proof

/-! ### The save words (R166, Table 7.12) -/

/-- Words written into a save slot, from place `i` on. -/
def State.saveFrom (s : State) (k i : Nat) (ws : List Nat) : State :=
  (ws.foldl (fun (x : State × Nat) w => (x.1.wr (R.STL_SAVE k x.2) (BitVec.ofNat 32 w), x.2 + 1)) (s, i)).1

theorem State.saveFrom_cons (s : State) (k i w : Nat) (ws : List Nat) :
    s.saveFrom k i (w :: ws) = (s.wr (R.STL_SAVE k i) (BitVec.ofNat 32 w)).saveFrom k (i + 1) ws := rfl

theorem State.eng_saveFrom (ws : List Nat) (s : State) (k i m : Nat) : (s.saveFrom k i ws).eng m = s.eng m := by
  induction ws generalizing s i with
  | nil => rfl
  | cons w ws ih => rw [State.saveFrom_cons, ih, State.eng_wr_frame]

/-- A word that is none of those written. -/
theorem State.rd_saveFrom_other (ws : List Nat) (s : State) {k i a : Nat}
    (h : ∀ j, i ≤ j → j < i + ws.length → a ≠ R.STL_SAVE k j) : (s.saveFrom k i ws).rd a = s.rd a := by
  induction ws generalizing s i with
  | nil => rfl
  | cons w ws ih =>
    rw [List.length_cons] at h
    rw [State.saveFrom_cons, ih _ fun j hj hlt => h j (by omega) (by omega), State.rd_wr_other _ _ (h i (by omega) (by omega))]

/-- The words written. -/
theorem State.rd_saveFrom (ws : List Nat) (s : State) {k i j : Nat} (h : j < ws.length) :
    (s.saveFrom k i ws).rd (R.STL_SAVE k (i + j)) = BitVec.ofNat 32 ws[j] := by
  have hinj : ∀ {x y}, R.STL_SAVE k x = R.STL_SAVE k y → x = y := fun he => by unfold R.STL_SAVE at he; omega
  induction ws generalizing s i j with
  | nil => exact absurd h (Nat.not_lt_zero j)
  | cons w ws ih =>
    rw [State.saveFrom_cons]
    cases j with
    | zero => exact (State.rd_saveFrom_other ws _ fun j hj _ he => by have := hinj he; omega).trans (State.rd_wr_same _ _ _)
    | succ j =>
      rw [show i + (j + 1) = i + 1 + j by omega, List.getElem_cons_succ]
      exact ih _ (Nat.lt_of_succ_lt_succ h)

/-! ### The trap (R166) -/

/-- The stall whose save slot a trap takes, within the shed. -/
def trapStall (e : Eng) : Nat := if e.sx < 24 then e.sx else 0

theorem trapStall_lt (e : Eng) : trapStall e < 24 := by
  unfold trapStall
  split
  · assumption
  · decide

/-- What a trap saves of the engine. -/
def trapWords (e : Eng) (kind cause time : Nat) : List Nat :=
  [e.upc + toBit e.z * 2 ^ 11 + toBit e.n * 2 ^ 12 + toBit e.c * 2 ^ 13 + toBit e.v * 2 ^ 14 + toBit e.vis * 2 ^ 15
      + toBit e.waiting * 2 ^ 16 + toBit e.poison * 2 ^ 17 + toBit (decide (e.st = .done)) * 2 ^ 18,
    e.sx + e.lc * 2 ^ 5 + e.stk.length * 2 ^ 17, e.stk.getD 0 0 + e.stk.getD 1 0 * 2 ^ 11, e.stk.getD 2 0 + e.stk.getD 3 0 * 2 ^ 11,
    cause, time, if e.waiting || 2 ≤ kind then e.upc else e.lastAddr, e.last]

/-- The address of a trap's handler. -/
def State.trapVec (s : State) (n kind : Nat) : Nat :=
  if kind < 2 then s.f (F.SHD_ENG_VEC_IRQ_VEC n) else s.f (F.SHD_ENG_VEC_FAULT_VEC n)

/-- The engine in TRAP. -/
def State.trapEng (s : State) (n kind lag : Nat) : Eng :=
  { s.eng n with st := .run, trapped := true, inDone := decide ((s.eng n).st = .done), waiting := false, waitOver := false, cut := false
                 soft := false, stk := [], trapSx := trapStall (s.eng n), upc := s.trapVec n kind
                 ready := s.now + BitVec.ofNat 48 (12 + lag) }

section
variable (s : State) (n kind : Nat) (g : Option Nat) (lag : Nat)

/-- The registers before the trap is counted. -/
def State.trapSaved : State :=
  s.saveFrom (24 * n + trapStall (s.eng n)) 0 (trapWords (s.eng n) kind (causeWord kind g) ((s.now.toNat + lag) % 2 ^ 24))

theorem State.engTrap_eq : s.engTrap n kind g lag =
    (((s.trapSaved n kind g lag).setEng n (s.trapEng n kind lag)).bump (R.SHD_ENG_TRAPS n)).wr (R.SHD_ENG_CAUSE n)
      (BitVec.ofNat 32 (causeWord kind g)) := rfl

theorem State.eng_engTrap (m : Nat) : (s.engTrap n kind g lag).eng m = if m = n then s.trapEng n kind lag else s.eng m := by
  rw [State.engTrap_eq, State.eng_wr_frame, State.eng_bump_frame, State.eng_setEng]
  split
  · rfl
  · exact State.eng_saveFrom _ _ _ _ _

theorem State.eng_engTrap_same : (s.engTrap n kind g lag).eng n = s.trapEng n kind lag :=
  (s.eng_engTrap n kind g lag n).trans (if_pos rfl)

/-- A save word lies below the engine's registers. -/
theorem saveAddr_lt {i j : Nat} (hi : i < 24) (hj : j < 8) : R.STL_SAVE (24 * n + i) j < R.SHD_ENG_CTL n := by
  have hdiv : (24 * n + i) / 24 = n := by omega
  have hmod : (24 * n + i) % 24 = i := by omega
  unfold R.STL_SAVE R.SHD_ENG_CTL
  rw [hdiv, hmod]
  omega

theorem State.rd_engTrap_cause : (s.engTrap n kind g lag).rd (R.SHD_ENG_CAUSE n) = BitVec.ofNat 32 (causeWord kind g) :=
  State.rd_wr_same _ _ _

/-- A word other than the cause and the count of traps is as it was saved. -/
theorem State.rd_engTrap_saved {a : Nat} (hcause : a ≠ R.SHD_ENG_CAUSE n) (htraps : a ≠ R.SHD_ENG_TRAPS n) :
    (s.engTrap n kind g lag).rd a = (s.trapSaved n kind g lag).rd a := by
  rw [State.engTrap_eq, State.rd_wr_other _ _ hcause, State.rd_bump_other _ htraps, State.rd_setEng_frame]

/-- The engine's registers are not among the save words. -/
theorem State.rd_trapSaved_above {a : Nat} (h : R.SHD_ENG_CTL n ≤ a) : (s.trapSaved n kind g lag).rd a = s.rd a :=
  State.rd_saveFrom_other _ _ fun _ _ hj he =>
    absurd h (Nat.not_le.mpr (he ▸ saveAddr_lt n (trapStall_lt _) (by simpa [trapWords] using hj)))

theorem State.rd_engTrap_traps : (s.engTrap n kind g lag).rd (R.SHD_ENG_TRAPS n)
    = BitVec.ofNat 32 (min ((s.rd (R.SHD_ENG_TRAPS n)).toNat % 2 ^ 24 + 1) 0xFFFFFF) := by
  rw [State.engTrap_eq, State.rd_wr_other _ _ (by unfold R.SHD_ENG_TRAPS R.SHD_ENG_CAUSE; omega), State.rd_bump_same,
    State.rd_setEng_frame, State.rd_trapSaved_above _ _ _ _ _ (by unfold R.SHD_ENG_TRAPS R.SHD_ENG_CTL; omega)]

/-- The words of the save slot. -/
theorem State.rd_engTrap_save {j : Nat} (hj : j < 8) : (s.engTrap n kind g lag).rd (R.STL_SAVE (24 * n + trapStall (s.eng n)) j)
    = BitVec.ofNat 32 ((trapWords (s.eng n) kind (causeWord kind g) ((s.now.toNat + lag) % 2 ^ 24))[j]'hj) := by
  have hlt := saveAddr_lt n (trapStall_lt (s.eng n)) hj
  have hcause : R.SHD_ENG_CTL n < R.SHD_ENG_CAUSE n := by unfold R.SHD_ENG_CTL R.SHD_ENG_CAUSE; omega
  have htraps : R.SHD_ENG_CTL n < R.SHD_ENG_TRAPS n := by unfold R.SHD_ENG_CTL R.SHD_ENG_TRAPS; omega
  rw [State.rd_engTrap_saved _ _ _ _ _ (Nat.ne_of_lt (Nat.lt_trans hlt hcause))
    (Nat.ne_of_lt (Nat.lt_trans hlt htraps))]
  have hsave := State.rd_saveFrom (trapWords (s.eng n) kind (causeWord kind g) ((s.now.toNat + lag) % 2 ^ 24)) s
    (k := 24 * n + trapStall (s.eng n)) (i := 0) hj
  rwa [Nat.zero_add] at hsave

/-- G stands (R165). -/
theorem State.rd_engTrap_g {i : Nat} (hi : i < 16) : (s.engTrap n kind g lag).rd (R.SHD_ENG_G n i) = s.rd (R.SHD_ENG_G n i) := by
  rw [State.rd_engTrap_saved _ _ _ _ _ (by unfold R.SHD_ENG_G R.SHD_ENG_CAUSE; omega) (by unfold R.SHD_ENG_G R.SHD_ENG_TRAPS; omega),
    State.rd_trapSaved_above _ _ _ _ _ (by unfold R.SHD_ENG_G R.SHD_ENG_CTL; omega)]

/-- The interrupted address stands in the first save word. -/
theorem State.upc_engTrap_save (h : (s.eng n).upc < 2 ^ 11) :
    getBits ((s.engTrap n kind g lag).rd (R.STL_SAVE (24 * n + trapStall (s.eng n)) 0)) 0 11 = (s.eng n).upc := by
  rw [State.rd_engTrap_save _ _ _ _ _ (by decide)]
  show (BitVec.ofNat 32 _).toNat >>> 0 % 2 ^ 11 = _
  rw [BitVec.toNat_ofNat, Nat.shiftRight_zero]
  simp only [trapWords, List.getElem_cons_zero]
  omega

end

/-! ### Fault causes (R170, R171) -/

/-- A fault cause other than the ECC error, within TRAP. -/
theorem State.engFaultTrap_trapped {s : State} {n kind : Nat} (c : LogCode) (hk : kind ≠ 4) (h : (s.eng n).trapped = true) :
    s.engFaultTrap n kind c = (s.log c n 0).engFault n := by
  unfold State.engFaultTrap
  simp only [if_neg hk, State.eng_log_frame, h, if_true]

/-- A fault cause other than the ECC error, outside TRAP. -/
theorem State.engFaultTrap_taken {s : State} {n kind : Nat} (c : LogCode) (hk : kind ≠ 4) (h : (s.eng n).trapped = false) :
    s.engFaultTrap n kind c = (((s.log c n 0).engTrap n kind none
      (if (s.eng n).waiting || (s.eng n).st = .done then 2 else 0)).bump (R.SHD_ENG_FAULTS n)).pulse (112 + n) := by
  unfold State.engFaultTrap
  simp only [if_neg hk, State.eng_log_frame, h, Bool.false_eq_true, if_false]

/-- The engine after an ECC error outside TRAP. -/
theorem State.eng_engFaultTrap_ecc {s : State} {n : Nat} (c : LogCode) (h : (s.eng n).trapped = false) :
    ∃ lag, (s.engFaultTrap n 4 c).eng n
      = ((s.log c n 0).setEng n { s.eng n with eccSafe := true }).trapEng n 4 lag := by
  unfold State.engFaultTrap
  simp only [if_true, State.eng_log_frame, State.eng_setEng_same, h, Bool.false_eq_true, if_false, State.eng_pulse_frame,
    State.eng_bump_frame, State.eng_engTrap_same]
  exact ⟨_, rfl⟩

/-! ### When a trap is taken (R164) -/

/-- The row of a trap acts: the first tick of a cycle at a word boundary or in WAIT, outside IDLE, for an engine that no pair
checks and that is not PARKED. -/
def State.mayTrap (s : State) (n : Nat) : Bool :=
  s.engClock && s.mode != 3 && s.engCycle && !s.isCheck n && !s.engParked n && s.engFree n

section
variable {s : State} {n : Nat} (hon : s.mayTrap n = true)
include hon

theorem State.not_not_mayTrap : ¬ (!s.mayTrap n) = true := by simp [hon]

theorem State.trapRow_soft (hst : (s.eng n).st = .run) (hsoft : (s.eng n).soft = true) :
    s.trapRow n .soft = s.engBoth n (fun x m => x.engTrap m 1 none 0) :=
  (if_neg (State.not_not_mayTrap hon)).trans (if_pos (by simp [hst, hsoft]))

theorem State.trapRow_irq {g : Nat} (hsource : s.engSource n = some g) (hdue : s.engIrqDue n = true) (hsoft : (s.eng n).soft = false) :
    s.trapRow n .irq = (s.engBoth n (fun x m => x.engTrap m 0 (some g) 0)).claim g (.engine n) := by
  refine (if_neg (State.not_not_mayTrap hon)).trans ?_
  rw [hsource]
  exact if_pos (by simp [hdue, hsoft])

section
variable (hnext : s.engNextUp n = true) (hdue : s.engIrqDue n = false)
include hnext hdue

theorem State.trapRow_illegal (hill : s.engIllegal n = true) :
    s.trapRow n .illegal = s.engBoth n (fun x m => x.engFaultTrap m 2 .shdEngIllegal) :=
  (if_neg (State.not_not_mayTrap hon)).trans (if_pos (by simp [hnext, hdue, hill]))

theorem State.trapRow_stack (hst : (s.eng n).st = .run) (hill : s.engIllegal n = false) (hstack : s.engStackBad n = true) :
    s.trapRow n .stack = s.engBoth n (fun x m => x.engFaultTrap m 3 .shdEngStack) :=
  (if_neg (State.not_not_mayTrap hon)).trans (if_pos (by simp [hst, hnext, hdue, hill, hstack]))

theorem State.trapRow_ecc (hwait : (s.eng n).waiting = false) :
    s.trapRow n .ecc = s.engBoth n (fun x m => x.engFaultTrap m 4 .shdUcodeEcc) :=
  (if_neg (State.not_not_mayTrap hon)).trans (if_pos (by simp [hnext, hdue, hwait]))

end
end

theorem exec_trap (n : Fin 16) (c : TrapCause) (s : State) : exec (.trap n c) s = .next (s.trapRow n c) := rfl

/-- Settles O36: what a trap leaves, word by word, then the fault causes, then the row of each cause. -/
theorem engineTrapsSaveAndVector : Obligations.EngineTrapsSaveAndVector := by
  unfold Obligations.EngineTrapsSaveAndVector
  refine ⟨?saved, ?fault, ?ecc, ?taken⟩
  case saved =>
    intro n kind lag g s k t
    have hn : t.eng n = s.trapEng n kind lag := s.eng_engTrap_same n kind g lag
    rw [hn]
    exact ⟨rfl, rfl, rfl, rfl, s.rd_engTrap_cause n kind g lag, s.rd_engTrap_save n kind g lag (j := 4) (by decide),
      s.rd_engTrap_save n kind g lag (j := 5) (by decide), s.upc_engTrap_save n kind g lag, s.rd_engTrap_traps n kind g lag,
      fun i => s.rd_engTrap_g n kind g lag i.isLt, fun m hm => (s.eng_engTrap n kind g lag m).trans (if_neg hm)⟩
  case fault =>
    intro n kind c s hk
    have hk4 : kind ≠ 4 := by omega
    exact ⟨State.engFaultTrap_trapped c hk4, State.engFaultTrap_taken c hk4⟩
  case ecc =>
    intro n c s h
    obtain ⟨lag, heng⟩ := State.eng_engFaultTrap_ecc c h
    rw [heng]
    refine ⟨?_, rfl, ?_⟩
    · show (State.eng _ n).eccSafe = true
      rw [State.eng_setEng_same]
    · exact State.f_log s c _ _ (by show R.SHD_ENG_VEC n ≠ R.LOG_LOST; unfold R.SHD_ENG_VEC R.LOG_LOST; omega)
  case taken =>
    intro n s hcheck hclock hmode hcycle hparked hfree
    have hon : s.mayTrap n = true := by simp [State.mayTrap, hcheck, hclock, hmode, hcycle, hparked, hfree]
    simp only [exec_trap, Host.Outcome.next.injEq]
    exact ⟨State.trapRow_soft hon, fun g => State.trapRow_irq hon, fun hnext hdue => State.trapRow_illegal hon hnext hdue,
      fun hst hnext hdue => State.trapRow_stack hon hnext hdue hst, fun hnext hdue => State.trapRow_ecc hon hnext hdue⟩

end Sys2Proof.Machine
end

section
/-! What the runners' shared operations leave and what they write: TR and SR, the request, a start, a fault. -/

namespace Sys2Proof.Machine

open Sys2Proof

/-! ### TR and SR (Table 8.2) -/

@[simp] theorem State.rnTr_setRnTr (s : State) (n : Nat) (v : BitVec 24) : (s.setRnTr n v).rnTr n = v := by
  unfold State.rnTr State.setRnTr
  rw [State.rd_wr_same]
  exact BitVec.setWidth_setWidth_of_le v (by decide)

theorem State.rd_setRnTr_other (s : State) {n a : Nat} (v : BitVec 24) (h : a ≠ R.RUN_TIME n) : (s.setRnTr n v).rd a = s.rd a :=
  State.rd_wr_other _ _ h

theorem State.rnTr_of_rd {s t : State} {n : Nat} (h : t.rd (R.RUN_TIME n) = s.rd (R.RUN_TIME n)) : t.rnTr n = s.rnTr n :=
  congrArg (BitVec.setWidth 24) h

theorem State.f_of_rd {s t : State} {x : Fld} (h : t.rd x.addr = s.rd x.addr) : t.f x = s.f x :=
  congrArg (getBits · x.lo x.len) h

/-- The two halves of SR stand in words of their own. -/
theorem srHi_ne_srLo (n : Nat) : R.RUN_SR_HI n ≠ R.RUN_SR_LO n := by unfold R.RUN_SR_HI R.RUN_SR_LO; omega

@[simp] theorem State.rnSr_setRnSr (s : State) (n : Nat) (v : BitVec 32) : (s.setRnSr n v).rnSr n = v := by
  have hlo : (s.setRnSr n v).f (F.RUN_SR_LO_LO n) = v.toNat % 2 ^ 24 :=
    (State.f_setF_other _ _ (.inl (srHi_ne_srLo n).symm)).trans
      ((State.f_setF_same _ _ (Nat.le_of_ble_eq_true rfl)).trans (Nat.mod_mod _ _))
  have hhi : (s.setRnSr n v).f (F.RUN_SR_HI_HI n) = v.toNat / 2 ^ 24 :=
    (State.f_setF_same _ _ (Nat.le_of_ble_eq_true rfl)).trans (Nat.mod_eq_of_lt (by show _ < 2 ^ 8; have := v.isLt; omega))
  unfold State.rnSr
  rw [hlo, hhi]
  apply BitVec.eq_of_toNat_eq
  rw [BitVec.toNat_ofNat]
  omega

theorem State.rd_setRnSr_other (s : State) {n a : Nat} (v : BitVec 32) (hlo : a ≠ R.RUN_SR_LO n) (hhi : a ≠ R.RUN_SR_HI n) :
    (s.setRnSr n v).rd a = s.rd a :=
  (State.rd_setF_other _ _ hhi).trans (State.rd_setF_other _ _ hlo)

theorem State.rnSr_of_rd {s t : State} {n : Nat} (hlo : t.rd (R.RUN_SR_LO n) = s.rd (R.RUN_SR_LO n))
    (hhi : t.rd (R.RUN_SR_HI n) = s.rd (R.RUN_SR_HI n)) : t.rnSr n = s.rnSr n := by
  unfold State.rnSr
  rw [State.f_of_rd (x := F.RUN_SR_LO_LO n) hlo, State.f_of_rd (x := F.RUN_SR_HI_HI n) hhi]

/-! ### The request (R189) -/

theorem State.rn_setRn_other (s : State) {n m : Nat} (x : Runner) (h : m ≠ n) : (s.setRn n x).rn m = s.rn m :=
  (State.rn_setRn s n x m).trans (if_neg h)

@[simp] theorem State.rd_rnUnreq (s : State) (n a : Nat) : (s.rnUnreq n).rd a = s.rd a := by
  unfold State.rnUnreq
  dsimp only
  split <;> rfl

@[simp] theorem State.now_rnUnreq (s : State) (n : Nat) : (s.rnUnreq n).now = s.now := by
  unfold State.rnUnreq
  dsimp only
  split <;> rfl

@[simp] theorem State.part_rnUnreq (s : State) (n k : Nat) : (s.rnUnreq n).part k = s.part k := by
  unfold State.rnUnreq
  dsimp only
  split <;> rfl

theorem State.rn_rnUnreq_other (s : State) {n m : Nat} (h : m ≠ n) : (s.rnUnreq n).rn m = s.rn m := by
  unfold State.rnUnreq
  dsimp only
  split
  · exact State.rn_setRn_other _ _ h
  · rfl

/-- A withdrawn request, and nothing else of the runner. -/
theorem State.rn_rnUnreq_same (s : State) (n : Nat) :
    ∃ e, (s.rnUnreq n).rn n = { s.rn n with req := false, reqEnd := e } := by
  unfold State.rnUnreq
  dsimp only
  split
  · exact ⟨_, State.rn_setRn_same _ _ _⟩
  · rename_i h
    exact ⟨(s.rn n).reqEnd, by rw [← Bool.eq_false_iff.mpr h]⟩

/-! ### HALTED and a start (R190) -/

@[simp] theorem State.rd_rnHaltNow (s : State) (n a : Nat) : (s.rnHaltNow n).rd a = s.rd a := State.rd_rnUnreq s n a

theorem State.rn_rnHaltNow_other (s : State) {n m : Nat} (h : m ≠ n) : (s.rnHaltNow n).rn m = s.rn m :=
  (State.rn_setRn_other _ _ h).trans (State.rn_rnUnreq_other s h)

theorem State.rn_rnHaltNow_same (s : State) (n : Nat) : ((s.rnHaltNow n).rn n).st = .halted ∧ ((s.rnHaltNow n).rn n).req = false := by
  obtain ⟨e, he⟩ := s.rn_rnUnreq_same n
  unfold State.rnHaltNow
  dsimp only
  rw [State.rn_setRn_same, he]
  exact ⟨rfl, rfl⟩

/-- The words that a start clears. -/
def State.startCleared (s : State) (n : Nat) : State :=
  ((((s.rnUnreq n).setRnSr n 0).setF (F.RUN_BC_BC n) 0).setF (F.RUN_STAMP_S n) 0).setB (F.RUN_CTL_PARK n) false

theorem State.rnStart_eq (s : State) (n entry : Nat) : s.rnStart n entry = (s.startCleared n).setRn n
    { (s.rnUnreq n).rn n with st := .run, pc := entry % 128, irValid := false, on := 0, poison := false, injPend := false
                              once := false, samples := [], due := (s.rnUnreq n).now + 1 } := rfl

@[simp] theorem State.rd_rnStart (s : State) (n entry a : Nat) : (s.rnStart n entry).rd a = (s.startCleared n).rd a := by
  rw [State.rnStart_eq, State.rd_setRn_frame]

theorem State.rn_rnStart_other (s : State) (entry : Nat) {n m : Nat} (h : m ≠ n) : (s.rnStart n entry).rn m = s.rn m := by
  rw [State.rnStart_eq, State.rn_setRn_other _ _ h, State.startCleared, State.rn_setB_frame, State.rn_setF_frame, State.rn_setF_frame,
    State.setRnSr, State.rn_setF_frame, State.rn_setF_frame, State.rn_rnUnreq_other s h]

/-- The runner at its entry: its first word issues the next tick. -/
theorem State.rn_rnStart_same (s : State) (n entry : Nat) : ((s.rnStart n entry).rn n).st = .run
    ∧ ((s.rnStart n entry).rn n).pc = entry % 128 ∧ ((s.rnStart n entry).rn n).due = s.now + 1 := by
  rw [State.rnStart_eq, State.rn_setRn_same, State.now_rnUnreq]
  exact ⟨rfl, rfl, rfl⟩

/-- A start writes SR, BC, S and PARK alone. -/
theorem State.rd_startCleared_other (s : State) {n a : Nat} (hlo : a ≠ R.RUN_SR_LO n) (hhi : a ≠ R.RUN_SR_HI n)
    (hbc : a ≠ R.RUN_BC n) (hstamp : a ≠ R.RUN_STAMP n) (hctl : a ≠ R.RUN_CTL n) : (s.startCleared n).rd a = s.rd a := by
  rw [State.startCleared, State.rd_setB_other _ _ hctl, State.rd_setF_other _ _ hstamp, State.rd_setF_other _ _ hbc,
    State.rd_setRnSr_other _ _ hlo hhi, State.rd_rnUnreq]

theorem State.rnSr_startCleared (s : State) (n : Nat) : (s.startCleared n).rnSr n = 0 := by
  have hword : ∀ a, a = R.RUN_SR_LO n ∨ a = R.RUN_SR_HI n → (s.startCleared n).rd a = ((s.rnUnreq n).setRnSr n 0).rd a := by
    intro a ha
    unfold R.RUN_SR_LO R.RUN_SR_HI at ha
    have hbc : a ≠ R.RUN_BC n := by unfold R.RUN_BC; omega
    have hstamp : a ≠ R.RUN_STAMP n := by unfold R.RUN_STAMP; omega
    have hctl : a ≠ R.RUN_CTL n := by unfold R.RUN_CTL; omega
    rw [State.startCleared, State.rd_setB_other _ _ hctl, State.rd_setF_other _ _ hstamp, State.rd_setF_other _ _ hbc]
  exact (State.rnSr_of_rd (hword _ (.inl rfl)) (hword _ (.inr rfl))).trans (State.rnSr_setRnSr _ n 0)

theorem State.f_startCleared_bc (s : State) (n : Nat) : (s.startCleared n).f (F.RUN_BC_BC n) = 0 := by
  have hstamp : R.RUN_BC n ≠ R.RUN_STAMP n := by unfold R.RUN_BC R.RUN_STAMP; omega
  have hctl : R.RUN_BC n ≠ R.RUN_CTL n := by unfold R.RUN_BC R.RUN_CTL; omega
  rw [State.startCleared, State.f_setB_other _ _ (.inl hctl), State.f_setF_other _ _ (.inl hstamp),
    State.f_setF_same _ _ (Nat.le_of_ble_eq_true rfl), Nat.zero_mod]

theorem State.f_startCleared_stamp (s : State) (n : Nat) : (s.startCleared n).f (F.RUN_STAMP_S n) = 0 := by
  have hctl : R.RUN_STAMP n ≠ R.RUN_CTL n := by unfold R.RUN_STAMP R.RUN_CTL; omega
  rw [State.startCleared, State.f_setB_other _ _ (.inl hctl), State.f_setF_same _ _ (Nat.le_of_ble_eq_true rfl), Nat.zero_mod]

theorem State.b_startCleared_park (s : State) (n : Nat) : (s.startCleared n).b (F.RUN_CTL_PARK n) = false :=
  State.b_setB_same _ _ (Nat.le_of_ble_eq_true rfl) rfl

theorem State.rnTr_startCleared (s : State) (n : Nat) : (s.startCleared n).rnTr n = s.rnTr n := by
  refine State.rnTr_of_rd (State.rd_startCleared_other s ?_ ?_ ?_ ?_ ?_)
  · unfold R.RUN_TIME R.RUN_SR_LO; omega
  · unfold R.RUN_TIME R.RUN_SR_HI; omega
  · unfold R.RUN_TIME R.RUN_BC; omega
  · unfold R.RUN_TIME R.RUN_STAMP; omega
  · unfold R.RUN_TIME R.RUN_CTL; omega

/-- What a start leaves in the registers. -/
theorem State.rnStart_registers (s : State) (n entry : Nat) : (s.rnStart n entry).rnSr n = 0
    ∧ (s.rnStart n entry).f (F.RUN_BC_BC n) = 0 ∧ (s.rnStart n entry).f (F.RUN_STAMP_S n) = 0
    ∧ (s.rnStart n entry).b (F.RUN_CTL_PARK n) = false ∧ (s.rnStart n entry).rnTr n = s.rnTr n := by
  have hrd := s.rd_rnStart n entry
  exact ⟨(State.rnSr_of_rd (hrd _) (hrd _)).trans (s.rnSr_startCleared n), (State.f_of_rd (hrd _)).trans (s.f_startCleared_bc n),
    (State.f_of_rd (hrd _)).trans (s.f_startCleared_stamp n), (State.b_of_rd (hrd _)).trans (s.b_startCleared_park n),
    (State.rnTr_of_rd (hrd _)).trans (s.rnTr_startCleared n)⟩

/-! ### FAULT (R194) -/

@[simp] theorem State.rn_dropEdges (s : State) (gone : Nat → Bool) (m : Nat) : (s.dropEdges gone).rn m = s.rn m :=
  overList_leaves (f := State.cutEdges) (State.rn · m) (fun _ _ => rfl) _ _

@[simp] theorem State.part_dropEdges (s : State) (gone : Nat → Bool) (k : Nat) : (s.dropEdges gone).part k = s.part k :=
  overList_leaves (f := State.cutEdges) (State.part · k) (fun _ _ => rfl) _ _

theorem State.rn_rnFault_other (s : State) (parity : Bool) (addr : Nat) {n m : Nat} (h : m ≠ n) :
    (s.rnFault n parity addr).rn m = s.rn m := by
  unfold State.rnFault
  dsimp only
  rw [State.rn_log_frame, State.rn_pulse_frame, State.rn_setRn_other _ _ h, State.rn_rnUnreq_other _ h, State.rn_dropEdges]

theorem State.rn_rnFault_same (s : State) (n : Nat) (parity : Bool) (addr : Nat) :
    ((s.rnFault n parity addr).rn n).st = .fault ∧ ((s.rnFault n parity addr).rn n).byParity = parity := by
  unfold State.rnFault
  dsimp only
  rw [State.rn_log_frame, State.rn_pulse_frame, State.rn_setRn_same]
  exact ⟨rfl, rfl⟩

theorem State.part_rnFault (s : State) (n : Nat) (parity : Bool) (addr k : Nat) : (s.rnFault n parity addr).part k = s.part k := by
  unfold State.rnFault
  dsimp only
  rw [State.part_log_frame, State.part_pulse_frame, State.part_setRn_frame, State.part_rnUnreq, State.part_dropEdges]

end Sys2Proof.Machine
end

section
/-! The issue of a runner's word (R181, R192): the state in which an instruction acts, and its completion. -/

namespace Sys2Proof.Machine

open Sys2Proof

/-- The state in which the instruction acts: the fetch, then the word in hand, each written to the runner's record. -/
def State.rnTook (s : State) (n : Nat) : State :=
  (s.rnFetch n).setRn n { (s.rnFetch n).rn n with ir := s.rnWord n, irValid := true, irInj := (s.rn n).injPend, once := (s.rn n).st == .halted }

section
variable {s : State} {n : Nat} {op : RnOp} {bad : Bool} (h : s.issues n op bad) (hop : op ≠ .illegal) (f : State → Nat → State)
include h hop

theorem State.rnIssue_good : s.rnIssue n op bad f = f (s.rnTook n) (s.rnWord n) := by
  obtain ⟨hmay, hgood, hword⟩ := h
  have hparity : ¬ (!(s.rn n).injPend && (bad || (s.rn n).badProg.contains (s.rn n).pc)) = true := by
    rcases hgood with hinj | ⟨hbad, hstored⟩
    · simp [hinj]
    · rw [hbad, hstored]
      simp
  unfold State.rnIssue
  dsimp only
  rw [if_neg (by simp [hmay]), if_neg hparity, if_neg (by rwa [hword]), if_neg (fun hne => hne hword)]
  rfl

theorem State.rnQuick_good : s.rnQuick n op bad f = (f (s.rnTook n) (s.rnWord n)).rnNext n := State.rnIssue_good h hop _

end

/-! ### What is read in that state -/

section
variable (s : State) (n : Nat)

@[simp] theorem State.rd_rnTook (a : Nat) : (s.rnTook n).rd a = s.rd a := rfl
@[simp] theorem State.now_rnTook : (s.rnTook n).now = s.now := rfl
@[simp] theorem State.tb_rnTook : (s.rnTook n).tb = s.tb := rfl

@[simp] theorem State.rn_issued_same : (s.issued n).rn n =
    { s.rn n with ir := s.rnWord n, irValid := true, irInj := (s.rn n).injPend, injPend := false, once := (s.rn n).st == .halted
                  pc := if (s.rn n).injPend then (s.rn n).pc else ((s.rn n).pc + 1) % 128 } := State.rn_setRn_same _ _ _

theorem State.rn_issued_other {m : Nat} (h : m ≠ n) : (s.issued n).rn m = s.rn m := State.rn_setRn_other _ _ h

/-- Both writes together leave the record that `issued` writes at once. -/
@[simp] theorem State.rn_rnTook (m : Nat) : (s.rnTook n).rn m = (s.issued n).rn m := by
  unfold State.rnTook State.rnFetch
  by_cases hm : m = n
  · subst hm
    rw [State.rn_issued_same, State.rn_setRn_same, State.rn_setRn_same]
  · rw [State.rn_issued_other _ _ hm, State.rn_setRn_other _ _ hm, State.rn_setRn_other _ _ hm]

/-- Where the runners' table is in canonical form, they leave the same table. -/
theorem State.rnTook_eq_issued (hc : Sparse.wf (fun _ => ({} : Runner)) s.rns = true) : s.rnTook n = s.issued n := by
  have hrns : (s.rnTook n).rns = (s.issued n).rns :=
    Sparse.eq_of_get (Sparse.wf_set _ _ (Sparse.wf_set _ _ hc)) (Sparse.wf_set _ _ hc) (s.rn_rnTook n)
  show { s with rns := (s.rnTook n).rns } = { s with rns := (s.issued n).rns }
  rw [hrns]

end

/-! ### Completion -/

@[simp] theorem State.rd_rnNext (s : State) (n a : Nat) : (s.rnNext n).rd a = s.rd a := rfl
@[simp] theorem State.f_rnNext (s : State) (n : Nat) (x : Fld) : (s.rnNext n).f x = s.f x := rfl
@[simp] theorem State.rnTr_rnNext (s : State) (n k : Nat) : (s.rnNext n).rnTr k = s.rnTr k := rfl
@[simp] theorem State.rnSr_rnNext (s : State) (n k : Nat) : (s.rnNext n).rnSr k = s.rnSr k := rfl

theorem State.rn_rnNext_same (s : State) (n : Nat) : (s.rnNext n).rn n =
    { s.rn n with st := if (s.rn n).once then .halted else .run, on := 0, irValid := false, due := s.now + 2, once := false, cut := false } :=
  State.rn_setRn_same _ _ _

theorem State.rn_rnNext_other (s : State) {n m : Nat} (h : m ≠ n) : (s.rnNext n).rn m = s.rn m := State.rn_setRn_other _ _ h

/-- What an instruction may change of its runner's record while the runner still goes on behind it. -/
structure State.GoesOn (s t : State) (n : Nat) : Prop where
  now : t.now = s.now
  once : (t.rn n).once = ((s.rn n).st == .halted)
  pc : (t.rn n).pc = if (s.rn n).injPend then (s.rn n).pc else ((s.rn n).pc + 1) % 128
  injPend : (t.rn n).injPend = false
  other : ∀ m, m ≠ n → t.rn m = s.rn m

theorem State.GoesOn.of_rn {s t : State} {n : Nat} (hnow : t.now = s.now) (hrn : ∀ m, t.rn m = (s.rnTook n).rn m) : s.GoesOn t n := by
  have hself : t.rn n = (s.issued n).rn n := (hrn n).trans (s.rn_rnTook n n)
  rw [State.rn_issued_same] at hself
  exact ⟨hnow, by rw [hself], by rw [hself], by rw [hself], fun m hm => (hrn m).trans ((s.rn_rnTook n m).trans (s.rn_issued_other n hm))⟩

theorem State.goesOn_rnTook (s : State) (n : Nat) : s.GoesOn (s.rnTook n) n := .of_rn rfl fun _ => rfl

theorem State.GoesOn.ranOn {s t : State} {n : Nat} (h : s.GoesOn t n) : s.ranOn (t.rnNext n) n := by
  obtain ⟨hnow, honce, hpc, hinj, hother⟩ := h
  rw [State.ranOn, State.rn_rnNext_same]
  exact ⟨by simp [honce], by simp [hnow], hpc, hinj, fun m hm => (t.rn_rnNext_other hm).trans (hother m hm)⟩

/-! ### Operands -/

theorem ib_low (w len : Nat) : ib w 0 len = w % 2 ^ len := rfl

theorem ib_bit (w k : Nat) : ib w k 1 = (w.testBit k).toNat := by
  rw [Nat.toNat_testBit, ← Nat.shiftRight_eq_div_pow]
  rfl

end Sys2Proof.Machine
end

section
/-! The register instructions of a runner (R182, R184, R186, Tables 8.3 to 8.5). -/

namespace Sys2Proof.Machine

open Sys2Proof

/-! ### CLRSR and LDL -/

theorem State.setRnSr_goesOn (s : State) (n : Nat) (v : BitVec 32) : s.GoesOn ((s.rnTook n).setRnSr n v) n :=
  .of_rn rfl fun m => (State.rn_setF_frame _ _ _ m).trans (State.rn_setF_frame _ _ _ m)

theorem State.setF_goesOn (s : State) (n : Nat) (x : Fld) (v : Nat) : s.GoesOn ((s.rnTook n).setF x v) n :=
  .of_rn rfl fun m => State.rn_setF_frame _ _ _ m

theorem State.wr_goesOn (s : State) (n a : Nat) (v : Word) : s.GoesOn ((s.rnTook n).wr a v) n :=
  .of_rn rfl fun m => State.rn_wr_frame _ _ _ m

/-- The loop count that LDL writes. -/
def State.rnLoad (s : State) (n w : Nat) : State :=
  if ib w 11 1 = 1 then s.setF (F.RUN_LOOP_LB n) (ib w 0 11) else s.setF (F.RUN_LOOP_LA n) (ib w 0 11)

section
variable (s : State) (n w : Nat)

theorem State.rd_rnLoad_other {a : Nat} (h : a ≠ R.RUN_LOOP n) : (s.rnLoad n w).rd a = s.rd a := by
  unfold State.rnLoad
  split <;> exact State.rd_setF_other _ _ h

theorem State.rnLoad_goesOn : s.GoesOn ((s.rnTook n).rnLoad n w) n := by
  unfold State.rnLoad
  split <;> exact s.setF_goesOn n _ _

/-- LA and LB stand side by side in one word: a write of one leaves the other. -/
theorem State.f_setF_la (v : Nat) : (s.setF (F.RUN_LOOP_LA n) v).f (F.RUN_LOOP_LA n) = v % 2 ^ 11
    ∧ (s.setF (F.RUN_LOOP_LA n) v).f (F.RUN_LOOP_LB n) = s.f (F.RUN_LOOP_LB n) :=
  ⟨State.f_setF_same _ _ (Nat.le_of_ble_eq_true rfl), State.f_setF_other _ _ (.inr (.inl (Nat.le_of_ble_eq_true rfl)))⟩

theorem State.f_setF_lb (v : Nat) : (s.setF (F.RUN_LOOP_LB n) v).f (F.RUN_LOOP_LB n) = v % 2 ^ 11
    ∧ (s.setF (F.RUN_LOOP_LB n) v).f (F.RUN_LOOP_LA n) = s.f (F.RUN_LOOP_LA n) :=
  ⟨State.f_setF_same _ _ (Nat.le_of_ble_eq_true rfl), State.f_setF_other _ _ (.inr (.inr (Nat.le_of_ble_eq_true rfl)))⟩

theorem State.f_rnLoad : (s.rnLoad n w).f (F.RUN_LOOP_LA n) = (if w.testBit 11 then s.f (F.RUN_LOOP_LA n) else w % 2 ^ 11)
    ∧ (s.rnLoad n w).f (F.RUN_LOOP_LB n) = (if w.testBit 11 then w % 2 ^ 11 else s.f (F.RUN_LOOP_LB n)) := by
  obtain ⟨hla, hla'⟩ := s.f_setF_la n (ib w 0 11)
  obtain ⟨hlb, hlb'⟩ := s.f_setF_lb n (ib w 0 11)
  have hmod : ib w 0 11 % 2 ^ 11 = w % 2 ^ 11 := Nat.mod_mod _ _
  unfold State.rnLoad
  rw [ib_bit]
  cases w.testBit 11
  · exact ⟨hla.trans hmod, hla'⟩
  · exact ⟨hlb', hlb.trans hmod⟩

/-! ### JMP -/

/-- The condition of JMP (Table 8.5). -/
def State.rnTakes (level : Bool) : Bool :=
  match ib w 9 3 with
  | 0 => true
  | 1 => s.f (F.RUN_LOOP_LA n) != 0
  | 2 => s.f (F.RUN_LOOP_LB n) != 0
  | 3 => (s.rd (R.RUN_FLAGS n)).getLsbD 0
  | 4 => s.rnIn n 0 level
  | 5 => decide (0 < s.trgUnread (s.f (F.RUN_CFG_TRG_IN n)))
  | 6 => (s.rn n).poison
  | _ => decide (0 < s.trgSpace (s.f (F.RUN_CFG_TRG_OUT n)))

/-- The loop count that a jump taken counts down. -/
def State.rnCountDown : State :=
  match ib w 9 3 with
  | 1 => s.setF (F.RUN_LOOP_LA n) (s.f (F.RUN_LOOP_LA n) - 1)
  | 2 => s.setF (F.RUN_LOOP_LB n) (s.f (F.RUN_LOOP_LB n) - 1)
  | _ => s

/-- JMP before its completion. -/
def State.rnJump (level : Bool) : State :=
  if !s.rnTakes n w level then s
  else (s.rnCountDown n w).setRn n { (s.rnCountDown n w).rn n with pc := ib w 0 7 }

theorem State.f_rnCountDown : (s.rnCountDown n w).f (F.RUN_LOOP_LA n)
      = (if ib w 9 3 == 1 then s.f (F.RUN_LOOP_LA n) - 1 else s.f (F.RUN_LOOP_LA n))
    ∧ (s.rnCountDown n w).f (F.RUN_LOOP_LB n) = (if ib w 9 3 == 2 then s.f (F.RUN_LOOP_LB n) - 1 else s.f (F.RUN_LOOP_LB n)) := by
  have hfit : ∀ x : Fld, (s.f x - 1) % 2 ^ x.len = s.f x - 1 := fun x =>
    Nat.mod_eq_of_lt (Nat.lt_of_le_of_lt (Nat.sub_le _ _) (getBits_lt _ _ _))
  unfold State.rnCountDown
  split
  · rename_i hc
    obtain ⟨hla, hlb⟩ := s.f_setF_la n (s.f (F.RUN_LOOP_LA n) - 1)
    exact ⟨by simpa [hc] using hla.trans (hfit _), by simpa [hc] using hlb⟩
  · rename_i hc
    obtain ⟨hlb, hla⟩ := s.f_setF_lb n (s.f (F.RUN_LOOP_LB n) - 1)
    exact ⟨by simpa [hc] using hla, by simpa [hc] using hlb.trans (hfit _)⟩
  · rename_i hla hlb
    exact ⟨(if_neg (by simpa using hla)).symm, (if_neg (by simpa using hlb)).symm⟩

theorem State.rd_rnCountDown_other {a : Nat} (h : a ≠ R.RUN_LOOP n) : (s.rnCountDown n w).rd a = s.rd a := by
  unfold State.rnCountDown
  split
  · exact State.rd_setF_other _ _ h
  · exact State.rd_setF_other _ _ h
  · rfl

theorem State.now_rnCountDown : (s.rnCountDown n w).now = s.now := by
  unfold State.rnCountDown
  split <;> rfl

/-! What the condition reads is as it was before the issue: a runner in FAULT still holds its pins safe. -/

theorem State.st_rnTook (i : Nat) : ((s.rnTook n).rn i).st = (s.rn i).st := by
  rw [State.rn_rnTook]
  by_cases hi : i = n
  · rw [hi, State.rn_issued_same]
  · rw [State.rn_issued_other _ _ hi]

section
variable {l : List (Nat × Runner)} (hst : ∀ i, (State.rn { s with rns := l } i).st = (s.rn i).st)
include hst

theorem State.heldSafe_rns (p : Nat) : State.heldSafe { s with rns := l } p = s.heldSafe p := by
  unfold State.heldSafe
  simp only [hst]
  rfl

theorem State.ball_rns (p : Nat) : State.ball { s with rns := l } p = s.ball p := by
  have hfree : State.pinFree { s with rns := l } p = s.pinFree p := by
    unfold State.pinFree
    rw [State.heldSafe_rns s hst]
    rfl
  have hdrives : State.drives { s with rns := l } p = s.drives p := by
    unfold State.drives
    rw [hfree]
    rfl
  unfold State.ball
  rw [hdrives]
  rfl

theorem State.rnIn_rns (k : Nat) (level : Bool) : State.rnIn { s with rns := l } n k level = s.rnIn n k level := by
  unfold State.rnIn
  simp only [State.ball_rns s hst]
  rfl

theorem State.rnTakes_rns (hpoison : (State.rn { s with rns := l } n).poison = (s.rn n).poison) (level : Bool) :
    State.rnTakes { s with rns := l } n w level = s.rnTakes n w level := by
  unfold State.rnTakes
  rw [State.rnIn_rns s n hst, hpoison]
  rfl

end

theorem State.rnTook_eq : s.rnTook n = { s with rns := (s.rnTook n).rns } := rfl

theorem State.rnTakes_rnTook (level : Bool) : (s.rnTook n).rnTakes n w level = s.rnTakes n w level := by
  rw [State.rnTook_eq]
  exact s.rnTakes_rns n w (s.st_rnTook n) (by show ((s.rnTook n).rn n).poison = _; rw [State.rn_rnTook, State.rn_issued_same]) level

end

/-! ### The rows -/

section
variable {n : Fin 32} {bad : Bool} {s : State}

theorem exec_rnNop (h : s.issues n .nop bad) : exec (.rnNop n bad) s = .next ((s.rnTook n).rnNext n) :=
  congrArg Host.Outcome.next (State.rnQuick_good h (by decide) _)

theorem exec_rnClrf (h : s.issues n .clrf bad) :
    exec (.rnClrf n bad) s = .next (((s.rnTook n).rnFlags n false (BitVec.ofNat 32 (ib (s.rnWord n) 0 4))).rnNext n) :=
  congrArg Host.Outcome.next (State.rnQuick_good h (by decide) _)

theorem exec_rnNow (h : s.issues n .now bad) : exec (.rnNow n bad) s
    = .next (((s.rnTook n).setRnTr n (s.tbLo + BitVec.ofNat 24 (ib (s.rnWord n) 0 8))).rnNext n) :=
  congrArg Host.Outcome.next (State.rnQuick_good h (by decide) _)

theorem exec_rnAddt (h : s.issues n .addt bad) : exec (.rnAddt n bad) s
    = .next (((s.rnTook n).setRnTr n (s.rnTr n + BitVec.ofNat 24 (ib (s.rnWord n) 0 12))).rnNext n) :=
  congrArg Host.Outcome.next (State.rnQuick_good h (by decide) _)

theorem exec_rnAddd (h : s.issues n .addd bad) : exec (.rnAddd n bad) s = .next (((s.rnTook n).setRnTr n
    (s.rnTr n + BitVec.ofNat 24 (if ib (s.rnWord n) 0 1 = 1 then s.f (F.RUN_D1_D n) else s.f (F.RUN_D0_D n)))).rnNext n) :=
  congrArg Host.Outcome.next (State.rnQuick_good h (by decide) _)

theorem exec_rnFine (h : s.issues n .fine bad) :
    exec (.rnFine n bad) s = .next (((s.rnTook n).setF (F.RUN_TFINE_TF n) (ib (s.rnWord n) 0 5)).rnNext n) :=
  congrArg Host.Outcome.next (State.rnQuick_good h (by decide) _)

theorem exec_rnClrsr (h : s.issues n .clrsr bad) : exec (.rnClrsr n bad) s = .next (((s.rnTook n).setRnSr n 0).rnNext n) :=
  congrArg Host.Outcome.next (State.rnQuick_good h (by decide) _)

theorem exec_rnStamp (h : s.issues n .stamp bad) :
    exec (.rnStamp n bad) s = .next (((s.rnTook n).setF (F.RUN_STAMP_S n) (s.rnTr n).toNat).rnNext n) :=
  congrArg Host.Outcome.next (State.rnQuick_good h (by decide) _)

theorem exec_rnLdl (h : s.issues n .ldl bad) : exec (.rnLdl n bad) s = .next (((s.rnTook n).rnLoad n (s.rnWord n)).rnNext n) :=
  congrArg Host.Outcome.next (State.rnQuick_good h (by decide) _)

theorem exec_rnJmp (h : s.issues n .jmp bad) (level : Bool) :
    exec (.rnJmp n level bad) s = .next (((s.rnTook n).rnJump n (s.rnWord n) level).rnNext n) :=
  congrArg Host.Outcome.next (State.rnQuick_good h (by decide) _)

theorem exec_rnIrq (h : s.issues n .irq bad) : exec (.rnIrq n bad) s = .next (((s.rnTook n).pulse (128 + n)).rnNext n) :=
  congrArg Host.Outcome.next (State.rnQuick_good h (by decide) _)

theorem exec_rnHalt (h : s.issues n .halt bad) : exec (.rnHalt n bad) s = .next ((s.rnTook n).rnHaltNow n) :=
  congrArg Host.Outcome.next (State.rnIssue_good h (by decide) _)

end

end Sys2Proof.Machine
end

section
/-! What a runner's register instructions do (R182), from every state whose table of runners is in canonical form, and why O37,
which speaks of every state, fails. -/

namespace Sys2Proof.Machine

open Sys2Proof

/-- The statement of O37 for one runner and one state. -/
def State.RegisterInstructionsAct (s : State) (n : Fin 32) (bad : Bool) : Prop :=
  let w := s.rnWord n
  (s.issues n .nop bad → ∃ t, exec (.rnNop n bad) s = .next t ∧ s.ranOn t n ∧ ∀ a, t.rd a = s.rd a)
  ∧ (s.issues n .clrf bad → ∃ t, exec (.rnClrf n bad) s = .next t ∧ s.ranOn t n
    ∧ t.rd (R.RUN_FLAGS n) = s.rd (R.RUN_FLAGS n) &&& ~~~ (BitVec.ofNat 32 (w % 16)) ∧ ∀ a, a ≠ R.RUN_FLAGS n → t.rd a = s.rd a)
  ∧ (s.issues n .now bad → ∃ t, exec (.rnNow n bad) s = .next t ∧ s.ranOn t n
    ∧ t.rnTr n = s.now.setWidth 24 + BitVec.ofNat 24 (w % 2 ^ 8) ∧ ∀ a, a ≠ R.RUN_TIME n → t.rd a = s.rd a)
  ∧ (s.issues n .addt bad → ∃ t, exec (.rnAddt n bad) s = .next t ∧ s.ranOn t n
    ∧ t.rnTr n = s.rnTr n + BitVec.ofNat 24 (w % 2 ^ 12) ∧ ∀ a, a ≠ R.RUN_TIME n → t.rd a = s.rd a)
  ∧ (s.issues n .addd bad → ∃ t, exec (.rnAddd n bad) s = .next t ∧ s.ranOn t n
    ∧ t.rnTr n = s.rnTr n + BitVec.ofNat 24 (if w % 2 = 1 then s.f (F.RUN_D1_D n) else s.f (F.RUN_D0_D n))
    ∧ ∀ a, a ≠ R.RUN_TIME n → t.rd a = s.rd a)
  ∧ (s.issues n .fine bad → ∃ t, exec (.rnFine n bad) s = .next t ∧ s.ranOn t n
    ∧ t.f (F.RUN_TFINE_TF n) = w % 2 ^ 5 ∧ ∀ a, a ≠ R.RUN_TFINE n → t.rd a = s.rd a)
  ∧ (s.issues n .clrsr bad → ∃ t, exec (.rnClrsr n bad) s = .next t ∧ s.ranOn t n ∧ t.rnSr n = 0
    ∧ ∀ a, a ≠ R.RUN_SR_LO n → a ≠ R.RUN_SR_HI n → t.rd a = s.rd a)
  ∧ (s.issues n .stamp bad → ∃ t, exec (.rnStamp n bad) s = .next t ∧ s.ranOn t n ∧ t.f (F.RUN_STAMP_S n) = (s.rnTr n).toNat
    ∧ ∀ a, a ≠ R.RUN_STAMP n → t.rd a = s.rd a)
  ∧ (s.issues n .ldl bad → ∃ t, exec (.rnLdl n bad) s = .next t ∧ s.ranOn t n
    ∧ t.f (F.RUN_LOOP_LA n) = (if w.testBit 11 then s.f (F.RUN_LOOP_LA n) else w % 2 ^ 11)
    ∧ t.f (F.RUN_LOOP_LB n) = (if w.testBit 11 then w % 2 ^ 11 else s.f (F.RUN_LOOP_LB n))
    ∧ ∀ a, a ≠ R.RUN_LOOP n → t.rd a = s.rd a)
  ∧ (s.issues n .irq bad → exec (.rnIrq n bad) s = .next (((s.issued n).pulse (128 + n)).rnNext n))
  ∧ (s.issues n .halt bad → exec (.rnHalt n bad) s = .next ((s.issued n).rnHaltNow n))
  ∧ ∀ level : Bool, s.issues n .jmp bad →
    let la := s.f (F.RUN_LOOP_LA n)
    let lb := s.f (F.RUN_LOOP_LB n)
    let c := w >>> 9 % 8
    let take := match c with
      | 0 => true
      | 1 => la != 0
      | 2 => lb != 0
      | 3 => (s.rd (R.RUN_FLAGS n)).getLsbD 0
      | 4 => s.rnIn n 0 level
      | 5 => decide (0 < s.trgUnread (s.f (F.RUN_CFG_TRG_IN n)))
      | 6 => (s.rn n).poison
      | _ => decide (0 < s.trgSpace (s.f (F.RUN_CFG_TRG_OUT n)))
    ∃ t, exec (.rnJmp n level bad) s = .next t ∧ (t.rn n).due = s.now + 2
      ∧ (take = true → (t.rn n).pc = w % 2 ^ 7) ∧ (take = false → s.ranOn t n)
      ∧ t.f (F.RUN_LOOP_LA n) = (if take && c == 1 then la - 1 else la)
      ∧ t.f (F.RUN_LOOP_LB n) = (if take && c == 2 then lb - 1 else lb)
      ∧ ∀ a, a ≠ R.RUN_LOOP n → t.rd a = s.rd a

theorem runnerRegisterInstructionsComplete_iff :
    Obligations.RunnerRegisterInstructionsComplete ↔ ∀ (n : Fin 32) (bad : Bool) (s : State), s.RegisterInstructionsAct n bad :=
  Iff.rfl

section
variable (s : State) (n : Nat)

/-- TR after a write of it, and the words beside it. -/
theorem State.setRnTr_effect (v : BitVec 24) : s.ranOn (((s.rnTook n).setRnTr n v).rnNext n) n
    ∧ (((s.rnTook n).setRnTr n v).rnNext n).rnTr n = v
    ∧ ∀ a, a ≠ R.RUN_TIME n → (((s.rnTook n).setRnTr n v).rnNext n).rd a = s.rd a := by
  refine ⟨(s.wr_goesOn n _ _).ranOn, ?_, fun a ha => ?_⟩
  · rw [State.rnTr_rnNext, State.rnTr_setRnTr]
  · rw [State.rd_rnNext, State.rd_setRnTr_other _ _ ha, State.rd_rnTook]

/-- A field after a write of it, and the words beside it. -/
theorem State.setF_effect (x : Fld) (v : Nat) (hx : x.lo + x.len ≤ 32) : s.ranOn (((s.rnTook n).setF x v).rnNext n) n
    ∧ (((s.rnTook n).setF x v).rnNext n).f x = v % 2 ^ x.len
    ∧ ∀ a, a ≠ x.addr → (((s.rnTook n).setF x v).rnNext n).rd a = s.rd a := by
  refine ⟨(s.setF_goesOn n _ _).ranOn, ?_, fun a ha => ?_⟩
  · rw [State.f_rnNext, State.f_setF_same _ _ hx]
  · rw [State.rd_rnNext, State.rd_setF_other _ _ ha, State.rd_rnTook]

/-- The flags after those that `w` names are cleared, and the words beside them. -/
theorem State.clearFlags_effect (w : Nat) :
    let t := ((s.rnTook n).rnFlags n false (BitVec.ofNat 32 (ib w 0 4))).rnNext n
    s.ranOn t n ∧ t.rd (R.RUN_FLAGS n) = s.rd (R.RUN_FLAGS n) &&& ~~~ (BitVec.ofNat 32 (w % 16))
    ∧ ∀ a, a ≠ R.RUN_FLAGS n → t.rd a = s.rd a := by
  have hmask : BitVec.ofNat 32 (ib w 0 4) &&& 0xF = BitVec.ofNat 32 (w % 16) := by
    have hlow : ib w 0 4 &&& 15 = w % 16 := (Nat.and_two_pow_sub_one_eq_mod _ 4).trans (Nat.mod_mod _ _)
    rw [← hlow]
    exact (BitVec.ofNat_and ..).symm
  refine ⟨(s.wr_goesOn n _ _).ranOn, ?_, fun a ha => ?_⟩
  · rw [State.rd_rnNext, State.rnFlags, State.rd_wr_same, hmask]
    rfl
  · rw [State.rd_rnNext, State.rnFlags, State.rd_wr_other _ _ ha, State.rd_rnTook]

/-- A jump taken. -/
theorem State.rnJump_taken {w : Nat} {level : Bool} (h : s.rnTakes n w level = true) : (s.rnTook n).rnJump n w level
    = ((s.rnTook n).rnCountDown n w).setRn n { ((s.rnTook n).rnCountDown n w).rn n with pc := ib w 0 7 } :=
  if_neg (by simp [State.rnTakes_rnTook, h])

/-- A jump not taken. -/
theorem State.rnJump_passed {w : Nat} {level : Bool} (h : s.rnTakes n w level = false) : (s.rnTook n).rnJump n w level = s.rnTook n :=
  if_pos (by simp [State.rnTakes_rnTook, h])

/-- JMP with its condition met: the address, and the loop count down. -/
theorem State.rnJump_taken_effect {w : Nat} {level : Bool} (h : s.rnTakes n w level = true) :
    (((s.rnTook n).rnJump n w level).rn n).pc = ib w 0 7 ∧ ((s.rnTook n).rnJump n w level).now = s.now
    ∧ ((s.rnTook n).rnJump n w level).f (F.RUN_LOOP_LA n)
      = (if ib w 9 3 == 1 then s.f (F.RUN_LOOP_LA n) - 1 else s.f (F.RUN_LOOP_LA n))
    ∧ ((s.rnTook n).rnJump n w level).f (F.RUN_LOOP_LB n)
      = (if ib w 9 3 == 2 then s.f (F.RUN_LOOP_LB n) - 1 else s.f (F.RUN_LOOP_LB n))
    ∧ ∀ a, a ≠ R.RUN_LOOP n → ((s.rnTook n).rnJump n w level).rd a = s.rd a := by
  obtain ⟨hla, hlb⟩ := (s.rnTook n).f_rnCountDown n w
  rw [State.rnJump_taken s n h]
  refine ⟨?_, ?_, hla, hlb, fun a ha => ?_⟩
  · rw [State.rn_setRn_same]
  · rw [State.now_setRn_frame, State.now_rnCountDown, State.now_rnTook]
  · rw [State.rd_setRn_frame, State.rd_rnCountDown_other _ _ _ ha, State.rd_rnTook]

end

/-- From a state whose table of runners is in canonical form the statement holds. Only the clauses of IRQ and HALT, which name
the next state as a whole, need that premise. -/
theorem State.registerInstructionsAct {s : State} (hc : Sparse.wf (fun _ => ({} : Runner)) s.rns = true) (n : Fin 32) (bad : Bool) :
    s.RegisterInstructionsAct n bad := by
  refine ⟨fun h => ?nop, fun h => ?clrf, fun h => ?now, fun h => ?addt, fun h => ?addd, fun h => ?fine, fun h => ?clrsr,
    fun h => ?stamp, fun h => ?ldl, fun h => ?irq, fun h => ?halt, fun level h => ?jmp⟩
  case nop => exact ⟨_, exec_rnNop h, (s.goesOn_rnTook n).ranOn, fun a => by rw [State.rd_rnNext, State.rd_rnTook]⟩
  case clrf =>
    obtain ⟨hran, hflags, hrd⟩ := s.clearFlags_effect n (s.rnWord n)
    exact ⟨_, exec_rnClrf h, hran, hflags, hrd⟩
  case now =>
    obtain ⟨hran, htr, hrd⟩ := s.setRnTr_effect n (s.tbLo + BitVec.ofNat 24 (ib (s.rnWord n) 0 8))
    exact ⟨_, exec_rnNow h, hran, htr, hrd⟩
  case addt =>
    obtain ⟨hran, htr, hrd⟩ := s.setRnTr_effect n (s.rnTr n + BitVec.ofNat 24 (ib (s.rnWord n) 0 12))
    exact ⟨_, exec_rnAddt h, hran, htr, hrd⟩
  case addd =>
    obtain ⟨hran, htr, hrd⟩ := s.setRnTr_effect n
      (s.rnTr n + BitVec.ofNat 24 (if ib (s.rnWord n) 0 1 = 1 then s.f (F.RUN_D1_D n) else s.f (F.RUN_D0_D n)))
    exact ⟨_, exec_rnAddd h, hran, htr, hrd⟩
  case fine =>
    obtain ⟨hran, hf, hrd⟩ := s.setF_effect n (F.RUN_TFINE_TF n) (ib (s.rnWord n) 0 5) (Nat.le_of_ble_eq_true rfl)
    exact ⟨_, exec_rnFine h, hran, hf.trans (Nat.mod_mod _ _), hrd⟩
  case clrsr =>
    refine ⟨_, exec_rnClrsr h, (s.setRnSr_goesOn n 0).ranOn, ?_, fun a hlo hhi => ?_⟩
    · rw [State.rnSr_rnNext, State.rnSr_setRnSr]
    · rw [State.rd_rnNext, State.rd_setRnSr_other _ _ hlo hhi, State.rd_rnTook]
  case stamp =>
    obtain ⟨hran, hf, hrd⟩ := s.setF_effect n (F.RUN_STAMP_S n) (s.rnTr n).toNat (Nat.le_of_ble_eq_true rfl)
    exact ⟨_, exec_rnStamp h, hran, hf.trans (Nat.mod_eq_of_lt (s.rnTr n).isLt), hrd⟩
  case ldl =>
    obtain ⟨hla, hlb⟩ := (s.rnTook n).f_rnLoad n (s.rnWord n)
    refine ⟨_, exec_rnLdl h, (s.rnLoad_goesOn n _).ranOn, hla, hlb, fun a ha => ?_⟩
    rw [State.rd_rnNext, State.rd_rnLoad_other _ _ _ ha, State.rd_rnTook]
  case irq => rw [exec_rnIrq h, s.rnTook_eq_issued n hc]
  case halt => rw [exec_rnHalt h, s.rnTook_eq_issued n hc]
  case jmp =>
    intro la lb c take
    have htake : take = s.rnTakes n (s.rnWord n) level := rfl
    clear_value take
    subst htake
    refine ⟨_, exec_rnJmp h level, ?_⟩
    rw [State.rn_rnNext_same, State.f_rnNext, State.f_rnNext]
    cases htake : s.rnTakes n (s.rnWord n) level
    · rw [State.rnJump_passed s n htake]
      refine ⟨by rw [State.now_rnTook], (fun h => nomatch h), fun _ => (s.goesOn_rnTook n).ranOn, rfl, rfl, fun a _ => ?_⟩
      rw [State.rd_rnNext, State.rd_rnTook]
    · obtain ⟨hpc, hnow, hla, hlb, hrd⟩ := s.rnJump_taken_effect n htake
      exact ⟨by rw [hnow], fun _ => hpc, (fun h => nomatch h), hla, hlb, hrd⟩

/-! ### Why the statement fails -/

/-- In RUN, runner 5 in HALTED with the word `w` injected; its record stands in the table twice. -/
def twiceListed (w : Nat) : State :=
  { (State.reset.setF F.SYS_MODE_MODE 4).setF (F.RUN_INJECT_INSN 5) w with rns := [(5, { injPend := true }), (5, {})] }

theorem twiceListed_issues_irq : (twiceListed 0x0200).issues 5 .irq false := by decide +kernel

/-- Refutes O37: the statement ranges over tables of runners that are in no canonical form. Runner 5 of `twiceListed` issues an
injected IRQ; the fetch leaves its record as that of an unlisted runner and takes both entries off the table, while `issued`,
which writes the record once, leaves the second entry there. No such table comes
about from reset (the laws `_keeps` keep the canonical form); `State.registerInstructionsAct` is the statement for canonical tables. -/
theorem not_runnerRegisterInstructionsComplete : ¬ Obligations.RunnerRegisterInstructionsComplete := by
  rw [runnerRegisterInstructionsComplete_iff]
  intro hall
  obtain ⟨-, -, -, -, -, -, -, -, -, hirq, -⟩ := hall 5 false (twiceListed 0x0200)
  have hrns := congrArg State.rns (Host.Outcome.next.inj (hirq twiceListed_issues_irq))
  exact absurd hrns (by decide +kernel)

end Sys2Proof.Machine
end

section
/-! Requests, waits, timed edges and shifted bits of a runner (R183, R185 to R189), from every state whose table of runners is in
canonical form, and why O38, which speaks of every state, fails. -/

namespace Sys2Proof.Machine

open Sys2Proof

/-! ### The rows that issue -/

theorem State.rnIssue_issued {s : State} {n : Nat} {op : RnOp} {bad : Bool} (hc : Sparse.wf (fun _ => ({} : Runner)) s.rns = true)
    (h : s.issues n op bad) (hop : op ≠ .illegal) (f : State → Nat → State) : s.rnIssue n op bad f = f (s.issued n) (s.rnWord n) := by
  rw [State.rnIssue_good h hop, State.rnTook_eq_issued s n hc]

/-- A WAIT before it is decided: the runner's record names the beat. -/
def State.rnWaits (s : State) (n : Nat) : State := (s.rnTook n).setRn n { (s.rnTook n).rn n with beat := s.tb.beat }

/-- The request raised. -/
def State.rnAsked (s : State) (n : Nat) : State := (s.rnTook n).setRn n { (s.rnTook n).rn n with req := true }

theorem exec_rnPin (n : Fin 32) (bad : Bool) (s : State) : exec (.rnPin n bad) s = .next (s.rnPinRow n bad) := rfl

theorem exec_rnPush (n : Fin 32) (bad : Bool) (s : State) : exec (.rnPush n bad) s
    = .next (s.rnIssue n .push bad (fun s w => if s.rnCanPush n then s.rnPushNow n w else s.rnWaitOn n 5)) := rfl

theorem exec_rnPull (n : Fin 32) (bad trgBad : Bool) (s : State) : exec (.rnPull n bad trgBad) s
    = .next (s.rnIssue n .pull bad (fun s w =>
        if s.rnCanPull n then (s.spoil (s.f (F.RUN_CFG_TRG_IN n)) trgBad).rnPullNow n w else s.rnWaitOn n 5)) := rfl

theorem exec_rnShift (n : Fin 32) (level bad : Bool) (s : State) :
    exec (.rnShift n level bad) s = .next (s.rnShiftRow n level bad) := rfl

section
variable {n : Fin 32} {bad : Bool} {s : State}

theorem exec_rnReq (h : s.issues n .req bad) :
    exec (.rnReq n bad) s = .next ((s.rnAsked n).rnNext n) :=
  congrArg Host.Outcome.next (State.rnQuick_good h (by decide) _)

theorem exec_rnUnreq (h : s.issues n .unreq bad) : exec (.rnUnreq n bad) s = .next (((s.rnTook n).rnUnreq n).rnNext n) :=
  congrArg Host.Outcome.next (State.rnQuick_good h (by decide) _)

theorem exec_rnReqw (h : s.issues n .reqw bad) :
    exec (.rnReqw n bad) s = .next ((s.rnAsked n).rnWaitOn n 7) :=
  congrArg Host.Outcome.next (State.rnIssue_good h (by decide) _)

theorem exec_rnWait (h : s.issues n .wait bad) : exec (.rnWait n bad) s = .next
    (if ib (s.rnWord n) 10 2 ≠ 1 && (s.rnWaits n).rnWaitOver n (s.rnWord n) false then (s.rnWaits n).rnWaitEnds n (s.rnWord n)
     else (s.rnWaits n).rnWaitOn n (ib (s.rnWord n) 10 2 + 1)) :=
  congrArg Host.Outcome.next (State.rnIssue_good h (by decide) _)

end

/-! ### What goes on -/

@[simp] theorem State.rd_rnWaitOn (s : State) (n on a : Nat) : (s.rnWaitOn n on).rd a = s.rd a := rfl

theorem State.rn_rnWaitOn_same (s : State) (n on : Nat) :
    (s.rnWaitOn n on).rn n = { s.rn n with st := .wait, on := on, beat := s.tb.beat, cut := false } := State.rn_setRn_same _ _ _

/-- A change of the runner's record that spares what its completion reads. -/
theorem State.GoesOn.change {s t u : State} {n : Nat} (h : s.GoesOn t n) (hnow : u.now = t.now) (honce : (u.rn n).once = (t.rn n).once)
    (hpc : (u.rn n).pc = (t.rn n).pc) (hinj : (u.rn n).injPend = (t.rn n).injPend) (hother : ∀ m, m ≠ n → u.rn m = t.rn m) :
    s.GoesOn u n :=
  ⟨hnow.trans h.now, honce.trans h.once, hpc.trans h.pc, hinj.trans h.injPend, fun m hm => (hother m hm).trans (h.other m hm)⟩

/-- The same, of a record written. -/
theorem State.GoesOn.setRn {s t : State} {n : Nat} (h : s.GoesOn t n) {x : Runner} (honce : x.once = (t.rn n).once)
    (hpc : x.pc = (t.rn n).pc) (hinj : x.injPend = (t.rn n).injPend) : s.GoesOn (t.setRn n x) n := by
  have hself := State.rn_setRn_same t n x
  exact h.change rfl (by rw [hself, honce]) (by rw [hself, hpc]) (by rw [hself, hinj]) fun m hm => State.rn_setRn_other _ _ hm

theorem State.GoesOn.unflag {s t : State} {n : Nat} (h : s.GoesOn t n) (a k : Nat) : s.GoesOn (t.unflag a k) n := by
  have hrn := State.rn_unflag_frame t a k
  exact h.change rfl (by rw [hrn]) (by rw [hrn]) (by rw [hrn]) fun m _ => hrn m

theorem State.GoesOn.rnUnreq {s t : State} {n : Nat} (h : s.GoesOn t n) : s.GoesOn (t.rnUnreq n) n := by
  obtain ⟨e, he⟩ := t.rn_rnUnreq_same n
  exact h.change (t.now_rnUnreq n) (by rw [he]) (by rw [he]) (by rw [he]) fun m hm => State.rn_rnUnreq_other _ hm

section
variable (s : State) (n : Nat)

theorem State.rnWaits_goesOn : s.GoesOn (s.rnWaits n) n := by
  unfold State.rnWaits
  exact (s.goesOn_rnTook n).setRn rfl rfl rfl

theorem State.rnAsked_goesOn : s.GoesOn (s.rnAsked n) n := by
  unfold State.rnAsked
  exact (s.goesOn_rnTook n).setRn rfl rfl rfl

@[simp] theorem State.rd_rnAsked (a : Nat) : (s.rnAsked n).rd a = s.rd a := by rw [State.rnAsked, State.rd_setRn_frame, State.rd_rnTook]

theorem State.req_rnAsked : ((s.rnAsked n).rn n).req = true := by rw [State.rnAsked, State.rn_setRn_same]

@[simp] theorem State.rd_rnWaits (a : Nat) : (s.rnWaits n).rd a = s.rd a := by rw [State.rnWaits, State.rd_setRn_frame, State.rd_rnTook]

@[simp] theorem State.now_rnWaits : (s.rnWaits n).now = s.now := by rw [State.rnWaits, State.now_setRn_frame, State.now_rnTook]

@[simp] theorem State.tb_rnWaits : (s.rnWaits n).tb = s.tb := by rw [State.rnWaits, State.tb_setRn_frame, State.tb_rnTook]

theorem State.beat_rnWaits : ((s.rnWaits n).rn n).beat = s.tb.beat := by rw [State.rnWaits, State.rn_setRn_same]

/-! ### WAIT (R186) -/

section
variable {w : Nat} {level : Bool}

theorem State.rnWaitOver_time (h : ib w 10 2 = 0) :
    s.rnWaitOver n w level = decide ((s.now.setWidth 24 - s.rnTr n).toNat < 2 ^ 23) := by
  unfold State.rnWaitOver
  rw [h]
  rfl

theorem State.rnWaitOver_flag (h : ib w 10 2 = 2) : s.rnWaitOver n w level = (s.rd (R.RUN_FLAGS n)).getLsbD (w % 4) := by
  unfold State.rnWaitOver
  rw [h]
  rfl

theorem State.rnWaitOver_beat (h : ib w 10 2 = 3) :
    s.rnWaitOver n w level = (s.now == s.tb.t0 || s.tb.beat != (s.rn n).beat) := by
  unfold State.rnWaitOver
  rw [h]
  rfl

theorem State.rnWaits_time (h : ib w 10 2 = 0) :
    (s.rnWaits n).rnWaitOver n w level = decide ((s.now.setWidth 24 - s.rnTr n).toNat < 2 ^ 23) := by
  rw [State.rnWaitOver_time _ _ h, State.now_rnWaits, State.rnTr_of_rd (s.rd_rnWaits n _)]

theorem State.rnWaits_flag (h : ib w 10 2 = 2) :
    (s.rnWaits n).rnWaitOver n w level = (s.rd (R.RUN_FLAGS n)).getLsbD (w % 4) := by
  rw [State.rnWaitOver_flag _ _ h, State.rd_rnWaits]

/-- A BEAT wait that begins now is over where the present tick is a boundary. -/
theorem State.rnWaits_beat (h : ib w 10 2 = 3) : (s.rnWaits n).rnWaitOver n w level = (s.now == s.tb.t0) := by
  rw [State.rnWaitOver_beat _ _ h, State.beat_rnWaits, State.tb_rnWaits, State.now_rnWaits, bne_self_eq_false, Bool.or_false]

end

/-- The end of a WAIT for a time or a beat. -/
theorem State.rnWaitEnds_effect {w : Nat} (h : ib w 10 2 ≠ 2) :
    s.ranOn ((s.rnWaits n).rnWaitEnds n w) n ∧ ∀ a, ((s.rnWaits n).rnWaitEnds n w).rd a = s.rd a := by
  unfold State.rnWaitEnds
  rw [if_neg h]
  exact ⟨(s.rnWaits_goesOn n).ranOn, fun a => by rw [State.rd_rnNext, State.rd_rnWaits]⟩

/-- The end of a WAIT for a flag clears it. -/
theorem State.rnWaitEnds_flag {w : Nat} (h : ib w 10 2 = 2) : let t := (s.rnWaits n).rnWaitEnds n w
    s.ranOn t n ∧ (t.rd (R.RUN_FLAGS n)).getLsbD (w % 4) = false ∧ ∀ a, a ≠ R.RUN_FLAGS n → t.rd a = s.rd a := by
  intro t
  have ht : t = ((s.rnWaits n).unflag (R.RUN_FLAGS n) (ib w 0 2)).rnNext n := by
    unfold t State.rnWaitEnds
    rw [if_pos h]
  have hbit : ib w 0 2 = w % 4 := ib_low w 2
  have hlt : w % 4 < 32 := by omega
  rw [ht, hbit]
  refine ⟨((s.rnWaits_goesOn n).unflag _ _).ranOn, ?_, fun a ha => ?_⟩
  · rw [State.rd_rnNext, State.unflag, State.rd_wr_same, BitVec.getLsbD_and, BitVec.getLsbD_not, BitVec.getLsbD_ofNat, Nat.testBit_two_pow_self]
    simp
  · rw [State.rd_rnNext, State.rd_unflag_other _ _ ha, State.rd_rnWaits]

end

section
variable {n : Fin 32} {bad : Bool} {s : State} (h : s.issues n .wait bad)
include h

/-- A WAIT whose condition holds ends in its issue tick. -/
theorem exec_rnWait_over (hkind : ib (s.rnWord n) 10 2 ≠ 1) (hover : (s.rnWaits n).rnWaitOver n (s.rnWord n) false = true) :
    exec (.rnWait n bad) s = .next ((s.rnWaits n).rnWaitEnds n (s.rnWord n)) := by
  rw [exec_rnWait h, if_pos (by simp [hkind, hover])]

/-- A WAIT for an input, or for what is not yet there, waits. -/
theorem exec_rnWait_waits (hwait : ib (s.rnWord n) 10 2 = 1 ∨ (s.rnWaits n).rnWaitOver n (s.rnWord n) false = false) :
    exec (.rnWait n bad) s = .next ((s.rnWaits n).rnWaitOn n (ib (s.rnWord n) 10 2 + 1)) := by
  rw [exec_rnWait h, if_neg (by rcases hwait with hkind | hover <;> simp [*])]

end

/-! ### The rows that go on with a wait (R185 to R189) -/

theorem exec_runnerWaitEnd (n : Fin 32) (level trgBad : Bool) (s : State) :
    exec (.runnerWaitEnd n level trgBad) s = .next (s.rnWaitEndRow n level trgBad) := rfl

section
variable {n : Fin 32} {s : State} (hst : (s.rn n).st = .wait) (hmode : s.rnMode n = true) (hpark : s.rnParked n = false)
include hst hmode hpark

theorem exec_runnerTimedEdge_due (hon : (s.rn n).on = 6) (hop : rnOp (s.rn n).ir = .pin) (hdue : s.rnDue (s.rnTr n) = true) :
    exec (.runnerTimedEdge n) s = .next ((s.rnTimed n (ib (s.rn n).ir 10 2) (ib (s.rn n).ir 8 2) (s.rnTr n)).rnNext n) :=
  congrArg Host.Outcome.next (if_pos (by simp [hst, hmode, hpark, hon, hop, hdue]))

theorem exec_shiftBit_shifts (level : Bool) (hop : rnOp (s.rn n).ir = .shift) :
    exec (.shiftBit n level) s = .next (s.rnShiftBit n level) :=
  congrArg Host.Outcome.next (if_pos (by simp [hst, hmode, hpark, hop]))

end

/-! ### The bits shifted in (R187) -/

theorem State.rnShiftIn_lsbFirst (s : State) (n : Nat) (b : Bool) :
    (s.rnShiftIn n true b).rnSr n = (s.rnSr n >>> 1) ||| (if b then 0x80000000#32 else 0#32) := by
  rw [State.rnShiftIn, State.rnSr_setRnSr]
  cases b <;> rfl

theorem State.rnShiftIn_msbFirst (s : State) (n : Nat) (b : Bool) :
    (s.rnShiftIn n false b).rnSr n = (s.rnSr n <<< 1) ||| (if b then 1#32 else 0#32) := by
  rw [State.rnShiftIn, State.rnSr_setRnSr]
  cases b <;> rfl

/-! ### The statement, clause by clause -/

/-- The issue clauses of O38 for one runner and one state. -/
def State.IssuesWaitAndDrive (s : State) (n : Fin 32) (bad trgBad : Bool) : Prop :=
  let w := s.rnWord n
  let i := s.issued n
  (s.issues n .pin bad → exec (.rnPin n bad) s = .next
    (if w.testBit 7 then
      (if i.rnDue (i.rnTr n) then (i.rnTimed n (w >>> 10 % 4) (w >>> 8 % 4) (i.rnTr n)).rnNext n else i.rnWaitOn n 6)
     else (i.rnEdge n (w >>> 10 % 4) (w >>> 8 % 4) (fineOf (i.now + 24) 0)).rnNext n))
  ∧ (s.issues n .wait bad → (w >>> 10 % 4 = 0 ∧ (s.now.setWidth 24 - s.rnTr n).toNat < 2 ^ 23) ∨ (w >>> 10 % 4 = 3 ∧ s.now = s.tb.t0) →
    ∃ t, exec (.rnWait n bad) s = .next t ∧ s.ranOn t n ∧ ∀ a, t.rd a = s.rd a)
  ∧ (s.issues n .wait bad → w >>> 10 % 4 = 2 → (s.rd (R.RUN_FLAGS n)).getLsbD (w % 4) = true →
    ∃ t, exec (.rnWait n bad) s = .next t ∧ s.ranOn t n ∧ (t.rd (R.RUN_FLAGS n)).getLsbD (w % 4) = false
      ∧ ∀ a, a ≠ R.RUN_FLAGS n → t.rd a = s.rd a)
  ∧ (s.issues n .wait bad → w >>> 10 % 4 = 1 ∨ (w >>> 10 % 4 = 0 ∧ 2 ^ 23 ≤ (s.now.setWidth 24 - s.rnTr n).toNat)
      ∨ (w >>> 10 % 4 = 2 ∧ (s.rd (R.RUN_FLAGS n)).getLsbD (w % 4) = false) ∨ (w >>> 10 % 4 = 3 ∧ s.now ≠ s.tb.t0) →
    ∃ t, exec (.rnWait n bad) s = .next t ∧ (t.rn n).st = .wait ∧ (t.rn n).on = w >>> 10 % 4 + 1 ∧ ∀ a, t.rd a = s.rd a)
  ∧ (s.issues n .req bad → ∃ t, exec (.rnReq n bad) s = .next t ∧ s.ranOn t n ∧ (t.rn n).req = true ∧ ∀ a, t.rd a = s.rd a)
  ∧ (s.issues n .unreq bad → ∃ t, exec (.rnUnreq n bad) s = .next t ∧ s.ranOn t n ∧ (t.rn n).req = false ∧ ∀ a, t.rd a = s.rd a)
  ∧ (s.issues n .reqw bad → ∃ t, exec (.rnReqw n bad) s = .next t ∧ (t.rn n).req = true ∧ (t.rn n).st = .wait ∧ (t.rn n).on = 7
    ∧ ∀ a, t.rd a = s.rd a)
  ∧ (s.issues n .push bad → exec (.rnPush n bad) s = .next (if i.rnCanPush n then i.rnPushNow n w else i.rnWaitOn n 5))
  ∧ (s.issues n .pull bad → exec (.rnPull n bad trgBad) s = .next (if i.rnCanPull n then (i.spoil (i.f (F.RUN_CFG_TRG_IN n)) trgBad).rnPullNow n w else i.rnWaitOn n 5))
  ∧ ∀ level : Bool, s.issues n .shift bad → exec (.rnShift n level bad) s = .next
    (((((i.setRn n { i.rn n with bit := 0, samples := [] }).setF (F.RUN_BC_BC n) (w % 2 ^ 6)).rnBitTimes n).rnWaitOn n 6).rnShiftBit n level)

/-- The clauses of O38 for a runner that waits. -/
def State.WaitsEnd (s : State) (n : Fin 32) : Prop :=
  (s.rn n).st = .wait → s.rnMode n = true → s.rnParked n = false →
    ((s.rn n).on = 6 → rnOp (s.rn n).ir = .pin → s.rnDue (s.rnTr n) = true → exec (.runnerTimedEdge n) s = .next
      ((s.rnTimed n ((s.rn n).ir >>> 10 % 4) ((s.rn n).ir >>> 8 % 4) (s.rnTr n)).rnNext n))
    ∧ (∀ level, rnOp (s.rn n).ir = .shift → exec (.shiftBit n level) s = .next (s.rnShiftBit n level))
    ∧ (∀ level trgBad, rnOp (s.rn n).ir = .wait → s.rnWaitOver n (s.rn n).ir level = true →
      exec (.runnerWaitEnd n level trgBad) s = .next (s.rnWaitEnds n (s.rn n).ir))
    ∧ (∀ level trgBad, rnOp (s.rn n).ir = .push → s.rnCanPush n = true → exec (.runnerWaitEnd n level trgBad) s = .next (s.rnPushNow n (s.rn n).ir))
    ∧ (∀ level trgBad, rnOp (s.rn n).ir = .pull → s.rnCanPull n = true → exec (.runnerWaitEnd n level trgBad) s = .next
      ((s.spoil (s.f (F.RUN_CFG_TRG_IN n)) trgBad).rnPullNow n (s.rn n).ir))
    ∧ (∀ level trgBad, rnOp (s.rn n).ir = .reqw → (s.rn n).req = false → exec (.runnerWaitEnd n level trgBad) s = .next (s.rnNext n))

theorem runnersWaitShiftAndDrive_iff : Obligations.RunnersWaitShiftAndDrive ↔
    (∀ (n : Fin 32) (bad trgBad : Bool) (s : State), s.IssuesWaitAndDrive n bad trgBad)
    ∧ (∀ (n : Fin 32) (s : State), s.WaitsEnd n)
    ∧ ∀ (n : Fin 32) (b : Bool) (s : State),
      (s.rnShiftIn n true b).rnSr n = (s.rnSr n >>> 1) ||| (if b then 0x80000000#32 else 0#32)
      ∧ (s.rnShiftIn n false b).rnSr n = (s.rnSr n <<< 1) ||| (if b then 1#32 else 0#32) := Iff.rfl

theorem State.waitsEnd (s : State) (n : Fin 32) : s.WaitsEnd n := by
  intro hst hmode hpark
  have hacts : ¬ ((s.rn n).st ≠ .wait || !s.rnMode n || s.rnParked n) = true := by simp [hst, hmode, hpark]
  refine ⟨exec_runnerTimedEdge_due hst hmode hpark, exec_shiftBit_shifts hst hmode hpark, fun level trgBad hop hover => ?_,
    fun level trgBad hop hcan => ?_, fun level trgBad hop hcan => ?_, fun level trgBad hop hreq => ?_⟩ <;>
    (rw [exec_runnerWaitEnd]; unfold State.rnWaitEndRow; dsimp only; rw [if_neg hacts, hop])
  · exact congrArg Host.Outcome.next (if_pos hover)
  · exact congrArg Host.Outcome.next (if_pos hcan)
  · exact congrArg Host.Outcome.next (if_pos hcan)
  · exact congrArg Host.Outcome.next (if_neg (by simp [hreq]))

/-- From a state whose table of runners is in canonical form the issue clauses hold. Only those of PIN, PUSH, PULL and SHIFT, which
name the next state as a whole, need that premise. An INPUT wait is always entered by the model's choice (log entry 60). -/
theorem State.issuesWaitAndDrive {s : State} (hc : Sparse.wf (fun _ => ({} : Runner)) s.rns = true) (n : Fin 32) (bad trgBad : Bool) :
    s.IssuesWaitAndDrive n bad trgBad := by
  refine ⟨fun h => ?pin, fun h hmet => ?met, fun h hkind hset => ?flag, fun h hwait => ?waits, fun h => ?req, fun h => ?unreq,
    fun h => ?reqw, fun h => ?push, fun h => ?pull, fun level h => ?shift⟩
  case pin =>
    rw [exec_rnPin, State.rnPinRow, State.rnIssue_issued hc h (by decide), ib_bit]
    cases (s.rnWord n).testBit 7 <;> rfl
  case met =>
    obtain ⟨hkind, hover⟩ | ⟨hkind, hover⟩ := hmet
    · have hk : ib (s.rnWord n) 10 2 = 0 := hkind
      obtain ⟨hran, hrd⟩ := s.rnWaitEnds_effect n (w := s.rnWord n) (by omega)
      exact ⟨_, exec_rnWait_over h (by omega) (by rw [State.rnWaits_time s n hk]; exact decide_eq_true hover), hran, hrd⟩
    · have hk : ib (s.rnWord n) 10 2 = 3 := hkind
      obtain ⟨hran, hrd⟩ := s.rnWaitEnds_effect n (w := s.rnWord n) (by omega)
      exact ⟨_, exec_rnWait_over h (by omega) (by rw [State.rnWaits_beat s n hk]; exact beq_iff_eq.mpr hover), hran, hrd⟩
  case flag =>
    have hk : ib (s.rnWord n) 10 2 = 2 := hkind
    obtain ⟨hran, hflag, hrd⟩ := s.rnWaitEnds_flag n hk
    exact ⟨_, exec_rnWait_over h (by omega) ((State.rnWaits_flag s n hk).trans hset), hran, hflag, hrd⟩
  case waits =>
    have hnot : ib (s.rnWord n) 10 2 = 1 ∨ (s.rnWaits n).rnWaitOver n (s.rnWord n) false = false := by
      obtain hkind | ⟨hkind, hlate⟩ | ⟨hkind, hclear⟩ | ⟨hkind, hpast⟩ := hwait
      · exact .inl hkind
      · exact .inr ((State.rnWaits_time s n hkind).trans (decide_eq_false (by omega)))
      · exact .inr ((State.rnWaits_flag s n hkind).trans hclear)
      · exact .inr ((State.rnWaits_beat s n hkind).trans (beq_eq_false_iff_ne.mpr hpast))
    refine ⟨_, exec_rnWait_waits h hnot, ?_, ?_, fun a => by rw [State.rd_rnWaitOn, State.rd_rnWaits]⟩ <;> rw [State.rn_rnWaitOn_same]
    rfl
  case req =>
    refine ⟨_, exec_rnReq h, (s.rnAsked_goesOn n).ranOn, ?_, fun a => by rw [State.rd_rnNext, State.rd_rnAsked]⟩
    rw [State.rn_rnNext_same, State.req_rnAsked]
  case unreq =>
    obtain ⟨e, he⟩ := (s.rnTook n).rn_rnUnreq_same n
    refine ⟨_, exec_rnUnreq h, (s.goesOn_rnTook n).rnUnreq.ranOn, ?_, fun a => ?_⟩
    · rw [State.rn_rnNext_same, he]
    · rw [State.rd_rnNext, State.rd_rnUnreq, State.rd_rnTook]
  case reqw =>
    refine ⟨_, exec_rnReqw h, ?_, ?_, ?_, fun a => by rw [State.rd_rnWaitOn, State.rd_rnAsked]⟩ <;> rw [State.rn_rnWaitOn_same]
    exact s.req_rnAsked n
  case push => rw [exec_rnPush, State.rnIssue_issued hc h (by decide)]
  case pull => rw [exec_rnPull, State.rnIssue_issued hc h (by decide)]
  case shift =>
    rw [exec_rnShift, State.rnShiftRow, State.rnIssue_issued hc h (by decide)]
    rfl

/-! ### Why the statement fails -/

theorem twiceListed_issues_pin : (twiceListed 0x1000).issues 5 .pin false := by decide +kernel

/-- Refutes O38: as O37 it ranges over tables of runners that are in no canonical form. Runner 5 of `twiceListed` issues an
injected PIN; the row takes both entries of its record off the table, the state that the clause names keeps the second. For
canonical tables `State.issuesWaitAndDrive` is the issue part; the other two parts, `State.waitsEnd` and the two lemmas on
`rnShiftIn`, hold of every state. -/
theorem not_runnersWaitShiftAndDrive : ¬ Obligations.RunnersWaitShiftAndDrive := by
  rw [runnersWaitShiftAndDrive_iff]
  rintro ⟨hissue, -⟩
  obtain ⟨hpin, -⟩ := hissue 5 false false (twiceListed 0x1000)
  have hrns := congrArg State.rns (Host.Outcome.next.inj (hpin twiceListed_issues_pin))
  exact absurd hrns (by decide +kernel)

end Sys2Proof.Machine
end

section
/-! The control of the runners: GO, RESTART, HALT, PARK, injection, flags, program writes and the runner service (R190 to R196). -/

namespace Sys2Proof.Machine

open Sys2Proof

/-! ### Starting and stopping (R190) -/

theorem State.rnGo_stopped {s : State} {n : Nat} (h : (s.rn n).st = .halted ∨ (s.rn n).st = .fault) :
    s.rnGo n = s.rnStart n (s.f (F.RUN_CTL_ENTRY n)) := if_pos (by simpa using h)

theorem State.rnGo_started {s : State} {n : Nat} (h : (s.rn n).st = .run ∨ (s.rn n).st = .wait) : s.rnGo n = s :=
  if_neg (by rcases h with h | h <;> simp [h])

theorem State.rnStop_fault {s : State} {n : Nat} (h : (s.rn n).st = .fault) : s.rnStop n = s := if_pos h

theorem State.rnStop_halts {s : State} {n : Nat} (h : (s.rn n).st ≠ .fault) : s.rnStop n = s.rnHaltNow n := if_neg h

/-! ### Injection (R192) -/

theorem State.rnInject_takes {s : State} {n : Nat} (v : Word) (hpend : (s.rn n).injPend = false) (hst : (s.rn n).st ≠ .fault) :
    s.rnInject n v = (s.setF (F.RUN_INJECT_INSN n) (getBits v 0 16)).setRn n
      { s.rn n with injPend := true, due := if (s.rn n).st = .halted then s.now + 2 else (s.rn n).due } :=
  if_neg (by simp [hpend, hst])

theorem State.rnInject_overruns {s : State} {n : Nat} (v : Word) (h : (s.rn n).injPend = true ∨ (s.rn n).st = .fault) :
    s.rnInject n v = s.flag (R.RUN_STAT n) 14 := if_pos (by simpa using h)

/-! ### The runner service (R196) -/

/-- The runners that the service checks: those not in HALTED. -/
def State.rnLive (s : State) : List Nat := (List.range 32).filter (fun n => (s.rn n).st != .halted)

theorem State.mem_rnLive (s : State) (n : Fin 32) : n.val ∈ s.rnLive ↔ (s.rn n).st ≠ .halted := by
  simp [State.rnLive, n.isLt]

/-- A word found bad is noted for its runner. -/
def State.rnNoteBad (live : List Nat) (s : State) (b : Fin 32 × Fin 128) : State :=
  if live.contains b.1.val then s.setRn b.1.val { s.rn b.1.val with badProg := addItem b.2.val (s.rn b.1.val).badProg } else s

/-- A runner with a bad word goes into FAULT. -/
def State.rnJudge (s : State) (n : Nat) : State :=
  match (s.rn n).badProg with
  | [] => s
  | k :: _ => if (s.rn n).st = .fault then s else s.rnFault n true k

/-- The check of the programs, before the service signals done. -/
def State.rnChecked (s : State) (bad : List (Fin 32 × Fin 128)) : State :=
  overList s.rnLive State.rnJudge (overList bad (State.rnNoteBad s.rnLive) s)

theorem State.rnService_due {s : State} (bad : List (Fin 32 × Fin 128)) (hbusy : (s.part 18).busy = true)
    (hphase : 200 + 32 * s.rnLive.length ≤ s.tb.phase) : s.rnService bad = (s.rnChecked bad).partDone 18 :=
  if_neg (by simpa [hbusy, State.rnLive] using hphase)

section
variable (live : List Nat) (s : State) (b : Fin 32 × Fin 128)

theorem State.rn_rnNoteBad (m : Nat) : (s.rnNoteBad live b).rn m =
    if m = b.1.val ∧ m ∈ live then { s.rn m with badProg := addItem b.2.val (s.rn m).badProg } else s.rn m := by
  unfold State.rnNoteBad
  by_cases hm : m = b.1.val
  · subst hm
    by_cases hlive : b.1.val ∈ live <;> simp [hlive]
  · rw [if_neg (not_and_of_not_left _ hm)]
    split
    · exact State.rn_setRn_other _ _ hm
    · rfl

theorem State.st_rnNoteBad (m : Nat) : ((s.rnNoteBad live b).rn m).st = (s.rn m).st := by
  rw [State.rn_rnNoteBad]
  split <;> rfl

theorem State.part_rnNoteBad (k : Nat) : (s.rnNoteBad live b).part k = s.part k := by
  unfold State.rnNoteBad
  split <;> rfl

theorem addItem_ne_nil (i : Nat) (l : List Nat) : addItem i l ≠ [] := by
  unfold addItem
  split
  · rename_i h
    exact List.ne_nil_of_mem h
  · exact List.cons_ne_nil i l

/-- A word once noted stays noted. -/
theorem State.badProg_rnNoteBad {m : Nat} (h : (s.rn m).badProg ≠ []) : ((s.rnNoteBad live b).rn m).badProg ≠ [] := by
  rw [State.rn_rnNoteBad]
  split
  · exact addItem_ne_nil _ _
  · exact h

end

/-- A runner for which nothing is noted: it is not checked, or no word of it was found bad. -/
theorem State.rn_noteBads_other {live : List Nat} {m : Nat} (bad : List (Fin 32 × Fin 128)) (s : State)
    (h : m ∉ live ∨ ∀ b ∈ bad, b.1.val ≠ m) : (overList bad (State.rnNoteBad live) s).rn m = s.rn m := by
  induction bad generalizing s with
  | nil => rfl
  | cons b bad ih =>
    rw [overList_cons, ih _ (h.imp_right fun h c hc => h c (List.mem_cons_of_mem _ hc)), State.rn_rnNoteBad, if_neg]
    rintro ⟨rfl, hlive⟩
    exact h.elim (absurd hlive) fun h => h b List.mem_cons_self rfl

/-- A checked runner of which a word is bad has one noted. -/
theorem State.badProg_noteBads {live : List Nat} {m : Nat} (hm : m ∈ live) (bad : List (Fin 32 × Fin 128)) (s : State)
    (h : (s.rn m).badProg ≠ [] ∨ ∃ b ∈ bad, b.1.val = m) : ((overList bad (State.rnNoteBad live) s).rn m).badProg ≠ [] := by
  induction bad generalizing s with
  | nil => exact h.resolve_right (by simp)
  | cons b bad ih =>
    rw [overList_cons]
    refine ih _ ?_
    rcases h with h | ⟨c, hc, hcm⟩
    · exact .inl (s.badProg_rnNoteBad live b h)
    · rcases List.mem_cons.mp hc with rfl | hc
      · rw [State.rn_rnNoteBad, if_pos ⟨hcm.symm, hm⟩]
        exact .inl (addItem_ne_nil _ _)
      · exact .inr ⟨c, hc, hcm⟩

section
variable (s : State) (n m : Nat)

theorem State.rnJudge_good (h : (s.rn n).badProg = []) : s.rnJudge n = s := by
  unfold State.rnJudge
  rw [h]

theorem State.rnJudge_faulted (h : (s.rn n).st = .fault) : s.rnJudge n = s := by
  unfold State.rnJudge
  split
  · rfl
  · exact if_pos h

/-- A runner with a bad word, not yet in FAULT. -/
theorem State.rnJudge_bad (hbad : (s.rn n).badProg ≠ []) (hst : (s.rn n).st ≠ .fault) : ∃ k, s.rnJudge n = s.rnFault n true k := by
  unfold State.rnJudge
  split
  · contradiction
  · exact ⟨_, if_neg hst⟩

/-- A runner that is good, or in FAULT already, or another one, is left as it is. -/
theorem State.rn_rnJudge_kept (h : m ≠ n ∨ (s.rn m).badProg = [] ∨ (s.rn m).st = .fault) : (s.rnJudge n).rn m = s.rn m := by
  by_cases hmn : m = n
  · subst hmn
    rcases h.resolve_left (absurd rfl) with h | h
    · rw [State.rnJudge_good s m h]
    · rw [State.rnJudge_faulted s m h]
  · unfold State.rnJudge
    split
    · rfl
    · split
      · rfl
      · exact State.rn_rnFault_other s _ _ hmn

theorem State.part_rnJudge (k : Nat) : (s.rnJudge n).part k = s.part k := by
  unfold State.rnJudge
  split
  · rfl
  · split
    · rfl
    · exact s.part_rnFault n _ _ k

end

/-- Good runners, those in FAULT and those not judged are left as they are. -/
theorem State.rn_judgeAll_kept {m : Nat} (l : List Nat) (s : State)
    (h : m ∉ l ∨ (s.rn m).badProg = [] ∨ (s.rn m).st = .fault) : (overList l State.rnJudge s).rn m = s.rn m := by
  induction l generalizing s with
  | nil => rfl
  | cons n l ih =>
    have hn : (s.rnJudge n).rn m = s.rn m :=
      s.rn_rnJudge_kept n m (h.imp_left fun h hmn => h (hmn ▸ List.mem_cons_self))
    rw [overList_cons, ih _ (by rw [hn]; exact h.imp_left fun h hm => h (List.mem_cons_of_mem _ hm)), hn]

/-- A runner with a bad word that is judged goes into FAULT by parity. -/
theorem State.rn_judgeAll_bad {m : Nat} (l : List Nat) (s : State) (hm : m ∈ l) (hbad : (s.rn m).badProg ≠ [])
    (hst : (s.rn m).st ≠ .fault) :
    ((overList l State.rnJudge s).rn m).st = .fault ∧ ((overList l State.rnJudge s).rn m).byParity = true := by
  induction l generalizing s with
  | nil => exact absurd hm List.not_mem_nil
  | cons n l ih =>
    rw [overList_cons]
    by_cases hmn : m = n
    · subst hmn
      obtain ⟨k, hk⟩ := s.rnJudge_bad m hbad hst
      rw [hk, State.rn_judgeAll_kept l _ (.inr (.inr (s.rn_rnFault_same m true k).1))]
      exact s.rn_rnFault_same m true k
    · have hn : (s.rnJudge n).rn m = s.rn m := s.rn_rnJudge_kept n m (.inl hmn)
      refine ih _ ((List.mem_cons.mp hm).resolve_left hmn) ?_ ?_ <;> rw [hn] <;> assumption

section
variable (s : State) (bad : List (Fin 32 × Fin 128))

theorem State.part_rnChecked (k : Nat) : (s.rnChecked bad).part k = s.part k :=
  (overList_leaves (State.part · k) (fun x n => x.part_rnJudge n k) _ _).trans
    (overList_leaves (State.part · k) (fun x b => x.part_rnNoteBad _ b k) _ _)

theorem State.rn_rnChecked_halted {n : Fin 32} (h : (s.rn n).st = .halted) : (s.rnChecked bad).rn n = s.rn n := by
  have hlive : n.val ∉ s.rnLive := fun hn => (s.mem_rnLive n).mp hn h
  exact (State.rn_judgeAll_kept _ _ (.inl hlive)).trans (State.rn_noteBads_other _ _ (.inl hlive))

theorem State.rn_rnChecked_good {n : Fin 32} (hgood : (s.rn n).badProg = []) (hbad : ∀ k, (n, k) ∉ bad) :
    (s.rnChecked bad).rn n = s.rn n := by
  have hnote : (overList bad (State.rnNoteBad s.rnLive) s).rn n = s.rn n :=
    State.rn_noteBads_other _ _ (.inr fun b hb hbn => hbad b.2 ((Fin.ext hbn : b.1 = n) ▸ hb))
  exact (State.rn_judgeAll_kept _ _ (.inr (.inl (by rw [hnote, hgood])))).trans hnote

theorem State.rn_rnChecked_bad {n : Fin 32} (hst : (s.rn n).st = .run ∨ (s.rn n).st = .wait)
    (hbad : (s.rn n).badProg ≠ [] ∨ ∃ k, (n, k) ∈ bad) :
    ((s.rnChecked bad).rn n).st = .fault ∧ ((s.rnChecked bad).rn n).byParity = true := by
  have hlive : n.val ∈ s.rnLive := (s.mem_rnLive n).mpr (by rcases hst with h | h <;> simp [h])
  have hkept : ((overList bad (State.rnNoteBad s.rnLive) s).rn n).st = (s.rn n).st :=
    overList_leaves (fun x => (x.rn n).st) (fun x b => x.st_rnNoteBad _ b n) _ _
  refine State.rn_judgeAll_bad _ _ hlive (State.badProg_noteBads hlive _ _ ?_) ?_
  · exact hbad.imp_right fun ⟨k, hk⟩ => ⟨(n, k), hk, rfl⟩
  · rw [hkept]
    rcases hst with h | h <;> simp [h]

end

@[simp] theorem State.rn_doneTick (s : State) (n p d m : Nat) : (s.doneTick n p d).rn m = s.rn m := by
  unfold State.doneTick
  dsimp only
  split <;> simp

@[simp] theorem State.rn_partDone (s : State) (n m : Nat) : (s.partDone n).rn m = s.rn m := by
  unfold State.partDone State.partDoneAt
  dsimp only
  split
  · rfl
  · rw [State.rn_setPart_frame]
    split
    · rfl
    · exact s.rn_doneTick _ _ _ m

/-- A participant without work behind the one in hand is free after its done (R42). -/
theorem State.busy_partDone {s : State} {n : Nat} (hqueued : (s.part n).queued = none) : ((s.partDone n).part n).busy = false := by
  unfold State.partDone State.partDoneAt
  dsimp only
  split
  · rename_i h
    simpa using h
  · rw [State.part_setPart_same, hqueued]

/-! ### The rows of a requester whose writes reach the registers -/

section
variable {s : State} {r : Requester} (n : Fin 32) (h : s.writesReach r)
include h

theorem exec_runGo_served : exec (.runGo r n) s = .next (s.rnGo n) := congrArg Host.Outcome.next (s.writeBy_served _ _ h)

theorem exec_runCtlRestart_served : exec (.runCtlRestart r n) s = .next (s.rnStart n (s.f (F.RUN_CTL_ENTRY n))) :=
  congrArg Host.Outcome.next (s.writeBy_served _ _ h)

theorem exec_runCtlHalt_served : exec (.runCtlHalt r n) s = .next (s.rnStop n) := congrArg Host.Outcome.next (s.writeBy_served _ _ h)

theorem exec_runCtlPark_served (b : Bool) : exec (.runCtlPark r n b) s = .next (s.rnPark n b) :=
  congrArg Host.Outcome.next (s.writeBy_served _ _ h)

theorem exec_runInject_served (v : Word) : exec (.runInject r n v) s = .next (s.rnInject n v) :=
  congrArg Host.Outcome.next (s.writeBy_served _ _ h)

theorem exec_runFlagsWrite_served (set : Bool) (v : Word) : exec (.runFlagsWrite r n set v) s = .next (s.rnFlags n set v) :=
  congrArg Host.Outcome.next (s.writeBy_served _ _ h)

theorem exec_runProgWrite_served (i : Fin 128) (v : Word) : exec (.runProgWrite r n i v) s = .next (s.rnProg n i v) :=
  congrArg Host.Outcome.next (s.writeBy_served _ _ h)

end

theorem exec_runnerServiceCheck (bad : List (Fin 32 × Fin 128)) (s : State) :
    exec (.runnerServiceCheck bad) s = .next (s.rnService bad) := rfl

/-! ### The settlement -/

/-- Settles O39: the writes of a requester row by row, each through what the operation behind it does; then the service, which
notes the words found bad and judges each live runner. -/
theorem runnerControlActs : Obligations.RunnerControlActs := by
  unfold Obligations.RunnerControlActs
  refine ⟨?go, ?goOn, ?stops, ?park, ?inject, ?flags, ?prog, ?service⟩
  case go =>
    intro r n s hreach hst
    rw [exec_runGo_served n hreach, State.rnGo_stopped hst]
    obtain ⟨hrun, hpc, hdue⟩ := s.rn_rnStart_same n (s.f (F.RUN_CTL_ENTRY n))
    obtain ⟨hsr, hbc, hstamp, hpark, htr⟩ := s.rnStart_registers n (s.f (F.RUN_CTL_ENTRY n))
    exact ⟨_, rfl, hrun, hpc.trans (Nat.mod_eq_of_lt (getBits_lt _ _ _)), hdue, hsr, hbc, hstamp, hpark, htr,
      fun m hm => s.rn_rnStart_other _ hm⟩
  case goOn =>
    intro r n s hreach hst
    rw [exec_runGo_served n hreach, State.rnGo_started hst]
  case stops =>
    intro r n s hreach
    refine ⟨exec_runCtlRestart_served n hreach, fun hst => ?_, fun hst => ?_⟩
    · rw [exec_runCtlHalt_served n hreach, State.rnStop_fault hst]
    · rw [exec_runCtlHalt_served n hreach, State.rnStop_halts hst]
      obtain ⟨hhalted, hreq⟩ := s.rn_rnHaltNow_same n
      exact ⟨_, rfl, hhalted, hreq, fun m hm => s.rn_rnHaltNow_other hm, s.rd_rnHaltNow n⟩
  case park =>
    intro r n b s hreach
    exact ⟨_, exec_runCtlPark_served n hreach b, State.b_setB_same s b (Nat.le_of_ble_eq_true rfl) rfl,
      State.rn_setB_frame _ _ _ _, fun a ha => State.rd_setB_other s b ha⟩
  case inject =>
    intro r n v s hreach
    rw [exec_runInject_served n hreach]
    refine ⟨fun hpend hst => ?_, fun h => ?_⟩
    · rw [State.rnInject_takes v hpend hst]
      refine ⟨_, rfl, ?_⟩
      rw [State.rn_setRn_same, State.f_setRn_frame, State.f_setF_same _ _ (Nat.le_of_ble_eq_true rfl)]
      exact ⟨rfl, Nat.mod_mod _ _, rfl, rfl⟩
    · rw [State.rnInject_overruns v h]
      refine ⟨_, rfl, ?_, State.rn_flag_frame _ _ _ _, fun a ha => State.rd_flag_other s 14 ha⟩
      rw [State.rd_flag_same]
      simp
  case flags =>
    intro r n v s hreach
    exact ⟨⟨_, exec_runFlagsWrite_served n hreach true v, State.rd_wr_same _ _ _, fun a ha => State.rd_wr_other _ _ ha⟩,
      ⟨_, exec_runFlagsWrite_served n hreach false v, State.rd_wr_same _ _ _, fun a ha => State.rd_wr_other _ _ ha⟩⟩
  case prog =>
    intro r n i v s hreach
    refine ⟨_, exec_runProgWrite_served n hreach i v, State.rd_wr_same _ _ _, ?_, ?_, fun a ha => State.rd_wr_other _ _ ha⟩
    · rw [State.rnProg, State.rn_setRn_same]
      simp
    · rw [State.rnProg, State.rn_setRn_same]
  case service =>
    intro bad s hbusy hphase
    rw [exec_runnerServiceCheck, State.rnService_due bad hbusy hphase]
    refine ⟨_, rfl, fun hqueued => ?_, fun n => ?_⟩
    · exact State.busy_partDone (by rw [State.part_rnChecked, hqueued])
    · rw [State.rn_partDone]
      exact ⟨s.rn_rnChecked_halted bad, fun hst => ⟨s.rn_rnChecked_bad bad hst, s.rn_rnChecked_good bad⟩⟩

end Sys2Proof.Machine
end

section
/-! The gates of a bank when they settle (R200, R210, R230, R232): what settling leaves alone, and what the two switches do. -/

namespace Sys2Proof.Machine

open Sys2Proof

/-! ### What settling leaves alone -/

/-- A channel without what its gate keeps: where its next edge is placed, since when the gate is on or the channel idle, and
the calibration sum (R203, R230, R232). -/
def Valve.ungated (v : Valve) : Valve := { v with dose := none, onSince := none, idleSince := none, calSum := 0, calN := 0 }

/-- From `s` to `t` no register, no time and no channel has changed, but for what a gate keeps. -/
structure State.SettleLeaves (s t : State) : Prop where
  regs : t.regs = s.regs
  tb : t.tb = s.tb
  pwr : t.pwr = s.pwr
  vlv : ∀ n, (t.vlv n).ungated = (s.vlv n).ungated

namespace State.SettleLeaves

variable {s t u : State}

theorem refl (s : State) : s.SettleLeaves s := ⟨rfl, rfl, rfl, fun _ => rfl⟩

theorem trans (h : s.SettleLeaves t) (k : t.SettleLeaves u) : s.SettleLeaves u :=
  ⟨k.regs.trans h.regs, k.tb.trans h.tb, k.pwr.trans h.pwr, fun n => (k.vlv n).trans (h.vlv n)⟩

section
variable (h : s.SettleLeaves t) (n : Nat)
include h

/-- What settling does not move reads the same. -/
theorem read {α : Type} (g : Valve → α) (hg : ∀ v, g v.ungated = g v) : g (t.vlv n) = g (s.vlv n) := by
  rw [← hg, h.vlv, hg]

theorem st : (t.vlv n).st = (s.vlv n).st := h.read n Valve.st (fun _ => rfl)
theorem sw : (t.vlv n).sw = (s.vlv n).sw := h.read n Valve.sw (fun _ => rfl)
theorem td : (t.vlv n).td = (s.vlv n).td := h.read n Valve.td (fun _ => rfl)
theorem owner : (t.vlv n).owner = (s.vlv n).owner := h.read n Valve.owner (fun _ => rfl)
theorem wait : (t.vlv n).wait = (s.vlv n).wait := h.read n Valve.wait (fun _ => rfl)
theorem x : (t.vlv n).x = (s.vlv n).x := h.read n Valve.x (fun _ => rfl)
theorem flyback : (t.vlv n).flyback = (s.vlv n).flyback := h.read n Valve.flyback (fun _ => rfl)
theorem rd (a : Nat) : t.rd a = s.rd a := State.rd_congr h.regs a
theorem f (y : Fld) : t.f y = s.f y := State.f_congr h.regs y
theorem b (y : Fld) : t.b y = s.b y := State.b_congr h.regs y
theorem now : t.now = s.now := congrArg TimeSt.now h.tb

theorem gatesOff : t.gatesOff = s.gatesOff := by
  unfold State.gatesOff State.mode
  rw [h.f, h.b]

/-- The switch that a bank asks for rests on the mode, the clamps, the bank and its channels' phases alone. -/
theorem wantSide (hbk : ∀ b, t.bk b = s.bk b) (b : Nat) : t.wantSide b = s.wantSide b := by
  unfold State.wantSide State.solo
  simp only [h.gatesOff, h.pwr, hbk, h.st, h.sw, h.flyback]

end

end State.SettleLeaves

theorem State.gateEdge_leaves (s : State) (n : Nat) (on : Bool) : s.SettleLeaves (s.gateEdge n on) :=
  ⟨rfl, rfl, rfl, fun _ => rfl⟩

/-- A write of a channel that changes only what its gate keeps. -/
theorem State.setVlv_settleLeaves (s : State) (n : Nat) {v : Valve} (hv : v.ungated = (s.vlv n).ungated) :
    s.SettleLeaves (s.setVlv n v) := by
  refine ⟨rfl, rfl, rfl, fun m => ?_⟩
  rw [State.vlv_setVlv]
  split
  · subst m
    exact hv
  · rfl

theorem State.gateSettle_leaves (s : State) (n : Nat) : s.SettleLeaves (s.gateSettle n) := by
  unfold State.gateSettle
  extract_lets v on s1
  have h1 : s.SettleLeaves s1 := by
    unfold s1
    split
    · exact .refl s
    · exact s.gateEdge_leaves n on
  exact h1.trans (s1.setVlv_settleLeaves n (h1.vlv n).symm)

theorem State.bk_gateSettle (s : State) (n b : Nat) : (s.gateSettle n).bk b = s.bk b := by
  unfold State.gateSettle
  extract_lets v on s1
  rw [State.bk_setVlv_frame]
  unfold s1
  split
  · rfl
  · exact State.bk_setPin_frame _ _ _ _

/-- The channels of a bank, settled. -/
theorem State.gatesSettle_leaves (s : State) (b : Nat) : s.SettleLeaves (overList (bankChans b) State.gateSettle s) :=
  overList_rel State.SettleLeaves.refl State.SettleLeaves.trans State.gateSettle_leaves _ s

theorem State.bk_gatesSettle (s : State) (b c : Nat) : (overList (bankChans b) State.gateSettle s).bk c = s.bk c :=
  overList_leaves (fun x => x.bk c) (fun x n => x.bk_gateSettle n c) _ s

theorem State.setBk_settleLeaves (s : State) (b : Nat) (k : Bank) : s.SettleLeaves (s.setBk b k) :=
  ⟨rfl, rfl, rfl, fun _ => rfl⟩

theorem State.bankSettle_leaves (s : State) (b : Nat) : s.SettleLeaves (s.bankSettle b) := by
  have hgates := s.gatesSettle_leaves b
  unfold State.bankSettle
  extract_lets s1 k want k1 rests k2 s2
  exact (hgates.trans (s1.setBk_settleLeaves b k2)).trans (s2.setBk_settleLeaves b _)

/-! ### The switches -/

/-- A switch that the bank does not ask for any more turns off, and the dead time runs (R200). -/
def Bank.turnOff (k : Bank) (want : Nat) (until_ : Time) : Bank :=
  if k.side ≠ 0 && k.side ≠ want then { k with side := 0, last := k.side, dead := some until_ } else k

/-- The switch that the bank asks for turns on where both are off, at once if it was on last, else after the dead time (R200). -/
def Bank.turnOn (k : Bank) (want : Nat) (rests : Bool) : Bank :=
  if k.side = 0 && want ≠ 0 && (k.last == want || !rests) then { k with side := want, last := want, dead := none } else k

/-- A dead time runs. -/
def State.inDeadTime (s : State) (k : Bank) : Bool := match k.dead with | some d => !s.reached d | none => false

/-- The moment from which the other switch may turn on when one turns off now (R200). -/
def State.deadEnd (s : State) (b : Nat) : Time := s.now + BitVec.ofNat 48 (2 * max 10 (s.f (F.HSW_CFG_DEAD b)))

/-- A bank after it has turned off what it does not ask for. -/
def State.released (s : State) (b : Nat) : Bank := (s.bk b).turnOff (s.wantSide b) (s.deadEnd b)

/-- What settling makes of a bank's switches: a switch turns off first, then one turns on. -/
theorem State.bk_bankSettle (s : State) (b : Nat) :
    let k := (s.released b).turnOn (s.wantSide b) (s.inDeadTime (s.released b))
    let t := (s.bankSettle b).bk b
    t.side = k.side ∧ t.last = k.last ∧ t.dead = k.dead := by
  have hwant := (s.gatesSettle_leaves b).wantSide (s.bk_gatesSettle b) b
  have hbk := s.bk_gatesSettle b b
  unfold State.released State.bankSettle
  rw [← hwant, ← hbk]
  generalize overList (bankChans b) State.gateSettle s = settled
  extract_lets k0 s1 k want k1 rests k2 s2 t
  have ht : t = { k2 with quiet := if s2.quietNow b then some (k2.quiet.getD s.now) else none } := State.bk_setBk_same _ _ _
  have hk : k2 = k0 := rfl
  rw [ht, hk]
  exact ⟨rfl, rfl, rfl⟩

theorem Bank.turnOff_idle {k : Bank} (h : k.side = 0) (want : Nat) (d : Time) : k.turnOff want d = k := by
  simp [Bank.turnOff, h]

theorem Bank.turnOff_wanted {k : Bank} {want : Nat} (h : k.side = want) (d : Time) : k.turnOff want d = k := by
  simp [Bank.turnOff, h]

theorem Bank.turnOff_unwanted {k : Bank} {want : Nat} (hon : k.side ≠ 0) (h : k.side ≠ want) (d : Time) :
    k.turnOff want d = { k with side := 0, last := k.side, dead := some d } := by
  simp [Bank.turnOff, hon, h]

theorem Bank.turnOn_driven {k : Bank} (h : k.side ≠ 0) (want : Nat) (rests : Bool) : k.turnOn want rests = k := by
  simp [Bank.turnOn, h]

theorem Bank.turnOn_none (k : Bank) (rests : Bool) : k.turnOn 0 rests = k := by
  simp [Bank.turnOn]

/-- During a dead time the other switch stays off. -/
theorem Bank.turnOn_resting {k : Bank} {want : Nat} (h : k.last ≠ want) : k.turnOn want true = k := by
  simp [Bank.turnOn, h]

/-- Where both are off and no dead time runs, the switch asked for is the one that is on. -/
theorem Bank.turnOn_rested {k : Bank} (h : k.side = 0) (want : Nat) : (k.turnOn want false).side = want := by
  unfold Bank.turnOn
  split
  · rfl
  · simp_all

/-- A switch turns on as the last one again, or outside a dead time. -/
theorem Bank.turnOn_allowed {k : Bank} {want : Nat} {rests : Bool} (h : k.side = 0) (ht : (k.turnOn want rests).side ≠ 0) :
    (k.turnOn want rests).side = k.last ∨ rests = false := by
  cases rests with
  | false => exact .inr rfl
  | true =>
    by_cases hlast : k.last = want
    · left
      unfold Bank.turnOn at ht ⊢
      split
      · exact hlast.symm
      · simp_all
    · rw [Bank.turnOn_resting hlast] at ht
      exact absurd h ht

/-- The dead time that a turning off begins still runs in that tick. -/
theorem State.reached_deadEnd (s : State) (b : Nat) : s.reached (s.deadEnd b) = false := by
  have hlen : s.f (F.HSW_CFG_DEAD b) < 2 ^ 7 := getBits_lt _ _ _
  have hsince : ∀ d, 0 < d → d < 2 ^ 47 → since s.now (s.now + BitVec.ofNat 48 d) = 2 ^ 48 - d := by
    intro d hpos hd
    unfold since
    simp only [BitVec.toNat_sub, BitVec.toNat_add, BitVec.toNat_ofNat]
    have := s.now.isLt
    omega
  unfold State.reached State.deadEnd
  rw [hsince _ (by omega) (by omega)]
  exact decide_eq_false (by omega)

theorem State.inDeadTime_released {s : State} {b : Nat} (hon : (s.bk b).side ≠ 0) (h : (s.bk b).side ≠ s.wantSide b) :
    s.inDeadTime (s.released b) = true := by
  rw [State.released, Bank.turnOff_unwanted hon h]
  show (!s.reached (s.deadEnd b)) = true
  rw [State.reached_deadEnd]
  rfl

theorem State.inDeadTime_over {s : State} {k : Bank} (h : s.inDeadTime k = false) :
    k.dead = none ∨ ∃ d, k.dead = some d ∧ s.reached d = true := by
  unfold State.inDeadTime at h
  split at h
  · rename_i d hd
    exact .inr ⟨d, hd, by simpa using h⟩
  · exact .inl ‹_›

theorem State.inDeadTime_reached {s : State} {k : Bank} {d : Time} (hd : k.dead = some d) (h : s.reached d = true) :
    s.inDeadTime k = false := by
  unfold State.inDeadTime
  rw [hd]
  show (!s.reached d) = false
  rw [h]
  rfl

/-! ### The settlement of a bank with a switch on, and with both off -/

/-- A switch that is on stays on, or both are off and the dead time begins (R200). -/
theorem State.bankSettle_driven {s : State} {b : Nat} (hon : (s.bk b).side ≠ 0) :
    let k := s.bk b
    let t := (s.bankSettle b).bk b
    t.side = k.side ∨ (t.side = 0 ∧ t.last = k.side ∧ t.dead = some (s.deadEnd b)) := by
  intro k t
  obtain ⟨hside, hlast, hdead⟩ := s.bk_bankSettle b
  by_cases hwant : k.side = s.wantSide b
  · left
    rw [State.released, Bank.turnOff_wanted hwant, Bank.turnOn_driven hon] at hside
    exact hside
  · right
    have hother : (s.released b).last ≠ s.wantSide b := by
      rw [State.released, Bank.turnOff_unwanted hon hwant]
      exact hwant
    rw [State.inDeadTime_released hon hwant, Bank.turnOn_resting hother, State.released,
      Bank.turnOff_unwanted hon hwant] at hside hlast hdead
    exact ⟨hside, hlast, hdead⟩

/-- With both off, the switches after the settlement are those that `turnOn` gives. -/
theorem State.bankSettle_idle {s : State} {b : Nat} (hoff : (s.bk b).side = 0) :
    ((s.bankSettle b).bk b).side = ((s.bk b).turnOn (s.wantSide b) (s.inDeadTime (s.bk b))).side := by
  obtain ⟨hside, -, -⟩ := s.bk_bankSettle b
  rwa [State.released, Bank.turnOff_idle hoff] at hside

/-- A bank that asks for no switch drives none. -/
theorem State.bankSettle_unasked {s : State} {b : Nat} (h : s.wantSide b = 0) : ((s.bankSettle b).bk b).side = 0 := by
  obtain ⟨hside, -, -⟩ := s.bk_bankSettle b
  rw [hside, h, Bank.turnOn_none, State.released, h]
  by_cases hoff : (s.bk b).side = 0
  · rw [Bank.turnOff_idle hoff, hoff]
  · rw [Bank.turnOff_unwanted hoff hoff]

/-! ### Gates held off (R200, R215, R239) -/

theorem State.gatesOff_of_mode_or_clamp {s : State}
    (h : s.mode ≤ 1 ∨ s.mode = 3 ∨ s.mode = 6 ∨ s.b F.PWR_RAIL_STAT_VGD_UV = true) : s.gatesOff = true := by
  simpa [State.gatesOff, or_assoc] using h

theorem State.wantSide_gatesOff {s : State} (h : s.gatesOff = true) (b : Nat) : s.wantSide b = 0 := by
  simp [State.wantSide, h]

theorem State.vlgOn_gatesOff {s : State} (h : s.gatesOff = true) (n : Nat) : s.vlgOn n = false := by
  simp [State.vlgOn, h]

/-! ### The settlement -/

theorem exec_deadTimeEnd (b : Fin 8) (s : State) : exec (.deadTimeEnd b) s = .next (s.bankSettle b) := rfl

/-- Settles O40: a settlement turns a switch off before it turns one on, and the dead time that the turning off begins holds
the other switch off in that tick. -/
theorem bankSwitchesNeverOverlap : Obligations.BankSwitchesNeverOverlap := by
  refine ⟨fun s b => ⟨fun hon => State.bankSettle_driven hon, fun hoff hside => ?_⟩, fun s b n h => ?_,
    fun b s d hoff hd hreach => ?_⟩
  · rw [State.bankSettle_idle hoff] at hside ⊢
    exact (Bank.turnOn_allowed hoff hside).imp_right State.inDeadTime_over
  · have hgates := State.gatesOff_of_mode_or_clamp h
    exact ⟨State.bankSettle_unasked (State.wantSide_gatesOff hgates b), State.vlgOn_gatesOff hgates n⟩
  · refine ⟨_, exec_deadTimeEnd b s, ?_, (s.bankSettle_leaves b).rd⟩
    rw [State.bankSettle_idle hoff, State.inDeadTime_reached hd hreach, Bank.turnOn_rested hoff]

end Sys2Proof.Machine
end

section
/-! Boost, handed on and refused (R213, R216): what the end of a Holtid command leaves of the channels, and what a grant and a
refusal leave of the other channels and of the registers. -/

namespace Sys2Proof.Machine

open Sys2Proof

/-! ### The words of a channel lie below the mailboxes and are not the log's lost count -/

theorem vlvI_lt (n : Fin 32) : R.VLV_I n < 0x120000 := by
  simp only [R.VLV_I]
  omega

theorem vlvStat_lt (n : Fin 32) : R.VLV_STAT n < 0x120000 := by
  simp only [R.VLV_STAT]
  omega

theorem vlvCntConflict_lt (n : Fin 32) : R.VLV_CNT_CONFLICT n < 0x120000 := by
  simp only [R.VLV_CNT_CONFLICT]
  omega

theorem vlvI_ne_logLost (n : Nat) : R.VLV_I n ≠ R.LOG_LOST := by
  simp only [R.VLV_I, R.LOG_LOST]
  omega

theorem vlvStat_ne_logLost (n : Nat) : R.VLV_STAT n ≠ R.LOG_LOST := by
  simp only [R.VLV_STAT, R.LOG_LOST]
  omega

theorem vlvCntConflict_ne_logLost (n : Nat) : R.VLV_CNT_CONFLICT n ≠ R.LOG_LOST := by
  simp only [R.VLV_CNT_CONFLICT, R.LOG_LOST]
  omega

/-! ### The end of a Holtid command moves no channel (R339) -/

theorem State.vlv_yardWrite (s : State) (r : Requester) (o : Nat) (v : Word) (be : BitVec 4) (n : Nat) :
    (s.yardWrite r o v be).vlv n = s.vlv n := by
  unfold State.yardWrite
  dsimp only
  split
  · rfl
  · split
    · rfl
    · exact (State.vlv_logOnceFor_frame _ _ _ _ _ _).trans (State.vlv_bump_frame _ _ _)

theorem State.vlv_yardPutBytes (s : State) (r : Requester) (o : Nat) (bs : List Nat) (n : Nat) :
    (s.yardPutBytes r o bs).vlv n = s.vlv n := by
  unfold State.yardPutBytes
  induction bs generalizing s o with
  | nil => rfl
  | cons v bs ih => exact (ih _ _).trans (State.vlv_yardWrite _ _ _ _ _ _)

theorem State.vlv_writeResult (s : State) (page status detail : Nat) (result : List Nat) (n : Nat) :
    (s.writeResult page status detail result).vlv n = s.vlv n := by
  unfold State.writeResult
  split
  · rfl
  · exact (State.vlv_yardPutBytes _ _ _ _ _).trans (State.vlv_yardPutBytes _ _ _ _ _)

theorem State.vlv_handBack (s : State) (p n : Nat) : (s.handBack p).vlv n = s.vlv n := by
  unfold State.handBack
  dsimp only
  split <;> rfl

theorem State.vlv_slotDone (s : State) (m n : Nat) : (s.slotDone m).vlv n = s.vlv n :=
  overList_leaves (fun x => x.vlv n) (fun x j => State.vlv_setMb_frame x j _ n) _ _

theorem State.vlv_showHold (s : State) (c n : Nat) : (s.showHold c).vlv n = s.vlv n := by
  unfold State.showHold
  dsimp only
  split <;> rfl

theorem State.vlv_holdOne (s : State) (c n : Nat) : (s.holdOne c).vlv n = s.vlv n := State.vlv_showHold _ c n

theorem State.vlv_releaseHold (s : State) (c n : Nat) : (s.releaseHold c).vlv n = s.vlv n := by
  unfold State.releaseHold
  split
  · rfl
  · exact (State.vlv_pulse_frame _ _ _).trans (State.vlv_showHold _ c n)

theorem State.vlv_modPulse (s : State) (c n : Nat) : (s.modPulse c).vlv n = s.vlv n := by
  have hone := s.vlv_holdOne c n
  have hwake : ((s.holdOne c).setB F.MBX_SLEEP_WAKE_PEND true).vlv n = s.vlv n := (State.vlv_setB_frame _ _ _ n).trans hone
  unfold State.modPulse
  dsimp only
  split
  · exact State.vlv_pulse_frame s _ n
  · split
    · split
      · split
        · exact hwake
        · exact hwake
      · exact hone
    · split
      · exact State.vlv_pulse_frame s _ n
      · split
        · exact (State.vlv_releaseHold _ c n).trans hone
        · exact hone

theorem State.vlv_endCommand (s : State) (src status detail : Nat) (result : List Nat) (free_ : Bool) (n : Nat) :
    (s.endCommand src status detail result free_).vlv n = s.vlv n := by
  unfold State.endCommand
  split
  · rfl
  · rename_i v _
    extract_lets lost d res st s1 box s2 s3
    have h1 : s1.vlv n = s.vlv n :=
      (overList_leaves (fun x => x.vlv n) (fun x p => x.vlv_handBack p n) _ _).trans (s.vlv_writeResult _ _ _ _ n)
    have h3 : s3.vlv n = s.vlv n :=
      calc s3.vlv n = (s2.setB (F.MBX_STAT_SERVING src) false).vlv n := State.vlv_slotDone _ _ _
        _ = s2.vlv n := State.vlv_setB_frame _ _ _ _
        _ = s1.vlv n := State.vlv_handBack _ _ _
        _ = s.vlv n := h1
    split
    · rfl
    · split
      · split
        · exact (State.vlv_pulse_frame _ _ _).trans h3
        · exact (State.vlv_modPulse _ _ _).trans h3
      · exact h3

theorem State.vlv_complete (s : State) (src status detail : Nat) (result : List Nat) (n : Nat) :
    (s.complete src status detail result).vlv n = s.vlv n := s.vlv_endCommand src status detail result false n

theorem State.vlv_vFail (s : State) (o : VOwner) (status detail n : Nat) : (s.vFail o status detail).vlv n = s.vlv n := by
  cases o with
  | ev sh slot => rfl
  | holtid src => exact s.vlv_complete _ _ _ _ n

theorem State.vlv_vOk (s : State) (m : Nat) (o : VOwner) (n : Nat) : (s.vOk m o).vlv n = s.vlv n := by
  cases o with
  | ev sh slot => rfl
  | holtid src => exact s.vlv_complete _ _ _ _ n

theorem State.vFail_endLeaves (s : State) (o : VOwner) (status detail : Nat) : s.EndLeaves (s.vFail o status detail) := by
  cases o with
  | ev sh slot => exact .refl s
  | holtid src => exact s.complete_endLeaves _ _ _ _

theorem State.vOk_endLeaves (s : State) (m : Nat) (o : VOwner) : s.EndLeaves (s.vOk m o) := by
  cases o with
  | ev sh slot => exact .refl s
  | holtid src => exact s.complete_endLeaves _ _ _ _

/-! ### A grant (R213, R216) -/

/-- A grant to a channel without a waiting command does nothing. -/
theorem State.grant_unwaiting {s : State} {m : Nat} (h : (s.vlv m).wait = none) : s.grant m = s := by
  unfold State.grant
  dsimp only
  rw [h]

/-- A grant writes the channel it goes to alone, and keeps its sample. -/
theorem State.vlv_grant (s : State) (m : Nat) :
    ∃ v : Valve, v.x = (s.vlv m).x ∧ ∀ n, (s.grant m).vlv n = if n = m then v else s.vlv n := by
  unfold State.grant
  extract_lets b v src_
  split
  · refine ⟨s.vlv m, rfl, fun n => ?_⟩
    split
    · rw [‹n = m›]
    · rfl
  · extract_lets ts dur v1 s1 s2 s3
    refine ⟨v1, rfl, fun n => ?_⟩
    calc (s3.vOk m _).vlv n = s3.vlv n := State.vlv_vOk _ _ _ _
      _ = s2.vlv n := State.vlv_bump_frame _ _ _
      _ = (s.setVlv m v1).vlv n := rfl
      _ = if n = m then v1 else s.vlv n := State.vlv_setVlv _ _ _ _

/-- A grant moves the channel it goes to alone. -/
theorem State.vlv_grant_other (s : State) {m n : Nat} (h : n ≠ m) : (s.grant m).vlv n = s.vlv n := by
  obtain ⟨v, -, hv⟩ := s.vlv_grant m
  rw [hv, if_neg h]

/-- A grant leaves the samples of every channel. -/
theorem State.x_grant (s : State) (m n : Nat) : ((s.grant m).vlv n).x = (s.vlv n).x := by
  obtain ⟨v, hx, hv⟩ := s.vlv_grant m
  rw [hv]
  split
  · rw [hx, ‹n = m›]
  · rfl

/-- A grant writes none of the words of the samples. -/
theorem State.rd_grant_i (s : State) (m : Nat) (n : Fin 32) : (s.grant m).rd (R.VLV_I n) = s.rd (R.VLV_I n) := by
  unfold State.grant
  extract_lets b v src_
  split
  · rfl
  · extract_lets ts dur v1 s1 s2 s3
    have hwait : R.VLV_I n ≠ (F.VLV_WAITT_WAIT m).addr := by
      simp only [R.VLV_I, F.VLV_WAITT_WAIT, R.VLV_WAITT]
      omega
    have hlo : R.VLV_I n ≠ (F.VLV_TSTART_LO_LO m).addr := by
      simp only [R.VLV_I, F.VLV_TSTART_LO_LO, R.VLV_TSTART_LO]
      omega
    have hhi : R.VLV_I n ≠ (F.VLV_TSTART_HI_HI m).addr := by
      simp only [R.VLV_I, F.VLV_TSTART_HI_HI, R.VLV_TSTART_HI]
      omega
    have h2 : s2.rd (R.VLV_I n) = s.rd (R.VLV_I n) := by
      unfold s2 State.setTStart
      rw [State.rd_setF_other _ _ hhi, State.rd_setF_other _ _ hlo, State.rd_setF_other _ _ hwait]
      rfl
    have hcnt : ∀ c : Bool, R.VLV_I n ≠ if c then R.VLV_CNT_RETRIG m else R.VLV_CNT_START m := by
      intro c
      cases c <;> simp only [R.VLV_I, R.VLV_CNT_RETRIG, R.VLV_CNT_START, if_true, Bool.false_eq_true, if_false] <;> omega
    rw [(State.vOk_endLeaves _ _ _).rd _ (vlvI_lt n) (vlvI_ne_logLost n)]
    exact (State.rd_bump_other _ (hcnt _)).trans h2

/-! ### Boost handed on (R216) -/

/-- What every grant and every write of a register and of a bank leave, the hand-over leaves. -/
theorem State.boostFree_leaves {α : Type} (g : State → α) (s : State) (k : Nat)
    (hbk : ∀ (x : State) b y, g (x.setBk b y) = g x) (hset : ∀ (x : State) v, g (x.setF (F.VLV_TBOOST_BOOST k) v) = g x)
    (hgrant : ∀ (x : State) m, g x = g s → g (x.grant m) = g s) :
    g (s.boostFree k) = g s := by
  unfold State.boostFree
  extract_lets b bank s1 s2
  have h2 : g s2 = g s := (hset _ _).trans (hbk _ _ _)
  split
  · rfl
  · split
    · exact h2
    · exact hgrant _ _ h2

/-- A channel without a waiting command stays as it is when boost is handed on. -/
theorem State.vlv_boostFree (s : State) (k : Nat) {n : Nat} (h : (s.vlv n).wait = none) : (s.boostFree k).vlv n = s.vlv n := by
  refine State.boostFree_leaves (fun x => x.vlv n) s k (fun _ _ _ => rfl) (fun _ _ => rfl) (fun x m hx => ?_)
  by_cases hmn : n = m
  · subst hmn
    rw [State.grant_unwaiting ((congrArg Valve.wait hx).trans h)]
    exact hx
  · exact (x.vlv_grant_other hmn).trans hx

theorem State.x_boostFree (s : State) (k n : Nat) : ((s.boostFree k).vlv n).x = (s.vlv n).x :=
  State.boostFree_leaves (fun x => (x.vlv n).x) s k (fun _ _ _ => rfl) (fun _ _ => rfl) (fun x m hx => (x.x_grant m n).trans hx)

theorem State.rd_boostFree_i (s : State) (k : Nat) (n : Fin 32) : (s.boostFree k).rd (R.VLV_I n) = s.rd (R.VLV_I n) := by
  refine State.boostFree_leaves (fun x => x.rd (R.VLV_I n)) s k (fun _ _ _ => rfl) (fun x v => State.rd_setF_other x v ?_)
    (fun x m hx => (x.rd_grant_i m n).trans hx)
  simp only [R.VLV_I, F.VLV_TBOOST_BOOST, R.VLV_TBOOST]
  omega

/-! ### A refusal (R216) -/

theorem State.vlv_conflict (s : State) (m : Nat) (o : VOwner) (n : Nat) : (s.conflict m o).vlv n = s.vlv n := by
  unfold State.conflict
  dsimp only
  rw [State.vlv_vFail]
  simp

/-- A refusal sets its flag and counts. -/
theorem State.conflict_counts (s : State) (n : Fin 32) (o : VOwner) :
    let t := s.conflict n o
    t.b (F.VLV_STAT_CONFLICT n) = true
    ∧ t.rd (R.VLV_CNT_CONFLICT n) = BitVec.ofNat 32 (min ((s.rd (R.VLV_CNT_CONFLICT n)).toNat % 2 ^ 24 + 1) 0xFFFFFF) := by
  unfold State.conflict
  extract_lets b h s1 t
  have hend : ∀ a, a < 0x120000 → a ≠ R.LOG_LOST → t.rd a = s1.rd a := fun a ha hl =>
    ((State.vFail_endLeaves _ _ _ _).rd a ha hl).trans ((State.rd_log _ _ _ _ hl).trans (State.rd_pulse_frame _ _ _))
  have hstatBank : R.VLV_STAT n ≠ R.HSW_CNT_CONFLICT b := by
    simp only [R.VLV_STAT, R.HSW_CNT_CONFLICT]
    omega
  have hcntBank : R.VLV_CNT_CONFLICT n ≠ R.HSW_CNT_CONFLICT b := by
    simp only [R.VLV_CNT_CONFLICT, R.HSW_CNT_CONFLICT]
    omega
  have hstatCnt : R.VLV_STAT n ≠ R.VLV_CNT_CONFLICT n := by
    simp only [R.VLV_STAT, R.VLV_CNT_CONFLICT]
    omega
  constructor
  · calc t.b (F.VLV_STAT_CONFLICT n) = s1.b (F.VLV_STAT_CONFLICT n) :=
          State.b_of_rd (hend _ (vlvStat_lt n) (vlvStat_ne_logLost n))
      _ = (s.setB (F.VLV_STAT_CONFLICT n) true).b (F.VLV_STAT_CONFLICT n) :=
          (State.b_bump_other _ hstatBank).trans (State.b_bump_other _ hstatCnt)
      _ = true := State.b_setB_same _ _ (Nat.le_of_ble_eq_true rfl) rfl
  · rw [hend _ (vlvCntConflict_lt n) (vlvCntConflict_ne_logLost n), State.rd_bump_other _ hcntBank, State.rd_bump_same,
      State.rd_setB_other _ _ hstatCnt.symm]

end Sys2Proof.Machine
end

section
/-! The phases of a channel, its samples and the boost converter (R202 to R205, R209, R212, R216). -/

namespace Sys2Proof.Machine

open Sys2Proof

/-! ### The ends of phases (R209, R212) -/

section
variable {s : State} {n : Nat} (hwait : (s.vlv n).wait = none)
include hwait

theorem State.vlv_toPeak : (s.toPeak n).vlv n = { s.vlv n with st := .peak, sw := true, tOn := s.now } := by
  have hset := State.vlv_setVlv_same s n { s.vlv n with st := .peak, sw := true, tOn := s.now }
  exact (State.vlv_boostFree _ n ((congrArg Valve.wait hset).trans hwait)).trans hset

theorem State.decay_runs (hfly : (s.vlv n).flyback = none) (hruns : (s.vlv n).st.runs = true) :
    ((s.decay n).vlv n).st = .decay ∧ ((s.decay n).vlv n).td = s.now := by
  unfold State.decay
  extract_lets v v1
  have hset : (s.setVlv n v1).vlv n = v1 := State.vlv_setVlv_same _ _ _
  have hwait1 : v1.wait = none := congrArg (Option.map _) hwait
  rw [if_neg (by simp [v, hruns, hfly]), State.vlv_boostFree _ n ((congrArg Valve.wait hset).trans hwait1), hset]
  exact ⟨rfl, rfl⟩

theorem State.vlv_vIdle : (s.vIdle n).vlv n = { s.vlv n with st := .off, owner := none } := by
  unfold State.vIdle
  dsimp only
  rw [hwait]
  exact State.vlv_setVlv_same _ _ _

end

/-- BOOST ends after T_BST_MAX (R209). -/
theorem State.bstTimeout_due {s : State} {n : Fin 32} (hst : (s.vlv n).st = .boost) (hfly : (s.vlv n).flyback = none)
    (hwait : (s.vlv n).wait = none) (hdue : s.passed (s.vlv n).tb (s.vlv n).prof.tBst = true) :
    ((s.bstTimeout n).vlv n).st = .peak ∧ (s.bstTimeout n).b (F.VLV_STAT_BOOST_TIMEOUT n) = true := by
  unfold State.bstTimeout
  extract_lets v s1
  have hsettle := (s1.logOnce .vlvBoostTimeout n 0).bankSettle_leaves (n / 4)
  rw [if_pos (by simp [v, hst, hfly, hdue]), hsettle.st, hsettle.b, State.vlv_logOnce_frame]
  constructor
  · unfold s1
    rw [State.vlv_pulse_frame, State.vlv_setB_frame, State.vlv_toPeak hwait]
  · rw [State.b_of_rd (State.rd_logOnce s1 _ _ _ (vlvStat_ne_logLost n))]
    exact (State.b_pulse_frame _ _ _).trans (State.b_setB_same _ _ (Nat.le_of_ble_eq_true rfl) rfl)

/-- PEAK ends after T_PEAK (R209). -/
theorem State.peakEnd_due {s : State} {n : Nat} (hst : (s.vlv n).st = .peak) (hfly : (s.vlv n).flyback = none)
    (hdue : s.passed (s.vlv n).tb (s.vlv n).prof.tPeak = true) :
    ((s.peakEnd n).vlv n).st = .drop ∧ ((s.peakEnd n).vlv n).sw = false ∧ ∀ a, (s.peakEnd n).rd a = s.rd a := by
  unfold State.peakEnd
  extract_lets v
  have hsettle := (s.setVlv n { v with st := .drop, sw := false }).bankSettle_leaves (n / 4)
  rw [if_pos (by simp [v, hst, hfly, hdue]), hsettle.st, hsettle.sw, State.vlv_setVlv_same]
  exact ⟨rfl, rfl, hsettle.rd⟩

/-- A profile ends after T_MAX where that is not 0 (R209). -/
theorem State.capEndV_due {s : State} {n : Nat} (hruns : (s.vlv n).st.runs = true) (hfly : (s.vlv n).flyback = none)
    (hwait : (s.vlv n).wait = none) (hcap : (s.vlv n).prof.tMax ≠ 0) (hdue : s.passed (s.vlv n).ts (s.vlv n).prof.tMax = true) :
    ((s.capEndV n).vlv n).st = .decay ∧ ((s.capEndV n).vlv n).td = s.now := by
  unfold State.capEndV
  extract_lets v
  have hsettle := (s.decay n).bankSettle_leaves (n / 4)
  rw [if_pos (by simp [v, hruns, hfly, hcap, hdue]), hsettle.st, hsettle.td]
  exact State.decay_runs hwait hfly hruns

/-- DECAY ends after T_DECAY_MAX (R209). -/
theorem State.decayTimeout_due {s : State} {n : Fin 32} (hst : (s.vlv n).st = .decay) (hwait : (s.vlv n).wait = none)
    (hdue : s.passed (s.vlv n).td (s.vlv n).prof.tDecay = true) :
    ((s.decayTimeout n).vlv n).st = .off ∧ ((s.decayTimeout n).vlv n).owner = none
    ∧ (s.decayTimeout n).b (F.VLV_STAT_DECAY_LONG n) = true := by
  let s1 := (s.setB (F.VLV_STAT_DECAY_LONG n) true).log .vlvDecayTimeout n 0
  have hvlv : s1.vlv n = s.vlv n := (State.vlv_log_frame _ _ _ _ _).trans (State.vlv_setB_frame _ _ _ _)
  have hwait1 : (s1.vlv n).wait = none := (congrArg Valve.wait hvlv).trans hwait
  have hregs : (s1.vIdle n).regs = s1.regs := by
    unfold State.vIdle
    dsimp only
    rw [hwait1]
    rfl
  have hsettle := (s1.vIdle n).bankSettle_leaves (n / 4)
  have heq : s.decayTimeout n = (s1.vIdle n).bankSettle (n / 4) := if_pos (by simp [hst, hdue])
  rw [heq, hsettle.st, hsettle.owner, hsettle.b, State.vlv_vIdle hwait1, State.b_congr hregs]
  refine ⟨rfl, rfl, ?_⟩
  exact (State.b_log _ _ _ _ (vlvStat_ne_logLost n)).trans (State.b_setB_same _ _ (Nat.le_of_ble_eq_true rfl) rfl)

/-- The duration of a Holtid command ends its profile (R212). -/
theorem State.vDurEnd_due {s : State} {n : Nat} {e : Time} (hruns : (s.vlv n).st.runs = true) (hfly : (s.vlv n).flyback = none)
    (hwait : (s.vlv n).wait = none) (hend : (s.vlv n).durEnd = some e) (hdue : s.reached e = true) :
    ((s.vDurEnd n).vlv n).st = .decay := by
  have heq : s.vDurEnd n = (s.decay n).bankSettle (n / 4) := by
    unfold State.vDurEnd
    simp [hwait, hend, hdue]
  rw [heq, ((s.decay n).bankSettle_leaves (n / 4)).st]
  exact (State.decay_runs hwait hfly hruns).1

/-! ### Grace (R216) -/

/-- A command whose grace has passed is refused. -/
theorem State.graceEnd_due {s : State} {n : Fin 32} {w : VWait} (hwait : (s.vlv n).wait = some w)
    (hdue : s.passed w.since (500 * s.f (F.HSW_CFG_GRACE (n.val / 4))) = true) :
    let t := s.graceEnd n
    (t.vlv n).wait = none ∧ (t.vlv n).st = (if (s.vlv n).st = .wait then .off else (s.vlv n).st)
    ∧ t.b (F.VLV_STAT_CONFLICT n) = true
    ∧ t.rd (R.VLV_CNT_CONFLICT n) = BitVec.ofNat 32 (min ((s.rd (R.VLV_CNT_CONFLICT n)).toNat % 2 ^ 24 + 1) 0xFFFFFF) := by
  intro t
  let v : Valve := { s.vlv n with wait := none, st := if (s.vlv n).st = .wait then VSt.off else (s.vlv n).st }
  let s1 := (s.unqueue n).setVlv n v
  have ht : t = s1.conflict n w.owner := by
    unfold t State.graceEnd State.cancelWait
    simp only [hwait, hdue, if_true]
    rfl
  have hvlv : (s1.conflict n w.owner).vlv n = v := (s1.vlv_conflict n w.owner n).trans (State.vlv_setVlv_same _ _ _)
  obtain ⟨hflag, hcnt⟩ := s1.conflict_counts n w.owner
  rw [ht, hvlv]
  exact ⟨rfl, rfl, hflag, hcnt⟩

/-! ### Samples (R203 to R205) -/

section
variable (s : State) (n code : Nat)

/-- A channel takes the corrected sample; its phase, its switch and its profile stay. -/
theorem State.vlv_takeSample :
    let t := (s.takeSample n code).vlv n
    let v := s.vlv n
    t.x = code - s.f (F.VLV_OFS_OFS n) ∧ t.st = v.st ∧ t.sw = v.sw ∧ t.tOn = v.tOn ∧ t.prof = v.prof ∧ t.flyback = v.flyback := by
  unfold State.takeSample
  extract_lets v x rests v1 peak s1 t
  have ht : t = v1 := (State.vlv_note_frame _ _ _ _).trans (State.vlv_setVlv_same s n v1)
  rw [ht]
  exact ⟨rfl, rfl, rfl, rfl, rfl, rfl⟩

theorem State.now_takeSample : (s.takeSample n code).now = s.now := State.now_note_frame _ _ _

/-- Beside IPEAK a sample writes X alone. -/
theorem State.f_takeSample {y : Fld} (hy : y.addr ≠ R.VLV_IPEAK n) :
    (s.takeSample n code).f y = (s.setF (F.VLV_I_X n) (code - s.f (F.VLV_OFS_OFS n))).f y :=
  (State.f_wr_other _ _ hy).trans (State.f_note_frame _ _ _ _)

/-- The corrected sample shows in X. -/
theorem State.x_shown_takeSample : (s.takeSample n code).f (F.VLV_I_X n) = (code - s.f (F.VLV_OFS_OFS n)) % 2 ^ 12 := by
  have hpeak : (F.VLV_I_X n).addr ≠ R.VLV_IPEAK n := by
    simp only [F.VLV_I_X, R.VLV_I, R.VLV_IPEAK]
    omega
  rw [s.f_takeSample n code hpeak]
  exact State.f_setF_same _ _ (Nat.le_of_ble_eq_true rfl)

theorem State.onEn_takeSample : (s.takeSample n code).b (F.VLV_DIAG_CFG_ON_EN n) = s.b (F.VLV_DIAG_CFG_ON_EN n) := by
  have hpeak : (F.VLV_DIAG_CFG_ON_EN n).addr ≠ R.VLV_IPEAK n := by
    simp only [F.VLV_DIAG_CFG_ON_EN, R.VLV_DIAG_CFG, R.VLV_IPEAK]
    omega
  have hx : (F.VLV_DIAG_CFG_ON_EN n).addr ≠ (F.VLV_I_X n).addr := by
    simp only [F.VLV_DIAG_CFG_ON_EN, R.VLV_DIAG_CFG, F.VLV_I_X, R.VLV_I]
    omega
  unfold State.b
  rw [s.f_takeSample n code hpeak, State.f_setF_other _ _ (.inl hx)]

end

theorem x_chop (v : Valve) (now : Time) (x i h : Nat) : (chop v now x i h).x = v.x := by
  unfold chop
  split
  · rfl
  · split <;> rfl

theorem st_chop (v : Valve) (now : Time) (x i h : Nat) : (chop v now x i h).st = v.st := by
  unfold chop
  split
  · rfl
  · split <;> rfl

/-- The switch goes off at the set current, on again below the hysteresis after CHOP_MIN, and stays otherwise (R205). -/
theorem sw_chop (v : Valve) (now : Time) (x i h : Nat) : (chop v now x i h).sw
    = if v.sw then decide (x < i) else decide (x + h ≤ i ∧ v.prof.chopMin ≤ since now v.tOn) := by
  unfold chop
  cases hsw : v.sw with
  | true =>
    rcases Nat.lt_or_ge x i with hx | hx
    · simp [hsw, hx, Nat.not_le_of_lt hx]
    · simp [hx]
  | false => by_cases hx : x + h ≤ i <;> by_cases hmin : v.prof.chopMin ≤ since now v.tOn <;> simp [hx, hmin, hsw]

/-- The rows of the phases leave every sample, and the word that shows it. -/
theorem State.phaseOnResult_leaves (s : State) (n : Fin 32) :
    ((s.phaseOnResult n).vlv n).x = (s.vlv n).x ∧ (s.phaseOnResult n).rd (R.VLV_I n) = s.rd (R.VLV_I n) := by
  have hset : ∀ v : Valve, v.x = (s.vlv n).x →
      ((s.setVlv n v).vlv n).x = (s.vlv n).x ∧ (s.setVlv n v).rd (R.VLV_I n) = s.rd (R.VLV_I n) :=
    fun v hv => ⟨(congrArg Valve.x (State.vlv_setVlv_same s n v)).trans hv, rfl⟩
  have hpeak : ((s.toPeak n).vlv n).x = (s.vlv n).x ∧ (s.toPeak n).rd (R.VLV_I n) = s.rd (R.VLV_I n) :=
    ⟨(State.x_boostFree _ _ _).trans (hset { s.vlv n with st := .peak, sw := true, tOn := s.now } rfl).1,
      State.rd_boostFree_i _ _ _⟩
  have hidle : ((s.vIdle n).vlv n).x = (s.vlv n).x ∧ (s.vIdle n).rd (R.VLV_I n) = s.rd (R.VLV_I n) := by
    unfold State.vIdle
    dsimp only
    split
    · exact hset _ rfl
    · exact hset _ rfl
  unfold State.phaseOnResult
  extract_lets v
  split
  · exact ⟨rfl, rfl⟩
  · split
    · split
      · exact hpeak
      · exact ⟨rfl, rfl⟩
    · exact hset _ (x_chop _ _ _ _ _)
    · exact hset _ (x_chop _ _ _ _ _)
    · split
      · exact hset _ rfl
      · exact ⟨rfl, rfl⟩
    · split
      · exact hidle
      · exact ⟨rfl, rfl⟩
    · exact ⟨rfl, rfl⟩

/-- In PEAK a result chops (R205). -/
theorem State.phaseOnResult_peak {s : State} {n : Nat} (hst : (s.vlv n).st = .peak) (hfly : (s.vlv n).flyback = none) :
    (s.phaseOnResult n).vlv n = chop (s.vlv n) s.now (s.vlv n).x (s.vlv n).prof.peak (s.vlv n).prof.hPeak := by
  have heq : s.phaseOnResult n = s.setVlv n (chop (s.vlv n) s.now (s.vlv n).x (s.vlv n).prof.peak (s.vlv n).prof.hPeak) := by
    unfold State.phaseOnResult
    simp [hfly, hst]
  rw [heq, State.vlv_setVlv_same]

/-- Without on-state diagnosis a result is the sample and the row of its phase. -/
theorem State.senseResult_unchecked {s : State} {n code : Nat} (htick : s.resultTick n = true) (hmode : 2 ≤ s.mode)
    (hon : s.b (F.VLV_DIAG_CFG_ON_EN n) = false) :
    s.senseResult n code = ((s.takeSample n code).phaseOnResult n).bankSettle (n / 4) := by
  have hcheck : (s.takeSample n code).onChecked n = false := by
    unfold State.onChecked
    rw [State.onEn_takeSample, hon]
    rfl
  unfold State.senseResult
  dsimp only
  rw [if_neg (by simp [htick]; omega), if_neg (by simp [hcheck])]

/-- A result's sample, and in PEAK its switch (R203 to R205). -/
theorem State.senseResult_effect {s : State} {n : Fin 32} (code : BitVec 12) (htick : s.resultTick n = true) (hmode : 2 ≤ s.mode)
    (hon : s.b (F.VLV_DIAG_CFG_ON_EN n) = false) (hfly : (s.vlv n).flyback = none) :
    let x := code.toNat - s.f (F.VLV_OFS_OFS n)
    let v := s.vlv n
    let t := s.senseResult n code.toNat
    (t.vlv n).x = x ∧ t.f (F.VLV_I_X n) = x
    ∧ (v.st = .peak → (t.vlv n).st = .peak ∧ (t.vlv n).sw =
      (if v.sw then decide (x < v.prof.peak)
        else decide (x + v.prof.hPeak ≤ v.prof.peak ∧ v.prof.chopMin ≤ since s.now v.tOn))) := by
  intro x v t
  obtain ⟨hx, hst, hsw, htOn, hprof, hfly1⟩ := s.vlv_takeSample n code.toNat
  obtain ⟨hx2, hrd⟩ := (s.takeSample n code.toNat).phaseOnResult_leaves n
  have hsettle := ((s.takeSample n code.toNat).phaseOnResult n).bankSettle_leaves (n / 4)
  have hfits : x % 2 ^ 12 = x := Nat.mod_eq_of_lt (by have := code.isLt; omega)
  unfold t
  rw [State.senseResult_unchecked htick hmode hon, hsettle.x, hsettle.f, hsettle.st, hsettle.sw]
  refine ⟨hx2.trans hx, (State.f_of_rd hrd).trans ((s.x_shown_takeSample n _).trans hfits), fun hpeak => ?_⟩
  rw [State.phaseOnResult_peak (hst.trans hpeak) (hfly1.trans hfly), st_chop, sw_chop, hsw, hx, hprof, htOn,
    State.now_takeSample]
  exact ⟨hst.trans hpeak, rfl⟩

/-! ### The boost converter (R201, R202) -/

theorem State.bstPulse_gateOn {s : State} (hch : s.b F.BST_STAT_CHARGING = true) (hov : s.b F.BST_STAT_OV = false)
    (hgate : s.bst.gate = false) (hoff : s.bst.offUntil = none) :
    s.bstPulse .gateOn = { s with bst := { s.bst with gate := true, gateAt := s.now } }.bump R.BST_CNT_PULSE :=
  if_pos (by simp [hch, hov, hgate, hoff])

theorem State.bstPulse_gateOff {s : State} {cs : Nat} (hgate : s.bst.gate = true)
    (hend : 5 * s.f F.BST_SW_ILIM ≤ cs ∨ s.passed s.bst.gateAt (20 * s.f F.BST_SW_TON_MAX) = true) :
    s.bstPulse (.gateOff cs) = { s with bst := { s.bst with
      gate := false, offUntil := some (s.now + BitVec.ofNat 48 (20 * s.f F.BST_SW_TOFF)) } } :=
  if_pos (by simpa [hgate] using hend)

theorem State.bstPulse_offTimeEnd {s : State} {e : Time} (hoff : s.bst.offUntil = some e) (hreach : s.reached e = true) :
    s.bstPulse .offTimeEnd = { s with bst := { s.bst with offUntil := none } } := by
  unfold State.bstPulse
  dsimp only
  rw [hoff]
  exact if_pos hreach

/-- The flags of a comparison, and what it makes of BST_G (R202). -/
theorem State.bstCompare_watched {s : State} (h : 2 ≤ s.mode) :
    let t := s.bstCompare
    t.bst.vbst = s.bst.vbst ∧ t.b F.BST_STAT_OV = decide (s.vov ≤ s.bst.vbst)
    ∧ t.b F.BST_STAT_LOW = decide (s.bst.vbst < s.f F.BST_LIM_VMIN) ∧ (s.vov ≤ s.bst.vbst → t.bst.gate = false) := by
  unfold State.bstCompare
  extract_lets v watched ov low s1 s2 charging s3 src_ t
  have hwatched : watched = true := decide_eq_true h
  have hov : ov = decide (s.vov ≤ s.bst.vbst) := by
    unfold ov
    rw [hwatched, Bool.true_and]
  have hlow : low = decide (s.bst.vbst < s.f F.BST_LIM_VMIN) := by
    unfold low
    rw [hwatched, Bool.true_and]
  have hbst : s3.bst = s.bst := by
    have h1 : s1.bst = s.bst := by
      unfold s1
      split
      · simp
      · rfl
    have h2 : s2.bst = s1.bst := by
      unfold s2
      split
      · simp
      · rfl
    unfold s3
    simp [h1, h2]
  have hvbst : s3.bst.vbst = s.bst.vbst := congrArg Boost.vbst hbst
  refine ⟨hvbst, ?_, ?_, fun hv => ?_⟩
  · show s3.b F.BST_STAT_OV = _
    unfold s3
    rw [State.b_setB_other _ _ (.inr (.inl (by decide))), State.b_setB_other _ _ (.inr (.inr (by decide))),
      State.b_setB_same _ _ (by decide) rfl, hov]
  · show s3.b F.BST_STAT_LOW = _
    unfold s3
    rw [State.b_setB_other _ _ (.inr (.inl (by decide))), State.b_setB_same _ _ (by decide) rfl, hlow]
  · show (s3.bst.gate && charging && !ov) = false
    rw [hov, decide_eq_true hv]
    simp

end Sys2Proof.Machine
end

section
/-! The settlement of the valves' phases, samples and converter (R201 to R205, R209, R212, R216). -/

namespace Sys2Proof.Machine

open Sys2Proof

section
variable (n : Fin 32) (s : State)

theorem exec_valveSenseResult (code : BitVec 12) : exec (.valveSenseResult n code) s = .next (s.senseResult n code.toNat) := rfl
theorem exec_boostGraceExpiry : exec (.boostGraceExpiry n) s = .next ((s.graceEnd n).bankSettle (n.val / 4)) := rfl
theorem exec_tBstMaxExpiry : exec (.tBstMaxExpiry n) s = .next (s.bstTimeout n) := rfl
theorem exec_tPeakExpiry : exec (.tPeakExpiry n) s = .next (s.peakEnd n) := rfl
theorem exec_tMaxExpiry : exec (.tMaxExpiry n) s = .next (s.capEndV n) := rfl
theorem exec_tDecayMaxExpiry : exec (.tDecayMaxExpiry n) s = .next (s.decayTimeout n) := rfl
theorem exec_vlvDurationEnd : exec (.vlvDurationEnd n) s = .next (s.vDurEnd n) := rfl
theorem exec_boostConverterPulse (e : BoostEdge) : exec (.boostConverterPulse e) s = .next (s.bstPulse e) := rfl
theorem exec_vbstThreshold (code : BitVec 9) : exec (.vbstThreshold code) s = .next (s.vbstAt code.toNat) := rfl

end

/-- Settles O42, one lemma per end: the gates settle after each, and hand-over of boost reaches only channels that wait. -/
theorem valvePhasesEndAtTheirTimes : Obligations.ValvePhasesEndAtTheirTimes := by
  refine ⟨fun n s => ?phases, fun n s w hwait hdue => ?grace, fun n code s htick hmode hon hfly => ?sample,
    fun s hch hov hgate hoff => ?gateOn, fun cs s hgate hend => ?gateOff,
    fun s e hoff hreach => ?offTimeEnd, fun code s hmode => ?compare⟩
  case phases =>
    intro v hfly hwait
    refine ⟨fun hst hdue => ?_, fun hst hdue => ?_, fun hruns hcap hdue => ?_, fun hst hdue => ?_, fun e hruns hend hdue => ?_⟩
    · exact ⟨_, exec_tBstMaxExpiry n s, State.bstTimeout_due hst hfly hwait hdue⟩
    · exact ⟨_, exec_tPeakExpiry n s, State.peakEnd_due hst hfly hdue⟩
    · exact ⟨_, exec_tMaxExpiry n s, State.capEndV_due hruns hfly hwait hcap hdue⟩
    · exact ⟨_, exec_tDecayMaxExpiry n s, State.decayTimeout_due hst hwait hdue⟩
    · exact ⟨_, exec_vlvDurationEnd n s, State.vDurEnd_due hruns hfly hwait hend hdue⟩
  case grace =>
    have hsettle := (s.graceEnd n).bankSettle_leaves (n.val / 4)
    refine ⟨_, exec_boostGraceExpiry n s, ?_⟩
    rw [hsettle.wait, hsettle.st, hsettle.b, hsettle.rd]
    exact State.graceEnd_due hwait hdue
  case sample => exact ⟨_, exec_valveSenseResult n s code, State.senseResult_effect code htick hmode hon hfly⟩
  case gateOn =>
    refine ⟨_, (exec_boostConverterPulse s _).trans (congrArg _ (State.bstPulse_gateOn hch hov hgate hoff)), ?_⟩
    rw [State.bst_bump_frame]
    exact ⟨rfl, rfl, State.rd_bump_same _ _, fun a ha => State.rd_bump_other _ ha⟩
  case gateOff => exact (exec_boostConverterPulse s _).trans (congrArg _ (State.bstPulse_gateOff hgate hend))
  case offTimeEnd => exact (exec_boostConverterPulse s _).trans (congrArg _ (State.bstPulse_offTimeEnd hoff hreach))
  case compare =>
    exact ⟨_, exec_vbstThreshold s code,
      State.bstCompare_watched (s := { s with bst := { s.bst with vbst := code.toNat } }) hmode⟩

end Sys2Proof.Machine
end

section
/-! What the drive of the valves leaves alone (R213, R216, R221): the end of a Holtid command moves no bank; cancelling, handing
boost on, decay and settling write few words of a channel; a lock writes the causes beside them. -/

namespace Sys2Proof.Machine

open Sys2Proof

/-! ### The end of a Holtid command moves no bank (R339) -/

section
variable (s : State) (b : Nat)

theorem State.bk_yardWrite (r : Requester) (o : Nat) (v : Word) (be : BitVec 4) : (s.yardWrite r o v be).bk b = s.bk b := by
  unfold State.yardWrite
  dsimp only
  split
  · rfl
  · split
    · rfl
    · exact (State.bk_logOnceFor_frame _ _ _ _ _ _).trans (State.bk_bump_frame _ _ _)

theorem State.bk_yardPutBytes (r : Requester) (o : Nat) (bs : List Nat) : (s.yardPutBytes r o bs).bk b = s.bk b := by
  unfold State.yardPutBytes
  induction bs generalizing s o with
  | nil => rfl
  | cons v bs ih => exact (ih _ _).trans (State.bk_yardWrite _ _ _ _ _ _)

theorem State.bk_writeResult (page status detail : Nat) (result : List Nat) :
    (s.writeResult page status detail result).bk b = s.bk b := by
  unfold State.writeResult
  split
  · rfl
  · exact (State.bk_yardPutBytes _ _ _ _ _).trans (State.bk_yardPutBytes _ _ _ _ _)

theorem State.bk_handBack (p : Nat) : (s.handBack p).bk b = s.bk b := by
  unfold State.handBack
  dsimp only
  split <;> rfl

theorem State.bk_slotDone (m : Nat) : (s.slotDone m).bk b = s.bk b :=
  overList_leaves (fun x => x.bk b) (fun x j => State.bk_setMb_frame x j _ b) _ _

theorem State.bk_showHold (c : Nat) : (s.showHold c).bk b = s.bk b := by
  unfold State.showHold
  dsimp only
  split <;> rfl

theorem State.bk_holdOne (c : Nat) : (s.holdOne c).bk b = s.bk b := State.bk_showHold _ b c

theorem State.bk_releaseHold (c : Nat) : (s.releaseHold c).bk b = s.bk b := by
  unfold State.releaseHold
  split
  · rfl
  · exact (State.bk_pulse_frame _ _ _).trans (State.bk_showHold _ b c)

theorem State.bk_modPulse (c : Nat) : (s.modPulse c).bk b = s.bk b := by
  have hone := s.bk_holdOne b c
  have hwake : ((s.holdOne c).setB F.MBX_SLEEP_WAKE_PEND true).bk b = s.bk b := (State.bk_setB_frame _ _ _ b).trans hone
  unfold State.modPulse
  dsimp only
  split
  · exact State.bk_pulse_frame s _ b
  · split
    · split
      · split <;> exact hwake
      · exact hone
    · split
      · exact State.bk_pulse_frame s _ b
      · split
        · exact (State.bk_releaseHold _ b c).trans hone
        · exact hone

theorem State.bk_complete (src status detail : Nat) (result : List Nat) : (s.complete src status detail result).bk b = s.bk b := by
  unfold State.complete State.endCommand
  split
  · rfl
  · rename_i v _
    extract_lets lost d res st s1 box s2 s3
    have h1 : s1.bk b = s.bk b :=
      (overList_leaves (fun x => x.bk b) (fun x p => x.bk_handBack b p) _ _).trans (s.bk_writeResult b _ _ _ _)
    have h3 : s3.bk b = s.bk b :=
      calc s3.bk b = (s2.setB (F.MBX_STAT_SERVING src) false).bk b := State.bk_slotDone _ _ _
        _ = s2.bk b := State.bk_setB_frame _ _ _ _
        _ = s1.bk b := State.bk_handBack _ _ _
        _ = s.bk b := h1
    split
    · rfl
    · split
      · exact (State.bk_modPulse _ _ _).trans h3
      · exact h3

theorem State.bk_vFail (o : VOwner) (status detail : Nat) : (s.vFail o status detail).bk b = s.bk b := by
  cases o with
  | ev sh slot => rfl
  | holtid src => exact s.bk_complete b _ _ _ _

theorem State.bk_vOk (m : Nat) (o : VOwner) : (s.vOk m o).bk b = s.bk b := by
  cases o with
  | ev sh slot => rfl
  | holtid src => exact s.bk_complete b _ _ _ _

end

/-! ### What is left alone -/

/-- The bits of the words that the valve drive does not write: below the mailboxes, not the log's lost count, and of the
channels' words those from 0x40 on, where the thermal model and the diagnosis begin. -/
def driveSpares (a _ : Nat) : Prop := a < 0x120000 ∧ a ≠ R.LOG_LOST ∧ (a < 0x108000 ∨ 0x40 ≤ a % 0x100)

/-- Those of them that no lock writes: of DIAG_STAT the bits above LOCKED and the causes (R221). -/
def lockSpares (a i : Nat) : Prop := driveSpares a i ∧ ∀ n, a = R.VLV_DIAG_STAT n → 5 < i

/-- Those of them outside DIAG_STAT. -/
def diagSpares (a i : Nat) : Prop := driveSpares a i ∧ ∀ n, a ≠ R.VLV_DIAG_STAT n

/-- From `s` to `t` the bits that `K` names, the flyback checks and the off-state tests are as they were. -/
structure State.Spares (K : Nat → Nat → Prop) (s t : State) : Prop where
  bits : ∀ a i, K a i → (t.rd a).getLsbD i = (s.rd a).getLsbD i
  flyback : ∀ n, (t.vlv n).flyback = (s.vlv n).flyback
  test : ∀ b, (t.bk b).test = (s.bk b).test

namespace State.Spares

variable {K L : Nat → Nat → Prop} {s t u : State}

theorem refl (s : State) : State.Spares K s s := ⟨fun _ _ _ => rfl, fun _ => rfl, fun _ => rfl⟩

theorem trans (h : State.Spares K s t) (k : State.Spares K t u) : State.Spares K s u where
  bits a i hK := (k.bits a i hK).trans (h.bits a i hK)
  flyback n := (k.flyback n).trans (h.flyback n)
  test b := (k.test b).trans (h.test b)

theorem mono (h : State.Spares K s t) (hL : ∀ a i, L a i → K a i) : State.Spares L s t :=
  ⟨fun a i hLa => h.bits a i (hL a i hLa), h.flyback, h.test⟩

theorem toLock (h : State.Spares driveSpares s t) : State.Spares lockSpares s t := h.mono fun _ _ => And.left

theorem toDiag (h : State.Spares lockSpares s t) : State.Spares diagSpares s t :=
  h.mono fun _ _ ⟨hd, hn⟩ => ⟨hd, fun n hc => absurd hc (hn n)⟩

/-- Words of which `K` names every bit are as they were. -/
theorem rd (h : State.Spares K s t) {a : Nat} (ha : ∀ i, K a i) : t.rd a = s.rd a :=
  BitVec.eq_of_getLsbD_eq fun i _ => h.bits a i (ha i)

/-- So are fields of which `K` names every bit. -/
theorem f (h : State.Spares K s t) {y : Fld} (hy : ∀ i, y.lo ≤ i → K y.addr i) : t.f y = s.f y := by
  apply Nat.eq_of_testBit_eq
  intro i
  unfold State.f
  rw [testBit_getBits, testBit_getBits, h.bits _ _ (hy _ (Nat.le_add_right _ _))]

theorem b (h : State.Spares K s t) {y : Fld} (hy : ∀ i, y.lo ≤ i → K y.addr i) : t.b y = s.b y := by
  unfold State.b
  rw [h.f hy]

theorem ite {c : Prop} [Decidable c] (ht : State.Spares K s t) (hu : State.Spares K s u) :
    State.Spares K s (if c then t else u) := by
  split
  · exact ht
  · exact hu

/-- A fold of an operation that leaves them leaves them. -/
theorem overList {α : Type} {f : State → α → State} (hf : ∀ x a, State.Spares K x (f x a)) (l : List α) (s : State) :
    State.Spares K s (Machine.overList l f s) :=
  overList_rel refl trans hf l s

/-- An operation that writes registers alone, and of these none that `K` names. -/
theorem ofRegs (hrd : ∀ a i, K a i → (t.rd a).getLsbD i = (s.rd a).getLsbD i) (hv : ∀ n, t.vlv n = s.vlv n)
    (hb : ∀ b, t.bk b = s.bk b) : State.Spares K s t :=
  ⟨hrd, fun n => congrArg Valve.flyback (hv n), fun b => congrArg Bank.test (hb b)⟩

/-- An operation that leaves the channels and the banks, and every word that the drive does not write. -/
theorem ofWords (hrd : ∀ a, a < 0x120000 → a ≠ R.LOG_LOST → (a < 0x108000 ∨ 0x40 ≤ a % 0x100) → t.rd a = s.rd a)
    (hv : ∀ n, t.vlv n = s.vlv n) (hb : ∀ b, t.bk b = s.bk b) : State.Spares driveSpares s t :=
  ofRegs (fun a i ⟨ha, hl, hc⟩ => congrArg (BitVec.getLsbD · i) (hrd a ha hl hc)) hv hb

end State.Spares

/-! ### The operations of the drive -/

section
variable (s : State) (n : Nat)

theorem State.setVlv_spares {K : Nat → Nat → Prop} {v : Valve} (hv : v.flyback = (s.vlv n).flyback) :
    State.Spares K s (s.setVlv n v) where
  bits _ _ _ := rfl
  flyback m := by
    rw [State.vlv_setVlv]
    split
    · rw [hv, ‹m = n›]
    · rfl
  test _ := rfl

theorem State.setBk_spares {K : Nat → Nat → Prop} (b : Nat) {k : Bank} (hk : k.test = (s.bk b).test) :
    State.Spares K s (s.setBk b k) where
  bits _ _ _ := rfl
  flyback _ := rfl
  test c := by
    rw [State.bk_setBk]
    split
    · rw [hk, ‹c = b›]
    · rfl

theorem State.setF_spares {K : Nat → Nat → Prop} {x : Fld} (v : Nat) (hx : ∀ i, x.lo ≤ i → i < x.lo + x.len → ¬K x.addr i) :
    State.Spares K s (s.setF x v) := by
  refine .ofRegs (fun a i hK => ?_) (fun m => State.vlv_setF_frame s x v m) (fun b => State.bk_setF_frame s x v b)
  by_cases ha : a = x.addr
  · subst ha
    unfold State.setF
    rw [State.rd_wr_same, getLsbD_setBits, if_neg fun ⟨hlo, hhi, _⟩ => hx i hlo hhi hK]
  · rw [State.rd_setF_other s v ha]

theorem State.setB_spares {K : Nat → Nat → Prop} {x : Fld} (v : Bool) (hx : ∀ i, x.lo ≤ i → i < x.lo + x.len → ¬K x.addr i) :
    State.Spares K s (s.setB x v) := by
  refine .ofRegs (fun a i hK => ?_) (fun m => State.vlv_setB_frame s x v m) (fun b => State.bk_setB_frame s x v b)
  rw [State.rd_congr (State.regs_setB s x v), (s.setF_spares (toBit v) hx).bits a i hK]

theorem State.bump_spares {K : Nat → Nat → Prop} {c : Nat} (hc : ∀ i, ¬K c i) : State.Spares K s (s.bump c) :=
  .ofRegs (fun a i hK => congrArg (BitVec.getLsbD · i) (State.rd_bump_other s (by rintro rfl; exact hc i hK)))
    (State.vlv_bump_frame s c) (State.bk_bump_frame s c)

theorem State.pulse_spares (g : Nat) : State.Spares driveSpares s (s.pulse g) :=
  .ofWords (fun a _ _ _ => State.rd_pulse_frame s g a) (State.vlv_pulse_frame s g) (State.bk_pulse_frame s g)

theorem State.log_spares (c : LogCode) (x d : Nat) : State.Spares driveSpares s (s.log c x d) :=
  .ofWords (fun _ _ hl _ => State.rd_log s c x d hl) (State.vlv_log_frame s c x d) (State.bk_log_frame s c x d)

theorem State.vlog_spares (c : LogCode) : State.Spares driveSpares s (s.vlog c n) := s.log_spares c n n

theorem State.logOnceFor_spares (c : LogCode) (k x d : Nat) : State.Spares driveSpares s (s.logOnceFor c k x d) :=
  .ofWords (fun _ _ hl _ => State.rd_logOnceFor s c k x d hl) (State.vlv_logOnceFor_frame s c k x d)
    (State.bk_logOnceFor_frame s c k x d)

theorem State.vFail_spares (o : VOwner) (status detail : Nat) : State.Spares driveSpares s (s.vFail o status detail) :=
  .ofWords (fun a ha hl _ => (s.vFail_endLeaves o status detail).rd a ha hl) (s.vlv_vFail o status detail)
    (fun b => s.bk_vFail b o status detail)

theorem State.vOk_spares (o : VOwner) : State.Spares driveSpares s (s.vOk n o) :=
  .ofWords (fun a ha hl _ => (s.vOk_endLeaves n o).rd a ha hl) (s.vlv_vOk n o) (fun b => s.bk_vOk b n o)

/-- Settling a bank moves its switches and its time of quiet, not its test. -/
theorem State.test_bankSettle (b c : Nat) : ((s.bankSettle b).bk c).test = (s.bk c).test := by
  rw [← s.bk_gatesSettle b c]
  unfold State.bankSettle
  extract_lets s1 k want k1 rests k2 s2
  have hk : k = s1.bk b := rfl
  clear_value k want rests
  have hk1 : k1.test = k.test := by
    unfold k1
    split <;> rfl
  clear_value k1
  have hk2 : k2.test = k.test := by
    unfold k2
    split <;> exact hk1
  clear_value k2
  rw [State.bk_setBk]
  split
  · subst c
    exact hk2.trans (congrArg Bank.test hk)
  · unfold s2
    rw [State.bk_setBk, if_neg ‹_›]

theorem State.bankSettle_spares (b : Nat) : State.Spares driveSpares s (s.bankSettle b) :=
  have h := s.bankSettle_leaves b
  ⟨fun a i _ => congrArg (BitVec.getLsbD · i) (h.rd a), h.flyback, s.test_bankSettle b⟩

theorem State.unqueue_spares {K : Nat → Nat → Prop} : State.Spares K s (s.unqueue n) := s.setBk_spares _ rfl

/-- A waiting command that is cancelled. -/
theorem State.cancelWait_spares {f : State → VOwner → State} (hf : ∀ x o, State.Spares driveSpares x (f x o)) :
    State.Spares driveSpares s (s.cancelWait n f) := by
  unfold State.cancelWait
  extract_lets v
  split
  · exact .refl s
  · exact ((s.unqueue_spares n).trans (State.setVlv_spares _ n (by rfl))).trans (hf _ _)

theorem State.cancelState_spares : State.Spares driveSpares s (s.cancelState n) :=
  s.cancelWait_spares n fun x o => x.vFail_spares o _ _

theorem State.grant_spares : State.Spares driveSpares s (s.grant n) := by
  unfold State.grant
  extract_lets b v src_
  split
  · exact .refl s
  · rename_i w _
    extract_lets ts dur v1 s1 s2 s3
    have h1 : State.Spares driveSpares s s1 := (s.setVlv_spares n (v := v1) rfl).trans (State.setBk_spares _ b (by rfl))
    have hlow : ∀ {x : Fld}, (∃ k < 0x40, x.addr = 0x108000 + n * 0x100 + k) →
        ∀ i, x.lo ≤ i → i < x.lo + x.len → ¬driveSpares x.addr i := by
      rintro x ⟨k, hk, hx⟩ i - - ⟨-, -, hw⟩
      omega
    have h2 : State.Spares driveSpares s1 s2 :=
      ((State.setF_spares s1 _ (hlow ⟨0x28, by decide, rfl⟩)).trans (State.setF_spares _ _ (hlow ⟨0x1c, by decide, rfl⟩))).trans
        (State.setF_spares _ _ (hlow ⟨0x20, by decide, rfl⟩))
    have h3 : State.Spares driveSpares s2 s3 := by
      refine State.bump_spares _ fun i ⟨_, _, hw⟩ => ?_
      split at hw
      · simp only [R.VLV_CNT_RETRIG] at hw
        omega
      · simp only [R.VLV_CNT_START] at hw
        omega
    exact ((h1.trans h2).trans h3).trans (State.vOk_spares _ _ _)

theorem State.boostFree_spares : State.Spares driveSpares s (s.boostFree n) := by
  unfold State.boostFree
  extract_lets b k s1 s2
  have h2 : State.Spares driveSpares s s2 := by
    have h1 : State.Spares driveSpares s s1 := s.setBk_spares b (by rfl)
    refine h1.trans (State.setF_spares s1 _ fun i _ _ hw => ?_)
    obtain ⟨-, -, hw⟩ := hw
    simp only [F.VLV_TBOOST_BOOST, R.VLV_TBOOST] at hw
    omega
  split
  · exact .refl s
  · split
    · exact h2
    · exact h2.trans (State.grant_spares _ _)

theorem State.decay_spares : State.Spares driveSpares s (s.decay n) := by
  unfold State.decay
  extract_lets v v1
  exact State.Spares.ite (.refl s) ((s.setVlv_spares n (v := v1) rfl).trans (State.boostFree_spares _ n))

theorem State.vStop_spares : State.Spares driveSpares s (s.vStop n) :=
  ((s.cancelState_spares n).trans (State.decay_spares _ n)).trans (State.bankSettle_spares _ _)

theorem State.cancelSupply_spares : State.Spares driveSpares s (s.cancelSupply n) := by
  unfold State.cancelSupply
  extract_lets v
  split
  · exact .refl s
  · exact State.Spares.ite ((s.cancelState_spares n).trans (State.setVlv_spares _ n (by rfl))) (s.cancelState_spares n)

end

/-- Several channels that end in one tick. -/
theorem State.vEndAll_spares {K : Nat → Nat → Prop} {cancel stop : State → Nat → State} (s : State) (l : List Nat)
    (hc : ∀ x n, State.Spares K x (cancel x n)) (hs : ∀ x n, State.Spares K x (stop x n)) :
    State.Spares K s (s.vEndAll l cancel stop) :=
  (State.Spares.overList hc l s).trans (State.Spares.overList hs l _)

end Sys2Proof.Machine
end

section
/-! The causes of a channel and its locks (R221, R222, R227, R234). -/

namespace Sys2Proof.Machine

open Sys2Proof

/-! ### The words of the diagnosis -/

theorem driveSpares_diagStat (n : Fin 32) (i : Nat) : driveSpares (R.VLV_DIAG_STAT n) i := by
  simp only [driveSpares, R.VLV_DIAG_STAT, R.LOG_LOST]
  omega

theorem lockSpares_diagStat (n : Fin 32) {i : Nat} (hi : 5 < i) : lockSpares (R.VLV_DIAG_STAT n) i :=
  ⟨driveSpares_diagStat n i, fun _ _ => hi⟩

theorem diagSpares_cntTest (n : Fin 32) (i : Nat) : diagSpares (R.VLV_CNT_TEST n) i := by
  simp only [diagSpares, driveSpares, R.VLV_CNT_TEST, R.VLV_DIAG_STAT, R.LOG_LOST]
  exact ⟨by omega, fun m => by omega⟩

theorem diagSpares_vsgStat (i : Nat) : diagSpares R.PWR_VSG_STAT i := by
  simp only [diagSpares, driveSpares, R.PWR_VSG_STAT, R.VLV_DIAG_STAT, R.LOG_LOST]
  exact ⟨by omega, fun m => by omega⟩

/-- A write of DIAG_STAT is none of what the diagnosis leaves. -/
theorem State.setDiagF_spares (s : State) (m lo len v : Nat) : State.Spares diagSpares s (s.setF ⟨R.VLV_DIAG_STAT m, lo, len⟩ v) :=
  s.setF_spares v fun _ _ _ h => h.2 m rfl

theorem State.setDiagB_spares (s : State) (m k : Nat) (v : Bool) : State.Spares diagSpares s (s.setB ⟨R.VLV_DIAG_STAT m, k, 1⟩ v) :=
  s.setB_spares v fun _ _ _ h => h.2 m rfl

/-! ### Bits of a word set and cleared -/

theorem State.getLsbD_flag_same (s : State) (a k i : Nat) :
    ((s.flag a k).rd a).getLsbD i = ((s.rd a).getLsbD i || (decide (i < 32) && decide (k = i))) := by
  rw [State.rd_flag_same, BitVec.getLsbD_or, BitVec.getLsbD_ofNat, Nat.testBit_two_pow]

theorem State.getLsbD_unflag_same (s : State) (a k i : Nat) :
    ((s.unflag a k).rd a).getLsbD i = ((s.rd a).getLsbD i && !decide (k = i)) := by
  unfold State.unflag
  rw [State.rd_wr_same, BitVec.getLsbD_and, BitVec.getLsbD_not, BitVec.getLsbD_ofNat, Nat.testBit_two_pow]
  by_cases hi : i < 32
  · simp [hi]
  · simp [BitVec.getLsbD_of_ge _ _ (Nat.le_of_not_lt hi)]

/-- A bit of a word after a one-bit field is set. -/
theorem State.getLsbD_setB (s : State) {x : Fld} (v : Bool) (hl : x.len = 1) (a i : Nat) :
    ((s.setB x v).rd a).getLsbD i = if a = x.addr ∧ i = x.lo ∧ i < 32 then v else (s.rd a).getLsbD i := by
  rw [State.rd_congr (State.regs_setB s x v)]
  unfold State.setF
  rw [State.rd_wr]
  by_cases ha : a = x.addr
  · subst ha
    rw [if_pos rfl, getLsbD_setBits, hl]
    by_cases hi : i = x.lo ∧ i < 32
    · rw [if_pos (by omega), if_pos ⟨rfl, hi⟩, hi.1, Nat.sub_self]
      cases v <;> rfl
    · rw [if_neg (by omega), if_neg (fun h => hi h.2)]
  · rw [if_neg ha, if_neg (fun h => ha h.1)]

/-! ### Entry to LOCKED (R221, R222) -/

section
variable (s : State) (n : Nat)

/-- Nothing waits on a channel whose command is cancelled. -/
theorem State.wait_cancelState : ((s.cancelState n).vlv n).wait = none := by
  unfold State.cancelState State.cancelWait
  extract_lets v
  split
  · assumption
  · rw [State.vlv_vFail, State.vlv_setVlv_same]

/-- The channel after it has entered LOCKED, before LOCKED shows it. -/
def State.lockedQuietly (s : State) (n : Nat) : State :=
  let s1 := s.cancelState n
  (s1.setVlv n { s1.vlv n with st := .locked, sw := false, durEnd := none, owner := none }).boostFree n

theorem State.lockNow_eq : s.lockNow n = (s.lockedQuietly n).setB (F.VLV_DIAG_STAT_LOCKED n) true := rfl

theorem State.lockedQuietly_spares : State.Spares driveSpares s (s.lockedQuietly n) :=
  ((s.cancelState_spares n).trans (State.setVlv_spares _ n (by rfl))).trans (State.boostFree_spares _ n)

theorem State.st_lockedQuietly : ((s.lockedQuietly n).vlv n).st = .locked := by
  unfold State.lockedQuietly
  extract_lets s1 src_
  have hset := State.vlv_setVlv_same s1 n { s1.vlv n with st := .locked, sw := false, durEnd := none, owner := none }
  rw [State.vlv_boostFree _ n ((congrArg Valve.wait hset).trans (s.wait_cancelState n)), hset]

theorem State.st_lockNow : ((s.lockNow n).vlv n).st = .locked :=
  (congrArg Valve.st (State.vlv_setB_frame _ _ _ n)).trans (s.st_lockedQuietly n)

theorem State.b_locked_lockNow : (s.lockNow n).b (F.VLV_DIAG_STAT_LOCKED n) = true :=
  State.b_setB_same _ _ (Nat.le_of_ble_eq_true rfl) rfl

/-- Entry to LOCKED writes none of the bits above the causes. -/
theorem State.lockNow_spares : State.Spares lockSpares s (s.lockNow n) :=
  (s.lockedQuietly_spares n).toLock.trans (State.setB_spares _ true fun i hlo hhi h => by
    have h5 : 5 < i := h.2 n rfl
    have h1 : i < 0 + 1 := hhi
    omega)

/-! ### A lock cause sets (R221) -/

theorem State.lock_held {c : Nat} (h : s.cause n c = true) : s.lock n c = s := if_pos h

theorem State.lock_new {c : Nat} (h : s.cause n c = false) :
    s.lock n c = ((s.flag (R.VLV_DIAG_STAT n) c).lockNow n).pulse (216 + n / 4) := if_neg (by simp [h])

theorem State.flag_spares_lock {c : Nat} (hc : c ≤ 5) : State.Spares lockSpares s (s.flag (R.VLV_DIAG_STAT n) c) := by
  refine .ofRegs (fun a i h => ?_) (State.vlv_flag_frame s _ _) (State.bk_flag_frame s _ _)
  by_cases ha : a = R.VLV_DIAG_STAT n
  · subst ha
    have := h.2 n rfl
    rw [State.getLsbD_flag_same, decide_eq_false (show ¬c = i by omega)]
    simp
  · rw [State.rd_flag_other s c ha]

theorem State.lock_spares {c : Nat} (hc : c ≤ 5) : State.Spares lockSpares s (s.lock n c) := by
  unfold State.lock
  exact .ite (.refl s) (((s.flag_spares_lock n hc).trans (State.lockNow_spares _ n)).trans (State.pulse_spares _ _).toLock)

theorem State.lockBank_spares (b : Nat) : State.Spares lockSpares s (s.lockBank b) :=
  s.vEndAll_spares _ (fun x m => (x.cancelState_spares m).toLock) (fun x m => x.lock_spares m (by decide))

end

/-! ### No lock clears a cause -/

/-- From `s` to `t` every bit of DIAG_STAT that was set is. -/
def State.CausesStay (n : Fin 32) (s t : State) : Prop :=
  ∀ i, (s.rd (R.VLV_DIAG_STAT n)).getLsbD i = true → (t.rd (R.VLV_DIAG_STAT n)).getLsbD i = true

section
variable (n : Fin 32) (s : State)

theorem State.CausesStay.trans {n : Fin 32} {s t u : State} (h : State.CausesStay n s t) (k : State.CausesStay n t u) :
    State.CausesStay n s u := fun i hi => k i (h i hi)

theorem State.Spares.causesStay {s t : State} (h : State.Spares driveSpares s t) : State.CausesStay n s t :=
  fun i hi => (h.bits _ i (driveSpares_diagStat n i)).trans hi

theorem State.lockNow_causesStay (m : Nat) : State.CausesStay n s (s.lockNow m) := by
  refine ((s.lockedQuietly_spares m).causesStay n).trans fun i hi => ?_
  rw [s.lockNow_eq m, State.getLsbD_setB _ _ rfl]
  split
  · rfl
  · exact hi

theorem State.flag_causesStay (m c : Nat) : State.CausesStay n s (s.flag (R.VLV_DIAG_STAT m) c) := by
  intro i hi
  by_cases ha : R.VLV_DIAG_STAT n = R.VLV_DIAG_STAT m
  · rw [← ha, State.getLsbD_flag_same, hi]
    rfl
  · rwa [State.rd_flag_other s c ha]

theorem State.lock_causesStay (m c : Nat) : State.CausesStay n s (s.lock m c) := by
  unfold State.lock
  split
  · exact fun _ => id
  · exact ((s.flag_causesStay n m c).trans (State.lockNow_causesStay n _ m)).trans ((State.pulse_spares _ _).causesStay n)

/-- The cause that a lock names is set after it. -/
theorem State.cause_lock {c : Nat} (hc : c < 32) : (s.lock n c).cause n c = true := by
  by_cases h : s.cause n c = true
  · rwa [s.lock_held n h]
  · rw [s.lock_new n (by simpa using h)]
    refine ((State.lockNow_causesStay n _ n).trans ((State.pulse_spares _ _).causesStay n)) c ?_
    rw [State.getLsbD_flag_same]
    simp [hc]

/-- A channel without the cause is LOCKED by it. -/
theorem State.lock_locks {c : Nat} (h : s.cause n c = false) :
    ((s.lock n c).vlv n).st = .locked ∧ (s.lock n c).b (F.VLV_DIAG_STAT_LOCKED n) = true := by
  rw [s.lock_new n h, State.vlv_pulse_frame, State.b_pulse_frame]
  exact ⟨State.st_lockNow _ n, State.b_locked_lockNow _ n⟩

theorem State.locks_causesStay (c : Nat) (l : List Nat) : State.CausesStay n s (overList l (fun x m => x.lock m c) s) :=
  overList_rel (P := State.CausesStay n) (fun _ _ => id) State.CausesStay.trans (fun x m => x.lock_causesStay n m c) l s

/-- A lock of channels gives each of them the cause. -/
theorem State.cause_locks {c : Nat} (hc : c < 32) {l : List Nat} (hn : n.val ∈ l) :
    (overList l (fun x m => x.lock m c) s).cause n c = true := by
  induction l generalizing s with
  | nil => exact absurd hn List.not_mem_nil
  | cons m l ih =>
    rw [overList_cons]
    rcases List.mem_cons.mp hn with rfl | hn
    · exact State.locks_causesStay n _ c l c (s.cause_lock n hc)
    · exact ih _ hn

theorem mem_bankChans_self : n.val ∈ bankChans (n.val / 4) := by
  simp only [bankChans, List.mem_cons, List.not_mem_nil, or_false]
  omega

/-- A lock of the bank gives each of its channels L_BANK. -/
theorem State.cause_lockBank : (s.lockBank (n / 4)).cause n lBank = true :=
  State.cause_locks n _ (by decide) (mem_bankChans_self n)

theorem State.lockBank_causesStay (b : Nat) : State.CausesStay n s (s.lockBank b) :=
  ((State.Spares.overList (fun x m => x.cancelState_spares m) _ s).causesStay n).trans (State.locks_causesStay n _ lBank _)

end

/-! ### A cause clears (R227, R234) -/

section
variable (s : State) (n c : Nat)

/-- The channel after a cause of it has gone, before it enters OFF. -/
def State.causeGone (s : State) (n c : Nat) : State :=
  let s0 := s.unflag (R.VLV_DIAG_STAT n) c
  if c = lShortGnd then s0.setVlv n { s0.vlv n with gndOn := false } else s0

theorem State.unlockCause_eq : s.unlockCause n c =
    if getBits ((s.causeGone n c).rd (R.VLV_DIAG_STAT n)) 1 5 ≠ 0 || ((s.causeGone n c).vlv n).st ≠ .locked then s.causeGone n c
    else ((s.causeGone n c).setVlv n { (s.causeGone n c).vlv n with st := .off }).setB (F.VLV_DIAG_STAT_LOCKED n) false := rfl

theorem State.rd_causeGone (a : Nat) : (s.causeGone n c).rd a = (s.unflag (R.VLV_DIAG_STAT n) c).rd a := by
  unfold State.causeGone
  dsimp only
  split <;> rfl

theorem State.causeGone_spares : State.Spares diagSpares s (s.causeGone n c) := by
  have h0 : State.Spares diagSpares s (s.unflag (R.VLV_DIAG_STAT n) c) :=
    .ofRegs (fun a i h => congrArg (BitVec.getLsbD · i) (State.rd_unflag_other s c (h.2 n))) (fun _ => rfl) (fun _ => rfl)
  unfold State.causeGone
  exact .ite (h0.trans (State.setVlv_spares _ n (by rfl))) h0

theorem State.unlockCause_spares : State.Spares diagSpares s (s.unlockCause n c) := by
  have hgone := s.causeGone_spares n c
  rw [State.unlockCause_eq]
  exact .ite hgone ((hgone.trans (State.setVlv_spares _ n (by rfl))).trans (State.setDiagB_spares _ n 0 false))

/-- Of a channel's causes the one that clears goes, and no other. -/
theorem State.cause_unlockCause {d : Nat} (hd : d ≠ 0) : (s.unlockCause n c).cause n d = (s.cause n d && !decide (c = d)) := by
  have hgone : (s.causeGone n c).cause n d = (s.cause n d && !decide (c = d)) := by
    unfold State.cause
    rw [State.rd_causeGone, State.getLsbD_unflag_same]
  rw [State.unlockCause_eq]
  split
  · exact hgone
  · unfold State.cause
    rw [State.getLsbD_setB _ _ rfl, if_neg (fun h => hd h.2.1)]
    exact hgone

end

end Sys2Proof.Machine
end

section
/-! The diagnosis of the channels (R228 to R234): what the on-state checks, the off-state tests, the offset calibration and an
unlock leave of DIAG_STAT and the counts. -/

namespace Sys2Proof.Machine

open Sys2Proof

/-! ### On-state diagnosis (R230) -/

/-- ON_VERDICT, FAULT_STICKY and every field above the causes stays through a lock. -/
theorem State.Spares.diagF {s t : State} (h : State.Spares lockSpares s t) (n : Fin 32) {lo len : Nat} (hlo : 5 < lo) :
    t.f ⟨R.VLV_DIAG_STAT n, lo, len⟩ = s.f ⟨R.VLV_DIAG_STAT n, lo, len⟩ :=
  h.f fun _ hi => lockSpares_diagStat n (Nat.lt_of_lt_of_le hlo hi)

theorem State.Spares.diagB {s t : State} (h : State.Spares lockSpares s t) (n : Fin 32) {lo len : Nat} (hlo : 5 < lo) :
    t.b ⟨R.VLV_DIAG_STAT n, lo, len⟩ = s.b ⟨R.VLV_DIAG_STAT n, lo, len⟩ :=
  h.b fun _ hi => lockSpares_diagStat n (Nat.lt_of_lt_of_le hlo hi)

section
variable (s : State) (n : Fin 32)

/-- A verdict of the on-state checks, noted. -/
def State.onVerdict (s : State) (n v : Nat) : State := (s.sticky n).setF (F.VLV_DIAG_STAT_ON_VERDICT n) v

theorem State.f_onVerdict {v : Nat} (hv : v < 4) : (s.onVerdict n v).f (F.VLV_DIAG_STAT_ON_VERDICT n) = v :=
  (State.f_setF_same _ _ (Nat.le_of_ble_eq_true rfl)).trans (Nat.mod_eq_of_lt hv)

theorem State.sticky_onVerdict (v : Nat) : (s.onVerdict n v).b (F.VLV_DIAG_STAT_FAULT_STICKY n) = true :=
  (State.b_setF_other _ _ (.inr (.inl (Nat.le_of_ble_eq_true rfl)))).trans
    (State.b_setB_same _ _ (Nat.le_of_ble_eq_true rfl) rfl)

theorem State.cause_setVerdict (v : Nat) {c : Nat} (hc : c < 12) :
    (s.setF (F.VLV_DIAG_STAT_ON_VERDICT n) v).cause n c = s.cause n c := by
  have hrd : (s.setF (F.VLV_DIAG_STAT_ON_VERDICT n) v).rd (R.VLV_DIAG_STAT n) = setBits (s.rd (R.VLV_DIAG_STAT n)) 12 2 v :=
    State.rd_wr_same _ _ _
  unfold State.cause
  rw [hrd, getLsbD_setBits, if_neg (by omega)]

theorem State.cause_sticky {c : Nat} (hc : c < 16) : (s.sticky n).cause n c = s.cause n c := by
  unfold State.cause State.sticky
  rw [State.getLsbD_setB _ _ rfl, if_neg (by simp only [F.VLV_DIAG_STAT_FAULT_STICKY]; omega)]

/-- SHORT_SUP (on) is noted and locks (R230). -/
theorem State.shortSupOn_locks :
    let t := s.shortSupOn n
    t.f (F.VLV_DIAG_STAT_ON_VERDICT n) = 3 ∧ t.cause n lShortSup = true
    ∧ (s.cause n lShortSup = false → (t.vlv n).st = .locked ∧ t.b (F.VLV_DIAG_STAT_LOCKED n) = true) := by
  unfold State.shortSupOn
  extract_lets s1 s2 t
  have hlog : State.Spares driveSpares s1 s2 := .ite (.refl s1) (State.vlog_spares _ _ _)
  have hlock := s2.lock_spares n (c := lShortSup) (by decide)
  have hsettle := (s2.lock n lShortSup).bankSettle_leaves (n / 4)
  have hspares := (s2.lock n lShortSup).bankSettle_spares (n / 4)
  refine ⟨?_, ?_, fun hfree => ?_⟩
  · exact (((hlog.toLock.trans hlock).trans hspares.toLock).diagF n (by decide)).trans
      ((State.f_setB_other _ _ (.inr (.inr (Nat.le_of_ble_eq_true rfl)))).trans
        (State.f_setF_same _ _ (Nat.le_of_ble_eq_true rfl)))
  · exact hspares.causesStay n _ (s2.cause_lock n (by decide))
  · have hfree2 : s2.cause n lShortSup = false :=
      calc s2.cause n lShortSup = s1.cause n lShortSup := hlog.bits _ _ (driveSpares_diagStat n _)
        _ = (s.setF (F.VLV_DIAG_STAT_ON_VERDICT n) 3).cause n lShortSup := State.cause_sticky _ n (by decide)
        _ = s.cause n lShortSup := s.cause_setVerdict n 3 (by decide)
        _ = false := hfree
    obtain ⟨hst, hlocked⟩ := s2.lock_locks n hfree2
    exact ⟨(hsettle.st n).trans hst, (hsettle.b _).trans hlocked⟩

end

/-- OVERCURRENT_DETECT on a checked channel after the blanking (R230). -/
theorem State.overcurrent_due {s : State} {n : Fin 32} {e : Time} (hchk : s.onChecked n = true)
    (hon : (s.vlv n).onSince = some e) (hdue : s.passed e 500 = true) : s.overcurrent n = s.shortSupOn n := by
  unfold State.overcurrent
  extract_lets blank
  have hblank : blank = true := by
    unfold blank
    rw [hon]
    exact hdue
  exact if_pos (by simp [hchk, hblank])

/-- The flyback check starts (R230). -/
theorem State.openCheck_due {s : State} {n : Fin 32} {e : Time} (hchk : s.onChecked n = true)
    (hon : (s.vlv n).onSince = some e) (hlong : s.passed e (500 * max 1 (s.f (F.VLV_DIAG_CFG_T_OPEN n))) = true)
    (htick : s.resultTick n = true) (hx : (s.vlv n).x < s.f (F.VLV_DIAG_CFG_OPEN_THR n)) :
    s.openCheck n = (s.setVlv n { s.vlv n with flyback := some s.now }).bankSettle (n / 4) := by
  unfold State.openCheck
  extract_lets v long
  have hlong' : long = true := by
    unfold long
    rw [show v.onSince = some e from hon]
    exact hlong
  exact if_pos (by simp [hchk, hlong', htick, v, hx])

/-- The end of a flyback check, with its verdict noted and logged before it acts (R230). -/
def State.flybackOver (s : State) (n v c : Nat) (code : LogCode) : State :=
  let s1 := (s.setVlv n { s.vlv n with flyback := none }).onVerdict n v
  if s.cause n c then s1 else s1.vlog code n

/-- The lock of SHORT_GND (on): the channel, then its bank; nothing waits meanwhile (R221, R230). -/
def State.groundLock (s : State) (n : Nat) : State :=
  let s1 := overList (bankChans (n / 4)) State.cancelState s
  ((s1.setVlv n { s1.vlv n with gndOn := true }).lock n lShortGnd).lockBank (n / 4)

section
variable (s : State) (n : Fin 32)

/-- What follows the verdict of a flyback check leaves it. -/
theorem State.flybackOver_shows {t : State} {v c : Nat} {code : LogCode} (hv : v < 4)
    (h : State.Spares lockSpares (s.flybackOver n v c code) t) :
    t.f (F.VLV_DIAG_STAT_ON_VERDICT n) = v ∧ (t.vlv n).flyback = none ∧ t.b (F.VLV_DIAG_STAT_FAULT_STICKY n) = true := by
  let s0 := s.setVlv n { s.vlv n with flyback := none }
  have hlog : State.Spares driveSpares (s0.onVerdict n v) (s.flybackOver n v c code) :=
    .ite (.refl _) (State.vlog_spares _ _ _)
  have hall := hlog.toLock.trans h
  have hvlv : (s0.onVerdict n v).vlv n = { s.vlv n with flyback := none } :=
    (State.vlv_setF_frame _ _ _ _).trans ((State.vlv_setB_frame _ _ _ _).trans (State.vlv_setVlv_same _ _ _))
  exact ⟨(hall.diagF n (by decide)).trans (State.f_onVerdict _ n hv), (hall.flyback n).trans (congrArg Valve.flyback hvlv),
    (hall.diagB n (by decide)).trans (State.sticky_onVerdict _ n v)⟩

theorem State.groundLock_spares : State.Spares lockSpares s (s.groundLock n) := by
  unfold State.groundLock
  extract_lets s1 src_
  have h1 : State.Spares driveSpares s s1 := .overList State.cancelState_spares _ s
  exact ((h1.toLock.trans (State.setVlv_spares _ n (by rfl))).trans (State.lock_spares _ n (by decide))).trans
    (State.lockBank_spares _ _)

theorem State.groundLock_causes : (s.groundLock n).cause n lShortGnd = true ∧ (s.groundLock n).cause n lBank = true :=
  ⟨State.lockBank_causesStay n _ _ _ (State.cause_lock n _ (by decide)), State.cause_lockBank n _⟩

end

section
variable {s : State} {n : Fin 32} {e : Time} (hfly : (s.vlv n).flyback = some e) (hdue : s.passed e 5000 = true)
include hfly hdue

/-- The drain has flown up: OPEN (on), which locks with LOCK_OPEN and otherwise ends the profile (R230). -/
theorem State.flybackEnd_high : s.flybackEnd n true =
    (if s.b (F.VLV_DIAG_CFG_LOCK_OPEN n) then (s.flybackOver n 1 lOpen .vlvOpenOn).lock n lOpen
      else (s.flybackOver n 1 lOpen .vlvOpenOn).decay n).bankSettle (n / 4) := by
  unfold State.flybackEnd
  dsimp only
  rw [hfly]
  exact (if_neg (by simp [hdue])).trans (if_pos rfl)

/-- The drain stays low: SHORT_GND (on), which locks the channel and its bank (R230). -/
theorem State.flybackEnd_low : s.flybackEnd n false =
    ((s.flybackOver n 2 lShortGnd .vlvShortGndOn).groundLock n).bankSettle (n / 4) := by
  unfold State.flybackEnd
  dsimp only
  rw [hfly]
  exact (if_neg (by simp [hdue])).trans (if_neg (by decide))

theorem State.flybackEnd_open :
    let t := s.flybackEnd n true
    t.f (F.VLV_DIAG_STAT_ON_VERDICT n) = 1 ∧ (t.vlv n).flyback = none ∧ t.b (F.VLV_DIAG_STAT_FAULT_STICKY n) = true := by
  rw [State.flybackEnd_high hfly hdue]
  exact s.flybackOver_shows n (by decide)
    ((State.Spares.ite (State.lock_spares _ n (by decide)) (State.decay_spares _ n).toLock).trans (State.bankSettle_spares _ _).toLock)

theorem State.flybackEnd_ground :
    let t := s.flybackEnd n false
    t.f (F.VLV_DIAG_STAT_ON_VERDICT n) = 2 ∧ (t.vlv n).flyback = none ∧ t.cause n lShortGnd = true ∧ t.cause n lBank = true := by
  rw [State.flybackEnd_low hfly hdue]
  have hsettle := ((s.flybackOver n 2 lShortGnd .vlvShortGndOn).groundLock n).bankSettle_spares (n / 4)
  obtain ⟨hverdict, hover, -⟩ := s.flybackOver_shows n (by decide) ((State.groundLock_spares _ n).trans hsettle.toLock)
  obtain ⟨hgnd, hbank⟩ := (s.flybackOver n 2 lShortGnd .vlvShortGndOn).groundLock_causes n
  exact ⟨hverdict, hover, hsettle.causesStay n _ hgnd, hsettle.causesStay n _ hbank⟩

end

/-! ### Off-state diagnosis (R228, R229) -/

section
variable {s : State} {b : Nat}

theorem State.testStart_due {q : Time} (hquiet : (s.bk b).quiet = some q) (hrest : s.passed q 25000 = true)
    (hapart : (s.bk b).lastTest = none ∨ ∃ l, (s.bk b).lastTest = some l ∧ s.passed l 512000 = true)
    (hmode : s.diagMode = true) (hnone : (s.bk b).test = none)
    (hany : (bankChans b).any (fun n => s.b (F.VLV_DIAG_CFG_OFF_EN n)) = true) :
    s.testStart b = s.setBk b { s.bk b with test := some s.now, lastTest := some s.now, pu := none } := by
  unfold State.testStart
  extract_lets k quiet apart
  have hq : quiet = true := by
    unfold quiet
    rw [show k.quiet = some q from hquiet]
    exact hrest
  have ha : apart = true := by
    unfold apart
    rcases hapart with hl | ⟨l, hl, hpast⟩
    · rw [show k.lastTest = none from hl]
    · rw [show k.lastTest = some l from hl]
      exact hpast
  exact if_pos (by rw [hq, ha, hmode, show k.test = none from hnone, hany]; rfl)

theorem State.testPu_due {e : Time} (node : NodeClass) (ds : List NodeClass) (htest : (s.bk b).test = some e)
    (hdue : s.passed e 50000 = true) (hpu : (s.bk b).pu = none) :
    s.testPu b node ds = s.setBk b { s.bk b with pu := some (node, ds) } := by
  unfold State.testPu
  simp [htest, hdue, hpu]

end

section
variable (s : State)

theorem State.judgePend_spares (b : Nat) (mid : Bool) (vs : List (Nat × Verdict)) :
    State.Spares diagSpares s (s.judgePend b mid vs) := by
  unfold State.judgePend
  extract_lets short ground
  refine State.Spares.overList (fun x n => ?_) _ s
  extract_lets v ok seen left s1 good
  have h1 : State.Spares diagSpares x s1 := (x.setVlv_spares n (by rfl)).trans (State.setDiagB_spares _ n 8 _)
  exact .ite (.refl x) (h1.trans (.overList (fun y c => .ite (y.unlockCause_spares n c) (.refl y)) _ s1))

theorem State.sticky_spares (n : Nat) : State.Spares diagSpares s (s.sticky n) := s.setDiagB_spares n 16 true

theorem State.actVerdict_spares (n : Nat) (x was : Verdict) : State.Spares diagSpares s (s.actVerdict n x was) := by
  unfold State.actVerdict
  extract_lets src_ s0 rise s1 s2
  have h0 : State.Spares diagSpares s s0 := s.setVlv_spares n (by rfl)
  have h1 : State.Spares diagSpares s s1 := h0.trans (s0.setDiagF_spares n 9 3 _)
  have h2 : State.Spares diagSpares s s2 := h1.trans (s1.sticky_spares n)
  have hlog (c : LogCode) : State.Spares diagSpares s (s2.vlog c n) := h2.trans (s2.vlog_spares n c).toLock.toDiag
  have hlock (c : LogCode) {d : Nat} (hd : d ≤ 5) : State.Spares diagSpares s ((s2.vlog c n).lock n d) :=
    (hlog c).trans (State.lock_spares _ n hd).toDiag
  have hbank (c : LogCode) (r : Bool) :
      State.Spares diagSpares s ((if r then s2.logOnceFor c (n / 4) (n / 4) (n / 4) else s2).lockBank (n / 4)) :=
    (h2.trans (.ite (s2.logOnceFor_spares c _ _ _).toLock.toDiag (.refl s2))).trans (State.lockBank_spares _ _).toDiag
  refine .ite h1 (.ite h0 ?_)
  cases x with
  | openV => exact .ite (.ite h2 (hlock _ (by decide))) (.ite (hlog _) h2)
  | shortGnd => exact .ite h2 (hlock _ (by decide))
  | shortSup => exact .ite h2 (hlock _ (by decide))
  | leak => exact .ite ((hlog _).trans (State.pulse_spares _ _).toLock.toDiag) h2
  | bankGnd => exact hbank _ _
  | bankSup => exact hbank _ _
  | none => exact h2
  | ok => exact h2

/-- OK shows at once (R229). -/
theorem State.actVerdict_ok (n : Nat) (was : Verdict) :
    s.actVerdict n .ok was = (s.setVlv n { s.vlv n with lastTest := .ok }).setF (F.VLV_DIAG_STAT_OFF_VERDICT n) 1 := rfl

end

end Sys2Proof.Machine
end

section
/-! The end of an off-state test, the offset calibration and an unlock (R229, R232, R234). -/

namespace Sys2Proof.Machine

open Sys2Proof

/-! ### The end of an off-state test (R228, R229) -/

/-- A word that is none of the counters counted. -/
theorem State.rd_bumps_other {l : List Nat} {r : Nat → Nat} {a : Nat} (h : ∀ i ∈ l, a ≠ r i) (s : State) :
    (overList l (fun x i => x.bump (r i)) s).rd a = s.rd a := by
  induction l generalizing s with
  | nil => rfl
  | cons i l ih =>
    obtain ⟨hi, hl⟩ := List.forall_mem_cons.mp h
    rw [overList_cons, ih hl, State.rd_bump_other _ hi]

/-- Counters that are counted once each: one that is among them is one further. -/
theorem State.rd_bumps {l : List Nat} {r : Nat → Nat} (hr : ∀ i j, r i = r j → i = j) (hl : l.Nodup) {n : Nat} (hn : n ∈ l)
    (s : State) : (overList l (fun x i => x.bump (r i)) s).rd (r n)
      = BitVec.ofNat 32 (min ((s.rd (r n)).toNat % 2 ^ 24 + 1) 0xFFFFFF) := by
  induction l generalizing s with
  | nil => exact absurd hn List.not_mem_nil
  | cons i l ih =>
    rw [List.nodup_cons] at hl
    rw [overList_cons]
    rcases List.mem_cons.mp hn with rfl | hn
    · have hrest : ∀ j ∈ l, r n ≠ r j := fun j hj h => hl.1 ((hr n j h).symm ▸ hj)
      rw [State.rd_bumps_other hrest, State.rd_bump_same]
    · have hi : r n ≠ r i := fun h => hl.1 (hr _ _ h ▸ hn)
      rw [ih hl.2 hn, State.rd_bump_other _ hi]

theorem cntTest_injective (i j : Nat) (h : R.VLV_CNT_TEST i = R.VLV_CNT_TEST j) : i = j := by
  simp only [R.VLV_CNT_TEST] at h
  omega

theorem nodup_bankChans (b : Nat) : (bankChans b).Nodup := by
  simp [bankChans]

theorem bankChans_lt {b : Fin 8} {n : Nat} (h : n ∈ bankChans b) : n < 32 := by
  simp only [bankChans, List.mem_cons, List.not_mem_nil, or_false] at h
  omega

/-- The channels of a bank that a test tests. -/
def State.tested (s : State) (b : Nat) : List Nat := (bankChans b).filter (fun n => s.b (F.VLV_DIAG_CFG_OFF_EN n))

/-- The verdicts that a test gives: its channels with the readings of their drains, PU and PD, judged beside the node's. -/
def State.verdicts (s : State) (b : Nat) (hu hd : NodeClass) (us ds : List NodeClass) : List (Nat × Verdict) :=
  (((bankChans b).zip (us.zip ds)).filter (fun e => s.b (F.VLV_DIAG_CFG_OFF_EN e.1))).map
    (fun e => (e.1, offVerdict hu hd e.2.1 e.2.2))

/-- A verdict of the bank's node. -/
def Verdict.ofNode (x : Verdict) : Bool := x == .bankGnd || x == .bankSup

/-- The bank after its test. -/
def Bank.afterTest (k : Bank) (v : Verdict) : Bank := { k with test := none, pu := none, lastNode := if v.ofNode then v else .none }

/-- The tested channels are counted. -/
def State.testsCounted (s : State) (l : List Nat) : State := overList l (fun x n => x.bump (R.VLV_CNT_TEST n)) s

/-- The pending unlocks judged; a channel that is not tested keeps no verdict. -/
def State.testJudged (s : State) (b : Nat) (mid : Bool) (vs : List (Nat × Verdict)) (out : List Nat) : State :=
  overList out (fun x n => x.setVlv n { x.vlv n with lastTest := .none }) (s.judgePend b mid vs)

/-- The verdicts of a test act (R229). -/
def State.actVerdicts (s : State) (node : Verdict) (vs : List (Nat × Verdict)) : State :=
  overList vs (fun x e => x.actVerdict e.1 e.2 (if e.2.ofNode then node else (x.vlv e.1).lastTest)) s

/-- The end of a test, step by step. -/
theorem State.testPd_due {s : State} {b : Nat} {hu hd u0 u1 u2 u3 d0 d1 d2 d3 : NodeClass} {e : Time} (htest : (s.bk b).test = some e)
    (hpu : (s.bk b).pu = some (hu, [u0, u1, u2, u3])) (hdue : s.passed e 100000 = true) :
    s.testPd b hd [d0, d1, d2, d3] =
      ((((s.setBk b ((s.bk b).afterTest (offVerdict hu hd .mid .mid))).testsCounted (s.tested b)).testJudged b
        (hu == .mid && hd == .mid) (s.verdicts b hu hd [u0, u1, u2, u3] [d0, d1, d2, d3])
        ((bankChans b).filter (fun n => !s.b (F.VLV_DIAG_CFG_OFF_EN n)))).actVerdicts (s.bk b).lastNode
          (s.verdicts b hu hd [u0, u1, u2, u3] [d0, d1, d2, d3])).bankSettle b := by
  unfold State.testPd
  extract_lets k bank out
  rw [show k.test = some e from htest, show k.pu = some (hu, [u0, u1, u2, u3]) from hpu]
  refine (if_neg (by simp [hdue])).trans ?_
  extract_lets chans vs nodeV k1 s1 s2 s3
  have htested : s.tested b = chans.map (·.1) :=
    List.filter_map (f := fun e : Nat × NodeClass × NodeClass => e.1) (l := (bankChans b).zip ([u0, u1, u2, u3].zip [d0, d1, d2, d3]))
  have hs1 : s1 = (s.setBk b k1).testsCounted (s.tested b) := by
    rw [htested]
    exact (List.foldl_map (f := fun e : Nat × NodeClass × NodeClass => e.1)
      (g := fun (x : State) n => x.bump (R.VLV_CNT_TEST n))).symm
  have hs3 : s3 = ((s.setBk b k1).testsCounted (s.tested b)).testJudged b (hu == .mid && hd == .mid) vs out := by
    rw [← hs1]
    rfl
  rw [hs3]
  rfl

section
variable (s : State)

theorem State.bk_testsCounted (l : List Nat) (b : Nat) : (s.testsCounted l).bk b = s.bk b :=
  overList_leaves (fun x => x.bk b) (fun x _ => State.bk_bump_frame x _ b) l s

theorem State.testJudged_spares (b : Nat) (mid : Bool) (vs : List (Nat × Verdict)) (out : List Nat) :
    State.Spares diagSpares s (s.testJudged b mid vs out) :=
  (s.judgePend_spares b mid vs).trans (.overList (fun _ m => State.setVlv_spares _ m (by rfl)) _ _)

theorem State.actVerdicts_spares (node : Verdict) (vs : List (Nat × Verdict)) : State.Spares diagSpares s (s.actVerdicts node vs) :=
  State.Spares.overList (f := fun x e => x.actVerdict e.1 e.2 (if e.2.ofNode then node else (x.vlv e.1).lastTest))
    (fun x e => x.actVerdict_spares e.1 e.2 _) vs s

/-- Where every verdict is OK each channel judged shows it (R229). -/
theorem State.offVerdict_actVerdicts {node : Verdict} {vs : List (Nat × Verdict)} (hok : ∀ e ∈ vs, e.2 = .ok) {n : Nat}
    (hn : s.f (F.VLV_DIAG_STAT_OFF_VERDICT n) = 1 ∨ n ∈ vs.map (·.1)) :
    (s.actVerdicts node vs).f (F.VLV_DIAG_STAT_OFF_VERDICT n) = 1 := by
  induction vs generalizing s with
  | nil => exact hn.resolve_right List.not_mem_nil
  | cons e vs ih =>
    obtain ⟨m, x⟩ := e
    obtain rfl : x = .ok := hok _ List.mem_cons_self
    unfold State.actVerdicts
    rw [overList_cons, State.actVerdict_ok]
    refine ih _ (fun e he => hok e (List.mem_cons_of_mem _ he)) ?_
    by_cases hm : n = m
    · subst hm
      exact .inl (State.f_setF_same _ _ (Nat.le_of_ble_eq_true rfl))
    · refine hn.imp (fun h => ?_) (fun h => (List.mem_cons.mp h).resolve_left hm)
      rw [State.f_setF_other, State.f_setVlv_frame, h]
      left
      simp only [F.VLV_DIAG_STAT_OFF_VERDICT, R.VLV_DIAG_STAT]
      omega

end

/-- Table 10.4: OK takes four MID readings. -/
theorem offVerdict_ok_iff (hu hd vu vd : NodeClass) :
    offVerdict hu hd vu vd = .ok ↔ hu = .mid ∧ hd = .mid ∧ vu = .mid ∧ vd = .mid := by
  cases hu <;> cases hd <;> cases vu <;> cases vd <;> decide

theorem State.verdicts_allMid (s : State) (b : Nat) :
    ∀ e ∈ s.verdicts b .mid .mid [.mid, .mid, .mid, .mid] [.mid, .mid, .mid, .mid], e.2 = .ok := by
  intro e he
  obtain ⟨x, hx, rfl⟩ := List.mem_map.mp he
  have hzip := (List.mem_filter.mp hx).1
  simp only [bankChans, List.zip_cons_cons, List.zip_nil_left, List.mem_cons, List.not_mem_nil, or_false] at hzip
  rcases hzip with rfl | rfl | rfl | rfl <;> rfl

theorem State.mem_verdicts (s : State) {b n : Nat} {hu hd u0 u1 u2 u3 d0 d1 d2 d3 : NodeClass} (hn : n ∈ bankChans b)
    (hen : s.b (F.VLV_DIAG_CFG_OFF_EN n) = true) : n ∈ (s.verdicts b hu hd [u0, u1, u2, u3] [d0, d1, d2, d3]).map (·.1) := by
  have hzip : ∃ x, (n, x) ∈ (bankChans b).zip ([u0, u1, u2, u3].zip [d0, d1, d2, d3]) := by
    simp only [bankChans, List.mem_cons, List.not_mem_nil, or_false] at hn
    rcases hn with rfl | rfl | rfl | rfl
    · exact ⟨(u0, d0), by simp [bankChans]⟩
    · exact ⟨(u1, d1), by simp [bankChans]⟩
    · exact ⟨(u2, d2), by simp [bankChans]⟩
    · exact ⟨(u3, d3), by simp [bankChans]⟩
  obtain ⟨x, hx⟩ := hzip
  exact List.mem_map.mpr ⟨_, List.mem_map.mpr ⟨(n, x), List.mem_filter.mpr ⟨hx, hen⟩, rfl⟩, rfl⟩

/-- A completed test ends, is counted for the channels tested, and with MID everywhere gives them OK (R228, R229). -/
theorem State.testPd_completes {s : State} {b : Fin 8} {hu hd u0 u1 u2 u3 d0 d1 d2 d3 : NodeClass} {e : Time}
    (htest : (s.bk b).test = some e) (hpu : (s.bk b).pu = some (hu, [u0, u1, u2, u3])) (hdue : s.passed e 100000 = true) :
    let t := s.testPd b hd [d0, d1, d2, d3]
    (t.bk b).test = none ∧ ∀ n ∈ bankChans b, s.b (F.VLV_DIAG_CFG_OFF_EN n) = true →
      t.rd (R.VLV_CNT_TEST n) = BitVec.ofNat 32 (min ((s.rd (R.VLV_CNT_TEST n)).toNat % 2 ^ 24 + 1) 0xFFFFFF)
      ∧ ((∀ x ∈ [hd, d0, d1, d2, d3, hu, u0, u1, u2, u3], x = NodeClass.mid) → t.f (F.VLV_DIAG_STAT_OFF_VERDICT n) = 1) := by
  intro t
  let s1 := (s.setBk b ((s.bk b).afterTest (offVerdict hu hd .mid .mid))).testsCounted (s.tested b)
  let vs := s.verdicts b hu hd [u0, u1, u2, u3] [d0, d1, d2, d3]
  let s2 := s1.testJudged b (hu == .mid && hd == .mid) vs ((bankChans b).filter (fun n => !s.b (F.VLV_DIAG_CFG_OFF_EN n)))
  let s3 := s2.actVerdicts (s.bk b).lastNode vs
  have ht : t = s3.bankSettle b := State.testPd_due htest hpu hdue
  have hsettle := s3.bankSettle_spares b
  have hspares : State.Spares diagSpares s1 t := by
    rw [ht]
    exact ((s1.testJudged_spares b _ vs _).trans (s2.actVerdicts_spares _ vs)).trans hsettle.toLock.toDiag
  refine ⟨?_, fun n hn hen => ⟨?_, fun hmid => ?_⟩⟩
  · rw [hspares.test, State.bk_testsCounted, State.bk_setBk_same]
    rfl
  · rw [hspares.rd (diagSpares_cntTest ⟨n, bankChans_lt hn⟩)]
    exact State.rd_bumps cntTest_injective ((nodup_bankChans b).filter _) (List.mem_filter.mpr ⟨hn, hen⟩) _
  · have hok : ∀ e ∈ vs, e.2 = .ok := by
      simp only [List.forall_mem_cons] at hmid
      obtain ⟨rfl, rfl, rfl, rfl, rfl, rfl, rfl, rfl, rfl, rfl, -⟩ := hmid
      exact s.verdicts_allMid b
    rw [ht, (s3.bankSettle_leaves b).f]
    exact s2.offVerdict_actVerdicts hok (.inr (s.mem_verdicts hn hen))

/-! ### Offset calibration (R232) -/

section
variable {s : State} {n : Fin 32} (hsum : 256 ≤ (s.vlv n).calN) (hmode : s.diagMode = true)
  (hlo : 16 ≤ ((s.vlv n).calSum + 128) / 256) (hhi : ((s.vlv n).calSum + 128) / 256 ≤ 112)
include hsum hmode hlo hhi

/-- A mean within its limits becomes the offset. -/
theorem State.offsetDone_good : s.offsetDone n =
    (((s.setVlv n { s.vlv n with calSum := 0, calN := 0, cal := true }).setF (F.VLV_OFS_OFS n)
      (((s.vlv n).calSum + 128) / 256)).setB (F.VLV_OFS_VALID n) true).setB (F.VLV_DIAG_STAT_OFS_BAD n) false := by
  unfold State.offsetDone
  extract_lets v c s1
  rw [if_neg (by simp [v, hmode]; omega), if_pos (by simp [c, v, hlo, hhi])]

theorem State.offsetDone_effect :
    let t := s.offsetDone n
    t.f (F.VLV_OFS_OFS n) = ((s.vlv n).calSum + 128) / 256 ∧ t.b (F.VLV_OFS_VALID n) = true ∧ (t.vlv n).calN = 0
    ∧ ∀ a, a ≠ R.VLV_OFS n → a ≠ R.VLV_DIAG_STAT n → t.rd a = s.rd a := by
  have hword : R.VLV_OFS n ≠ R.VLV_DIAG_STAT n := by
    simp only [R.VLV_OFS, R.VLV_DIAG_STAT]
    omega
  rw [State.offsetDone_good hsum hmode hlo hhi]
  refine ⟨?_, ?_, ?_, fun a ha hd => ?_⟩
  · rw [State.f_setB_other _ _ (.inl hword), State.f_setB_other _ _ (.inr (.inr (Nat.le_of_ble_eq_true rfl))),
      State.f_setF_same _ _ (Nat.le_of_ble_eq_true rfl)]
    exact Nat.mod_eq_of_lt (Nat.lt_of_le_of_lt hhi (by decide : 112 < 2 ^ 12))
  · rw [State.b_setB_other _ _ (.inl hword), State.b_setB_same _ _ (Nat.le_of_ble_eq_true rfl) rfl]
  · rw [State.vlv_setB_frame, State.vlv_setB_frame, State.vlv_setF_frame, State.vlv_setVlv_same]
  · rw [State.rd_setB_other _ _ hd, State.rd_setB_other _ _ ha, State.rd_setF_other _ _ ha, State.rd_setVlv_frame]

end

/-! ### Unlocking (R227, R234) -/

section
variable (s : State) (n : Fin 32)

/-- A cause that pends stays as it is: only UNLOCK_PEND is written. -/
theorem State.cause_pendUnlock (m c : Nat) {d : Nat} (hd : d < 8) : (s.pendUnlock m c).cause n d = s.cause n d := by
  unfold State.cause State.pendUnlock
  rw [State.getLsbD_setB _ _ rfl, if_neg (by simp only [F.VLV_DIAG_STAT_UNLOCK_PEND]; omega), State.rd_setVlv_frame]

/-- An unlock clears L_OPEN. -/
theorem State.open_unlock : (s.unlock n).cause n lOpen = false := by
  have hpend : ∀ (x : State) (m c : Nat) (p : Bool), (if p then x.pendUnlock m c else x).cause n lOpen = x.cause n lOpen := by
    intro x m c p
    split
    · exact x.cause_pendUnlock n m c (by decide)
    · rfl
  unfold State.unlock
  extract_lets s1 auto s2 s3 s4
  have h1 : s1.cause n lOpen = false := by
    unfold s1
    split
    · rw [State.cause_unlockCause _ _ _ (by decide)]
      simp
    · exact Bool.eq_false_of_not_eq_true ‹_›
  have h2 : s2.cause n lOpen = false := by
    unfold s2
    split
    · rw [State.cause_unlockCause _ _ _ (by decide), h1]
      rfl
    · exact h1
  have h3 : s3.cause n lOpen = false := (overList_leaves (State.cause · n lOpen) (fun x c => hpend x n c _) _ s2).trans h2
  have h4 : s4.cause n lOpen = false := by
    unfold s4
    split
    · exact (overList_leaves (State.cause · n lOpen) (fun x m => hpend x m lBank _) _ s3).trans h3
    · exact h3
  exact (congrArg (BitVec.getLsbD · lOpen) ((s4.bankSettle_leaves (n / 4)).rd _)).trans h4

end

end Sys2Proof.Machine
end

section
/-! The coil model's beat (R225) and the valve supply guard (R233). -/

namespace Sys2Proof.Machine

open Sys2Proof

/-! ### One channel's beat (R225) -/

theorem le_sat (x : Int) {lo hi : Int} (h : lo ≤ hi) : lo ≤ sat x lo hi := by
  unfold sat
  split_ifs <;> omega

theorem sat_le (x : Int) {lo hi : Int} (h : lo ≤ hi) : sat x lo hi ≤ hi := by
  unfold sat
  split_ifs <;> omega

section
variable (s : State) (n : Nat)

theorem State.vlv_showTemp (m : Nat) : (s.showTemp n).vlv m = s.vlv m := rfl

/-- A beat moves one channel, by both temperatures, and gives it a decision to make. -/
theorem State.vlv_coilBeat : ∃ a b : Int, ∀ m, (s.coilBeat n).vlv m =
    if m = n then { s.vlv n with
      tw := sat a (-273 * 2 ^ 32) (1000 * 2 ^ 32), tbody := sat b (-273 * 2 ^ 32) (1000 * 2 ^ 32), decide_ := true }
    else s.vlv m :=
  ⟨_, _, fun m => State.vlv_setVlv s n _ m⟩

/-- The temperatures stay within -273 and 1000 degrees. -/
theorem State.coilBeat_bounds : -273 * 2 ^ 32 ≤ ((s.coilBeat n).vlv n).tw ∧ ((s.coilBeat n).vlv n).tw ≤ 1000 * 2 ^ 32
    ∧ -273 * 2 ^ 32 ≤ ((s.coilBeat n).vlv n).tbody ∧ ((s.coilBeat n).vlv n).tbody ≤ 1000 * 2 ^ 32 := by
  obtain ⟨a, b, h⟩ := s.vlv_coilBeat n
  have hle : (-273 * 2 ^ 32 : Int) ≤ 1000 * 2 ^ 32 := by decide
  rw [h, if_pos rfl]
  exact ⟨le_sat a hle, sat_le a hle, le_sat b hle, sat_le b hle⟩

theorem State.vlv_coilBeat_other {m : Nat} (h : m ≠ n) : (s.coilBeat n).vlv m = s.vlv m := by
  obtain ⟨a, b, hv⟩ := s.vlv_coilBeat n
  rw [hv, if_neg h]

end

/-- From `s` to `t` the coils' words, what is bad of them and the model's work are as they were. -/
structure State.CoilsStay (s t : State) : Prop where
  rd : ∀ n i, t.rd (R.COILW n i) = s.rd (R.COILW n i)
  badWords : t.badWords = s.badWords
  work : t.part 17 = s.part 17

theorem State.CoilsStay.trans {s t u : State} (h : State.CoilsStay s t) (k : State.CoilsStay t u) : State.CoilsStay s u :=
  ⟨fun n i => (k.rd n i).trans (h.rd n i), k.badWords.trans h.badWords, k.work.trans h.work⟩

/-- A beat writes registers that lie below the coils' words. -/
theorem State.coilBeat_coilsStay (s : State) (n : Fin 32) : State.CoilsStay s (s.coilBeat n) := by
  refine ⟨fun m i => ?_, rfl, rfl⟩
  have hpw : R.COILW m i ≠ (F.VLV_PW_PW n).addr := by simp only [R.COILW, F.VLV_PW_PW, R.VLV_PW]; omega
  have hrhot : R.COILW m i ≠ (F.VLV_RHOT_RHOT n).addr := by simp only [R.COILW, F.VLV_RHOT_RHOT, R.VLV_RHOT]; omega
  have htb : R.COILW m i ≠ (F.VLV_TB_TEMP n).addr := by simp only [R.COILW, F.VLV_TB_TEMP, R.VLV_TB]; omega
  have htw : R.COILW m i ≠ (F.VLV_TW_TEMP n).addr := by simp only [R.COILW, F.VLV_TW_TEMP, R.VLV_TW]; omega
  unfold State.coilBeat
  extract_lets v w k p shunt isq alpha dtw rhot pw qwb qba tw tb s1
  unfold s1 State.showTemp
  rw [State.rd_setF_other _ _ hpw, State.rd_setF_other _ _ hrhot, State.rd_setF_other _ _ htb, State.rd_setF_other _ _ htw,
    State.rd_setVlv_frame]

/-- A beat rests on the channel, its coil's words and the period of the work alone. -/
theorem State.coilBeat_congr {s t : State} (h : State.CoilsStay s t) {n : Nat} (hv : t.vlv n = s.vlv n) :
    (t.coilBeat n).vlv n = (s.coilBeat n).vlv n := by
  have hw : t.coilW n = s.coilW n := funext fun i => congrArg (getBits · 0 24) (h.rd n i)
  have ht : t.coilT n = s.coilT n := funext fun i => congrArg (signed 24) (congrFun hw i)
  unfold State.coilBeat
  simp only [State.vlv_setF_frame, State.vlv_showTemp, State.vlv_setVlv_same, hw, ht, hv, h.rd, h.work]

/-! ### The beat of all channels (R225) -/

/-- The model's work on one channel. -/
def State.coilStep (s : State) (n : Nat) : State :=
  if !(s.vlv n).model then s
  else if s.coilFails n then
    let s1 := s.setVlv n { s.vlv n with model := false, modelBad := true, decide_ := false }
    ((s1.setB (F.VLV_DIAG_STAT_MODEL_BAD n) true).vStop n).log .vlvTackEcc n 0
  else s.coilBeat n

theorem State.coilStep_good {s : State} {n : Nat} (h : s.coilFails n = false) :
    s.coilStep n = if (s.vlv n).model then s.coilBeat n else s := by
  unfold State.coilStep
  rw [h]
  cases (s.vlv n).model <;> rfl

section
variable {s : State} (hgood : ∀ n : Fin 32, s.coilFails n = false)
include hgood

theorem State.coilStep_coilsStay (n : Fin 32) : State.CoilsStay s (s.coilStep n) := by
  rw [State.coilStep_good (hgood n)]
  split
  · exact s.coilBeat_coilsStay n
  · exact ⟨fun _ _ => rfl, rfl, rfl⟩

theorem State.vlv_coilStep_other (n : Fin 32) {m : Nat} (h : m ≠ n) : (s.coilStep n).vlv m = s.vlv m := by
  rw [State.coilStep_good (hgood n)]
  split
  · exact s.vlv_coilBeat_other n h
  · rfl

/-- No word of a coil is bad after the work on one. -/
theorem State.coilFails_coilStep (n m : Fin 32) : (s.coilStep n).coilFails m = false := by
  unfold State.coilFails
  rw [(State.coilStep_coilsStay hgood n).badWords]
  exact hgood m

end

/-- The work over a list of channels, no coil word being bad: it leaves the coils, and moves the channels in the list by one
beat each. -/
theorem State.coilSteps_effect {l : List Nat} (hl : ∀ n ∈ l, n < 32) (hnd : l.Nodup) {s : State}
    (hgood : ∀ n : Fin 32, s.coilFails n = false) :
    State.CoilsStay s (overList l State.coilStep s)
    ∧ (∀ m, m ∉ l → (overList l State.coilStep s).vlv m = s.vlv m)
    ∧ ∀ m ∈ l, (s.vlv m).model = true → (overList l State.coilStep s).vlv m = (s.coilBeat m).vlv m := by
  induction l generalizing s with
  | nil => exact ⟨⟨fun _ _ => rfl, rfl, rfl⟩, fun _ _ => rfl, fun _ h => absurd h List.not_mem_nil⟩
  | cons n l ih =>
    rw [List.nodup_cons] at hnd
    obtain ⟨hn, hl⟩ := List.forall_mem_cons.mp hl
    let k : Fin 32 := ⟨n, hn⟩
    have hstay : State.CoilsStay s (s.coilStep n) := State.coilStep_coilsStay hgood k
    have hother : ∀ m, m ≠ n → (s.coilStep n).vlv m = s.vlv m := fun m => State.vlv_coilStep_other hgood k
    obtain ⟨hstays, hothers, hbeats⟩ := ih hl hnd.2 (State.coilFails_coilStep hgood k)
    rw [overList_cons]
    refine ⟨hstay.trans hstays, fun m hm => ?_, fun m hm hmodel => ?_⟩
    · rw [List.mem_cons, not_or] at hm
      rw [hothers m hm.2, hother m hm.1]
    · rcases List.mem_cons.mp hm with rfl | hm
      · rw [hothers m hnd.1, State.coilStep_good (hgood k), if_pos hmodel]
      · have hmn : m ≠ n := fun h => hnd.1 (h ▸ hm)
        rw [hbeats m hm (by rwa [hother m hmn]), State.coilBeat_congr hstay (hother m hmn)]

@[simp] theorem State.vlv_partDone (s : State) (p n : Nat) : (s.partDone p).vlv n = s.vlv n := by
  unfold State.partDone State.partDoneAt State.doneTick
  dsimp only
  split
  · rfl
  · rw [State.vlv_setPart_frame]
    split
    · rfl
    · split <;> simp

/-- The model's work, no coil word being bad: one beat of every channel with a running model, and done (R225). -/
theorem State.valveModel_effect {s : State} (hbusy : (s.part 17).busy = true) (hqueued : (s.part 17).queued = none)
    (hmode : s.diagMode = true) (hgood : ∀ n : Fin 32, s.coilFails n = false) :
    (s.valveModel.part 17).busy = false ∧ ∀ n : Fin 32, (s.vlv n).model = true → s.valveModel.vlv n = (s.coilBeat n).vlv n := by
  obtain ⟨hstay, -, hbeats⟩ :=
    State.coilSteps_effect (l := List.range 32) (fun n hn => List.mem_range.mp hn) List.nodup_range hgood
  have hdone : (((overList (List.range 32) State.coilStep s).partDone 17).part 17).busy = false :=
    State.busy_partDone (by rw [hstay.work, hqueued])
  have heq : s.valveModel = (overList (List.range 32) State.coilStep s).partDone 17 :=
    (if_neg (by simp [hbusy, hmode])).trans (if_neg (Bool.eq_false_iff.mp hdone))
  rw [heq]
  exact ⟨hdone, fun n hn => (State.vlv_partDone _ _ _).trans (hbeats n (List.mem_range.mpr n.isLt) hn)⟩

/-! ### The valve supply guard (R233) -/

/-- The comparisons of VBST write BST_STAT alone, and the report. -/
theorem State.bstCompare_spares (s : State) : State.Spares driveSpares s s.bstCompare := by
  have hset : ∀ (x : State) (k : Nat) (v : Bool), State.Spares driveSpares x (x.setB ⟨R.BST_STAT, k, 1⟩ v) :=
    fun x k v => x.setB_spares v fun i _ _ h => by
      obtain ⟨-, -, hw⟩ := h
      exact absurd hw (show ¬(R.BST_STAT < 0x108000 ∨ 0x40 ≤ R.BST_STAT % 0x100) by decide)
  unfold State.bstCompare
  extract_lets v watched ov low s1 s2 charging s3 src_
  have h1 : State.Spares driveSpares s s1 :=
    .ite (((hset s 12 true).trans (State.pulse_spares _ _)).trans (State.log_spares _ _ _ _)) (.refl s)
  have h2 : State.Spares driveSpares s1 s2 :=
    .ite (((hset s1 13 true).trans (State.pulse_spares _ _)).trans (State.log_spares _ _ _ _)) (.refl s1)
  have h3 : State.Spares driveSpares s2 s3 := ((hset s2 10 ov).trans (hset _ 11 low)).trans (hset _ 9 charging)
  have h := (h1.trans h2).trans h3
  exact ⟨h.bits, h.flyback, h.test⟩

theorem State.qualified_bstCompare (s : State) : s.bstCompare.bst.qualified = s.bst.qualified := by
  unfold State.bstCompare
  extract_lets v watched ov low s1 s2 charging s3 src_
  have h1 : s1.bst = s.bst := by
    unfold s1
    split
    · simp
    · rfl
  have h2 : s2.bst = s1.bst := by
    unfold s2
    split
    · simp
    · rfl
  show s3.bst.qualified = _
  unfold s3
  simp [h1, h2]

section
variable (s : State)

/-- RBG is on (R233). -/
def State.guardOn (s : State) : Bool :=
  s.b F.PWR_VSG_CTL_EN && decide (2 ≤ s.mode) && !s.b F.PWR_RAIL_STAT_VGD_UV && s.bst.qualified
    && (s.b F.PWR_VSG_STAT_GATE || s.bst.vinAbove)
    && !s.b F.PWR_VSG_STAT_REVERSED && !s.b F.PWR_VSG_STAT_RCURR && !s.b F.PWR_VSG_STAT_UV && !s.pwr.vsgHeld

/-- RBG and SUPPLY_OFF of every channel as they show it. -/
def State.guardShown (s : State) : State :=
  overList (List.range 32) (fun x n => x.setB (F.VLV_DIAG_STAT_SUPPLY_OFF n) (!s.guardOn)) (s.setB F.PWR_VSG_STAT_GATE s.guardOn)

/-- The channels that RBG going off ends. -/
def State.guardEnds (s : State) : List Nat :=
  (List.range 32).filter (fun n => !s.guardOn && ((s.vlv n).st.runs || (s.vlv n).wait.isSome))

theorem State.guardSettle_eq : s.guardSettle = (s.guardShown.vEndAll s.guardEnds State.cancelSupply State.vStop).bstCompare := rfl

theorem State.guardSettle_spares : State.Spares diagSpares (s.setB F.PWR_VSG_STAT_GATE s.guardOn) s.guardSettle := by
  have hshown : State.Spares diagSpares (s.setB F.PWR_VSG_STAT_GATE s.guardOn) s.guardShown :=
    .overList (fun x n => x.setDiagB_spares n 14 _) _ _
  rw [State.guardSettle_eq]
  exact hshown.trans ((State.vEndAll_spares _ _ State.cancelSupply_spares State.vStop_spares).trans
    (State.bstCompare_spares _)).toLock.toDiag

theorem State.b_guardSettle_gate : s.guardSettle.b F.PWR_VSG_STAT_GATE = s.guardOn :=
  (s.guardSettle_spares.b fun i _ => diagSpares_vsgStat i).trans (State.b_setB_same _ _ (by decide) rfl)

/-- The flags of the supply stay as the guard settles. -/
theorem State.b_guardSettle_flag {k : Nat} (hk : 1 ≤ k) : s.guardSettle.b ⟨R.PWR_VSG_STAT, k, 1⟩ = s.b ⟨R.PWR_VSG_STAT, k, 1⟩ :=
  (s.guardSettle_spares.b fun i _ => diagSpares_vsgStat i).trans (State.b_setB_other _ _ (.inr (.inl hk)))

/-- A fault of the supply turns RBG off. -/
theorem State.guardOn_fault (h : s.b F.PWR_VSG_STAT_REVERSED = true ∨ s.b F.PWR_VSG_STAT_RCURR = true ∨ s.b F.PWR_VSG_STAT_UV = true) :
    s.guardOn = false := by
  unfold State.guardOn
  rcases h with h | h | h <;> simp [h]

/-- The flags stay and RBG is off after a fault, whatever the guard's own comparisons have become. -/
theorem State.guardSettle_fault (x : Boost)
    (h : s.b F.PWR_VSG_STAT_REVERSED = true ∨ s.b F.PWR_VSG_STAT_RCURR = true ∨ s.b F.PWR_VSG_STAT_UV = true) :
    let t := ({ s with bst := x } : State).guardSettle
    t.b F.PWR_VSG_STAT_GATE = false ∧ ∀ k, 1 ≤ k → t.b ⟨R.PWR_VSG_STAT, k, 1⟩ = s.b ⟨R.PWR_VSG_STAT, k, 1⟩ :=
  ⟨(State.b_guardSettle_gate _).trans (State.guardOn_fault _ h), fun _ hk => State.b_guardSettle_flag _ hk⟩

theorem State.vEndAll_nil (cancel stop : State → Nat → State) : s.vEndAll [] cancel stop = s := rfl

/-- Where RBG is on no channel ends. -/
theorem State.qualified_guardSettle (h : s.guardOn = true) : s.guardSettle.bst.qualified = s.bst.qualified := by
  have hends : s.guardEnds = [] := by
    unfold State.guardEnds
    simp [h]
  have hshown : s.guardShown.bst = s.bst :=
    (overList_leaves State.bst (fun x n => State.bst_setB_frame x _ _) _ _).trans (State.bst_setB_frame s _ _)
  rw [State.guardSettle_eq, hends, State.qualified_bstCompare, State.vEndAll_nil, hshown]

/-- VIN_FAULT REVERSED. -/
theorem State.vinBad_reversed : let t := s.vinBad .reversed
    t.b F.PWR_VSG_STAT_REVERSED = true ∧ (s.b F.PWR_VSG_STAT_REVERSED = false → t.b F.PWR_VSG_STAT_REV_SEEN = true)
    ∧ (s.b F.PWR_VSG_STAT_REVERSED = false → t.b F.PWR_VSG_STAT_GATE = false) := by
  by_cases h : s.b F.PWR_VSG_STAT_REVERSED = true
  · have heq : s.vinBad .reversed = s.guardSettle := congrArg State.guardSettle (if_pos h)
    rw [heq, h]
    exact ⟨(s.b_guardSettle_flag (by decide)).trans h, nofun, nofun⟩
  · let s1 := (s.setB F.PWR_VSG_STAT_REVERSED true).setB F.PWR_VSG_STAT_REV_SEEN true
    let s2 := (s1.log .vlvVsReversed wholeDevice 0).pulse 225
    have hpulse : ∀ k, s2.b ⟨R.PWR_VSG_STAT, k, 1⟩ = s1.b ⟨R.PWR_VSG_STAT, k, 1⟩ :=
      fun k => (State.b_pulse_frame _ _ _).trans (State.b_log s1 _ _ _ (show R.PWR_VSG_STAT ≠ R.LOG_LOST by decide))
    have hrev : s2.b F.PWR_VSG_STAT_REVERSED = true :=
      (hpulse 1).trans ((State.b_setB_other _ _ (.inr (.inr (by decide)))).trans (State.b_setB_same _ _ (by decide) rfl))
    have hseen : s2.b F.PWR_VSG_STAT_REV_SEEN = true := (hpulse 2).trans (State.b_setB_same _ _ (by decide) rfl)
    have heq : s.vinBad .reversed = ({ s2 with bst := { s1.bst with qualified := false } } : State).guardSettle :=
      congrArg State.guardSettle (if_neg h)
    obtain ⟨hgate, hflags⟩ := s2.guardSettle_fault { s1.bst with qualified := false } (.inl hrev)
    rw [heq]
    exact ⟨(hflags 1 (by decide)).trans hrev, fun _ => (hflags 2 (by decide)).trans hseen, fun _ => hgate⟩

/-- VIN_FAULT UNDERVOLTAGE. -/
theorem State.vinBad_undervoltage (h : s.b F.PWR_VSG_STAT_UV = false) : let t := s.vinBad .undervoltage
    t.b F.PWR_VSG_STAT_UV = true ∧ t.b F.PWR_VSG_STAT_GATE = false := by
  let s1 := (s.setB F.PWR_VSG_STAT_UV true).pulse 225
  have huv : s1.b F.PWR_VSG_STAT_UV = true := (State.b_pulse_frame _ _ _).trans (State.b_setB_same _ _ (by decide) rfl)
  have heq : s.vinBad .undervoltage = ({ s1 with bst := { s1.bst with qualified := false } } : State).guardSettle :=
    congrArg State.guardSettle (if_neg (by simp [h]))
  obtain ⟨hgate, hflags⟩ := s1.guardSettle_fault { s1.bst with qualified := false } (.inr (.inr huv))
  rw [heq]
  exact ⟨(hflags 4 (by decide)).trans huv, hgate⟩

/-- VIN_FAULT REVERSE_CURRENT. -/
theorem State.vinBad_reverseCurrent : let t := s.vinBad .reverseCurrent
    t.b F.PWR_VSG_STAT_RCURR = true ∧ t.b F.PWR_VSG_STAT_GATE = false := by
  let s1 := s.setB F.PWR_VSG_STAT_RCURR true
  have hrc : s1.b F.PWR_VSG_STAT_RCURR = true := State.b_setB_same _ _ (by decide) rfl
  obtain ⟨hgate, hflags⟩ := s1.guardSettle_fault { s.bst with vinAbove := false } (.inr (.inl hrc))
  exact ⟨(hflags 3 (by decide)).trans hrc, hgate⟩

/-- A condition of the supply that has gone shows no more. -/
theorem State.vinBack_clears : (s.vinBack .reversed).b F.PWR_VSG_STAT_REVERSED = false
    ∧ (s.vinBack .undervoltage).b F.PWR_VSG_STAT_UV = false ∧ (s.vinBack .reverseCurrent).b F.PWR_VSG_STAT_RCURR = false :=
  have hclear (k : Nat) (hk : 1 + k ≤ 31) : (s.setB ⟨R.PWR_VSG_STAT, k, 1⟩ false).b ⟨R.PWR_VSG_STAT, k, 1⟩ = false :=
    State.b_setB_same s false (show k + 1 ≤ 32 by omega) rfl
  ⟨(State.b_guardSettle_flag _ (by decide)).trans (hclear 1 (by decide)),
    (State.b_guardSettle_flag _ (by decide)).trans (hclear 4 (by decide)),
    (State.b_guardSettle_flag _ (by decide)).trans (hclear 3 (by decide))⟩

end

/-- A qualified supply not below VS turns RBG on where nothing else holds it off. -/
theorem State.vinGood_turnsOn {s : State} (hrev : s.b F.PWR_VSG_STAT_REVERSED = false) (huv : s.b F.PWR_VSG_STAT_UV = false)
    (hrc : s.b F.PWR_VSG_STAT_RCURR = false) (hen : s.b F.PWR_VSG_CTL_EN = true) (hmode : 2 ≤ s.mode)
    (hvgd : s.b F.PWR_RAIL_STAT_VGD_UV = false) (hheld : s.pwr.vsgHeld = false) :
    (s.vinGood true).b F.PWR_VSG_STAT_GATE = true ∧ (s.vinGood true).bst.qualified = true := by
  let s1 : State := { s with bst := { s.bst with qualified := true, vinAbove := true } }
  have heq : s.vinGood true = s1.guardSettle := if_neg (by simp [hrev, huv])
  have hon : s1.guardOn = true := by
    show (s.b F.PWR_VSG_CTL_EN && decide (2 ≤ s.mode) && !s.b F.PWR_RAIL_STAT_VGD_UV && true && (s.b F.PWR_VSG_STAT_GATE || true)
      && !s.b F.PWR_VSG_STAT_REVERSED && !s.b F.PWR_VSG_STAT_RCURR && !s.b F.PWR_VSG_STAT_UV && !s.pwr.vsgHeld) = true
    simp [hrev, huv, hrc, hen, hmode, hvgd, hheld]
  rw [heq]
  exact ⟨s1.b_guardSettle_gate.trans hon, s1.qualified_guardSettle hon⟩

end Sys2Proof.Machine
end

section
/-! The settlement of the valves' diagnosis, calibration, coil model and supply guard (R221 to R234). -/

namespace Sys2Proof.Machine

open Sys2Proof

section
variable (n : Fin 32) (b : Fin 8) (s : State)

theorem exec_overcurrentDetect : exec (.overcurrentDetect n) s = .next (s.overcurrent n) := rfl
theorem exec_tOpenExpiry : exec (.tOpenExpiry n) s = .next (s.openCheck n) := rfl
theorem exec_flybackCheckEnd (high : Bool) : exec (.flybackCheckEnd n high) s = .next (s.flybackEnd n high) := rfl
theorem exec_offStateTestStart : exec (.offStateTestStart b) s = .next (s.testStart b) := rfl
theorem exec_offStatePuEnd (h d0 d1 d2 d3 : NodeClass) :
    exec (.offStatePuEnd b h d0 d1 d2 d3) s = .next (s.testPu b h [d0, d1, d2, d3]) := rfl
theorem exec_offStatePdEnd (h d0 d1 d2 d3 : NodeClass) :
    exec (.offStatePdEnd b h d0 d1 d2 d3) s = .next (s.testPd b h [d0, d1, d2, d3]) := rfl
theorem exec_offsetCalibrationDone : exec (.offsetCalibrationDone n) s = .next (s.offsetDone n) := rfl
theorem exec_vlvUnlock_served {r : Requester} (h : s.writesReach r) : exec (.vlvUnlock r n) s = .next (s.unlock n) :=
  congrArg Host.Outcome.next (s.writeBy_served _ _ h)
theorem exec_valveModel : exec .valveModel s = .next s.valveModel := rfl
theorem exec_vinFault (k : VinKind) : exec (.vinFault k) s = .next (s.vinBad k) := rfl
theorem exec_vinRecovered (k : VinKind) : exec (.vinRecovered k) s = .next (s.vinBack k) := rfl
theorem exec_vinQualified (above : Bool) : exec (.vinQualified above) s = .next (s.vinGood above) := rfl

end

/-- Settles O43, row by row: a lock writes LOCKED and the causes alone, so the verdicts beside them stay; a completed test counts
before its verdicts act; the model's work on one channel leaves what the others' rests on. -/
theorem valveDiagnosisLocksAndUnlocks : Obligations.ValveDiagnosisLocksAndUnlocks := by
  refine ⟨fun n s e hchk hon hdue => ?overcurrent, fun n s e hchk hon hlong htick hx => ?openCheck,
    fun n s e hfly hdue => ?flyback, fun b s q hquiet hrest hapart hmode hnone hany => ?testStart,
    fun b h d0 d1 d2 d3 s e htest hdue hpu => ?testPu, fun b h d0 d1 d2 d3 hu u0 u1 u2 u3 s e htest hpu hdue => ?testPd,
    offVerdict_ok_iff, fun n s hsum hmode hlo hhi => ?offset, fun r n s hreach => ?unlock,
    State.coilBeat_bounds, fun s hbusy hqueued hmode hgood => ?model, fun s => ?faults, fun s => ?recoveries,
    fun s hrev huv hrc hen hmode hvgd hheld => ?qualified⟩
  case overcurrent =>
    rw [exec_overcurrentDetect, State.overcurrent_due hchk hon hdue]
    exact ⟨_, rfl, s.shortSupOn_locks n⟩
  case openCheck =>
    have hsettle := (s.setVlv n { s.vlv n with flyback := some s.now }).bankSettle_leaves (n / 4)
    rw [exec_tOpenExpiry, State.openCheck_due hchk hon hlong htick hx]
    exact ⟨_, rfl, (hsettle.flyback n).trans (congrArg Valve.flyback (State.vlv_setVlv_same s n _)), hsettle.rd⟩
  case flyback =>
    exact ⟨⟨_, exec_flybackCheckEnd n s true, State.flybackEnd_open hfly hdue⟩,
      ⟨_, exec_flybackCheckEnd n s false, State.flybackEnd_ground hfly hdue⟩⟩
  case testStart => rw [exec_offStateTestStart, State.testStart_due hquiet hrest hapart hmode hnone hany]
  case testPu => rw [exec_offStatePuEnd, State.testPu_due _ _ htest hdue hpu]
  case testPd => exact ⟨_, exec_offStatePdEnd b s h d0 d1 d2 d3, State.testPd_completes htest hpu hdue⟩
  case offset => exact ⟨_, exec_offsetCalibrationDone n s, State.offsetDone_effect hsum hmode hlo hhi⟩
  case unlock => exact ⟨_, exec_vlvUnlock_served n s hreach, s.open_unlock n⟩
  case model =>
    obtain ⟨hdone, hbeats⟩ := State.valveModel_effect hbusy hqueued hmode hgood
    refine ⟨_, exec_valveModel s, hdone, fun n hn => ?_⟩
    rw [hbeats n hn]
    exact ⟨rfl, rfl⟩
  case faults =>
    exact ⟨⟨_, exec_vinFault s .reversed, s.vinBad_reversed⟩,
      fun huv => ⟨_, exec_vinFault s .undervoltage, s.vinBad_undervoltage huv⟩,
      ⟨_, exec_vinFault s .reverseCurrent, s.vinBad_reverseCurrent⟩⟩
  case recoveries =>
    obtain ⟨hrev, huv, hrc⟩ := s.vinBack_clears
    exact ⟨⟨_, exec_vinRecovered s .reversed, hrev⟩, ⟨_, exec_vinRecovered s .undervoltage, huv⟩,
      ⟨_, exec_vinRecovered s .reverseCurrent, hrc⟩⟩
  case qualified => exact ⟨_, exec_vinQualified s true, State.vinGood_turnsOn hrev huv hrc hen hmode hvgd hheld⟩

end Sys2Proof.Machine
end

section
/-! What every command keeps (R284, R323, R348, R391): a sound state and the queue, row by row of the opcode table. -/

namespace Sys2Proof.Machine

open Sys2Proof

/-- Every command acts, and keeps a sound state and the queue of waiting commands: each row is one operation of the model, or a few
of them in a requester's access, a runner's issue, an event's action or a Holtid command's service. -/
theorem exec_keeps {q : List Instr} {s : State} (h : s.Keeps q) (c : Instr) : ∃ t, exec c s = .next t ∧ t.Keeps q := by
  cases c with
  | coldReset => exact ⟨_, rfl, State.coldRow_keeps h⟩
  | resetNLow => exact ⟨_, rfl, State.pinReset_keeps h⟩
  | vdd33Good => exact ⟨_, rfl, State.vdd33_keeps h⟩
  | seqStepDelay => exact ⟨_, rfl, State.seqDelay_keeps h⟩
  | seqRailGood => exact ⟨_, rfl, State.seqGood_keeps h⟩
  | seqRailTimeout => exact ⟨_, rfl, State.seqTimeout_keeps h⟩
  | seqRetry => exact ⟨_, rfl, State.seqRetry_keeps h⟩
  | seqOutputDelay => exact ⟨_, rfl, State.seqStep_keeps h⟩
  | railUndervoltage => exact ⟨_, rfl, State.railUv_keeps h⟩
  | railOvervoltage => exact ⟨_, rfl, State.railOv_keeps h⟩
  | railWarning => exact ⟨_, rfl, State.railWarn_keeps h⟩
  | railWarningClear => exact ⟨_, rfl, State.railClear_keeps h⟩
  | vgdRecovered => exact ⟨_, rfl, State.vgdBack_keeps h⟩
  | xinLost | pllUnlock => exact ⟨_, rfl, State.setB_keeps (State.clockLost_keeps h)⟩
  | watchdogExpiry => exact ⟨_, rfl, State.watchdog_keeps h⟩
  | refclkLost => exact ⟨_, rfl, State.refclkLost_keeps h⟩
  | pfailQualified => exact ⟨_, rfl, State.pfail_keeps h⟩
  | rampStep => exact ⟨_, rfl, State.rampStep_keeps h⟩
  | pfailCleared => exact ⟨_, rfl, State.pfailCleared_keeps h⟩
  | pmbPollDue => exact ⟨_, rfl, State.pmbPoll_keeps h⟩
  | pmbTransactionDone => exact ⟨_, rfl, State.pmbDone_keeps h⟩
  | pmbClockTimeout => exact ⟨_, rfl, State.pmbTimeout_keeps h⟩
  | pmbAlert => exact ⟨_, rfl, State.pmbAlert_keeps h⟩
  | timeBaseTick => exact ⟨_, rfl, State.tick_keeps h⟩
  | beatBoundary => exact ⟨_, rfl, State.boundary_keeps h⟩
  | computePhaseStart => exact ⟨_, rfl, State.computeStart_keeps h⟩
  | commitPreparation => exact ⟨_, rfl, State.prepare_keeps h⟩
  | overrunLimit => exact ⟨_, rfl, State.overrunLimit_keeps h⟩
  | participantDone => exact ⟨_, rfl, State.participantDone_keeps h⟩
  | holdExpiry => exact ⟨_, rfl, State.holdExpiry_keeps h⟩
  | tbCommitCtlWrite => exact ⟨_, rfl, State.writeBy_keeps h (fun _ h1 => State.commitCtl_keeps h1)⟩
  | tbBeatCfgWrite => exact ⟨_, rfl, State.writeBy_keeps h (fun _ h1 => State.beatCfg_keeps h1)⟩
  | tbLoRead => exact ⟨_, rfl, State.readBy_keeps h (fun _ h1 => State.tbLoRead_keeps h1)⟩
  | tbBeatRead => exact ⟨_, rfl, State.readBy_keeps h (fun _ h1 => State.tbBeatRead_keeps h1)⟩
  | splitCounterRead | readClearRegister => exact ⟨_, rfl, State.readBy_keeps h (fun _ h1 => State.busRead_keeps h1)⟩
  | registerWrite => exact ⟨_, rfl, State.writeBy_keeps h (fun _ h1 => State.regWrite_keeps h1)⟩
  | disciplineLocked => exact ⟨_, rfl, State.discLocked_keeps h⟩
  | disciplineHoldover => exact ⟨_, rfl, State.discHoldover_keeps h⟩
  | toothEdge => exact ⟨_, rfl, State.toothRow_keeps h⟩
  | pulseTrailingEdge => exact ⟨_, rfl, State.policy_keeps (State.pulseTrailing_keeps h)⟩
  | indexEdge => exact ⟨_, rfl, State.policy_keeps (State.indexEdge_keeps h)⟩
  | indexTrailingEdge => exact ⟨_, rfl, State.policy_keeps (State.indexTrailing_keeps h)⟩
  | lawUpdate => exact ⟨_, rfl, State.trkRow_keeps h (fun _ h1 => State.lawUpdate_keeps (State.spoilLearn_keeps h1))⟩
  | ssiSamplePull => exact ⟨_, rfl, State.trkRow_keeps h (fun _ h1 => State.ssiPull_keeps (State.spoil_keeps h1))⟩
  | trackerTick => exact ⟨_, rfl, State.trackerRow_keeps h⟩
  | stopTimeExpiry => exact ⟨_, rfl, State.trkRow_keeps h (fun _ h1 => State.stopExpiry_keeps h1)⟩
  | errMaxReached => exact ⟨_, rfl, State.trkRow_keeps h (fun _ h1 => State.errMaxRow_keeps h1)⟩
  | idxErrMaxReached => exact ⟨_, rfl, State.trkRow_keeps h (fun _ h1 => State.idxErrMaxRow_keeps h1)⟩
  | seekRevsExhausted => exact ⟨_, rfl, State.trkRow_keeps h (fun _ h1 => State.seekRow_keeps h1)⟩
  | virtTetherLost => exact ⟨_, rfl, State.trkRow_keeps h (fun _ h1 => State.tetherRow_keeps h1)⟩
  | vrThresholdHalving => exact ⟨_, rfl, State.vrHalve_keeps h⟩
  | sensorWindowSample => exact ⟨_, rfl, State.trkRow_keeps h (fun _ h1 => State.snsSample_keeps h1)⟩
  | trackerStall => exact ⟨_, rfl, State.stallRow_keeps h⟩
  | armerScan => exact ⟨_, rfl, State.Keeps.ite (State.partDone_keeps (State.scanAll_keeps (State.scanFound_keeps h))) h⟩
  | slotCompare => exact ⟨_, rfl, State.slotRow_keeps h⟩
  | durationEnd => exact ⟨_, rfl, State.durEnd_keeps h⟩
  | capEnd => exact ⟨_, rfl, State.capEndAt_keeps h⟩
  | evPulseHigh | evPulseLow | evSet | evClear | evToggle | evToggle2 =>
    exact ⟨_, rfl, State.act_keeps h (fun _ _ h1 => State.pinAct_keeps h1)⟩
  | evCapture => exact ⟨_, rfl, State.act_keeps (State.engFlush_keeps h) (fun _ _ h1 => State.actCapture_keeps h1)⟩
  | evGate | evHalt => exact ⟨_, rfl, State.act_keeps (State.engFlush_keeps h) (fun _ _ h1 => State.stlRun_keeps h1)⟩
  | evRestart => exact ⟨_, rfl, State.act_keeps (State.engFlush_keeps h) (fun _ _ h1 => State.stlRestart_keeps h1)⟩
  | evDose => exact ⟨_, rfl, State.act_keeps h (fun _ _ h1 => State.actDose_keeps h1)⟩
  | evStart => exact ⟨_, rfl, State.act_keeps h (fun _ _ h1 => State.actStart_keeps h1)⟩
  | evSignal | evSignal2 => exact ⟨_, rfl, State.act_keeps h (fun _ _ h1 => State.rnFlags_keeps h1)⟩
  | evStop => exact ⟨_, rfl, State.act_keeps h (fun _ _ h1 => State.rnStop_keeps h1)⟩
  | evPulse | evPulse2 => exact ⟨_, rfl, State.act_keeps h (fun _ _ h1 => State.pulse_keeps h1)⟩
  | evtTwinInjectWrite => exact ⟨_, rfl, State.writeBy_keeps h (fun _ h1 => State.injectWrite_keeps h1)⟩
  | dllMeasurementDone => exact ⟨_, rfl, State.dllDone_keeps h⟩
  | dllLineSwap => exact ⟨_, rfl, State.dllSwap_keeps h⟩
  | stallStep => exact ⟨_, rfl, State.stallTick_keeps h⟩
  | stallInputEdge => exact ⟨_, rfl, State.stallInput_keeps h⟩
  | stlCtlRestart => exact ⟨_, rfl, State.writeBy_keeps h (fun _ h1 => State.Keeps.ite h1 (State.stlRestart_keeps h1))⟩
  | stlCtlLoad =>
    exact ⟨_, rfl, State.writeBy_keeps h (fun _ h1 => State.Keeps.ite h1 (State.Keeps.overList
      (fun _ _ h2 => State.stlCopy_keeps h2) (State.stlDue_keeps h1)))⟩
  | stlCtlShadowClear => exact ⟨_, rfl, State.writeBy_keeps h (fun _ h1 => State.Keeps.ite h1 (State.stlShadowClear_keeps h1))⟩
  | stlPeriodWrite => exact ⟨_, rfl, State.writeBy_keeps h (fun _ h1 => State.Keeps.ite h1 (State.stlValue_keeps h1))⟩
  | stlCntWrite => exact ⟨_, rfl, State.writeBy_keeps h (fun _ h1 => State.Keeps.ite h1 (State.stlCnt_keeps h1))⟩
  | stlCntRead => exact ⟨_, rfl, State.readBy_keeps h (fun _ h1 => State.cntRead_keeps h1)⟩
  | stlGo =>
    exact ⟨_, rfl, State.writeBy_keeps h (fun _ h1 => State.stlGroup_keeps h1 (fun _ _ h2 => State.stlRestart_keeps h2))⟩
  | stlHalt => exact ⟨_, rfl, State.writeBy_keeps h (fun _ h1 => State.stlGroup_keeps h1 (fun _ _ h2 => State.stlRun_keeps h2))⟩
  | enginePassStart => exact ⟨_, rfl, State.engPass_keeps h⟩
  | engineWord => exact ⟨_, rfl, State.engWord_keeps h⟩
  | engineWaitEnd => exact ⟨_, rfl, State.engWaitEnd_keeps h⟩
  | trap => exact ⟨_, rfl, State.trapRow_keeps h⟩
  | engCtlRst => exact ⟨_, rfl, State.writeBy_keeps h (fun _ h1 => State.engRst_keeps h1)⟩
  | engCtlPark => exact ⟨_, rfl, State.writeBy_keeps h (fun _ h1 => State.engPark_keeps h1)⟩
  | rnNop => exact ⟨_, rfl, State.rnQuick_keeps h (fun _ _ h1 => h1)⟩
  | rnHalt => exact ⟨_, rfl, State.rnIssue_keeps h (fun _ _ h1 => State.rnHaltNow_keeps h1)⟩
  | rnIrq => exact ⟨_, rfl, State.rnQuick_keeps h (fun _ _ h1 => State.pulse_keeps h1)⟩
  | rnReq => exact ⟨_, rfl, State.rnQuick_keeps h (fun _ _ h1 => State.setRn_keeps h1)⟩
  | rnReqw => exact ⟨_, rfl, State.rnIssue_keeps h (fun _ _ h1 => State.rnWaitOn_keeps (State.setRn_keeps h1))⟩
  | rnUnreq => exact ⟨_, rfl, State.rnQuick_keeps h (fun _ _ h1 => State.rnUnreq_keeps h1)⟩
  | rnClrf => exact ⟨_, rfl, State.rnQuick_keeps h (fun _ _ h1 => State.rnFlags_keeps h1)⟩
  | rnNow | rnAddt | rnAddd => exact ⟨_, rfl, State.rnQuick_keeps h (fun _ _ h1 => State.setRnTr_keeps h1)⟩
  | rnFine | rnStamp => exact ⟨_, rfl, State.rnQuick_keeps h (fun _ _ h1 => State.setF_keeps h1)⟩
  | rnClrsr => exact ⟨_, rfl, State.rnQuick_keeps h (fun _ _ h1 => State.setRnSr_keeps h1)⟩
  | rnPin => exact ⟨_, rfl, State.rnPinRow_keeps h⟩
  | runnerTimedEdge => exact ⟨_, rfl, State.rnTimedRow_keeps h⟩
  | rnWait => exact ⟨_, rfl, State.rnWaitRow_keeps h⟩
  | runnerWaitEnd => exact ⟨_, rfl, State.rnWaitEndRow_keeps h⟩
  | rnJmp => exact ⟨_, rfl, State.rnJmpRow_keeps h⟩
  | rnLdl => exact ⟨_, rfl, State.rnQuick_keeps h (fun _ _ h1 => State.Keeps.ite (State.setF_keeps h1) (State.setF_keeps h1))⟩
  | rnShift => exact ⟨_, rfl, State.rnShiftRow_keeps h⟩
  | shiftBit => exact ⟨_, rfl, State.Keeps.ite (State.rnShiftBit_keeps h) h⟩
  | rnPush =>
    exact ⟨_, rfl, State.rnIssue_keeps h (fun _ _ h1 => State.Keeps.ite (State.rnPushNow_keeps h1) (State.rnWaitOn_keeps h1))⟩
  | rnPull =>
    exact ⟨_, rfl, State.rnIssue_keeps h (fun _ _ h1 => State.Keeps.ite (State.rnPullNow_keeps (State.spoil_keeps h1))
      (State.rnWaitOn_keeps h1))⟩
  | runGo => exact ⟨_, rfl, State.writeBy_keeps h (fun _ h1 => State.rnGo_keeps h1)⟩
  | runCtlRestart => exact ⟨_, rfl, State.writeBy_keeps h (fun _ h1 => State.rnRestart_keeps h1)⟩
  | runCtlHalt => exact ⟨_, rfl, State.writeBy_keeps h (fun _ h1 => State.rnStop_keeps h1)⟩
  | runCtlPark => exact ⟨_, rfl, State.writeBy_keeps h (fun _ h1 => State.rnPark_keeps h1)⟩
  | runInject => exact ⟨_, rfl, State.writeBy_keeps h (fun _ h1 => State.rnInject_keeps h1)⟩
  | runFlagsWrite => exact ⟨_, rfl, State.writeBy_keeps h (fun _ h1 => State.rnFlags_keeps h1)⟩
  | runProgWrite => exact ⟨_, rfl, State.writeBy_keeps h (fun _ h1 => State.rnProg_keeps h1)⟩
  | runnerServiceCheck => exact ⟨_, rfl, State.rnService_keeps h⟩
  | valveSenseResult => exact ⟨_, rfl, State.senseResult_keeps h⟩
  | boostGraceExpiry => exact ⟨_, rfl, State.bankSettle_keeps (State.graceEnd_keeps h)⟩
  | tBstMaxExpiry => exact ⟨_, rfl, State.bstTimeout_keeps h⟩
  | tPeakExpiry => exact ⟨_, rfl, State.peakEnd_keeps h⟩
  | tMaxExpiry => exact ⟨_, rfl, State.capEndV_keeps h⟩
  | tDecayMaxExpiry => exact ⟨_, rfl, State.decayTimeout_keeps h⟩
  | vlvDurationEnd => exact ⟨_, rfl, State.vDurEnd_keeps h⟩
  | deadTimeEnd => exact ⟨_, rfl, State.bankSettle_keeps h⟩
  | boostConverterPulse => exact ⟨_, rfl, State.bstPulse_keeps h⟩
  | vbstThreshold => exact ⟨_, rfl, State.vbstAt_keeps h⟩
  | valveModel => exact ⟨_, rfl, State.valveModel_keeps h⟩
  | vlvUnlock => exact ⟨_, rfl, State.writeBy_keeps h (fun _ h1 => State.unlock_keeps h1)⟩
  | offStateTestStart => exact ⟨_, rfl, State.testStart_keeps h⟩
  | offStatePuEnd => exact ⟨_, rfl, State.testPu_keeps h⟩
  | offStatePdEnd => exact ⟨_, rfl, State.testPd_keeps h⟩
  | overcurrentDetect => exact ⟨_, rfl, State.overcurrent_keeps h⟩
  | tOpenExpiry => exact ⟨_, rfl, State.openCheck_keeps h⟩
  | flybackCheckEnd => exact ⟨_, rfl, State.flybackEnd_keeps h⟩
  | offsetCalibrationDone => exact ⟨_, rfl, State.offsetDone_keeps h⟩
  | vinQualified => exact ⟨_, rfl, State.vinGood_keeps h⟩
  | vinFault => exact ⟨_, rfl, State.vinBad_keeps h⟩
  | linkDown => exact ⟨_, rfl, State.linkDown_keeps h⟩
  | linkSync => exact ⟨_, rfl, State.linkSync_keeps h⟩
  | delayRequest => exact ⟨_, rfl, State.delayReq_keeps h⟩
  | delayResponse => exact ⟨_, rfl, State.delayResp_keeps h⟩
  | delayRequestReceived => exact ⟨_, rfl, State.delayAsked_keeps h⟩
  | frameOriginate => exact ⟨_, rfl, State.originate_keeps h⟩
  | frameReceived => exact ⟨_, rfl, State.frameIn_keeps h⟩
  | frameLostBeat => exact ⟨_, rfl, State.lostBeat_keeps h⟩
  | originationStart => exact ⟨_, rfl, State.origStart_keeps h⟩
  | ringVerRise => exact ⟨_, rfl, State.verRise_keeps h⟩
  | gateCopyReceived => exact ⟨_, rfl, State.gateIn_keeps h⟩
  | tthCtlJoin => exact ⟨_, rfl, State.writeBy_keeps h (fun _ h1 => State.tthJoin_keeps h1)⟩
  | tthCtlEn => exact ⟨_, rfl, State.writeBy_keeps h (fun _ h1 => State.tthEnable_keeps h1)⟩
  | yrdOwnWrite => exact ⟨_, rfl, State.writeBy_keeps h (fun _ h1 => State.ownWrite_keeps h1)⟩
  | yardDataWrite => exact ⟨_, rfl, State.writeBy_keeps h (fun _ h1 => State.yardWrite_keeps h1)⟩
  | scrubberVisit => exact ⟨_, rfl, State.scrub_keeps h⟩
  | troughPush => exact ⟨_, rfl, State.writeBy_keeps h (fun _ h1 => State.portPush_keeps h1)⟩
  | troughPull => exact ⟨_, rfl, State.readBy_keeps h (fun _ h1 => State.portPull_keeps (State.spoil_keeps h1))⟩
  | troughWaitServed => exact ⟨_, rfl, State.waitServed_keeps (State.spoil_keeps h)⟩
  | troughHostWaitExpiry => exact ⟨_, rfl, State.waitExpired_keeps h⟩
  | troughPointerCrossing => exact ⟨_, rfl, State.trgCross_keeps h⟩
  | trgPeekRead => exact ⟨_, rfl, State.readBy_keeps h (fun _ h1 => State.trgPeek_keeps (State.spoil_keeps h1))⟩
  | trgRelWrite => exact ⟨_, rfl, State.writeBy_keeps h (fun _ h1 => State.trgRelWrite_keeps h1)⟩
  | trgCtlEn => exact ⟨_, rfl, State.writeBy_keeps h (fun _ h1 => State.trgSetEn_keeps h1)⟩
  | trgFlush => exact ⟨_, rfl, State.writeBy_keeps h (fun _ h1 => State.trgFlush_keeps h1)⟩
  | trgMark => exact ⟨_, rfl, State.writeBy_keeps h (fun _ h1 => State.trgMark_keeps h1)⟩
  | trgRewind => exact ⟨_, rfl, State.writeBy_keeps h (fun _ h1 => State.trgRewind_keeps h1)⟩
  | dmaStart => exact ⟨_, rfl, State.writeBy_keeps h (fun _ h1 => State.dmaStart_keeps h1)⟩
  | dmaStop => exact ⟨_, rfl, State.writeBy_keeps h (fun _ h1 => State.dmaStop_keeps h1)⟩
  | dmaDisable => exact ⟨_, rfl, State.writeBy_keeps h (fun _ h1 => State.dmaDisable_keeps h1)⟩
  | descriptorFetched => exact ⟨_, rfl, State.descFetched_keeps h⟩
  | burstGrant => exact ⟨_, rfl, State.grantBurst_keeps h⟩
  | dmaReadReturn => exact ⟨_, rfl, State.readReturn_keeps h⟩
  | dmaWrite => exact ⟨_, rfl, State.dmaWrite_keeps h⟩
  | dmaAccessTimeout => exact ⟨_, rfl, State.dmaTimedOut_keeps h⟩
  | dmaRecordWrite => exact ⟨_, rfl, State.recWrite_keeps h⟩
  | dmaDrainDone => exact ⟨_, rfl, State.drainDone_keeps h⟩
  | dmaCqTailWrite => exact ⟨_, rfl, State.writeBy_keeps h (fun _ h1 => State.cqTail_keeps h1)⟩
  | dmaCqCfgEn => exact ⟨_, rfl, State.writeBy_keeps h (fun _ h1 => State.cqCfg_keeps h1)⟩
  | pcieEndpointReset => exact ⟨_, rfl, State.endpointReset_keeps h⟩
  | pcieDStateChange => exact ⟨_, rfl, State.dState_keeps h⟩
  | spiWrite | spiWriteFixed => exact ⟨_, rfl, State.spiWrite_keeps h⟩
  | spiRead | spiReadFixed | qread | qreadFixed => exact ⟨_, rfl, State.spiRead_keeps h⟩
  | spiStatus => exact ⟨_, rfl, State.spiStatus_keeps h⟩
  | spiCsRise => exact ⟨_, rfl, State.spiEnd_keeps h⟩
  | frImageAccess => exact ⟨_, rfl, State.imageAccess_keeps h⟩
  | frAccessTimeout => exact ⟨_, rfl, State.frTimeout_keeps h⟩
  | frWinDataLoRead => exact ⟨_, rfl, State.winRead_keeps h⟩
  | frWinDataLoWrite => exact ⟨_, rfl, State.winHold_keeps h⟩
  | frWinDataHiWrite => exact ⟨_, rfl, State.winWrite_keeps h⟩
  | frWinAddrWrite => exact ⟨_, rfl, State.winAddr_keeps h⟩
  | frWindowCommand => exact ⟨_, rfl, State.Keeps.ite (State.issueWrite_keeps h (fun _ h1 => State.windowStart_keeps h1)) h⟩
  | mbxDoorbell => exact ⟨_, rfl, State.writeBy_keeps h (fun _ h1 => State.doorbell_keeps h1)⟩
  | mbxCfgWrite => exact ⟨_, rfl, State.writeBy_keeps h (fun _ h1 => State.mbxCfg_keeps h1)⟩
  | mbxServiceStart => exact ⟨_, rfl, State.serviceStart_keeps h⟩
  | mbxNotHanded => exact ⟨_, rfl, State.notHanded_keeps h⟩
  | cmdEcho | cmdGetInfo | cmdWhlStatus | cmdEvtStatus | cmdVlvStatus | cmdUcodeInfo | cmdTthStatus | frChRead =>
    exact ⟨_, rfl, State.answer_keeps h⟩
  | cmdSetMode => exact ⟨_, rfl, State.command_keeps h (fun _ _ h1 => State.setModeCmd_keeps h1)⟩
  | modeTransition => exact ⟨_, rfl, State.modeRow_keeps h⟩
  | cmdSeal => exact ⟨_, rfl, State.command_keeps h (fun _ _ h1 => State.sealCmd_keeps h1)⟩
  | cmdReset => exact ⟨_, rfl, State.command_keeps h (fun _ _ h1 => State.resetCmd_keeps h1)⟩
  | cmdPinOwn => exact ⟨_, rfl, State.shadowCommand_keeps h (fun _ _ h1 => State.pinOwn_keeps h1)⟩
  | cmdSelftest => exact ⟨_, rfl, State.command_keeps h (fun _ _ h1 => State.selftest_keeps h1)⟩
  | cmdCalibrate => exact ⟨_, rfl, State.calibrate_keeps h⟩
  | cmdPatchLoad => exact ⟨_, rfl, State.command_keeps h (fun _ _ h1 => State.patchLoad_keeps h1)⟩
  | cmdSleepNotice => exact ⟨_, rfl, State.command_keeps h (fun _ _ h1 => State.sleepNotice_keeps h1)⟩
  | cmdWakeNotice => exact ⟨_, rfl, State.command_keeps h (fun _ _ h1 => State.wakeNotice_keeps h1)⟩
  | cmdPatternLoad => exact ⟨_, rfl, State.shadowCommand_keeps h (fun _ _ h1 => State.patternLoad_keeps h1)⟩
  | cmdLearnSave => exact ⟨_, rfl, State.command_keeps h (fun _ _ h1 => State.learnSave_keeps h1)⟩
  | cmdLearnRestore => exact ⟨_, rfl, State.shadowCommand_keeps h (fun _ _ h1 => State.learnRestore_keeps h1)⟩
  | cmdEvtWrite => exact ⟨_, rfl, State.shadowCommand_keeps h (fun _ _ h1 => State.evtWrite_keeps h1)⟩
  | cmdVlvOn | frValve => exact ⟨_, rfl, State.command_keeps h (fun _ _ h1 => State.valveOn_keeps h1)⟩
  | cmdVlvOff => exact ⟨_, rfl, State.command_keeps h (fun _ _ h1 => State.complete_keeps (State.valvesOff_keeps h1))⟩
  | cmdUcodeLoad => exact ⟨_, rfl, State.ucodeLoad_keeps h⟩
  | cmdRunLoad => exact ⟨_, rfl, State.command_keeps h (fun _ _ h1 => State.runLoad_keeps h1)⟩
  | cmdTthMsgSend => exact ⟨_, rfl, State.command_keeps h (fun _ _ h1 => State.msgSend_keeps h1)⟩
  | cmdTthMsgRead => exact ⟨_, rfl, State.command_keeps h (fun _ _ h1 => State.msgRead_keeps h1)⟩
  | cmdYardReturn => exact ⟨_, rfl, State.command_keeps h (fun _ _ h1 => State.yardReturn_keeps h1)⟩
  | cmdPmbXfer => exact ⟨_, rfl, State.command_keeps h (fun _ _ h1 => State.pmbXfer_keeps h1)⟩
  | cmdLogRead => exact ⟨_, rfl, State.command_keeps h (fun _ _ h1 => State.logRead_keeps h1)⟩
  | cmdLogClear => exact ⟨_, rfl, State.command_keeps h (fun _ _ h1 => State.complete_keeps (State.logClear_keeps h1))⟩
  | frChCfg => exact ⟨_, rfl, State.command_keeps h (fun _ _ h1 => State.complete_keeps (State.frChCfg_keeps h1))⟩
  | frChStart =>
    exact ⟨_, rfl, State.command_keeps h (fun _ _ h1 => State.complete_keeps (State.frGroups_keeps h1
      (fun _ _ h2 => State.stlRestart_keeps h2)))⟩
  | frChStop =>
    exact ⟨_, rfl, State.command_keeps h (fun _ _ h1 => State.complete_keeps (State.frGroups_keeps h1
      (fun _ _ h2 => State.stlRun_keeps h2)))⟩
  | frIrqMask => exact ⟨_, rfl, State.command_keeps h (fun _ _ h1 => State.complete_keeps (State.frIrqMask_keeps h1))⟩
  | moderationTimeExpiry => exact ⟨_, rfl, State.modExpire_keeps h⟩
  | irqSourceEvent => exact ⟨_, rfl, State.sourceEvent_keeps h⟩
  | irqCoreClaimRead => exact ⟨_, rfl, State.readBy_keeps h (fun _ h1 => State.coreClaim_keeps h1)⟩
  | irqCoreEoiWrite => exact ⟨_, rfl, State.writeBy_keeps h (fun _ h1 => State.coreEoi_keeps h1)⟩
  | irqHostEoiWrite => exact ⟨_, rfl, State.writeBy_keeps h (fun _ h1 => State.hostEoi_keeps h1)⟩
  | irqPendSetWrite => exact ⟨_, rfl, State.writeBy_keeps h (fun _ h1 => State.pendSet_keeps h1)⟩
  | irqPendClrWrite => exact ⟨_, rfl, State.writeBy_keeps h (fun _ h1 => State.pendClr_keeps h1)⟩
  | irqMaskSetWrite => exact ⟨_, rfl, State.writeBy_keeps h (fun _ h1 => State.maskSet_keeps h1)⟩
  | irqMaskClrWrite => exact ⟨_, rfl, State.writeBy_keeps h (fun _ h1 => State.maskClr_keeps h1)⟩
  | irqSrcCfgWrite => exact ⟨_, rfl, State.writeBy_keeps h (fun _ h1 => State.srcCfg_keeps h1)⟩
  | irqFallback => exact ⟨_, rfl, State.fallBack_keeps h⟩
  | bootStep => exact ⟨_, rfl, State.bootStep_keeps h⟩
  | bootComplete => exact ⟨_, rfl, State.bootEnd_keeps h⟩
  | logEntryWrite => exact ⟨_, rfl, State.logOne_keeps h⟩
  | logSelWrite =>
    exact ⟨_, rfl, State.writeBy_keeps h (fun _ h1 => State.logSel_keeps (State.Keeps.ite (State.logBad_keeps h1) h1))⟩
  | tapInstruction => exact ⟨_, rfl, State.tap_keeps h⟩
  | xinRestored => exact ⟨_, rfl, State.clockBack_keeps h⟩
  | pcieRefclkRestored => exact ⟨_, rfl, State.refclkBack_keeps h⟩
  | pcieLinkUp => exact ⟨_, rfl, State.pcieUp_keeps h⟩
  | pcieConfigWrite => exact ⟨_, rfl, State.pcieConfig_keeps h⟩
  | pfailWarningReleased => exact ⟨_, rfl, State.pfailOver_keeps h⟩
  | vinRecovered => exact ⟨_, rfl, State.vinBack_keeps h⟩
  | holtidMemoryEcc => exact ⟨_, rfl, State.memEcc_keeps h⟩
  | yardDataRead => exact ⟨_, rfl, State.readBy_keeps h (fun _ h1 => State.yardRead_keeps h1)⟩
  | evtShadowRead => exact ⟨_, rfl, State.readBy_keeps h (fun _ h1 => State.evtShadowRead_keeps h1)⟩

/-- Settles O5: every row of the opcode table answers a next state, and none touches the queue. -/
theorem everyCommandActsAndLeavesTheQueue : Obligations.EveryCommandActsAndLeavesTheQueue := by
  intro c s hs
  obtain ⟨t, he, -, hq⟩ := exec_keeps ⟨hs, rfl⟩ c
  exact ⟨t, he, hq⟩

/-- Settles O1: a step takes the front of the queue. -/
theorem stepRunsTheFrontCommand : Obligations.StepRunsTheFrontCommand := fun _ _ _ => rfl

/-- Settles O2: with no command at the front the state stays. -/
theorem anEmptyQueueIdles : Obligations.AnEmptyQueueIdles := by
  intro s hs
  unfold step
  rw [hs]

/-- Settles O3: the reset state lists nothing. -/
theorem resetStateIsSound : Obligations.ResetStateIsSound := by
  unfold Obligations.ResetStateIsSound
  decide

/-- Settles O4: a step idles, or runs the command at the front on the state with the queue's rest, which is as sound. -/
theorem everyStepKeepsTheStateSound : Obligations.EveryStepKeepsTheStateSound := by
  intro s t hs hstep
  cases hq : s.pending with
  | nil =>
    rw [anEmptyQueueIdles s hq] at hstep
    cases hstep
    exact hs
  | cons c rest =>
    have hrun : step s = exec c { s with pending := rest } := by unfold step; rw [hq]
    obtain ⟨u, he, hu, -⟩ := exec_keeps (s := { s with pending := rest }) ⟨hs, rfl⟩ c
    rw [hrun, he] at hstep
    cases hstep
    exact hu

end Sys2Proof.Machine
end

section
/-! PMBus alerts (R248). -/

namespace Sys2Proof.Machine

open Sys2Proof

/-- The alert line rises, falls again while it is low, or falls with the host disabled: ALERT_IN follows it, and nothing else. -/
theorem State.pmbAlert_shows {s : State} {low : Bool}
    (h : low = false ∨ s.b F.PWR_PMB_CFG_EN = false ∨ s.b F.PWR_PMB_STAT_ALERT_IN = true) :
    s.pmbAlert low = s.setB F.PWR_PMB_STAT_ALERT_IN low := by
  unfold State.pmbAlert
  refine if_pos ?_
  rcases h with h | h | h <;> simp [h]

/-- What a fall of the alert line shows before the alert is answered. -/
def State.alertSeen (s : State) : State :=
  ((s.setB F.PWR_PMB_STAT_ALERT_IN true).setB F.PWR_PMB_STAT_ALERT_SEEN true).pulse 231

/-- The alert line falls. -/
theorem State.pmbAlert_falls {s : State} (hen : s.b F.PWR_PMB_CFG_EN = true) (hin : s.b F.PWR_PMB_STAT_ALERT_IN = false) :
    s.pmbAlert true = if s.b F.PWR_PMB_CFG_ALERT_ARA then s.alertSeen.pmbQueue .ara true else s.alertSeen.alertLog 0 := by
  have hara : s.alertSeen.b F.PWR_PMB_CFG_ALERT_ARA = s.b F.PWR_PMB_CFG_ALERT_ARA := by
    unfold State.alertSeen
    rw [State.b_pulse_frame, State.b_setB_other _ _ (by decide), State.b_setB_other _ _ (by decide)]
  unfold State.pmbAlert
  rw [if_neg (by simp [hen, hin]), ← hara]
  rfl

theorem State.pwr_alertSeen (s : State) : s.alertSeen.pwr = s.pwr := by simp [State.alertSeen]

/-- ALERT_SEEN after the fall. -/
theorem State.b_alertSeen (s : State) : s.alertSeen.b F.PWR_PMB_STAT_ALERT_SEEN = true :=
  (State.b_pulse_frame ..).trans (State.b_setB_same _ _ (by decide) rfl)

/-- What is set in a cycle is no interrupt source's. -/
theorem State.irq_note (s : State) (a : Nat) (new : Word → Word) : (s.note a new).irq = s.irq := by
  unfold State.note
  split
  · rfl
  · split <;> rfl

/-- A one-bit field is no interrupt source's. -/
theorem State.irq_setB (s : State) (x : Fld) (v : Bool) : (s.setB x v).irq = s.irq := by
  cases v
  · rfl
  · exact s.irq_note _ _

/-- A transaction that is queued starts on a free bus, and else comes next: but for BUSY no register shows it. -/
theorem State.pmbQueue_first (s : State) (j : PmbJob) :
    (s.pmbQueue j true).irq = s.irq ∧ (∀ y : Fld, y.addr = R.PWR_PMB_STAT → 1 ≤ y.lo → (s.pmbQueue j true).b y = s.b y)
      ∧ (s.pwr.job = none → (s.pmbQueue j true).pwr.job = some j)
      ∧ (s.pwr.job ≠ none → (s.pmbQueue j true).pwr.job = s.pwr.job ∧ (s.pmbQueue j true).pwr.jobs = j :: s.pwr.jobs) := by
  unfold State.pmbQueue
  split
  · rename_i hfree
    have hnone : s.pwr.job = none := by simpa using hfree
    refine ⟨State.irq_setB _ _ _, fun y hy hlo => ?_, fun _ => by unfold State.pmbStart; simp, fun h => absurd hnone h⟩
    exact State.b_setB_other _ _ (.inr (.inl hlo))
  · rename_i hfree
    exact ⟨rfl, fun _ _ _ => rfl, fun h => absurd (by simp [h]) hfree, fun _ => ⟨rfl, rfl⟩⟩

/-- The alert response in progress ends with one byte. -/
theorem State.pmbDone_ara {s : State} (d : Byte) (hjob : s.pwr.job = some .ara) :
    s.pmbDone (.ok [d]) = State.pmbNext (State.log
      ((s.setF F.PWR_PMB_ALERT_ADDR_ADDR (d.toNat / 2)).setB F.PWR_PMB_ALERT_ADDR_VALID true) .pwrPmbAlert wholeDevice (d.toNat / 2)) := by
  have hbyte : ofBytes (([d].map BitVec.toNat).take (s.pmbLen .ara)) = d.toNat := by
    show ofBytes [d.toNat] = d.toNat
    simp only [ofBytes, Nat.mul_zero, Nat.add_zero]
    exact Nat.mod_eq_of_lt d.isLt
  unfold State.pmbDone
  rw [hjob]
  simp only [hbyte, State.alertLog]
  rfl

/-- Settles O46: outside a fall with the host enabled only ALERT_IN follows the pin; a fall is logged, or its answer is read first. -/
theorem pmbusAlertsAreReadAndLogged : Obligations.PmbusAlertsAreReadAndLogged := by
  refine ⟨fun s => ⟨?_, fun h => ?_⟩, fun s hen hin => ⟨fun hara => ?_, fun hara => ?_⟩, fun d s hjob => ?_⟩
  · exact congrArg Host.Outcome.next (State.pmbAlert_shows (.inl rfl))
  · exact congrArg Host.Outcome.next (State.pmbAlert_shows (.inr h))
  · exact congrArg Host.Outcome.next ((State.pmbAlert_falls hen hin).trans (if_neg (by simp [hara])))
  · obtain ⟨hirq, hb, hfree, hbusy⟩ := s.alertSeen.pmbQueue_first .ara
    refine ⟨_, congrArg Host.Outcome.next ((State.pmbAlert_falls hen hin).trans (if_pos hara)), ?_, hirq, ?_⟩
    · exact (hb _ rfl (by decide)).trans s.b_alertSeen
    · rw [State.pwr_alertSeen] at hfree hbusy
      exact ⟨hfree, hbusy⟩
  · exact congrArg Host.Outcome.next (State.pmbDone_ara d hjob)

end Sys2Proof.Machine
end

section
/-! The trouble log: an entry written at HEAD, the logger's row, LOG_SEL (R391, R392, R395, R397). -/

namespace Sys2Proof.Machine

open Sys2Proof

/-! ### The entries -/

/-- The words of an entry that was just stored. -/
theorem State.logWord_logPut_same (s : State) (e a b c d : Nat) :
    (s.logPut e a b c d).logWord e 0 = BitVec.ofNat 32 a ∧ (s.logPut e a b c d).logWord e 1 = BitVec.ofNat 32 b
      ∧ (s.logPut e a b c d).logWord e 2 = BitVec.ofNat 32 c ∧ (s.logPut e a b c d).logWord e 3 = BitVec.ofNat 32 d := by
  simp [State.logPut, State.logWord, Sparse.get_set]

/-- Storing an entry leaves every other one alone. -/
theorem State.logWord_logPut_other (s : State) (e a b c d : Nat) {k w : Nat} (hk : k ≠ e) (hw : w < 4) :
    (s.logPut e a b c d).logWord k w = s.logWord k w := by
  have h : ∀ j, j < 4 → 4 * k + w ≠ 4 * e + j := fun j hj => by omega
  have h0 : 4 * k + w ≠ 4 * e := h 0 (by decide)
  simp [State.logPut, State.logWord, Sparse.get_set, h0, h]

/-- Storing an entry writes no register and leaves the logger's own state. -/
theorem State.logPut_leaves (s : State) (e a b c d : Nat) : (s.logPut e a b c d).regs = s.regs ∧ (s.logPut e a b c d).logQ = s.logQ
    ∧ (s.logPut e a b c d).logAt = s.logAt ∧ (s.logPut e a b c d).logTell = s.logTell ∧ (s.logPut e a b c d).logLost = s.logLost :=
  ⟨rfl, rfl, rfl, rfl, rfl⟩

/-- WRAPPED is set with the last entry of the ring (R392). -/
def State.logWrap (s : State) (e : Nat) : State := if e = 2047 then s.setB F.LOG_STAT_WRAPPED true else s

/-- The words of the entries once a report is written at HEAD. -/
def State.logStored (s : State) (x : Report) : State :=
  s.logPut (s.f F.LOG_STAT_HEAD) (x.time.toNat % 2 ^ 32) (x.time.toNat / 2 ^ 32 + x.beat * 2 ^ 16) (x.code.num + x.source * 2 ^ 16)
    (x.detail + x.code.sev * 2 ^ 24 + 2 ^ 26)

/-- Storing them writes no register and leaves the logger's own state. -/
theorem State.logStored_leaves (s : State) (x : Report) : (s.logStored x).regs = s.regs ∧ (s.logStored x).logQ = s.logQ
    ∧ (s.logStored x).logAt = s.logAt ∧ (s.logStored x).logTell = s.logTell ∧ (s.logStored x).logLost = s.logLost :=
  s.logPut_leaves ..

/-- HEAD moves on from entry `e`, and COUNT and SEQ take their values. -/
def State.logMoved (u : State) (e c q : Nat) : State :=
  (((u.setF F.LOG_STAT_HEAD (e + 1)).logWrap e).setF F.LOG_COUNT_COUNT c).setF F.LOG_SEQ_SEQ q

section
variable (s : State) (e c q : Nat)

theorem State.rd_logWrap {a : Nat} (h : a ≠ R.LOG_STAT) : (s.logWrap e).rd a = s.rd a := by
  unfold State.logWrap
  split
  · exact State.rd_setB_other _ _ h
  · rfl

theorem State.head_logWrap : (s.logWrap e).f F.LOG_STAT_HEAD = s.f F.LOG_STAT_HEAD := by
  unfold State.logWrap
  split
  · exact State.f_setB_other _ _ (by decide)
  · rfl

theorem State.wrapped_logWrap : (s.logWrap e).b F.LOG_STAT_WRAPPED = (s.b F.LOG_STAT_WRAPPED || decide (e = 2047)) := by
  unfold State.logWrap
  split
  · rename_i he
    rw [State.b_setB_same _ _ (by decide) rfl, he]
    simp
  · rename_i he
    simp [he]

theorem State.head_logMoved : (s.logMoved e c q).f F.LOG_STAT_HEAD = (e + 1) % 2048 := by
  unfold State.logMoved
  rw [State.f_setF_other _ _ (by decide), State.f_setF_other _ _ (by decide), State.head_logWrap]
  exact State.f_setF_same _ _ (by decide)

theorem State.wrapped_logMoved : (s.logMoved e c q).b F.LOG_STAT_WRAPPED = (s.b F.LOG_STAT_WRAPPED || decide (e = 2047)) := by
  unfold State.logMoved
  rw [State.b_setF_other _ _ (by decide), State.b_setF_other _ _ (by decide), State.wrapped_logWrap, State.b_setF_other _ _ (by decide)]

theorem State.count_logMoved (hc : c ≤ 2048) : (s.logMoved e c q).f F.LOG_COUNT_COUNT = c := by
  unfold State.logMoved
  rw [State.f_setF_other _ _ (by decide), State.f_setF_same _ _ (by decide)]
  exact Nat.mod_eq_of_lt (Nat.lt_of_le_of_lt hc (by decide))

theorem State.seq_logMoved : (s.logMoved e c q).f F.LOG_SEQ_SEQ = q % 2 ^ 24 := State.f_setF_same _ _ (by decide)

theorem State.rd_logMoved {a : Nat} (hstat : a ≠ R.LOG_STAT) (hcount : a ≠ R.LOG_COUNT) (hseq : a ≠ R.LOG_SEQ) :
    (s.logMoved e c q).rd a = s.rd a := by
  unfold State.logMoved
  rw [State.rd_setF_other _ _ hseq, State.rd_setF_other _ _ hcount, State.rd_logWrap _ _ hstat, State.rd_setF_other _ _ hstat]

/-- What the logger keeps beside its registers stays. -/
theorem State.logMoved_logger : (s.logMoved e c q).logQ = s.logQ ∧ (s.logMoved e c q).logAt = s.logAt
    ∧ (s.logMoved e c q).logTell = s.logTell ∧ (s.logMoved e c q).logLost = s.logLost ∧ (s.logMoved e c q).logW = s.logW := by
  unfold State.logMoved State.logWrap
  split <;> simp

theorem State.logWord_logMoved (k w : Nat) : (s.logMoved e c q).logWord k w = s.logWord k w := by
  unfold State.logWord
  rw [(s.logMoved_logger e c q).2.2.2.2]

end

/-- A report as an entry: its words are stored, and HEAD moves on. -/
theorem State.logEntry_eq (s : State) (x : Report) : s.logEntry x = (s.logStored x).logMoved (s.f F.LOG_STAT_HEAD)
    (min 2048 (s.f F.LOG_COUNT_COUNT + toBit (!s.logValid (s.f F.LOG_STAT_HEAD)))) (s.f F.LOG_SEQ_SEQ + 1) := rfl

/-- The four words of the entry that a report becomes. -/
theorem State.logWord_logEntry_same (s : State) (x : Report) : let e := s.f F.LOG_STAT_HEAD
    (s.logEntry x).logWord e 0 = BitVec.ofNat 32 (x.time.toNat % 2 ^ 32)
      ∧ (s.logEntry x).logWord e 1 = BitVec.ofNat 32 (x.time.toNat / 2 ^ 32 + x.beat * 2 ^ 16)
      ∧ (s.logEntry x).logWord e 2 = BitVec.ofNat 32 (x.code.num + x.source * 2 ^ 16)
      ∧ (s.logEntry x).logWord e 3 = BitVec.ofNat 32 (x.detail + x.code.sev * 2 ^ 24 + 2 ^ 26) := by
  simp only [State.logEntry_eq, State.logWord_logMoved]
  exact s.logWord_logPut_same ..

/-- Every other entry stays. -/
theorem State.logWord_logEntry_other (s : State) (x : Report) {k w : Nat} (hk : k ≠ s.f F.LOG_STAT_HEAD) (hw : w < 4) :
    (s.logEntry x).logWord k w = s.logWord k w := by
  rw [State.logEntry_eq, State.logWord_logMoved]
  exact s.logWord_logPut_other _ _ _ _ _ hk hw

/-- The registers of the log after a report is written. -/
theorem State.logEntry_shows (s : State) (x : Report) :
    (s.logEntry x).f F.LOG_STAT_HEAD = (s.f F.LOG_STAT_HEAD + 1) % 2048
      ∧ (s.logEntry x).b F.LOG_STAT_WRAPPED = (s.b F.LOG_STAT_WRAPPED || decide (s.f F.LOG_STAT_HEAD = 2047))
      ∧ (s.logEntry x).f F.LOG_COUNT_COUNT = min 2048 (s.f F.LOG_COUNT_COUNT + toBit (!s.logValid (s.f F.LOG_STAT_HEAD)))
      ∧ (s.logEntry x).f F.LOG_SEQ_SEQ = (s.f F.LOG_SEQ_SEQ + 1) % 2 ^ 24
      ∧ ∀ a, a ≠ R.LOG_STAT → a ≠ R.LOG_COUNT → a ≠ R.LOG_SEQ → (s.logEntry x).rd a = s.rd a := by
  obtain ⟨hregs, -⟩ := s.logStored_leaves x
  rw [State.logEntry_eq]
  refine ⟨State.head_logMoved .., ?_, State.count_logMoved _ _ _ _ (Nat.min_le_left ..), State.seq_logMoved .., fun a h1 h2 h3 => ?_⟩
  · rw [State.wrapped_logMoved, State.b_congr hregs]
  · rw [State.rd_logMoved _ _ _ _ h1 h2 h3, State.rd_congr hregs]

/-- Writing a report leaves what the logger keeps beside its registers. -/
theorem State.logEntry_logger (s : State) (x : Report) : (s.logEntry x).logQ = s.logQ ∧ (s.logEntry x).logAt = s.logAt
    ∧ (s.logEntry x).logTell = s.logTell ∧ (s.logEntry x).logLost = s.logLost := by
  obtain ⟨-, kq, kat, ktell, klost⟩ := s.logStored_leaves x
  obtain ⟨hq, hat, htell, hlost, -⟩ := (s.logStored x).logMoved_logger (s.f F.LOG_STAT_HEAD)
    (min 2048 (s.f F.LOG_COUNT_COUNT + toBit (!s.logValid (s.f F.LOG_STAT_HEAD)))) (s.f F.LOG_SEQ_SEQ + 1)
  rw [State.logEntry_eq]
  exact ⟨hq.trans kq, hat.trans kat, htell.trans ktell, hlost.trans klost⟩

/-! ### The logger's row -/

/-- The logger may write: outside IDLE, SYS_RESET written, 4 SYSCLK cycles after the entry before, and a report waits. -/
theorem State.logOne_writes {s : State} (hmode : s.mode ≠ 3) (hhold : s.logHold = false) (hfree : s.logFree = true)
    (hq : s.logQ ≠ []) : s.logOne = s.logNext := by
  have hsleep : s.coreSleeps = false := by simp [State.coreSleeps, hmode]
  unfold State.logOne
  rw [if_neg (by simp [hq, hsleep, hfree]), if_neg (by simp [hhold])]

/-- The oldest report is taken from the queue and written. -/
theorem State.logNext_report {s : State} {x : Report} {xs : List Report} (htell : s.logTell = false) (hq : s.logQ = x :: xs) :
    s.logNext = State.logEntry { s with logQ := xs, logTell := decide (xs.length = 16) && s.logLost != 0, logAt := some s.ctlNow } x := by
  unfold State.logNext
  rw [if_neg (by simp [htell]), hq]

/-- SYS_LOG_LOST is written with the number of dropped reports. -/
theorem State.logNext_lost {s : State} (htell : s.logTell = true) :
    s.logNext = State.logEntry { s with logTell := false, logLost := 0, logAt := some s.ctlNow }
      ⟨s.now, s.tb.beat.toNat % 2 ^ 16, .sysLogLost, wholeDevice, s.logLost⟩ := by
  unfold State.logNext
  exact if_pos htell

/-! ### LOG_SEL -/

/-- The copies of a requester's LOG_DATA after words are latched there. -/
theorem State.snapRd_latches (f : Nat → Word) (r : Requester) (s : State) {n w : Nat} (hw : w < n) :
    (overList (List.range n) (fun x i => x.latch r (R.LOG_DATA i) (f i)) s).snapRd r (R.LOG_DATA w) = f w := by
  induction n with
  | zero => omega
  | succ n ih =>
    unfold overList
    rw [List.range_succ, List.foldl_append]
    by_cases h : w = n
    · rw [h]
      exact State.snapRd_latch_same ..
    · refine (State.snapRd_latch_other _ _ _ _ _ _ ?_).trans (ih (by omega))
      unfold bank R.LOG_DATA
      omega

/-- Another requester's copies stay. -/
theorem State.snapRd_latches_other (f : Nat → Word) {r q : Requester} (hq : q ≠ r) (s : State) {n b : Nat} (hn : n ≤ 4)
    (hb : b < 2 ^ 24) :
    (overList (List.range n) (fun x i => x.latch r (R.LOG_DATA i) (f i)) s).snapRd q b = s.snapRd q b := by
  induction n with
  | zero => rfl
  | succ n ih =>
    unfold overList
    rw [List.range_succ, List.foldl_append]
    refine (State.snapRd_latch_other _ r q (R.LOG_DATA n) b (f n) (bank_ne hq ?_ hb)).trans (ih (by omega))
    unfold R.LOG_DATA
    omega

/-- Latches write no register and no entry. -/
theorem State.latches_leave (f : Nat → Word) (r : Requester) (s : State) (l : List Nat) :
    (overList l (fun x i => x.latch r (R.LOG_DATA i) (f i)) s).regs = s.regs
      ∧ (overList l (fun x i => x.latch r (R.LOG_DATA i) (f i)) s).logW = s.logW :=
  ⟨overList_leaves (f := fun x i => x.latch r (R.LOG_DATA i) (f i)) State.regs (fun _ _ => rfl) l s,
    overList_leaves (f := fun x i => x.latch r (R.LOG_DATA i) (f i)) State.logW (fun _ _ => rfl) l s⟩

section
variable (s : State) (r : Requester) (v : Word)

theorem State.index_logSel : (s.logSel r v).f F.LOG_SEL_INDEX = getBits v 0 11 := by
  unfold State.logSel
  rw [State.f_congr (State.latches_leave _ _ _ _).1, State.f_setF_same _ _ (by decide)]
  exact Nat.mod_eq_of_lt (getBits_lt v 0 11)

theorem State.snapRd_logSel {w : Nat} (hw : w < 4) : (s.logSel r v).snapRd r (R.LOG_DATA w) = s.logWord (getBits v 0 11) w :=
  State.snapRd_latches (s.logWord (getBits v 0 11)) r _ hw

theorem State.snapRd_logSel_other {q : Requester} (hq : q ≠ r) {b : Nat} (hb : b < 2 ^ 24) :
    (s.logSel r v).snapRd q b = s.snapRd q b :=
  State.snapRd_latches_other (s.logWord (getBits v 0 11)) hq _ (Nat.le_refl 4) hb

theorem State.logW_logSel : (s.logSel r v).logW = s.logW := (State.latches_leave _ _ _ _).2

theorem State.rd_logSel {a : Nat} (h : a ≠ R.LOG_SEL) : (s.logSel r v).rd a = s.rd a := by
  unfold State.logSel
  rw [State.rd_congr (State.latches_leave _ _ _ _).1, State.rd_setF_other _ _ h]

theorem exec_logSelWrite_served {r : Requester} {s : State} (v : Word) (bad : Bool) (h : s.writesReach r) :
    exec (.logSelWrite r v bad) s = .next ((if bad then s.logBad (getBits v 0 11) else s).logSel r v) :=
  congrArg Host.Outcome.next (s.writeBy_served _ _ h)

end

/-- An entry found bad reads as 0, and COUNT falls by one. -/
theorem State.logBad_valid {s : State} {e : Nat} (h : s.logValid e = true) :
    s.logBad e = (s.logPut e 0 0 0 0).setF F.LOG_COUNT_COUNT (s.f F.LOG_COUNT_COUNT - 1) := if_pos h

theorem State.logWord_logBad_same {s : State} {e : Nat} (h : s.logValid e = true) {w : Nat} (hw : w < 4) :
    (s.logBad e).logWord e w = 0 := by
  obtain ⟨h0, h1, h2, h3⟩ := s.logWord_logPut_same e 0 0 0 0
  rw [State.logBad_valid h]
  interval_cases w
  · exact h0
  · exact h1
  · exact h2
  · exact h3

theorem State.logWord_logBad_other {s : State} {e : Nat} (h : s.logValid e = true) {k w : Nat} (hk : k ≠ e) (hw : w < 4) :
    (s.logBad e).logWord k w = s.logWord k w := by
  rw [State.logBad_valid h]
  exact s.logWord_logPut_other e 0 0 0 0 hk hw

theorem State.count_logBad {s : State} {e : Nat} (h : s.logValid e = true) :
    (s.logBad e).f F.LOG_COUNT_COUNT = s.f F.LOG_COUNT_COUNT - 1 := by
  have hlt : s.f F.LOG_COUNT_COUNT < 2 ^ 12 := getBits_lt ..
  rw [State.logBad_valid h, State.f_setF_same _ _ (by decide)]
  exact Nat.mod_eq_of_lt (Nat.lt_of_le_of_lt (Nat.sub_le ..) hlt)

/-- Settles O15: the logger's row is one entry at HEAD, of the oldest report or of SYS_LOG_LOST; LOG_SEL latches the words as they stand
once a bad entry has been cleared. -/
theorem logWritesTheOldestReport : Obligations.LogWritesTheOldestReport := by
  refine ⟨fun s x xs hmode hhold htell hfree hq => ?report, fun s hfree => ?busy, fun s hmode hhold htell hfree hq => ?lost,
    fun r v s hreach => ?select, fun r v s hreach hvalid => ?selectBad⟩
  case report =>
    have hrow := (State.logOne_writes hmode hhold hfree (by simp [hq])).trans (State.logNext_report htell hq)
    generalize hu : ({ s with logQ := xs, logTell := decide (xs.length = 16) && s.logLost != 0, logAt := some s.ctlNow } : State) = u at hrow
    have hf : ∀ y, u.f y = s.f y := fun y => by rw [← hu]; rfl
    have hb : ∀ y, u.b y = s.b y := fun y => by rw [← hu]; rfl
    have hw : ∀ k w, u.logWord k w = s.logWord k w := fun k w => by rw [← hu]; rfl
    have hv : ∀ k, u.logValid k = s.logValid k := fun k => congrArg (BitVec.getLsbD · 26) (hw k 3)
    obtain ⟨kq, kat, ktell, -⟩ := u.logEntry_logger x
    obtain ⟨w0, w1, w2, w3⟩ := u.logWord_logEntry_same x
    obtain ⟨hhead, hwrap, hcount, hseq, hrd⟩ := u.logEntry_shows x
    simp only [hf, hb, hv] at w0 w1 w2 w3 hhead hwrap hcount hseq
    refine ⟨_, congrArg Host.Outcome.next hrow, kq.trans (by rw [← hu]), kat.trans (by rw [← hu]), ktell.trans (by rw [← hu]),
      w0, w1, w2, w3, fun e w he hlt => (u.logWord_logEntry_other x (by rwa [hf]) hlt).trans (hw e w), hhead, hwrap, hcount, hseq,
      fun a h1 h2 h3 => (hrd a h1 h2 h3).trans (by rw [← hu]; rfl)⟩
  case busy =>
    refine congrArg Host.Outcome.next ?_
    unfold State.logOne
    exact if_pos (by simp [hfree])
  case lost =>
    have hrow := (State.logOne_writes hmode hhold hfree hq).trans (State.logNext_lost htell)
    generalize hu : ({ s with logTell := false, logLost := 0, logAt := some s.ctlNow } : State) = u at hrow
    have hhead : u.f F.LOG_STAT_HEAD = s.f F.LOG_STAT_HEAD := by rw [← hu]; rfl
    obtain ⟨kq, -, ktell, klost⟩ := u.logEntry_logger ⟨s.now, s.tb.beat.toNat % 2 ^ 16, .sysLogLost, wholeDevice, s.logLost⟩
    obtain ⟨-, -, w2, w3⟩ := u.logWord_logEntry_same ⟨s.now, s.tb.beat.toNat % 2 ^ 16, .sysLogLost, wholeDevice, s.logLost⟩
    rw [hhead] at w2 w3
    simp only [LogCode.num, LogCode.sev, wholeDevice, Nat.one_mul] at w2 w3
    exact ⟨_, congrArg Host.Outcome.next hrow, kq.trans (by rw [← hu]), klost.trans (by rw [← hu]), ktell.trans (by rw [← hu]), w2, w3⟩
  case select =>
    exact ⟨_, exec_logSelWrite_served v false hreach, s.index_logSel r v, fun w hw => s.snapRd_logSel r v hw,
      fun q b hq hb => s.snapRd_logSel_other r v hq hb, s.logW_logSel r v, fun a ha => s.rd_logSel r v ha⟩
  case selectBad =>
    have hcopy : ∀ k w, ((s.logBad (getBits v 0 11)).logSel r v).logWord k w = (s.logBad (getBits v 0 11)).logWord k w := fun k w =>
      congrArg (fun m => Sparse.get (fun _ => (0 : Word)) m (4 * k + w)) (State.logW_logSel _ r v)
    refine ⟨_, exec_logSelWrite_served v true hreach, State.index_logSel _ r v, fun w hw => ⟨?_, ?_⟩, fun e w he hw => ?_, ?_⟩
    · exact (State.snapRd_logSel _ r v hw).trans (State.logWord_logBad_same hvalid hw)
    · exact (hcopy _ w).trans (State.logWord_logBad_same hvalid hw)
    · exact (hcopy e w).trans (State.logWord_logBad_other hvalid he hw)
    · exact (State.f_of_rd (State.rd_logSel _ r v (by decide))).trans (State.count_logBad hvalid)

end Sys2Proof.Machine
end

section
/-! Why O60 fails: a source may keep, as its SENSE before a write, a value that the two-bit field cannot hold. -/

namespace Sys2Proof.Machine

open Sys2Proof

/-- Source 0 keeps 5 as its SENSE of this cycle, where the field has two bits: `State.sense` then reads 5. -/
def noSense : State := { irq := [(0, { wasSense := some (5, 0) })] }

/-- Refutes O60: under no SENSE of R364 the pulse sets neither the edge latch nor the level, so the source does not become pending. -/
theorem not_interruptSourcesPendAndAreServed : ¬ Obligations.InterruptSourcesPendAndAreServed := by
  unfold Obligations.InterruptSourcesPendAndAreServed
  rintro ⟨hpulse, -⟩
  obtain ⟨t, ht, -, -, hpend, -⟩ := hpulse 0 noSense (by decide) (by decide) (by decide) (by decide)
  cases ht
  exact absurd (hpend (by decide)) (by decide +kernel)

end Sys2Proof.Machine
end

section
/-! The resets (R242, R383, R386): the state after a reset is the reset state but for the words and parts that the reset keeps. -/

namespace Sys2Proof.Machine

open Sys2Proof

/-! ### Writes of words while the time base stands -/

/-- The two states differ in register words alone. -/
def State.WordsOnly (s t : State) : Prop := t = { s with regs := t.regs }

theorem State.wordsOnly_refl (s : State) : s.WordsOnly s := rfl

theorem State.WordsOnly.wr {s t : State} (h : s.WordsOnly t) (a : Nat) (w : Word) : s.WordsOnly (t.wr a w) := by
  unfold State.WordsOnly at h ⊢
  rw [h]
  rfl

theorem State.WordsOnly.running {s t : State} (h : s.WordsOnly t) : t.tb.running = s.tb.running := by
  rw [h]

/-- With the time base halted a set leaves no trace beside the word (R9). -/
theorem State.note_halted {s : State} (h : s.tb.running = false) (a : Nat) (new : Word → Word) : s.note a new = s := by
  unfold State.note
  rw [h]
  rfl

theorem State.setB_halted {s : State} (h : s.tb.running = false) (x : Fld) (v : Bool) : s.setB x v = s.setF x (toBit v) := by
  unfold State.setB
  rw [State.note_halted h, ite_self]

theorem State.WordsOnly.setB {s t : State} (h : s.WordsOnly t) (hs : s.tb.running = false) (x : Fld) (v : Bool) :
    s.WordsOnly (t.setB x v) := by
  rw [State.setB_halted (h.running.trans hs)]
  exact h.wr _ _

theorem State.WordsOnly.flag {s t : State} (h : s.WordsOnly t) (hs : s.tb.running = false) (a k : Nat) :
    s.WordsOnly (t.flag a k) := by
  unfold State.flag
  rw [State.note_halted (h.running.trans hs)]
  exact h.wr _ _

/-- A bit of a word after a field was written. -/
theorem State.getLsbD_setF (s : State) (x : Fld) (v a i : Nat) : ((s.setF x v).rd a).getLsbD i =
    if a = x.addr ∧ x.lo ≤ i ∧ i < x.lo + x.len ∧ i < 32 then v.testBit (i - x.lo) else (s.rd a).getLsbD i := by
  unfold State.setF
  rw [State.rd_wr]
  by_cases ha : a = x.addr
  · subst ha
    rw [if_pos rfl, getLsbD_setBits]
    simp only [true_and]
  · rw [if_neg ha, if_neg (fun h => ha h.1)]

/-- A one-bit field's word after the field is set follows from that word alone. -/
theorem State.rd_setB_own {s y : State} {x : Fld} (v : Bool) (h : s.rd x.addr = y.rd x.addr) :
    (s.setB x v).rd x.addr = (y.setB x v).rd x.addr := by
  rw [State.rd_congr (State.regs_setB s x v), State.rd_congr (State.regs_setB y x v)]
  unfold State.setF
  rw [State.rd_wr_same, State.rd_wr_same, h]

/-! ### The cold reset -/

theorem State.rd_reset (a : Nat) : State.reset.rd a = regReset a := rfl

/-- The reset state with what a cold reset leaves of the power-up sequence. -/
def State.coldBase (s : State) (pos : SeqPos) : State :=
  { State.reset with free := s.free, pending := s.pending, pwr := { State.reset.pwr with seq := pos, seqFailLog := s.pwr.seqFailLog } }

theorem State.rd_coldBase (s : State) (pos : SeqPos) (a : Nat) : (s.coldBase pos).rd a = regReset a := rfl

theorem State.coldReset_words (s : State) (causes : Nat) (pos : SeqPos) : (s.coldBase pos).WordsOnly (s.coldReset causes pos) :=
  ((State.wordsOnly_refl _).wr _ _).wr _ _

theorem State.mode_coldReset (s : State) (causes : Nat) (pos : SeqPos) : (s.coldReset causes pos).mode = 0 :=
  State.f_setF_same _ 0 (by decide)

theorem State.rd_coldReset (s : State) (causes : Nat) (pos : SeqPos) {a : Nat} (hc : a ≠ R.PWR_RST_CAUSE) (hm : a ≠ R.SYS_MODE) :
    (s.coldReset causes pos).rd a = regReset a :=
  (State.rd_setF_other _ 0 hm).trans (State.rd_wr_other _ _ hc)

theorem State.cause_coldReset (s : State) (causes : Nat) (pos : SeqPos) :
    (s.coldReset causes pos).rd R.PWR_RST_CAUSE = BitVec.ofNat 32 causes :=
  (State.rd_setF_other _ 0 (by decide)).trans (State.rd_wr_same _ _ _)

theorem State.modeBits_coldReset (s : State) (causes : Nat) (pos : SeqPos) {i : Nat} (hi : 3 ≤ i) :
    ((s.coldReset causes pos).rd R.SYS_MODE).getLsbD i = (regReset R.SYS_MODE).getLsbD i := by
  refine (State.getLsbD_setF _ F.SYS_MODE_MODE 0 _ i).trans ?_
  rw [if_neg (fun h => absurd (show i < 3 from h.2.2.1) (by omega)), State.rd_wr_other _ _ (by decide)]
  rfl

/-- The bit of a cold reset's cause, and the place in the power-up sequence that it leaves (R242). -/
def coldBit : ColdCause → Nat
  | .por => 1
  | .brownoutCore => 2
  | .brownoutIo => 4

def coldPlace : ColdCause → SeqPos
  | .por => .off
  | _ => .vdd33

theorem State.coldRow_eq {s : State} (h : s.sys.reboot = none) (c : ColdCause) (withPin : Bool) :
    s.coldRow c withPin = s.coldReset (coldBit c + 8 * toBit withPin) (coldPlace c) := by
  unfold State.coldRow
  rw [h]
  cases c <;> rfl

/-! ### The warm reset -/

/-- The reset state with the parts that a warm reset keeps (R383). -/
def State.warmBase (s : State) : State :=
  { State.reset with
    logW := s.logW, logLost := s.logLost, free := s.free, pending := s.pending,
    pwr := { State.reset.pwr with seq := s.pwr.seq, seqFails := s.pwr.seqFails, seqFailLog := s.pwr.seqFailLog },
    sys := { State.reset.sys with patch := s.sys.patch, check := !s.sys.patch.isEmpty } }

/-- The words that a warm reset keeps whole. -/
def keptWords : List Nat := [R.LOG_STAT, R.LOG_COUNT, R.LOG_SEQ, R.LOG_LOST, R.PWR_RST_CAUSE]

def State.withKept (s : State) : State := overList keptWords (fun x a => x.wr a (s.rd a)) s.warmBase

/-- The one-word writes of a warm reset over the kept words, in their order. -/
theorem State.warmReset_eq (s : State) (bit straps : Nat) : s.warmReset bit straps =
    ((((((s.logDrain.withKept.setB F.SYS_CLK_STAT_LOSS_SEEN (s.logDrain.b F.SYS_CLK_STAT_LOSS_SEEN)).setF F.PWR_SEQ_CTL_LEVEL
      (s.logDrain.f F.PWR_SEQ_CTL_LEVEL)).setB F.SYS_BOOT_PATCH_STAGED (!s.logDrain.sys.patch.isEmpty)).flag R.PWR_RST_CAUSE bit).wr
      R.SYS_STRAP (BitVec.ofNat 32 (straps % 32))).setF F.SYS_HOST_STAT_HOSTSEL (straps % 4)) := rfl

theorem State.withKept_words (s : State) : s.warmBase.WordsOnly s.withKept :=
  (((((State.wordsOnly_refl _).wr _ _).wr _ _).wr _ _).wr _ _).wr _ _

theorem State.warmReset_words (s : State) (bit straps : Nat) : s.logDrain.warmBase.WordsOnly (s.warmReset bit straps) := by
  rw [State.warmReset_eq]
  exact (((((s.logDrain.withKept_words.setB rfl _ _).wr _ _).setB rfl _ _).flag rfl _ _).wr _ _).wr _ _

theorem State.rd_withKept_kept (s : State) {a : Nat} (h : a ∈ keptWords) : s.withKept.rd a = s.rd a := by
  simp only [keptWords, List.mem_cons, List.not_mem_nil, or_false] at h
  unfold State.withKept overList keptWords
  simp only [List.foldl_cons, List.foldl_nil, State.rd_wr]
  obtain rfl | rfl | rfl | rfl | rfl := h <;> rfl

theorem State.rd_withKept_other (s : State) {a : Nat} (h : a ∉ keptWords) : s.withKept.rd a = regReset a := by
  simp only [keptWords, List.mem_cons, List.not_mem_nil, or_false, not_or] at h
  obtain ⟨h1, h2, h3, h4, h5⟩ := h
  unfold State.withKept overList keptWords
  simp only [List.foldl_cons, List.foldl_nil, State.rd_wr, h1, h2, h3, h4, h5, if_false]
  rfl

/-- The words that a warm reset writes beside the kept ones. -/
def warmWords : List Nat := [R.SYS_CLK_STAT, R.PWR_SEQ_CTL, R.SYS_BOOT, R.PWR_RST_CAUSE, R.SYS_STRAP, R.SYS_HOST_STAT]

theorem State.rd_warmReset (s : State) (bit straps : Nat) {a : Nat} (h : a ∉ warmWords) :
    (s.warmReset bit straps).rd a = s.logDrain.withKept.rd a := by
  simp only [warmWords, List.mem_cons, List.not_mem_nil, or_false, not_or] at h
  obtain ⟨h1, h2, h3, h4, h5, h6⟩ := h
  rw [State.warmReset_eq, State.rd_setF_other _ _ h6, State.rd_wr_other _ _ h5, State.rd_flag_other _ _ h4,
    State.rd_setB_other _ _ h3, State.rd_setF_other _ _ h2, State.rd_setB_other _ _ h1]

/-! A word of a warm reset is read where it was written last. -/

section
variable (s : State) (bit straps : Nat)

theorem State.rd_warmReset_clk : (s.warmReset bit straps).rd R.SYS_CLK_STAT =
    (s.logDrain.withKept.setB F.SYS_CLK_STAT_LOSS_SEEN (s.logDrain.b F.SYS_CLK_STAT_LOSS_SEEN)).rd R.SYS_CLK_STAT := by
  rw [State.warmReset_eq, State.rd_setF_other _ _ (by decide), State.rd_wr_other _ _ (by decide), State.rd_flag_other _ _ (by decide),
    State.rd_setB_other _ _ (by decide), State.rd_setF_other _ _ (by decide)]

theorem State.rd_warmReset_seq : (s.warmReset bit straps).rd R.PWR_SEQ_CTL =
    ((s.logDrain.withKept.setB F.SYS_CLK_STAT_LOSS_SEEN (s.logDrain.b F.SYS_CLK_STAT_LOSS_SEEN)).setF F.PWR_SEQ_CTL_LEVEL
      (s.logDrain.f F.PWR_SEQ_CTL_LEVEL)).rd R.PWR_SEQ_CTL := by
  rw [State.warmReset_eq, State.rd_setF_other _ _ (by decide), State.rd_wr_other _ _ (by decide), State.rd_flag_other _ _ (by decide),
    State.rd_setB_other _ _ (by decide)]

theorem State.rd_warmReset_boot : (s.warmReset bit straps).rd R.SYS_BOOT =
    (s.logDrain.withKept.setB F.SYS_BOOT_PATCH_STAGED (!s.logDrain.sys.patch.isEmpty)).rd R.SYS_BOOT := by
  rw [State.warmReset_eq, State.rd_setF_other _ _ (by decide), State.rd_wr_other _ _ (by decide), State.rd_flag_other _ _ (by decide)]
  refine State.rd_setB_own (x := F.SYS_BOOT_PATCH_STAGED) _ ?_
  exact (State.rd_setF_other _ _ (by decide)).trans (State.rd_setB_other _ _ (by decide))

theorem State.rd_warmReset_cause : (s.warmReset bit straps).rd R.PWR_RST_CAUSE =
    s.logDrain.rd R.PWR_RST_CAUSE ||| BitVec.ofNat 32 (2 ^ bit) := by
  rw [State.warmReset_eq, State.rd_setF_other _ _ (by decide), State.rd_wr_other _ _ (by decide), State.rd_flag_same,
    State.rd_setB_other _ _ (by decide), State.rd_setF_other _ _ (by decide), State.rd_setB_other _ _ (by decide),
    State.rd_withKept_kept _ (by decide)]

theorem State.rd_warmReset_strap : (s.warmReset bit straps).rd R.SYS_STRAP = BitVec.ofNat 32 (straps % 32) := by
  rw [State.warmReset_eq, State.rd_setF_other _ _ (by decide), State.rd_wr_same]

theorem State.rd_warmReset_host (i : Nat) : ((s.warmReset bit straps).rd R.SYS_HOST_STAT).getLsbD i =
    if 10 ≤ i ∧ i < 12 ∧ i < 32 then (straps % 4).testBit (i - 10) else (regReset R.SYS_HOST_STAT).getLsbD i := by
  rw [State.warmReset_eq, State.getLsbD_setF, State.rd_wr_other _ _ (by decide), State.rd_flag_other _ _ (by decide),
    State.rd_setB_other _ _ (by decide), State.rd_setF_other _ _ (by decide), State.rd_setB_other _ _ (by decide),
    State.rd_withKept_other _ (by decide)]
  exact if_congr (and_iff_right rfl) rfl rfl

theorem State.lossSeen_warmReset :
    (s.warmReset bit straps).b F.SYS_CLK_STAT_LOSS_SEEN = s.logDrain.b F.SYS_CLK_STAT_LOSS_SEEN :=
  (State.b_of_rd (x := F.SYS_CLK_STAT_LOSS_SEEN) (s.rd_warmReset_clk bit straps)).trans (State.b_setB_same _ _ (by decide) rfl)

theorem State.level_warmReset : (s.warmReset bit straps).f F.PWR_SEQ_CTL_LEVEL = s.logDrain.f F.PWR_SEQ_CTL_LEVEL := by
  rw [State.f_of_rd (x := F.PWR_SEQ_CTL_LEVEL) (s.rd_warmReset_seq bit straps), State.f_setF_same _ _ (by decide)]
  exact Nat.mod_eq_of_lt (getBits_lt _ _ _)

theorem State.staged_warmReset :
    (s.warmReset bit straps).b F.SYS_BOOT_PATCH_STAGED = !s.logDrain.sys.patch.isEmpty :=
  (State.b_of_rd (x := F.SYS_BOOT_PATCH_STAGED) (s.rd_warmReset_boot bit straps)).trans (State.b_setB_same _ _ (by decide) rfl)

theorem State.hostSel_warmReset : (s.warmReset bit straps).f F.SYS_HOST_STAT_HOSTSEL = straps % 4 := by
  rw [State.warmReset_eq, State.f_setF_same _ _ (by decide)]
  exact Nat.mod_mod _ _

/-- Beside the four fields that a warm reset sets, their words hold their reset values. -/
theorem State.warmReset_beside {x : Fld} (hx : x ∈ [F.SYS_CLK_STAT_LOSS_SEEN, F.PWR_SEQ_CTL_LEVEL, F.SYS_BOOT_PATCH_STAGED,
    F.SYS_HOST_STAT_HOSTSEL]) {i : Nat} (hi : i < x.lo ∨ x.lo + x.len ≤ i) :
    ((s.warmReset bit straps).rd x.addr).getLsbD i = (regReset x.addr).getLsbD i := by
  simp only [List.mem_cons, List.not_mem_nil, or_false] at hx
  obtain rfl | rfl | rfl | rfl := hx
  · replace hi : i < 5 ∨ 5 + 1 ≤ i := hi
    rw [show F.SYS_CLK_STAT_LOSS_SEEN.addr = R.SYS_CLK_STAT from rfl, State.rd_warmReset_clk, State.getLsbD_setB _ _ rfl,
      if_neg (fun h => absurd (show i = 5 from h.2.1) (by omega)), State.rd_withKept_other _ (by decide)]
  · replace hi : i < 4 ∨ 4 + 6 ≤ i := hi
    rw [show F.PWR_SEQ_CTL_LEVEL.addr = R.PWR_SEQ_CTL from rfl, State.rd_warmReset_seq, State.getLsbD_setF,
      if_neg (fun h => absurd (show 4 ≤ i ∧ i < 4 + 6 from ⟨h.2.1, h.2.2.1⟩) (by omega)), State.rd_setB_other _ _ (by decide),
      State.rd_withKept_other _ (by decide)]
  · replace hi : i < 3 ∨ 3 + 1 ≤ i := hi
    rw [show F.SYS_BOOT_PATCH_STAGED.addr = R.SYS_BOOT from rfl, State.rd_warmReset_boot, State.getLsbD_setB _ _ rfl,
      if_neg (fun h => absurd (show i = 3 from h.2.1) (by omega)), State.rd_withKept_other _ (by decide)]
  · replace hi : i < 10 ∨ 10 + 2 ≤ i := hi
    rw [show F.SYS_HOST_STAT_HOSTSEL.addr = R.SYS_HOST_STAT from rfl, State.rd_warmReset_host, if_neg (by omega)]

end

/-- RESET_N low for 1 us or more, outside OFF, is a warm reset with bit 3 of the causes (R242). -/
theorem State.pinReset_acts {s : State} {ns : Nat} (straps : Nat) (hns : 1000 ≤ ns) (hm : s.mode ≠ 0) :
    s.pinReset ns straps = s.warmReset 3 straps :=
  if_pos (by simp [hns, hm])

theorem State.pinReset_idle {s : State} {ns : Nat} (straps : Nat) (h : ns < 1000 ∨ s.mode = 0) : s.pinReset ns straps = s := by
  refine if_neg ?_
  obtain h | h := h
  · simp [Nat.not_le.mpr h]
  · simp [h]

/-- Settles O47: a reset is the reset state with register words alone written over it, and each word reads as written last. -/
theorem resetsLeaveResetValues : Obligations.ResetsLeaveResetValues := by
  refine ⟨fun c withPin s h => ?_, fun ns st s hns hm => ?_, fun ns st s h => congrArg Host.Outcome.next (State.pinReset_idle _ h)⟩
  · refine ⟨_, congrArg Host.Outcome.next (State.coldRow_eq h c withPin), ?_, State.mode_coldReset _ _ _,
      fun a hc hm => State.rd_coldReset _ _ _ hc hm, fun i hi => State.modeBits_coldReset _ _ _ hi, ?_⟩
    · refine (State.coldReset_words _ _ _).trans ?_
      cases c <;> rfl
    · rw [State.cause_coldReset]
      cases c <;> cases withPin <;> rfl
  · refine ⟨_, congrArg Host.Outcome.next (State.pinReset_acts _ hns hm), s.warmReset_words 3 _, fun i hi => ?_,
      s.lossSeen_warmReset 3 _, s.level_warmReset 3 _, s.staged_warmReset 3 _, ?_, s.hostSel_warmReset 3 _, fun a ha => ?_, fun a ha => ?_,
      fun x hx i _ hi => s.warmReset_beside 3 _ hx hi⟩
    · rw [State.rd_warmReset_cause, BitVec.getLsbD_or, BitVec.getLsbD_ofNat, Nat.testBit_two_pow, decide_eq_true hi, Bool.true_and]
      rw [eq_comm, beq_eq_decide, decide_eq_decide.mpr eq_comm]
    · rw [State.rd_warmReset_strap, Nat.mod_eq_of_lt st.isLt]
    · rw [State.rd_warmReset, State.rd_withKept_kept]
      · obtain rfl | rfl | rfl | rfl := ha <;> decide
      · obtain rfl | rfl | rfl | rfl := ha <;> decide
    · rw [State.rd_warmReset, State.rd_withKept_other]
      · exact fun hk => ha (by revert hk; simp only [keptWords, List.mem_cons]; tauto)
      · exact fun hk => ha (by revert hk; simp only [warmWords, List.mem_cons]; tauto)

end Sys2Proof.Machine
end

section
/-! What a change of mode leaves alone (R121, R378, Tables 18.2 to 18.4): the power manager, the device's own state, the troughs'
pointers, and of the words of SYS and PWR all but the few that it is about. -/

namespace Sys2Proof.Machine

open Sys2Proof

/-- The words of SYS and PWR but SYS_TWIN, SYS_SAFE_CNT and PWR_VSG_STAT, and the CFG words of the troughs. -/
def devWords (a : Nat) : Prop :=
  (a < 0x2000 ∧ a ≠ R.SYS_TWIN ∧ a ≠ R.SYS_SAFE_CNT ∧ a ≠ R.PWR_VSG_STAT) ∨ (0x114000 ≤ a ∧ a < 0x115000 ∧ a % 0x40 = 4)

/-- A word between PWR and the troughs is none of them. -/
theorem not_devWords_mid {a : Nat} (h : 0x2000 ≤ a) (k : a < 0x114000 ∨ 0x115000 ≤ a ∨ a % 0x40 ≠ 4) : ¬devWords a := by
  unfold devWords
  omega

theorem not_devWords_logLost : ¬devWords R.LOG_LOST := not_devWords_mid (by decide) (.inl (by decide))

/-- The registers of the mailboxes lie above the troughs. -/
theorem not_devWords_mbx {a : Nat} (h : 0x120000 ≤ a) : ¬devWords a := not_devWords_mid (by omega) (.inr (.inl (by omega)))

/-- From `s` to `t` those words, the power manager, the device's own state and the troughs' pointers are as they were. -/
structure State.DevLeaves (s t : State) : Prop where
  rd : ∀ a, devWords a → t.rd a = s.rd a
  pwr : t.pwr = s.pwr
  sys : t.sys = s.sys
  tq : ∀ q, t.tq q = s.tq q

namespace State.DevLeaves

variable {s t u : State}

theorem refl (s : State) : s.DevLeaves s := ⟨fun _ _ => rfl, rfl, rfl, fun _ => rfl⟩

theorem trans (h : s.DevLeaves t) (k : t.DevLeaves u) : s.DevLeaves u :=
  ⟨fun a ha => (k.rd a ha).trans (h.rd a ha), k.pwr.trans h.pwr, k.sys.trans h.sys, fun q => (k.tq q).trans (h.tq q)⟩

/-- An update of anything that `DevLeaves` does not speak of. -/
theorem same (hr : t.regs = s.regs) (hp : t.pwr = s.pwr) (hs : t.sys = s.sys) (hq : t.trg = s.trg) : s.DevLeaves t :=
  ⟨fun a _ => State.rd_congr hr a, hp, hs, fun q => by unfold State.tq; rw [hq]⟩

theorem ite {c : Prop} [Decidable c] (ht : s.DevLeaves t) (hu : s.DevLeaves u) : s.DevLeaves (if c then t else u) := by
  split
  · exact ht
  · exact hu

/-- A fold of an operation that leaves them leaves them. -/
theorem overList {α : Type} {f : State → α → State} (hf : ∀ x a, State.DevLeaves x (f x a)) (l : List α) (s : State) :
    s.DevLeaves (Machine.overList l f s) :=
  overList_rel refl trans hf l s

theorem foldl {α : Type} {f : State → α → State} (hf : ∀ x a, State.DevLeaves x (f x a)) (l : List α) (s : State) :
    s.DevLeaves (l.foldl f s) := overList hf l s

/-- A fold whose state is the first of a pair. -/
theorem foldPair {α β : Type} {f : State × β → α → State × β} (hf : ∀ y a, State.DevLeaves y.1 (f y a).1) (l : List α)
    (x : State × β) : State.DevLeaves x.1 (l.foldl f x).1 := by
  induction l generalizing x with
  | nil => exact refl x.1
  | cons a l ih => exact (hf x a).trans (ih (f x a))

theorem f (h : s.DevLeaves t) {x : Fld} (hx : devWords x.addr) : t.f x = s.f x := State.f_of_rd (h.rd _ hx)

theorem b (h : s.DevLeaves t) {x : Fld} (hx : devWords x.addr) : t.b x = s.b x := State.b_of_rd (h.rd _ hx)

theorem mode (h : s.DevLeaves t) : t.mode = s.mode := h.f (x := F.SYS_MODE_MODE) (.inl (by decide))

end State.DevLeaves

/-! ### Words, counts, reports and lines -/

section
variable (s : State)

theorem State.wr_devLeaves {a : Nat} (w : Word) (ha : ¬devWords a) : s.DevLeaves (s.wr a w) :=
  ⟨fun _ hb => State.rd_wr_other s w (fun h => ha (h ▸ hb)), rfl, rfl, fun _ => rfl⟩

theorem State.setF_devLeaves {x : Fld} (v : Nat) (hx : ¬devWords x.addr) : s.DevLeaves (s.setF x v) := s.wr_devLeaves _ hx

theorem State.note_devLeaves (a : Nat) (new : Word → Word) : s.DevLeaves (s.note a new) :=
  ⟨fun b _ => State.rd_note_frame s a new b, State.pwr_note_frame s a new, State.sys_note_frame s a new,
    State.tq_note_frame s a new⟩

theorem State.setB_devLeaves {x : Fld} (v : Bool) (hx : ¬devWords x.addr) : s.DevLeaves (s.setB x v) :=
  (State.DevLeaves.ite (s.note_devLeaves _ _) (.refl s)).trans (State.setF_devLeaves _ _ hx)

theorem State.bump_devLeaves {a : Nat} (ha : ¬devWords a) : s.DevLeaves (s.bump a) :=
  (s.note_devLeaves _ _).trans (State.wr_devLeaves _ _ ha)

theorem State.pulse_devLeaves (g : Nat) : s.DevLeaves (s.pulse g) :=
  ⟨fun a _ => State.rd_pulse_frame s g a, State.pwr_pulse_frame s g, State.sys_pulse_frame s g, State.tq_pulse_frame s g⟩

theorem State.log_devLeaves (c : LogCode) (x d : Nat) : s.DevLeaves (s.log c x d) :=
  ⟨fun a ha => State.rd_log s c x d (by rintro rfl; exact not_devWords_logLost ha), State.pwr_log_frame s c x d, State.sys_log_frame s c x d,
    State.tq_log_frame s c x d⟩

theorem State.logOnceFor_devLeaves (c : LogCode) (k x d : Nat) : s.DevLeaves (s.logOnceFor c k x d) :=
  State.DevLeaves.ite (.refl s) ((s.log_devLeaves c x d).trans (.same rfl rfl rfl rfl))

theorem State.level_devLeaves (g : Nat) (l : Bool) : s.DevLeaves (s.level g l) :=
  (State.DevLeaves.ite (s.note_devLeaves _ _) (.refl s)).trans (.same rfl rfl rfl rfl)

theorem State.setHold_devLeaves (c : Nat) (x : Hold) : s.DevLeaves (s.setHold c x) := .same rfl rfl rfl rfl
theorem State.setMb_devLeaves (m : Nat) (x : Mbx) : s.DevLeaves (s.setMb m x) := .same rfl rfl rfl rfl
theorem State.setVlv_devLeaves (n : Nat) (x : Valve) : s.DevLeaves (s.setVlv n x) := .same rfl rfl rfl rfl
theorem State.setBk_devLeaves (b : Nat) (x : Bank) : s.DevLeaves (s.setBk b x) := .same rfl rfl rfl rfl
theorem State.setPin_devLeaves (p : Nat) (x : Pin) : s.DevLeaves (s.setPin p x) := .same rfl rfl rfl rfl

/-! ### The end of a Holtid command (R339) -/

theorem State.yardWrite_devLeaves (r : Requester) (o : Nat) (v : Word) (be : BitVec 4) : s.DevLeaves (s.yardWrite r o v be) := by
  have hyard : ¬devWords (R.YARD (o - o % 4)) := not_devWords_mid (by simp only [R.YARD]; omega) (.inr (.inl (by simp only [R.YARD]; omega)))
  have hviol : s.DevLeaves (s.yardViolation (o / 256)) :=
    (s.bump_devLeaves (not_devWords_mbx (by decide))).trans (State.logOnceFor_devLeaves _ _ _ _ _)
  exact State.DevLeaves.ite (.refl s) (State.DevLeaves.ite (s.wr_devLeaves _ hyard) hviol)

theorem State.yardPutBytes_devLeaves (r : Requester) (o : Nat) (bs : List Nat) : s.DevLeaves (s.yardPutBytes r o bs) :=
  State.DevLeaves.foldPair (fun y _ => State.yardWrite_devLeaves y.1 _ _ _ _) bs (s, o)

theorem State.writeResult_devLeaves (page status detail : Nat) (result : List Nat) :
    s.DevLeaves (s.writeResult page status detail result) :=
  State.DevLeaves.ite (.refl s) ((s.yardPutBytes_devLeaves _ _ _).trans (State.yardPutBytes_devLeaves _ _ _ _))

theorem State.handBack_devLeaves (p : Nat) : s.DevLeaves (s.handBack p) :=
  State.DevLeaves.ite (.same rfl rfl rfl rfl) (.refl s)

/-- The registers of any mailbox are none of those words. -/
theorem State.setMbxF_devLeaves (m k lo len v : Nat) (hk : k < 0x20) : s.DevLeaves (s.setF ⟨0x120000 + m * 0x40 + k, lo, len⟩ v) :=
  s.setF_devLeaves v (not_devWords_mbx (by show 0x120000 ≤ 0x120000 + m * 0x40 + k; omega))

theorem State.slotDone_devLeaves (m : Nat) : s.DevLeaves (s.slotDone m) :=
  (s.setMbxF_devLeaves m 0xc _ _ _ (by decide)).trans (State.DevLeaves.overList (fun x j => x.setMb_devLeaves j _) _ _)

theorem State.showHold_devLeaves (c : Nat) : s.DevLeaves (s.showHold c) := by
  have hcls : ∀ v, s.DevLeaves (s.setF F.MBX_SLEEP_HELD_CLS v) := fun v => s.setF_devLeaves v (not_devWords_mbx (by decide))
  exact State.DevLeaves.ite ((hcls _).trans (State.setMbxF_devLeaves _ c 0x8 _ _ _ (by decide))) (hcls _)

theorem State.releaseHold_devLeaves (c : Nat) : s.DevLeaves (s.releaseHold c) :=
  State.DevLeaves.ite (.refl s) (((s.setHold_devLeaves c {}).trans (State.showHold_devLeaves _ c)).trans (State.pulse_devLeaves _ _))

theorem State.holdOne_devLeaves (c : Nat) : s.DevLeaves (s.holdOne c) :=
  (s.setHold_devLeaves c _).trans (State.showHold_devLeaves _ c)

theorem State.modPulse_devLeaves (c : Nat) : s.DevLeaves (s.modPulse c) := by
  have hone := s.holdOne_devLeaves c
  have hpend : s.DevLeaves { (s.holdOne c).setB F.MBX_SLEEP_WAKE_PEND true with wakeLow := true } :=
    (hone.trans (State.setB_devLeaves _ true (not_devWords_mbx (by decide)))).trans (.same rfl rfl rfl rfl)
  have hpme : ∀ x : State, ∀ p, x.DevLeaves { x with pcie := p } := fun _ _ => .same rfl rfl rfl rfl
  unfold State.modPulse
  exact State.DevLeaves.ite (s.pulse_devLeaves _) (State.DevLeaves.ite
    (State.DevLeaves.ite (State.DevLeaves.ite (hpend.trans (hpme _ _)) hpend) hone)
    (State.DevLeaves.ite (s.pulse_devLeaves _) (State.DevLeaves.ite (hone.trans (State.releaseHold_devLeaves _ c)) hone)))

theorem State.endCommand_devLeaves (src status detail : Nat) (result : List Nat) (free_ : Bool) :
    s.DevLeaves (s.endCommand src status detail result free_) := by
  unfold State.endCommand
  split
  · exact .refl s
  · rename_i v _
    extract_lets lost d res st s1 box s2 s3
    have h1 : s.DevLeaves s1 := (s.writeResult_devLeaves _ _ _ _).trans (State.DevLeaves.overList State.handBack_devLeaves _ _)
    have h2 : s.DevLeaves s2 := (h1.trans (State.handBack_devLeaves _ _)).trans (State.setMb_devLeaves _ _ _)
    have h3 : s.DevLeaves s3 := (h2.trans (State.setB_devLeaves s2 (x := F.MBX_STAT_SERVING src) false
      (not_devWords_mbx (by simp only [F.MBX_STAT_SERVING, R.MBX_STAT]; omega)))).trans (State.slotDone_devLeaves _ _)
    exact State.DevLeaves.ite (.same rfl rfl rfl rfl) (State.DevLeaves.ite (State.DevLeaves.ite (h3.trans (State.pulse_devLeaves _ _)) (h3.trans (State.modPulse_devLeaves _ _))) h3)

theorem State.complete_devLeaves (src status detail : Nat) (result : List Nat) : s.DevLeaves (s.complete src status detail result) :=
  s.endCommand_devLeaves src status detail result false

/-! ### The valves (R200, R213, R215, R216, R233) -/

theorem State.bankSettle_devLeaves (b : Nat) : s.DevLeaves (s.bankSettle b) := by
  have hgate : ∀ x n, State.DevLeaves x (State.gateSettle x n) := fun x n => by
    unfold State.gateSettle
    extract_lets v on s1
    have h1 : x.DevLeaves s1 := State.DevLeaves.ite (.refl x) (x.setPin_devLeaves _ _)
    exact h1.trans (State.setVlv_devLeaves _ _ _)
  unfold State.bankSettle
  extract_lets s1 k want k1 rests k2 s2
  have h1 : s.DevLeaves s1 := State.DevLeaves.overList hgate (bankChans b) s
  exact (h1.trans (s1.setBk_devLeaves b k2)).trans (s2.setBk_devLeaves b _)

theorem State.vFail_devLeaves (o : VOwner) (status detail : Nat) : s.DevLeaves (s.vFail o status detail) := by
  cases o with
  | ev => exact .refl s
  | holtid src => exact s.complete_devLeaves _ _ _ _

theorem State.vOk_devLeaves (n : Nat) (o : VOwner) : s.DevLeaves (s.vOk n o) := by
  cases o with
  | ev => exact .refl s
  | holtid src => exact s.complete_devLeaves _ _ _ _

theorem State.cancelState_devLeaves (n : Nat) : s.DevLeaves (s.cancelState n) := by
  unfold State.cancelState State.cancelWait
  dsimp only
  split
  · exact .refl s
  · exact State.DevLeaves.trans (t := (s.unqueue n).setVlv n _) (.same rfl rfl rfl rfl) (State.vFail_devLeaves _ _ _ _)

/-- The words of a channel, of any number, are none of the troughs' CFG words. -/
theorem not_devWords_vlv {n k : Nat} (hk : k % 0x40 ≠ 4) : ¬devWords (0x108000 + n * 0x100 + k) :=
  not_devWords_mid (by omega) (.inr (.inr (by omega)))

theorem State.grant_devLeaves (n : Nat) : s.DevLeaves (s.grant n) := by
  unfold State.grant
  extract_lets b v
  split
  · exact .refl s
  · rename_i w _
    extract_lets ts dur v1 s1 s2 s3
    have h1 : s.DevLeaves s1 := (s.setVlv_devLeaves n v1).trans (State.setBk_devLeaves _ _ _)
    have h2 : s.DevLeaves s2 := (h1.trans (s1.setF_devLeaves _ (not_devWords_vlv (k := 0x28) (by decide)))).trans
      ((State.setF_devLeaves _ _ (not_devWords_vlv (k := 0x1c) (by decide))).trans
        (State.setF_devLeaves _ _ (not_devWords_vlv (k := 0x20) (by decide))))
    have h3 : s.DevLeaves s3 := h2.trans (State.bump_devLeaves _ (by
      split
      · exact not_devWords_vlv (k := 0x38) (by decide)
      · exact not_devWords_vlv (k := 0x30) (by decide)))
    exact h3.trans (State.vOk_devLeaves _ _ _)

theorem State.decay_devLeaves (n : Nat) : s.DevLeaves (s.decay n) := by
  have hfree : ∀ x, State.DevLeaves x (x.boostFree n) := fun x => by
    unfold State.boostFree
    extract_lets b k s1 s2
    have h2 : x.DevLeaves s2 := (x.setBk_devLeaves b _).trans (s1.setF_devLeaves _ (not_devWords_vlv (k := 0x2c) (by decide)))
    refine State.DevLeaves.ite (.refl x) ?_
    split
    · exact h2
    · exact h2.trans (State.grant_devLeaves _ _)
  exact State.DevLeaves.ite (.refl s) ((s.setVlv_devLeaves n _).trans (hfree _))

theorem State.vStop_devLeaves (n : Nat) : s.DevLeaves (s.vStop n) :=
  ((s.cancelState_devLeaves n).trans (State.decay_devLeaves _ n)).trans (State.bankSettle_devLeaves _ _)

theorem State.cancelSupply_devLeaves (n : Nat) : s.DevLeaves (s.cancelSupply n) := by
  unfold State.cancelSupply
  dsimp only
  split
  · exact .refl s
  · exact State.DevLeaves.ite ((s.cancelState_devLeaves n).trans (State.setVlv_devLeaves _ _ _)) (s.cancelState_devLeaves n)

theorem State.vEndAll_devLeaves {cancel stop : State → Nat → State} (l : List Nat) (hc : ∀ x n, State.DevLeaves x (cancel x n))
    (hs : ∀ x n, State.DevLeaves x (stop x n)) : s.DevLeaves (s.vEndAll l cancel stop) :=
  (State.DevLeaves.overList hc l s).trans (.overList hs l _)

theorem State.valvesStop_devLeaves : s.DevLeaves s.valvesStop :=
  s.vEndAll_devLeaves _ State.cancelState_devLeaves State.vStop_devLeaves

theorem State.bstCompare_devLeaves : s.DevLeaves s.bstCompare := by
  have hst : ¬devWords R.BST_STAT := not_devWords_mid (by decide) (.inl (by decide))
  have seen : ∀ (x : State) (y : Fld) (c : LogCode), ¬devWords y.addr →
      x.DevLeaves (((x.setB y true).pulse 224).log c wholeDevice 0) := fun x y c hy =>
    ((x.setB_devLeaves true hy).trans (State.pulse_devLeaves _ _)).trans (State.log_devLeaves _ _ _ _)
  unfold State.bstCompare
  extract_lets v watched ov low s1 s2 charging s3
  have h1 : s.DevLeaves s1 := .ite (seen s _ _ hst) (.refl s)
  have h2 : s.DevLeaves s2 := .ite (h1.trans (seen s1 _ _ hst)) h1
  have h3 : s.DevLeaves s3 := ((h2.trans (State.setB_devLeaves _ _ hst)).trans (State.setB_devLeaves _ _ hst)).trans
    (State.setB_devLeaves _ _ hst)
  exact h3.trans (.same rfl rfl rfl rfl)

theorem State.guardSettle_devLeaves : s.DevLeaves s.guardSettle := by
  unfold State.guardSettle
  extract_lets was on s1 s2 ends
  have h1 : s.DevLeaves s1 := s.setB_devLeaves _ (by unfold devWords; decide)
  have h2 : s.DevLeaves s2 := h1.trans (State.DevLeaves.overList (fun x n => x.setB_devLeaves _ (not_devWords_vlv (k := 0xac) (by decide))) _ _)
  exact (h2.trans (State.vEndAll_devLeaves _ _ State.cancelSupply_devLeaves State.vStop_devLeaves)).trans
    (State.bstCompare_devLeaves _)

theorem State.modeSettle_devLeaves : s.DevLeaves s.modeSettle :=
  s.guardSettle_devLeaves.trans (.overList State.bankSettle_devLeaves _ _)

end

end Sys2Proof.Machine
end

section
/-! The changes of mode themselves (R121, R378, R382): SYS_MODE takes the mode, and what `DevLeaves` speaks of stays. -/

namespace Sys2Proof.Machine

open Sys2Proof

/-- A fold that leaves them with the members of its list leaves them. -/
theorem State.DevLeaves.overMem {α : Type} {f : State → α → State} {l : List α} (hf : ∀ x a, a ∈ l → State.DevLeaves x (f x a))
    (s : State) : s.DevLeaves (Machine.overList l f s) := by
  induction l generalizing s with
  | nil => exact .refl s
  | cons a l ih => exact (hf s a List.mem_cons_self).trans (ih (fun x b hb => hf x b (List.mem_cons_of_mem a hb)) _)

theorem State.DevLeaves.overRange {f : State → Nat → State} {n : Nat} (hf : ∀ x i, i < n → State.DevLeaves x (f x i)) (s : State) :
    s.DevLeaves (Machine.overList (List.range n) f s) :=
  .overMem (fun x i hi => hf x i (List.mem_range.mp hi)) s

section
variable (s : State)

theorem State.setTr_devLeaves (n : Nat) (x : Tracker) : s.DevLeaves (s.setTr n x) := .same rfl rfl rfl rfl
theorem State.setTe_devLeaves (n : Nat) (x : TrkEv) : s.DevLeaves (s.setTe n x) := .same rfl rfl rfl rfl
theorem State.setSl_devLeaves (k : Nat) (x : Slot) : s.DevLeaves (s.setSl k x) := .same rfl rfl rfl rfl
theorem State.setStl_devLeaves (k : Nat) (x : Stall) : s.DevLeaves (s.setStl k x) := .same rfl rfl rfl rfl
theorem State.setSrc_devLeaves (g : Nat) (x : Irq) : s.DevLeaves (s.setSrc g x) := .same rfl rfl rfl rfl
theorem State.setPart_devLeaves (n : Nat) (x : Part) : s.DevLeaves (s.setPart n x) := .same rfl rfl rfl rfl
theorem State.setEng_devLeaves (n : Nat) (x : Eng) : s.DevLeaves (s.setEng n x) := .same rfl rfl rfl rfl
theorem State.setRn_devLeaves (n : Nat) (x : Runner) : s.DevLeaves (s.setRn n x) := .same rfl rfl rfl rfl

theorem State.latch_devLeaves (r : Requester) (a : Nat) (w : Word) : s.DevLeaves (s.latch r a w) := .same rfl rfl rfl rfl

/-- The words of the sheds and below are none of them. -/
theorem not_devWords_shed {a : Nat} (h : 0x2000 ≤ a) (k : a < 0x114000) : ¬devWords a := not_devWords_mid h (.inl k)

/-! ### Trackers and events (R106, R110, R117, R382) -/

theorem State.forceEnd_devLeaves (sh slot : Nat) : s.DevLeaves (s.forceEnd sh slot) := by
  have hin : ∀ t, s.DevLeaves (s.inject sh slot t).2 := fun t => by
    unfold State.inject
    split
    · exact s.setB_devLeaves _ (not_devWords_shed (by decide) (by decide))
    · exact .refl s
  have hput : ∀ x a, State.DevLeaves x (x.putAct a) := fun x a => State.DevLeaves.ite (.refl x) (.same rfl rfl rfl rfl)
  have hdrop : ∀ x, State.DevLeaves x (x.dropEnds sh slot) := fun x => .same rfl rfl rfl rfl
  unfold State.forceEnd State.placeEnd
  extract_lets k x floor t0
  refine State.DevLeaves.ite (.refl s) ?_
  split
  · exact State.DevLeaves.ite ((((hin t0).trans (hdrop _)).trans (State.setSl_devLeaves _ _ _)).trans (hput _ _)) (.refl s)
  · exact ((hin t0).trans (State.setSl_devLeaves _ _ _)).trans (hput _ _)

theorem State.unload_devLeaves (sh slot : Nat) : s.DevLeaves (s.unload sh slot) := s.setSl_devLeaves _ _

theorem State.evStall_devLeaves (n : Nat) : s.DevLeaves (s.evStall n) :=
  (State.DevLeaves.foldl (fun x (e : Nat × Nat) => State.DevLeaves.ite (x.forceEnd_devLeaves e.1 e.2) (.refl x)) _ s).trans
    (State.setTe_devLeaves _ _ _)

theorem State.evLoss_devLeaves (n : Nat) : s.DevLeaves (s.evLoss n) := by
  have hslot : ∀ x (e : Nat × Nat), State.DevLeaves x (
      let y := x.sl (slotKey e.1 e.2)
      if y.st = .armed then x.unload e.1 e.2
      else if y.ev.endOnStall then x.forceEnd e.1 e.2
      else if y.ev.tgtType = 2 || y.ev.form || y.ev.maxDur ≠ 0 then x
      else x.forceEnd e.1 e.2) := fun x e =>
    State.DevLeaves.ite (x.unload_devLeaves _ _) (State.DevLeaves.ite (x.forceEnd_devLeaves _ _)
      (State.DevLeaves.ite (.refl x) (x.forceEnd_devLeaves _ _)))
  have hdrop : ∀ x : State, x.DevLeaves (x.dropPoints n) := fun x => .same rfl rfl rfl rfl
  exact ((State.DevLeaves.foldl hslot _ s).trans (hdrop _)).trans (State.setTe_devLeaves _ _ _)

theorem State.setSt_devLeaves (n : Nat) (hn : n < 16) (new : TState) : s.DevLeaves (s.setSt n new) := by
  unfold State.setSt
  extract_lets t old tracking was s0 t1 s1 e1 s2
  have h0 : s.DevLeaves s0 := State.DevLeaves.ite
    (s.bump_devLeaves (not_devWords_shed (by simp only [R.WHL_CNT_LOSS]; omega) (by simp only [R.WHL_CNT_LOSS]; omega))) (.refl s)
  have h1 : s.DevLeaves s1 := (h0.trans (State.setTr_devLeaves _ _ _)).trans (State.pulse_devLeaves _ _)
  have h2 : s.DevLeaves s2 := State.DevLeaves.ite ((h1.trans (State.setTe_devLeaves _ _ _)).trans (State.evStall_devLeaves _ n))
    (State.DevLeaves.ite (h1.trans (State.evLoss_devLeaves _ n)) h1)
  have hte : ∀ x, s.DevLeaves (s2.setTe n x) := fun x => h2.trans (State.setTe_devLeaves _ _ _)
  exact State.DevLeaves.ite (.refl s) (State.DevLeaves.ite (hte _) (State.DevLeaves.ite (hte _) (State.DevLeaves.ite (hte _) h2)))

theorem State.trkAllAcquire_devLeaves : s.DevLeaves s.trkAllAcquire :=
  .overRange (fun x n hn => State.DevLeaves.ite (.refl x) ((x.setTr_devLeaves n _).trans (State.setSt_devLeaves _ n hn _))) s

theorem State.cutEdges_devLeaves (p : Nat) : s.DevLeaves (s.cutEdges p) := s.setPin_devLeaves _ _

theorem State.dropEdges_devLeaves (gone : Nat → Bool) : s.DevLeaves (s.dropEdges gone) :=
  State.DevLeaves.trans (t := { s with flight := s.flight.filter (fun e => !gone e.pin) }) (.same rfl rfl rfl rfl)
    (.overList State.cutEdges_devLeaves _ _)

theorem State.evClear_devLeaves : s.DevLeaves s.evClear := by
  unfold State.evClear
  extract_lets s1
  have h1 : s.DevLeaves s1 := State.DevLeaves.foldl (fun x e => x.setSl_devLeaves _ _) _ s
  have h2 : s1.DevLeaves { s1 with placed := [], points := [], deferred := [] } := .same rfl rfl rfl rfl
  exact (h1.trans h2).trans (.overList State.cutEdges_devLeaves _ _)

/-! ### Engines and runners (R173, R189, R195) -/

theorem State.engStop_devLeaves (n : Nat) : s.DevLeaves (s.engStop n) :=
  State.DevLeaves.ite (.refl s) (State.DevLeaves.ite ((s.setEng_devLeaves n _).trans (State.setPart_devLeaves _ _ _)) (s.setEng_devLeaves n _))

theorem State.engFirsts_devLeaves : s.DevLeaves s.engFirsts := by
  refine .overList (fun x n => ?_) _ s
  unfold State.engFirst
  extract_lets e s1
  have h1 : x.DevLeaves s1 := x.setEng_devLeaves _ _
  exact State.DevLeaves.ite (State.DevLeaves.ite (h1.trans (State.engStop_devLeaves _ n)) h1) (.refl x)

theorem State.engWake_devLeaves : s.DevLeaves s.engWake :=
  .overList (fun x n => State.DevLeaves.ite (x.setEng_devLeaves n _) (.refl x)) _ s

theorem State.engIdle_devLeaves : s.DevLeaves s.engIdle :=
  .overList (fun x n => State.DevLeaves.ite ((x.setEng_devLeaves n _).trans (State.setPart_devLeaves _ _ _))
    (State.DevLeaves.ite (.refl x) (x.setEng_devLeaves n _))) _ s

theorem State.engReset_devLeaves {n : Nat} (hn : n ≤ 16) : s.DevLeaves (s.engReset n) := by
  unfold State.engReset State.engClear
  extract_lets e s1 s2
  have h1 : s.DevLeaves s1 := .overRange (fun x i hi => x.wr_devLeaves _
    (not_devWords_shed (by simp only [R.SHD_ENG_G]; omega) (by simp only [R.SHD_ENG_G]; omega))) s
  have h2 : s1.DevLeaves s2 := by
    have hw : ∀ x i, i < 16 → State.DevLeaves x (x.wr (R.SHD_ENG_T n i) 0) := fun x i hi => x.wr_devLeaves _
      (not_devWords_shed (by simp only [R.SHD_ENG_T]; omega) (by simp only [R.SHD_ENG_T]; omega))
    exact (((hw _ 12 (by decide)).trans (hw _ 13 (by decide))).trans (hw _ 14 (by decide))).trans (hw _ 15 (by decide))
  exact ((h1.trans h2).trans (State.setEng_devLeaves _ _ _)).trans (.overList (fun x g => x.setSrc_devLeaves g _) _ _)

theorem State.rnStop_devLeaves (n : Nat) : s.DevLeaves (s.rnStop n) := by
  unfold State.rnStop State.rnHaltNow
  extract_lets s1
  have h1 : s.DevLeaves s1 := State.DevLeaves.ite (s.setRn_devLeaves n _) (.refl s)
  exact State.DevLeaves.ite (.refl s) (h1.trans (State.setRn_devLeaves _ _ _))

/-! ### Twin pairs at the exit from CONFIG (R25, R29) -/

theorem State.pinStatic_devLeaves (p : Nat) : s.DevLeaves (s.pinStatic p) := s.setPin_devLeaves _ _

/-- The words of a shed of a pair. -/
theorem not_devWords_page {n k : Nat} (hn : n ≤ 16) (hk : k < 0x2000) : ¬devWords (0x60000 + n * 0x2000 + k) :=
  not_devWords_shed (by omega) (by omega)

theorem State.twinCopy_devLeaves {a : Nat} (ha : a < 16) : s.DevLeaves (s.twinCopy a) := by
  unfold State.twinCopy
  extract_lets s1
  have h1 : s.DevLeaves s1 := .overRange (fun x i hi => by
    extract_lets k x1 x2 x3
    have hk : k = 24 * a + i := rfl
    clear_value k
    have h1 : x.DevLeaves x1 := .overRange (fun y w hw => y.wr_devLeaves _
      (not_devWords_shed (by simp only [R.STL_CTL]; omega) (by simp only [R.STL_CTL]; omega))) x
    have h2 : x1.DevLeaves x2 := .overRange (fun y w hw => y.wr_devLeaves _
      (not_devWords_shed (by simp only [R.STL_SAVE]; omega) (by simp only [R.STL_SAVE]; omega))) x1
    have h3 : x2.DevLeaves x3 := .overList (fun y r => y.latch_devLeaves r _ _) _ x2
    exact ((h1.trans h2).trans h3).trans (State.setStl_devLeaves _ _ _)) s
  exact (h1.trans (s1.setEng_devLeaves _ _)).trans ((State.level_devLeaves _ _ _).trans (State.level_devLeaves _ _ _))

theorem not_devWords_tioCfg {p : Nat} (hp : p < 160) : ¬devWords (R.TIO_CFG p) :=
  not_devWords_shed (by simp only [R.TIO_CFG]; omega) (by simp only [R.TIO_CFG]; omega)

theorem State.shadowStatic_devLeaves (sh : Nat) : s.DevLeaves (s.shadowStatic sh) := .same rfl rfl rfl rfl

theorem State.setTb_devLeaves (b : TimeSt) : s.DevLeaves { s with tb := b } := .same rfl rfl rfl rfl

theorem State.twinOn_devLeaves {a : Nat} (ha : a < 16) : s.DevLeaves (s.twinOn a) := by
  unfold State.twinOn
  extract_lets s1 s2 gone s3 b s4
  have h1 : s.DevLeaves s1 := ((s.twinCopy_devLeaves ha).trans (State.engReset_devLeaves _ (by omega))).trans
    (State.engReset_devLeaves _ (by omega))
  have h2 : s.DevLeaves s2 := h1.trans (.overList (fun x i => x.setSl_devLeaves _ _) _ _)
  have h3 : s2.DevLeaves s3 := (s2.shadowStatic_devLeaves (a + 1)).trans (State.dropEdges_devLeaves _ gone.contains)
  have h4 : s3.DevLeaves s4 := s3.setTb_devLeaves _
  refine ((h2.trans h3).trans h4).trans (.overMem (fun x p hp => ?_) s4)
  have hlt : p < 160 := List.mem_range.mp (List.mem_filter.mp hp).1
  exact ((x.setF_devLeaves _ (not_devWords_tioCfg hlt)).trans (State.setF_devLeaves _ _ (not_devWords_tioCfg hlt))).trans
    (State.pinStatic_devLeaves _ p)

theorem State.twinOff_devLeaves {a : Nat} (ha : a < 16) : s.DevLeaves (s.twinOff a) := by
  unfold State.twinOff
  extract_lets mine s1 s2 s3 s4
  have hkeep : s.DevLeaves (s.bankKeep a) := .overRange (fun x k hk => (x.wr_devLeaves _
    (not_devWords_shed (by simp only [R.IRQ_SRC_CFG, priv]; omega) (by simp only [R.IRQ_SRC_CFG, priv]; omega))).trans
      (State.setSrc_devLeaves _ _ _)) s
  have hpin : ∀ x : State, x.DevLeaves (x.pinUnforce mine) := fun x => .overList (fun y p => by
    extract_lets l y0 y1
    have hy : y.DevLeaves y1 := y.setPin_devLeaves _ _
    exact State.DevLeaves.ite (hy.trans (State.pinStatic_devLeaves _ p)) hy) _ x
  have hvlv : ∀ x : State, x.DevLeaves (x.vUnforce mine) := fun x => .overList (fun y n => y.setVlv_devLeaves n _) _ x
  have h1 : s.DevLeaves s1 := (hkeep.trans (hpin _)).trans (hvlv _)
  have h2 : s1.DevLeaves s2 := .overRange (fun x i hi => x.setB_devLeaves _
    (not_devWords_shed (by simp only [F.STL_STAT_FORCED, R.STL_STAT]; omega) (by simp only [F.STL_STAT_FORCED, R.STL_STAT]; omega))) s1
  have h3 : s2.DevLeaves s3 := (s2.wr_devLeaves _ (not_devWords_page (k := 0xe0c) (by omega) (by decide))).trans
    (State.wr_devLeaves _ _ (not_devWords_page (k := 0xe0c) (by omega) (by decide)))
  have h4 : s3.DevLeaves s4 := .overList (fun x i => x.setSl_devLeaves _ _) _ s3
  exact (((h1.trans h2).trans h3).trans h4).trans ((State.engReset_devLeaves _ (by omega)).trans (State.engReset_devLeaves _ (by omega)))

theorem State.twinChange_devLeaves : s.DevLeaves s.twinChange := by
  have htwin : ∀ (x : State) v, x.DevLeaves (x.setF F.SYS_TWIN_PAIR_ACT v) := fun x v => x.setF_devLeaves v (by unfold devWords; decide)
  refine .overRange (fun x k hk => ?_) s
  extract_lets en act
  exact State.DevLeaves.ite (.refl x) (State.DevLeaves.ite ((htwin x _).trans (State.twinOn_devLeaves _ (by omega)))
    ((htwin x _).trans (State.twinOff_devLeaves _ (by omega))))

/-! ### SYS_MODE (Table 18.9) -/

/-- The order of a marking of the mode and of what `DevLeaves` allows does not matter. -/
theorem State.DevLeaves.marked {s t : State} (h : s.DevLeaves t) (m cause : Nat) : (s.markMode m cause).DevLeaves (t.markMode m cause) := by
  have set : ∀ {x y : State} (v : Nat) (z : Fld), z.addr = R.SYS_MODE → x.DevLeaves y → (x.setF z v).DevLeaves (y.setF z v) :=
    fun {x y} v z hz hxy => by
      refine ⟨fun a ha => ?_, hxy.pwr, hxy.sys, hxy.tq⟩
      unfold State.setF
      rw [State.rd_wr, State.rd_wr, hz, hxy.rd R.SYS_MODE (.inl (by decide)), hxy.rd a ha]
  unfold State.markMode
  rw [h.mode]
  exact set _ _ rfl (set _ _ rfl (set _ _ rfl h))

theorem State.rd_markMode {a : Nat} (m cause : Nat) (ha : a ≠ R.SYS_MODE) : (s.markMode m cause).rd a = s.rd a :=
  (State.rd_setF_other _ _ ha).trans ((State.rd_setF_other _ _ ha).trans (State.rd_setF_other _ _ ha))

theorem State.mode_markMode {m : Nat} (hm : m < 8) (cause : Nat) : (s.markMode m cause).mode = m :=
  (State.f_setF_other _ _ (.inr (by decide))).trans ((State.f_setF_same _ m (by decide)).trans (Nat.mod_eq_of_lt hm))

theorem State.cause_markMode (m : Nat) {cause : Nat} (hc : cause < 32) : (s.markMode m cause).f F.SYS_MODE_CAUSE = cause :=
  (State.f_setF_same _ cause (by decide)).trans (Nat.mod_eq_of_lt hc)

/-! ### Entry to SAFE (R121, R378) -/

theorem State.failModes_devLeaves : s.DevLeaves s.failModes :=
  State.DevLeaves.ite (.overList (fun x _ => State.DevLeaves.ite (x.complete_devLeaves _ _ _ _) (.refl x)) _ s) (.refl s)

/-- Entry to SAFE marks the mode, and leaves the rest of what `DevLeaves` speaks of. -/
theorem State.enterSafe_devLeaves (cause : Nat) : (s.markMode 6 cause).DevLeaves (s.enterSafe cause) := by
  unfold State.enterSafe
  extract_lets s0 s1 s2 s3 s4 s5
  have h0 : s.DevLeaves s0 := State.DevLeaves.ite (s.trkAllAcquire_devLeaves.trans (State.engWake_devLeaves _)) (.refl s)
  have h1 : s.DevLeaves s1 := State.DevLeaves.ite (h0.trans (State.twinChange_devLeaves _)) h0
  have h2 : (s.markMode 6 cause).DevLeaves s2 := ((h1.trans (State.evClear_devLeaves _)).trans (State.valvesStop_devLeaves _)).marked 6 cause
  have h3 : s2.DevLeaves s3 := (State.dropEdges_devLeaves _ _).trans
    (.overList (fun x p => State.DevLeaves.ite (.refl x) (x.setPin_devLeaves p _)) _ _)
  have h4 : s3.DevLeaves s4 := .overList (fun x n => State.DevLeaves.ite (.refl x) (x.rnStop_devLeaves n)) _ s3
  have h5 : s4.DevLeaves s5 := ((s4.bump_devLeaves (by unfold devWords; decide)).trans (State.log_devLeaves _ _ _ _)).trans
    (State.modeSettle_devLeaves _)
  have h := ((h2.trans h3).trans h4).trans h5
  exact State.DevLeaves.ite (h.trans (State.engFirsts_devLeaves _)) h

/-- The state in which a cause of the whole device has acted, or that it found in SAFE or before CONFIG. -/
theorem State.causeSafe_devLeaves (cause : Nat) :
    (if 2 ≤ s.mode ∧ s.mode ≠ 6 then s.markMode 6 cause else s).DevLeaves (s.causeSafe cause) := by
  unfold State.causeSafe
  by_cases h : 2 ≤ s.mode ∧ s.mode ≠ 6
  · rw [if_pos h, if_pos (by simp [h])]
    exact (s.enterSafe_devLeaves cause).trans (State.failModes_devLeaves _)
  · rw [if_neg h, if_neg (by simpa using h)]
    exact .refl s

theorem State.mode_causeSafe (cause : Nat) : (s.causeSafe cause).mode = if 2 ≤ s.mode then 6 else s.mode := by
  rw [(s.causeSafe_devLeaves cause).mode]
  by_cases h : 2 ≤ s.mode ∧ s.mode ≠ 6
  · rw [if_pos h, if_pos h.1]
    exact s.mode_markMode (by decide) cause
  · rw [if_neg h]
    split <;> omega

theorem State.rd_causeSafe (cause : Nat) {a : Nat} (ha : devWords a) (hm : a ≠ R.SYS_MODE) : (s.causeSafe cause).rd a = s.rd a := by
  rw [(s.causeSafe_devLeaves cause).rd a ha]
  split
  · exact s.rd_markMode _ _ hm
  · rfl

theorem State.pwr_causeSafe (cause : Nat) : (s.causeSafe cause).pwr = s.pwr := by
  rw [(s.causeSafe_devLeaves cause).pwr]
  split <;> rfl

theorem State.tq_causeSafe (cause q : Nat) : (s.causeSafe cause).tq q = s.tq q := by
  rw [(s.causeSafe_devLeaves cause).tq q]
  split <;> rfl

/-! ### The other changes of mode -/

/-- A state with another power manager. -/
def State.withPwr (s : State) (p : Power) : State := { s with pwr := p }

theorem State.setPwr_devLeaves {t : State} (h : s.DevLeaves t) (p : Power) : (s.withPwr p).DevLeaves (t.withPwr p) :=
  ⟨h.rd, rfl, h.sys, h.tq⟩

theorem State.idleEntry_devLeaves : s.DevLeaves s.idleEntry := by
  unfold State.idleEntry
  extract_lets s1 s2
  have h0 : s.DevLeaves { s with points := [] } := .same rfl rfl rfl rfl
  have h1 : s.DevLeaves s1 := (h0.trans (State.engIdle_devLeaves _)).trans (.overList (fun x n => x.setPart_devLeaves n _) _ _)
  have h2 : s.DevLeaves s2 := h1.trans (.overList (fun x b => x.setBk_devLeaves b _) _ _)
  exact h2.trans (.overList (fun x n => x.setVlv_devLeaves n _) _ _)

theorem State.configEntry_devLeaves : s.DevLeaves s.configEntry :=
  State.DevLeaves.ite (.overList (fun x n => x.setB_devLeaves _ (not_devWords_vlv (k := 0) (by decide))) _ s) (.refl s)

/-- Leaving SAFE changes of all this the power manager alone. -/
theorem State.releaseSafe_devLeaves : ∃ p, (s.withPwr p).DevLeaves s.releaseSafe := by
  unfold State.releaseSafe
  extract_lets held again p s1
  have h1 : (s.withPwr s1.pwr).DevLeaves s1 := .same rfl rfl rfl rfl
  exact ⟨s1.pwr, h1.trans <| .overList (fun x p => State.DevLeaves.ite ((x.setPin_devLeaves p _).trans (State.pinStatic_devLeaves _ p)) (.refl x)) _ s1⟩

/-- A change of mode marks the mode, and beside the power manager leaves what `DevLeaves` speaks of. -/
theorem State.enterMode_devLeaves (m cause : Nat) :
    ∃ p, State.DevLeaves ((s.markMode m cause).withPwr p) (s.enterMode m cause) := by
  unfold State.enterMode
  split
  · rename_i hm
    subst hm
    exact ⟨_, s.enterSafe_devLeaves cause⟩
  · extract_lets old s1 s2 s3 s4 s5 s6
    have h1 : s.DevLeaves s1 := State.DevLeaves.ite (s.trkAllAcquire_devLeaves.trans (State.engWake_devLeaves _)) (.refl s)
    have h2 : s.DevLeaves s2 := State.DevLeaves.ite (h1.trans (State.twinChange_devLeaves _)) h1
    have hshed : ∀ x : State, x.DevLeaves x.shedPins := fun x => .overList (fun y p => y.pinStatic_devLeaves p) _ x
    have h3 : s.DevLeaves s3 := State.DevLeaves.ite (((h2.trans (State.evClear_devLeaves _)).trans (hshed _)).trans
      (State.valvesStop_devLeaves _)) h2
    have h4 : (s.markMode m cause).DevLeaves s4 := h3.marked m cause
    obtain ⟨p, h5⟩ : ∃ p, State.DevLeaves ((s.markMode m cause).withPwr p) s5 := by
      unfold s5
      split
      · obtain ⟨p, hp⟩ := s4.releaseSafe_devLeaves
        exact ⟨p, (State.setPwr_devLeaves _ h4 p).trans hp⟩
      · exact ⟨s4.pwr, State.setPwr_devLeaves _ h4 _⟩
    have hfront : ∀ x : State, x.DevLeaves x.frontsAfresh := fun x => .overList (fun y n => y.setTe_devLeaves n _) _ x
    have h6 : s5.DevLeaves s6 := by
      unfold s6
      split
      · exact State.configEntry_devLeaves _
      · exact State.idleEntry_devLeaves _
      · exact hfront _
      · exact hfront _
      · exact .refl _
    have h := (h5.trans h6).trans (State.modeSettle_devLeaves _)
    exact ⟨p, State.DevLeaves.ite (h.trans (State.engFirsts_devLeaves _)) h⟩

theorem State.mode_enterMode {m : Nat} (hm : m < 8) (cause : Nat) : (s.enterMode m cause).mode = m := by
  obtain ⟨p, h⟩ := s.enterMode_devLeaves m cause
  rw [h.mode]
  exact s.mode_markMode hm cause

theorem State.cause_enterMode (m : Nat) {cause : Nat} (hc : cause < 32) : (s.enterMode m cause).f F.SYS_MODE_CAUSE = cause := by
  obtain ⟨p, h⟩ := s.enterMode_devLeaves m cause
  rw [h.f (x := F.SYS_MODE_CAUSE) (.inl (by decide))]
  exact s.cause_markMode m hc

theorem State.rd_enterMode (m cause : Nat) {a : Nat} (ha : devWords a) (hm : a ≠ R.SYS_MODE) : (s.enterMode m cause).rd a = s.rd a := by
  obtain ⟨p, h⟩ := s.enterMode_devLeaves m cause
  rw [h.rd a ha]
  exact s.rd_markMode _ _ hm

theorem State.sys_enterMode (m cause : Nat) : (s.enterMode m cause).sys = s.sys := by
  obtain ⟨p, h⟩ := s.enterMode_devLeaves m cause
  exact h.sys

end

end Sys2Proof.Machine
end

section
/-! Power-up and boot (R240, R241, R384, Tables 11.3 and 18.5) and the test port (R411), one step at a time. -/

namespace Sys2Proof.Machine

open Sys2Proof

/-! ### The sequencing outputs -/

theorem setBit_lt {v k n : Nat} (hv : v < 2 ^ n) (hk : k < n) : setBit v k < 2 ^ n :=
  Nat.or_lt_two_pow hv (by rw [Nat.shiftLeft_eq, one_mul]; exact Nat.pow_lt_pow_right (by decide) hk)

theorem State.level_lt (s : State) : s.f F.PWR_SEQ_CTL_LEVEL < 2 ^ 6 := getBits_lt _ _ _

/-- An output that turns on. -/
theorem State.level_seqOut_on (s : State) {k : Nat} (hk : k < 6) :
    (s.seqOut k true).f F.PWR_SEQ_CTL_LEVEL = setBit (s.f F.PWR_SEQ_CTL_LEVEL) k :=
  (State.f_setF_same s (x := F.PWR_SEQ_CTL_LEVEL) _ (by decide)).trans (Nat.mod_eq_of_lt (setBit_lt s.level_lt hk))

theorem clrBit_le (v k : Nat) : clrBit v k ≤ v := by
  unfold clrBit
  split
  · exact Nat.sub_le _ _
  · exact le_rfl

/-- An output that turns off. -/
theorem State.level_seqOut_off (s : State) (k : Nat) :
    (s.seqOut k false).f F.PWR_SEQ_CTL_LEVEL = clrBit (s.f F.PWR_SEQ_CTL_LEVEL) k :=
  (State.f_setF_same s (x := F.PWR_SEQ_CTL_LEVEL) _ (by decide)).trans
    (Nat.mod_eq_of_lt (Nat.lt_of_le_of_lt (clrBit_le _ _) s.level_lt))

theorem State.rd_seqOut (s : State) (k : Nat) (on : Bool) {a : Nat} (ha : a ≠ R.PWR_SEQ_CTL) : (s.seqOut k on).rd a = s.rd a :=
  State.rd_setF_other s _ ha

/-- With SEQ_1 and SEQ_0 turned off both are off. -/
theorem clrBit_both : ∀ v < 64, (clrBit (clrBit v 1) 0).testBit 0 = false ∧ (clrBit (clrBit v 1) 0).testBit 1 = false := by
  decide

/-- A rail timeout: SEQ_1 and SEQ_0 are off, and the third failure stops the sequencer (R240). -/
theorem State.seqTimeout_shows {s : State} (h : s.pwr.seq = .wantIo ∨ s.pwr.seq = .wantCore) :
    (s.seqTimeout.f F.PWR_SEQ_CTL_LEVEL).testBit 0 = false ∧ (s.seqTimeout.f F.PWR_SEQ_CTL_LEVEL).testBit 1 = false
    ∧ s.seqTimeout.pwr.seq = (if s.pwr.seqFails = 2 then .stopped else .retry)
    ∧ (s.pwr.seqFails = 2 → s.seqTimeout.b F.PWR_RST_CAUSE_SEQ_FAIL = true) := by
  have hlevel : ((s.seqOut 1 false).seqOut 0 false).f F.PWR_SEQ_CTL_LEVEL = clrBit (clrBit (s.f F.PWR_SEQ_CTL_LEVEL) 1) 0 := by
    rw [State.level_seqOut_off, State.level_seqOut_off]
  obtain ⟨h0, h1⟩ := clrBit_both _ s.level_lt
  unfold State.seqTimeout
  rw [if_pos (by simpa using h)]
  extract_lets s1 k
  have hs1 : s1.f F.PWR_SEQ_CTL_LEVEL = clrBit (clrBit (s.f F.PWR_SEQ_CTL_LEVEL) 1) 0 := hlevel
  by_cases hk : s.pwr.seqFails = 2
  · rw [if_pos (show s.pwr.seqFails + 1 = 3 by omega), State.f_setB_other _ _ (.inl (by decide)), State.pwr_setB_frame, if_pos hk]
    have hf : s1.f F.PWR_SEQ_CTL_LEVEL = State.f { s1 with pwr := { s1.pwr with seq := .stopped, seqFails := k, seqFailLog := true } }
      F.PWR_SEQ_CTL_LEVEL := rfl
    rw [← hf, hs1]
    exact ⟨h0, h1, rfl, fun _ => State.b_setB_same _ _ (by decide) rfl⟩
  · rw [if_neg (show s.pwr.seqFails + 1 ≠ 3 by omega), if_neg hk]
    have hf : s1.f F.PWR_SEQ_CTL_LEVEL = State.f { s1 with pwr := { s1.pwr with seq := .retry, seqFails := k } } F.PWR_SEQ_CTL_LEVEL := rfl
    rw [← hf, hs1]
    exact ⟨h0, h1, rfl, fun h2 => absurd h2 hk⟩

/-- The core reset is released: BOOT, the straps sampled (R240, R386). -/
theorem State.seqDelay_up {s : State} (hm : s.mode = 0) (h : s.pwr.seq = .coreDelay) (straps : Nat) (hs : straps < 32) :
    (s.seqDelay straps).mode = 1 ∧ (s.seqDelay straps).pwr.seq = .up ∧ (s.seqDelay straps).pwr.seqFails = 0
    ∧ (s.seqDelay straps).rd R.SYS_STRAP = BitVec.ofNat 32 straps ∧ (s.seqDelay straps).f F.SYS_HOST_STAT_HOSTSEL = straps % 4 := by
  unfold State.seqDelay
  rw [if_neg (not_not.mpr hm), h]
  refine ⟨?_, rfl, rfl, ?_, ?_⟩
  · calc _ = (((s.setSeq .up).markMode 1 0).strapIn straps).mode := rfl
      _ = ((s.setSeq .up).markMode 1 0).mode :=
          (State.f_setF_other _ _ (.inl (by decide))).trans (State.f_wr_other _ _ (by decide))
      _ = 1 := State.mode_markMode _ (by decide) 0
  · calc _ = (((s.setSeq .up).markMode 1 0).strapIn straps).rd R.SYS_STRAP := rfl
      _ = BitVec.ofNat 32 (straps % 32) := (State.rd_setF_other _ _ (by decide)).trans (State.rd_wr_same _ _ _)
      _ = _ := by rw [Nat.mod_eq_of_lt hs]
  · calc _ = (((s.setSeq .up).markMode 1 0).strapIn straps).f F.SYS_HOST_STAT_HOSTSEL := rfl
      _ = straps % 4 % 4 := State.f_setF_same _ _ (by decide)
      _ = straps % 4 := Nat.mod_mod _ _

/-! ### SEQ_2 to SEQ_5 (R241) -/

theorem State.seqNext_none {s : State} {on : Bool} (h : (if on then s.pwr.onGo ^^^ (s.pwr.onGo &&& s.pwr.seqHeld) else s.pwr.offGo) = 0) :
    s.seqNext on = s := by
  unfold State.seqNext
  rw [h]
  exact if_pos rfl

theorem bitList_two_pow : ∀ i : Fin 4, bitList 4 (2 ^ i.val) = [i.val] := by decide

theorem State.seqGroup_single (s : State) (i : Fin 4) (low : Bool) : s.seqGroup (2 ^ i.val) low = [i.val] := by
  unfold State.seqGroup
  rw [bitList_two_pow]
  cases low <;> simp

theorem onGo_served : ∀ i : Fin 4, 2 ^ i.val &&& (15 - setBit 0 i.val) = 0 := by decide

/-- An output alone to turn on, not held, its delay over, turns on. -/
theorem State.seqNext_on {s : State} (i : Fin 4) (hon : s.pwr.onGo = 2 ^ i.val)
    (hat : s.pwrPassed s.pwr.onAt (ms * s.f (F.PWR_SEQ_CFG_DELAY (i.val + 2))) = true)
    (hask : ∀ e, e ∈ s.pwr.askedAt → e.1 = i.val → s.pwrPassed e.2 (ms * s.f (F.PWR_SEQ_CFG_DELAY (i.val + 2))) = true)
    (hheld : s.pwr.seqHeld.testBit i = false) :
    (s.seqNext true).f F.PWR_SEQ_CTL_LEVEL = setBit (s.f F.PWR_SEQ_CTL_LEVEL) (i.val + 2)
    ∧ (s.seqNext true).pwr.onGo = 0 ∧ ∀ a, a ≠ R.PWR_SEQ_CTL → (s.seqNext true).rd a = s.rd a := by
  have hfree : 2 ^ i.val ^^^ (2 ^ i.val &&& s.pwr.seqHeld) = 2 ^ i.val := by
    rw [Nat.and_comm, Nat.and_two_pow, hheld]
    simp
  have hasked : ((s.pwr.askedAt.filter (fun e => [i.val].contains e.1)).map (·.2)).any
      (fun t => !s.pwrPassed t (ms * s.f (F.PWR_SEQ_CFG_DELAY (i.val + 2)))) = false := by
    rw [List.any_eq_false]
    intro t ht
    obtain ⟨e, he, rfl⟩ := List.mem_map.mp ht
    obtain ⟨hmem, hi⟩ := List.mem_filter.mp he
    rw [hask e hmem (by simpa using hi)]
    simp
  have hnext : s.seqNext true = (s.seqOut (i.val + 2) true).withPwr { s.pwr with
      askedAt := s.pwr.askedAt.filter (fun e => !([i.val].contains e.1))
      onGo := s.pwr.onGo &&& (15 - setBit 0 i.val), onAt := s.now } := by
    unfold State.seqNext
    simp only [if_true, hon, hfree, State.seqGroup_single, List.foldl_cons, List.foldl_nil, Nat.zero_max, State.seqDelayOf, hat, hasked,
      List.isEmpty_cons, Bool.not_true, Bool.or_self, Bool.false_eq_true, if_false]
    rw [← hon]
    rfl
  rw [hnext]
  refine ⟨s.level_seqOut_on (by omega), ?_, fun a ha => s.rd_seqOut _ _ ha⟩
  show s.pwr.onGo &&& (15 - setBit 0 i.val) = 0
  rw [hon]
  exact onGo_served i

/-! ### Boot (R384) -/

/-- A table read at a key that a filter on keys lets nothing through. -/
theorem Sparse.get_filter_out {α : Type} (d : Nat → α) (m : List (Nat × α)) (p : Nat → Bool) {k : Nat} (hk : p k = false) :
    Sparse.get d (m.filter (fun e => p e.1)) k = d k := by
  induction m with
  | nil => rfl
  | cons e m ih =>
    rw [List.filter_cons]
    split
    · rename_i he
      rw [Sparse.get_cons, if_neg (fun h => by rw [h, he] at hk; exact absurd hk (by decide)), ih]
    · exact ih

/-- A range that is cleared holds its reset contents. -/
theorem State.rd_clearWords_within (s : State) {lo hi a : Nat} (h : lo ≤ a) (k : a < hi) : (s.clearWords lo hi).rd a = regReset a :=
  Sparse.get_filter_out regReset s.regs (fun a => decide (a < lo) || decide (hi ≤ a)) (by simp; omega)

theorem State.rd_bootClear (s : State) {a : Nat} (h : 0x400000 ≤ a) (k : a < 0x600000) : s.bootClear.rd a = regReset a := by
  unfold State.bootClear
  generalize overList _ _ s = x
  exact x.rd_clearWords_within h k

/-- The clock flags at PLL lock. -/
def State.clocksUp (s : State) (pcieRef : Bool) : State :=
  (((((s.setB F.SYS_CLK_STAT_XIN_OK true).setB F.SYS_CLK_STAT_PLL_LOCK true).setB F.SYS_CLK_STAT_TTH_PLL_LOCK true).setB
    F.SYS_CLK_STAT_FALLBACK false).setB F.SYS_CLK_STAT_PCIE_REF_OK pcieRef).setB F.SYS_HOST_STAT_BRIDGE_CLK (!pcieRef)

theorem State.pllLock_clocksUp (s : State) (p : Bool) : (s.clocksUp p).b F.SYS_CLK_STAT_PLL_LOCK = true :=
  (State.b_setB_other _ _ (.inl (by decide))).trans ((State.b_setB_other _ _ (.inr (by decide))).trans
    ((State.b_setB_other _ _ (.inr (by decide))).trans ((State.b_setB_other _ _ (.inr (by decide))).trans
      (State.b_setB_same _ _ (by decide) rfl))))

theorem State.pcieRef_clocksUp (s : State) (p : Bool) : (s.clocksUp p).b F.SYS_CLK_STAT_PCIE_REF_OK = p :=
  (State.b_setB_other _ _ (.inl (by decide))).trans (State.b_setB_same _ _ (by decide) rfl)

/-- PLL lock: the time base starts, and the test port is left in BYPASS (R384, R411). -/
theorem State.bootStep_pllLock {s : State} (hm : s.mode = 1) (hb : s.sys.boot = .start) (p : Bool) :
    s.bootStep (.pllLock p) = State.setBoot { s.clocksUp p with
      tb := { (s.clocksUp p).tb with running := true }, sys := { (s.clocksUp p).sys with tap := .bypass } } .locked := by
  unfold State.bootStep
  rw [if_neg (not_not.mpr hm), hb]
  rfl

theorem State.bootStep_romCheck {s : State} (hm : s.mode = 1) (hb : s.sys.boot = .locked) (ok : Bool) :
    s.bootStep (.romCheck ok) = if ok then s.setBoot .checked else (s.setB F.SYS_BOOT_ROM_FAIL true).setBoot .halted := by
  unfold State.bootStep
  rw [if_neg (not_not.mpr hm), hb]

theorem State.bootStep_memoryClear {s : State} (hm : s.mode = 1) (hb : s.sys.boot = .checked) : s.bootStep .memoryClear =
    (s.bootClear.setBoot .cleared).log .sysReset wholeDevice (s.rd R.PWR_RST_CAUSE).toNat := by
  unfold State.bootStep
  rw [if_neg (not_not.mpr hm), hb]

/-- A set bit and the place in the boot sequence may be written in either order. -/
theorem State.setBoot_setB (s : State) (x : Fld) (p : BootPos) : (s.setB x true).setBoot p = (s.setBoot p).setB x true := by
  unfold State.setB State.note
  dsimp only
  rw [if_pos rfl, if_pos rfl, show (s.setBoot p).tb = s.tb from rfl, show (s.setBoot p).setAt x.addr = s.setAt x.addr from rfl]
  split
  · rfl
  · split <;> rfl

theorem State.bootStep_otpBad {s : State} (hm : s.mode = 1) (hb : s.sys.boot = .cleared) : s.bootStep (.otpRead false) =
    ((s.setBoot .otp).setB F.SYS_BOOT_OTP_BAD true).log .sysOtpBad wholeDevice 0 := by
  unfold State.bootStep
  rw [if_neg (not_not.mpr hm), hb, ← State.setBoot_setB]
  exact if_neg Bool.false_ne_true

theorem State.bootStep_noPatch {s : State} (hm : s.mode = 1) (hb : s.sys.boot = .otp) (hc : s.sys.check = false) :
    s.bootStep .patchCheck = s := by
  have hsys : ({ s.sys with check := false } : Sys) = s.sys := by rw [← hc]
  unfold State.bootStep State.bootPatch
  rw [if_neg (not_not.mpr hm), hb]
  dsimp only
  rw [hc, if_pos (by decide), hsys]

/-- The report of a power-up that failed before the boot moves no word of SYS, and not the place in the boot. -/
theorem State.bootEnd_report (x : State) :
    let t := if x.pwr.seqFailLog then { x.log .pwrSeqFail wholeDevice 0 with pwr := { x.pwr with seqFailLog := false } } else x
    (∀ a, devWords a → t.rd a = x.rd a) ∧ t.sys = x.sys := by
  have h := x.log_devLeaves .pwrSeqFail wholeDevice 0
  split
  · exact ⟨h.rd, h.sys⟩
  · exact ⟨fun _ _ => rfl, rfl⟩

/-- BOOT_COMPLETE: CONFIG with CAUSE 1, and the boot time (R384). -/
theorem State.bootEnd_shows {s : State} (hm : s.mode = 1) (hb : s.sys.boot = .otp) (hc : s.sys.check = false) {us : Nat}
    (hu : us < 2 ^ 14) : (s.bootEnd us).mode = 2 ∧ (s.bootEnd us).f F.SYS_MODE_CAUSE = 1
    ∧ (s.bootEnd us).f F.SYS_BOOT_BOOT_US = us ∧ (s.bootEnd us).sys.boot = .done := by
  unfold State.bootEnd
  rw [if_neg (by simp [hm, hb, hc])]
  obtain ⟨hrd, hsys⟩ := State.bootEnd_report (((s.setBoot .done).setF F.SYS_BOOT_BOOT_US us).enterMode 2 causeBootDone)
  have hmode : devWords R.SYS_MODE := .inl (by decide)
  have hboot : devWords R.SYS_BOOT := .inl (by decide)
  refine ⟨(State.f_of_rd (x := F.SYS_MODE_MODE) (hrd _ hmode)).trans (State.mode_enterMode _ (by decide) _),
    (State.f_of_rd (x := F.SYS_MODE_CAUSE) (hrd _ hmode)).trans (State.cause_enterMode _ 2 (by decide)), ?_, ?_⟩
  · calc _ = _ := State.f_of_rd (x := F.SYS_BOOT_BOOT_US) (hrd _ hboot)
      _ = ((s.setBoot .done).setF F.SYS_BOOT_BOOT_US us).f F.SYS_BOOT_BOOT_US :=
          State.f_of_rd (x := F.SYS_BOOT_BOOT_US) (State.rd_enterMode _ _ _ hboot (by decide))
      _ = us := (State.f_setF_same _ _ (by decide)).trans (Nat.mod_eq_of_lt hu)
  · exact congrArg Sys.boot (hsys.trans (State.sys_enterMode _ _ _))

/-! ### The test port (R411) -/

/-- EXTEST with RESET_N low puts a scanned cell at its ball. -/
theorem State.ball_extest (s : State) {cells : List Bool} {p : Nat} (hp : p < 160) (hc : p < cells.length) :
    (s.tap .extest true cells).ball p = cells[p]? := by
  have hcell : (cells.take 160)[p]? = some cells[p] := by rw [List.getElem?_take_of_lt hp, List.getElem?_eq_getElem hc]
  have hdrive : (s.tap .extest true cells).tapDrives p = some cells[p] := by
    refine Eq.trans ?_ hcell
    exact if_pos hp
  unfold State.ball
  rw [hdrive, List.getElem?_eq_getElem hc]

/-- Settles O44: each step of the power-up, of the boot and of the test port by its own equation above. -/
theorem powerUpAndBootFollowTheirSteps : Obligations.PowerUpAndBootFollowTheirSteps := by
  refine ⟨fun s hm h => ?_, fun st s hm h => ?_, fun s h => ?_, fun s h => ?_, fun st s hm h => ?_, fun s h => ?_, fun s h => ?_,
    fun s i hoff hon hat hask hheld => ?_, fun p s hm hb => ?_, fun s hm hb => ⟨?_, ?_⟩, fun s hm hb => ⟨?_, fun p => rfl, ?_⟩,
    fun s hm hb => ?_, fun s hm hb hc => ?_, fun us s hm hb hc => ?_, fun rl cells s => ⟨?_, rfl, rfl, fun p hp hc => ?_⟩⟩
  · exact congrArg Host.Outcome.next (if_pos (by simp [hm, h]))
  · refine ⟨(s.seqOut 0 true).setSeq .wantIo, congrArg Host.Outcome.next ?_, rfl, s.level_seqOut_on (by decide), fun a ha => s.rd_seqOut 0 true ha⟩
    unfold State.seqDelay
    rw [if_neg (not_not.mpr hm), h]
  · refine ⟨(s.seqOut 1 true).setSeq .wantCore, congrArg Host.Outcome.next ?_, rfl, s.level_seqOut_on (by decide)⟩
    unfold State.seqGood
    rw [h]
  · refine congrArg Host.Outcome.next ?_
    unfold State.seqGood
    rw [h]
    rfl
  · exact ⟨_, rfl, State.seqDelay_up hm h st.toNat st.isLt⟩
  · exact ⟨_, rfl, State.seqTimeout_shows h⟩
  · exact ⟨(s.seqOut 0 true).setSeq .wantIo, congrArg Host.Outcome.next (if_pos h), rfl, s.level_seqOut_on (by decide)⟩
  · have hstep : s.seqStep = s.seqNext true := congrArg (State.seqNext · true) (State.seqNext_none (on := false) hoff)
    exact ⟨_, congrArg Host.Outcome.next hstep, State.seqNext_on i hon hat hask hheld⟩
  · exact ⟨_, congrArg Host.Outcome.next (State.bootStep_pllLock hm hb p), rfl, rfl, rfl, s.pllLock_clocksUp p, s.pcieRef_clocksUp p⟩
  · exact congrArg Host.Outcome.next (State.bootStep_romCheck hm hb true)
  · exact ⟨_, congrArg Host.Outcome.next (State.bootStep_romCheck hm hb false), rfl, State.b_setB_same s _ (by decide) rfl⟩
  · exact congrArg Host.Outcome.next (State.bootStep_memoryClear hm hb)
  · exact fun a h k => s.rd_bootClear h k
  · exact congrArg Host.Outcome.next (State.bootStep_otpBad hm hb)
  · exact congrArg Host.Outcome.next (State.bootStep_noPatch hm hb hc)
  · exact ⟨_, rfl, State.bootEnd_shows hm hb hc us.isLt⟩
  · cases rl <;> rfl
  · exact ⟨_, rfl, s.ball_extest hp hc⟩

end Sys2Proof.Machine
end

section
/-! The rail supervisors (R238, R239), the warning and the stop ramp (R243 to R245), the poller (R246, R247). -/

namespace Sys2Proof.Machine

open Sys2Proof

theorem devWords_sys {a : Nat} (h : a < 0x2000) (h1 : a ≠ R.SYS_TWIN) (h2 : a ≠ R.SYS_SAFE_CNT) (h3 : a ≠ R.PWR_VSG_STAT) : devWords a :=
  .inl ⟨h, h1, h2, h3⟩

theorem devWords_rail : devWords R.PWR_RAIL_STAT := devWords_sys (by decide) (by decide) (by decide) (by decide)

theorem devWords_pwrStat : devWords R.PWR_STAT := devWords_sys (by decide) (by decide) (by decide) (by decide)

/-- A flag or a one-bit field of another word leaves the mode. -/
theorem State.mode_setB (s : State) {x : Fld} (v : Bool) (hx : R.SYS_MODE ≠ x.addr) : (s.setB x v).mode = s.mode :=
  State.f_setB_other s v (.inl hx)

theorem State.mode_flag (s : State) {a : Nat} (k : Nat) (ha : R.SYS_MODE ≠ a) : (s.flag a k).mode = s.mode :=
  State.f_of_rd (x := F.SYS_MODE_MODE) (s.rd_flag_other k ha)

theorem State.mode_log (s : State) (c : LogCode) (x d : Nat) : (s.log c x d).mode = s.mode := (s.log_devLeaves c x d).mode

theorem State.mode_pulse (s : State) (g : Nat) : (s.pulse g).mode = s.mode := (s.pulse_devLeaves g).mode

/-! ### The supervisors (R238, R239) -/

/-- A core, VDDIO or VDD33 undervoltage is a cold reset (R242). -/
theorem State.railUv_cold (s : State) {r : Rail} (hr : r ≠ .vgd) :
    s.railUv r = s.coldReset (match r with | .vcore => 2 | .vio => 4 | _ => 1) (match r with | .v33 => .off | _ => .vdd33) := by
  cases r with
  | vcore | vio | v33 => rfl
  | vgd => exact absurd rfl hr

/-- The flags of a VGD undervoltage, before the mode changes. -/
def State.vgdLow (s : State) : State :=
  let s1 := (s.setB F.PWR_RAIL_STAT_VGD_UV true).setB F.PWR_RAIL_STAT_WARN_SEEN true
  { s1.log .pwrVgdLow wholeDevice 0 with pwr := { s1.pwr with vgdGood := false } }

theorem State.railUv_vgd {s : State} (h : s.b F.PWR_RAIL_STAT_VGD_UV = false) :
    s.railUv .vgd = (s.vgdLow.causeSafe causeVgdUv).modeSettle :=
  if_neg (by simp [h])

theorem State.vgdLow_uv (s : State) : s.vgdLow.b F.PWR_RAIL_STAT_VGD_UV = true :=
  (((State.b_of_rd (x := F.PWR_RAIL_STAT_VGD_UV) ((State.log_devLeaves _ .pwrVgdLow wholeDevice 0).rd _ devWords_rail))).trans
    (State.b_setB_other _ _ (.inr (by decide)))).trans (State.b_setB_same _ _ (by decide) rfl)

theorem State.vgdLow_mode (s : State) : s.vgdLow.mode = s.mode :=
  (State.mode_log _ .pwrVgdLow wholeDevice 0).trans ((State.mode_setB _ _ (by decide)).trans (State.mode_setB _ _ (by decide)))

theorem State.railUv_vgd_shows {s : State} (h : s.b F.PWR_RAIL_STAT_VGD_UV = false) : (s.railUv .vgd).b F.PWR_RAIL_STAT_VGD_UV = true
    ∧ (s.railUv .vgd).pwr.vgdGood = false ∧ (s.railUv .vgd).mode = (if 2 ≤ s.mode then 6 else s.mode) := by
  have hset := State.modeSettle_devLeaves (s.vgdLow.causeSafe causeVgdUv)
  rw [State.railUv_vgd h]
  refine ⟨?_, ?_, ?_⟩
  · rw [hset.b (x := F.PWR_RAIL_STAT_VGD_UV) devWords_rail,
      State.b_of_rd (x := F.PWR_RAIL_STAT_VGD_UV) (State.rd_causeSafe _ _ devWords_rail (by decide))]
    exact s.vgdLow_uv
  · rw [hset.pwr, State.pwr_causeSafe]
    rfl
  · rw [hset.mode, State.mode_causeSafe, s.vgdLow_mode]

/-- The flags of an overvoltage of rail `k`, before the mode changes. -/
def State.ovSeen (s : State) (k : Nat) : State :=
  (((s.flag R.PWR_RAIL_STAT (4 + k)).setB F.PWR_RAIL_STAT_OV_SEEN true).log .pwrRailOv wholeDevice k).pulse 230

theorem railNum_lt (r : Rail) : railNum r < 4 := by cases r <;> decide

theorem State.rd_ovSeen (s : State) (k : Nat) :
    (s.ovSeen k).rd R.PWR_RAIL_STAT = ((s.flag R.PWR_RAIL_STAT (4 + k)).setB F.PWR_RAIL_STAT_OV_SEEN true).rd R.PWR_RAIL_STAT :=
  ((State.log_devLeaves _ .pwrRailOv wholeDevice k).trans (State.pulse_devLeaves _ 230)).rd _ devWords_rail

theorem State.mode_ovSeen (s : State) (k : Nat) : (s.ovSeen k).mode = s.mode :=
  (State.mode_pulse _ _).trans ((State.mode_log _ _ _ _).trans ((State.mode_setB _ _ (by decide)).trans (State.mode_flag _ _ (by decide))))

theorem State.railOv_shows {s : State} {r : Rail} (h : (s.rd R.PWR_RAIL_STAT).getLsbD (4 + railNum r) = false) :
    ((s.railOv r).rd R.PWR_RAIL_STAT).getLsbD (4 + railNum r) = true ∧ (s.railOv r).b F.PWR_RAIL_STAT_OV_SEEN = true
    ∧ (s.railOv r).mode = (if 2 ≤ s.mode then 6 else s.mode) := by
  have hk := railNum_lt r
  have hov : s.railOv r = (s.ovSeen (railNum r)).causeSafe causeRailOv := if_neg (by simp [h])
  have hrd : (s.railOv r).rd R.PWR_RAIL_STAT
      = ((s.flag R.PWR_RAIL_STAT (4 + railNum r)).setB F.PWR_RAIL_STAT_OV_SEEN true).rd R.PWR_RAIL_STAT := by
    rw [hov, State.rd_causeSafe _ _ devWords_rail (by decide), State.rd_ovSeen]
  refine ⟨?_, (State.b_of_rd (x := F.PWR_RAIL_STAT_OV_SEEN) hrd).trans (State.b_setB_same _ _ (by decide) rfl), ?_⟩
  · rw [hrd, State.getLsbD_setB _ _ rfl, if_neg (fun hi => by have : 4 + railNum r = 9 := hi.2.1; omega), State.getLsbD_flag_same]
    simp [show 4 + railNum r < 32 by omega]
  · rw [hov, State.mode_causeSafe, State.mode_ovSeen]

theorem State.railWarn_shows {s : State} {r : Rail} (hr : r ≠ .vgd) (h : (s.rd R.PWR_RAIL_STAT).getLsbD (railNum r) = false) :
    ((s.railWarn r).rd R.PWR_RAIL_STAT).getLsbD (railNum r) = true ∧ (s.railWarn r).b F.PWR_RAIL_STAT_WARN_SEEN = true
    ∧ (s.railWarn r).mode = s.mode := by
  have hk := railNum_lt r
  have hw : s.railWarn r = (((s.flag R.PWR_RAIL_STAT (railNum r)).setB F.PWR_RAIL_STAT_WARN_SEEN true).log .pwrRailWarn wholeDevice
      (railNum r)).pulse 230 := if_neg (by simp [h, hr])
  have hrd : (s.railWarn r).rd R.PWR_RAIL_STAT
      = ((s.flag R.PWR_RAIL_STAT (railNum r)).setB F.PWR_RAIL_STAT_WARN_SEEN true).rd R.PWR_RAIL_STAT := by
    rw [hw]
    exact ((State.log_devLeaves _ _ _ _).trans (State.pulse_devLeaves _ 230)).rd _ devWords_rail
  refine ⟨?_, (State.b_of_rd (x := F.PWR_RAIL_STAT_WARN_SEEN) hrd).trans (State.b_setB_same _ _ (by decide) rfl), ?_⟩
  · rw [hrd, State.getLsbD_setB _ _ rfl, if_neg (fun hi => by have : railNum r = 8 := hi.2.1; omega), State.getLsbD_flag_same]
    simp [show railNum r < 32 by omega]
  · rw [hw, State.mode_pulse, State.mode_log, State.mode_setB _ _ (by decide), State.mode_flag _ _ (by decide)]

theorem State.railClear_shows (s : State) {r : Rail} (hr : r ≠ .vgd) : ((s.railClear r).rd R.PWR_RAIL_STAT).getLsbD (railNum r) = false
    ∧ ((s.railClear r).rd R.PWR_RAIL_STAT).getLsbD (4 + railNum r) = false
    ∧ ∀ a, a ≠ R.PWR_RAIL_STAT → (s.railClear r).rd a = s.rd a := by
  have hc : s.railClear r = (s.unflag R.PWR_RAIL_STAT (railNum r)).unflag R.PWR_RAIL_STAT (4 + railNum r) := if_neg hr
  rw [hc]
  refine ⟨?_, ?_, fun a ha => (State.rd_wr_other _ _ ha).trans (State.rd_wr_other _ _ ha)⟩
  · rw [State.getLsbD_unflag_same, State.getLsbD_unflag_same]
    simp
  · rw [State.getLsbD_unflag_same]
    simp

theorem State.vgdBack_shows (s : State) : s.vgdBack.b F.PWR_RAIL_STAT_VGD_UV = false ∧ s.vgdBack.pwr.vgdGood = true := by
  unfold State.vgdBack
  extract_lets s1 p
  have h := State.modeSettle_devLeaves { s1 with pwr := { p with vgdGood := true } }
  exact ⟨(h.b (x := F.PWR_RAIL_STAT_VGD_UV) devWords_rail).trans (State.b_setB_same s false (by decide) rfl), congrArg Power.vgdGood h.pwr⟩

/-! ### The warning (R243) -/

/-- The source that PF_SRC selects stands. -/
theorem State.pfailOn_iff (s : State) (pin : Bool) (vs : Nat) : s.pfailOn pin vs = true ↔
    (s.f F.PWR_CFG_PF_SRC = 0 ∧ pin = s.b F.PWR_CFG_PF_POL) ∨ (s.f F.PWR_CFG_PF_SRC = 1 ∧ vs < s.f F.PWR_CFG_VS_PF)
    ∨ (s.f F.PWR_CFG_PF_SRC = 2 ∧ (pin = s.b F.PWR_CFG_PF_POL ∨ vs < s.f F.PWR_CFG_VS_PF)) := by
  unfold State.pfailOn
  extract_lets byPin byVs
  split
  · rename_i h
    simp [h, byPin]
  · rename_i h
    simp [h, byVs]
  · rename_i h
    simp [h, byPin, byVs]
  · rename_i h0 h1 h2
    refine ⟨fun h => absurd h Bool.false_ne_true, ?_⟩
    rintro (⟨h, -⟩ | ⟨h, -⟩ | ⟨h, -⟩)
    · exact (h0 h).elim
    · exact (h1 h).elim
    · exact (h2 h).elim

theorem State.pfail_idle {s : State} {pin : Bool} {vs held : Nat}
    (h : ¬s.pfailOn pin vs = true ∨ held < 50 * max 1 (s.f F.PWR_CFG_PF_FILT) ∨ s.b F.PWR_STAT_PFAIL_IN = true) : s.pfail pin vs held = s := by
  unfold State.pfail
  refine if_pos ?_
  rcases h with h | h | h <;> simp [h]

/-- A warning that has stood long enough, as it shows before the ramp or SAFE. -/
def State.pfailShown (s : State) : State :=
  (((s.setB F.PWR_STAT_PFAIL_IN true).setB F.PWR_STAT_PFAIL_SEEN true).log .pwrPfail wholeDevice 0).pulse 229

theorem State.rd_pfailShown (s : State) {a : Nat} (ha : devWords a) :
    s.pfailShown.rd a = ((s.setB F.PWR_STAT_PFAIL_IN true).setB F.PWR_STAT_PFAIL_SEEN true).rd a :=
  ((State.log_devLeaves _ _ _ _).trans (State.pulse_devLeaves _ _)).rd a ha

theorem State.pfailShown_in (s : State) : s.pfailShown.b F.PWR_STAT_PFAIL_IN = true :=
  (State.b_of_rd (x := F.PWR_STAT_PFAIL_IN) (s.rd_pfailShown devWords_pwrStat)).trans
    ((State.b_setB_other _ _ (.inr (by decide))).trans (State.b_setB_same _ _ (by decide) rfl))

theorem State.pfailShown_seen (s : State) : s.pfailShown.b F.PWR_STAT_PFAIL_SEEN = true :=
  (State.b_of_rd (x := F.PWR_STAT_PFAIL_SEEN) (s.rd_pfailShown devWords_pwrStat)).trans (State.b_setB_same _ _ (by decide) rfl)

theorem State.pfailShown_other (s : State) {x : Fld} (hx : x = F.PWR_STAT_RAMP ∨ x = F.PWR_STAT_RAMP_BAD) : s.pfailShown.b x = s.b x := by
  rcases hx with rfl | rfl
  · exact (State.b_of_rd (x := F.PWR_STAT_RAMP) (s.rd_pfailShown devWords_pwrStat)).trans
      ((State.b_setB_other _ _ (.inr (by decide))).trans (State.b_setB_other _ _ (.inr (by decide))))
  · exact (State.b_of_rd (x := F.PWR_STAT_RAMP_BAD) (s.rd_pfailShown devWords_pwrStat)).trans
      ((State.b_setB_other _ _ (.inr (by decide))).trans (State.b_setB_other _ _ (.inr (by decide))))

theorem State.mode_pfailShown (s : State) : s.pfailShown.mode = s.mode :=
  (State.mode_pulse _ _).trans ((State.mode_log _ _ _ _).trans ((State.mode_setB _ _ (by decide)).trans (State.mode_setB _ _ (by decide))))

/-- The state in which the ramp begins: IDLE is left first (R382). -/
def State.rampFrom (s : State) : State := if s.mode = 3 then s.enterMode (s.f F.SYS_MODE_PREV) causeCommand else s

theorem State.rd_rampFrom (s : State) {a : Nat} (ha : devWords a) (hm : a ≠ R.SYS_MODE) : s.rampFrom.rd a = s.rd a := by
  unfold State.rampFrom
  split
  · exact s.rd_enterMode _ _ ha hm
  · rfl

/-- The words of the ramp's start, and nothing placed, staged or deferred (R244). -/
def State.rampArmed (s : State) : State := ((s.rampFrom.setB F.PWR_STAT_RAMP true).setF F.PWR_STAT_STEP 0).evClear

def State.rampBegun (s : State) : State :=
  { s.rampArmed with pwr := { s.rampArmed.pwr with prog := s.rampArmed.rampProg, stepAt := s.rampArmed.now, clearLog := true } }

theorem State.evClear_clears (s : State) : s.evClear.placed = [] ∧ s.evClear.points = [] ∧ s.evClear.deferred = [] := by
  unfold State.evClear
  extract_lets s1
  exact ⟨overList_leaves (f := State.cutEdges) State.placed (fun _ _ => rfl) _ _,
    overList_leaves (f := State.cutEdges) State.points (fun _ _ => rfl) _ _,
    overList_leaves (f := State.cutEdges) State.deferred (fun _ _ => rfl) _ _⟩

theorem State.rd_rampArmed (s : State) {a : Nat} (ha : devWords a) :
    s.rampArmed.rd a = ((s.rampFrom.setB F.PWR_STAT_RAMP true).setF F.PWR_STAT_STEP 0).rd a :=
  (State.evClear_devLeaves _).rd a ha

theorem State.pfail_acts {s : State} {pin : Bool} {vs held : Nat} (hon : s.pfailOn pin vs = true)
    (hheld : 50 * max 1 (s.f F.PWR_CFG_PF_FILT) ≤ held) (hm : 2 ≤ s.mode) (hin : s.b F.PWR_STAT_PFAIL_IN = false)
    (hramp : s.b F.PWR_STAT_RAMP = false) : s.pfail pin vs held =
      if s.b F.PWR_STAT_RAMP_BAD then s.pfailShown.causeSafe causePfailNoRamp else s.pfailShown.rampBegun := by
  unfold State.pfail
  rw [if_neg (by simp [hon, hin, Nat.not_lt.mpr hheld]), if_neg (Nat.not_lt.mpr hm)]
  have hr : s.pfailShown.b F.PWR_STAT_RAMP = false := (s.pfailShown_other (.inl rfl)).trans hramp
  have hb := s.pfailShown_other (x := F.PWR_STAT_RAMP_BAD) (.inr rfl)
  unfold State.pfailShown at hr hb
  dsimp only
  rw [hr, hb]
  rfl

/-- With a valid program the ramp runs from step 0. -/
theorem State.rampBegun_shows (s : State) : s.pfailShown.rampBegun.b F.PWR_STAT_PFAIL_IN = true
    ∧ s.pfailShown.rampBegun.b F.PWR_STAT_PFAIL_SEEN = true ∧ s.pfailShown.rampBegun.b F.PWR_STAT_RAMP = true
    ∧ s.pfailShown.rampBegun.f F.PWR_STAT_STEP = 0 ∧ s.pfailShown.rampBegun.pwr.prog = s.rampProg
    ∧ s.pfailShown.rampBegun.placed = [] ∧ s.pfailShown.rampBegun.points = [] ∧ s.pfailShown.rampBegun.deferred = [] := by
  obtain ⟨hp, hq, hd⟩ := State.evClear_clears ((s.pfailShown.rampFrom.setB F.PWR_STAT_RAMP true).setF F.PWR_STAT_STEP 0)
  have hrd := s.pfailShown.rd_rampArmed devWords_pwrStat
  have hfrom := s.pfailShown.rd_rampFrom devWords_pwrStat (by decide)
  refine ⟨?_, ?_, ?_, ?_, ?_, hp, hq, hd⟩
  · calc _ = s.pfailShown.rampArmed.b F.PWR_STAT_PFAIL_IN := rfl
      _ = _ := State.b_of_rd (x := F.PWR_STAT_PFAIL_IN) hrd
      _ = s.pfailShown.rampFrom.b F.PWR_STAT_PFAIL_IN :=
          (State.b_setF_other _ _ (.inr (by decide))).trans (State.b_setB_other _ _ (.inr (by decide)))
      _ = s.pfailShown.b F.PWR_STAT_PFAIL_IN := State.b_of_rd (x := F.PWR_STAT_PFAIL_IN) hfrom
      _ = true := s.pfailShown_in
  · calc _ = s.pfailShown.rampArmed.b F.PWR_STAT_PFAIL_SEEN := rfl
      _ = _ := State.b_of_rd (x := F.PWR_STAT_PFAIL_SEEN) hrd
      _ = s.pfailShown.rampFrom.b F.PWR_STAT_PFAIL_SEEN :=
          (State.b_setF_other _ _ (.inr (by decide))).trans (State.b_setB_other _ _ (.inr (by decide)))
      _ = s.pfailShown.b F.PWR_STAT_PFAIL_SEEN := State.b_of_rd (x := F.PWR_STAT_PFAIL_SEEN) hfrom
      _ = true := s.pfailShown_seen
  · calc _ = s.pfailShown.rampArmed.b F.PWR_STAT_RAMP := rfl
      _ = _ := State.b_of_rd (x := F.PWR_STAT_RAMP) hrd
      _ = true := (State.b_setF_other _ _ (.inr (by decide))).trans (State.b_setB_same _ _ (by decide) rfl)
  · calc _ = s.pfailShown.rampArmed.f F.PWR_STAT_STEP := rfl
      _ = _ := State.f_of_rd (x := F.PWR_STAT_STEP) hrd
      _ = 0 := State.f_setF_same _ 0 (by decide)
  · refine List.map_congr_left fun j hj => ?_
    have hj : j < 32 := List.mem_range.mp hj
    have hw : devWords (R.PWR_RAMP j) := by
      unfold devWords
      simp only [R.PWR_RAMP, R.SYS_TWIN, R.SYS_SAFE_CNT, R.PWR_VSG_STAT]
      omega
    have hne : ∀ k, k < 0x1400 → R.PWR_RAMP j ≠ k := fun k hk => by simp only [R.PWR_RAMP]; omega
    calc _ = _ := s.pfailShown.rd_rampArmed hw
      _ = s.pfailShown.rampFrom.rd (R.PWR_RAMP j) :=
          (State.rd_setF_other _ _ (hne _ (by decide))).trans (State.rd_setB_other _ _ (hne _ (by decide)))
      _ = s.pfailShown.rd (R.PWR_RAMP j) := s.pfailShown.rd_rampFrom hw (hne _ (by decide))
      _ = s.rd (R.PWR_RAMP j) := (s.rd_pfailShown hw).trans
          ((State.rd_setB_other _ _ (hne _ (by decide))).trans (State.rd_setB_other _ _ (hne _ (by decide))))

/-- With RAMP_BAD set no ramp runs, and the mode becomes SAFE (R244). -/
theorem State.pfailSafe_shows {s : State} (hm : 2 ≤ s.mode) (hramp : s.b F.PWR_STAT_RAMP = false) :
    let t := s.pfailShown.causeSafe causePfailNoRamp
    t.b F.PWR_STAT_PFAIL_IN = true ∧ t.b F.PWR_STAT_PFAIL_SEEN = true ∧ t.b F.PWR_STAT_RAMP = false ∧ t.mode = 6 := by
  have hrd := s.pfailShown.rd_causeSafe causePfailNoRamp devWords_pwrStat (by decide)
  refine ⟨(State.b_of_rd (x := F.PWR_STAT_PFAIL_IN) hrd).trans s.pfailShown_in,
    (State.b_of_rd (x := F.PWR_STAT_PFAIL_SEEN) hrd).trans s.pfailShown_seen,
    ((State.b_of_rd (x := F.PWR_STAT_RAMP) hrd).trans (s.pfailShown_other (.inl rfl))).trans hramp, ?_⟩
  rw [State.mode_causeSafe, State.mode_pfailShown, if_pos hm]

/-! ### The stop ramp (R244, Table 11.9) -/

/-- A step's action leaves the words of SYS and PWR, but the sequencer's. -/
theorem State.rd_rampAct (s : State) (op arg : Nat) {a : Nat} (ha : devWords a) (hs : a ≠ R.PWR_SEQ_CTL) :
    (s.rampAct op arg).rd a = s.rd a := by
  have hbanks : ∀ x : State, x.DevLeaves (x.banksOff arg) := fun x => x.vEndAll_devLeaves _ State.cancelSupply_devLeaves State.vStop_devLeaves
  unfold State.rampAct
  split
  · exact (hbanks s).rd a ha
  · exact ((hbanks _).trans (.overList State.bankSettle_devLeaves _ _)).rd a ha
  · exact (State.bstCompare_devLeaves _).rd a ha
  · exact (State.guardSettle_devLeaves _).rd a ha
  · split
    · exact overList_leaves (f := (State.holdPin · 0)) (fun x => x.rd a) (fun _ _ => rfl) _ s
    · exact overList_leaves (f := fun x i => x.holdPin 0 (10 * arg + i)) (fun x => x.rd a) (fun _ _ => rfl) _ s
  · rfl
  · rfl
  · split
    · exact (State.DevLeaves.overList State.rnStop_devLeaves _ s).rd a ha
    · exact (s.rnStop_devLeaves arg).rd a ha
  · exact overList_leaves (fun x => x.rd a) (fun x i => x.rd_seqOut _ _ hs) _ _
  · rfl

/-- A step that is due, before its end is judged. -/
def State.rampMoved (s : State) : State :=
  let k := s.f F.PWR_STAT_STEP
  let w := s.pwr.prog.getD k 0
  (State.setF { s with pwr := { s.pwr with stepAt := s.now } } F.PWR_STAT_STEP (k + 1)).rampAct (getBits w 0 4) (getBits w 4 8)

theorem State.rampStep_acts {s : State} (hr : s.b F.PWR_STAT_RAMP = true)
    (hp : s.pwrPassed s.pwr.stepAt (500 * getBits (s.pwr.prog.getD (s.f F.PWR_STAT_STEP) 0) 12 12) = true) :
    s.rampStep = if getBits (s.pwr.prog.getD (s.f F.PWR_STAT_STEP) 0) 0 4 = 0
        ∨ getBits (s.pwr.prog.getD 31 0) 0 5 ≤ s.f F.PWR_STAT_STEP + 1 then s.rampMoved.rampEnd else s.rampMoved := by
  unfold State.rampStep
  dsimp only
  rw [if_neg (by rw [hr, hp]; decide)]
  refine if_congr ?_ rfl rfl
  simp

theorem State.rd_rampMoved (s : State) {a : Nat} (ha : devWords a) (hs : a ≠ R.PWR_SEQ_CTL) :
    s.rampMoved.rd a = (s.setF F.PWR_STAT_STEP (s.f F.PWR_STAT_STEP + 1)).rd a := State.rd_rampAct _ _ _ ha hs

theorem State.mode_rampMoved (s : State) : s.rampMoved.mode = s.mode :=
  (State.f_of_rd (x := F.SYS_MODE_MODE) (s.rd_rampMoved (.inl (by decide)) (by decide))).trans (State.f_setF_other _ _ (.inl (by decide)))

/-- The end of a ramp (R245). -/
theorem State.rampEnd_shows {s : State} (hm : 2 ≤ s.mode) : s.rampEnd.b F.PWR_STAT_RAMP = false ∧ s.rampEnd.b F.PWR_STAT_RAMP_DONE = true
    ∧ s.rampEnd.mode = 6 := by
  have hrd : s.rampEnd.rd R.PWR_STAT = ((s.setB F.PWR_STAT_RAMP false).setB F.PWR_STAT_RAMP_DONE true).rd R.PWR_STAT :=
    (State.rd_causeSafe _ _ devWords_pwrStat (by decide)).trans
      (((State.log_devLeaves _ .pwrRampDone wholeDevice 0).trans (State.pulse_devLeaves _ 232)).rd _ devWords_pwrStat)
  refine ⟨(State.b_of_rd (x := F.PWR_STAT_RAMP) hrd).trans ((State.b_setB_other _ _ (.inr (by decide))).trans
      (State.b_setB_same _ _ (by decide) rfl)), (State.b_of_rd (x := F.PWR_STAT_RAMP_DONE) hrd).trans (State.b_setB_same _ _ (by decide) rfl), ?_⟩
  refine (State.mode_causeSafe _ _).trans (if_pos ?_)
  rw [State.mode_pulse, State.mode_log, State.mode_setB _ _ (by decide), State.mode_setB _ _ (by decide)]
  exact hm

/-! ### The poller (R246, R247) -/

theorem State.pmbDone_poll {s : State} {i : Nat} (h : s.pwr.job = some (.poll i)) (d : List Byte) : s.pmbDone (.ok d) =
    (s.pollOk i ((d.map BitVec.toNat).take (if s.b (F.PWR_PMB_POLL_BYTE i) then 1 else 2))).pmbNext := by
  unfold State.pmbDone
  rw [h]
  rfl

/-- The next transaction moves no word but PMB_STAT. -/
theorem State.rd_pmbNext (s : State) {a : Nat} (ha : a ≠ R.PWR_PMB_STAT) : s.pmbNext.rd a = s.rd a := by
  unfold State.pmbNext
  split
  · exact State.rd_setB_other _ _ ha
  · exact State.rd_setB_other _ _ ha

/-- Of PMB_STAT it moves BUSY alone. -/
theorem State.f_pmbNext (s : State) {x : Fld} (hlo : 1 ≤ x.lo) : s.pmbNext.f x = s.f x := by
  unfold State.pmbNext
  split
  · exact State.f_setB_other _ _ (.inr (.inl hlo))
  · exact State.f_setB_other _ _ (.inr (.inl hlo))

theorem pmbData_ne (i : Nat) : R.PWR_PMB_DATA i ≠ R.PWR_PMB_STAT := by simp only [R.PWR_PMB_DATA, R.PWR_PMB_STAT]; omega

/-- STALE of an entry moves no other field of its data. -/
theorem State.f_setStale_other (s : State) (i : Nat) (v : Bool) {x : Fld} (hx : x.addr = R.PWR_PMB_DATA i)
    (h : 18 ≤ x.lo ∨ x.lo + x.len ≤ 17) : (s.setStale i v).f x = s.f x :=
  (State.f_setB_other _ (x := F.PWR_PMB_DATA_STALE i) _ (.inr h)).trans (State.f_setF_other _ _ (.inl (by rw [hx]; exact pmbData_ne i)))

theorem State.stale_setStale (s : State) (i : Nat) (v : Bool) : (s.setStale i v).b (F.PWR_PMB_DATA_STALE i) = v :=
  State.b_setB_same _ _ (by decide : 17 + 1 ≤ 32) rfl

theorem ofBytes_two : ∀ l : List Nat, l.length ≤ 2 → ofBytes l < 2 ^ 16
  | [], _ => by decide
  | [a], _ => by simp only [ofBytes]; omega
  | [a, b], _ => by simp only [ofBytes]; omega

theorem State.f_pmbNext_data (s : State) {x : Fld} (i : Nat) (hx : x.addr = R.PWR_PMB_DATA i) : s.pmbNext.f x = s.f x :=
  State.f_of_rd (s.rd_pmbNext (by rw [hx]; exact pmbData_ne i))

/-- A poll that ends well stores its bytes (R247). -/
theorem State.pollOk_shows (s : State) (i : Nat) {data : List Nat} (hd : data.length ≤ 2) :
    (s.pollOk i data).pmbNext.f (F.PWR_PMB_DATA_RAW i) = ofBytes data ∧ (s.pollOk i data).pmbNext.b (F.PWR_PMB_DATA_VALID i) = true
    ∧ (s.pollOk i data).pmbNext.b (F.PWR_PMB_DATA_STALE i) = false := by
  have hb : ∀ (x y : State) (f : Fld), x.f f = y.f f → x.b f = y.b f := fun x y f h => by unfold State.b; rw [h]
  unfold State.pollOk
  extract_lets fails s1 v
  refine ⟨?_, ?_, ?_⟩
  · calc _ = _ := State.f_pmbNext_data _ i rfl
      _ = _ := State.f_setStale_other _ i false rfl (.inr (by decide : 0 + 16 ≤ 17))
      _ = (s1.setF (F.PWR_PMB_DATA_RAW i) v).f (F.PWR_PMB_DATA_RAW i) := State.f_setB_other _ (x := F.PWR_PMB_DATA_VALID i) _ (.inr (.inr (by decide : 0 + 16 ≤ 16)))
      _ = v := (State.f_setF_same _ _ (by decide : 0 + 16 ≤ 32)).trans (Nat.mod_eq_of_lt (ofBytes_two _ hd))
  · calc _ = _ := hb _ _ _ (State.f_pmbNext_data _ i rfl)
      _ = _ := hb _ _ _ (State.f_setStale_other _ i false rfl (.inr (by decide : 16 + 1 ≤ 17)))
      _ = true := State.b_setB_same _ _ (by decide : 16 + 1 ≤ 32) rfl
  · exact (hb _ _ _ (State.f_pmbNext_data _ i rfl)).trans (State.stale_setStale _ i false)

/-- A poll that ends otherwise fails, by its PEC only where PEC is set (R246). -/
theorem State.pmbDone_failed {s : State} {i : Nat} (h : s.pwr.job = some (.poll i)) {r : PmbResult} (hr : ∀ d, r ≠ .ok d)
    (hp : r = .pecBad → s.b F.PWR_PMB_CFG_PEC = true) : s.pmbDone r = (s.pollFailed i).pmbNext := by
  unfold State.pmbDone
  rw [h]
  dsimp only
  cases r with
  | ok d => exact absurd rfl (hr d)
  | nack => rfl
  | pecBad => rw [hp rfl]; rfl

theorem State.pmbDone_noPec {s : State} {i : Nat} (h : s.pwr.job = some (.poll i)) (hp : s.b F.PWR_PMB_CFG_PEC = false) :
    s.pmbDone .pecBad = s := by
  unfold State.pmbDone
  rw [h]
  dsimp only
  rw [hp]
  rfl

theorem testBit_setBit_self (v k : Nat) : (setBit v k).testBit k = true := by
  simp [setBit, Nat.testBit_or, Nat.testBit_shiftLeft]

theorem State.staleBits_setStale (s : State) (i : Nat) (v : Bool) : (s.setStale i v).f F.PWR_PMB_STAT_STALE
    = (if v then setBit (s.f F.PWR_PMB_STAT_STALE) i else clrBit (s.f F.PWR_PMB_STAT_STALE) i) % 2 ^ 16 :=
  (State.f_setB_other _ _ (.inl (pmbData_ne i).symm)).trans (State.f_setF_same _ _ (by decide))

theorem devWords_pmbStat : devWords R.PWR_PMB_STAT := devWords_sys (by decide) (by decide) (by decide) (by decide)

theorem devWords_pmbData {i : Nat} (hi : i < 16) : devWords (R.PWR_PMB_DATA i) := by
  unfold devWords
  simp only [R.PWR_PMB_DATA, R.SYS_TWIN, R.SYS_SAFE_CNT, R.PWR_VSG_STAT]
  omega

/-- The third failure in a row sets STALE in both places (R247). -/
theorem State.pollFailed_third {s : State} {i : Nat} (hi : i < 16) (h : s.pwr.fails.find? (fun e => e.1 == i) = some (i, 2)) :
    (s.pollFailed i).pmbNext.b (F.PWR_PMB_DATA_STALE i) = true
    ∧ ((s.pollFailed i).pmbNext.f F.PWR_PMB_STAT_STALE).testBit i = true := by
  unfold State.pollFailed
  rw [h]
  extract_lets k fails s1
  rw [if_pos (show k = 3 from rfl)]
  have hlog : (s1.setStale i true).DevLeaves (((s1.setStale i true).log .pwrPmbFail i 0).pulse 231) :=
    (State.log_devLeaves _ _ _ _).trans (State.pulse_devLeaves _ _)
  constructor
  · have hd : devWords (F.PWR_PMB_DATA_STALE i).addr := devWords_pmbData hi
    rw [State.b_of_rd (x := F.PWR_PMB_DATA_STALE i) (State.rd_pmbNext _ (pmbData_ne i)), hlog.b hd]
    exact s1.stale_setStale i true
  · rw [State.f_pmbNext _ (x := F.PWR_PMB_STAT_STALE) (by decide), hlog.f (x := F.PWR_PMB_STAT_STALE) devWords_pmbStat,
      State.staleBits_setStale, Nat.testBit_mod_two_pow, decide_eq_true hi, Bool.true_and]
    exact testBit_setBit_self _ i

/-- The first failure counts, and no word but the poller's shows it. -/
theorem State.pollFailed_first {s : State} {i : Nat} (h : s.pwr.fails.find? (fun e => e.1 == i) = none) {a : Nat}
    (ha : a ≠ R.PWR_PMB_STAT) : (s.pollFailed i).pmbNext.rd a = s.rd a := by
  rw [State.rd_pmbNext _ ha]
  unfold State.pollFailed
  rw [h]
  rfl

/-- A failure leaves BUS_TIMEOUT. -/
theorem State.busTimeout_pollFailed (s : State) (i : Nat) : (s.pollFailed i).b F.PWR_PMB_STAT_BUS_TIMEOUT = s.b F.PWR_PMB_STAT_BUS_TIMEOUT := by
  unfold State.pollFailed
  extract_lets k fails s1
  split
  · have hlog := (State.log_devLeaves (s1.setStale i true) .pwrPmbFail i 0).trans (State.pulse_devLeaves _ 231)
    rw [hlog.b (x := F.PWR_PMB_STAT_BUS_TIMEOUT) devWords_pmbStat]
    exact (State.b_setB_other _ _ (.inl (pmbData_ne i).symm)).trans (State.b_setF_other _ _ (.inr (by decide)))
  · rfl

/-- A clock held for 35 ms ends the transaction with BUS_TIMEOUT (R246). -/
theorem State.pmbTimeout_shows {s : State} {j : PmbJob} (h : s.pwr.job = some j) (hp : s.pwrPassed s.pwr.jobAt (35 * ms) = true) :
    s.pmbTimeout.b F.PWR_PMB_STAT_BUS_TIMEOUT = true := by
  have hset : (s.setB F.PWR_PMB_STAT_BUS_TIMEOUT true).b F.PWR_PMB_STAT_BUS_TIMEOUT = true := State.b_setB_same _ _ (by decide) rfl
  have hnext : ∀ x : State, x.pmbNext.b F.PWR_PMB_STAT_BUS_TIMEOUT = x.b F.PWR_PMB_STAT_BUS_TIMEOUT := fun x => by
    unfold State.b
    rw [State.f_pmbNext _ (x := F.PWR_PMB_STAT_BUS_TIMEOUT) (by decide)]
  unfold State.pmbTimeout
  rw [h]
  dsimp only
  rw [if_neg (by simp [hp]), hnext]
  cases j with
  | poll i => exact (State.busTimeout_pollFailed _ i).trans hset
  | ara => exact ((State.log_devLeaves _ _ _ _).b (x := F.PWR_PMB_STAT_BUS_TIMEOUT) devWords_pmbStat).trans hset
  | cmd src => exact ((State.complete_devLeaves _ _ _ _ _).b (x := F.PWR_PMB_STAT_BUS_TIMEOUT) devWords_pmbStat).trans hset

/-- A due entry, none before it due and the bus free, becomes the transaction in progress (R247). -/
theorem State.pmbPoll_shows {s : State} {i : Nat} (hen : s.b F.PWR_PMB_CFG_EN = true) (hj : s.pwr.job = none) (hd : s.pmbDue i = true)
    (hf : ∀ j, j < i → s.pmbDue j = false) : (s.pmbPoll i).pwr.job = some (.poll i) ∧ (s.pmbPoll i).b F.PWR_PMB_STAT_BUSY = true
    ∧ ∀ a, a ≠ R.PWR_PMB_STAT → (s.pmbPoll i).rd a = s.rd a := by
  have hnone : (List.range i).any s.pmbDue = false := by
    rw [List.any_eq_false]
    intro j hj'
    rw [hf j (List.mem_range.mp hj')]
    decide
  unfold State.pmbPoll State.pmbStart
  rw [if_pos (by simp only [hen, hj, hd, hnone, Option.isNone_none, Bool.not_false, Bool.and_self])]
  exact ⟨congrArg Power.job (State.pwr_setB_frame _ _ _), State.b_setB_same _ _ (by decide) rfl, fun a ha => State.rd_setB_other _ _ ha⟩

/-- Settles O45: the supervisors, the warning, the ramp and the poller, each by what its row shows. -/
theorem supervisorsRampAndPmbusAct : Obligations.SupervisorsRampAndPmbusAct := by
  refine ⟨fun s r hr => ?_, fun s h => ⟨_, rfl, State.railUv_vgd_shows h⟩, fun r s h => ⟨_, rfl, State.railOv_shows h⟩,
    fun r s hr => ⟨fun h => ⟨_, rfl, State.railWarn_shows hr h⟩, _, rfl, s.railClear_shows hr⟩,
    fun s => ⟨rfl, s.unflag R.PWR_RAIL_STAT 7, rfl, ?_, fun a ha => State.rd_wr_other _ _ ha⟩, fun s => ⟨_, rfl, s.vgdBack_shows⟩,
    fun pin vs held s => ?_, fun s hr hm => ?_, fun s h => ?_, fun s hl hr hin hp => ?_, fun i s hen hj hd hf => ⟨_, rfl, State.pmbPoll_shows hen hj hd hf⟩,
    fun i d s hj => ?_, fun i r s hj hr => ⟨?_, fun hp => ⟨fun hf => ?_, fun hf => ?_⟩⟩, fun j s hj hp => ⟨_, rfl, State.pmbTimeout_shows hj hp⟩⟩
  · refine ⟨_, congrArg Host.Outcome.next (s.railUv_cold hr), State.mode_coldReset _ _ _, ?_, fun a hc hm => State.rd_coldReset _ _ _ hc hm⟩
    rw [State.cause_coldReset]
    cases r <;> rfl
  · rw [State.getLsbD_unflag_same]
    simp
  · refine ⟨fun h => congrArg Host.Outcome.next (State.pfail_idle (h.imp (fun hw ho => hw ((s.pfailOn_iff pin _).mp ho)) id)),
      fun hw hheld hm hin hramp => ?_⟩
    have hact := State.pfail_acts ((s.pfailOn_iff pin _).mpr hw) hheld hm hin hramp
    refine ⟨fun hb => ?_, fun hb => ?_⟩
    · exact ⟨_, congrArg Host.Outcome.next (hact.trans (if_neg (by simp [hb]))), s.rampBegun_shows⟩
    · exact ⟨_, congrArg Host.Outcome.next (hact.trans (if_pos hb)), State.pfailSafe_shows hm hramp⟩
  · intro k w last hp
    have hact := State.rampStep_acts hr hp
    refine ⟨fun hl => ⟨_, congrArg Host.Outcome.next (hact.trans (if_pos hl)), State.rampEnd_shows (by rw [s.mode_rampMoved]; exact hm)⟩,
      fun hl => ⟨_, congrArg Host.Outcome.next (hact.trans (if_neg hl)), ?_, ?_, s.mode_rampMoved⟩⟩
    · exact ((State.b_of_rd (x := F.PWR_STAT_RAMP) (s.rd_rampMoved devWords_pwrStat (by decide))).trans
        (State.b_setF_other _ _ (.inr (by decide)))).trans hr
    · have hlt : k + 1 < 2 ^ 5 := by
        have h1 : getBits (s.pwr.prog.getD 31 0) 0 5 < 2 ^ 5 := getBits_lt _ _ _
        have h2 := (not_or.mp hl).2
        omega
      exact (State.f_of_rd (x := F.PWR_STAT_STEP) (s.rd_rampMoved devWords_pwrStat (by decide))).trans
        ((State.f_setF_same s _ (by decide)).trans (Nat.mod_eq_of_lt hlt))
  · refine ⟨State.setB { s with pwr := { s.pwr with clearAt := s.now } } F.PWR_STAT_PFAIL_IN false, congrArg Host.Outcome.next (if_neg (by simp [h])),
      State.b_setB_same _ _ (by decide) rfl, rfl, fun a ha => State.rd_setB_other _ _ ha⟩
  · exact congrArg Host.Outcome.next (if_pos (by simp [hl, hr, hin, hp]))
  · obtain ⟨hraw, hv, hs⟩ := s.pollOk_shows i.val (data := (d.map BitVec.toNat).take (if s.b (F.PWR_PMB_POLL_BYTE i) then 1 else 2))
      (by rw [List.length_take]; split <;> omega)
    exact ⟨_, congrArg Host.Outcome.next (State.pmbDone_poll hj d), hraw, hv, hs⟩
  · exact fun hpec hp => by
      subst hpec
      exact congrArg Host.Outcome.next (State.pmbDone_noPec hj hp)
  · exact ⟨_, congrArg Host.Outcome.next (State.pmbDone_failed hj hr hp), State.pollFailed_third i.isLt hf⟩
  · exact ⟨_, congrArg Host.Outcome.next (State.pmbDone_failed hj hr hp), fun a ha => State.pollFailed_first hf ha⟩

end Sys2Proof.Machine
end

section
/-! The order of a trough's pointers (R280, R282, R285, R287): counted from REL, what each operation makes of them. -/

namespace Sys2Proof.Machine

open Sys2Proof

/-! ### Differences of pointers (R280) -/

section
variable {m a b c n : Nat}

theorem pdiff_eq (ha : a < m) (hb : b < m) : pdiff m a b = if b ≤ a then a - b else a + m - b := by
  unfold pdiff
  rw [if_neg (by omega), Nat.mod_eq_of_lt hb]
  split
  · rw [show a + (m - b) = (a - b) + m by omega, Nat.add_mod_right, Nat.mod_eq_of_lt (by omega)]
  · rw [Nat.mod_eq_of_lt (by omega)]
    omega

theorem pdiff_self (ha : a < m) : pdiff m a a = 0 := by
  rw [pdiff_eq ha ha, if_pos le_rfl, Nat.sub_self]

theorem pdiff_lt (ha : a < m) (hb : b < m) : pdiff m a b < m := by
  rw [pdiff_eq ha hb]
  split <;> omega

theorem next_eq (ha : a < m) (hn : n < m) : (a + n) % m = if a + n < m then a + n else a + n - m := by
  split
  · exact Nat.mod_eq_of_lt ‹_›
  · rw [Nat.mod_eq_sub_mod (by omega), Nat.mod_eq_of_lt (by omega)]

/-- A pointer moves one word on. -/
theorem pdiff_next (ha : a < m) (hb : b < m) (h : pdiff m a b + 1 < m) : pdiff m ((a + 1) % m) b = pdiff m a b + 1 := by
  have hn : (a + 1) % m < m := Nat.mod_lt _ (by omega)
  rw [pdiff_eq hn hb]
  rw [pdiff_eq ha hb] at h ⊢
  rw [next_eq ha (by omega)] at hn ⊢
  split_ifs at h hn ⊢ <;> omega

/-- The pointer that is counted from moves on by no more than the distance. -/
theorem pdiff_from (ha : a < m) (hb : b < m) (h : n ≤ pdiff m a b) : pdiff m a ((b + n) % m) = pdiff m a b - n := by
  have hlt := pdiff_lt ha hb
  have hn : (b + n) % m < m := Nat.mod_lt _ (by omega)
  rw [pdiff_eq ha hn]
  rw [pdiff_eq ha hb] at h hlt ⊢
  rw [next_eq hb (by omega)] at hn ⊢
  split_ifs at h hlt hn ⊢ <;> omega

/-- The distance of two pointers that are counted from a third. -/
theorem pdiff_between (ha : a < m) (hb : b < m) (hc : c < m) (h : pdiff m b c ≤ pdiff m a c) :
    pdiff m a b = pdiff m a c - pdiff m b c := by
  rw [pdiff_eq ha hb]
  rw [pdiff_eq ha hc, pdiff_eq hb hc] at h ⊢
  split_ifs at h ⊢ <;> omega

end

/-! ### One trough -/

/-- The pointers of a trough of `S` words are in order. -/
structure Trough.InOrder (host : Bool) (S : Nat) (t : Trough) : Prop where
  w_lt : t.w < 2 * S
  r_lt : t.r < 2 * S
  rel_lt : t.rel < 2 * S
  mark_lt : t.mark < 2 * S
  wSeen_lt : t.wSeen < 2 * S
  relSeen_lt : t.relSeen < 2 * S
  r_le : pdiff (2 * S) t.r t.rel ≤ pdiff (2 * S) t.w t.rel
  w_le : pdiff (2 * S) t.w t.rel ≤ S
  mark_le : t.markOk = true → pdiff (2 * S) t.mark t.rel ≤ pdiff (2 * S) t.w t.rel
  seen : host = true → pdiff (2 * S) t.r t.rel ≤ pdiff (2 * S) t.wSeen t.rel ∧ pdiff (2 * S) t.wSeen t.rel ≤ pdiff (2 * S) t.w t.rel
    ∧ (t.markOk = true → pdiff (2 * S) t.mark t.rel ≤ pdiff (2 * S) t.wSeen t.rel)
    ∧ pdiff (2 * S) t.w t.rel ≤ pdiff (2 * S) t.w t.relSeen ∧ pdiff (2 * S) t.w t.relSeen ≤ S

/-- It is what the model's own order says of a trough of a state. -/
theorem State.troughInOrder_iff (s : State) (q : Nat) : s.TroughInOrder q ↔ (s.tq q).InOrder (hostFacing q) (s.trgSize q) :=
  ⟨fun ⟨h1, h2, h3, h4, h5, h6, h7, h8, h9, h10⟩ => ⟨h1, h2, h3, h4, h5, h6, h7, h8, h9, h10⟩,
    fun ⟨h1, h2, h3, h4, h5, h6, h7, h8, h9, h10⟩ => ⟨h1, h2, h3, h4, h5, h6, h7, h8, h9, h10⟩⟩

namespace Trough.InOrder

variable {host : Bool} {S : Nat} {t u : Trough}

/-- An empty trough. -/
theorem empty (hS : 0 < S) : ({} : Trough).InOrder host S := by
  have h0 : pdiff (2 * S) 0 0 = 0 := pdiff_self (by omega)
  have hlt : 0 < 2 * S := by omega
  refine ⟨hlt, hlt, hlt, hlt, hlt, hlt, le_rfl, ?_, fun h => absurd h Bool.false_ne_true, fun _ =>
    ⟨le_rfl, le_rfl, fun h => absurd h Bool.false_ne_true, le_rfl, ?_⟩⟩
  · exact h0.le.trans (Nat.zero_le _)
  · exact h0.le.trans (Nat.zero_le _)

/-- What moves no pointer keeps the order. -/
theorem same (h : t.InOrder host S) (hw : u.w = t.w) (hr : u.r = t.r) (hrel : u.rel = t.rel) (hm : u.mark = t.mark)
    (hok : u.markOk = t.markOk) (hws : u.wSeen = t.wSeen) (hrs : u.relSeen = t.relSeen) : u.InOrder host S := by
  obtain ⟨h1, h2, h3, h4, h5, h6, h7, h8, h9, h10⟩ := h
  rw [← hw, ← hr, ← hrel, ← hm, ← hok, ← hws, ← hrs] at *
  exact ⟨h1, h2, h3, h4, h5, h6, h7, h8, h9, h10⟩

/-- W moves on where the producer end sees room. -/
theorem push (h : t.InOrder host S) (p : Option (Nat × Nat))
    (hs : 0 < S - pdiff (2 * S) t.w (if host then t.relSeen else t.rel)) :
    Trough.InOrder host S { t with w := (t.w + 1) % (2 * S), pushIn := p } := by
  obtain ⟨h1, h2, h3, h4, h5, h6, h7, h8, h9, h10⟩ := h
  have hroom : pdiff (2 * S) t.w t.rel < S := by
    cases host with
    | false => exact Nat.lt_of_sub_pos hs
    | true =>
      obtain ⟨-, -, -, hle, -⟩ := h10 rfl
      exact Nat.lt_of_le_of_lt hle (Nat.lt_of_sub_pos hs)
  have hw := pdiff_next h1 h3 (by omega)
  refine ⟨Nat.mod_lt _ (by omega), h2, h3, h4, h5, h6, ?_, ?_, fun hok => ?_, fun hh => ?_⟩
  · exact (Nat.le_succ_of_le h7).trans_eq hw.symm
  · exact hw.trans_le hroom
  · exact (Nat.le_succ_of_le (h9 hok)).trans_eq hw.symm
  · subst hh
    obtain ⟨k1, k2, k3, k4, k5⟩ := h10 rfl
    have hs' : pdiff (2 * S) t.w t.relSeen < S := Nat.lt_of_sub_pos hs
    have hw' := pdiff_next h1 h6 (by omega)
    refine ⟨k1, (Nat.le_succ_of_le k2).trans_eq hw.symm, k3, ?_, hw'.trans_le hs'⟩
    rw [hw, hw']
    omega

/-- The words that the consumer end sees unread lie between R and W. -/
theorem unread_le (h : t.InOrder host S) (hu : 0 < pdiff (2 * S) (if host then t.wSeen else t.w) t.r) :
    pdiff (2 * S) t.r t.rel < pdiff (2 * S) t.w t.rel ∧ (host = true → pdiff (2 * S) t.r t.rel < pdiff (2 * S) t.wSeen t.rel) := by
  cases host with
  | false =>
    have := pdiff_between h.w_lt h.r_lt h.rel_lt h.r_le
    exact ⟨by simp only [Bool.false_eq_true, if_false] at hu; omega, fun hh => absurd hh Bool.false_ne_true⟩
  | true =>
    obtain ⟨k1, k2, -, -, -⟩ := h.seen rfl
    have := pdiff_between h.wSeen_lt h.r_lt h.rel_lt k1
    simp only [if_true] at hu
    exact ⟨by omega, fun _ => by omega⟩

/-- R moves on where a word is unread; it is then past REL. -/
theorem pull (h : t.InOrder host S) (hu : 0 < pdiff (2 * S) (if host then t.wSeen else t.w) t.r) :
    Trough.InOrder host S { t with r := (t.r + 1) % (2 * S) } ∧ 1 ≤ pdiff (2 * S) ((t.r + 1) % (2 * S)) t.rel := by
  obtain ⟨hlt, hseen⟩ := h.unread_le hu
  obtain ⟨h1, h2, h3, h4, h5, h6, h7, h8, h9, h10⟩ := h
  have hr := pdiff_next h2 h3 (by omega)
  refine ⟨⟨h1, Nat.mod_lt _ (by omega), h3, h4, h5, h6, hr.trans_le hlt, h8, h9, fun hh => ?_⟩, by omega⟩
  obtain ⟨k1, k2, k3, k4, k5⟩ := h10 hh
  exact ⟨hr.trans_le (hseen hh), k2, k3, k4, k5⟩

/-- REL moves on, not past R. -/
theorem relBy (h : t.InOrder host S) {n : Nat} (hn : n ≤ pdiff (2 * S) t.r t.rel) : (t.relBy (2 * S) n).InOrder host S := by
  obtain ⟨h1, h2, h3, h4, h5, h6, h7, h8, h9, h10⟩ := h
  have hr := pdiff_from h2 h3 hn
  have hw := pdiff_from h1 h3 (hn.trans h7)
  have hmark : (t.markOk && !decide (pdiff (2 * S) t.mark t.rel < n)) = true →
      t.markOk = true ∧ pdiff (2 * S) t.mark ((t.rel + n) % (2 * S)) = pdiff (2 * S) t.mark t.rel - n := fun hok => by
    simp only [Bool.and_eq_true, Bool.not_eq_true', decide_eq_false_iff_not, Nat.not_lt] at hok
    exact ⟨hok.1, pdiff_from h4 h3 hok.2⟩
  refine ⟨h1, h2, Nat.mod_lt _ (by omega), h4, h5, h6, ?_, ?_, fun hok => ?_, fun hh => ?_⟩
  · show pdiff (2 * S) t.r ((t.rel + n) % (2 * S)) ≤ pdiff (2 * S) t.w ((t.rel + n) % (2 * S))
    omega
  · exact hw.trans_le ((Nat.sub_le _ _).trans h8)
  · obtain ⟨hok, hm⟩ := hmark hok
    have := h9 hok
    show pdiff (2 * S) t.mark ((t.rel + n) % (2 * S)) ≤ pdiff (2 * S) t.w ((t.rel + n) % (2 * S))
    omega
  · obtain ⟨k1, k2, k3, k4, k5⟩ := h10 hh
    have hws := pdiff_from h5 h3 (hn.trans k1)
    refine ⟨?_, ?_, fun hok => ?_, ?_, k5⟩
    · show pdiff (2 * S) t.r ((t.rel + n) % (2 * S)) ≤ pdiff (2 * S) t.wSeen ((t.rel + n) % (2 * S))
      omega
    · show pdiff (2 * S) t.wSeen ((t.rel + n) % (2 * S)) ≤ pdiff (2 * S) t.w ((t.rel + n) % (2 * S))
      omega
    · obtain ⟨hok, hm⟩ := hmark hok
      have := k3 hok
      show pdiff (2 * S) t.mark ((t.rel + n) % (2 * S)) ≤ pdiff (2 * S) t.wSeen ((t.rel + n) % (2 * S))
      omega
    · show pdiff (2 * S) t.w ((t.rel + n) % (2 * S)) ≤ pdiff (2 * S) t.w t.relSeen
      omega

/-- REL reaches the producer's clock. -/
theorem relCrosses (h : t.InOrder host S) : Trough.InOrder host S { t with relSeen := t.rel } := by
  obtain ⟨h1, h2, h3, h4, h5, h6, h7, h8, h9, h10⟩ := h
  refine ⟨h1, h2, h3, h4, h5, h3, h7, h8, h9, fun hh => ?_⟩
  obtain ⟨k1, k2, k3, k4, k5⟩ := h10 hh
  exact ⟨k1, k2, k3, le_rfl, h8⟩

/-- W reaches the consumer's clock. -/
theorem wCrosses (h : t.InOrder host S) : Trough.InOrder host S { t with wSeen := t.w } := by
  obtain ⟨h1, h2, h3, h4, h5, h6, h7, h8, h9, h10⟩ := h
  refine ⟨h1, h2, h3, h4, h1, h6, h7, h8, h9, fun hh => ?_⟩
  obtain ⟨k1, k2, k3, k4, k5⟩ := h10 hh
  exact ⟨h7, le_rfl, h9, k4, k5⟩

/-- The mark is put at R. -/
theorem marked (h : t.InOrder host S) : Trough.InOrder host S { t with mark := t.r, markOk := true } := by
  obtain ⟨h1, h2, h3, h4, h5, h6, h7, h8, h9, h10⟩ := h
  refine ⟨h1, h2, h3, h2, h5, h6, h7, h8, fun _ => h7, fun hh => ?_⟩
  obtain ⟨k1, k2, k3, k4, k5⟩ := h10 hh
  exact ⟨k1, k2, fun _ => k1, k4, k5⟩

/-- R goes back to a valid mark. -/
theorem rewound (h : t.InOrder host S) (hok : t.markOk = true) : Trough.InOrder host S { t with r := t.mark } := by
  obtain ⟨h1, h2, h3, h4, h5, h6, h7, h8, h9, h10⟩ := h
  refine ⟨h1, h4, h3, h4, h5, h6, h9 hok, h8, h9, fun hh => ?_⟩
  obtain ⟨k1, k2, k3, k4, k5⟩ := h10 hh
  exact ⟨k3 hok, k2, k3, k4, k5⟩

end Trough.InOrder

end Sys2Proof.Machine
end

section
/-! The order of the troughs' pointers over the commands that move one (R280 to R287, R60). -/

namespace Sys2Proof.Machine

open Sys2Proof

/-- From `s` to `t` the troughs' pointers and their CFG words are as they were. -/
structure State.TrgLeaves (s t : State) : Prop where
  cfg : ∀ k, k < 64 → t.rd (R.TRG_CFG k) = s.rd (R.TRG_CFG k)
  tq : ∀ k, t.tq k = s.tq k

namespace State.TrgLeaves

variable {s t u : State}

theorem refl (s : State) : s.TrgLeaves s := ⟨fun _ _ => rfl, fun _ => rfl⟩

theorem trans (h : s.TrgLeaves t) (k : t.TrgLeaves u) : s.TrgLeaves u :=
  ⟨fun q hq => (k.cfg q hq).trans (h.cfg q hq), fun q => (k.tq q).trans (h.tq q)⟩

theorem same (hr : t.regs = s.regs) (hq : t.trg = s.trg) : s.TrgLeaves t :=
  ⟨fun _ _ => State.rd_congr hr _, fun q => by unfold State.tq; rw [hq]⟩

end State.TrgLeaves

theorem devWords_trgCfg {k : Nat} (hk : k < 64) : devWords (R.TRG_CFG k) := by
  unfold devWords
  simp only [R.TRG_CFG]
  omega

theorem State.DevLeaves.trg {s t : State} (h : s.DevLeaves t) : s.TrgLeaves t := ⟨fun _ hk => h.rd _ (devWords_trgCfg hk), h.tq⟩

theorem State.TrgLeaves.size {s t : State} (h : s.TrgLeaves t) {k : Nat} (hk : k < 64) : t.trgSize k = s.trgSize k := by
  unfold State.trgSize State.trgLog
  rw [State.f_of_rd (x := F.TRG_CFG_SIZE_LOG k) (h.cfg k hk)]

theorem State.TrgLeaves.unread {s t : State} (h : s.TrgLeaves t) {q : Nat} (hq : q < 64) : t.trgUnread q = s.trgUnread q := by
  unfold State.trgUnread State.trgMod
  rw [h.tq, h.size hq]

theorem State.TrgLeaves.space {s t : State} (h : s.TrgLeaves t) {q : Nat} (hq : q < 64) : t.trgSpace q = s.trgSpace q := by
  unfold State.trgSpace State.trgMod
  rw [h.tq, h.size hq]

/-- Every trough's pointers are in order. -/
def State.AllInOrder (s : State) : Prop := ∀ k, k < 64 → s.TroughInOrder k

theorem State.AllInOrder.leaves {s t : State} (h : s.AllInOrder) (ht : s.TrgLeaves t) : t.AllInOrder := fun k hk => by
  rw [State.troughInOrder_iff, ht.tq, ht.size hk, ← State.troughInOrder_iff]
  exact h k hk

theorem State.AllInOrder.at {s : State} (h : s.AllInOrder) {q : Nat} (hq : q < 64) :
    (s.tq q).InOrder (hostFacing q) (s.trgSize q) := (s.troughInOrder_iff q).mp (h q hq)

/-- One trough's pointers are put in order; the others are as they were. -/
theorem State.AllInOrder.setTq {s : State} (h : s.AllInOrder) {q : Nat} {x : Trough} (hx : x.InOrder (hostFacing q) (s.trgSize q)) :
    (s.setTq q x).AllInOrder := fun k hk => by
  rw [State.troughInOrder_iff, State.tq_setTq]
  split
  · rename_i hkq
    rw [hkq]
    exact hx
  · exact h.at hk

theorem State.trgSize_pos (s : State) (q : Nat) : 0 < s.trgSize q := Nat.two_pow_pos _

/-! ### The words that accompany a move -/

section
variable (s : State)

theorem State.wr_trgLeaves {a : Nat} (w : Word) (ha : ∀ k, k < 64 → R.TRG_CFG k ≠ a) : s.TrgLeaves (s.wr a w) :=
  ⟨fun k hk => State.rd_wr_other s w (ha k hk), fun _ => rfl⟩

/-- The other words of a trough stand beside its CFG word. -/
theorem trgCfg_ne {q j : Nat} (hj : j < 0x40) (h4 : j ≠ 4) : ∀ k, k < 64 → R.TRG_CFG k ≠ 0x114000 + q * 0x40 + j := fun k _ => by
  simp only [R.TRG_CFG]
  omega

theorem State.note_trgLeaves (a : Nat) (new : Word → Word) : s.TrgLeaves (s.note a new) := (s.note_devLeaves a new).trg

theorem State.flag_trgLeaves {a : Nat} (k : Nat) (ha : ∀ j, j < 64 → R.TRG_CFG j ≠ a) : s.TrgLeaves (s.flag a k) :=
  (s.note_trgLeaves _ _).trans (State.wr_trgLeaves _ _ ha)

theorem State.bump_trgLeaves {a : Nat} (ha : ∀ j, j < 64 → R.TRG_CFG j ≠ a) : s.TrgLeaves (s.bump a) :=
  (s.note_trgLeaves _ _).trans (State.wr_trgLeaves _ _ ha)

theorem State.setB_trgLeaves {x : Fld} (v : Bool) (hx : ∀ j, j < 64 → R.TRG_CFG j ≠ x.addr) : s.TrgLeaves (s.setB x v) := by
  unfold State.setB
  split
  · exact (s.note_trgLeaves _ _).trans (State.wr_trgLeaves _ _ hx)
  · exact s.wr_trgLeaves _ hx

theorem State.logOnceFor_trgLeaves (c : LogCode) (k x d : Nat) : s.TrgLeaves (s.logOnceFor c k x d) := (s.logOnceFor_devLeaves c k x d).trg

theorem State.log_trgLeaves (c : LogCode) (x d : Nat) : s.TrgLeaves (s.log c x d) := (s.log_devLeaves c x d).trg

theorem State.deliver_trgLeaves (r : Requester) (w : Word) : s.TrgLeaves (s.deliver r w) := .same rfl rfl

theorem State.trgSet_trgLeaves (q bit : Nat) : s.TrgLeaves (s.trgSet q bit) := s.flag_trgLeaves _ (trgCfg_ne (j := 0x8) (by decide) (by decide))

theorem State.trgDrop_trgLeaves (q : Nat) : s.TrgLeaves (s.trgDrop q) := s.bump_trgLeaves (trgCfg_ne (j := 0x34) (by decide) (by decide))

theorem State.trgOverflow_trgLeaves (q : Nat) : s.TrgLeaves (s.trgOverflow q) :=
  ((s.trgSet_trgLeaves q 4).trans (State.trgDrop_trgLeaves _ q)).trans (State.logOnceFor_trgLeaves _ _ _ _ _)

theorem State.spoil_trgLeaves (q : Nat) (bad : Bool) : s.TrgLeaves (s.spoil q bad) := by
  unfold State.spoil
  split
  · exact .same rfl rfl
  · exact .refl s

theorem State.dropWaiter_trgLeaves (w : TrgWait) : s.TrgLeaves (s.dropWaiter w) := .same rfl rfl

theorem State.setWaits_trgLeaves (l : List TrgWait) : s.TrgLeaves { s with trgWaits := l } := .same rfl rfl

theorem State.trgLook_trgLeaves (q : Nat) : s.TrgLeaves (s.trgLook q).1 := by
  unfold State.trgLook
  dsimp only
  split
  · exact ((s.bump_trgLeaves (trgCfg_ne (j := 0x30) (by decide) (by decide))).trans (State.trgSet_trgLeaves _ q 7)).trans
      (State.logOnceFor_trgLeaves _ _ _ _ _)
  · exact .refl s

end

/-! ### The accesses of the requesters (R315) -/

theorem State.noAccess_trgLeaves (s : State) (r : Requester) : s.TrgLeaves (s.noAccess r) := by
  unfold State.noAccess
  split
  · exact .same rfl rfl
  · exact .refl s

theorem State.refuseWrite_trgLeaves (s : State) (r : Requester) : s.TrgLeaves (s.refuseWrite r) :=
  (s.bump_trgLeaves (fun k hk => by simp only [R.TRG_CFG, R.SYS_HOST_REFUSED]; omega)).trans (State.logOnceFor_trgLeaves _ _ _ _ _)

theorem State.AllInOrder.writeBy {s : State} (h : s.AllInOrder) (x : Access) {f : State → State} (hf : (f s).AllInOrder) :
    (s.writeBy x f).AllInOrder := by
  unfold State.writeBy State.issueWrite
  split
  · exact h.leaves (s.noAccess_trgLeaves _)
  · split
    · exact h.leaves (.same rfl rfl)
    · split
      · exact hf
      · exact h.leaves (s.refuseWrite_trgLeaves _)

theorem State.AllInOrder.readBy {s : State} (h : s.AllInOrder) (x : Access) {f : State → State} (hf : (f s).AllInOrder) :
    (s.readBy x f).AllInOrder := by
  unfold State.readBy
  split
  · exact h.leaves (s.noAccess_trgLeaves _)
  · split
    · exact h.leaves (.same rfl rfl)
    · exact hf

/-! ### Pushes, pulls, releases -/

section
variable {s : State} {q : Nat}

theorem State.AllInOrder.trgPut (h : s.AllInOrder) (hq : q < 64) (hs : 0 < s.trgSpace q) (data : Nat) (poison : Bool) :
    (s.trgPut q data poison).AllInOrder :=
  State.AllInOrder.setTq (s := { s with pool := _ }) (h.leaves (.same rfl rfl)) ((h.at hq).push _ hs)

theorem State.AllInOrder.pulledBy (h : s.AllInOrder) (hq : q < 64) (a k : Nat) : (s.pulledBy q a k).AllInOrder := by
  unfold State.pulledBy
  split
  · exact h
  · exact h.setTq ((h.at hq).same rfl rfl rfl rfl rfl rfl rfl)

theorem State.AllInOrder.pushedBy (h : s.AllInOrder) (hq : q < 64) (a : Nat) : (s.pushedBy q a).AllInOrder := by
  unfold State.pushedBy
  split
  · exact h
  · exact h.setTq ((h.at hq).same rfl rfl rfl rfl rfl rfl rfl)

/-- What a pull makes of the trough: R moves on, and with AUTO_REL the word is released, or is to be. -/
def pulled (t : Trough) (m : Nat) (auto : Bool) : Trough :=
  let t1 := { t with r := (t.r + 1) % m }
  if !auto then t1 else if t1.relGo = 0 then t1.relBy m 1 else { t1 with relGo := t1.relGo + 1 }

theorem State.trgTake_state (s : State) (q : Nat) : (s.trgTake q).1
    = (s.trgLook q).1.setTq q (pulled ((s.trgLook q).1.tq q) ((s.trgLook q).1.trgMod q) ((s.trgLook q).1.b (F.TRG_CFG_AUTO_REL q))) := rfl

theorem Trough.InOrder.pulled {host : Bool} {S : Nat} {t : Trough} (h : t.InOrder host S)
    (hu : 0 < pdiff (2 * S) (if host then t.wSeen else t.w) t.r) (auto : Bool) : (Machine.pulled t (2 * S) auto).InOrder host S := by
  obtain ⟨hr, hone⟩ := h.pull hu
  unfold Machine.pulled
  extract_lets t1
  split
  · exact hr
  · split
    · exact hr.relBy hone
    · exact hr.same rfl rfl rfl rfl rfl rfl rfl

theorem State.AllInOrder.trgTake (h : s.AllInOrder) (hq : q < 64) (hu : 0 < s.trgUnread q) : (s.trgTake q).1.AllInOrder := by
  have hlook := s.trgLook_trgLeaves q
  have h1 := h.leaves hlook
  rw [← hlook.unread hq] at hu
  rw [State.trgTake_state]
  exact h1.setTq ((h1.at hq).pulled hu _)

/-- A pull leaves the others unread. -/
theorem State.unread_trgTake (h : s.AllInOrder) (hq : q < 64) (hh : hostFacing q = false) (hu : 2 ≤ s.trgUnread q) :
    0 < (s.trgTake q).1.trgUnread q := by
  have hlook := s.trgLook_trgLeaves q
  have h1 := (h.leaves hlook).at hq
  have hp : ∀ (t : Trough) m auto, (pulled t m auto).w = t.w ∧ (pulled t m auto).r = (t.r + 1) % m := fun t m auto => by
    unfold pulled
    extract_lets t1
    split
    · exact ⟨rfl, rfl⟩
    · split
      · exact ⟨rfl, rfl⟩
      · exact ⟨rfl, rfl⟩
  rw [← hlook.unread hq] at hu
  rw [State.trgTake_state]
  unfold State.trgUnread at hu ⊢
  simp only [State.tq_setTq_same, hh, Bool.false_eq_true, if_false, (hp _ _ _).1, (hp _ _ _).2] at hu ⊢
  generalize (s.trgLook q).1.tq q = t at *
  show 0 < pdiff ((s.trgLook q).1.trgMod q) t.w ((t.r + 1) % (s.trgLook q).1.trgMod q)
  unfold State.trgMod at hu ⊢
  rw [pdiff_from (n := 1) h1.w_lt h1.r_lt (by omega)]
  omega

theorem State.AllInOrder.trgRelease (h : s.AllInOrder) (hq : q < 64) (n : Nat) : (s.trgRelease q n).AllInOrder := by
  unfold State.trgRelease
  dsimp only
  split
  · exact h.setTq ((h.at hq).same rfl rfl rfl rfl rfl rfl rfl)
  · exact h.setTq ((h.at hq).relBy ((Nat.min_le_right _ _).trans (Nat.sub_le _ _)))

theorem State.AllInOrder.portPush (h : s.AllInOrder) (hq : q < 64) (r : Requester) (v : Word) : (s.portPush r q v).AllInOrder := by
  unfold State.portPush
  extract_lets host
  split
  · exact h.leaves (s.trgSet_trgLeaves q 8)
  split
  · exact h.leaves (s.trgDrop_trgLeaves q)
  split
  · exact h.leaves (s.setWaits_trgLeaves _)
  split
  · rename_i hroom
    have hs : 0 < s.trgSpace q := by
      simp only [Bool.and_eq_true, decide_eq_true_eq] at hroom
      exact hroom.1
    exact (h.trgPut hq hs _ _).pushedBy hq _
  split
  · exact h.leaves (s.setWaits_trgLeaves _)
  · exact h.leaves (s.trgOverflow_trgLeaves q)

theorem State.ready_le (s : State) (q : Nat) : s.trgReady q ≤ s.trgUnread q := by
  unfold State.trgReady
  dsimp only
  split
  · split
    · exact Nat.min_le_right _ _
    · exact le_rfl
  · exact le_rfl

theorem State.AllInOrder.portPull (h : s.AllInOrder) (hq : q < 64) (r : Requester) : (s.portPull r q).AllInOrder := by
  unfold State.portPull
  extract_lets host
  split
  · exact h.leaves ((s.trgSet_trgLeaves q 8).trans (State.deliver_trgLeaves _ _ _))
  split
  · exact h.leaves (s.deliver_trgLeaves _ _)
  split
  · exact h.leaves (s.setWaits_trgLeaves _)
  split
  · rename_i hready
    have hu : 0 < s.trgUnread q := by
      simp only [Bool.and_eq_true, decide_eq_true_eq] at hready
      exact Nat.lt_of_lt_of_le hready.1 (s.ready_le q)
    exact ((h.trgTake hq hu).pulledBy hq _ 0).leaves (State.deliver_trgLeaves _ _ _)
  split
  · exact h.leaves (s.setWaits_trgLeaves _)
  split
  · exact h.leaves ((s.trgSet_trgLeaves q 5).trans (State.deliver_trgLeaves _ _ _))
  · exact h.leaves (s.deliver_trgLeaves _ _)

theorem State.AllInOrder.waitServed (h : s.AllInOrder) (hq : q < 64) (push : Bool) : (s.waitServed q push).AllInOrder := by
  unfold State.waitServed
  split
  · exact h
  · rename_i w hw
    have hd := s.dropWaiter_trgLeaves w
    split
    · split
      · rename_i hs
        exact (h.leaves hd).trgPut hq (by rw [hd.space hq]; exact hs) _ _
      · exact h
    · split
      · rename_i hu
        exact ((h.leaves hd).trgTake hq (by rw [hd.unread hq]; exact hu)).leaves (State.deliver_trgLeaves _ _ _)
      · exact h

theorem State.AllInOrder.waitExpired (h : s.AllInOrder) (q : Nat) (push : Bool) : (s.waitExpired q push).AllInOrder := by
  unfold State.waitExpired
  split
  · exact h
  · rename_i w hw
    have hd := s.dropWaiter_trgLeaves w
    split
    · split
      · exact h.leaves (hd.trans (State.trgOverflow_trgLeaves _ q))
      · exact h.leaves (hd.trans ((State.trgSet_trgLeaves _ q 5).trans (State.deliver_trgLeaves _ _ _)))
    · exact h

theorem State.AllInOrder.trgCross (h : s.AllInOrder) (hq : q < 64) (rel : Bool) : (s.trgCross q rel).AllInOrder := by
  unfold State.trgCross
  split
  · exact h
  · extract_lets t m tr t1
    have ht : t.InOrder (hostFacing q) (s.trgSize q) := h.at hq
    split
    · have h1 : t1.InOrder (hostFacing q) (s.trgSize q) := by
        unfold t1
        split
        · exact ht
        · split
          · exact ht.same rfl rfl rfl rfl rfl rfl rfl
          · rename_i hr
            exact (ht.relBy (n := 1) (Nat.one_le_iff_ne_zero.mpr hr)).same rfl rfl rfl rfl rfl rfl rfl
      exact h.setTq h1.relCrosses
    · exact h.setTq ht.wCrosses

theorem State.AllInOrder.trgPeek (h : s.AllInOrder) (r : Requester) (q : Nat) : (s.trgPeek r q).AllInOrder := by
  unfold State.trgPeek
  split
  · exact h.leaves ((s.trgLook_trgLeaves q).trans (State.deliver_trgLeaves _ _ _))
  · exact h.leaves (s.deliver_trgLeaves _ _)

theorem State.AllInOrder.trgFlush (h : s.AllInOrder) (q : Nat) : (s.trgFlush q).AllInOrder := by
  unfold State.trgFlush
  split
  · exact h
  · exact h.setTq (.empty (s.trgSize_pos q))

theorem State.AllInOrder.trgRewind (h : s.AllInOrder) (hq : q < 64) : (s.trgRewind q).AllInOrder := by
  unfold State.trgRewind
  dsimp only
  split
  · rename_i hok
    exact h.setTq ((h.at hq).rewound hok)
  · exact h.leaves (s.trgSet_trgLeaves q 3)

/-! ### EN (R279, R285) -/

theorem State.TrgLeaves.overList {α : Type} {f : State → α → State} (hf : ∀ x a, State.TrgLeaves x (f x a)) (l : List α) (s : State) :
    s.TrgLeaves (Machine.overList l f s) :=
  overList_rel .refl (fun h k => h.trans k) hf l s

theorem State.TrgLeaves.ite {s t u : State} {c : Prop} [Decidable c] (ht : s.TrgLeaves t) (hu : s.TrgLeaves u) :
    s.TrgLeaves (if c then t else u) := by
  split
  · exact ht
  · exact hu

theorem State.setRn_trgLeaves (s : State) (n : Nat) (x : Runner) : s.TrgLeaves (s.setRn n x) := .same rfl rfl
theorem State.setEng_trgLeaves (s : State) (n : Nat) (x : Eng) : s.TrgLeaves (s.setEng n x) := .same rfl rfl
theorem State.setCh_trgLeaves (s : State) (n : Nat) (x : DmaChan) : s.TrgLeaves (s.setCh n x) := .same rfl rfl

theorem State.trgDisable_trgLeaves (s : State) (q : Nat) : s.TrgLeaves (s.trgDisable q) := by
  unfold State.trgDisable
  extract_lets mine s0 s1 s2
  have h0 : s.TrgLeaves s0 := s.setB_trgLeaves (x := F.TRG_CTL_EN q) false (trgCfg_ne (j := 0) (by decide) (by decide))
  have h1 : s.TrgLeaves s1 := h0.trans (s0.setWaits_trgLeaves _)
  have h2 : s1.TrgLeaves s2 := .overList (fun x w => .ite (x.trgDrop_trgLeaves q) (x.deliver_trgLeaves w.req _)) mine s1
  have hdma : ∀ x : State, x.TrgLeaves (x.cutDma q) := fun x => .overList (fun y n => y.setCh_trgLeaves n _) _ x
  have hrun : ∀ x : State, x.TrgLeaves (x.cutRunners q) := fun x => .overList (fun y n => .ite (y.setRn_trgLeaves n _) (.refl y)) _ x
  have heng : ∀ x : State, x.TrgLeaves (x.cutEngines q) := fun x => .overList (fun y n => .ite (y.setEng_trgLeaves n _) (.refl y)) _ x
  exact (h1.trans h2).trans (((hdma s2).trans (hrun _)).trans (heng _))

theorem State.trgSetEn_trgLeaves (s : State) (q : Nat) (b : Bool) : s.TrgLeaves (s.trgSetEn q b) := by
  unfold State.trgSetEn
  split
  · split
    · exact s.trgDisable_trgLeaves q
    · exact .refl s
  split
  · exact .refl s
  split
  · exact (s.trgSet_trgLeaves q 6).trans (State.log_trgLeaves _ _ _ _)
  · exact s.setB_trgLeaves true (trgCfg_ne (j := 0) (by decide) (by decide))

/-! ### SSI samples, and the policy of their tick (R60, R380) -/

theorem State.markMode_trgLeaves (s : State) (m cause : Nat) : s.TrgLeaves (s.markMode m cause) :=
  ⟨fun k _ => s.rd_markMode m cause (by simp only [R.TRG_CFG, R.SYS_MODE]; omega), fun _ => rfl⟩

theorem State.causeSafe_trgLeaves (s : State) (cause : Nat) : s.TrgLeaves (s.causeSafe cause) :=
  ⟨fun k hk => s.rd_causeSafe cause (devWords_trgCfg hk) (by simp only [R.TRG_CFG, R.SYS_MODE]; omega), s.tq_causeSafe cause⟩

theorem State.policy_trgLeaves (s : State) : s.TrgLeaves s.policy := by
  have hpol : ∀ m cause c, s.TrgLeaves (s.policyMode m cause c) := fun m cause c =>
    ((s.markMode_trgLeaves m cause).trans (State.log_trgLeaves _ _ _ _)).trans (State.failModes_devLeaves _).trg
  have hend : ∀ x : State, s.TrgLeaves x → s.TrgLeaves { x with sys := { x.sys with synced := x.syncNow } } := fun x hx =>
    hx.trans (.same rfl rfl)
  unfold State.policy
  dsimp only
  refine hend _ ?_
  split
  · exact .refl s
  split
  · exact s.causeSafe_trgLeaves _
  split
  · exact s.causeSafe_trgLeaves _
  split
  · exact hpol _ _ _
  split
  · exact hpol _ _ _
  · exact .refl s

theorem State.trkError_trgLeaves (s : State) (n : Nat) : s.TrgLeaves (s.trkError n) := by
  have hset : s.TrgLeaves (s.setTr n { s.tr n with err := min 15 ((s.tr n).err + 1) }) := .same rfl rfl
  exact (hset.trans (State.bump_trgLeaves _ (fun k hk => by simp only [R.TRG_CFG, R.WHL_CNT_ERR]; omega))).trans
    (State.pulse_devLeaves _ _).trg

theorem State.AllInOrder.ssiPull (h : s.AllInOrder) (n : Nat) : (s.ssiPull n).AllInOrder := by
  unfold State.ssiPull
  extract_lets q t
  have hq : q < 64 := getBits_lt _ _ _
  split
  · exact h
  · rename_i hgo
    have hh : hostFacing q = false ∧ 2 ≤ s.trgReady q := by
      simp only [Bool.or_eq_true, decide_eq_true_eq, not_or, Nat.not_lt, Bool.not_eq_true] at hgo
      obtain ⟨⟨⟨⟨⟨⟨-, -⟩, -⟩, hh⟩, -⟩, hr⟩, -⟩ := hgo
      exact ⟨hh, hr⟩
    obtain ⟨hint, hready⟩ := hh
    have hu := hready.trans (s.ready_le q)
    have h1 := h.trgTake hq (by omega)
    have h2 := h1.trgTake hq (State.unread_trgTake h hq hint hu)
    have h3 : ∀ x : State, x.AllInOrder → ((if s.b (F.TRG_CFG_AUTO_REL q) then x else x.trgRelease q 2).pulledBy q (trkAgent n) 1).AllInOrder := by
      intro x hx
      split
      · exact hx.pulledBy hq _ _
      · exact (hx.trgRelease hq 2).pulledBy hq _ _
    have h3 := h3 _ h2
    exact h3.leaves (.ite ((State.trkError_trgLeaves _ n).trans (State.log_trgLeaves _ _ _ _))
      (.ite (State.trkError_trgLeaves _ n) (.same rfl rfl)))

end

/-- Settles O53: each command moves pointers by `Trough.InOrder`'s own steps, and what it does beside them leaves them alone. -/
theorem troughPointersKeepTheirOrder : Obligations.TroughPointersKeepTheirOrder := by
  intro r q v x bad n c hc s t h he
  have hs : s.AllInOrder := h
  have hq : q.val < 64 := q.isLt
  suffices ht : ∃ u, exec c s = .next u ∧ u.AllInOrder by
    obtain ⟨u, hu, hord⟩ := ht
    cases hu.symm.trans he
    exact hord
  simp only [List.mem_cons, List.not_mem_nil, or_false] at hc
  obtain rfl | rfl | rfl | rfl | rfl | rfl | rfl | rfl | rfl | rfl | rfl | rfl := hc
  · exact ⟨_, rfl, hs.writeBy _ (hs.portPush hq r v)⟩
  · exact ⟨_, rfl, hs.readBy _ ((hs.leaves (s.spoil_trgLeaves q bad)).portPull hq r)⟩
  · exact ⟨_, rfl, (hs.leaves (s.spoil_trgLeaves q _)).waitServed hq x⟩
  · exact ⟨_, rfl, hs.waitExpired q x⟩
  · exact ⟨_, rfl, hs.trgCross hq x⟩
  · exact ⟨_, rfl, hs.readBy _ ((hs.leaves (s.spoil_trgLeaves q bad)).trgPeek r q)⟩
  · exact ⟨_, rfl, hs.writeBy _ (hs.trgRelease hq _)⟩
  · exact ⟨_, rfl, hs.writeBy _ (hs.leaves (s.trgSetEn_trgLeaves q x))⟩
  · exact ⟨_, rfl, hs.writeBy _ (hs.trgFlush q)⟩
  · exact ⟨_, rfl, hs.writeBy _ (hs.setTq (hs.at hq).marked)⟩
  · exact ⟨_, rfl, hs.writeBy _ (hs.trgRewind hq)⟩
  · refine ⟨_, rfl, ?_⟩
    unfold State.trkRow
    split
    · exact hs
    · exact State.AllInOrder.leaves ((hs.leaves (s.spoil_trgLeaves _ bad)).ssiPull n) (State.policy_trgLeaves _)

end Sys2Proof.Machine
end

section
/-! Frames of the Tether as bytes (R256, R257): fields read and replaced, the CHECK and its stomp. -/

namespace Sys2Proof.Machine

open Sys2Proof

/-! ### Numbers as bytes -/

theorem length_bytesOf (n v : Nat) : (bytesOf n v).length = n := by
  induction n generalizing v with
  | zero => rfl
  | succ n ih => rw [bytesOf, List.length_cons, ih]

theorem ofBytes_bytesOf (n v : Nat) : ofBytes (bytesOf n v) = v % 256 ^ n := by
  induction n generalizing v with
  | zero => rw [bytesOf, ofBytes, pow_zero, Nat.mod_one]
  | succ n ih => rw [bytesOf, ofBytes, ih, Nat.mod_mod, Nat.pow_succ', Nat.mod_mul]

/-! ### Fields of a frame -/

section
variable {f bs : List Nat} {o k n : Nat}

theorem length_fputs (h : o + bs.length ≤ f.length) : (fputs f o bs).length = f.length := by
  simp only [fputs, List.length_append, List.length_take, List.length_drop]
  omega

/-- A field replaced is a run of bytes replaced. -/
theorem fput_eq (f : List Nat) (o n v : Nat) : fput f o n v = fputs f o (bytesOf n v) := by
  unfold fput fputs
  rw [length_bytesOf]

theorem length_fput (v : Nat) (h : o + n ≤ f.length) : (fput f o n v).length = f.length := by
  rw [fput_eq, length_fputs]
  rwa [length_bytesOf]

theorem getElem?_fputs (h : o + bs.length ≤ f.length) (i : Nat) :
    (fputs f o bs)[i]? = if o ≤ i ∧ i < o + bs.length then bs[i - o]? else f[i]? := by
  have hto : (f.take o).length = o := by rw [List.length_take]; omega
  unfold fputs
  rw [List.append_assoc]
  by_cases h1 : i < o
  · rw [List.getElem?_append_left (by omega), List.getElem?_take_of_lt h1, if_neg (by omega)]
  · rw [List.getElem?_append_right (by omega), hto]
    by_cases h2 : i < o + bs.length
    · rw [List.getElem?_append_left (by omega), if_pos (by omega)]
    · rw [List.getElem?_append_right (by omega), List.getElem?_drop, if_neg (by omega)]
      congr 1
      omega

/-- Frames that agree on a field's bytes agree on the field. -/
theorem fget_congr {g : List Nat} (h : ∀ i, i < n → f[k + i]? = g[k + i]?) : fget f k n = fget g k n := by
  unfold fget
  congr 1
  apply List.ext_getElem?
  intro i
  by_cases hi : i < n
  · rw [List.getElem?_take_of_lt hi, List.getElem?_take_of_lt hi, List.getElem?_drop, List.getElem?_drop, h i hi]
  · rw [List.getElem?_take_eq_none (by omega), List.getElem?_take_eq_none (by omega)]

/-- A field beside the bytes replaced. -/
theorem fget_fputs_beside (h : o + bs.length ≤ f.length) (hk : k + n ≤ o ∨ o + bs.length ≤ k) :
    fget (fputs f o bs) k n = fget f k n :=
  fget_congr fun i hi => by rw [getElem?_fputs h, if_neg (by omega)]

theorem fget_fput_beside {m : Nat} (v : Nat) (h : o + m ≤ f.length) (hk : k + n ≤ o ∨ o + m ≤ k) :
    fget (fput f o m v) k n = fget f k n := by
  rw [fput_eq, fget_fputs_beside]
  · rwa [length_bytesOf]
  · rwa [length_bytesOf]

/-- A field among the bytes replaced. -/
theorem fget_fputs_within (h : o + bs.length ≤ f.length) (hk : k + n ≤ bs.length) : fget (fputs f o bs) (o + k) n = fget bs k n := by
  unfold fget
  congr 1
  apply List.ext_getElem?
  intro i
  by_cases hi : i < n
  · rw [List.getElem?_take_of_lt hi, List.getElem?_take_of_lt hi, List.getElem?_drop, List.getElem?_drop, getElem?_fputs h, if_pos (by omega)]
    congr 1
    omega
  · rw [List.getElem?_take_eq_none (by omega), List.getElem?_take_eq_none (by omega)]

theorem fget_fput_same (v : Nat) (h : o + n ≤ f.length) : fget (fput f o n v) o n = v % 256 ^ n := by
  have hb : (bytesOf n v).length = n := length_bytesOf n v
  have hw := fget_fputs_within (f := f) (o := o) (bs := bytesOf n v) (k := 0) (n := n) (by rwa [hb]) (by omega)
  rw [Nat.add_zero] at hw
  rw [fput_eq, hw]
  unfold fget
  rw [List.drop_zero, List.take_of_length_le hb.le, ofBytes_bytesOf]

end

/-! ### The CHECK (R257) -/

theorem crcBit_lt {poly c : Nat} (hp : poly < 2 ^ 32) (hc : c < 2 ^ 32) : crcBit poly c < 2 ^ 32 := by
  have hs : c >>> 1 < 2 ^ 32 := Nat.lt_of_le_of_lt (Nat.shiftRight_le _ _) hc
  unfold crcBit
  split
  · exact Nat.xor_lt_two_pow hs hp
  · exact hs

theorem crcByte_lt {poly c : Nat} (hp : poly < 2 ^ 32) (hc : c < 2 ^ 32) (b : Nat) : crcByte poly c b < 2 ^ 32 := by
  have hx : c ^^^ (b % 256) < 2 ^ 32 := Nat.xor_lt_two_pow hc (by omega)
  have h := fun {x : Nat} (hx : x < 2 ^ 32) => crcBit_lt hp hx
  exact h (h (h (h (h (h (h (h hx)))))))

theorem crcRun_lt {poly : Nat} (hp : poly < 2 ^ 32) (bs : List Nat) {c : Nat} (hc : c < 2 ^ 32) : crcRun poly c bs < 2 ^ 32 := by
  induction bs generalizing c with
  | nil => exact hc
  | cons b bs ih => exact ih (crcByte_lt hp hc b)

theorem frameCrc_lt (f : List Nat) : frameCrc f < 2 ^ 32 :=
  Nat.xor_lt_two_pow (crcRun_lt (by decide) _ (by decide)) (by decide)

/-- A stomped CHECK is never the right one. -/
theorem xor_ones_ne (c : Nat) : c ^^^ 0xFFFFFFFF ≠ c := fun h => by
  have := congrArg (Nat.testBit · 0) h
  rw [Nat.testBit_xor] at this
  revert this
  cases c.testBit 0 <;> decide

section
variable {f : List Nat} (hf : f.length = 644) (stomp : Bool)
include hf

theorem length_sealFrame : (sealFrame f stomp).length = 644 := by
  simp only [sealFrame, List.length_append, List.length_take, length_bytesOf, hf]
  rfl

theorem take_sealFrame : (sealFrame f stomp).take 640 = f.take 640 := by
  unfold sealFrame
  rw [List.take_append_of_le_length (by rw [List.length_take, hf]; decide), List.take_take]
  rfl

/-- Sealing leaves the fields before CHECK. -/
theorem fget_sealFrame {k n : Nat} (h : k + n ≤ 640) : fget (sealFrame f stomp) k n = fget f k n :=
  fget_congr fun i hi => by
    have := congrArg (·[k + i]?) (take_sealFrame hf stomp)
    simpa only [List.getElem?_take_of_lt (show k + i < 640 by omega)] using this

theorem frameCrc_sealFrame : frameCrc (sealFrame f stomp) = frameCrc f := by
  unfold frameCrc
  rw [take_sealFrame hf stomp]

/-- The CHECK that sealing writes. -/
theorem check_sealFrame : fget (sealFrame f stomp) 640 4 = frameCrc f ^^^ (if stomp then 0xFFFFFFFF else 0) := by
  have hlt : frameCrc f ^^^ (if stomp then 0xFFFFFFFF else 0) < 256 ^ 4 :=
    Nat.xor_lt_two_pow (n := 32) (frameCrc_lt f) (by split <;> decide)
  have hlen : (f.take 640).length = 640 := by rw [List.length_take, hf]; rfl
  unfold sealFrame fget
  rw [List.drop_append_of_le_length (by omega), List.drop_of_length_le hlen.le, List.nil_append,
    List.take_of_length_le (length_bytesOf _ _).le, ofBytes_bytesOf, Nat.mod_eq_of_lt hlt]

theorem frameGood_sealFrame : frameGood (sealFrame f stomp) = !stomp := by
  unfold frameGood
  rw [length_sealFrame hf, check_sealFrame hf, frameCrc_sealFrame hf]
  cases stomp with
  | false => simp
  | true => simp

theorem frameStomped_sealFrame : frameStomped (sealFrame f stomp) = stomp := by
  unfold frameStomped
  rw [length_sealFrame hf, check_sealFrame hf, frameCrc_sealFrame hf]
  cases stomp with
  | false => simpa using (xor_ones_ne (frameCrc f)).symm
  | true => simp

end

/-! ### What a device writes into a copy (R258, R262, R347) -/

/-- From `f` to `g` the length and the bytes before `m` are as they were. -/
structure HeadKept (m : Nat) (f g : List Nat) : Prop where
  length : g.length = f.length
  byte : ∀ i, i < m → g[i]? = f[i]?

namespace HeadKept

variable {m : Nat} {f g h : List Nat}

theorem refl (m : Nat) (f : List Nat) : HeadKept m f f := ⟨rfl, fun _ _ => rfl⟩

theorem trans (a : HeadKept m f g) (b : HeadKept m g h) : HeadKept m f h :=
  ⟨b.length.trans a.length, fun i hi => (b.byte i hi).trans (a.byte i hi)⟩

theorem fputs {bs : List Nat} {o : Nat} (ho : m ≤ o) (h : o + bs.length ≤ f.length) : HeadKept m f (fputs f o bs) :=
  ⟨length_fputs h, fun i hi => by rw [getElem?_fputs h, if_neg (by omega)]⟩

theorem fput {o n : Nat} (v : Nat) (ho : m ≤ o) (h : o + n ≤ f.length) : HeadKept m f (fput f o n v) := by
  rw [fput_eq]
  exact .fputs ho (by rwa [length_bytesOf])

theorem fget (h : HeadKept m f g) {k n : Nat} (hk : k + n ≤ m) : Machine.fget g k n = Machine.fget f k n :=
  fget_congr fun i hi => h.byte _ (by omega)

/-- A fold over frames of one length, beside a state or alone. -/
theorem foldPair {σ α : Type} {N : Nat} {u : σ × List Nat → α → σ × List Nat} {l : List α}
    (hu : ∀ x a, a ∈ l → x.2.length = N → HeadKept m x.2 (u x a).2) (x : σ × List Nat) (hx : x.2.length = N) :
    HeadKept m x.2 (l.foldl u x).2 := by
  induction l generalizing x with
  | nil => exact .refl m x.2
  | cons a l ih =>
    have h1 := hu x a List.mem_cons_self hx
    exact h1.trans (ih (fun y b hb => hu y b (List.mem_cons_of_mem a hb)) _ (h1.length.trans hx))

theorem foldl {α : Type} {N : Nat} {u : List Nat → α → List Nat} {l : List α}
    (hu : ∀ x a, a ∈ l → x.length = N → HeadKept m x (u x a)) (hf : f.length = N) : HeadKept m f (l.foldl u f) := by
  induction l generalizing f with
  | nil => exact .refl m f
  | cons a l ih =>
    have h1 := hu f a List.mem_cons_self hf
    exact h1.trans (ih (fun y b hb => hu y b (List.mem_cons_of_mem a hb)) (h1.length.trans hf))

end HeadKept

theorem State.length_angleRec (s : State) (j : Nat) : (s.angleRec j).length = 20 := by
  simp [State.angleRec, length_bytesOf]

theorem State.length_slotRec (s : State) : s.slotRec.length = 8 := by
  simp [State.slotRec, length_bytesOf]

theorem State.devId_lt (s : State) : s.devId < 32 := getBits_lt _ _ _

/-- The slot of the device stands within the frame. -/
theorem State.slot_kept (s : State) {f bs : List Nat} (hf : f.length = 644) (hb : bs.length = 8) :
    HeadKept 32 f (fputs f (352 + 8 * s.devId) bs) :=
  .fputs (by omega) (by have := s.devId_lt; omega)

theorem State.putAngles_kept (s : State) {f : List Nat} (hf : f.length = 644) : HeadKept 32 f (s.putAngles f).2 := by
  refine HeadKept.foldPair (fun x j hj hx => ?_) (s, f) hf
  have hj : j < 16 := List.mem_range.mp hj
  dsimp only
  split
  · exact .fputs (by omega) (by rw [State.length_angleRec]; omega)
  · split
    · exact .fputs (by omega) (by rw [List.length_take, List.length_drop]; omega)
    · exact .refl _ _

theorem State.takeMsg_kept (s : State) {f : List Nat} (hf : f.length = 644) : HeadKept 32 f (s.takeMsg f).2 := by
  unfold State.takeMsg
  dsimp only
  split
  · exact .refl _ _
  · dsimp only
    split
    · exact .fput _ (by decide) (by omega)
    · exact .refl _ _

theorem State.sendMsg_kept (s : State) {f : List Nat} (hf : f.length = 644) : HeadKept 32 f (s.sendMsg f).2 := by
  unfold State.sendMsg
  split
  · exact .refl _ _
  · split
    · exact .refl _ _
    · refine .fputs (by decide) ?_
      simp only [List.length_append, List.length_cons, List.length_nil, List.length_replicate, List.length_take, List.length_drop]
      omega

end Sys2Proof.Machine
end

section
/-! What the end of a mailbox's command, a record's write to the Yard, and building a frame leave of the time base, of the Tether's ports
and of the DMA engine. -/

namespace Sys2Proof.Machine

open Sys2Proof

/-- From `s` to `t` the time base, the Tether's ports, the DMA engine with its channels, and what went to host memory are as they were. -/
structure State.UnitLeaves (s t : State) : Prop where
  tb : t.tb = s.tb
  port : ∀ p, t.port p = s.port p
  dma : t.dma = s.dma
  ch : ∀ n, t.ch n = s.ch n
  hostOut : t.hostOut = s.hostOut

namespace State.UnitLeaves

variable {s t u : State}

theorem refl (s : State) : s.UnitLeaves s := ⟨rfl, fun _ => rfl, rfl, fun _ => rfl, rfl⟩

theorem trans (a : s.UnitLeaves t) (b : t.UnitLeaves u) : s.UnitLeaves u :=
  ⟨b.tb.trans a.tb, fun p => (b.port p).trans (a.port p), b.dma.trans a.dma, fun n => (b.ch n).trans (a.ch n), b.hostOut.trans a.hostOut⟩

theorem same (htb : t.tb = s.tb) (hports : t.ports = s.ports) (hdma : t.dma = s.dma) (hchans : t.chans = s.chans)
    (hout : t.hostOut = s.hostOut) : s.UnitLeaves t :=
  ⟨htb, fun p => by unfold State.port; rw [hports], hdma, fun n => by unfold State.ch; rw [hchans], hout⟩

theorem ite {c : Prop} [Decidable c] (a : s.UnitLeaves t) (b : s.UnitLeaves u) : s.UnitLeaves (if c then t else u) := by
  split
  · exact a
  · exact b

theorem overList {α : Type} {f : State → α → State} (hf : ∀ x a, State.UnitLeaves x (f x a)) (l : List α) (s : State) :
    s.UnitLeaves (overList l f s) :=
  overList_rel refl trans hf l s

theorem foldPair {α β : Type} {f : State × β → α → State × β} (hf : ∀ x a, State.UnitLeaves x.1 (f x a).1) (l : List α) (x : State × β) :
    x.1.UnitLeaves (l.foldl f x).1 := by
  induction l generalizing x with
  | nil => exact refl x.1
  | cons a l ih => exact (hf x a).trans (ih (f x a))

end State.UnitLeaves

section
variable (s : State)

theorem State.setB_unitLeaves (x : Fld) (v : Bool) : s.UnitLeaves (s.setB x v) :=
  ⟨State.tb_setB_frame s x v, State.port_setB_frame s x v, State.dma_setB_frame s x v, State.ch_setB_frame s x v,
    State.hostOut_setB_frame s x v⟩

theorem State.setF_unitLeaves (x : Fld) (v : Nat) : s.UnitLeaves (s.setF x v) := .same rfl rfl rfl rfl rfl

theorem State.bump_unitLeaves (a : Nat) : s.UnitLeaves (s.bump a) := ⟨State.tb_bump_frame s a, State.port_bump_frame s a, State.dma_bump_frame s a, State.ch_bump_frame s a,
    State.hostOut_bump_frame s a⟩

theorem State.pulse_unitLeaves (g : Nat) : s.UnitLeaves (s.pulse g) := ⟨State.tb_pulse_frame s g, State.port_pulse_frame s g, State.dma_pulse_frame s g, State.ch_pulse_frame s g,
    State.hostOut_pulse_frame s g⟩

theorem State.log_unitLeaves (c : LogCode) (x d : Nat) : s.UnitLeaves (s.log c x d) :=
  ⟨State.tb_log_frame s c x d, State.port_log_frame s c x d, State.dma_log_frame s c x d, State.ch_log_frame s c x d,
    State.hostOut_log_frame s c x d⟩

theorem State.logOnceFor_unitLeaves (c : LogCode) (k x d : Nat) : s.UnitLeaves (s.logOnceFor c k x d) :=
  State.UnitLeaves.ite (.refl s) ((s.log_unitLeaves c x d).trans (.same rfl rfl rfl rfl rfl))

theorem State.setMb_unitLeaves (m : Nat) (x : Mbx) : s.UnitLeaves (s.setMb m x) := .same rfl rfl rfl rfl rfl

theorem State.setHold_unitLeaves (c : Nat) (x : Hold) : s.UnitLeaves (s.setHold c x) := .same rfl rfl rfl rfl rfl

/-! ### The end of a Holtid command (R339) -/

theorem State.yardWrite_unitLeaves (r : Requester) (o : Nat) (v : Word) (be : BitVec 4) : s.UnitLeaves (s.yardWrite r o v be) :=
  State.UnitLeaves.ite (.refl s) (State.UnitLeaves.ite (.same rfl rfl rfl rfl rfl)
    ((s.bump_unitLeaves _).trans (State.logOnceFor_unitLeaves _ _ _ _ _)))

theorem State.yardPutBytes_unitLeaves (r : Requester) (o : Nat) (bs : List Nat) : s.UnitLeaves (s.yardPutBytes r o bs) :=
  State.UnitLeaves.foldPair (fun y _ => State.yardWrite_unitLeaves y.1 _ _ _ _) bs (s, o)

theorem State.writeResult_unitLeaves (page status detail : Nat) (result : List Nat) : s.UnitLeaves (s.writeResult page status detail result) :=
  State.UnitLeaves.ite (.refl s) ((s.yardPutBytes_unitLeaves _ _ _).trans (State.yardPutBytes_unitLeaves _ _ _ _))

theorem State.handBack_unitLeaves (p : Nat) : s.UnitLeaves (s.handBack p) := State.UnitLeaves.ite (.same rfl rfl rfl rfl rfl) (.refl s)

theorem State.slotDone_unitLeaves (m : Nat) : s.UnitLeaves (s.slotDone m) :=
  (s.setF_unitLeaves _ _).trans (State.UnitLeaves.overList (fun x j => x.setMb_unitLeaves j _) _ _)

theorem State.showHold_unitLeaves (c : Nat) : s.UnitLeaves (s.showHold c) := State.UnitLeaves.ite (.same rfl rfl rfl rfl rfl) (.same rfl rfl rfl rfl rfl)

theorem State.holdOne_unitLeaves (c : Nat) : s.UnitLeaves (s.holdOne c) :=
  (s.setHold_unitLeaves c _).trans (State.showHold_unitLeaves _ c)

theorem State.releaseHold_unitLeaves (c : Nat) : s.UnitLeaves (s.releaseHold c) :=
  State.UnitLeaves.ite (.refl s) (((s.setHold_unitLeaves c {}).trans (State.showHold_unitLeaves _ c)).trans (State.pulse_unitLeaves _ _))

theorem State.modPulse_unitLeaves (c : Nat) : s.UnitLeaves (s.modPulse c) := by
  have hone := s.holdOne_unitLeaves c
  have hpend : s.UnitLeaves { (s.holdOne c).setB F.MBX_SLEEP_WAKE_PEND true with wakeLow := true } :=
    (hone.trans (State.setB_unitLeaves _ _ true)).trans (.same rfl rfl rfl rfl rfl)
  unfold State.modPulse
  exact State.UnitLeaves.ite (s.pulse_unitLeaves _) (State.UnitLeaves.ite
    (State.UnitLeaves.ite (State.UnitLeaves.ite (hpend.trans (.same rfl rfl rfl rfl rfl)) hpend) hone)
    (State.UnitLeaves.ite (s.pulse_unitLeaves _) (State.UnitLeaves.ite (hone.trans (State.releaseHold_unitLeaves _ c)) hone)))

theorem State.endCommand_unitLeaves (src status detail : Nat) (result : List Nat) (free_ : Bool) :
    s.UnitLeaves (s.endCommand src status detail result free_) := by
  unfold State.endCommand
  split
  · exact .refl s
  · rename_i v _
    extract_lets lost d res st s1 box s2 s3
    have h1 : s.UnitLeaves s1 := (s.writeResult_unitLeaves _ _ _ _).trans (State.UnitLeaves.overList State.handBack_unitLeaves _ _)
    have h2 : s.UnitLeaves s2 := (h1.trans (State.handBack_unitLeaves _ _)).trans (.same rfl rfl rfl rfl rfl)
    have h3 : s.UnitLeaves s3 := (h2.trans (State.setB_unitLeaves _ _ false)).trans (State.slotDone_unitLeaves _ _)
    exact State.UnitLeaves.ite (.same rfl rfl rfl rfl rfl) (State.UnitLeaves.ite
      (State.UnitLeaves.ite (h3.trans (State.pulse_unitLeaves _ _)) (h3.trans (State.modPulse_unitLeaves _ _))) h3)

/-! ### A frame's records, message and folds (R262, R266, R347) -/

theorem State.putAngles_unitLeaves (f : List Nat) : s.UnitLeaves (s.putAngles f).1 := by
  refine State.UnitLeaves.foldPair (fun x j => ?_) _ (s, f)
  dsimp only
  split
  · exact State.UnitLeaves.ite ((x.1.log_unitLeaves _ _ _).trans (.same rfl rfl rfl rfl rfl)) (.refl _)
  · split
    · exact .refl _
    · exact .refl _

theorem State.sendMsg_unitLeaves (f : List Nat) : s.UnitLeaves (s.sendMsg f).1 := by
  unfold State.sendMsg
  split
  · exact .refl s
  · split
    · exact .refl s
    · exact s.endCommand_unitLeaves _ _ _ _ _

/-- An end of the folds is none of the time base. -/
theorem State.tb_unfold (un : Option Nat) (beat : Nat) : (s.unfold un beat).tb = s.tb := by
  have hstep : ∀ (x : State) (p : Nat), (((x.setPort p { x.port p with loop := false }).setB (F.TTHP_STAT_LOOP p) false).log
      .tthRingClosed wholeDevice 0).tb = x.tb := fun x p => by simp
  unfold State.unfold
  extract_lets x0 s0 reached ends s1 x1
  split
  · rfl
  · exact (State.tb_pulse_frame s1 234).trans (overList_leaves State.tb hstep ends s0)

end

end Sys2Proof.Machine
end

section
/-! Frames forwarded and originated, lost beats, the ring's version, EN and JOIN (R256 to R258, R261, R264, R268). -/

namespace Sys2Proof.Machine

open Sys2Proof

/-! ### Forwarding (R257, R258) -/

/-- A copy that a device processes keeps its header. -/
theorem State.process_kept (s : State) (p : Nat) {f : List Nat} (r : BitVec 52) (hf : f.length = 644) :
    HeadKept 32 f (s.process p f r).2 := by
  unfold State.process
  extract_lets org own
  dsimp only
  generalize hx : State.pathLong _ f = x
  clear hx
  have h1 := x.takeMsg_kept hf
  cases own with
  | true => exact h1
  | false =>
    simp only [Bool.false_eq_true, if_false]
    have h2 := h1.trans (State.sendMsg_kept (x.takeMsg f).1 (h1.length.trans hf))
    have h3 := h2.trans (s.slot_kept (h2.length.trans hf) (State.length_slotRec ((x.takeMsg f).1.sendMsg (x.takeMsg f).2).1))
    exact h3.trans (State.putAngles_kept _ (h3.length.trans hf))

/-- What a frame of another device meets before it goes on, in the frame and in the state. -/
structure Forwarded (s t : State) (p : Nat) (g : List Nat) (out : Nat) (h : List Nat) : Prop where
  sent : t.tth.sent = some (out, sealFrame h (!frameGood g))
  length : h.length = 644
  hops : fget h 21 1 = fget g 21 1 + 1
  bad : frameGood g = false → (∀ q, t.port q = s.port q) ∧ t.tth.last = s.tth.last
    ∧ ∀ a, t.rd a = (s.bump (if frameStomped g then R.TTHP_CNT_STOMP p else R.TTHP_CNT_CRC p)).rd a

theorem State.frameIn_forwards {s : State} {p : Nat} {g : List Nat} (r so : BitVec 52) (hg : g.length = 644) (hen : s.tthEn = true)
    (hm : s.mode ≠ 0) (hrun : s.tb.running = true) (hl : (s.port p).link ≠ .down) (horg : fget g 3 1 % 32 ≠ s.devId)
    (hhops : fget g 21 1 < 64) : ∃ out h, Forwarded s (s.frameIn p g r so) p g out h := by
  unfold State.frameIn
  rw [if_neg (by simp [hen, hm, hrun, hl, hg])]
  extract_lets good x0 s1 org own back x1 s2 join s3 s4 first r1 hops stop corr
  have hown : own = false := by simp [own, org, horg]
  have hstop : stop = false := by simp [stop, org, horg, hops]; omega
  have hbad : good = false → s4 = s.bump (if frameStomped g then R.TTHP_CNT_STOMP p else R.TTHP_CNT_CRC p) := fun h => by
    have hb : back = false := by simp [back, h]
    have hj : join = false := by simp [join, h]
    simp only [s4, s3, s2, s1, hb, hj, h, Bool.false_eq_true, if_false]
    split
    · rfl
    · rfl
  clear_value s4 stop own
  have hy : (if first then s4.process p g r1 else (s4, g)).2.length = 644 := by
    split
    · exact (s4.process_kept p r1 hg).length.trans hg
    · exact hg
  have hyb : good = false → (if first then s4.process p g r1 else (s4, g)).1 = s4 := fun h => by
    rw [if_neg (by simp [first, h])]
  generalize (if first then s4.process p g r1 else (s4, g)) = y at hy hyb
  obtain ⟨s6, f1⟩ := y
  have hy : f1.length = 644 := hy
  subst hown hstop
  simp only [Bool.and_false, Bool.false_and, Bool.false_eq_true, if_false]
  have h1 := length_fput (f := f1) (o := 21) (n := 1) hops (by omega)
  have h2 := length_fput (f := fput f1 21 1 hops) (o := 16) (n := 4) (trunc 32 corr) (by omega)
  refine ⟨_, _, rfl, (length_fput _ (by omega)).trans (by omega), ?_, fun h => ?_⟩
  · rw [fget_fput_beside _ (by omega) (by decide), fget_fput_beside _ (by omega) (by decide), fget_fput_same _ (by omega)]
    exact Nat.mod_eq_of_lt (by omega)
  · obtain rfl : s6 = s4 := hyb h
    rw [hbad h]
    generalize (if frameStomped g then R.TTHP_CNT_STOMP p else R.TTHP_CNT_CRC p) = c
    exact ⟨fun q => State.port_bump_frame s c q, (congrArg Tether.last (State.tth_bump_frame s c) :), fun a => rfl⟩

/-- FRAME_RECEIVED of another device's frame: it leaves with one hop more, sealed as it came (R257, R258). -/
theorem exec_frameReceived_forwards (p : Fin 2) (f : List Byte) (r so : BitVec 52) (s : State) (hf : f.length = 644) (hen : s.tthEn = true)
    (hm : s.mode ≠ 0) (hrun : s.tb.running = true) (hl : (s.port p).link ≠ .down)
    (horg : fget (f.map (·.toNat)) 3 1 % 32 ≠ s.devId) (hhops : fget (f.map (·.toNat)) 21 1 < 64) :
    ∃ t out h, exec (.frameReceived p f r so) s = .next t ∧ Forwarded s t p (f.map (·.toNat)) out h :=
  have ⟨out, h, hx⟩ := State.frameIn_forwards r so ((List.length_map _).trans hf) hen hm hrun hl horg hhops
  ⟨_, out, h, rfl, hx⟩

/-! ### Originating (R256, R263, R266) -/

/-- The fields of a frame's header that the origin writes. -/
structure OwnHeader (s : State) (f : List Nat) : Prop where
  length : f.length = 644
  hops : fget f 21 1 = 0
  beat : fget f 4 3 = s.tb.beat.toNat
  time : fget f 8 6 = s.tb.t0.toNat

/-- The header of 32 bytes, with its fields of the beat, the time and the hops. -/
theorem fget_header {f pre mid post : List Nat} {beat t0 : Nat} (us rank : Nat) (hf : f.length = 644) (hpre : pre.length = 4)
    (hmid : mid.length = 6) (hpost : post.length = 10) (hb : beat < 2 ^ 24) (ht : t0 < 2 ^ 48) :
    let h := fputs f 0 (pre ++ bytesOf 3 beat ++ [us] ++ bytesOf 6 t0 ++ mid ++ [rank, 0] ++ post)
    h.length = 644 ∧ fget h 21 1 = 0 ∧ fget h 4 3 = beat ∧ fget h 8 6 = t0 := by
  obtain ⟨a0, a1, a2, a3, rfl⟩ := List.length_eq_four.mp hpre
  obtain ⟨m0, m1, m2, m3, m4, m5, rfl⟩ : ∃ a b c d e g, mid = [a, b, c, d, e, g] := by
    match mid, hmid with
    | [a, b, c, d, e, g], _ => exact ⟨a, b, c, d, e, g, rfl⟩
  set hd := [a0, a1, a2, a3] ++ bytesOf 3 beat ++ [us] ++ bytesOf 6 t0 ++ [m0, m1, m2, m3, m4, m5] ++ [rank, 0] ++ post with hhd
  have hlen : hd.length = 32 := by simp [hhd, length_bytesOf, hpost]
  have hw : ∀ {k n : Nat}, k + n ≤ 32 → fget (fputs f 0 hd) k n = fget hd k n := fun {k n} h => by
    have := fget_fputs_within (f := f) (o := 0) (bs := hd) (k := k) (n := n) (by omega) (by omega)
    rwa [Nat.zero_add] at this
  refine ⟨(length_fputs (by omega)).trans hf, ?_, ?_, ?_⟩
  · exact hw (by decide)
  · exact (hw (by decide)).trans (show fget hd 4 3 = beat from (ofBytes_bytesOf 3 beat).trans (Nat.mod_eq_of_lt hb))
  · exact (hw (by decide)).trans (show fget hd 8 6 = t0 from (ofBytes_bytesOf 6 t0).trans (Nat.mod_eq_of_lt ht))

theorem State.ownFrame_header (s : State) (lag : Nat) : ∃ h, (s.ownFrame lag).2 = sealFrame h false ∧ OwnHeader s h := by
  unfold State.ownFrame
  extract_lets x fresh base aged f0 loops allReady un depth ver head s1
  have hbase : base.length = 644 := by
    unfold base
    split
    · exact List.length_replicate
    · next h => exact not_not.mp h
  have haged : HeadKept 32 base aged := HeadKept.foldl (fun y i hi hy =>
    .fput _ (by omega) (by have := List.mem_range.mp hi; omega)) hbase
  have hf0 : f0.length = 644 := by
    unfold f0
    split
    · exact hbase
    · exact haged.length.trans hbase
  have hhead : (fputs f0 0 head).length = 644 ∧ fget (fputs f0 0 head) 21 1 = 0 ∧ fget (fputs f0 0 head) 4 3 = s.tb.beat.toNat
      ∧ fget (fputs f0 0 head) 8 6 = s.tb.t0.toNat := by
    have h := fget_header (f := f0) (pre := [1, ver, s.f F.TTH_CFG_RING_ID + 16 * depth,
      s.devId + 32 * toBit (s.role == 2) + 64 * toBit s.wrapped + 128 * toBit (s.role == 0)]) (mid := bytesOf 2 lag ++ bytesOf 4 0)
      (post := [un.getD 0, toBit un.isSome] ++ List.replicate 8 0) (s.f F.TB_BEAT_CFG_PERIOD_US) s.rank hf0 rfl
      (by simp [length_bytesOf]) rfl s.tb.beat.isLt s.tb.t0.isLt
    simpa only [head, List.append_assoc, List.cons_append, List.nil_append] using h
  obtain ⟨hlen, hhops, hbeat, htime⟩ := hhead
  have k1 := s.slot_kept hlen (State.length_slotRec s1)
  have k2 := k1.trans (s1.putAngles_kept (k1.length.trans hlen))
  generalize s1.putAngles _ = y at k2
  have k3 := k2.trans (y.1.sendMsg_kept (k2.length.trans hlen))
  exact ⟨_, rfl, k3.length.trans hlen, (k3.fget (by decide)).trans hhops, (k3.fget (by decide)).trans hbeat, (k3.fget (by decide)).trans htime⟩

theorem State.ownFrame_unitLeaves (s : State) (lag : Nat) : s.UnitLeaves (s.ownFrame lag).1 := by
  unfold State.ownFrame
  extract_lets x fresh base aged f0 loops allReady un depth ver head s1
  have h1 : s.UnitLeaves s1 := .same rfl rfl rfl rfl rfl
  have h2 := h1.trans (s1.putAngles_unitLeaves (fputs (fputs f0 0 head) (352 + 8 * s.devId) s1.slotRec))
  generalize s1.putAngles _ = y at h2
  exact h2.trans (y.1.sendMsg_unitLeaves y.2)

/-- The beat's frame leaves with what building it did to the state, as the origin `s0` sends it once its fold has ended. -/
def State.sendFrame (s0 : State) (y : State × List Nat) : State :=
  { y.1 with tth := { y.1.tth with sentOwn := true, sent := some (if s0.folds 0 then 1 else 0, y.2) } }

/-- The origin's frame of the beat on its way. -/
def State.sendOwn (s : State) (lag : Nat) : State := s.sendFrame (s.ownFrame lag)

theorem State.originate_sendOwn {s : State} (lag : Nat) (hen : s.tthEn = true) (hrun : s.tb.running = true) (horg : s.tth.origin = true)
    (hown : s.tth.sentOwn = false) (hphase : 50 ≤ s.tb.phase) (hdue : s.tb.due = false) :
    ∃ s0, s.originate lag = s0.sendOwn lag ∧ s0.tb = s.tb ∧ (s.tth.unwrapOut = none → s0 = s) := by
  refine ⟨if s.tth.unwrapOut.isSome then s.unfold s.tth.unwrapOut s.tb.beat.toNat else s, ?_, ?_, fun h => by simp [h]⟩
  · unfold State.originate State.sendOwn
    rw [if_neg (by simp [hen, hrun, horg, hown, hdue]; omega)]
    generalize (if s.tth.unwrapOut.isSome then s.unfold s.tth.unwrapOut s.tb.beat.toNat else s) = s0
    dsimp only
    generalize s0.ownFrame lag = y
    rfl
  · split
    · exact s.tb_unfold _ _
    · rfl

theorem State.port_sendOwn (s : State) (lag : Nat) : (s.sendOwn lag).port = s.port := by
  have h := s.ownFrame_unitLeaves lag
  unfold State.sendOwn
  generalize s.ownFrame lag = y at h ⊢
  exact funext h.port

theorem State.sent_sendOwn (s : State) (lag : Nat) :
    (s.sendOwn lag).tth.sent = some (if (s.sendOwn lag).folds 0 then 1 else 0, (s.ownFrame lag).2) := by
  have hfold : (s.sendOwn lag).folds 0 = s.folds 0 := by
    unfold State.folds
    rw [s.port_sendOwn]
  rw [hfold]
  unfold State.sendOwn
  generalize s.ownFrame lag = y
  rfl

/-! ### Lost beats, origination and the ring's version (R258, R264, R268) -/

theorem exec_frameLostBeat_missed {s : State} (h : s.tth.missed = true) : ∃ t, exec .frameLostBeat s = .next t ∧ t.tth.missed = false
    ∧ (t.rd R.TTH_CNT_LOST).toNat = min ((s.rd R.TTH_CNT_LOST).toNat % 2 ^ 24 + 1) 0xFFFFFF
    ∧ ∀ a, a ≠ R.TTH_CNT_LOST → t.rd a = s.rd a := by
  refine ⟨_, congrArg Host.Outcome.next (if_pos h), congrArg Tether.missed (State.tth_bump_frame _ _), ?_, fun a ha => State.rd_bump_other _ ha⟩
  rw [State.rd_bump_same, BitVec.toNat_ofNat, Nat.mod_eq_of_lt (by omega)]
  rfl

theorem exec_originationStart_due {s : State} (hen : s.tthEn = true) (hmay : s.role ≠ 0 ∨ s.f F.TTH_CFG_PRIO ≠ 0) (horg : s.tth.origin = false)
    (h : 4 ≤ s.tth.silent ∨ s.tth.returning = true ∧ 64 ≤ s.tth.lockedRun) :
    exec .originationStart s = .next { s with tth := { s.tth with start := true } } :=
  congrArg Host.Outcome.next (if_pos (by simp [hen, horg, State.mayOriginate, hmay, h]))

theorem exec_ringVerRise_due {s : State} (horg : s.tth.origin = true) (hver : s.tth.ringVer < s.tth.riseMin) (hrun : 64 ≤ s.tth.riseRun) :
    exec .ringVerRise s = .next { s with tth := { s.tth with ringVer := s.tth.riseMin, riseRun := 0 } } :=
  congrArg Host.Outcome.next (if_pos (by simp [horg, hver, hrun]))

/-! ### TTH_CTL (R257, R261) -/

theorem exec_tthCtlEn_served {r : Requester} {s : State} (h : s.writesReach r) (b : Bool) :
    exec (.tthCtlEn r b) s = .next (s.tthEnable b) :=
  congrArg Host.Outcome.next (s.writeBy_served _ _ h)

theorem exec_tthCtlJoin_served {r : Requester} {s : State} (h : s.writesReach r) : exec (.tthCtlJoin r) s = .next s.tthJoin :=
  congrArg Host.Outcome.next (s.writeBy_served _ _ h)

theorem State.tthEnable_on {s : State} (h : s.tthEn = false) : (s.tthEnable true).tthEn = true ∧ (s.tthEnable true).tthState ≠ 0
    ∧ (s.tthEnable true).port = s.port ∧ ∀ a, a ≠ R.TTH_CTL → (s.tthEnable true).rd a = s.rd a := by
  have hx : s.tthEnable true = { s.setB F.TTH_CTL_EN true with tth := { (s.setB F.TTH_CTL_EN true).tth with sinceEn := 0, silent := 0 } } := by
    unfold State.tthEnable
    rw [if_neg (by rw [h]; decide)]
    rfl
  have hen : (s.tthEnable true).tthEn = true := by
    rw [hx]
    exact s.b_setB_same (x := F.TTH_CTL_EN) true (by decide) rfl
  refine ⟨hen, ?_, ?_, fun a ha => ?_⟩
  · unfold State.tthState
    rw [hen]
    simp only [Bool.not_true, Bool.false_eq_true, if_false]
    repeat' split
    all_goals decide
  · rw [hx]
    exact funext fun p => State.port_setB_frame s _ true p
  · rw [hx]
    exact State.rd_setB_other s true ha

/-- A port taken DOWN with its delay, as EN cleared takes each that is up. -/
def State.takeDown (s : State) (p : Nat) : State :=
  if (s.port p).link = .down then s else (s.setLink p .down).dropDelay p

theorem State.port_showDelay (s : State) (p q : Nat) : (s.showDelay p).port q = s.port q := by
  unfold State.showDelay
  dsimp only
  split
  · rfl
  · rfl

theorem State.link_dropDelay (s : State) (p q : Nat) : ((s.dropDelay p).port q).link = (s.port q).link := by
  unfold State.dropDelay
  rw [State.port_showDelay, State.port_setPort]
  split
  · next h => rw [h]
  · rfl

theorem State.link_setLink (s : State) (p : Nat) (l : LinkSt) (q : Nat) :
    ((s.setLink p l).port q).link = if q = p then l else (s.port q).link := by
  unfold State.setLink
  extract_lets c x0 s1
  have hport : (if p = 2 then s1.setF F.TTH_GATE_STAT_LINK c else s1.setF (F.TTHP_STAT_LINK p) c).port q = s1.port q := by
    split
    · rfl
    · rfl
  rw [State.port_pulse_frame, hport, State.port_setPort]
  split
  · rfl
  · rfl

theorem State.link_takeDown (s : State) (p q : Nat) : ((s.takeDown p).port q).link = if q = p then .down else (s.port q).link := by
  unfold State.takeDown
  split
  · next h =>
    split
    · next hq => rw [hq, h]
    · rfl
  · rw [State.link_dropDelay, State.link_setLink]

/-- No port's word is TTH_CTL. -/
theorem State.tthEn_takeDown (s : State) (p : Nat) : (s.takeDown p).tthEn = s.tthEn := by
  have hport : ∀ k, k < 0x40 → F.TTH_CTL_EN.addr ≠ 0x110100 + p * 0x40 + k := fun k _ => by simp only [F.TTH_CTL_EN, R.TTH_CTL]; omega
  have hlink : ∀ l, (s.setLink p l).b F.TTH_CTL_EN = s.b F.TTH_CTL_EN := fun l => by
    unfold State.setLink
    extract_lets c x0 s1
    rw [State.b_pulse_frame]
    split
    · exact State.b_setF_other s1 _ (.inl (by decide))
    · exact State.b_setF_other s1 _ (.inl (hport 0 (by decide)))
  have hdelay : ∀ x : State, (x.dropDelay p).b F.TTH_CTL_EN = x.b F.TTH_CTL_EN := fun x => by
    unfold State.dropDelay State.showDelay
    dsimp only
    split
    · exact State.b_setF_other _ _ (.inl (by decide))
    · exact State.b_setF_other _ _ (.inl (hport 4 (by decide)))
  unfold State.takeDown
  split
  · rfl
  · exact (hdelay _).trans (hlink _)

/-- A port's fold ended, as EN cleared ends each. -/
def State.endFold (s : State) (p : Nat) : State := (s.setPort p { s.port p with loop := false }).setB (F.TTHP_STAT_LOOP p) false

theorem State.link_endFold (s : State) (p q : Nat) : ((s.endFold p).port q).link = (s.port q).link := by
  unfold State.endFold
  rw [State.port_setB_frame, State.port_setPort]
  split
  · next h => rw [h]
  · rfl

theorem State.tthEn_endFold (s : State) (p : Nat) : (s.endFold p).tthEn = s.tthEn :=
  State.b_setB_other (y := F.TTH_CTL_EN) _ false (.inl (by simp only [F.TTH_CTL_EN, F.TTHP_STAT_LOOP, R.TTH_CTL, R.TTHP_STAT]; omega))

theorem State.tthEnable_false {s : State} (h : s.tthEn = true) : s.tthEnable false
    = let s3 := overList (List.range 2) State.endFold (overList (List.range 3) State.takeDown (s.setB F.TTH_CTL_EN false))
      { s3.setDisc 0 with tth := { msgs := s3.tth.msgs, mgmtLost := s3.tth.mgmtLost } } :=
  if_neg (by rw [h]; decide)

theorem State.tthEnable_off {s : State} (h : s.tthEn = true) : (s.tthEnable false).tthState = 0 ∧ (s.tthEnable false).disc = 0
    ∧ (s.tthEnable false).tth.origin = false ∧ (s.tthEnable false).tth.joined = false
    ∧ ∀ p, p < 3 → ((s.tthEnable false).port p).link = .down := by
  rw [State.tthEnable_false h]
  set s1 := s.setB F.TTH_CTL_EN false
  have hen : (overList (List.range 2) State.endFold (overList (List.range 3) State.takeDown s1)).tthEn = false :=
    calc _ = (overList (List.range 3) State.takeDown s1).tthEn := overList_leaves State.tthEn State.tthEn_endFold _ _
      _ = s1.tthEn := overList_leaves State.tthEn State.tthEn_takeDown _ _
      _ = false := s.b_setB_same (x := F.TTH_CTL_EN) false (by decide) rfl
  have hlink : ∀ p, p < 3 → ((overList (List.range 2) State.endFold (overList (List.range 3) State.takeDown s1)).port p).link = .down := by
    intro p hp
    rw [overList_leaves (fun x => (x.port p).link) (fun x q => x.link_endFold q p)]
    show (((((s1.takeDown 0).takeDown 1).takeDown 2).port p).link) = .down
    simp only [State.link_takeDown]
    split
    · rfl
    · split
      · rfl
      · rw [if_pos (by omega)]
  generalize overList (List.range 2) State.endFold (overList (List.range 3) State.takeDown s1) = s3 at hen hlink
  refine ⟨?_, State.f_setF_same s3 (x := F.TB_DISC_STAT_STATE) 0 (by decide), rfl, rfl, hlink⟩
  refine if_pos ?_
  show (!(s3.setDisc 0).b F.TTH_CTL_EN) = true
  rw [show (s3.setDisc 0).b F.TTH_CTL_EN = s3.b F.TTH_CTL_EN from State.b_setF_other s3 (x := F.TB_DISC_STAT_STATE) 0 (.inl (by decide))]
  rw [show s3.b F.TTH_CTL_EN = false from hen]
  rfl

/-- Settles O50: sealing (R257), forwarding and originating, the beat's count, the origination, the ring's version, EN and JOIN. -/
theorem tetherFramesAreSealedAndForwarded : Obligations.TetherFramesAreSealedAndForwarded := by
  unfold Obligations.TetherFramesAreSealedAndForwarded
  refine ⟨fun f hf => ⟨frameGood_sealFrame hf _, frameStomped_sealFrame hf _, frameStomped_sealFrame hf _, frameGood_sealFrame hf _⟩,
    ?forward, ?originate, fun s h => exec_frameLostBeat_missed h, fun s hen hmay horg h => exec_originationStart_due hen hmay horg h,
    fun s horg hver hrun => exec_ringVerRise_due horg hver hrun, fun r s hr => ⟨fun h => ?on, fun h => ?off⟩, fun r s hr => ⟨fun h => ?join, fun h => ?late⟩⟩
  case forward =>
    intro p f r so s g hf hen hm hrun hl horg hhops
    obtain ⟨t, out, h, ht, hsent, hlen, hh, hbad⟩ := exec_frameReceived_forwards p f r so s hf hen hm hrun hl horg hhops
    refine ⟨t, out, _, ht, hsent, (fget_sealFrame hlen _ (by decide)).trans hh, ?_, frameStomped_sealFrame hlen _, fun hg => ?_⟩
    · rw [frameGood_sealFrame hlen, Bool.not_not]
    · obtain ⟨hport, hlast, hrd⟩ := hbad hg
      refine ⟨hport, hlast, ?_, fun a ha => ?_⟩
      · rw [hrd, State.rd_bump_same, BitVec.toNat_ofNat, Nat.mod_eq_of_lt (by omega)]
      · rw [hrd, State.rd_bump_other _ ha]
  case originate =>
    intro lag s hen hrun horg hown hphase hdue
    obtain ⟨s0, hs0, htb, hs⟩ := State.originate_sendOwn lag.toNat hen hrun horg hown hphase hdue
    obtain ⟨h, hseal, hh⟩ := s0.ownFrame_header lag.toNat
    have hget : ∀ {k n : Nat}, k + n ≤ 640 → fget (s0.ownFrame lag.toNat).2 k n = fget h k n := fun hk => by
      rw [hseal, fget_sealFrame hh.length _ hk]
    refine ⟨s0.sendOwn lag.toNat, _, congrArg Host.Outcome.next hs0, rfl, s0.sent_sendOwn _, fun hn => ?_, ?_,
      (hget (by decide)).trans hh.hops, (hget (by decide)).trans ?_, (hget (by decide)).trans ?_⟩
    · rw [State.port_sendOwn, hs hn]
    · rw [hseal, frameGood_sealFrame hh.length]
      rfl
    · rw [hh.beat, htb]
    · rw [hh.time, htb]
  case on => exact ⟨_, exec_tthCtlEn_served hr true, State.tthEnable_on h⟩
  case off => exact ⟨_, exec_tthCtlEn_served hr false, State.tthEnable_off h⟩
  case join =>
    refine ⟨_, (exec_tthCtlJoin_served hr).trans (congrArg Host.Outcome.next (if_pos h)), s.b_setB_same (x := F.TTH_CTL_JOIN) true (by decide) rfl,
      fun a ha => State.rd_setB_other s true ha⟩
  case late => exact (exec_tthCtlJoin_served hr).trans (congrArg Host.Outcome.next (if_neg h))

end Sys2Proof.Machine
end

section
/-! The DMA engine with one channel in use: what ends a chain, and when the engine has nothing more to do (R299, R301 to R306). -/

namespace Sys2Proof.Machine

open Sys2Proof

/-! ### What showing a channel's work leaves -/

/-- The words in which channel `n` shows its work (CUR, BYTES, CRC and STAT), and the count of lost reports. -/
def dmaShown (n a : Nat) : Prop := a = R.LOG_LOST ∨ 0x118018 + n * 0x40 ≤ a ∧ a < 0x118038 + n * 0x40

/-- From `s` to `t` the engine, its channels, the bytes written to host memory and every word but those shown are as they were. -/
structure State.DmaLeaves (n : Nat) (s t : State) : Prop where
  dma : t.dma = s.dma
  ch : ∀ m, t.ch m = s.ch m
  hostOut : t.hostOut = s.hostOut
  rd : ∀ a, ¬dmaShown n a → t.rd a = s.rd a

namespace State.DmaLeaves

variable {n : Nat} {s t u : State}

theorem refl (n : Nat) (s : State) : s.DmaLeaves n s := ⟨rfl, fun _ => rfl, rfl, fun _ _ => rfl⟩

theorem trans (a : State.DmaLeaves n s t) (b : State.DmaLeaves n t u) : State.DmaLeaves n s u :=
  ⟨b.dma.trans a.dma, fun m => (b.ch m).trans (a.ch m), b.hostOut.trans a.hostOut, fun x hx => (b.rd x hx).trans (a.rd x hx)⟩

theorem b (h : State.DmaLeaves n s t) {x : Fld} (hx : ¬dmaShown n x.addr) : t.b x = s.b x := State.b_of_rd (h.rd _ hx)

theorem f (h : State.DmaLeaves n s t) {x : Fld} (hx : ¬dmaShown n x.addr) : t.f x = s.f x := State.f_of_rd (h.rd _ hx)

end State.DmaLeaves

theorem dmaShown_at {n k : Nat} (hk : 0x18 ≤ k) (hk' : k < 0x38) : dmaShown n (0x118000 + n * 0x40 + k) := .inr (by omega)

theorem not_dmaShown_at {n k : Nat} (hk : k < 0x18 ∨ 0x38 ≤ k ∧ k < 0x40) : ¬dmaShown n (0x118000 + n * 0x40 + k) := by
  simp only [dmaShown, R.LOG_LOST]
  omega

theorem not_dmaShown_queue {n a : Nat} (hn : n < 32) (ha : 0x118800 ≤ a) (hl : a ≠ R.LOG_LOST) : ¬dmaShown n a := by
  rintro (h | h)
  · exact hl h
  · omega

section
variable (s : State) (n : Nat)

theorem State.wr_dmaLeaves {a : Nat} (w : Word) (ha : dmaShown n a) : s.DmaLeaves n (s.wr a w) :=
  ⟨rfl, fun _ => rfl, rfl, fun _ hb => State.rd_wr_other s w (fun h => hb (h ▸ ha))⟩

theorem State.setF_dmaLeaves {x : Fld} (v : Nat) (hx : dmaShown n x.addr) : s.DmaLeaves n (s.setF x v) := s.wr_dmaLeaves n _ hx

theorem State.setB_dmaLeaves {x : Fld} (v : Bool) (hx : dmaShown n x.addr) : s.DmaLeaves n (s.setB x v) :=
  ⟨State.dma_setB_frame s x v, State.ch_setB_frame s x v, State.hostOut_setB_frame s x v,
    fun _ hb => State.rd_setB_other s v (fun h => hb (h ▸ hx))⟩

theorem State.log_dmaLeaves (c : LogCode) (x d : Nat) : s.DmaLeaves n (s.log c x d) :=
  ⟨State.dma_log_frame s c x d, State.ch_log_frame s c x d, State.hostOut_log_frame s c x d, fun _ hb => State.rd_log s c x d fun h => hb (.inl h)⟩

theorem State.setBytes_dmaLeaves (v : Nat) : s.DmaLeaves n (s.setF (F.DMA_BYTES_BYTES n) v) :=
  s.setF_dmaLeaves n v (dmaShown_at (by decide) (by decide))

theorem State.setCur_dmaLeaves (x : DmaAddr) : s.DmaLeaves n (s.setCur n x) :=
  ((s.wr_dmaLeaves n _ (dmaShown_at (by decide) (by decide))).trans (State.wr_dmaLeaves _ n _ (dmaShown_at (by decide) (by decide)))).trans
    (State.wr_dmaLeaves _ n _ (dmaShown_at (by decide) (by decide)))

theorem State.setCrc_dmaLeaves (c : Nat) : s.DmaLeaves n (s.setCrc n c) :=
  (s.setF_dmaLeaves n _ (dmaShown_at (by decide) (by decide))).trans (State.setF_dmaLeaves _ n _ (dmaShown_at (by decide) (by decide)))

theorem State.draw_dmaLeaves : s.DmaLeaves n s.draw.2 := ⟨rfl, fun _ => rfl, rfl, fun _ _ => rfl⟩

theorem State.recOf_dmaLeaves (j : DmaJob) (status : Nat) (exact_ ends : Bool) : s.DmaLeaves n (s.recOf n j status exact_ ends).1 := by
  unfold State.recOf
  dsimp only
  split
  · exact .refl n s
  · exact ((s.draw_dmaLeaves n).trans (s.draw.2.draw_dmaLeaves n)).trans (State.setBytes_dmaLeaves _ n _)

theorem State.jobRec_dmaLeaves (j : DmaJob) (status : Nat) (exact_ ends : Bool) : s.DmaLeaves n (s.jobRec n j status exact_ ends).1 :=
  (s.recOf_dmaLeaves n j status exact_ ends).trans (State.setCrc_dmaLeaves _ n _)

end

/-! ### The end of a chain (R301, R305, R309) -/

/-- From `s` to `t` the chain of channel `n` has ended with the record `y`; of the words only those shown and DISABLE may have moved. -/
structure State.ChainEnds (n : Nat) (s t : State) (y : DmaRec) : Prop where
  on : (t.ch n).on = false
  jobs : (t.ch n).jobs = []
  next : (t.ch n).next = none
  records : (t.ch n).records = (s.ch n).records ++ [y]
  others : ∀ m, m ≠ n → t.ch m = s.ch m
  dma : s.dma.burst = none → t.dma = s.dma
  hostOut : t.hostOut = s.hostOut
  rd : ∀ a, ¬dmaShown n a → a ≠ R.DMA_CTL n → t.rd a = s.rd a

section
variable {n : Nat} {s t u : State} {y : DmaRec}

theorem State.cutBurst_none {n : Nat} (h : s.dma.burst = none) : s.cutBurst n = s := by
  unfold State.cutBurst
  rw [h]

theorem State.ch_cutBurst (s : State) (n m : Nat) : (s.cutBurst n).ch m = s.ch m := by
  unfold State.cutBurst
  split
  · split
    · rfl
    · rfl
  · rfl

theorem State.rd_cutBurst (s : State) (n a : Nat) : (s.cutBurst n).rd a = s.rd a := by
  unfold State.cutBurst
  split
  · split
    · rfl
    · rfl
  · rfl

theorem State.hostOut_cutBurst (s : State) (n : Nat) : (s.cutBurst n).hostOut = s.hostOut := by
  unfold State.cutBurst
  split
  · split
    · rfl
    · rfl
  · rfl

theorem State.dmaEnd_ends (s : State) (n : Nat) (y : DmaRec) : s.ChainEnds n (s.dmaEnd n y) y := by
  unfold State.dmaEnd
  dsimp only
  have hn : ∀ c, (((s.cutBurst n).setCh n c).setB (F.DMA_CTL_DISABLE n) false).ch n = c := fun c =>
    (State.ch_setB_frame _ _ _ _).trans (State.ch_setCh_same _ _ _)
  constructor
  case on => rw [hn]
  case jobs => rw [hn]
  case next => rw [hn]
  case records => rw [hn]
  case others =>
    intro m hm
    rw [State.ch_setB_frame, State.ch_setCh, if_neg hm, State.ch_cutBurst]
  case dma =>
    intro hb
    rw [State.dma_setB_frame, State.dma_setCh_frame, State.cutBurst_none hb]
  case hostOut => rw [State.hostOut_setB_frame, State.hostOut_setCh_frame, State.hostOut_cutBurst]
  case rd =>
    intro a _ ha
    rw [State.rd_setB_other _ _ ha, State.rd_setCh_frame, State.rd_cutBurst]

theorem State.ChainEnds.after (h : State.DmaLeaves n s t) (e : State.ChainEnds n t u y) : State.ChainEnds n s u y where
  on := e.on
  jobs := e.jobs
  next := e.next
  records := by rw [e.records, h.ch]
  others m hm := (e.others m hm).trans (h.ch m)
  dma hb := (e.dma (by rw [h.dma, hb])).trans h.dma
  hostOut := e.hostOut.trans h.hostOut
  rd a ha hc := (e.rd a ha hc).trans (h.rd a ha)

theorem State.ChainEnds.before (e : State.ChainEnds n s t y) (h : State.DmaLeaves n t u) : State.ChainEnds n s u y where
  on := by rw [h.ch, e.on]
  jobs := by rw [h.ch, e.jobs]
  next := by rw [h.ch, e.next]
  records := by rw [h.ch, e.records]
  others m hm := (h.ch m).trans (e.others m hm)
  dma hb := h.dma.trans (e.dma hb)
  hostOut := h.hostOut.trans e.hostOut
  rd a ha hc := (h.rd a ha).trans (e.rd a ha hc)

/-- A job's record ends its chain. -/
theorem State.jobRec_ends (s : State) (n : Nat) (j : DmaJob) (status : Nat) (exact_ ends : Bool) :
    s.ChainEnds n ((s.jobRec n j status exact_ ends).1.dmaEnd n (s.jobRec n j status exact_ ends).2) (s.jobRec n j status exact_ ends).2 :=
  .after (s.jobRec_dmaLeaves n j status exact_ ends) (State.dmaEnd_ends _ n _)

theorem State.recOf_ends (s : State) (n : Nat) (j : DmaJob) (status : Nat) (exact_ ends : Bool) :
    s.ChainEnds n ((s.recOf n j status exact_ ends).1.dmaEnd n (s.recOf n j status exact_ ends).2) (s.recOf n j status exact_ ends).2 :=
  .after (s.recOf_dmaLeaves n j status exact_ ends) (State.dmaEnd_ends _ n _)

/-! ### The head of a channel's work -/

theorem State.dmaHead_off (h : (s.ch n).on = false) : s.dmaHead n = s := if_pos (by simp [h])

theorem State.dmaHead_reporting (h : (s.ch n).records ≠ []) : s.dmaHead n = s := if_pos (by simp [h])

/-- A job not yet written out goes on. -/
theorem State.dmaHead_goesOn {j : DmaJob} {rest : List DmaJob} (hj : (s.ch n).jobs = j :: rest) (hf : j.fault = none)
    (hd : s.b (F.DMA_CTL_DISABLE n) = false) (hw : j.written < j.d.count) : s.dmaHead n = s := by
  unfold State.dmaHead
  extract_lets c stop dis mine
  split
  · rfl
  · simp only [c, hj, hf]
    exact if_pos (by simp [dis, hd, hw])

/-- A chain between descriptors, neither stopped nor disabled, goes on. -/
theorem State.dmaHead_between (hj : (s.ch n).jobs = []) (hs : s.b (F.DMA_CTL_STOP n) = false) (hd : s.b (F.DMA_CTL_DISABLE n) = false) :
    s.dmaHead n = s := by
  unfold State.dmaHead
  extract_lets c stop dis mine
  split
  · rfl
  · simp only [c, hj]
    split
    · exact if_neg (by simp [stop, dis, hs, hd])
    · rfl

/-- An error at the head, none of its reads in flight, ends the chain. -/
theorem State.dmaHead_fault {j : DmaJob} {rest : List DmaJob} {st : Nat} (hon : (s.ch n).on = true) (hr : (s.ch n).records = [])
    (hj : (s.ch n).jobs = j :: rest) (hf : j.fault = some st) (hfly : (s.ch n).flying = 0) :
    ∃ y, s.ChainEnds n (s.dmaHead n) y ∧ y.status = st ∧ y.at_ = j.at_ := by
  unfold State.dmaHead
  extract_lets c stop dis mine
  rw [if_neg (by simp [c, hon, hr])]
  simp only [c, hj, hf]
  split
  · exact ⟨_, s.jobRec_ends n j st false true, rfl, rfl⟩
  · rw [if_neg (not_not.mpr hfly)]
    exact ⟨_, s.jobRec_ends n j st true true, rfl, rfl⟩

/-- The last descriptor of a chain, written out, ends it with OK. -/
theorem State.dmaHead_last {j : DmaJob} (hon : (s.ch n).on = true) (hr : (s.ch n).records = []) (hj : (s.ch n).jobs = [j]) (hf : j.fault = none)
    (hs : s.b (F.DMA_CTL_STOP n) = false) (hd : s.b (F.DMA_CTL_DISABLE n) = false) (hw : j.d.count ≤ j.written) (hl : j.d.last = true) :
    ∃ y, s.ChainEnds n (s.dmaHead n) y ∧ y.status = dmaOk ∧ y.bytes = j.written ∧ y.valid = true ∧ y.at_ = j.at_ := by
  unfold State.dmaHead
  extract_lets c stop dis mine
  rw [if_neg (by simp [c, hon, hr])]
  have hw' : ¬j.written < j.d.count := Nat.not_lt.mpr hw
  simp only [c, hj, hf, dis, hd, stop, hs, hw', hl]
  exact ⟨_, s.jobRec_ends n j dmaOk true true, rfl, rfl, rfl, rfl⟩

/-- A channel with no descriptor in work and none to come has nothing to do. -/
theorem State.dmaHead_nothing (hj : (s.ch n).jobs = []) (hx : (s.ch n).next = none) : s.dmaHead n = s := by
  unfold State.dmaHead
  extract_lets c stop dis mine
  split
  · rfl
  · simp only [c, hj, hx]

/-- The same channel put into either state. -/
theorem State.DmaLeaves.setCh (h : State.DmaLeaves n s t) (c : DmaChan) : (s.setCh n c).DmaLeaves n (t.setCh n c) where
  dma := by rw [State.dma_setCh_frame, State.dma_setCh_frame, h.dma]
  ch m := by rw [State.ch_setCh, State.ch_setCh, h.ch]
  hostOut := by rw [State.hostOut_setCh_frame, State.hostOut_setCh_frame, h.hostOut]
  rd a ha := by rw [State.rd_setCh_frame, State.rd_setCh_frame, h.rd a ha]

/-- A channel whose only descriptor in work is written out, in the middle of its chain. -/
def DmaChan.within (c : DmaChan) (keep : Option (Bool × Nat)) (y : DmaRec) (record : Bool) : DmaChan :=
  { c with jobs := [], keep := keep, records := if record then c.records ++ [y] else c.records }

/-- A descriptor written out within its chain leaves the channel without a job. -/
theorem State.jobDone_within (s : State) (n : Nat) (j : DmaJob) :
    ∃ c, (s.setCh n c).DmaLeaves n (s.jobDone n j [] dmaOk false) ∧ c.jobs = [] ∧ c.next = (s.ch n).next := by
  have hrec := s.jobRec_dmaLeaves n j dmaOk true false
  unfold State.jobDone
  generalize s.jobRec n j dmaOk true false = x at hrec ⊢
  extract_lets x0 c keep s1 s2
  rw [if_neg Bool.false_ne_true]
  have hset : ∀ c', (s.setCh n c').DmaLeaves n (x.1.setCh n c') := fun c' =>
    hrec.setCh c'
  have h1 := ((hset (c.within keep x.2 j.d.record)).trans (State.setBytes_dmaLeaves _ n 0)).trans (State.setCur_dmaLeaves _ n j.d.next)
  refine ⟨_, h1, rfl, ?_⟩
  show (x.1.ch n).next = _
  rw [hrec.ch]

/-- A descriptor written out, not its chain's last, leaves the channel without a job. -/
theorem State.dmaHead_done {j : DmaJob} (hon : (s.ch n).on = true) (hr : (s.ch n).records = []) (hj : (s.ch n).jobs = [j]) (hf : j.fault = none)
    (hs : s.b (F.DMA_CTL_STOP n) = false) (hd : s.b (F.DMA_CTL_DISABLE n) = false) (hw : j.d.count ≤ j.written) (hl : j.d.last = false) :
    ∃ c, (s.setCh n c).DmaLeaves n (s.dmaHead n) ∧ c.jobs = [] ∧ c.next = (s.ch n).next := by
  have hdone : s.dmaHead n = s.jobDone n j [] dmaOk false := by
    unfold State.dmaHead
    extract_lets c stop dis mine
    rw [if_neg (by simp [c, hon, hr])]
    have hw' : ¬j.written < j.d.count := Nat.not_lt.mpr hw
    simp only [c, hj, hf, dis, hd, stop, hs, hw', hl]
    rfl
  rw [hdone]
  exact s.jobDone_within n j

/-- A stop between descriptors ends the chain, and names the descriptor that was to come. -/
theorem State.dmaHead_stopped {x : DmaAddr} (hon : (s.ch n).on = true) (hr : (s.ch n).records = []) (hj : (s.ch n).jobs = [])
    (hx : (s.ch n).next = some x) (hs : s.b (F.DMA_CTL_STOP n) = true) (hd : s.b (F.DMA_CTL_DISABLE n) = false) :
    ∃ y, s.ChainEnds n (s.dmaHead n) y ∧ y.status = dmaStopped ∧ y.bytes = 0 ∧ y.valid = true ∧ y.at_ = x := by
  unfold State.dmaHead
  extract_lets c stop dis mine
  rw [if_neg (by simp [c, hon, hr])]
  simp only [c, hj, hx, stop, hs, dis, hd, Bool.true_or, if_true]
  exact ⟨_, (s.recOf_ends n _ _ true true).before (State.setCur_dmaLeaves _ n x), rfl, rfl, rfl, rfl⟩

/-! ### The engine goes on (R299) -/

theorem State.dmaFetch_none (h : (s.ch n).next = none) : s.dmaFetch n = s := by
  unfold State.dmaFetch
  dsimp only
  rw [h]

theorem State.dmaFetch_off (h : (s.ch n).on = false) : s.dmaFetch n = s := by
  unfold State.dmaFetch
  dsimp only
  split
  · rfl
  · exact if_pos (by simp [State.dmaGoesOn, h])

/-- A fetch waits for the last read of the descriptor before it. -/
theorem State.dmaFetch_waits {j : DmaJob} (hj : j ∈ (s.ch n).jobs) (hi : j.issued < j.d.count) : s.dmaFetch n = s := by
  unfold State.dmaFetch
  dsimp only
  split
  · rfl
  · have hany : (s.ch n).jobs.any (fun j => decide (j.issued < j.d.count)) = true := List.any_eq_true.mpr ⟨j, hj, decide_eq_true hi⟩
    rw [hany]
    exact if_pos (by simp)

theorem State.issueReads_none (h : s.dma.burst = none) (k : Nat) : State.issueReads k s = s := by
  induction k with
  | zero => rfl
  | succ k ih =>
    rw [State.issueReads, show s.issueOne = s by unfold State.issueOne; rw [h]]
    exact ih

/-- Channel `n` alone is in use, with no burst being issued. -/
structure State.OneChannel (s : State) (n : Nat) : Prop where
  burst : s.dma.burst = none
  others : ∀ m, m ≠ n → s.ch m = {}

theorem overList_fixed {α : Type} {f : State → α → State} {s : State} (h : ∀ a, f s a = s) (l : List α) : overList l f s = s := by
  induction l with
  | nil => rfl
  | cons a l ih => rw [overList_cons, h, ih]

/-- With nothing for the only channel to do, no channel moves. -/
theorem State.heads_stand (ho : ∀ m, m ≠ n → s.ch m = {}) (hn : (s.dmaHead n).dmaFetch n = s) (l : List Nat) :
    overList l (fun s m => (s.dmaHead m).dmaFetch m) s = s := by
  refine overList_fixed (fun m => ?_) l
  by_cases hm : m = n
  · rw [hm, hn]
  · have hc := ho m hm
    rw [State.dmaHead_off (by rw [hc]), State.dmaFetch_none (by rw [hc])]

/-- With nothing for the channel to do the engine stands. -/
theorem State.pump_eq (h : s.OneChannel n) (hn : (s.dmaHead n).dmaFetch n = s) : s.pump = s := by
  unfold State.pump
  rw [State.issueReads_none h.burst]
  exact State.heads_stand h.others hn _

theorem State.pump_off (h : s.OneChannel n) (hon : (s.ch n).on = false) : s.pump = s :=
  State.pump_eq h (by rw [State.dmaHead_off hon, State.dmaFetch_off hon])

theorem State.pump_goesOn {j : DmaJob} (h : s.OneChannel n) (hj : (s.ch n).jobs = [j]) (hf : j.fault = none)
    (hd : s.b (F.DMA_CTL_DISABLE n) = false) (hw : j.written < j.d.count) (hx : (s.ch n).next = none ∨ j.issued < j.d.count) : s.pump = s := by
  refine State.pump_eq h ?_
  rw [State.dmaHead_goesOn hj hf hd hw]
  exact hx.elim State.dmaFetch_none (State.dmaFetch_waits (by rw [hj]; exact List.mem_singleton_self j))

theorem State.ChainEnds.oneChannel (e : State.ChainEnds n s t y) (h : s.OneChannel n) : t.OneChannel n :=
  ⟨by rw [e.dma h.burst, h.burst], fun m hm => (e.others m hm).trans (h.others m hm)⟩

theorem State.ChainEnds.pump (e : State.ChainEnds n s t y) (h : s.OneChannel n) : t.pump = t :=
  State.pump_off (e.oneChannel h) e.on

theorem State.DmaLeaves.oneChannel {m : Nat} (l : State.DmaLeaves m s t) (h : s.OneChannel n) : t.OneChannel n :=
  ⟨by rw [l.dma, h.burst], fun k hk => (l.ch k).trans (h.others k hk)⟩

theorem State.OneChannel.setCh (h : s.OneChannel n) (c : DmaChan) : (s.setCh n c).OneChannel n :=
  ⟨h.burst, fun m hm => by rw [State.ch_setCh, if_neg hm, h.others m hm]⟩

/-- A descriptor that ends the chain before any of its data moves, none of its channel's reads in flight (R295, R304). -/
theorem State.dmaBadDesc_ends {x : DmaAddr} (hb : s.dma.burst = none) (hon : (s.ch n).on = true) (hj : (s.ch n).jobs = [])
    (hr : (s.ch n).records = []) (hl : (s.ch n).lost = []) (st : Nat) :
    ∃ y, s.ChainEnds n (s.dmaBadDesc n x st) y ∧ y.status = st ∧ y.at_ = x := by
  unfold State.dmaBadDesc State.dmaFails
  extract_lets c j s1 s2
  set c1 : DmaChan := { c with fetchAt := none }.failed j c.keep st with hc1
  have h1 : (s.setCh n c1).DmaLeaves n s1 := by
    have hcut : s.cutBurst n = s := State.cutBurst_none hb
    unfold s1
    rw [hcut]
    exact (State.setCur_dmaLeaves _ n _).trans (State.setBytes_dmaLeaves _ n _)
  have h2 : (s.setCh n c1).DmaLeaves n s2 := by
    unfold s2
    split
    · exact h1.trans (State.log_dmaLeaves _ n _ _ _)
    · exact h1
  have hch : s2.ch n = c1 := (h2.ch n).trans (State.ch_setCh_same s n c1)
  have hstrand : c1.lost = [] := by simp [hc1, DmaChan.failed, DmaChan.strand, c, hj, hl]
  obtain ⟨y, e, hst, hat⟩ := State.dmaHead_fault (s := s2) (n := n) (j := { j with reads := [], waitAt := none, fault := some st }) (rest := [])
    (by rw [hch]; exact hon) (by rw [hch]; exact hr) (by rw [hch]; rfl) rfl (by rw [hch, DmaChan.flying, hstrand]; rfl)
  refine ⟨y, ?_, hst, hat⟩
  exact {
    on := e.on, jobs := e.jobs, next := e.next
    records := by rw [e.records, hch]; rfl
    others := fun m hm => by rw [e.others m hm, h2.ch, State.ch_setCh, if_neg hm]
    dma := fun _ => (e.dma (by rw [h2.dma]; exact hb)).trans h2.dma
    hostOut := e.hostOut.trans h2.hostOut
    rd := fun a ha hc => (e.rd a ha hc).trans (h2.rd a ha) }

end

end Sys2Proof.Machine
end

section
/-! The commands of the DMA engine on a channel that alone is in use (R295, R297 to R299, R301, R302, R304 to R309). -/

namespace Sys2Proof.Machine

open Sys2Proof

section
variable {n : Nat} {s t : State} {y : DmaRec}

theorem State.oneChannel_of_alone (h : s.DmaAlone n) : s.OneChannel n := by
  obtain ⟨-, hb, -, -, -, ho⟩ := h
  exact ⟨hb, ho⟩

/-! ### Start (R297) -/

/-- Reads in flight that a table of channels lists. -/
def flyingIn (l : List (Nat × DmaChan)) : Nat := (l.map (fun e => e.2.flying)).foldl (· + ·) 0

theorem flyingIn_cons (e : Nat × DmaChan) (l : List (Nat × DmaChan)) : flyingIn (e :: l) = e.2.flying + flyingIn l := by
  unfold flyingIn
  rw [List.map_cons, ← List.sum_eq_foldl, ← List.sum_eq_foldl, List.sum_cons]

/-- A channel with no read in flight adds none. -/
theorem flyingIn_put_le (k : Nat) {c : DmaChan} (hc : c.flying = 0) (l : List (Nat × DmaChan)) : flyingIn (Sparse.put k c l) ≤ flyingIn l := by
  induction l with
  | nil => simp [Sparse.put, flyingIn, hc]
  | cons e l ih =>
    unfold Sparse.put
    split
    · rw [flyingIn_cons, hc, Nat.zero_add]
    · split
      · rw [flyingIn_cons, flyingIn_cons, hc]
        omega
      · rw [flyingIn_cons, flyingIn_cons]
        omega

theorem flyingIn_drop_le (k : Nat) (l : List (Nat × DmaChan)) : flyingIn (Sparse.drop k l) ≤ flyingIn l := by
  induction l with
  | nil => exact Nat.le_refl _
  | cons e l ih =>
    unfold Sparse.drop
    split
    · rw [flyingIn_cons]
      omega
    · rw [flyingIn_cons, flyingIn_cons]
      omega

theorem State.dmaFlying_setCh_le (s : State) (n : Nat) {c : DmaChan} (hc : c.flying = 0) : (s.setCh n c).dmaFlying ≤ s.dmaFlying := by
  show flyingIn (Sparse.set (fun _ => {}) s.chans n c) ≤ flyingIn s.chans
  unfold Sparse.set
  split
  · exact flyingIn_drop_le n s.chans
  · exact flyingIn_put_le n hc s.chans

theorem State.chIdle_iff (s : State) (n : Nat) : s.chIdle n = true ↔ (s.ch n).on = false ∧ (s.ch n).lost = [] ∧ (s.ch n).records = [] := by
  simp [State.chIdle, and_assoc]

/-- The words of channel `n` that hold its set-up and its control. -/
theorem not_dmaShown_ctl (n : Nat) : ¬dmaShown n (R.DMA_CTL n) := not_dmaShown_at (k := 0) (.inl (by decide))

theorem State.goesOn_fetches {x : DmaAddr} (h : s.DmaAlone n) (hon : (s.ch n).on = true) (hr : (s.ch n).records = []) (hj : (s.ch n).jobs = [])
    (hx : (s.ch n).next = some x) (hf : (s.ch n).fetchAt = none) (hh : (s.ch n).hops = 0) (hs : x.space = 1) :
    s.dmaFetch n = s.setCh n { s.ch n with hops := (s.ch n).hops + 1, fetchAt := some s.dmaNow } := by
  obtain ⟨hruns, hb, hstop, hdis, hfly, -⟩ := h
  have hgo : s.dmaGoesOn n = true := by simp [State.dmaGoesOn, hon, hr, hj, hstop, hdis]
  have hlim : ¬s.hopLimit n ≤ (s.ch n).hops := by
    rw [hh]
    unfold State.hopLimit
    dsimp only
    split
    · decide
    · omega
  unfold State.dmaFetch
  simp only [hx]
  rw [if_neg (by simp [hgo, hf, hruns, hb, hj]), if_neg hlim, if_neg (by simp [hs]), if_neg (Nat.not_le.mpr hfly)]
  unfold State.outTo
  rw [if_neg (by rw [hs]; decide)]

/-- The channel that a start leaves to fetch its first descriptor. -/
def DmaChan.begun (c : DmaChan) (x : DmaAddr) : DmaChan := { c with on := true, next := some x, hops := 0, keep := none }

/-- The descriptor pointer of a channel whose SPACE is the Yard. -/
def State.firstDesc (s : State) (n : Nat) : DmaAddr :=
  ⟨1, s.f (F.DMA_DESC_0_ADDR n) + 2 ^ 24 * s.f (F.DMA_DESC_1_ADDR n) + 2 ^ 48 * s.f (F.DMA_DESC_2_ADDR n)⟩

theorem State.dmaStart_fetches (hen : s.b F.DMA_CQ_CFG_EN = true) (hreq : 32 ≤ s.f (F.DMA_CFG_REQ_SEL n))
    (hsp : s.b (F.DMA_DESC_2_SPACE n) = false) (hidle : s.chIdle n = true) :
    s.dmaStart n = (((s.setCh n ((s.ch n).begun (s.firstDesc n))).setCur n (s.firstDesc n)).setF (F.DMA_BYTES_BYTES n) 0).dmaFetch n := by
  unfold State.dmaStart
  extract_lets r taken x c
  have htaken : taken = false := by simp only [taken, r, decide_eq_false (Nat.not_lt.mpr hreq), Bool.false_and]
  have hx : x = s.firstDesc n := by simp only [x, hsp, Bool.false_eq_true, if_false, State.firstDesc]
  rw [if_neg (by simp [hidle, hen, htaken]), hx]
  rfl

/-- The channel once its first descriptor is being fetched. -/
def DmaChan.fetching (c : DmaChan) (t : Time) : DmaChan := { c with hops := c.hops + 1, fetchAt := some t }

/-- DMA_START of an IDLE channel begins the fetch of its first descriptor. -/
theorem State.dmaStart_begins (h : s.DmaAlone n) (hen : s.b F.DMA_CQ_CFG_EN = true) (hreq : 32 ≤ s.f (F.DMA_CFG_REQ_SEL n))
    (hsp : s.b (F.DMA_DESC_2_SPACE n) = false) (hidle : s.chIdle n = true) (hj : (s.ch n).jobs = []) (hf : (s.ch n).fetchAt = none) :
    ∃ s1 : State, s1.f (F.DMA_BYTES_BYTES n) = 0
      ∧ s.dmaStart n = s1.setCh n (((s.ch n).begun (s.firstDesc n)).fetching s.dmaNow) := by
  obtain ⟨-, hlost, hrec⟩ := (s.chIdle_iff n).mp hidle
  obtain ⟨hruns, hb, hstop, hdis, hfly, ho⟩ := h
  rw [State.dmaStart_fetches hen hreq hsp hidle]
  generalize hx : s.firstDesc n = x
  have hx1 : x.space = 1 := by rw [← hx]; rfl
  generalize hc : (s.ch n).begun x = c
  have hcfly : c.flying = 0 := by simp [← hc, DmaChan.begun, DmaChan.flying, hlost, hf, hj]
  have hl : (s.setCh n c).DmaLeaves n (((s.setCh n c).setCur n x).setF (F.DMA_BYTES_BYTES n) 0) :=
    (State.setCur_dmaLeaves _ n _).trans (State.setBytes_dmaLeaves _ n 0)
  have hflying : (((s.setCh n c).setCur n x).setF (F.DMA_BYTES_BYTES n) 0).dmaFlying < 128 :=
    Nat.lt_of_le_of_lt (s.dmaFlying_setCh_le n hcfly) hfly
  have hnow : (((s.setCh n c).setCur n x).setF (F.DMA_BYTES_BYTES n) 0).dmaNow = s.dmaNow := rfl
  have hbytes : (((s.setCh n c).setCur n x).setF (F.DMA_BYTES_BYTES n) 0).f (F.DMA_BYTES_BYTES n) = 0 :=
    State.f_setF_same _ (x := F.DMA_BYTES_BYTES n) 0 (show 0 + 24 ≤ 32 by decide)
  generalize ((s.setCh n c).setCur n x).setF (F.DMA_BYTES_BYTES n) 0 = s1 at hl hflying hnow hbytes ⊢
  have hch : s1.ch n = c := (hl.ch n).trans (State.ch_setCh_same s n c)
  have hmode : s1.mode = s.mode :=
    hl.f (x := F.SYS_MODE_MODE) (by simp only [dmaShown, F.SYS_MODE_MODE, R.SYS_MODE, R.LOG_LOST]; omega)
  have halone : s1.DmaAlone n := by
    refine ⟨?_, (congrArg Dma.burst hl.dma).trans hb, (hl.b (x := F.DMA_CTL_STOP n) (not_dmaShown_ctl n)).trans hstop,
      (hl.b (x := F.DMA_CTL_DISABLE n) (not_dmaShown_ctl n)).trans hdis, hflying,
      (hl.oneChannel ((State.OneChannel.mk hb ho).setCh c)).others⟩
    unfold State.dmaRuns
    rw [hmode]
    exact hruns
  refine ⟨s1, hbytes, ?_⟩
  rw [State.goesOn_fetches halone (by rw [hch, ← hc]; rfl) (by rw [hch, ← hc]; exact hrec) (by rw [hch, ← hc]; exact hj)
    (by rw [hch, ← hc]; rfl) (by rw [hch, ← hc]; exact hf) (by rw [hch, ← hc]; rfl) hx1, hch, hnow]
  rfl

theorem exec_dmaStart_refused {r : Requester} {n : Fin 32} {s : State} (hr : s.writesReach r)
    (h : s.chIdle n = false ∨ s.b F.DMA_CQ_CFG_EN = false) : exec (.dmaStart r n) s = .next (s.setB (F.DMA_STAT_CFG_ERR n) true) := by
  refine congrArg Host.Outcome.next ((s.writeBy_served _ _ hr).trans (if_pos ?_))
  rcases h with h | h
  · simp [h]
  · simp [h]

/-! ### Descriptors that come back, and fetches that do not (R295, R304) -/

theorem State.descFetched_own {x : DmaAddr} {at_ : Time} (hx : (s.ch n).next = some x) (hf : (s.ch n).fetchAt = some at_) (hs : x.space = 1)
    (ha : x.addr + 32 ≤ 0x200000) : s.descFetched n (.own .clean) = s.takeDesc n x (s.yardSpace x.addr 32) := by
  have hclear : s.yardClears x.addr 32 = s := by
    unfold State.yardClears
    rw [List.filter_cons_of_neg (by simp; omega), List.filter_cons_of_neg (by simp; omega)]
    rfl
  unfold State.descFetched
  simp only [hx, hf, hs]
  rw [if_neg (by decide), if_neg (by omega), if_pos (by omega)]
  simp only [State.yardFound]
  rw [hclear]

theorem parseDesc_count_pos {bs : List Nat} (h : s.descOk n bs = true) : 0 < (parseDesc bs).count := by
  simp only [State.descOk, Bool.and_eq_true, bne_iff_ne] at h
  exact Nat.pos_of_ne_zero (by tauto)

/-- The channel with a fetched descriptor as its only job. -/
def DmaChan.given (c : DmaChan) (x : DmaAddr) (d : Desc) : DmaChan :=
  let h := if d.hopRst then 1 else c.hops
  { c with jobs := [{ at_ := x, hops := h, d := d }], hops := h, fetchAt := none, next := if d.last then none else some d.next }

/-- A descriptor that passes its checks becomes the job of a channel that has none. -/
theorem State.takeDesc_ok {x : DmaAddr} {bs : List Nat} (h : s.DmaAlone n) (hj : (s.ch n).jobs = []) (ha : x.addr % 32 = 0)
    (hok : s.descOk n bs = true) : (s.takeDesc n x bs).ch n = (s.ch n).given x (parseDesc bs) := by
  have hcount := parseDesc_count_pos hok
  have heq : s.takeDesc n x bs = (((s.setCh n ((s.ch n).given x (parseDesc bs))).setCur n x).setF (F.DMA_BYTES_BYTES n) 0).pump := by
    unfold State.takeDesc
    rw [if_neg (by simp [ha, hok])]
    simp only [hj, List.nil_append, List.isEmpty_nil, if_true]
    rfl
  set c := (s.ch n).given x (parseDesc bs)
  have hl : (s.setCh n c).DmaLeaves n (((s.setCh n c).setCur n x).setF (F.DMA_BYTES_BYTES n) 0) :=
    (State.setCur_dmaLeaves _ n _).trans (State.setBytes_dmaLeaves _ n 0)
  have hch := (hl.ch n).trans (State.ch_setCh_same s n c)
  rw [heq, State.pump_goesOn (hl.oneChannel ((State.oneChannel_of_alone h).setCh c)) (by rw [hch]; rfl) rfl
    ((hl.b (x := F.DMA_CTL_DISABLE n) (not_dmaShown_ctl n)).trans h.2.2.2.1) hcount (.inr hcount), hch]

/-- A fetch of a channel with nothing else in work, timed out (R304). -/
theorem exec_dmaAccessTimeout_fetch {n : Fin 32} {x : DmaAddr} {at_ : Time} {s : State} (h : s.DmaAlone n) (hon : (s.ch n).on = true)
    (hx : (s.ch n).next = some x) (hf : (s.ch n).fetchAt = some at_) (hj : (s.ch n).jobs = []) (hr : (s.ch n).records = [])
    (hl : (s.ch n).lost = []) (ht : s.timedOut at_ = true) :
    ∃ t y, exec (.dmaAccessTimeout n) s = .next t ∧ (t.ch n).on = false ∧ (t.ch n).records = [y] ∧ y.status = dmaTimeout ∧ y.at_ = x
      ∧ (t.rd R.DMA_CNT_TIMEOUT).toNat = min ((s.rd R.DMA_CNT_TIMEOUT).toNat % 2 ^ 24 + 1) 0xFFFFFF := by
  set s1 := s.bump R.DMA_CNT_TIMEOUT
  have h1 := State.oneChannel_of_alone h
  have ho : s1.OneChannel n := ⟨by rw [State.dma_bump_frame]; exact h1.burst, fun m hm => (State.ch_bump_frame _ _ _).trans (h1.others m hm)⟩
  have hch : s1.ch n = s.ch n := State.ch_bump_frame _ _ _
  obtain ⟨y, e, hst, hat⟩ := State.dmaBadDesc_ends (x := x) ho.burst (by rw [hch, hon]) (by rw [hch, hj]) (by rw [hch, hr]) (by rw [hch, hl]) dmaTimeout
  have heq : s.dmaTimedOut n = s1.dmaBadDesc n x dmaTimeout := by
    unfold State.dmaTimedOut
    simp only [hx, hf]
    rw [if_pos ht]
    exact e.pump ho
  refine ⟨_, y, congrArg Host.Outcome.next heq, e.on, by rw [e.records, hch, hr]; rfl, hst, hat, ?_⟩
  rw [e.rd _ (not_dmaShown_queue n.isLt (by decide) (by decide)) (by simp only [R.DMA_CNT_TIMEOUT, R.DMA_CTL]; omega), State.rd_bump_same,
    BitVec.toNat_ofNat, Nat.mod_eq_of_lt (by omega)]

/-! ### Bursts (R298, R299) -/

/-- After the first read of its burst: the burst of channel `n` counted once, its job `j`, now `k`, further on in its reads, and nothing
else moved. -/
structure State.Issuing (s : State) (n : Nat) (j : DmaJob) (t : State) (k : DmaJob) : Prop where
  ch : t.ch n = { s.ch n with jobs := [k] }
  others : ∀ m, m ≠ n → t.ch m = s.ch m
  desc : k.d = j.d
  written : k.written = j.written
  fault : k.fault = j.fault
  issued : j.issued < k.issued
  fresh : t.dma.fresh = false
  burst : t.dma.burst = none ∨ ∃ left, t.dma.burst = some (n, left)
  rd : ∀ a, t.rd a = (s.bump (R.DMA_CNT_BURST n)).rd a

theorem dataSize_pos (w : Nat) : 0 < dataSize w := by
  unfold dataSize
  split <;> decide

theorem State.maxAccess_pos {space : Nat} (h : space ≠ 2) (s : State) (a : Nat) (w : Bool) : 0 < s.maxAccess space a w := by
  unfold State.maxAccess
  split
  · decide
  · have : a % 256 < 256 := Nat.mod_lt _ (by decide)
    omega
  · exact absurd rfl h
  · decide

/-- A read is of its source's space, and of some bytes of the stream. -/
theorem State.nextRead_space (s : State) (d : Desc) (i left : Nat) : (s.nextRead d i left).1.space = d.src.space := by
  unfold State.nextRead
  dsimp only
  split
  · next h => exact h.symm
  · split
    · rfl
    · rfl

theorem State.nextRead_pos (s : State) {d : Desc} (i : Nat) {left : Nat} (h : d.src.space ≠ 2) (hl : 0 < left) : 0 < (s.nextRead d i left).2.2 := by
  have hm := State.maxAccess_pos h s (srcAddrAt d i) false
  have hz := dataSize_pos d.srcW
  have hmod := Nat.mod_lt i hz
  unfold State.nextRead
  dsimp only
  split
  · exact Nat.succ_pos 2
  · split
    · show 0 < (if d.srcInc then _ else _) * 3
      split
      · omega
      · decide
    · show 0 < min _ (if d.srcInc then _ else _)
      split
      · omega
      · omega

theorem issuing_one {k : DmaJob} : issuing [k] = if k.issued < k.d.count then some (0, k) else none := by
  unfold issuing
  simp only [List.zipIdx_cons, List.zipIdx_nil, List.find?_cons, List.find?_nil]
  by_cases h : k.issued < k.d.count
  · rw [if_pos h, decide_eq_true h]
    rfl
  · rw [if_neg h, decide_eq_false h]
    rfl

/-- A job with one more read issued. -/
def DmaJob.reading (j : DmaJob) (x : DmaAddr × Nat × Nat) (t : Time) : DmaJob :=
  { j with issued := j.issued + x.2.2, reads := j.reads ++ [{ src := x.1, size := x.2.1, width := x.2.2, at_ := t }] }

/-- One read more of a burst has been issued: the channel as it now is, and what is left of the burst. -/
def State.readOut (s : State) (n : Nat) (c : DmaChan) (b : Option (Nat × Nat)) : State :=
  { s.setCh n c with dma := { s.dma with burst := b } }

/-- What is left of a burst after a read of `k` of its bytes. -/
def burstLeft (n left k : Nat) : Option (Nat × Nat) := if left ≤ k then none else some (n, left - k)

theorem burstLeft_cases (n left k : Nat) : burstLeft n left k = none ∨ ∃ l, burstLeft n left k = some (n, l) := by
  unfold burstLeft
  split
  · exact .inl rfl
  · exact .inr ⟨_, rfl⟩

/-- The next read of a burst of the only job, whose source is not host memory. -/
theorem State.issueOne_eq {left : Nat} {k : DmaJob} (hb : t.dma.burst = some (n, left)) (hj : (t.ch n).jobs = [k]) (hs : k.d.src.space ≠ 2) :
    t.issueOne = if k.d.count ≤ k.issued then t.cutBurst n
      else if t.dma.fresh && !t.requested n k then t.cutBurst n
      else if 128 ≤ t.dmaFlying || 16384 < t.dmaBuffered + (t.nextRead k.d k.issued left).2.1 || !t.dmaRuns then t
      else (if t.dma.fresh then t.takeBurst n else t).readOut n
        { t.ch n with jobs := [k.reading (t.nextRead k.d k.issued left) t.dmaNow] } (burstLeft n left (t.nextRead k.d k.issued left).2.2) := by
  have hout : ∀ u : State, u.outTo (t.nextRead k.d k.issued left).1.space = u := fun u => by
    unfold State.outTo
    rw [State.nextRead_space, if_neg hs]
  have hsp : ¬(decide ((t.nextRead k.d k.issued left).1.space = 2) && !t.hostUp) = true := by
    rw [State.nextRead_space]
    simp [hs]
  unfold State.issueOne
  simp only [hb, hj, issuing_one]
  by_cases hk : k.issued < k.d.count
  · rw [if_neg (Nat.not_le.mpr hk)]
    simp only [if_pos hk, if_neg hsp, hout]
    refine if_congr Iff.rfl rfl (if_congr Iff.rfl rfl ?_)
    generalize (if t.dma.fresh then t.takeBurst n else t) = s0
    generalize t.nextRead k.d k.issued left = x
    unfold State.readOut burstLeft
    rfl
  · rw [if_pos (Nat.not_lt.mp hk), if_neg hk]

/-- A job further on in its reads. -/
theorem State.Issuing.readOut {j k : DmaJob} (h : s.Issuing n j t k) (x : DmaAddr × Nat × Nat) (at_ : Time) (left : Nat) :
    s.Issuing n j (t.readOut n { t.ch n with jobs := [k.reading x at_] } (burstLeft n left x.2.2)) (k.reading x at_) where
  ch := (State.ch_setCh_same t n _).trans (by rw [h.ch])
  others m hm := (State.ch_setCh t n _ m).trans (by rw [if_neg hm, h.others m hm])
  desc := h.desc
  written := h.written
  fault := h.fault
  issued := Nat.lt_of_lt_of_le h.issued (Nat.le_add_right _ _)
  fresh := h.fresh
  burst := burstLeft_cases n left x.2.2
  rd := h.rd

/-- A burst that is no longer issued. -/
theorem State.Issuing.cut {j k : DmaJob} (h : s.Issuing n j t k) {left : Nat} (hb : t.dma.burst = some (n, left)) :
    s.Issuing n j (t.cutBurst n) k := by
  have heq : t.cutBurst n = { t with dma := { t.dma with burst := none, fresh := false } } := by
    unfold State.cutBurst
    rw [hb]
    exact if_pos rfl
  rw [heq]
  exact ⟨h.ch, h.others, h.desc, h.written, h.fault, h.issued, rfl, .inl rfl, h.rd⟩

/-- A further read of a burst: its job goes on, or waits. -/
theorem State.Issuing.issueOne {j k : DmaJob} (h : s.Issuing n j t k) (hs : j.d.src.space ≠ 2) : ∃ k', s.Issuing n j t.issueOne k' := by
  obtain hb | ⟨left, hb⟩ := h.burst
  · refine ⟨k, ?_⟩
    rw [show t.issueOne = t by unfold State.issueOne; rw [hb]]
    exact h
  · rw [State.issueOne_eq hb (by rw [h.ch]) (by rw [h.desc]; exact hs), h.fresh]
    simp only [Bool.false_and, Bool.false_eq_true, if_false]
    split
    · exact ⟨k, h.cut hb⟩
    · split
      · exact ⟨k, h⟩
      · exact ⟨_, h.readOut _ _ _⟩

theorem State.Issuing.issueReads {j : DmaJob} (hs : j.d.src.space ≠ 2) (m : Nat) {t : State} {k : DmaJob} (h : s.Issuing n j t k) :
    ∃ k', s.Issuing n j (State.issueReads m t) k' := by
  induction m generalizing t k with
  | zero => exact ⟨k, h⟩
  | succ m ih =>
    obtain ⟨k', h'⟩ := h.issueOne hs
    exact ih h'

/-- A counter counted in states of equal words. -/
theorem State.rd_bump_congr {s u : State} (h : ∀ a, u.rd a = s.rd a) (c a : Nat) : (u.bump c).rd a = (s.bump c).rd a := by
  by_cases ha : a = c
  · rw [ha, State.rd_bump_same, State.rd_bump_same, h]
  · rw [State.rd_bump_other u ha, State.rd_bump_other s ha, h]

/-- A channel's burst granted, none of its reads issued yet. -/
def State.granting (s : State) (n : Nat) (j : DmaJob) : State :=
  { s with dma := { s.dma with burst := some (n, s.burstBytes n j), fresh := true, last := Sparse.put (s.f (F.DMA_CFG_PRIO n)) n s.dma.last } }

theorem State.burstBytes_pos {j : DmaJob} (hi : j.issued < j.d.count) (s : State) (n : Nat) : 0 < s.burstBytes n j := by
  have hz := dataSize_pos j.d.srcW
  unfold State.burstBytes
  dsimp only
  omega

/-- A channel that no line and no trough paces may always issue. -/
theorem State.requested_unpaced (h : 96 ≤ s.f (F.DMA_CFG_REQ_SEL n)) (j : DmaJob) : s.requested n j = true := by
  have hp : s.paceTrough n = none := if_neg (by simp; omega)
  unfold State.requested
  simp only [hp]
  rw [if_neg (by omega)]

/-- The first read of a burst of the only job in work goes out, and the burst is counted. -/
theorem State.issueOne_first {j : DmaJob} (h : s.DmaAlone n) (ho : s.DmaOnly n j) (hreq : 96 ≤ s.f (F.DMA_CFG_REQ_SEL n))
    (hi : j.issued < j.d.count) (hs : j.d.src.space ≠ 2) (hroom : s.dmaBuffered + (s.nextRead j.d j.issued (s.burstBytes n j)).2.1 ≤ 16384) :
    ∃ k, s.Issuing n j (s.granting n j).issueOne k := by
  obtain ⟨hruns, -, -, -, hfly, -⟩ := h
  obtain ⟨-, hj, -⟩ := ho
  have heq := State.issueOne_eq (t := s.granting n j) (n := n) rfl hj hs
  have hread : (s.granting n j).nextRead j.d j.issued (s.burstBytes n j) = s.nextRead j.d j.issued (s.burstBytes n j) := rfl
  have hnow : (s.granting n j).dmaNow = s.dmaNow := rfl
  rw [if_neg (Nat.not_le.mpr hi), if_neg (by rw [show (s.granting n j).requested n j = s.requested n j from rfl, State.requested_unpaced hreq]; simp),
    if_neg (by
      rw [hread, show (s.granting n j).dmaFlying = s.dmaFlying from rfl, show (s.granting n j).dmaBuffered = s.dmaBuffered from rfl,
        show (s.granting n j).dmaRuns = s.dmaRuns from rfl, hruns]
      simp
      omega), if_pos (show (s.granting n j).dma.fresh = true from rfl), hread, hnow] at heq
  have hpos := s.nextRead_pos (d := j.d) j.issued hs (s.burstBytes_pos hi n)
  generalize s.nextRead j.d j.issued (s.burstBytes n j) = x at heq hpos
  have htake : (s.granting n j).takeBurst n = { (s.granting n j).bump (R.DMA_CNT_BURST n) with dma := { (s.granting n j).dma with fresh := false } } := by
    unfold State.takeBurst
    dsimp only
    rw [if_neg (by show ¬s.f (F.DMA_CFG_REQ_SEL n) < 32; omega)]
  have hrd : ∀ a, ((s.granting n j).bump (R.DMA_CNT_BURST n)).rd a = (s.bump (R.DMA_CNT_BURST n)).rd a :=
    State.rd_bump_congr (s := s) (u := s.granting n j) (fun _ => rfl) (R.DMA_CNT_BURST n)
  have hch : ∀ m, ((s.granting n j).bump (R.DMA_CNT_BURST n)).ch m = s.ch m := State.ch_bump_frame (s.granting n j) _
  refine ⟨j.reading x s.dmaNow, ?_⟩
  rw [heq, htake]
  generalize (s.granting n j).bump (R.DMA_CNT_BURST n) = u at hrd hch ⊢
  exact {
    ch := State.ch_setCh_same _ n _
    others := fun m hm => (State.ch_setCh _ n _ m).trans ((if_neg hm).trans (hch m))
    desc := rfl, written := rfl, fault := rfl
    issued := Nat.lt_add_of_pos_right hpos
    fresh := rfl
    burst := burstLeft_cases n _ x.2.2
    rd := hrd }

theorem State.burstJob_only {j : DmaJob} (h : s.DmaAlone n) (ho : s.DmaOnly n j) (hreq : 96 ≤ s.f (F.DMA_CFG_REQ_SEL n))
    (hi : j.issued < j.d.count) : s.burstJob n = some j := by
  obtain ⟨hon, hj, -, -, hr, hf⟩ := ho
  unfold State.burstJob
  simp only [hj, issuing_one, if_pos hi, State.requested_unpaced hreq, if_true]
  exact if_neg (by simp [hon, hr, h.2.2.2.1, hf])

/-- One channel of the 32 answers. -/
theorem filterMap_range_one {α : Type} {f : Nat → Option α} {b : α} {n N : Nat} (hn : n < N) (hf : f n = some b)
    (ho : ∀ m, m ≠ n → f m = none) : (List.range N).filterMap f = [b] := by
  induction N with
  | zero => exact absurd hn (Nat.not_lt_zero n)
  | succ N ih =>
    rw [List.range_succ, List.filterMap_append]
    by_cases h : n = N
    · have hnone : (List.range N).filterMap f = [] := List.filterMap_eq_nil_iff.mpr fun m hm => ho m (by have := List.mem_range.mp hm; omega)
      rw [hnone, ← h, List.filterMap_cons_some hf]
      rfl
    · rw [ih (by omega), List.filterMap_cons_none (ho N (fun hN => h hN.symm))]
      rfl

theorem State.granted_only {j : DmaJob} {n : Fin 32} (h : s.DmaAlone n) (hj : s.burstJob n = some j) : s.granted = some (n.val, j) := by
  have hcan : (List.range 32).filterMap (fun m => (s.burstJob m).map (fun j => (m, j))) = [(n.val, j)] := by
    refine filterMap_range_one n.isLt (by rw [hj]; rfl) (fun m hm => ?_)
    have hc : s.ch m = {} := h.2.2.2.2.2 m hm
    have hnone : s.burstJob m = none := if_pos (by simp [hc])
    rw [hnone]
    rfl
  unfold State.granted
  simp only [hcan, List.map_cons, List.map_nil, List.foldl_cons, List.foldl_nil, Nat.zero_max, List.filter_cons, List.filter_nil, beq_self_eq_true,
    if_true, List.find?_cons, List.find?_nil, List.head?_cons]
  split
  · next e he =>
    split at he
    · exact he.symm
    · exact absurd he (by simp)
  · rfl

theorem exec_burstGrant_issues {n : Fin 32} {j : DmaJob} {s : State} (h : s.DmaAlone n) (ho : s.DmaOnly n j)
    (hreq : 96 ≤ s.f (F.DMA_CFG_REQ_SEL n)) (hi : j.issued < j.d.count) (hw : j.written < j.d.count) (hs : j.d.src.space ≠ 2)
    (hroom : s.dmaBuffered + (s.nextRead j.d j.issued (s.burstBytes n j)).2.1 ≤ 16384) :
    ∃ t k, exec .burstGrant s = .next t ∧ s.Issuing n j t k := by
  obtain ⟨k1, h1⟩ := State.issueOne_first h ho hreq hi hs hroom
  obtain ⟨k, hk⟩ := h1.issueReads hs 127
  have hgrant : s.grantBurst = (s.granting n j).pump := by
    unfold State.grantBurst
    rw [if_neg (by simp [h.1, h.2.1]; exact h.2.2.2.2.1), State.granted_only h (State.burstJob_only h ho hreq hi)]
    rfl
  have hpump : (s.granting n j).pump = State.issueReads 127 (s.granting n j).issueOne := by
    unfold State.pump
    rw [State.issueReads]
    generalize State.issueReads 127 (s.granting n j).issueOne = t at hk ⊢
    obtain ⟨hon, -, hx, -, -, hf⟩ := ho
    have hdis : t.b (F.DMA_CTL_DISABLE n) = false :=
      (State.b_of_rd ((hk.rd _).trans (State.rd_bump_other s (by simp only [F.DMA_CTL_DISABLE, R.DMA_CTL, R.DMA_CNT_BURST]; omega)))).trans
        h.2.2.2.1
    have hjobs : (t.ch n).jobs = [k] := by rw [hk.ch]
    refine State.heads_stand (n := n) (fun m hm => (hk.others m hm).trans (h.2.2.2.2.2 m hm)) ?_ _
    rw [State.dmaHead_goesOn hjobs (hk.fault.trans hf) hdis (by rw [hk.written, hk.desc]; exact hw), State.dmaFetch_none (by rw [hk.ch]; exact hx)]
  exact ⟨_, k, congrArg Host.Outcome.next (hgrant.trans hpump), hk⟩

/-! ### Reads that come back (R299) -/

/-- A host read's bytes reach the buffer. -/
theorem exec_dmaReadReturn_host {n : Fin 32} {j : DmaJob} {x : DmaRead} {data : List Byte} {s : State} (h : s.DmaAlone n) (ho : s.DmaOnly n j)
    (hw : j.written < j.d.count) (hr : j.reads = [x]) (hx : x.data = none) (hs : x.src.space = 2) (hl : data.length = x.size) :
    ∃ t, exec (.dmaReadReturn n 0 (.host data)) s = .next t ∧ (t.ch n).jobs = [{ j with reads :=
      [{ x with data := some (dataBytes j.d.srcW (data.map (·.toNat))), order := s.dma.order + 1 }] }] := by
  obtain ⟨-, hj, hnext, -, -, hf⟩ := ho
  have hfly : (s.ch n).inFlight = [(0, 0)] := by simp [DmaChan.inFlight, hj, hr, hx]
  have hread : (s.ch n).readAt (0, 0) = some x := by simp [DmaChan.readAt, hj, hr]
  have heq : s.readReturn n 0 (.host data) = s.readData n (0, 0) (dataBytes j.d.srcW (data.map (·.toNat))) := by
    unfold State.readReturn
    simp only [hfly, List.getElem?_cons_zero, hread, hj, hs, if_true, if_pos hl]
  generalize dataBytes j.d.srcW (data.map (·.toNat)) = bs at heq ⊢
  set j' : DmaJob := { j with reads := [{ x with data := some bs, order := s.dma.order + 1 }] }
  set u : State := { s.setCh n { s.ch n with jobs := [j'] } with dma := { s.dma with order := s.dma.order + 1 } }
  have hdata : s.readData n (0, 0) bs = u.pump := by
    unfold State.readData
    simp only [hj, List.modify_zero_cons, hr]
    rfl
  have hch : u.ch n = { s.ch n with jobs := [j'] } := State.ch_setCh_same s n _
  have hone : u.OneChannel n := ⟨h.2.1, ((State.oneChannel_of_alone h).setCh { s.ch n with jobs := [j'] }).others⟩
  have hpump : u.pump = u := State.pump_goesOn (j := j') hone (by rw [hch]) hf h.2.2.2.1 hw (.inl (by rw [hch]; exact hnext))
  exact ⟨u, congrArg Host.Outcome.next (heq.trans (hdata.trans hpump)), by rw [hch]⟩

/-! ### Elements written to host memory (R299 to R301, R304) -/

/-- Of the element that is to be written only the start of its wait has been noted. -/
structure State.Marked (s : State) (n : Nat) (j : DmaJob) (t : State) (w : Option Time) : Prop where
  ch : t.ch n = { s.ch n with jobs := [{ j with waitAt := w }] }
  others : ∀ m, m ≠ n → t.ch m = s.ch m
  dma : t.dma = s.dma
  hostOut : t.hostOut = s.hostOut
  rd : ∀ a, t.rd a = s.rd a

/-- Two folds that keep a predicate keep it. -/
theorem overList_keeps {α : Type} {P : State → Prop} {f : State → α → State} (hf : ∀ x a, P x → P (f x a)) (l : List α) {s : State} (hs : P s) :
    P (overList l f s) := by
  induction l generalizing s with
  | nil => exact hs
  | cons a l ih => exact ih (hf s a hs)

theorem State.markWaits_marked {j : DmaJob} (ho : ∀ m, m ≠ n → s.ch m = {}) (hj : (s.ch n).jobs = [j]) : ∃ w, s.Marked n j s.markWaits w := by
  have hstart : s.Marked n j s j.waitAt := ⟨by rw [← hj], fun _ _ => rfl, rfl, rfl, fun _ => rfl⟩
  refine overList_keeps (P := fun t => ∃ w, s.Marked n j t w) (fun t m ht => ?_) _ ⟨j.waitAt, hstart⟩
  obtain ⟨w, hch, hoth, hdma, hout, hrd⟩ := ht
  by_cases hm : m = n
  · subst hm
    have hwr : ∀ p, t.writable m = some p → p.1 = { j with waitAt := w } := fun p hp => by
      unfold State.writable at hp
      simp only [hch] at hp
      split at hp
      · rw [← Option.some.inj hp]
      · exact absurd hp (by simp)
    cases hp : t.writable m with
    | none => exact ⟨w, hch, hoth, hdma, hout, hrd⟩
    | some p =>
      obtain ⟨k, o⟩ := p
      obtain rfl : k = { j with waitAt := w } := hwr _ hp
      dsimp only
      split
      · refine ⟨some t.dmaNow, ?_, fun k hk => ?_, hdma, hout, hrd⟩
        · rw [State.ch_setCh_same, hch]
          rfl
        · rw [State.ch_setCh, if_neg hk, hoth k hk]
      · exact ⟨w, hch, hoth, hdma, hout, hrd⟩
  · have hnone : t.writable m = none := by
      unfold State.writable
      rw [hoth m hm, ho m hm]
    rw [hnone]
    exact ⟨w, hch, hoth, hdma, hout, hrd⟩

/-- The writes of an element to host memory: one, or two across a 4 KiB boundary. -/
def hostWrites (a : Nat) (w : List Nat) : List (Nat × List Nat) :=
  if w.length ≤ 4096 - a % 4096 then [(a, w)] else [(a + (4096 - a % 4096), w.drop (4096 - a % 4096)), (a, w.take (4096 - a % 4096))]

/-- The address of a job's next element in host memory. -/
def DmaJob.writeAddr (j : DmaJob) : Nat :=
  if j.d.dstInc then j.d.dst.addr + j.written / dataSize j.d.dstW * storSize j.d.dstW else j.d.dst.addr

/-- The bytes of an element as they are stored. -/
def DmaJob.stored (j : DmaJob) (el : List (Nat × Bool)) : List Nat := if j.d.dstW = 4 then el.map (·.1) ++ [0] else el.map (·.1)

/-- The only channel with an element for host memory writes it. -/
theorem State.dmaWrite_host {j : DmaJob} {n : Fin 32} (still : Bool) (hruns : s.dmaRuns = true) {t : State} (ht : t = s.markWaits)
    (hj : (t.ch n).jobs = [j]) (hon : (t.ch n).on = true) (hr : (t.ch n).records = []) (hf : j.fault = none) (ho : ∀ m, m ≠ n.val → t.ch m = {})
    (hup : t.hostUp = true) (hs : j.d.dst.space = 2) (hb : dataSize j.d.dstW ≤ (readyBytes j.reads).length) :
    let el := (readyBytes j.reads).take (dataSize j.d.dstW)
    s.dmaWrite false still = State.wrote { t.leaveL1 with hostOut := hostWrites j.writeAddr (j.stored el) ++ t.hostOut } n el := by
  extract_lets el
  have hwr : t.writable n = some (j, ((j.reads.head?.map (·.order)).getD 0)) := by
    unfold State.writable
    simp only [hj]
    exact if_pos (by simp [hon, hr, hf, hb])
  have hcan : (List.range 32).filterMap (fun m => (t.writable m).map (fun x => (m, x))) = [(n.val, j, ((j.reads.head?.map (·.order)).getD 0))] := by
    refine filterMap_range_one n.isLt (by rw [hwr]; rfl) (fun m hm => ?_)
    have hnone : t.writable m = none := by
      unfold State.writable
      rw [ho m hm]
    rw [hnone]
    rfl
  have hwriter : t.writer = some (n.val, j) := by
    have hwait : t.mustWait j = false := by simp [State.mustWait, hs]
    unfold State.writer
    simp only [hcan, List.filter_cons, List.filter_nil, hwait, Bool.not_false, if_true, List.foldl_nil]
  have haddr : (if j.d.dst.space = 3 || !j.d.dstInc then j.d.dst.addr
      else j.d.dst.addr + j.written / dataSize j.d.dstW * storSize j.d.dstW) = j.writeAddr := by
    unfold DmaJob.writeAddr
    simp only [hs]
    cases j.d.dstInc with
    | true => rfl
    | false => rfl
  have hput : t.putElement j j.writeAddr el still = ({ t.leaveL1 with hostOut := hostWrites j.writeAddr (j.stored el) ++ t.hostOut }, none) := by
    unfold State.putElement
    simp only [hs]
    exact if_pos hup
  unfold State.dmaWrite
  rw [if_neg (by simp [hruns]), ← ht]
  simp only [hwriter, Bool.false_eq_true, if_false, haddr]
  rw [hput]

/-- The job with its element written. -/
def DmaJob.wrote (j : DmaJob) (c : DmaChan) (el : List (Nat × Bool)) : DmaJob :=
  { j with written := j.written + el.length, reads := takeBytes el.length j.reads
           crc := if j.d.crcEn then some (crcRun (crcPoly j.d.crcSel) (j.crc.getD (c.crcStart j.d)) (el.map (·.1))) else none
           poison := j.poison || el.any (·.2), waitAt := none, cut := false }

/-- An element written is counted at its job, and the head of the channel's work looked at again. -/
theorem State.wrote_shows {j : DmaJob} (el : List (Nat × Bool)) (hj : (s.ch n).jobs = [j]) :
    ∃ u, (s.setCh n { s.ch n with jobs := [j.wrote (s.ch n) el] }).DmaLeaves n u ∧ s.wrote n el = (u.dmaHead n).pump := by
  unfold State.wrote
  simp only [hj]
  refine ⟨_, ?_, rfl⟩
  refine State.DmaLeaves.trans (t := _) ?_ (State.setBytes_dmaLeaves _ n _)
  split
  · exact State.setB_dmaLeaves _ n true (dmaShown_at (k := 0x34) (by decide) (by decide))
  · exact .refl n _

theorem exec_dmaWrite_host {n : Fin 32} {j : DmaJob} (still : Bool) {s : State} (h : s.DmaAlone n) (ho : s.DmaOnly n j) (hup : s.hostUp = true)
    (hs : j.d.dst.space = 2) (hb : dataSize j.d.dstW ≤ (readyBytes j.reads).length) :
    ∃ t, exec (.dmaWrite false still) s = .next t
      ∧ t.hostOut = hostWrites j.writeAddr (j.stored ((readyBytes j.reads).take (dataSize j.d.dstW))) ++ s.hostOut
      ∧ (j.written + dataSize j.d.dstW < j.d.count → ∃ k, (t.ch n).jobs = [k] ∧ k.written = j.written + dataSize j.d.dstW ∧ k.d = j.d)
      ∧ (j.written + dataSize j.d.dstW = j.d.count → j.d.last = true → ∃ y, (t.ch n).on = false ∧ (t.ch n).records = [y]
        ∧ y.status = dmaOk ∧ y.bytes = j.d.count ∧ y.valid = true ∧ y.at_ = j.at_) := by
  obtain ⟨hon, hj, hx, -, hr, hf⟩ := ho
  obtain ⟨w, m⟩ := State.markWaits_marked h.2.2.2.2.2 hj
  obtain ⟨hch, hoth, hdma, hout, hrd⟩ := m
  have hupt : s.markWaits.hostUp = true := by
    unfold State.hostUp
    rw [State.b_of_rd (hrd _), State.b_of_rd (hrd _), State.f_of_rd (hrd _)]
    exact hup
  have hwrite := State.dmaWrite_host (j := { j with waitAt := w }) (n := n) still h.1 rfl (by rw [hch]) (by rw [hch]; exact hon) (by rw [hch]; exact hr) hf
    (fun k hk => (hoth k hk).trans (h.2.2.2.2.2 k hk)) hupt hs hb
  set el := (readyBytes j.reads).take (dataSize j.d.dstW) with hel
  have hlen : el.length = dataSize j.d.dstW := by rw [hel, List.length_take]; omega
  set v : State := { s.markWaits.leaveL1 with
    hostOut := hostWrites j.writeAddr (j.stored el) ++ s.markWaits.hostOut } with hv
  have hvch : v.ch n = { s.ch n with jobs := [{ j with waitAt := w }] } := hch
  have hvrd : ∀ a, a ≠ R.SYS_HOST_STAT → v.rd a = s.rd a := fun a ha => (State.rd_setF_other _ 0 ha).trans (hrd a)
  obtain ⟨u, hl, hu⟩ := State.wrote_shows (s := v) (n := n) el (by rw [hvch])
  set k : DmaJob := DmaJob.wrote { j with waitAt := w } (v.ch n) el with hk
  have huch : u.ch n = { s.ch n with jobs := [k] } := ((hl.ch n).trans (State.ch_setCh_same v n _)).trans (by rw [hvch])
  have hone : u.OneChannel n :=
    hl.oneChannel ⟨by show v.dma.burst = none; rw [show v.dma = s.dma from hdma]; exact h.2.1,
      fun p hp => by rw [State.ch_setCh, if_neg hp]; exact (hoth p hp).trans (h.2.2.2.2.2 p hp)⟩
  have hctl : u.rd (R.DMA_CTL n) = s.rd (R.DMA_CTL n) :=
    (hl.rd _ (not_dmaShown_ctl n)).trans (hvrd _ (by simp only [R.DMA_CTL, R.SYS_HOST_STAT]; omega))
  have hstop : u.b (F.DMA_CTL_STOP n) = false := (State.b_of_rd hctl).trans h.2.2.1
  have hdis : u.b (F.DMA_CTL_DISABLE n) = false := (State.b_of_rd hctl).trans h.2.2.2.1
  have huout : u.hostOut = hostWrites j.writeAddr (j.stored el) ++ s.hostOut := hl.hostOut.trans (by rw [← hout]; rfl)
  have hkw : k.written = j.written + dataSize j.d.dstW := by rw [← hlen]; rfl
  have hexec := congrArg (Host.Outcome.next (φ := Fault) (ρ := Refusal)) (hwrite.trans hu)
  by_cases hlt : j.written + dataSize j.d.dstW < j.d.count
  · have hkc : k.written < k.d.count := by rw [hkw]; exact hlt
    rw [State.dmaHead_goesOn (j := k) (rest := []) (by rw [huch]) hf hdis hkc,
      State.pump_goesOn hone (j := k) (by rw [huch]) hf hdis hkc (.inl (by rw [huch]; exact hx))] at hexec
    exact ⟨u, hexec, huout, fun _ => ⟨k, by rw [huch], hkw, rfl⟩, fun he => absurd he hlt.ne⟩
  · have hkc : k.d.count ≤ k.written := by rw [hkw]; exact Nat.not_lt.mp hlt
    cases hlast : j.d.last with
    | true =>
      obtain ⟨y, e, hst, hby, hva, hat⟩ := State.dmaHead_last (j := k) (by rw [huch]; exact hon) (by rw [huch]; exact hr) (by rw [huch]) hf hstop hdis hkc hlast
      rw [e.pump hone] at hexec
      refine ⟨_, hexec, e.hostOut.trans huout, fun he => absurd he hlt, fun he _ => ⟨y, e.on, ?_, hst, ?_, hva, hat⟩⟩
      · rw [e.records, huch]
        exact congrArg (· ++ [y]) hr
      · rw [hby, hkw, he]
    | false =>
      obtain ⟨c, l, hcj, hcx⟩ := State.dmaHead_done (j := k) (by rw [huch]; exact hon) (by rw [huch]; exact hr) (by rw [huch]) hf hstop hdis hkc hlast
      have hc : (u.dmaHead n).ch n = c := (l.ch n).trans (State.ch_setCh_same u n c)
      have hnext : ((u.dmaHead n).ch n).next = none := by rw [hc, hcx, huch]; exact hx
      rw [State.pump_eq (l.oneChannel (hone.setCh c)) (by
        rw [State.dmaHead_nothing (by rw [hc, hcj]) hnext, State.dmaFetch_none hnext])] at hexec
      exact ⟨_, hexec, l.hostOut.trans huout, fun he => absurd he hlt, fun _ he => absurd he (by decide)⟩

/-! ### Stop and disable (R301, R302) -/

theorem exec_dmaStop_served {r : Requester} {n : Fin 32} {s : State} (hr : s.writesReach r) (hon : (s.ch n).on = true) :
    exec (.dmaStop r n) s = .next (((s.setB (F.DMA_CTL_STOP n) true).trim n).dmaHead n) :=
  congrArg Host.Outcome.next ((s.writeBy_served _ _ hr).trans (if_neg (by simp [hon])))

/-- A stop notes itself, and drops what is not started. -/
theorem State.trim_stop (s : State) (n : Nat) :
    ((s.setB (F.DMA_CTL_STOP n) true).trim n).ch n
        = { s.ch n with jobs := trimJobs (s.ch n).jobs, lost := (s.ch n).lost ++ (s.ch n).fetchAt.toList, fetchAt := none }
      ∧ ((s.setB (F.DMA_CTL_STOP n) true).trim n).b (F.DMA_CTL_STOP n) = true
      ∧ ((s.setB (F.DMA_CTL_STOP n) true).trim n).b (F.DMA_CTL_DISABLE n) = s.b (F.DMA_CTL_DISABLE n) := by
  unfold State.trim
  extract_lets c
  have hc : c = s.ch n := State.ch_setB_frame s _ true n
  refine ⟨by rw [State.ch_setCh_same, hc], ?_, ?_⟩
  · rw [State.b_setCh_frame]
    exact s.b_setB_same (x := F.DMA_CTL_STOP n) true (show 1 + 1 ≤ 32 by decide) rfl
  · rw [State.b_setCh_frame]
    exact s.b_setB_other (x := F.DMA_CTL_STOP n) (y := F.DMA_CTL_DISABLE n) true (.inr (.inl (Nat.le_refl 2)))

theorem exec_dmaStop_inProgress {r : Requester} {n : Fin 32} {j : DmaJob} {s : State} (hr : s.writesReach r) (h : s.DmaAlone n)
    (hon : (s.ch n).on = true) (hrec : (s.ch n).records = []) (hj : (s.ch n).jobs = [j]) (hf : j.fault = none) (hw : j.written < j.d.count) :
    ∃ t, exec (.dmaStop r n) s = .next t ∧ (t.ch n).on = true ∧ (t.ch n).jobs = [j] ∧ t.dmaState n = 4 := by
  obtain ⟨hch, hstop, hdis⟩ := s.trim_stop n
  have hexec := exec_dmaStop_served hr hon
  generalize (s.setB (F.DMA_CTL_STOP n) true).trim n = t at hch hstop hdis hexec
  have hjobs : (t.ch n).jobs = [j] := by rw [hch, hj]; rfl
  have hton : (t.ch n).on = true := by rw [hch]; exact hon
  rw [State.dmaHead_goesOn hjobs hf (hdis.trans h.2.2.2.1) hw] at hexec
  refine ⟨t, hexec, hton, hjobs, ?_⟩
  unfold State.dmaState State.chIdle
  simp [hch, hon, hrec, hstop]

theorem exec_dmaStop_between {r : Requester} {n : Fin 32} {x : DmaAddr} {s : State} (hr : s.writesReach r) (h : s.DmaAlone n)
    (hon : (s.ch n).on = true) (hrec : (s.ch n).records = []) (hj : (s.ch n).jobs = []) (hx : (s.ch n).next = some x) :
    ∃ t y, exec (.dmaStop r n) s = .next t ∧ (t.ch n).on = false ∧ (t.ch n).records = [y] ∧ y.status = dmaStopped
      ∧ y.bytes = 0 ∧ y.valid = true ∧ y.at_ = x := by
  obtain ⟨hch, hstop, hdis⟩ := s.trim_stop n
  have hexec := exec_dmaStop_served hr hon
  generalize (s.setB (F.DMA_CTL_STOP n) true).trim n = t at hch hstop hdis hexec
  obtain ⟨y, e, hst, hb, hv, hat⟩ := State.dmaHead_stopped (s := t) (n := n) (x := x) (by rw [hch]; exact hon) (by rw [hch]; exact hrec)
    (by rw [hch, hj]; rfl) (by rw [hch]; exact hx) hstop (hdis.trans h.2.2.2.1)
  refine ⟨_, y, hexec, e.on, ?_, hst, hb, hv, hat⟩
  rw [e.records, hch]
  exact congrArg (· ++ [y]) hrec

/-- A bulk channel is cut at once. -/
theorem exec_dmaDisable_bulk {r : Requester} {n : Fin 32} {s : State} (hr : s.writesReach r) (hon : (s.ch n).on = true) (hb : s.bulk n = true) :
    ∃ t y, exec (.dmaDisable r n) s = .next t ∧ (t.ch n).on = false ∧ (t.ch n).jobs = [] ∧ (t.ch n).next = none
      ∧ (t.ch n).records = (s.ch n).records ++ [y] ∧ y.status = dmaDisabled ∧ y.valid = false ∧ ∀ m, m ≠ n.val → t.ch m = s.ch m := by
  have hch : ∀ m, (s.setB (F.DMA_CTL_STOP n) false).ch m = s.ch m := State.ch_setB_frame s _ false
  have hexec : exec (.dmaDisable r n) s = .next (s.dmaDisable n) := congrArg Host.Outcome.next (s.writeBy_served _ _ hr)
  have hend : ∃ y, (s.setB (F.DMA_CTL_STOP n) false).ChainEnds n (s.dmaDisable n) y ∧ y.status = dmaDisabled ∧ y.valid = false := by
    unfold State.dmaDisable
    dsimp only
    rw [if_neg (by simp [hon]), if_pos hb]
    split
    · exact ⟨_, State.jobRec_ends _ n _ dmaDisabled false true, rfl, rfl⟩
    · exact ⟨_, State.recOf_ends _ n _ dmaDisabled false true, rfl, rfl⟩
  obtain ⟨y, e, hst, hv⟩ := hend
  exact ⟨_, y, hexec, e.on, e.jobs, e.next, by rw [e.records, hch], hst, hv, fun m hm => (e.others m hm).trans (hch m)⟩

/-! ### Records (R307 to R309), drains (R302) and the queue (R308) -/

/-- A channel with no chain, read or record left is IDLE. -/
theorem State.chIdle_dmaRest (hon : (s.ch n).on = false) (hl : (s.ch n).lost = []) (hr : (s.ch n).records = []) :
    (s.dmaRest n).ch = s.ch ∧ (s.dmaRest n).chIdle n = true := by
  have hch : (s.dmaRest n).ch = s.ch := by
    unfold State.dmaRest
    dsimp only
    split
    · exact funext fun m => (State.ch_setB_frame _ _ _ m).trans (State.ch_setB_frame _ _ _ m)
    · rfl
  refine ⟨hch, ?_⟩
  rw [State.chIdle_iff, hch]
  exact ⟨hon, hl, hr⟩

theorem exec_dmaDrainDone_idle {n : Fin 32} {x : Time} {s : State} (hon : (s.ch n).on = false) (hl : (s.ch n).lost = [x])
    (hr : (s.ch n).records = []) : ∃ t, exec (.dmaDrainDone n) s = .next t ∧ t.chIdle n = true ∧ t.dmaState n = 0 := by
  have hexec : exec (.dmaDrainDone n) s = .next ((s.setCh n { s.ch n with lost := [] }).dmaRest n) :=
    congrArg Host.Outcome.next (if_pos (by simp [hon, hl]))
  have hch := State.ch_setCh_same s n { s.ch n with lost := [] }
  obtain ⟨-, hidle⟩ := State.chIdle_dmaRest (n := n) (by rw [hch]; exact hon) (by rw [hch]) (by rw [hch]; exact hr)
  exact ⟨_, hexec, hidle, if_pos hidle⟩

theorem exec_dmaCqTailWrite_sets {r : Requester} {s : State} (v : Word) (hr : s.writesReach r) :
    ∃ t, exec (.dmaCqTailWrite r v) s = .next t ∧ t.f F.DMA_CQ_TAIL_TAIL = getBits v 0 14 ∧ ∀ a, a ≠ R.DMA_CQ_TAIL → t.rd a = s.rd a :=
  ⟨_, congrArg Host.Outcome.next (s.writeBy_served _ _ hr),
    (s.f_setF_same (x := F.DMA_CQ_TAIL_TAIL) _ (by decide)).trans (Nat.mod_eq_of_lt (getBits_lt _ _ _)), fun _ ha => State.rd_setF_other s _ ha⟩

/-- Setting EN starts the queue afresh. -/
theorem exec_dmaCqCfgEn_starts {r : Requester} {s : State} {v : Word} (hr : s.writesReach r) (hen : s.b F.DMA_CQ_CFG_EN = false)
    (hv : v.getLsbD 4 = true) : ∃ t, exec (.dmaCqCfgEn r v) s = .next t ∧ t.b F.DMA_CQ_CFG_EN = true ∧ t.f F.DMA_CQ_HEAD_HEAD = 0
      ∧ t.f F.DMA_CQ_TAIL_TAIL = 0 ∧ t.b F.DMA_CQ_HEAD_PHASE = true ∧ t.f F.DMA_CQ_CFG_SIZE_LOG = getBits v 0 4 := by
  have heq : s.cqCfg v = ((((s.setF F.DMA_CQ_CFG_SIZE_LOG (getBits v 0 4)).setB F.DMA_CQ_CFG_EN true).setF F.DMA_CQ_HEAD_HEAD 0).setB
      F.DMA_CQ_HEAD_PHASE true).setF F.DMA_CQ_TAIL_TAIL 0 := by
    unfold State.cqCfg
    simp only [hen, hv, Bool.not_false, Bool.and_self, Bool.false_eq_true, if_false, if_true]
  refine ⟨_, congrArg Host.Outcome.next ((s.writeBy_served _ _ hr).trans heq), ?_, ?_, State.f_setF_same _ _ (by decide), ?_, ?_⟩
  · rw [State.b_setF_other _ _ (.inl (by decide)), State.b_setB_other _ _ (.inl (by decide)), State.b_setF_other _ _ (.inl (by decide)),
      State.b_setB_same _ _ (by decide) rfl]
  · rw [State.f_setF_other _ _ (.inl (by decide)), State.f_setB_other _ _ (.inr (.inr (by decide))), State.f_setF_same _ _ (by decide)]
    rfl
  · rw [State.b_setF_other _ _ (.inl (by decide)), State.b_setB_same _ _ (by decide) rfl]
  · rw [State.f_setF_other _ _ (.inl (by decide)), State.f_setB_other _ _ (.inl (by decide)), State.f_setF_other _ _ (.inl (by decide)),
      State.f_setB_other _ _ (.inr (.inr (by decide))), State.f_setF_same _ _ (by decide)]
    exact Nat.mod_eq_of_lt (getBits_lt _ _ _)

/-- A record at its place, in host memory or in the Yard. -/
def State.recStored (s : State) (bs : List Nat) : State :=
  if s.recAddr.space = 2 then { s.leaveL1 with hostOut := (s.recAddr.addr, bs) :: s.hostOut } else s.yardPutBytes .dmaW s.recAddr.addr bs

/-- The channel with its oldest record written. -/
def DmaChan.reported (c : DmaChan) : DmaChan := { c with records := c.records.drop 1, recAt := none, seq := (c.seq + 1) % 2 ^ 16 }

/-- The pulses of a record (R309). -/
def State.recPulses (s : State) (r : DmaRec) : State :=
  let s1 := if r.irq || r.status ≠ dmaOk then s.modPulse 4 else s
  if dmaDescBad ≤ r.status then s1.modPulse 5 else s1

/-- A record with room and a place is written, and the engine goes on. -/
theorem State.recWrite_writes (h : s.dmaRuns = true) (hr : (s.ch n).records = [y]) (hen : s.b F.DMA_CQ_CFG_EN = true) (hfull : s.cqFull = false)
    (hok : s.recOk s.recAddr = true) : s.recWrite n = ((((((s.recStored (s.recBytes n y)).cqAdvance.setF (F.DMA_STAT_LAST_STATUS n) y.status).setCh n
      (s.ch n).reported).recPulses y).dmaRest n).dmaHead n).pump := by
  unfold State.recWrite
  simp only [hr]
  rw [if_neg (by simp [hen, hfull, h]), if_neg (by simp [hok])]
  unfold DmaChan.reported
  rw [hr]
  rfl

theorem State.recPulses_unitLeaves (s : State) (r : DmaRec) : s.UnitLeaves (s.recPulses r) := by
  unfold State.recPulses
  extract_lets s1
  have h1 : s.UnitLeaves s1 := State.UnitLeaves.ite (s.modPulse_unitLeaves 4) (.refl s)
  exact State.UnitLeaves.ite (h1.trans (s1.modPulse_unitLeaves 5)) h1

theorem State.recPulses_endLeaves (s : State) (r : DmaRec) : s.EndLeaves (s.recPulses r) := by
  unfold State.recPulses
  extract_lets s1
  have h1 : s.EndLeaves s1 := State.EndLeaves.ite (s.modPulse_endLeaves 4) (.refl s)
  exact State.EndLeaves.ite (h1.trans (s1.modPulse_endLeaves 5)) h1

/-- Storing a record moves no channel, and no word of the queue. -/
theorem State.recStored_leaves (s : State) (bs : List Nat) : (s.recStored bs).dma = s.dma ∧ (s.recStored bs).ch = s.ch
    ∧ (∀ a, 0x118000 ≤ a → a < 0x120000 → a ≠ R.LOG_LOST → (s.recStored bs).rd a = s.rd a)
    ∧ (s.recAddr.space = 2 → (s.recStored bs).hostOut = (s.recAddr.addr, bs) :: s.hostOut) := by
  unfold State.recStored
  split
  · exact ⟨rfl, rfl, fun a ha _ _ => State.rd_setF_other s 0 (by simp only [F.SYS_HOST_STAT_L1, R.SYS_HOST_STAT]; omega), fun _ => rfl⟩
  · next hs =>
    have hu := s.yardPutBytes_unitLeaves .dmaW s.recAddr.addr bs
    exact ⟨hu.dma, funext hu.ch, fun a _ ha hl => (s.yardPutBytes_endLeaves .dmaW s.recAddr.addr bs).rd a ha hl, fun h => absurd h hs⟩

/-- HEAD moves on, and no channel. -/
theorem State.cqAdvance_leaves (s : State) : s.cqAdvance.dma = s.dma ∧ s.cqAdvance.ch = s.ch ∧ s.cqAdvance.hostOut = s.hostOut
    ∧ s.cqAdvance.f F.DMA_CQ_HEAD_HEAD = (s.f F.DMA_CQ_HEAD_HEAD + 1) % 2 ^ s.cqLog := by
  have hlt : (s.f F.DMA_CQ_HEAD_HEAD + 1) % 2 ^ s.cqLog < 2 ^ 14 := by
    refine Nat.lt_of_lt_of_le (Nat.mod_lt _ (Nat.two_pow_pos _)) (Nat.pow_le_pow_right (by decide) ?_)
    unfold State.cqLog clampN
    omega
  have hhead : (s.setF F.DMA_CQ_HEAD_HEAD ((s.f F.DMA_CQ_HEAD_HEAD + 1) % 2 ^ s.cqLog)).f F.DMA_CQ_HEAD_HEAD
      = (s.f F.DMA_CQ_HEAD_HEAD + 1) % 2 ^ s.cqLog := (State.f_setF_same _ _ (by decide)).trans (Nat.mod_eq_of_lt hlt)
  unfold State.cqAdvance
  extract_lets h s1
  split
  · exact ⟨rfl, rfl, rfl, (State.f_setF_other s1 _ (.inr (.inr (by decide)))).trans hhead⟩
  · exact ⟨rfl, rfl, rfl, hhead⟩

theorem exec_dmaRecordWrite_writes {n : Fin 32} {y : DmaRec} {s : State} (h : s.DmaAlone n) (hon : (s.ch n).on = false) (hl : (s.ch n).lost = [])
    (hr : (s.ch n).records = [y]) (hen : s.b F.DMA_CQ_CFG_EN = true) (hfull : s.cqFull = false) (hok : s.recOk s.recAddr = true) :
    ∃ t, exec (.dmaRecordWrite n) s = .next t ∧ t.chIdle n = true ∧ (t.ch n).seq = ((s.ch n).seq + 1) % 2 ^ 16
      ∧ t.f F.DMA_CQ_HEAD_HEAD = (s.f F.DMA_CQ_HEAD_HEAD + 1) % 2 ^ s.cqLog
      ∧ (s.recAddr.space = 2 → t.hostOut = (s.recAddr.addr, s.recBytes n y) :: s.hostOut) := by
  have hexec := congrArg (Host.Outcome.next (φ := Fault) (ρ := Refusal)) (State.recWrite_writes h.1 hr hen hfull hok)
  obtain ⟨hdma1, hch1, hrd1, hout1⟩ := s.recStored_leaves (s.recBytes n y)
  generalize s.recStored (s.recBytes n y) = u1 at hexec hdma1 hch1 hrd1 hout1
  obtain ⟨hdma2, hch2, hout2, hhead2⟩ := u1.cqAdvance_leaves
  have hhead : u1.cqAdvance.f F.DMA_CQ_HEAD_HEAD = (s.f F.DMA_CQ_HEAD_HEAD + 1) % 2 ^ s.cqLog := by
    have hlog : u1.cqLog = s.cqLog :=
      congrArg (clampN · 4 14) (State.f_of_rd (x := F.DMA_CQ_CFG_SIZE_LOG) (hrd1 _ (by decide) (by decide) (by decide)))
    rw [hhead2, hlog, State.f_of_rd (x := F.DMA_CQ_HEAD_HEAD) (hrd1 _ (by decide) (by decide) (by decide))]
  set u3 := (u1.cqAdvance.setF (F.DMA_STAT_LAST_STATUS n) y.status).setCh n (s.ch n).reported with hu3
  have hch3 : u3.ch n = (s.ch n).reported := State.ch_setCh_same _ _ _
  have hoth3 : ∀ m, m ≠ n.val → u3.ch m = {} := fun m hm => by
    rw [hu3, State.ch_setCh, if_neg hm, State.ch_setF_frame, hch2, hch1]
    exact h.2.2.2.2.2 m hm
  have hhead3 : u3.f F.DMA_CQ_HEAD_HEAD = (s.f F.DMA_CQ_HEAD_HEAD + 1) % 2 ^ s.cqLog := by
    rw [hu3, State.f_setCh_frame, State.f_setF_other _ _ (.inl (by
      simp only [F.DMA_CQ_HEAD_HEAD, R.DMA_CQ_HEAD, F.DMA_STAT_LAST_STATUS, R.DMA_STAT]; omega)), hhead]
  have hu := u3.recPulses_unitLeaves y
  have hhead4 : (u3.recPulses y).f F.DMA_CQ_HEAD_HEAD = u3.f F.DMA_CQ_HEAD_HEAD :=
    State.f_of_rd ((u3.recPulses_endLeaves y).rd _ (by decide) (by decide))
  generalize u3.recPulses y = u4 at hexec hu hhead4
  have hch4 : u4.ch n = (s.ch n).reported := (hu.ch n).trans hch3
  obtain ⟨hch5, hidle⟩ := State.chIdle_dmaRest (s := u4) (n := n) (by rw [hch4]; exact hon) (by rw [hch4]; exact hl)
    (by rw [hch4]; show (s.ch n).records.drop 1 = []; rw [hr]; rfl)
  have hrest : (u4.dmaRest n).dma = u4.dma ∧ (u4.dmaRest n).hostOut = u4.hostOut
      ∧ (u4.dmaRest n).f F.DMA_CQ_HEAD_HEAD = u4.f F.DMA_CQ_HEAD_HEAD := by
    have hne : F.DMA_CQ_HEAD_HEAD.addr ≠ R.DMA_CTL n := by simp only [F.DMA_CQ_HEAD_HEAD, R.DMA_CQ_HEAD, R.DMA_CTL]; omega
    unfold State.dmaRest
    dsimp only
    split
    · exact ⟨(State.dma_setB_frame ..).trans (State.dma_setB_frame ..), (State.hostOut_setB_frame ..).trans (State.hostOut_setB_frame ..),
        (State.f_setB_other _ _ (.inl hne)).trans (State.f_setB_other _ _ (.inl hne))⟩
    · exact ⟨rfl, rfl, rfl⟩
  obtain ⟨hdma5, hout5, hhead5⟩ := hrest
  have hone : (u4.dmaRest n).OneChannel n :=
    ⟨by rw [hdma5, hu.dma]; exact (congrArg Dma.burst (hdma2.trans hdma1)).trans h.2.1, fun m hm => by rw [hch5, hu.ch, hoth3 m hm]⟩
  have hoff : ((u4.dmaRest n).ch n).on = false := by rw [hch5, hch4]; exact hon
  rw [State.dmaHead_off hoff, State.pump_off hone hoff] at hexec
  refine ⟨_, hexec, hidle, by rw [hch5, hch4]; rfl, by rw [hhead5, hhead4, hhead3], fun hs => ?_⟩
  rw [hout5, hu.hostOut]
  exact hout2.trans (hout1 hs)

/-- A fetched descriptor that passes its checks. -/
theorem exec_descriptorFetched_ok {n : Fin 32} {x : DmaAddr} {at_ : Time} {s : State} (h : s.DmaAlone n) (hx : (s.ch n).next = some x)
    (hf : (s.ch n).fetchAt = some at_) (hj : (s.ch n).jobs = []) (hs : x.space = 1) (ha : x.addr % 32 = 0) (hend : x.addr + 32 ≤ 0x200000)
    (hok : s.descOk n (s.yardSpace x.addr 32) = true) :
    ∃ t, exec (.descriptorFetched n (.own .clean)) s = .next t ∧ t.ch n = (s.ch n).given x (parseDesc (s.yardSpace x.addr 32)) :=
  ⟨_, congrArg Host.Outcome.next (State.descFetched_own hx hf hs hend), State.takeDesc_ok h hj ha hok⟩

/-- A fetched descriptor that fails its checks. -/
theorem exec_descriptorFetched_bad {n : Fin 32} {x : DmaAddr} {at_ : Time} {s : State} (h : s.DmaAlone n) (hon : (s.ch n).on = true)
    (hx : (s.ch n).next = some x) (hf : (s.ch n).fetchAt = some at_) (hj : (s.ch n).jobs = []) (hr : (s.ch n).records = [])
    (hl : (s.ch n).lost = []) (hs : x.space = 1) (hend : x.addr + 32 ≤ 0x200000) (hbad : s.descOk n (s.yardSpace x.addr 32) = false) :
    ∃ t y, exec (.descriptorFetched n (.own .clean)) s = .next t ∧ (t.ch n).on = false ∧ (t.ch n).records = [y]
      ∧ y.status = dmaDescBad ∧ y.at_ = x := by
  obtain ⟨y, e, hst, hat⟩ := State.dmaBadDesc_ends (x := x) (State.oneChannel_of_alone h).burst hon hj hr hl dmaDescBad
  have heq : s.takeDesc n x (s.yardSpace x.addr 32) = s.dmaBadDesc n x dmaDescBad := if_pos (by simp [hbad])
  exact ⟨_, y, congrArg Host.Outcome.next ((State.descFetched_own hx hf hs hend).trans heq), e.on, by rw [e.records, hr]; rfl, hst, hat⟩

end

/-- Settles O54, a channel alone in use: each command's own equation above. -/
theorem dmaChannelMovesItsData : Obligations.DmaChannelMovesItsData := by
  unfold Obligations.DmaChannelMovesItsData
  refine ⟨fun r n s hr h hen hreq hsp hidle hj hf => ?start, fun r n s hr h => exec_dmaStart_refused hr h,
    fun n x at_ s h hon hx hf hj hrec hl => ⟨fun hs ha hend => ⟨fun hok => ?fetched, fun hbad => ?bad⟩, fun ht => ?timeout⟩,
    fun n j s h ho hreq hi hw hs hroom => ?burst, fun n j x data s h ho hw hr hx hs hl => exec_dmaReadReturn_host h ho hw hr hx hs hl,
    fun n j still s h ho hup hs hb _ => exec_dmaWrite_host still h ho hup hs hb,
    fun r n s hr h hon hrec => ⟨fun j hj hf hw => exec_dmaStop_inProgress hr h hon hrec hj hf hw,
      fun x hj hx => exec_dmaStop_between hr h hon hrec hj hx⟩,
    fun r n s hr hon hb => exec_dmaDisable_bulk hr hon hb, fun n y s h hon hl hr hen hfull hok => exec_dmaRecordWrite_writes h hon hl hr hen hfull hok,
    fun n x s hon hl hr => exec_dmaDrainDone_idle hon hl hr,
    fun r v s hr => ⟨exec_dmaCqTailWrite_sets v hr, fun hen hv => exec_dmaCqCfgEn_starts hr hen hv⟩⟩
  case start =>
    intro x
    obtain ⟨s1, hbytes, heq⟩ := State.dmaStart_begins h hen hreq hsp hidle hj hf
    have hch := State.ch_setCh_same s1 n (((s.ch n).begun (s.firstDesc n)).fetching s.dmaNow)
    refine ⟨_, congrArg Host.Outcome.next ((s.writeBy_served _ _ hr).trans heq), by rw [hch]; rfl, by rw [hch]; rfl, by rw [hch]; rfl,
      by rw [hch]; rfl, ?_, hbytes⟩
    unfold State.chIdle
    rw [hch]
    rfl
  case fetched =>
    obtain ⟨t, ht, hch⟩ := exec_descriptorFetched_ok h hx hf hj hs ha hend hok
    exact ⟨t, ht, by rw [hch]; rfl, by rw [hch]; rfl, by rw [hch]; rfl⟩
  case bad => exact exec_descriptorFetched_bad h hon hx hf hj hrec hl hs hend hbad
  case timeout => exact exec_dmaAccessTimeout_fetch h hon hx hf hj hrec hl ht
  case burst =>
    obtain ⟨t, k, ht, hk⟩ := exec_burstGrant_issues h ho hreq hi hw hs hroom
    refine ⟨t, k, [], ht, by rw [hk.ch], hk.desc, hk.issued, ?_⟩
    rw [hk.rd, State.rd_bump_same, BitVec.toNat_ofNat, Nat.mod_eq_of_lt (by omega)]

end Sys2Proof.Machine
end

section
/-! Why O55 fails: the table of the DMA channels may list a channel whose words are those of the MSI-X table. -/

namespace Sys2Proof.Machine

open Sys2Proof

/-- Channel 96768, which no device has: its CUR_1 is the word of vector 1 that holds the mask. -/
theorem dmaCur_is_msixMask : R.DMA_CUR_1 96768 = R.MSIX 1 3 := by decide

/-- In CONFIG, with a host that the straps do not exclude: that channel reads host memory. -/
def strayChannel : State :=
  { ({} : State).setF F.SYS_MODE_MODE 2 with
    chans := [(96768, { on := true, jobs := [{ at_ := ⟨1, 0⟩, hops := 1, reads := [{ src := ⟨2, 0⟩, size := 4, width := 4, at_ := 0 }] }] })] }

/-- Refutes O55: a reset of the endpoint masks vector 1, then fails the read that `strayChannel` has in flight, and the end of its chain
writes CUR_1 of its channel, which clears that mask. -/
theorem not_pcieAndSpiCommandsAct : ¬ Obligations.PcieAndSpiCommandsAct := by
  unfold Obligations.PcieAndSpiCommandsAct
  rintro ⟨-, -, -, -, -, hreset, -⟩
  obtain ⟨t, ht, -, -, -, hmasks, -⟩ := hreset false strayChannel (by decide) (by decide)
  have hmask := hmasks 1 (by decide)
  rw [← Host.Outcome.next.inj ht] at hmask
  exact absurd hmask (by decide +kernel)

end Sys2Proof.Machine
end

section
/-! The forerunner bus (R325 to R329, R352): its image, its window and its window commands. -/

namespace Sys2Proof.Machine

open Sys2Proof

section
variable {s : State}

/-! ### What an access does once its strobe may fall -/

theorem State.issueWrite_may {r : Requester} (h : s.mayWrite r = true) (f : State → State) : s.issueWrite r f = f s := if_pos h

theorem State.got_frOut (s : State) (v : Nat) : (s.frOut v).got .fr = BitVec.ofNat 32 (v % 65536) := Sparse.get_set_same _ _ _ _

theorem State.imageAccess_read (h : s.frReady = true) {w : Nat} (hw : w ≠ 0xF02) (v : Nat) : s.imageAccess w false v = s.imageRead w := by
  unfold State.imageAccess
  rw [if_neg (by simp [h]), if_neg Bool.false_ne_true, if_neg hw]

theorem State.imageAccess_write (h : s.frReady = true) (hm : s.mayWrite .fr = true) {w : Nat} (hw : w < 0xF00) (v : Nat) :
    s.imageAccess w true v = s.imageWrite w v := by
  unfold State.imageAccess
  rw [if_neg (by simp [h]), if_pos rfl, if_neg (by omega), if_neg (by omega), if_neg (by omega), if_neg (by omega), State.issueWrite_may hm]

/-! ### Image words (R326, R327) -/

/-- A word of no entry reads 0. -/
theorem State.imageRead_noEntry {w : Nat} (h1 : 0x800 ≤ w) (h2 : w < 0xF00) : s.imageRead w = s.frOut 0 := by
  unfold State.imageRead
  extract_lets unknown
  rw [if_neg (by omega), if_neg (by omega), if_neg (by omega), if_neg (by omega), if_neg (by omega), if_neg (by omega), if_neg (by omega),
    if_neg (by omega), if_neg (by omega)]

theorem State.imageWrite_noEntry {w : Nat} (h1 : 0x800 ≤ w) (h2 : w < 0xF00) (v : Nat) : s.imageWrite w v = s := by
  unfold State.imageWrite
  rw [if_neg (by omega), if_neg (by simp; omega), if_neg (by simp; omega)]

theorem State.imageWrite_window {w : Nat} (h1 : 0x13 ≤ w) (h2 : w < 0x100) (v : Nat) : s.imageWrite w v = s.setImg w v := by
  unfold State.imageWrite
  rw [if_neg (by omega), if_pos (by simp; omega)]

/-- An image access out of time is counted and reported (R326). -/
theorem State.frTimeout_counts (h : s.frReady = true) {w : Nat} (hw : w < 0xF00) (write : Bool) :
    s.frTimeout w write = if write then (s.bump R.SYS_HOST_FR_TIMEOUT).log .hstFrTimeout 2 0
      else ((s.bump R.SYS_HOST_FR_TIMEOUT).log .hstFrTimeout 2 0).frOut 0 :=
  if_neg (by simp [h]; omega)

/-- A report joins the same queue whatever has been counted. -/
theorem State.logQ_log_bump (s : State) (a : Nat) (c : LogCode) (x d : Nat) : ((s.bump a).log c x d).logQ = (s.log c x d).logQ := by
  have hq : (s.bump a).logQ = s.logQ := State.logQ_bump_frame s a
  have hnow : (s.bump a).now = s.now := by unfold State.now; rw [State.tb_bump_frame]
  unfold State.log
  rw [hq, hnow, State.tb_bump_frame]
  split
  · exact (State.logQ_bump_frame _ _).trans hq |>.trans (State.logQ_bump_frame s _).symm
  · rfl

theorem State.rd_timeout_counted (s : State) (x d : Nat) (c : LogCode) :
    ((((s.bump R.SYS_HOST_FR_TIMEOUT).log c x d).rd R.SYS_HOST_FR_TIMEOUT).toNat)
      = min ((s.rd R.SYS_HOST_FR_TIMEOUT).toNat % 2 ^ 24 + 1) 0xFFFFFF := by
  rw [State.rd_log _ _ _ _ (by decide), State.rd_bump_same, BitVec.toNat_ofNat, Nat.mod_eq_of_lt (by omega)]

/-! ### The window (R329) -/

theorem exec_frWinDataLoWrite_held (h : s.frReady = true) (v : BitVec 16) :
    exec (.frWinDataLoWrite v) s = .next { s with fr := { s.fr with held := some v.toNat } } := by
  have hv : v.toNat % 65536 = v.toNat := Nat.mod_eq_of_lt v.isLt
  have heq : s.winHold v.toNat = { s with fr := { s.fr with held := some (v.toNat % 65536) } } := if_pos h
  rw [hv] at heq
  exact congrArg Host.Outcome.next heq

theorem exec_frWinAddrWrite_low (h : s.frReady = true) (v : BitVec 16) : exec (.frWinAddrWrite false v) s
    = .next { s with fr := { s.fr with held := none, addr := s.fr.addr / 65536 * 65536 + v.toNat } } := by
  have hv : v.toNat % 65536 = v.toNat := Nat.mod_eq_of_lt v.isLt
  have heq : s.winAddr false v.toNat = { s with fr := { s.fr with held := none, addr := s.fr.addr / 65536 * 65536 + v.toNat % 65536 } } :=
    if_neg (by simp [h])
  rw [hv] at heq
  exact congrArg Host.Outcome.next heq

theorem exec_frWinAddrWrite_high (h : s.frReady = true) (v : BitVec 16) : exec (.frWinAddrWrite true v) s
    = .next { s with fr := { s.fr with held := none, addr := s.fr.addr % 65536 + 65536 * (v.toNat % 256), inc := v.getLsbD 15 } } :=
  congrArg Host.Outcome.next (if_neg (by simp [h]))

theorem State.fr_frStep (s : State) : s.frStep.got .fr = s.got .fr ∧ s.frStep.fr.hi = s.fr.hi
    ∧ s.frStep.fr.addr = if s.fr.inc then (s.fr.addr + 4) % 2 ^ 24 else s.fr.addr := by
  unfold State.frStep
  split
  · exact ⟨rfl, rfl, rfl⟩
  · exact ⟨rfl, rfl, rfl⟩

theorem State.fr_frGot (s : State) : s.frGot.got .fr = BitVec.ofNat 32 ((s.got .fr).toNat % 65536) ∧ s.frGot.fr.hi = (s.got .fr).toNat / 65536
    ∧ s.frGot.fr.addr = if s.fr.inc then (s.fr.addr + 4) % 2 ^ 24 else s.fr.addr := by
  unfold State.frGot
  extract_lets w
  obtain ⟨hgot, hhi, haddr⟩ := State.fr_frStep (State.frOut { s with fr := { s.fr with pull := false, hi := w / 65536 } } w)
  exact ⟨hgot.trans (State.got_frOut _ _), hhi, haddr⟩

theorem exec_frWinDataLoRead_got (h : s.frReady = true) (hw : (s.busRead .fr s.fr.addr).accessWaits .fr = false) :
    exec .frWinDataLoRead s = .next (s.busRead .fr s.fr.addr).frGot := by
  have heq : s.winRead = (s.busRead .fr s.fr.addr).frGot := by
    unfold State.winRead
    dsimp only
    rw [if_neg (by simp [h]), if_neg (by rw [hw]; exact Bool.false_ne_true)]
  exact congrArg Host.Outcome.next heq

/-- The word written whole with its high half. -/
theorem exec_frWinDataHiWrite_whole {lo : Nat} (h : s.frReady = true) (hr : s.writesReach .fr) (hl : s.fr.held = some lo) (v : BitVec 16) :
    exec (.frWinDataHiWrite v) s = .next (State.frStep
      (State.regWrite { s with fr := { s.fr with held := none } } .fr s.fr.addr (BitVec.ofNat 32 (lo + 65536 * v.toNat)) 15)) := by
  have hv : v.toNat % 65536 = v.toNat := Nat.mod_eq_of_lt v.isLt
  have heq : s.winWrite v.toNat = State.frStep
      (State.regWrite { s with fr := { s.fr with held := none } } .fr s.fr.addr (BitVec.ofNat 32 (lo + 65536 * v.toNat)) 15) := by
    unfold State.winWrite
    rw [if_neg (by simp [h]), hv]
    simp only [hl]
    exact congrArg State.frStep (State.issueWrite_may (s := { s with fr := { s.fr with held := none } }) hr.2.2 _)
  exact congrArg Host.Outcome.next heq

/-! ### Window commands (R352) -/

/-- The command window with a command in service, its word of the image written. -/
def State.windowServing (s : State) (v op : Nat) (a : List Nat) : State :=
  (s.setImg 0x10 v).setMb 4 { (s.setImg 0x10 v).mb 4 with svc := some { op := op, args := a } }

theorem exec_frWindowCommand_served (h : s.frReady = true) (hr : s.writesReach .fr) (v : BitVec 16) :
    exec (.frWindowCommand v) s = .next (s.windowStart v.toNat) := by
  have heq : (if s.frReady then s.issueWrite .fr (fun s => s.windowStart v.toNat) else s) = s.windowStart v.toNat := by
    rw [if_pos h, State.issueWrite_may hr.2.2]
  exact congrArg Host.Outcome.next heq

theorem State.windowStart_serves {v : Nat} (hm : 2 ≤ s.mode) (hf : (s.mb 4).svc = none) (hmode : (opModes (0xF00 + v % 256)).contains s.mode = true)
    (ha : s.argsBad (0xF00 + v % 256) (s.windowBytes (needLen (0xF00 + v % 256) [])) = none) :
    s.windowStart v = s.windowServing v (0xF00 + v % 256) (s.windowBytes (needLen (0xF00 + v % 256) [])) := by
  unfold State.windowStart
  rw [if_neg (by simp [hf]; omega)]
  extract_lets op a s1 s2
  split
  · next he => exact absurd hmode (by rw [he]; exact Bool.false_ne_true)
  · rw [if_neg (by rw [hmode]; decide), if_neg (by rw [ha]; decide)]
    rfl

theorem State.frImg_setImg (s : State) (w v : Nat) : (s.setImg w v).frImg w = v % 65536 := Sparse.get_set_same _ _ _ _

end

/-- Settles O56: each access's own equation above. -/
theorem forerunnerBusServesImageAndWindow : Obligations.ForerunnerBusServesImageAndWindow := by
  unfold Obligations.ForerunnerBusServesImageAndWindow
  refine ⟨fun s h => ⟨?low, ?high, fun w h1 h2 => ?none_, fun hm w v => ⟨fun h1 h2 => ?discard, fun h1 h2 => ?store⟩,
    fun w hw => ⟨?writeOut, ?readOut⟩, exec_frWinDataLoWrite_held h, fun v => ⟨exec_frWinAddrWrite_low h v, exec_frWinAddrWrite_high h v⟩,
    fun hw => ⟨_, exec_frWinDataLoRead_got h hw, State.fr_frGot _⟩⟩,
    fun v lo s h hr hl => exec_frWinDataHiWrite_whole h hr hl v, fun v s h hr => ⟨fun hm hf hmode ha => ?serve, fun hbusy => ?busy⟩⟩
  case low => exact ⟨_, congrArg Host.Outcome.next (State.imageAccess_read h (by decide) 0), State.got_frOut s 0x0960, fun _ => rfl⟩
  case high => exact ⟨_, congrArg Host.Outcome.next (State.imageAccess_read h (by decide) 0), State.got_frOut s 0x3840, fun _ => rfl⟩
  case none_ =>
    exact ⟨s.frOut 0, congrArg Host.Outcome.next ((State.imageAccess_read h (by omega) 0).trans (State.imageRead_noEntry h1 h2)),
      State.got_frOut s 0, fun _ => rfl⟩
  case discard => exact congrArg Host.Outcome.next ((State.imageAccess_write h hm h2 _).trans (State.imageWrite_noEntry h1 h2 _))
  case store => exact congrArg Host.Outcome.next ((State.imageAccess_write h hm (by omega) _).trans (State.imageWrite_window h1 h2 _))
  case writeOut =>
    exact ⟨_, congrArg Host.Outcome.next (State.frTimeout_counts h hw true), s.rd_timeout_counted 2 0 .hstFrTimeout,
      s.logQ_log_bump _ _ _ _, fun a ha hl => (State.rd_log _ _ _ _ hl).trans (State.rd_bump_other s ha)⟩
  case readOut =>
    exact ⟨_, congrArg Host.Outcome.next (State.frTimeout_counts h hw false), State.got_frOut _ 0, s.rd_timeout_counted 2 0 .hstFrTimeout⟩
  case serve =>
    refine ⟨_, (exec_frWindowCommand_served h hr v).trans (congrArg Host.Outcome.next (State.windowStart_serves hm hf hmode ha)), ?_, ?_,
      fun _ => rfl⟩
    · exact congrArg Mbx.svc (State.mb_setMb_same _ _ _)
    · exact (s.frImg_setImg 0x10 v.toNat).trans (Nat.mod_eq_of_lt v.isLt)
  case busy => exact (exec_frWindowCommand_served h hr v).trans (congrArg Host.Outcome.next (if_pos (by simp [hbusy])))

end Sys2Proof.Machine
end

section
/-! The mailbox rings (R335), doorbells and service (R338, R340, R354), and the end of moderation (R356). -/

namespace Sys2Proof.Machine

open Sys2Proof

section
variable {s t : State} {m : Nat}

/-! ### Doorbells (R338) -/

theorem State.doorbell_rings {v : Word} (h1 : 1 ≤ ptrDiff (getBits v 0 7) (s.f (F.MBX_DB_PROD m)))
    (h2 : ptrDiff (getBits v 0 7) (s.f (F.MBX_DB_PROD m)) ≤ s.mbSlots m) (h3 : ptrDiff (getBits v 0 7) (s.f (F.MBX_DONE_DONE m)) ≤ s.mbSlots m) :
    s.doorbell m v = ((s.setF (F.MBX_DB_PROD m) (getBits v 0 7)).setMb m { s.mb m with bells := (s.mb m).bells
      ++ [{ slots := ptrDiff (getBits v 0 7) (s.f (F.MBX_DB_PROD m)), fence := (List.range 4).map s.openSlots }] }).pulse (240 + m) := by
  unfold State.doorbell
  extract_lets new step n bell s1 x s2
  rw [if_pos (by simp [n, step, new, h2, h3])]
  unfold s2
  rw [if_neg (by unfold step new; omega)]
  rfl

theorem State.doorbell_wrong {v : Word} (h : s.mbSlots m < ptrDiff (getBits v 0 7) (s.f (F.MBX_DB_PROD m))
      ∨ s.mbSlots m < ptrDiff (getBits v 0 7) (s.f (F.MBX_DONE_DONE m))) :
    s.doorbell m v = (s.setB (F.MBX_STAT_DB_ERR m) true).logOnceFor .hstMbxDbErr m m 0 := by
  refine if_neg ?_
  rw [Bool.and_eq_true, decide_eq_true_eq, decide_eq_true_eq]
  omega

theorem State.mbx_setB (s : State) (x : Fld) (v : Bool) : (s.setB x v).mbx = s.mbx := by
  cases v with
  | false => rfl
  | true =>
    show ((s.note x.addr _).setF x (toBit true)).mbx = s.mbx
    unfold State.note
    split
    · rfl
    · split
      · rfl
      · rfl

theorem State.mbx_bump (s : State) (a : Nat) : (s.bump a).mbx = s.mbx := by
  show ((s.note a (countUp 1)).wr a _).mbx = s.mbx
  unfold State.note
  split
  · rfl
  · split
    · rfl
    · rfl

theorem State.mbx_logOnceFor (s : State) (c : LogCode) (k x d : Nat) : (s.logOnceFor c k x d).mbx = s.mbx := by
  unfold State.logOnceFor
  split
  · rfl
  · show (s.log c x d).mbx = s.mbx
    unfold State.log
    split
    · exact s.mbx_bump _
    · rfl

theorem exec_mbxDoorbell_served {r : Requester} {m : Fin 4} (h : s.writesReach r) (v : Word) :
    exec (.mbxDoorbell r m v) s = .next (s.doorbell m v) :=
  congrArg Host.Outcome.next (s.writeBy_served _ _ h)

/-! ### CFG (R335) -/

theorem exec_mbxCfgWrite_served {r : Requester} {m : Fin 4} (h : s.writesReach r) (v : Word) :
    exec (.mbxCfgWrite r m v) s = .next (s.mbxCfg m v) :=
  congrArg Host.Outcome.next (s.writeBy_served _ _ h)

theorem State.waitEnd_mb (s : State) (m : Nat) : (s.waitEnd m).mb m = { s.mb m with waitSince := none, notHanded := false } := by
  unfold State.waitEnd
  exact State.mb_setMb_same _ _ _

theorem State.rd_waitEnd (s : State) {a : Nat} (h : a ≠ R.MBX_STAT m) : (s.waitEnd m).rd a = s.rd a :=
  State.rd_setB_other s (x := F.MBX_STAT_WAIT_OWN m) false h

theorem State.b_waitEnd (s : State) (m : Nat) : (s.waitEnd m).b (F.MBX_STAT_WAIT_OWN m) = false :=
  s.b_setB_same (x := F.MBX_STAT_WAIT_OWN m) false (show 8 + 1 ≤ 32 by decide) rfl

/-- A ring set going: its CFG, all pointers 0, and no wait. -/
def State.ringStarted (s : State) (m : Nat) (v : Word) : State :=
  (((((s.wr (R.MBX_CFG m) (v &&& 0xFFFF)).setB (F.MBX_CFG_EN m) true).setF (F.MBX_DB_PROD m) 0).setF (F.MBX_STAT_CONS m) 0).setF
    (F.MBX_DONE_DONE m) 0).setB (F.MBX_STAT_WAIT_OWN m) false

/-- A field of the low half of a word. -/
theorem getBits_and_low {v : Word} {lo len : Nat} (h : lo + len ≤ 16) : getBits (v &&& 0xFFFF) lo len = getBits v lo len := by
  unfold getBits
  apply Nat.eq_of_testBit_eq
  intro i
  rw [Nat.testBit_mod_two_pow, Nat.testBit_mod_two_pow, Nat.testBit_shiftRight, Nat.testBit_shiftRight, BitVec.toNat_and, Nat.testBit_and]
  by_cases hi : i < len
  · have hmask : (0xFFFF : Word).toNat.testBit (lo + i) = true := by
      show (2 ^ 16 - 1).testBit (lo + i) = true
      rw [Nat.testBit_two_pow_sub_one]
      exact decide_eq_true (by omega)
    rw [hmask, Bool.and_true]
  · rw [decide_eq_false hi, Bool.false_and, Bool.false_and]

theorem State.ringStarted_shows (s : State) (m : Nat) (v : Word) :
    (s.ringStarted m v).b (F.MBX_CFG_EN m) = true ∧ (s.ringStarted m v).f (F.MBX_CFG_BASE_PAGE m) = getBits v 0 13
      ∧ (s.ringStarted m v).f (F.MBX_CFG_SLOTS_LOG m) = getBits v 13 3 ∧ (s.ringStarted m v).f (F.MBX_DB_PROD m) = 0
      ∧ (s.ringStarted m v).f (F.MBX_STAT_CONS m) = 0 ∧ (s.ringStarted m v).f (F.MBX_DONE_DONE m) = 0 := by
  have hdb : R.MBX_CFG m ≠ R.MBX_DB m := by simp only [R.MBX_CFG, R.MBX_DB]; omega
  have hstat : R.MBX_CFG m ≠ R.MBX_STAT m := by simp only [R.MBX_CFG, R.MBX_STAT]; omega
  have hdone : R.MBX_CFG m ≠ R.MBX_DONE m := by simp only [R.MBX_CFG, R.MBX_DONE]; omega
  have hds : R.MBX_DB m ≠ R.MBX_STAT m := by simp only [R.MBX_DB, R.MBX_STAT]; omega
  have hdd : R.MBX_DB m ≠ R.MBX_DONE m := by simp only [R.MBX_DB, R.MBX_DONE]; omega
  have hsd : R.MBX_STAT m ≠ R.MBX_DONE m := by simp only [R.MBX_STAT, R.MBX_DONE]; omega
  have hcfg : ∀ lo len, lo + len ≤ 16 → (s.ringStarted m v).f ⟨R.MBX_CFG m, lo, len⟩ = getBits v lo len := fun lo len h => by
    unfold State.ringStarted
    rw [State.f_setB_other (x := F.MBX_STAT_WAIT_OWN m) _ false (.inl hstat), State.f_setF_other (x := F.MBX_DONE_DONE m) _ 0 (.inl hdone),
      State.f_setF_other (x := F.MBX_STAT_CONS m) _ 0 (.inl hstat), State.f_setF_other (x := F.MBX_DB_PROD m) _ 0 (.inl hdb),
      State.f_setB_other (x := F.MBX_CFG_EN m) _ true (.inr (.inr h))]
    unfold State.f
    rw [State.rd_wr_same, getBits_and_low h]
  refine ⟨?_, hcfg 0 13 (by decide), hcfg 13 3 (by decide), ?_, ?_, ?_⟩
  · unfold State.ringStarted
    rw [State.b_setB_other (x := F.MBX_STAT_WAIT_OWN m) _ false (.inl hstat), State.b_setF_other (x := F.MBX_DONE_DONE m) _ 0 (.inl hdone),
      State.b_setF_other (x := F.MBX_STAT_CONS m) _ 0 (.inl hstat), State.b_setF_other (x := F.MBX_DB_PROD m) _ 0 (.inl hdb)]
    exact State.b_setB_same (x := F.MBX_CFG_EN m) _ true (show 16 + 1 ≤ 32 by decide) rfl
  · unfold State.ringStarted
    rw [State.f_setB_other (x := F.MBX_STAT_WAIT_OWN m) _ false (.inl hds), State.f_setF_other (x := F.MBX_DONE_DONE m) _ 0 (.inl hdd),
      State.f_setF_other (x := F.MBX_STAT_CONS m) _ 0 (.inl hds)]
    exact State.f_setF_same (x := F.MBX_DB_PROD m) _ 0 (show 0 + 7 ≤ 32 by decide)
  · unfold State.ringStarted
    rw [State.f_setB_other (x := F.MBX_STAT_WAIT_OWN m) _ false (.inr (.inr (show 0 + 7 ≤ 8 by decide))),
      State.f_setF_other (x := F.MBX_DONE_DONE m) _ 0 (.inl hsd)]
    exact State.f_setF_same (x := F.MBX_STAT_CONS m) _ 0 (show 0 + 7 ≤ 32 by decide)
  · unfold State.ringStarted
    rw [State.f_setB_other (x := F.MBX_STAT_WAIT_OWN m) _ false (.inl hsd.symm)]
    exact State.f_setF_same (x := F.MBX_DONE_DONE m) _ 0 (show 0 + 7 ≤ 32 by decide)

/-- The slots of ring `m` no longer hold up the fences of ring `j`. -/
def State.fenceFree (m : Nat) (s : State) (j : Nat) : State :=
  s.setMb j { s.mb j with bells := (s.mb j).bells.map (fun b => { b with fence := b.fence.set m 0 }) }

theorem State.mbxCfg_starts {v : Word} (hen : s.b (F.MBX_CFG_EN m) = false) (hv : v.getLsbD 16 = true) (hsvc : (s.mb m).svc = none)
    (hfit : getBits v 0 13 + 2 ^ min 6 (getBits v 13 3) ≤ 8192) :
    s.mbxCfg m v = overList (List.range 4) (State.fenceFree m) ((s.ringStarted m v).setMb m {}) := by
  have hpages : ¬8192 < (s.wr (R.MBX_CFG m) (v &&& 0xFFFF)).f (F.MBX_CFG_BASE_PAGE m) + (s.wr (R.MBX_CFG m) (v &&& 0xFFFF)).mbSlots m := by
    unfold State.mbSlots State.f
    simp only [F.MBX_CFG_BASE_PAGE, F.MBX_CFG_SLOTS_LOG, State.rd_wr_same, getBits_and_low (show 0 + 13 ≤ 16 by decide),
      getBits_and_low (show 13 + 3 ≤ 16 by decide)]
    omega
  unfold State.mbxCfg
  rw [if_neg (by rw [hen]; exact Bool.false_ne_true)]
  extract_lets s1 s2 s3
  rw [if_neg (by rw [hv]; exact Bool.false_ne_true), if_neg (by
    rw [Bool.or_eq_true, decide_eq_true_eq, hsvc]
    rintro (h | h)
    · exact hpages h
    · exact absurd h Bool.false_ne_true)]
  rfl

theorem State.fenceFree_leaves (m : Nat) (s : State) (j : Nat) :
    (∀ a, (s.fenceFree m j).rd a = s.rd a) ∧ ((s.mb m).bells = [] → ((s.fenceFree m j).mb m).bells = []) := by
  refine ⟨fun _ => rfl, fun h => ?_⟩
  unfold State.fenceFree
  rw [State.mb_setMb]
  split
  · next hj => rw [← hj, h]; rfl
  · exact h

/-! ### Service (R338, R340, R354) -/

/-- The checks of a payload rest on the pages, the pins' newest configuration, the straps and the twin pairs. -/
theorem State.argsBad_congr {op : Nat} {a : List Nat} (hcfg : ∀ p, t.pinCfg p = s.pinCfg p) (hsel : t.hostsel = s.hostsel)
    (hcheck : ∀ h, t.isCheck h = s.isCheck h) (hpage : ∀ p, t.page p = s.page p)
    (hpair : t.f F.SYS_TWIN_PAIR_EN = s.f F.SYS_TWIN_PAIR_EN) : t.argsBad op a = s.argsBad op a := by
  unfold State.argsBad State.argList State.pinOwnBad State.maskChecked State.pgBad
  simp only [hcfg, hsel, hcheck, hpage, hpair]

/-- From `s` to `t` of the words only MBX_STAT of ring `m` has moved, and no page, no shadow word and not the time. -/
structure State.StatMoved (m : Nat) (s t : State) : Prop where
  rd : ∀ a, a ≠ R.MBX_STAT m → t.rd a = s.rd a
  page : ∀ p, t.page p = s.page p
  shadow : t.shadow = s.shadow

theorem State.StatMoved.argsBad (h : State.StatMoved m s t) (op : Nat) (a : List Nat) : t.argsBad op a = s.argsBad op a := by
  have hlow : ∀ x : Fld, x.addr < 0x120000 → t.f x = s.f x := fun x hx => State.f_of_rd (h.rd _ (by simp only [R.MBX_STAT]; omega))
  refine State.argsBad_congr (fun p => ?_) (hlow _ (by decide)) (fun k => ?_) (fun p => ?_) (hlow _ (by decide))
  · have hp : R.TIO_CFG p ≠ R.MBX_STAT m := by simp only [R.TIO_CFG, R.MBX_STAT]; omega
    unfold State.pinCfg State.shadowRd State.shadowAt State.liveWord
    rw [h.shadow, h.rd _ hp, hlow F.PWR_SEQ_CTL_LEVEL (by decide)]
  · unfold State.isCheck
    rw [hlow F.SYS_TWIN_PAIR_ACT (by decide)]
  · exact h.page p

theorem State.StatMoved.yardBytes (h : State.StatMoved m s t) (hm : m < 4) (o n : Nat) : t.yardBytes o n = s.yardBytes o n := by
  have hword : ∀ k, t.yardWord k = s.yardWord k := fun k => by
    unfold State.yardWord
    rw [h.page, h.rd _ (by simp only [R.YARD, R.MBX_STAT]; omega)]
  unfold State.yardBytes
  simp only [hword]

theorem State.waitEnd_statMoved (s : State) (m : Nat) : State.StatMoved m s (s.waitEnd m) where
  rd _ ha := s.rd_waitEnd ha
  page p := State.page_setB_frame s (F.MBX_STAT_WAIT_OWN m) false p
  shadow := State.shadow_setB_frame s (F.MBX_STAT_WAIT_OWN m) false

/-- Slot CONS taken: its command in service, CONS moved on, SERVING set, and no wait. -/
theorem State.takeSlot_takes (s : State) (m : Nat) (v : Svc) : (s.takeSlot m v).f (F.MBX_STAT_CONS m) = (s.f (F.MBX_STAT_CONS m) + 1) % 128
    ∧ (s.takeSlot m v).b (F.MBX_STAT_SERVING m) = true ∧ ((s.takeSlot m v).mb m).svc = some v
    ∧ ∀ a, a ≠ R.MBX_STAT m → (s.takeSlot m v).rd a = s.rd a := by
  unfold State.takeSlot
  extract_lets s1
  have hwait : ∀ (x : State) (y : Fld), y.addr ≠ R.MBX_STAT m ∨ 8 + 1 ≤ y.lo ∨ y.lo + y.len ≤ 8 → (x.waitEnd m).f y = x.f y := fun x y hy =>
    State.f_setB_other (x := F.MBX_STAT_WAIT_OWN m) x false hy
  have hserve : ∀ (x : State), (x.setB (F.MBX_STAT_SERVING m) true).f (F.MBX_STAT_CONS m) = x.f (F.MBX_STAT_CONS m) := fun x =>
    State.f_setB_other (x := F.MBX_STAT_SERVING m) x true (.inr (.inr (Nat.le_refl 7)))
  refine ⟨?_, ?_, congrArg Mbx.svc (State.mb_setMb_same _ _ _), fun a ha => ?_⟩
  · rw [State.f_setMb_frame]
    unfold s1
    rw [hwait _ _ (.inr (.inr (show 0 + 7 ≤ 8 by decide))), hserve]
    exact State.f_setF_same (x := F.MBX_STAT_CONS m) s _ (show 0 + 7 ≤ 32 by decide)
  · rw [State.b_setMb_frame]
    unfold s1 State.b
    rw [hwait _ _ (.inr (.inr (show 7 + 1 ≤ 8 by decide)))]
    exact State.b_setB_same (x := F.MBX_STAT_SERVING m) _ true (show 7 + 1 ≤ 32 by decide) rfl
  · rw [State.rd_setMb_frame]
    unfold s1
    rw [State.rd_waitEnd _ ha, State.rd_setB_other (x := F.MBX_STAT_SERVING m) _ true ha, State.rd_setF_other (x := F.MBX_STAT_CONS m) _ _ ha]

/-- The command that the slot in page `page` asks for. -/
def State.slotCommand (s : State) (page : Nat) : Svc :=
  let h := s.yardBytes (256 * page) 16
  let a := s.yardBytes (256 * page + 16) (min 240 (h.getD 4 0))
  { page := page, op := le h 0 2, flags := h.getD 5 0, args := a, pages := pgPages (le h 0 2) a }

/-- A slot with a good header, no closed FENCE, a known opcode of the mode and good arguments is taken. -/
theorem State.serveSlot_takes {page : Nat} (hh : headerBad (s.yardBytes (256 * page) 16) = false)
    (hf : ((s.yardBytes (256 * page) 16).getD 5 0).testBit 3 = false ∨ s.fenceOpen m = true)
    (hmode : (opModes (s.slotCommand page).op).contains s.mode = true)
    (ha : s.argsBad (s.slotCommand page).op (s.slotCommand page).args = none) : s.serveSlot m page = s.takeSlot m (s.slotCommand page) := by
  unfold State.serveSlot
  extract_lets h op a s1 s2
  have hfence : ¬ ((h.getD 5 0).testBit 3 && !s.fenceOpen m) = true := by
    rw [Bool.and_eq_true, Bool.not_eq_true']
    rintro ⟨hbit, hopen⟩
    rcases hf with hf | hf
    · exact Bool.false_ne_true (hf.symm.trans hbit)
    · exact Bool.false_ne_true (hopen.symm.trans hf)
  rw [if_neg (by rw [hh]; exact Bool.false_ne_true), if_neg hfence]
  split
  · next he => exact absurd hmode (by rw [show (s.slotCommand page).op = op from rfl, he]; exact Bool.false_ne_true)
  · rw [if_neg (by rw [show (opModes op).contains s.mode = true from hmode]; decide),
      show s.argsBad op a = none from ha]
    rfl

theorem State.serviceStart_takes (hm : m < 4) (hmode : 2 ≤ s.mode) (hen : s.b (F.MBX_CFG_EN m) = true) (hsvc : (s.mb m).svc = none)
    (hcons : s.f (F.MBX_STAT_CONS m) ≠ s.f (F.MBX_DB_PROD m)) {page : Nat} (hp : page = s.mbPage m (s.f (F.MBX_STAT_CONS m)))
    (hown : (s.page page).owner = 2) (hh : headerBad (s.yardBytes (256 * page) 16) = false)
    (hf : ((s.yardBytes (256 * page) 16).getD 5 0).testBit 3 = false ∨ s.fenceOpen m = true)
    (hok : (opModes (s.slotCommand page).op).contains s.mode = true)
    (ha : s.argsBad (s.slotCommand page).op (s.slotCommand page).args = none) :
    s.serviceStart m = (s.waitEnd m).takeSlot m (s.slotCommand page) := by
  have hmoved := s.waitEnd_statMoved m
  have hbytes := hmoved.yardBytes hm
  have hcmd : (s.waitEnd m).slotCommand page = s.slotCommand page := by
    unfold State.slotCommand
    simp only [hbytes]
  have hwmode : (s.waitEnd m).mode = s.mode := State.f_of_rd (hmoved.rd _ (by simp only [F.SYS_MODE_MODE, R.SYS_MODE, R.MBX_STAT]; omega))
  have hfence : (s.waitEnd m).fenceOpen m = s.fenceOpen m := by
    unfold State.fenceOpen
    rw [s.waitEnd_mb]
  have hserve := State.serveSlot_takes (s := s.waitEnd m) (m := m) (page := page) (by rw [hbytes]; exact hh) (by rw [hbytes, hfence]; exact hf)
    (by rw [hcmd, hwmode]; exact hok) (by rw [hcmd, hmoved.argsBad]; exact ha)
  rw [hcmd] at hserve
  unfold State.serviceStart
  dsimp only
  rw [if_neg (by simp [hen, hsvc, hcons]; omega), ← hp, if_pos hown, hserve]

/-- A page not yet handed over starts the wait. -/
theorem State.serviceStart_waits (hmode : 2 ≤ s.mode) (hen : s.b (F.MBX_CFG_EN m) = true) (hsvc : (s.mb m).svc = none)
    (hcons : s.f (F.MBX_STAT_CONS m) ≠ s.f (F.MBX_DB_PROD m)) (hown : (s.page (s.mbPage m (s.f (F.MBX_STAT_CONS m)))).owner < 2)
    (hw : (s.mb m).waitSince = none) :
    s.serviceStart m = (s.setMb m { s.mb m with waitSince := some s.now }).setB (F.MBX_STAT_WAIT_OWN m) true := by
  unfold State.serviceStart
  dsimp only
  rw [if_neg (by simp [hen, hsvc, hcons]; omega), if_neg (by omega), if_neg (by omega), if_neg (by simp [hw])]

/-! ### The end of moderation (R356) -/

theorem State.hold_showHold (s : State) (c j : Nat) : (s.showHold c).hold j = s.hold j := by
  unfold State.showHold
  dsimp only
  split
  · rfl
  · rfl

theorem State.hold_releaseHold (s : State) (c : Nat) : ((s.releaseHold c).hold c).n = 0 := by
  unfold State.releaseHold
  split
  · next h => exact h
  · rw [State.hold_pulse_frame, State.hold_showHold, State.hold_setHold_same]

theorem exec_moderationTimeExpiry_releases {c : Fin 6} (hc : c.val < 5) (hn : (s.hold c).n ≠ 0) (ha : s.b F.MBX_SLEEP_ASLEEP = false)
    (ht : 500 * s.modTime c ≤ since s.ctlNow (s.hold c).since) : exec (.moderationTimeExpiry c) s = .next (s.releaseHold c) :=
  congrArg Host.Outcome.next (if_pos (by simp [hn, ha, hc, ht]))

/-! ### What each row answers, and what it shows -/

theorem exec_mbxDoorbell_rings {r : Requester} {m : Fin 4} {v : Word} (hr : s.writesReach r)
    (h1 : 1 ≤ ptrDiff (getBits v 0 7) (s.f (F.MBX_DB_PROD m))) (h2 : ptrDiff (getBits v 0 7) (s.f (F.MBX_DB_PROD m)) ≤ s.mbSlots m)
    (h3 : ptrDiff (getBits v 0 7) (s.f (F.MBX_DONE_DONE m)) ≤ s.mbSlots m) :
    ∃ t, exec (.mbxDoorbell r m v) s = .next t ∧ t.f (F.MBX_DB_PROD m) = getBits v 0 7
      ∧ (t.mb m).bells = (s.mb m).bells ++ [{ slots := ptrDiff (getBits v 0 7) (s.f (F.MBX_DB_PROD m)), fence := (List.range 4).map s.openSlots }]
      ∧ ∀ a, a ≠ R.MBX_DB m → t.rd a = s.rd a := by
  refine ⟨_, (exec_mbxDoorbell_served hr v).trans (congrArg Host.Outcome.next (State.doorbell_rings h1 h2 h3)), ?_, ?_, fun a ha => ?_⟩
  · rw [State.f_pulse_frame, State.f_setMb_frame]
    exact (State.f_setF_same (x := F.MBX_DB_PROD m) s _ (show 0 + 7 ≤ 32 by decide)).trans (Nat.mod_eq_of_lt (getBits_lt _ _ _))
  · rw [State.mb_pulse_frame, State.mb_setMb_same]
  · rw [State.rd_pulse_frame, State.rd_setMb_frame]
    exact State.rd_setF_other (x := F.MBX_DB_PROD m) s _ ha

theorem exec_mbxDoorbell_wrong {r : Requester} {m : Fin 4} {v : Word} (hr : s.writesReach r)
    (h : s.mbSlots m < ptrDiff (getBits v 0 7) (s.f (F.MBX_DB_PROD m)) ∨ s.mbSlots m < ptrDiff (getBits v 0 7) (s.f (F.MBX_DONE_DONE m))) :
    ∃ t, exec (.mbxDoorbell r m v) s = .next t ∧ t.b (F.MBX_STAT_DB_ERR m) = true ∧ t.mbx = s.mbx
      ∧ t.rd (R.MBX_DB m) = s.rd (R.MBX_DB m) := by
  have hl : ∀ a, a ≠ R.LOG_LOST → ((s.setB (F.MBX_STAT_DB_ERR m) true).logOnceFor .hstMbxDbErr m m 0).rd a
      = (s.setB (F.MBX_STAT_DB_ERR m) true).rd a := fun a ha => State.rd_logOnceFor _ _ _ _ _ ha
  refine ⟨_, (exec_mbxDoorbell_served hr v).trans (congrArg Host.Outcome.next (State.doorbell_wrong h)), ?_,
    (State.mbx_logOnceFor _ _ _ _ _).trans (State.mbx_setB _ _ _), ?_⟩
  · refine (State.b_of_rd (x := F.MBX_STAT_DB_ERR m) (hl _ (by simp only [F.MBX_STAT_DB_ERR, R.MBX_STAT, R.LOG_LOST]; omega))).trans ?_
    exact s.b_setB_same (x := F.MBX_STAT_DB_ERR m) true (show 9 + 1 ≤ 32 by decide) rfl
  · rw [hl _ (by simp only [R.MBX_DB, R.LOG_LOST]; omega)]
    exact State.rd_setB_other (x := F.MBX_STAT_DB_ERR m) s true (by simp only [F.MBX_STAT_DB_ERR, R.MBX_DB, R.MBX_STAT]; omega)

theorem exec_mbxCfgWrite_stops {r : Requester} {m : Fin 4} {v : Word} (hr : s.writesReach r) (hen : s.b (F.MBX_CFG_EN m) = true)
    (hv : v.getLsbD 16 = false) :
    ∃ t, exec (.mbxCfgWrite r m v) s = .next t ∧ t.b (F.MBX_CFG_EN m) = false
      ∧ t.b (F.MBX_STAT_WAIT_OWN m) = false ∧ (t.mb m).waitSince = none ∧ (t.mb m).svc = (s.mb m).svc
      ∧ ∀ b, b ∉ [R.MBX_CFG m, R.MBX_STAT m] → t.rd b = s.rd b := by
  have heq : s.mbxCfg m v = (s.setB (F.MBX_CFG_EN m) false).waitEnd m := by
    unfold State.mbxCfg
    rw [if_pos hen, if_neg (by rw [hv]; exact Bool.false_ne_true)]
  refine ⟨(s.setB (F.MBX_CFG_EN m) false).waitEnd m, (exec_mbxCfgWrite_served hr v).trans (congrArg Host.Outcome.next heq), ?_,
    State.b_waitEnd _ m, ?_, ?_, fun a ha => ?_⟩
  · refine (State.b_of_rd (x := F.MBX_CFG_EN m) (State.rd_waitEnd _ (m := m) (a := R.MBX_CFG m) (by simp only [R.MBX_CFG, R.MBX_STAT]; omega))).trans ?_
    exact s.b_setB_same (x := F.MBX_CFG_EN m) false (show 16 + 1 ≤ 32 by decide) rfl
  · rw [State.waitEnd_mb]
  · rw [State.waitEnd_mb, State.mb_setB_frame]
  · obtain ⟨hcfg, hstat⟩ : a ≠ R.MBX_CFG m ∧ a ≠ R.MBX_STAT m := by simpa using ha
    rw [State.rd_waitEnd _ hstat]
    exact State.rd_setB_other (x := F.MBX_CFG_EN m) s false hcfg

/-- Freeing the fences of the other rings keeps a started ring's words and its empty list of doorbells. -/
theorem State.fenceFree_all_leaves (m : Nat) (l : List Nat) (s : State) :
    (∀ a, (overList l (State.fenceFree m) (s.setMb m {})).rd a = s.rd a)
      ∧ ((overList l (State.fenceFree m) (s.setMb m {})).mb m).bells = [] := by
  refine overList_keeps (P := fun x => (∀ a, x.rd a = s.rd a) ∧ (x.mb m).bells = []) (fun x j hx => ?_) _
    ⟨fun a => State.rd_setMb_frame _ _ _ _, congrArg Mbx.bells (State.mb_setMb_same _ _ _)⟩
  obtain ⟨hrd, hbells⟩ := State.fenceFree_leaves m x j
  exact ⟨fun a => (hrd a).trans (hx.1 a), hbells hx.2⟩

theorem exec_mbxCfgWrite_starts {r : Requester} {m : Fin 4} {v : Word} (hr : s.writesReach r) (hen : s.b (F.MBX_CFG_EN m) = false)
    (hv : v.getLsbD 16 = true) (hsvc : (s.mb m).svc = none) (hfit : getBits v 0 13 + 2 ^ min 6 (getBits v 13 3) ≤ 8192) :
    ∃ t, exec (.mbxCfgWrite r m v) s = .next t ∧ t.b (F.MBX_CFG_EN m) = true
      ∧ t.f (F.MBX_CFG_BASE_PAGE m) = getBits v 0 13 ∧ t.f (F.MBX_CFG_SLOTS_LOG m) = getBits v 13 3
      ∧ t.f (F.MBX_DB_PROD m) = 0 ∧ t.f (F.MBX_STAT_CONS m) = 0 ∧ t.f (F.MBX_DONE_DONE m) = 0 ∧ (t.mb m).bells = [] := by
  have hstart := (exec_mbxCfgWrite_served hr v).trans (congrArg Host.Outcome.next (State.mbxCfg_starts hen hv hsvc hfit))
  obtain ⟨hrd, hbells⟩ := State.fenceFree_all_leaves m (List.range 4) (s.ringStarted m v)
  obtain ⟨h1, h2, h3, h4, h5, h6⟩ := s.ringStarted_shows m v
  generalize overList (List.range 4) (State.fenceFree m) ((s.ringStarted m v).setMb m {}) = t at hstart hrd hbells
  exact ⟨t, hstart, (State.b_of_rd (hrd _)).trans h1, (State.f_of_rd (hrd _)).trans h2, (State.f_of_rd (hrd _)).trans h3,
    (State.f_of_rd (hrd _)).trans h4, (State.f_of_rd (hrd _)).trans h5, (State.f_of_rd (hrd _)).trans h6, hbells⟩

theorem exec_mbxServiceStart_takes {m : Fin 4} {page : Nat} (hmode : 2 ≤ s.mode) (hen : s.b (F.MBX_CFG_EN m) = true)
    (hsvc : (s.mb m).svc = none) (hcons : s.f (F.MBX_STAT_CONS m) ≠ s.f (F.MBX_DB_PROD m)) (hp : page = s.mbPage m (s.f (F.MBX_STAT_CONS m)))
    (hown : (s.page page).owner = 2) (hh : headerBad (s.yardBytes (256 * page) 16) = false)
    (hf : ((s.yardBytes (256 * page) 16).getD 5 0).testBit 3 = false ∨ s.fenceOpen m = true)
    (hok : (opModes (s.slotCommand page).op).contains s.mode = true)
    (ha : s.argsBad (s.slotCommand page).op (s.slotCommand page).args = none) :
    ∃ t, exec (.mbxServiceStart m) s = .next t ∧ t.f (F.MBX_STAT_CONS m) = (s.f (F.MBX_STAT_CONS m) + 1) % 128
      ∧ t.b (F.MBX_STAT_SERVING m) = true ∧ (t.mb m).svc = some (s.slotCommand page) ∧ ∀ b, b ≠ R.MBX_STAT m → t.rd b = s.rd b := by
  have heq := State.serviceStart_takes m.isLt hmode hen hsvc hcons hp hown hh hf hok ha
  obtain ⟨h1, h2, h3, h4⟩ := (s.waitEnd m).takeSlot_takes m (s.slotCommand page)
  have hw : (s.waitEnd m).f (F.MBX_STAT_CONS m) = s.f (F.MBX_STAT_CONS m) :=
    State.f_setB_other (x := F.MBX_STAT_WAIT_OWN m) (y := F.MBX_STAT_CONS m) _ false (.inr (.inr (show 0 + 7 ≤ 8 by decide)))
  refine ⟨(s.waitEnd m).takeSlot m (s.slotCommand page), congrArg Host.Outcome.next heq, ?_, h2, h3, fun b hb => (h4 b hb).trans (s.rd_waitEnd hb)⟩
  rw [h1, hw]

theorem exec_mbxServiceStart_waits {m : Fin 4} (hmode : 2 ≤ s.mode) (hen : s.b (F.MBX_CFG_EN m) = true) (hsvc : (s.mb m).svc = none)
    (hcons : s.f (F.MBX_STAT_CONS m) ≠ s.f (F.MBX_DB_PROD m)) (hown : (s.page (s.mbPage m (s.f (F.MBX_STAT_CONS m)))).owner < 2)
    (hw : (s.mb m).waitSince = none) :
    ∃ t, exec (.mbxServiceStart m) s = .next t
      ∧ (t.mb m).waitSince = some s.now ∧ t.b (F.MBX_STAT_WAIT_OWN m) = true ∧ t.f (F.MBX_STAT_CONS m) = s.f (F.MBX_STAT_CONS m) := by
  refine ⟨_, congrArg Host.Outcome.next (State.serviceStart_waits hmode hen hsvc hcons hown hw), ?_, ?_, ?_⟩
  · rw [State.mb_setB_frame, State.mb_setMb_same]
  · exact State.b_setB_same (x := F.MBX_STAT_WAIT_OWN m) _ true (show 8 + 1 ≤ 32 by decide) rfl
  · exact (State.f_setB_other (x := F.MBX_STAT_WAIT_OWN m) (y := F.MBX_STAT_CONS m) _ true (.inr (.inr (show 0 + 7 ≤ 8 by decide)))).trans
      (State.f_setMb_frame _ _ _ _)

/-- A report joins the same queue whatever a mailbox holds. -/
theorem State.logQ_log_setMb (s : State) (m : Nat) (x : Mbx) (c : LogCode) (a d : Nat) : ((s.setMb m x).log c a d).logQ = (s.log c a d).logQ := by
  have hq : (s.setMb m x).logQ = s.logQ := State.logQ_setMb_frame _ _ _
  have hnow : (s.setMb m x).now = s.now := by unfold State.now; rw [State.tb_setMb_frame]
  unfold State.log
  rw [hq, hnow, State.tb_setMb_frame]
  split
  · exact (State.logQ_bump_frame _ _).trans (hq.trans (State.logQ_bump_frame s _).symm)
  · rfl

theorem exec_mbxNotHanded_reports {m : Fin 4} {t0 : Time} (hw : (s.mb m).waitSince = some t0) (hn : (s.mb m).notHanded = false)
    (hp : s.passed t0 500000 = true) (hwait : s.b (F.MBX_STAT_WAIT_OWN m) = true) (hen : s.b (F.MBX_CFG_EN m) = true)
    (hown : (s.page (s.mbPage m (s.f (F.MBX_STAT_CONS m)))).owner ≠ 2) :
    ∃ t, exec (.mbxNotHanded m) s = .next t ∧ (t.mb m).notHanded = true
      ∧ t.logQ = (s.log .hstMbxNotHanded m 0).logQ ∧ ∀ b, b ≠ R.LOG_LOST → t.rd b = s.rd b := by
  have heq : s.notHanded m = (s.setMb m { s.mb m with notHanded := true }).log .hstMbxNotHanded m 0 := by
    unfold State.notHanded
    simp only [hw]
    exact if_pos (by simp [hn, hp, hwait, hen, hown])
  refine ⟨_, congrArg Host.Outcome.next heq, ?_, State.logQ_log_setMb _ _ _ _ _ _,
    fun b hb => (State.rd_log _ _ _ _ hb).trans (State.rd_setMb_frame _ _ _ _)⟩
  rw [State.mb_log_frame, State.mb_setMb_same]

end

/-- Settles O57: each ring command's own lemma above. -/
theorem mailboxRingIsServed : Obligations.MailboxRingIsServed := by
  unfold Obligations.MailboxRingIsServed
  refine ⟨fun r m v s hr => ⟨exec_mbxDoorbell_rings hr, exec_mbxDoorbell_wrong hr⟩,
    fun r m v s hr => ⟨fun hen hv => ?cfgErr, exec_mbxCfgWrite_stops hr, exec_mbxCfgWrite_starts hr⟩,
    fun m s hmode hen hsvc hcons => ⟨exec_mbxServiceStart_takes hmode hen hsvc hcons rfl, exec_mbxServiceStart_waits hmode hen hsvc hcons⟩,
    fun m t0 s => exec_mbxNotHanded_reports,
    fun c s hc hn ha ht => ⟨exec_moderationTimeExpiry_releases hc hn ha ht, s.hold_releaseHold c⟩⟩
  case cfgErr =>
    refine (exec_mbxCfgWrite_served hr v).trans (congrArg Host.Outcome.next ?_)
    unfold State.mbxCfg
    rw [if_pos hen, if_pos hv]

end Sys2Proof.Machine
end

section
/-! The bytes of a slot: what a device-side write of Yard bytes leaves to be read (R2, R275), and the result and header of a completed
slot (R336, R339). -/

namespace Sys2Proof.Machine

open Sys2Proof

section
variable {s t u : State}

/-! ### One byte of a word (R2) -/

/-- The mask of one lane is the field of its byte. -/
theorem laneMask_single : ∀ k : Fin 4, laneMask (BitVec.ofNat 4 (2 ^ k.val)) = maskOf (8 * k) 8 := by decide

/-- Writing one lane is writing its field. -/
theorem mergeLanes_single (w : Word) (b : Nat) {k : Nat} (hk : k < 4) :
    mergeLanes w (BitVec.ofNat 32 (b <<< (8 * k))) (BitVec.ofNat 4 (2 ^ k)) = setBits w (8 * k) 8 b := by
  have hmask : laneMask (BitVec.ofNat 4 (2 ^ k)) = maskOf (8 * k) 8 := laneMask_single ⟨k, hk⟩
  have hval : BitVec.ofNat 32 (b <<< (8 * k)) &&& maskOf (8 * k) 8 = BitVec.ofNat 32 ((b % 2 ^ 8) <<< (8 * k)) := by
    apply BitVec.eq_of_getLsbD_eq
    intro i hi
    unfold maskOf
    simp only [BitVec.getLsbD_and, BitVec.getLsbD_ofNat, Nat.testBit_shiftLeft, Nat.testBit_mod_two_pow, Nat.testBit_two_pow_sub_one]
    rw [Bool.eq_iff_iff]
    simp only [Bool.and_eq_true]
    tauto
  unfold mergeLanes setBits
  rw [hmask, hval]

/-- The byte of the Yard at an offset, as the device side reads it. -/
def State.yardByte (s : State) (o : Nat) : Nat := getBits (s.yardWord o) (8 * (o % 4)) 8

theorem State.yardBytes_eq_map (s : State) (o n : Nat) : s.yardBytes o n = (List.range n).map (fun i => s.yardByte (o + i)) := rfl

theorem State.yardByte_congr (hp : t.page (o / 256) = s.page (o / 256)) (hw : t.rd (R.YARD (o - o % 4)) = s.rd (R.YARD (o - o % 4))) :
    t.yardByte o = s.yardByte o := by
  unfold State.yardByte State.yardWord
  rw [hp, hw]

/-! ### Writing bytes of the core's own pages (R275) -/

/-- The core's write of one byte. -/
def State.putByte (s : State) (o b : Nat) : State :=
  s.yardWrite .core o (BitVec.ofNat 32 (b <<< (8 * (o % 4)))) (BitVec.ofNat 4 (2 ^ (o % 4)))

theorem State.putByte_mine (h : (s.page (o / 256)).owner = 2) (b : Nat) :
    s.putByte o b = s.wr (R.YARD (o - o % 4)) (setBits (s.rd (R.YARD (o - o % 4))) (8 * (o % 4)) 8 b) := by
  have hmine : s.yardMine .core (o / 256) = true := by simp [State.yardMine, yardDevice, h]
  unfold State.putByte State.yardWrite
  rw [if_neg (by decide), if_pos hmine, mergeLanes_single _ _ (Nat.mod_lt o (by decide))]

/-- A byte written is read back, and every other byte is as it was. -/
theorem State.yardByte_putByte (h : (s.page (o / 256)).owner = 2) (b x : Nat) :
    (s.putByte o b).yardByte x = if x = o then b % 256 else s.yardByte x := by
  rw [State.putByte_mine h]
  by_cases hword : x - x % 4 = o - o % 4
  · have hpage : x / 256 = o / 256 := by omega
    have hok : ¬ (s.page (o / 256)).owner = 3 := by rw [h]; decide
    unfold State.yardByte State.yardWord
    rw [State.page_wr_frame, hpage, if_neg hok, if_neg hok, hword, State.rd_wr_same]
    split
    · next hx => rw [hx]; exact getBits_setBits_same _ b (by omega)
    · next hx => exact getBits_setBits_other _ b (by omega)
  · rw [if_neg (fun hx => hword (by rw [hx]))]
    exact State.yardByte_congr (State.page_wr_frame _ _ _ _) (State.rd_wr_other s _ (by unfold R.YARD; omega))

/-- From `s` to `t` only the words of the Yard have changed. -/
structure State.YardOnly (s t : State) : Prop where
  page : ∀ p, t.page p = s.page p
  mb : ∀ j, t.mb j = s.mb j
  rd : ∀ a, a < 0x400000 → t.rd a = s.rd a

theorem State.YardOnly.refl (s : State) : s.YardOnly s := ⟨fun _ => rfl, fun _ => rfl, fun _ _ => rfl⟩

theorem State.YardOnly.trans (h : s.YardOnly t) (k : t.YardOnly u) : s.YardOnly u :=
  ⟨fun p => (k.page p).trans (h.page p), fun j => (k.mb j).trans (h.mb j), fun a ha => (k.rd a ha).trans (h.rd a ha)⟩

theorem State.putByte_yardOnly (h : (s.page (o / 256)).owner = 2) (b : Nat) : s.YardOnly (s.putByte o b) := by
  rw [State.putByte_mine h]
  exact ⟨fun p => State.page_wr_frame _ _ _ p, fun j => State.mb_wr_frame _ _ _ j,
    fun a ha => State.rd_wr_other s _ (by unfold R.YARD; omega)⟩

theorem State.yardPutBytes_cons (s : State) (o b : Nat) (bs : List Nat) :
    s.yardPutBytes .core o (b :: bs) = (s.putByte o b).yardPutBytes .core (o + 1) bs := rfl

theorem State.yardPutBytes_yardOnly (bs : List Nat) : ∀ {s : State} {o : Nat}, (∀ i, i < bs.length → (s.page ((o + i) / 256)).owner = 2) →
    s.YardOnly (s.yardPutBytes .core o bs) := by
  induction bs with
  | nil => exact fun _ => State.YardOnly.refl _
  | cons b bs ih =>
    intro s o h
    have hone : s.YardOnly (s.putByte o b) := State.putByte_yardOnly (h 0 (by simp)) b
    rw [State.yardPutBytes_cons]
    refine hone.trans (ih fun i hi => ?_)
    rw [hone.page, Nat.add_assoc, Nat.add_comm 1 i]
    exact h (i + 1) (by simpa using hi)

/-- Bytes written are read back, and every other byte is as it was. -/
theorem State.yardByte_yardPutBytes (bs : List Nat) : ∀ {s : State} {o : Nat}, (∀ i, i < bs.length → (s.page ((o + i) / 256)).owner = 2) →
    ∀ x, (s.yardPutBytes .core o bs).yardByte x = if o ≤ x ∧ x < o + bs.length then bs.getD (x - o) 0 % 256 else s.yardByte x := by
  induction bs with
  | nil =>
    intro s o _ x
    rw [if_neg (by simp only [List.length_nil]; omega)]
    rfl
  | cons b bs ih =>
    intro s o h x
    have hfirst : (s.page (o / 256)).owner = 2 := h 0 (by simp)
    have hrest : ∀ i, i < bs.length → ((s.putByte o b).page ((o + 1 + i) / 256)).owner = 2 := fun i hi => by
      rw [(State.putByte_yardOnly hfirst b).page, Nat.add_assoc, Nat.add_comm 1 i]
      exact h (i + 1) (by simpa using hi)
    rw [State.yardPutBytes_cons, ih hrest, State.yardByte_putByte hfirst, List.length_cons]
    by_cases hx : x = o
    · rw [if_neg (by omega), if_pos hx, if_pos (by omega), hx, Nat.sub_self, List.getD_cons_zero]
    · rw [if_neg hx]
      by_cases hin : o + 1 ≤ x ∧ x < o + 1 + bs.length
      · rw [if_pos hin, if_pos (by omega), show x - o = (x - (o + 1)) + 1 by omega, List.getD_cons_succ]
      · rw [if_neg hin, if_neg (by omega)]

/-! ### Runs of bytes -/

theorem State.yardBytes_part (s : State) (o : Nat) {k m n : Nat} (h : k + m ≤ n) :
    ((s.yardBytes o n).drop k).take m = s.yardBytes (o + k) m := by
  refine List.ext_getElem (by simp only [State.yardBytes_eq_map, List.length_take, List.length_drop, List.length_map, List.length_range]; omega)
    fun i h1 h2 => ?_
  simp only [State.yardBytes_eq_map, List.getElem_take, List.getElem_drop, List.getElem_map, List.getElem_range, Nat.add_assoc]

theorem State.yardBytes_congr (n : Nat) (h : ∀ i, i < n → t.yardByte (o + i) = s.yardByte (o + i)) : t.yardBytes o n = s.yardBytes o n := by
  rw [State.yardBytes_eq_map, State.yardBytes_eq_map]
  exact List.map_congr_left fun i hi => h i (List.mem_range.1 hi)

/-- A part of the bytes written. -/
theorem State.yardBytes_yardPutBytes_within {bs : List Nat} {k n : Nat} (hp : ∀ i, i < bs.length → (s.page ((o + i) / 256)).owner = 2)
    (hb : ∀ b ∈ bs, b < 256) (hk : k + n ≤ bs.length) : (s.yardPutBytes .core o bs).yardBytes (o + k) n = (bs.drop k).take n := by
  rw [State.yardBytes_eq_map]
  refine List.ext_getElem (by simp only [List.length_take, List.length_drop, List.length_map, List.length_range]; omega) fun i h1 h2 => ?_
  have hi : i < n := by simpa using h1
  have hlt : k + i < bs.length := by omega
  rw [List.getElem_map, List.getElem_range, State.yardByte_yardPutBytes bs hp, if_pos (by omega),
    show o + k + i - o = k + i by omega, List.getElem_take, List.getElem_drop, List.getD_eq_getElem _ _ hlt]
  exact Nat.mod_eq_of_lt (hb _ (List.getElem_mem hlt))

/-- Bytes beside those written. -/
theorem State.yardBytes_yardPutBytes_outside {bs : List Nat} {x n : Nat} (hp : ∀ i, i < bs.length → (s.page ((o + i) / 256)).owner = 2)
    (hx : x + n ≤ o ∨ o + bs.length ≤ x) : (s.yardPutBytes .core o bs).yardBytes x n = s.yardBytes x n :=
  State.yardBytes_congr n fun i hi => by
    rw [State.yardByte_yardPutBytes bs hp, if_neg (by omega)]

theorem bytesOf_lt (n v : Nat) : ∀ b ∈ bytesOf n v, b < 256 := by
  induction n generalizing v with
  | zero => intro b hb; exact absurd hb List.not_mem_nil
  | succ n ih =>
    intro b hb
    rcases List.mem_cons.1 hb with rfl | hb
    · exact Nat.mod_lt v (by decide)
    · exact ih _ b hb

/-! ### The result and header of a slot (R336, R339) -/

/-- The first twelve bytes of a completed slot. -/
def State.slotHeader (s : State) (page status detail : Nat) (result : List Nat) : List Nat :=
  (s.yardPutBytes .core (256 * page + 16) result).yardBytes (256 * page) 6 ++ [status, result.length] ++ bytesOf 4 detail

theorem State.writeResult_mine {page : Nat} (h : (s.page page).owner = 2) (status detail : Nat) (result : List Nat) :
    s.writeResult page status detail result = (s.yardPutBytes .core (256 * page + 16) result).yardPutBytes .core (256 * page)
      (s.slotHeader page status detail result ++ bytesOf 2 (hchk (s.slotHeader page status detail result))) :=
  if_neg (by rw [h]; decide)

theorem State.length_slotHeader (s : State) (page status detail : Nat) (result : List Nat) :
    (s.slotHeader page status detail result).length = 12 := by
  unfold State.slotHeader
  simp [State.yardBytes_eq_map, length_bytesOf]

theorem State.length_header_check (s : State) (page status detail : Nat) (result : List Nat) :
    (s.slotHeader page status detail result ++ bytesOf 2 (hchk (s.slotHeader page status detail result))).length = 14 := by
  rw [List.length_append, State.length_slotHeader, length_bytesOf]

theorem State.slotHeader_lt {page : Nat} (hs : status < 256) (hr : result.length ≤ 240) : ∀ b ∈ s.slotHeader page status detail result, b < 256 := by
  intro b hb
  unfold State.slotHeader at hb
  rw [List.mem_append, List.mem_append, State.yardBytes_eq_map] at hb
  rcases hb with (hb | hb) | hb
  · obtain ⟨i, -, rfl⟩ := List.mem_map.1 hb
    exact getBits_lt _ _ 8
  · simp only [List.mem_cons, List.not_mem_nil, or_false] at hb
    omega
  · exact bytesOf_lt 4 detail b hb

/-- Every byte of a slot's page is of that page. -/
theorem slot_page {page i : Nat} (h : i < 256) : (256 * page + i) / 256 = page := by omega

section
variable {page status detail : Nat} {result : List Nat} (hown : (s.page page).owner = 2) (hs : status < 256) (hr : result.length ≤ 240)
include hown hr

theorem State.result_mine : ∀ i, i < result.length → (s.page ((256 * page + 16 + i) / 256)).owner = 2 := fun i hi => by
  rw [Nat.add_assoc, slot_page (by omega)]
  exact hown

theorem State.header_mine (h : List Nat) (hh : h.length ≤ 16) :
    ∀ i, i < h.length → ((s.yardPutBytes .core (256 * page + 16) result).page ((256 * page + i) / 256)).owner = 2 := fun i hi => by
  rw [(State.yardPutBytes_yardOnly result (State.result_mine hown hr)).page, slot_page (by omega)]
  exact hown

theorem State.writeResult_yardOnly (status detail : Nat) : s.YardOnly (s.writeResult page status detail result) := by
  rw [State.writeResult_mine hown]
  have hlen := s.length_header_check page status detail result
  exact (State.yardPutBytes_yardOnly result (State.result_mine hown hr)).trans
    (State.yardPutBytes_yardOnly _ (State.header_mine hown hr _ (by omega)))

theorem State.writeResult_result (hb : ∀ b ∈ result, b < 256) :
    (s.writeResult page status detail result).yardBytes (256 * page + 16) result.length = result := by
  have hlen := s.length_header_check page status detail result
  rw [State.writeResult_mine hown, State.yardBytes_yardPutBytes_outside (State.header_mine hown hr _ (by omega)) (.inr (by omega)),
    State.yardBytes_yardPutBytes_within (k := 0) (State.result_mine hown hr) hb (by omega), List.drop_zero, List.take_length]

include hs

/-- A part of the header with its check. -/
theorem State.writeResult_header {k n : Nat} (h : k + n ≤ 14) : (s.writeResult page status detail result).yardBytes (256 * page + k) n
    = ((s.slotHeader page status detail result ++ bytesOf 2 (hchk (s.slotHeader page status detail result))).drop k).take n := by
  have hlen := s.length_header_check page status detail result
  rw [State.writeResult_mine hown]
  refine State.yardBytes_yardPutBytes_within (State.header_mine hown hr _ (by omega)) (fun b hb => ?_) (by omega)
  rcases List.mem_append.1 hb with hb | hb
  · exact State.slotHeader_lt hs hr b hb
  · exact bytesOf_lt 2 _ b hb

theorem State.writeResult_status : (s.writeResult page status detail result).yardBytes (256 * page + 6) 2 = [status, result.length] := by
  rw [State.writeResult_header hown hs hr (by decide)]
  unfold State.slotHeader
  rfl

theorem State.writeResult_detail : (s.writeResult page status detail result).yardBytes (256 * page + 8) 4 = bytesOf 4 detail := by
  rw [State.writeResult_header hown hs hr (by decide)]
  unfold State.slotHeader
  rfl

theorem State.writeResult_check : le ((s.writeResult page status detail result).yardBytes (256 * page) 16) 12 2
    = hchk ((s.writeResult page status detail result).yardBytes (256 * page) 16) := by
  have hlen := State.length_slotHeader s page status detail result
  have hfirst : ((s.writeResult page status detail result).yardBytes (256 * page) 16).take 12 = s.slotHeader page status detail result := by
    have h := State.yardBytes_part (s.writeResult page status detail result) (256 * page) (k := 0) (m := 12) (n := 16) (by decide)
    rw [List.drop_zero] at h
    rw [h, State.writeResult_header hown hs hr (by decide), List.drop_zero, List.take_append_of_le_length (by omega),
      List.take_of_length_le (by omega)]
  have hcheck : hchk ((s.writeResult page status detail result).yardBytes (256 * page) 16) = hchk (s.slotHeader page status detail result) := by
    unfold hchk
    rw [hfirst, List.take_of_length_le (by omega)]
  unfold le
  rw [State.yardBytes_part _ _ (by decide), State.writeResult_header hown hs hr (by decide), hcheck, ← hlen, List.drop_left,
    List.take_of_length_le (by rw [length_bytesOf]), ofBytes_bytesOf]
  exact Nat.mod_eq_of_lt (Nat.mod_lt _ (by decide))

end

/-! ### The pulse at the end leaves the slot (R356, R357) -/

/-- From `s` to `t` no page, no other mailbox register than MBX_SLEEP and the holds of MBX_STAT has changed. -/
structure State.PulseLeaves (s t : State) : Prop where
  page : ∀ p, t.page p = s.page p
  rd : ∀ a, a ≠ R.MBX_SLEEP → (∀ c, c < 4 → a ≠ R.MBX_STAT c) → t.rd a = s.rd a
  serving : ∀ m, t.b (F.MBX_STAT_SERVING m) = s.b (F.MBX_STAT_SERVING m)

namespace State.PulseLeaves

theorem refl (s : State) : s.PulseLeaves s := ⟨fun _ => rfl, fun _ _ _ => rfl, fun _ => rfl⟩

theorem trans (h : s.PulseLeaves t) (k : t.PulseLeaves u) : s.PulseLeaves u :=
  ⟨fun p => (k.page p).trans (h.page p), fun a ha hc => (k.rd a ha hc).trans (h.rd a ha hc), fun m => (k.serving m).trans (h.serving m)⟩

theorem same (hp : t.pages = s.pages) (hr : t.regs = s.regs) : s.PulseLeaves t :=
  ⟨fun p => by unfold State.page; rw [hp], fun a _ _ => State.rd_congr hr a, fun _ => State.b_congr hr _⟩

theorem ite {c : Prop} [Decidable c] (ht : s.PulseLeaves t) (hu : s.PulseLeaves u) : s.PulseLeaves (if c then t else u) := by
  split
  · exact ht
  · exact hu

end State.PulseLeaves

theorem State.pulse_pulseLeaves (s : State) (g : Nat) : s.PulseLeaves (s.pulse g) :=
  ⟨State.page_pulse_frame s g, fun a _ _ => State.rd_congr (State.regs_pulse_frame s g) a, fun _ => State.b_congr (State.regs_pulse_frame s g) _⟩

theorem State.setSleep_pulseLeaves (s : State) (v lo len : Nat) : s.PulseLeaves (s.setF ⟨R.MBX_SLEEP, lo, len⟩ v) where
  page := State.page_setF_frame s _ v
  rd _ ha _ := State.rd_setF_other s (x := ⟨R.MBX_SLEEP, lo, len⟩) v ha
  serving m := State.b_setF_other s (x := ⟨R.MBX_SLEEP, lo, len⟩) v
    (.inl (by simp only [F.MBX_STAT_SERVING, R.MBX_STAT, R.MBX_SLEEP]; omega))

theorem State.setHeld_pulseLeaves (s : State) {c : Nat} (hc : c < 4) (v : Nat) : s.PulseLeaves (s.setF (F.MBX_STAT_HELD c) v) where
  page := State.page_setF_frame s _ v
  rd _ _ h := State.rd_setF_other s (x := F.MBX_STAT_HELD c) v (h c hc)
  serving m := State.b_setF_other s (x := F.MBX_STAT_HELD c) (y := F.MBX_STAT_SERVING m) v (.inr (.inr (show 7 + 1 ≤ 12 by decide)))

theorem State.showHold_pulseLeaves (s : State) (c : Nat) : s.PulseLeaves (s.showHold c) := by
  unfold State.showHold
  dsimp only
  split
  · next hc => exact (s.setSleep_pulseLeaves _ _ _).trans (State.setHeld_pulseLeaves _ hc _)
  · exact s.setSleep_pulseLeaves _ _ _

theorem State.setHold_pulseLeaves (s : State) (c : Nat) (x : Hold) : s.PulseLeaves (s.setHold c x) := .same rfl rfl

theorem State.holdOne_pulseLeaves (s : State) (c : Nat) : s.PulseLeaves (s.holdOne c) :=
  (s.setHold_pulseLeaves c _).trans (State.showHold_pulseLeaves _ c)

theorem State.releaseHold_pulseLeaves (s : State) (c : Nat) : s.PulseLeaves (s.releaseHold c) := by
  unfold State.releaseHold
  exact .ite (.refl s) (((s.setHold_pulseLeaves c {}).trans (State.showHold_pulseLeaves _ c)).trans (State.pulse_pulseLeaves _ _))

theorem State.modPulse_pulseLeaves (s : State) (c : Nat) : s.PulseLeaves (s.modPulse c) := by
  have hone := s.holdOne_pulseLeaves c
  have hpend : s.PulseLeaves { (s.holdOne c).setB F.MBX_SLEEP_WAKE_PEND true with wakeLow := true } := by
    refine hone.trans (.trans (t := (s.holdOne c).setB F.MBX_SLEEP_WAKE_PEND true) ?_ (.same rfl rfl))
    exact ⟨State.page_setB_frame _ _ true, fun _ ha _ => State.rd_setB_other _ (x := F.MBX_SLEEP_WAKE_PEND) true ha,
      fun m => State.b_setB_other _ (x := F.MBX_SLEEP_WAKE_PEND) true
        (.inl (by simp only [F.MBX_STAT_SERVING, F.MBX_SLEEP_WAKE_PEND, R.MBX_STAT, R.MBX_SLEEP]; omega))⟩
  unfold State.modPulse
  refine .ite (s.pulse_pulseLeaves _) (.ite (.ite (.ite (hpend.trans (.same rfl rfl)) hpend) hone)
    (.ite (s.pulse_pulseLeaves _) (.ite (hone.trans (State.releaseHold_pulseLeaves _ c)) hone)))

/-! ### The hand-over of pages (R339) -/

theorem State.page_handBack (s : State) (p x : Nat) : (s.handBack p).page x =
    if x = p ∧ (s.page p).owner = 2 then { s.page p with owner := 1, gen := ((s.page p).gen + 1) % 64 } else s.page x := by
  unfold State.handBack
  dsimp only
  by_cases h : (s.page p).owner = 2
  · rw [if_pos h, State.page_setPage]
    simp only [h, and_true]
  · rw [if_neg h, if_neg (fun hx => h hx.2)]

theorem State.page_handBack_other (s : State) {p x : Nat} (h : x ≠ p) : (s.handBack p).page x = s.page x := by
  rw [State.page_handBack, if_neg (fun hx => h hx.1)]

theorem State.mb_handBack (s : State) (p j : Nat) : (s.handBack p).mb j = s.mb j := by
  unfold State.handBack
  dsimp only
  split
  · rfl
  · rfl

theorem State.rd_handBack (s : State) (p a : Nat) : (s.handBack p).rd a = s.rd a := by
  unfold State.handBack
  dsimp only
  split
  · rfl
  · rfl

/-- Pages not in the list stay. -/
theorem State.page_handBacks_other {ps : List Nat} {x : Nat} (h : x ∉ ps) (s : State) : (overList ps State.handBack s).page x = s.page x := by
  induction ps generalizing s with
  | nil => rfl
  | cons p ps ih =>
    obtain ⟨hp, hps⟩ := not_or.1 (fun hx => h (List.mem_cons.2 hx))
    exact (ih hps (s.handBack p)).trans (s.page_handBack_other hp)

/-- A DEVICE page of the list goes to HOST with its next GEN, once. -/
theorem State.page_handBacks {ps : List Nat} {x : Nat} (hx : x ∈ ps) (s : State) (hown : (s.page x).owner = 2) :
    (overList ps State.handBack s).page x = { s.page x with owner := 1, gen := ((s.page x).gen + 1) % 64 } := by
  have hfixed : ∀ (l : List Nat) (u : State), (u.page x).owner ≠ 2 → (overList l State.handBack u).page x = u.page x := fun l u hu => by
    refine overList_keeps (P := fun y => y.page x = u.page x) (fun y p hy => ?_) l rfl
    rw [State.page_handBack]
    split
    · next h =>
      obtain ⟨hp, ho⟩ := h
      rw [← hp, hy] at ho
      exact absurd ho hu
    · exact hy
  induction ps generalizing s with
  | nil => exact absurd hx List.not_mem_nil
  | cons p ps ih =>
    by_cases hp : x = p
    · have hfirst : (s.handBack p).page x = { s.page x with owner := 1, gen := ((s.page x).gen + 1) % 64 } := by
        rw [State.page_handBack, if_pos ⟨hp, hp ▸ hown⟩, hp]
      exact (hfixed ps (s.handBack p) (by rw [hfirst]; exact (by decide : (1 : Nat) ≠ 2))).trans hfirst
    · have hstay := s.page_handBack_other hp
      have hrest := ih ((List.mem_cons.1 hx).resolve_left hp) (s.handBack p) (by rw [hstay]; exact hown)
      rw [hstay] at hrest
      exact hrest

/-! ### The end of a command (R339) -/

/-- What follows the hand-over of a command's PG pages: its slot's page, its mailbox and DONE. -/
def State.slotEnd (s : State) (src page : Nat) (box : Mbx) : State :=
  (((s.handBack page).setMb src box).setB (F.MBX_STAT_SERVING src) false).slotDone src

theorem State.page_slotDone (s : State) (m p : Nat) : (s.slotDone m).page p = s.page p :=
  (overList_leaves (fun x => x.page p) (fun _ _ => State.page_setMb_frame _ _ _ _) _ _).trans (State.page_setF_frame _ _ _ _)

theorem State.rd_slotDone (s : State) (m a : Nat) :
    (s.slotDone m).rd a = (s.setF (F.MBX_DONE_DONE m) (s.f (F.MBX_DONE_DONE m) + 1)).rd a :=
  overList_leaves (fun x => x.rd a) (fun _ _ => State.rd_setMb_frame _ _ _ _) _ _

theorem State.page_slotEnd (s : State) (src page : Nat) (box : Mbx) (p : Nat) : (s.slotEnd src page box).page p = (s.handBack page).page p := by
  unfold State.slotEnd
  rw [State.page_slotDone, State.page_setB_frame, State.page_setMb_frame]

theorem State.rd_slotEnd (s : State) (src page : Nat) (box : Mbx) {a : Nat} (hdone : a ≠ R.MBX_DONE src) (hstat : a ≠ R.MBX_STAT src) :
    (s.slotEnd src page box).rd a = s.rd a := by
  unfold State.slotEnd
  rw [State.rd_slotDone, State.rd_setF_other (x := F.MBX_DONE_DONE src) _ _ hdone,
    State.rd_setB_other (x := F.MBX_STAT_SERVING src) _ false hstat, State.rd_setMb_frame, State.rd_handBack]

theorem State.done_slotEnd (s : State) (src page : Nat) (box : Mbx) :
    (s.slotEnd src page box).f (F.MBX_DONE_DONE src) = (s.f (F.MBX_DONE_DONE src) + 1) % 128 := by
  have hdone : (((s.handBack page).setMb src box).setB (F.MBX_STAT_SERVING src) false).f (F.MBX_DONE_DONE src) = s.f (F.MBX_DONE_DONE src) := by
    refine State.f_of_rd (x := F.MBX_DONE_DONE src) ?_
    rw [State.rd_setB_other (x := F.MBX_STAT_SERVING src) _ false
      (by simp only [F.MBX_DONE_DONE, F.MBX_STAT_SERVING, R.MBX_DONE, R.MBX_STAT]; omega), State.rd_setMb_frame, State.rd_handBack]
  refine (State.f_of_rd (x := F.MBX_DONE_DONE src) (State.rd_slotDone _ _ _)).trans ?_
  rw [hdone]
  exact State.f_setF_same (x := F.MBX_DONE_DONE src) _ _ (show 0 + 7 ≤ 32 by decide)

theorem State.serving_slotEnd (s : State) (src page : Nat) (box : Mbx) : (s.slotEnd src page box).b (F.MBX_STAT_SERVING src) = false := by
  refine (State.b_of_rd (x := F.MBX_STAT_SERVING src) (State.rd_slotDone _ _ _)).trans ?_
  refine (State.b_setF_other (x := F.MBX_DONE_DONE src) (y := F.MBX_STAT_SERVING src) _ _
    (.inl (by simp only [F.MBX_DONE_DONE, F.MBX_STAT_SERVING, R.MBX_DONE, R.MBX_STAT]; omega))).trans ?_
  exact State.b_setB_same (x := F.MBX_STAT_SERVING src) _ false (show 7 + 1 ≤ 32 by decide) rfl

/-- A mailbox's command ends with what it was given, unless a page of it is in QUARANTINE. -/
theorem State.complete_ends {src : Nat} {v : Svc} (hm : src < 4) (hsvc : (s.mb src).svc = some v) (status detail : Nat) (result : List Nat) :
    ∃ st d r box, (s.hurt src v = false → st = status ∧ d = detail ∧ r = result) ∧
      ((overList v.pages State.handBack (s.writeResult v.page st d r)).slotEnd src v.page box).PulseLeaves
        (s.complete src status detail result) := by
  unfold State.complete State.endCommand
  simp only [hsvc]
  rw [if_neg (by omega)]
  refine ⟨_, _, _, _, fun h => ?_, .ite (.ite (State.pulse_pulseLeaves _ _) (State.modPulse_pulseLeaves _ _)) (.refl _)⟩
  simp [h]

theorem State.page_yardPutBytes (s : State) (r : Requester) (o : Nat) (bs : List Nat) (p : Nat) : (s.yardPutBytes r o bs).page p = s.page p := by
  have hone : ∀ (x : State) (o : Nat) (w : Word) (be : BitVec 4), (x.yardWrite r o w be).page p = x.page p := fun x o w be => by
    unfold State.yardWrite
    dsimp only
    split
    · rfl
    · split
      · exact State.page_wr_frame _ _ _ _
      · exact (State.page_logOnceFor_frame _ _ _ _ _ _).trans (State.page_bump_frame _ _ _)
  induction bs generalizing s o with
  | nil => rfl
  | cons b bs ih => exact (ih _ (o + 1)).trans (hone _ _ _ _)

theorem State.page_writeResult (s : State) (page status detail : Nat) (result : List Nat) (p : Nat) :
    (s.writeResult page status detail result).page p = s.page p := by
  unfold State.writeResult
  dsimp only
  split
  · rfl
  · rw [State.page_yardPutBytes, State.page_yardPutBytes]

/-- The end of a command moves none but its own pages. -/
theorem State.page_complete_other {src : Nat} {v : Svc} (hm : src < 4) (hsvc : (s.mb src).svc = some v) (status detail : Nat)
    (result : List Nat) {p : Nat} (hp : p ≠ v.page) (hps : p ∉ v.pages) : (s.complete src status detail result).page p = s.page p := by
  obtain ⟨st, d, r, box, -, hend⟩ := State.complete_ends hm hsvc status detail result
  rw [hend.page, State.page_slotEnd, State.page_handBack_other _ hp, State.page_handBacks_other hps, State.page_writeResult]

/-- A completed slot without pages of its own: what it holds, and what the rings show (R336, R339). -/
theorem State.complete_slot {src : Nat} {v : Svc} {status detail : Nat} {result : List Nat} (hm : src < 4)
    (hsvc : (s.mb src).svc = some v) (hpages : v.pages = []) (hown : (s.page v.page).owner = 2)
    (hr : result.length ≤ 240) :
    (∀ x n, x + n ≤ 256 → (s.complete src status detail result).yardBytes (256 * v.page + x) n
        = (s.writeResult v.page status detail result).yardBytes (256 * v.page + x) n)
      ∧ (s.complete src status detail result).page v.page = { s.page v.page with owner := 1, gen := ((s.page v.page).gen + 1) % 64 }
      ∧ (s.complete src status detail result).f (F.MBX_DONE_DONE src) = (s.f (F.MBX_DONE_DONE src) + 1) % 128
      ∧ (s.complete src status detail result).b (F.MBX_STAT_SERVING src) = false := by
  have hhurt : s.hurt src v = false := by simp [State.hurt, hown, hpages]
  obtain ⟨st, d, r, box, hsame, hend⟩ := State.complete_ends hm hsvc status detail result
  obtain ⟨rfl, rfl, rfl⟩ := hsame hhurt
  rw [hpages] at hend
  replace hend : ((s.writeResult v.page st d r).slotEnd src v.page box).PulseLeaves (s.complete src st d r) := hend
  have hwrite := State.writeResult_yardOnly hown hr st d
  have hhand : (s.complete src st d r).page v.page = { s.page v.page with owner := 1, gen := ((s.page v.page).gen + 1) % 64 } := by
    rw [hend.page, State.page_slotEnd, State.page_handBack, hwrite.page, if_pos ⟨rfl, hown⟩]
  refine ⟨fun x n hx => State.yardBytes_congr n fun i hi => ?_, hhand, ?_, ?_⟩
  · have hp : (256 * v.page + x + i) / 256 = v.page := by omega
    have hrd : (s.complete src st d r).rd (R.YARD (256 * v.page + x + i - (256 * v.page + x + i) % 4))
        = (s.writeResult v.page st d r).rd (R.YARD (256 * v.page + x + i - (256 * v.page + x + i) % 4)) := by
      rw [hend.rd _ (by simp only [R.YARD, R.MBX_SLEEP]; omega) (fun c hc => by simp only [R.YARD, R.MBX_STAT]; omega),
        State.rd_slotEnd _ _ _ _ (by simp only [R.YARD, R.MBX_DONE]; omega) (by simp only [R.YARD, R.MBX_STAT]; omega)]
    unfold State.yardByte State.yardWord
    rw [hp, hhand, hwrite.page, hown, hrd]
    rfl
  · refine (State.f_of_rd (x := F.MBX_DONE_DONE src) (hend.rd _ (by simp only [F.MBX_DONE_DONE, R.MBX_DONE, R.MBX_SLEEP]; omega)
      (fun c hc => by simp only [F.MBX_DONE_DONE, R.MBX_DONE, R.MBX_STAT]; omega))).trans ?_
    rw [State.done_slotEnd, State.f_of_rd (x := F.MBX_DONE_DONE src) (hwrite.rd _ (by simp only [F.MBX_DONE_DONE, R.MBX_DONE]; omega))]
  · rw [hend.serving, State.serving_slotEnd]

/-! ### The commands that answer at once (Table 16.3, R341, R345, R348) -/

theorem State.serves_svc {src op : Nat} {v : Svc} (h : s.serves src op v) : (s.mb src).svc = some v := by
  have hserving := h.1
  unfold State.serving at hserving
  split at hserving
  · next w hw =>
    split at hserving
    · exact hw.trans hserving
    · exact absurd hserving (by simp)
  · exact absurd hserving (by simp)

theorem State.answer_serves {src op : Nat} {v : Svc} {f : State → Svc → List Nat} (h : s.serves src op v) :
    s.answer src op f = s.complete src statusOk 0 (f s v) := State.command_serves h

/-- The pages that YARD_RETURN hands back. -/
def State.returnedPages (s : State) (v : Svc) : List Nat :=
  ((List.range (le v.args 2 2)).map (fun i => le v.args 0 2 + i)).filter (fun p => (s.page p).owner == 2 && !s.keptPage p)

theorem State.mem_returnedPages {v : Svc} {p : Nat} (hlo : le v.args 0 2 ≤ p) (hhi : p < le v.args 0 2 + le v.args 2 2)
    (hown : (s.page p).owner = 2) (hkept : s.keptPage p = false) : p ∈ s.returnedPages v := by
  refine List.mem_filter.2 ⟨List.mem_map.2 ⟨p - le v.args 0 2, List.mem_range.2 (by omega), by omega⟩, ?_⟩
  rw [hown, hkept]
  rfl

/-- A page that is not kept is none of a command in service. -/
theorem State.not_command_page {src p : Nat} {v : Svc} (hm : src < 4) (hsvc : (s.mb src).svc = some v) (hkept : s.keptPage p = false) :
    p ≠ v.page ∧ p ∉ v.pages := by
  unfold State.keptPage at hkept
  have hring := (Bool.or_eq_false_iff.1 hkept).1
  have hnamed := (Bool.or_eq_false_iff.1 (Bool.eq_false_iff.2 (List.any_eq_false.1 hring src (List.mem_range.2 hm)))).2
  rw [hsvc] at hnamed
  obtain ⟨hpage, hpages⟩ := Bool.or_eq_false_iff.1 hnamed
  exact ⟨fun h => by simp [h] at hpage, fun h => by simp [h] at hpages⟩

theorem State.yardReturn_hands {src : Nat} {v : Svc} (hm : src < 4) (hsvc : (s.mb src).svc = some v) {p : Nat}
    (hlo : le v.args 0 2 ≤ p) (hhi : p < le v.args 0 2 + le v.args 2 2) (hown : (s.page p).owner = 2) (hkept : s.keptPage p = false) :
    (s.yardReturn src v).page p = { s.page p with owner := 1, gen := ((s.page p).gen + 1) % 64 } := by
  obtain ⟨hpage, hpages⟩ := State.not_command_page hm hsvc hkept
  have hsvc' : ((overList (s.returnedPages v) State.handBack s).mb src).svc = some v :=
    (congrArg Mbx.svc (overList_leaves (fun x => x.mb src) (fun x p => x.mb_handBack p src) (s.returnedPages v) s)).trans hsvc
  have hend := State.page_complete_other hm hsvc' statusOk 0 (bytesOf 2 (s.returnedPages v).length) hpage hpages
  exact hend.trans (State.page_handBacks (State.mem_returnedPages hlo hhi hown hkept) s hown)

theorem State.learnSave_saves {src : Nat} {v : Svc} (h : 16 ≤ v.pages.length) :
    s.learnSave src v = (((s.readCorr (v.args.getD 0 0) (List.range 1024)).yardPutBytes .core v.pgOff
      ((List.range 1024).flatMap (fun k => bytesOf 4 ((s.readCorr (v.args.getD 0 0) (List.range 1024)).shadowRd
        (R.LRN (v.args.getD 0 0) k)).toNat))).complete src statusOk 0
          [toBit ((s.readCorr (v.args.getD 0 0) (List.range 1024)).unlearned (v.args.getD 0 0))]) :=
  if_neg (by omega)

theorem State.logRead_reads {src : Nat} {v : Svc} {bad : List Nat} (h : (le v.args 2 2 + 15) / 16 ≤ v.pages.length) {u : State}
    (hu : u = overList (bad.filter (fun e => (e + 2048 - le v.args 0 2) % 2048 < le v.args 2 2)) State.logBad s) :
    s.logRead src v bad = (u.yardPutBytes .core v.pgOff ((List.range (le v.args 2 2)).flatMap (fun i => (List.range 4).flatMap (fun w =>
      bytesOf 4 (u.logWord ((le v.args 0 2 + i) % 2048) w).toNat)))).complete src statusOk 0
        (bytesOf 2 (le v.args 2 2) ++ bytesOf 2 ((le v.args 0 2 + le v.args 2 2) % 2048)) := by
  subst hu
  exact if_neg (by omega)

theorem State.msgRead_oldest {src : Nat} {x : Msg} {xs : List Msg} (h : s.tth.msgs = x :: xs) :
    s.msgRead src = State.complete { s with tth := { s.tth with msgs := xs } } src statusOk 0
      ([x.src, x.kind, x.data.length, xs.length] ++ bytesOf 3 x.beat ++ [0] ++ x.data ++ List.replicate (28 - x.data.length) 0) := by
  unfold State.msgRead
  simp only [h]

end

/-- Settles O58: the bytes of the completed slot above, and each reading command's own equation. -/
theorem holtidAnswersCarryTheirResults : Obligations.HoltidAnswersCarryTheirResults := by
  unfold Obligations.HoltidAnswersCarryTheirResults
  refine ⟨fun src v status detail result s hsvc hpages hpage hown hs hr hb => ?slot, fun src v s => ⟨?echo, ?info, ?whl, ?evt, ?vlv, ?ucode,
    ?tth, ?logClear, ?learn, ?logRead, ?msg, ?yard⟩, fun src v s h => congrArg Host.Outcome.next (State.answer_serves h)⟩
  case slot =>
    obtain ⟨hbytes, hhand, hdone, hserving⟩ := State.complete_slot (status := status) (detail := detail) src.isLt hsvc hpages hown hr
    have hbytes0 := hbytes 0 16 (by decide)
    rw [Nat.add_zero] at hbytes0
    refine ⟨?_, ?_, ?_, ?_, hhand, hdone, hserving, s.svc_complete src status detail result⟩
    · exact (hbytes 16 result.length (by omega)).trans (State.writeResult_result hown hr hb)
    · exact (hbytes 6 2 (by decide)).trans (State.writeResult_status hown hs hr)
    · exact (hbytes 8 4 (by decide)).trans (State.writeResult_detail hown hs hr)
    · rw [hbytes0]
      exact State.writeResult_check hown hs hr
  case yard =>
    exact fun h => ⟨s.yardReturn src v, congrArg Host.Outcome.next (State.command_serves h), State.svc_complete _ _ _ _ _,
      fun p => State.yardReturn_hands src.isLt (State.serves_svc h)⟩
  case learn => exact fun h hp => congrArg Host.Outcome.next ((State.command_serves h).trans (State.learnSave_saves hp))
  case logRead => exact fun bad h hp => congrArg Host.Outcome.next ((State.command_serves h).trans (State.logRead_reads hp rfl))
  case msg => exact fun x xs h hx => congrArg Host.Outcome.next ((State.command_serves h).trans (State.msgRead_oldest hx))
  case logClear => exact fun h => congrArg Host.Outcome.next (State.command_serves h)
  all_goals exact fun h => congrArg Host.Outcome.next (State.answer_serves h)

end Sys2Proof.Machine
end
